-- ==== Sys2Proof/Word.lean ====
section
/-!
DEFINITION. The word types of the model (R10: registers are 64 bits wide and little-endian) and the type of its sparse
tables. Nothing here computes; every helper that does lies under Machine/, where a repair can reach it.
-/
namespace Sys2Proof

/-- A byte. -/
abbrev Byte := BitVec 8
/-- A 64-bit register, counter, virtual address or frame time word (R10, R11). -/
abbrev W64 := BitVec 64
/-- A run of bytes in ascending address order. -/
abbrev Bytes := List Byte
/-- A sparse table: keys strictly rising, no entry equal to the table's default (`Tbl.wf` in Machine/Bits.lean). -/
abbrev Tbl (α : Type) := List (Nat × α)

end Sys2Proof
end

