-- ==== Sys2Proof/Syntax.lean ====
section
/-!
DEFINITION. The commands of the module: one constructor of `Instr` for every row of the spec's table of operations and
events, with the row's operands, and the operand types: a fabric packet (R312) and the sensor readings that the
time-driven power and thermal rows take.
-/
namespace Sys2Proof

/-- A fabric packet (R312): the 32-byte header field by field, then the payload. LENGTH is the payload's length. -/
structure Packet where
  /-- TYPE, byte 0 (R313). -/
  ptype   : BitVec 8 := 0
  /-- FLAGS, byte 1: [7:6] VC, [5] DL, [4] WP_ACTIVE, [3] PF. -/
  flags   : BitVec 8 := 0
  /-- DST, bytes 2-3: [13:12] EDGE, [11:0] module address. -/
  dst     : BitVec 16 := 0
  /-- SRC, bytes 4-5, laid out as DST. -/
  src     : BitVec 16 := 0
  /-- DST_CTX, byte 6: destination context, or the feed number. -/
  dstCtx  : BitVec 8 := 0
  /-- SRC_CTX, byte 7. -/
  srcCtx  : BitVec 8 := 0
  /-- LENGTH, bytes 8-9. -/
  length  : BitVec 16 := 0
  /-- LSEQ, bytes 10-11: link sequence number (R308). -/
  lseq    : BitVec 16 := 0
  /-- TXN, bytes 12-15: transaction number. -/
  txn     : BitVec 32 := 0
  /-- ADDR, bytes 16-23. -/
  addr    : W64 := 0
  /-- WP, bytes 24-25: waypoint (R318). -/
  wp      : BitVec 16 := 0
  /-- HOPS, byte 26. -/
  hops    : BitVec 8 := 0
  /-- HCRC, bytes 28-31 (R314). -/
  hcrc    : BitVec 32 := 0
  /-- The payload, 0 to 4,096 bytes. -/
  payload : Bytes := []
deriving DecidableEq, Repr

/-- What the power manager measures for one limiter tick (R362, R365): every power term is a 10 us running average in W,
as an FP64 code. Dies are indexed 0-19 as in R359. -/
structure PowerMeasure where
  /-- Power of each die, indexed as in R359. -/
  pDie   : List W64 := []
  /-- Tile power of each Basalt, from issued passes. -/
  pTile  : List W64 := []
  /-- Input power at the 40 V connector. -/
  pInput : W64 := 0
  /-- Issue fraction that each Basalt used in the previous tick, in 1/64 steps, rounded up (R366). -/
  fAct   : List Nat := []
deriving DecidableEq, Repr

/-- What firmware reads for one telemetry sample (R359). -/
structure Measure where
  /-- Input voltage in mV. -/
  inputMv  : BitVec 32 := 0
  /-- Input current in mA. -/
  inputMa  : BitVec 32 := 0
  /-- Input power in W. -/
  inputW   : BitVec 16 := 0
  /-- Auxiliary supply power in mW. -/
  auxMw    : BitVec 16 := 0
  /-- Coolant inlet temperature in 0.1 degrees C. -/
  inlet    : BitVec 16 := 0
  /-- Coolant outlet temperature in 0.1 degrees C. -/
  outlet   : BitVec 16 := 0
  /-- Power of each die in W, indexed 0-19 as in R359. -/
  dieW     : List (BitVec 16) := []
  /-- Energy since supply in mJ. -/
  energyMj : W64 := 0
  /-- Corrected errors that each stack channel reported since supply, stack by stack (R288). -/
  corrected : List (BitVec 48) := []
deriving DecidableEq, Repr

/-- The commands: one constructor per row of spec/opcode_table.json. `k` names a fetched command of a queue by its fetch
number, `b c` a vector core or a cluster (Basalt and number), `ch req` a mailbox channel (0 the PF, 1-31 a VF, 32 MCTP)
and the request's bytes (R343), `port p` an arriving packet and the port that it arrives on (8 for the module itself). -/
inductive Instr where
  /-- FRAME_BOUNDARY (R23): The phase count wraps from 0xFFFF to 0x0000 and the frame number increments, with FRAME_OUT driven when enabled. -/
  | frameBoundary
  /-- TB_CTRL_WRITE (R29): A PF write to TB_CTRL sets FRAME_OUT_EN and requests a source switch, or leaves SOURCE unchanged for the reserved code. -/
  | tbCtrlWrite (fn : Nat) (v : W64)
  /-- TB_PERIOD_SET_WRITE (R39): A write to TB_PERIOD_SET stores the requested period, or is ignored and sets PERIOD_ERR when out of range. -/
  | tbPeriodSetWrite (fn : Nat) (v : W64)
  /-- TB_PERIOD_AT_WRITE (R40): A write to TB_PERIOD_AT arms, re-arms or cancels a period change at the named frame. -/
  | tbPeriodAtWrite (fn : Nat) (v : W64)
  /-- TICK (R31): A fabric tick packet from the tick parent is corrected, judged against the predicted boundary and accepted, rejected or used for alignment. -/
  | tick (port : Nat) (p : Packet)
  /-- FRAME_IN (R419): A rising edge on FRAME_IN is taken as a frame start and judged under the discipline rules. -/
  | frameIn (highNs : Nat)
  /-- HOLDOVER_ENTRY (R37): No tick accepted by 0x0400 ph past a predicted boundary puts the time base in HOLDOVER, logs TICK_LOST and notifies firmware. -/
  | holdoverEntry
  /-- HOP_DELAY_MEASURE (R35): Once per second and at every link retrain the fabric measures each link's hop delay as half a round trip. -/
  | hopDelayMeasure (port : Nat)
  /-- REGISTER_WRITE (R10): A write to a register without behaviour of its own, such as a W1C status bit, MB_VECTOR or EV_HEAD, updates its writable fields. -/
  | registerWrite (fn off : Nat) (v : W64)
  /-- READ_TO_CLEAR (R10): A read of an RC field returns its value and then clears it. -/
  | readToClear (fn off : Nat)
  /-- DB_TAIL (R48): A doorbell write to DB_TAIL makes ring blocks up to the written tail available, or is ignored when out of range. -/
  | dbTail (fn q : Nat) (v : W64)
  /-- DB_CQHEAD (R68): A write to DB_CQHEAD records completion records consumed and frees completion credits. -/
  | dbCqhead (fn q : Nat) (v : W64)
  /-- COMMAND_FETCH (R56): The command processor fetches a command's blocks and checks its integrity word once all blocks are available. -/
  | commandFetch (q : Nat)
  /-- COMMAND_START (R57): A command starts once its integrity, header wait, barrier, completion slot and engine acceptance conditions all hold. -/
  | commandStart (k : Nat)
  /-- COMMAND_COMPLETION (R68): A started command completes, writes its completion record, performs its header signal and raises its interrupt. -/
  | commandCompletion (k : Nat)
  /-- PREEMPTION (R64): A level 3 command is pre-empted at its engine's next pre-emption point when level 0–2 work becomes ready, and its state is kept. -/
  | preemption (k : Nat)
  /-- PREEMPTED_RESUME (R64): A pre-empted level 3 command resumes when its engine is next free of level 0–2 work. -/
  | preemptedResume (k : Nat)
  /-- WATCHDOG_EXPIRY (R388): The progress watchdog count reaches WDOG_PH and the engine stops the command with HANG. -/
  | watchdogExpiry (k : Nat)
  /-- WATCHDOG_ESCALATION (R388): An engine that has not stopped a watchdog-expired command within its bound leads firmware to start a compute reset with cause HANG_ESCALATED. -/
  | watchdogEscalation (k : Nat)
  /-- NOP (R66): NOP does nothing and carries a header wait or signal. -/
  | nop (k : Nat)
  /-- FENCE (R66): FENCE completes when earlier commands of the queue, the context, or its remote writes, as SCOPE names, are complete. -/
  | fence (k : Nat)
  /-- WAIT_COUNT (R66): WAIT_COUNT completes when its counter reaches THRESHOLD. -/
  | waitCount (k : Nat)
  /-- WAIT_COUNT_TIMEOUT (R66): A WAIT_COUNT whose TIMEOUT is reached first completes with PARTIAL_DEADLINE. -/
  | waitCountTimeout (k : Nat)
  /-- SIGNAL (R66): SIGNAL adds VALUE to, or sets, a counter after earlier commands complete and optionally reports the new value. -/
  | signal (k : Nat)
  /-- WAIT_FRAME (R66): WAIT_FRAME holds its queue until TARGET is reached. -/
  | waitFrame (k : Nat)
  /-- WAIT_FRAME_REACHED (R24): The TARGET of a pending WAIT_FRAME is reached and the command completes. -/
  | waitFrameReached (k : Nat)
  /-- DEBUG_MARK (R66): DEBUG_MARK copies TAG to the completion RESULT and the dump. -/
  | debugMark (k : Nat)
  /-- HINT_POWER (R368): HINT_POWER arms a power ramp schedule reaching LEVEL at TARGET on the named Basalts. -/
  | hintPower (k : Nat)
  /-- HINT_SCHEDULE_START (R367): An armed hint's schedule starts 64 ticks before TARGET and idle clusters begin ballast. -/
  | hintScheduleStart (h : Nat)
  /-- HINT_DISARM (R367): At TARGET plus HOLD_PH the hint disarms and ballast stops. -/
  | hintDisarm (h : Nat)
  /-- COPY (R297): COPY moves rows of bytes or converts elements from source to destination. -/
  | copy (k : Nat)
  /-- COPY_T (R298): COPY_T writes the transpose of a source array. -/
  | copyT (k : Nat)
  /-- GATHER_ROWS (R299): GATHER_ROWS copies listed table rows into packed entries. -/
  | gatherRows (k : Nat)
  /-- SCATTER_ROWS (R299): SCATTER_ROWS writes or adds packed entries into listed table rows in list order. -/
  | scatterRows (k : Nat)
  /-- PREFETCH (R300): PREFETCH fills lines of a source range into the memory-side cache or Mica cache tagged with the context's generation. -/
  | prefetch (k : Nat)
  /-- PREFETCH_CANCEL (R188): A PREFETCH with CANCEL increments the prefetch generation and invalidates lines tagged with the new value. -/
  | prefetchCancel (k : Nat)
  /-- FEED_BIND (R301): FEED_BIND binds or unbinds a frame-slotted ring to a feed, effective at the next frame boundary. -/
  | feedBind (k : Nat)
  /-- FEED_SLOT_CLOSE (R301): At F:DEADLINE_PH the slot of frame F closes, its status record is written and COUNTER is incremented. -/
  | feedSlotClose (f : Nat)
  /-- MA_LOAD (R109): MA_LOAD reads a weight matrix, pre-aligns it and writes it into the shadow banks of its tiles. -/
  | maLoad (k : Nat)
  /-- MA_SWAP (R111): MA_SWAP waits for earlier lane work and exchanges active and shadow banks of the named tiles. -/
  | maSwap (k : Nat)
  /-- MA_RUN (R116): MA_RUN multiplies input vectors by the resident weights along rows. -/
  | maRun (k : Nat)
  /-- MA_RUN_T (R117): MA_RUN_T multiplies streamed vectors by the resident weights read along columns. -/
  | maRunT (k : Nat)
  /-- MA_ELEM (R121): MA_ELEM forms element-wise products of the resident weights and streamed vectors. -/
  | maElem (k : Nat)
  /-- TILE_PASS (R113): A tile pass starts when issue credit, inputs and output room allow, and multiplies one vector by every tile of the layout. -/
  | tilePass (k : Nat)
  /-- BALLAST_PASS (R369): An idle cluster runs a 77-cycle pass of zero inputs to raise power under a hint schedule. -/
  | ballastPass (b c : Nat)
  /-- VX_LAUNCH (R161): VX_LAUNCH starts a program on the named vector cores and completes when every core executes VEXIT. -/
  | vxLaunch (k : Nat)
  /-- VX_FUSED_BWD (R163): VX_FUSED_BWD runs a fixed norm or softmax backward kernel over the rows of a tensor. -/
  | vxFusedBwd (k : Nat)
  /-- ADD (R144): Scalar ADD writes the sum of two scalar registers. -/
  | sAdd (b c : Nat)
  /-- SUB (R144): Scalar SUB writes the difference of two scalar registers. -/
  | sSub (b c : Nat)
  /-- AND (R144): Scalar AND writes the bitwise AND of two registers. -/
  | sAnd (b c : Nat)
  /-- OR (R144): Scalar OR writes the bitwise OR of two registers. -/
  | sOr (b c : Nat)
  /-- XOR (R144): Scalar XOR writes the bitwise XOR of two registers. -/
  | sXor (b c : Nat)
  /-- SHL (R144): Scalar SHL shifts a register left. -/
  | shl (b c : Nat)
  /-- SHR (R144): Scalar SHR shifts a register right logically. -/
  | shr (b c : Nat)
  /-- SRA (R144): Scalar SRA shifts a register right arithmetically. -/
  | sra (b c : Nat)
  /-- MUL (R144): Scalar MUL writes the low 64 bits of a product. -/
  | mul (b c : Nat)
  /-- MULH (R144): Scalar MULH writes the signed high 64 bits of a product. -/
  | mulh (b c : Nat)
  /-- DIV (R144): Scalar DIV writes the truncated signed quotient, all ones for divisor 0. -/
  | div (b c : Nat)
  /-- REM (R144): Scalar REM writes the signed remainder, the dividend for divisor 0. -/
  | rem (b c : Nat)
  /-- SLT (R144): Scalar SLT writes 1 when the first register is less, signed. -/
  | slt (b c : Nat)
  /-- SLTU (R144): Scalar SLTU writes 1 when the first register is less, unsigned. -/
  | sltu (b c : Nat)
  /-- ADDI (R144): ADDI adds a sign-extended immediate to a register. -/
  | addi (b c : Nat)
  /-- LD (R144): LD loads 64 bits from memory into a scalar register. -/
  | ld (b c : Nat)
  /-- ST (R144): ST stores a scalar register's 64 bits to memory. -/
  | st (b c : Nat)
  /-- BNE (R144): BNE branches when two registers differ. -/
  | bne (b c : Nat)
  /-- JAL (R144): JAL writes the return address and jumps. -/
  | jal (b c : Nat)
  /-- FADD (R144): Scalar FADD adds two FP64 or FP32 values. -/
  | fadd (b c : Nat)
  /-- FSUB (R144): Scalar FSUB subtracts two floating-point values. -/
  | fsub (b c : Nat)
  /-- FMUL (R144): Scalar FMUL multiplies two floating-point values. -/
  | fmul (b c : Nat)
  /-- FDIV (R144): Scalar FDIV divides two floating-point values. -/
  | fdiv (b c : Nat)
  /-- FSQRT (R144): Scalar FSQRT takes a floating-point square root. -/
  | fsqrt (b c : Nat)
  /-- FMIN (R144): Scalar FMIN writes the smaller floating-point value. -/
  | fmin (b c : Nat)
  /-- FMAX (R144): Scalar FMAX writes the larger floating-point value. -/
  | fmax (b c : Nat)
  /-- FLT (R144): Scalar FLT writes 1 or 0 for a floating-point less-than. -/
  | flt (b c : Nat)
  /-- FCVT_I (R144): Scalar FCVT.I converts a float to a signed 64-bit integer. -/
  | fcvtI (b c : Nat)
  /-- FCVT_F (R144): Scalar FCVT.F converts a signed 64-bit integer to a float. -/
  | fcvtF (b c : Nat)
  /-- VEXIT (R149): VEXIT stops the core and reports it finished to the launch. -/
  | vexit (b c : Nat)
  /-- VBAR (R155): VBAR waits for the core's stores to be visible, invalidates its data cache and optionally barriers across the launch. -/
  | vbar (b c : Nat)
  /-- CSRR (R138): CSRR reads a control register into a scalar register. -/
  | csrr (b c : Nat)
  /-- CSRW (R138): CSRW writes a control register, ignored for RO registers. -/
  | csrw (b c : Nat)
  /-- SHLI (R144): SHLI shifts a register left by 16 and ORs in an immediate. -/
  | shli (b c : Nat)
  /-- BLT (R144): BLT branches on a signed less-than. -/
  | blt (b c : Nat)
  /-- LDW (R144): LDW loads a sign-extended 32-bit word. -/
  | ldw (b c : Nat)
  /-- STW (R144): STW stores the low 32 bits of a register. -/
  | stw (b c : Nat)
  /-- VFMT (R140): VFMT sets the vector format, writes the strip limit and clears VL and VRESUME. -/
  | vfmt (b c : Nat)
  /-- VSTRIP (R140): VSTRIP sets VL to the requested strip length bounded by the strip limit. -/
  | vstrip (b c : Nat)
  /-- VLD (R153): VLD loads vector elements by unit-stride, strided, indexed or mask addressing. -/
  | vld (b c : Nat)
  /-- VST (R153): VST stores vector elements by unit-stride, strided, indexed or mask addressing. -/
  | vst (b c : Nat)
  /-- VADD (R145): VADD adds integer elements. -/
  | vadd (b c : Nat)
  /-- VSUB (R145): VSUB subtracts integer elements. -/
  | vsub (b c : Nat)
  /-- VMUL (R145): VMUL writes the low bits of integer element products. -/
  | vmul (b c : Nat)
  /-- VMULH (R145): VMULH writes the high bits of signed element products. -/
  | vmulh (b c : Nat)
  /-- VAND (R145): VAND ANDs integer elements bitwise. -/
  | vand (b c : Nat)
  /-- VOR (R145): VOR ORs integer elements bitwise. -/
  | vor (b c : Nat)
  /-- VXOR (R145): VXOR XORs integer elements bitwise. -/
  | vxor (b c : Nat)
  /-- VSHL (R145): VSHL shifts integer elements left. -/
  | vshl (b c : Nat)
  /-- VSHR (R145): VSHR shifts integer elements right logically. -/
  | vshr (b c : Nat)
  /-- VSRA (R145): VSRA shifts integer elements right arithmetically. -/
  | vsra (b c : Nat)
  /-- VMIN (R145): VMIN writes signed element minima. -/
  | vmin (b c : Nat)
  /-- VMAX (R145): VMAX writes signed element maxima. -/
  | vmax (b c : Nat)
  /-- VCMPEQ (R145): VCMPEQ writes a mask of integer element equality. -/
  | vcmpeq (b c : Nat)
  /-- VCMPLT (R145): VCMPLT writes a mask of signed element less-than. -/
  | vcmplt (b c : Nat)
  /-- VXMA (R150): VXMA adds exact widened integer products to the destination with wrapping. -/
  | vxma (b c : Nat)
  /-- VDOT4 (R151): VDOT4 adds four-way I8 dot products into I32 elements. -/
  | vdot4 (b c : Nat)
  /-- VFADD (R146): VFADD adds floating-point elements. -/
  | vfadd (b c : Nat)
  /-- VFSUB (R146): VFSUB subtracts floating-point elements. -/
  | vfsub (b c : Nat)
  /-- VFMUL (R146): VFMUL multiplies floating-point elements. -/
  | vfmul (b c : Nat)
  /-- VFDIV (R146): VFDIV divides floating-point elements. -/
  | vfdiv (b c : Nat)
  /-- VFMA (R146): VFMA forms a fused multiply-add into the destination. -/
  | vfma (b c : Nat)
  /-- VFNMS (R146): VFNMS subtracts a fused product from the destination. -/
  | vfnms (b c : Nat)
  /-- VFMIN (R146): VFMIN writes floating-point element minima. -/
  | vfmin (b c : Nat)
  /-- VFMAX (R146): VFMAX writes floating-point element maxima. -/
  | vfmax (b c : Nat)
  /-- VFCMPLT (R146): VFCMPLT writes a mask of floating-point less-than. -/
  | vfcmplt (b c : Nat)
  /-- VFCMPEQ (R146): VFCMPEQ writes a mask of floating-point equality. -/
  | vfcmpeq (b c : Nat)
  /-- VFXMUL (R150): VFXMUL writes widened products rounded once to the destination. -/
  | vfxmul (b c : Nat)
  /-- VFXMA (R150): VFXMA adds exact widened products to the destination with one rounding. -/
  | vfxma (b c : Nat)
  /-- VFDOT (R151): VFDOT adds exact short-format dot products into FP32 elements. -/
  | vfdot (b c : Nat)
  /-- VFUN (R146): VFUN applies the selected unary function to each element. -/
  | vfun (b c : Nat)
  /-- VFCVT (R146): VFCVT converts elements to another format under the conversion rules. -/
  | vfcvt (b c : Nat)
  /-- VFFOLD (R152): VFFOLD reduces the active elements by ordered sum, tree sum or maximum into vd[0]. -/
  | vffold (b c : Nat)
  /-- VMLOG (R148): VMLOG combines two mask registers bit by bit under a truth table. -/
  | vmlog (b c : Nat)
  /-- VMCOUNT (R148): VMCOUNT counts the set mask bits below VL. -/
  | vmcount (b c : Nat)
  /-- VMLOW (R148): VMLOW writes the lowest set mask bit below VL, or −1. -/
  | vmlow (b c : Nat)
  /-- VSEL (R148): VSEL selects elements of two vectors under a mask. -/
  | vsel (b c : Nat)
  /-- VCOPY (R148): VCOPY copies a vector register group. -/
  | vcopy (b c : Nat)
  /-- VINS (R148): VINS writes a scalar into element 0. -/
  | vins (b c : Nat)
  /-- VEXT (R148): VEXT extracts element 0 into a scalar, sign-extended. -/
  | vext (b c : Nat)
  /-- VELUP (R148): VELUP shifts elements up by a scalar amount. -/
  | velup (b c : Nat)
  /-- VELDN (R148): VELDN shifts elements down by a scalar amount, filling with zero. -/
  | veldn (b c : Nat)
  /-- VPERM (R148): VPERM permutes elements by an index vector. -/
  | vperm (b c : Nat)
  /-- VPACK (R148): VPACK packs mask-selected elements from element 0. -/
  | vpack (b c : Nat)
  /-- VINDEX (R148): VINDEX writes each element's index. -/
  | vindex (b c : Nat)
  /-- VISUM (R148): VISUM adds the active integer elements into vd[0], wrapping. -/
  | visum (b c : Nat)
  /-- VSPLAT (R148): VSPLAT writes a scalar into every element. -/
  | vsplat (b c : Nat)
  /-- VSRD (R156): VSRD waits for and reads vl elements from a tile OUT queue. -/
  | vsrd (b c : Nat)
  /-- VSWR (R156): VSWR waits for room and writes vl elements to a tile IN queue. -/
  | vswr (b c : Nat)
  /-- UPD_RUN (R195): UPD_RUN applies the optimizer recurrence to a parameter tensor in commit groups. -/
  | updRun (k : Nat)
  /-- UPD_ROWS (R201): UPD_ROWS applies the recurrence to listed embedding rows with catch-up of missed steps. -/
  | updRows (k : Nat)
  /-- SLV_PATTERN (R213): SLV_PATTERN builds a pattern image with fingerprint and generation from a compressed-row structure. -/
  | slvPattern (k : Nat)
  /-- SLV_VALUES (R222): SLV_VALUES converts and writes matrix values or right-hand sides into listed systems. -/
  | slvValues (k : Nat)
  /-- SLV_FACTOR (R225): SLV_FACTOR computes preconditioner factor records with pivot regularization. -/
  | slvFactor (k : Nat)
  /-- SLV_SOLVE (R228): SLV_SOLVE runs the chosen iterative method on each listed system and writes solution and status records. -/
  | slvSolve (k : Nat)
  /-- SOLVER_SYSTEM_START (R212): A freed solver lane takes the next system of the list and runs it LOCAL or STREAMED. -/
  | solverSystemStart (k : Nat)
  /-- SLV_STATUS (R249): SLV_STATUS summarizes the status records of a range of systems. -/
  | slvStatus (k : Nat)
  /-- RED_TREE (R259): RED_TREE quantizes the rank's blocks and reduces them over the group's fixed tree. -/
  | redTree (k : Nat)
  /-- RED_LOWRANK (R270): RED_LOWRANK reduces a gradient as two low-rank factor reductions with error feedback. -/
  | redLowrank (k : Nat)
  /-- RED_SCALE (R257): RED_SCALE reduces the ranks' local block exponents with MAX and writes the agreed scales. -/
  | redScale (k : Nat)
  /-- XCHG_TOKENS (R274): XCHG_TOKENS dispatches or returns token rows between source ranks and expert homes in the named phase. -/
  | xchgTokens (k : Nat)
  /-- BCAST (R276): BCAST sends bytes from the root rank to every rank over the tree. -/
  | bcast (k : Nat)
  /-- ALLGATHER_LAYER (R275): ALLGATHER_LAYER gathers each rank's shard into every rank's destination. -/
  | allgatherLayer (k : Nat)
  /-- LAYOUT_EPOCH (R267): LAYOUT_EPOCH waits for earlier collectives, sets the group epoch, resets the tag and installs a staged table. -/
  | layoutEpoch (k : Nat)
  /-- UP (R261): An upward reduction block arrives at a tree node and is combined with its sibling. -/
  | collUp (port : Nat) (p : Packet)
  /-- DOWN (R265): A downward block arrives and is forwarded to children and written to DST. -/
  | collDown (port : Nat) (p : Packet)
  /-- RETRY_REQ (R263): A retry request makes leaves re-read SRC and re-send marked blocks at S + 4. -/
  | retryReq (port : Nat) (p : Packet)
  /-- RETRY_UP (R263): An upward retry block arrives and is combined at the retry scale. -/
  | retryUp (port : Nat) (p : Packet)
  /-- MAX_UP (R257): An upward exponent message arrives and is reduced with MAX. -/
  | maxUp (port : Nat) (p : Packet)
  /-- MAX_DOWN (R257): A downward exponent result arrives and is forwarded and written at SCALE_VA. -/
  | maxDown (port : Nat) (p : Packet)
  /-- DATA_UP (R275): An upward gather or broadcast shard arrives at a tree node. -/
  | dataUp (port : Nat) (p : Packet)
  /-- DATA_DOWN (R275): A downward gather or broadcast shard arrives and is forwarded and written. -/
  | dataDown (port : Nat) (p : Packet)
  /-- TOKEN (R274): A dispatched token row arrives at its expert home and is placed by quota. -/
  | collToken (port : Nat) (p : Packet)
  /-- TOKEN_RET (R274): A returned expert row arrives at its source and is written at its pair index. -/
  | collTokenRet (port : Nat) (p : Packet)
  /-- NODE_DEADLINE (R261): At D_ℓ a tree node sends its block upward, counting missing children as zero. -/
  | nodeDeadline (n : Nat)
  /-- RETRY_DEADLINE (R263): At D_R an incomplete retry makes the root deliver the first-pass block with its SAT mark. -/
  | retryDeadline (n : Nat)
  /-- DELIVERY_DEADLINE (R265): At D_done a rank's collective completes with undelivered blocks left unchanged. -/
  | deliveryDeadline (k : Nat)
  /-- EXCHANGE_DEADLINE (R274): At DEADLINE a token exchange completes, zeroing unfilled rows and counting late pairs. -/
  | exchangeDeadline (k : Nat)
  /-- WRITE (R311): A WRITE packet for this module is translated in the destination context and answered ACK or NACK. -/
  | pktWrite (port : Nat) (p : Packet)
  /-- READ_REQ (R311): A READ_REQ packet is translated and answered with READ_RESP or NACK. -/
  | readReq (port : Nat) (p : Packet)
  /-- READ_RESP (R311): A READ_RESP completes the requester's read access. -/
  | readResp (port : Nat) (p : Packet)
  /-- ACK (R311): An ACK completes a remote write at its source. -/
  | pktAck (port : Nat) (p : Packet)
  /-- NACK (R311): A NACK ends the source command with TRANSLATION_FAULT, CTX_GONE or FENCED. -/
  | pktNack (port : Nat) (p : Packet)
  /-- CTR_ADD (R176): A forwarded counter add arrives and is applied to the peer's OWN_CTR, or held while dozing. -/
  | ctrAdd (port : Nat) (p : Packet)
  /-- CTR_ADD_RESEND (R394): A fenced forwarded add is resent every 1 ms in order until acknowledged. -/
  | ctrAddResend (e : Nat)
  /-- FEED (R323): A FEED packet from an edge port is accepted into its slot or dropped. -/
  | pktFeed (port : Nat) (p : Packet)
  /-- FEED_DB (R322): A host write to FEED_DB reports a slot's bytes for frame F or F + 1, or is ignored. -/
  | feedDb (fn f : Nat) (v : W64)
  /-- PROBE (R35): A link-local PROBE is answered with PROBE_REPLY for delay measurement. -/
  | pktProbe (port : Nat) (p : Packet)
  /-- PROBE_REPLY (R35): A PROBE_REPLY completes a round-trip hop delay measurement. -/
  | pktProbeReply (port : Nat) (p : Packet)
  /-- PACKET_FORWARD (R316): A router checks a transit packet's header and forwards it by dimension order or waypoint, or drops it. -/
  | packetForward (port : Nat) (p : Packet)
  /-- LINK_REPLAY (R308): An uncorrectable codeword or header failure makes the receiver discard and request replay. -/
  | linkReplay (port : Nat) (lseq : BitVec 16) (hdrFail : Bool)
  /-- LANE_RETUNE (R307): A lane whose averaged pre-FEC error ratio exceeds the threshold is retuned. -/
  | laneRetune (port lane : Nat) (errRatioE9 : Nat)
  /-- LANE_RETUNE_DONE (R307): A lane retune ends, leaving the lane in service or disabled and the port re-measured. -/
  | laneRetuneDone (port : Nat) (good : Bool)
  /-- LINK_DOWN (R319): A link goes DOWN and its queued and later packets are dropped. -/
  | linkDown (port : Nat)
  /-- LINK_UP (R329): A torus link completes training and sends HELLO. -/
  | linkUp (port : Nat)
  /-- HELLO (R329): A HELLO from a neighbour gives its address, sizes and pod manager. -/
  | hello (port : Nat) (p : Packet)
  /-- JOIN (R329): A pod manager receives JOIN and replies with address, sizes, tick parent and routes. -/
  | mgmtJoin (port : Nat) (p : Packet)
  /-- JOIN_ACK (R329): A module receives JOIN_ACK and switches its time base to FABRIC. -/
  | joinAck (port : Nat) (p : Packet)
  /-- HEARTBEAT (R330): A pod manager receives a member's HEARTBEAT. -/
  | heartbeat (port : Nat) (p : Packet)
  /-- HEARTBEAT_SEND (R330): Every 10 ms a member sends HEARTBEAT to its pod manager. -/
  | heartbeatSend
  /-- MODULE_LOST (R330): After 30 ms without heartbeat the manager declares the module lost, installs route-around and sends RANK_LOST. -/
  | moduleLost (addr : BitVec 12)
  /-- LEAVE_MESSAGE (R330): A manager receives LEAVE and acts as for a lost module without waiting. -/
  | leaveMessage (port : Nat) (p : Packet)
  /-- BEACON (R332): A member receives a new manager's BEACON and sends JOIN to it. -/
  | beacon (port : Nat) (p : Packet)
  /-- BEACON_SEND (R332): Every 100 ms a newly set pod manager sends BEACON. -/
  | beaconSend
  /-- RESET_NOTICE (R331): A pod manager receives RESET_NOTICE and begins sending RANK_RESET to affected modules. -/
  | resetNotice (port : Nat) (p : Packet)
  /-- RANK_RESET (R401): A module receives RANK_RESET and posts it to each affected context's function. -/
  | rankReset (port : Nat) (p : Packet)
  /-- RANK_LOST (R401): A module receives RANK_LOST, posts it and moves stage-queue ends to PEER_LOST. -/
  | rankLost (port : Nat) (p : Packet)
  /-- TIME_DEGRADED (R401): A module receives TIME_DEGRADED and posts it to affected contexts. -/
  | timeDegraded (port : Nat) (p : Packet)
  /-- TICK_LOST_REPORT (R326): A pod manager receives TICK_LOST_REPORT and checks the module's path. -/
  | tickLostReport (port : Nat) (p : Packet)
  /-- HOLDOVER_TIMEOUT (R326): A module 10 s in HOLDOVER makes the manager send TIME_DEGRADED to affected modules. -/
  | holdoverTimeout (addr : BitVec 12)
  /-- ROUTE_SET (R318): ROUTE_SET writes or clears route-around table entries. -/
  | routeSet (port : Nat) (p : Packet)
  /-- GROUP_INSTALL (R353): GROUP_INSTALL stores group record fields and table entries on a member module. -/
  | groupInstall (port : Nat) (p : Packet)
  /-- GROUP_STAGE (R353): GROUP_STAGE stores a staged rank table for a later epoch. -/
  | groupStage (port : Nat) (p : Packet)
  /-- GROUP_REMOVE (R353): GROUP_REMOVE removes a group record. -/
  | groupRemove (port : Nat) (p : Packet)
  /-- PERIOD_ARM (R326): PERIOD_ARM arms a period change on a member module. -/
  | periodArm (port : Nat) (p : Packet)
  /-- MGMT_ACK (R352): MGMT_ACK acknowledges a management message by MSEQ. -/
  | mgmtAck (port : Nat) (p : Packet)
  /-- MGMT_RESEND (R352): An unacknowledged management message is resent every 5 ms up to four times. -/
  | mgmtResend (mseq : BitVec 32)
  /-- IDENTIFY (R349): IDENTIFY returns ordering number, stepping, variant, firmware and capacity data. -/
  | identify (ch : Nat) (req : Bytes)
  /-- STATUS_QUERY (R348): STATUS_QUERY returns state, operating point, cap, reset count and context counts. -/
  | statusQuery (ch : Nat) (req : Bytes)
  /-- TELEMETRY_READ (R359): TELEMETRY_READ returns a telemetry section. -/
  | telemetryRead (ch : Nat) (req : Bytes)
  /-- LOG_READ (R409): LOG_READ returns error log entries or dump area units. -/
  | logRead (ch : Nat) (req : Bytes)
  /-- MICA_SLICES (R293): MICA_SLICES sets which Mica slices serve as cache and which as scratchpad. -/
  | micaSlices (ch : Nat) (req : Bytes)
  /-- BAR2_SET (R339): BAR2_SET sets the PF BAR2 offset or a VF's BAR2 context and base. -/
  | bar2Set (ch : Nat) (req : Bytes)
  /-- CTX_CREATE (R348): CTX_CREATE makes a context ACTIVE with counters, ARITH_MODE and watchdog limit. -/
  | ctxCreate (ch : Nat) (req : Bytes)
  /-- CTX_DESTROY (R402): CTX_DESTROY makes the context DRAINING and starts its drain. -/
  | ctxDestroy (ch : Nat) (req : Bytes)
  /-- CTX_DRAINED (R402): A drain completes, the context becomes FREE, pages return to the pool, and CTX_DRAINED and MSG_DONE are posted. -/
  | ctxDrained (c : Nat)
  /-- CTX_NUMBER_RELEASE (R403): 100 ms after a drain the freed context number becomes available again. -/
  | ctxNumberRelease (c : Nat)
  /-- CTX_QUERY (R348): CTX_QUERY returns context state and ARITH_STICKY, clearing it on request. -/
  | ctxQuery (ch : Nat) (req : Bytes)
  /-- COUNTER_GRANT (R59): COUNTER_GRANT grants and zeroes contiguous counter blocks. -/
  | counterGrant (ch : Nat) (req : Bytes)
  /-- QUEUE_CREATE (R46): QUEUE_CREATE creates a queue and returns its global number. -/
  | queueCreate (ch : Nat) (req : Bytes)
  /-- QUEUE_DESTROY (R348): QUEUE_DESTROY stops fetching, lets started commands complete and discards unstarted blocks. -/
  | queueDestroy (ch : Nat) (req : Bytes)
  /-- TILE_GRANT (R104): TILE_GRANT grants clusters EXCLUSIVE or SPLIT, or releases them, freeing banks whose owner changes. -/
  | tileGrant (ch : Nat) (req : Bytes)
  /-- MAP (R350): MAP maps consecutive local or remote pages with attributes and cache hints, all or none. -/
  | mapPages (ch : Nat) (req : Bytes)
  /-- UNMAP (R428): UNMAP removes consecutive mappings after every translated access completes. -/
  | unmap (ch : Nat) (req : Bytes)
  /-- MEM_QUERY (R348): MEM_QUERY returns the virtual addresses of pages named by MEM_SHRINK. -/
  | memQuery (ch : Nat) (req : Bytes)
  /-- CHANNEL_MAPOUT (R303): CHANNEL_MAPOUT starts a live map-out of a memory channel. -/
  | channelMapout (ch : Nat) (req : Bytes)
  /-- MAPOUT_COMPLETE (R303): The controller finishes copying the channel's granules, the channel enters OUT and the new capacity is reported. -/
  | mapoutComplete (stack chan : Nat)
  /-- STAGEQ_CREATE (R175): STAGEQ_CREATE creates a stage-queue end with its counters and peer. -/
  | stageqCreate (ch : Nat) (req : Bytes)
  /-- STAGEQ_QUERY (R178): STAGEQ_QUERY returns an end's state and WAIT_PH, clearing it on request. -/
  | stageqQuery (ch : Nat) (req : Bytes)
  /-- STAGEQ_DESTROY (R348): STAGEQ_DESTROY removes a stage-queue end. -/
  | stageqDestroy (ch : Nat) (req : Bytes)
  /-- GROUP_SET (R250): GROUP_SET installs, stages or removes a group record on every member module. -/
  | groupSet (ch : Nat) (req : Bytes)
  /-- GROUP_QUERY (R348): GROUP_QUERY returns a group's epoch, size and counts, clearing them on request. -/
  | groupQuery (ch : Nat) (req : Bytes)
  /-- ROLE_SET (R327): ROLE_SET sets the module's fabric role, refused for ineligible coordinates. -/
  | roleSet (ch : Nat) (req : Bytes)
  /-- LEAVE (R330): The mailbox LEAVE makes the module leave its pod as a planned departure. -/
  | leave (ch : Nat) (req : Bytes)
  /-- POWER_CAP_SET (R361): POWER_CAP_SET sets the board limit or host cap and reports CAP_UNMET below the floor. -/
  | powerCapSet (ch : Nat) (req : Bytes)
  /-- OPPOINT_SET (R370): OPPOINT_SET changes the operating point while no host context exists. -/
  | oppointSet (ch : Nat) (req : Bytes)
  /-- WAKE_SET (R381): WAKE_SET sets or cancels the RTC or frame-scheduled wake alarm. -/
  | wakeSet (ch : Nat) (req : Bytes)
  /-- FW_QUERY (R348): FW_QUERY returns each flash slot's version and state. -/
  | fwQuery (ch : Nat) (req : Bytes)
  /-- FW_STAGE (R355): FW_STAGE writes and verifies an image into the inactive flash slot. -/
  | fwStage (ch : Nat) (req : Bytes)
  /-- FW_ACTIVATE (R356): FW_ACTIVATE activates a valid slot live or at the next restart. -/
  | fwActivate (ch : Nat) (req : Bytes)
  /-- HANDOVER (R356): At a heartbeat boundary the running firmware saves state and the new firmware adopts it within 15 ms. -/
  | handover
  /-- FW_ACTIVATED (R356): When the last old-microcode command completes, the slot becomes TRIAL and ACTIVE and FW_ACTIVATED is posted. -/
  | fwActivated
  /-- FW_COMMIT (R357): FW_COMMIT makes the TRIAL slot permanent. -/
  | fwCommit (ch : Nat) (req : Bytes)
  /-- RECALIBRATE (R358): RECALIBRATE retrains the named stacks and ports at once. -/
  | recalibrate (ch : Nat) (req : Bytes)
  /-- MAILBOX_RESERVED_CODE (R346): A request with a reserved code or a wrong LENGTH is refused with BAD_MESSAGE. -/
  | mailboxReservedCode (ch : Nat) (req : Bytes)
  /-- MSG_DONE (R345): A deferred request is carried out and a MSG_DONE event with its final status is posted. -/
  | msgDone (n : Nat)
  /-- SET_ENDPOINT_ID (R360): The MCTP control message Set Endpoint ID assigns the endpoint ID. -/
  | setEndpointId (msg : Bytes)
  /-- GET_ENDPOINT_ID (R360): The MCTP control message Get Endpoint ID returns the endpoint ID. -/
  | getEndpointId (msg : Bytes)
  /-- GET_MCTP_VERSION_SUPPORT (R360): The MCTP control message Get MCTP Version Support returns supported versions. -/
  | getMctpVersionSupport (msg : Bytes)
  /-- GET_MESSAGE_TYPE_SUPPORT (R360): The MCTP control message Get Message Type Support returns supported message types. -/
  | getMessageTypeSupport (msg : Bytes)
  /-- GET_VENDOR_DEFINED_MESSAGE_SUPPORT (R360): The MCTP control message Get Vendor Defined Message Support returns the vendor-defined support. -/
  | getVendorDefinedMessageSupport (msg : Bytes)
  /-- BAR2_ACCESS (R339): A host BAR2 access reaches the interleaved window or a VF context's mappings, with all ones or dropped writes when unmapped. -/
  | bar2Access (fn : Nat) (write : Bool) (off len : Nat) (data : Bytes)
  /-- FLR (R336): A Function Level Reset destroys the function's contexts and returns its mailbox and BAR2 to defaults. -/
  | flr (fn : Nat)
  /-- VF_DISABLE (R336): Clearing VF Enable or disabling a VF ends the contexts that the VFs own. -/
  | vfDisable (fn : Nat)
  /-- PERST (R423): PERST# resets only the PCIe endpoint and configuration space while work continues. -/
  | perst
  /-- AUX_SUPPLY_VALID (R416): AUX_3V3 becomes valid; the always-on domain starts, the straps are read and the RTC counts from zero. -/
  | auxSupplyValid (straps : BitVec 3)
  /-- AUX_SUPPLY_REMOVAL (R407): Removal of AUX_3V3 loses the error log and the always-on domain. -/
  | auxSupplyRemoval
  /-- START_UP (R340): The 40 V input becomes valid with auxiliary power and the boot ROM verifies and starts firmware. -/
  | startUp (goodA goodB calOk : Bool)
  /-- START_UP_MAILBOX (R340): At 900 ms the mailbox answers and calibration and map-out application begin. -/
  | startUpMailbox
  /-- START_UP_FULL_OPERATION (R340): Calibration finishes, the frame counter starts from 0 and STATE becomes READY. -/
  | startUpFullOperation
  /-- SUPPLY_REMOVAL (R417): Removal of the 40 V input loses memory and compute and fabric state. -/
  | supplyRemoval
  /-- CRITICAL_TEMP (R375): The FL0 comparator stops every converter except auxiliary, logs the event and drives THERMTRIP_N. -/
  | criticalTemp (die : Nat) (temp : BitVec 16)
  /-- THERMAL_SAMPLE (R374): Every 1 ms firmware samples die sensors and adjusts each Basalt's thermal limit. -/
  | thermalSample (temps : List Int)
  /-- TELEMETRY_SAMPLE (R359): Every 1 ms firmware samples power, temperature and counter telemetry. -/
  | telemetrySample (m : Measure)
  /-- LIMITER_TICK (R365): Every 312.5 ns the power manager sets each Basalt's issue fraction from budget, thermal and ramp limits. -/
  | limiterTick (m : PowerMeasure)
  /-- CAP_UNMET (R372): An input over the cap or a Basalt held at fcap 0 for a whole 1 ms, or its absence for 1 s, posts CAP_UNMET entered or cleared. -/
  | capUnmet (inputW : Nat)
  /-- CHANNEL_RETRAIN (R358): A memory channel retrains after an 8 °C change or every 10 minutes, entering DEGRADED on failure. -/
  | channelRetrain (stack chan : Nat) (deciC : Int) (good : Bool)
  /-- ENTER_IDLE (R378): After 2 ms idle in ACTIVE the module gates compute clocks and enters IDLE. -/
  | enterIdle
  /-- ENTER_DOZE (R378): After 500 ms in IDLE the module saves state, clamps and gates compute power and enters DOZE. -/
  | enterDoze
  /-- ENTER_SLEEP (R378): After 60 s in DOZE the stacks enter self-refresh and caches are written back and gated. -/
  | enterSleep
  /-- RTC_ALARM (R381): The RTC alarm time is reached and the module wakes, or asserts WAKE_N without 40 V. -/
  | rtcAlarm
  /-- FRAME_WAKE (R381): The frame-scheduled wake begins the exit early so the module is ACTIVE at TIME. -/
  | frameWake
  /-- EXIT_TO_ACTIVE (R380): A power-state exit completes with state restored and held doorbells and adds applied. -/
  | exitToActive
  /-- UNIT_ERROR (R384): A parity mismatch in a unit's control state is detected and starts a compute reset. -/
  | unitError (die : BitVec 8) (k : Option Nat)
  /-- RESET_FENCE (R393): The fence stops fetching and new requests, drains memory requests and NACKs incoming requests with FENCED. -/
  | resetFence
  /-- RESET_DUMP (R404): Firmware writes the module image and the named context's image to the dump area. -/
  | resetDump
  /-- RESET_COMPUTE_DOMAIN (R392): The compute domain is reset, microcode reloaded and counters, queues and contexts restored. -/
  | resetComputeDomain
  /-- RESET_RESUME (R397): At resume commands are replayed, aborted or started, RESET_END is logged and CTX_FAULT posted for named contexts. -/
  | resetResume
  /-- HANDOVER_END (R356): The new firmware has adopted the saved state, HANDOVER ends, latched mailbox requests are answered and a compute reset that was due may start. -/
  | handoverEnd
  /-- TRIAL_REVERSION (R357): A TRIAL image that has not reached MAILBOX within 2 s of starting makes the boot ROM start the other slot and log the reversion. -/
  | trialReversion
  /-- THERMTRIP_RELEASE (R422): After the 40 V input has been absent for at least 1 s following a critical-temperature shutdown, THERMTRIP_N is released and the module may start again. -/
  | thermtripRelease
  /-- REFRESH_RATE_CHANGE (R289): The memory controller doubles or restores the refresh rate when its stack temperature sensor crosses 85 °C. -/
  | refreshRateChange (stack : Nat) (deciC : Int)
  /-- OVERRUN (R344): A write to the request buffer or GO while BUSY is 1 is ignored and sets MB_STATUS.OVERRUN. -/
  | overrun (ch : Nat) (req : Bytes)
  /-- PERST_DEASSERTION (R423): PERST# is released, the endpoint retrains, and doorbell, mailbox and BAR2 accesses and pending MSI-X messages resume. -/
  | perstDeassertion
deriving DecidableEq, Repr

end Sys2Proof
end

