-- ==== Sys2Proof/Decode.lean ====
section
/-!
DEFINITION. The words of the commands. The table of operations and events gives no row any bits, so no word spells a command.
-/
namespace Sys2Proof

/-- The command that a word of the table spells: none, for the table gives bits to no row. -/
def decodeTableWord (_nbits _w : Nat) : Option Instr := none

end Sys2Proof
end

