-- ==== Sys2Proof/Machine/Bits.lean ====
section
/-!
DEFINITION. Byte order (R10), bit fields, the cyclic redundancy checks of the spec (R54, R214, R314), sparse tables and
the canonical form of memory.
-/
namespace Sys2Proof.Machine

/-! ### Byte order and fields (R10) -/

/-- The n low bytes of x, least significant first. -/
def leBytes : Nat → Nat → Bytes
  | 0, _ => []
  | n + 1, x => BitVec.ofNat 8 x :: leBytes n (x / 256)

/-- The number whose little-endian bytes are bs. -/
def leNat : Bytes → Nat
  | [] => 0
  | b :: bs => b.toNat + 256 * leNat bs

/-- Bytes off to off + len - 1 as a number; absent bytes read as zero. -/
def field (bs : Bytes) (off len : Nat) : Nat := leNat ((bs.drop off).take len)

/-- Bits hi to lo of x. -/
def bits (x hi lo : Nat) : Nat := x / 2 ^ lo % 2 ^ (hi + 1 - lo)

/-- Bit i of x. -/
def bitOf (x i : Nat) : Bool := x / 2 ^ i % 2 == 1

/-- A Bool as 0 or 1. -/
def b2n (b : Bool) : Nat := if b then 1 else 0

/-- bs padded with zeros, or cut, to n bytes. -/
def padTo (n : Nat) (bs : Bytes) : Bytes := (bs ++ List.replicate (n - bs.length) 0).take n

/-- Whether every byte of bs at the given offsets (offset, length) is zero. -/
def zeroAt (bs : Bytes) (ranges : List (Nat × Nat)) : Bool :=
  ranges.all fun r => field bs r.1 r.2 == 0

/-- The ASCII bytes of a string. -/
def ascii (t : String) : Bytes := t.toList.map fun c => BitVec.ofNat 8 c.toNat

/-- x rounded up to a multiple of n. -/
def roundUp (n x : Nat) : Nat := (x + n - 1) / n * n

/-- The quotient rounded up. -/
def ceilDiv (x n : Nat) : Nat := (x + n - 1) / n

/-- x added to a saturating counter of width w. -/
def satAdd {w : Nat} (x : BitVec w) (n : Nat) : BitVec w :=
  if 2 ^ w ≤ x.toNat + n then BitVec.ofNat w (2 ^ w - 1) else BitVec.ofNat w (x.toNat + n)

/-- Floor of the base-2 logarithm, 0 for 0. -/
def log2f (n : Nat) : Nat := Nat.log2 n

/-- Ceiling of the base-2 logarithm, 0 for 0 and 1. -/
def log2c (n : Nat) : Nat := if n ≤ 1 then 0 else Nat.log2 (n - 1) + 1

/-- Two's complement value of the w low bits of x. -/
def signed (w x : Nat) : Int :=
  let y := x % 2 ^ w
  if 2 ^ w ≤ 2 * y then (y : Int) - (2 ^ w : Nat) else (y : Int)

/-- The w-bit two's complement code of x. -/
def wrapInt (w : Nat) (x : Int) : Nat := (x % ((2 ^ w : Nat) : Int)).toNat

/-! ### Checks -/

/-- One byte of a CRC fed most significant bit first: width 16, polynomial 0x1021 (R54). -/
def crc16Byte (r : BitVec 16) (b : Byte) : BitVec 16 :=
  (List.range 8).foldl (fun r _ => if r.msb then (r <<< 1) ^^^ 0x1021 else r <<< 1) (r ^^^ (b.setWidth 16 <<< 8))

/-- CRC-16/XMODEM (R54). -/
def crc16 (bs : Bytes) : BitVec 16 := bs.foldl crc16Byte 0

/-- The integrity word of a command's blocks: bytes 14 and 15 taken as zero (R55). -/
def integrity (blocks : Bytes) : BitVec 16 := crc16 (blocks.take 14 ++ [0, 0] ++ blocks.drop 16)

/-- One byte of a reflected CRC with the reflected polynomial p. -/
def crcReflByte {w : Nat} (p : BitVec w) (r : BitVec w) (b : Byte) : BitVec w :=
  (List.range 8).foldl (fun r _ => if r.getLsbD 0 then (r >>> 1) ^^^ p else r >>> 1) (r ^^^ b.setWidth w)

/-- CRC-32C (R314): polynomial 0x1EDC6F41 reflected is 0x82F63B78. -/
def crc32c (bs : Bytes) : BitVec 32 := (bs.foldl (crcReflByte 0x82F63B78) 0xFFFFFFFF) ^^^ 0xFFFFFFFF

/-- CRC-64/XZ (R214): polynomial 0x42F0E1EBA9EA3693 reflected is 0xC96C5795D7870F42. -/
def crc64 (bs : Bytes) : BitVec 64 :=
  (bs.foldl (crcReflByte 0xC96C5795D7870F42) 0xFFFFFFFFFFFFFFFF) ^^^ 0xFFFFFFFFFFFFFFFF

/-! ### Sparse tables -/

/-- The entry at key k, if listed. -/
def Tbl.find? {α : Type} (t : Tbl α) (k : Nat) : Option α :=
  match t with
  | [] => none
  | (j, a) :: t => if j = k then some a else Tbl.find? t k

/-- The entry at key k, or the default d. -/
def Tbl.get {α : Type} (d : α) (t : Tbl α) (k : Nat) : α := (Tbl.find? t k).getD d

/-- The table without key k. -/
def Tbl.del {α : Type} (t : Tbl α) (k : Nat) : Tbl α :=
  match t with
  | [] => []
  | (j, a) :: t => if j = k then Tbl.del t k else (j, a) :: Tbl.del t k

/-- The table with a at key k, keys kept rising. -/
def Tbl.ins {α : Type} (t : Tbl α) (k : Nat) (a : α) : Tbl α :=
  match t with
  | [] => [(k, a)]
  | (j, b) :: t => if k < j then (k, a) :: (j, b) :: t else if k = j then (k, a) :: t else (j, b) :: Tbl.ins t k a

/-- The table with a at key k, the default d not listed. -/
def Tbl.put {α : Type} [DecidableEq α] (d : α) (t : Tbl α) (k : Nat) (a : α) : Tbl α :=
  if a = d then Tbl.del t k else Tbl.ins t k a

/-- Keys strictly rising. -/
def Tbl.rising {α : Type} (t : Tbl α) : Bool :=
  match t with
  | [] => true
  | [_] => true
  | (j, _) :: (k, b) :: t => decide (j < k) && Tbl.rising ((k, b) :: t)

/-- The canonical form: keys strictly rising, no entry equal to the default. -/
def Tbl.wf {α : Type} [DecidableEq α] (d : α) (t : Tbl α) : Bool := Tbl.rising t && t.all fun e => !decide (e.2 = d)

/-! ### Memory -/

/-- Canonical form of memory: a list of canonical address and byte. An unlisted byte reads as zero (log entry 2). -/
def Memory.wf (m : List Host.Cell) : Bool := Tbl.wf (0 : Byte) m

/-- The byte at a canonical address. -/
def memRead (m : List Host.Cell) (a : Nat) : Byte := Tbl.get (0 : Byte) m a

/-- Write one byte. -/
def memWrite (m : List Host.Cell) (a : Nat) (b : Byte) : List Host.Cell := Tbl.put (0 : Byte) m a b

/-- Read n bytes from a. -/
def memReadN (m : List Host.Cell) : Nat → Nat → Bytes
  | _, 0 => []
  | a, n + 1 => memRead m a :: memReadN m (a + 1) n

/-- Write bytes from a on. -/
def memWriteN (m : List Host.Cell) : Nat → Bytes → List Host.Cell
  | _, [] => m
  | a, b :: bs => memWriteN (memWrite m a b) (a + 1) bs

/-- Every byte of [a, a + n) zero. -/
def memClear (m : List Host.Cell) (a n : Nat) : List Host.Cell :=
  m.filter fun c => decide (c.1 < a) || decide (a + n ≤ c.1)

/-! ### Lists -/

/-- Change the element at index i. -/
def modAt {α : Type} (l : List α) (i : Nat) (f : α → α) : List α :=
  match l, i with
  | [], _ => []
  | a :: l, 0 => f a :: l
  | a :: l, i + 1 => a :: modAt l i f

/-- The elements of l in chunks of n, the last one perhaps shorter (fuel: the length of l). -/
def chunksAux {α : Type} (n : Nat) : Nat → List α → List (List α)
  | 0, _ => []
  | _ + 1, [] => []
  | fuel + 1, l => l.take n :: chunksAux n fuel (l.drop n)

/-- The elements of l in chunks of n. -/
def chunks {α : Type} (n : Nat) (l : List α) : List (List α) := chunksAux n l.length l

end Sys2Proof.Machine
end

