-- ==== Sys2Proof/Machine/Float.lean ====
section
/-!
DEFINITION. Numbers: floating-point formats (R75-R78), rounding (R85, R86, R88), the exact operations under them, and the
events that arithmetic reports (R95, R96). A finite value is held exactly, as sign, magnitude and power of two.
-/
namespace Sys2Proof.Machine

/-! ### Values -/

/-- A value: NaN (signalling or not), an infinity, or (-1)^neg x m x 2^e. -/
inductive FV where
  | nan (signalling : Bool)
  | inf (neg : Bool)
  | fin (neg : Bool) (m : Nat) (e : Int)
deriving DecidableEq, Repr

/-- +0. -/
def fvZero : FV := .fin false 0 0

/-- An integer as a value. -/
def fvInt (x : Int) : FV := .fin (decide (x < 0)) x.natAbs 0

/-- An integer times a power of two. -/
def fvScaled (x : Int) (e : Int) : FV := .fin (decide (x < 0)) x.natAbs e

/-- Whether a value is NaN. -/
def fvIsNan : FV → Bool
  | .nan _ => true
  | _ => false

/-- Whether a value is infinite. -/
def fvIsInf : FV → Bool
  | .inf _ => true
  | _ => false

/-- Sign of a value. -/
def fvNeg : FV → Bool
  | .nan _ => false
  | .inf n => n
  | .fin n _ _ => n

/-- The negated value. -/
def fvNegate : FV → FV
  | .nan q => .nan q
  | .inf n => .inf (!n)
  | .fin n m e => .fin (!n) m e

/-- The absolute value. -/
def fvAbs : FV → FV
  | .nan q => .nan q
  | .inf _ => .inf false
  | .fin _ m e => .fin false m e

/-- A finite value as a signed integer at exponent e, when e is at most its own. -/
def fvAt (n : Bool) (m : Nat) (e base : Int) : Int :=
  let v : Int := ((m * 2 ^ (e - base).toNat : Nat) : Int)
  if n then -v else v

/-- Floor of the base-2 logarithm of a nonzero m x 2^e. -/
def fvLog2 (m : Nat) (e : Int) : Int := (Nat.log2 m : Int) + e

/-- Floor of m x 2^e, for a nonnegative value. -/
def floorAt (m : Nat) (e : Int) : Nat := if 0 ≤ e then m * 2 ^ e.toNat else m / 2 ^ (-e).toNat

/-- Order of two non-NaN values. -/
def fvLt : FV → FV → Bool
  | .nan _, _ => false
  | _, .nan _ => false
  | .inf a, .inf b => a && !b
  | .inf a, .fin _ _ _ => a
  | .fin _ _ _, .inf b => !b
  | .fin n1 m1 e1, .fin n2 m2 e2 =>
    let b := min e1 e2
    decide (fvAt n1 m1 e1 b < fvAt n2 m2 e2 b)

/-- Equality of two non-NaN values; zeros are equal. -/
def fvEq : FV → FV → Bool
  | .nan _, _ => false
  | _, .nan _ => false
  | .inf a, .inf b => a == b
  | .inf _, .fin _ _ _ => false
  | .fin _ _ _, .inf _ => false
  | .fin n1 m1 e1, .fin n2 m2 e2 =>
    let b := min e1 e2
    decide (fvAt n1 m1 e1 b = fvAt n2 m2 e2 b)

/-- The value is zero. -/
def fvIsZero : FV → Bool
  | .fin _ m _ => m == 0
  | _ => false

/-! ### Formats (R75) -/

/-- A floating-point format. `special` formats have infinities and a class of NaN codes; F8a and F6 have neither (R76). -/
structure Fmt where
  /-- Width in bits. -/
  w : Nat
  /-- Exponent bits. -/
  eb : Nat
  /-- Fraction bits. -/
  fb : Nat
  /-- Bias. -/
  bias : Nat
  /-- The all-ones exponent holds infinities and NaNs. -/
  special : Bool
deriving DecidableEq, Repr

def fp64 : Fmt := { w := 64, eb := 11, fb := 52, bias := 1023, special := true }
def fp32 : Fmt := { w := 32, eb := 8, fb := 23, bias := 127, special := true }
def fp16 : Fmt := { w := 16, eb := 5, fb := 10, bias := 15, special := true }
def bf16 : Fmt := { w := 16, eb := 8, fb := 7, bias := 127, special := true }
def f8b : Fmt := { w := 8, eb := 5, fb := 2, bias := 15, special := true }
def f8a : Fmt := { w := 8, eb := 4, fb := 3, bias := 7, special := false }
def f6 : Fmt := { w := 6, eb := 3, fb := 2, bias := 3, special := false }
/-- R84: ACCW, the binary128 layout. -/
def accw : Fmt := { w := 128, eb := 15, fb := 112, bias := 16383, special := true }

/-- R75, R76, R78: the canonical NaN code. -/
def nanCode (f : Fmt) : Nat :=
  if f.special then (2 ^ f.eb - 1) * 2 ^ f.fb + 2 ^ (f.fb - 1) else 2 ^ (f.w - 1)

/-- R75: the code of an infinity. -/
def infCode (f : Fmt) (neg : Bool) : Nat := b2n neg * 2 ^ (f.w - 1) + (2 ^ f.eb - 1) * 2 ^ f.fb

/-- R75: the code of the largest finite magnitude. -/
def maxCode (f : Fmt) (neg : Bool) : Nat :=
  b2n neg * 2 ^ (f.w - 1) + (if f.special then (2 ^ f.eb - 1) * 2 ^ f.fb - 1 else 2 ^ (f.w - 1) - 1)

/-- R75: the value of a code. -/
def decodeF (f : Fmt) (code : Nat) : FV :=
  let c := code % 2 ^ f.w
  let neg := decide (2 ^ (f.w - 1) ≤ c)
  let ex := c / 2 ^ f.fb % 2 ^ f.eb
  let fr := c % 2 ^ f.fb
  if f.special && ex == 2 ^ f.eb - 1 then
    if fr = 0 then .inf neg else .nan (decide (fr < 2 ^ (f.fb - 1)))
  else if !f.special && c == 2 ^ (f.w - 1) then .nan false
  else if ex = 0 then .fin neg fr (1 - (f.bias : Int) - f.fb)
  else .fin neg (2 ^ f.fb + fr) ((ex : Int) - f.bias - f.fb)

/-! ### Events -/

/-- What one element operation reports: NaN read or produced (R95), SATURATED and whether it is a range event (R96), an
accumulator merge that overflows (R97), alignment loss (R90), and the five IEEE flags laid out as ARITH_STICKY [4:0]. -/
structure Ev where
  nanRead : Bool := false
  nanMade : Bool := false
  sat : Bool := false
  satRange : Bool := false
  ovf : Bool := false
  align : Bool := false
  ieee : BitVec 5 := 0
deriving DecidableEq, Repr

/-- The events of two operations on one element. -/
def Ev.or (a b : Ev) : Ev :=
  { nanRead := a.nanRead || b.nanRead, nanMade := a.nanMade || b.nanMade, sat := a.sat || b.sat,
    satRange := a.satRange || b.satRange, ovf := a.ovf || b.ovf, align := a.align || b.align, ieee := a.ieee ||| b.ieee }

/-- IEEE flags (R88). -/
def ieInvalid : BitVec 5 := 0x10
def ieDivZero : BitVec 5 := 0x08
def ieOverflow : BitVec 5 := 0x04
def ieUnderflow : BitVec 5 := 0x02
def ieInexact : BitVec 5 := 0x01

/-- SATURATED as a range event (R85, R96). -/
def evSat : Ev := { sat := true, satRange := true }

/-! ### Rounding (R85, R87) -/

/-- R87 RM. -/
inductive RM where
  | ne | tz | up | dn
deriving DecidableEq, Repr

/-- Whether a magnitude with quotient q and remainder r of d rounds away from zero. -/
def roundsUp (rm : RM) (neg : Bool) (q r d : Nat) : Bool :=
  match rm with
  | .ne => decide (d < 2 * r) || (decide (2 * r = d) && q % 2 == 1)
  | .tz => false
  | .up => !neg && decide (0 < r)
  | .dn => neg && decide (0 < r)

/-- m x 2^e rounded to a multiple of 2^qe: the multiple and whether it is inexact. -/
def roundAt (rm : RM) (neg : Bool) (m : Nat) (e qe : Int) : Nat × Bool :=
  if qe ≤ e then (m * 2 ^ (e - qe).toNat, false)
  else
    let d := 2 ^ (qe - e).toNat
    let q := m / d
    let r := m % d
    (if roundsUp rm neg q r d then q + 1 else q, decide (r ≠ 0))

/-- Exponent of the largest finite binade. -/
def maxExp (f : Fmt) : Int := (2 ^ f.eb : Nat) - (if f.special then 2 else 1 : Int) - f.bias

/-- R85: a finite value rounded to a format, with its events. A value that saturates F8a or F6 raises INEXACT and not OVERFLOW (log
entry 107). -/
def roundF (f : Fmt) (rm : RM) (neg : Bool) (m : Nat) (e : Int) : Nat × Ev :=
  let sgn := b2n neg * 2 ^ (f.w - 1)
  if m = 0 then (if f.special then sgn else 0, {}) else
  let emin : Int := 1 - f.bias
  let ex := fvLog2 m e
  let qe := (if ex < emin then emin else ex) - f.fb
  let q := roundAt rm neg m e qe
  let lim := 2 ^ (f.fb + 1)
  let isOver := decide (maxExp f < qe + f.fb) || (decide (qe + f.fb = maxExp f) && decide (lim ≤ q.1))
  if isOver then
    if f.special then
      let toInf := match rm with
        | .ne => true
        | .tz => false
        | .up => !neg
        | .dn => neg
      (if toInf then infCode f neg else maxCode f neg, { ieee := ieOverflow ||| ieInexact })
    else (maxCode f neg, { evSat with ieee := ieInexact })
  else
    let mag := if ex < emin then q.1 else ((qe + f.fb + f.bias - 1).toNat) * 2 ^ f.fb + q.1
    let u := roundAt rm neg m e (ex - f.fb)
    let tiny := decide (ex < emin) && decide ((u.1 : Int) < 2 ^ (emin - (ex - f.fb)).toNat)
    let fl : BitVec 5 := (if q.2 then ieInexact else 0) ||| (if tiny && q.2 then ieUnderflow else 0)
    (if !f.special && mag == 0 then 0 else sgn + mag, { ieee := fl })

/-- R85, R78: any value rounded to a format. NaN counts as read; an infinity saturates a format without infinities. -/
def roundV (f : Fmt) (rm : RM) (x : FV) : Nat × Ev :=
  match x with
  | .nan sg => (nanCode f, { nanRead := true, ieee := if sg then ieInvalid else 0 })
  | .inf n => if f.special then (infCode f n, {}) else (maxCode f n, evSat)
  | .fin n m e => roundF f rm n m e

/-- R97: an accumulator merge: as roundV to nearest-even, an overflow of a finite sum reported as RANGE_OVF. -/
def mergeV (f : Fmt) (x : FV) : Nat × Ev :=
  let r := roundV f .ne x
  (r.1, { r.2 with ovf := r.2.ieee &&& ieOverflow != 0 })

/-! ### Exact operations. The events are those of the operation itself: NaN read, NaN produced, division by zero. -/

/-- Events of reading two operands. -/
def evRead2 (x y : FV) : Ev :=
  let sg := match x, y with
    | .nan true, _ => true
    | _, .nan true => true
    | _, _ => false
  { nanRead := fvIsNan x || fvIsNan y, ieee := if sg then ieInvalid else 0 }

/-- A NaN produced from other operands. -/
def evMade : Ev := { nanMade := true, ieee := ieInvalid }

/-- The exact sum. `down`: rounding toward minus infinity, which gives an exact zero difference the sign - (R86). -/
def fvAdd (rm : RM) (x y : FV) : FV × Ev :=
  match x, y with
  | .nan _, _ => (.nan false, evRead2 x y)
  | _, .nan _ => (.nan false, evRead2 x y)
  | .inf a, .inf b => if a == b then (.inf a, {}) else (.nan false, evMade)
  | .inf a, .fin _ _ _ => (.inf a, {})
  | .fin _ _ _, .inf b => (.inf b, {})
  | .fin n1 m1 e1, .fin n2 m2 e2 =>
    let b := min e1 e2
    let v := fvAt n1 m1 e1 b + fvAt n2 m2 e2 b
    if v = 0 then
      let bothZero := m1 == 0 && m2 == 0
      (.fin (if bothZero && n1 == n2 then n1 else decide (rm = .dn)) 0 0, {})
    else (.fin (decide (v < 0)) v.natAbs b, {})

/-- The exact product. -/
def fvMul (x y : FV) : FV × Ev :=
  match x, y with
  | .nan _, _ => (.nan false, evRead2 x y)
  | _, .nan _ => (.nan false, evRead2 x y)
  | .inf a, .inf b => (.inf (xor a b), {})
  | .inf a, .fin n m _ => if m = 0 then (.nan false, evMade) else (.inf (xor a n), {})
  | .fin n m _, .inf b => if m = 0 then (.nan false, evMade) else (.inf (xor n b), {})
  | .fin n1 m1 e1, .fin n2 m2 e2 => (.fin (xor n1 n2) (m1 * m2) (e1 + e2), {})

/-- The quotient, cut to p significant bits and a sticky bit, which rounds as the exact quotient does. -/
def fvDiv (p : Nat) (x y : FV) : FV × Ev :=
  match x, y with
  | .nan _, _ => (.nan false, evRead2 x y)
  | _, .nan _ => (.nan false, evRead2 x y)
  | .inf _, .inf _ => (.nan false, evMade)
  | .inf a, .fin n _ _ => (.inf (xor a n), {})
  | .fin n _ _, .inf b => (.fin (xor n b) 0 0, {})
  | .fin n1 m1 e1, .fin n2 m2 e2 =>
    let n := xor n1 n2
    if m2 = 0 then
      if m1 = 0 then (.nan false, evMade) else (.inf n, { ieee := ieDivZero })
    else if m1 = 0 then (.fin n 0 0, {})
    else
      let sh := p + Nat.log2 m2 + 2 - Nat.log2 m1
      let num := m1 * 2 ^ sh
      let q := num / m2
      (.fin n (2 * q + (if num % m2 = 0 then 0 else 1)) (e1 - e2 - sh - 1), {})

/-- Integer square root, bit by bit from bit i down. -/
def isqrtAux (n : Nat) : Nat → Nat → Nat
  | 0, r => if (r + 1) * (r + 1) ≤ n then r + 1 else r
  | i + 1, r =>
    let t := r + 2 ^ (i + 1)
    isqrtAux n i (if t * t ≤ n then t else r)

/-- Integer square root. -/
def isqrt (n : Nat) : Nat := isqrtAux n (Nat.log2 n / 2 + 1) 0

/-- The square root, cut to p significant bits and a sticky bit. -/
def fvSqrt (p : Nat) (x : FV) : FV × Ev :=
  match x with
  | .nan sg => (.nan false, { nanRead := true, ieee := if sg then ieInvalid else 0 })
  | .inf n => if n then (.nan false, evMade) else (.inf false, {})
  | .fin n m e =>
    if m = 0 then (.fin n 0 0, {})
    else if n then (.nan false, evMade)
    else
      let sh := 2 * p + 2 - Nat.log2 m
      let sh := if (e - sh) % 2 = 0 then sh else sh + 1
      let v := m * 2 ^ sh
      let r := isqrt v
      (.fin false (2 * r + (if r * r = v then 0 else 1)) ((e - sh) / 2 - 1), {})

/-- The product plus an addend, exact. 0 x infinity plus a quiet NaN raises INVALID (log entry 119). -/
def fvFma (rm : RM) (x y z : FV) : FV × Ev :=
  let p := fvMul x y
  let s := fvAdd rm p.1 z
  if fvIsNan x || fvIsNan y || fvIsNan z then (.nan false, (evRead2 x y).or ((evRead2 z z).or
    { ieee := p.2.ieee &&& (if fvIsNan x || fvIsNan y then 0 else ieInvalid) }))
  else if p.2.nanMade then (.nan false, evMade)
  else s

/-- Round the result of an exact operation; a NaN result is canonical and its event is the operation's. -/
def finish (f : Fmt) (rm : RM) (r : FV × Ev) : Nat × Ev :=
  match r.1 with
  | .nan _ => (nanCode f, r.2)
  | x => let q := roundV f rm x; (q.1, r.2.or q.2)

/-- Significant bits that a quotient or a root needs for a format. -/
def precOf (f : Fmt) : Nat := f.fb + 3

def fAdd (f : Fmt) (rm : RM) (x y : FV) : Nat × Ev := finish f rm (fvAdd rm x y)
def fSub (f : Fmt) (rm : RM) (x y : FV) : Nat × Ev := finish f rm (fvAdd rm x (fvNegate y))
def fMul (f : Fmt) (rm : RM) (x y : FV) : Nat × Ev := finish f rm (fvMul x y)
def fDiv (f : Fmt) (rm : RM) (x y : FV) : Nat × Ev := finish f rm (fvDiv (precOf f) x y)
def fSqrt (f : Fmt) (rm : RM) (x : FV) : Nat × Ev := finish f rm (fvSqrt (precOf f) x)
def fFma (f : Fmt) (rm : RM) (x y z : FV) : Nat × Ev := finish f rm (fvFma rm x y z)

/-! ### Operations on codes of one format, rounded to nearest-even (R13) -/

def addC (f : Fmt) (a b : Nat) : Nat := (fAdd f .ne (decodeF f a) (decodeF f b)).1
def subC (f : Fmt) (a b : Nat) : Nat := (fSub f .ne (decodeF f a) (decodeF f b)).1
def mulC (f : Fmt) (a b : Nat) : Nat := (fMul f .ne (decodeF f a) (decodeF f b)).1
def divC (f : Fmt) (a b : Nat) : Nat := (fDiv f .ne (decodeF f a) (decodeF f b)).1

/-! ### Integers and fixed point (R79, R80, R85) -/

/-- A value rounded to an integer: nearest, ties to even, or under RM; none for NaN, the sign for an infinity. -/
def roundInt (rm : RM) (x : FV) : Option (Int ⊕ Bool) :=
  match x with
  | .nan _ => none
  | .inf n => some (.inr n)
  | .fin n m e =>
    let q := (roundAt rm n m e 0).1
    some (.inl (if n then -(q : Int) else q))

/-- Whether rounding to an integer is inexact. -/
def intInexact (x : FV) : Bool :=
  match x with
  | .fin n m e => (roundAt .tz n m e 0).2
  | _ => false

/-- R85: a value to a w-bit two's complement integer, saturating; NaN gives 0 and reports SATURATED, a NaN event only. -/
def toInt (w : Nat) (rm : RM) (x : FV) : Int × Ev :=
  let hi : Int := (2 ^ (w - 1) : Nat) - 1
  let lo : Int := -(2 ^ (w - 1) : Nat)
  match roundInt rm x with
  | none => (0, { nanRead := true, sat := true, ieee := ieInvalid })
  | some (.inr n) => (if n then lo else hi, { evSat with ieee := ieInvalid })
  | some (.inl v) =>
    if hi < v then (hi, { evSat with ieee := ieInvalid })
    else if v < lo then (lo, { evSat with ieee := ieInvalid })
    else (v, { ieee := if intInexact x then ieInexact else 0 })

/-- R80: a value to Qm.n of m + n = w bits: scaled by 2^n, then as an integer. -/
def toQ (w n : Nat) (rm : RM) (x : FV) : Int × Ev :=
  match x with
  | .fin s m e => toInt w rm (.fin s m (e + n))
  | _ => toInt w rm x

/-- R80: the value of a Q word. -/
def ofQ (n : Nat) (v : Int) : FV := fvScaled v (-(n : Int))

end Sys2Proof.Machine
end

