-- ==== Sys2Proof/Machine/Formats.lean ====
section
/-!
DEFINITION. Format codes (R129), how elements lie in memory (R76, R79, R81, R82, R84), and the conversions of R83 and R85
over runs of elements.
-/
namespace Sys2Proof.Machine

/-- R129: the floating-point format of a code, accumulators included. -/
def fmtOf (c : Nat) : Option Fmt :=
  match c with
  | 0x0 => some fp64
  | 0x1 => some fp32
  | 0x2 => some fp16
  | 0x3 => some bf16
  | 0x4 => some f8b
  | 0x5 => some f8a
  | 0x6 => some f6
  | 0xC => some fp32
  | 0xD => some fp64
  | 0xE => some accw
  | _ => none

/-- R129: a block-scaled format. -/
def isBlock (c : Nat) : Bool := c == 7 || c == 8 || c == 9

/-- R81: width of a block element. -/
def blockWidth (c : Nat) : Nat := if c = 7 then 4 else if c = 8 then 8 else 16

/-- Bits that one element takes in memory (R76, R79, R82, R84). -/
def elemBits (c : Nat) : Nat :=
  if isBlock c then blockWidth c
  else if c = 0xA then 4 else if c = 0xB then 8
  else match fmtOf c with
    | some f => if f.w = 6 then 8 else f.w
    | none => 8

/-- Bytes that a run of n elements takes; a block format takes whole blocks (R82). -/
def runBytes (c n : Nat) : Nat :=
  if isBlock c then ceilDiv n 32 * (4 * blockWidth c) else ceilDiv (n * elemBits c) 8

/-- Bits off to off + n - 1 of a run of bytes. -/
def bitField (bs : Bytes) (off n : Nat) : Nat := field bs (off / 8) ((off % 8 + n + 7) / 8) / 2 ^ (off % 8) % 2 ^ n

/-- Raw code of element i of a run. -/
def rawElem (c : Nat) (bs : Bytes) (i : Nat) : Nat :=
  let r := bitField bs (i * elemBits c) (elemBits c)
  if c = 6 then r % 64 else r

/-- R81: the value of a block element under a scale code. -/
def blockValue (c scale raw : Nat) : FV :=
  let w := blockWidth c
  if scale = 0 then fvZero
  else if scale = 0xFF then .nan false
  else
    let m := raw % 2 ^ (w - 1)
    if m = 0 then fvZero else .fin (decide (2 ^ (w - 1) ≤ raw)) m ((scale : Int) - 127)

/-- The value of a raw element code of a format other than a block format. -/
def rawValue (c raw : Nat) : FV :=
  if c = 0xA then fvInt (signed 4 raw)
  else if c = 0xB then fvInt (signed 8 raw)
  else match fmtOf c with
    | some f => decodeF f raw
    | none => .nan false

/-- Element i of a run, with its scales for a block format. -/
def elemValue (c : Nat) (bs scales : Bytes) (i : Nat) : FV :=
  if isBlock c then blockValue c (field scales (i / 32) 1) (rawElem c bs i) else rawValue c (rawElem c bs i)

/-- The values of a run of n elements. -/
def runValues (c : Nat) (bs scales : Bytes) (n : Nat) : List FV := (List.range n).map (elemValue c bs scales)

/-- R85: one value converted to a format other than a block format: code and events. -/
def convElem (c : Nat) (rm : RM) (x : FV) : Nat × Ev :=
  if c = 0xA then let r := toInt 4 rm x; (wrapInt 4 r.1, r.2)
  else if c = 0xB then let r := toInt 8 rm x; (wrapInt 8 r.1, r.2)
  else match fmtOf c with
    | some f => roundV f rm x
    | none => (0, {})

/-- R83: the largest magnitude of values of which none is NaN or infinite, as m x 2^e. -/
def maxMag : List FV → Nat × Int
  | [] => (0, 0)
  | x :: xs =>
    let r := maxMag xs
    match x with
    | .fin _ m e => if fvLt (.fin false r.1 r.2) (.fin false m e) then (m, e) else r
    | _ => r

/-- R83: round m x 2^e / 2^s to nearest-even. -/
def roundMag (m : Nat) (e s : Int) : Nat := (roundAt .ne false m e s).1

/-- R83: scale exponent of a block of largest magnitude m x 2^e (nonzero) with magnitude width p, and SATURATED. -/
def blockScale (p m : Nat) (e : Int) : Int × Bool :=
  let s := fvLog2 m e - (p - 1)
  let s := if roundMag m e s = 2 ^ p then s + 1 else s
  if s < -126 then (-126, false) else if 127 < s then (127, true) else (s, false)

/-- R83: one block: scale code, element codes and the events of each element. A SATURATED report counts at the first
element of the block (log entry 13). -/
def convBlock (c : Nat) (xs : List FV) : Nat × List Nat × List Ev :=
  let w := blockWidth c
  let p := w - 1
  if xs.any fun x => fvIsNan x || fvIsInf x then
    (0xFF, xs.map (fun _ => 0), xs.map fun x =>
      if fvIsNan x then { nanRead := true } else if fvIsInf x then { nanMade := true } else {})
  else
    let mm := maxMag xs
    if mm.1 = 0 then (0, xs.map (fun _ => 0), xs.map fun _ => {})
    else
      let s := blockScale p mm.1 mm.2
      let es := xs.map fun x =>
        match x with
        | .fin n m e =>
          let g := min (roundMag m e s.1) (2 ^ p - 1)
          if g = 0 then 0 else b2n n * 2 ^ p + g
        | _ => 0
      let evs := xs.map fun _ => ({} : Ev)
      ((s.1 + 127).toNat, es, if s.2 then evs.set 0 evSat else evs)

/-- R85: INT4 or INT8 values to one block: scale code 0x7F, each element its integer, the magnitude cut to 2^p - 1. -/
def intBlock (c : Nat) (xs : List FV) : Nat × List Nat × List Ev :=
  let p := blockWidth c - 1
  let one := fun (x : FV) =>
    match x with
    | .fin n m e =>
      let g := floorAt m e
      let cut := decide (2 ^ p - 1 < g)
      let g := min g (2 ^ p - 1)
      (if g = 0 then 0 else b2n n * 2 ^ p + g, if cut then evSat else ({} : Ev))
    | _ => (0, {})
  (0x7F, xs.map fun x => (one x).1, xs.map fun x => (one x).2)

/-- R85: whether a source format converts to a block format by the INT4 and INT8 rows. -/
def intToBlock (src c : Nat) : Bool := src == 0xA || (src == 0xB && c != 7)

/-- Pack element codes of a format: F6 a byte each, INT4 and B4 two a byte (R79, R82). -/
def packElems (c : Nat) (es : List Nat) : Bytes :=
  let w := elemBits c
  if w = 4 then (chunks 2 es).map fun l => BitVec.ofNat 8 (l.headD 0 % 16 + 16 * (l.getD 1 0 % 16))
  else es.flatMap fun e => leBytes (w / 8) e

/-- A run converted to a format (R83, R85): element bytes, scale bytes and the events of each element. `src` is the source's
format code; a final partial block is padded with zero elements (R82). -/
def convRun (src c : Nat) (rm : RM) (xs : List FV) : Bytes × Bytes × List Ev :=
  if isBlock c then
    let bs := (chunks 32 xs).map fun l =>
      let l' := l ++ List.replicate (32 - l.length) fvZero
      let r := if intToBlock src c then intBlock c l' else convBlock c l'
      (r.1, packElems c r.2.1, r.2.2.take l.length)
    (bs.flatMap (·.2.1), bs.map (fun b => BitVec.ofNat 8 b.1), bs.flatMap (·.2.2))
  else
    let rs := xs.map (convElem c rm)
    (packElems c (rs.map (·.1)), [], rs.map (·.2))

end Sys2Proof.Machine
end

