-- ==== Sys2Proof/Machine/Flags.lean ====
section
/-!
DEFINITION. What an element operation leaves behind it: ARITH_STICKY bits (R88), warnings (R89), NaN and range events and the
order of trapped events (R95-R100), and the rounding direction of a context (R87).
-/
namespace Sys2Proof.Machine

/-- R98, R99: one detected event with its order: group (pass, instruction or commit group), element, and what the fault
record says of it. -/
structure Trap where
  /-- Pass, instruction or commit group. -/
  group : Nat := 0
  /-- Element index. -/
  elem : Nat := 0
  /-- A NaN event (else a range event). -/
  isNan : Bool := true
  /-- R100 operand role. -/
  role : Nat := 3
  /-- R100 kind. -/
  kind : Nat := 0
  /-- R385 LANE. -/
  lane : Nat := 0xFFFF
  /-- R88: the ARITH_STICKY bits of the event itself. -/
  sticky : W64 := 0
deriving DecidableEq, Repr

/-- R99: whether a comes first. -/
def trapBefore (a b : Trap) : Bool :=
  decide (a.group < b.group) || (a.group == b.group && (decide (a.elem < b.elem) ||
    (a.elem == b.elem && a.isNan && !b.isNan)))

/-- R99: the first of two detected events. -/
def firstTrap (a b : Option Trap) : Option Trap :=
  match a, b with
  | none, b => b
  | a, none => a
  | some a, some b => if trapBefore b a then some b else some a

/-- R95, R98: the NaN event of an element operation, if any. -/
def evNan (e : Ev) : Bool := e.nanRead || e.nanMade

/-- R96: the range event of an element operation, if any. -/
def evRange (strict : Bool) (e : Ev) : Bool := e.satRange || e.ovf || (strict && e.ieee &&& ieOverflow != 0)

/-- R88: the ARITH_STICKY bits of an element operation. -/
def evSticky (mode : BitVec 32) (e : Ev) : W64 :=
  (if e.align then 0x8000 else 0) ||| (if e.sat then 0x4000 else 0) ||| (if e.ovf then 0x2000 else 0)
    ||| (if evNan e && !mode.getLsbD 0 then 0x1000 else 0) ||| (if mode.getLsbD 2 then e.ieee.setWidth 64 else 0)

/-- R98-R100: the trap that an element operation raises under the context's mode. -/
def evTrap (mode : BitVec 32) (group elem role lane : Nat) (e : Ev) : Option Trap :=
  let strict := mode.getLsbD 2
  let t : Trap := { group := group, elem := elem, role := role, lane := lane, sticky := evSticky mode e }
  if mode.getLsbD 0 && evNan e then some { t with isNan := true, kind := if e.nanRead then 0 else 1 }
  else if (mode.getLsbD 1 || strict) && evRange strict e then some { t with isNan := false, kind := if e.satRange then 2 else 3 }
  else none

/-- R89: the warnings of an element operation. -/
def evWarn (e : Ev) : BitVec 16 := (if e.sat then 0x4 else 0) ||| (if e.align then 0x20 else 0)

/-- R87 RM of a context: nearest-even outside strict mode. -/
def modeRm (mode : BitVec 32) : RM :=
  if mode.getLsbD 2 then
    match bits mode.toNat 7 6 with
    | 0 => .ne
    | 1 => .tz
    | 2 => .up
    | _ => .dn
  else .ne

end Sys2Proof.Machine
end

