-- ==== Sys2Proof/Config.lean ====
section
/-!
DEFINITION. What an implementation fixes and what the spec leaves open. Every opaque constant is a FREE VALUE: it has no
body, so a statement about it holds whatever it is. The first argument is the state's counter of free values (`State.free`),
the second numbers the values that one command reads.
-/
namespace Sys2Proof.Config

/-- A free bit (log entry 3). -/
opaque freeBit : Nat → Nat → Bool
/-- A free natural number (log entry 3). -/
opaque freeNat : Nat → Nat → Nat
/-- A free byte (log entry 3). -/
opaque freeByte : Nat → Nat → Byte
/-- A free 64-bit word (log entry 3). -/
opaque freeW64 : Nat → Nat → W64
/-- A free vector register (log entry 3). -/
opaque freeVec : Nat → Nat → BitVec 2048
/-- The bytes that a command with an unpredictable result writes: virtual address and byte (R4, log entry 4). -/
opaque freeWrites : Nat → List (Nat × Byte)
/-- The place that the memory-side cache and the Mica cache hash a line to, before the number of sets cuts it (R290, R294, log entry 9). -/
opaque cacheSet : Nat → Nat
/-- The bytes of the parts of a dump image whose layout the spec does not give: (offset, byte) (R405, R406, log entry 10). -/
opaque freeImage : Nat → Nat → List (Nat × Byte)
/-- A value that the spec leaves open in the result of an operation: it depends on the operation and its operands alone, so that a
re-execution gives it again (R169, log entries 20-23, 25). -/
opaque operandValue : Nat → List Nat → W64
/-- Whether EXP rounds up or down between the two floats around the exact result: format, operand (R146, log entry 5). -/
opaque expUp : Nat → Nat → Bool
/-- Whether LOG rounds up or down between the two floats around the exact result: format, operand (R146, log entry 5). -/
opaque logUp : Nat → Nat → Bool
/-- The bytes of a pattern image from byte 72 on, whose layout the spec does not give: a mask over the model's own layout
(R213, log entry 28). -/
opaque imageMask : Nat → Byte
/-- The context number that a stage-queue peer's end belongs to: peer module, peer end (R176, log entry 6). -/
opaque peerCtx : Nat → Nat → BitVec 8
/-- The OWN_CTR of a stage-queue peer's end: peer module, peer end (R176, log entry 6). -/
opaque peerCtr : Nat → Nat → BitVec 16
/-- The module's serial number, 16 ASCII bytes (R349, log entry 7). -/
opaque serial : Nat → Byte
/-- The PCI vendor ID of the configuration space (R360, log entry 7). -/
opaque vendorId : BitVec 16
/-- The image that boots after a digest and signature check: whether the bytes verify (R354, log entry 8). -/
opaque imageVerifies : Bytes → Bool
/-- The minimum stepping of an image header is met by this silicon (R354, log entry 8). -/
opaque imageStepping : Bytes → Bool
/-- The version in an image header (R354, log entry 8). -/
opaque imageVersion : Bytes → BitVec 32
/-- The route-around entries that a fabric manager sends to cover a link or a lost module: destination, FIRST, MODE and entries in
RA_ENTRY layout (R319, R330, log entry 31). -/
opaque coverRoutes : Nat → List (BitVec 12 × Nat × Bool × List W64)
/-- The route-around entries that a manager gives to a module that joins (R329, log entry 31). -/
opaque joinRoutes : Nat → List W64
/-- The MCTP version entries of the endpoint, 4 bytes each, for a message type (R360, log entry 32). -/
opaque mctpVersions : Nat → List Byte
/-- The command set version of the endpoint's vendor-defined messages (R360, log entry 32). -/
opaque mctpVendorVersion : BitVec 16

end Sys2Proof.Config
end

