-- ==== Sys2Proof/Machine/State.lean ====
section
/-!
DEFINITION. The state of the module: every register, table, queue and pin that the spec names, as plain data, with the
value each holds in `State.reset` (R7, column "At supply") as the field's default. A field whose docstring begins MODEL
is the model's own. `Fault` and `Refusal` are the two ways a step can stop.
-/
namespace Sys2Proof.Machine

/-- TB_STATUS.STATE (R42). -/
inductive TbState where
  | free | acquiring | locked | holdover
deriving DecidableEq, Repr

/-- The level of an output pin: driven low, driven high, or high impedance (R420). -/
inductive Pin where
  | low | high | hiZ
deriving DecidableEq, Repr

/-- A context's state (R44). -/
inductive CtxState where
  | free | active | error | draining
deriving DecidableEq, Repr

/-- MB_STATUS.STATE (R342). -/
inductive MbState where
  | booting | mailbox | calibrating | ready | computeReset | handover | failed
deriving DecidableEq, Repr

/-- A tile bank's state (R105). -/
inductive BankState where
  | free | loading | valid | lost
deriving DecidableEq, Repr

/-- How a cluster is granted (R104). -/
inductive GrantMode where
  | released | exclusive | split
deriving DecidableEq, Repr

/-- PORT_STATUS.STATE (R334). -/
inductive PortState where
  | down | training | up | degraded | retuning
deriving DecidableEq, Repr

/-- A memory channel's state (R303, R359). -/
inductive ChanState where
  | normal | degraded | out
deriving DecidableEq, Repr

/-- A module's role (R327). -/
inductive Role where
  | worker | podManager | systemManager
deriving DecidableEq, Repr

/-- A power state (R378). -/
inductive PowerState where
  | active | idle | doze | sleep
deriving DecidableEq, Repr

/-- A flash slot's state (R348, FW_QUERY; the active slot and TRIAL are flags beside it). -/
inductive SlotState where
  | invalid | valid
deriving DecidableEq, Repr

/-- The stage that a compute reset has reached (R392). -/
inductive ResetStage where
  | none | detected | fenced | dumped | reset
deriving DecidableEq, Repr

/-- Where a fetched command stands: fetched and not started, started, ended with its record not yet written (R68, R397). -/
inductive CmdState where
  | fetched | started | done
deriving DecidableEq, Repr

/-- The time base (R23-R42). -/
structure TimeBase where
  /-- R42 TB_NOW.FRAME, 48 bits. -/
  frame : BitVec 48 := 0
  /-- R42 TB_NOW.PHASE, 16 bits. -/
  phase : BitVec 16 := 0
  /-- R42 TB_CTRL.FRAME_OUT_EN. -/
  frameOutEn : Bool := false
  /-- R42 TB_CTRL.SOURCE as last written. -/
  sourceField : BitVec 2 := 0
  /-- R29 the source in force. -/
  source : BitVec 2 := 0
  /-- R42 TB_STATUS.STATE. -/
  st : TbState := .free
  /-- R42 TB_STATUS.PERIOD_ERR. -/
  periodErr : Bool := false
  /-- R42 TB_STATUS.BACKWARD. -/
  backward : Bool := false
  /-- R42 TB_STATUS.TICK_LOST. -/
  tickLost : Bool := false
  /-- R42 TB_PERIOD.PERIOD_PS, 41 bits. -/
  period : BitVec 41 := 0x3B9ACA00
  /-- R42 TB_PERIOD_SET.PERIOD_PS, 41 bits. -/
  periodSet : BitVec 41 := 0x3B9ACA00
  /-- R42 TB_PERIOD_AT.ARM, which TB_STATUS.PERIOD_ARMED mirrors. -/
  arm : Bool := false
  /-- R42 TB_PERIOD_AT.FRAME, 48 bits. -/
  atFrame : BitVec 48 := 0
  /-- R42 TB_COUNTS.HOLDOVERS, saturating. -/
  holdovers : BitVec 16 := 0
  /-- R42 TB_COUNTS.REJECTED, saturating. -/
  rejected : BitVec 16 := 0
  /-- R42 TB_COUNTS.ACCEPTED, wrapping. -/
  accepted : BitVec 32 := 0
  /-- R42 TB_SKEW.HOP_DELAY_NS. -/
  hopDelayNs : BitVec 16 := 0
  /-- R42 TB_SKEW.LAST_ERR_PS, signed. -/
  lastErrPs : BitVec 32 := 0
  /-- R34 the next tick is the acquisition tick. -/
  needAcq : Bool := false
  /-- R37 a tick of the current source has been accepted. -/
  hasTick : Bool := false
  /-- R29 consecutive accepted ticks within the slew window, at most 2. -/
  inSlew : Nat := 0
  /-- R34, R41 arrival times of the last consecutive rejected ticks, newest first, in the unit of `nowU`. -/
  rejTimes : List Nat := []
  /-- R31 error still to be removed at half rate, in the unit of `nowU`. -/
  slowU : Nat := 0
  /-- R31 error that the trimmed phase rate removes over the present frame, in the unit of `nowU`. -/
  trimU : Int := 0
  /-- R30 the frame that follows another, where a tick for the latter's start carried a number above the prediction:
  (frame, the frame that follows it). -/
  jumps : List (BitVec 48 × BitVec 48) := []
  /-- R33 the frame time word before the last forward step. -/
  skipFrom : W64 := 0
  /-- R33 the frame time word after the last forward step. -/
  skipTo : W64 := 0
  /-- R37 the frame for whose start a tick was last accepted. -/
  lastTickFrame : BitVec 48 := 0
  /-- R326 time of entry into HOLDOVER, in the unit of `nowU`. -/
  holdU : Nat := 0
  /-- R353 frame time word at entry into HOLDOVER. -/
  holdFtw : W64 := 0
  /-- R324 the tick parent that the manager set at join. -/
  tickParent : Option (BitVec 12) := none
  /-- R381 time since AUX_3V3 became valid, in 1/65,536 ps (one ph lasts PERIOD_PS of this unit); the RTC counts its
  microseconds. At supply: 1.5 s (R340). -/
  nowU : Nat := 98304000000000000
deriving DecidableEq, Repr

/-- Supplies and sideband pins (R414-R423). -/
structure Supply where
  /-- R415 the 40 V input is valid and the converters run (R375). -/
  in40 : Bool := true
  /-- R415 the 40 V input is applied. -/
  v40 : Bool := true
  /-- R416 AUX_3V3 is valid. -/
  aux : Bool := true
  /-- R418 SMB_ADDR2-0 as read when AUX_3V3 became valid. -/
  straps : BitVec 3 := 7
  /-- R408 the 40 V input was present at auxiliary start. -/
  in40AtAux : Bool := true
  /-- R417 time at which the 40 V input was removed, in the unit of `nowU`. -/
  offU : Option Nat := none
  /-- R421 WAKE_N is driven low. -/
  wakeLow : Bool := false
  /-- R422 THERMTRIP_N is driven low. -/
  tripLow : Bool := false
  /-- R375 the converters stopped at critical temperature. -/
  critOff : Bool := false
  /-- R420 FRAME_OUT. -/
  frameOut : Pin := .low
  /-- R420 time of FRAME_OUT's last rise, in the unit of `nowU`. -/
  frameOutU : Nat := 0
  /-- R423 PERST# is asserted. -/
  perst : Bool := false
  /-- R340 time at which both supplies became valid, in the unit of `nowU`. -/
  bothU : Nat := 0
  /-- R341 every channel retrains in this start-up, so READY follows at 8 s. -/
  slowCal : Bool := false
deriving DecidableEq, Repr

/-- One flash firmware slot (R354). -/
structure Slot where
  /-- R354 VERSION of the image header. -/
  version : BitVec 32 := 0
  /-- R348 INVALID or VALID. -/
  st : SlotState := .invalid
deriving DecidableEq, Repr

/-- Identity, flash configuration and firmware (R3, R309, R341, R349, R354-R357). -/
structure Ident where
  /-- R1, R2 false FJ8-640, true FJ8-384. -/
  v384 : Bool := false
  /-- R327 role, kept in flash. -/
  role : Role := .worker
  /-- R309 fabric address, kept in flash. -/
  addr : BitVec 12 := 0
  /-- R329 flash holds an address. -/
  hasAddr : Bool := true
  /-- R309 X size less 1, kept in flash. -/
  dx : BitVec 4 := 0
  /-- R309 Y size less 1, kept in flash. -/
  dy : BitVec 4 := 0
  /-- R309 Z size less 1, kept in flash. -/
  dz : BitVec 4 := 0
  /-- R284 IL in GiB. -/
  ilGib : Nat := 64
  /-- R304 channels (stack, channel) whose live map-out was refused, for the next start-up. -/
  outNext : List (Nat × Nat) := []
  /-- R302 channels mapped out of each stack, in order, kept in flash. -/
  outChans : List (List Nat) := [[], [], [], [], [], [], [], []]
  /-- R354 slot A. -/
  slotA : Slot := { version := 0x01000000, st := .valid }
  /-- R354 slot B. -/
  slotB : Slot := {}
  /-- R349 slot B is active. -/
  activeB : Bool := false
  /-- R357 the active slot is TRIAL. -/
  trial : Bool := false
  /-- R356 AT_RESTART: the inactive slot is the TRIAL slot of the next start-up. -/
  trialNext : Bool := false
  /-- R358 stacks whose changed calibration firmware has written to the configuration area of flash (bit per stack). -/
  calibChanged : BitVec 8 := 0
deriving DecidableEq, Repr

/-- A page mapping of a context (R71, R310, R350). -/
structure Mapping where
  /-- R350 first virtual address. -/
  va : Nat := 0
  /-- R71 false 64 KiB, true 2 MiB. -/
  big : Bool := false
  /-- R350 WRITE. -/
  writable : Bool := false
  /-- R310 REMOTE target. -/
  remote : Bool := false
  /-- R310 0 local only, 1 REMOTE_RO, 2 REMOTE_RW. -/
  access : Nat := 0
  /-- R350 TARGET: device address, remote virtual address or edge address. -/
  target : Nat := 0
  /-- R350 REMOTE: layout of the packet DST field. -/
  dst : BitVec 16 := 0
  /-- R350 REMOTE_CTX. -/
  rctx : BitVec 8 := 0
deriving DecidableEq, Repr

/-- A context (R43-R45, R87, R88, R187, R311, R348, R387, R402, R403). -/
structure Ctx where
  /-- R44 state. -/
  st : CtxState := .free
  /-- R43 the owning PCIe function (0 the PF). -/
  owner : Nat := 0
  /-- R87 ARITH_MODE. -/
  arithMode : BitVec 32 := 0
  /-- R88 ARITH_STICKY. -/
  sticky : W64 := 0
  /-- R387 WDOG_PH. -/
  wdogPh : Nat := 0x20000
  /-- R187 prefetch generation. -/
  prefGen : BitVec 16 := 0
  /-- R71 page mappings. -/
  maps : List Mapping := []
  /-- R311 REMOTE_REFUSED. -/
  remoteRefused : Nat := 0
  /-- R303 virtual addresses of the pages that MEM_SHRINK named. -/
  shrink : List Nat := []
  /-- R336, R402 a drain that posts no events (the function was reset). -/
  quiet : Bool := false
  /-- R402 TAG of the CTX_DESTROY that began the drain. -/
  drainTag : BitVec 32 := 0
  /-- R402 ph since the drain began. -/
  drainPh : Nat := 0
  /-- R403 time at which the number was freed, in the unit of `nowU`, while CTX_CREATE withholds it. -/
  freedU : Option Nat := none
deriving DecidableEq, Repr

/-- A queue (R46-R50, R68). -/
structure Queue where
  /-- R46 owning context. -/
  ctx : Nat := 0
  /-- R46 Basalt. -/
  basalt : Nat := 0
  /-- R46 ring address. -/
  ringVa : Nat := 0
  /-- R46 ring size, log2 of blocks. -/
  ringN : Nat := 6
  /-- R46 completion ring address. -/
  cqVa : Nat := 0
  /-- R46 completion size, log2 of records. -/
  cqN : Nat := 6
  /-- R46 priority floor. -/
  floor : Nat := 0
  /-- R46 MSI-X vector. -/
  vector : Nat := 0
  /-- R50 DB_TAIL. -/
  tail : BitVec 32 := 0
  /-- R50 Q_HEAD. -/
  head : BitVec 32 := 0
  /-- R50 DB_CQHEAD. -/
  cqHead : BitVec 32 := 0
  /-- R50 Q_STATUS.CQ_TAIL. -/
  cqTail : BitVec 32 := 0
  /-- R348 QUEUE_DESTROY has been accepted: fetching has stopped. -/
  closing : Bool := false
  /-- R48 what the slots between head and tail held when a doorbell made them available: (block count, 64 bytes). -/
  rung : List (BitVec 32 × Bytes) := []
deriving DecidableEq, Repr

/-- What a fault record carries beside the command (R385). -/
structure FaultInfo where
  /-- R385 ADDR_KIND. -/
  addrKind : BitVec 8 := 0
  /-- R385 ADDR. -/
  addr : W64 := 0
  /-- R385 ELEMENT. -/
  element : W64 := 0xFFFFFFFFFFFFFFFF
  /-- R385 LANE. -/
  lane : BitVec 16 := 0xFFFF
  /-- R385 ROLE. -/
  role : BitVec 8 := 0xFF
  /-- R385 KIND. -/
  kind : BitVec 8 := 0xFF
  /-- R385 REMOTE_CTX. -/
  remoteCtx : BitVec 8 := 0
  /-- R385 AUX. -/
  aux : W64 := 0
  /-- R385 FTW at detection. -/
  ftw : W64 := 0
deriving DecidableEq, Repr

/-- The progress of a collective command at this rank (R252, R265, R266, R274, R275). -/
structure CollRun where
  /-- R252 group. -/
  group : Nat := 0
  /-- R252 tag. -/
  tag : BitVec 32 := 0
  /-- R251 rank. -/
  rank : Nat := 0
  /-- The contribution has been sent and the command waits for deliveries. -/
  sent : Bool := false
  /-- R265 blocks, shards or rows delivered, by index. -/
  delivered : List Nat := []
  /-- R266 lowest COUNT delivered. -/
  low : Nat := 0xFFFF
  /-- R266 highest COUNT delivered. -/
  high : Nat := 0
  /-- R266 blocks delivered from the retry. -/
  retried : Nat := 0
  /-- R266 blocks delivered with SAT. -/
  saturated : Nat := 0
  /-- R266 blocks delivered with COUNT below R. -/
  partials : Nat := 0
  /-- R270 stage of a RED_LOWRANK: 0 the first reduction, 1 the second. -/
  stage : Nat := 0
  /-- R274 accepted pairs. -/
  accepted : Nat := 0
  /-- R274 overflow pairs. -/
  overflow : Nat := 0
  /-- R274 end markers received, by source rank. -/
  ends : List Nat := []
  /-- R278 bytes received for the result, written at completion: (index, value). -/
  values : List (Nat × Nat) := []
deriving DecidableEq, Repr

/-- R212, R227, R243: a system that a solver lane has in progress: what its lane store keeps of it. -/
structure LaneSys where
  /-- List index. -/
  idx : Nat := 0
  /-- Lane, 0 to 15. -/
  lane : Nat := 0
  /-- R235 x0, QV words. -/
  x0 : List Int := []
  /-- R240 flags WS_USED, WS_REJECTED, LOCAL and REPLAYED. -/
  flags : Nat := 0
  /-- R227 its factorization has finished. -/
  factored : Bool := false
  /-- R219 range events of the factorization. -/
  sat : Nat := 0
  /-- R219 row of the first one. -/
  first : Option Nat := none
  /-- R226 regularized pivots. -/
  regs : Nat := 0
  /-- R226 lowest regularized row. -/
  firstReg : Option Nat := none
  /-- R243 stop tests that it has passed. -/
  tests : Nat := 0
deriving DecidableEq, Repr

/-- R249: the summary of SLV_STATUS as its counts. -/
structure SlvSum where
  conv : Nat := 0
  maxit : Nat := 0
  dead : Nat := 0
  broke : Nat := 0
  none' : Nat := 0
  stale : Nat := 0
  rej : Nat := 0
  reg : Nat := 0
  sat : Nat := 0
  most : Nat := 0
  sum : Nat := 0
  ftw : Nat := 0
  stopped : Nat := 0
deriving DecidableEq, Repr

/-- The engine state that a started command keeps (R64, R126, R206, R243, R296). -/
structure Progress where
  /-- Next vector, tile, commit group, list entry, system, row or iteration. -/
  next : Nat := 0
  /-- R206 next segment of an UPD_ROWS entry; R121 passes done of the next vector of an MA_ELEM. -/
  segment : Nat := 0
  /-- R207 sweep 1 of a factored update is committed. -/
  sweep2 : Bool := false
  /-- R199 sums rs[o] of sweep 1, FP64 codes. -/
  rs : List W64 := []
  /-- R199 sums cs[i] of sweep 1, FP64 codes. -/
  cs : List W64 := []
  /-- R206 the list entry of an UPD_ROWS at work: its row and its count word. -/
  entry : Option (Nat × Nat) := none
  /-- R210 elements or entries written by this execution. -/
  wrote : Nat := 0
  /-- R210 elements skipped by this execution. -/
  skipped : Nat := 0
  /-- R241 systems that CONVERGED, or the count an engine reports. -/
  good : Nat := 0
  /-- R247 lowest element index of a regularized pivot. -/
  firstReg : Option Nat := none
  /-- R189 lines that a source refused. -/
  refused : Nat := 0
  /-- R122 bytes taken from an IN stream for the next input vector. -/
  inbuf : Bytes := []
  /-- R122, R123 bytes made for an OUT stream that its queue has not yet taken. -/
  outbuf : Bytes := []
  /-- R193 the coefficient slot as read at the start. -/
  slot : Bytes := []
  /-- R292 the DISCARD_AFTER_LAST lines that the command has read. -/
  seen : List Nat := []
  /-- R166, R292 those that its read dropped, with what it read. -/
  kept : Tbl Bytes := []
  /-- R243 a replay. -/
  replay : Bool := false
  /-- R233 the command has judged its DEADLINE reached: no further system starts. -/
  late : Bool := false
  /-- R212 systems in progress. -/
  lanes : List LaneSys := []
  /-- R227 a factorization has stopped at a regularized pivot: no further system starts. -/
  doom : Bool := false
  /-- R227 lane of the lowest regularized pivot. -/
  regLane : Nat := 0
  /-- R249 counts of the records read so far. -/
  sum : SlvSum := {}
  /-- Collective commands. -/
  coll : CollRun := {}
deriving DecidableEq, Repr

/-- A fetched command that is not complete (R51, R56, R57, R68, R405). -/
structure Cmd where
  /-- MODEL fetch number, by which the commands name it. -/
  k : Nat := 0
  /-- R46 global queue number. -/
  q : Nat := 0
  /-- R46 context. -/
  ctx : Nat := 0
  /-- R46 Basalt. -/
  basalt : Nat := 0
  /-- R51 header and continuation blocks. -/
  blocks : Bytes := []
  /-- Fetched, started or ended. -/
  st : CmdState := .fetched
  /-- R56 the integrity check passed. -/
  intact : Bool := true
  /-- R48, R74 software changed its ring slots after the doorbell. -/
  changed : Bool := false
  /-- R57 it has started. -/
  begun : Bool := false
  /-- R60, R61 an update of the counter has released its header wait. -/
  waitMet : Bool := false
  /-- R60 a WAIT_COUNT: the counter's value at the update that released it. -/
  released : Option W64 := none
  /-- R64 held pre-empted. -/
  preempted : Bool := false
  /-- R389 its context fault has been raised ahead of its completion record. -/
  raised : Bool := false
  /-- R73 64 KiB virtual pages that its work has used. -/
  touched : List Nat := []
  /-- R73 virtual ranges (first byte, bytes) unmapped while it ran. -/
  unmapped : List (Nat × Nat) := []
  /-- R397 to be re-executed after a compute reset. -/
  replay : Bool := false
  /-- R405 FTW at the start. -/
  startFtw : W64 := 0
  /-- R187 the context's prefetch generation at the start. -/
  startGen : BitVec 16 := 0
  /-- MODEL order of its start among all commands (R57, R66). -/
  startNo : Nat := 0
  /-- R68 it holds a completion credit. -/
  credit : Bool := false
  /-- R67 STATUS. -/
  status : BitVec 16 := 0
  /-- R67 RESULT. -/
  result : W64 := 0
  /-- R67 DETAIL. -/
  detail : BitVec 32 := 0
  /-- R67 UNIT. -/
  unit : BitVec 8 := 0
  /-- R89 warnings reported so far: bit n for status code n. -/
  warns : BitVec 16 := 0
  /-- R385 what its fault record carries. -/
  fault : FaultInfo := {}
  /-- R58, R311 transactions of its remote writes that wait for a response. -/
  waits : List (BitVec 32) := []
  /-- R387 ph since its last progress event. -/
  wdog : Nat := 0
  /-- R356 it started under the old microcode. -/
  oldUcode : Bool := false
  /-- Kept engine state. -/
  prog : Progress := {}
deriving DecidableEq, Repr

/-- A cluster of a Basalt (R104, R107, R125). -/
structure Cluster where
  /-- R104 mode. -/
  mode : GrantMode := .released
  /-- R104 CTX_A. -/
  ctxA : Nat := 0
  /-- R104 CTX_B. -/
  ctxB : Nat := 0
  /-- R125 issue credit at `creditU`, in 1/64 of an array cycle, at most 77 x 64. -/
  credit : Nat := 0
  /-- R125 time up to which `credit` has been reckoned, in the unit of `nowU`. -/
  creditU : Nat := 0
deriving DecidableEq, Repr

/-- One logical column of a tile bank (R90, R105, R108): 512 rows of sign and magnitude, then 16 row groups. -/
structure BankCol where
  /-- R90 sign and magnitude of each row. -/
  cells : List (Bool × Nat) := []
  /-- R90 weight LSB exponent tw of each group of 32 rows. -/
  tw : List Int := []
  /-- R95 NaN marker of each group. -/
  nan : List Bool := []
  /-- R101 source code and scale code of each element, kept by a load of a strict-mode context. -/
  src : List (Nat × Nat) := []
deriving DecidableEq, Repr

/-- A tile bank: its record and its cells (R105). -/
structure Bank where
  /-- R105 state. -/
  st : BankState := .free
  /-- R105 owning context. -/
  ctx : Nat := 0
  /-- R105 FIRST_TILE of the layout. -/
  firstTile : Nat := 0
  /-- R105 K of the layout. -/
  kDim : Nat := 0
  /-- R105 N of the layout. -/
  nDim : Nat := 0
  /-- R105 weight format code (R129). -/
  fmt : Nat := 0
  /-- R101, R112 source address and column stride of a strict-mode record. -/
  strict : Option (Nat × Nat) := none
  /-- R108 logical columns. -/
  cols : List BankCol := []
deriving DecidableEq, Repr

/-- A vector core (R137, R138, R155, R159). -/
structure Core where
  /-- R161 fetch number of the launch that holds the core. -/
  k : Option Nat := none
  /-- R161 the core runs and has not executed VEXIT. -/
  running : Bool := false
  /-- R137 s0-s31. -/
  s : List W64 := List.replicate 32 0
  /-- R137 v0-v31. -/
  v : List (BitVec 2048) := List.replicate 32 0
  /-- R137 m0-m7. -/
  m : List (BitVec 2048) := List.replicate 8 0
  /-- R137 pc. -/
  pc : W64 := 0
  /-- R138 VL. -/
  vl : BitVec 12 := 0
  /-- R138 VTYPE.INVALID. -/
  invalid : Bool := true
  /-- R138 VTYPE.FMT. -/
  fmt : BitVec 8 := 0
  /-- R138 VRESUME. -/
  vresume : BitVec 12 := 0
  /-- R138 LCORE. -/
  lcore : W64 := 0
  /-- R138 NCORE. -/
  ncore : W64 := 0
  /-- R155 waiting at a barrier VBAR. -/
  barrier : Bool := false
  /-- R135, R155 data cache: line number and its 128 bytes. -/
  dcache : Tbl Bytes := []
  /-- R135 instruction cache: line number and its 128 bytes. -/
  icache : Tbl Bytes := []
  /-- R155 transactions of the core's remote writes. -/
  waits : List (BitVec 32) := []
deriving DecidableEq, Repr

/-- A line of a DISCARD_AFTER_LAST page in a memory-side cache (R291, R292). -/
structure CacheLine where
  /-- R292 the count. -/
  count : Nat := 0
  /-- R292 what the stack holds under the line. -/
  old : Bytes := []
deriving DecidableEq, Repr

/-- Device memory held by a function, with the cache attributes of its first MAP (R291, R350). -/
structure HeldPage where
  /-- Canonical address of its first byte. -/
  base : Nat := 0
  /-- Bytes. -/
  size : Nat := 0
  /-- R350 the function that holds it. -/
  fn : Nat := 0
  /-- R291 HINT. -/
  hint : Nat := 0
  /-- R291 LAST_USE. -/
  lastUse : Nat := 0
  /-- R350 contexts that mapped it and have not completed their drain. -/
  ctxs : List Nat := []
deriving DecidableEq, Repr

/-- A line that PREFETCH filled, or that the Mica cache holds of a PERSIST page (R187, R189, R294, R300). -/
structure PrefLine where
  /-- R300 in the Mica cache rather than in a memory-side cache. -/
  mica : Bool := false
  /-- R187 context. -/
  ctx : Nat := 0
  /-- R187 generation. -/
  gen : BitVec 16 := 0
  /-- The line: its canonical line number, or for a line of another module the line number there. -/
  line : Nat := 0
  /-- R189 the line lies in another module. -/
  remote : Bool := false
  /-- R310 the module of a remote line, as packets name it. -/
  dst : BitVec 16 := 0
  /-- R310 the context of a remote line. -/
  rctx : BitVec 8 := 0
  /-- R291 it counts as a PERSIST line. -/
  persist : Bool := false
  /-- R189 its content when it was filled, for a line of another module. -/
  data : Bytes := []
deriving DecidableEq, Repr

/-- A stage-queue end (R175). -/
structure StageEnd where
  /-- R175 ROLE: CONSUMER. -/
  consumer : Bool := false
  /-- R175 CTX. -/
  ctx : Nat := 0
  /-- R175 OWN_CTR. -/
  ownCtr : Nat := 0
  /-- R175 SEND_CTR. -/
  sendCtr : Nat := 0
  /-- R175 PEER_MODULE. -/
  peer : BitVec 12 := 0
  /-- R175 PEER_END. -/
  peerEnd : Nat := 0
  /-- R175 SLOTS. -/
  slots : Nat := 0
  /-- R175 SLOT_BYTES. -/
  slotBytes : Nat := 0
  /-- R175 SLOT_VA. -/
  slotVa : Nat := 0
  /-- R175 WAIT_PH. -/
  waitPh : W64 := 0
  /-- R175 STATE: PEER_LOST. -/
  lost : Bool := false
  /-- R176, R394 forwarded adds not yet acknowledged, oldest first: transaction and value. -/
  unacked : List (BitVec 32 × W64) := []
  /-- R394 time at which the oldest was last refused with FENCED, in the unit of `nowU`. -/
  fencedU : Option Nat := none
deriving DecidableEq, Repr

/-- A group record (R250). -/
structure Group where
  /-- R250 CTX. -/
  ctx : Nat := 0
  /-- R250 QZ. -/
  qz : Nat := 0
  /-- R250 R. -/
  r : Nat := 0
  /-- R250 TABLE. -/
  table : List (BitVec 32) := []
  /-- R250 EPOCH. -/
  epoch : BitVec 32 := 0
  /-- R250 STAGED: epoch, R and the entries stored so far, by index. -/
  staged : Option (BitVec 32 × Nat × List (Nat × BitVec 32)) := none
  /-- R353 entries of an installation stored so far, by index, until entries 0 to R - 1 are all stored. -/
  pendingTable : List (Nat × BitVec 32) := []
  /-- R353 installed. -/
  installed : Bool := false
  /-- R250 TAG of each local rank, by its Basalt. -/
  tags : Tbl (BitVec 32) := []
  /-- R250 LATE. -/
  late : BitVec 32 := 0
  /-- R250 EPOCH_STALE. -/
  stale : BitVec 32 := 0
  /-- R250 HDR_ERR. -/
  hdrErr : BitVec 32 := 0
  /-- R250 MISSING. -/
  missing : BitVec 32 := 0
  /-- MODEL R274, R275 the rows and shards that LATE has counted, so that each of their pieces does not count again: tag, and KIND,
  place and index. -/
  lateSeen : List (BitVec 32 × List Nat) := []
deriving DecidableEq, Repr

/-- A wire block (R255). -/
structure WireBlock where
  /-- R255 MAXE. -/
  maxe : BitVec 8 := 0x80
  /-- R255 RETRY. -/
  retry : Bool := false
  /-- R255 SAT. -/
  sat : Bool := false
  /-- R255 COUNT. -/
  count : Nat := 0
  /-- R255 64 elements; 0x80 is NaN. -/
  elems : List (BitVec 8) := []
deriving DecidableEq, Repr

/-- An open node (R253, R254, R261, R263), for one block, shard or exponent of one tag. -/
structure Node where
  /-- Group. -/
  group : Nat := 0
  /-- R252 tag. -/
  tag : BitVec 32 := 0
  /-- R267 epoch. -/
  epoch : BitVec 32 := 0
  /-- R253 level. -/
  level : Nat := 0
  /-- R253 position j. -/
  pos : Nat := 0
  /-- Block, shard or exponent index. -/
  idx : Nat := 0
  /-- R256 KIND of its upward messages: 1 UP, 5 MAX_UP, 7 DATA_UP. -/
  kind : Nat := 1
  /-- R261 what the lower child (2j) sent. -/
  lo : Option WireBlock := none
  /-- R261 what the upper child (2j + 1) sent. -/
  hi : Option WireBlock := none
  /-- R261 it has sent upward (or, at the root, delivered or held back). -/
  sent : Option WireBlock := none
  /-- R263 the retry pass has begun. -/
  inRetry : Bool := false
  /-- R263 retry blocks of the children. -/
  rlo : Option WireBlock := none
  /-- R263 retry block of the upper child. -/
  rhi : Option WireBlock := none
  /-- R254 the last downward message has been sent. -/
  closed : Bool := false
  /-- R261 DEADLINE of the command. -/
  deadline : W64 := 0
  /-- R261 LEVEL_PH. -/
  levelPh : Nat := 0
  /-- R263 RETRY_PH. -/
  retryPh : Nat := 0
  /-- R402 ph since its last message. -/
  idlePh : Nat := 0
deriving DecidableEq, Repr

/-- A node instance of the tree (R254): what it keeps for its whole tag. Its blocks are `Node`s. -/
structure TreeInst where
  /-- Group. -/
  group : Nat := 0
  /-- R252 tag. -/
  tag : BitVec 32 := 0
  /-- R267 epoch. -/
  epoch : BitVec 32 := 0
  /-- R253 level. -/
  level : Nat := 0
  /-- R253 position j. -/
  pos : Nat := 0
  /-- R250 the Collective Engine that holds it. -/
  qz : Nat := 0
  /-- R267 R of the tree that it was opened in. -/
  r : Nat := 0
  /-- R267 TABLE of the tree that it was opened in. -/
  table : List (BitVec 32) := []
  /-- Downward messages that its operation takes, once the command of the hosting rank has told them (log entry 123). -/
  total : Option Nat := none
  /-- R275, R276 the pieces of data that have passed down. -/
  passed : List Nat := []
  /-- R254 its last downward message has been sent. -/
  closed : Bool := false
deriving DecidableEq, Repr

/-- A feed (R301, R322, R323). -/
structure Feed where
  /-- R301 bound. -/
  bound : Bool := false
  /-- R301 binding context. -/
  ctx : Nat := 0
  /-- R301 SOURCE: 0 host, 1 P6, 2 P7. -/
  source : Nat := 0
  /-- R301 SLOTS. -/
  slots : Nat := 0
  /-- R301 SLOT_BYTES. -/
  slotBytes : Nat := 0
  /-- R301 DEADLINE_PH. -/
  deadlinePh : BitVec 16 := 0
  /-- R301 COUNTER. -/
  counter : Nat := 0
  /-- R301 RING_VA. -/
  ringVa : Nat := 0
  /-- R301 STATUS_VA. -/
  statusVa : Nat := 0
  /-- R301 bytes received for each frame not yet closed: (frame number, bytes). -/
  recv : Tbl Nat := []
  /-- R301 the next frame whose slot closes. -/
  nextClose : Nat := 0
  /-- R301 the FEED_BIND commands that take effect at the next frame boundary, in the order of their acceptance. -/
  bindCmds : List Nat := []
  /-- R322, R323 DROPPED. -/
  dropped : Nat := 0
  /-- R394 frames whose slot closed during a compute reset, in order: (frame, bytes). -/
  held : List (Nat × Nat) := []
deriving DecidableEq, Repr

/-- An optical port (R306-R308, R334). -/
structure Port where
  /-- R334 STATE. -/
  st : PortState := .down
  /-- R334 LANES. -/
  lanes : Nat := 0
  /-- R307 the lane being retuned. -/
  tuning : Option Nat := none
  /-- R307 disabled lanes. -/
  disabled : List Nat := []
  /-- R334 REPLAYS. -/
  replays : BitVec 16 := 0
  /-- R334 HDR_CRC. -/
  hdrCrc : BitVec 16 := 0
  /-- R334 FEC_UNCORR. -/
  fecUncorr : BitVec 16 := 0
  /-- R334 RETUNES. -/
  retunes : BitVec 16 := 0
  /-- R334 DOWN_DROP. -/
  downDrop : BitVec 32 := 0
  /-- R334 UNROUTABLE. -/
  unroutable : BitVec 32 := 0
  /-- R334 DELAY_PS. -/
  delayPs : BitVec 32 := 0
  /-- R308 next link sequence number to send. -/
  txSeq : BitVec 16 := 0
  /-- R308 next link sequence number expected. -/
  rxSeq : BitVec 16 := 0
  /-- R308 replay requested from this link sequence number on. -/
  replayFrom : Option (BitVec 16) := none
  /-- R308, R319 packets sent and kept in the replay buffer or the output queue, oldest first. -/
  txq : List Packet := []
  /-- R35 time at which the open PROBE was sent, in the unit of `nowU`. -/
  probeU : Option Nat := none
  /-- R329 the neighbour's address, from its HELLO. -/
  neighbour : Option (BitVec 12) := none
deriving DecidableEq, Repr

/-- A route-around entry (R318). -/
structure RaEntry where
  /-- R318 VALID. -/
  valid : Bool := false
  /-- R318 WAYPOINT. -/
  waypoint : BitVec 12 := 0
  /-- R318 MASK. -/
  mask : BitVec 12 := 0
  /-- R318 VALUE. -/
  value : BitVec 12 := 0
deriving DecidableEq, Repr

/-- An outstanding request of this module (R311, R317). -/
structure OutReq where
  /-- R312 TXN. -/
  txn : BitVec 32 := 0
  /-- Packet type: 1 WRITE, 2 READ_REQ, 6 CTR_ADD. -/
  ptype : BitVec 8 := 0
  /-- Issuing context. -/
  ctx : Nat := 0
  /-- The command that waits for it. -/
  k : Option Nat := none
  /-- Destination (DST field). -/
  dst : BitVec 16 := 0
  /-- Destination context. -/
  rctx : BitVec 8 := 0
  /-- Destination address. -/
  addr : Nat := 0
  /-- Bytes asked for. -/
  len : Nat := 0
  /-- Local virtual address of the first byte. -/
  va : Nat := 0
  /-- Owner of the bytes read, as in `rdata`. -/
  owner : Nat := 0
  /-- R313 a prefetch read. -/
  pf : Bool := false
  /-- R187 generation of the prefetch. -/
  gen : BitVec 16 := 0
  /-- R393, R402 its response is dropped. -/
  dropped : Bool := false
  /-- R317 its packet is held at this source and has not been sent. -/
  held : Bool := false
deriving DecidableEq, Repr

/-- A member that a manager knows (R326, R330). -/
structure Member where
  /-- R309 address. -/
  addr : BitVec 12 := 0
  /-- R330 time of the last HEARTBEAT, in the unit of `nowU`. -/
  seenU : Nat := 0
  /-- R330 declared lost or left. -/
  lost : Bool := false
  /-- R326 time since which it has been in HOLDOVER, in the unit of `nowU`. -/
  holdU : Option Nat := none
  /-- R327 its role. -/
  role : BitVec 8 := 0
  /-- R353 serial number, from its JOIN. -/
  serial : Bytes := []
  /-- R326 TIME_DEGRADED has been sent for its present HOLDOVER. -/
  degraded : Bool := false
deriving DecidableEq, Repr

/-- A management message that waits for its MGMT_ACK (R352). -/
structure MgmtOut where
  /-- R352 MSEQ. -/
  mseq : BitVec 32 := 0
  /-- Destination module. -/
  dst : BitVec 12 := 0
  /-- Payload. -/
  payload : Bytes := []
  /-- R352 times it has been resent. -/
  tries : Nat := 0
  /-- R352 time of the last sending, in the unit of `nowU`. -/
  sentU : Nat := 0
deriving DecidableEq, Repr

/-- A deferred mailbox request (R345). -/
structure Deferred where
  /-- Channel: 0 the PF, 1-31 a VF. -/
  ch : Nat := 0
  /-- R343 CODE. -/
  code : Nat := 0
  /-- R343 TAG. -/
  tag : BitVec 32 := 0
  /-- Request bytes. -/
  req : Bytes := []
  /-- Firmware has accepted it and its work goes on. -/
  begun : Bool := false
  /-- R348 GROUP_SET: messages to member modules that are not acknowledged. -/
  waits : List (BitVec 32) := []
  /-- R348 GROUP_SET: the first status other than OK that a member answered. -/
  bad : Nat := 0
deriving DecidableEq, Repr

/-- A PCIe function: mailbox channel, BAR2 and MSI-X (R335-R347). -/
structure Fn where
  /-- R342 BUSY. -/
  busy : Bool := false
  /-- R342 DONE. -/
  doneBit : Bool := false
  /-- R342 OVERRUN. -/
  overrun : Bool := false
  /-- R342 EV_LOST. -/
  evLost : Bool := false
  /-- R342 MB_VECTOR.EN. -/
  vecEn : Bool := false
  /-- R342 MB_VECTOR.VECTOR. -/
  vec : BitVec 11 := 0
  /-- R342 EV_HEAD. -/
  evHead : BitVec 32 := 0
  /-- R342 EV_TAIL. -/
  evTail : BitVec 32 := 0
  /-- R342 request buffer. -/
  reqBuf : Bytes := []
  /-- R342 response buffer. -/
  respBuf : Bytes := []
  /-- R342 event ring: 128 entries of 64 bytes. -/
  evRing : Tbl Bytes := []
  /-- R347 events dropped on a full ring. -/
  evDropped : Nat := 0
  /-- R344, R356 a request latched and unanswered. -/
  latched : Option Bytes := none
  /-- R336 latched requests that the function's reset left: carried out, and their responses discarded. -/
  orphans : List Bytes := []
  /-- R339 BAR2_OFFSET (PF). -/
  bar2Off : Nat := 0
  /-- R339 context that BAR2_SET named (VF). -/
  bar2Ctx : Option Nat := none
  /-- R339 BASE_VA (VF). -/
  bar2Base : Nat := 0
  /-- R339 BAR2 size, log2 of bytes: 36 (64 GiB) the PF's default, 32 (4 GiB) a VF's. -/
  bar2Log : Nat := 32
  /-- R339 accesses to unmapped addresses. -/
  bar2Bad : Nat := 0
  /-- R335 MSI-X table: 2,048 entries. -/
  msixTbl : Tbl (BitVec 128) := []
  /-- R337 MSI-X pending bits that are set. -/
  msixPend : List Nat := []
deriving DecidableEq, Repr

/-- An armed power hint on one Basalt (R367). -/
structure Hint where
  /-- Basalt. -/
  basalt : Nat := 0
  /-- R368 LEVEL. -/
  level : Nat := 0
  /-- R368 TARGET. -/
  target : W64 := 0
  /-- R368 HOLD_PH. -/
  holdPh : Nat := 0
  /-- R367 the schedule's present value, once it has started. -/
  value : Option Nat := none
  /-- R26 ph since TARGET was reached. -/
  heldPh : Nat := 0
deriving DecidableEq, Repr

/-- Power manager, thermal limits and power states (R361-R383). -/
structure Power where
  /-- R361 board limit, W. -/
  boardCap : Nat := 3500
  /-- R361 host cap, W. -/
  hostCap : Nat := 3500
  /-- R370 operating point. -/
  oppoint : Nat := 2
  /-- R365 f of each Basalt. -/
  f : List Nat := [1, 1, 1, 1, 1, 1, 1, 1]
  /-- R365 fcap of each Basalt. -/
  fcap : List Nat := [64, 64, 64, 64, 64, 64, 64, 64]
  /-- R374 fth of each Basalt. -/
  fth : List Nat := [64, 64, 64, 64, 64, 64, 64, 64]
  /-- R366 framp of each Basalt. -/
  framp : List Nat := [1, 1, 1, 1, 1, 1, 1, 1]
  /-- R366 f_act: the issue fraction of each Basalt in the previous tick. -/
  fAct : List Nat := [0, 0, 0, 0, 0, 0, 0, 0]
  /-- R372 time since which a Basalt has sat at fcap = 0 with budget at most nontile, in the unit of `nowU`. -/
  starvedU : List (Option Nat) := [none, none, none, none, none, none, none, none]
  /-- R367 armed hints. -/
  hints : List Hint := []
  /-- R372 CAP_UNMET is in force. -/
  capUnmet : Bool := false
  /-- R372 time since which its condition has been absent, in the unit of `nowU`. -/
  capClearU : Option Nat := none
  /-- R373 temperature of each die in 0.1 degrees C, indexed as in R359. -/
  temps : List Int := List.replicate 20 250
  /-- R374 dies at or above throttle. -/
  throttled : List Bool := List.replicate 20 false
  /-- R375 a die reached trip and the compute domain is held. -/
  tripHold : Bool := false
  /-- R289 stacks whose refresh rate is doubled. -/
  fastRefresh : List Bool := List.replicate 8 false
  /-- R359 the last telemetry sample. -/
  sample : Measure := {}
  /-- R359 FTW of the last telemetry sample. -/
  sampleFtw : W64 := 0
  /-- R378 power state. -/
  pst : PowerState := .active
  /-- R378 time since which the module has been idle or in its present power state, in the unit of `nowU`. -/
  idleU : Option Nat := none
  /-- R383 a wake is pending. -/
  wake : Bool := false
  /-- R381 RTC alarm, us. -/
  rtcAlarm : Option Nat := none
  /-- R381 frame-scheduled wake, FTW. -/
  frameAlarm : Option W64 := none
  /-- R380 CTR_ADD packets held while dozing, oldest first. -/
  heldAdds : List Packet := []
  /-- R359, R302 state of each memory channel, by stack x 32 + channel. -/
  chans : Tbl ChanState := []
  /-- R304 stacks of which a channel was mapped out since start-up. -/
  liveOut : BitVec 8 := 0
  /-- R303 the live map-outs that firmware started on its own decision: (stack, channel). -/
  ownOut : List (Nat × Nat) := []
  /-- R358 temperature of each stack at its channels' last training, 0.1 degrees C, by stack x 32 + channel. -/
  trainedAt : Tbl Int := []
  /-- R358 time of each channel's last training, in the unit of `nowU`, by stack x 32 + channel. -/
  trainedU : Tbl Nat := []
  /-- R358 stacks whose calibration has changed since firmware last wrote it to flash (bit per stack). -/
  calibDirty : BitVec 8 := 0
  /-- R358 time of the last write of changed calibration to flash, in the unit of `nowU`. -/
  calibU : Option Nat := none
deriving DecidableEq, Repr

/-- A compute reset in progress (R392-R397). -/
structure ResetRun where
  /-- R392 stage reached. -/
  stage : ResetStage := .none
  /-- R385 CAUSE of the first trigger: 1 HANG_ESCALATED, 2 UNIT_ERROR, 3 THERMAL. -/
  cause : Nat := 0
  /-- R395 contexts named while ACTIVE, first trigger first, each with its fault record. -/
  named : List (Nat × Bytes) := []
  /-- R385 fault record of the trigger. -/
  record : Bytes := []
  /-- R405 named context of the trigger, or 0xFF. -/
  ctx : Nat := 0xFF
  /-- R405 FTW at detection. -/
  detectFtw : W64 := 0
  /-- R405 FTW at the start of the Fence stage. -/
  fenceFtw : W64 := 0
  /-- R405 FTW at the start of the Dump stage. -/
  dumpFtw : W64 := 0
  /-- Time of detection, in the unit of `nowU`. -/
  detectU : Nat := 0
  /-- Time at the start of the Fence stage, in the unit of `nowU`. -/
  fenceU : Nat := 0
  /-- Time at the start of the Dump stage, in the unit of `nowU`. -/
  dumpU : Nat := 0
  /-- Time at the start of the Reset stage, in the unit of `nowU`. -/
  resetU : Nat := 0
  /-- R404 the image that the reset writes: false A, true B. -/
  imageB : Bool := false
  /-- R356 detected during a handover: engines stop fetching from detection on. -/
  held : Bool := false
deriving DecidableEq, Repr

/-- The fabric side: ports, routes, outstanding requests, membership (R306-R334, R352). -/
structure Fabric where
  /-- R334 ports P0-P7. -/
  ports : Tbl Port := []
  /-- R318 route-around table, 64 entries. -/
  routes : Tbl RaEntry := []
  /-- R317 destinations whose later packets are held after a change of route, with the packets, oldest first. -/
  holds : List (BitVec 12 × List Packet) := []
  /-- R318 re-injection buffer, oldest first. -/
  reinject : List Packet := []
  /-- MODEL packets that the module has sent, oldest first: egress port (8 for this module itself) and packet. -/
  outbox : List (Nat × Packet) := []
  /-- R311, R317 requests that wait for a response. -/
  reqs : List OutReq := []
  /-- R312 next transaction number. -/
  txn : BitVec 32 := 0
  /-- R311, R388 responses dropped. -/
  respDropped : Nat := 0
  /-- R402 requests dropped for a DRAINING or FREE context. -/
  reqDropped : Nat := 0
  /-- R311 remote bytes received and not yet used: (owner, virtual address, byte). The owner is 2 k for a command, 2 q + 1
  for a queue's fetches. -/
  rdata : List (Nat × Nat × Byte) := []
  /-- R334 FAB_ID.MANAGER. -/
  manager : BitVec 12 := 0
  /-- R353 system manager address. -/
  sysManager : BitVec 12 := 0
  /-- R334 FAB_ID.JOINED. -/
  joined : Bool := false
  /-- R329 the manager has confirmed the module's join. -/
  confirmed : Bool := false
  /-- R332 manager whose beacon was received last. -/
  beaconFrom : Option (BitVec 12) := none
  /-- R330 members that a manager knows. -/
  members : List Member := []
  /-- R352 MSEQ of the next management message. -/
  mseq : BitVec 32 := 0
  /-- R352 messages that wait for MGMT_ACK. -/
  unacked : List MgmtOut := []
  /-- R352 (sender, MSEQ) acted on, with the status that the acknowledgement carried. -/
  seen : List ((BitVec 12 × BitVec 32) × Nat) := []
  /-- R327 rank tables that this module's firmware has sent to member modules, by group number. -/
  known : List (Nat × List (BitVec 32)) := []
  /-- R332 time of the last BEACON, in the unit of `nowU`. -/
  beaconU : Nat := 0
  /-- R330 time of the last HEARTBEAT sent, in the unit of `nowU`. -/
  heartU : Nat := 0
deriving DecidableEq, Repr

/-- The error log and the dump counters (R404, R407). -/
structure Log where
  /-- R407 ENTRY_NO of the next entry. -/
  next : Nat := 1
  /-- R407 the ring of 2,048 entries of 64 bytes. At supply it holds the POWER_UP entry of the start-up, written at 900 ms
(R408): active firmware version 0x01000000, 40 V input present at auxiliary start. -/
  ring : Tbl Bytes := [(0,
    [0, 0, 0, 0, 1, 0, 0, 0, 0, 0, 0, 0, 0, 0, 0, 0, 160, 187, 13, 0, 0, 0, 0, 0, 0, 0, 0, 1, 1, 0, 0, 0]
      ++ List.replicate 28 0 ++ [88, 211, 178, 177])]
  /-- R385 RECORD_NO of the next fault record. -/
  recordNo : Nat := 0
  /-- R404 RESET_COUNT since supply. -/
  resets : Nat := 0
deriving DecidableEq, Repr

/-- The MCTP endpoint (R360). -/
structure Mctp where
  /-- R360 endpoint ID. -/
  eid : BitVec 8 := 0
  /-- MODEL messages that the endpoint has answered, oldest first. -/
  out : List Bytes := []
  /-- R344 requests that arrived during HANDOVER, oldest first. -/
  held : List Bytes := []
deriving DecidableEq, Repr

/-- The whole machine. -/
structure State where
  /-- MODEL the commands that wait, first in, first out. -/
  pending : List Instr := []
  /-- MODEL the counter of free values read so far. -/
  free : Nat := 0
  /-- R283 device memory: (canonical address, byte), R286. At supply the dump directory holds NEWEST 0xFF (R404). -/
  mem : List Host.Cell := [(0x011000000008, 0xFF)]
  /-- R23-R42 time base. -/
  tb : TimeBase := {}
  /-- R414-R423 supplies and pins. -/
  sup : Supply := {}
  /-- R3, R309, R349, R354 identity, flash and firmware. -/
  id : Ident := {}
  /-- R342 MB_STATUS.STATE. -/
  mb : MbState := .ready
  /-- R43 contexts 0-255. Context 0 is ACTIVE from reset on: firmware runs in it (log entry 116). -/
  ctxs : Tbl Ctx := [(0, { st := .active })]
  /-- R59 sync counters 0x0000-0xFFFF. -/
  counters : Tbl W64 := []
  /-- R59 owner of each block of 64 counters: context + 1, or 0. -/
  ctrOwner : Tbl Nat := [(0, 1), (1, 1), (2, 1), (3, 1)]
  /-- R46 queues by global number. -/
  queues : List (Nat × Queue) := []
  /-- R68, R405 fetched commands that are not complete, in fetch order. -/
  cmds : List Cmd := []
  /-- MODEL fetch number of the next command. -/
  nextK : Nat := 0
  /-- MODEL starts so far. -/
  nextStart : Nat := 0
  /-- R63 queue served last by each engine, for the rotation. -/
  served : Tbl Nat := []
  /-- R104 clusters, by Basalt x 16 + cluster. -/
  clusters : Tbl Cluster := []
  /-- R104, R111 active bank (1 or 0) of each tile, by Basalt x 512 + tile. -/
  activeBank : Tbl Nat := []
  /-- R105 tile banks, by (Basalt x 512 + tile) x 2 + bank. -/
  banks : Tbl Bank := []
  /-- R122 stream queues' bytes, by ((Basalt x 16 + pair) x 2 + (0 OUT, 1 IN)) x 2 + half (half 1 only in SPLIT). -/
  streams : Tbl Bytes := []
  /-- R123, R359 stall counters, by (Basalt x 16 + pair) x 2 + (0 OUT full, 1 IN empty). -/
  stalls : Tbl W64 := []
  /-- R135 vector cores, by Basalt x 64 + core. -/
  cores : List (Nat × Core) := []
  /-- R159 save areas of pre-empted cores: (fetch number of the launch, core), with the core's state. -/
  saved : List ((Nat × Nat) × Core) := []
  /-- R290 lines with a last-use count, by canonical line number. -/
  lines : List (Nat × CacheLine) := []
  /-- R350 device memory held by functions. -/
  held : List HeldPage := []
  /-- R293 Mica slices in CACHE mode, bits 0-30. -/
  micaCache : BitVec 32 := 0x7F000000
  /-- R187 prefetched lines. -/
  pref : List PrefLine := []
  /-- R175 stage-queue ends. -/
  ends : List (Nat × StageEnd) := []
  /-- R250 group records. -/
  groups : List (Nat × Group) := []
  /-- R254 open nodes. -/
  nodes : List Node := []
  /-- R254 node instances. -/
  insts : List TreeInst := []
  /-- R301 feeds 0-255. -/
  feeds : Tbl Feed := []
  /-- R306-R334 fabric. -/
  fab : Fabric := {}
  /-- R335 PCIe functions: 0 the PF, 1-31 the VFs. -/
  fns : Tbl Fn := [(0, { bar2Log := 36 })]
  /-- R345 deferred requests, oldest first. -/
  deferred : List Deferred := []
  /-- MODEL MSI-X messages sent, oldest first: function and vector. -/
  msix : List (Nat × Nat) := []
  /-- MODEL data returned to reads of BAR0 and BAR2, oldest first. -/
  bus : List Bytes := []
  /-- R361-R383 power. -/
  pow : Power := {}
  /-- R392 compute reset. -/
  rst : ResetRun := {}
  /-- R356 FW_ACTIVATE LIVE in progress: channel, tag, frame, engines switched. -/
  activating : Option (Nat × BitVec 32 × W64 × Bool) := none
  /-- R407 error log. -/
  log : Log := {}
  /-- R360 MCTP endpoint. -/
  mctp : Mctp := {}
deriving DecidableEq, Repr

/-- Why a step stops with a fault. -/
inductive Fault where
  /-- Raised by the supply rows where the spec calls the behaviour undefined (R5, R377, R417): the 40 V input without the
  auxiliary supply, or applied again too early. Safe: the spec gives the machine no behaviour there. -/
  | undefinedSupply
deriving DecidableEq, Repr

/-- Why a step refuses a command. -/
inductive Refusal where
  /-- Raised by an arm of `exec` that has no meaning yet. Safe: nothing is claimed of the command. -/
  | notModelled (mnemonic : String)
deriving DecidableEq, Repr

/-- R7: the machine at supply, both supplies valid and firmware start-up complete. -/
def State.reset : State := {}

end Sys2Proof.Machine
end

