-- ==== Sys2Proof/Machine/Time.lean ====
section
/-!
DEFINITION. Reading time: the frame time word (R11, R23), when a time is reached (R24), the RTC (R381) and the physical
time unit of the model, 1/65,536 ps, of which one ph lasts PERIOD_PS.
-/
namespace Sys2Proof.Machine

/-- R11, R23: the frame time word, frame number in [63:16] and phase in [15:0]. One counter stands for the follower counters of
all dies: the skew between dies, which R35 bounds by 4 ns, is zero here (log entry 114). -/
def State.ftw (s : State) : W64 := s.tb.frame ++ s.tb.phase

/-- R11: the frame number of a frame time word. -/
def ftwFrame (t : W64) : BitVec 48 := t.extractLsb' 16 48

/-- R11: the phase of a frame time word. -/
def ftwPhase (t : W64) : BitVec 16 := t.extractLsb' 0 16

/-- R24: a time is reached when the counter, as an unsigned 64-bit integer, is greater than or equal to it. -/
def State.reached (s : State) (t : W64) : Bool := decide (t ≤ s.ftw)

/-- R24, over a time held as a number. -/
def State.reachedN (s : State) (t : Nat) : Bool := decide (t ≤ s.ftw.toNat)

/-- One nanosecond in the model's time unit. -/
def nsU : Nat := 65536000
/-- One microsecond in the model's time unit. -/
def usU : Nat := 65536000000
/-- One millisecond in the model's time unit. -/
def msU : Nat := 65536000000000
/-- One second in the model's time unit. -/
def secU : Nat := 65536000000000000

/-- R381: the RTC, microseconds since AUX_3V3 became valid. -/
def State.rtcUs (s : State) : Nat := s.tb.nowU / usU

/-- Whether the given time has passed since t. -/
def State.since (s : State) (t d : Nat) : Bool := decide (t + d ≤ s.tb.nowU)

/-- A duration in the model's unit as ph of the period in force (R26). -/
def State.toPh (s : State) (d : Nat) : Nat := d / max 1 s.tb.period.toNat

end Sys2Proof.Machine
end

