-- ==== Sys2Proof/Machine/Mem.lean ====
section
/-!
DEFINITION. Device memory as the units see it: the address map and the interleave (R283-R286), capacities and map-out
(R302), page translation (R71, R310), last-use counts (R291, R292), reads of DEGRADED channels (R305), and local reads and writes.
-/
namespace Sys2Proof.Machine

/-! ### Address map (R283-R286) -/

/-- R283: base of a stack-local window. -/
def stackBase (k : Nat) : Nat := 0x010000000000 + k * 0x002000000000
/-- R283: base of the Mica scratchpad window. -/
def micaBase : Nat := 0x020000000000
/-- R284: IL in bytes. -/
def ilBytes (i : Ident) : Nat := i.ilGib * 0x40000000
/-- R2: a stack's original capacity C0. -/
def stackC0 (i : Ident) : Nat := if i.v384 then 48000000000 else 80000000000
/-- R302: CAP_s after the map-outs of the stack. -/
def stackCap (i : Ident) (k : Nat) : Nat := stackC0 i * (32 - (i.outChans.getD k []).length) / 32
/-- R284: size of the firmware reserve of a stack. -/
def stackReserve (k : Nat) : Nat := if k = 0 then 2250000000 else 250000000

/-- R285: stack of an interleaved address. -/
def ilStack (a : Nat) : Nat :=
  let g := a / 4096
  ((g ^^^ (g / 8)) ^^^ (g / 64)) % 8
/-- R285: stack offset of an interleaved address. -/
def ilOffset (a : Nat) : Nat := a / 4096 / 8 * 4096 + a % 4096
/-- R285: channel of a stack offset. -/
def channelOf (o : Nat) : Nat :=
  let h := o / 256
  ((h ^^^ (h / 32)) ^^^ (h / 1024)) % 32
/-- R285: channel offset of a stack offset. -/
def channelOffset (o : Nat) : Nat := o / 256 / 32 * 256 + o % 256

/-- R286: the one address under which the model keeps a byte: an interleaved address becomes the stack-local one. -/
def canon (i : Ident) (a : Nat) : Nat :=
  if a < 8 * ilBytes i then stackBase (ilStack a) + ilOffset a else a

/-- R404: device address of the dump area. -/
def dumpBase (i : Ident) : Nat := stackBase 0 + ilBytes i

/-! ### Translation (R71, R310) -/

/-- A context. -/
def getCtx (s : State) (c : Nat) : Ctx := Tbl.get {} s.ctxs c
/-- Change a context. -/
def modCtx (c : Nat) (f : Ctx → Ctx) (s : State) : State := { s with ctxs := Tbl.put {} s.ctxs c (f (getCtx s c)) }

/-- R71: page size of a mapping. -/
def pageSize (m : Mapping) : Nat := if m.big then 0x200000 else 0x10000

/-- R71: the mapping of a context that holds a virtual address. -/
def findMap (s : State) (ctx va : Nat) : Option Mapping :=
  (getCtx s ctx).maps.find? fun m => decide (m.va ≤ va) && decide (va < m.va + pageSize m)

/-- R72: a mapping that an access may use. -/
def translate (s : State) (ctx va : Nat) (write : Bool) : Option Mapping :=
  match findMap s ctx va with
  | none => none
  | some m => if write && !m.writable then none else some m

/-- Target address of a virtual address under its mapping. -/
def mapTarget (m : Mapping) (va : Nat) : Nat := m.target + (va - m.va)

/-- Bytes of [va, va + n) that lie in the mapping's page. -/
def pageRun (m : Mapping) (va n : Nat) : Nat := min n (m.va + pageSize m - va)

/-- The lines of [a, a + n). -/
def linesOf (a n : Nat) : List Nat :=
  if n = 0 then [] else (List.range ((a + n - 1) / 128 + 1 - a / 128)).map (· + a / 128)

/-- Canonical addresses of a run of target addresses, granule by granule (R285): (canonical address, length). -/
def canonRuns (i : Ident) : Nat → Nat → Nat → List (Nat × Nat)
  | 0, _, _ => []
  | fuel + 1, a, n =>
    if n = 0 then [] else
    let m := if a < 8 * ilBytes i then min n (4096 - a % 4096) else n
    (canon i a, m) :: canonRuns i fuel (a + m) (n - m)

/-! ### Last-use counts (R291, R292) -/

/-- R291: the attributes of a canonical address: HINT and LAST_USE. HINT does not apply to the Mica scratchpad. -/
def lineHint (s : State) (a : Nat) : Nat × Nat :=
  if micaBase ≤ a then (0, 0)
  else match s.held.find? fun h => decide (h.base ≤ a) && decide (a < h.base + h.size) with
  | some h => (h.hint, h.lastUse)
  | none => (0, 0)

/-- R291: LAST_USE of the page that holds a canonical address, when its HINT is DISCARD_AFTER_LAST. -/
def discardUse (s : State) (a : Nat) : Option Nat :=
  let h := lineHint s a
  if h.1 = 3 then some h.2 else none

/-- R290: the set of a line among the 32,768 sets of 16 lines of its stack's cache. -/
def sideSet (ln : Nat) : Nat := (ln * 128 - stackBase 0) / 0x002000000000 * 32768 + Config.cacheSet ln % 32768

/-- A prefetched line of a stack's own cache. -/
def isSide (l : PrefLine) : Bool := !l.mica && !l.remote

/-- R290, R291: a way for a new line of the memory-side cache; in a full set some other line leaves, a PERSIST line last and for a
PREFETCH never. Which one is least recently used is free (log entry 9). Answers whether there is room. -/
def makeRoom (prefetch : Bool) (ln : Nat) (s : State) : Bool × State :=
  let set' := sideSet ln
  let ds := (s.lines.map (·.1)).filter fun l => sideSet l == set'
  let ps := s.pref.filter fun l => isSide l && sideSet l.line == set'
  let soft := ps.filter fun l => !l.persist
  let out := if ds.length + soft.length = 0 then ps else soft
  if ds.length + ps.length < 16 then (true, s)
  else if ds.length + soft.length = 0 ∧ prefetch = true then (false, s)
  else
    let i := Config.freeNat s.free 5 % (ds.length + out.length)
    let s := { s with free := s.free + 1 }
    if i < ds.length then (true, { s with lines := Tbl.del s.lines (ds.getD i 0) })
    else match out[i - ds.length]? with
      | some v => (true, { s with pref := s.pref.filter fun l => decide (l ≠ v) })
      | none => (true, s)

/-- A line's entry. -/
def getLine (s : State) (ln : Nat) : Option CacheLine := Tbl.find? s.lines ln

/-- R291: a line may have been evicted and written back since its last access, by lines that the model does not keep: a free bit decides
(log entry 9). -/
def settleLine (ln : Nat) (s : State) : State :=
  match getLine s ln with
  | none => s
  | some _ =>
    let gone := Config.freeBit s.free ln
    let s := { s with free := s.free + 1 }
    if gone then { s with lines := Tbl.del s.lines ln } else s

/-- R292: drop a line without write-back: the stack keeps what it held before. -/
def dropLine (ln : Nat) (s : State) : State :=
  match getLine s ln with
  | none => s
  | some l => { s with lines := Tbl.del s.lines ln, mem := memWriteN s.mem (ln * 128) l.old }

/-- R292: lower a line's count by n; a count of zero drops the line. -/
def lowerLine (ln n : Nat) (s : State) : State :=
  match getLine s ln with
  | none => s
  | some l => if l.count ≤ n then dropLine ln s else { s with lines := Tbl.ins s.lines ln { l with count := l.count - n } }

/-- R291, R292: the effect of a read that reaches the cache. `counted` reads lower the count once; for another unit's read
the number that reaches the cache is free (R292, log entry 9). -/
def lineRead (counted : Bool) (use ln : Nat) (s : State) : State :=
  let s := settleLine ln s
  let n := if counted then 1 else Config.freeNat s.free ln % (use + 1)
  let s := if counted then s else { s with free := s.free + 1 }
  if n = 0 then s else
  let s := match getLine s ln with
    | some _ => s
    | none =>
      let s := (makeRoom false ln s).2
      { s with lines := Tbl.ins s.lines ln { count := use, old := memReadN s.mem (ln * 128) 128 } }
  lowerLine ln n s

/-! ### The Mica cache (R291, R293, R294, R300) -/

/-- R293: lines of the CACHE slices. -/
def micaLines (s : State) : Nat := ((List.range 31).filter fun i => s.micaCache.getLsbD i).length * 131072

/-- R294: the place of a line in the Mica cache: the CACHE slices in order, 131,072 lines each, sets of 16. -/
def micaPlace (s : State) (l : PrefLine) : Nat :=
  Config.cacheSet (if l.remote then 2 ^ 100 + l.dst.toNat * 2 ^ 80 + l.rctx.toNat * 2 ^ 70 + l.line else l.line) % max 1 (micaLines s)

/-- R294: a way for a new line of the Mica cache; in a full set some other line leaves, a PERSIST line last and for a PREFETCH never.
Answers whether there is room. -/
def micaRoom (prefetch : Bool) (l : PrefLine) (s : State) : Bool × State :=
  let ps := s.pref.filter fun o => o.mica && micaPlace s o / 16 == micaPlace s l / 16
  let soft := ps.filter fun o => !o.persist
  let out := if soft.isEmpty then ps else soft
  if micaLines s = 0 then (false, s)
  else if ps.length < 16 then (true, s)
  else if soft.isEmpty && prefetch then (false, s)
  else
    let i := Config.freeNat s.free 5 % out.length
    match out[i]? with
    | some v => (true, { s with free := s.free + 1, pref := s.pref.filter fun o => decide (o ≠ v) })
    | none => (true, { s with free := s.free + 1 })

/-- R187, R300: the same line in the same cache. A line of another module belongs to its context. -/
def sameLine (l o : PrefLine) : Bool :=
  o.mica == l.mica && o.remote == l.remote && o.line == l.line && o.dst == l.dst && o.rctx == l.rctx && (!l.remote || o.ctx == l.ctx)

/-- R300: a line that is in its cache already is tagged again, without a read. -/
def tagLine (l : PrefLine) (s : State) : State :=
  { s with pref := s.pref.map fun o => if sameLine l o then { o with ctx := l.ctx, gen := l.gen } else o }

/-- R291: a line of a PERSIST page is a PERSIST line; in a stack's cache only the first 32 MiB of them. -/
def persistLine (s : State) (l : PrefLine) : Bool :=
  !l.remote && (lineHint s (l.line * 128)).1 == 2 &&
    (l.mica || decide ((s.pref.filter fun o => isSide o && o.persist && sideSet o.line / 32768 == sideSet l.line / 32768).length < 262144))

/-- R300: put a line into its cache, for a PREFETCH or for a read. Answers whether it is there. Data that has arrived for a line that
is present replaces what it held. -/
def fillLine (prefetch : Bool) (l : PrefLine) (s : State) : Bool × State :=
  if s.pref.any (sameLine l) then
    let s := tagLine l s
    (true, if l.remote then { s with pref := s.pref.map fun o => if sameLine l o then { o with data := l.data } else o } else s)
  else
    let l := { l with persist := persistLine s l }
    let r := if l.mica then micaRoom prefetch l s else makeRoom prefetch l.line s
    if r.1 then (true, { r.2 with pref := r.2.pref ++ [l] }) else r

/-- R294: lines of PERSIST pages that a read brings over MI0 enter the Mica cache. The path of a read from another Basalt, or from
outside, is MI0 or the ring (R18): which is free. `own` is the stack that the reader reaches without it. -/
def persistRead (own : Option Nat) (ctx a n : Nat) (s : State) : State :=
  if s.held.any fun h => h.hint == 2 then
    let lns := ((canonRuns s.id (n / 4096 + 2) a n).flatMap fun r => linesOf r.1 r.2).filter fun ln =>
      (lineHint s (ln * 128)).1 == 2 && decide (own ≠ some ((ln * 128 - stackBase 0) / 0x002000000000))
    lns.foldl (fun s ln =>
      let cross := Config.freeBit s.free 6
      let s := { s with free := s.free + 1 }
      if cross then (fillLine false { mica := true, ctx := ctx, gen := (getCtx s ctx).prefGen, line := ln } s).2 else s) s
  else s

/-- R291: the effect of a write on a line's count, before the bytes change. -/
def lineWrite (use ln : Nat) (s : State) : State :=
  let s := settleLine ln s
  match getLine s ln with
  | some l => { s with lines := Tbl.ins s.lines ln { l with count := use } }
  | none =>
    let s := (makeRoom false ln s).2
    { s with lines := Tbl.ins s.lines ln { count := use, old := memReadN s.mem (ln * 128) 128 } }

/-- Whether any memory carries DISCARD_AFTER_LAST. -/
def anyDiscard (s : State) : Bool := s.held.any fun h => h.hint == 3

/-! ### Local accesses -/

/-- R302: where the data of a granule lies, as the number of the granule that lay there at first, after the map-outs of the given channels,
the latest first: its i-th granule in use moved to the i-th freed one. C0 is the stack's original capacity. -/
def granuleHome (c0 : Nat) : List Nat → Nat → Nat
  | [], g => g
  | c :: cs, g =>
    let home := granuleHome c0 cs
    let h := home g
    if channelOf (256 * h) ≠ c then h
    else
      let n := c0 / 32 / 256
      let slab := n * (31 - cs.length)
      let rank := ((List.range g).filter fun x => channelOf (256 * home x) == c).length
      let freed := ((List.range n).map (· + slab)).filter fun x => channelOf (256 * home x) != c
      home (freed.getD rank 0)

/-- R283, R285, R302: stack and channel of a canonical address of a stack. -/
def chanAt (i : Ident) (a : Nat) : Option (Nat × Nat) :=
  if a < stackBase 0 ∨ micaBase ≤ a then none
  else
    let k := (a - stackBase 0) / 0x002000000000
    let o := (a - stackBase 0) % 0x002000000000
    some (k, channelOf (256 * granuleHome (stackC0 i) (i.outChans.getD k []).reverse (o / 256)))

/-- R305: the byte at a canonical address lies on a DEGRADED channel. -/
def mayErr (s : State) (a : Nat) : Bool :=
  match chanAt s.id a with
  | some (k, c) => decide (Tbl.get .normal s.pow.chans (k * 32 + c) = .degraded)
  | none => false

/-- R305: what a read of byte b at a canonical address gives: b, or a changed value where the channel is DEGRADED, by free
values (log entry 95). -/
def seenByte (s : State) (a : Nat) (b : Byte) : Byte :=
  if mayErr s a && Config.freeBit (s.free + s.tb.nowU) a then Config.freeByte (s.free + s.tb.nowU) a else b

/-- R305: read n bytes of memory at a canonical address. -/
def readMem (s : State) (a n : Nat) : Bytes :=
  if s.pow.chans.any fun x => x.2 == .degraded then (memReadN s.mem a n).mapIdx fun i b => seenByte s (a + i) b
  else memReadN s.mem a n

/-- R48: what memory itself holds at a device address. -/
def rawPeek (s : State) (a n : Nat) : Bytes := (canonRuns s.id (n / 4096 + 2) a n).flatMap fun r => memReadN s.mem r.1 r.2

/-- Read n bytes at a device address, without any effect on the caches. -/
def peek (s : State) (a n : Nat) : Bytes :=
  (canonRuns s.id (n / 4096 + 2) a n).flatMap fun r => readMem s r.1 r.2

/-- Write bytes at a device address, without any effect on the caches. -/
def pokeRuns : List (Nat × Nat) → Bytes → List Host.Cell → List Host.Cell
  | [], _, m => m
  | (a, n) :: rs, bs, m => pokeRuns rs (bs.drop n) (memWriteN m a (bs.take n))

/-- R294: a write to a line of this module removes its copy from the Mica cache. -/
def dropMica (lns : List Nat) (s : State) : State :=
  { s with pref := s.pref.filter fun l => !(l.mica && !l.remote && lns.contains l.line) }

/-- Write bytes at a device address: the lines' counts first (R291), then the bytes. -/
def store (a : Nat) (bs : Bytes) (s : State) : State :=
  let runs := canonRuns s.id (bs.length / 4096 + 2) a bs.length
  let s := if anyDiscard s then
      runs.foldl (fun s r => (linesOf r.1 r.2).foldl (fun s ln =>
        match discardUse s (ln * 128) with
        | some u => lineWrite u ln s
        | none => s) s) s
    else s
  let s := if s.pref.isEmpty then s else dropMica (runs.flatMap fun r => linesOf r.1 r.2) s
  { s with mem := pokeRuns runs bs s.mem }

/-- What a command's reads have done to DISCARD_AFTER_LAST lines (R292). -/
structure ReadLog where
  /-- The lines counted so far. -/
  seen : List Nat := []
  /-- R166: the lines that its own read dropped, with what it read. -/
  kept : Tbl Bytes := []
deriving DecidableEq, Repr

/-- One line of a read: a counted line that the read drops is kept for the command, which reads it once. -/
def countLine (counted : Bool) (use ln : Nat) (x : State × ReadLog) : State × ReadLog :=
  let bs := memReadN x.1.mem (ln * 128) 128
  let s := lineRead counted use ln x.1
  (s, { seen := ln :: x.2.seen
        kept := if counted && (getLine s ln).isNone then Tbl.ins x.2.kept ln bs else x.2.kept })

/-- The effect on last-use counts of reading n bytes at a device address; lines that the command has read have been counted already. -/
def countReads (counted : Bool) (log : ReadLog) (a n : Nat) (s : State) : State × ReadLog :=
  if anyDiscard s then
    let lns := ((canonRuns s.id (n / 4096 + 2) a n).flatMap fun r => linesOf r.1 r.2).filter fun ln =>
      !(counted && log.seen.contains ln)
    lns.foldl (fun (x : State × ReadLog) ln =>
      match discardUse x.1 (ln * 128) with
      | some u => countLine counted u ln x
      | none => x) (s, log)
  else (s, log)

/-- R166, R292: the bytes of a read, those of a line that the command's own read dropped as it read them. -/
def keptBytes (i : Ident) (kept : Tbl Bytes) (a : Nat) (bs : Bytes) : Bytes :=
  if kept.isEmpty then bs
  else bs.mapIdx fun j b =>
    let x := canon i (a + j)
    match Tbl.find? kept (x / 128) with
    | some l => l.getD (x % 128) b
    | none => b

/-! ### Whole-context accesses of firmware and of unpredictable commands -/

/-- Write one byte for a context, if its mappings allow it and the page is local. -/
def ctxPoke (ctx va : Nat) (b : Byte) (s : State) : State :=
  match translate s ctx va true with
  | some m => if m.remote then s else store (mapTarget m va) [b] s
  | none => s

/-- R4: an unpredictable command may write any value to any location that the context's mappings let it write. -/
def havocMem (ctx : Nat) (s : State) : State :=
  let ws := Config.freeWrites s.free
  ws.foldl (fun s w => ctxPoke ctx w.1 w.2 s) { s with free := s.free + 1 }

/-- Read a byte run of a context for which every page must be local (rings, images): none if any page fails. -/
def ctxPeek (s : State) (ctx : Nat) : Nat → Nat → Nat → Option Bytes
  | 0, _, _ => some []
  | fuel + 1, va, n =>
    if n = 0 then some [] else
    match translate s ctx va false with
    | none => none
    | some m =>
      if m.remote then none else
      let k := pageRun m va n
      (ctxPeek s ctx fuel (va + k) (n - k)).map fun bs => peek s (mapTarget m va) k ++ bs

end Sys2Proof.Machine
end

