-- ==== Sys2Proof/Machine/Net.lean ====
section
/-!
DEFINITION. Packets and routes: building a packet (R312-R314), dimension-order routes and datelines (R316), injection
through the route-around table (R317, R318), requests that wait for a response (R311) and management messages (R352).
-/
namespace Sys2Proof.Machine

/-! ### Packets (R312-R314) -/

/-- R313: packet type codes. -/
def ptWrite : Nat := 1
def ptReadReq : Nat := 2
def ptReadResp : Nat := 3
def ptAck : Nat := 4
def ptNack : Nat := 5
def ptCtrAdd : Nat := 6
def ptColl : Nat := 7
def ptFeed : Nat := 8
def ptTick : Nat := 9
def ptProbe : Nat := 10
def ptProbeReply : Nat := 11
def ptMgmt : Nat := 12

/-- R313: the virtual channel of each packet type. -/
def ptVc (t : Nat) : Nat :=
  if t = 1 ∨ t = 2 ∨ t = 6 ∨ t = 8 then 0 else if t = 3 ∨ t = 4 ∨ t = 5 then 1 else if t = 7 then 2 else 3

/-- R312: header bytes 0-27. -/
def packetHead (p : Packet) : Bytes :=
  [p.ptype, p.flags] ++ leBytes 2 p.dst.toNat ++ leBytes 2 p.src.toNat ++ [p.dstCtx, p.srcCtx] ++ leBytes 2 p.length.toNat
    ++ leBytes 2 p.lseq.toNat ++ leBytes 4 p.txn.toNat ++ leBytes 8 p.addr.toNat ++ leBytes 2 p.wp.toNat ++ [p.hops, 0]

/-- R314: HCRC over bytes 0-27. -/
def packetCrc (p : Packet) : BitVec 32 := crc32c (packetHead p)

/-- R314: the packet with its HCRC computed again. -/
def sealPacket (p : Packet) : Packet := { p with hcrc := packetCrc p }

/-- R312: module address of a DST or SRC field. -/
def dstAddr (d : BitVec 16) : BitVec 12 := d.extractLsb' 0 12
/-- R312: EDGE of a DST or SRC field. -/
def dstEdge (d : BitVec 16) : Nat := bits d.toNat 13 12
/-- R312: DL, WP_ACTIVE and PF of FLAGS. -/
def packetDl (p : Packet) : Bool := p.flags.getLsbD 5
def packetWpActive (p : Packet) : Bool := p.flags.getLsbD 4
def packetPf (p : Packet) : Bool := p.flags.getLsbD 3

/-- A packet of a type that this module sends. -/
def mkPacket (s : State) (ptype : Nat) (dst : BitVec 16) (dctx sctx txn addr : Nat) (payload : Bytes) : Packet :=
  { ptype := BitVec.ofNat 8 ptype, flags := BitVec.ofNat 8 (ptVc ptype * 64), dst := dst, src := s.id.addr.setWidth 16,
    dstCtx := BitVec.ofNat 8 dctx, srcCtx := BitVec.ofNat 8 sctx, length := BitVec.ofNat 16 payload.length,
    txn := BitVec.ofNat 32 txn, addr := BitVec.ofNat 64 addr, payload := payload }

/-! ### Routes (R309, R316, R328) -/

/-- R309: coordinate of an address in dimension 0 (X), 1 (Y) or 2 (Z). -/
def coord (a : BitVec 12) (dim : Nat) : Nat := bits a.toNat (11 - 4 * dim) (8 - 4 * dim)

/-- R309: size of a dimension. -/
def dimSize (i : Ident) (dim : Nat) : Nat :=
  (if dim = 0 then i.dx.toNat else if dim = 1 then i.dy.toNat else i.dz.toNat) + 1

/-- R319: the address lies within the configured sizes. -/
def inTorus (i : Ident) (a : BitVec 12) : Bool := [0, 1, 2].all fun d => decide (coord a d < dimSize i d)

/-- R316: output port in one dimension, if the packet must move in it: the + port 2 dim, or the - port 2 dim + 1. -/
def dimHop (i : Ident) (cur dst : BitVec 12) (dim : Nat) : Option Nat :=
  let n := dimSize i dim
  let d := (coord dst dim + n - coord cur dim % n) % n
  if d = 0 then none else if 2 * d ≤ n then some (2 * dim) else some (2 * dim + 1)

/-- R316: output port toward an address: first X, then Y, then Z; none at the address itself. -/
def routePort (i : Ident) (cur dst : BitVec 12) : Option Nat :=
  match dimHop i cur dst 0 with
  | some p => some p
  | none =>
    match dimHop i cur dst 1 with
    | some p => some p
    | none => dimHop i cur dst 2

/-- R309: the neighbour at a torus port. -/
def neighbourAt (i : Ident) (a : BitVec 12) (port : Nat) : BitVec 12 :=
  let dim := port / 2
  let n := dimSize i dim
  let c := coord a dim
  let c' := if port % 2 = 0 then (c + 1) % n else (c + n - 1) % n
  BitVec.ofNat 12 (a.toNat - c * 16 ^ (2 - dim) + c' * 16 ^ (2 - dim))

/-- R316: the arrival on a port at this address has just crossed the dateline of the port's dimension. -/
def crossedDateline (i : Ident) (port : Nat) : Bool :=
  let c := coord i.addr (port / 2)
  if port % 2 = 1 then c == 0 else c + 1 == dimSize i (port / 2)

/-- R316: dateline class of a packet that arrived on one port and leaves on another. -/
def forwardDl (i : Ident) (arrival out : Nat) (dl : Bool) : Bool :=
  if arrival / 2 = out / 2 then dl || crossedDateline i arrival else false

/-- R328: the pod coordinates of an address: a dimension of size 1 has one coordinate. -/
def podOf (i : Ident) (a : BitVec 12) : List Nat :=
  [0, 1, 2].map fun d => if dimSize i d = 1 then 0 else coord a d / 4

/-! ### Ports -/

/-- The state of a port. -/
def getPort (s : State) (p : Nat) : Port := Tbl.get {} s.fab.ports p

/-- Change a port. -/
def modPort (p : Nat) (f : Port → Port) (s : State) : State :=
  { s with fab := { s.fab with ports := Tbl.put {} s.fab.ports p (f (getPort s p)) } }

/-- R307, R334: whether a port is in service. -/
def portUp (p : Port) : Bool :=
  match p.st with
  | .up | .degraded | .retuning => true
  | .down | .training => false

/-- R319: count a packet lost on a DOWN link. -/
def countDown (port n : Nat) (s : State) : State :=
  modPort port (fun q => { q with downDrop := satAdd q.downDrop n }) s

/-- R313, R319, R321: count a packet that cannot be routed. -/
def countUnroutable (port : Nat) (s : State) : State :=
  modPort port (fun q => { q with unroutable := satAdd q.unroutable 1 }) s

/-- R308: the replay buffer holds the packets sent last, 1 MiB of them. -/
def replayBuffer : List Packet → List Packet
  | [] => []
  | p :: ps => if ((p :: ps).map fun x => 32 + x.payload.length).foldl (· + ·) 0 ≤ 0x100000 then p :: ps else replayBuffer ps

/-- R308, R314: send a packet on a port with its link sequence number and a fresh HCRC; a DOWN link drops it (R319). -/
def sendOn (port : Nat) (p : Packet) (s : State) : State :=
  let q := getPort s port
  if portUp q then
    let p' := sealPacket { p with lseq := q.txSeq }
    let s := modPort port (fun q => { q with txSeq := q.txSeq + 1, txq := replayBuffer (q.txq ++ [p']) }) s
    { s with fab := { s.fab with outbox := s.fab.outbox ++ [(port, p')] } }
  else countDown port 1 s

/-- Hand a packet to this module itself: it arrives on port 8. -/
def sendSelf (p : Packet) (s : State) : State :=
  { s with fab := { s.fab with outbox := s.fab.outbox ++ [(8, sealPacket p)] } }

/-- R318: index of the first route-around entry, at or after i, that matches DST (n entries left to look at). -/
def raMatchFrom (s : State) (dst : BitVec 12) : Nat → Nat → Option RaEntry
  | 0, _ => none
  | n + 1, i =>
    let e := Tbl.get {} s.fab.routes i
    if e.valid && (dst &&& e.mask) == e.value then some e else raMatchFrom s dst n (i + 1)

/-- R318: the entry that applies to a destination. -/
def raMatch (s : State) (dst : BitVec 12) : Option RaEntry := raMatchFrom s dst 64 0

/-- R316: send a packet, whose WP_ACTIVE and WP are set, toward its present target in dateline class dl. A packet whose
target is this module goes to the module, or to the edge port that EDGE names (R321). -/
def routeOut (p : Packet) (dl : Option Nat) (s : State) : State :=
  let target := if packetWpActive p then p.wp.extractLsb' 0 12 else dstAddr p.dst
  if !inTorus s.id target then countUnroutable (dl.getD 0) s
  else
    match routePort s.id s.id.addr target with
    | none =>
      match dstEdge p.dst with
      | 0 => sendSelf p s
      | 1 => sendOn 6 p s
      | 2 => sendOn 7 p s
      | _ => countUnroutable (dl.getD 0) s
    | some port =>
      let c := match dl with
        | none => false
        | some a => if a < 6 then forwardDl s.id a port (packetDl p) else false
      let f := if c then p.flags ||| 0x20 else p.flags &&& 0xDF
      sendOn port { p with flags := f } s

/-- R318: inject a packet: the route-around table may give it a waypoint. -/
def injectNow (p : Packet) (s : State) : State :=
  let a := dstAddr p.dst
  match (if a == s.id.addr then none else raMatch s a) with
  | none => routeOut { p with flags := p.flags &&& 0xEF, wp := 0 } none s
  | some e =>
    if e.waypoint == s.id.addr then routeOut { p with flags := p.flags &&& 0xEF, wp := 0 } none s
    else routeOut { p with flags := p.flags ||| 0x10, wp := e.waypoint.setWidth 16 } none s

/-- R317: a destination whose later packets are held. -/
def isHeld (s : State) (a : BitVec 12) : Bool := s.fab.holds.any fun h => h.1 == a

/-- Send a packet from this module: held while a change of route to its destination waits (R317). -/
def sendPacket (p : Packet) (s : State) : State :=
  let a := dstAddr p.dst
  if isHeld s a then
    { s with fab := { s.fab with
        holds := s.fab.holds.map fun h => if h.1 == a then (h.1, h.2 ++ [p]) else h } }
  else injectNow p s

/-- R317: a request packet that is held, and whose request has been abandoned. -/
def abandoned (s : State) (p : Packet) : Bool :=
  (p.ptype == 1 || p.ptype == 2 || p.ptype == 6) && !s.fab.reqs.any fun r => r.txn == p.txn && !r.dropped

/-- R317: send the held packets of every destination that has no earlier request waiting for a response. A request that was abandoned
meanwhile is not sent. -/
def releaseHolds (s : State) : State :=
  let free := fun (a : BitVec 12) => !s.fab.reqs.any fun r => !r.dropped && !r.held && dstAddr r.dst == a
  let go := s.fab.holds.filter fun h => free h.1
  let s := { s with fab := { s.fab with
    holds := s.fab.holds.filter fun h => !free h.1
    reqs := s.fab.reqs.map fun r => if free (dstAddr r.dst) then { r with held := false } else r } }
  go.foldl (fun s h => (h.2.filter fun p => !abandoned s p).foldl (fun s p => injectNow p s) s) s

/-- R317: hold later packets to every destination with a request waiting whose route a new table changes. -/
def setRoutes (routes : Tbl RaEntry) (s : State) : State :=
  let s' : State := { s with fab := { s.fab with routes := routes } }
  let dsts := ((s.fab.reqs.filter fun r => !r.dropped && !r.held).map fun r => dstAddr r.dst).eraseDups
  let changed := dsts.filter fun a => !isHeld s a && decide (raMatch s a ≠ raMatch s' a)
  { s' with fab := { s'.fab with holds := s'.fab.holds ++ changed.map fun a => (a, []) } }

/-! ### Requests (R310, R311) -/

/-- Issue a request packet and keep it until its response; `k` is the command that waits for it. -/
def request (ptype ctx : Nat) (k : Option Nat) (dst : BitVec 16) (rctx : BitVec 8) (addr len va owner : Nat)
    (payload : Bytes) (pf : Bool) (gen : BitVec 16) (s : State) : State :=
  let txn := s.fab.txn
  let p := mkPacket s ptype dst rctx.toNat ctx txn.toNat addr payload
  let p := if pf then { p with flags := p.flags ||| 0x08 } else p
  let r : OutReq := { txn := txn, ptype := BitVec.ofNat 8 ptype, ctx := ctx, k := k, dst := dst, rctx := rctx, addr := addr,
                      len := len, va := va, owner := owner, pf := pf, gen := gen, held := isHeld s (dstAddr dst) }
  sendPacket p { s with fab := { s.fab with txn := txn + 1, reqs := s.fab.reqs ++ [r] } }

/-- R310: cut a run of bytes at every 4,096-byte boundary of the destination address: (offset, length) pieces (fuel: pieces). -/
def cutRun (addr : Nat) : Nat → Nat → Nat → List (Nat × Nat)
  | 0, _, _ => []
  | fuel + 1, off, n =>
    if n = 0 then [] else
    let m := min n (4096 - (addr + off) % 4096)
    (off, m) :: cutRun addr fuel (off + m) (n - m)

/-- R310: the pieces of an access: only one longer than 4,096 bytes is split. -/
def pieces (addr n : Nat) : List (Nat × Nat) := if n ≤ 4096 then (if n = 0 then [] else [(0, n)]) else cutRun addr (n / 4096 + 2) 0 n

/-- R311: answer a request packet. -/
def respond (p : Packet) (ptype : Nat) (payload : Bytes) (s : State) : State :=
  sendPacket { mkPacket s ptype p.src p.srcCtx.toNat p.dstCtx.toNat p.txn.toNat 0 payload with dst := p.src } s

/-- R311: answer NACK with a status code. -/
def nack (p : Packet) (status : Nat) (s : State) : State := respond p ptNack (leBytes 2 status) s

/-! ### Management messages (R352) -/

/-- R352: the payload of a management message. -/
def mgmtPayload (code mseq : Nat) (body : Bytes) : Bytes :=
  let head := leBytes 2 code ++ leBytes 2 body.length ++ leBytes 4 mseq ++ body
  head ++ leBytes 4 (crc32c head).toNat

/-- R352: every message except HELLO, HEARTBEAT, BEACON and MGMT_ACK is acknowledged. -/
def mgmtAcked (code : Nat) : Bool := !(code == 0x01 || code == 0x04 || code == 0x06 || code == 0x11)

/-- R352: send a management message to a module. -/
def mgmtSend (dst : BitVec 12) (code : Nat) (body : Bytes) (s : State) : State :=
  let m := s.fab.mseq
  let pl := mgmtPayload code m.toNat body
  let out : MgmtOut := { mseq := m, dst := dst, payload := pl, tries := 0, sentU := s.tb.nowU }
  let un := if mgmtAcked code then s.fab.unacked ++ [out] else s.fab.unacked
  let s := { s with fab := { s.fab with mseq := m + 1, unacked := un } }
  sendPacket (mkPacket s ptMgmt (dst.setWidth 16) 0 0 0 0 pl) s

/-- R352: send a management message over one link. -/
def mgmtSendOn (port : Nat) (code : Nat) (body : Bytes) (s : State) : State :=
  let m := s.fab.mseq
  let s := { s with fab := { s.fab with mseq := m + 1 } }
  sendOn port (mkPacket s ptMgmt ((neighbourAt s.id s.id.addr port).setWidth 16) 0 0 0 0 (mgmtPayload code m.toNat body)) s

/-- R334: the pod manager that the module knows: itself in a manager's role, else the one that confirmed its join. -/
def managerOf (s : State) : Option (BitVec 12) :=
  match s.id.role with
  | .worker => if s.fab.confirmed then some s.fab.manager else none
  | .podManager | .systemManager => some s.id.addr

/-- R326, R329, R330: the manager that the module has joined: a pod manager the system manager, another module its pod manager. -/
def joinedTo (s : State) : BitVec 12 := if s.id.role = .podManager then s.fab.sysManager else s.fab.manager

/-- R319, R330: a fabric manager sends the ROUTE_SET messages that cover a lost link or module; which entries is free (log entry
31). -/
def sendCovers (s : State) : State :=
  match s.id.role with
  | .worker => s
  | .podManager | .systemManager =>
    let rs := Config.coverRoutes s.free
    rs.foldl (fun s r =>
      let es := r.2.2.2.take (64 - r.2.1 % 64)
      mgmtSend r.1 0x0C (leBytes 1 es.length ++ leBytes 1 (r.2.1 % 64) ++ leBytes 1 (b2n r.2.2.1) ++ leBytes 5 0
        ++ es.flatMap fun e => leBytes 8 e.toNat) s) { s with free := s.free + 1 }

/-- R319: a fabric manager removes covering entries once links are UP again: ROUTE_SET messages that clear VALID; which entries is free
(log entry 31). -/
def sendUncovers (s : State) : State :=
  match s.id.role with
  | .worker => s
  | .podManager | .systemManager =>
    let rs := Config.coverRoutes s.free
    rs.foldl (fun s r =>
      let es := r.2.2.2.take (64 - r.2.1 % 64)
      mgmtSend r.1 0x0C (leBytes 1 es.length ++ leBytes 1 (r.2.1 % 64) ++ leBytes 1 0 ++ leBytes 5 0
        ++ es.flatMap fun e => leBytes 8 (e.toNat % 2 ^ 63)) s) { s with free := s.free + 1 }

/-- R353: a module address field: bit 15 is set when no address is given. -/
def addrField (a : Option (BitVec 12)) : Bytes :=
  match a with
  | some a => leBytes 2 a.toNat
  | none => leBytes 2 0x8000

end Sys2Proof.Machine
end

