-- ==== Sys2Proof/Machine/Ops.lean ====
section
/-!
DEFINITION. The operations that the families of commands share: status codes (R70), the fields of a descriptor (R51), sync
counters (R59, R60, R176), interrupts and events (R337, R347), the error log (R407), fault records and context images
(R385-R390, R405, R406), and how a command ends (R67-R69, R89).
-/
namespace Sys2Proof.Machine

/-! ### Status codes (R70, R346) -/

def stOk : Nat := 0x0000
def stPartial : Nat := 0x0001
def stSaturated : Nat := 0x0002
def stRegularized : Nat := 0x0003
def stWarm : Nat := 0x0004
def stAlignLoss : Nat := 0x0005
def stCtxGone : Nat := 0x0010
def stResetAborted : Nat := 0x0011
def stFenced : Nat := 0x0012
def stTranslation : Nat := 0x0020
def stNanTrap : Nat := 0x0021
def stRangeTrap : Nat := 0x0022
def stHang : Nat := 0x0023
def stPivot : Nat := 0x0024
def stUnitError : Nat := 0x0025
def stIntegrity : Nat := 0x0030
def stDeferred : Nat := 0x0031
def stCapUnmet : Nat := 0x0040
def stThermal : Nat := 0x0041
def stNotPermitted : Nat := 0x0050
def stNoResource : Nat := 0x0051
def stBadArgument : Nat := 0x0052
def stBadMessage : Nat := 0x0053

/-- R69: the fault class. -/
def isFault (st : Nat) : Bool := (0x20 ≤ st && st ≤ 0x2F) || st == 0x30

/-- R69: success or a warning. -/
def isGood (st : Nat) : Bool := decide (st < 0x10)

/-! ### Descriptors (R51) -/

/-- R51 OPCODE. -/
def cmdOp (c : Cmd) : Nat := field c.blocks 0 1
/-- R51 FLAGS. -/
def cmdFlags (c : Cmd) : Nat := field c.blocks 1 1
/-- R51 flags, by bit of the header. -/
def cmdWaitEn (c : Cmd) : Bool := bitOf (cmdFlags c) 0
def cmdSigEn (c : Cmd) : Bool := bitOf (cmdFlags c) 1
def cmdSigOnErr (c : Cmd) : Bool := bitOf (cmdFlags c) 2
def cmdReplayable (c : Cmd) : Bool := bitOf (cmdFlags c) 3
def cmdBarrier (c : Cmd) : Bool := bitOf (cmdFlags c) 4
def cmdCompl (c : Cmd) : Bool := bitOf (cmdFlags c) 5
def cmdIrq (c : Cmd) : Bool := bitOf (cmdFlags c) 6
/-- R51 PRIO. -/
def cmdPrio (c : Cmd) : Nat := bits (field c.blocks 2 1) 1 0
/-- R51 EXT, from a header block. -/
def headExt (h : Bytes) : Nat := bits (field h 2 1) 4 2
/-- R51 SIG_INC. -/
def cmdSigInc (c : Cmd) : Nat := bits (field c.blocks 3 1) 3 0
/-- R51 SEQ. -/
def cmdSeq (c : Cmd) : Nat := field c.blocks 4 4
/-- R51 WAIT_CTR. -/
def cmdWaitCtr (c : Cmd) : Nat := field c.blocks 8 2
/-- R51 WAIT_VALUE. -/
def cmdWaitValue (c : Cmd) : Nat := field c.blocks 10 2
/-- R51 SIG_CTR. -/
def cmdSigCtr (c : Cmd) : Nat := field c.blocks 12 2
/-- R51 INTEGRITY. -/
def cmdIntegrity (c : Cmd) : Nat := field c.blocks 14 2
/-- A field of the body: descriptor byte and length. -/
def body (c : Cmd) (off len : Nat) : Nat := field c.blocks off len

/-- R65: the engines that execute commands. -/
inductive Engine where
  | cp | power | movers | matrix | vector | update | solver | coll | reserved
deriving DecidableEq, Repr

/-- R65: the engine of an opcode. -/
def opEngine (op : Nat) : Engine :=
  if op ≤ 0x04 ∨ op = 0x06 then .cp
  else if op = 0x05 then .power
  else if 0x10 ≤ op ∧ op ≤ 0x15 then .movers
  else if 0x20 ≤ op ∧ op ≤ 0x24 then .matrix
  else if 0x30 ≤ op ∧ op ≤ 0x31 then .vector
  else if 0x40 ≤ op ∧ op ≤ 0x41 then .update
  else if 0x50 ≤ op ∧ op ≤ 0x54 then .solver
  else if (0x60 ≤ op ∧ op ≤ 0x65) ∨ op = 0x70 then .coll
  else .reserved

/-- R65: a collective command. -/
def isColl (c : Cmd) : Bool := decide (opEngine (cmdOp c) = .coll)

/-- R67: the completing unit of a command. A collective runs on the Quartz of its group (R250). -/
def cmdUnit (s : State) (c : Cmd) : Nat :=
  match opEngine (cmdOp c) with
  | .cp | .matrix | .vector | .reserved => 0x10 + c.basalt
  | .power => 0x40
  | .movers | .update | .solver => 0x20 + c.basalt
  | .coll =>
    match Tbl.find? s.groups (body c 16 2) with
    | some g => 0x30 + g.qz
    | none => 0x30

/-- R56, R67: the unit that completes a command: its engine once it has started, the command processor of its Basalt before. -/
def doneUnit (s : State) (c : Cmd) : Nat := if c.begun then cmdUnit s c else 0x10 + c.basalt

/-! ### Looking up and changing commands and queues -/

/-- A fetched command by its fetch number. -/
def findCmd (s : State) (k : Nat) : Option Cmd := s.cmds.find? fun c => c.k == k

/-- Change a fetched command. -/
def modCmd (k : Nat) (f : Cmd → Cmd) (s : State) : State :=
  { s with cmds := s.cmds.map fun c => if c.k = k then f c else c }

/-- Change the kept engine state of a command. -/
def modProg (k : Nat) (f : Progress → Progress) (s : State) : State :=
  modCmd k (fun c => { c with prog := f c.prog }) s

/-- A queue by its global number. -/
def findQueue (s : State) (q : Nat) : Option Queue := Tbl.find? s.queues q

/-- Change a queue. -/
def modQueue (q : Nat) (f : Queue → Queue) (s : State) : State :=
  match findQueue s q with
  | none => s
  | some x => { s with queues := Tbl.ins s.queues q (f x) }

/-- The compute domain is fenced or in reset (R393). -/
def inReset (s : State) : Bool :=
  match s.rst.stage with
  | .none => false
  | .detected => false
  | .fenced => true
  | .dumped => true
  | .reset => true

/-- R356, R393: command processors fetch: neither fenced nor with a compute reset that was detected during a handover. -/
def fetchStopped (s : State) : Bool := inReset s || (decide (s.rst.stage = .detected) && s.rst.held)

/-- R381: a wake source acts on the power manager. -/
def wakeUp (s : State) : State :=
  if s.pow.pst = .active then s else { s with pow := { s.pow with wake := true } }

/-- R380: an access to a stack in SLEEP takes the module to DOZE. -/
def touchStacks (s : State) : State :=
  if s.pow.pst = .sleep then { s with pow := { s.pow with pst := .doze, idleU := some s.tb.nowU } } else s

/-! ### Issue credit (R125, R365) -/

/-- A cluster's grant. -/
def getCluster (s : State) (basalt cl : Nat) : Cluster := Tbl.get {} s.clusters (basalt * 16 + cl)

/-- Change a cluster. -/
def modCluster (basalt cl : Nat) (f : Cluster → Cluster) (s : State) : State :=
  { s with clusters := Tbl.put {} s.clusters (basalt * 16 + cl) (f (getCluster s basalt cl)) }

/-- Array cycles (1.5 GHz) in a span of the model's time unit. -/
def arrayCycles (d : Nat) : Nat := d * 3 / (2 * nsU)

/-- R125: the issue credit of a cluster now, in 1/64 of an array cycle. -/
def creditNow (s : State) (b c : Nat) : Nat :=
  let x := getCluster s b c
  min (77 * 64) (x.credit + s.pow.f.getD b 0 * arrayCycles (s.tb.nowU - x.creditU))

/-- R125: reckon a cluster's credit up to now and take n cycles of it. -/
def takeCredit (b c n : Nat) (s : State) : State :=
  let v := creditNow s b c - 64 * n
  modCluster b c (fun x => { x with credit := v, creditU := s.tb.nowU }) s

/-- R365: set the issue fractions; credit earned so far stays. -/
def setF (fs : List Nat) (s : State) : State :=
  let s := ((List.range 8).filter fun b => decide (fs.getD b 0 ≠ s.pow.f.getD b 0)).foldl (fun s b =>
    (List.range 16).foldl (fun s c => takeCredit b c 0 s) s) s
  { s with pow := { s.pow with f := fs } }

/-! ### PCIe functions: interrupts and events (R337, R343, R347) -/

/-- A function. -/
def getFn (s : State) (f : Nat) : Fn := Tbl.get {} s.fns f
/-- Change a function. -/
def modFn (f : Nat) (g : Fn → Fn) (s : State) : State := { s with fns := Tbl.put {} s.fns f (g (getFn s f)) }

/-- PCIe: an MSI-X table entry is masked until software unmasks it (log entry 11). -/
def msixDefault : BitVec 128 := 1#128 <<< 96
/-- An MSI-X table entry of a function. -/
def msixEntry (f : Fn) (v : Nat) : BitVec 128 := Tbl.get msixDefault f.msixTbl v
/-- Its mask bit. -/
def msixMasked (f : Fn) (v : Nat) : Bool := (msixEntry f v).getLsbD 96

/-- Raise an MSI-X vector: sent, or its pending bit set while it is masked or PERST# is asserted (R337, R423). -/
def raiseMsix (fn v : Nat) (s : State) : State :=
  let f := getFn s fn
  if msixMasked f v || s.sup.perst then
    modFn fn (fun f => { f with msixPend := if f.msixPend.contains v then f.msixPend else f.msixPend ++ [v] }) s
  else { s with msix := s.msix ++ [(fn, v)] }

/-- R343: header and body of a response or an event, with its CHECK. -/
def message (s : State) (code flags tag status : Nat) (bd : Bytes) : Bytes :=
  let h := leBytes 2 code ++ leBytes 1 flags ++ [0] ++ leBytes 4 tag ++ leBytes 2 bd.length ++ leBytes 2 status ++ leBytes 4 0
    ++ leBytes 8 s.ftw.toNat ++ leBytes 4 0
  h ++ leBytes 4 (crc32c (h ++ bd)).toNat ++ bd

/-- R347: post an event into the ring of one function. -/
def postEventF (fn code flags tag status : Nat) (bd : Bytes) (s : State) : State :=
  let f := getFn s fn
  if f.evTail - f.evHead = 128 then
    modFn fn (fun f => { f with evLost := true, evDropped := f.evDropped + 1 }) s
  else
    let e := padTo 64 (message s code flags tag status bd)
    let s := modFn fn (fun f => { f with
      evRing := Tbl.put [] f.evRing (f.evTail.toNat % 128) e, evTail := f.evTail + 1 }) s
    if f.vecEn then raiseMsix fn f.vec.toNat s else s

/-- R347: post an event to one function. -/
def postEvent (fn code status : Nat) (bd : Bytes) (s : State) : State := postEventF fn code 2 0 status bd s

/-- R347: post a module-wide event to every function. -/
def postAll (code status : Nat) (bd : Bytes) (s : State) : State :=
  (List.range 32).foldl (fun s fn => postEvent fn code status bd s) s

/-! ### Error log (R407) -/

/-- R407: write an entry of the error log. -/
def logEntry (code status : Nat) (arg : Bytes) (s : State) : State :=
  let h := leBytes 4 s.log.next ++ leBytes 2 code ++ leBytes 2 status ++ leBytes 8 s.ftw.toNat ++ leBytes 8 s.rtcUs
    ++ padTo 32 arg ++ leBytes 4 0
  let e := h ++ leBytes 4 (crc32c h).toNat
  { s with log := { s.log with next := s.log.next + 1, ring := Tbl.put [] s.log.ring (s.log.next % 2048) e } }

/-! ### Sync counters (R59, R60, R176) -/

/-- R59: a counter's value. -/
def ctrGet (s : State) (n : Nat) : W64 := Tbl.get 0 s.counters n

/-- R59: whether a context owns a counter. -/
def ctrOwned (s : State) (ctx n : Nat) : Bool := Tbl.get 0 s.ctrOwner (n / 64) == ctx + 1

/-- Set a counter without any other effect. -/
def ctrPut (n : Nat) (v : W64) (s : State) : State := { s with counters := Tbl.put 0 s.counters n v }

/-- The commands of a queue that are fetched and not complete, oldest first. -/
def queueCmds (s : State) (q : Nat) : List Cmd := s.cmds.filter fun c => c.q == q

/-- R57: the oldest command of a queue that has not started; none once that command has ended, because then no later command
starts. -/
def headCmd (s : State) (q : Nat) : Option Cmd :=
  match (queueCmds s q).find? fun c => !c.begun with
  | some c => if c.st = .fetched then some c else none
  | none => none

/-- R66, log entry 16: a started WAIT_COUNT, WAIT_FRAME or FENCE holds the later commands of its queue. -/
def heldByWait (s : State) (q : Nat) : Bool :=
  (queueCmds s q).any fun c => decide (c.st = .started) && (cmdOp c == 1 || cmdOp c == 2 || cmdOp c == 4)

/-- R61: a counter value satisfies a header wait. -/
def waitSat (c : Cmd) (v : W64) : Bool := decide ((v.toNat % 65536 + 65536 - cmdWaitValue c) % 65536 < 0x8000)

/-- R57, R61: a command whose header wait on a counter is pending: the head of an active queue that nothing else holds. -/
def headWaits (s : State) (n : Nat) (c : Cmd) : Bool :=
  cmdWaitEn c && cmdWaitCtr c == n && c.intact && decide ((headCmd s c.q).map (·.k) = some c.k)
    && decide ((getCtx s c.ctx).st = .active) && !heldByWait s c.q

/-- R60: an update of counter n from one value to another releases each waiter whose threshold the old value met already or the
new value meets; a WAIT_COUNT keeps the value. -/
def releaseWaiter (s : State) (n : Nat) (old new : W64) (c : Cmd) : Cmd :=
  if !ctrOwned s c.ctx n then c
  else if c.st = .started ∧ cmdOp c = 2 ∧ body c 16 2 = n ∧ c.released = none then
    if body c 24 8 ≤ old.toNat then { c with released := some old }
    else if body c 24 8 ≤ new.toNat then { c with released := some new } else c
  else if headWaits s n c && (waitSat c old || waitSat c new) then { c with waitMet := true }
  else c

/-- R60: one update of a counter: its new value, and the waiters that it releases. -/
def ctrUpdate (n : Nat) (v : W64) (s : State) : State :=
  let old := ctrGet s n
  ctrPut n v { s with cmds := s.cmds.map (releaseWaiter s n old v) }

/-- A stage-queue end. -/
def findEnd (s : State) (e : Nat) : Option StageEnd := Tbl.find? s.ends e

/-- Change a stage-queue end. -/
def modEnd (e : Nat) (f : StageEnd → StageEnd) (s : State) : State :=
  match findEnd s e with
  | none => s
  | some x => { s with ends := Tbl.ins s.ends e (f x) }

/-- R176: counter and context of a stage-queue peer: this module's own record, or what the peer holds (log entry 6). -/
def peerOf (s : State) (x : StageEnd) : Nat × Nat :=
  if x.peer == s.id.addr then
    match findEnd s x.peerEnd with
    | some y => (y.ownCtr, y.ctx)
    | none => ((Config.peerCtr x.peer.toNat x.peerEnd).toNat, (Config.peerCtx x.peer.toNat x.peerEnd).toNat)
  else ((Config.peerCtr x.peer.toNat x.peerEnd).toNat, (Config.peerCtx x.peer.toNat x.peerEnd).toNat)

/-- R176: send a CTR_ADD to the peer of an end; answers its transaction number. -/
def sendAdd (x : StageEnd) (v : W64) (s : State) : BitVec 32 × State :=
  let pc := peerOf s x
  let pl := leBytes 2 pc.1 ++ leBytes 6 0 ++ leBytes 8 v.toNat
  (s.fab.txn, request ptCtrAdd x.ctx none (x.peer.setWidth 16) (BitVec.ofNat 8 pc.2) 0 0 0 0 pl false 0 s)

/-- R176: forward an increase of SEND_CTR. Adds of one end are sent one at a time, so that they arrive once and in order
(log entry 12). -/
def forwardAdd (e : Nat) (v : W64) (s : State) : State :=
  match findEnd s e with
  | none => s
  | some x =>
    if x.lost then s
    else if x.unacked.isEmpty && !inReset s then
      let r := sendAdd x v s
      modEnd e (fun x => { x with unacked := x.unacked ++ [(r.1, v)] }) r.2
    else modEnd e (fun x => { x with unacked := x.unacked ++ [(0, v)] }) s

/-- R176: forward an increase of a counter through every end that names it as SEND_CTR. -/
def forwardAll (ctx n : Nat) (v : W64) (s : State) : State :=
  let es := s.ends.filter fun x => x.2.sendCtr == n && x.2.ctx == ctx
  if v = 0 then s else es.foldl (fun s x => forwardAdd x.1 v s) s

/-- R60: add to a counter, at most to its largest value; answers whether it saturated. -/
def ctrAdd (ctx n v : Nat) (s : State) : Bool × State :=
  let old := (ctrGet s n).toNat
  let new := min (old + v) (2 ^ 64 - 1)
  (decide (2 ^ 64 ≤ old + v), forwardAll ctx n (BitVec.ofNat 64 (new - old)) (ctrUpdate n (BitVec.ofNat 64 new) s))

/-- R60: set a counter; a value below the present one changes nothing. -/
def ctrSet (ctx n v : Nat) (s : State) : State :=
  let old := (ctrGet s n).toNat
  if v < old then s else forwardAll ctx n (BitVec.ofNat 64 (v - old)) (ctrUpdate n (BitVec.ofNat 64 v) s)

/-! ### Queue state (R50, R405) -/

/-- R60, R61: the header wait is satisfied. -/
def headerWaitOk (s : State) (c : Cmd) : Bool := !cmdWaitEn c || c.waitMet || waitSat c (ctrGet s (cmdWaitCtr c))

/-- R60: a WAIT_COUNT has been released, or finds the counter at its threshold. -/
def countReached (s : State) (c : Cmd) : Bool :=
  c.released.isSome || decide (body c 24 8 ≤ (ctrGet s (body c 16 2)).toNat)

/-- R68: completion credits held by started commands of a queue. -/
def creditsHeld (s : State) (q : Nat) : Nat := ((queueCmds s q).filter fun c => c.credit).length

/-- R66: a started WAIT_COUNT or WAIT_FRAME of a queue. -/
def startedWait (s : State) (q : Nat) : Option Cmd :=
  (queueCmds s q).find? fun c => decide (c.st = .started) && (cmdOp c == 0x02 || cmdOp c == 0x04)

/-- R50 Q_STATUS.STATE. -/
def queueState (s : State) (q : Nat) (x : Queue) : Nat :=
  if (getCtx s x.ctx).st ≠ .active ∨ inReset s then 3
  else if (startedWait s q).isSome then 2
  else match headCmd s q with
    | some c => if c.intact && !headerWaitOk s c then 2 else 1
    | none => if x.head = x.tail ∧ (queueCmds s q).isEmpty then 0 else 1

/-- R50 Q_STATUS. -/
def queueStatus (s : State) (q : Nat) (x : Queue) : Nat := x.ctx * 2 ^ 40 + queueState s q x * 2 ^ 32 + x.cqTail.toNat

/-! ### Images (R405, R406): lists of (offset, bytes) over zeros -/

/-- R405: the wait of a queue: counter, kind, threshold and timeout. -/
def queueWait (s : State) (q : Nat) : Nat × Nat × Nat × Nat :=
  match startedWait s q with
  | some c => if cmdOp c = 2 then (body c 16 2, 2, body c 24 8, body c 32 8) else (0, 3, body c 24 8, 0)
  | none =>
    match headCmd s q with
    | some c => if c.intact && !headerWaitOk s c then (cmdWaitCtr c, 1, cmdWaitValue c, 0) else (0, 0, 0, 0)
    | none => (0, 0, 0, 0)

/-- R405: the 32 KiB section of a queue at an offset. -/
def imgQueue (s : State) (q : Nat) (x : Queue) (off : Nat) : List (Nat × Bytes) :=
  let w := queueWait s q
  let regs := leBytes 8 x.tail.toNat ++ leBytes 8 x.cqHead.toNat ++ leBytes 8 x.head.toNat ++ leBytes 8 (queueStatus s q x)
    ++ leBytes 2 w.1 ++ leBytes 1 w.2.1 ++ leBytes 5 0 ++ leBytes 8 w.2.2.1 ++ leBytes 8 w.2.2.2 ++ leBytes 4 (creditsHeld s q)
  let cs := (queueCmds s q).take 56
  let idx := (List.range cs.length).zip cs
  (off, regs) :: idx.flatMap fun (ic : Nat × Cmd) =>
    let c := ic.2
    [(off + 512 + 64 * ic.1, leBytes 4 (cmdSeq c) ++ leBytes 1 (if c.st = .fetched then 0 else 1) ++ leBytes 1 (cmdUnit s c)
        ++ leBytes 2 0 ++ leBytes 8 (if c.st = .fetched then 0 else c.startFtw.toNat)),
     (off + 4096 + 512 * ic.1, c.blocks)]

/-- R44: a context's state code. -/
def ctxCode : CtxState → Nat
  | .free => 0
  | .active => 1
  | .error => 2
  | .draining => 3

/-- R405: a 16-byte context entry; zero for a FREE context. -/
def imgCtx (c : Ctx) : Bytes :=
  if c.st = .free then List.replicate 16 0
  else leBytes 1 (ctxCode c.st) ++ [0] ++ leBytes 2 c.prefGen.toNat ++ leBytes 4 0 ++ leBytes 8 c.sticky.toNat

/-- R138 VTYPE of a core. -/
def coreVtype (c : Core) : Nat := b2n c.invalid * 2 ^ 63 + c.fmt.toNat

/-- R406: the 16 KiB state of a core at an offset. -/
def imgCore (c : Core) (off : Nat) : List (Nat × Bytes) :=
  [(off, c.s.flatMap fun x => leBytes 8 x.toNat), (off + 0x100, leBytes 8 c.pc.toNat), (off + 0x108, leBytes 8 c.vl.toNat),
   (off + 0x110, leBytes 8 (coreVtype c)), (off + 0x118, leBytes 8 c.vresume.toNat), (off + 0x120, leBytes 8 (b2n c.barrier)),
   (off + 0x400, c.m.flatMap fun x => leBytes 256 x.toNat), (off + 0x1000, c.v.flatMap fun x => leBytes 256 x.toNat)]

/-- Write an image of the given size: zeros, then the pieces. -/
def putImage (base size : Nat) (ps : List (Nat × Bytes)) (m : List Host.Cell) : List Host.Cell :=
  ps.foldl (fun m p => memWriteN m (base + p.1) p.2) (memClear m base size)

/-- A region of an image whose layout the spec does not give: free bytes (log entry 10). -/
def freeRegion (s : State) (n off size : Nat) : List (Nat × Bytes) :=
  ((Config.freeImage s.free n).filter fun b => decide (b.1 < size)).map fun b => (off + b.1, [b.2])

/-! ### Fault records (R385, R386) -/

/-- What a fault record says of its command. -/
structure FaultRec where
  /-- R385 STATUS. -/
  status : Nat := 0
  /-- R385 UNIT. -/
  unit : Nat := 0x40
  /-- R385 OPCODE, 0xFF for none. -/
  opcode : Nat := 0xFF
  /-- R385 CTX, 0xFF for none. -/
  ctx : Nat := 0xFF
  /-- R385 QUEUE, 0xFFFF for none. -/
  queue : Nat := 0xFFFF
  /-- R385 SEQ. -/
  seq : Nat := 0
  /-- R385 CAUSE. -/
  cause : Nat := 0
  /-- The rest. -/
  info : FaultInfo := {}
deriving DecidableEq, Repr

/-- R385: the 64 bytes of a fault record. -/
def faultBytes (no : Nat) (r : FaultRec) : Bytes :=
  let h := leBytes 2 r.status ++ leBytes 1 r.unit ++ leBytes 1 r.opcode ++ leBytes 1 r.ctx ++ [r.info.addrKind]
    ++ leBytes 2 r.queue ++ leBytes 4 r.seq ++ leBytes 2 r.info.lane.toNat ++ [r.info.role, r.info.kind]
    ++ leBytes 8 r.info.addr.toNat ++ leBytes 8 r.info.element.toNat ++ leBytes 8 r.info.ftw.toNat ++ leBytes 4 no
    ++ [r.info.remoteCtx] ++ leBytes 1 r.cause ++ leBytes 2 0 ++ leBytes 8 r.info.aux.toNat ++ leBytes 4 0
  h ++ leBytes 4 (crc32c h).toNat

/-- The fault record of a command. -/
def cmdFaultRec (s : State) (c : Cmd) (status : Nat) (info : FaultInfo) : FaultRec :=
  { status := status, unit := doneUnit s c, opcode := cmdOp c, ctx := c.ctx, queue := c.q, seq := cmdSeq c,
    info := { info with ftw := s.ftw } }

/-- R386, R404: write a fault record to the fault ring and FAULT_NEXT to the directory. Answers the record. -/
def writeRecord (r : FaultRec) (s : State) : Bytes × State :=
  let no := s.log.recordNo
  let bs := faultBytes no r
  let d := dumpBase s.id
  let m := memWriteN s.mem (d + 0x100000 + 64 * (no % 16384)) bs
  (bs, { s with mem := memWriteN m d (leBytes 4 (no + 1)), log := { s.log with recordNo := no + 1 } })

/-- R406: the queue numbers of a context, ascending, at most 16. -/
def ctxQueues (s : State) (c : Nat) : List (Nat × Queue) := (s.queues.filter fun q => q.2.ctx == c).take 16

/-- R406: the pieces of a context image. `cores` are those of the faulting launch, with their numbers. -/
def ctxImage (s : State) (c : Nat) (rec : Bytes) (cores : List (Nat × Core)) : List (Nat × Bytes) :=
  let qs := ctxQueues s c
  let nums := qs.flatMap fun q => leBytes 2 q.1
  let ctrs := (List.range 1024).filter fun b => Tbl.get 0 s.ctrOwner b == c + 1
  [(0, rec), (0x40, imgCtx (getCtx s c)), (0x50, nums ++ List.replicate (32 - nums.length) 0xFF)]
    ++ (((List.range qs.length).zip qs).flatMap fun iq => imgQueue s iq.2.1 iq.2.2 (0x1000 + 0x8000 * iq.1))
    ++ (((List.range ctrs.length).zip ctrs).map fun ib =>
        (0x81000 + 512 * ib.1, (List.range 64).flatMap fun j => leBytes 8 (ctrGet s (ib.2 * 64 + j)).toNat))
    ++ (cores.flatMap fun x => imgCore x.2 (0x101000 + 0x4000 * x.1))
    ++ freeRegion s 0 0x201000 0x100000

/-- R386, R404, R406: write the image of a context and its directory entry. Context 0 has none. -/
def writeCtxImage (c no : Nat) (rec : Bytes) (cores : List (Nat × Core)) (s : State) : State :=
  if c = 0 then s else
  let d := dumpBase s.id
  let m := putImage (d + 0x10200000 + (c - 1) * 0x400000) 0x400000 (ctxImage s c rec cores) s.mem
  let m := memWriteN m (d + 32 + 16 * (c - 1)) (leBytes 4 no ++ leBytes 8 s.ftw.toNat ++ leBytes 1 3)
  { s with mem := m, free := s.free + 1 }

/-- The cores that a launch holds on its Basalt: (core number, state). -/
def launchCores (s : State) (k : Nat) : List (Nat × Core) :=
  (s.cores.filter fun c => decide (c.2.k = some k)).map fun c => (c.1 % 64, c.2)

/-! ### How a command ends (R67-R69, R89) -/

/-- The requests of a command: abandon them, so that their responses are dropped (R388, R393). -/
def dropReqs (k : Nat) (s : State) : State :=
  releaseHolds { s with fab := { s.fab with
    reqs := s.fab.reqs.map (fun r => if r.k = some k then { r with dropped := true } else r)
    rdata := s.fab.rdata.filter fun d => d.1 ≠ 2 * k } }

/-- Release the cores that a launch holds. -/
def freeCores (k : Nat) (s : State) : State :=
  { s with cores := s.cores.filter (fun c => decide (c.2.k ≠ some k)),
           saved := s.saved.filter fun c => decide (c.1.1 ≠ k) }

/-- A started command ends with a status that its work gives: its record is written by COMMAND_COMPLETION (R68). -/
def endCmd (k status : Nat) (result : W64) (detail : BitVec 32) (s : State) : State :=
  modCmd k (fun c => { c with st := .done, preempted := false, status := BitVec.ofNat 16 status, result := result,
                              detail := detail }) s

/-- R134: RESULT of a matrix-array command, however it ends: vectors processed, or 512 times that for MA_ELEM; zero for MA_SWAP, and
for an MA_LOAD that has not completed, whose banks are not VALID (R109). R210: RESULT of an update counts what this execution wrote. -/
def stoppedResult (c : Cmd) : Option W64 :=
  match cmdOp c with
  | 0x20 => some 0
  | 0x21 => some 0
  | 0x22 => some (BitVec.ofNat 64 c.prog.next)
  | 0x23 => some (BitVec.ofNat 64 c.prog.next)
  | 0x24 => some (BitVec.ofNat 64 (512 * c.prog.next))
  | 0x40 => some (BitVec.ofNat 64 c.prog.wrote)
  | 0x41 => some (BitVec.ofNat 64 c.prog.wrote)
  | _ => none

/-- RESULT of a command that a fault or an outside event ends: as its rule states, or a free value. -/
def endResult (k : Nat) (s : State) : W64 :=
  ((findCmd s k).bind stoppedResult).getD (Config.freeW64 s.free 0)

/-- R4, R67, R134: a command ends with a status for which the spec states no DETAIL: it is a free value, and so is a RESULT that no
rule states. -/
def abortCmd (k status : Nat) (s : State) : State :=
  let r := endResult k s
  let d := (Config.freeW64 s.free 1).setWidth 32
  endCmd k status r d (dropReqs k { s with free := s.free + 1 })

/-- R386, R67: a command ends with a fault. DETAIL is the low 32 bits of the element index; a RESULT that no
rule states is a free value. -/
def faultCmd (k status : Nat) (info : FaultInfo) (s : State) : State :=
  let r := endResult k s
  let s := endCmd k status r (info.element.setWidth 32) (dropReqs k { s with free := s.free + 1 })
  modCmd k (fun c => { c with fault := { info with ftw := s.ftw } }) s

/-- R89: the lowest-numbered warning, or OK. -/
def warnStatus (w : BitVec 16) : Nat :=
  match [1, 2, 3, 4, 5].find? fun i => w.getLsbD i with
  | some i => i
  | none => stOk

/-- A command ends as its work and its warnings say (R89). A RESULT or DETAIL that the spec does not state is a free value. -/
def finishCmd (k : Nat) (result : Option W64) (detail : Option Nat) (s : State) : State :=
  match findCmd s k with
  | none => s
  | some c =>
    endCmd k (warnStatus c.warns) (result.getD (Config.freeW64 s.free 0))
      ((detail.map fun d => BitVec.ofNat 32 d).getD ((Config.freeW64 s.free 1).setWidth 32)) { s with free := s.free + 1 }

/-- R389, R390: firmware's part of a context fault: the image of an ACTIVE context, the fault record, the log entry, and the
event to the function that owns the context. The context enters ERROR; its other started commands, but for collectives,
stop with FENCED. -/
def contextFault (ctx : Nat) (r : FaultRec) (k : Option Nat) (s : State) : State :=
  let x := getCtx s ctx
  let cores := match k with
    | some k => launchCores s k
    | none => []
  if x.st = .active then
    let s := modCtx ctx (fun c => { c with st := .error }) s
    let ks := (s.cmds.filter fun c => c.ctx == ctx && decide (c.st = .started) && !isColl c && decide (some c.k ≠ k)).map (·.k)
    let s := ks.foldl (fun s j => abortCmd j stFenced s) s
    let no := s.log.recordNo
    let w := writeRecord r s
    let s := writeCtxImage ctx no w.1 cores w.2
    let s := ks.foldl (fun s j => freeCores j s) s
    let s := logEntry 0x0002 r.status (w.1.take 32) s
    if ctx = 0 then s else postEvent x.owner 0x8002 r.status (w.1.take 32) s
  else
    let w := writeRecord r s
    logEntry 0x0002 r.status (w.1.take 32) w.2

/-- Set bits of ARITH_STICKY (R88). -/
def orSticky (ctx : Nat) (b : W64) (s : State) : State := modCtx ctx (fun c => { c with sticky := c.sticky ||| b }) s

end Sys2Proof.Machine
end

