-- ==== Sys2Proof/Machine/Lanes.lean ====
section
/-!
DEFINITION. The tiles that a matrix-array command names (R108, R132), and the engines that a command holds (R63, R107, R161).
-/
namespace Sys2Proof.Machine

/-! ### Tiles of a matrix (R108) -/

/-- The table before R90: mw (or ma) of a format code. INT4 and INT8 enter as B4 and B8. -/
def mantBits (c : Nat) : Nat :=
  match c with
  | 0x0 => 53 | 0x1 => 24 | 0x2 => 11 | 0x3 => 8 | 0x4 => 3 | 0x5 => 4 | 0x6 => 3 | 0x7 => 3 | 0x8 => 7 | 0x9 => 15
  | 0xA => 3 | 0xB => 7 | _ => 0

/-- The table before R90: Gw. -/
def guardW (c : Nat) : Nat :=
  match c with
  | 0x0 => 11 | 0x1 => 12 | 0x2 => 8 | 0x3 => 8 | 0x4 => 4 | 0x5 => 4 | 0x6 => 3 | _ => 0

/-- The table before R90: Wa. -/
def guardA (c : Nat) : Nat :=
  match c with
  | 0x0 => 24 | 0x1 => 16 | 0x2 => 8 | 0x3 => 8 | 0x4 => 4 | 0x5 => 4 | 0x6 => 3 | _ => 0

/-- R108: N_t, logical columns of a tile. -/
def tileCols (c : Nat) : Nat := 256 / (mantBits c + guardW c + 1)

/-- R108: TR. -/
def tileRowsOf (k : Nat) : Nat := ceilDiv k 512

/-- R108: TC. -/
def tileColsOf (fmt n : Nat) : Nat := ceilDiv n (tileCols fmt)

/-- Key of a tile bank. -/
def bankKey (basalt tile bank : Nat) : Nat := (basalt * 512 + tile) * 2 + bank

/-- A tile bank's record. -/
def getBank (s : State) (basalt tile bank : Nat) : Bank := Tbl.get {} s.banks (bankKey basalt tile bank)

/-- R104: the active bank that a context uses in a tile: its own bank in a SPLIT cluster. -/
def activeOf (s : State) (ctx basalt tile : Nat) : Nat :=
  let c := getCluster s basalt (tile / 32)
  match c.mode with
  | .split => if c.ctxA = ctx then 0 else 1
  | _ => Tbl.get 0 s.activeBank (basalt * 512 + tile)

/-- R104: the bank that a load of a context writes: the shadow bank, or its own bank in a SPLIT cluster. -/
def shadowOf (s : State) (ctx basalt tile : Nat) : Nat :=
  let c := getCluster s basalt (tile / 32)
  match c.mode with
  | .split => if c.ctxA = ctx then 0 else 1
  | _ => 1 - Tbl.get 0 s.activeBank (basalt * 512 + tile)

/-- R106: a tile lies in a cluster granted to a context. -/
def grantedTile (s : State) (ctx basalt tile : Nat) : Bool :=
  let c := getCluster s basalt (tile / 32)
  decide (tile < 512) && match c.mode with
  | .released => false
  | .exclusive => c.ctxA == ctx
  | .split => c.ctxA == ctx || c.ctxB == ctx

/-- Tiles that a matrix-array command names: first tile and count. A run takes its shape from the record of FIRST_TILE's
active bank (R132). -/
def maTiles (s : State) (c : Cmd) : Nat × Nat :=
  let f := body c 16 2
  match cmdOp c with
  | 0x20 => (f, tileRowsOf (body c 20 4) * tileColsOf (bits (body c 18 1) 3 0) (body c 24 4))
  | 0x21 => (f, body c 18 2)
  | _ =>
    let b := getBank s c.basalt f (activeOf s c.ctx c.basalt f)
    (f, max 1 (tileRowsOf b.kDim * tileColsOf b.fmt b.nDim))

/-- R101: a run that executes on the vector cores. It holds the run lanes of its clusters as well (R107). -/
def strictRun (s : State) (c : Cmd) : Bool :=
  let op := cmdOp c
  let f := body c 16 2
  let b := getBank s c.basalt f (activeOf s c.ctx c.basalt f)
  let xf := bits (body c 18 1) 3 0
  (op == 0x22 || op == 0x23 || op == 0x24) && (getCtx s c.ctx).arithMode.getLsbD 2 && (b.fmt ≤ 1 || xf ≤ 1)

/-! ### RED_LOWRANK (R270, R272) -/

/-- R272: the product is below THRESHOLD. -/
def lrSmall (c : Cmd) : Bool := decide (body c 32 4 * body c 36 4 < body c 120 4)

/-- Elements of a reduction at a stage (R270, R277, R278). -/
def redElems (c : Cmd) (stage : Nat) : Nat :=
  if cmdOp c = 0x61 then
    if lrSmall c then body c 32 4 * body c 36 4
    else body c 18 1 * (if stage = 0 then body c 32 4 else body c 36 4)
  else body c 24 4

/-- R270: the array steps of a RED_LOWRANK are under way: the passes of step 2 (segment 1) or of step 5 (segment 3). -/
def lrRunning (c : Cmd) : Bool := decide (cmdOp c = 0x61) && !lrSmall c && c.prog.segment % 2 == 1

/-- R270: the next steps of a RED_LOWRANK on its tiles and cores are due: its first ones, or those after a reduction that has delivered
every block. -/
def lrDue (c : Cmd) : Bool :=
  decide (cmdOp c = 0x61) && !lrSmall c && decide (c.st = .started) &&
    (!c.prog.coll.sent || lrRunning c || decide (ceilDiv (redElems c c.prog.coll.stage) 64 ≤ c.prog.coll.delivered.length))

/-- R270: the clusters of FIRST_TILE onward (R108). -/
def lrClusters (c : Cmd) : List Nat :=
  let f := body c 24 2
  let n := tileRowsOf (body c 36 4) * tileColsOf (body c 19 1) (body c 32 4)
  (List.range 16).filter fun i => decide (f < 32 * (i + 1)) && decide (32 * i < f + n)

/-- R270: the lanes and the vector cores that those steps take: the lanes of its clusters, and CORE_MASK. -/
def lrUnits (c : Cmd) : List Nat :=
  ((lrClusters c).flatMap fun i => [8000 + (c.basalt * 16 + i) * 2, 8000 + (c.basalt * 16 + i) * 2 + 1])
    ++ ((List.range 64).filter fun i => bitOf (body c 112 8) i).map fun i => 4000 + c.basalt * 64 + i

/-! ### Engines (R63) -/

/-- The engines that a command holds, by a number each: none for the command processor, the power manager and the Collective
Engine, which accept at once (log entry 15). A RED_LOWRANK holds its lanes and cores while its array steps run (R270). -/
def cmdUnits (s : State) (c : Cmd) : List Nat :=
  let b := c.basalt
  match opEngine (cmdOp c) with
  | .movers => [1000 + b]
  | .update => [2000 + b]
  | .solver => [3000 + b]
  | .vector =>
    let m := if cmdOp c = 0x30 then body c 32 8 else body c 104 8
    ((List.range 64).filter fun i => bitOf m i).map fun i => 4000 + b * 64 + i
  | .matrix =>
    let t := maTiles s c
    let cls := (List.range 16).filter fun i => decide (t.1 < 32 * (i + 1)) && decide (32 * i < t.1 + t.2)
    let load := cls.map fun i => 8000 + (b * 16 + i) * 2
    let run := cls.map fun i => 8000 + (b * 16 + i) * 2 + 1
    match cmdOp c with
    | 0x20 => load
    | 0x21 => load ++ run
    | _ => run ++ if strictRun s c then (List.range 64).map fun i => 4000 + b * 64 + i else []
  | .coll => if lrRunning c then lrUnits c else []
  | _ => []

/-- Two lists share an element. -/
def shares (a b : List Nat) : Bool := a.any fun x => b.contains x

end Sys2Proof.Machine
end

