-- ==== Sys2Proof/Machine/Engine.lean ====
section
/-!
DEFINITION. How an engine acts for a context: reads and writes through the page mappings, page by page (R71, R72), remote
pages as fabric requests (R310, R311), counters by ownership (R59), arithmetic events (R88, R95-R100), and the run of one
command's work with its stops.
-/
namespace Sys2Proof.Machine

/-- The state of a unit at work for a context. -/
structure Eng where
  /-- The machine. -/
  s : State
  /-- The context it acts for. -/
  ctx : Nat
  /-- Owner of the remote bytes that it may use (`rdata`). -/
  owner : Nat
  /-- R292: its reads count each line once per command. -/
  once : Bool := false
  /-- R292: the lines counted so far, and those kept. -/
  reads : ReadLog := {}
  /-- Remote virtual addresses used. -/
  used : List Nat := []
  /-- Remote writes, oldest first: mapping, virtual address, bytes. -/
  wr : List (Mapping × Nat × Bytes) := []
  /-- ARITH_STICKY bits set (R88). -/
  sticky : W64 := 0
  /-- Warnings (R89). -/
  warns : BitVec 16 := 0
  /-- R99: the first trapped event. -/
  trap : Option Trap := none
  /-- R73: 64 KiB virtual pages used, by number. -/
  pages : List Nat := []
  /-- R98: the output locations of the work in hand, (virtual address, bytes); none for all that the context may write. -/
  outs : Option (List (Nat × Nat)) := none
  /-- R210: a fault leaves these output locations unpredictable as well. -/
  group : Bool := false

/-- Why a unit's work stops. -/
inductive EngStop where
  /-- A fault: status and what its record carries. -/
  | fault (status : Nat) (info : FaultInfo)
  /-- Remote bytes are needed: n bytes at a virtual address. -/
  | remote (va n : Nat)
  /-- R4: the spec calls the whole command's result unpredictable. -/
  | unpred
  /-- The work goes on later, from the state reached. -/
  | wait
deriving DecidableEq, Repr

/-- Work of a unit. A stop keeps the effects before it. -/
abbrev EngM := EStateM EngStop Eng

/-- R72: the fault of an access at a virtual address. -/
def transInfo (va : Nat) : FaultInfo := { addrKind := 1, addr := BitVec.ofNat 64 va }

/-- R59: the fault of a counter that the context does not own. -/
def ctrInfo (n : Nat) : FaultInfo := { addrKind := 3, addr := BitVec.ofNat 64 n }

/-- Stop with a fault. -/
def stopFault {α : Type} (status : Nat) (info : FaultInfo) : EngM α := throw (.fault status info)

/-- A byte of a remote page at hand: received for this owner, or in a prefetched line of the context (R187, R189). -/
def remoteByte (e : Eng) (m : Mapping) (va : Nat) : Option Byte :=
  match e.s.fab.rdata.find? fun d => d.1 == e.owner && d.2.1 == va with
  | some d => some d.2.2
  | none =>
    match e.s.pref.find? fun l => l.remote && l.ctx == e.ctx && l.gen == (getCtx e.s e.ctx).prefGen && l.line == mapTarget m va / 128
        && l.dst == m.dst && l.rctx == m.rctx with
    | some l => l.data[va % 128]?
    | none => none

/-- R299: bytes of a remote page as the work's own writes to it, still on their way, leave them. -/
def ownWrites (e : Eng) (m : Mapping) (va : Nat) (bs : Bytes) : Bytes :=
  e.wr.foldl (fun bs w =>
    if w.1.dst = m.dst ∧ w.1.rctx = m.rctx then
      bs.mapIdx fun i b =>
        let a := mapTarget m (va + i)
        let o := mapTarget w.1 w.2.1
        if o ≤ a ∧ a < o + w.2.2.length then w.2.2.getD (a - o) b else b
    else bs) bs

/-- All of a list of options, or none. -/
def allSome {α : Type} : List (Option α) → Option (List α)
  | [] => some []
  | none :: _ => none
  | some a :: l => (allSome l).map (a :: ·)

/-- R18: the stack of the Basalt whose command reads, which its reads reach without crossing MI0. -/
def ownStack (e : Eng) : Option Nat :=
  if e.owner % 2 = 0 then (findCmd e.s (e.owner / 2)).map (·.basalt) else none

/-- R73: note the use of a page. -/
def notePage (m : Mapping) : EngM Unit := modify fun e =>
  if e.pages.contains (m.va / 0x10000) then e else { e with pages := (m.va / 0x10000) :: e.pages }

/-- R98: name the output locations of the work in hand. -/
def setOuts (l : List (Nat × Nat)) : EngM Unit := modify fun e => { e with outs := some l }

/-- R204, R210: name the output locations of a commit group, which a fault leaves unpredictable. -/
def setCommit (l : List (Nat × Nat)) : EngM Unit := modify fun e => { e with outs := some l, group := true }

/-- Read from one page. -/
def readPage (m : Mapping) (va n : Nat) : EngM Bytes := do
  let e ← get
  if m.remote then
    match allSome ((List.range n).map fun i => remoteByte e m (va + i)) with
    | some bs =>
      set { e with used := e.used ++ (List.range n).map (va + ·) }
      pure (ownWrites e m va bs)
    | none => throw (.remote va n)
  else
    let a := mapTarget m va
    let bs := keptBytes e.s.id e.reads.kept a (peek e.s a n)
    let r := countReads e.once e.reads a n e.s
    set { e with s := persistRead (ownStack e) e.ctx a n r.1, reads := r.2 }
    pure bs

/-- R71, R72: read n bytes at a virtual address, page by page (fuel: pages). -/
def readPages : Nat → Nat → Nat → EngM Bytes
  | 0, _, _ => pure []
  | fuel + 1, va, n => do
    if n = 0 then pure [] else
    let e ← get
    match translate e.s e.ctx va false with
    | none => stopFault stTranslation (transInfo va)
    | some m =>
      let k := pageRun m va n
      notePage m
      let a ← readPage m va k
      let b ← readPages fuel (va + k) (n - k)
      pure (a ++ b)

/-- R71: read n bytes at a virtual address. -/
def readV (va n : Nat) : EngM Bytes := readPages (n / 0x10000 + 2) va n

/-- R71, R72: write bytes at a virtual address, page by page (fuel: pages). -/
def writePages : Nat → Nat → Bytes → EngM Unit
  | 0, _, _ => pure ()
  | fuel + 1, va, bs => do
    if bs.isEmpty then pure () else
    let e ← get
    match translate e.s e.ctx va true with
    | none => stopFault stTranslation (transInfo va)
    | some m =>
      let k := pageRun m va bs.length
      if m.remote then set { e with wr := e.wr ++ [(m, va, bs.take k)] }
      else set { e with s := store (mapTarget m va) (bs.take k) e.s }
      notePage m
      writePages fuel (va + k) (bs.drop k)

/-- R71: write bytes at a virtual address. -/
def writeV (va : Nat) (bs : Bytes) : EngM Unit := writePages (bs.length / 0x10000 + 2) va bs

/-- Read a little-endian number. -/
def readNat (va n : Nat) : EngM Nat := do
  let bs ← readV va n
  pure (leNat bs)

/-- Write a little-endian number of n bytes. -/
def writeNat (va n x : Nat) : EngM Unit := writeV va (leBytes n x)

/-- R59: a counter that the command names. -/
def needCtr (n : Nat) : EngM Unit := do
  let e ← get
  if ctrOwned e.s e.ctx n then pure () else stopFault stTranslation (ctrInfo n)

/-- Change the machine. -/
def modS (f : State → State) : EngM Unit := modify fun e => { e with s := f e.s }

/-- Read of the machine. -/
def getS : EngM State := do
  let e ← get
  pure e.s

/-- R87: the context's mode word. -/
def getMode : EngM (BitVec 32) := do
  let e ← get
  pure (getCtx e.s e.ctx).arithMode

/-- Add warnings (R89). -/
def addWarn (w : BitVec 16) : EngM Unit := modify fun e => { e with warns := e.warns ||| w }

/-- R88, R95-R99: note the events of one element operation. -/
def noteEv (group elem role lane : Nat) (ev : Ev) : EngM Unit := modify fun e =>
  let mode := (getCtx e.s e.ctx).arithMode
  { e with sticky := e.sticky ||| evSticky mode ev, warns := e.warns ||| evWarn ev,
           trap := firstTrap e.trap (evTrap mode group elem role lane ev) }

/-- Note the events of a run of elements, numbered from `first`. -/
def noteEvs (group first role lane : Nat) (evs : List Ev) : EngM Unit :=
  (evs.zip (List.range evs.length)).forM fun p => noteEv group (first + p.2) role lane p.1

/-- Note the events of a run of elements, numbered from `first`, each with the lane that detects it. -/
def noteEvsAt (group first role : Nat) (lane : Nat → Nat) (evs : List Ev) : EngM Unit :=
  (evs.zip (List.range evs.length)).forM fun p => noteEv group (first + p.2) role (lane p.2) p.1

/-- A free natural number below n (n at least 1). -/
def freeBelow (n : Nat) : EngM Nat := do
  let e ← get
  set { e with s := { e.s with free := e.s.free + 1 } }
  pure (Config.freeNat e.s.free 0 % max 1 n)

/-! ### From the work to the machine -/

/-- R310: send the remote writes of a unit as WRITE packets; the command waits for their responses. -/
def sendWrites (ctx : Nat) (k : Option Nat) : List (Mapping × Nat × Bytes) → State → State
  | [], s => s
  | (m, va, bs) :: ws, s =>
    let a := mapTarget m va
    let s := (pieces a bs.length).foldl (fun s p =>
      let t := s.fab.txn
      let s := request ptWrite ctx k m.dst m.rctx (a + p.1) p.2 (va + p.1) 0 ((bs.drop p.1).take p.2) false 0 s
      match k with
      | some k => modCmd k (fun c => { c with waits := c.waits ++ [t] }) s
      | none => s) s
    sendWrites ctx k ws s

/-- R310, R311: ask for remote bytes, unless a request of the owner is still waiting. -/
def askRemote (ctx : Nat) (k : Option Nat) (owner va n : Nat) (s : State) : State :=
  if s.fab.reqs.any fun r => r.owner == owner && r.ptype == 2 && !r.dropped then s
  else
    match translate s ctx va false with
    | none => s
    | some m =>
      let a := mapTarget m va
      (pieces a n).foldl (fun s p =>
        request ptReadReq ctx k m.dst m.rctx (a + p.1) p.2 (va + p.1) owner (leBytes 4 p.2) false 0 s) s

/-- Forget the remote bytes that a unit has used. -/
def dropUsed (owner : Nat) (used : List Nat) (s : State) : State :=
  { s with fab := { s.fab with rdata := s.fab.rdata.filter fun d => !(d.1 == owner && used.contains d.2.1) } }

/-- The machine after a unit's work that stopped nowhere: remote writes sent, sticky bits set. -/
def engCommit (k : Option Nat) (e : Eng) : State :=
  orSticky e.ctx e.sticky (sendWrites e.ctx k e.wr (dropUsed e.owner e.used e.s))

/-- R98, R100: the record of a trapped event. -/
def trapInfo (t : Trap) : FaultInfo :=
  { element := BitVec.ofNat 64 t.elem, lane := BitVec.ofNat 16 t.lane, role := BitVec.ofNat 8 t.role,
    kind := BitVec.ofNat 8 t.kind }

/-- R98: the status of a trap. -/
def trapStatus (t : Trap) : Nat := if t.isNan then stNanTrap else stRangeTrap

/-- A virtual address lies in one of some areas. -/
def inAreas (l : List (Nat × Nat)) (va : Nat) : Bool := l.any fun a => decide (a.1 ≤ va) && decide (va < a.1 + a.2)

/-- R4, R98: free values in output locations: any of them that the context's mappings let it write, local or remote. -/
def havocAreas (ctx : Nat) (k : Option Nat) (l : List (Nat × Nat)) (s : State) : State :=
  let ws := (Config.freeWrites s.free).filter fun w => inAreas l w.1
  ws.foldl (fun s w =>
    match translate s ctx w.1 true with
    | some m => if m.remote then sendWrites ctx k [(m, w.1, [w.2])] s else store (mapTarget m w.1) [w.2] s
    | none => s) { s with free := s.free + 1 }

/-- R88, R98, R4: the machine after a trap. Where the work names its output locations, what it did outside them stands and they
hold free values; else what the command writes is free. The trapped event's own sticky bits are set, and of the others some were
set before the trap (log entry 109). -/
def trapState (k : Nat) (own : W64) (e : Eng) (s : State) : State :=
  let keep := Config.freeW64 s.free 2
  let sticky := own ||| (e.sticky &&& keep)
  match e.outs with
  | none => orSticky e.ctx sticky (havocMem e.ctx s)
  | some l =>
    let rest := e.wr.filter fun w => !inAreas l w.2.1
    orSticky e.ctx sticky (havocAreas e.ctx (some k) l (sendWrites e.ctx (some k) rest (dropUsed e.owner e.used e.s)))

/-- A tile bank of free content (R4): 64 columns of 512 cells. -/
def freeBank (f key : Nat) (b : Bank) : Bank :=
  let sts := [BankState.loading, .valid, .lost]
  { b with
    st := sts.getD (Config.freeNat f (key * 100000) % 3) .lost
    cols := (List.range 64).map fun j =>
      let n := (key * 64 + j) * 2000
      { cells := (List.range 512).map fun r => (Config.freeBit f (n + r), Config.freeNat f (n + r))
        tw := (List.range 16).map fun g => (Config.freeNat f (n + 600 + g) : Int) - Config.freeNat f (n + 700 + g)
        nan := (List.range 16).map fun g => Config.freeBit f (n + 800 + g) } }

/-- R4: the tile banks of a context, after an unpredictable command. -/
def havocBanks (ctx : Nat) (s : State) : State :=
  { s with banks := s.banks.map (fun b => if b.2.ctx = ctx ∧ b.2.st ≠ .free then (b.1, freeBank s.free b.1 b.2) else b),
           free := s.free + 1 }

/-- R4: the active banks and stream queues of the clusters that a context holds. A key of `streams` names the pair and, in a SPLIT
cluster, the context's half. -/
def havocTiles (ctx : Nat) (s : State) : State :=
  let f := s.free
  let mine := s.clusters.filter fun c => (decide (c.2.mode ≠ .released) && c.2.ctxA == ctx) || (decide (c.2.mode = .split) && c.2.ctxB == ctx)
  let whole := mine.filter fun c => decide (c.2.mode = .exclusive)
  let half := fun (c : Cluster) => if c.mode = .split ∧ c.ctxA ≠ ctx then 1 else 0
  { s with
    free := f + 1
    activeBank := whole.foldl (fun t c => (List.range 32).foldl (fun t i =>
      let x := c.1 / 16 * 512 + c.1 % 16 * 32 + i
      Tbl.put 0 t x (Config.freeNat f (0x10000 + x) % 2)) t) s.activeBank
    streams := mine.foldl (fun t c => [0, 1].foldl (fun t d =>
      let x := (c.1 * 2 + d) * 2 + half c.2
      Tbl.put [] t x (((Config.freeImage f x).map (·.2)).take (if c.2.mode = .split then 8192 else 16384))) t) s.streams }

/-- R4: the registers of a core, with free content. -/
def freeCore (f : Nat) (c : Core) : Core :=
  { c with
    s := (List.range 32).map fun i => if i = 0 then 0 else Config.freeW64 f (100 + i)
    v := (List.range 32).map fun i => Config.freeVec f (200 + i)
    m := (List.range 8).map fun i => Config.freeVec f (300 + i)
    pc := Config.freeW64 f 400
    vl := BitVec.ofNat 12 (Config.freeNat f 401)
    invalid := Config.freeBit f 402
    fmt := BitVec.ofNat 8 (Config.freeNat f 403)
    vresume := BitVec.ofNat 12 (Config.freeNat f 404)
    running := Config.freeBit f 405
    barrier := false }

/-- The context of a fetched command. -/
def ctxOf (s : State) (k : Option Nat) : Option Nat := k.bind fun k => (findCmd s k).map (·.ctx)

/-- R4: the vector cores that a context's launches hold. -/
def havocCores (ctx : Nat) (s : State) : State :=
  { s with
    free := s.free + 1
    cores := s.cores.map fun c => if ctxOf s c.2.k = some ctx then (c.1, freeCore (s.free + 1000 * c.1) c.2) else c
    saved := s.saved.map fun c =>
      if ctxOf s (some c.1.1) = some ctx then (c.1, freeCore (s.free + 1000 * c.1.2) c.2) else c }

/-- R4: the sync counters that a context owns. A counter never decreases (R60). -/
def havocCtrs (ctx : Nat) (s : State) : State :=
  let f := s.free
  let ns := ((Config.freeImage f 1).map (·.1)).filter fun n => decide (n < 0x10000) && ctrOwned s ctx n
  ns.foldl (fun s n => ctrSet ctx n (Config.freeW64 f (1000 + n)).toNat s) { s with free := f + 1 }

/-- R4: a feed, unbound or bound by the context, after an unpredictable FEED_BIND. -/
def havocFeed (ctx : Nat) (s : State) : State :=
  let f := s.free
  let n := Config.freeNat f 0 % 256
  let x := Tbl.get {} s.feeds n
  let s := { s with free := f + 1 }
  if (x.bound && x.ctx != ctx) || Config.freeBit f 1 then s
  else
    let y : Feed := if Config.freeBit f 2 then { dropped := x.dropped } else
      { bound := true, ctx := ctx, source := Config.freeNat f 3 % 3, slots := 2 + Config.freeNat f 4 % 1023,
        slotBytes := 64 * (1 + Config.freeNat f 5 % 0x100000), deadlinePh := BitVec.ofNat 16 (Config.freeNat f 6),
        counter := Config.freeNat f 7 % 0x10000, ringVa := Config.freeNat f 8, statusVa := Config.freeNat f 9,
        nextClose := s.tb.frame.toNat, dropped := x.dropped }
    { s with feeds := Tbl.put {} s.feeds n y }

/-- R4: a power hint, after an unpredictable HINT_POWER. -/
def havocHint (s : State) : State :=
  let f := s.free
  let s := { s with free := f + 1 }
  if Config.freeBit f 0 then s
  else
    let h : Hint := { basalt := Config.freeNat f 1 % 8, level := 1 + Config.freeNat f 2 % 64, target := Config.freeW64 f 3,
                      holdPh := Config.freeNat f 4 % 0x10000 }
    { s with pow := { s.pow with hints := s.pow.hints ++ [h] } }

/-- R4: the groups of a context: EPOCH after an unpredictable collective, and the packets that it sends to peers. -/
def havocColl (c : Cmd) (s : State) : State :=
  let f := s.free
  let s := { s with
    free := f + 1
    groups := s.groups.map fun g =>
      if g.2.ctx = c.ctx ∧ Config.freeBit f g.1 = true then (g.1, { g.2 with epoch := BitVec.ofNat 32 (Config.freeNat f g.1) }) else g }
  match Tbl.find? s.groups (body c 16 2) with
  | none => s
  | some g =>
    if g.ctx ≠ c.ctx then s
    else
      let to' := ((List.range g.table.length).zip g.table).filter fun e => Config.freeBit f (1000 + e.1)
      to'.foldl (fun s e =>
        sendPacket (mkPacket s ptColl ((e.2.extractLsb' 0 12).setWidth 16) (bits e.2.toNat 19 12) c.ctx (Config.freeNat f (2000 + e.1))
          (Config.freeNat f (3000 + e.1)) (((Config.freeImage f (4000 + e.1)).map (·.2)).take 4096)) s) s

/-- R4: remote locations that the context's mappings let a command write. -/
def havocRemote (ctx k : Nat) (s : State) : State :=
  (Config.freeWrites s.free).foldl (fun s w =>
    match translate s ctx w.1 true with
    | some m => if m.remote then sendWrites ctx (some k) [(m, w.1, [w.2])] s else s
    | none => s) { s with free := s.free + 1 }

/-- R4, R70: the statuses with which a command of an opcode can end. -/
def opStatuses (op : Nat) : List Nat :=
  let all := [stOk, stSaturated, stCtxGone, stFenced, stTranslation, stHang]
  let traps := [stNanTrap, stRangeTrap]
  match opEngine op with
  | .cp => if op = 2 then stPartial :: all else all
  | .power => all
  | .movers | .vector | .update => all ++ traps
  | .matrix => all ++ traps ++ [stAlignLoss, stResetAborted]
  | .solver => all ++ traps ++ [stPartial, stRegularized, stWarm, stPivot]
  | .coll => all ++ traps ++ [stPartial]
  | .reserved => all ++ traps ++ [stPartial, stRegularized, stWarm, stAlignLoss, stResetAborted, stPivot]

/-- R4: an unpredictable command: free values in what it may write within its mappings (local and remote memory, its own
counters, feeds, hints and groups by its opcode), in the engine state of its context (banks, active banks, stream queues,
cores), a free status that the opcode can return, free RESULT, DETAIL and sticky bits (log entry 4). -/
def unpredictable (c : Cmd) (s : State) : State :=
  let f := s.free
  let sts := opStatuses (cmdOp c)
  let st := sts.getD (Config.freeNat f 3 % sts.length) stOk
  let any := decide (opEngine (cmdOp c) = .reserved)
  let s := dropReqs c.k (havocMem c.ctx s)
  let s := havocCtrs c.ctx (havocCores c.ctx (havocTiles c.ctx (havocBanks c.ctx s)))
  let s := if cmdOp c = 0x15 ∨ any = true then havocFeed c.ctx s else s
  let s := if cmdOp c = 0x05 ∨ any = true then havocHint s else s
  let s := if isColl c ∨ any = true then havocColl c s else s
  let s := havocRemote c.ctx c.k (orSticky c.ctx (Config.freeW64 f 4 &&& 0xF01F) s)
  if isFault st then
    faultCmd c.k st { addrKind := if st = stTranslation then 1 else 0, addr := Config.freeW64 f 5, element := Config.freeW64 f 6 } s
  else endCmd c.k st (Config.freeW64 f 7) ((Config.freeW64 f 8).setWidth 32) s

/-- R73: a command has used a page that an UNMAP removed while it ran. -/
def crossedUnmap (c : Cmd) : Bool := c.touched.any fun p => inAreas c.unmapped (p * 0x10000)

/-- R73: pages, with others that have been used. -/
def addPages (t ps : List Nat) : List Nat := ps.foldl (fun t p => if t.contains p then t else p :: t) t

/-- R73: note the pages that a command's work used. -/
def noteTouched (k : Nat) (ps : List Nat) (s : State) : State := modCmd k (fun c => { c with touched := addPages c.touched ps }) s

/-- R73: a translation fault of a command at a page that an UNMAP removed while it ran. -/
def unmapFault (c : Cmd) (st : Nat) (info : FaultInfo) : Bool :=
  decide (st = stTranslation) && info.addrKind == 1 && inAreas c.unmapped info.addr.toNat

/-- R292: the command keeps what it has read of DISCARD_AFTER_LAST lines. -/
def keepReads (k : Nat) (e : Eng) (s : State) : State :=
  if e.once && !e.reads.seen.isEmpty then modProg k (fun p => { p with seen := e.reads.seen, kept := e.reads.kept }) s else s

/-- R134: the progress that the stated RESULT of a command counts, as its work left it. -/
def keepProg (k : Nat) (e : Eng) (s : State) : State :=
  match findCmd e.s k with
  | some d => modProg k (fun _ => d.prog) s
  | none => s

/-- Run the work of a started command. It answers RESULT and DETAIL when the command ends (none where the spec states none), or
none while it goes on. A need of remote bytes sends the requests and leaves the command to try again; a fault or a trap ends
it; a fault at a page that an UNMAP has removed meanwhile leaves the result unpredictable (R73). -/
def runPart (c : Cmd) (once : Bool) (work : EngM (Option (Option W64 × Option Nat))) (s : State) : State :=
  match work { s := s, ctx := c.ctx, owner := 2 * c.k, once := once, reads := { seen := c.prog.seen, kept := c.prog.kept } } with
  | .ok r e =>
    match e.trap with
    | some t => faultCmd c.k (trapStatus t) (trapInfo t) (keepProg c.k e (trapState c.k t.sticky e s))
    | none =>
      let s := modCmd c.k (fun c => { c with warns := c.warns ||| e.warns }) (keepReads c.k e (noteTouched c.k e.pages (engCommit (some c.k) e)))
      match r with
      | some r => finishCmd c.k r.1 r.2 s
      | none => s
  | .error (.remote va n) _ => askRemote c.ctx (some c.k) (2 * c.k) va n s
  | .error (.fault st info) e =>
    match e.trap with
    | some t => faultCmd c.k (trapStatus t) (trapInfo t) (keepProg c.k e (trapState c.k t.sticky e s))
    | none =>
      if unmapFault c st info then unpredictable c s
      else faultCmd c.k st info (if e.group then trapState c.k e.sticky e s else engCommit (some c.k) e)
  | .error .unpred _ => unpredictable c s
  | .error .wait e => keepReads c.k e (noteTouched c.k e.pages (engCommit (some c.k) e))

/-- Run the work of a started command that ends with it. -/
def runEng (c : Cmd) (once : Bool) (work : EngM (Option W64 × Option Nat)) (s : State) : State :=
  runPart c once (do let r ← work; pure (some r)) s

/-- R98, R99: a trapped command does no later element, row or pass. -/
def unlessTrapped (act : EngM Unit) : EngM Unit := do
  let e ← get
  match e.trap with
  | some _ => pure ()
  | none => act

/-! ### Commands at an engine -/

/-- R53, R74: bytes of the blocks, from byte 16 on, that the body does not assign, are zero; so are the reserved bits of the
header, and EXT is as the body says. `used` lists (offset, length). -/
def bodyClean (c : Cmd) (ext : Nat) (used : List (Nat × Nat)) : Bool :=
  let n := c.blocks.length
  let free := (List.range n).filter fun i => decide (16 ≤ i) && !(used.any fun u => decide (u.1 ≤ i) && decide (i < u.1 + u.2))
  decide (n = 64 * (1 + ext)) && (free.all fun i => field c.blocks i 1 == 0)

/-- R51: reserved bits of the header are zero and SIG_INC is not the reserved 0. -/
def headClean (c : Cmd) : Bool :=
  !bitOf (cmdFlags c) 7 && bits (field c.blocks 2 1) 7 5 == 0 && bits (field c.blocks 3 1) 7 4 == 0
    && !(cmdSigEn c && cmdSigInc c == 0)

/-- R58: two commands go to one engine. -/
def sameEngine (s : State) (c d : Cmd) : Bool :=
  let us := cmdUnits s c
  if us.isEmpty then decide (opEngine (cmdOp d) = opEngine (cmdOp c)) else shares us (cmdUnits s d)

/-- R58: no earlier started command of the queue, still at work, goes to the same engine. -/
def turnOf (s : State) (c : Cmd) : Bool :=
  !s.cmds.any fun d => d.q == c.q && decide (d.k < c.k) && decide (d.st = .started) && sameEngine s c d

/-- The started command k of the given opcode whose turn it is, neither pre-empted nor fenced (R58, R64, R393). -/
def readyCmd (s : State) (k op : Nat) : Option Cmd :=
  match findCmd s k with
  | none => none
  | some c =>
    if c.st = .started ∧ cmdOp c = op ∧ c.preempted = false ∧ inReset s = false ∧ turnOf s c = true then some c else none

/-- The frame of an opcode row whose extension blocks depend on the descriptor. -/
def runOpE (k op : Nat) (ext : Cmd → Nat) (used : List (Nat × Nat)) (legal : Cmd → Bool) (f : Cmd → State → State) (s : State) : State :=
  match readyCmd s k op with
  | none => s
  | some c => if headClean c && bodyClean c (ext c) used && legal c && !crossedUnmap c then f c s else unpredictable c s

/-- The frame of every opcode row: nothing happens unless the command is at work (log entry 14); a descriptor outside its
meaning, or one that runs across an UNMAP of pages that it used (R73), is unpredictable (R74); otherwise its meaning. -/
def runOp (k op ext : Nat) (used : List (Nat × Nat)) (legal : Cmd → Bool) (f : Cmd → State → State) (s : State) : State :=
  runOpE k op (fun _ => ext) used legal f s

end Sys2Proof.Machine
end

