-- ==== Sys2Proof/Machine/Arrive.lean ====
section
/-!
DEFINITION. How a packet reaches this module: the header check, the order of link sequence numbers and the rules of the edge
ports (R308, R314, R321).
-/
namespace Sys2Proof.Machine

/-- R308, R314: ask for replay from the packet that was expected, and count why. -/
def askReplay (port : Nat) (hdr : Bool) (s : State) : State :=
  modPort port (fun q => { q with
    replays := satAdd q.replays 1, replayFrom := some q.rxSeq,
    hdrCrc := if hdr then satAdd q.hdrCrc 1 else q.hdrCrc,
    fecUncorr := if hdr then q.fecUncorr else satAdd q.fecUncorr 1 }) s

/-- R321: the types that edge equipment may send. -/
def edgeType (t : Nat) : Bool := t == 1 || t == 2 || t == 8 || t == 4 || t == 5 || t == 3

/-- R314: the payload has the length that the header gives. -/
def lengthOk (p : Packet) : Bool := p.length.toNat == p.payload.length && decide (p.payload.length ≤ 4096)

/-- A packet taken from a link in order: its port counts on to the next one. Answers whether it was taken. -/
def takeLink (port : Nat) (p : Packet) (s : State) : Bool × State :=
  if port = 8 then (true, s)
  else
    let q := getPort s port
    if !portUp q || 8 < port then (false, s)
    else if packetCrc p ≠ p.hcrc then (false, askReplay port true s)
    else if p.lseq ≠ q.rxSeq then (false, s)
    else (true, modPort port (fun q => { q with rxSeq := q.rxSeq + 1, replayFrom := none }) s)

/-- R316, R321: a packet of one type for this module itself, on no waypoint leg, is acted on; one that the edge rules refuse is
counted; any other leaves the state unchanged (log entry 14). -/
def arrive (port ptype : Nat) (p : Packet) (f : State → State) (s : State) : State :=
  if p.ptype.toNat ≠ ptype ∨ packetWpActive p = true ∨ dstAddr p.dst ≠ s.id.addr ∨ dstEdge p.dst ≠ 0 ∨ s.sup.in40 = false
      ∨ lengthOk p = false then s
  else
    let r := takeLink port p s
    if !r.1 then r.2
    else if (port = 6 ∨ port = 7) ∧ edgeType ptype = false then countUnroutable port r.2
    else f r.2

end Sys2Proof.Machine
end

