-- ==== Sys2Proof/Machine/CollTree.lean ====
section
/-!
DEFINITION. The Collective Engines as tree nodes (R250-R264, R267, R268): groups, messages (R256), wire blocks (R255), interior
sums (R259), node deadlines (R261) and the saturation retry (R263). The collective header does not name the node or the pair
that a message is for; the model carries that in the packet's TXN and ADDR fields, which R312 leaves unused here (log entry 30).
-/
namespace Sys2Proof.Machine

/-! ### Groups (R250-R254) -/

/-- A group record, when it is installed. -/
def findGroup (s : State) (g : Nat) : Option Group :=
  match Tbl.find? s.groups g with
  | some x => if x.installed then some x else none
  | none => none

/-- Change a group record. -/
def modGroup (g : Nat) (f : Group → Group) (s : State) : State :=
  { s with groups := s.groups.map fun x => if x.1 = g then (x.1, f x.2) else x }

/-- R250: fields of a table entry. -/
def rankModule (e : BitVec 32) : BitVec 12 := e.extractLsb' 0 12
def rankCtx (e : BitVec 32) : Nat := bits e.toNat 19 12
def rankBasalt (e : BitVec 32) : Nat := bits e.toNat 22 20

/-- The table entry of rank r. -/
def rankEntry (g : Group) (r : Nat) : BitVec 32 := g.table.getD r 0

/-- R251: the rank that a context has on a Basalt of this module. -/
def rankOf (s : State) (g : Group) (ctx basalt : Nat) : Option Nat :=
  (List.range g.r).find? fun r =>
    let e := rankEntry g r
    rankModule e == s.id.addr && rankCtx e == ctx && rankBasalt e == basalt

/-- R253: L. -/
def treeLevels (r : Nat) : Nat := log2c r

/-- R253: node (level, j) exists. -/
def nodeExists (r level j : Nat) : Bool := decide (j * 2 ^ level < r)

/-- R254: the rank on whose module node (level, j) runs; a leaf runs at its own rank. -/
def hostRank (r level j : Nat) : Nat :=
  if level = 0 then j
  else
    let h := j * 2 ^ level + 2 ^ (level - 1)
    if h < r then h else j * 2 ^ level

/-- Whether this module hosts a node. -/
def hostsNode (s : State) (g : Group) (level j : Nat) : Bool :=
  nodeExists g.r level j && rankModule (rankEntry g (hostRank g.r level j)) == s.id.addr

/-- R250: add to a saturating count. -/
def addLate (gn n : Nat) (s : State) : State := modGroup gn (fun g => { g with late := satAdd g.late n }) s
def addStale (gn n : Nat) (s : State) : State := modGroup gn (fun g => { g with stale := satAdd g.stale n }) s
def addHdrErr (gn n : Nat) (s : State) : State := modGroup gn (fun g => { g with hdrErr := satAdd g.hdrErr n }) s
def addMissing (gn n : Nat) (s : State) : State := modGroup gn (fun g => { g with missing := satAdd g.missing n }) s

/-! ### Messages (R255, R256) -/

/-- R256: a collective header. -/
structure CollHdr where
  group : Nat := 0
  kind : Nat := 0
  level : Nat := 0
  tag : BitVec 32 := 0
  epoch : BitVec 32 := 0
  first : Nat := 0
  deadline : W64 := 0
  levelPh : Nat := 0
  retryPh : Nat := 0
deriving DecidableEq, Repr

/-- R256: the 32 bytes of a header. -/
def collHead (h : CollHdr) : Bytes :=
  let b := leBytes 2 h.group ++ leBytes 1 h.kind ++ leBytes 1 h.level ++ leBytes 4 h.tag.toNat ++ leBytes 4 h.epoch.toNat
    ++ leBytes 4 h.first ++ leBytes 8 h.deadline.toNat ++ leBytes 2 h.levelPh ++ leBytes 2 h.retryPh
  b ++ leBytes 4 (crc32c b).toNat

/-- R256: the header of a payload. -/
def collHdrOf (b : Bytes) : CollHdr :=
  { group := field b 0 2, kind := field b 2 1, level := field b 3 1, tag := BitVec.ofNat 32 (field b 4 4),
    epoch := BitVec.ofNat 32 (field b 8 4), first := field b 12 4, deadline := BitVec.ofNat 64 (field b 16 8),
    levelPh := field b 24 2, retryPh := field b 26 2 }

/-- R256: the header's check. -/
def collCheckOk (b : Bytes) : Bool := decide (32 ≤ b.length) && field b 28 4 == (crc32c (b.take 28)).toNat

/-- R255: the bytes of a wire block. -/
def wireBytes (w : WireBlock) : Bytes :=
  let h := w.maxe.toNat * 2 ^ 24 + b2n w.retry * 2 ^ 18 + b2n w.sat * 2 ^ 17 + b2n (w.count == 0) * 2 ^ 16 + w.count % 2 ^ 16
  leBytes 4 h ++ padTo 64 w.elems

/-- R255: an upward block: EMPTY is set on downward blocks only. -/
def wireUp (w : WireBlock) : Bytes :=
  let b := wireBytes w
  b.take 2 ++ [(b.getD 2 0) &&& 0xFE] ++ b.drop 3

/-- R255: a wire block from its bytes. -/
def wireOf (b : Bytes) : WireBlock :=
  let h := field b 0 4
  { maxe := BitVec.ofNat 8 (bits h 31 24), retry := bitOf h 18, sat := bitOf h 17, count := bits h 15 0, elems := (b.drop 4).take 64 }

/-- R256: the wire blocks of a payload. -/
def wiresOf (b : Bytes) : List WireBlock := ((chunks 68 (b.drop 32)).filter fun c => decide (c.length = 68)).map wireOf

/-- Send a collective message to the module of a rank; `node` and `addr` say what it is for (log entry 30). -/
def collSend (g : Group) (rank : Nat) (h : CollHdr) (node addr : Nat) (data : Bytes) (s : State) : State :=
  let e := rankEntry g rank
  sendPacket (mkPacket s ptColl ((rankModule e).setWidth 16) (rankCtx e) g.ctx node addr (collHead h ++ data)) s

/-- Send a message up from node (level, j) to its parent. -/
def sendUp (g : Group) (h : CollHdr) (level j addr : Nat) (data : Bytes) (s : State) : State :=
  collSend g (hostRank g.r (level + 1) (j / 2)) { h with level := level } j addr data s

/-- Send a message down from node (level, j) to its existing children of the given sides. -/
def sendDown (g : Group) (h : CollHdr) (level j addr : Nat) (sides : List Nat) (data : Bytes) (s : State) : State :=
  (sides.filter fun x => nodeExists g.r (level - 1) (2 * j + x)).foldl (fun s x =>
    collSend g (hostRank g.r (level - 1) (2 * j + x)) { h with level := level } (2 * j + x) addr data s) s

/-! ### Interior sums (R259) -/

/-- R259: combine two elements. -/
def combineElem (a b : BitVec 8) : BitVec 8 :=
  if a = 0x80 ∨ b = 0x80 then 0x80
  else
    let t := a.toInt + b.toInt
    let q := t / 2
    BitVec.ofInt 8 (if t % 2 = 0 then q else if q % 2 = 0 then q else q + 1)

/-- R259: the larger MAXE; 0x80 is the lowest. -/
def maxExpByte (a b : BitVec 8) : BitVec 8 := if a.toInt < b.toInt then b else a

/-- R259: a child that is missing. -/
def noBlock : WireBlock := { elems := List.replicate 64 0 }

/-- R259: combine two blocks. -/
def combineBlock (a b : WireBlock) : WireBlock :=
  { maxe := maxExpByte a.maxe b.maxe, retry := a.retry || b.retry, sat := a.sat || b.sat, count := a.count + b.count,
    elems := (a.elems.zip b.elems).map fun e => combineElem e.1 e.2 }

/-! ### Deadlines (R261, R263, R265) -/

/-- A time of DEADLINE plus some ph is reached; DEADLINE 0 never is (R261). -/
def pastPh (s : State) (deadline : W64) (ph : Nat) : Bool := decide (deadline ≠ 0) && s.reachedN (deadline.toNat + ph)

/-- R261: D of a level. -/
def levelPast (s : State) (h : CollHdr) (level : Nat) : Bool := pastPh s h.deadline (level * h.levelPh)

/-! ### Nodes (R254) -/

/-- The same node and block. -/
def sameNode (a b : Node) : Bool :=
  a.group == b.group && a.tag == b.tag && a.epoch == b.epoch && a.level == b.level && a.pos == b.pos && a.idx == b.idx
    && a.kind == b.kind

/-- The node of a key, if it has been opened. -/
def findNode (s : State) (n : Node) : Option Node := s.nodes.find? (sameNode n)

/-- Store a node. -/
def putNode (n : Node) (s : State) : State :=
  if s.nodes.any (sameNode n) then { s with nodes := s.nodes.map fun m => if sameNode n m then n else m }
  else { s with nodes := s.nodes ++ [n] }

/-- A new node for the block idx of a message's operation. -/
def newNode (h : CollHdr) (kind level pos idx : Nat) : Node :=
  { group := h.group, tag := h.tag, epoch := h.epoch, level := level, pos := pos, idx := idx, kind := kind, deadline := h.deadline,
    levelPh := h.levelPh, retryPh := h.retryPh }

/-! ### Node instances (R254, R267) -/

/-- The instance of a tag at a place of the tree. -/
def isInst (h : CollHdr) (level pos : Nat) (x : TreeInst) : Bool :=
  x.group == h.group && x.tag == h.tag && x.epoch == h.epoch && x.level == level && x.pos == pos

/-- R254: a message that needs a new instance finds none free: it waits in the fabric's buffers. -/
def noInstance (s : State) (g : Group) (h : CollHdr) (level pos : Nat) : Bool :=
  !s.insts.any (isInst h level pos) && decide (4096 ≤ (s.insts.filter fun x => !x.closed && x.qz == g.qz).length)

/-- R255, R275, R276: the downward messages of a node for a command's operation: blocks of a reduction, pieces of data. -/
def collBlocks (c : Cmd) (r : Nat) : Nat :=
  match cmdOp c with
  | 0x64 => ceilDiv (body c 20 4) 4032
  | 0x65 => r * ceilDiv (body c 20 4) 4032
  | _ => ceilDiv (redElems c c.prog.coll.stage) 64

/-- The command of the rank on whose module node (level, pos) runs, when it has been issued. Its agreed fields (R252) tell the node how
many blocks its tag has; no message tells it (log entry 123). -/
def ownTotal (s : State) (g : Group) (h : CollHdr) (level pos : Nat) : Option Nat :=
  (s.cmds.find? fun c => decide (c.st = .started) && isColl c && c.prog.coll.sent && c.prog.coll.group == h.group
    && c.prog.coll.tag + BitVec.ofNat 32 c.prog.coll.stage == h.tag && c.prog.coll.rank == hostRank g.r level pos).map
    fun c => collBlocks c g.r

/-- R254: the first message of a tag opens the instance. -/
def openInst (g : Group) (h : CollHdr) (level pos : Nat) (s : State) : State :=
  let total := ownTotal s g h level pos
  if s.insts.any (isInst h level pos) then
    { s with insts := s.insts.map fun x =>
        if isInst h level pos x = true ∧ x.total.isNone = true then { x with total := total } else x }
  else
    { s with insts := s.insts ++ [{ group := h.group, tag := h.tag, epoch := h.epoch, level := level, pos := pos, qz := g.qz, r := g.r,
                                    table := g.table, total := total }] }

/-- R267: an instance that is open for an older tag keeps the tree that it was opened in. -/
def treeOf (s : State) (g : Group) (h : CollHdr) (level pos : Nat) : Group :=
  match s.insts.find? (isInst h level pos) with
  | some x => { g with r := x.r, table := x.table }
  | none => g

/-- R261: the blocks of the tag that a node knows of, and for which no child has arrived, are nodes as well. -/
def openBlocks (h : CollHdr) (kind level pos n : Nat) (s : State) : State :=
  let known := match s.insts.find? (isInst h level pos) with
    | some x => max n (x.total.getD 0)
    | none => n
  (List.range known).foldl (fun s i =>
    let key := newNode h kind level pos i
    if (findNode s key).isSome then s else { s with nodes := s.nodes ++ [key] }) s

/-- R254: an instance closes after its node's last downward message. -/
def settleInst (h : CollHdr) (level pos : Nat) (s : State) : State :=
  let ns := s.nodes.filter fun n => n.group == h.group && n.tag == h.tag && n.epoch == h.epoch && n.level == level && n.pos == pos
  let done := fun (x : TreeInst) => match x.total with
    | some t => decide (t ≤ (ns.filter (·.closed)).length + x.passed.length)
    | none => ns.all (·.closed)
  { s with insts := s.insts.map fun x => if isInst h level pos x then { x with closed := x.closed || done x } else x }

/-- R274, R275: a late row or shard counts once in LATE, whichever of its pieces is the first to be late. -/
def lateOnce (h : CollHdr) (place : List Nat) (s : State) : State :=
  let key := (h.tag, h.kind :: h.first :: place)
  match findGroup s h.group with
  | none => s
  | some g => if g.lateSeen.contains key then s
    else modGroup h.group (fun g => { g with late := satAdd g.late 1, lateSeen := key :: g.lateSeen }) s

/-- The header of a node's own messages. -/
def nodeHdr (n : Node) (kind : Nat) : CollHdr :=
  { group := n.group, kind := kind, tag := n.tag, epoch := n.epoch, first := n.idx, deadline := n.deadline, levelPh := n.levelPh,
    retryPh := n.retryPh }

/-- R265: the root sends a final block down; the node closes. -/
def rootDeliver (g : Group) (n : Node) (w : WireBlock) (s : State) : State :=
  sendDown g (nodeHdr n (if n.kind = 5 then 6 else 2)) n.level n.pos 0 [0, 1] (wireBytes w) (putNode { n with closed := true } s)

/-- R261, R263: a node has its block: it sends it upward; the root delivers it, or holds it back for a retry. -/
def nodeSend (g : Group) (n : Node) (s : State) : State :=
  let w := combineBlock (n.lo.getD noBlock) (n.hi.getD noBlock)
  let n := { n with sent := some w, idlePh := 0 }
  if n.level < treeLevels g.r then sendUp g (nodeHdr n n.kind) n.level n.pos 0 (wireUp w) (putNode n s)
  else if w.sat && decide (n.retryPh ≠ 0) && n.kind == 1 then
    sendDown g (nodeHdr n 3) n.level n.pos 0 [0, 1] (wireBytes w) (putNode { n with inRetry := true } s)
  else rootDeliver g n w s

/-- R261: every existing child has arrived. -/
def nodeFull (g : Group) (n : Node) : Bool :=
  n.lo.isSome && (n.hi.isSome || !nodeExists g.r (n.level - 1) (2 * n.pos + 1))

/-- R261: one block of an upward message reaches its node. One that comes after D_ℓ is late, and the node sends without it. -/
def nodeUp (g : Group) (h : CollHdr) (level pos side idx : Nat) (w : WireBlock) (s : State) : State :=
  let n := (findNode s (newNode h h.kind level pos idx)).getD (newNode h h.kind level pos idx)
  if n.sent.isSome || n.closed then addLate h.group 1 s
  else if levelPast s h level then addLate h.group 1 (nodeSend g n s)
  else
    let n := if side = 0 then { n with lo := some w } else { n with hi := some w }
    let n := { n with idlePh := 0 }
    if nodeFull g n then nodeSend g n s else putNode n s

/-- R263: the children whose first-pass count was nonzero have answered. -/
def retryFull (n : Node) : Bool :=
  let needs := fun (a : Option WireBlock) => match a with
    | some w => decide (w.count ≠ 0)
    | none => false
  (!needs n.lo || n.rlo.isSome) && (!needs n.hi || n.rhi.isSome)

/-- R263: D_R of a root node. -/
def retryPast (s : State) (n : Node) : Bool := pastPh s n.deadline (n.level * n.levelPh + n.retryPh)

/-- R263: the retry block of a node is complete: it goes up, or the root delivers it, MAXE from the first pass. -/
def retrySend (g : Group) (n : Node) (s : State) : State :=
  let r := combineBlock (n.rlo.getD noBlock) (n.rhi.getD noBlock)
  let first := n.sent.getD noBlock
  let w := { r with retry := true, maxe := first.maxe }
  if n.level < treeLevels g.r then sendUp g (nodeHdr n 4) n.level n.pos 0 (wireUp w) (putNode n s)
  else if retryPast s n then rootDeliver g n first s
  else rootDeliver g n w s

/-- R263: one block of a RETRY_UP reaches its node; a child that the first pass did not count is ignored. -/
def nodeRetryUp (g : Group) (h : CollHdr) (level pos side idx : Nat) (w : WireBlock) (s : State) : State :=
  match findNode s (newNode h 1 level pos idx) with
  | none => s
  | some n =>
    let counted := match (if side = 0 then n.lo else n.hi) with
      | some f => decide (f.count ≠ 0)
      | none => false
    if !n.inRetry || n.closed || !counted then s
    else
      let n := if side = 0 then { n with rlo := some w } else { n with rhi := some w }
      let n := { n with idlePh := 0 }
      if retryFull n then retrySend g n s else putNode n s

/-- R263: a RETRY_REQ reaches an interior node: it enters the retry and forwards the request. -/
def nodeRetryReq (g : Group) (h : CollHdr) (level pos idx : Nat) (w : WireBlock) (s : State) : State :=
  match findNode s (newNode h 1 level pos idx) with
  | none => s
  | some n =>
    if n.closed then s
    else
      let n := { n with inRetry := true, rlo := none, rhi := none, idlePh := 0 }
      let s := sendDown g (nodeHdr n 3) level pos 0 [0, 1] (wireBytes w) (putNode n s)
      if retryFull n then retrySend g n s else s

/-- R265: a downward block passes an interior node, which closes. -/
def nodeDown (g : Group) (h : CollHdr) (level pos idx : Nat) (w : WireBlock) (s : State) : State :=
  let kind := if h.kind = 6 then 5 else 1
  let key := newNode h kind level pos idx
  let n := (findNode s key).getD key
  sendDown g { h with first := idx } level pos 0 [0, 1] (wireBytes w) (putNode { n with closed := true } s)

/-! ### Arrival (R256, R267, R268) -/

/-- R256: the wire blocks of a message, the 64-byte blocks of a broadcast's data (R276), or one shard or row. -/
def dropCount (h : CollHdr) (p : Packet) : Nat :=
  let n := p.payload.length - 32
  if 1 ≤ h.kind ∧ h.kind ≤ 6 then (wiresOf p.payload).length
  else if bitOf p.addr.toNat 63 = true ∧ (h.kind = 7 ∨ h.kind = 8) then n / 64
  else min n 1

/-- R256, R267, R268: a collective message that reaches this module: its group is here, its check and its epoch are right. A message
without a whole header, or with one whose check is wrong, is dropped whatever its KIND reads; so is one of a reserved KIND (log entry
124). -/
def collArrive (port kind : Nat) (p : Packet) (f : Group → CollHdr → State → State) (s : State) : State :=
  let h := collHdrOf p.payload
  if collCheckOk p.payload = true ∧ h.kind ≠ kind ∧ 1 ≤ h.kind ∧ h.kind ≤ 10 then s
  else arrive port ptColl p (fun s =>
    if !collCheckOk p.payload then (if p.payload.length < 32 then s else addHdrErr h.group (dropCount h p) s)
    else if h.kind ≠ kind then s
    else match findGroup s h.group with
    | none => nack p stCtxGone s
    | some g =>
      if h.epoch ≠ g.epoch then addStale h.group (dropCount h p) s
      else f g h s) s

/-- R254, R315: a message that has to wait does so in this module's collective buffers, so that its link's other channels go on: it is
taken from the link, and presents itself again (port 8). -/
def parkColl (port : Nat) (p : Packet) (s : State) : State := if port = 8 then s else arrive port ptColl p (sendSelf p) s

/-- R254: a message to an interior node of this module: its instance is open, or one is opened; with none free it waits. -/
def nodeArrive (port kind level pos : Nat) (p : Packet) (f : Group → CollHdr → State → State) (s : State) : State :=
  let h := collHdrOf p.payload
  let full := collCheckOk p.payload && match findGroup s h.group with
    | some g => decide (h.epoch = g.epoch) && hostsNode s g level pos && noInstance s g h level pos
    | none => false
  if full then parkColl port p s
  else collArrive port kind p (fun g h s =>
    if hostsNode s g level pos then
      let s := openInst g h level pos s
      settleInst h level pos (f (treeOf s g h level pos) h s)
    else s) s

/-- The block index and block of each wire block of a message. -/
def blocksOf (h : CollHdr) (p : Packet) : List (Nat × WireBlock) :=
  let ws := wiresOf p.payload
  ((List.range ws.length).map (· + h.first)).zip ws

/-- R254, R261: an upward message of blocks at its node. -/
def upArrive (port kind : Nat) (p : Packet) (f : Group → CollHdr → Nat → Nat → Nat → Nat → WireBlock → State → State)
    (s : State) : State :=
  let level := (collHdrOf p.payload).level + 1
  let pos := p.txn.toNat / 2
  nodeArrive port kind level pos p (fun g h s =>
    let bs := blocksOf h p
    let s := if kind = 4 then s else openBlocks h kind level pos (h.first + bs.length) s
    bs.foldl (fun s b => f g h level pos (p.txn.toNat % 2) b.1 b.2 s) s) s

/-- UP (R254, R259, R261). -/
def execCollUp (port : Nat) (p : Packet) (s : State) : Host.Outcome State Fault Refusal := .next (upArrive port 1 p nodeUp s)

/-- MAX_UP (R257, R261). -/
def execMaxUp (port : Nat) (p : Packet) (s : State) : Host.Outcome State Fault Refusal := .next (upArrive port 5 p nodeUp s)

/-- RETRY_UP (R263). -/
def execRetryUp (port : Nat) (p : Packet) (s : State) : Host.Outcome State Fault Refusal := .next (upArrive port 4 p nodeRetryUp s)

/-- NODE_DEADLINE (R261): at its deadline a node sends with the children that have arrived. -/
def execNodeDeadline (i : Nat) (s : State) : Host.Outcome State Fault Refusal :=
  .next (match s.nodes[i]? with
    | none => s
    | some n =>
      match findGroup s n.group with
      | none => s
      | some g =>
        let h := nodeHdr n n.kind
        if n.sent.isNone && !n.closed && pastPh s n.deadline (n.level * n.levelPh) then
          settleInst h n.level n.pos (nodeSend (treeOf s g h n.level n.pos) n s)
        else s)

/-- RETRY_DEADLINE (R263): at D_R the root delivers the first-pass block with its SAT mark. -/
def execRetryDeadline (i : Nat) (s : State) : Host.Outcome State Fault Refusal :=
  .next (match s.nodes[i]? with
    | none => s
    | some n =>
      match findGroup s n.group, n.sent with
      | some g, some w =>
        let h := nodeHdr n n.kind
        let g := treeOf s g h n.level n.pos
        if n.inRetry && !n.closed && n.level == treeLevels g.r && retryPast s n then
          settleInst h n.level n.pos (rootDeliver g n w s)
        else s
      | _, _ => s)

end Sys2Proof.Machine
end

