-- ==== Sys2Proof/Machine/Units.lean ====
section
/-!
DEFINITION. Which commands may start, be pre-empted or resume, and which the watchdog watches
(R57, R62-R64, R68, R387).
-/
namespace Sys2Proof.Machine

/-- R63: a command's priority. -/
def effPrio (s : State) (c : Cmd) : Nat :=
  max (cmdPrio c) (match findQueue s c.q with
    | some q => q.floor
    | none => 0)

/-- R68: a completion slot is free. -/
def hasRoom (s : State) (q : Nat) : Bool :=
  match findQueue s q with
  | none => false
  | some x => decide ((x.cqTail - x.cqHead).toNat + creditsHeld s q ≠ 2 ^ x.cqN)

/-- R57 conditions 1 to 4, and that the queue fetches: the command is ready for its engine. -/
def ready (s : State) (c : Cmd) : Bool :=
  decide ((headCmd s c.q).map (·.k) = some c.k) && decide ((getCtx s c.ctx).st = .active) && !fetchStopped s
    && decide (s.pow.pst = .active) && c.intact && !heldByWait s c.q && (c.replay || headerWaitOk s c)
    && (!cmdBarrier c || decide ((queueCmds s c.q).head?.map (·.k) = some c.k)) && (c.credit || hasRoom s c.q)

/-- R63: the engines at which a command is arbitrated: those that it holds, or else the command processor, power manager or
Collective Engine that executes it beside others (log entry 15). -/
def arbUnits (s : State) (c : Cmd) : List Nat :=
  match cmdUnits s c with
  | [] =>
    match opEngine (cmdOp c) with
    | .power => [9100]
    | .coll => [9200 + cmdUnit s c]
    | _ => [9000 + c.basalt]
  | us => us

/-- R63: the queue heads that are ready and share an engine with a command. -/
def rivals (s : State) (c : Cmd) : List Cmd :=
  let us := arbUnits s c
  s.cmds.filter fun d => decide (d.k ≠ c.k) && decide (d.st = .fetched) && ready s d && shares us (arbUnits s d)

/-- R63: place in the rotation of an engine: queues after the one served last come first. -/
def turnRank (s : State) (u q : Nat) : Nat :=
  match Tbl.find? s.served u with
  | some l => (q + 1024 - l - 1) % 1024
  | none => q

/-- R57 condition 5, R63, R64: every engine of the command accepts it. -/
def accepts (s : State) (c : Cmd) : Bool :=
  let us := cmdUnits s c
  let p := effPrio s c
  let busy := s.cmds.any fun d => decide (d.st = .started) && decide (d.k ≠ c.k) && (!d.preempted || p == 3 || d.q == c.q)
    && shares us (cmdUnits s d)
  let beaten := (s.cmds.any fun d => lrDue d && decide (effPrio s d < p) && shares us (lrUnits d)) || (rivals s c).any fun d =>
    decide (effPrio s d < p) || (effPrio s d == p && (arbUnits s c).any fun u => (arbUnits s d).contains u &&
      decide (turnRank s u d.q < turnRank s u c.q))
  !busy && !beaten

/-- R64: some ready command of levels 0-2 wants an engine of this one, or a RED_LOWRANK of such a level its lanes or cores (R270).
A later command of the same queue does not: R58 keeps the start order of one queue at an engine (log entry 117). -/
def wanted (s : State) (c : Cmd) : Bool :=
  ((rivals s c).any fun d => decide (effPrio s d < 3) && decide (d.q ≠ c.q)) ||
    s.cmds.any fun d => lrDue d && decide (effPrio s d < 3) && shares (cmdUnits s c) (lrUnits d)

/-- R270: no other command holds a lane or a core that the steps of a RED_LOWRANK take, and none of a higher priority is ready for one. -/
def lrFree (s : State) (c : Cmd) : Bool :=
  let us := lrUnits c
  let p := effPrio s c
  let busy := s.cmds.any fun d => decide (d.st = .started) && decide (d.k ≠ c.k) && (!d.preempted || p == 3) && shares us (cmdUnits s d)
  let beaten := s.cmds.any fun d => decide (d.st = .fetched) && ready s d && decide (effPrio s d < p) && shares us (cmdUnits s d)
  !busy && !beaten

/-- R64: the engines that pre-empt: not the Collective Engine, whose level 3 commands run to completion, nor the power manager,
for which the table gives no point. -/
def preemptible (c : Cmd) : Bool :=
  match opEngine (cmdOp c) with
  | .coll | .power | .reserved => false
  | .cp | .movers | .matrix | .vector | .update | .solver => true

/-- R387, R388: the engine whose count watches a command, and its die: the command processor for a header wait, else the engine that
executes the command. -/
def watchEngine (s : State) (c : Cmd) : Engine × Nat :=
  if c.st = .fetched then (.cp, 0x10 + c.basalt) else (opEngine (cmdOp c), cmdUnit s c)

/-- R387, R388: one count watches both commands: of one context, on one engine, and on the matrix arrays in one lane. -/
def sameWatch (s : State) (c d : Cmd) : Bool :=
  d.ctx == c.ctx && decide (watchEngine s c = watchEngine s d)
    && (decide ((watchEngine s c).1 ≠ .matrix) || shares (cmdUnits s c) (cmdUnits s d))

/-- R387, R388: a progress event of a command restarts the count of every command of its context on the same engine. -/
def progress (k : Nat) (s : State) : State :=
  match findCmd s k with
  | none => s
  | some c => { s with cmds := s.cmds.map fun d => if d.k = k ∨ sameWatch s c d = true then { d with wdog := 0 } else d }

/-- R388: what a command's engine has done, as far as its progress events show it. -/
def workMark (c : Cmd) : CmdState × List Nat × List LaneSys :=
  (c.st, [c.prog.next, c.prog.segment, b2n c.prog.sweep2, b2n c.prog.coll.sent, c.prog.coll.delivered.length + c.prog.coll.ends.length],
   c.prog.lanes)

/-- R388: after a step of work, the count restarts if the step ended or advanced the command. -/
def progressSince (k : Nat) (s s' : State) : State :=
  if (findCmd s' k).map workMark = (findCmd s k).map workMark then s' else progress k s'

/-- Run a part of a started command's work, and note its progress (R388). -/
def runWatched (c : Cmd) (once : Bool) (work : EngM (Option (Option W64 × Option Nat))) (s : State) : State :=
  progressSince c.k s (runPart c once work s)

/-- Another command is started, or a compute reset is due: its steps can fall between those of a command. -/
def sharesTime (s : State) (k : Nat) : Bool :=
  decide (s.rst.stage ≠ .none) || s.cmds.any fun d => decide (d.st = .started) && decide (d.k ≠ k)

/-- R205, R206: how much of n units of work an engine does in one step of the model: all of it while the command runs alone; a free
part of it while another command is started or a compute reset is due, so that their steps can fall between (log entry 26). -/
def workBudget (s : State) (k n : Nat) : Nat :=
  if sharesTime s k then Config.freeNat s.free 9 % (n + 1) else n

/-- R107, R109, R111: an earlier started matrix-array command of the Basalt that satisfies a condition is still at work on a tile, or for
`cluster` on a cluster, of this one. -/
def earlierWork (s : State) (c : Cmd) (cluster : Bool) (p : Cmd → Bool) : Bool :=
  let t := maTiles s c
  let g := if cluster then 32 else 1
  s.cmds.any fun d => decide (d.st = .started) && decide (d.startNo < c.startNo) && decide (opEngine (cmdOp d) = .matrix)
    && d.basalt == c.basalt && p d &&
    (let u := maTiles s d
     decide (0 < t.2) && decide (0 < u.2) && decide (t.1 / g ≤ (u.1 + u.2 - 1) / g) && decide (u.1 / g ≤ (t.1 + t.2 - 1) / g))

/-- R109: in a SPLIT cluster a load waits until its context's earlier run-lane commands on its tiles have finished. -/
def loadFree (s : State) (c : Cmd) : Bool :=
  let t := maTiles s c
  let split := fun (i : Nat) => decide ((getCluster s c.basalt (i / 32)).mode = .split)
  !((List.range t.2).any fun i => split (t.1 + i)) ||
    !earlierWork s c false fun d => d.ctx == c.ctx && decide (cmdOp d ≠ 0x20)

/-- R111: every earlier run-lane and load-lane command on the swap's clusters has finished. -/
def swapFree (s : State) (c : Cmd) : Bool := !earlierWork s c true fun _ => true

/-- R105, R109: the banks that a started load writes take state LOADING and the issuing context, once the load may write them. -/
def markLoading (c : Cmd) (s : State) : State :=
  let t := maTiles s c
  let ts := (List.range t.2).map (· + t.1)
  if cmdOp c = 0x20 ∧ t.1 + t.2 ≤ 512 ∧ ts.all (grantedTile s c.ctx c.basalt) = true ∧ loadFree s c = true then
    let mark := fun (bs : Tbl Bank) (i : Nat) =>
      let b := shadowOf s c.ctx c.basalt i
      let r := getBank s c.basalt i b
      Tbl.ins bs (bankKey c.basalt i b) { r with st := .loading, ctx := c.ctx }
    { s with banks := ts.foldl mark s.banks }
  else s

/-- Repeat a step of work. -/
def repeatWork (f : State → State) : Nat → State → State
  | 0, s => s
  | n + 1, s => repeatWork f n (f s)

/-- R125: the limiter holds the clusters of a matrix-array run, or of a RED_LOWRANK's passes, at f = 0. -/
def heldByLimiter (s : State) (c : Cmd) : Bool :=
  (decide (opEngine (cmdOp c) = .matrix) || lrRunning c) && (s.pow.f.getD c.basalt 0 == 0)

/-- R62, R387: the watchdog counts this command's wait: started work, remote requests still unanswered, or a header wait. -/
def watched (s : State) (c : Cmd) : Bool :=
  !inReset s && !c.preempted && !heldByLimiter s c &&
  match c.st with
  | .started => !(decide (opEngine (cmdOp c) = .cp) && !(cmdOp c == 2 && body c 32 8 == 0 && !countReached s c)) && !(cmdOp c == 5)
  | .done => !c.waits.isEmpty
  | .fetched => decide ((headCmd s c.q).map (·.k) = some c.k) && decide ((getCtx s c.ctx).st = .active) && c.intact
      && !heldByWait s c.q && !headerWaitOk s c

/-- R387: the count has reached WDOG_PH. -/
def expired (s : State) (c : Cmd) : Bool := watched s c && decide ((getCtx s c.ctx).wdogPh ≤ c.wdog)

end Sys2Proof.Machine
end

