-- ==== Sys2Proof/Machine/Movers.lean ====
section
/-!
DEFINITION. The commands of the data movers (R296-R300) and the prefetch generations (R187-R189). FEED_BIND is in Feeds.
-/
namespace Sys2Proof.Machine

/-! ### Overlap of source and destination (R296) -/

/-- The memory that a run of virtual addresses names: (space, address, length), space 0 this module's memory, else a remote
context and module. A page that does not translate names nothing (fuel: pages). -/
def extents (s : State) (ctx : Nat) : Nat → Nat → Nat → List (Nat × Nat × Nat)
  | 0, _, _ => []
  | fuel + 1, va, n =>
    if n = 0 then [] else
    match findMap s ctx va with
    | none => extents s ctx fuel ((va / 0x10000 + 1) * 0x10000) (n - min n ((va / 0x10000 + 1) * 0x10000 - va))
    | some m =>
      let k := pageRun m va n
      let here := if m.remote then [(1 + m.dst.toNat * 256 + m.rctx.toNat, mapTarget m va, k)]
        else (canonRuns s.id (k / 4096 + 2) (mapTarget m va) k).map fun r => (0, r.1, r.2)
      here ++ extents s ctx fuel (va + k) (n - k)

/-- The memory of a list of runs. -/
def extentsOf (s : State) (ctx : Nat) (runs : List (Nat × Nat)) : List (Nat × Nat × Nat) :=
  runs.flatMap fun r => extents s ctx (r.2 / 0x10000 + 2) r.1 r.2

/-- Two lists of extents share a byte. -/
def overlap (a b : List (Nat × Nat × Nat)) : Bool :=
  a.any fun x => b.any fun y => x.1 == y.1 && decide (x.2.1 < y.2.1 + y.2.2) && decide (y.2.1 < x.2.1 + x.2.2)

/-- R296: a command whose source and destination overlap is unpredictable. -/
def needApart (src dst : List (Nat × Nat)) : EngM Unit := do
  let e ← get
  if overlap (extentsOf e.s e.ctx src) (extentsOf e.s e.ctx dst) then throw .unpred else pure ()

/-! ### Transfers (R64, R296) -/

/-- R296: the transfers of a command from number t on (the first argument counts them), until one traps. The command keeps the number of
its next transfer. -/
def mvLoop (k : Nat) (unit' : Nat → EngM Unit) : Nat → Nat → EngM Unit
  | 0, _ => pure ()
  | n + 1, t => do
    let e ← get
    match e.trap with
    | some _ => pure ()
    | none =>
      unit' t
      modS (modProg k fun p => { p with next := t + 1 })
      mvLoop k unit' n (t + 1)

/-- R296: at most n further transfers of a command of `total` ones, over a source and a destination; it ends with the last one. -/
def mvPart (c : Cmd) (n total : Nat) (src dst : List (Nat × Nat)) (unit' : Nat → EngM Unit) (result : Nat) :
    EngM (Option (Option W64 × Option Nat)) := do
  if c.prog.next = 0 then needApart src dst
  setOuts dst
  let m := min n (total - c.prog.next)
  mvLoop c.k unit' m c.prog.next
  pure (if c.prog.next + m < total then none else some (some (BitVec.ofNat 64 result), none))

/-- R64, R296: the transfers of a mover command that are left, or a free number of them while other commands run (log entries 26 and
126). `total` gives their number and `work` their work. -/
def mvRun (once : Bool) (total : Cmd → Nat) (work : Cmd → Nat → EngM (Option (Option W64 × Option Nat))) (c : Cmd) (s : State) : State :=
  runWatched c once (work c (workBudget s c.k (total c))) { s with free := s.free + 1 }

/-- Rows of a run: (address, length) of row i, for i below n. -/
def rowRuns (base stride len n : Nat) : List (Nat × Nat) := (List.range n).map fun i => (base + i * stride, len)

/-! ### COPY (R297) -/

def cpConvert (c : Cmd) : Bool := bitOf (body c 18 1) 0
def cpSfmt (c : Cmd) : Nat := bits (body c 16 1) 3 0
def cpDfmt (c : Cmd) : Nat := bits (body c 17 1) 3 0
/-- R297: EXT is 1 when either format is block-scaled. -/
def cpExt (c : Cmd) : Nat := b2n (cpConvert c && (isBlock (cpSfmt c) || isBlock (cpDfmt c)))

/-- R297: reserved bits, ROWS and the formats. -/
def cpLegal (c : Cmd) : Bool :=
  decide (body c 16 1 < 16) && decide (body c 17 1 < 16) && decide (body c 18 1 < 2) && decide (1 ≤ body c 20 4)
    && (!cpConvert c || (decide (cpSfmt c < 15) && decide (cpDfmt c < 12)))

/-- R297: the assigned bytes of the body. -/
def cpUsed : List (Nat × Nat) := [(16, 3), (20, 8), (32, 32), (64, 16)]

/-- R297: source runs and destination runs. -/
def cpRuns (c : Cmd) : List (Nat × Nat) × List (Nat × Nat) :=
  let rows := body c 20 4
  let n := body c 24 4
  let sb := if cpConvert c then runBytes (cpSfmt c) n else n
  let db := if cpConvert c then runBytes (cpDfmt c) n else n
  let sc := ceilDiv n 32
  (rowRuns (body c 32 8) (body c 48 4) sb rows
      ++ (if cpConvert c && isBlock (cpSfmt c) then rowRuns (body c 64 8) (body c 72 4) sc rows else []),
   rowRuns (body c 40 8) (body c 52 4) db rows
      ++ (if cpConvert c && isBlock (cpDfmt c) then rowRuns (body c 56 8) (body c 76 4) sc rows else []))

/-- R297: elements of one transfer of a conversion: the whole blocks of 32 that 4 KiB of the source hold. -/
def cpChunk (c : Cmd) : Nat := 32768 / elemBits (cpSfmt c) / 32 * 32

/-- R297: transfers of one row. -/
def cpParts (c : Cmd) : Nat := ceilDiv (body c 24 4) (if cpConvert c then cpChunk c else 4096)

/-- R297: transfer t, converted or not. -/
def cpUnit (c : Cmd) (t : Nat) : EngM Unit := do
  let n := body c 24 4
  let r := t / cpParts c
  let i := t % cpParts c
  let sva := body c 32 8 + r * body c 48 4
  let dva := body c 40 8 + r * body c 52 4
  if cpConvert c then
    let f := cpSfmt c
    let d := cpDfmt c
    let o := i * cpChunk c
    let m := min (cpChunk c) (n - o)
    let bs ← readV (sva + runBytes f o) (runBytes f m)
    let ss ← if isBlock f then readV (body c 64 8 + r * body c 72 4 + o / 32) (ceilDiv m 32) else pure []
    let out := convRun f d .ne (runValues f bs ss m)
    noteEvs 0 (r * n + o) 4 0xFFFF out.2.2
    unlessTrapped (writeV (dva + runBytes d o) out.1)
    unlessTrapped (writeV (body c 56 8 + r * body c 76 4 + o / 32) out.2.1)
  else
    let bs ← readV (sva + 4096 * i) (min 4096 (n - 4096 * i))
    writeV (dva + 4096 * i) bs

/-- R297: COPY, at most n further transfers. RESULT holds the bytes written. -/
def cpWork (c : Cmd) (n : Nat) : EngM (Option (Option W64 × Option Nat)) :=
  let runs := cpRuns c
  mvPart c n (body c 20 4 * cpParts c) runs.1 runs.2 (cpUnit c) (runs.2.foldl (fun t r => t + r.2) 0)

/-- COPY (R85, R297). -/
def execCopy (k : Nat) (s : State) : Host.Outcome State Fault Refusal :=
  .next (runOpE k 0x10 cpExt cpUsed cpLegal (mvRun true (fun c => body c 20 4 * cpParts c) cpWork) s)

/-! ### COPY_T (R298) -/

/-- R298: element bytes. -/
def ctSize (c : Cmd) : Nat := 2 ^ bits (body c 16 1) 1 0

/-- R298: transfers of one destination row, 4 KiB each. -/
def ctParts (c : Cmd) : Nat := ceilDiv (body c 20 4) (4096 / ctSize c)

/-- Read n runs of len bytes, `stride` apart, one after the other. -/
def readColumnOf (va stride len : Nat) : Nat → EngM Bytes
  | 0 => pure []
  | n + 1 => do
    let a ← readColumnOf va stride len n
    let b ← readV (va + n * stride) len
    pure (a ++ b)

/-- R298: transfer t: a part of a column of the source becomes a part of a row. -/
def ctUnit (c : Cmd) (t : Nat) : EngM Unit := do
  let es := ctSize c
  let m := 4096 / es
  let j := t / ctParts c
  let o := t % ctParts c * m
  let bs ← readColumnOf (body c 32 8 + o * body c 48 4 + j * es) (body c 48 4) es (min m (body c 20 4 - o))
  writeV (body c 40 8 + j * body c 52 4 + o * es) bs

/-- R298: COPY_T, at most n further transfers. RESULT holds the bytes written. -/
def ctWork (c : Cmd) (n : Nat) : EngM (Option (Option W64 × Option Nat)) :=
  let es := ctSize c
  let rows := body c 20 4
  let cols := body c 24 4
  mvPart c n (cols * ctParts c) (rowRuns (body c 32 8) (body c 48 4) (cols * es) rows)
    (rowRuns (body c 40 8) (body c 52 4) (rows * es) cols) (ctUnit c) (rows * cols * es)

/-- COPY_T (R298). -/
def execCopyT (k : Nat) (s : State) : Host.Outcome State Fault Refusal :=
  .next (runOp k 0x11 0 [(16, 1), (20, 8), (32, 24)] (fun c => decide (body c 16 1 < 4))
    (mvRun true (fun c => body c 24 4 * ctParts c) ctWork) s)

/-! ### GATHER_ROWS and SCATTER_ROWS (R299) -/

def grCount (c : Cmd) : Nat := body c 16 4
def grBytes (c : Cmd) : Nat := body c 20 4
/-- R299: address of a table row. -/
def grRowVa (c : Cmd) (i : Nat) : Nat := body c 24 8 + i * body c 48 4
/-- R299: address of a packed entry. -/
def grPackVa (c : Cmd) (e : Nat) : Nat := body c 40 8 + e * grBytes c

/-- R299: the row indices. An index at or beyond NROWS is unpredictable. -/
def grIndices (c : Cmd) : EngM (List Nat) := do
  let bs ← readV (body c 32 8) (4 * grCount c)
  let ix := (List.range (grCount c)).map fun e => field bs (4 * e) 4
  if ix.any fun i => decide (body c 52 4 ≤ i) then throw .unpred else pure ix

/-- R299: transfers of one list entry, 4 KiB each. -/
def grParts (c : Cmd) : Nat := ceilDiv (grBytes c) 4096

/-- R299: transfer t of a GATHER_ROWS. -/
def grUnit (c : Cmd) (ix : List Nat) (t : Nat) : EngM Unit := do
  let e := t / grParts c
  let o := t % grParts c * 4096
  let bs ← readV (grRowVa c (ix.getD e 0) + o) (min 4096 (grBytes c - o))
  writeV (grPackVa c e + o) bs

/-- R299: GATHER_ROWS, at most n further transfers. RESULT holds COUNT. -/
def grWork (c : Cmd) (n : Nat) : EngM (Option (Option W64 × Option Nat)) := do
  let ix ← grIndices c
  mvPart c n (grCount c * grParts c) ((body c 32 8, 4 * grCount c) :: ix.map fun i => (grRowVa c i, grBytes c))
    [(body c 40 8, grCount c * grBytes c)] (grUnit c ix) (grCount c)

/-- GATHER_ROWS (R299). -/
def execGatherRows (k : Nat) (s : State) : Host.Outcome State Fault Refusal :=
  .next (runOp k 0x12 0 [(16, 8), (24, 32)] (fun c => decide (1 ≤ grBytes c))
    (mvRun true (fun c => grCount c * grParts c) grWork) s)

/-- R299: FMT of SCATTER_ROWS. -/
def scFmt (c : Cmd) : Nat := body c 57 1
def scAdd (c : Cmd) : Bool := body c 56 1 == 1

/-- R299: MODE, and the format of an add: FP64, FP32, FP16 or BF16. -/
def scLegal (c : Cmd) : Bool :=
  decide (1 ≤ grBytes c) && decide (body c 56 1 ≤ 1) && (if scAdd c then decide (scFmt c < 4) else scFmt c == 0)

/-- R86, R299: a packed entry added to the whole elements of a table row, each sum rounded once. -/
def addRows (f : Fmt) (old new : Bytes) : Bytes × List Ev :=
  let z := f.w / 8
  let n := old.length / z
  let rs := (List.range n).map fun i => fAdd f .ne (decodeF f (field old (i * z) z)) (decodeF f (field new (i * z) z))
  (rs.flatMap fun r => leBytes z r.1, rs.map (·.2))

/-- R299: transfer t of a SCATTER_ROWS. An add concerns the whole elements of the row. -/
def scUnit (c : Cmd) (ix : List Nat) (t : Nat) : EngM Unit := do
  let e := t / grParts c
  let o := t % grParts c * 4096
  let row := grRowVa c (ix.getD e 0)
  if scAdd c then
    let f := (fmtOf (scFmt c)).getD fp64
    let z := f.w / 8
    let m := grBytes c / z
    let n := min 4096 (m * z - o)
    let new ← readV (grPackVa c e + o) n
    let old ← readV (row + o) n
    let r := addRows f old new
    noteEvs 0 (e * m + o / z) 3 0xFFFF r.2
    unlessTrapped (writeV (row + o) r.1)
  else
    let new ← readV (grPackVa c e + o) (min 4096 (grBytes c - o))
    writeV (row + o) new

/-- R299: SCATTER_ROWS, entries in list order, at most n further transfers. RESULT holds COUNT. -/
def scWork (c : Cmd) (n : Nat) : EngM (Option (Option W64 × Option Nat)) := do
  let ix ← grIndices c
  mvPart c n (grCount c * grParts c) [(body c 32 8, 4 * grCount c), (body c 40 8, grCount c * grBytes c)]
    (ix.map fun i => (grRowVa c i, grBytes c)) (scUnit c ix) (grCount c)

/-- SCATTER_ROWS (R299). -/
def execScatterRows (k : Nat) (s : State) : Host.Outcome State Fault Refusal :=
  .next (runOp k 0x13 0 [(16, 8), (24, 34)] scLegal (mvRun false (fun c => grCount c * grParts c) scWork) s)

/-! ### PREFETCH (R187-R189, R300) -/

/-- R300: CANCEL. -/
def pfCancel (c : Cmd) : Bool := bitOf (body c 16 1) 1

/-- R300: the remote line of a page, tagged for a PREFETCH. -/
def remoteLine (c : Cmd) (m : Mapping) (ln : Nat) : PrefLine :=
  { mica := true, ctx := c.ctx, gen := c.startGen, line := mapTarget m (ln * 128) / 128, remote := true, dst := m.dst, rctx := m.rctx }

/-- R300: a line of a PREFETCH that was filled, or found no room. -/
def pfCount (k : Nat) (r : Bool × State) : State := if r.1 then modProg k (fun p => { p with good := p.good + 1 }) r.2 else r.2

/-- R189, R300: one line of the range of a PREFETCH: filled from this module, asked for at another, or refused. -/
def pfLine (c : Cmd) (ln : Nat) (s : State) : State :=
  match translate s c.ctx (ln * 128) false with
  | none => modProg c.k (fun p => { p with refused := p.refused + 1 }) s
  | some m =>
    let a := mapTarget m (ln * 128)
    if m.remote then
      if s.pref.any (sameLine (remoteLine c m ln)) then pfCount c.k (true, tagLine (remoteLine c m ln) s)
      else request ptReadReq c.ctx (some c.k) m.dst m.rctx a 128 (ln * 128) (2 * c.k) (leBytes 4 128) true c.startGen s
    else pfCount c.k (fillLine true { mica := bitOf (body c 16 1) 0, ctx := c.ctx, gen := c.startGen, line := canon s.id a / 128 } s)

/-- R300: the virtual lines of the range, rounded out to whole lines. -/
def pfLines (c : Cmd) : List Nat := linesOf (body c 32 8) (body c 24 8)

/-- R189, R300: the PREFETCH ends when no line is still asked for. -/
def pfFinish (k : Nat) (s : State) : State :=
  match findCmd s k with
  | none => s
  | some c =>
    if s.fab.reqs.any fun r => decide (r.k = some k) && !r.dropped then s
    else finishCmd k (some (BitVec.ofNat 64 c.prog.good)) (some c.prog.refused) s

/-- R300: a PREFETCH issues its lines once, then waits. -/
def pfWork (c : Cmd) (s : State) : State :=
  if c.prog.next = 0 then
    pfFinish c.k (modProg c.k (fun p => { p with next := 1 }) ((pfLines c).foldl (fun s ln => pfLine c ln s) s))
  else pfFinish c.k s

/-- PREFETCH (R187, R189, R300). -/
def execPrefetch (k : Nat) (s : State) : Host.Outcome State Fault Refusal :=
  .next (match readyCmd s k 0x14 with
    | none => s
    | some c => if pfCancel c then s
      else runOp k 0x14 0 [(16, 1), (24, 16)] (fun c => decide (body c 16 1 < 2)) pfWork s)

/-- R188: raise the generation and invalidate the lines tagged with the new value. -/
def cancelPrefetch (ctx : Nat) (s : State) : State :=
  let g := (getCtx s ctx).prefGen + 1
  modCtx ctx (fun x => { x with prefGen := g }) { s with pref := s.pref.filter fun l => !(l.ctx == ctx && l.gen == g) }

/-- PREFETCH_CANCEL (R188, R300). -/
def execPrefetchCancel (k : Nat) (s : State) : Host.Outcome State Fault Refusal :=
  .next (match readyCmd s k 0x14 with
    | none => s
    | some c => if pfCancel c then
        runOp k 0x14 0 [(16, 1)] (fun c => body c 16 1 == 2)
          (fun c s => finishCmd c.k (some 0) (some 0) (cancelPrefetch c.ctx s)) s
      else s)

end Sys2Proof.Machine
end

