-- ==== Sys2Proof/Machine/Collective.lean ====
section
/-!
DEFINITION. The Collective Engines as ranks: RED_TREE and RED_SCALE (R257-R266, R277, R278), ALLGATHER_LAYER and BCAST (R275,
R276, R281), LAYOUT_EPOCH (R267, R282), and the downward messages and deadlines that act on a rank's command.
-/
namespace Sys2Proof.Machine

/-! ### A rank's command -/

/-- The command's kept state now. -/
def progNow (c : Cmd) : EngM Progress := do
  let s ← getS
  pure (match findCmd s c.k with
    | some d => d.prog
    | none => {})

/-- Change the collective state that a command keeps. -/
def modColl (c : Cmd) (f : CollRun → CollRun) : EngM Unit := modS (modProg c.k fun p => { p with coll := f p.coll })

/-- R251: the fault of a group. -/
def groupInfo (g : Nat) : FaultInfo := { addrKind := 6, addr := BitVec.ofNat 64 g }

/-- R251: the group of the command and the rank that issues it. -/
def ownRank (s : State) (c : Cmd) : Option (Group × Nat) :=
  match findGroup s (body c 16 2) with
  | none => none
  | some g => if g.ctx ≠ c.ctx then none else (rankOf s g c.ctx c.basalt).map fun r => (g, r)

/-- R251, R252: the group, the rank, and the next n tags of the rank. -/
def joinGroup (c : Cmd) (n : Nat) : EngM (Group × Nat) := do
  let s ← getS
  let gn := body c 16 2
  match ownRank s c with
  | none => stopFault stTranslation (groupInfo gn)
  | some gr =>
    let tag := Tbl.get 0 gr.1.tags c.basalt
    modS (modGroup gn fun g => { g with tags := Tbl.put 0 g.tags c.basalt (tag + BitVec.ofNat 32 n) })
    modColl c fun _ => { group := gn, tag := tag, rank := gr.2, sent := true }
    pure gr

/-- Whom a message to a rank finds: its command, nobody yet, or nobody any more. -/
inductive RankAt where
  | cmd (c : Cmd)
  | wait
  | gone
deriving DecidableEq, Repr

/-- The command of a rank that a message is for. A message for a tag that the rank has not issued yet, or for a RED_LOWRANK whose
passes still make the source, waits in the fabric. -/
def rankAt (s : State) (h : CollHdr) (r : Nat) : RankAt :=
  let mine := s.cmds.filter fun c => decide (c.st = .started) && isColl c && c.prog.coll.sent && c.prog.coll.group == h.group
    && c.prog.coll.rank == r
  match findGroup s h.group, mine.find? fun c => c.prog.coll.tag + BitVec.ofNat 32 c.prog.coll.stage == h.tag with
  | none, _ => .gone
  | some _, some c => if inReset s then .gone else if lrRunning c then .wait else .cmd c
  | some g, none =>
    let next := Tbl.get 0 g.tags (rankBasalt (rankEntry g r))
    let later := mine.any fun c => cmdOp c == 0x61 && !lrSmall c && c.prog.coll.stage == 0 && c.prog.coll.tag + 1 == h.tag
    if h.epoch = g.epoch ∧ ((h.tag - next).toNat < 2 ^ 31 ∨ later = true) then .wait else .gone

/-- A message reaches a rank's command: it waits for its command, and while remote bytes are missing. `late` is what happens when the
command is gone. -/
def rankArrive (port kind rank : Nat) (p : Packet) (late : CollHdr → State → State)
    (work : Cmd → Group → CollHdr → EngM (Option (Option W64 × Option Nat))) (s : State) : State :=
  let h := collHdrOf p.payload
  match (if collCheckOk p.payload && h.kind == kind then rankAt s h rank else .gone) with
  | .wait => parkColl port p s
  | .gone => collArrive port kind p (fun _ h s => late h s) s
  | .cmd c =>
    let ask := match findGroup s h.group with
      | none => none
      | some g => match work c g h { s := s, ctx := c.ctx, owner := 2 * c.k } with
        | .error (.remote va n) _ => some (va, n)
        | _ => none
    match ask with
    | some a => askRemote c.ctx (some c.k) (2 * c.k) a.1 a.2 (parkColl port p s)
    | none => collArrive port kind p (fun g h s => runWatched c false (work c g h) s) s

/-! ### Reductions -/

/-- What a reduction reduces (R270, R277, R278). -/
structure Red where
  sfmt : Nat := 1
  dfmt : Nat := 1
  mean : Bool := true
  upd : Bool := false
  headroom : Nat := 0
  defE : Int := 0
  elems : Nat := 0
  levelPh : Nat := 0
  retryPh : Nat := 0
  src : Nat := 0
  dst : Nat := 0
  scale : Nat := 0
  countVa : Nat := 0
  deadline : W64 := 0
  /-- Exponents alone (R257). -/
  scaleOnly : Bool := false
  /-- The result is kept until the whole of it has arrived (R271). -/
  hold : Bool := false
deriving DecidableEq, Repr

/-- The reduction of a command at a stage. -/
def redOf (c : Cmd) (stage : Nat) : Red :=
  if cmdOp c = 0x60 then
    { sfmt := body c 18 1, dfmt := body c 19 1, mean := !bitOf (body c 20 1) 0, upd := bitOf (body c 20 1) 1,
      headroom := body c 21 1, defE := signed 8 (body c 22 1), elems := redElems c stage, levelPh := body c 28 2, retryPh := body c 30 2,
      src := body c 32 8, dst := body c 40 8, scale := body c 48 8, countVa := body c 64 8,
      deadline := BitVec.ofNat 64 (body c 56 8) }
  else if cmdOp c = 0x62 then
    { sfmt := body c 18 1, elems := redElems c stage, levelPh := body c 28 2, src := body c 32 8, scale := body c 40 8,
      deadline := BitVec.ofNat 64 (body c 56 8), scaleOnly := true }
  else
    let base : Red := { elems := redElems c stage, upd := bitOf (body c 20 1) 1, headroom := body c 21 1,
                        defE := signed 8 (body c 22 1), levelPh := body c 26 2,
                        retryPh := body c 28 2, deadline := BitVec.ofNat 64 (body c 96 8), scale := body c 80 8 }
    if lrSmall c then { base with src := body c 40 8, dst := body c 72 8 }
    else if stage = 0 then { base with src := body c 56 8, dst := body c 56 8 }
    else { base with src := body c 104 8, dst := body c 64 8, scale := body c 88 8, hold := true }

/-- R255: wire blocks of a reduction. -/
def Red.blocks (r : Red) : Nat := ceilDiv r.elems 64

/-- R258: S of a block, from the scale codes read at the start. -/
def Red.scaleOf (r : Red) (codes : Bytes) (idx : Nat) : Int :=
  let c := codes.getD idx 0x80
  (if c = 0x80 then r.defE else c.toInt) - 6 + r.headroom

/-- R257: the local exponent of a block. -/
def localExp (xs : List FV) : BitVec 8 :=
  if xs.any fvIsInf then 127
  else
    match (xs.filterMap fun x => match x with
      | .fin _ m e => if m = 0 then none else some (fvLog2 m e)
      | _ => none) with
    | [] => 0x80
    | e :: es => BitVec.ofInt 8 (max (-127) (min 127 (es.foldl max e)))

/-- R259: a leaf's element at scale s, and whether it is clipped. -/
def leafElem (s : Int) (x : FV) : BitVec 8 × Bool :=
  match x with
  | .nan _ => (0x80, false)
  | .inf n => (if n then BitVec.ofInt 8 (-127) else 127, true)
  | .fin n m e =>
    let q := (roundAt .ne n m e s).1
    if 127 < q then (if n then BitVec.ofInt 8 (-127) else 127, true)
    else (BitVec.ofInt 8 (if n then -(q : Int) else q), false)

/-- R257, R259: a leaf's block. -/
def leafBlock (r : Red) (codes : Bytes) (retry : Bool) (idx : Nat) (xs : List FV) : WireBlock :=
  let s := r.scaleOf codes idx + (if retry then 4 else 0)
  let es := if r.scaleOnly then [] else xs.map (leafElem s)
  { maxe := localExp xs, retry := retry, sat := es.any (·.2), count := 1, elems := (es.map (·.1)) ++ List.replicate (64 - es.length) 0 }

/-- R95, R257: read the source elements of block idx, with the NaN events of its elements. -/
def leafRead (r : Red) (idx : Nat) : EngM (List FV) := do
  let n := min 64 (r.elems - 64 * idx)
  let w := elemBits r.sfmt / 8
  let bs ← readV (r.src + 64 * idx * w) (n * w)
  let xs := runValues r.sfmt bs [] n
  noteEvs 0 (64 * idx) 4 0xFFFF (xs.map fun x => if fvIsNan x then ({ nanRead := true } : Ev) else {})
  pure xs

/-- The leaf's blocks from idx on, n of them. -/
def leafBlocks (r : Red) (codes : Bytes) (idx : Nat) : Nat → EngM (List WireBlock)
  | 0 => pure []
  | n + 1 => do
    let xs ← leafRead r idx
    let ws ← leafBlocks r codes (idx + 1) n
    pure (leafBlock r codes false idx xs :: ws)

/-- The header of a rank's messages. -/
def rankHdr (q : CollRun) (r : Red) (g : Group) (kind first : Nat) : CollHdr :=
  { group := q.group, kind := kind, tag := q.tag + BitVec.ofNat 32 q.stage, epoch := g.epoch, first := first,
    deadline := r.deadline, levelPh := r.levelPh, retryPh := r.retryPh }

/-- R262: an output element: code, and events. -/
def outElem (r : Red) (scale : Int) (count : Nat) (q : BitVec 8) : Nat × Ev :=
  let f := (fmtOf r.dfmt).getD fp32
  if q = 0x80 then (nanCode f, { nanRead := true })
  else if count = 0 then (0, {})
  else if r.mean then fDiv f .ne (fvScaled q.toInt scale) (fvInt count)
  else roundV f .ne (fvScaled q.toInt scale)

/-- Keys under which a command keeps a delivered MAXE and a held result element. -/
def maxeKey (stage idx : Nat) : Nat := 2 ^ 60 + stage * 2 ^ 50 + idx
def heldKey (i : Nat) : Nat := 2 ^ 61 + i

/-- R262, R265: a delivered block at a rank. -/
def deliverBlock (c : Cmd) (g : Group) (idx : Nat) (w : WireBlock) : EngM Unit := do
  let p ← progNow c
  let q := p.coll
  let r := redOf c q.stage
  if q.delivered.contains idx || decide (r.blocks ≤ idx) then pure ()
  else
    let scale := r.scaleOf p.slot idx + treeLevels g.r + (if w.retry then 4 else 0)
    if r.scaleOnly then writeV (r.scale + idx) [w.maxe]
    else
      let n := min 64 (r.elems - 64 * idx)
      let ys := (w.elems.take n).map (outElem r scale w.count)
      noteEvs 0 (64 * idx) 3 0xFFFF (ys.map (·.2))
      if r.hold then modColl c fun q => { q with values := q.values ++ ((List.range n).zip ys).map fun y => (heldKey (64 * idx + y.1), y.2.1) }
      else writeV (r.dst + 64 * idx * (elemBits r.dfmt / 8)) (packElems r.dfmt (ys.map (·.1)))
      if w.sat then noteEv 0 (64 * idx) 3 0xFFFF { sat := true }
    if r.countVa ≠ 0 then writeNat (r.countVa + 2 * idx) 2 w.count
    let part := decide (w.count < g.r)
    if part then modS (addMissing q.group 1)
    modColl c fun q => { q with
      delivered := idx :: q.delivered
      low := min q.low w.count
      high := max q.high w.count
      retried := q.retried + b2n w.retry
      saturated := q.saturated + b2n w.sat
      partials := q.partials + b2n part
      values := if r.upd then q.values ++ [(maxeKey q.stage idx, w.maxe.toNat)] else q.values }

/-- R257: at completion, the delivered MAXE bytes of a stage are written. -/
def writeScales (c : Cmd) (stage : Nat) : EngM Unit := do
  let p ← progNow c
  let r := redOf c stage
  (List.range r.blocks).forM fun i =>
    match Tbl.find? p.coll.values (maxeKey stage i) with
    | some m => writeV (r.scale + i) (leBytes 1 m)
    | none => pure ()

/-- R266: the end of a reduction: RESULT and DETAIL. Without any delivered block the two counts of RESULT are not stated. -/
def redFinish (c : Cmd) : EngM (Option W64 × Option Nat) := do
  let p ← progNow c
  let q := p.coll
  let r := redOf c q.stage
  let left := r.blocks - q.delivered.length
  if left ≠ 0 ∨ q.partials ≠ 0 then addWarn 0x2
  modS (addMissing q.group left)
  writeScales c q.stage
  if q.stage = 1 then writeScales c 0
  let e ← get
  let free := (Config.freeW64 e.s.free 3).toNat % 2 ^ 32
  let counts := if q.low = 0xFFFF ∧ q.high = 0 then free else q.low + q.high * 2 ^ 16
  let res := if r.scaleOnly then (if q.delivered.isEmpty then free % 2 ^ 16 else q.low)
    else counts + min q.retried 0xFFFF * 2 ^ 32 + min q.saturated 0xFFFF * 2 ^ 48
  pure (some (BitVec.ofNat 64 res), some left)

/-- R265, R270: after a delivery: the command ends, goes on waiting, or has its next step to do. -/
def redDone (c : Cmd) : EngM (Option (Option W64 × Option Nat)) := do
  let p ← progNow c
  if p.coll.delivered.length < (redOf c p.coll.stage).blocks then pure none
  else if cmdOp c = 0x61 ∧ lrSmall c = false then pure none
  else do
    let r ← redFinish c
    pure (some r)

/-- R263: a group of one rank: the leaf is the root. -/
def aloneBlocks (c : Cmd) (g : Group) (r : Red) (codes : Bytes) : Nat → List WireBlock → EngM Unit
  | _, [] => pure ()
  | idx, w :: ws => do
    let s ← getS
    if w.sat && decide (r.retryPh ≠ 0) && !pastPh s r.deadline r.retryPh then
      let xs ← leafRead r idx
      let w' := leafBlock r codes true idx xs
      deliverBlock c g idx { w' with maxe := w.maxe }
    else deliverBlock c g idx w
    aloneBlocks c g r codes (idx + 1) ws

/-- R259, R261: a rank reads its scales and its source and sends its blocks up. -/
def redSend (c : Cmd) (g : Group) (rank : Nat) : EngM Unit := do
  let p ← progNow c
  let r := redOf c p.coll.stage
  let codes ← if r.scaleOnly then pure [] else readV r.scale r.blocks
  modS (modProg c.k fun p => { p with slot := codes })
  let ws ← leafBlocks r codes 0 r.blocks
  if g.r = 1 then aloneBlocks c g r codes 0 ws
  else
    let cs := chunks 59 ws
    modS fun s => ((List.range cs.length).zip cs).foldl (fun s x =>
      sendUp g (rankHdr p.coll r g (if r.scaleOnly then 5 else 1) (59 * x.1)) 0 rank 0 (x.2.flatMap wireUp) s) s

/-- The start of RED_TREE and RED_SCALE. -/
def redStart (c : Cmd) : EngM (Option (Option W64 × Option Nat)) := do
  let r := redOf c 0
  if !r.scaleOnly then
    needApart [(r.src, r.elems * (elemBits r.sfmt / 8))] [(r.dst, r.elems * (elemBits r.dfmt / 8))]
  let gr ← joinGroup c 1
  redSend c gr.1 gr.2
  redDone c

/-- Run the start of a collective command once. -/
def collOnce (work : Cmd → EngM (Option (Option W64 × Option Nat))) (c : Cmd) (s : State) : State :=
  if c.prog.coll.sent then s else runWatched c false (work c) s

/-- R277: source formats and destination formats of a reduction. -/
def redSrcOk (f : Nat) : Bool := decide (f < 4) || f == 0xC

/-- R277: the fields of RED_TREE. -/
def redLegal (c : Cmd) : Bool :=
  redSrcOk (body c 18 1) && decide (body c 19 1 < 4) && decide (body c 20 1 < 4) && decide (body c 21 1 < 8)
    && decide (1 ≤ body c 24 4)

/-- RED_TREE (R257-R259, R265, R266, R277). -/
def execRedTree (k : Nat) (s : State) : Host.Outcome State Fault Refusal :=
  .next (runOp k 0x60 1 [(16, 7), (24, 48)] redLegal (collOnce redStart) s)

/-- RED_SCALE (R257, R278). -/
def execRedScale (k : Nat) (s : State) : Host.Outcome State Fault Refusal :=
  .next (runOp k 0x62 0 [(16, 3), (24, 6), (32, 16), (56, 8)]
    (fun c => redSrcOk (body c 18 1) && decide (1 ≤ body c 24 4)) (collOnce redStart) s)

/-! ### D_done (R265, R275, R276) -/

/-- The ADDR bit that marks the data of a BCAST (log entry 30). -/
def bcastBit : Nat := 2 ^ 63

def agSize (c : Cmd) : Nat := body c 20 4
def agLevelPh (c : Cmd) : Nat := body c 18 2
def agDeadline (c : Cmd) : W64 := BitVec.ofNat 64 (body c 40 8)

/-- R275: the shards delivered and missing. -/
def agResult (q : CollRun) (g : Group) : Option W64 × Option Nat :=
  (some (BitVec.ofNat 64 q.delivered.length), some (g.r - q.delivered.length))

/-- R265, R276: D_done of a command. -/
def doneFields (c : Cmd) : W64 × Nat × Nat :=
  if cmdOp c = 0x64 ∨ cmdOp c = 0x65 then (agDeadline c, agLevelPh c, 0)
  else let r := redOf c 0; (r.deadline, r.levelPh, r.retryPh)

/-- The end of a collective at D_done. -/
def lateWork (c : Cmd) (g : Group) : EngM (Option (Option W64 × Option Nat)) := do
  let p ← progNow c
  if cmdOp c = 0x64 then
    addWarn 0x2
    pure (some (some (BitVec.ofNat 64 p.coll.delivered.length), none))
  else if cmdOp c = 0x65 then
    addWarn 0x2
    pure (some (agResult p.coll g))
  else if p.coll.delivered.length < (redOf c p.coll.stage).blocks then
    let r ← redFinish c
    pure (some r)
  else pure none

/-- R265: D_done is reached: nothing more is delivered. -/
def donePast (s : State) (c : Cmd) (g : Group) : Bool :=
  let d := doneFields c
  pastPh s d.1 (2 * treeLevels g.r * d.2.1 + d.2.2)

/-- R265: a delivery, unless D_done is reached, at which the command ends. -/
def deliverInTime (c : Cmd) (g : Group) (work : EngM (Option (Option W64 × Option Nat))) : EngM (Option (Option W64 × Option Nat)) := do
  let s ← getS
  if donePast s c g then lateWork c g else work

/-! ### Downward messages of a reduction -/

/-- R265: the blocks of a downward message at its rank. -/
def downWork (p : Packet) (c : Cmd) (g : Group) (h : CollHdr) : EngM (Option (Option W64 × Option Nat)) := do
  deliverInTime c g do
    (blocksOf h p).forM fun b => deliverBlock c g b.1 b.2
    redDone c

/-- A downward message of blocks: at a rank it is delivered, at an interior node it passes on. -/
def downArrive (port kind : Nat) (p : Packet) (s : State) : State :=
  let h := collHdrOf p.payload
  let level := h.level - 1
  let pos := p.txn.toNat
  if level = 0 then rankArrive port kind pos p (fun _ s => s) (downWork p) s
  else nodeArrive port kind level pos p (fun g h s =>
    (blocksOf h p).foldl (fun s b => nodeDown g h level pos b.1 b.2 s) s) s

/-- DOWN (R262, R265). -/
def execCollDown (port : Nat) (p : Packet) (s : State) : Host.Outcome State Fault Refusal := .next (downArrive port 2 p s)

/-- MAX_DOWN (R257, R265). -/
def execMaxDown (port : Nat) (p : Packet) (s : State) : Host.Outcome State Fault Refusal := .next (downArrive port 6 p s)

/-- R263, R264: a leaf reads marked blocks again and sends them at S + 4. -/
def retryWork (p : Packet) (c : Cmd) (g : Group) (h : CollHdr) : EngM (Option (Option W64 × Option Nat)) := do
  let q ← progNow c
  let r := redOf c q.coll.stage
  (blocksOf h p).forM fun b => do
    if b.1 < r.blocks then
      let xs ← leafRead r b.1
      let w := leafBlock r q.slot true b.1 xs
      modS (sendUp g (rankHdr q.coll r g 4 b.1) 0 q.coll.rank 0 (wireUp w))
  pure none

/-- RETRY_REQ (R263). -/
def execRetryReq (port : Nat) (p : Packet) (s : State) : Host.Outcome State Fault Refusal :=
  let h := collHdrOf p.payload
  let level := h.level - 1
  let pos := p.txn.toNat
  .next (if level = 0 then rankArrive port 3 pos p (fun _ s => s) (retryWork p) s
    else nodeArrive port 3 level pos p (fun g h s =>
      (blocksOf h p).foldl (fun s b => nodeRetryReq g h level pos b.1 b.2 s) s) s)

/-! ### ALLGATHER_LAYER and BCAST (R275, R276) -/

/-- Bytes of data in one message. -/
def pieceBytes : Nat := 4032

/-- The header of a gather's or a broadcast's messages. -/
def agHdr (c : Cmd) (q : CollRun) (g : Group) (kind first : Nat) : CollHdr :=
  { group := q.group, kind := kind, tag := q.tag, epoch := g.epoch, first := first, deadline := agDeadline c, levelPh := agLevelPh c }

/-- R275: a rank copies its own shard and sends it up. -/
def agStart (c : Cmd) : EngM (Option (Option W64 × Option Nat)) := do
  let gr ← joinGroup c 1
  let bs ← readV (body c 24 8) (agSize c)
  writeV (body c 32 8 + gr.2 * agSize c) bs
  modColl c fun q => { q with delivered := [gr.2] }
  let p ← progNow c
  if gr.1.r = 1 then pure (some (agResult p.coll gr.1))
  else
    let cs := chunks pieceBytes bs
    modS fun s => ((List.range cs.length).zip cs).foldl (fun s x =>
      sendUp gr.1 (agHdr c p.coll gr.1 7 gr.2) 0 gr.2 (x.1 * pieceBytes) x.2 s) s
    pure none

/-- R275: a piece of a shard at a rank. A shard is written when the whole of it has arrived. -/
def agWork (pk : Packet) (c : Cmd) (g : Group) (h : CollHdr) : EngM (Option (Option W64 × Option Nat)) :=
  deliverInTime c g do
    let p ← progNow c
    let size := agSize c
    let data := pk.payload.drop 32
    if p.coll.delivered.contains h.first || decide (g.r ≤ h.first) then pure none
    else
      let base := h.first * size
      let off := base + pk.addr.toNat % 2 ^ 32
      let vals := ((List.range data.length).zip data).foldl (fun vs b => Tbl.ins vs (off + b.1) b.2.toNat) p.coll.values
      let mine := (vals.filter fun v => decide (base ≤ v.1) && decide (v.1 < base + size))
      if mine.length = size then
        writeV (body c 32 8 + base) (mine.map fun v => BitVec.ofNat 8 v.2)
        modColl c fun q => { q with
          delivered := h.first :: q.delivered
          values := vals.filter fun v => !(decide (base ≤ v.1) && decide (v.1 < base + size)) }
        let p ← progNow c
        pure (if p.coll.delivered.length < g.r then none else some (agResult p.coll g))
      else
        modColl c fun q => { q with values := vals }
        pure none

/-- ALLGATHER_LAYER (R275, R281). -/
def execAllgatherLayer (k : Nat) (s : State) : Host.Outcome State Fault Refusal :=
  .next (runOp k 0x65 0 [(16, 8), (24, 24)] (fun c => decide (64 ≤ agSize c) && agSize c % 64 == 0) (collOnce agStart) s)

/-- R276: blocks of a broadcast. -/
def bcBlocks (c : Cmd) : Nat := agSize c / 64

/-- R276: ROOT sends its bytes up; with one rank they are copied. -/
def bcStart (c : Cmd) : EngM (Option (Option W64 × Option Nat)) := do
  let gr ← joinGroup c 1
  if gr.1.r ≤ body c 48 2 then throw .unpred
  if gr.2 ≠ body c 48 2 then pure none
  else
    let bs ← readV (body c 24 8) (agSize c)
    if gr.1.r = 1 then
      writeV (body c 32 8) bs
      pure (some (some (BitVec.ofNat 64 (bcBlocks c)), none))
    else
      let p ← progNow c
      let cs := chunks pieceBytes bs
      modS fun s => ((List.range cs.length).zip cs).foldl (fun s x =>
        sendUp gr.1 (agHdr c p.coll gr.1 7 (x.1 * 63)) 0 gr.2 bcastBit x.2 s) s
      pure none

/-- R276: blocks of a broadcast at a rank. -/
def bcWork (pk : Packet) (c : Cmd) (g : Group) (h : CollHdr) : EngM (Option (Option W64 × Option Nat)) :=
  deliverInTime c g do
    let cs := (chunks 64 (pk.payload.drop 32)).filter fun b => decide (b.length = 64)
    ((List.range cs.length).zip cs).forM fun b => do
      let p ← progNow c
      let i := h.first + b.1
      if !p.coll.delivered.contains i && decide (i < bcBlocks c) then
        writeV (body c 32 8 + 64 * i) b.2
        modColl c fun q => { q with delivered := i :: q.delivered }
    let p ← progNow c
    pure (if p.coll.delivered.length < bcBlocks c then none else some (some (BitVec.ofNat 64 p.coll.delivered.length), none))

/-- BCAST (R276, R281). -/
def execBcast (k : Nat) (s : State) : Host.Outcome State Fault Refusal :=
  .next (runOp k 0x64 0 [(16, 8), (24, 26)] (fun c => decide (64 ≤ agSize c) && agSize c % 64 == 0) (collOnce bcStart) s)

/-- R254: a piece of data has passed down from its node. -/
def passPiece (h : CollHdr) (level pos off : Nat) (s : State) : State :=
  let key := h.first * 2 ^ 32 + off % 2 ^ 32
  { s with insts := s.insts.map fun x =>
      if isInst h level pos x = true ∧ x.passed.contains key = false then { x with passed := key :: x.passed } else x }

/-- R275, R276: a piece of data moves up through a node: broadcast data to the root and then down, a shard up and to the other
child. -/
def nodeData (g : Group) (h : CollHdr) (level pos side : Nat) (p : Packet) (s : State) : State :=
  let data := p.payload.drop 32
  let a := p.addr.toNat
  let down := { h with kind := 8 }
  let top := decide (level = treeLevels g.r)
  if bitOf a 63 then
    if top then passPiece h level pos a (sendDown g down level pos a [0, 1] data s) else sendUp g h level pos a data s
  else if levelPast s h level then lateOnce h [level, pos] s
  else
    let s := if top then s else sendUp g h level pos a data s
    passPiece h level pos a (sendDown g down level pos a [1 - side] data s)

/-- DATA_UP (R275, R276). -/
def execDataUp (port : Nat) (p : Packet) (s : State) : Host.Outcome State Fault Refusal :=
  let level := (collHdrOf p.payload).level + 1
  let pos := p.txn.toNat / 2
  .next (nodeArrive port 7 level pos p (fun g h s => nodeData g h level pos (p.txn.toNat % 2) p s) s)

/-- DATA_DOWN (R275, R276). -/
def execDataDown (port : Nat) (p : Packet) (s : State) : Host.Outcome State Fault Refusal :=
  let h := collHdrOf p.payload
  let level := h.level - 1
  let pos := p.txn.toNat
  .next (if level = 0 then
      rankArrive port 8 pos p (fun _ s => s) (if bitOf p.addr.toNat 63 then bcWork p else agWork p) s
    else nodeArrive port 8 level pos p (fun g h s =>
      passPiece h level pos p.addr.toNat (sendDown g h level pos p.addr.toNat [0, 1] (p.payload.drop 32) s)) s)

/-- DELIVERY_DEADLINE (R265). -/
def execDeliveryDeadline (k : Nat) (s : State) : Host.Outcome State Fault Refusal :=
  .next (match findCmd s k with
    | none => s
    | some c =>
      match findGroup s c.prog.coll.group with
      | none => s
      | some g =>
        if c.st = .started ∧ isColl c = true ∧ cmdOp c ≠ 0x63 ∧ cmdOp c ≠ 0x70 ∧ c.prog.coll.sent = true ∧ inReset s = false
            ∧ donePast s c g = true then
          runPart c false (lateWork c g) s
        else s)

/-! ### LAYOUT_EPOCH (R267, R282) -/

/-- R267: every earlier collective command of the context has completed. -/
def collsDone (s : State) (c : Cmd) : Bool :=
  !s.cmds.any fun d => d.ctx == c.ctx && isColl d && decide (d.k ≠ c.k)
    && ((decide (d.st ≠ .fetched) && decide (d.startNo < c.startNo)) || (d.q == c.q && decide (d.k < c.k)))

/-- R267: the new epoch of one group. -/
def setEpoch (c : Cmd) (epoch : BitVec 32) (g : Group) : Group :=
  let g := { g with epoch := epoch, tags := Tbl.put 0 g.tags c.basalt 0 }
  match g.staged with
  | some st =>
    if st.1 = epoch ∧ st.2.2.length = st.2.1 then
      { g with r := st.2.1, table := (List.range st.2.1).map fun i => Tbl.get 0 st.2.2 i, staged := none }
    else g
  | none => g

/-- R267, R282: LAYOUT_EPOCH. RESULT is the previous epoch of the lowest-numbered group named. -/
def leWork (c : Cmd) (s : State) : State :=
  let gn := body c 16 2
  let named := if gn = 0xFFFF then (s.groups.filter fun g => g.2.installed && g.2.ctx == c.ctx).map (·.1)
    else match ownRank s c with
      | some _ => [gn]
      | none => []
  match named with
  | [] => faultCmd c.k stTranslation (groupInfo gn) s
  | g :: _ =>
    let old := match findGroup s g with
      | some x => x.epoch
      | none => 0
    let s := named.foldl (fun s n => modGroup n (setEpoch c (BitVec.ofNat 32 (body c 20 4))) s) s
    finishCmd c.k (some (old.setWidth 64)) none s

/-- LAYOUT_EPOCH (R267, R282). -/
def execLayoutEpoch (k : Nat) (s : State) : Host.Outcome State Fault Refusal :=
  .next (runOp k 0x70 0 [(16, 2), (20, 4)] (fun _ => true) (fun c s => if collsDone s c then leWork c s else s) s)

end Sys2Proof.Machine
end

