-- ==== Sys2Proof/Machine/CommandProc.lean ====
section
/-!
DEFINITION. Commands of the family "command processor": doorbells (R48-R50), fetch and the integrity check (R47, R56, R72),
start (R57), completion (R58, R67, R68), pre-emption (R64) and the progress watchdog's expiry (R387, R388).
-/
namespace Sys2Proof.Machine

/-- R50: a function owns a queue when it owns the queue's context. -/
def ownsQueue (s : State) (fn q : Nat) : Bool :=
  match findQueue s q with
  | some x => (getCtx s x.ctx).owner == fn && decide (x.ctx ≠ 0)
  | none => false

/-- Host accesses reach the module: PERST# is not asserted and the module is up (R423). -/
def hostUp (s : State) : Bool := !s.sup.perst && decide (s.mb ≠ .booting)

/-- R48: a written tail is accepted. -/
def tailOk (x : Queue) (t : BitVec 32) : Bool := decide (t - x.tail ≠ 0) && decide ((t - x.head).toNat ≤ 2 ^ x.ringN)

/-- R47: address of the slot of a block count. -/
def slotVa (x : Queue) (c : BitVec 32) : Nat := x.ringVa + c.toNat % 2 ^ x.ringN * 64

/-- What memory holds at a ring slot now; none where the page is not mapped or is remote. -/
def slotBytes (s : State) (x : Queue) (c : BitVec 32) : Option Bytes :=
  match translate s x.ctx (slotVa x c) false with
  | none => none
  | some m => if m.remote then none else some (rawPeek s (mapTarget m (slotVa x c)) 64)

/-- R48: the blocks that a doorbell makes available, as they are now. -/
def ringBlocks (s : State) (x : Queue) (n : Nat) : List (BitVec 32 × Bytes) :=
  (List.range n).filterMap fun i =>
    let c := x.tail + BitVec.ofNat 32 i
    (slotBytes s x c).map fun b => (c, b)

/-- DB_TAIL (R48, R49, R50). -/
def execDbTail (fn q : Nat) (v : W64) (s : State) : Host.Outcome State Fault Refusal :=
  let t := v.setWidth 32
  .next (if hostUp s && ownsQueue s fn q then
      wakeUp (modQueue q (fun x =>
        if tailOk x t then { x with tail := t, rung := x.rung ++ ringBlocks s x (t - x.tail).toNat } else x) s)
    else s)

/-- DB_CQHEAD (R50, R68). -/
def execDbCqhead (fn q : Nat) (v : W64) (s : State) : Host.Outcome State Fault Refusal :=
  .next (if hostUp s && ownsQueue s fn q then modQueue q (fun x => { x with cqHead := v.setWidth 32 }) s else s)

/-! ### Completion -/

/-- R67: a completion record. -/
def recordBytes (s : State) (c : Cmd) (x : Queue) (status : Nat) (result : W64) (detail : BitVec 32) : Bytes :=
  leBytes 4 (cmdSeq c) ++ leBytes 1 (cmdOp c) ++ leBytes 1 (doneUnit s c) ++ leBytes 2 status ++ leBytes 8 s.ftw.toNat
    ++ leBytes 8 result.toNat ++ leBytes 4 detail.toNat ++ leBytes 3 0
    ++ leBytes 1 (1 - x.cqTail.toNat / 2 ^ x.cqN % 2)

/-- R58, R59, R60, R51: the header signal of a command that ends with a status; answers the status that results, and what
the fault record of a counter that the context does not own carries. -/
def headerSignal (c : Cmd) (s : State) : Nat × FaultInfo × State :=
  let st := c.status.toNat
  if cmdSigEn c && (isGood st || cmdSigOnErr c) && decide (st ≠ stIntegrity) then
    if ctrOwned s c.ctx (cmdSigCtr c) then
      let r := ctrAdd c.ctx (cmdSigCtr c) (cmdSigInc c) s
      let st' := if r.1 && isGood st then (if st = 0 then stSaturated else min st stSaturated) else st
      (st', c.fault, r.2)
    else if isFault st then (st, c.fault, s)
    else (stTranslation, ctrInfo (cmdSigCtr c), s)
  else (st, c.fault, s)

/-- Take a command off the list of those that are not complete. -/
def removeCmd (k : Nat) (s : State) : State :=
  { s with cmds := s.cmds.filter (fun c => decide (c.k ≠ k)),
           fab := { s.fab with rdata := s.fab.rdata.filter fun d => decide (d.1 ≠ 2 * k) } }

/-- R68: write the completion record and raise the interrupt. A record that fails translation is a fault of the context. -/
def putRecord (c : Cmd) (status : Nat) (result : W64) (detail : BitVec 32) (s : State) : State :=
  match findQueue s c.q with
  | none => s
  | some x =>
    let va := x.cqVa + x.cqTail.toNat % 2 ^ x.cqN * 32
    match writeV va (recordBytes s c x status result detail) { s := s, ctx := c.ctx, owner := 2 * c.k } with
    | .error _ _ => contextFault c.ctx (cmdFaultRec s c stTranslation (transInfo va)) (some c.k) s
    | .ok _ e =>
      let s := modQueue c.q (fun x => { x with cqTail := x.cqTail + 1 }) (engCommit none e)
      if cmdIrq c && decide (status ≠ stIntegrity) then raiseMsix (getCtx s c.ctx).owner x.vector s else s

/-- R100, R385: the fault record of a command that ends with a fault: its time is that of the detection, unless the fault is one of the
header signal. -/
def endRec (s : State) (c : Cmd) (st : Nat) (changed : Bool) (info : FaultInfo) : FaultRec :=
  let r := cmdFaultRec s c st info
  if changed then r else { r with info := info }

/-- R58, R67, R68, R69: a command completes: its header signal, a context fault for a fault-class status, its record and its
interrupt; an OK without COMPL writes no record. -/
def completeCmd (c : Cmd) (s : State) : State :=
  let sg := headerSignal c s
  let st := sg.1
  let s := sg.2.2
  let changed := decide (st ≠ c.status.toNat)
  let detail := if changed && isFault st then 0xFFFFFFFF else c.detail
  let s := if isFault st && !c.raised then contextFault c.ctx (endRec s c st changed sg.2.1) (some c.k) s else s
  let s := if st ≠ stOk || cmdCompl c then putRecord c st c.result detail s else s
  freeCores c.k (removeCmd c.k s)

/-- R58, R68: a command whose work has ended may complete: its remote writes are acknowledged, or its end abandons them, and a
completion slot is its own or free. -/
def mayComplete (s : State) (c : Cmd) : Bool :=
  decide (c.st = .done) && (c.waits.isEmpty || !isGood c.status.toNat) && (c.credit || hasRoom s c.q) && !inReset s

/-- COMMAND_COMPLETION (R68). -/
def execCommandCompletion (k : Nat) (s : State) : Host.Outcome State Fault Refusal :=
  .next (match findCmd s k with
    | some c => if mayComplete s c then completeCmd c s else s
    | none => s)

/-- R56, R57, R62, R388: a command ends with a fault now: it completes at once when a completion slot is its own or free; else its
context fails at once and its record follows (log entry 17). -/
def endFaulted (k st : Nat) (info : FaultInfo) (s : State) : State :=
  let s := faultCmd k st info s
  match findCmd s k with
  | none => s
  | some c =>
    if mayComplete s c then completeCmd c s
    else contextFault c.ctx { cmdFaultRec s c st c.fault with info := c.fault } (some k) (modCmd k (fun d => { d with raised := true }) s)

/-! ### Fetch -/

/-- R47: read n blocks from block count c on. -/
def readBlocks (x : Queue) : Nat → BitVec 32 → EngM Bytes
  | 0, _ => pure []
  | n + 1, c => do
    let a ← readV (slotVa x c) 64
    let b ← readBlocks x n (c + 1)
    pure (a ++ b)

/-- R48: the blocks of the next command, none while some of them are not available. -/
def fetchBlocks (x : Queue) : EngM (Option Bytes) := do
  let h ← readV (slotVa x x.head) 64
  let n := 1 + headExt h
  if (x.tail - x.head).toNat < n then pure none
  else
    let r ← readBlocks x (n - 1) (x.head + 1)
    pure (some (h ++ r))

/-- R49, R393, R405: the queue fetches. -/
def mayFetch (s : State) (q : Nat) (x : Queue) : Bool :=
  decide ((getCtx s x.ctx).st = .active) && !fetchStopped s && decide (s.pow.pst = .active) && !x.closing && decide (x.head ≠ x.tail)
    && decide ((queueCmds s q).length < 56)

/-- R48, R56: a fetched command joins the list; a wrong integrity word ends it. Slots that software changed after their doorbell
are noted (R74). -/
def addCmd (q : Nat) (x : Queue) (blocks : Bytes) (s : State) : State :=
  let k := s.nextK
  let good := integrity blocks = BitVec.ofNat 16 (field blocks 14 2)
  let n := blocks.length / 64
  let mine := fun (r : BitVec 32 × Bytes) => decide ((r.1 - x.head).toNat < n)
  let c : Cmd := {
    k := k, q := q, ctx := x.ctx, basalt := x.basalt, blocks := blocks, intact := good
    changed := x.rung.any fun r => mine r && decide (slotBytes s x r.1 ≠ some r.2) }
  let s := modQueue q (fun y => { y with head := y.head + BitVec.ofNat 32 n, rung := y.rung.filter fun r => !mine r })
    { s with cmds := s.cmds ++ [c], nextK := k + 1 }
  if good then s
  else endFaulted k stIntegrity { aux := BitVec.ofNat 64 (field blocks 14 2 * 65536 + (integrity blocks).toNat) } s

/-- COMMAND_FETCH (R56, R72). -/
def execCommandFetch (q : Nat) (s : State) : Host.Outcome State Fault Refusal :=
  .next (match findQueue s q with
    | none => s
    | some x =>
      if mayFetch s q x then
        match fetchBlocks x { s := s, ctx := x.ctx, owner := 2 * q + 1 } with
        | .ok none _ => s
        | .ok (some bs) e => addCmd q x bs (engCommit none e)
        | .error .unpred _ => s
        | .error .wait _ => s
        | .error (.remote va n) _ => askRemote x.ctx none (2 * q + 1) va n s
        | .error (.fault st info) _ =>
          contextFault x.ctx { status := st, unit := 0x10 + x.basalt, ctx := x.ctx, queue := q,
                               info := { info with ftw := s.ftw } } none s
      else s)

/-! ### Start -/

/-- R57, R68: a command starts: it takes a completion credit, unless it kept one (R399), and its engines. -/
def startCmd (c : Cmd) (s : State) : State :=
  let s := modCmd c.k (fun d => { d with
    st := .started, begun := true, credit := true, startFtw := s.ftw, startGen := (getCtx s c.ctx).prefGen, startNo := s.nextStart,
    wdog := 0, oldUcode := false }) s
  let s := { s with
    nextStart := s.nextStart + 1
    pow := { s.pow with idleU := none }
    served := (arbUnits s c).foldl (fun t u => Tbl.ins t u c.q) s.served }
  match findCmd s c.k with
  | some d => markLoading d s
  | none => s

/-- R6, R65, R74: a command that has started with a reserved opcode, or whose ring slots software changed, has an unpredictable
result. -/
def openStart (c : Cmd) (s : State) : State :=
  if opEngine (cmdOp c) = .reserved ∨ c.changed = true then
    match findCmd s c.k with
    | some d => unpredictable d s
    | none => s
  else s

/-- R388: the end of a header wait is a progress event of the command processor. -/
def headerWaitEnds (c : Cmd) (s : State) : State := if cmdWaitEn c ∧ c.replay = false then progress c.k s else s

/-- COMMAND_START (R57, R59, R61, R63, R68). -/
def execCommandStart (k : Nat) (s : State) : Host.Outcome State Fault Refusal :=
  .next (match findCmd s k with
    | none => s
    | some c =>
      let isHead := decide ((headCmd s c.q).map (·.k) = some k) && decide ((getCtx s c.ctx).st = .active) && !inReset s
        && c.intact && !heldByWait s c.q
      if isHead && cmdWaitEn c && !c.replay && !ctrOwned s c.ctx (cmdWaitCtr c) then
        endFaulted k stTranslation (ctrInfo (cmdWaitCtr c)) s
      else if ready s c && accepts s c then openStart c (startCmd c (headerWaitEnds c s))
      else s)

/-! ### Pre-emption (R64) -/

/-- R159: a pre-empted launch's cores go to their save areas; their data caches are invalidated on restore. -/
def saveCores (k : Nat) (s : State) : State :=
  let mine := s.cores.filter fun c => decide (c.2.k = some k)
  { s with cores := s.cores.filter (fun c => decide (c.2.k ≠ some k)),
           saved := s.saved ++ mine.map fun c => ((k, c.1), { c.2 with dcache := [] }) }

/-- R159: restore a launch's cores. -/
def restoreCores (k : Nat) (s : State) : State :=
  let mine := s.saved.filter fun c => decide (c.1.1 = k)
  { s with saved := s.saved.filter (fun c => decide (c.1.1 ≠ k)),
           cores := mine.foldl (fun t c => Tbl.ins t c.1.2 c.2) s.cores }

/-- PREEMPTION (R64). -/
def execPreemption (k : Nat) (s : State) : Host.Outcome State Fault Refusal :=
  .next (match findCmd s k with
    | none => s
    | some c =>
      if c.st = .started ∧ c.preempted = false ∧ effPrio s c = 3 ∧ preemptible c = true ∧ inReset s = false ∧ wanted s c = true then
        saveCores k (modCmd k (fun d => { d with preempted := true }) s)
      else s)

/-- PREEMPTED_RESUME (R64). -/
def execPreemptedResume (k : Nat) (s : State) : Host.Outcome State Fault Refusal :=
  .next (match findCmd s k with
    | none => s
    | some c =>
      let busy := s.cmds.any fun d => decide (d.st = .started) && decide (d.k ≠ k) && !d.preempted
        && shares (cmdUnits s c) (cmdUnits s d)
      if c.st = .started ∧ c.preempted = true ∧ inReset s = false ∧ busy = false ∧ wanted s c = false then
        restoreCores k (modCmd k (fun d => { d with preempted := false }) s)
      else s)

/-! ### Watchdog (R62, R388) -/

/-- WATCHDOG_EXPIRY (R388): the engine stops the command, which completes with HANG. -/
def execWatchdogExpiry (k : Nat) (s : State) : Host.Outcome State Fault Refusal :=
  .next (match findCmd s k with
    | none => s
    | some c =>
      if expired s c then
        endFaulted k stHang { aux := BitVec.ofNat 64 c.wdog } s
      else s)

end Sys2Proof.Machine
end

