-- ==== Sys2Proof/Machine/Control.lean ====
section
/-!
DEFINITION. The control commands that the command processor executes itself (R58, R60, R66).
-/
namespace Sys2Proof.Machine

/-- R58, R66: every earlier command of the queue is complete. -/
def earlierDone (s : State) (c : Cmd) : Bool := decide ((queueCmds s c.q).head?.map (·.k) = some c.k)

/-- NOP (R66). -/
def execNop (k : Nat) (s : State) : Host.Outcome State Fault Refusal :=
  .next (runOp k 0x00 0 [] (fun _ => true) (fun _ s => finishCmd k none none s) s)

/-- R66: every command of the context that had started when the FENCE started is complete. -/
def ctxStartedDone (s : State) (c : Cmd) : Bool :=
  !s.cmds.any fun d => d.ctx == c.ctx && decide (d.st ≠ .fetched) && decide (d.startNo < c.startNo)

/-- R66: every remote write of the context is acknowledged. -/
def remoteWritesDone (s : State) (c : Cmd) : Bool :=
  !s.fab.reqs.any fun r => r.ctx == c.ctx && r.ptype == 1 && !r.dropped

/-- R66: what a FENCE waits for. -/
def fenceDone (s : State) (c : Cmd) : Bool :=
  earlierDone s c && (body c 16 1 == 0 || ctxStartedDone s c) && (decide (body c 16 1 < 2) || remoteWritesDone s c)

/-- FENCE (R66). -/
def execFence (k : Nat) (s : State) : Host.Outcome State Fault Refusal :=
  .next (runOp k 0x01 0 [(16, 1)] (fun c => decide (body c 16 1 ≤ 2))
    (fun c s => if fenceDone s c then finishCmd k none none s else s) s)

/-- Body bytes of WAIT_COUNT (R66). -/
def waitCountBody : List (Nat × Nat) := [(16, 2), (24, 8), (32, 8)]

/-- R60, R67: the counter value at release. -/
def releaseValue (s : State) (c : Cmd) : W64 := c.released.getD (ctrGet s (body c 16 2))

/-- R301: the deadline of a frame's slot. -/
def feedDeadline (x : Feed) (n : Nat) : Nat := n * 65536 + x.deadlinePh.toNat

/-- R25, R33: the times at which a unit is still to act: started waits, open feed slots, the frame-scheduled wake and the ends of
hints. -/
def dueTimes (s : State) : List Nat :=
  ((s.cmds.filter fun c => (readyCmd s c.k 0x04).isSome).map fun c => body c 24 8)
    ++ ((s.cmds.filter fun c => (readyCmd s c.k 0x02).isSome && decide (body c 32 8 ≠ 0) && !countReached s c).map
        fun c => body c 32 8)
    ++ ((s.feeds.filter fun f => f.2.bound).map fun f => feedDeadline f.2 f.2.nextClose)
    ++ s.pow.frameAlarm.toList.map BitVec.toNat
    ++ s.pow.hints.map fun h => h.target.toNat + h.holdPh

/-- R33: a unit may act on a time that is reached: after a forward step, the times that it skipped are acted on in ascending
order. -/
def mayAct (s : State) (t : Nat) : Bool :=
  s.reachedN t && !(decide (s.tb.skipFrom.toNat < t) && decide (t ≤ s.tb.skipTo.toNat) &&
    (dueTimes s).any fun u => decide (s.tb.skipFrom.toNat < u) && decide (u < t))

/-- R59: fault of a command on a counter that its context does not own. -/
def ctrFault (c : Cmd) (n : Nat) (s : State) : State := faultCmd c.k stTranslation (ctrInfo n) s

/-- WAIT_COUNT (R60, R66): RESULT is the counter's value. -/
def execWaitCount (k : Nat) (s : State) : Host.Outcome State Fault Refusal :=
  .next (runOp k 0x02 0 waitCountBody (fun _ => true) (fun c s =>
    let n := body c 16 2
    if !ctrOwned s c.ctx n then ctrFault c n s
    else if countReached s c then finishCmd k (some (releaseValue s c)) none (progress k s)
    else s) s)

/-- WAIT_COUNT_TIMEOUT (R66). -/
def execWaitCountTimeout (k : Nat) (s : State) : Host.Outcome State Fault Refusal :=
  .next (runOp k 0x02 0 waitCountBody (fun _ => true) (fun c s =>
    let n := body c 16 2
    if !ctrOwned s c.ctx n then ctrFault c n s
    else if body c 32 8 ≠ 0 ∧ mayAct s (body c 32 8) = true ∧ countReached s c = false then
      finishCmd k none none (modCmd k (fun d => { d with warns := d.warns ||| 0x2 }) s)
    else s) s)

/-- R66: SIGNAL's update, and the report of the new value. -/
def signalWork (c : Cmd) : EngM (Option W64 × Option Nat) := do
  let n := body c 16 2
  needCtr n
  let s ← getS
  let v := body c 24 8
  if bitOf (body c 18 1) 0 then modS (ctrSet c.ctx n v)
  else
    let r := ctrAdd c.ctx n v s
    modS fun _ => r.2
    if r.1 then addWarn 0x4 else pure ()
  let s ← getS
  let new := ctrGet s n
  if bitOf (body c 18 1) 1 then writeNat (body c 32 8) 8 new.toNat else pure ()
  pure (some new, none)

/-- SIGNAL (R58, R60, R66): it acts once every earlier command of its queue is complete. -/
def execSignal (k : Nat) (s : State) : Host.Outcome State Fault Refusal :=
  .next (runOp k 0x03 0 [(16, 3), (24, 8), (32, 8)]
    (fun c => decide (body c 18 1 < 4) && (!bitOf (body c 18 1) 1 || body c 32 8 % 8 == 0))
    (fun c s => if earlierDone s c then runEng c false (signalWork c) s else s) s)

/-- R24, R33, R66: a WAIT_FRAME whose TARGET is reached completes. -/
def waitFrameStep (k : Nat) (s : State) : State :=
  runOp k 0x04 0 [(24, 8)] (fun _ => true)
    (fun c s => if mayAct s (body c 24 8) then finishCmd k none none s else s) s

/-- WAIT_FRAME (R24, R66): at acceptance it completes at once when TARGET is already reached. -/
def execWaitFrame (k : Nat) (s : State) : Host.Outcome State Fault Refusal := .next (waitFrameStep k s)

/-- WAIT_FRAME_REACHED (R24, R33). -/
def execWaitFrameReached (k : Nat) (s : State) : Host.Outcome State Fault Refusal := .next (waitFrameStep k s)

/-- DEBUG_MARK (R66): TAG goes to RESULT. -/
def execDebugMark (k : Nat) (s : State) : Host.Outcome State Fault Refusal :=
  .next (runOp k 0x06 0 [(24, 8)] (fun _ => true)
    (fun c s => finishCmd k (some (BitVec.ofNat 64 (body c 24 8))) none s) s)

end Sys2Proof.Machine
end

