-- ==== Sys2Proof/Machine/Feeds.lean ====
section
/-!
DEFINITION. Feeds: frame-slotted rings that the host or edge equipment fills (R301, R322, R323, R338, R394).
-/
namespace Sys2Proof.Machine

/-- A feed. -/
def getFeed (s : State) (f : Nat) : Feed := Tbl.get {} s.feeds f
/-- Change a feed. -/
def modFeed (f : Nat) (g : Feed → Feed) (s : State) : State := { s with feeds := Tbl.put {} s.feeds f (g (getFeed s f)) }

/-- R301: fields of a FEED_BIND body. -/
def fbFeed (c : Cmd) : Nat := body c 18 2
def fbSlots (c : Cmd) : Nat := body c 20 4

/-- R301: the ranges of a FEED_BIND body. -/
def feedLegal (c : Cmd) : Bool :=
  decide (body c 16 1 ≤ 2) && decide (fbFeed c ≤ 255) &&
  (fbSlots c == 0 || (decide (2 ≤ fbSlots c) && decide (fbSlots c ≤ 1024) && decide (64 ≤ body c 24 4) &&
    decide (body c 24 4 ≤ 64 * 2 ^ 20) && body c 24 4 % 64 == 0))

/-- FEED_BIND (R301): accepted now, in force and complete at the next frame boundary. -/
def execFeedBind (k : Nat) (s : State) : Host.Outcome State Fault Refusal :=
  .next (runOp k 0x15 0 [(16, 1), (18, 14), (32, 16)] feedLegal (fun c s =>
    if fbSlots c ≠ 0 ∧ ctrOwned s c.ctx (body c 30 2) = false then faultCmd k stTranslation (ctrInfo (body c 30 2)) s
    else modFeed (fbFeed c) (fun x => if x.bindCmds.contains k then x else { x with bindCmds := x.bindCmds ++ [k] }) s) s)

/-- R301: the binding that a FEED_BIND puts in force in frame n. -/
def feedOf (c : Cmd) (n : Nat) (old : Feed) : Feed :=
  if fbSlots c = 0 then { dropped := old.dropped }
  else { bound := true, ctx := c.ctx, source := body c 16 1, slots := fbSlots c, slotBytes := body c 24 4,
         deadlinePh := BitVec.ofNat 16 (body c 28 2), counter := body c 30 2, ringVa := body c 32 8, statusVa := body c 40 8,
         nextClose := n, dropped := old.dropped }

/-- R301: an accepted FEED_BIND of a feed takes effect and completes. -/
def bindFeed (f : Nat) (s : State) (k : Nat) : State :=
  match findCmd s k with
  | none => s
  | some c =>
    if c.st = .started then finishCmd k none none (progress k (modFeed f (fun x => feedOf c s.tb.frame.toNat x) s)) else s

/-- R301: at a frame boundary, every accepted FEED_BIND takes effect and completes, in the order of acceptance. -/
def bindFeeds (s : State) : State :=
  (s.feeds.filter fun e => !e.2.bindCmds.isEmpty).foldl (fun s e =>
    e.2.bindCmds.foldl (bindFeed e.1) (modFeed e.1 (fun x => { x with bindCmds := [] }) s)) s

/-- R301: write the status record of a closed slot and add to COUNTER. A record that fails translation is a fault of the
context (log entry 18). -/
def closeSlot (f n bytes : Nat) (s : State) : State :=
  let x := getFeed s f
  let st := if bytes = x.slotBytes then 1 else 2
  let rec' := leBytes 8 n ++ leBytes 4 bytes ++ leBytes 1 st ++ leBytes 3 0
  let va := x.statusVa + n % max 1 x.slots * 16
  let s := match writeV va rec' { s := s, ctx := x.ctx, owner := 0 } with
    | .ok _ e => engCommit none e
    | .error _ _ =>
      contextFault x.ctx { status := stTranslation, unit := 0x31, ctx := x.ctx, info := { transInfo va with ftw := s.ftw } } none s
  (ctrAdd x.ctx x.counter 1 s).2

/-- FEED_SLOT_CLOSE (R301, R394): a slot that closes during a compute reset is held for the resume. -/
def execFeedSlotClose (f : Nat) (s : State) : Host.Outcome State Fault Refusal :=
  let x := getFeed s f
  let n := x.nextClose
  .next (if x.bound && mayAct s (feedDeadline x n) then
      let got := Tbl.get 0 x.recv n
      let s := modFeed f (fun y => { y with nextClose := n + 1, recv := Tbl.del y.recv n }) s
      if inReset s then modFeed f (fun y => { y with held := y.held ++ [(n, got)] }) s
      else closeSlot f n got s
    else s)

/-- R394: the slots held during a reset, closed in frame order. -/
def releaseSlots (s : State) : State :=
  s.feeds.foldl (fun s e =>
    let s := modFeed e.1 (fun y => { y with held := [] }) s
    e.2.held.foldl (fun s h => closeSlot e.1 h.1 h.2 s) s) s

/-- The frame whose low 32 bits are given, among the current and the next one (R322, R323). -/
def feedFrame (s : State) (low : Nat) : Option Nat :=
  let f := s.tb.frame.toNat
  if f % 2 ^ 32 = low then some f else if (f + 1) % 2 ^ 32 = low then some (f + 1) else none

/-- Count a drop of a feed. -/
def dropFeed (f : Nat) (s : State) : State := modFeed f (fun x => { x with dropped := x.dropped + 1 }) s

/-- FEED_DB (R322, R338): accepted for the current or the next frame while its deadline is not reached (log entry 19). -/
def execFeedDb (fn f : Nat) (v : W64) (s : State) : Host.Outcome State Fault Refusal :=
  let x := getFeed s f
  .next (if s.sup.perst || decide (255 < f) || !x.bound then s
    else if x.source ≠ 0 ∨ (getCtx s x.ctx).owner ≠ fn then dropFeed f s
    else
      match feedFrame s (v.extractLsb' 32 32).toNat with
      | none => dropFeed f s
      | some n =>
        if s.reachedN (feedDeadline x n) then dropFeed f s
        else modFeed f (fun y => { y with recv := Tbl.put 0 y.recv n (v.setWidth 32).toNat }) s)

/-- R323: write an accepted FEED packet into its slot. -/
def takeFeed (f n off : Nat) (p : Packet) (s : State) : State :=
  let x := getFeed s f
  let va := x.ringVa + n % max 1 x.slots * x.slotBytes + off
  match writeV va p.payload { s := s, ctx := x.ctx, owner := 0 } with
  | .ok _ e =>
    modFeed f (fun y => { y with recv := Tbl.put 0 y.recv n (Tbl.get 0 y.recv n + p.payload.length) }) (engCommit none e)
  | .error _ _ =>
    contextFault x.ctx { status := stTranslation, unit := 0x31, ctx := x.ctx, info := { transInfo va with ftw := s.ftw } } none s

/-- FEED (R323). -/
def execPktFeed (port : Nat) (p : Packet) (s : State) : Host.Outcome State Fault Refusal :=
  .next (arrive port ptFeed p (fun s =>
    let f := p.dstCtx.toNat
    let x := getFeed s f
    let off := bits p.addr.toNat 25 0
    match feedFrame s (p.addr.toNat / 2 ^ 32) with
    | none => dropFeed f s
    | some n =>
      if x.bound && decide (6 ≤ port) && x.source + 5 == port && !s.reachedN (feedDeadline x n) && decide (off + p.payload.length ≤ x.slotBytes)
          && off % 64 == 0 && p.payload.length % 64 == 0 then
        takeFeed f n off p s
      else dropFeed f s) s)

end Sys2Proof.Machine
end

