-- ==== Sys2Proof/Machine/MatrixMath.lean ====
section
/-!
DEFINITION. The arithmetic of the tiles (R90-R97, R116-R121) and of strict products (R101).
-/
namespace Sys2Proof.Machine

/-- One operand element as the tiles see it: sign, magnitude and the exponent of its last bit, or a NaN or an infinity. -/
structure MaElem where
  /-- Sign. -/
  neg : Bool := false
  /-- Magnitude. -/
  mag : Nat := 0
  /-- Exponent of the magnitude's last bit. -/
  e : Int := 0
  /-- NaN. -/
  nan : Bool := false
  /-- R78 a signalling NaN. -/
  snan : Bool := false
  /-- Infinity. -/
  inf : Bool := false
  /-- R115 an INT4 or INT8 value cut to the block range. -/
  sat : Bool := false
deriving DecidableEq, Repr

/-- R81, R115: formats whose elements share a block scale: B4, B8, B16, and INT4 and INT8 read as such. -/
def blocky (c : Nat) : Bool := isBlock c || c == 0xA || c == 0xB

/-- An operand element from its code and scale code. -/
def maElem (c raw scale : Nat) : MaElem :=
  if c = 0xA ∨ c = 0xB then
    let w := if c = 0xA then 4 else 8
    let v := signed w raw
    let top := 2 ^ (w - 1) - 1
    { neg := decide (v < 0), mag := min v.natAbs top, sat := decide (top < v.natAbs) }
  else if isBlock c then
    let w := blockWidth c
    let s : Int := (scale : Int) - 127
    if scale = 0 then { e := s }
    else if scale = 0xFF then { e := s, nan := true }
    else { neg := decide (2 ^ (w - 1) ≤ raw % 2 ^ w) && decide (raw % 2 ^ (w - 1) ≠ 0), mag := raw % 2 ^ (w - 1), e := s }
  else
    match rawValue c raw with
    | .nan sg => { nan := true, snan := sg }
    | .inf n => { neg := n, inf := true }
    | .fin n m e => { neg := n, mag := m, e := e }

/-- The elements of a run of n. -/
def maRun (c : Nat) (bs scales : Bytes) (n : Nat) : List MaElem :=
  (List.range n).map fun i => maElem c (rawElem c bs i) (field scales (i / 32) 1)

/-- The exact value of an operand element. -/
def maValue (x : MaElem) : FV := if x.nan then .nan x.snan else if x.inf then .inf x.neg else .fin x.neg x.mag x.e

/-- Whether an element is a NaN or an infinity. -/
def maBad (x : MaElem) : Bool := x.nan || x.inf

/-- R78, R95: the event of an operand that is not finite, or that R115 cuts. -/
def maEvent (x : MaElem) : Ev :=
  if x.nan then { nanRead := true, ieee := if x.snan then ieInvalid else 0 } else if x.inf then { nanMade := true } else if x.sat then evSat else {}

/-- The largest exponent of the nonzero finite elements. -/
def topExp : List MaElem → Option Int
  | [] => none
  | x :: xs =>
    if x.mag = 0 ∨ maBad x = true then topExp xs
    else match topExp xs with
      | none => some x.e
      | some t => some (max x.e t)

/-- R90, R91: a group aligned with guard width g: the LSB exponent, and of each element its sign, aligned magnitude, and whether
nonzero bits were lost. The width of the hidden-bit significand is the same for all elements, so the exponent of an element's
last bit stands for its exponent. -/
def alignGroup (block : Bool) (g : Nat) (xs : List MaElem) : Int × List (Bool × Nat × Bool) :=
  if block then ((xs.headD {}).e, xs.map fun x => (x.neg, x.mag, false))
  else
    let t := match topExp xs with
      | some e => e - g
      | none => 0
    (t, xs.map fun x =>
      if x.mag = 0 ∨ maBad x = true then (false, 0, false)
      else if t ≤ x.e then (x.neg, x.mag * 2 ^ (x.e - t).toNat, false)
      else
        let d := 2 ^ (t - x.e).toNat
        (x.neg && decide (x.mag / d ≠ 0), x.mag / d, decide (x.mag % d ≠ 0)))

/-- R85, R119: the format of an accumulator code: ACC32, ACC64, ACCW. -/
def accFmt (acc : Nat) : Fmt := if acc = 0 then fp32 else if acc = 1 then fp64 else accw

/-- R93: largest finite magnitude of a destination format, and its last exponent. -/
def largestOf (c : Nat) : Nat × Int :=
  if isBlock c then (2 ^ (blockWidth c - 1) - 1, 127)
  else if c = 0xA then (7, 0) else if c = 0xB then (127, 0)
  else match fmtOf c with
    | some f => match decodeF f (maxCode f false) with
      | .fin _ m e => (m, e)
      | _ => (0, 0)
    | none => (0, 0)

/-- One output element while its partials merge: the accumulator's value, the sign that R93 forces, and the events with
their operand roles, oldest first. -/
structure Acc where
  /-- Accumulator value. -/
  v : FV := fvZero
  /-- R93 the first saturating partial's sign. -/
  forced : Option Bool := none
  /-- Events: role, tile and event. -/
  evs : List (Nat × Nat × Ev) := []
deriving DecidableEq, Repr

/-- Note an event of an output element. -/
def Acc.note (a : Acc) (role tile : Nat) (ev : Ev) : Acc := { a with evs := a.evs ++ [(role, tile, ev)] }

/-- R88, R92, R97: merge the partial p x 2^e; the merge raises the IEEE flags of its addition. -/
def Acc.merge (f : Fmt) (tile : Nat) (p : Int) (e : Int) (a : Acc) : Acc :=
  let r := fvAdd .ne a.v (fvScaled p e)
  match r.1 with
  | .nan _ => { a with v := .nan false, evs := a.evs ++ [(2, tile, r.2)] }
  | x =>
    let q := mergeV f x
    { a with v := decodeF f q.1, evs := a.evs ++ [(2, tile, { ovf := q.2.ovf, ieee := r.2.ieee ||| q.2.ieee })] }

/-- R93: a nonzero partial of sign neg saturates the element. -/
def Acc.force (tile : Nat) (neg : Bool) (a : Acc) : Acc :=
  match a.forced with
  | some _ => a
  | none => { a with forced := some neg, evs := a.evs ++ [(3, tile, evSat)] }

/-- R92, R93, R95: one group's partial: `bad` when the group holds a NaN or an infinity. A zero partial merges as +0 whatever the
scale sum. -/
def Acc.group (f : Fmt) (block bad : Bool) (tile : Nat) (p : Int) (e : Int) (a : Acc) : Acc :=
  if fvIsNan a.v then a
  else if bad then { a with v := .nan false }
  else if block && decide (127 < e) then if p = 0 then a.merge f tile 0 0 else a.force tile (decide (p < 0))
  else if block && decide (e < -126) then
    (if p = 0 then a else a.note 3 tile { align := true }).merge f tile 0 0
  else a.merge f tile p e

/-- R93, R99: the value of an output element, NaN before saturation. -/
def Acc.value (dst : Nat) (a : Acc) : FV :=
  match a.v, a.forced with
  | .nan s, _ => .nan s
  | v, none => v
  | _, some n => let l := largestOf dst; .fin n l.1 l.2

/-- A signed product sum of stored and streamed magnitudes (R92). -/
def dotSum : List (Bool × Nat) → List (Bool × Nat × Bool) → Int
  | w :: ws, x :: xs =>
    let m : Int := ((w.2 * x.2.1 : Nat) : Int)
    (if xor w.1 x.1 then -m else m) + dotSum ws xs
  | _, _ => 0

/-- One column of a resident matrix over all its rows: cells, and per group of 32 rows tw and the NaN marker. -/
structure WCol where
  /-- Sign and magnitude of each row below K. -/
  cells : List (Bool × Nat) := []
  /-- tw of each group. -/
  tw : List Int := []
  /-- NaN marker of each group. -/
  nan : List Bool := []
  /-- R101 source codes and scale codes. -/
  src : List (Nat × Nat) := []
deriving DecidableEq, Repr

/-- The groups of 32 of a list. -/
def groups32 {α : Type} (l : List α) : List (List α) := chunks 32 l

/-- R90, R109: one weight column aligned, with the events of its elements. -/
def alignColumn (c : Nat) (xs : List MaElem) : WCol × List Ev :=
  let gs := (groups32 xs).map fun g => (alignGroup (blocky c) (guardW c) g, g)
  ({ cells := gs.flatMap fun g => g.1.2.map fun r => (r.1, r.2.1), tw := gs.map (·.1.1), nan := gs.map fun g => g.2.any maBad },
   gs.flatMap fun g => (g.1.2.zip g.2).map fun r => { maEvent r.2 with align := r.1.2.2 })

/-- R91: a streamed vector aligned in groups of n: per group tx, the aligned elements, whether it holds a NaN or an infinity,
and the events that reading it reports. -/
def alignStream (c n : Nat) (xs : List MaElem) : List (Int × List (Bool × Nat × Bool) × Option Ev × Ev) :=
  (chunks n xs).map fun g =>
    let a := alignGroup (blocky c) (guardA c) g
    let bad := (g.find? maBad).map maEvent
    let lost : Ev := { align := a.2.any fun r => r.2.2, sat := g.any (·.sat), satRange := g.any (·.sat) }
    (a.1, a.2, bad, lost)

/-- R116: one output column of MA_RUN. `tileOf g` is the tile of group g. -/
def runColumn (f : Fmt) (block : Bool) (tileOf : Nat → Nat) (w : WCol) : Nat →
    List (Int × List (Bool × Nat × Bool) × Option Ev × Ev) → Acc → Acc
  | _, [], a => a
  | g, x :: xs, a =>
    let mark := w.nan.getD g false
    let a := if mark && x.2.2.1.isNone && !fvIsNan a.v then a.note 0 (tileOf g) { nanRead := true } else a
    let p := dotSum ((w.cells.drop (32 * g)).take 32) x.2.1
    runColumn f block tileOf w (g + 1) xs (a.group f block (mark || x.2.2.1.isSome) (tileOf g) p (w.tw.getD g 0 + x.1))

/-- R117: the products of one tile for row k: sign, magnitude and u of each column with a nonzero product. -/
def tileTerms (k : Nat) (ws : List WCol) (xs : List (Bool × Nat × Int)) : List (Bool × Nat × Int) :=
  ((ws.zip xs).map fun p =>
    let c := p.1.cells.getD k (false, 0)
    (xor c.1 p.2.1, c.2 * p.2.2.1, p.1.tw.getD (k / 32) 0 + p.2.2.2)).filter fun t => t.2.1 ≠ 0

/-- R117 step 3: trunc of a term under U, with whether bits are discarded. -/
def truncTerm (u : Int) (t : Bool × Nat × Int) : Int × Bool :=
  let sh := t.2.2 - u + 8
  let m := if 0 ≤ sh then t.2.1 * 2 ^ sh.toNat else t.2.1 / 2 ^ (-sh).toNat
  let lost := decide (sh < 0) && decide (t.2.1 % 2 ^ (-sh).toNat ≠ 0)
  (if t.1 then -(m : Int) else (m : Int), lost)

/-- R117: a tile's contribution to row k. -/
def tileRow (f : Fmt) (block : Bool) (tile k : Nat) (bad : Option Ev) (ws : List WCol) (xs : List (Bool × Nat × Int)) (a : Acc) :
    Acc :=
  if fvIsNan a.v then a else
  let mark := ws.any fun w => w.nan.getD (k / 32) false
  if bad.isSome then { a with v := .nan false }
  else if mark then (a.note 0 tile { nanRead := true }).group f block true tile 0 0
  else
    let ts := tileTerms k ws xs
    let high := if block then ts.filter fun t => decide (127 < t.2.2) else []
    let low := if block then ts.filter fun t => decide (t.2.2 < -126) else []
    let mid := if block then ts.filter fun t => decide (-126 ≤ t.2.2) && decide (t.2.2 ≤ 127) else ts
    let a := high.foldl (fun a t => a.force tile t.1) a
    let a := if low.isEmpty then a else a.note 3 tile { align := true }
    let u := match mid with
      | [] => 0
      | t :: ts => ts.foldl (fun u t => max u t.2.2) t.2.2
    let rs := mid.map (truncTerm u)
    let a := if rs.any (·.2) then a.note 3 tile { align := true } else a
    a.merge f tile (rs.foldl (fun s r => s + r.1) 0) (u - 8)

/-- R117: the tile-columns in order for row k. -/
def runRow (f : Fmt) (block : Bool) (k : Nat) : List (Nat × Option Ev × List WCol × List (Bool × Nat × Int)) → Acc → Acc
  | [], a => a
  | t :: ts, a => runRow f block k ts (tileRow f block t.1 k t.2.1 t.2.2.1 t.2.2.2 a)

/-- R93, R121: one product of MA_ELEM: its value and its events. -/
def elemProduct (dst : Nat) (block : Bool) (bad : Option Ev) (mark : Bool) (w : Bool × Nat) (x : Bool × Nat) (e : Int) :
    FV × List (Nat × Ev) :=
  match bad with
  | some ev => (.nan false, [(1, ev)])
  | none =>
    if mark then (.nan false, [(0, { nanRead := true })])
    else
      let m := w.2 * x.2
      let neg := xor w.1 x.1 && decide (m ≠ 0)
      if block && decide (127 < e) && decide (m ≠ 0) then
        let l := largestOf dst
        (.fin neg l.1 l.2, [(3, evSat)])
      else if block && decide (e < -126) then
        (fvZero, if m = 0 then [] else [(3, { align := true })])
      else (.fin neg m e, [])

/-- R101: the strict sum of one output element: events of each step have the role of the NaN operand. -/
def strictSum (f : Fmt) (rm : RM) : List (FV × FV) → FV → FV × List (Nat × Ev)
  | [], c => (c, [])
  | (w, x) :: l, c =>
    let r := fFma f rm w x c
    let role := if fvIsNan w then 0 else if fvIsNan x then 1 else if fvIsNan c then 2 else 3
    let rest := strictSum f rm l (decodeF f r.1)
    (rest.1, (role, r.2) :: rest.2)

end Sys2Proof.Machine
end

