-- ==== Sys2Proof/Machine/Matrix.lean ====
section
/-!
DEFINITION. The commands of the matrix arrays (R103-R134): MA_LOAD, MA_SWAP, MA_RUN, MA_RUN_T, MA_ELEM, one tile pass at a
time or all that are left, strict products on the vector cores (R101, R112), and the tile side of the streams (R122, R123).
BALLAST_PASS is in Power.
-/
namespace Sys2Proof.Machine

/-! ### Checks (R106) -/

/-- What R106 finds about the tiles that a run names. -/
inductive TileCheck where
  | good (shape : Bank)
  | fault (tile : Nat)
  | lost
  | mixed
deriving DecidableEq, Repr

/-- R106: the fault of a tile. -/
def tileInfo (t : Nat) : FaultInfo := { addrKind := 4, addr := BitVec.ofNat 64 t }

/-- The active bank of a tile for the issuing context. -/
def activeBankOf (s : State) (c : Cmd) (t : Nat) : Bank := getBank s c.basalt t (activeOf s c.ctx c.basalt t)

/-- R109: an earlier started load of the context is to write the tile's bank of a SPLIT cluster, which is LOADING for this command. -/
def splitLoading (s : State) (c : Cmd) (t : Nat) : Bool :=
  decide ((getCluster s c.basalt (t / 32)).mode = .split) && s.cmds.any fun d =>
    decide (d.st = .started) && decide (d.startNo < c.startNo) && cmdOp d == 0x20 && d.ctx == c.ctx && d.basalt == c.basalt &&
    (let u := maTiles s d
     decide (u.1 ≤ t) && decide (t < u.1 + u.2))

/-- R106: a tile that a run may not use. -/
def badTile (s : State) (c : Cmd) (t : Nat) : Bool :=
  !grantedTile s c.ctx c.basalt t || splitLoading s c t ||
    (let b := activeBankOf s c t
     b.st == .free || b.st == .loading || decide (b.ctx ≠ c.ctx))

/-- R106: banks loaded under one layout. -/
def sameLayout (a b : Bank) : Bool :=
  a.firstTile == b.firstTile && a.kDim == b.kDim && a.nDim == b.nDim && a.fmt == b.fmt && decide (a.strict = b.strict)

/-- R106: the tiles of a run. The shape comes from the record of FIRST_TILE's active bank (R132). -/
def checkTiles (s : State) (c : Cmd) : TileCheck :=
  let f := body c 16 2
  if badTile s c f then .fault f
  else
    let r := activeBankOf s c f
    if r.st = .lost then .lost
    else
      let n := tileRowsOf r.kDim * tileColsOf r.fmt r.nDim
      let ts := (List.range n).map (· + f)
      if 512 < f + n then .mixed
      else match ts.find? (badTile s c) with
        | some t => .fault t
        | none =>
          let bs := ts.map (activeBankOf s c)
          if bs.any fun b => decide (b.st = .lost) then .lost
          else if bs.all (sameLayout r) && r.firstTile == f then .good r else .mixed

/-! ### MA_LOAD (R109, R130) -/

/-- R130: WFMT. -/
def ldFmt (c : Cmd) : Nat := bits (body c 18 1) 3 0

/-- R74, R108, R130: the ranges of the body. -/
def ldLegal (c : Cmd) : Bool :=
  let f := ldFmt c
  let k := body c 20 4
  decide (body c 18 1 < 12) && decide (1 ≤ k) && decide (k ≤ 262144) && decide (1 ≤ body c 24 4)
    && decide (body c 16 2 + tileRowsOf k * tileColsOf f (body c 24 4) ≤ 512) && (isBlock f || body c 48 8 == 0)

/-- R112: a load of a strict-mode context that records the source alone. -/
def ldStrict (mode : BitVec 32) (c : Cmd) : Bool := mode.getLsbD 2 && decide (ldFmt c ≤ 1)

/-- R130: read k rows of column n of the source from row r on, a multiple of 512. -/
def readColumn (fmt k va stride sva sstride r n : Nat) : EngM (List MaElem × List (Nat × Nat)) := do
  let bs ← readV (va + n * stride + runBytes fmt r) (runBytes fmt k)
  let ss ← if isBlock fmt then readV (sva + n * sstride + r / 32) (ceilDiv k 32) else pure []
  pure (maRun fmt bs ss k, (List.range k).map fun i => (rawElem fmt bs i, field ss (i / 32) 1))

/-- R105, R108, R109: load column n of a tile from row r of the matrix on; the events name its weight elements (R120). -/
def loadColumn (c : Cmd) (keep : Bool) (tile r n : Nat) : EngM BankCol := do
  let f := ldFmt c
  let k := body c 20 4
  let x ← readColumn f (min 512 (k - r)) (body c 32 8) (body c 40 4) (body c 48 8) (body c 44 4) r n
  let w := alignColumn f x.1
  noteEvsAt 0 (n * k + r) 0 (fun _ => tile) w.2
  pure { cells := w.1.cells, tw := w.1.tw, nan := w.1.nan, src := if keep then x.2 else [] }

/-- Columns n, n + 1, … of a tile (the first argument counts them). -/
def loadColumns (c : Cmd) (keep : Bool) (tile r : Nat) : Nat → Nat → EngM (List BankCol)
  | 0, _ => pure []
  | m + 1, n => do
    let w ← loadColumn c keep tile r n
    let ws ← loadColumns c keep tile r m (n + 1)
    pure (w :: ws)

/-- R105, R108: the bank record of a tile of the layout, with its cells. -/
def bankOf (c : Cmd) (strict : Bool) (cols : List BankCol) : Bank :=
  { st := .loading, ctx := c.ctx, firstTile := body c 16 2, kDim := body c 20 4, nDim := body c 24 4, fmt := ldFmt c,
    strict := if strict then some (body c 32 8, body c 40 4) else none, cols := cols }

/-- R105: change the bank that a load writes in a tile. -/
def modLoaded (c : Cmd) (t : Nat) (f : Bank → Bank) (s : State) : State :=
  let b := shadowOf s c.ctx c.basalt t
  { s with banks := Tbl.ins s.banks (bankKey c.basalt t b) (f (getBank s c.basalt t b)) }

/-- R108, R109, R126: the tiles of a load from tile i of its layout on (the first argument counts them). The load keeps the index of
its next tile. -/
def loadTiles (c : Cmd) (strict keep : Bool) : Nat → Nat → EngM Unit
  | 0, _ => pure ()
  | m + 1, i => do
    let f := ldFmt c
    let tc := tileColsOf f (body c 24 4)
    let n0 := i % tc * tileCols f
    let t := body c 16 2 + i
    let cols ← if strict then pure [] else loadColumns c keep t (512 * (i / tc)) (min (tileCols f) (body c 24 4 - n0)) n0
    modS (modLoaded c t fun _ => bankOf c strict cols)
    modS (modProg c.k fun p => { p with next := i + 1 })
    loadTiles c strict keep m (i + 1)

/-- R108: tiles of a load. -/
def ldTiles (c : Cmd) : Nat := tileRowsOf (body c 20 4) * tileColsOf (ldFmt c) (body c 24 4)

/-- R109, R110, R112: at most n further tiles of a load. After the last one every bank becomes VALID; RESULT is their number (R134). -/
def ldWork (c : Cmd) (n : Nat) : EngM (Option (Option W64 × Option Nat)) := do
  let mode ← getMode
  let total := ldTiles c
  let m := min n (total - c.prog.next)
  loadTiles c (ldStrict mode c) (mode.getLsbD 2) m c.prog.next
  if c.prog.next + m < total then pure none
  else do
    modS fun s => (List.range total).foldl (fun s i => modLoaded c (body c 16 2 + i) (fun b => { b with st := .valid }) s) s
    pure (some (some (BitVec.ofNat 64 total), none))

/-- MA_LOAD (R90, R106, R109, R112). Its lane can be pre-empted at the end of each tile: while other commands run, one step loads a free
number of tiles (log entry 26). -/
def execMaLoad (k : Nat) (s : State) : Host.Outcome State Fault Refusal :=
  .next (runOp k 0x20 0 [(16, 3), (20, 8), (32, 24)] ldLegal (fun c s =>
    let t := maTiles s c
    match ((List.range t.2).map (· + t.1)).find? fun i => !grantedTile s c.ctx c.basalt i with
    | some i => faultCmd c.k stTranslation (tileInfo i) s
    | none =>
      if loadFree s c then
        runWatched c true (ldWork c (workBudget s k (ldTiles c))) (markLoading c { s with free := s.free + 1 })
      else s) s)

/-! ### MA_SWAP (R111, R131) -/

/-- R111: exchange active and shadow of a tile in an EXCLUSIVE cluster. -/
def swapTile (b t : Nat) (s : State) : State :=
  match (getCluster s b (t / 32)).mode with
  | .exclusive =>
    { s with activeBank := Tbl.put 0 s.activeBank (b * 512 + t) (1 - Tbl.get 0 s.activeBank (b * 512 + t)) }
  | .split => s
  | .released => s

/-- MA_SWAP (R106, R111, R131): RESULT is zero (R134). -/
def execMaSwap (k : Nat) (s : State) : Host.Outcome State Fault Refusal :=
  .next (runOp k 0x21 0 [(16, 4)]
    (fun c => decide (1 ≤ body c 18 2) && decide (body c 18 2 ≤ 512) && decide (body c 16 2 + body c 18 2 ≤ 512)) (fun c s =>
    let ts := (List.range (body c 18 2)).map (· + body c 16 2)
    match ts.find? fun i => !grantedTile s c.ctx c.basalt i with
    | some i => faultCmd c.k stTranslation (tileInfo i) s
    | none =>
      if swapFree s c then finishCmd k (some 0) none (ts.foldl (fun s t => swapTile c.basalt t s) s) else s) s)

/-! ### Streams (R122, R123, R156) -/

/-- R122: key of a stream queue: pair, OUT (0) or IN (1), and the context's half in a SPLIT cluster. -/
def streamKey (s : State) (ctx basalt pair dir : Nat) : Nat :=
  let c := getCluster s basalt pair
  let half := match c.mode with
    | .split => if c.ctxA = ctx then 0 else 1
    | .exclusive => 0
    | .released => 0
  ((basalt * 16 + pair) * 2 + dir) * 2 + half

/-- R122: bytes that a context may hold in a queue: 256 entries, or 128 in a SPLIT cluster. -/
def streamCap (s : State) (basalt pair : Nat) : Nat :=
  match (getCluster s basalt pair).mode with
  | .split => 8192
  | .exclusive => 16384
  | .released => 16384

/-- R122: the pair belongs to the context. -/
def ownsPair (s : State) (ctx basalt pair : Nat) : Bool := grantedTile s ctx basalt (32 * pair)

/-- R106, R384: the fault of a stream pair. -/
def pairInfo (p : Nat) : FaultInfo := { addrKind := 5, addr := BitVec.ofNat 64 p }

/-- Take all bytes of a queue, at most n. -/
def takeStream (key n : Nat) (s : State) : Bytes × State :=
  let q := Tbl.get [] s.streams key
  (q.take n, { s with streams := Tbl.put [] s.streams key (q.drop n) })

/-- Append bytes to a queue. -/
def pushStream (key : Nat) (bs : Bytes) (s : State) : State :=
  { s with streams := Tbl.put [] s.streams key (Tbl.get [] s.streams key ++ bs) }

/-! ### Runs (R113, R116-R121, R132, R133) -/

/-- What a run computes. -/
inductive RunKind where
  | forward | transposed | elementwise
deriving DecidableEq, Repr

def runXfmt (c : Cmd) : Nat := bits (body c 18 1) 3 0
def runYfmt (c : Cmd) : Nat := bits (body c 19 1) 3 0
def runAcc (c : Cmd) : Nat := bits (body c 20 1) 1 0
def runAccum (c : Cmd) : Bool := bitOf (body c 20 1) 2
def runXstream (c : Cmd) : Bool := bitOf (body c 20 1) 3
def runYstream (c : Cmd) : Bool := bitOf (body c 20 1) 4
def runXpair (c : Cmd) : Nat := bits (body c 21 1) 3 0
def runYpair (c : Cmd) : Nat := bits (body c 21 1) 7 4
/-- R121: MODE of MA_ELEM: ROW. -/
def runRowMode (c : Cmd) : Bool := body c 22 1 == 0

/-- R132: EXT is 1 when YFMT is block-scaled. -/
def runExt (c : Cmd) : Nat := b2n (isBlock (runYfmt c))

/-- R74, R129, R132, R133: the ranges of the body. A block format on a stream is unpredictable (R122). -/
def runLegal (kind : RunKind) (c : Cmd) : Bool :=
  decide (body c 18 1 < 12) && decide (body c 19 1 < 15) && decide (body c 20 1 < 32) && decide (1 ≤ body c 24 4)
    && (match kind with
        | .elementwise => body c 20 1 % 8 == 0 && decide (body c 22 1 ≤ 1)
        | .forward => decide (runAcc c ≠ 3)
        | .transposed => decide (runAcc c ≠ 3))
    && !(runXstream c && isBlock (runXfmt c)) && !(runYstream c && isBlock (runYfmt c))

/-- R132: length of an input vector. -/
def runIn (kind : RunKind) (c : Cmd) (b : Bank) : Nat :=
  match kind with
  | .forward => b.kDim
  | .transposed => b.nDim
  | .elementwise => if runRowMode c then b.kDim else b.nDim

/-- R132, R133: length of an output vector. -/
def runOut (kind : RunKind) (b : Bank) : Nat :=
  match kind with
  | .forward => b.nDim
  | .transposed => b.kDim
  | .elementwise => b.kDim * b.nDim

/-- R108: column n of the resident matrix, over its tile-rows. -/
def residentCol (s : State) (c : Cmd) (b : Bank) (n : Nat) : WCol :=
  let tc := tileColsOf b.fmt b.nDim
  let nt := tileCols b.fmt
  let parts := (List.range (tileRowsOf b.kDim)).map fun tr =>
    (activeBankOf s c (body c 16 2 + tr * tc + n / nt)).cols.getD (n % nt) {}
  { cells := (parts.flatMap (·.cells)).take b.kDim, tw := parts.flatMap (·.tw), nan := parts.flatMap (·.nan),
    src := parts.flatMap (·.src) }

/-- R108: the tile of a row and a column. -/
def tileAt (c : Cmd) (b : Bank) (k n : Nat) : Nat :=
  body c 16 2 + k / 512 * tileColsOf b.fmt b.nDim + n / tileCols b.fmt

/-- R113, R122, R132: input vector m: none while the IN stream does not hold it whole. -/
def readInput (kind : RunKind) (c : Cmd) (b : Bank) (m : Nat) : EngM (Option (Bytes × Bytes)) := do
  let f := runXfmt c
  let n := runIn kind c b
  let need := runBytes f n
  if runXstream c then
    let s ← getS
    let have' := match findCmd s c.k with
      | some d => d.prog.inbuf
      | none => []
    let r := takeStream (streamKey s c.ctx c.basalt (runXpair c) 1) (need - have'.length) s
    let all := have' ++ r.1
    modS fun _ => modProg c.k (fun p => { p with inbuf := if all.length < need then all else [] }) r.2
    pure (if all.length < need then none else some (all, []))
  else
    let bs ← readV (body c 32 8 + m * body c 28 4) need
    let ss ← if isBlock f then readV (body c 40 8 + m * body c 52 4) (ceilDiv n 32) else pure []
    pure (some (bs, ss))

/-- R99, R100: what detects an event at the accumulator or the conversion of output i of a vector: the lowest tile of the output on
the tile path; for a strict product some vector core (log entry 121). -/
def outLane (kind : RunKind) (c : Cmd) (b : Bank) (s : State) (i : Nat) : Nat :=
  if strictRun s c then Config.freeNat s.free (500 + i) % 64
  else match kind with
    | .forward => tileAt c b 0 i
    | .transposed => tileAt c b i 0
    | .elementwise => tileAt c b (i / b.nDim) (i % b.nDim)

/-- R118: the accumulators' initial values. With ACCUM and an OUT stream they are read at Y_VA (log entry 122). -/
def initialAcc (c : Cmd) (lane : Nat → Nat) (f : Fmt) (rm : RM) (m n : Nat) : EngM (List Acc) := do
  if runAccum c then
    let y := runYfmt c
    let bs ← readV (body c 56 8 + m * body c 48 4) (runBytes y n)
    let ss ← if isBlock y then readV (body c 64 8 + m * body c 72 4) (ceilDiv n 32) else pure []
    let rs := (runValues y bs ss n).map (roundV f rm)
    noteEvsAt m (m * n) 2 lane (rs.map (·.2))
    pure (rs.map fun r => { v := decodeF f r.1 })
  else pure (List.replicate n {})

/-- Note the events of the output elements, numbered from `first`. -/
def noteAccs (m first : Nat) (as : List Acc) : EngM Unit :=
  ((List.range as.length).zip as).forM fun p => p.2.evs.forM fun e => noteEv m (first + p.1) e.1 e.2.1 e.2.2

/-- R95, R120: the events of reading the streamed vector, at the lowest output index that they reach. -/
def noteStream (m first : Nat) (tile : Nat → Nat) (xs : List (Int × List (Bool × Nat × Bool) × Option Ev × Ev)) : EngM Unit :=
  ((List.range xs.length).zip xs).forM fun p => do
    noteEv m first 1 (tile p.1) (p.2.2.2.1.getD {})
    noteEv m first 1 (tile p.1) p.2.2.2.2

/-- R122, R123: move what a command has made for a queue (pair, OUT 0 or IN 1) into it, as far as it has room; answers whether all of it
went. -/
def flushTo (c : Cmd) (pair dir : Nat) : EngM Bool := do
  let s ← getS
  let buf := match findCmd s c.k with
    | some d => d.prog.outbuf
    | none => []
  let key := streamKey s c.ctx c.basalt pair dir
  let room := streamCap s c.basalt pair - (Tbl.get [] s.streams key).length
  if buf.isEmpty then pure true
  else do
    modS fun s => modProg c.k (fun p => { p with outbuf := buf.drop room }) (pushStream key (buf.take room) s)
    pure (decide (buf.length ≤ room))

/-- R122: a run's OUT queue. -/
def flushOut (c : Cmd) : EngM Bool := flushTo c (runYpair c) 0

/-- R119, R132: convert and store output vector m: `vals` in output order, blocks along runs of `row` elements. -/
def writeOutput (c : Cmd) (lane : Nat → Nat) (src : Nat) (rm : RM) (m row : Nat) (vals : List FV) : EngM Unit := do
  let y := runYfmt c
  let first := m * vals.length
  let outs := if isBlock y then (chunks row vals).map (convRun src y rm) else [convRun src y rm vals]
  noteEvsAt m first 3 lane (outs.flatMap (·.2.2))
  let bs := outs.flatMap (·.1)
  if runYstream c then do
    modS (modProg c.k fun p => { p with outbuf := p.outbuf ++ bs })
    let _ ← flushOut c
  else
    writeV (body c 56 8 + m * body c 48 4) bs
    writeV (body c 64 8 + m * body c 72 4) (outs.flatMap (·.2.1))

/-- R101: the resident operands of a strict product, column n: exact values. Weights in FP32 or FP64 are read from the
recorded source (R112). -/
def strictCol (c : Cmd) (b : Bank) (n : Nat) : EngM (List FV) := do
  match b.strict with
  | some (va, stride) =>
    let r ← readColumn b.fmt b.kDim va stride 0 0 0 n
    pure (r.1.map maValue)
  | none =>
    let s ← getS
    pure (((residentCol s c b n).src.take b.kDim).map fun p => maValue (maElem b.fmt p.1 p.2))

/-- The columns 0 to n - 1 of a strict product. -/
def strictCols (c : Cmd) (b : Bank) : Nat → EngM (List (List FV))
  | 0 => pure []
  | n + 1 => do
    let ws ← strictCols c b n
    let w ← strictCol c b n
    pure (ws ++ [w])

/-- R101: format of a strict accumulator: binary32 for ACC32, binary64 for ACC64 and ACCW. -/
def strictFmt (acc : Nat) : Fmt := if acc = 0 then fp32 else fp64

/-- R85, R115, R120: an INT4 or INT8 input of a strict product that the cut changes reports SATURATED, at the lowest output that the
input reaches. -/
def noteCuts (kind : RunKind) (c : Cmd) (b : Bank) (m : Nat) (lane : Nat → Nat) (x : List MaElem) : EngM Unit :=
  ((List.range x.length).zip x).forM fun p =>
    let i := match kind with
      | .forward => 0
      | .transposed => 0
      | .elementwise => if runRowMode c then p.1 * b.nDim else p.1
    if p.2.sat then noteEv m (m * runOut kind b + i) 1 (lane i) evSat else pure ()

/-- R101, R121: one vector of a strict product. MA_ELEM, which has no accumulator, rounds each exact product once to the destination
(log entry 75). -/
def strictVector (kind : RunKind) (c : Cmd) (b : Bank) (m : Nat) (xs : List MaElem) : EngM Unit := do
  let mode ← getMode
  let s ← getS
  let lane := outLane kind c b s
  noteCuts kind c b m lane xs
  let x := xs.map maValue
  let rm := modeRm mode
  let ws ← strictCols c b b.nDim
  let f := strictFmt (runAcc c)
  let note := fun (rs : List (FV × List (Nat × Ev))) =>
    ((List.range rs.length).zip rs).forM fun r => r.2.2.forM fun e => noteEv m (m * rs.length + r.1) e.1 (lane r.1) e.2
  match kind with
  | .elementwise =>
    let ps := (List.range b.kDim).flatMap fun k => (List.range b.nDim).map fun n =>
      fvMul ((ws.getD n []).getD k fvZero) (x.getD (if runRowMode c then k else n) fvZero)
    noteEvsAt m (m * (b.kDim * b.nDim)) 3 lane (ps.map (·.2))
    writeOutput c lane 0xD rm m b.nDim (ps.map (·.1))
  | .forward =>
    let init ← initialAcc c lane (accFmt (runAcc c)) rm m b.nDim
    let rs := (ws.zip init).map fun p => strictSum f rm (p.1.zip x) p.2.v
    note rs
    writeOutput c lane 0xD rm m b.nDim (rs.map (·.1))
  | .transposed =>
    let init ← initialAcc c lane (accFmt (runAcc c)) rm m b.kDim
    let rs := ((List.range b.kDim).zip init).map fun p =>
      strictSum f rm ((ws.map fun w => w.getD p.1 fvZero).zip x) p.2.v
    note rs
    writeOutput c lane 0xD rm m b.kDim (rs.map (·.1))

/-- R116: one vector of MA_RUN on the tiles. -/
def forwardVector (c : Cmd) (b : Bank) (m : Nat) (xs : List MaElem) : EngM Unit := do
  let s ← getS
  let f := accFmt (runAcc c)
  let block := blocky b.fmt || blocky (runXfmt c)
  let st := alignStream (runXfmt c) 32 xs
  noteStream m (m * b.nDim) (fun g => tileAt c b (32 * g) 0) st
  let init ← initialAcc c (outLane .forward c b s) f .ne m b.nDim
  let as := ((List.range b.nDim).zip init).map fun p =>
    runColumn f block (fun g => tileAt c b (32 * g) p.1) (residentCol s c b p.1) 0 st p.2
  noteAccs m (m * b.nDim) as
  writeOutput c (outLane .forward c b s) 0xE .ne m b.nDim (as.map (Acc.value (runYfmt c)))

/-- R117: the streamed vector by tile-column: tile, event of a NaN or an infinity, columns and aligned elements. -/
def transposedTiles (s : State) (c : Cmd) (b : Bank) (xs : List MaElem) :
    List (Nat × Option Ev × List WCol × List (Bool × Nat × Int)) :=
  let nt := tileCols b.fmt
  let st := alignStream (runXfmt c) nt xs
  ((List.range st.length).zip st).map fun p =>
    let es := (xs.drop (p.1 * nt)).take nt
    (p.1, p.2.2.2.1, (List.range es.length).map fun j => residentCol s c b (p.1 * nt + j),
     (p.2.2.1.zip es).map fun q => (q.1.1, q.1.2.1, if blocky (runXfmt c) then q.2.e else p.2.1))

/-- R117: one vector of MA_RUN_T on the tiles. -/
def transposedVector (c : Cmd) (b : Bank) (m : Nat) (xs : List MaElem) : EngM Unit := do
  let s ← getS
  let f := accFmt (runAcc c)
  let block := blocky b.fmt || blocky (runXfmt c)
  noteStream m (m * b.kDim) (fun t => body c 16 2 + t) (alignStream (runXfmt c) (tileCols b.fmt) xs)
  let ts := transposedTiles s c b xs
  let init ← initialAcc c (outLane .transposed c b s) f .ne m b.kDim
  let as := ((List.range b.kDim).zip init).map fun p =>
    runRow f block p.1 (ts.map fun t => (tileAt c b p.1 (t.1 * tileCols b.fmt), t.2)) p.2
  noteAccs m (m * b.kDim) as
  writeOutput c (outLane .transposed c b s) 0xE .ne m b.kDim (as.map (Acc.value (runYfmt c)))

/-- R121: one vector of MA_ELEM on the tiles. -/
def elemVector (c : Cmd) (b : Bank) (m : Nat) (xs : List MaElem) : EngM Unit := do
  let s ← getS
  let block := blocky b.fmt || blocky (runXfmt c)
  let row := runRowMode c
  let group := if row then 1 else tileCols b.fmt
  let st := alignStream (runXfmt c) group xs
  let cols := (List.range b.nDim).map (residentCol s c b)
  let base := m * (b.kDim * b.nDim)
  let ps := (List.range b.kDim).flatMap fun k => (List.range b.nDim).map fun n =>
    let i := if row then k else n
    let g := st.getD (i / group) (0, [], none, {})
    let x := g.2.1.getD (i % group) (false, 0, false)
    let tx := if blocky (runXfmt c) then (xs.getD i {}).e else g.1
    let cut := (xs.getD i {}).sat
    let w := cols.getD n {}
    let r := elemProduct (runYfmt c) block g.2.2.1 (w.nan.getD (k / 32) false) (w.cells.getD k (false, 0)) (x.1, x.2.1)
      (w.tw.getD (k / 32) 0 + tx)
    (r.1, r.2 ++ [(1, { align := x.2.2, sat := cut, satRange := cut })], tileAt c b k n)
  ((List.range ps.length).zip ps).forM fun p => p.2.2.1.forM fun e => noteEv m (base + p.1) e.1 p.2.2.2 e.2
  writeOutput c (outLane .elementwise c b s) 0xD .ne m b.nDim (ps.map (·.1))

/-- R123: the stall counters that a waiting run feeds: its OUT queue is full, or its IN queue does not hold the next vector. -/
def stalledOn (s : State) (c : Cmd) : List Nat :=
  let op := cmdOp c
  let kind := if op = 0x22 then RunKind.forward else if op = 0x23 then .transposed else .elementwise
  let q := fun pair dir => (Tbl.get [] s.streams (streamKey s c.ctx c.basalt pair dir)).length
  if c.st ≠ .started ∨ c.preempted = true ∨ op < 0x22 ∨ 0x24 < op ∨ inReset s = true then []
  else
    let b := activeBankOf s c (body c 16 2)
    (if runYstream c && decide (streamCap s c.basalt (runYpair c) ≤ q (runYpair c) 0) then [(c.basalt * 16 + runYpair c) * 2] else [])
      ++ (if runXstream c && decide (q (runXpair c) 1 + c.prog.inbuf.length < runBytes (runXfmt c) (runIn kind c b)) then
          [(c.basalt * 16 + runXpair c) * 2 + 1] else [])

/-- R113: L, array cycles of a pass. -/
def passCycles (c : Cmd) : Nat := mantBits (runXfmt c) + guardA (runXfmt c)

/-- R107: the clusters of a run. -/
def runClusters (s : State) (c : Cmd) : List Nat :=
  let t := maTiles s c
  (List.range 16).filter fun i => decide (t.1 < 32 * (i + 1)) && decide (32 * i < t.1 + t.2)

/-- R125: the passes, at most n, that the issue credit of every cluster of a run allows now: none at f = 0. -/
def passesNow (s : State) (c : Cmd) (n : Nat) : Nat :=
  if s.pow.f.getD c.basalt 0 = 0 then 0
  else (runClusters s c).foldl (fun m i => min m (creditNow s c.basalt i / (64 * max 1 (passCycles c)))) n

/-- R121: passes that one vector takes: 512 for MA_ELEM, none on the tiles for a strict product. -/
def vectorPasses (s : State) (kind : RunKind) (c : Cmd) : Nat :=
  if strictRun s c then 0
  else match kind with
    | .forward => 1
    | .transposed => 1
    | .elementwise => 512

/-- R122: the next input vector is at hand. -/
def inputReady (kind : RunKind) (c : Cmd) (b : Bank) (s : State) : Bool :=
  let have' := match findCmd s c.k with
    | some d => d.prog.inbuf.length
    | none => 0
  !runXstream c || decide (runBytes (runXfmt c) (runIn kind c b)
    ≤ have' + (Tbl.get [] s.streams (streamKey s c.ctx c.basalt (runXpair c) 1)).length)

/-- R122, R123: the OUT stream has taken what the run made before and is not full. -/
def outputReady (c : Cmd) : EngM Bool := do
  if runYstream c then do
    let went ← flushOut c
    let s ← getS
    pure (went && decide ((Tbl.get [] s.streams (streamKey s c.ctx c.basalt (runYpair c) 0)).length < streamCap s c.basalt (runYpair c)))
  else pure true

/-- R116, R117, R121: the products of one input vector, and its output. -/
def vectorOut (kind : RunKind) (c : Cmd) (b : Bank) (m : Nat) (xs : List MaElem) : EngM Unit := do
  let s ← getS
  if strictRun s c then strictVector kind c b m xs
  else match kind with
    | .forward => forwardVector c b m xs
    | .transposed => transposedVector c b m xs
    | .elementwise => elemVector c b m xs
  modS (modProg c.k fun p => { p with next := m + 1, segment := 0 })

/-- R113, R123, R125: one input vector: false while the run waits for its IN stream, for room in its OUT stream, or for issue credit.
Its passes take their credit; those that MA_ELEM has done of a vector stay done. -/
def runVector (kind : RunKind) (c : Cmd) (b : Bank) (m : Nat) : EngM Bool := do
  let room ← outputReady c
  let s ← getS
  if !room then pure false
  else if !inputReady kind c b s then do
    let _ ← readInput kind c b m
    pure false
  else
    let had := match findCmd s c.k with
      | some d => d.prog.segment
      | none => 0
    let left := vectorPasses s kind c - had
    let n := passesNow s c left
    modS fun s => modProg c.k (fun p => { p with segment := had + n })
      ((runClusters s c).foldl (fun s i => takeCredit c.basalt i (n * passCycles c) s) s)
    if n < left then pure false
    else
      let x ← readInput kind c b m
      match x with
      | none => pure false
      | some x =>
        vectorOut kind c b m (maRun (runXfmt c) x.1 x.2 (runIn kind c b))
        pure true

/-- R98, R113: the vectors from m on, at most n of them, until the run waits or traps. -/
def runVectors (kind : RunKind) (c : Cmd) (b : Bank) : Nat → Nat → EngM Unit
  | _, 0 => pure ()
  | m, n + 1 => do
    let e ← get
    match e.trap with
    | some _ => pure ()
    | none =>
      let go ← runVector kind c b m
      if go then runVectors kind c b (m + 1) n else pure ()

/-- R134: at most n further vectors of a run; it ends with the last one. -/
def runWork (kind : RunKind) (c : Cmd) (b : Bank) (n : Nat) : EngM (Option (Option W64 × Option Nat)) := do
  let total := body c 24 4
  runVectors kind c b c.prog.next (min n (total - c.prog.next))
  let out ← if runYstream c then flushOut c else pure true
  let s ← getS
  let next := match findCmd s c.k with
    | some d => d.prog.next
    | none => 0
  let unit := match kind with
    | .forward => 1
    | .transposed => 1
    | .elementwise => 512
  pure (if total ≤ next ∧ out = true then some (some (BitVec.ofNat 64 (unit * total)), none) else none)

/-- R106, R122: the checks of a run, then its work. -/
def runStart (kind : RunKind) (n : Nat) (c : Cmd) (s : State) : State :=
  match checkTiles s c with
  | .fault t => faultCmd c.k stTranslation (tileInfo t) s
  | .lost => abortCmd c.k stResetAborted s
  | .mixed => unpredictable c s
  | .good b =>
    if runXstream c && !ownsPair s c.ctx c.basalt (runXpair c) then faultCmd c.k stTranslation (pairInfo (runXpair c)) s
    else if runYstream c && !ownsPair s c.ctx c.basalt (runYpair c) then faultCmd c.k stTranslation (pairInfo (runYpair c)) s
    else runWatched c false (runWork kind c b n) s

/-- R132, R133: bytes that the body of a run assigns. -/
def runUsed (kind : RunKind) : List (Nat × Nat) :=
  match kind with
  | .elementwise => [(16, 7), (24, 52)]
  | .forward => [(16, 6), (24, 52)]
  | .transposed => [(16, 6), (24, 52)]

/-- All passes of a run that are left, while operands, room and issue credit last (R125). -/
def runAll (kind : RunKind) (k op : Nat) (s : State) : State :=
  runOpE k op runExt (runUsed kind) (runLegal kind)
    (fun c s => runStart kind (body c 24 4) c s) s

/-- MA_RUN (R101, R113, R116). -/
def execMaRun (k : Nat) (s : State) : Host.Outcome State Fault Refusal := .next (runAll .forward k 0x22 s)

/-- MA_RUN_T (R101, R113, R117). -/
def execMaRunT (k : Nat) (s : State) : Host.Outcome State Fault Refusal := .next (runAll .transposed k 0x23 s)

/-- MA_ELEM (R101, R121). -/
def execMaElem (k : Nat) (s : State) : Host.Outcome State Fault Refusal := .next (runAll .elementwise k 0x24 s)

/-- R113, R125: one pass of a run on the tiles. -/
def onePass (kind : RunKind) (k op : Nat) (s : State) : State :=
  runOpE k op runExt (runUsed kind) (runLegal kind) (fun c s => if strictRun s c then s else runStart kind 1 c s) s

/-- TILE_PASS (R113, R116, R117, R125): one pass of an MA_RUN or MA_RUN_T. -/
def execTilePass (k : Nat) (s : State) : Host.Outcome State Fault Refusal :=
  .next (match findCmd s k with
    | none => s
    | some c =>
      if cmdOp c = 0x22 then onePass .forward k 0x22 s
      else if cmdOp c = 0x23 then onePass .transposed k 0x23 s
      else s)

end Sys2Proof.Machine
end

