-- ==== Sys2Proof/Machine/Clock.lean ====
section
/-!
DEFINITION. The passing of time: ph by ph counters (R26, R178, R387, R402), the rate of the time base (R31), the frame
boundary and what takes effect there (R23, R28, R29, R30, R40, R301, R324, R356, R420).
-/
namespace Sys2Proof.Machine

/-- The time base runs: the module has reached full operation (R42, R340). -/
def tbRuns (s : State) : Bool :=
  s.sup.in40 && match s.mb with
  | .ready | .computeReset | .handover => true
  | .booting | .mailbox | .calibrating | .failed => false

/-- R178: a wait of the context that names the counter is unsatisfied. -/
def waitsOn (s : State) (ctx ctr : Nat) : Bool :=
  s.cmds.any fun c => c.ctx == ctx &&
    ((decide (c.st = .started) && cmdOp c == 2 && body c 16 2 == ctr && decide ((ctrGet s ctr).toNat < body c 24 8)) ||
     (decide (c.st = .fetched) && cmdWaitEn c && cmdWaitCtr c == ctr && decide ((headCmd s c.q).map (·.k) = some c.k)
       && !headerWaitOk s c))

/-- R31: extra time, in the model's unit, that n ph take beyond their nominal length: half rate removes a late tick's error,
and the trim spreads over the frame. -/
def extraTime (t : TimeBase) (n : Nat) : Int :=
  let half : Nat := min t.slowU (n * t.period.toNat)
  (half : Int) + (t.trimU * ((t.phase.toNat + n : Nat) : Int) / 65536 - t.trimU * (t.phase.toNat : Int) / 65536)

/-- R379: the module is idle. -/
def idleNow (s : State) : Bool :=
  let s' := { s with pow := { s.pow with pst := .active } }
  !(s.cmds.any fun c => decide (c.st = .started) || (decide (c.st = .fetched) && ready s' c))
    && !(s.queues.any fun q => decide (q.2.head ≠ q.2.tail)) && !(s.feeds.any fun f => f.2.bound)
    && !(s.fns.any fun f => f.2.latched.isSome || f.2.busy)

/-- R378, R379: since when the module has been idle in ACTIVE; elsewhere the time of entry into the power state stays. -/
def trackIdle (s : State) : Option Nat :=
  if s.pow.pst = .active then (if idleNow s then some (s.pow.idleU.getD s.tb.nowU) else none) else s.pow.idleU

/-- R123: the stall counters after the clock has gone on to a time. -/
def countStalls (s : State) (now : Nat) : Tbl W64 :=
  let d := arrayCycles now - arrayCycles s.tb.nowU
  ((s.cmds.flatMap (stalledOn s)).eraseDups).foldl (fun t i => Tbl.put 0 t i (Tbl.get 0 t i + BitVec.ofNat 64 d)) s.stalls

/-- R26, R33: the ph of each hint's hold after the frame time has gone from one value to another. -/
def holdHints (old new : Nat) (hs : List Hint) : List Hint :=
  hs.map fun h => { h with heldPh := h.heldPh + (new - max old h.target.toNat) }

/-- The counters and the clock after n ph within the present frame, the phase apart. -/
def passTime (n : Nat) (s : State) : State :=
  let t := s.tb
  let dt := ((n * t.period.toNat : Nat) : Int) + extraTime t n
  let now := t.nowU + dt.toNat
  let tb := { t with nowU := now, slowU := t.slowU - n * t.period.toNat }
  let out := if s.sup.frameOut = .high ∧ s.sup.frameOutU + usU ≤ now then .low else s.sup.frameOut
  { s with
    tb := tb
    sup := { s.sup with frameOut := out }
    cmds := s.cmds.map fun c => if watched s c then { c with wdog := c.wdog + n } else c
    ends := s.ends.map fun e =>
      if waitsOn s e.2.ctx e.2.ownCtr then (e.1, { e.2 with waitPh := e.2.waitPh + BitVec.ofNat 64 n }) else e
    ctxs := s.ctxs.map fun c => if c.2.st = .draining then (c.1, { c.2 with drainPh := c.2.drainPh + n }) else c
    nodes := s.nodes.map fun x => { x with idlePh := x.idlePh + n }
    stalls := countStalls s now
    pow := { s.pow with
      idleU := trackIdle s
      hints := if t.phase.toNat + n < 0x10000 then holdHints s.ftw.toNat (s.ftw.toNat + n) s.pow.hints else s.pow.hints } }

/-- Let n ph pass within the present frame (phase + n at most 0xFFFF). -/
def elapse (n : Nat) (s : State) : State :=
  let s := passTime n s
  { s with tb := { s.tb with phase := s.tb.phase + BitVec.ofNat 16 n } }

/-- R318: where a packet that this module injects is first routed: to its waypoint, or to its destination. -/
def firstTarget (s : State) (dst : BitVec 12) : BitVec 12 :=
  match (if dst == s.id.addr then none else raMatch s dst) with
  | none => dst
  | some e => if e.waypoint == s.id.addr then dst else e.waypoint

/-- R324, R325: send one TICK with the present frame to a module; the sender adds the first link's delay. -/
def sendTick (s0 : State) (dst : BitVec 12) (s : State) : State :=
  let corr := match routePort s.id s.id.addr (firstTarget s dst) with
    | some port => (getPort s port).delayPs.toNat
    | none => 0
  let pl := leBytes 8 (s0.tb.frame.toNat * 65536) ++ leBytes 8 corr
  sendPacket (mkPacket s ptTick (dst.setWidth 16) 0 0 0 0 pl) s

/-- R324: a system manager ticks the pod managers, a pod manager its pod; a pod manager does so in every time-base state other
than ACQUIRING. -/
def sendTicks (s : State) : State :=
  let ms := s.fab.members.filter fun m => !m.lost && decide (m.addr ≠ s.id.addr)
  let pod := ms.filter fun m => decide (podOf s.id m.addr = podOf s.id s.id.addr)
  let mgrs := ms.filter fun m => decide (podOf s.id m.addr ≠ podOf s.id s.id.addr) && m.role == 1
  match s.id.role with
  | .worker => s
  | .podManager => if s.tb.st = .acquiring then s else pod.foldl (fun t m => sendTick s m.addr t) s
  | .systemManager => (pod ++ mgrs).foldl (fun t m => sendTick s m.addr t) s

/-- R29: a written change of SOURCE takes effect. -/
def switchSource (t : TimeBase) : TimeBase :=
  if t.sourceField = t.source then t
  else { t with source := t.sourceField, st := if t.sourceField = 0 then .free else .acquiring, backward := false,
                needAcq := decide (t.sourceField ≠ 0), hasTick := false, inSlew := 0, rejTimes := [], slowU := 0, trimU := 0,
                jumps := [], hopDelayNs := 0 }

/-- R40: an armed period change takes effect at the boundary that starts frame f. -/
def changePeriod (f : BitVec 48) (t : TimeBase) : TimeBase :=
  if t.arm ∧ t.atFrame ≤ f then { t with period := t.periodSet, arm := false } else t

/-- R28, R420: FRAME_OUT rises at phase 0 when enabled. -/
def riseOut (s : State) : State :=
  if s.tb.frameOutEn ∧ s.sup.in40 then { s with sup := { s.sup with frameOut := .high, frameOutU := s.tb.nowU } } else s

/-- R356: at the named boundary every engine switches its microcode for commands that start from then on; the commands that run
go on under the old one. -/
def switchMicrocode (s : State) : State :=
  match s.activating with
  | some (ch, tag, f, sw) => if !sw && s.reached f then
      { s with
        activating := some (ch, tag, f, true)
        cmds := s.cmds.map fun c => if c.st = .fetched then c else { c with oldUcode := true } }
    else s
  | none => s

/-- R33: the range of times that a forward step from one time to another skips; a step of 1 ph skips none. -/
def noteSkip (old : W64) (t : TimeBase) : TimeBase :=
  let new : W64 := t.frame ++ t.phase
  if old.toNat + 1 < new.toNat then { t with skipFrom := old, skipTo := new } else t

/-- The frame boundary that starts frame f (R23): period, source, feeds, microcode, FRAME_OUT and ticks. -/
def boundaryTo (f : BitVec 48) (s : State) : State :=
  let t := { s.tb with frame := f, phase := 0, trimU := if s.tb.lastTickFrame = f then s.tb.trimU else 0 }
  let t := switchSource (changePeriod f (noteSkip s.ftw t))
  let p := { s.pow with hints := holdHints s.ftw.toNat (f.toNat * 65536) s.pow.hints }
  sendTicks (riseOut (switchMicrocode (bindFeeds { s with tb := t, pow := p })))

/-- R30: the frame that the next boundary starts. -/
def nextFrame (t : TimeBase) : BitVec 48 :=
  match t.jumps.find? fun j => j.1 == t.frame with
  | some j => j.2
  | none => t.frame + 1

/-- The next local frame boundary (R23). A frame that a tick with a higher number started is followed by frame N + 1 (R30). -/
def boundary (s : State) : State :=
  boundaryTo (nextFrame s.tb) { s with tb := { s.tb with jumps := s.tb.jumps.filter fun j => decide (j.1 ≠ s.tb.frame) } }

/-- Let one ph pass (R23). Where the time base does not run, the same time passes for the start-up timers alone. -/
def onePh (s : State) : State :=
  if tbRuns s then
    if s.tb.phase = 0xFFFF then boundary (passTime 1 s)
    else elapse 1 s
  else { s with tb := { s.tb with nowU := s.tb.nowU + s.tb.period.toNat } }

/-- FRAME_BOUNDARY (R23): the rest of the frame passes, and the next frame starts. -/
def toBoundary (s : State) : State :=
  if tbRuns s then onePh (elapse (0xFFFF - s.tb.phase.toNat) s) else onePh s

end Sys2Proof.Machine
end

