-- ==== Sys2Proof/Machine/TimeBase.lean ====
section
/-!
DEFINITION. Commands of the family "frame time": the frame boundary, the time-base registers' writes (R29, R39, R40), ticks
and FRAME_IN edges (R30-R34, R38, R41, R325, R419), holdover (R37, R38) and the hop delay measurement (R35).
-/
namespace Sys2Proof.Machine

/-- FRAME_BOUNDARY (R23, R28, R29, R40). -/
def execFrameBoundary (s : State) : Host.Outcome State Fault Refusal := .next (toBoundary s)

/-- R338: the PF may write the FL0 register block while the host reaches it. -/
def pfWrites (s : State) (fn : Nat) : Bool := !s.sup.perst && decide (fn = 0) && tbRuns s

/-- TB_CTRL_WRITE (R6, R28, R29, R338, R420). -/
def execTbCtrlWrite (fn : Nat) (v : W64) (s : State) : Host.Outcome State Fault Refusal :=
  let src := v.extractLsb' 0 2
  let en := v.getLsbD 4
  .next (if pfWrites s fn then
      { s with
        tb := { s.tb with frameOutEn := en, sourceField := if src = 3 then s.tb.sourceField else src }
        sup := { s.sup with frameOut := if en then s.sup.frameOut else .low } }
    else s)

/-- R39: the range of a frame period, in ps. -/
def periodOk (p : BitVec 41) : Bool := decide (40000000 ≤ p.toNat) && decide (p.toNat ≤ 2000000000000)

/-- TB_PERIOD_SET_WRITE (R39). -/
def execTbPeriodSetWrite (fn : Nat) (v : W64) (s : State) : Host.Outcome State Fault Refusal :=
  let p := v.extractLsb' 0 41
  .next (if pfWrites s fn then
      { s with tb := if periodOk p then { s.tb with periodSet := p } else { s.tb with periodErr := true } }
    else s)

/-- R40: arm, arm again or cancel a period change. -/
def armPeriod (arm : Bool) (f : BitVec 48) (s : State) : State := { s with tb := { s.tb with arm := arm, atFrame := f } }

/-- TB_PERIOD_AT_WRITE (R40). -/
def execTbPeriodAtWrite (fn : Nat) (v : W64) (s : State) : Host.Outcome State Fault Refusal :=
  .next (if pfWrites s fn then armPeriod (v.getLsbD 63) (v.extractLsb' 0 48) s else s)

/-! ### Ticks -/

/-- A host context exists (R30). -/
def hostCtxExists (s : State) : Bool := s.ctxs.any fun c => decide (c.1 ≠ 0) && decide (c.2.st ≠ .free)

/-- R30, R34, R408: the TIME_BASE log entry. -/
def logTimeBase (kind : Nat) (before after : W64) (s : State) : State :=
  logEntry 0x000E 0 (leBytes 1 kind ++ leBytes 7 0 ++ leBytes 8 before.toNat ++ leBytes 8 after.toNat) s

/-- R38, R326, R353: tell the pod manager, or a pod manager the system manager, of tick loss (KIND 0) or of BACKWARD (KIND 1). -/
def reportTickLost (kind : Nat) (s : State) : State :=
  if s.fab.confirmed then mgmtSend (joinedTo s) 0x0B (leBytes 8 s.ftw.toNat ++ leBytes 1 kind ++ leBytes 7 0) s else s

/-- R31: nominal time since the last local boundary, less a correction, in the model's unit. -/
def sinceBoundary (t : TimeBase) (corrPs : Nat) : Int := ((t.phase.toNat * t.period.toNat : Nat) : Int) - ((corrPs * 65536 : Nat) : Int)

/-- R31: frame length in the model's unit. -/
def frameU (t : TimeBase) : Int := ((65536 * t.period.toNat : Nat) : Int)

/-- R31: the tick error and whether the predicted boundary is the one ahead. -/
def tickError (t : TimeBase) (corrPs : Nat) : Int × Bool :=
  let e := sinceBoundary t corrPs
  if frameU t ≤ 2 * e then (e - frameU t, true) else (e, false)

/-- R31: within a number of ph. -/
def withinPh (t : TimeBase) (e : Int) (n : Nat) : Bool := decide (e.natAbs ≤ n * t.period.toNat)

/-- R329: a confirmed module whose time base reaches LOCKED is JOINED. -/
def noteJoined (s : State) : State :=
  if s.fab.confirmed ∧ s.tb.st = .locked ∧ s.tb.backward = false then { s with fab := { s.fab with joined := true } } else s

/-- R42: the counts and readings of an accepted tick of error e (in the model's unit); LAST_ERR_PS holds its low 32 bits (log
entry 112). -/
def countAccepted (e : Int) (delayNs : Nat) (s : State) : State :=
  { s with tb := { s.tb with accepted := s.tb.accepted + 1, lastErrPs := BitVec.ofInt 32 (e / 65536),
                             hopDelayNs := if s.tb.source = 2 then BitVec.ofNat 16 delayNs else 0,
                             hasTick := true, rejTimes := [] } }

/-- R29, R38: the state after a tick accepted under R31. -/
def acceptState (slew : Bool) (t : TimeBase) : TimeBase :=
  let n := if slew then (if t.st = .holdover then 1 else min 2 (t.inSlew + 1)) else 0
  let st := match t.st with
    | .holdover => TbState.acquiring
    | .acquiring => if n = 2 then .locked else .acquiring
    | .locked => .locked
    | .free => .free
  { t with st := st, inSlew := n }

/-- R30, R31: the frame whose start a tick is compared with. -/
def predicted (t : TimeBase) (ahead : Bool) : BitVec 48 := if ahead then nextFrame t else t.frame

/-- R31, R32: a forward step of n ph within the present frame, for a tick whose correction places it before the boundary that
started the frame (log entry 110). -/
def stepWithin (n : Nat) (s : State) : State :=
  let n := min n (0xFFFF - s.tb.phase.toNat)
  { s with
    tb := noteSkip s.ftw { s.tb with phase := s.tb.phase + BitVec.ofNat 16 n }
    pow := { s.pow with hints := holdHints s.ftw.toNat (s.ftw.toNat + n) s.pow.hints } }

/-- R31: what an accepted tick does to the phase: trim, half rate, or a forward step. -/
def discipline (e : Int) (ahead : Bool) (s : State) : State :=
  let t := { s.tb with lastTickFrame := predicted s.tb ahead }
  if withinPh t e 0x10 then { s with tb := { t with trimU := e } }
  else if 0 < e then { s with tb := { t with slowU := e.toNat } }
  else if ahead then boundary { s with tb := t }
  else stepWithin (e.natAbs / max 1 t.period.toNat) { s with tb := t }

/-- R31: a tick accepted under R31. -/
def acceptTick (e : Int) (ahead : Bool) (delayNs : Nat) (s : State) : State :=
  let s := countAccepted e delayNs s
  let slew := withinPh s.tb e 0x10
  noteJoined (discipline e ahead { s with tb := acceptState slew s.tb })

/-- R41: ticks at equal intervals: three intervals in range that differ by at most 0.01% of the first plus 100 ns. Times are
newest first. -/
def equalIntervals : List Nat → Option Nat
  | [d, c, b, a] =>
    let i1 := b - a
    let i2 := c - b
    let i3 := d - c
    let lo := min i1 (min i2 i3)
    let hi := max i1 (max i2 i3)
    if 40 * usU ≤ lo ∧ hi ≤ 2 * secU ∧ (hi - lo) * 10000 ≤ i1 + 10000 * 100 * nsU then some ((2 * (d - a) + 3 * 65536) / (6 * 65536))
    else none
  | _ => none

/-- R34: the interval between two arrival times agrees with the period in force. -/
def agrees (t : TimeBase) (d c : Nat) : Bool := withinPh t (((d : Int) - c) - frameU t) 0x10

/-- R41: some interval between consecutive rejected ticks matches the period in force, which leaves them to R34. -/
def someAgree (t : TimeBase) : List Nat → Bool
  | d :: c :: r => agrees t d c || someAgree t (c :: r)
  | _ => false

/-- R31, R34, R41: a rejected tick that arrived at a time. The four ticks of R41 are rejected ones, with no accepted tick
between them (log entry 111). -/
def rejectTick (at' : Nat) (s : State) : State :=
  let t := { s.tb with rejected := satAdd s.tb.rejected 1, rejTimes := (at' :: s.tb.rejTimes).take 4, inSlew := 0 }
  let two : Bool := match t.rejTimes with
    | d :: c :: _ => agrees t d c
    | _ => false
  if two ∧ (t.st = .locked ∨ t.st = .holdover) then
    { s with tb := { t with st := .acquiring, needAcq := true, rejTimes := [] } }
  else if someAgree t t.rejTimes then { s with tb := t }
  else
    match equalIntervals t.rejTimes with
    | some p => { s with tb := { t with period := BitVec.ofNat 41 p, st := .acquiring, needAcq := true, hasTick := false,
                                        rejTimes := [] } }
    | none => { s with tb := t }

/-- R30: waits of context 0 are ended before a re-base; of the two ends that the rule allows, completed or abandoned, they are
completed (log entry 113). -/
def endFirmwareWaits (s : State) : State :=
  let ks := (s.cmds.filter fun c => c.ctx == 0 && decide (c.st = .started) && (cmdOp c == 2 || cmdOp c == 4)).map (·.k)
  ks.foldl (fun s k => finishCmd k none none s) s

/-- R30: the frame time becomes N:0x0000 at the arrival of the tick. -/
def reBase (n : BitVec 48) (s : State) : State :=
  let before := s.ftw
  let s := endFirmwareWaits { s with pow := { s.pow with frameAlarm := none } }
  let s := boundaryTo n { s with tb := { s.tb with
    backward := false, jumps := [], st := .acquiring, needAcq := false, hasTick := true, inSlew := 0, lastTickFrame := n,
    slowU := 0, trimU := 0 } }
  logTimeBase 2 before s.ftw s

/-- R30: an accepted tick, for the start of frame p, whose frame number lies below the local one while a host context exists: it
is counted, its number is not adopted, and the time base goes on by its own count in ACQUIRING. -/
def setBackward (p : BitVec 48) (s : State) : State :=
  let was := s.tb.backward
  let s := { s with tb := { s.tb with
    backward := true, st := .acquiring, needAcq := false, hasTick := true, inSlew := 0, lastTickFrame := p } }
  if was then s else reportTickLost 1 (logTimeBase 1 s.ftw s.ftw s)

/-- R30: an accepted tick makes a re-base: its number lies below the predicted one, or BACKWARD is set, and no host context
exists. -/
def reBases (n p : BitVec 48) (s : State) : Bool := (decide (n < p) || s.tb.backward) && !hostCtxExists s

/-- R34: the acquisition tick; n is the frame number that a fabric tick carries. Its tick error is taken from the boundary that
started the present frame (log entry 112). -/
def acquire (e : Int) (n : Option (BitVec 48)) (delayNs : Nat) (s : State) : State :=
  let before := s.ftw
  let s := countAccepted e delayNs s
  let aligned := fun (f : BitVec 48) =>
    { s with tb := { s.tb with needAcq := false, inSlew := 0, lastTickFrame := f, jumps := [] } }
  let logged := fun (s : State) => logTimeBase 0 before s.ftw s
  match n with
  | none => let f := nextFrame s.tb; logged (boundaryTo f (aligned f))
  | some n =>
    if reBases n s.tb.frame s then reBase n s
    else if s.tb.frame < n then logged (boundaryTo n (aligned n))
    else if n = s.tb.frame then
      let s := aligned n
      logged { s with tb := { s.tb with slowU := e.toNat } }
    else setBackward s.tb.frame s

/-- R31, R30: a tick judged against the predicted boundary. -/
def judgeTick (corrPs : Nat) (n : Option (BitVec 48)) (delayNs : Nat) (s : State) : State :=
  let t := s.tb
  if t.needAcq then acquire (sinceBoundary t corrPs) n delayNs s
  else
    let r := tickError t corrPs
    if !withinPh t r.1 0x400 then rejectTick (t.nowU - corrPs * 65536) s
    else
      let p := predicted t r.2
      match n with
      | none => acceptTick r.1 r.2 delayNs s
      | some n =>
        if reBases n p s then reBase n (countAccepted r.1 delayNs s)
        else if n = p then acceptTick r.1 r.2 delayNs s
        else if p < n then
          acceptTick r.1 r.2 delayNs { s with tb := { t with jumps := (p, n + 1) :: t.jumps.filter fun j => decide (j.1 ≠ p) } }
        else setBackward p (countAccepted r.1 delayNs s)

/-- R42: delay of the last hop in ns. -/
def hopNs (s : State) (port : Nat) : Nat := ((getPort s port).delayPs.toNat + 500) / 1000

/-- TICK (R30-R34, R324, R325). -/
def execTick (port : Nat) (p : Packet) (s : State) : Host.Outcome State Fault Refusal :=
  .next (arrive port ptTick p (fun s =>
    if !tbRuns s then s
    else if s.fab.confirmed = false ∨ s.tb.tickParent ≠ some (dstAddr p.src) then
      { s with tb := { s.tb with rejected := satAdd s.tb.rejected 1 } }
    else if s.tb.source ≠ 2 then s
    else judgeTick (field p.payload 8 8) (some (BitVec.ofNat 48 (field p.payload 0 8 / 65536))) (hopNs s port) s) s)

/-- FRAME_IN (R27, R34, R419): a pulse shorter than 10 ns is ignored; one of 10 to 20 ns breaks the installation's obligation,
and a free bit decides whether it is taken (R8). -/
def execFrameIn (highNs : Nat) (s : State) : Host.Outcome State Fault Refusal :=
  .next (if !tbRuns s || s.tb.source ≠ 1 || decide (highNs < 10) then s
    else if highNs < 20 then
      let take := Config.freeBit s.free 0
      let s := { s with free := s.free + 1 }
      if take then judgeTick 0 none 0 s else s
    else judgeTick 0 none 0 s)

/-- R37: the rule applies: LOCKED, or ACQUIRING after a tick of the current source. -/
def expectsTick (t : TimeBase) : Bool :=
  match t.st with
  | .locked => true
  | .acquiring => t.hasTick && !t.needAcq
  | .free | .holdover => false

/-- HOLDOVER_ENTRY (R37, R38, R401): no tick for the boundary that started this frame was accepted by 0x0400 ph past it. -/
def execHoldoverEntry (s : State) : Host.Outcome State Fault Refusal :=
  .next (if tbRuns s ∧ expectsTick s.tb = true ∧ 0x0400 ≤ s.tb.phase ∧ s.tb.lastTickFrame < s.tb.frame then
      let s := { s with tb := { s.tb with st := .holdover, tickLost := true, holdovers := satAdd s.tb.holdovers 1, inSlew := 0,
                                          holdU := s.tb.nowU, holdFtw := s.ftw } }
      let s := logEntry 0x0005 0 (leBytes 8 s.ftw.toNat) s
      let s := postAll 0x8013 0 (leBytes 1 0xFF ++ leBytes 3 0 ++ leBytes 2 s.id.addr.toNat ++ leBytes 2 0 ++ leBytes 8 s.ftw.toNat) s
      reportTickLost 0 s
    else s)

/-- R35: send a PROBE on a torus link. -/
def probeLink (port : Nat) (s : State) : State :=
  if 6 ≤ port ∨ portUp (getPort s port) = false then s
  else
    let s := modPort port (fun q => { q with probeU := some s.tb.nowU }) s
    sendOn port (mkPacket s ptProbe ((neighbourAt s.id s.id.addr port).setWidth 16) 0 0 0 0 []) s

/-- HOP_DELAY_MEASURE (R35). -/
def execHopDelayMeasure (port : Nat) (s : State) : Host.Outcome State Fault Refusal := .next (probeLink port s)

end Sys2Proof.Machine
end

