-- ==== Sys2Proof/Machine/Fabric.lean ====
section
/-!
DEFINITION. The fabric: requests and responses (R310, R311, R393), forwarded adds (R176, R394), link-local probes (R35),
forwarding (R314, R316, R318, R319, R325), link replay (R308), lane retunes (R307) and link state (R319, R329).
-/
namespace Sys2Proof.Machine

/-! ### Requests from other modules and edge equipment (R310, R311, R321) -/

/-- R311, R402: why a request to a context is refused before any page is looked at. -/
def refuseCtx (s : State) (ctx : Nat) : Option Nat :=
  if inReset s then some stFenced
  else match (getCtx s ctx).st with
    | .free => some stCtxGone
    | .draining => some stCtxGone
    | .active => none
    | .error => none

/-- R311: answer a request with NACK, and count it. A prefetch read changes nothing of the context that it names (R189, R313). -/
def refuse (p : Packet) (status : Nat) (s : State) : State :=
  let ctx := p.dstCtx.toNat
  let s := if p.ptype.toNat = ptReadReq ∧ packetPf p = true then s
    else if status = stTranslation then modCtx ctx (fun c => { c with remoteRefused := c.remoteRefused + 1 }) s
    else if status = stCtxGone then { s with fab := { s.fab with reqDropped := s.fab.reqDropped + 1 } }
    else s
  nack p status s

/-- R310: the local target of n bytes at a virtual address of a context, page by page (fuel: pages), when every page carries the
MAP attribute: REMOTE_RW for a write, either attribute for a read. -/
def remoteTargets (s : State) (ctx : Nat) (write : Bool) : Nat → Nat → Nat → Option (List (Nat × Nat))
  | 0, _, _ => some []
  | fuel + 1, va, n =>
    if n = 0 then some [] else
    match findMap s ctx va with
    | none => none
    | some m =>
      if m.remote || (if write then m.access != 2 || !m.writable else m.access == 0) then none
      else
        let k := pageRun m va n
        (remoteTargets s ctx write fuel (va + k) (n - k)).map fun r => (mapTarget m va, k) :: r

/-- Store bytes over a list of targets. -/
def storeRuns : List (Nat × Nat) → Bytes → State → State
  | [], _, s => s
  | t :: ts, bs, s => storeRuns ts (bs.drop t.2) (store t.1 (bs.take t.2) s)

/-- Read a list of targets for a context, counting the reads as another unit's (R292). -/
def readRuns (ctx : Nat) : List (Nat × Nat) → State → Bytes × State
  | [], s => ([], s)
  | t :: ts, s =>
    let bs := peek s t.1 t.2
    let r := countReads false {} t.1 t.2 s
    let q := readRuns ctx ts (persistRead none ctx t.1 t.2 r.1)
    (bs ++ q.1, q.2)

/-- R311: a WRITE for this module. -/
def takeWrite (p : Packet) (s : State) : State :=
  match refuseCtx s p.dstCtx.toNat with
  | some st => refuse p st s
  | none =>
    match remoteTargets s p.dstCtx.toNat true 3 p.addr.toNat p.payload.length with
    | none => refuse p stTranslation s
    | some ts => respond p ptAck [] (storeRuns ts p.payload (touchStacks s))

/-- WRITE (R310, R311). -/
def execPktWrite (port : Nat) (p : Packet) (s : State) : Host.Outcome State Fault Refusal :=
  .next (arrive port ptWrite p (takeWrite p) s)

/-- R311, R313: a READ_REQ for this module; a prefetch read leaves counts and caches alone. A length outside 1-4,096 is refused. -/
def takeRead (p : Packet) (s : State) : State :=
  let n := field p.payload 0 4
  match refuseCtx s p.dstCtx.toNat with
  | some st => refuse p st s
  | none =>
    if n = 0 ∨ 4096 < n then refuse p stTranslation s
    else
      match remoteTargets s p.dstCtx.toNat false 3 p.addr.toNat n with
      | none => refuse p stTranslation s
      | some ts =>
        let s := touchStacks s
        if packetPf p then respond p ptReadResp (ts.flatMap fun t => peek s t.1 t.2) s
        else
          let r := readRuns p.dstCtx.toNat ts s
          respond p ptReadResp r.1 r.2

/-- READ_REQ (R311, R313). -/
def execReadReq (port : Nat) (p : Packet) (s : State) : Host.Outcome State Fault Refusal :=
  .next (arrive port ptReadReq p (takeRead p) s)

/-! ### Responses (R311, R317) -/

/-- The request that a response answers. -/
def findReq (s : State) (p : Packet) : Option OutReq :=
  s.fab.reqs.find? fun r => r.txn == p.txn && dstAddr r.dst == dstAddr p.src

/-- R317: a request is answered: later packets that wait for a change of route may go. -/
def dropReq (txn : BitVec 32) (s : State) : State :=
  releaseHolds { s with fab := { s.fab with reqs := s.fab.reqs.filter fun r => r.txn != txn } }

/-- R311: drop a response and count it. -/
def dropResponse (s : State) : State := { s with fab := { s.fab with respDropped := s.fab.respDropped + 1 } }

/-- R311, R393: a response is acted on when its request waits and its source context is ACTIVE; else it is dropped and counted. The
end that sent a forwarded add still sees it, and goes on (R176, log entry 12). -/
def onResponse (p : Packet) (f : OutReq → State → State) (s : State) : State :=
  match findReq s p with
  | none => dropResponse s
  | some r =>
    let s := dropReq r.txn s
    if r.dropped then dropResponse s
    else if (getCtx s r.ctx).st = .active then f r s
    else
      let s := dropResponse s
      if r.ptype = 6 then f r s else s

/-- R311: the bytes of a read, or a prefetched line (R187, R300). -/
def takeResp (p : Packet) (r : OutReq) (s : State) : State :=
  if r.ptype ≠ 2 then s
  else if r.pf then
    let x := fillLine true { mica := true, ctx := r.ctx, gen := r.gen, line := r.addr / 128, remote := true, dst := r.dst, rctx := r.rctx,
                             data := p.payload } s
    match r.k with
    | some k => pfFinish k (pfCount k x)
    | none => x.2
  else
    { s with fab := { s.fab with rdata := s.fab.rdata ++
        ((List.range (min r.len p.payload.length)).zip p.payload).map fun b => (r.owner, r.va + b.1, b.2) } }

/-- READ_RESP (R311). -/
def execReadResp (port : Nat) (p : Packet) (s : State) : Host.Outcome State Fault Refusal :=
  .next (arrive port ptReadResp p (onResponse p (takeResp p)) s)

/-- The end whose oldest unacknowledged add has a transaction number. -/
def endOfTxn (s : State) (txn : BitVec 32) : Option (Nat × StageEnd) :=
  s.ends.find? fun e => match e.2.unacked with
    | a :: _ => a.1 == txn
    | [] => false

/-- R176: send the oldest add of an end, with a new transaction number. -/
def sendHead (e : Nat) (s : State) : State :=
  match findEnd s e with
  | none => s
  | some x =>
    match x.unacked with
    | [] => s
    | a :: l =>
      if x.lost || inReset s then s
      else
        let r := sendAdd x a.2 s
        modEnd e (fun x => { x with unacked := (r.1, a.2) :: l, fencedU := none }) r.2

/-- R176: the oldest add of an end is settled; the next one goes. -/
def popAdd (e : Nat) (s : State) : State :=
  sendHead e (modEnd e (fun x => { x with unacked := x.unacked.drop 1, fencedU := none }) s)

/-- R311: a write is visible, or a forwarded add was applied. -/
def takeAck (r : OutReq) (s : State) : State :=
  if r.ptype = 6 then
    match endOfTxn s r.txn with
    | some e => popAdd e.1 s
    | none => s
  else
    { s with cmds := s.cmds.map (fun c => { c with waits := c.waits.filter (· != r.txn) })
             cores := s.cores.map fun c => (c.1, { c.2 with waits := c.2.waits.filter (· != r.txn) }) }

/-- ACK (R311). -/
def execPktAck (port : Nat) (p : Packet) (s : State) : Host.Outcome State Fault Refusal :=
  .next (arrive port ptAck p (onResponse p takeAck) s)

/-- R311: the fault of a refused remote access. -/
def remoteInfo (r : OutReq) : FaultInfo :=
  { addrKind := 2, addr := BitVec.ofNat 64 ((dstAddr r.dst).toNat * 2 ^ 48 + r.addr % 2 ^ 48), remoteCtx := r.rctx }

/-- R311, R394: a refused request: its command ends; a prefetch counts the line; a fenced add waits to be sent again. An add refused
for another reason is dropped. -/
def takeNack (p : Packet) (r : OutReq) (s : State) : State :=
  let st := field p.payload 0 2
  if r.ptype = 6 then
    match endOfTxn s r.txn with
    | some e => if st = stFenced then modEnd e.1 (fun x => { x with fencedU := some s.tb.nowU }) s else popAdd e.1 s
    | none => s
  else
    match r.k with
    | some k =>
      if r.pf then pfFinish k (modProg k (fun q => { q with refused := q.refused + 1 }) s)
      else if st = stTranslation then faultCmd k stTranslation (remoteInfo r) (freeCores k s)
      else abortCmd k st (freeCores k s)
    | none =>
      if st = stTranslation then
        contextFault r.ctx { status := st, unit := 0x10, ctx := r.ctx, queue := r.owner / 2, info := { remoteInfo r with ftw := s.ftw } }
          none s
      else s

/-- NACK (R311). -/
def execPktNack (port : Nat) (p : Packet) (s : State) : Host.Outcome State Fault Refusal :=
  .next (arrive port ptNack p (onResponse p (takeNack p)) s)

/-! ### Forwarded adds (R176, R380, R394) -/

/-- R176: apply a CTR_ADD; answers the status of a refusal. -/
def applyAdd (p : Packet) (s : State) : State :=
  let ctx := p.dstCtx.toNat
  let n := field p.payload 0 2
  match refuseCtx s ctx with
  | some st => refuse p st s
  | none =>
    if ctrOwned s ctx n then respond p ptAck [] (ctrAdd ctx n (field p.payload 8 8) s).2
    else refuse p stTranslation s

/-- CTR_ADD (R176, R311, R380): in DOZE and SLEEP it is held and acts as a doorbell. -/
def execCtrAdd (port : Nat) (p : Packet) (s : State) : Host.Outcome State Fault Refusal :=
  .next (arrive port ptCtrAdd p (fun s =>
    if s.pow.pst = .doze ∨ s.pow.pst = .sleep then
      wakeUp { s with pow := { s.pow with heldAdds := s.pow.heldAdds ++ [p] } }
    else wakeUp (applyAdd p s)) s)

/-- CTR_ADD_RESEND (R394): 1 ms after its refusal the oldest add of an end is sent again. -/
def execCtrAddResend (e : Nat) (s : State) : Host.Outcome State Fault Refusal :=
  .next (match findEnd s e with
    | none => s
    | some x =>
      match x.fencedU with
      | some t => if s.since t msU then sendHead e s else s
      | none => s)

/-! ### Link-local packets (R35, R313) -/

/-- A link-local packet of a torus port. -/
def linkArrive (port ptype : Nat) (p : Packet) (f : State → State) (s : State) : State :=
  if p.ptype.toNat ≠ ptype ∨ s.sup.in40 = false ∨ lengthOk p = false ∨ 8 ≤ port then s
  else
    let r := takeLink port p s
    if !r.1 then r.2 else if 6 ≤ port then countUnroutable port r.2 else f r.2

/-- PROBE (R35): answered on its own link. -/
def execPktProbe (port : Nat) (p : Packet) (s : State) : Host.Outcome State Fault Refusal :=
  .next (linkArrive port ptProbe p (fun s => sendOn port { mkPacket s ptProbeReply p.src 0 0 p.txn.toNat 0 [] with dst := p.src } s) s)

/-- PROBE_REPLY (R35): the delay is half of the round trip. -/
def execPktProbeReply (port : Nat) (p : Packet) (s : State) : Host.Outcome State Fault Refusal :=
  .next (linkArrive port ptProbeReply p (fun s =>
    match (getPort s port).probeU with
    | none => s
    | some t => modPort port (fun q => { q with probeU := none, delayPs := BitVec.ofNat 32 ((s.tb.nowU - t) / 65536 / 2) }) s) s)

/-! ### Forwarding (R314, R316, R318, R321, R325) -/

/-- R325: a forwarded TICK's correction grows by its residency, which is free, and the delay of its outgoing link. -/
def correctTick (out : Nat) (p : Packet) (s : State) : Packet × State :=
  if p.ptype.toNat = ptTick then
    let c := field p.payload 8 8 + Config.freeNat s.free 0 + (getPort s out).delayPs.toNat
    ({ p with payload := p.payload.take 8 ++ leBytes 8 c ++ p.payload.drop 16 }, { s with free := s.free + 1 })
  else (p, s)

/-- The port toward which a packet leaves. -/
def outPort (s : State) (p : Packet) : Nat :=
  (routePort s.id s.id.addr (if packetWpActive p then p.wp.extractLsb' 0 12 else dstAddr p.dst)).getD 8

/-- R318: re-inject the packets of the re-injection buffer, oldest first, in DL class 0 toward DST. -/
def drainReinject (s : State) : State :=
  let ps := s.fab.reinject
  ps.foldl (fun s p =>
    let r := correctTick (outPort s p) p s
    routeOut r.1 none r.2) { s with fab := { s.fab with reinject := [] } }

/-- R316, R318: a packet passes this router. -/
def forward (port : Nat) (p : Packet) (s : State) : State :=
  let p := { p with hops := p.hops + 1 }
  if packetWpActive p && p.wp.extractLsb' 0 12 == s.id.addr then
    drainReinject { s with fab := { s.fab with reinject := s.fab.reinject ++ [{ p with flags := p.flags &&& 0xCF }] } }
  else
    let r := correctTick (outPort s p) p s
    routeOut r.1 (some port) r.2

/-- PACKET_FORWARD (R313, R314, R316, R318, R319, R321): a packet of a reserved type is dropped and counted; one from edge equipment
is never forwarded; one for this module itself has its own row. -/
def execPacketForward (port : Nat) (p : Packet) (s : State) : Host.Outcome State Fault Refusal :=
  .next (
    let t := p.ptype.toNat
    let known := decide (1 ≤ t) && decide (t ≤ 12)
    let mine := dstAddr p.dst == s.id.addr && dstEdge p.dst == 0 && !packetWpActive p
    if s.sup.in40 = false ∨ lengthOk p = false ∨ 8 ≤ port ∨ (known && mine) = true then s
    else
      let r := takeLink port p s
      if !r.1 then r.2
      else if !known || decide (6 ≤ port) || t == ptProbe || t == ptProbeReply then countUnroutable port r.2
      else forward port p r.2)

/-! ### Link replay (R308) -/

/-- LINK_REPLAY (R308): an uncorrectable codeword or a failed header check makes the receiver discard the packet that it expects, and
ask for replay. -/
def execLinkReplay (port : Nat) (lseq : BitVec 16) (hdrFail : Bool) (s : State) : Host.Outcome State Fault Refusal :=
  .next (
    let q := getPort s port
    if port < 8 ∧ portUp q = true ∧ lseq = q.rxSeq then askReplay port hdrFail s else s)

/-! ### Link state (R307, R319, R329) -/

/-- R334 PORT_STATUS.STATE code. -/
def linkCode : PortState → Nat
  | .down => 0
  | .training => 1
  | .up => 2
  | .degraded => 3
  | .retuning => 4

/-- R408: a port takes a state, and the LINK entry says so. -/
def setLink (port : Nat) (st : PortState) (f : Port → Port) (s : State) : State :=
  logEntry 0x000B 0 (leBytes 1 port ++ leBytes 1 (linkCode st)) (modPort port (fun q => { f q with st := st }) s)

/-- R319: a link goes DOWN: the packets still in its replay buffer or its queue, a free number of those sent last, are lost. -/
def takeDown (port : Nat) (s : State) : State :=
  let n := Config.freeNat s.free 0 % ((getPort s port).txq.length + 1)
  let s := countDown port n { s with free := s.free + 1 }
  setLink port .down (fun q => { q with lanes := 0, tuning := none, txq := [], replayFrom := none, probeU := none }) s

/-- LINK_DOWN (R319): a fabric manager whose own link goes DOWN covers it. -/
def execLinkDown (port : Nat) (s : State) : Host.Outcome State Fault Refusal :=
  .next (if port < 8 ∧ s.sup.in40 = true ∧ (getPort s port).st ≠ .down then sendCovers (takeDown port s) else s)

/-- R353: the system manager that the module knows. -/
def sysManagerOf (s : State) : Option (BitVec 12) :=
  match s.id.role with
  | .systemManager => some s.id.addr
  | .worker | .podManager => if s.fab.confirmed then some s.fab.sysManager else none

/-- R353: the body of HELLO on a port. -/
def helloBody (s : State) (port : Nat) : Bytes :=
  addrField (if s.id.hasAddr then some s.id.addr else none) ++ leBytes 1 s.id.dx.toNat ++ leBytes 1 s.id.dy.toNat
    ++ leBytes 1 s.id.dz.toNat ++ leBytes 1 port
    ++ addrField (managerOf s) ++ addrField (sysManagerOf s)
    ++ leBytes 1 (match s.id.role with
      | .worker => 0
      | .podManager => 1
      | .systemManager => 2)
    ++ leBytes 1 (b2n s.fab.joined) ++ leBytes 4 0

/-- R329: send HELLO on a torus link. -/
def sendHello (port : Nat) (s : State) : State := mgmtSendOn port 0x01 (helloBody s port) s

/-- LINK_UP (R35, R307, R329): a link that has trained comes UP on 16 lanes, or DEGRADED on 12 to 15; its delay is measured, and a torus
link says HELLO. -/
def execLinkUp (port : Nat) (s : State) : Host.Outcome State Fault Refusal :=
  let bad := (getPort s port).disabled.length
  .next (if port < 8 ∧ s.sup.in40 = true ∧ portUp (getPort s port) = false ∧ bad ≤ 4 then
      let s := setLink port (if bad = 0 then .up else .degraded) (fun q => { q with
        lanes := 16 - bad, txSeq := 0, rxSeq := 0, replayFrom := none, txq := [], neighbour := none }) s
      if port < 6 then sendUncovers (sendHello port (probeLink port s)) else s
    else s)

/-- LANE_RETUNE (R307): one lane at a time, above a ratio of 10^-4 averaged over 1 s. -/
def execLaneRetune (port lane errRatioE9 : Nat) (s : State) : Host.Outcome State Fault Refusal :=
  .next (
    let q := getPort s port
    if port < 8 ∧ lane < 16 ∧ 100000 < errRatioE9 ∧ (q.st = .up ∨ q.st = .degraded) ∧ q.tuning = none
        ∧ q.disabled.contains lane = false then
      probeLink port (setLink port .retuning (fun q => { q with
        tuning := some lane, lanes := q.lanes - 1, retunes := satAdd q.retunes 1 }) s)
    else s)

/-- LANE_RETUNE_DONE (R307, R319): the lane returns, or it is disabled; with fewer than 12 lanes the port goes DOWN. -/
def execLaneRetuneDone (port : Nat) (good : Bool) (s : State) : Host.Outcome State Fault Refusal :=
  .next (
    let q := getPort s port
    match q.tuning with
    | none => s
    | some l =>
      if port < 8 ∧ q.st = .retuning then
        if good then
          probeLink port (setLink port (if q.disabled.isEmpty then .up else .degraded) (fun q => { q with
            tuning := none, lanes := q.lanes + 1 }) s)
        else
          let s := modPort port (fun q => { q with disabled := l :: q.disabled, tuning := none }) s
          if q.lanes < 12 then sendCovers (takeDown port s) else probeLink port (setLink port .degraded id s)
      else s)

end Sys2Proof.Machine
end

