-- ==== Sys2Proof/Machine/Registers.lean ====
section
/-!
DEFINITION. BAR0 as a function sees it (R10, R42, R50, R334, R337, R338, R342): what a read returns, the reads that clear, and
the writes of registers without a behaviour of their own.
-/
namespace Sys2Proof.Machine

/-- R42 TB_STATUS.STATE. -/
def tbCode : TbState → Nat
  | .free => 0
  | .acquiring => 1
  | .locked => 2
  | .holdover => 3

/-- R334 PORT_STATUS.STATE. -/
def portCode : PortState → Nat
  | .down => 0
  | .training => 1
  | .up => 2
  | .degraded => 3
  | .retuning => 4

/-- R342 MB_STATUS.STATE. -/
def mbCode : MbState → Nat
  | .booting => 0
  | .mailbox => 1
  | .calibrating => 2
  | .ready => 3
  | .computeReset => 4
  | .handover => 5
  | .failed => 15

/-- R334 FAB_ID.ROLE. -/
def roleCode : Role → Nat
  | .worker => 0
  | .podManager => 1
  | .systemManager => 2

/-- R42: the FL0 register block. Between a write of SOURCE and the boundary at which it takes effect, TB_CTRL.SOURCE reads the written
code (log entry 115). -/
def readTb (off : Nat) (s : State) : Nat :=
  let t := s.tb
  if off = 0x00 then s.ftw.toNat
  else if off = 0x08 then b2n t.frameOutEn * 16 + t.sourceField.toNat
  else if off = 0x10 then
    b2n t.periodErr * 128 + b2n t.arm * 64 + b2n t.backward * 32 + b2n t.tickLost * 16 + tbCode t.st
  else if off = 0x18 then t.period.toNat
  else if off = 0x20 then t.periodSet.toNat
  else if off = 0x28 then b2n t.arm * 2 ^ 63 + t.atFrame.toNat
  else if off = 0x30 then t.holdovers.toNat * 2 ^ 48 + t.rejected.toNat * 2 ^ 32 + t.accepted.toNat
  else if off = 0x38 then t.hopDelayNs.toNat * 2 ^ 32 + t.lastErrPs.toNat
  else 0

/-- R334: FAB_ID. -/
def fabId (s : State) : Nat :=
  roleCode s.id.role * 2 ^ 48 + s.fab.manager.toNat * 2 ^ 36 + s.id.dx.toNat * 2 ^ 24 + s.id.dy.toNat * 2 ^ 20
    + s.id.dz.toNat * 2 ^ 16 + b2n s.fab.joined * 2 ^ 12 + s.id.addr.toNat

/-- R334: a route-around entry in RA_ENTRY layout. -/
def raWord (e : RaEntry) : Nat :=
  b2n e.valid * 2 ^ 63 + e.waypoint.toNat * 2 ^ 36 + e.mask.toNat * 2 ^ 12 + e.value.toNat

/-- R334: the fabric register block. FEED_DB is write only. -/
def readFab (off : Nat) (s : State) : Nat :=
  if off = 0 then fabId s
  else if 0x100 ≤ off ∧ off < 0x200 then
    let p := getPort s ((off - 0x100) / 0x20)
    match off % 0x20 with
    | 0x00 => p.lanes * 2 ^ 16 + portCode p.st
    | 0x08 => p.replays.toNat * 2 ^ 48 + p.hdrCrc.toNat * 2 ^ 32 + p.fecUncorr.toNat * 2 ^ 16 + p.retunes.toNat
    | 0x10 => p.downDrop.toNat * 2 ^ 32 + p.unroutable.toNat
    | 0x18 => p.delayPs.toNat
    | _ => 0
  else if 0x400 ≤ off ∧ off < 0x600 then raWord (Tbl.get {} s.fab.routes ((off - 0x400) / 8))
  else 0

/-- R342: the accessing function's mailbox channel. -/
def readMailbox (fn off : Nat) (s : State) : Nat :=
  let f := getFn s fn
  if off = 0x08 then
    mbCode s.mb * 4096 + b2n f.evLost * 8 + b2n f.overrun * 4 + b2n f.doneBit * 2 + b2n f.busy
  else if off = 0x10 then b2n f.vecEn * 32768 + f.vec.toNat
  else if off = 0x18 then f.evHead.toNat
  else if off = 0x20 then f.evTail.toNat
  else if 0x400 ≤ off ∧ off < 0x1000 then field f.reqBuf (off - 0x400) 8
  else if 0x1000 ≤ off ∧ off < 0x1C00 then field f.respBuf (off - 0x1000) 8
  else if 0x2000 ≤ off ∧ off < 0x4000 then field (Tbl.get [] f.evRing ((off - 0x2000) / 64)) (off % 64) 8
  else 0

/-- R50: the queue window; an entry of another function's queue reads as zero. -/
def readQueue (fn off : Nat) (s : State) : Nat :=
  let q := off / 0x20
  match findQueue s q with
  | none => 0
  | some x =>
    if !ownsQueue s fn q then 0
    else match off % 0x20 with
      | 0x10 => x.head.toNat
      | 0x18 => queueStatus s q x
      | _ => 0

/-- R337: MSI-X table and pending-bit array. -/
def readMsix (fn off : Nat) (s : State) : Nat :=
  let f := getFn s fn
  if off < 0x18000 then
    let e := msixEntry f ((off - 0x10000) / 16)
    if off % 16 = 0 then (e.setWidth 64).toNat else ((e >>> 64).setWidth 64).toNat
  else if off < 0x18100 then
    ((List.range 64).map fun i => if f.msixPend.contains ((off - 0x18000) * 8 + i) then 2 ^ i else 0).foldl (· + ·) 0
  else 0

/-- R337: the value that a function reads at an aligned offset of its BAR0. -/
def readReg (fn off : Nat) (s : State) : Nat :=
  if off < 0x1000 then readTb off s
  else if off < 0x2000 then readFab (off - 0x1000) s
  else if off < 0x6000 then readMailbox fn (off - 0x2000) s
  else if off < 0x8000 then 0
  else if off < 0x10000 then readQueue fn (off - 0x8000) s
  else readMsix fn off s

/-- R10: what a read clears: the RC fields of TB_COUNTS, PORT_ERR and PORT_DROP. -/
def clearReg (off : Nat) (s : State) : State :=
  if off = 0x30 then { s with tb := { s.tb with holdovers := 0, rejected := 0, accepted := 0 } }
  else if 0x1100 ≤ off ∧ off < 0x1200 then
    let p := (off - 0x1100) / 0x20
    if off % 0x20 = 0x08 then modPort p (fun x => { x with replays := 0, hdrCrc := 0, fecUncorr := 0, retunes := 0 }) s
    else if off % 0x20 = 0x10 then modPort p (fun x => { x with downDrop := 0, unroutable := 0 }) s
    else s
  else s

/-- READ_TO_CLEAR (R10): a read of a 64-bit register of BAR0 returns its value, then clears its RC fields. -/
def execReadToClear (fn off : Nat) (s : State) : Host.Outcome State Fault Refusal :=
  .next (if hostUp s && off % 8 == 0 && decide (off < 0x20000) then
      let v := readReg fn off s
      clearReg off { s with bus := s.bus ++ [leBytes 8 v] }
    else s)

/-- PCIe: write half of an MSI-X table entry; a vector that is pending and no longer masked is sent. -/
def writeMsix (fn off : Nat) (v : W64) (s : State) : State :=
  let i := (off - 0x10000) / 16
  let s := modFn fn (fun f =>
    let e := msixEntry f i
    let e' := if off % 16 = 0 then ((e >>> 64) <<< 64) ||| v.setWidth 128
      else (e.setWidth 64).setWidth 128 ||| (v.setWidth 128 <<< 64)
    { f with msixTbl := Tbl.put msixDefault f.msixTbl i e' }) s
  let f := getFn s fn
  if f.msixPend.contains i && !msixMasked f i && !s.sup.perst then
    raiseMsix fn i (modFn fn (fun f => { f with msixPend := f.msixPend.filter fun j => decide (j ≠ i) }) s)
  else s

/-- R342, R344: writes of a function's mailbox channel. A write of the request buffer while BUSY is ignored and sets
OVERRUN. GO is submitted by the mailbox commands. -/
def writeMailbox (fn off : Nat) (v : W64) (s : State) : State :=
  if off = 0x08 then
    modFn fn (fun f => { f with
      evLost := f.evLost && !v.getLsbD 3, overrun := f.overrun && !v.getLsbD 2, doneBit := f.doneBit && !v.getLsbD 1 }) s
  else if off = 0x10 then modFn fn (fun f => { f with vecEn := v.getLsbD 15, vec := v.setWidth 11 }) s
  else if off = 0x18 then modFn fn (fun f => { f with evHead := v.setWidth 32 }) s
  else if 0x400 ≤ off ∧ off < 0x1000 then
    modFn fn (fun f =>
      if f.busy then { f with overrun := true }
      else
        let b := padTo 3072 f.reqBuf
        { f with reqBuf := b.take (off - 0x400) ++ leBytes 8 v.toNat ++ b.drop (off - 0x400 + 8) }) s
  else s

/-- R42: W1C bits of TB_STATUS. -/
def writeTbStatus (v : W64) (s : State) : State :=
  { s with tb := { s.tb with periodErr := s.tb.periodErr && !v.getLsbD 7, tickLost := s.tb.tickLost && !v.getLsbD 4 } }

/-- REGISTER_WRITE (R6, R10, R338): a register without a behaviour of its own takes the writable fields of a write. -/
def execRegisterWrite (fn off : Nat) (v : W64) (s : State) : Host.Outcome State Fault Refusal :=
  .next (if hostUp s && off % 8 == 0 then
      if off = 0x10 then if pfWrites s fn then writeTbStatus v s else s
      else if 0x2000 ≤ off ∧ off < 0x6000 then writeMailbox fn (off - 0x2000) v s
      else if 0x10000 ≤ off ∧ off < 0x18000 then writeMsix fn off v s
      else s
    else s)

end Sys2Proof.Machine
end

