-- ==== Sys2Proof/Machine/Membership.lean ====
section
/-!
DEFINITION. Management messages between modules (R352, R353): joining (R327-R329), heartbeats and loss (R330, R332), notices of
resets, losses and time (R326, R331, R401), routes (R318, R326), group records (R250, R327) and period changes (R40, R326).
-/
namespace Sys2Proof.Machine

/-! ### Taking a management message (R352, R353) -/

/-- R353: LENGTH matches the layout of the code. -/
def mgmtLengthOk (code : Nat) (bd : Bytes) : Bool :=
  let n := bd.length
  if code = 0x01 ∨ code = 0x04 ∨ code = 0x07 ∨ code = 0x08 ∨ code = 0x09 ∨ code = 0x0A ∨ code = 0x0B ∨ code = 0x10 then n == 16
  else if code = 0x02 then n == 48
  else if code = 0x03 then decide (16 ≤ n) && n == 16 + 8 * field bd 12 1
  else if code = 0x05 then n == 0
  else if code = 0x06 ∨ code = 0x0F ∨ code = 0x11 then n == 8
  else if code = 0x0C then decide (8 ≤ n) && n == 8 + 8 * field bd 0 1
  else if code = 0x0D ∨ code = 0x0E then decide (24 ≤ n) && n == 24 + 4 * field bd 16 2
  else false

/-- R352: acknowledge a message with a status, and remember that it has been acted on. -/
def ackMgmt (src : BitVec 12) (code : Nat) (mseq : BitVec 32) (status : Nat) (s : State) : State :=
  let s := { s with fab := { s.fab with seen := ((src, mseq), status) :: s.fab.seen } }
  if mgmtAcked code then mgmtSend src 0x11 (leBytes 4 mseq.toNat ++ leBytes 2 status ++ leBytes 2 0) s else s

/-- R352: act on a message body once; `f` answers the status and the state. A failed CRC drops the message, as does a payload that
is not LENGTH + 12 bytes. -/
def takeMgmt (code : Nat) (p : Packet) (f : BitVec 12 → Bytes → State → Nat × State) (s : State) : State :=
  let n := field p.payload 2 2
  let mseq := BitVec.ofNat 32 (field p.payload 4 4)
  let src := dstAddr p.src
  if p.payload.length ≠ n + 12 ∨ field p.payload (8 + n) 4 ≠ (crc32c (p.payload.take (8 + n))).toNat then s
  else
    match s.fab.seen.find? fun e => e.1.1 == src && e.1.2 == mseq with
    | some e =>
      if mgmtAcked code then mgmtSend src 0x11 (leBytes 4 mseq.toNat ++ leBytes 2 e.2 ++ leBytes 2 0) s else s
    | none =>
      let bd := (p.payload.drop 8).take n
      if !mgmtLengthOk code bd then (if mgmtAcked code then ackMgmt src code mseq stBadMessage s else s)
      else
        let r := f src bd s
        ackMgmt src code mseq r.1 r.2

/-- A management message of one code arrives. -/
def mgmtArrive (code port : Nat) (p : Packet) (f : BitVec 12 → Bytes → State → Nat × State) (s : State) : State :=
  if field p.payload 0 2 ≠ code then s else arrive port ptMgmt p (takeMgmt code p f) s

/-- A module address field: none when bit 15 is set (R353). -/
def addrOf (x : Nat) : Option (BitVec 12) := if bitOf x 15 then none else some (BitVec.ofNat 12 x)

/-! ### Joining (R329) -/

/-- R327: FAB_ID.ROLE codes. -/
def roleOf (x : Nat) : Role := if x = 1 then .podManager else if x = 2 then .systemManager else .worker

/-- R349 FW_VERSION: the version of the active slot. -/
def fwVersion (s : State) : BitVec 32 := if s.id.activeB then s.id.slotB.version else s.id.slotA.version

/-- R349: serial number. -/
def serialBytes : Bytes := (List.range 16).map Config.serial

/-- R349 ORDERING. -/
def orderingBytes (s : State) : Bytes := padTo 16 (ascii (if s.id.v384 then "FJ8384-LQ" else "FJ8640-LQ"))

/-- R353: the body of JOIN. -/
def joinBody (s : State) : Bytes :=
  serialBytes ++ orderingBytes s ++ leBytes 1 (roleCode s.id.role) ++ leBytes 1 (b2n s.id.v384)
    ++ addrField (if s.id.hasAddr then some s.id.addr else none) ++ leBytes 4 (fwVersion s).toNat ++ leBytes 8 s.ftw.toNat

/-- R329: send JOIN to a manager, unless one waits for its acknowledgement. -/
def sendJoin (m : BitVec 12) (s : State) : State :=
  if s.fab.unacked.any fun u => u.dst == m && field u.payload 0 2 == 0x02 then s else mgmtSend m 0x02 (joinBody s) s

/-- R328, R329: the manager that the module joins: a worker its pod manager, a pod manager the system manager. -/
def joinTarget (s : State) (pod sys : Option (BitVec 12)) : Option (BitVec 12) :=
  match s.id.role with
  | .worker =>
    match pod with
    | some m => if podOf s.id m = podOf s.id s.id.addr ∧ m ≠ s.id.addr then some m else none
    | none => none
  | .podManager =>
    match sys with
    | some m => if m ≠ s.id.addr then some m else none
    | none => none
  | .systemManager => none

/-- R329: what a HELLO that arrived on a port tells. A module without an address takes the sender's, stepped by one in the port's
dimension, and its sizes. A first HELLO, and one without an address, is answered. -/
def takeHello (port : Nat) (bd : Bytes) (s : State) : State :=
  let from' := addrOf (field bd 0 2)
  let first := (getPort s port).neighbour.isNone
  let s := match from' with
    | none => s
    | some a =>
      let s := modPort port (fun q => { q with neighbour := some a }) s
      if s.id.hasAddr then s
      else
        let i := { s.id with
          dx := BitVec.ofNat 4 (field bd 2 1), dy := BitVec.ofNat 4 (field bd 3 1), dz := BitVec.ofNat 4 (field bd 4 1) }
        { s with id := { i with addr := neighbourAt i a (field bd 5 1), hasAddr := true } }
  let s := if s.id.hasAddr && (first || from'.isNone) then sendHello port s else s
  if s.fab.confirmed || !s.id.hasAddr then s
  else
    match joinTarget s (addrOf (field bd 6 2)) (addrOf (field bd 8 2)) with
    | some m => sendJoin m s
    | none => s

/-- HELLO (R329): link-local, so it is taken whatever address it carries. -/
def execHello (port : Nat) (p : Packet) (s : State) : Host.Outcome State Fault Refusal :=
  .next (if field p.payload 0 2 ≠ 0x01 then s
    else linkArrive port ptMgmt p (fun s =>
      let n := field p.payload 2 2
      let bd := (p.payload.drop 8).take n
      if p.payload.length ≠ n + 12 ∨ field p.payload (8 + n) 4 ≠ (crc32c (p.payload.take (8 + n))).toNat
        ∨ mgmtLengthOk 0x01 bd = false then s
      else takeHello port bd s) s)

/-- A member that a manager knows. -/
def findMember (s : State) (a : BitVec 12) : Option Member := s.fab.members.find? fun m => m.addr == a

/-- Change a member. -/
def modMember (a : BitVec 12) (f : Member → Member) (s : State) : State :=
  { s with fab := { s.fab with members := s.fab.members.map fun m => if m.addr == a then f m else m } }

/-- R329, R353: RESULT of a join: 0 accepted, 1 address in use by another module, 2 refused (outside the torus, or not this manager's to
admit). -/
def joinResult (s : State) (a : BitVec 12) (serial : Bytes) (role : Nat) : Nat :=
  let mine := decide (podOf s.id a = podOf s.id s.id.addr) || (decide (s.id.role = .systemManager) && role == 1)
  if !inTorus s.id a || !mine || a == s.id.addr then 2
  else match findMember s a with
    | some m => if m.lost || m.serial == serial then 0 else 1
    | none => 0

/-- R353: the body of JOIN_ACK. A pod manager that joins keeps itself as pod manager. -/
def joinAckBody (s : State) (a : BitVec 12) (result role : Nat) : Bytes :=
  let es := (Config.joinRoutes s.free).take 64
  addrField (some a) ++ leBytes 1 s.id.dx.toNat ++ leBytes 1 s.id.dy.toNat ++ leBytes 1 s.id.dz.toNat ++ leBytes 1 result
    ++ addrField (some s.id.addr) ++ addrField (some (if role = 1 then a else s.id.addr)) ++ addrField (sysManagerOf s)
    ++ leBytes 1 es.length ++ leBytes 3 0 ++ es.flatMap fun e => leBytes 8 e.toNat

/-- R329: a manager takes a JOIN. -/
def takeJoin (src : BitVec 12) (bd : Bytes) (s : State) : Nat × State :=
  match s.id.role with
  | .worker => (stNotPermitted, s)
  | .podManager | .systemManager =>
    let a := (addrOf (field bd 34 2)).getD src
    let serial := bd.take 16
    let role := field bd 32 1
    let res := joinResult s a serial role
    let m : Member := { addr := a, seenU := s.tb.nowU, role := BitVec.ofNat 8 role, serial := serial }
    let s := if res = 0 then
        { s with fab := { s.fab with members := s.fab.members.filter (fun x => x.addr != a) ++ [m] } }
      else s
    let bd := joinAckBody s a res role
    let s := mgmtSend src 0x03 bd { s with free := s.free + 1 }
    (stOk, if res = 0 then sendUncovers s else s)

/-- JOIN (R329). -/
def execMgmtJoin (port : Nat) (p : Packet) (s : State) : Host.Outcome State Fault Refusal :=
  .next (mgmtArrive 0x02 port p takeJoin s)

/-- R334: an entry of RA_ENTRY layout. -/
def raOf (x : Nat) : RaEntry :=
  { valid := bitOf x 63, waypoint := BitVec.ofNat 12 (bits x 47 36), mask := BitVec.ofNat 12 (bits x 23 12), value := BitVec.ofNat 12 x }

/-- R318: write route-around entries from an index on. -/
def putRoutes (first : Nat) (es : List RaEntry) (t : Tbl RaEntry) : Tbl RaEntry :=
  ((List.range es.length).zip es).foldl (fun t ie => Tbl.put {} t ((first + ie.1) % 64) ie.2) t

/-- The route-around entries in a body, from an offset. -/
def routesOf (bd : Bytes) (off n : Nat) : List RaEntry := (List.range n).map fun i => raOf (field bd (off + 8 * i) 8)

/-- R329: an accepted join sets address, sizes, managers, tick parent and routes, and selects FABRIC as the frame source. -/
def takeJoinAck (_src : BitVec 12) (bd : Bytes) (s : State) : Nat × State :=
  let n := field bd 12 1
  if 64 < n ∨ 2 < field bd 5 1 then (stBadArgument, s)
  else if field bd 5 1 ≠ 0 then (stOk, s)
  else
    let s := setRoutes (putRoutes 0 (routesOf bd 16 n) s.fab.routes) s
    let s := { s with
      id := { s.id with
        addr := (addrOf (field bd 0 2)).getD s.id.addr, hasAddr := true
        dx := BitVec.ofNat 4 (field bd 2 1), dy := BitVec.ofNat 4 (field bd 3 1), dz := BitVec.ofNat 4 (field bd 4 1) }
      fab := { s.fab with
        manager := (addrOf (field bd 8 2)).getD s.fab.manager, sysManager := (addrOf (field bd 10 2)).getD s.fab.sysManager,
        confirmed := true }
      tb := { s.tb with tickParent := addrOf (field bd 6 2), sourceField := 2 } }
    (stOk, noteJoined s)

/-- JOIN_ACK (R329). -/
def execJoinAck (port : Nat) (p : Packet) (s : State) : Host.Outcome State Fault Refusal :=
  .next (mgmtArrive 0x03 port p takeJoinAck s)

/-! ### Heartbeats and loss (R330) -/

/-- R353: the body of HEARTBEAT. -/
def heartbeatBody (s : State) : Bytes :=
  let fl := b2n s.tb.backward + 2 * b2n (decide (s.rst.stage ≠ .none)) + 4 * b2n (decide (s.mb = .handover))
  leBytes 1 (mbCode s.mb) ++ leBytes 1 (tbCode s.tb.st) ++ leBytes 1 fl ++ leBytes 5 0 ++ leBytes 8 s.ftw.toNat

/-- R330, R332: where heartbeats go: a pod manager's to the system manager, another member's to the manager whose beacon it received
last. -/
def heartbeatTo (s : State) : BitVec 12 :=
  if s.id.role = .podManager then s.fab.sysManager else s.fab.beaconFrom.getD s.fab.manager

/-- HEARTBEAT_SEND (R330, R332, R356): every 10 ms, but for a handover; to the manager whose beacon was received last. -/
def execHeartbeatSend (s : State) : Host.Outcome State Fault Refusal :=
  .next (if s.fab.confirmed ∧ s.sup.in40 = true ∧ s.mb ≠ .handover ∧ s.since s.fab.heartU (10 * msU) = true then
      mgmtSend (heartbeatTo s) 0x04 (heartbeatBody s) { s with fab := { s.fab with heartU := s.tb.nowU } }
    else s)

/-- R330: a manager takes a member's heartbeat; it says whether the member is in HOLDOVER (R326). -/
def takeHeartbeat (src : BitVec 12) (bd : Bytes) (s : State) : Nat × State :=
  (stOk, modMember src (fun m =>
    if m.lost then m
    else if field bd 1 1 = 3 then { m with seenU := s.tb.nowU, holdU := some (m.holdU.getD s.tb.nowU) }
    else { m with seenU := s.tb.nowU, holdU := none, degraded := false }) s)

/-- HEARTBEAT (R330). -/
def execHeartbeat (port : Nat) (p : Packet) (s : State) : Host.Outcome State Fault Refusal :=
  .next (mgmtArrive 0x04 port p takeHeartbeat s)

/-- R326, R330, R331: the modules, but for the affected one, that hold a group with a rank on it, as far as this manager knows. -/
def holdersOf (s : State) (a : BitVec 12) : List (BitVec 12) :=
  let ts := (s.fab.known.map fun k => k.2) ++ (s.groups.filter fun g => g.2.installed).map fun g => g.2.table
  let hit := ts.filter fun t => t.any fun e => rankModule e == a
  ((hit.flatMap fun t => t.map rankModule).eraseDups).filter fun m => m != a

/-- R331, R353: send a notice about a module to every module that holds a group with a rank there. -/
def notifyHolders (code kind : Nat) (a : BitVec 12) (s : State) : State :=
  (holdersOf s a).foldl (fun s m => mgmtSend m code (leBytes 2 a.toNat ++ leBytes 1 kind ++ leBytes 5 0 ++ leBytes 8 s.ftw.toNat) s) s

/-- R330: a manager declares a module lost. -/
def loseMember (a : BitVec 12) (s : State) : State :=
  notifyHolders 0x09 0 a (sendCovers (modMember a (fun m => { m with lost := true, holdU := none }) s))

/-- MODULE_LOST (R330): no heartbeat for 30 ms. -/
def execModuleLost (addr : BitVec 12) (s : State) : Host.Outcome State Fault Refusal :=
  .next (match findMember s addr with
    | some m => if s.id.role ≠ .worker ∧ m.lost = false ∧ s.since m.seenU (30 * msU) = true then loseMember addr s else s
    | none => s)

/-- LEAVE between modules (R330): as for a lost module, without waiting. -/
def execLeaveMessage (port : Nat) (p : Packet) (s : State) : Host.Outcome State Fault Refusal :=
  .next (mgmtArrive 0x05 port p (fun src _ s =>
    match findMember s src with
    | some m => (stOk, if s.id.role ≠ .worker ∧ m.lost = false then loseMember src s else s)
    | none => (stOk, s)) s)

/-! ### Beacons (R327, R332) -/

/-- R327, R332: a beacon of another manager of this pod: a manager with a higher address reverts to WORKER and logs the conflict;
a member joins the manager. -/
def takeBeacon (_src : BitVec 12) (bd : Bytes) (s : State) : Nat × State :=
  match addrOf (field bd 0 2) with
  | none => (stOk, s)
  | some m =>
    if podOf s.id m ≠ podOf s.id s.id.addr ∨ m = s.id.addr ∨ field bd 2 1 = 0 then (stOk, s)
    else
      let s := match s.id.role with
        | .worker => s
        | .podManager | .systemManager =>
          if m < s.id.addr then logEntry 0x000C 0 (leBytes 2 m.toNat) { s with id := { s.id with role := .worker } } else s
      match s.id.role with
      | .worker =>
        (stOk, sendJoin m { s with fab := { s.fab with beaconFrom := some m } })
      | .podManager | .systemManager => (stOk, s)

/-- BEACON (R332). -/
def execBeacon (port : Nat) (p : Packet) (s : State) : Host.Outcome State Fault Refusal :=
  .next (mgmtArrive 0x06 port p takeBeacon s)

/-- R328: the other addresses of this module's pod. -/
def podMembers (i : Ident) : List (BitVec 12) :=
  ((List.range 4096).map (BitVec.ofNat 12)).filter fun a => inTorus i a && decide (podOf i a = podOf i i.addr) && a != i.addr

/-- BEACON_SEND (R332): every 100 ms, to every other module of the pod. -/
def execBeaconSend (s : State) : Host.Outcome State Fault Refusal :=
  .next (if s.id.role ≠ .worker ∧ s.sup.in40 = true ∧ s.since s.fab.beaconU (100 * msU) = true then
      let bd := addrField (some s.id.addr) ++ leBytes 1 (roleCode s.id.role) ++ leBytes 5 0
      (podMembers s.id).foldl (fun s a => mgmtSend a 0x06 bd s) { s with fab := { s.fab with beaconU := s.tb.nowU } }
    else s)

/-! ### Notices (R326, R331, R401) -/

/-- RESET_NOTICE (R331): a manager tells every module that holds a group with a rank on the sender. -/
def execResetNotice (port : Nat) (p : Packet) (s : State) : Host.Outcome State Fault Refusal :=
  .next (mgmtArrive 0x07 port p (fun src bd s =>
    if 1 < field bd 0 1 then (stBadArgument, s)
    else (stOk, if s.id.role ≠ .worker then notifyHolders 0x08 (field bd 0 1) src s else s)) s)

/-- R401: the event for one affected context. -/
def postRank (code kind : Nat) (a : BitVec 12) (ctx group : Nat) (s : State) : State :=
  postEvent (getCtx s ctx).owner code 0
    (leBytes 1 ctx ++ leBytes 1 0 ++ leBytes 2 group ++ leBytes 2 a.toNat ++ leBytes 1 kind ++ leBytes 1 0 ++ leBytes 8 s.ftw.toNat) s

/-- R401: post the event once per affected context, with its lowest affected group. -/
def postAffected (code kind : Nat) (a : BitVec 12) (s : State) : State :=
  let hit := s.groups.filter fun g => g.2.installed && g.2.table.any fun e => rankModule e == a
  ((hit.map fun g => g.2.ctx).eraseDups).foldl (fun s c =>
    match hit.find? fun g => g.2.ctx == c with
    | some g => postRank code kind a c g.1 s
    | none => s) s

/-- R353, R401: a notice about an affected module. -/
def takeRank (code maxKind : Nat) (_src : BitVec 12) (bd : Bytes) (s : State) : Nat × State :=
  match addrOf (field bd 0 2) with
  | none => (stBadArgument, s)
  | some a => if maxKind < field bd 2 1 then (stBadArgument, s) else (stOk, postAffected code (field bd 2 1) a s)

/-- RANK_RESET (R401). -/
def execRankReset (port : Nat) (p : Packet) (s : State) : Host.Outcome State Fault Refusal :=
  .next (mgmtArrive 0x08 port p (takeRank 0x8010 1) s)

/-- R179: the ends whose peer is a lost module enter PEER_LOST and drop their forwarded adds. -/
def losePeer (a : BitVec 12) (s : State) : State :=
  { s with ends := s.ends.map fun e =>
      if e.2.peer == a then (e.1, { e.2 with lost := true, unacked := [], fencedU := none }) else e }

/-- RANK_LOST (R179, R401). -/
def execRankLost (port : Nat) (p : Packet) (s : State) : Host.Outcome State Fault Refusal :=
  .next (mgmtArrive 0x09 port p (fun src bd s =>
    let r := takeRank 0x8011 0 src bd s
    (r.1, if r.1 = stOk then losePeer (BitVec.ofNat 12 (field bd 0 2)) r.2 else r.2)) s)

/-- TIME_DEGRADED (R401). -/
def execTimeDegraded (port : Nat) (p : Packet) (s : State) : Host.Outcome State Fault Refusal :=
  .next (mgmtArrive 0x0A port p (takeRank 0x8012 0) s)

/-- TICK_LOST_REPORT (R326): the manager checks the module's path and covers a link of it that is DOWN. -/
def execTickLostReport (port : Nat) (p : Packet) (s : State) : Host.Outcome State Fault Refusal :=
  .next (mgmtArrive 0x0B port p (fun src bd s =>
    if 1 < field bd 8 1 then (stBadArgument, s)
    else if s.id.role = .worker then (stOk, s)
    else if field bd 8 1 = 1 then (stOk, s)
    else (stOk, sendCovers (modMember src (fun m => { m with holdU := some (m.holdU.getD s.tb.nowU) }) s))) s)

/-- HOLDOVER_TIMEOUT (R326): 10 s in HOLDOVER. -/
def execHoldoverTimeout (addr : BitVec 12) (s : State) : Host.Outcome State Fault Refusal :=
  .next (match findMember s addr with
    | none => s
    | some m =>
      match m.holdU with
      | some t => if s.id.role ≠ .worker ∧ m.lost = false ∧ m.degraded = false ∧ s.since t (10 * secU) = true then
          notifyHolders 0x0A 0 addr (modMember addr (fun m => { m with degraded := true }) s)
        else s
      | none => s)

/-! ### Routes, groups and periods (R318, R250, R353, R326) -/

/-- R318, R353: ROUTE_SET. -/
def takeRoutes (_src : BitVec 12) (bd : Bytes) (s : State) : Nat × State :=
  let n := field bd 0 1
  let first := field bd 1 1
  let mode := field bd 2 1
  if 64 < n ∨ 63 < first ∨ 64 < first + n ∨ 1 < mode then (stBadArgument, s)
  else (stOk, setRoutes (putRoutes first (routesOf bd 8 n) (if mode = 1 then [] else s.fab.routes)) s)

/-- ROUTE_SET (R318). -/
def execRouteSet (port : Nat) (p : Packet) (s : State) : Host.Outcome State Fault Refusal :=
  .next (mgmtArrive 0x0C port p takeRoutes s)

/-- R250, R353: the fields of a GROUP_INSTALL or GROUP_STAGE lie in their ranges. -/
def groupFieldsOk (s : State) (bd : Bytes) : Bool :=
  let gn := field bd 0 2
  let r := field bd 8 4
  let n := field bd 16 2
  let ctx := field bd 3 1
  decide (1 ≤ gn) && decide (gn ≤ 0xFFFE) && decide (field bd 2 1 ≤ 1) && decide (1 ≤ ctx) && decide (1 ≤ r) && decide (r ≤ 32768)
    && decide (1 ≤ n) && decide (n ≤ 1000) && decide (field bd 12 4 + n ≤ r) && decide ((getCtx s ctx).st = .active)

/-- The table entries that a message carries, stored over those of earlier messages. -/
def storeEntries (bd : Bytes) (t : List (Nat × BitVec 32)) : List (Nat × BitVec 32) :=
  let first := field bd 12 4
  (List.range (field bd 16 2)).foldl (fun t i => Tbl.ins t (first + i) (BitVec.ofNat 32 (field bd (24 + 4 * i) 4))) t

/-- R353: GROUP_INSTALL: a new record, installed once entries 0 to R - 1 are stored. -/
def takeInstall (_src : BitVec 12) (bd : Bytes) (s : State) : Nat × State :=
  let gn := field bd 0 2
  let r := field bd 8 4
  let epoch := BitVec.ofNat 32 (field bd 4 4)
  let fresh : Group := { ctx := field bd 3 1, qz := field bd 2 1, r := r, epoch := epoch }
  if !groupFieldsOk s bd then (stBadArgument, s)
  else
    let old := Tbl.find? s.groups gn
    let busy : Bool := match old with
      | some g => g.installed
      | none => decide (256 ≤ s.groups.length)
    if busy then (stBadArgument, s)
    else
      let g := match old with
        | some g => if g.ctx = fresh.ctx ∧ g.qz = fresh.qz ∧ g.r = r ∧ g.epoch = epoch then g else fresh
        | none => fresh
      let t := storeEntries bd g.pendingTable
      let g := if t.length = r then { g with table := t.map (·.2), pendingTable := [], installed := true }
        else { g with pendingTable := t }
      (stOk, { s with groups := Tbl.ins s.groups gn g })

/-- GROUP_INSTALL (R250, R353). -/
def execGroupInstall (port : Nat) (p : Packet) (s : State) : Host.Outcome State Fault Refusal :=
  .next (mgmtArrive 0x0D port p takeInstall s)

/-- R250, R353: GROUP_STAGE: a table and its epoch for an installed group of the context. -/
def takeStage (_src : BitVec 12) (bd : Bytes) (s : State) : Nat × State :=
  let gn := field bd 0 2
  let r := field bd 8 4
  let epoch := BitVec.ofNat 32 (field bd 4 4)
  match findGroup s gn with
  | none => (stBadArgument, s)
  | some g =>
    if g.ctx ≠ field bd 3 1 then (stNotPermitted, s)
    else if !groupFieldsOk s bd then (stBadArgument, s)
    else
      let t := match g.staged with
        | some st => if st.1 = epoch ∧ st.2.1 = r ∧ st.2.2.length < r then st.2.2 else []
        | none => []
      (stOk, modGroup gn (fun g => { g with staged := some (epoch, r, storeEntries bd t) }) s)

/-- GROUP_STAGE (R250, R353). -/
def execGroupStage (port : Nat) (p : Packet) (s : State) : Host.Outcome State Fault Refusal :=
  .next (mgmtArrive 0x0E port p takeStage s)

/-- R250, R268: a group record goes, with the nodes of the group. -/
def dropGroup (gn : Nat) (s : State) : State :=
  { s with groups := Tbl.del s.groups gn, nodes := s.nodes.filter fun n => n.group != gn, insts := s.insts.filter fun x => x.group != gn }

/-- R353: GROUP_REMOVE. -/
def takeRemove (_src : BitVec 12) (bd : Bytes) (s : State) : Nat × State :=
  match Tbl.find? s.groups (field bd 0 2) with
  | none => (stBadArgument, s)
  | some g => if g.ctx ≠ field bd 3 1 then (stNotPermitted, s) else (stOk, dropGroup (field bd 0 2) s)

/-- GROUP_REMOVE (R250, R353). -/
def execGroupRemove (port : Nat) (p : Packet) (s : State) : Host.Outcome State Fault Refusal :=
  .next (mgmtArrive 0x0F port p takeRemove s)

/-- PERIOD_ARM (R39, R40, R326). -/
def execPeriodArm (port : Nat) (p : Packet) (s : State) : Host.Outcome State Fault Refusal :=
  .next (mgmtArrive 0x10 port p (fun _ bd s =>
    let per := BitVec.ofNat 41 (field bd 0 8)
    if !periodOk per then (stBadArgument, s)
    else (stOk, armPeriod true (BitVec.ofNat 48 (field bd 8 8)) { s with tb := { s.tb with periodSet := per } })) s)

/-! ### Acknowledgement (R352) -/

/-- R348, R352: a message is acknowledged, for a GROUP_SET that waits for it as well. -/
def takeMgmtAck (src : BitVec 12) (bd : Bytes) (s : State) : Nat × State :=
  let m := BitVec.ofNat 32 (field bd 0 4)
  let st := field bd 4 2
  if s.fab.unacked.any fun u => u.mseq == m && u.dst == src then
    (stOk, { s with
      fab := { s.fab with unacked := s.fab.unacked.filter fun u => !(u.mseq == m && u.dst == src) }
      deferred := s.deferred.map fun d =>
        if d.waits.contains m then { d with waits := d.waits.filter (· != m), bad := if d.bad = 0 then st else d.bad } else d })
  else (stOk, s)

/-- MGMT_ACK (R352). -/
def execMgmtAck (port : Nat) (p : Packet) (s : State) : Host.Outcome State Fault Refusal :=
  .next (mgmtArrive 0x11 port p takeMgmtAck s)

/-- MGMT_RESEND (R352): every 5 ms, up to four times. -/
def execMgmtResend (mseq : BitVec 32) (s : State) : Host.Outcome State Fault Refusal :=
  .next (match s.fab.unacked.find? fun u => u.mseq == mseq with
    | none => s
    | some u =>
      if !s.since u.sentU (5 * msU) then s
      else if u.tries < 4 then
        let s := { s with fab := { s.fab with unacked := s.fab.unacked.map fun v =>
          if v.mseq == mseq then { v with tries := v.tries + 1, sentU := s.tb.nowU } else v } }
        sendPacket (mkPacket s ptMgmt (u.dst.setWidth 16) 0 0 0 0 u.payload) s
      else { s with fab := { s.fab with unacked := s.fab.unacked.filter fun v => v.mseq != mseq } })

end Sys2Proof.Machine
end

