-- ==== Sys2Proof/Machine/ResetOps.lean ====
section
/-!
DEFINITION. How a compute reset begins (R356, R384, R389, R392, R395): the Detect stage, shared by every trigger.
-/
namespace Sys2Proof.Machine

/-- R384: the status of a reset's trigger, by cause. -/
def causeStatus (cause : Nat) : Nat := if cause = 1 then stHang else if cause = 2 then stUnitError else stThermal

/-- R408: the RESET_START entry of a trigger. -/
def logResetStart (cause ctx : Nat) (addr : W64) (s : State) : State :=
  logEntry 0x0003 (causeStatus cause)
    (leBytes 1 cause ++ leBytes 1 ctx ++ leBytes 2 0 ++ leBytes 4 s.log.resets ++ leBytes 8 addr.toNat) s

/-- R331, R353: RESET_NOTICE to the pod manager, which a manager itself is: KIND 0 start, 1 end. -/
def resetNotice (kind cause : Nat) (s : State) : State :=
  match managerOf s with
  | some m => mgmtSend m 0x07 (leBytes 1 kind ++ leBytes 1 cause ++ leBytes 2 0 ++ leBytes 4 s.log.resets ++ leBytes 8 s.ftw.toNat) s
  | none => s

/-- R392 Detect: the log entry, the notice, STATE, the event, and f = 0 on every Basalt. -/
def announceReset (s : State) : State :=
  let addr := BitVec.ofNat 64 (field s.rst.record 16 8)
  let s := resetNotice 0 s.rst.cause (logResetStart s.rst.cause s.rst.ctx addr s)
  setF (List.replicate 8 0) (postAll 0x8031 0 [1] { s with mb := .computeReset })

/-- R389, R395: a context that a trigger names enters ERROR at detection; its image follows in the Dump stage and CTX_FAULT at
Resume. A context named after the Dump stage gets its image at once. -/
def nameCtx (ctx no : Nat) (rec : Bytes) (s : State) : State :=
  if (getCtx s ctx).st = .active then
    let s := modCtx ctx (fun c => { c with st := .error }) { s with rst := { s.rst with named := s.rst.named ++ [(ctx, rec)] } }
    match s.rst.stage with
    | .dumped | .reset => writeCtxImage ctx no rec [] s
    | .none | .detected | .fenced => s
  else s

/-- R384, R392, R395: a trigger of a compute reset, with its fault record. While a reset runs it joins it; while a handover
runs, the reset waits for the handover's end (R356). -/
def startReset (cause : Nat) (r : FaultRec) (s : State) : State :=
  let r := { r with status := causeStatus cause, cause := cause, info := { r.info with ftw := s.ftw } }
  let no := s.log.recordNo
  match s.rst.stage with
  | .none =>
    let s := { s with log := { s.log with resets := s.log.resets + 1 } }
    let w := writeRecord r s
    let s := { w.2 with
      mem := memWriteN w.2.mem (dumpBase w.2.id + 4) (leBytes 4 w.2.log.resets)
      rst := { stage := .detected, cause := cause, record := w.1, ctx := r.ctx, detectFtw := s.ftw, detectU := s.tb.nowU,
               held := decide (s.mb = .handover) } }
    let s := if r.ctx = 0xFF then s else nameCtx r.ctx no w.1 s
    if s.mb = .handover then s else announceReset s
  | .detected | .fenced | .dumped | .reset =>
    let w := writeRecord r s
    let s := logResetStart cause r.ctx r.info.addr w.2
    if r.ctx = 0xFF then s else nameCtx r.ctx no w.1 s

end Sys2Proof.Machine
end

