-- ==== Sys2Proof/Machine/Power.lean ====
section
/-!
DEFINITION. The power manager: hints (R366-R369), the issue-rate limiter (R362-R366, R370), CAP_UNMET (R372), thermal limits
(R289, R373-R376) and the telemetry sample (R359).
-/
namespace Sys2Proof.Machine

/-! ### Cap and operating points (R361, R370, R371) -/

/-- R361: the cap in force, W. -/
def capW (s : State) : Nat := min s.pow.boardCap s.pow.hostCap

/-- R370: FMAX of a level. -/
def fmaxOf (level : Nat) : Nat := if level = 2 then 64 else if level = 1 then 48 else 32

/-- R370: pt of a level, W per 64 steps, an FP64 code: 151, 122.3, 96.6. -/
def ptOf (level : Nat) : Nat :=
  if level = 2 then 0x4062E00000000000 else if level = 1 then 0x405E933333333333 else 0x4058266666666666

/-- R371: floor of a level, W. -/
def floorW (level : Nat) : Nat := if level = 2 then 1840 else if level = 1 then 1590 else 1365

/-! ### Hints (R366-R368) -/

/-- One tick of the limiter, 312.5 ns, in the model's time unit. -/
def tickU : Nat := 20480000

/-- R104: the context holds a cluster of a Basalt. -/
def holdsCluster (s : State) (ctx basalt : Nat) : Bool :=
  (List.range 16).any fun i =>
    let c := getCluster s basalt i
    match c.mode with
    | .released => false
    | .exclusive => c.ctxA == ctx
    | .split => c.ctxA == ctx || c.ctxB == ctx

/-- R368: the Basalts that a HINT_POWER names. -/
def hintNames (c : Cmd) : List Nat :=
  if body c 17 1 = 0 then [c.basalt] else (List.range 8).filter fun i => bitOf (body c 17 1) i

/-- R368: the Basalts on which the hint is armed. -/
def hintArms (s : State) (c : Cmd) : List Nat :=
  (hintNames c).filter fun b => holdsCluster s c.ctx b && decide ((s.pow.hints.filter fun h => h.basalt == b).length < 8)

/-- R367: time until TARGET, in the model's unit. -/
def untilU (s : State) (t : W64) : Nat := (t.toNat - s.ftw.toNat) * s.tb.period.toNat

/-- R367: an armed hint; it starts at once from f_act + 1 when TARGET lies less than 64 ticks ahead. -/
def armHint (s : State) (c : Cmd) (b : Nat) : Hint :=
  let t := BitVec.ofNat 64 (body c 24 8)
  { basalt := b, level := body c 16 1, target := t, holdPh := body c 18 2, heldPh := s.ftw.toNat - t.toNat,
    value := if untilU s t < 64 * tickU then some (min (body c 16 1) (s.pow.fAct.getD b 0 + 1)) else none }

/-- HINT_POWER (R367, R368): RESULT is the mask of the Basalts on which the hint was armed. -/
def execHintPower (k : Nat) (s : State) : Host.Outcome State Fault Refusal :=
  .next (runOp k 0x05 0 [(16, 4), (24, 8)] (fun c => decide (1 ≤ body c 16 1) && decide (body c 16 1 ≤ 64)) (fun c s =>
    let bs := hintArms s c
    let mask := bs.foldl (fun m b => m + 2 ^ b) 0
    finishCmd k (some (BitVec.ofNat 64 mask)) none
      { s with pow := { s.pow with hints := s.pow.hints ++ bs.map (armHint s c) } }) s)

/-- HINT_SCHEDULE_START (R367): 64 ticks before TARGET the schedule takes the value 1. -/
def execHintScheduleStart (h : Nat) (s : State) : Host.Outcome State Fault Refusal :=
  .next (match s.pow.hints[h]? with
    | none => s
    | some x => if x.value = none ∧ untilU s x.target ≤ 64 * tickU then
        { s with pow := { s.pow with hints := modAt s.pow.hints h fun x => { x with value := some 1 } } }
      else s)

/-- HINT_DISARM (R26, R367): at TARGET + HOLD_PH. -/
def execHintDisarm (h : Nat) (s : State) : Host.Outcome State Fault Refusal :=
  .next (match s.pow.hints[h]? with
    | none => s
    | some x => if s.reached x.target = true ∧ x.holdPh ≤ x.heldPh ∧ mayAct s (x.target.toNat + x.holdPh) = true then
        { s with pow := { s.pow with hints := s.pow.hints.take h ++ s.pow.hints.drop (h + 1) } }
      else s)

/-- R367: the schedule of a Basalt: the largest value among its hints. -/
def scheduleOf (s : State) (b : Nat) : Nat :=
  (s.pow.hints.filter fun h => h.basalt == b).foldl (fun m h => max m (h.value.getD 0)) 0

/-- R369: a cluster is idle: no run of it has started or is ready. -/
def clusterIdle (s : State) (b c : Nat) : Bool :=
  !s.cmds.any fun d => (decide (d.st = .started) || ready s d) && decide (opEngine (cmdOp d) = .matrix)
    && (cmdUnits s d).contains (8000 + (b * 16 + c) * 2 + 1)

/-- BALLAST_PASS (R125, R369): an idle cluster of a Basalt whose schedule exceeds f_act streams zero inputs for 77 cycles. It
takes 77 cycles of the cluster's issue credit and writes nothing. -/
def execBallastPass (b c : Nat) (s : State) : Host.Outcome State Fault Refusal :=
  .next (if s.pow.fAct.getD b 0 < scheduleOf s b ∧ clusterIdle s b c = true ∧ inReset s = false
        ∧ 77 * 64 ≤ creditNow s b c then takeCredit b c 77 s
    else s)

/-! ### Gated dies (R378, R382) -/

/-- R378, R382: in DOZE and SLEEP the Basalts, the Gneiss dies and Mica have gated domains: their telemetry is clamped. -/
def dieGated (s : State) (die : Nat) : Bool :=
  (decide (s.pow.pst = .doze) || decide (s.pow.pst = .sleep)) && (decide (die < 16) || die == 18)

/-- R382: the temperatures of a sample: a gated die keeps its last one. -/
def sampledTemps (s : State) (temps : List Int) : List Int :=
  (List.range 20).map fun d => if dieGated s d then s.pow.temps.getD d 250 else temps.getD d (s.pow.temps.getD d 250)

/-- R382: the die powers of a sample: a gated die reports 0 W. -/
def sampledWatts (s : State) (m : Measure) : Measure :=
  { m with dieW := (List.range 20).map fun d => if dieGated s d then 0 else m.dieW.getD d 0 }

/-- R382: the die powers that the limiter sees, FP64 codes: a gated die reports 0 W. -/
def sampledPower (s : State) (m : PowerMeasure) : PowerMeasure :=
  { m with pDie := (List.range 20).map fun d => if dieGated s d then 0 else m.pDie.getD d 0 }

/-! ### The limiter (R362-R366) -/

/-- An integer as an FP64 code. -/
def f64Of (n : Int) : Nat := (roundV fp64 .ne (fvInt n)).1

/-- The floor of an FP64 code, cut to 0-64; a code that is no number gives the free value d. -/
def floor64 (d code : Nat) : Nat :=
  match decodeF fp64 code with
  | .nan _ => d
  | .inf n => if n then 0 else 64
  | .fin n m e => if n then 0 else min 64 (floorAt m e)

/-- The larger of an FP64 code and 0. -/
def posPart (code : Nat) : Nat := if fvLt fvZero (decodeF fp64 code) then code else 0

/-- R364: overflow of a die: its power less its share, given as an FP64 fraction of the cap. -/
def overflowOf (s : State) (m : PowerMeasure) (die frac : Nat) : Nat :=
  posPart (subC fp64 (m.pDie.getD die 0).toNat (mulC fp64 frac (f64Of (capW s))))

/-- R364: the reserve's overflow. -/
def reserveOverflow (s : State) (m : PowerMeasure) : Nat :=
  let dies := (List.range 20).foldl (fun t i => addC fp64 t (m.pDie.getD i 0).toNat) 0
  posPart (subC fp64 (subC fp64 m.pInput.toNat dies) (mulC fp64 0x3FBD70A3D70A3D71 (f64Of (capW s))))

/-- R364: overflow charged to a Basalt. -/
def chargedTo (s : State) (m : PowerMeasure) (b : Nat) : Nat :=
  let half := mulC fp64 0x3FE0000000000000
  let eighth := mulC fp64 0x3FC0000000000000
  let gn := overflowOf s m (8 + b) 0x3F9EB851EB851EB8
  let qz0 := if b = 7 ∨ b = 0 then half (overflowOf s m 16 0x3FA47AE147AE147B) else 0
  let qz1 := if b = 3 ∨ b = 4 then half (overflowOf s m 17 0x3FA47AE147AE147B) else 0
  let mi := eighth (overflowOf s m 18 0x3FA47AE147AE147B)
  let fl := if b = 0 then overflowOf s m 19 0x3F747AE147AE147B else 0
  let rs := eighth (reserveOverflow s m)
  [qz0, qz1, mi, fl, rs].foldl (addC fp64) gn

/-- R365: budget of a Basalt. -/
def budgetOf (s : State) (m : PowerMeasure) (b : Nat) : Nat :=
  subC fp64 (mulC fp64 0x3FB0A3D70A3D70A4 (f64Of (capW s))) (chargedTo s m b)

/-- R365: non-tile power of a Basalt. -/
def nontileOf (m : PowerMeasure) (b : Nat) : Nat := subC fp64 (m.pDie.getD b 0).toNat (m.pTile.getD b 0).toNat

/-- R365: fcap of a Basalt. -/
def fcapOf (s : State) (m : PowerMeasure) (b : Nat) : Nat :=
  floor64 (Config.freeNat s.free b % 65)
    (divC fp64 (mulC fp64 0x4050000000000000 (subC fp64 (budgetOf s m b) (nontileOf m b))) (ptOf s.pow.oppoint))

/-- R372: the budget does not exceed the non-tile power. -/
def overBudget (s : State) (m : PowerMeasure) (b : Nat) : Bool :=
  let x := decodeF fp64 (budgetOf s m b)
  let y := decodeF fp64 (nontileOf m b)
  fvLt x y || fvEq x y

/-- R366, R367: framp of a Basalt. -/
def frampOf (s : State) (m : PowerMeasure) (b : Nat) : Nat := max (min 64 (m.fAct.getD b 0 + 1)) (scheduleOf s b)

/-- R365: issue is off in a reset and outside ACTIVE. -/
def issueOff (s : State) : Bool :=
  decide (s.rst.stage ≠ .none) || decide (s.pow.pst ≠ .active) || s.pow.tripHold

/-- LIMITER_TICK (R365-R367, R382): the issue fraction of each Basalt; started schedules rise by 1. -/
def execLimiterTick (m : PowerMeasure) (s : State) : Host.Outcome State Fault Refusal :=
  let m := sampledPower s m
  let bs := List.range 8
  let fcap := bs.map (fcapOf s m)
  let framp := bs.map (frampOf s m)
  let f := bs.map fun b =>
    if issueOff s then 0
    else min (min (fmaxOf s.pow.oppoint) (fcap.getD b 0)) (min (s.pow.fth.getD b 0) (framp.getD b 0))
  let starved := bs.map fun b =>
    if fcap.getD b 0 = 0 ∧ overBudget s m b = true then some ((s.pow.starvedU.getD b none).getD s.tb.nowU) else none
  let s := setF f s
  .next { s with
    free := s.free + 1
    pow := { s.pow with
      fcap := fcap, framp := framp, starvedU := starved, fAct := bs.map fun b => m.fAct.getD b 0
      hints := s.pow.hints.map fun h => { h with value := h.value.map fun v => min h.level (v + 1) } } }

/-! ### CAP_UNMET (R372) -/

/-- R372: the condition of CAP_UNMET. -/
def capBad (s : State) (inputW : Nat) : Bool :=
  decide (capW s * 101 < inputW * 100) || s.pow.starvedU.any fun t =>
    match t with
    | some u => s.since u msU
    | none => false

/-- R372: the lowest Basalt at fcap = 0 over budget, or 0xFF. -/
def firstStarved (s : State) : Nat :=
  ((List.range 8).find? fun b => (s.pow.starvedU.getD b none).isSome).getD 0xFF

/-- R372: the event body. -/
def capBody (s : State) (inputW kind : Nat) : Bytes :=
  leBytes 2 (capW s) ++ leBytes 2 inputW ++ leBytes 1 s.pow.oppoint ++ leBytes 1 (firstStarved s) ++ leBytes 1 kind

/-- CAP_UNMET (R372, R408). -/
def execCapUnmet (inputW : Nat) (s : State) : Host.Outcome State Fault Refusal :=
  .next (if capBad s inputW then
      let s := { s with pow := { s.pow with capClearU := none } }
      if s.pow.capUnmet then s
      else
        let s := logEntry 0x0006 stCapUnmet (capBody s inputW 0) { s with pow := { s.pow with capUnmet := true } }
        postAll 0x8021 stCapUnmet (capBody s inputW 0) s
    else if s.pow.capUnmet then
      match s.pow.capClearU with
      | none => { s with pow := { s.pow with capClearU := some s.tb.nowU } }
      | some u => if s.since u secU then
          postAll 0x8021 stCapUnmet (capBody s inputW 1) { s with pow := { s.pow with capUnmet := false, capClearU := none } }
        else s
    else s)

/-! ### Thermal limits (R373-R376) -/

/-- R373: throttle temperature of a die, 0.1 degrees C: a Gneiss 95, others 100. -/
def throttleAt (die : Nat) : Int := if 8 ≤ die ∧ die < 16 then 950 else 1000
/-- R373: trip temperature. -/
def tripAt (die : Nat) : Int := throttleAt die + 100
/-- R373: critical temperature. -/
def criticalAt (die : Nat) : Int := if 8 ≤ die ∧ die < 16 then 1150 else 1250

/-- R364, R374: the dies that charge a Basalt, and the Basalt itself. -/
def chargers (b : Nat) : List Nat :=
  [b, 8 + b, 18] ++ (if b = 7 ∨ b = 0 then [16] else []) ++ (if b = 3 ∨ b = 4 then [17] else []) ++ (if b = 0 then [19] else [])

/-- R374: fth of a Basalt after a sample. -/
def fthNext (temps : List Int) (b fth : Nat) : Nat :=
  if (chargers b).any fun d => decide (throttleAt d ≤ temps.getD d 250) then fth - 4
  else if (chargers b).all fun d => decide (temps.getD d 250 ≤ throttleAt d - 20) then min 64 (fth + 1)
  else fth

/-- R376, R408: a THERMAL event and its log entry. -/
def thermalEvent (die kind : Nat) (t : Int) (s : State) : State :=
  let bd := leBytes 1 die ++ leBytes 1 kind ++ leBytes 2 (wrapInt 16 t)
  postAll 0x8020 stThermal bd (logEntry 0x0007 stThermal bd s)

/-- R374, R375: one die of a sample: throttle entered or left, and trip. -/
def sampleDie (temps : List Int) (s : State) (die : Nat) : State :=
  let t := temps.getD die 250
  let was := s.pow.throttled.getD die false
  let now := decide (throttleAt die ≤ t)
  let s := if was = now then s else
    thermalEvent die (if now then 0 else 1) t
      { s with pow := { s.pow with throttled := modAt s.pow.throttled die fun _ => now } }
  if tripAt die ≤ t ∧ s.pow.tripHold = false then
    let s := setF (List.replicate 8 0) { s with pow := { s.pow with tripHold := true } }
    startReset 3 {} (thermalEvent die 2 t s)
  else s

/-- R375: every die at least 10 degrees C below its throttle temperature. -/
def allCool (temps : List Int) : Bool := (List.range 20).all fun d => decide (temps.getD d 250 ≤ throttleAt d - 100)

/-- THERMAL_SAMPLE (R373-R376, R382). -/
def execThermalSample (temps : List Int) (s : State) : Host.Outcome State Fault Refusal :=
  let temps := sampledTemps s temps
  let s1 := { s with pow := { s.pow with
    temps := temps
    fth := (List.range 8).map fun b => fthNext temps b (s.pow.fth.getD b 64) } }
  let s2 := (List.range 20).foldl (sampleDie temps) s1
  .next { s2 with pow := { s2.pow with tripHold := s2.pow.tripHold && !allCool temps } }

/-- REFRESH_RATE_CHANGE (R289): above 85 degrees C a stack's refresh rate doubles. -/
def execRefreshRateChange (stack : Nat) (deciC : Int) (s : State) : Host.Outcome State Fault Refusal :=
  .next { s with pow := { s.pow with fastRefresh := modAt s.pow.fastRefresh stack fun _ => decide (850 < deciC) } }

/-- TELEMETRY_SAMPLE (R359, R382). -/
def execTelemetrySample (m : Measure) (s : State) : Host.Outcome State Fault Refusal :=
  .next { s with pow := { s.pow with sample := sampledWatts s m, sampleFtw := s.ftw } }

end Sys2Proof.Machine
end

