-- ==== Sys2Proof/Machine/MsgModule.lean ====
section
/-!
DEFINITION. Mailbox messages about the module as a whole: identity and status (R348, R349), telemetry (R359), the log and the dump
area (R409), Mica slices (R293), BAR2 (R339), roles (R327, R330), power (R361, R370, R371, R381), firmware slots (R354-R357) and
calibration (R358). Each handler answers at once or defers (R345).
-/
namespace Sys2Proof.Machine

/-- What firmware does with a request that it has checked (R344, R345): it answers now, or it defers the request with the messages
that it waits for and the status that the end will report. -/
inductive Reply where
  | now (status : Nat) (body : Bytes) (s : State)
  | later (waits : List (BitVec 32)) (bad : Nat) (s : State)

/-- R346: a refused message changes nothing. -/
def refuseMsg (status : Nat) (s : State) : Reply := .now status [] s

/-- R43, R346: the function owns a host context that is not FREE. -/
def ownsCtx (s : State) (ch c : Nat) : Bool :=
  decide (1 ≤ c) && decide (c ≤ 255) && decide ((getCtx s c).st ≠ .free) && (getCtx s c).owner == ch

/-! ### Identity, status, telemetry, log (R348, R349, R359, R409) -/

/-- The inactive slot. -/
def otherSlot (s : State) : Slot := if s.id.activeB then s.id.slotA else s.id.slotB

/-- R349: the IDENTIFY response. -/
def identifyBody (s : State) : Bytes :=
  let flags := b2n s.id.activeB + 2 * b2n s.id.trial + 4 * b2n (decide ((otherSlot s).st = .valid))
  orderingBytes s ++ ascii "B1" ++ leBytes 1 (b2n s.id.v384) ++ leBytes 1 (roleCode s.id.role) ++ serialBytes
    ++ leBytes 4 (fwVersion s).toNat ++ leBytes 1 flags ++ leBytes 1 s.pow.oppoint ++ leBytes 2 2048 ++ leBytes 4 s.id.ilGib
    ++ (List.range 8).flatMap (fun k => leBytes 8 (stackCap s.id k))
    ++ (List.range 8).flatMap (fun k => leBytes 4 ((s.id.outChans.getD k []).foldl (fun m c => m + 2 ^ c) 0))

/-- IDENTIFY (R349). -/
def doIdentify (_ch _tag : Nat) (_bd : Bytes) (s : State) : Reply := .now stOk (identifyBody s) s

/-- R348: host contexts in a state. -/
def ctxCount (s : State) (st : CtxState) : Nat := (s.ctxs.filter fun c => decide (c.1 ≠ 0) && decide (c.2.st = st)).length

/-- R340, R360: MB_STATUS.STATE as a message reports it: BOOTING on the auxiliary supply alone. -/
def stateByte (s : State) : Nat := if s.sup.in40 then mbCode s.mb else 0

/-- STATUS_QUERY (R348, R375). -/
def doStatusQuery (_ch _tag : Nat) (_bd : Bytes) (s : State) : Reply :=
  .now (if s.pow.tripHold then stThermal else stOk)
    (leBytes 1 (stateByte s) ++ leBytes 1 s.pow.oppoint ++ leBytes 2 (capW s) ++ leBytes 4 s.log.resets
      ++ leBytes 2 (ctxCount s .active) ++ leBytes 2 (ctxCount s .error)) s

/-- R359: the hottest die, lowest index first, and its temperature. -/
def hottest (ts : List Int) : Nat × Int :=
  ((List.range ts.length).zip ts).foldl (fun b x => if b.2 < x.2 then x else b) (0, ts.getD 0 0)

/-- R360, R359: section 0: on the auxiliary supply alone, AUX values only. -/
def telemModule (s : State) : Bytes :=
  let m := s.pow.sample
  if !s.sup.in40 then List.replicate 20 0 ++ leBytes 2 m.auxMw.toNat ++ List.replicate 18 0
  else
    let h := hottest s.pow.temps
    leBytes 8 s.pow.sampleFtw.toNat ++ leBytes 4 m.inputMv.toNat ++ leBytes 4 m.inputMa.toNat ++ leBytes 2 m.inputW.toNat
      ++ leBytes 2 (capW s) ++ leBytes 2 m.auxMw.toNat ++ leBytes 1 s.pow.oppoint ++ [0] ++ leBytes 2 m.inlet.toNat
      ++ leBytes 2 m.outlet.toNat ++ leBytes 2 (wrapInt 16 h.2) ++ leBytes 1 h.1 ++ [0] ++ leBytes 8 m.energyMj.toNat

/-- R359: section 1, per die. -/
def telemDies (s : State) : Bytes :=
  (List.range 20).flatMap fun d =>
    leBytes 2 (wrapInt 16 (s.pow.temps.getD d 250)) ++ leBytes 2 ((s.pow.sample.dieW.getD d 0).toNat)
      ++ leBytes 1 (if d < 8 then s.pow.f.getD d 0 else 0) ++ leBytes 3 0

/-- R123, R359: section 2, stream stalls. -/
def telemStalls (s : State) : Bytes := (List.range 256).flatMap fun i => leBytes 8 (Tbl.get 0 s.stalls i).toNat

/-- R303, R359: state code of a channel. -/
def chanCode (s : State) (i : Nat) : Nat :=
  match Tbl.get .normal s.pow.chans i with
  | .normal => 0
  | .degraded => 1
  | .out => 2

/-- R288, R359: section 3, per channel. -/
def telemChans (s : State) : Bytes :=
  (List.range 256).flatMap fun i =>
    leBytes 6 ((s.pow.sample.corrected.getD i 0).toNat) ++ leBytes 1 (chanCode s i) ++ leBytes 1 0

/-- TELEMETRY_READ (R359). -/
def doTelemetryRead (_ch _tag : Nat) (bd : Bytes) (s : State) : Reply :=
  match field bd 0 1 with
  | 0 => .now stOk (telemModule s) s
  | 1 => .now stOk (telemDies s) s
  | 2 => .now stOk (telemStalls s) s
  | 3 => .now stOk (telemChans s) s
  | _ => refuseMsg stBadArgument s

/-- R409: entries of the error log from one number to before another. -/
def logEntries (s : State) (first stop : Nat) : List Bytes :=
  (List.range (stop - first)).map fun i => Tbl.get [] s.log.ring ((first + i) % 2048)

/-- R404, R409: units of the dump area that lie within it. -/
def dumpUnits (s : State) (first n : Nat) : List Bytes :=
  if s.sup.in40 then
    (((List.range n).map (· + first)).filter fun u => decide (u < 31250000)).map fun u => readMem s (dumpBase s.id + 64 * u) 64
  else []

/-- LOG_READ (R409). -/
def doLogRead (_ch _tag : Nat) (bd : Bytes) (s : State) : Reply :=
  let first := field bd 0 4
  let n := field bd 4 2
  if n = 0 ∨ 47 < n then refuseMsg stBadArgument s
  else
    let es := if bitOf first 31 then dumpUnits s (bits first 30 0) n
      else logEntries s (max first (s.log.next - 2048)) (min (first + n) s.log.next)
    .now stOk (leBytes 4 s.log.next ++ leBytes 2 es.length ++ leBytes 2 0 ++ es.flatten) s

/-! ### Mica slices and BAR2 (R293, R339) -/

/-- R283: base of a Mica slice. -/
def sliceBase (k : Nat) : Nat := micaBase + k * 0x1000000

/-- R293: a context maps a page in a slice. -/
def sliceMapped (s : State) (k : Nat) : Bool :=
  s.ctxs.any fun c => c.2.maps.any fun m =>
    !m.remote && decide (m.target < sliceBase (k + 1)) && decide (sliceBase k < m.target + pageSize m)

/-- R293: a Mica slice's number among the CACHE slices. -/
def cacheRank (s : State) (k : Nat) : Nat := ((List.range k).filter fun i => s.micaCache.getLsbD i).length

/-- R294: of lines hashed anew over the CACHE slices, each set keeps 16 at most. -/
def rehash (s : State) : List PrefLine → List PrefLine → List PrefLine
  | kept, [] => kept
  | kept, l :: ls =>
    let full := decide (16 ≤ (kept.filter fun o => o.mica && micaPlace s o / 16 == micaPlace s l / 16).length)
    if l.mica && (full || micaLines s == 0) then rehash s kept ls else rehash s (kept ++ [l]) ls

/-- R293: a slice becomes scratchpad: its cache lines are invalidated (of the others, a free part) and its content is free. -/
def toScratch (k : Nat) (s : State) : State :=
  let mine := fun (l : PrefLine) => micaPlace s l / 131072 == cacheRank s k
  let gone := fun (l : PrefLine) => l.mica && (mine l || Config.freeBit s.free (l.line * 512 + l.ctx * 2 + b2n l.remote))
  { s with
    pref := s.pref.filter fun l => !gone l
    mem := putImage (sliceBase k) 0x1000000 (freeRegion s k 0 0x1000000) s.mem
    free := s.free + 1 }

/-- MICA_SLICES (R293, R348). -/
def doMicaSlices (_ch _tag : Nat) (bd : Bytes) (s : State) : Reply :=
  let mask := BitVec.ofNat 32 (field bd 0 4)
  let ks := List.range 31
  if mask.getLsbD 31 then refuseMsg stBadArgument s
  else if ks.any fun k => mask.getLsbD k && !s.micaCache.getLsbD k && sliceMapped s k then refuseMsg stNoResource s
  else
    let s1 := (ks.filter fun k => !mask.getLsbD k && s.micaCache.getLsbD k).foldl (fun s k => toScratch k s) s
    let s2 := (ks.filter fun k => mask.getLsbD k && !s.micaCache.getLsbD k).foldl (fun s k =>
      { s with mem := memClear s.mem (sliceBase k) 0x1000000 }) s1
    let s3 : State := { s2 with micaCache := mask }
    .now stOk [] { s3 with pref := rehash s3 [] s3.pref }

/-- BAR2_SET (R339): OFFSET of the PF, or context and base of a VF. -/
def doBar2Set (ch _tag : Nat) (bd : Bytes) (s : State) : Reply :=
  let v := field bd 8 8
  if ch = 0 then
    if field bd 0 1 ≠ 0 ∨ v % 2 ^ (getFn s 0).bar2Log ≠ 0 ∨ 8 * ilBytes s.id ≤ v then refuseMsg stBadArgument s
    else .now stOk [] (modFn 0 (fun f => { f with bar2Off := v }) s)
  else if !ownsCtx s ch (field bd 0 1) then refuseMsg stNotPermitted s
  else if 2 ^ 48 ≤ v then refuseMsg stBadArgument s
  else .now stOk [] (modFn ch (fun f => { f with bar2Ctx := some (field bd 0 1), bar2Base := v }) s)

/-! ### Roles (R327, R330) -/

/-- R327: coordinates 1 or 2 modulo 4 in every dimension of size 4 or more. -/
def managerPlace (i : Ident) : Bool :=
  [0, 1, 2].all fun d => decide (dimSize i d < 4) || coord i.addr d % 4 == 1 || coord i.addr d % 4 == 2

/-- ROLE_SET (R327, R332): a new manager is its own pod manager; a pod manager joins the system manager that it knows. -/
def doRoleSet (_ch _tag : Nat) (bd : Bytes) (s : State) : Reply :=
  let r := field bd 0 1
  if 2 < r then refuseMsg stBadArgument s
  else if r ≠ 0 ∧ managerPlace s.id = false then refuseMsg stBadArgument s
  else
    let sys := s.fab.sysManager
    let s' := { s with id := { s.id with role := roleOf r } }
    if r = 0 then .now stOk [] s'
    else
      let s' := { s' with fab := { s'.fab with manager := s.id.addr, beaconU := s.tb.nowU - 100 * msU } }
      .now stOk [] (if r = 1 ∧ s.fab.confirmed = true ∧ sys ≠ s.id.addr then sendJoin sys s' else s')

/-- LEAVE (R330): the module tells its manager and is no member any more. -/
def doLeave (_ch _tag : Nat) (_bd : Bytes) (s : State) : Reply :=
  if !s.fab.confirmed then refuseMsg stBadArgument s
  else
    let s := mgmtSend (joinedTo s) 0x05 [] s
    .now stOk [] { s with fab := { s.fab with confirmed := false, joined := false } }

/-! ### Power (R361, R370, R371, R375, R381) -/

/-- POWER_CAP_SET (R361, R371, R375): over MCTP the board limit, from the PF the host cap. -/
def doPowerCapSet (ch _tag : Nat) (bd : Bytes) (s : State) : Reply :=
  let w := field bd 0 2
  if w < 1200 ∨ 3500 < w then refuseMsg stBadArgument s
  else
    let s := { s with pow := if ch = 32 then { s.pow with boardCap := w } else { s.pow with hostCap := w } }
    .now (if s.pow.tripHold then stThermal else if capW s < floorW s.pow.oppoint then stCapUnmet else stOk) [] s

/-- OPPOINT_SET (R370): only while no context 1-255 exists. -/
def doOppointSet (_ch _tag : Nat) (bd : Bytes) (s : State) : Reply :=
  let l := field bd 0 1
  if 2 < l ∨ hostCtxExists s = true then refuseMsg stBadArgument s
  else .now stOk [] { s with pow := { s.pow with oppoint := l } }

/-- WAKE_SET (R381): a TIME already reached wakes at once; TIME 0 cancels. -/
def doWakeSet (_ch _tag : Nat) (bd : Bytes) (s : State) : Reply :=
  let t := field bd 8 8
  match field bd 0 1 with
  | 0 =>
    if t = 0 then .now stOk [] { s with pow := { s.pow with rtcAlarm := none } }
    else if t ≤ s.rtcUs then .now stOk [] (wakeUp { s with pow := { s.pow with rtcAlarm := none } })
    else .now stOk [] { s with pow := { s.pow with rtcAlarm := some t } }
  | 1 =>
    if t = 0 then .now stOk [] { s with pow := { s.pow with frameAlarm := none } }
    else if s.reachedN t then .now stOk [] (wakeUp { s with pow := { s.pow with frameAlarm := none } })
    else .now stOk [] { s with pow := { s.pow with frameAlarm := some (BitVec.ofNat 64 t) } }
  | _ => refuseMsg stBadArgument s

/-! ### Firmware slots (R348, R354-R357) -/

/-- R348: state code of slot A or B. -/
def slotCode (s : State) (b : Bool) : Nat :=
  let x := if b then s.id.slotB else s.id.slotA
  if s.id.activeB = b then (if s.id.trial then 3 else 2) else if x.st = .valid then 1 else 0

/-- FW_QUERY (R348). -/
def doFwQuery (_ch _tag : Nat) (_bd : Bytes) (s : State) : Reply :=
  .now stOk (leBytes 4 s.id.slotA.version.toNat ++ leBytes 4 (slotCode s false)
    ++ leBytes 4 s.id.slotB.version.toNat ++ leBytes 4 (slotCode s true)) s

/-- Change the inactive slot. -/
def setOther (x : Slot) (s : State) : State :=
  { s with id := if s.id.activeB then { s.id with slotA := x } else { s.id with slotB := x } }

/-- FW_STAGE (R355): the inactive slot becomes INVALID, and the copy follows. -/
def doFwStage (ch _tag : Nat) (bd : Bytes) (s : State) : Reply :=
  if !ownsCtx s ch (field bd 0 1) || s.id.trial then refuseMsg stNotPermitted s
  else .later [] 0 (setOther { otherSlot s with st := .invalid } s)

/-- R355: the end of FW_STAGE: an image too long, unreadable, unverified or for another stepping leaves the slot INVALID. -/
def endFwStage (bd : Bytes) (s : State) : Nat × State :=
  let n := field bd 4 4
  if 96 * 1048576 < n then (stBadArgument, s)
  else
    match ctxPeek s (field bd 0 1) (n / 65536 + 2) (field bd 8 8) n with
    | none => (stBadArgument, s)
    | some im =>
      if !Config.imageVerifies im then (stIntegrity, s)
      else if !Config.imageStepping im then (stBadArgument, s)
      else (stOk, setOther { version := Config.imageVersion im, st := .valid } s)

/-- FW_ACTIVATE (R356): LIVE begins the live update; AT_RESTART names the TRIAL slot of the next start-up. -/
def doFwActivate (_ch _tag : Nat) (bd : Bytes) (s : State) : Reply :=
  if 1 < field bd 0 1 ∨ 2 ^ 48 ≤ field bd 8 8 ∨ (otherSlot s).st ≠ .valid then refuseMsg stBadArgument s
  else if field bd 0 1 = 0 then .later [] 0 s
  else .now stOk [] { s with id := { s.id with trialNext := true } }

/-- FW_COMMIT (R357). -/
def doFwCommit (_ch _tag : Nat) (_bd : Bytes) (s : State) : Reply :=
  if s.id.trial then .now stOk [] { s with id := { s.id with trial := false } } else refuseMsg stBadArgument s

/-! ### Calibration (R307, R358) -/

/-- R303, R408: a channel takes a state, and the CHANNEL entry says so. -/
def setChan (stack chan : Nat) (st : ChanState) (s : State) : State :=
  let s := { s with pow := { s.pow with chans := Tbl.put .normal s.pow.chans (stack * 32 + chan) st } }
  logEntry 0x000A 0 (leBytes 1 stack ++ leBytes 1 chan ++ leBytes 1 (chanCode s (stack * 32 + chan))) s

/-- R358: firmware writes changed calibration to the configuration area. -/
def storeCalib (s : State) : State :=
  { s with
    id := { s.id with calibChanged := s.id.calibChanged ||| s.pow.calibDirty }
    pow := { s.pow with calibDirty := 0, calibU := some s.tb.nowU } }

/-- R358: the last write of calibration lies 10 minutes back, or there was none. -/
def calibDue (s : State) : Bool :=
  match s.pow.calibU with
  | some t => s.since t (600 * secU)
  | none => true

/-- R358: one channel retrains at a stack temperature; a failure leaves it DEGRADED with its previous settings. -/
def retrainChan (stack chan : Nat) (deciC : Int) (good : Bool) (s : State) : State :=
  let i := stack * 32 + chan
  let s := { s with pow := { s.pow with
    trainedAt := Tbl.ins s.pow.trainedAt i deciC, trainedU := Tbl.ins s.pow.trainedU i s.tb.nowU } }
  if good then
    let s := { s with pow := { s.pow with calibDirty := s.pow.calibDirty ||| BitVec.ofNat 8 (2 ^ stack) } }
    if calibDue s then storeCalib s else s
  else
    match Tbl.get .normal s.pow.chans i with
    | .normal => setChan stack chan .degraded s
    | .degraded | .out => s

/-- RECALIBRATE (R348, R358). -/
def doRecalibrate (_ch _tag : Nat) (_bd : Bytes) (s : State) : Reply := .later [] 0 s

/-- R358: retrain every channel in service of a stack; whether a channel fails is free. -/
def retrainStack (s : State) (stack : Nat) : State :=
  ((List.range 32).filter fun c => decide (Tbl.get .normal s.pow.chans (stack * 32 + c) ≠ .out)).foldl (fun s c =>
    retrainChan stack c (s.pow.temps.getD (8 + stack) 250) (Config.freeBit s.free c) s) { s with free := s.free + 1 }

/-- R307, R358: retune every lane of a port in service, one at a time; a lane that fails is disabled, and which ones fail is free. -/
def retunePort (s : State) (port : Nat) : State :=
  let q := getPort s port
  if !portUp q || q.tuning.isSome then s
  else
    let ls := (List.range 16).filter fun l => !q.disabled.contains l
    let bad := ls.filter fun l => Config.freeBit s.free l
    let s := modPort port (fun q => { q with
      retunes := satAdd q.retunes ls.length, disabled := bad ++ q.disabled, lanes := q.lanes - bad.length }) { s with free := s.free + 1 }
    if bad.isEmpty then probeLink port s
    else if q.lanes - bad.length < 12 then sendCovers (takeDown port s)
    else probeLink port (setLink port .degraded id s)

/-- R358: the end of RECALIBRATE: the named stacks and ports retrain, and changed calibration is written to flash. -/
def endRecalibrate (bd : Bytes) (s : State) : Nat × State :=
  let s := ((List.range 8).filter fun k => bitOf (field bd 0 1) k).foldl retrainStack s
  (stOk, storeCalib (((List.range 8).filter fun p => bitOf (field bd 1 1) p).foldl retunePort s))

end Sys2Proof.Machine
end

