-- ==== Sys2Proof/Machine/MsgContext.lean ====
section
/-!
DEFINITION. Mailbox messages about contexts (R44, R348, R402, R403): contexts, counters, queues, tile grants (R104), mappings
(R350, R428), channel map-out (R302-R304), stage queues (R175, R178) and groups (R250).
-/
namespace Sys2Proof.Machine

/-- R44: refuse a message that adds a resource to a context that is not ACTIVE, or that names a context of another function. -/
def needActive (s : State) (ch c : Nat) : Option Nat :=
  if (getCtx s c).st ≠ .active then some stBadArgument
  else if !ownsCtx s ch c then some stNotPermitted else none

/-! ### Contexts and counters (R59, R348, R403) -/

/-- R403: CTX_CREATE withholds a freed number for 100 ms. -/
def ctxWithheld (s : State) (c : Nat) : Bool :=
  match (getCtx s c).freedU with
  | some t => !s.since t (100 * msU)
  | none => false

/-- Context numbers that CTX_CREATE may give. -/
def freeCtxs (s : State) : List Nat :=
  ((List.range 255).map (· + 1)).filter fun c => decide ((getCtx s c).st = .free) && !ctxWithheld s c

/-- R59: first blocks of the runs of n free counter blocks. -/
def freeRuns (s : State) (n : Nat) : List Nat :=
  ((List.range 1020).map (· + 4)).filter fun b => decide (b + n ≤ 1024) &&
    (List.range n).all fun i => Tbl.get 0 s.ctrOwner (b + i) == 0

/-- One of a list, by a free choice; d when the list is empty. -/
def pick (s : State) (n d : Nat) (l : List Nat) : Nat := l.getD (Config.freeNat s.free n % max 1 l.length) d

/-- R59: grant n blocks from b on, zeroed. -/
def grantBlocks (ctx b n : Nat) (s : State) : State :=
  (List.range n).foldl (fun s i =>
    { s with
      ctrOwner := Tbl.put 0 s.ctrOwner (b + i) (ctx + 1)
      counters := s.counters.filter fun e => decide (e.1 / 64 ≠ b + i) }) s

/-- R87, R348: CTX_CREATE. Which free number and which run of blocks firmware takes is free. -/
def doCtxCreate (ch _tag : Nat) (bd : Bytes) (s : State) : Reply :=
  let n := field bd 2 2
  let mode := field bd 4 4
  let w := field bd 8 4
  let want := field bd 0 1
  let cs := freeCtxs s
  let runs := freeRuns s n
  if bits mode 31 8 ≠ 0 ∨ bits mode 5 3 ≠ 0 then refuseMsg stBadArgument s
  else if cs.isEmpty ∨ (want ≠ 0 ∧ cs.contains want = false) ∨ (n ≠ 0 ∧ runs.isEmpty = true) then refuseMsg stNoResource s
  else
    let c := if want = 0 then pick s 0 0 cs else want
    let b := if n = 0 then 0 else pick s 1 0 runs
    let s := { s with free := s.free + 1 }
    let s := modCtx c (fun _ => { st := .active, owner := ch, arithMode := BitVec.ofNat 32 mode, wdogPh := if w = 0 then 0x20000 else w }) s
    .now stOk (leBytes 1 c ++ [0] ++ leBytes 2 (b * 64) ++ leBytes 2 n) (grantBlocks c b n s)

/-- R402: a started command of a DRAINING context stops: it completes with CTX_GONE, its vector cores and requests let go. -/
def stopDraining (k : Nat) (s : State) : State := abortCmd k stCtxGone (freeCores k s)

/-- R402 step 1: a context drains: its started commands end, collectives among them, and fetched ones never start. -/
def beginDrain (c : Nat) (tag : BitVec 32) (quiet : Bool) (s : State) : State :=
  let s := modCtx c (fun x => { x with st := .draining, drainTag := tag, drainPh := 0, quiet := quiet }) s
  let ks := (s.cmds.filter fun d => d.ctx == c && decide (d.st = .started)).map (·.k)
  ks.foldl (fun s k => stopDraining k s) s

/-- CTX_DESTROY (R402): accepted in ACTIVE or ERROR. -/
def doCtxDestroy (ch tag : Nat) (bd : Bytes) (s : State) : Reply :=
  let c := field bd 0 1
  if !ownsCtx s ch c then refuseMsg stNotPermitted s
  else if (getCtx s c).st = .draining then refuseMsg stBadArgument s
  else .later [] 0 (beginDrain c (BitVec.ofNat 32 tag) false s)

/-- R348: bytes that a context maps. -/
def mappedBytes (x : Ctx) : Nat := x.maps.foldl (fun n m => n + pageSize m) 0

/-- CTX_QUERY (R44, R88, R348). -/
def doCtxQuery (ch _tag : Nat) (bd : Bytes) (s : State) : Reply :=
  let c := field bd 0 1
  if !ownsCtx s ch c then refuseMsg stNotPermitted s
  else if 1 < field bd 1 1 then refuseMsg stBadArgument s
  else
    let x := getCtx s c
    .now stOk (leBytes 1 (ctxCode x.st) ++ leBytes 1 (s.queues.filter fun q => q.2.ctx == c).length ++ leBytes 6 0
        ++ leBytes 8 x.sticky.toNat ++ leBytes 8 (mappedBytes x))
      (if field bd 1 1 = 1 then modCtx c (fun x => { x with sticky := 0 }) s else s)

/-- COUNTER_GRANT (R59, R348). -/
def doCounterGrant (ch _tag : Nat) (bd : Bytes) (s : State) : Reply :=
  let c := field bd 0 1
  let n := field bd 2 2
  match needActive s ch c with
  | some st => refuseMsg st s
  | none =>
    let runs := freeRuns s n
    if runs.isEmpty then refuseMsg stNoResource s
    else
      let b := pick s 0 0 runs
      .now stOk (leBytes 2 (b * 64)) (grantBlocks c b n { s with free := s.free + 1 })

/-! ### Queues (R46, R348) -/

/-- R46: the attributes lie in their ranges. -/
def queueOk (bd : Bytes) : Bool :=
  let n := field bd 2 1
  let m := field bd 3 1
  let inR := fun k => decide (6 ≤ k) && decide (k ≤ 16)
  decide (field bd 1 1 ≤ 7) && inR n && inR m && decide (field bd 4 1 ≤ 3) && decide (field bd 6 2 ≤ 2047)
    && decide (field bd 8 8 < 2 ^ 48) && decide (field bd 16 8 < 2 ^ 48)
    && field bd 8 8 % (64 * 2 ^ n) == 0 && field bd 16 8 % (32 * 2 ^ m) == 0

/-- QUEUE_CREATE (R46, R348). Which free number firmware takes is free. -/
def doQueueCreate (ch _tag : Nat) (bd : Bytes) (s : State) : Reply :=
  let c := field bd 0 1
  match needActive s ch c with
  | some st => refuseMsg st s
  | none =>
    let qs := (List.range 1024).filter fun q => (findQueue s q).isNone
    if !queueOk bd then refuseMsg stBadArgument s
    else if qs.isEmpty ∨ 16 ≤ (s.queues.filter fun q => q.2.ctx == c).length then refuseMsg stNoResource s
    else
      let q := pick s 0 0 qs
      let x : Queue := { ctx := c, basalt := field bd 1 1, ringVa := field bd 8 8, ringN := field bd 2 1, cqVa := field bd 16 8,
                         cqN := field bd 3 1, floor := field bd 4 1, vector := field bd 6 2 }
      .now stOk (leBytes 2 q) { s with queues := Tbl.ins s.queues q x, free := s.free + 1 }

/-- R348: discard the commands of a queue that have not started. -/
def dropUnstarted (q : Nat) (s : State) : State :=
  { s with cmds := s.cmds.filter fun c => !(c.q == q && decide (c.st = .fetched)) }

/-- QUEUE_DESTROY (R348). -/
def doQueueDestroy (ch _tag : Nat) (bd : Bytes) (s : State) : Reply :=
  let q := field bd 0 2
  match findQueue s q with
  | none => refuseMsg stBadArgument s
  | some x =>
    if !ownsCtx s ch x.ctx then refuseMsg stNotPermitted s
    else .later [] 0 (dropUnstarted q (modQueue q (fun x => { x with closing := true }) s))

/-- R348: the end of QUEUE_DESTROY, once every started command of the queue is complete. -/
def endQueueDestroy (bd : Bytes) (s : State) : Option (Nat × State) :=
  let q := field bd 0 2
  if (queueCmds s q).isEmpty then some (stOk, { s with queues := Tbl.del s.queues q }) else none

/-! ### Tile grants (R104, R105) -/

/-- R104: owner of a bank of a cluster. -/
def bankOwner (x : Cluster) (bank : Nat) : Option Nat :=
  match x.mode with
  | .released => none
  | .exclusive => some x.ctxA
  | .split => some (if bank = 0 then x.ctxA else x.ctxB)

/-- R104: the grant that a TILE_GRANT asks for. -/
def grantOf (bd : Bytes) (old : Cluster) : Cluster :=
  match field bd 1 1 with
  | 0 => { old with mode := .exclusive, ctxA := field bd 4 1, ctxB := 0 }
  | 1 => { old with mode := .split, ctxA := field bd 4 1, ctxB := field bd 5 1 }
  | _ => { old with mode := .released, ctxA := 0, ctxB := 0 }

/-- R104: the grant in force already names the same mode and contexts. -/
def sameGrant (a b : Cluster) : Bool :=
  decide (a.mode = b.mode) && decide (bankOwner a 0 = bankOwner b 0) && decide (bankOwner a 1 = bankOwner b 1)

/-- The clusters that a TILE_GRANT names. -/
def grantClusters (bd : Bytes) : List Nat := (List.range 16).filter fun i => bitOf (field bd 2 2) i

/-- R104, R270: a started RED_LOWRANK uses a cluster until its last array step. -/
def lowrankOn (c : Cmd) (b i : Nat) : Bool :=
  decide (cmdOp c = 0x61) && !lrSmall c && decide (c.prog.segment < 4) && c.basalt == b && (lrClusters c).contains i

/-- R104: a context that loses a bank of the cluster has a started command that uses the cluster. -/
def clusterBusy (s : State) (b i : Nat) (new : Cluster) : Bool :=
  let old := getCluster s b i
  let losers := ([0, 1].filter fun k => decide (bankOwner old k ≠ bankOwner new k)).filterMap fun k => bankOwner old k
  let u := 8000 + (b * 16 + i) * 2
  s.cmds.any fun c => decide (c.st = .started) && losers.contains c.ctx &&
    ((cmdUnits s c).contains u || (cmdUnits s c).contains (u + 1) || lowrankOn c b i)

/-- R104, R105: apply a grant to one cluster. -/
def grantCluster (b i : Nat) (new : Cluster) (s : State) : State :=
  let old := getCluster s b i
  if sameGrant old new then s
  else
    let lost := [0, 1].filter fun k => decide (bankOwner old k ≠ bankOwner new k)
    let tiles := (List.range 32).map (· + i * 32)
    { s with
      clusters := Tbl.put {} s.clusters (b * 16 + i) new
      streams := [0, 1, 2, 3].foldl (fun t j => Tbl.del t ((b * 16 + i) * 4 + j)) s.streams
      activeBank := if new.mode = .exclusive then tiles.foldl (fun t x => Tbl.put 0 t (b * 512 + x) 0) s.activeBank else s.activeBank
      banks := tiles.foldl (fun t x => lost.foldl (fun t k => Tbl.del t ((b * 512 + x) * 2 + k)) t) s.banks }

/-- R104: apply a TILE_GRANT to every cluster that it names. -/
def applyGrant (bd : Bytes) (s : State) : State :=
  let b := field bd 0 1
  (grantClusters bd).foldl (fun s i => grantCluster b i (grantOf bd (getCluster s b i)) s) s

/-- R104: no losing context uses a cluster that the grant names. -/
def grantFree (bd : Bytes) (s : State) : Bool :=
  let b := field bd 0 1
  !(grantClusters bd).any fun i => clusterBusy s b i (grantOf bd (getCluster s b i))

/-- R44, R104: the arguments of a TILE_GRANT. -/
def grantOk (bd : Bytes) (s : State) : Bool :=
  let mode := field bd 1 1
  let live := fun c => decide (1 ≤ c) && decide ((getCtx s c).st = .active)
  decide (field bd 0 1 ≤ 7) && decide (mode ≤ 2) && (mode != 1 || field bd 4 1 != field bd 5 1)
    && (mode == 2 || live (field bd 4 1)) && (mode != 1 || live (field bd 5 1))

/-- TILE_GRANT (R104, R348). -/
def doTileGrant (_ch _tag : Nat) (bd : Bytes) (s : State) : Reply :=
  if !grantOk bd s then refuseMsg stBadArgument s
  else if grantFree bd s then .now stOk [] (applyGrant bd s)
  else .later [] 0 s

/-- R104: the end of a TILE_GRANT that waited. -/
def endTileGrant (bd : Bytes) (s : State) : Option (Nat × State) :=
  if !grantOk bd s then some (stBadArgument, s)
  else if grantFree bd s then some (stOk, applyGrant bd s) else none

/-! ### Device memory held by functions (R291, R350) -/

/-- Canonical pieces of a page: 8 in the interleaved window (R285), one elsewhere. -/
def pagePieces (i : Ident) (a size : Nat) : List (Nat × Nat) :=
  if a < 8 * ilBytes i then (List.range 8).map fun k => (stackBase k + a / 8, size / 8) else [(a, size)]

/-- What the pieces of held memory leave of an interval. -/
def uncovered : List HeldPage → List (Nat × Nat) → List (Nat × Nat)
  | [], l => l
  | h :: hs, l => uncovered hs (l.flatMap fun p =>
      if h.base + h.size ≤ p.1 ∨ p.1 + p.2 ≤ h.base then [p]
      else [(p.1, h.base - p.1), (h.base + h.size, p.1 + p.2 - (h.base + h.size))].filter fun q => decide (0 < q.2))

/-- Cut a held piece at the bounds of an interval: the parts outside it and the part inside. -/
def cutHeld (h : HeldPage) (a n : Nat) : List HeldPage × List HeldPage :=
  if h.base + h.size ≤ a ∨ a + n ≤ h.base then ([h], [])
  else
    let lo := max h.base a
    let hi := min (h.base + h.size) (a + n)
    (([{ h with size := a - h.base }, { h with base := a + n, size := h.base + h.size - (a + n) }] : List HeldPage).filter
        fun x => decide (0 < x.size),
      [{ h with base := lo, size := hi - lo }])

/-- R291, R350: a context maps memory: the function holds it from then on, and the first MAP's hint stays. -/
def holdMem (fn ctx hint lastUse : Nat) (p : Nat × Nat) (s : State) : State :=
  let fresh := (uncovered s.held [p]).map fun q =>
    ({ base := q.1, size := q.2, fn := fn, hint := hint, lastUse := lastUse, ctxs := [ctx] } : HeldPage)
  let old := s.held.flatMap fun h =>
    let c := cutHeld h p.1 p.2
    c.1 ++ c.2.map fun x => if x.ctxs.contains ctx then x else { x with ctxs := ctx :: x.ctxs }
  { s with held := old ++ fresh }

/-- R350: memory that no undrained context has mapped returns to the free pool. -/
def releaseMem (ctx : Nat) (s : State) : State :=
  { s with held := (s.held.map fun h => { h with ctxs := h.ctxs.filter (· != ctx) }).filter fun h => !h.ctxs.isEmpty }

/-! ### MAP, UNMAP, MEM_QUERY (R71-R73, R350, R428) -/

/-- R350: page size that ATTR names. -/
def attrPage (bd : Bytes) : Nat := if bitOf (field bd 1 1) 1 then 0x200000 else 0x10000

/-- R302: stack and offset of a stack-local device address. -/
def stackOf (a : Nat) : Option (Nat × Nat) :=
  if stackBase 0 ≤ a ∧ a < stackBase 8 then some ((a - stackBase 0) / 0x002000000000, (a - stackBase 0) % 0x002000000000) else none

/-- R283, R284, R293, R350: why a page of device memory is refused. -/
def pageRefused (s : State) (fn a size : Nat) : Option Nat :=
  let held := (pagePieces s.id a size).any fun p =>
    s.held.any fun h => decide (h.fn ≠ fn) && decide (h.base < p.1 + p.2) && decide (p.1 < h.base + h.size)
  if a + size ≤ 8 * ilBytes s.id then (if held then some stNotPermitted else none)
  else
    match stackOf a with
    | some (k, o) =>
      if stackCap s.id k < o + size then some stBadArgument
      else if o < ilBytes s.id + stackReserve k ∧ ilBytes s.id < o + size then some stNotPermitted
      else if held then some stNotPermitted else none
    | none =>
      if micaBase ≤ a ∧ a + size ≤ micaBase + 0x20000000 then
        let k := (a - micaBase) / 0x1000000
        if k = 31 then some stNotPermitted
        else if s.micaCache.getLsbD k then some stBadArgument
        else if held then some stNotPermitted else none
      else some stBadArgument

/-- R350: ATTR and HINT hold no reserved bit or encoding. -/
def attrOk (bd : Bytes) : Bool :=
  let a := field bd 1 1
  let h := field bd 2 1
  decide (a < 32) && bits a 4 3 != 3 && bits h 3 2 == 0 && (bits h 1 0 != 3 || bits h 7 4 != 0)

/-- R350: one mapping of the message. -/
def mapOf (bd : Bytes) (i : Nat) : Mapping :=
  let a := field bd 1 1
  let n := attrPage bd
  { va := field bd 8 8 + i * n, big := bitOf a 1, writable := bitOf a 0, remote := bitOf a 2, access := bits a 4 3,
    target := field bd 16 8 + i * n, dst := BitVec.ofNat 16 (field bd 24 2), rctx := BitVec.ofNat 8 (field bd 26 1) }

/-- R71, R350: a virtual range overlaps a mapping of the context. -/
def vaTaken (x : Ctx) (va n : Nat) : Bool := x.maps.any fun m => decide (m.va < va + n) && decide (va < m.va + pageSize m)

/-- R350: what is wrong with the ranges of a MAP; BAD_ARGUMENT goes before NOT_PERMITTED. -/
def mapRefused (s : State) (ch : Nat) (bd : Bytes) : Option Nat :=
  let n := attrPage bd
  let cnt := field bd 4 4
  let va := field bd 8 8
  let t := field bd 16 8
  let remote := bitOf (field bd 1 1) 2
  let dstBad := bits (field bd 24 2) 15 14 != 0 || bits (field bd 24 2) 13 12 == 3
  if !attrOk bd || dstBad || va % n != 0 || t % n != 0 || decide (va < 0x10000) || decide (2 ^ 48 < va + cnt * n)
      || vaTaken (getCtx s (field bd 0 1)) va (cnt * n) || (remote && decide (2 ^ 64 < t + cnt * n)) then some stBadArgument
  else if remote then none
  else if decide (stackBase 8 + 0x20000000 < t + cnt * n) then some stBadArgument
  else
    let rs := (List.range cnt).filterMap fun i => pageRefused s ch (t + i * n) n
    if rs.contains stBadArgument then some stBadArgument else rs.head?

/-- R428: the consecutive mappings from a virtual address on, all n or none. -/
def unmapRun (x : Ctx) : Nat → Nat → Option (List Mapping)
  | 0, _ => some []
  | n + 1, va =>
    match x.maps.find? fun m => decide (m.va = va) with
    | none => none
    | some m => (unmapRun x n (va + pageSize m)).map fun l => m :: l

/-- R428: the run that an UNMAP names. VA itself must be the first address of a mapping. -/
def unmapNamed (s : State) (bd : Bytes) : Option (List Mapping) :=
  let x := getCtx s (field bd 0 1)
  if (x.maps.find? fun m => decide (m.va = field bd 8 8)).isSome then unmapRun x (field bd 4 4) (field bd 8 8) else none

/-- UNMAP (R73, R428). -/
def doUnmap (ch _tag : Nat) (bd : Bytes) (s : State) : Reply :=
  if !ownsCtx s ch (field bd 0 1) then refuseMsg stNotPermitted s
  else
    match unmapNamed s bd with
    | none => refuseMsg stBadArgument s
    | some _ => .later [] 0 s

/-- R73: a remote access already translated through the mappings waits for its response. -/
def accessOut (s : State) (ctx : Nat) (ms : List Mapping) : Bool :=
  s.fab.reqs.any fun r => !r.dropped && r.ctx == ctx && decide (0 < r.len) &&
    ms.any fun m => m.remote && decide (m.va < r.va + r.len) && decide (r.va < m.va + pageSize m)

/-- R73, R303: remove mappings. -/
def removeMaps (ctx : Nat) (ms : List Mapping) (s : State) : State :=
  modCtx ctx (fun x => { x with
    maps := x.maps.filter fun m => !ms.contains m
    shrink := x.shrink.filter fun v => !ms.any fun m => m.va == v }) s

/-- R73: the started commands of a context run across an UNMAP of these mappings. -/
def noteUnmapped (ctx : Nat) (ms : List Mapping) (s : State) : State :=
  { s with cmds := s.cmds.map fun c =>
      if c.ctx = ctx ∧ c.st = .started then { c with unmapped := c.unmapped ++ ms.map fun m => (m.va, pageSize m) } else c }

/-- R73, R428: the end of an UNMAP. -/
def endUnmap (bd : Bytes) (s : State) : Option (Nat × State) :=
  let c := field bd 0 1
  match unmapNamed s bd with
  | none => some (stBadArgument, s)
  | some ms => if accessOut s c ms then none else some (stOk, removeMaps c ms (noteUnmapped c ms s))

/-- MEM_QUERY (R303, R348): at most 380 addresses fit a response. -/
def doMemQuery (ch _tag : Nat) (bd : Bytes) (s : State) : Reply :=
  let c := field bd 0 1
  if !ownsCtx s ch c then refuseMsg stNotPermitted s
  else .now stOk ((((getCtx s c).shrink.drop (field bd 4 4)).take 380).flatMap fun v => leBytes 8 v) s

/-! ### Channel map-out (R302-R304) -/

/-- R302: first offset of the slab of a stack's next map-out. -/
def slabStart (i : Ident) (k : Nat) : Nat := stackCap i k - stackC0 i / 32

/-- R303: a local page lies at least partly in the slab of a stack. -/
def inSlab (i : Ident) (k : Nat) (m : Mapping) : Bool :=
  !m.remote && match stackOf m.target with
    | some (j, o) => j == k && decide (slabStart i k < o + pageSize m)
    | none => false

/-- R303: the lowest free page of a size in the local-only range below the slab. -/
def freePage (s : State) (k size : Nat) : Option Nat :=
  let lo := stackBase k + roundUp size (ilBytes s.id + stackReserve k)
  let top := stackBase k + slabStart s.id k
  let ends := (s.held.map fun h => roundUp size (h.base + h.size)).filter fun a => decide (lo ≤ a)
  let ok := (lo :: ends).filter fun a => decide (a + size ≤ top) &&
    !s.held.any fun h => decide (h.base < a + size) && decide (a < h.base + h.size)
  ok.foldl (fun b a => match b with
    | none => some a
    | some x => some (min x a)) none

/-- R303, R351: post MEM_MOVED for one page. -/
def postMoved (ctx va : Nat) (s : State) : State :=
  postEvent (getCtx s ctx).owner 0x8004 0 (leBytes 1 ctx ++ leBytes 3 0 ++ leBytes 4 1 ++ leBytes 8 va) s

/-- R303, R305: move a page of device memory: its bytes as they are read, its holders and every mapping inside it. -/
def movePage (old size new : Nat) (s : State) : State :=
  let bs := readMem s old size
  let inside := fun (m : Mapping) => !m.remote && decide (old ≤ m.target) && decide (m.target + pageSize m ≤ old + size)
  let hit := s.ctxs.flatMap fun c => (c.2.maps.filter inside).map fun m => (c.1, m.va)
  let lineIn := fun (l : Nat) => decide (old ≤ l * 128) && decide (l * 128 < old + size)
  let moved := s.held.flatMap fun h => (cutHeld h old size).2.map fun x => { x with base := x.base - old + new }
  let s := { s with
    mem := memWriteN (memClear s.mem new size) new bs
    ctxs := s.ctxs.map fun c => (c.1, { c.2 with maps := c.2.maps.map fun m => if inside m then { m with target := m.target - old + new } else m })
    held := (s.held.flatMap fun h => (cutHeld h old size).1) ++ moved
    lines := s.lines.filter fun l => !lineIn l.1
    pref := s.pref.filter fun l => l.remote || !lineIn l.line }
  hit.foldl (fun s h => postMoved h.1 h.2 s) s

/-- R303: pages of a size in the slab, lowest first: each moves to a free page, or stays to be named by MEM_SHRINK. -/
def movePages (k size : Nat) (l : List Nat) (s : State) : State :=
  l.foldl (fun s a =>
    match freePage s k size with
    | some n => movePage a size n s
    | none => s) s

/-- The targets of the mapped pages of one size in the slab. -/
def slabPages (s : State) (k : Nat) (big : Bool) : List Nat :=
  ((s.ctxs.flatMap fun c => (c.2.maps.filter fun m => inSlab s.id k m && m.big == big).map (·.target)).eraseDups).mergeSort (· ≤ ·)

/-- R303, R351: name the pages that could not move to their contexts; a context that has been named all of its pages is told nothing. -/
def shrinkCtxs (k : Nat) (s : State) : State :=
  (s.ctxs.map (·.1)).foldl (fun s c =>
    let vs := ((getCtx s c).maps.filter (inSlab s.id k)).map (·.va)
    if vs.all (getCtx s c).shrink.contains then s
    else
      let s := modCtx c (fun x => { x with shrink := vs }) s
      postEvent (getCtx s c).owner 0x8003 0 (leBytes 1 c ++ leBytes 1 k ++ leBytes 2 0 ++ leBytes 4 vs.length) s) s

/-- R303: a live map-out of a stack is under way, at the host's request or on firmware's own decision. -/
def mapoutRuns (s : State) (k : Nat) : Bool :=
  (s.deferred.any fun d => d.code == 0x0203 && d.begun && d.bad == 0 && field d.req 0 1 == k) || s.pow.ownOut.any fun o => o.1 == k

/-- R304: the live map-out of a stack is refused: one was done since start-up or runs, or the slab would reach into the reserve. -/
def mapoutBad (s : State) (k : Nat) : Bool :=
  s.pow.liveOut.getLsbD k || decide (slabStart s.id k < ilBytes s.id + stackReserve k)
    || mapoutRuns s k

/-- R303 step 2: the pages of a stack that lie in the slab move, or are named to their contexts. -/
def clearSlab (k : Nat) (s : State) : State :=
  let s := movePages k 0x200000 (slabPages s k true) s
  let s := movePages k 0x10000 (slabPages s k false) s
  shrinkCtxs k s

/-- R303, R304: begin the live map-out of a channel, or refuse it and log that. Answers whether it is refused. -/
def beginMapout (k c : Nat) (s : State) : Bool × State :=
  let bad := mapoutBad s k
  let s := if Tbl.get .normal s.pow.chans (k * 32 + c) = .degraded then s else setChan k c .degraded s
  if bad then
    let s := { s with id := { s.id with outNext := if s.id.outNext.contains (k, c) then s.id.outNext else s.id.outNext ++ [(k, c)] } }
    (true, logEntry 0x000A stNoResource (leBytes 1 k ++ leBytes 1 c ++ leBytes 1 3) s)
  else (false, clearSlab k s)

/-- CHANNEL_MAPOUT (R303, R304). -/
def doChannelMapout (_ch _tag : Nat) (bd : Bytes) (s : State) : Reply :=
  let k := field bd 0 1
  let c := field bd 1 1
  if 7 < k ∨ 31 < c ∨ Tbl.get .normal s.pow.chans (k * 32 + c) = .out then refuseMsg stBadArgument s
  else
    let r := beginMapout k c s
    .later [] (if r.1 then stNoResource else 0) r.2

/-- R303: firmware may map out a channel on its own decision from the error reports, which are not the model's: a free choice (log entry
95). -/
def decideMapout (k c : Nat) (s : State) : State :=
  let go := Config.freeBit s.free 7
  let s := { s with free := s.free + 1 }
  if go && decide (Tbl.get .normal s.pow.chans (k * 32 + c) ≠ .out) && !mapoutRuns s k then
    let r := beginMapout k c s
    if r.1 then r.2 else { r.2 with pow := { r.2.pow with ownOut := r.2.pow.ownOut ++ [(k, c)] } }
  else s

/-- R303: a page that is mapped into the slab of a map-out under way moves, or is named, as those before it. -/
def clearSlabs (s : State) : State := ((List.range 8).filter (mapoutRuns s)).foldl (fun s k => clearSlab k s) s

/-- MAP (R71, R350): every page takes effect, or none does. -/
def doMap (ch _tag : Nat) (bd : Bytes) (s : State) : Reply :=
  let c := field bd 0 1
  match needActive s ch c with
  | some st => refuseMsg st s
  | none =>
    match mapRefused s ch bd with
    | some st => refuseMsg st s
    | none =>
      let ms := (List.range (field bd 4 4)).map (mapOf bd)
      let s := modCtx c (fun x => { x with maps := x.maps ++ ms }) s
      let h := field bd 2 1
      .now stOk [] (clearSlabs (if bitOf (field bd 1 1) 2 then s
        else (ms.flatMap fun m => pagePieces s.id m.target (pageSize m)).foldl (fun s p => holdMem ch c (bits h 1 0) (bits h 7 4) p s) s))

/-! ### Stage queues (R175, R178) -/

/-- R175: the ranges of STAGEQ_CREATE. -/
def stageOk (s : State) (bd : Bytes) : Bool :=
  let c := field bd 1 1
  let own := field bd 4 2
  let snd := field bd 6 2
  let b := field bd 16 4
  decide (field bd 0 1 ≤ 1) && decide (field bd 2 2 ≤ 1023) && ctrOwned s c own && ctrOwned s c snd && own != snd
    && decide (field bd 8 2 < 4096) && decide (field bd 10 2 ≤ 1023) && decide (2 ≤ field bd 12 2) && decide (field bd 12 2 ≤ 4096)
    && decide (64 ≤ b) && decide (b ≤ 0x4000000) && b % 64 == 0 && decide (field bd 24 8 < 2 ^ 48)

/-- STAGEQ_CREATE (R175). FREE starts at S, FILL at 0. -/
def doStageqCreate (ch _tag : Nat) (bd : Bytes) (s : State) : Reply :=
  let c := field bd 1 1
  let e := field bd 2 2
  match needActive s ch c with
  | some st => refuseMsg st s
  | none =>
    if !stageOk s bd then refuseMsg stBadArgument s
    else if (findEnd s e).isSome then refuseMsg stNoResource s
    else
      let cons := field bd 0 1 == 1
      let x : StageEnd := { consumer := cons, ctx := c, ownCtr := field bd 4 2, sendCtr := field bd 6 2,
                            peer := BitVec.ofNat 12 (field bd 8 2), peerEnd := field bd 10 2, slots := field bd 12 2,
                            slotBytes := field bd 16 4, slotVa := field bd 24 8 }
      .now stOk [] (ctrPut x.ownCtr (if cons then 0 else BitVec.ofNat 64 x.slots) { s with ends := Tbl.ins s.ends e x })

/-- R346: the end that a message names: who may act on it. -/
def endRefused (s : State) (ch e : Nat) : Option Nat :=
  match findEnd s e with
  | none => some stBadArgument
  | some x => if ownsCtx s ch x.ctx then none else some stNotPermitted

/-- STAGEQ_QUERY (R175, R178). -/
def doStageqQuery (ch _tag : Nat) (bd : Bytes) (s : State) : Reply :=
  let e := field bd 0 2
  match endRefused s ch e, findEnd s e with
  | none, some x =>
    if 1 < field bd 2 1 then refuseMsg stBadArgument s
    else .now stOk (leBytes 1 (b2n x.lost) ++ leBytes 7 0 ++ leBytes 8 x.waitPh.toNat)
      (if field bd 2 1 = 1 then modEnd e (fun x => { x with waitPh := 0 }) s else s)
  | some st, _ => refuseMsg st s
  | none, none => refuseMsg stBadArgument s

/-- STAGEQ_DESTROY (R348). -/
def doStageqDestroy (ch _tag : Nat) (bd : Bytes) (s : State) : Reply :=
  let e := field bd 0 2
  match endRefused s ch e with
  | some st => refuseMsg st s
  | none => .now stOk [] { s with ends := Tbl.del s.ends e }

/-! ### Groups (R250, R327, R348) -/

/-- The member modules of a table, each with the context of its first entry. -/
def tableMembers (t : List (BitVec 32)) : List (BitVec 12 × Nat) :=
  ((t.map rankModule).eraseDups).map fun m => (m, rankCtx ((t.find? fun e => rankModule e == m).getD 0))

/-- Send a management message that a GROUP_SET waits for; collects its number. -/
def sendWaited (dst : BitVec 12) (code : Nat) (bd : Bytes) (x : List (BitVec 32) × State) : List (BitVec 32) × State :=
  (x.1 ++ [x.2.fab.mseq], mgmtSend dst code bd x.2)

/-- R353: send the table to one member, 1,000 entries at a time. -/
def sendTable (code gn qz : Nat) (epoch r : Nat) (t : List (BitVec 32)) (m : BitVec 12 × Nat) (x : List (BitVec 32) × State) :
    List (BitVec 32) × State :=
  ((List.range (ceilDiv r 1000)).map (· * 1000)).foldl (fun x first =>
    let es := (t.drop first).take 1000
    sendWaited m.1 code (leBytes 2 gn ++ leBytes 1 qz ++ leBytes 1 m.2 ++ leBytes 4 epoch ++ leBytes 4 r ++ leBytes 4 first
      ++ leBytes 2 es.length ++ leBytes 6 0 ++ es.flatMap fun e => leBytes 4 e.toNat) x) x

/-- R250, R348: the table that GROUP_SET names, read through the context's mappings. -/
def readTable (s : State) (bd : Bytes) : Option (List (BitVec 32)) :=
  let r := field bd 12 4
  (ctxPeek s (field bd 4 1) 8 (field bd 16 8) (4 * r)).map fun bs => (List.range r).map fun i => BitVec.ofNat 32 (field bs (4 * i) 4)

/-- GROUP_SET with MODE INSTALL or STAGE. -/
def setGroup (ch : Nat) (bd : Bytes) (s : State) : Reply :=
  let gn := field bd 0 2
  let stage := field bd 2 1 == 1
  let r := field bd 12 4
  match needActive s ch (field bd 4 1) with
  | some st => refuseMsg st s
  | none =>
    if gn = 0 ∨ gn = 0xFFFF ∨ 1 < field bd 3 1 ∨ r = 0 ∨ 32768 < r then refuseMsg stBadArgument s
    else
      match readTable s bd with
      | none => refuseMsg stBadArgument s
      | some t =>
        let old := Tbl.find? s.groups gn
        let conflict : Bool := match old with
          | some g => if stage then g.ctx != field bd 4 1 else g.installed
          | none => false
        if t.any fun e => bits e.toNat 31 23 != 0 then refuseMsg stBadArgument s
        else if conflict then refuseMsg (if stage then stNotPermitted else stBadArgument) s
        else if !stage && old.isNone && decide (256 ≤ s.groups.length) && t.any fun e => rankModule e == s.id.addr then
          refuseMsg stNoResource s
        else
          let s := { s with fab := { s.fab with known := (if stage then s.fab.known else s.fab.known.filter fun k => k.1 != gn) ++ [(gn, t)] } }
          let x := (tableMembers t).foldl (fun x m => sendTable (if stage then 0x0E else 0x0D) gn (field bd 3 1) (field bd 8 4) r t m x) ([], s)
          .later x.1 0 x.2

/-- GROUP_SET with MODE REMOVE. -/
def removeGroup (ch : Nat) (bd : Bytes) (s : State) : Reply :=
  let gn := field bd 0 2
  let mine := Tbl.find? s.groups gn
  let ts := (s.fab.known.filter fun k => k.1 == gn).map (·.2) ++ (match mine with
    | some g => [g.table]
    | none => [])
  let foreign : Bool := match mine with
    | some g => g.ctx != field bd 4 1
    | none => false
  if !ownsCtx s ch (field bd 4 1) || foreign then refuseMsg stNotPermitted s
  else if ts.isEmpty then refuseMsg stBadArgument s
  else
    let s := { s with fab := { s.fab with known := s.fab.known.filter fun k => k.1 != gn } }
    let x := (tableMembers ts.flatten).foldl (fun x m => sendWaited m.1 0x0F (leBytes 2 gn ++ [0] ++ leBytes 1 m.2 ++ leBytes 4 0) x) ([], s)
    .later x.1 0 x.2

/-- GROUP_SET (R250, R327, R348). -/
def doGroupSet (ch _tag : Nat) (bd : Bytes) (s : State) : Reply :=
  match field bd 2 1 with
  | 0 => setGroup ch bd s
  | 1 => setGroup ch bd s
  | 2 => removeGroup ch bd s
  | _ => refuseMsg stBadArgument s

/-- GROUP_QUERY (R250, R348). -/
def doGroupQuery (ch _tag : Nat) (bd : Bytes) (s : State) : Reply :=
  let gn := field bd 0 2
  match findGroup s gn with
  | none => refuseMsg stBadArgument s
  | some g =>
    if !ownsCtx s ch g.ctx then refuseMsg stNotPermitted s
    else if 1 < field bd 2 1 then refuseMsg stBadArgument s
    else .now stOk (leBytes 4 g.epoch.toNat ++ leBytes 4 g.r ++ leBytes 4 g.late.toNat ++ leBytes 4 g.stale.toNat
        ++ leBytes 4 g.hdrErr.toNat ++ leBytes 4 g.missing.toNat)
      (if field bd 2 1 = 1 then modGroup gn (fun g => { g with late := 0, stale := 0, hdrErr := 0, missing := 0 }) s else s)

end Sys2Proof.Machine
end

