-- ==== Sys2Proof/Machine/Mailbox.lean ====
section
/-!
DEFINITION. The mailbox (R342-R348): the catalogue of messages, what firmware checks, the objects that deferred requests hold, the
response, and one row per message; MSG_DONE, OVERRUN and the refusal of reserved codes.
-/
namespace Sys2Proof.Machine

/-! ### The catalogue (R348) -/

/-- R348, column "From": any function, or the PF alone; the flag says that MCTP may send it too. -/
inductive Sender where
  | anyone (mctp : Bool)
  | pf (mctp : Bool)
deriving DecidableEq, Repr

/-- R348: one message: its senders, the assigned bytes of its body, and what firmware does with it. -/
structure MsgRow where
  /-- Who may send it. -/
  sender : Sender
  /-- Assigned bytes: offset and length. -/
  fields : List (Nat × Nat)
  /-- Channel, TAG, body, state. -/
  handler : Nat → Nat → Bytes → State → Reply

/-- R348: the messages by code. -/
def msgRow (code : Nat) : Option MsgRow :=
  match code with
  | 0x0001 => some { sender := .anyone true, fields := [], handler := doIdentify }
  | 0x0002 => some { sender := .anyone true, fields := [], handler := doStatusQuery }
  | 0x0003 => some { sender := .anyone true, fields := [(0, 1)], handler := doTelemetryRead }
  | 0x0004 => some { sender := .pf true, fields := [(0, 6)], handler := doLogRead }
  | 0x0005 => some { sender := .pf false, fields := [(0, 4)], handler := doMicaSlices }
  | 0x0006 => some { sender := .anyone false, fields := [(0, 1), (8, 8)], handler := doBar2Set }
  | 0x0100 => some { sender := .anyone false, fields := [(0, 1), (2, 10)], handler := doCtxCreate }
  | 0x0101 => some { sender := .anyone false, fields := [(0, 1)], handler := doCtxDestroy }
  | 0x0102 => some { sender := .anyone false, fields := [(0, 2)], handler := doCtxQuery }
  | 0x0103 => some { sender := .anyone false, fields := [(0, 1), (2, 2)], handler := doCounterGrant }
  | 0x0104 => some { sender := .anyone false, fields := [(0, 5), (6, 18)], handler := doQueueCreate }
  | 0x0105 => some { sender := .anyone false, fields := [(0, 2)], handler := doQueueDestroy }
  | 0x0106 => some { sender := .pf false, fields := [(0, 6)], handler := doTileGrant }
  | 0x0200 => some { sender := .anyone false, fields := [(0, 3), (4, 23)], handler := doMap }
  | 0x0201 => some { sender := .anyone false, fields := [(0, 1), (4, 12)], handler := doUnmap }
  | 0x0202 => some { sender := .anyone false, fields := [(0, 1), (4, 4)], handler := doMemQuery }
  | 0x0203 => some { sender := .pf false, fields := [(0, 2)], handler := doChannelMapout }
  | 0x0300 => some { sender := .anyone false, fields := [(0, 14), (16, 4), (24, 8)], handler := doStageqCreate }
  | 0x0301 => some { sender := .anyone false, fields := [(0, 3)], handler := doStageqQuery }
  | 0x0302 => some { sender := .anyone false, fields := [(0, 2)], handler := doStageqDestroy }
  | 0x0310 => some { sender := .anyone false, fields := [(0, 5), (8, 16)], handler := doGroupSet }
  | 0x0311 => some { sender := .anyone false, fields := [(0, 3)], handler := doGroupQuery }
  | 0x0320 => some { sender := .pf false, fields := [(0, 1)], handler := doRoleSet }
  | 0x0321 => some { sender := .pf false, fields := [], handler := doLeave }
  | 0x0400 => some { sender := .pf true, fields := [(0, 2)], handler := doPowerCapSet }
  | 0x0401 => some { sender := .pf false, fields := [(0, 1)], handler := doOppointSet }
  | 0x0402 => some { sender := .pf false, fields := [(0, 1), (8, 8)], handler := doWakeSet }
  | 0x0500 => some { sender := .pf true, fields := [], handler := doFwQuery }
  | 0x0501 => some { sender := .pf false, fields := [(0, 1), (4, 12)], handler := doFwStage }
  | 0x0502 => some { sender := .pf false, fields := [(0, 1), (8, 8)], handler := doFwActivate }
  | 0x0503 => some { sender := .pf false, fields := [], handler := doFwCommit }
  | 0x0504 => some { sender := .pf false, fields := [(0, 2)], handler := doRecalibrate }
  | _ => none

/-- R348, R360: whether a channel may send a message; 0 is the PF, 1-31 a VF, 32 MCTP. -/
def maySend (f : Sender) (ch : Nat) : Bool :=
  match f with
  | .anyone m => decide (ch < 32) || m
  | .pf m => ch == 0 || (ch == 32 && m)

/-- R346: a body at least as long as its assigned bytes. -/
def lengthFits (r : MsgRow) (n : Nat) : Bool := r.fields.all fun f => decide (f.1 + f.2 ≤ n)

/-- R6, R346: every unlisted byte of the body is zero. -/
def reservedZero (r : MsgRow) (bd : Bytes) : Bool :=
  ((List.range bd.length).zip bd).all fun b => b.2 == 0 || r.fields.any fun f => decide (f.1 ≤ b.1) && decide (b.1 < f.1 + f.2)

/-- R345: the restricted set. -/
def restricted (code : Nat) : Bool :=
  code == 0x0001 || code == 0x0002 || code == 0x0003 || code == 0x0004 || code == 0x0500 || code == 0x0400

/-! ### Objects (R345) -/

/-- R345: an object that a request names: its kind, what it belongs to, and a range. -/
structure MsgObj where
  /-- 0 context, 1 queue, 2 page range of a context, 3 group, 4 stage-queue end, 5 cluster of a Basalt, 6 Mica slice, 7 flash slot. -/
  kind : Nat
  /-- The context of a page range, or the Basalt of a cluster. -/
  sub : Nat := 0
  /-- First. -/
  lo : Nat
  /-- One past the last. -/
  hi : Nat
deriving DecidableEq, Repr

/-- One object by number. -/
def oneObj (kind n : Nat) : MsgObj := { kind := kind, lo := n, hi := n + 1 }

/-- R345: the page range of a MAP or UNMAP. -/
def pageObj (s : State) (code : Nat) (bd : Bytes) : MsgObj :=
  let c := field bd 0 1
  let va := field bd 8 8
  let stop := if code = 0x0200 then va + field bd 4 4 * attrPage bd
    else match unmapNamed s bd with
      | some ms => ms.foldl (fun e m => e + pageSize m) va
      | none => va + 1
  { kind := 2, sub := c, lo := va, hi := max stop (va + 1) }

/-- R345: the objects that a deferred request holds. -/
def heldObjs (s : State) (code : Nat) (bd : Bytes) : List MsgObj :=
  if code = 0x0200 ∨ code = 0x0201 then [pageObj s code bd]
  else if code = 0x0105 then [oneObj 1 (field bd 0 2)]
  else if code = 0x0106 then (grantClusters bd).map fun i => { kind := 5, sub := field bd 0 1, lo := i, hi := i + 1 }
  else if code = 0x0005 then [{ kind := 6, lo := 0, hi := 31 }]
  else if code = 0x0300 then [oneObj 4 (field bd 2 2)]
  else if code = 0x0301 ∨ code = 0x0302 then [oneObj 4 (field bd 0 2)]
  else if code = 0x0310 ∨ code = 0x0311 then [oneObj 3 (field bd 0 2)]
  else if code = 0x0501 ∨ code = 0x0502 ∨ code = 0x0503 then [{ kind := 7, lo := 0, hi := 2 }]
  else if 0x0100 ≤ code ∧ code ≤ 0x0104 ∨ code = 0x0202 then [oneObj 0 (field bd 0 1)]
  else []

/-- R345: every object that a request names: what it would hold, and the contexts that it names. -/
def namedObjs (s : State) (ch code : Nat) (bd : Bytes) : List MsgObj :=
  let ctxs :=
    if code = 0x0200 ∨ code = 0x0201 ∨ code = 0x0501 ∨ (code = 0x0006 ∧ ch ≠ 0) then [field bd 0 1]
    else if code = 0x0106 ∨ code = 0x0310 then (if code = 0x0106 then [field bd 4 1, field bd 5 1] else [field bd 4 1])
    else if code = 0x0300 then [field bd 1 1]
    else []
  heldObjs s code bd ++ ctxs.map (oneObj 0)

/-- Two objects overlap. A context 0 names none. -/
def objClash (a b : MsgObj) : Bool :=
  a.kind == b.kind && a.sub == b.sub && decide (a.lo < b.hi) && decide (b.lo < a.hi) && !(a.kind == 0 && a.lo == 0)

/-- R345: a request names an object that one of the deferred requests holds. -/
def waitsForHeld (s : State) (ds : List Deferred) (ch code : Nat) (bd : Bytes) : Bool :=
  ds.any fun d => (heldObjs s d.code d.req).any fun o => (namedObjs s ch code bd).any fun n => objClash o n

/-- R345, R381: firmware carries out messages outside the restricted set: STATE is READY and the compute domain is awake. -/
def carriesOut (s : State) : Bool :=
  decide (s.mb = .ready) && (decide (s.pow.pst = .active) || decide (s.pow.pst = .idle))

/-- R345: a request is answered BUSY_DEFERRED before any of its work, given the deferred requests ahead of it. -/
def mustDefer (s : State) (ds : List Deferred) (ch code : Nat) (bd : Bytes) : Bool :=
  !restricted code && (!carriesOut s || ds.any (fun d => d.ch == ch && !d.begun) || waitsForHeld s ds ch code bd)

/-! ### Serving a request (R344-R346) -/

/-- R343: header fields that a request must leave zero: FLAGS [7:3], byte 3, bytes 12-15 and 24-27. -/
def headerZero (req : Bytes) : Bool := field req 2 1 < 8 && field req 3 1 == 0 && field req 12 4 == 0 && field req 24 4 == 0

/-- R343: the body of a request, of LENGTH bytes. -/
def reqBody (req : Bytes) : Bytes := (req.drop 32).take (min (field req 8 2) 3040)

/-- R344: CHECK matches. -/
def checkOk (req : Bytes) : Bool := (crc32c (req.take 28 ++ reqBody req)).toNat == field req 28 4

/-- Put a request on the list of deferred ones. -/
def deferReq (ch code tag : Nat) (bd : Bytes) (begun : Bool) (waits : List (BitVec 32)) (bad : Nat) (s : State) : State :=
  { s with deferred := s.deferred ++ [{ ch := ch, code := code, tag := BitVec.ofNat 32 tag, req := bd, begun := begun, waits := waits, bad := bad }] }

/-- R344-R346: firmware checks a request and carries it out, refuses it or defers it: status, body, state. -/
def serveReq (ch : Nat) (req : Bytes) (s : State) : Nat × Bytes × State :=
  let code := field req 0 2
  let tag := field req 4 4
  let bd := reqBody req
  if !checkOk req then (stIntegrity, [], s)
  else
    match msgRow code with
    | none => (if ch = 32 then stNotPermitted else stBadMessage, [], s)
    | some r =>
      if !maySend r.sender ch then (stNotPermitted, [], s)
      else if !headerZero req then (stBadArgument, [], s)
      else if 3040 < field req 8 2 || !lengthFits r bd.length then (stBadMessage, [], s)
      else if !reservedZero r bd then (stBadArgument, [], s)
      else if mustDefer s s.deferred ch code bd then (stDeferred, [], deferReq ch code tag bd false [] 0 s)
      else
        match r.handler ch tag bd s with
        | .now st out s => (st, out, s)
        | .later ws bad s => (stDeferred, [], deferReq ch code tag bd true ws bad s)

/-- R360: a message over MCTP: type 0x7E, the PCI vendor ID, then header and body. -/
def mctpFrame (m : Bytes) : Bytes := [0x7E] ++ (leBytes 2 Config.vendorId.toNat).reverse ++ m

/-- R344: write the response of a channel: BUSY clears, DONE sets, and the vector rises when enabled. -/
def respondCh (ch code tag status : Nat) (out : Bytes) (s : State) : State :=
  let m := message s code 1 tag status out
  if ch = 32 then { s with mctp := { s.mctp with out := s.mctp.out ++ [mctpFrame m] } }
  else
    let s := modFn ch (fun f => { f with respBuf := padTo 3072 m, busy := false, doneBit := true, latched := none }) s
    let f := getFn s ch
    if f.vecEn then raiseMsix ch f.vec.toNat s else s

/-- R344: answer a request. -/
def answerReq (ch : Nat) (req : Bytes) (s : State) : State :=
  let r := serveReq ch req s
  respondCh ch (field req 0 2) (field req 4 4) r.1 r.2.1 r.2.2

/-- R341: in FAILED, only IDENTIFY, STATUS_QUERY and LOG_READ are answered. -/
def answeredInFailed (code : Nat) : Bool := code == 0x0001 || code == 0x0002 || code == 0x0004

/-- R360: on the auxiliary supply alone, and until the mailbox answers. -/
def answeredOnAux (req : Bytes) : Bool :=
  let code := field req 0 2
  answeredInFailed code || (code == 0x0003 && field req 32 1 == 0)

/-- R344, R356, R360, R381: a request arrives: through a channel with GO, or over MCTP. A GO is a wake source. -/
def submitReq (ch : Nat) (req : Bytes) (s : State) : State :=
  let code := field req 0 2
  if ch = 32 then
    if !s.sup.aux then s
    else if !s.sup.in40 || decide (s.mb = .booting) then (if answeredOnAux req then answerReq 32 req s else s)
    else match s.mb with
      | .handover => { s with mctp := { s.mctp with held := s.mctp.held ++ [req] } }
      | .failed => if answeredInFailed code then answerReq 32 req s else s
      | _ => answerReq 32 req s
  else if 32 < ch || !hostUp s || !s.sup.in40 then s
  else if (getFn s ch).busy then modFn ch (fun f => { f with overrun := true }) s
  else
    let s := wakeUp (modFn ch (fun f => { f with reqBuf := padTo 3072 req }) s)
    let hold := match s.mb with
      | .handover => true
      | .failed => !answeredInFailed code
      | _ => false
    if hold then modFn ch (fun f => { f with busy := true, latched := some req }) s else answerReq ch req s

/-- A message row: software writes the request and GO. -/
def mailboxRow (code ch : Nat) (req : Bytes) (s : State) : State := if field req 0 2 ≠ code then s else submitReq ch req s

/-- IDENTIFY (R349). -/
def execIdentify (ch : Nat) (req : Bytes) (s : State) : Host.Outcome State Fault Refusal := .next (mailboxRow 0x0001 ch req s)

/-- STATUS_QUERY (R348). -/
def execStatusQuery (ch : Nat) (req : Bytes) (s : State) : Host.Outcome State Fault Refusal := .next (mailboxRow 0x0002 ch req s)

/-- TELEMETRY_READ (R359). -/
def execTelemetryRead (ch : Nat) (req : Bytes) (s : State) : Host.Outcome State Fault Refusal := .next (mailboxRow 0x0003 ch req s)

/-- LOG_READ (R409). -/
def execLogRead (ch : Nat) (req : Bytes) (s : State) : Host.Outcome State Fault Refusal := .next (mailboxRow 0x0004 ch req s)

/-- MICA_SLICES (R293). -/
def execMicaSlices (ch : Nat) (req : Bytes) (s : State) : Host.Outcome State Fault Refusal := .next (mailboxRow 0x0005 ch req s)

/-- BAR2_SET (R339). -/
def execBar2Set (ch : Nat) (req : Bytes) (s : State) : Host.Outcome State Fault Refusal := .next (mailboxRow 0x0006 ch req s)

/-- CTX_CREATE (R348). -/
def execCtxCreate (ch : Nat) (req : Bytes) (s : State) : Host.Outcome State Fault Refusal := .next (mailboxRow 0x0100 ch req s)

/-- CTX_DESTROY (R402). -/
def execCtxDestroy (ch : Nat) (req : Bytes) (s : State) : Host.Outcome State Fault Refusal := .next (mailboxRow 0x0101 ch req s)

/-- CTX_QUERY (R348). -/
def execCtxQuery (ch : Nat) (req : Bytes) (s : State) : Host.Outcome State Fault Refusal := .next (mailboxRow 0x0102 ch req s)

/-- COUNTER_GRANT (R59). -/
def execCounterGrant (ch : Nat) (req : Bytes) (s : State) : Host.Outcome State Fault Refusal := .next (mailboxRow 0x0103 ch req s)

/-- QUEUE_CREATE (R46). -/
def execQueueCreate (ch : Nat) (req : Bytes) (s : State) : Host.Outcome State Fault Refusal := .next (mailboxRow 0x0104 ch req s)

/-- QUEUE_DESTROY (R348). -/
def execQueueDestroy (ch : Nat) (req : Bytes) (s : State) : Host.Outcome State Fault Refusal := .next (mailboxRow 0x0105 ch req s)

/-- TILE_GRANT (R104). -/
def execTileGrant (ch : Nat) (req : Bytes) (s : State) : Host.Outcome State Fault Refusal := .next (mailboxRow 0x0106 ch req s)

/-- MAP (R350). -/
def execMapPages (ch : Nat) (req : Bytes) (s : State) : Host.Outcome State Fault Refusal := .next (mailboxRow 0x0200 ch req s)

/-- UNMAP (R428). -/
def execUnmap (ch : Nat) (req : Bytes) (s : State) : Host.Outcome State Fault Refusal := .next (mailboxRow 0x0201 ch req s)

/-- MEM_QUERY (R348). -/
def execMemQuery (ch : Nat) (req : Bytes) (s : State) : Host.Outcome State Fault Refusal := .next (mailboxRow 0x0202 ch req s)

/-- CHANNEL_MAPOUT (R303). -/
def execChannelMapout (ch : Nat) (req : Bytes) (s : State) : Host.Outcome State Fault Refusal := .next (mailboxRow 0x0203 ch req s)

/-- STAGEQ_CREATE (R175). -/
def execStageqCreate (ch : Nat) (req : Bytes) (s : State) : Host.Outcome State Fault Refusal := .next (mailboxRow 0x0300 ch req s)

/-- STAGEQ_QUERY (R178). -/
def execStageqQuery (ch : Nat) (req : Bytes) (s : State) : Host.Outcome State Fault Refusal := .next (mailboxRow 0x0301 ch req s)

/-- STAGEQ_DESTROY (R348). -/
def execStageqDestroy (ch : Nat) (req : Bytes) (s : State) : Host.Outcome State Fault Refusal := .next (mailboxRow 0x0302 ch req s)

/-- GROUP_SET (R250). -/
def execGroupSet (ch : Nat) (req : Bytes) (s : State) : Host.Outcome State Fault Refusal := .next (mailboxRow 0x0310 ch req s)

/-- GROUP_QUERY (R348). -/
def execGroupQuery (ch : Nat) (req : Bytes) (s : State) : Host.Outcome State Fault Refusal := .next (mailboxRow 0x0311 ch req s)

/-- ROLE_SET (R327). -/
def execRoleSet (ch : Nat) (req : Bytes) (s : State) : Host.Outcome State Fault Refusal := .next (mailboxRow 0x0320 ch req s)

/-- LEAVE (R330). -/
def execLeave (ch : Nat) (req : Bytes) (s : State) : Host.Outcome State Fault Refusal := .next (mailboxRow 0x0321 ch req s)

/-- POWER_CAP_SET (R361). -/
def execPowerCapSet (ch : Nat) (req : Bytes) (s : State) : Host.Outcome State Fault Refusal := .next (mailboxRow 0x0400 ch req s)

/-- OPPOINT_SET (R370). -/
def execOppointSet (ch : Nat) (req : Bytes) (s : State) : Host.Outcome State Fault Refusal := .next (mailboxRow 0x0401 ch req s)

/-- WAKE_SET (R381). -/
def execWakeSet (ch : Nat) (req : Bytes) (s : State) : Host.Outcome State Fault Refusal := .next (mailboxRow 0x0402 ch req s)

/-- FW_QUERY (R348). -/
def execFwQuery (ch : Nat) (req : Bytes) (s : State) : Host.Outcome State Fault Refusal := .next (mailboxRow 0x0500 ch req s)

/-- FW_STAGE (R355). -/
def execFwStage (ch : Nat) (req : Bytes) (s : State) : Host.Outcome State Fault Refusal := .next (mailboxRow 0x0501 ch req s)

/-- FW_ACTIVATE (R356). -/
def execFwActivate (ch : Nat) (req : Bytes) (s : State) : Host.Outcome State Fault Refusal := .next (mailboxRow 0x0502 ch req s)

/-- FW_COMMIT (R357). -/
def execFwCommit (ch : Nat) (req : Bytes) (s : State) : Host.Outcome State Fault Refusal := .next (mailboxRow 0x0503 ch req s)

/-- RECALIBRATE (R358). -/
def execRecalibrate (ch : Nat) (req : Bytes) (s : State) : Host.Outcome State Fault Refusal := .next (mailboxRow 0x0504 ch req s)

/-- MAILBOX_RESERVED_CODE (R346): a reserved code, or a LENGTH wrong for the code. -/
def execMailboxReservedCode (ch : Nat) (req : Bytes) (s : State) : Host.Outcome State Fault Refusal :=
  .next (
    let wrong : Bool := match msgRow (field req 0 2) with
      | none => true
      | some r => decide (3040 < field req 8 2) || !lengthFits r (reqBody req).length
    if wrong then submitReq ch req s else s)

/-- OVERRUN (R344). -/
def execOverrun (ch : Nat) (_req : Bytes) (s : State) : Host.Outcome State Fault Refusal :=
  .next (if ch < 32 ∧ hostUp s = true ∧ (getFn s ch).busy = true then modFn ch (fun f => { f with overrun := true }) s else s)

/-! ### MSG_DONE (R345, R351) -/

/-- R336: the context that a request names drains without events. -/
def isQuiet (s : State) (code : Nat) (bd : Bytes) : Bool :=
  code == 0x0101 && (getCtx s (field bd 0 1)).quiet

/-- R345, R351: post MSG_DONE for a deferred request. -/
def postMsgDone (d : Deferred) (status : Nat) (result : Bytes) (s : State) : State :=
  if isQuiet s d.code d.req then s
  else postEventF d.ch 0x8000 6 d.tag.toNat status (leBytes 2 d.code ++ leBytes 2 0 ++ leBytes 4 d.tag.toNat ++ padTo 8 result) s

/-- R345: the end of a deferred request that firmware has accepted, when its work is done. -/
def finishDeferred (d : Deferred) (s : State) : Option (Nat × State) :=
  if d.bad ≠ 0 ∧ d.waits.isEmpty = true then some (d.bad, s)
  else match d.code with
    | 0x0105 => endQueueDestroy d.req s
    | 0x0106 => endTileGrant d.req s
    | 0x0201 => endUnmap d.req s
    | 0x0310 => if d.waits.isEmpty then some (stOk, s) else none
    | 0x0501 => some (endFwStage d.req s)
    | 0x0504 => some (endRecalibrate d.req s)
    | _ => none

/-- The list without its entry n. -/
def dropDeferred (n : Nat) (s : State) : State := { s with deferred := s.deferred.take n ++ s.deferred.drop (n + 1) }

/-- R345: carry out a deferred request of which no work has been done. -/
def beginDeferred (n : Nat) (d : Deferred) (s : State) : State :=
  match msgRow d.code with
  | none => dropDeferred n s
  | some r =>
    match r.handler d.ch d.tag.toNat d.req s with
    | .now st out s => postMsgDone d st out (dropDeferred n s)
    | .later ws bad s => { s with deferred := modAt s.deferred n fun d => { d with begun := true, waits := ws, bad := bad } }

/-- MSG_DONE (R345): the request's turn in its channel has come, and no earlier one holds an object of it. -/
def execMsgDone (n : Nat) (s : State) : Host.Outcome State Fault Refusal :=
  .next (match s.deferred[n]? with
    | none => s
    | some d =>
      if d.begun then
        if !carriesOut s then s
        else match finishDeferred d s with
          | some r => postMsgDone d r.1 [] (dropDeferred n r.2)
          | none => s
      else if mustDefer s (s.deferred.take n) d.ch d.code d.req then s
      else beginDeferred n d s)

end Sys2Proof.Machine
end

