-- ==== Sys2Proof/Machine/Drain.lean ====
section
/-!
DEFINITION. The end of a context's drain and of a channel's map-out (R303, R402, R403), and the rows of the family "host
interface": BAR2 accesses (R339), function resets (R336) and PERST# (R423).
-/
namespace Sys2Proof.Machine

/-! ### The end of a drain (R402, R403) -/

/-- R402 steps 1, 2 and 4: no started command is left, every request is answered or WDOG_PH has passed, and no node opening of the
context's groups has had a message within WDOG_PH. -/
def drainReady (s : State) (c : Nat) : Bool :=
  let x := getCtx s c
  let gs := (s.groups.filter fun g => g.2.ctx == c).map (·.1)
  decide (x.st = .draining) && !inReset s
    && !(s.cmds.any fun d => d.ctx == c && decide (d.st ≠ .fetched))
    && (decide (x.wdogPh ≤ x.drainPh) || !s.fab.reqs.any fun r => r.ctx == c)
    && !s.nodes.any fun n => gs.contains n.group && !n.closed && decide (n.idlePh < x.wdogPh)

/-- R104, R402: a cluster without a drained context. In SPLIT the other context keeps its bank, and the released one belongs to none. -/
def releaseCluster (c : Nat) (x : Cluster) : Cluster :=
  match x.mode with
  | .released => x
  | .exclusive => if x.ctxA = c then { x with mode := .released, ctxA := 0, ctxB := 0 } else x
  | .split =>
    let y := { x with ctxA := if x.ctxA = c then 0 else x.ctxA, ctxB := if x.ctxB = c then 0 else x.ctxB }
    if y.ctxA = 0 ∧ y.ctxB = 0 then { y with mode := .released } else y

/-- R105, R402: the banks that a context holds become FREE. -/
def freeBanks (c : Nat) (s : State) : State :=
  { s with banks := s.banks.filter fun b =>
      let tile := b.1 / 2
      decide (bankOwner (getCluster s (tile / 512) (tile % 512 / 32)) (b.1 % 2) ≠ some c) }

/-- R402 steps 4 to 6: everything that the context held goes, and its number becomes FREE. -/
def clearCtx (c : Nat) (s : State) : State :=
  let gs := (s.groups.filter fun g => g.2.ctx == c).map (·.1)
  let s := releaseMem c (freeBanks c (gs.foldl (fun s g => dropGroup g s) s))
  releaseHolds { s with
    ctxs := Tbl.put {} s.ctxs c { freedU := some s.tb.nowU }
    ctrOwner := s.ctrOwner.filter fun o => o.2 != c + 1
    queues := s.queues.filter fun q => q.2.ctx != c
    cmds := s.cmds.filter fun d => d.ctx != c
    clusters := (s.clusters.map fun x => (x.1, releaseCluster c x.2)).filter fun x => decide (x.2 ≠ {})
    ends := s.ends.filter fun e => e.2.ctx != c
    feeds := s.feeds.filter fun f => f.2.ctx != c || !f.2.bound
    pref := s.pref.filter fun l => !(l.remote && l.ctx == c)
    fab := { s.fab with reqs := s.fab.reqs.filter fun r => r.ctx != c } }

/-- CTX_DRAINED (R402): the drain completes, and CTX_DRAINED and the MSG_DONE of its CTX_DESTROY are posted. -/
def execCtxDrained (c : Nat) (s : State) : Host.Outcome State Fault Refusal :=
  .next (if drainReady s c then
      let x := getCtx s c
      let s := clearCtx c s
      let mine := fun (d : Deferred) => d.code == 0x0101 && d.begun && field d.req 0 1 == c
      let ds := s.deferred.filter mine
      let s := { s with deferred := s.deferred.filter fun d => !mine d }
      if x.quiet then s
      else ds.foldl (fun s d => postMsgDone d stOk [] s) (postEvent x.owner 0x8001 0 (leBytes 1 c) s)
    else s)

/-- CTX_NUMBER_RELEASE (R403): 100 ms after the drain. -/
def execCtxNumberRelease (c : Nat) (s : State) : Host.Outcome State Fault Refusal :=
  .next (match (getCtx s c).freedU with
    | some t => if s.since t (100 * msU) then modCtx c (fun x => { x with freedU := none }) s else s
    | none => s)

/-! ### The end of a map-out (R303) -/

/-- R303, R305: the values that the controller copies from a DEGRADED channel of a stack may carry errors: free writes, within
that channel's data below the slab (log entry 95). -/
def copyErrors (stack slab : Nat) (s : State) : State :=
  { s with
    free := s.free + 1
    mem := (Config.freeWrites s.free).foldl (fun m w =>
      if mayErr s w.1 && decide (stackBase stack ≤ w.1) && decide (w.1 < slab) then memWrite m w.1 w.2 else m) s.mem }

/-- MAPOUT_COMPLETE (R302, R303, R351): the granules of the channel are copied, no page is left in the slab, and the channel is OUT. -/
def execMapoutComplete (stack chan : Nat) (s : State) : Host.Outcome State Fault Refusal :=
  .next (
    let mine := fun (d : Deferred) => d.code == 0x0203 && d.begun && d.bad == 0 && field d.req 0 1 == stack && field d.req 1 1 == chan
    let waiting := s.ctxs.any fun c => c.2.maps.any (inSlab s.id stack)
    if (s.deferred.any mine || s.pow.ownOut.contains (stack, chan)) && !waiting && decide (stack < 8) then
      let slab := stackBase stack + slabStart s.id stack
      let size := stackC0 s.id / 32
      let s := copyErrors stack slab s
      let s := setChan stack chan .out { s with
        id := { s.id with outChans := modAt s.id.outChans stack fun l => l ++ [chan] }
        mem := memClear s.mem slab size
        lines := s.lines.filter fun l => decide (l.1 * 128 + 128 ≤ slab) || decide (slab + size ≤ l.1 * 128)
        pow := { s.pow with
          liveOut := s.pow.liveOut ||| BitVec.ofNat 8 (2 ^ stack), ownOut := s.pow.ownOut.filter fun o => o != (stack, chan) } }
      let cap := leBytes 8 (stackCap s.id stack)
      let ds := s.deferred.filter mine
      let s := postAll 0x8005 0 (leBytes 1 stack ++ leBytes 7 0 ++ cap) { s with deferred := s.deferred.filter fun d => !mine d }
      ds.foldl (fun s d => postMsgDone d stOk cap s) s
    else s)

/-! ### BAR2 (R339) -/

/-- A read of BAR2 returns data. -/
def busData (bs : Bytes) (s : State) : State := { s with bus := s.bus ++ [bs] }

/-- R339: count an access to an unmapped address. -/
def countBad (fn : Nat) (s : State) : State := modFn fn (fun f => { f with bar2Bad := f.bar2Bad + 1 }) s

/-- R339: an access where nothing is mapped: all ones, or a dropped write; it is counted. -/
def bar2None (fn : Nat) (write : Bool) (len : Nat) (s : State) : State :=
  countBad fn (if write then s else busData (List.replicate len 0xFF) s)

/-- R336: a reset of the function drains its contexts. -/
def fnDrains (s : State) (fn : Nat) : Bool :=
  s.ctxs.any fun c => decide (c.1 ≠ 0) && c.2.owner == fn && decide (c.2.st = .draining) && c.2.quiet

/-- R339: an access of the PF: device addresses of the interleaved window; the part beyond it reads all ones and drops writes. -/
def bar2Pf (write : Bool) (off len : Nat) (data : Bytes) (s : State) : State :=
  let a := (getFn s 0).bar2Off + off
  let n := min len (8 * ilBytes s.id - a)
  let s := touchStacks (if n < len then countBad 0 s else s)
  if write then store a (data.take n) s
  else busData (peek s a n ++ List.replicate (len - n) 0xFF) (persistRead none 0 a n (countReads false {} a n s).1)

/-- R336, R339: the context of a VF's BAR2, while it is ACTIVE or in ERROR. -/
def bar2CtxOf (s : State) (fn : Nat) : Option Nat :=
  match (getFn s fn).bar2Ctx with
  | none => none
  | some c => if (getCtx s c).owner = fn ∧ ((getCtx s c).st = .active ∨ (getCtx s c).st = .error) then some c else none

/-- R339: one byte of a VF's read: all ones where it is not mapped to this module. -/
def bar2Byte (s : State) (ctx va : Nat) : Byte :=
  match translate s ctx va false with
  | some m => if m.remote then 0xFF else (peek s (mapTarget m va) 1).headD 0xFF
  | none => 0xFF

/-- R339: an access of a VF through one of its contexts. A range that is not mapped throughout is served byte by byte. The owner of
remote bytes is numbered beyond every queue. -/
def bar2Vf (fn : Nat) (write : Bool) (off len : Nat) (data : Bytes) (s : State) : State :=
  let va := (getFn s fn).bar2Base + off
  match bar2CtxOf s fn with
  | none => bar2None fn write len s
  | some c =>
    let s := touchStacks s
    let owner := 2 * (4096 + fn) + 1
    if write then
      match writeV va data { s := s, ctx := c, owner := owner } with
      | .ok _ e => engCommit none e
      | .error _ _ => countBad fn (((List.range len).zip data).foldl (fun s b => ctxPoke c (va + b.1) b.2 s) s)
    else
      match readV va len { s := s, ctx := c, owner := owner } with
      | .ok bs e => busData bs (engCommit none e)
      | .error (.remote a n) _ => askRemote c none owner a n s
      | .error _ _ => countBad fn (busData ((List.range len).map fun i => bar2Byte s c (va + i)) s)

/-- BAR2_ACCESS (R336, R339, R393). -/
def execBar2Access (fn : Nat) (write : Bool) (off len : Nat) (data : Bytes) (s : State) : Host.Outcome State Fault Refusal :=
  .next (if hostUp s ∧ s.sup.in40 = true ∧ fn < 32 ∧ off + len ≤ 2 ^ (getFn s fn).bar2Log ∧ (write = true → data.length = len) then
      if fnDrains s fn then bar2None fn write len s
      else if fn = 0 then bar2Pf write off len data s else bar2Vf fn write off len data s
    else s)

/-! ### Function resets (R336) -/

/-- R336: destroy every host context of a function, without events. -/
def drainFn (fn : Nat) (s : State) : State :=
  let cs := (s.ctxs.filter fun c => decide (c.1 ≠ 0) && c.2.owner == fn && decide (c.2.st ≠ .free)).map (·.1)
  cs.foldl (fun s c =>
    if (getCtx s c).st = .draining then modCtx c (fun x => { x with quiet := true }) s else beginDrain c 0 true s) s

/-- R336: the default state of a function: BAR2 of 64 GiB for the PF. -/
def freshFn (fn : Nat) : Fn := if fn = 0 then { bar2Log := 36 } else {}

/-- R336: a function's channel and BAR2 return to their supply values; a latched request is carried out without a response. -/
def resetFn (fn : Nat) (s : State) : State :=
  modFn fn (fun f => { freshFn fn with orphans := f.orphans ++ f.latched.toList }) (drainFn fn s)

/-- FLR (R336): one of the PF clears VF Enable, so it ends every host context of every function. -/
def execFlr (fn : Nat) (s : State) : Host.Outcome State Fault Refusal :=
  .next (if 32 ≤ fn ∨ s.sup.perst = true ∨ s.sup.in40 = false then s
    else if fn = 0 then (List.range 32).foldl (fun s f => resetFn f s) s else resetFn fn s)

/-- VF_DISABLE (R336): of one VF, or of all when VF Enable is cleared (0). -/
def execVfDisable (fn : Nat) (s : State) : Host.Outcome State Fault Refusal :=
  .next (if 32 ≤ fn ∨ s.sup.perst = true ∨ s.sup.in40 = false then s
    else if fn = 0 then ((List.range 31).map (· + 1)).foldl (fun s f => resetFn f s) s else resetFn fn s)

/-! ### PERST# (R423) -/

/-- PERST (R339, R423): the endpoint and the configuration space, with the sizes of the BARs; work goes on. -/
def execPerst (s : State) : Host.Outcome State Fault Refusal :=
  .next { s with
    sup := { s.sup with perst := true }
    fns := s.fns.map fun f => (f.1, { f.2 with bar2Log := (freshFn f.1).bar2Log }) }

/-- R337, R423: send the pending MSI-X messages of a function whose entries are not masked. -/
def flushMsix (s : State) (fn : Nat) : State :=
  let f := getFn s fn
  let go := f.msixPend.filter fun v => !msixMasked f v
  modFn fn (fun f => { f with msixPend := f.msixPend.filter fun v => msixMasked f v })
    { s with msix := s.msix ++ go.map fun v => (fn, v) }

/-- PERST_DEASSERTION (R423). -/
def execPerstDeassertion (s : State) : Host.Outcome State Fault Refusal :=
  .next (if s.sup.perst then (List.range 32).foldl flushMsix { s with sup := { s.sup with perst := false } } else s)

end Sys2Proof.Machine
end

