-- ==== Sys2Proof/Machine/Exchange.lean ====
section
/-!
DEFINITION. Token exchanges (R182-R184, R273, R274, R280): quotas, the four phases, and the rows that arrive.
-/
namespace Sys2Proof.Machine

def xcPhase (c : Cmd) : Nat := body c 18 1
def xcKsel (c : Cmd) : Nat := body c 19 1
def xcRow (c : Cmd) : Nat := body c 24 4
def xcNexp (c : Cmd) : Nat := body c 28 4
def xcSrc (c : Cmd) : Nat := body c 48 8
def xcDst (c : Cmd) : Nat := body c 56 8
def xcAcc (c : Cmd) : Nat := body c 64 8
def xcStats (c : Cmd) : Nat := body c 72 8
def xcHrec (c : Cmd) : Nat := body c 80 8
def xcDeadline (c : Cmd) : W64 := BitVec.ofNat 64 (body c 88 8)
/-- R273: pairs of this rank. -/
def xcPairs (c : Cmd) : Nat := body c 20 4 * xcKsel c

/-- R280: the fields. -/
def xcLegal (c : Cmd) : Bool :=
  decide (xcPhase c < 4) && decide (1 ≤ xcKsel c) && decide (xcKsel c ≤ 8) && decide (64 ≤ xcRow c) && decide (xcRow c ≤ 65536)
    && xcRow c % 64 == 0 && decide (1 ≤ xcNexp c) && decide (xcNexp c ≤ 4096)

/-- R273: an expert: capacity and home rank. -/
structure Expert where
  cap : Nat := 0
  basalt : Nat := 0
  home : Nat := 0
deriving DecidableEq, Repr

/-- R273: an entry of the expert table. -/
def expertOf (x : Nat) : Expert := { cap := x / 2 ^ 32, basalt := bits x 18 16, home := bits x 15 0 }

/-- R182: quota of source rank r. -/
def quota (cap n r : Nat) : Nat := cap / n + (if r < cap % n then 1 else 0)

/-- R274: base_e: capacities of the experts with the same home that come before e. -/
def expertBase (es : List Expert) (e : Nat) : Nat :=
  let h := es.getD e {}
  ((es.take e).filter fun x => x.home == h.home && x.basalt == h.basalt).foldl (fun t x => t + x.cap) 0

/-- R274: first row of source rank r for expert e. -/
def sourceBase (es : List Expert) (n e r : Nat) : Nat :=
  expertBase es e + ((List.range r).map (quota (es.getD e {}).cap n)).foldl (· + ·) 0

/-- R274: rows of a home. -/
def homeRows (es : List Expert) (rank basalt : Nat) : Nat :=
  (es.filter fun x => x.home == rank && x.basalt == basalt).foldl (fun t x => t + x.cap) 0

/-- R182: the accepted pairs in order: the i-th accepted pair of its expert, or none; `used` counts accepted pairs by expert. -/
def acceptPairs (es : List Expert) (n rank : Nat) : List Nat → Tbl Nat → List (Option Nat)
  | [], _ => []
  | e :: r, used =>
    let u := Tbl.get 0 used e
    if u < quota (es.getD e {}).cap n rank then some u :: acceptPairs es n rank r (Tbl.put 0 used e (u + 1))
    else none :: acceptPairs es n rank r used

/-- R184: the pairs that ACC marks accepted, with their places in their expert's order. -/
def markedPairs : List (Nat × Nat) → Tbl Nat → List (Option Nat)
  | [], _ => []
  | x :: r, used =>
    let u := Tbl.get 0 used x.1
    if bitOf x.2 0 then some u :: markedPairs r (Tbl.put 0 used x.1 (u + 1)) else none :: markedPairs r used

/-- Read the expert table and the routes. A route that names no expert is unpredictable. -/
def xcTables (c : Cmd) : EngM (List Expert × List Nat) := do
  let et ← readV (body c 32 8) (8 * xcNexp c)
  let rt ← readV (body c 40 8) (2 * xcPairs c)
  let es := (chunks 8 et).map fun b => expertOf (leNat b)
  let rs := (chunks 2 rt).map leNat
  if rs.any fun e => decide (xcNexp c ≤ e) then throw .unpred
  pure (es, rs)

/-- The header of an exchange's messages. -/
def xcHdr (c : Cmd) (q : CollRun) (g : Group) (kind first : Nat) : CollHdr :=
  { group := q.group, kind := kind, level := xcPhase c, tag := q.tag, epoch := g.epoch, first := first, deadline := xcDeadline c }

/-- ADDR of a row's message: ranks of destination and source, and the byte offset (log entry 30). -/
def xcAddr (dst src off : Nat) : Nat := dst * 2 ^ 48 + src * 2 ^ 32 + off

/-- Send a row to a rank, piece by piece. -/
def sendRow (g : Group) (h : CollHdr) (dst src pair : Nat) (row : Bytes) (s : State) : State :=
  let cs := chunks pieceBytes row
  ((List.range cs.length).zip cs).foldl (fun s x =>
    collSend g dst h pair (xcAddr dst src (x.1 * pieceBytes)) x.2 s) s

/-- R274: an end marker to every rank. -/
def sendEnds (c : Cmd) (g : Group) (q : CollRun) : EngM Unit :=
  modS fun s => (List.range g.r).foldl (fun s r => collSend g r (xcHdr c q g 9 0) 0 (xcAddr r q.rank 0) [] s) s

/-- R274: write 16 bytes of statistics per expert; `late` counts late pairs by expert. -/
def writeStats (c : Cmd) (routes : List Nat) (acc : List Bool) (late : List Nat) : EngM Unit :=
  (List.range (xcNexp c)).forM fun e =>
    let mine := (routes.zip acc).filter fun x => x.1 == e
    let a := (mine.filter (·.2)).length
    writeV (xcStats c + 16 * e) (leBytes 4 a ++ leBytes 4 (mine.length - a)
      ++ leBytes 4 ((late.filter fun x => x == e).length) ++ leBytes 4 0)

/-- R274: send the rows of a dispatch; `row t` is the row of SRC that pair t sends. -/
def xcSend (c : Cmd) (g : Group) (es : List Expert) (row : Nat → Nat) : List (Nat × Nat × Option Nat) → EngM Unit
  | [] => pure ()
  | (t, e, place) :: rest => do
    match place with
    | none => pure ()
    | some i => do
      let p ← progNow c
      let x := es.getD e {}
      if g.r ≤ x.home then throw .unpred
      let bs ← readV (xcSrc c + row t * xcRow c) (xcRow c)
      modS (sendRow g (xcHdr c p.coll g 9 (sourceBase es g.r e p.coll.rank + i)) x.home p.coll.rank t bs)
    xcSend c g es row rest

/-- R274: RESULT and DETAIL. -/
def xcResult (q : CollRun) (late : Nat) : Option W64 × Option Nat := (some (BitVec.ofNat 64 q.accepted), some (q.overflow + late))

/-- R274: the end of the home side of a dispatch: rows that are not filled become +0 and have no origin. -/
def homeEnd (c : Cmd) : EngM (Option (Option W64 × Option Nat)) := do
  let p ← progNow c
  let et ← readV (body c 32 8) (8 * xcNexp c)
  let es := (chunks 8 et).map fun b => expertOf (leNat b)
  (List.range (homeRows es p.coll.rank c.basalt)).forM fun i => do
    if !p.coll.delivered.contains i then
      writeV (xcDst c + i * xcRow c) (List.replicate (xcRow c) 0)
      writeV (xcHrec c + 8 * i) (List.replicate 8 0xFF)
  pure (some (xcResult p.coll 0))

/-- R274: the source side of DISPATCH and DISPATCH_BWD. -/
def dispatchStart (c : Cmd) (g : Group) (bwd : Bool) : EngM (Option (Option W64 × Option Nat)) := do
  let p ← progNow c
  let t ← xcTables c
  let n := xcPairs c
  let accOld ← if bwd then readV (xcAcc c) n else pure []
  let marks := accOld.map (·.toNat)
  let places := if bwd then markedPairs (t.2.zip marks) [] else acceptPairs t.1 g.r p.coll.rank t.2 []
  let sends := if bwd then (places.zip marks).map fun x => if bitOf x.2 1 then x.1 else none else places
  xcSend c g t.1 (fun i => if bwd then i else i / xcKsel c) ((List.range n).zip (t.2.zip sends))
  if !bwd then writeV (xcAcc c) (places.map fun x => if x.isSome then 1 else 0)
  writeStats c t.2 (sends.map (·.isSome)) []
  let a := (sends.filter (·.isSome)).length
  modColl c fun q => { q with accepted := a, overflow := n - a }
  let q ← progNow c
  sendEnds c g q.coll
  pure none

/-- R274: the home side of RETURN and RETURN_BWD: each filled row goes to its origin. -/
def returnHome (c : Cmd) (g : Group) (es : List Expert) : EngM Unit := do
  let p ← progNow c
  (List.range (homeRows es p.coll.rank c.basalt)).forM fun i => do
    let rec' ← readV (xcHrec c + 8 * i) 8
    if leNat rec' ≠ 0xFFFFFFFFFFFFFFFF then
      let src := field rec' 0 4
      let pair := field rec' 4 4
      if g.r ≤ src then throw .unpred
      let bs ← readV (xcSrc c + i * xcRow c) (xcRow c)
      modS (sendRow g (xcHdr c p.coll g 10 pair) src p.coll.rank pair bs)

/-- R183, R274: the end of the source side of a return: pairs that have not come back become +0 rows and count as late. -/
def returnEnd (c : Cmd) : EngM (Option (Option W64 × Option Nat)) := do
  let p ← progNow c
  let t ← xcTables c
  let want := p.coll.values.filter fun v => decide (2 ^ 60 ≤ v.1)
  let pairs := want.map fun v => v.1 - 2 ^ 60
  let lost := pairs.filter fun i => !p.coll.delivered.contains i
  lost.forM fun i => writeV (xcDst c + i * xcRow c) (List.replicate (xcRow c) 0)
  writeStats c t.2 ((List.range (xcPairs c)).map fun i => pairs.contains i) (lost.map fun i => t.2.getD i 0)
  if !lost.isEmpty then addWarn 0x2
  pure (some (xcResult p.coll lost.length))

/-- R183, R274: RETURN and RETURN_BWD: rows of pairs that were not sent become +0; the others are awaited. -/
def returnStart (c : Cmd) (g : Group) : EngM (Option (Option W64 × Option Nat)) := do
  let t ← xcTables c
  let n := xcPairs c
  let acc ← readV (xcAcc c) n
  let sent := acc.map fun a => bitOf a.toNat 0 && (xcPhase c != 3 || bitOf a.toNat 1)
  let pairs := ((List.range n).zip sent).filter (·.2)
  (((List.range n).zip sent).filter fun x => !x.2).forM fun x =>
    writeV (xcDst c + x.1 * xcRow c) (List.replicate (xcRow c) 0)
  modColl c fun q => { q with
    accepted := pairs.length
    overflow := n - pairs.length
    values := pairs.map fun x => (2 ^ 60 + x.1, 0) }
  returnHome c g t.1
  if pairs.isEmpty then returnEnd c else pure none

/-- R274: the start of an exchange. -/
def xcStart (c : Cmd) : EngM (Option (Option W64 × Option Nat)) := do
  let gr ← joinGroup c 1
  match xcPhase c with
  | 0 => dispatchStart c gr.1 false
  | 2 => dispatchStart c gr.1 true
  | _ => returnStart c gr.1

/-- XCHG_TOKENS (R273, R274, R280). -/
def execXchgTokens (k : Nat) (s : State) : Host.Outcome State Fault Refusal :=
  .next (runOp k 0x63 1 [(16, 80)] xcLegal (collOnce xcStart) s)

/-- One piece of row i, written at its place: whether the row is whole with it. -/
def rowPiece (c : Cmd) (i off : Nat) (data : Bytes) : EngM Bool := do
  writeV (xcDst c + i * xcRow c + off) data
  let key := i * 32 + off / pieceBytes
  modColl c fun q => { q with values := if q.values.any (fun v => v.1 == key) then q.values else q.values ++ [(key, 1)] }
  let p ← progNow c
  let got := (p.coll.values.filter fun v => v.1 / 32 == i && v.2 == 1).length
  pure (decide (got = ceilDiv (xcRow c) pieceBytes))

/-- R274: the exchange is over at its deadline. -/
def xcPast (s : State) (c : Cmd) : Bool := s.reached (xcDeadline c)

/-- R274: a row or an end marker at an expert's home. -/
def tokenWork (pk : Packet) (c : Cmd) (g : Group) (h : CollHdr) : EngM (Option (Option W64 × Option Nat)) := do
  let s ← getS
  let a := pk.addr.toNat
  let src := bits a 47 32
  let data := pk.payload.drop 32
  if cmdOp c ≠ 0x63 ∨ xcPhase c % 2 = 1 ∨ xcPhase c ≠ h.level then pure none
  else if xcPast s c then
    if !data.isEmpty then modS (lateOnce h [bits a 63 48])
    pure none
  else if data.isEmpty then
    modColl c fun q => { q with ends := if q.ends.contains src then q.ends else src :: q.ends }
    let p ← progNow c
    if p.coll.ends.length = g.r then homeEnd c else pure none
  else
    let whole ← rowPiece c h.first (a % 2 ^ 32) data
    if whole then
      writeV (xcHrec c + 8 * h.first) (leBytes 4 src ++ leBytes 4 pk.txn.toNat)
      modColl c fun q => { q with delivered := h.first :: q.delivered }
    pure none

/-- R274: a row that comes back to its source. -/
def tokenRetWork (pk : Packet) (c : Cmd) (_ : Group) (h : CollHdr) : EngM (Option (Option W64 × Option Nat)) := do
  let s ← getS
  let p ← progNow c
  let i := h.first
  let data := pk.payload.drop 32
  if cmdOp c ≠ 0x63 ∨ xcPhase c % 2 = 0 ∨ xcPhase c ≠ h.level then pure none
  else if xcPast s c then
    modS (lateOnce h [bits pk.addr.toNat 63 48])
    pure none
  else if p.coll.delivered.contains i || !(p.coll.values.any fun v => v.1 == 2 ^ 60 + i) then pure none
  else
    let whole ← rowPiece c i (pk.addr.toNat % 2 ^ 32) data
    if !whole then pure none
    else
      if xcPhase c = 1 then
        let acc ← readV (xcAcc c + i) 1
        writeV (xcAcc c + i) (acc.map fun b => b ||| 2)
      modColl c fun q => { q with delivered := i :: q.delivered }
      let p ← progNow c
      if p.coll.delivered.length = p.coll.accepted then returnEnd c else pure none

/-- TOKEN (R274): a late one is dropped and counted. -/
def execCollToken (port : Nat) (p : Packet) (s : State) : Host.Outcome State Fault Refusal :=
  .next (rankArrive port 9 (bits p.addr.toNat 63 48) p
    (fun h s => if p.payload.length = 32 then s else lateOnce h [bits p.addr.toNat 63 48] s) (tokenWork p) s)

/-- TOKEN_RET (R274). -/
def execCollTokenRet (port : Nat) (p : Packet) (s : State) : Host.Outcome State Fault Refusal :=
  .next (rankArrive port 10 (bits p.addr.toNat 63 48) p
    (fun h s => lateOnce h [bits p.addr.toNat 63 48] s) (tokenRetWork p) s)

/-- The end of an exchange at its deadline. -/
def xcLate (c : Cmd) : EngM (Option (Option W64 × Option Nat)) := do
  if xcPhase c % 2 = 0 then
    addWarn 0x2
    homeEnd c
  else returnEnd c

/-- EXCHANGE_DEADLINE (R274). -/
def execExchangeDeadline (k : Nat) (s : State) : Host.Outcome State Fault Refusal :=
  .next (match findCmd s k with
    | none => s
    | some c =>
      if c.st = .started ∧ cmdOp c = 0x63 ∧ c.prog.coll.sent = true ∧ inReset s = false ∧ xcPast s c = true then
        runPart c false (xcLate c) s
      else s)

end Sys2Proof.Machine
end

