-- ==== Sys2Proof/Machine/Handover.lean ====
section
/-!
DEFINITION. Live update of the firmware (R356, R357): the handover, its end, the activation of the slot and the reversion of a TRIAL
image.
-/
namespace Sys2Proof.Machine

/-- R356: the FW_ACTIVATE LIVE that firmware has accepted. -/
def liveUpdate (s : State) : Option Deferred := s.deferred.find? fun d => d.code == 0x0502 && d.begun

/-- HANDOVER (R356): not during a compute reset. -/
def execHandover (s : State) : Host.Outcome State Fault Refusal :=
  .next (if (liveUpdate s).isSome ∧ s.activating = none ∧ s.mb = .ready ∧ s.rst.stage = .none then { s with mb := .handover } else s)

/-- R356: FRAME, or the next frame boundary when FRAME is 0 or already reached. -/
def switchTime (s : State) (frame : Nat) : W64 :=
  if frame = 0 ∨ s.reachedN (frame * 65536) = true then (s.tb.frame + 1) ++ (0 : BitVec 16) else BitVec.ofNat 64 (frame * 65536)

/-- R344, R356: answer what a channel latched during the handover; a request of a function that was reset has no response (R336). -/
def answerLatched (s : State) (ch : Nat) : State :=
  let f := getFn s ch
  let s := modFn ch (fun f => { f with orphans := [], latched := none, busy := false }) s
  let s := f.orphans.foldl (fun s r => (serveReq ch r s).2.2) s
  match f.latched with
  | some r => answerReq ch r s
  | none => s

/-- R356: when a live update is under way, the engines switch at the frame that it names. -/
def scheduleSwitch (s : State) : State :=
  match liveUpdate s with
  | some d => { s with activating := some (d.ch, d.tag, switchTime s (field d.req 8 8), false) }
  | none => s

/-- HANDOVER_END (R344, R356): the latched requests are answered, and a compute reset that was due starts. -/
def execHandoverEnd (s : State) : Host.Outcome State Fault Refusal :=
  .next (if s.mb ≠ .handover then s
    else
      let s := scheduleSwitch { s with mb := .ready }
      let held := s.mctp.held
      let s := (List.range 32).foldl answerLatched { s with mctp := { s.mctp with held := [] } }
      let s := held.foldl (fun s r => answerReq 32 r s) s
      if s.rst.stage = .detected then announceReset s else s)

/-- R351: the body of FW_ACTIVATED. -/
def activatedBody (s : State) : Bytes := leBytes 4 (fwVersion s).toNat ++ leBytes 1 (b2n s.id.activeB)

/-- FW_ACTIVATED (R356): the engines have switched and no command runs under the old microcode. -/
def execFwActivated (s : State) : Host.Outcome State Fault Refusal :=
  .next (match s.activating with
    | none => s
    | some a =>
      if a.2.2.2 = false ∨ (s.cmds.any fun c => c.oldUcode) = true then s
      else
        let s := { s with activating := none, id := { s.id with activeB := !s.id.activeB, trial := true, trialNext := false } }
        let s := postAll 0x8030 0 (activatedBody s) s
        match liveUpdate s with
        | some d => postMsgDone d stOk [] { s with deferred := s.deferred.filter fun e => !(e.code == 0x0502 && e.begun) }
        | none => s)

/-- R341, R357, R408: the boot ROM gives up a slot and logs why: 0 verification failed, 1 trial reverted. -/
def logImage (b : Bool) (reason : Nat) (s : State) : State :=
  let x := if b then s.id.slotB else s.id.slotA
  logEntry 0x0009 0 (leBytes 1 (b2n b) ++ leBytes 3 0 ++ leBytes 4 x.version.toNat ++ leBytes 1 reason) s

/-- TRIAL_REVERSION (R357): the TRIAL image has not reached MAILBOX within 2 s of starting; the other slot starts. -/
def execTrialReversion (s : State) : Host.Outcome State Fault Refusal :=
  .next (if s.sup.in40 = true ∧ s.mb = .booting ∧ s.id.trial = true ∧ s.since s.sup.bothU (2 * secU) = true then
      let s := logImage s.id.activeB 1 s
      { s with id := { s.id with activeB := !s.id.activeB, trial := false }, sup := { s.sup with bothU := s.tb.nowU } }
    else s)

end Sys2Proof.Machine
end

