-- ==== Sys2Proof/Machine/Operands.lean ====
section
/-!
DEFINITION. The instruction words of the vector cores (R143, R144), the formats and groups of their registers (R137, R139,
R141), and every operand form (R143, R145, R146).
-/
namespace Sys2Proof.Machine

/-! ### Instruction words (R143) -/

def wMajor (w : Nat) : Nat := bits w 31 26
/-- sd or vd: bits 25:21. -/
def wD (w : Nat) : Nat := bits w 25 21
/-- sa or vs2: bits 20:16. -/
def wA (w : Nat) : Nat := bits w 20 16
/-- sb, vs1 or IMM5: bits 15:11. -/
def wB (w : Nat) : Nat := bits w 15 11
def wFunc (w : Nat) : Nat := bits w 10 5
/-- The sign-extended IMM16. -/
def wImm (w : Nat) : Int := signed 16 w
def wMen (w : Nat) : Bool := bitOf w 4
def wMsk (w : Nat) : Nat := bits w 3 1
/-- R153 MOP. -/
def wMop (w : Nat) : Nat := bits w 10 8
/-- R153 NF. -/
def wNf (w : Nat) : Nat := bits w 7 6 + 1

/-- R143: operand form VV, VS or VI allowed by R145. -/
def vintForm (op form : Nat) : Bool :=
  if op = 0xF then form == 0
  else if op = 0x0 ∨ (4 ≤ op ∧ op ≤ 9) ∨ op = 0xC ∨ op = 0xD then form ≤ 2 else form ≤ 1

/-- R143, R146: operand forms of VFP, and the kinds of VFFOLD. -/
def vfpForm (op form : Nat) : Bool :=
  if op = 0xF then form ≤ 2 else if 0xC ≤ op then form == 0 else form ≤ 1

/-- R143, R144: a mask register field's upper two bits are reserved. -/
def maskField (x : Nat) : Bool := x < 8

/-- R144: the operation of a word, as its major opcode x 256 and its function; none for a reserved word. -/
def decodeWord (w : Nat) : Option Nat :=
  let major := wMajor w
  let f := wFunc w
  let op := f % 16
  let form := f / 16
  let code (n : Nat) : Option Nat := some (major * 256 + n)
  match major with
  | 0x01 => if f ≤ 0xD ∧ w % 32 = 0 then code f else none
  | 0x07 => if f % 32 ≤ 9 ∧ w % 32 = 0 then code (f % 32) else none
  | 0x08 => if w % 32 ≤ 3 then code (w % 32) else none
  | 0x20 => if w % 32 ≤ 1 ∧ bits w 7 5 = 0 then code (w % 32) else none
  | 0x21 => if wMop w ≤ 3 ∧ !bitOf w 5 ∧ !bitOf w 0 then code 0 else none
  | 0x22 => if wMop w ≤ 3 ∧ !bitOf w 5 ∧ !bitOf w 0 then code 0 else none
  | 0x23 => if vintForm op form ∧ !bitOf w 0 then code op else none
  | 0x24 => if vfpForm op form ∧ !bitOf w 0 ∧ (op = 0xF → wB w = 0) then code op else none
  | 0x25 => if f ≤ 0x1C ∧ !bitOf w 0 then code (if f < 0x10 then 0 else f) else none
  | 0x26 => if f ≤ 1 ∧ !bitOf w 0 then code f else none
  | m => if m = 2 ∨ m = 3 ∨ m = 4 ∨ m = 5 ∨ m = 6 ∨ m = 9 ∨ m = 0xA ∨ m = 0xB ∨ m = 0xC then code 0 else none

/-! ### Formats (R139) -/

/-- R139: EW of an EFMT code. -/
def efmtBits (e : Nat) : Nat :=
  match e with
  | 0 => 8 | 1 => 16 | 2 => 32 | 3 => 64 | 4 => 64 | 5 => 32 | 6 => 16 | 7 => 16 | _ => 8

/-- R139: the floating-point format of an EFMT code. -/
def efmtFloat (e : Nat) : Option Fmt :=
  match e with
  | 4 => some fp64 | 5 => some fp32 | 6 => some fp16 | 7 => some bf16 | 8 => some f8a | 9 => some f8b | 10 => some f6
  | _ => none

/-- R139: a legal FMT8. -/
def fmtLegal (f : Nat) : Bool := decide (f / 16 ≤ 10) && f / 4 % 4 == 0

/-- R139: SPAN of an FMT8. -/
def spanOf (f : Nat) : Nat := 2 ^ (f % 4)

/-- R139: SLIM. -/
def slimOf (f : Nat) : Nat := spanOf f * 2048 / efmtBits (f / 16)

/-- EFMT in force. -/
def Core.efmt (c : Core) : Nat := c.fmt.toNat / 16
/-- SPAN in force. -/
def Core.span (c : Core) : Nat := spanOf c.fmt.toNat
/-- EW in force. -/
def Core.ew (c : Core) : Nat := efmtBits c.efmt
/-- SLIM in force. -/
def Core.slim (c : Core) : Nat := slimOf c.fmt.toNat
/-- VL as a number. -/
def Core.len (c : Core) : Nat := c.vl.toNat

/-! ### Registers (R137, R141) -/

/-- R137: a scalar register; s0 reads as zero. -/
def Core.getS (c : Core) (r : Nat) : W64 := if r = 0 then 0 else c.s.getD r 0

/-- R137: write a scalar register; writes to s0 are discarded. -/
def Core.setS (r : Nat) (x : W64) (c : Core) : Core := if r = 0 then c else { c with s := c.s.set r x }

/-- R137: element i of the register group from register r on, of width ew. -/
def Core.getE (c : Core) (r ew i : Nat) : Nat := (c.v.getD (r + i * ew / 2048) 0).toNat / 2 ^ (i * ew % 2048) % 2 ^ ew

/-- R137: write element i of a register group. -/
def Core.setE (r ew i x : Nat) (c : Core) : Core :=
  let n := r + i * ew / 2048
  let sh := i * ew % 2048
  let old := c.v.getD n 0
  let hole := BitVec.ofNat 2048 ((2 ^ ew - 1) * 2 ^ sh)
  { c with v := c.v.set n ((old &&& ~~~hole) ||| BitVec.ofNat 2048 (x % 2 ^ ew * 2 ^ sh)) }

/-- R137: bit i of a mask register. -/
def Core.getM (c : Core) (r i : Nat) : Bool := (c.m.getD r 0).getLsbD i

/-- R137: write bit i of a mask register. -/
def Core.setM (r i : Nat) (b : Bool) (c : Core) : Core :=
  let old := c.m.getD r 0
  let one := BitVec.ofNat 2048 (2 ^ i)
  { c with m := c.m.set r (if b then old ||| one else old &&& ~~~one) }

/-- R141: a register group of n registers begins at a multiple of n and does not pass v31. -/
def groupOk (r n : Nat) : Bool := decide (1 ≤ n) && decide (r % n = 0) && decide (r + n ≤ 32)

/-- Two register groups clash. -/
def clash (r n q m : Nat) : Bool := decide (r < q + m) && decide (q < r + n)

/-- R141: element i is active. -/
def Core.active (c : Core) (w i : Nat) : Bool := !wMen w || c.getM (wMsk w) i

/-! ### Operand forms (R143, R145, R146) -/

/-- Operand form of a V word: 0 VV, 1 VS, 2 VI. -/
def wForm (w : Nat) : Nat := wFunc w / 16

/-- R145, R146: op1 of element i: vs1[i], the low EW bits of s[sb], or the sign-extended IMM5. -/
def Core.op1 (c : Core) (w ew i : Nat) : Nat :=
  match wForm w with
  | 0 => c.getE (wB w) ew i
  | 1 => (c.getS (wB w)).toNat % 2 ^ ew
  | _ => wrapInt ew (signed 5 (wB w))

/-- R141: the vs1 group of a VV form is legal. -/
def Core.op1Ok (c : Core) (w : Nat) : Bool := decide (wForm w ≠ 0) || groupOk (wB w) c.span

/-- R150: vd, a widened group, overlaps a source group. -/
def Core.widenClash (c : Core) (w : Nat) : Bool :=
  clash (wD w) (2 * c.span) (wA w) c.span || (decide (wForm w = 0) && clash (wD w) (2 * c.span) (wB w) c.span)

/-! ### Values -/

/-- The value of an element code of a floating-point or integer EFMT (R79, R139). -/
def efmtValue (e x : Nat) : FV :=
  match efmtFloat e with
  | some f => decodeF f (if e = 10 then x % 64 else x)
  | none => fvInt (signed (efmtBits e) x)

/-- R85: a value converted to an EFMT: code and events. -/
def efmtConv (e : Nat) (rm : RM) (x : FV) : Nat × Ev :=
  match efmtFloat e with
  | some f => roundV f rm x
  | none => let r := toInt (efmtBits e) rm x; (wrapInt (efmtBits e) r.1, r.2)

end Sys2Proof.Machine
end

