-- ==== Sys2Proof/Machine/Cores.lean ====
section
/-!
DEFINITION. How a vector core executes one instruction: fetch through the instruction cache and decode (R135, R143, R144),
memory through the data cache (R135, R154, R155), elements, interruption and resume (R141, R157, R158), faults and traps (R98-R100, R158), and unpredictable
results (R4).
-/
namespace Sys2Proof.Machine

/-- The instruction that a core executes. -/
structure Vx where
  /-- Basalt x 64 + core. -/
  key : Nat := 0
  /-- Fetch number of the launch. -/
  k : Nat := 0
  /-- The word. -/
  w : Nat := 0
  /-- R64, R158: elements that the instruction may still process before it is interrupted. -/
  limit : Nat := 4096
deriving DecidableEq, Repr

/-- Core number within its Basalt: the unit lane of R147. -/
def Vx.lane (x : Vx) : Nat := x.key % 64

/-- A core. -/
def getCore (s : State) (key : Nat) : Core := (Tbl.find? s.cores key).getD {}

/-- Change a core that a launch holds. -/
def modCore (key : Nat) (f : Core → Core) (s : State) : State :=
  match Tbl.find? s.cores key with
  | none => s
  | some c => { s with cores := Tbl.ins s.cores key (f c) }

/-- The core at work. -/
def myCore (x : Vx) : EngM Core := do
  let s ← getS
  pure (getCore s x.key)

/-- Change the core at work. -/
def setCore (x : Vx) (f : Core → Core) : EngM Unit := modS (modCore x.key f)

/-- A free bit (R4, log entry 3). -/
def freeChoice (n : Nat) : EngM Bool := do
  let e ← get
  set { e with s := { e.s with free := e.s.free + 1 } }
  pure (Config.freeBit e.s.free n)

/-! ### Memory of a core (R154, R155) -/

/-- Transactions of the core's own remote writes that are still unanswered. -/
def coreWaits (s : State) (x : Vx) : List (BitVec 32) :=
  match findCmd s x.k with
  | some c => (getCore s x.key).waits.filter fun t => c.waits.contains t
  | none => []

/-- R135: a line enters a cache of `cap` lines; of a full one some line leaves, which one being free (log entry 36). -/
def fillInto (cap f : Nat) (t : Tbl Bytes) (ln : Nat) (bs : Bytes) : Tbl Bytes :=
  let t := if (Tbl.find? t ln).isNone && decide (cap ≤ t.length) then t.eraseIdx (Config.freeNat f 8 % t.length) else t
  Tbl.ins t ln bs

/-- R135, R155: fill a line of the 128 KiB data cache from memory. -/
def fillCache (x : Vx) (ln : Nat) : EngM Bytes := do
  let bs ← readV (ln * 128) 128
  let s ← getS
  setCore x fun c => { c with dcache := fillInto 1024 s.free c.dcache ln bs }
  modS fun s => { s with free := s.free + 1 }
  pure bs

/-- R155: one line as a load sees it: a line in the data cache may be stale or may have been fetched again, which a free bit
decides (log entry 9). A line of another module waits for the core's own writes, which it must see. -/
def cacheLine (x : Vx) (ln : Nat) : EngM Bytes := do
  let e ← get
  match translate e.s e.ctx (ln * 128) false with
  | none => stopFault stTranslation (transInfo (ln * 128))
  | some m =>
    if m.remote && !(coreWaits e.s x).isEmpty then throw .wait else
    match Tbl.find? (getCore e.s x.key).dcache ln with
    | none => fillCache x ln
    | some bs =>
      let again ← freeChoice ln
      if again then fillCache x ln else pure bs

/-- R154: load n bytes at an address, line by line (fuel: lines). A fault names the first byte that it concerns. -/
def coreReadN (x : Vx) : Nat → Nat → Nat → EngM Bytes
  | 0, _, _ => pure []
  | fuel + 1, va, n => do
    if n = 0 then pure [] else
    let e ← get
    match translate e.s e.ctx va false with
    | none => stopFault stTranslation (transInfo va)
    | some _ =>
      let k := min n (128 - va % 128)
      let l ← cacheLine x (va / 128)
      let r ← coreReadN x fuel (va + k) (n - k)
      pure ((l.drop (va % 128)).take k ++ r)

/-- R153: addresses are 64-bit and wrap. -/
def wrapVa (a : Int) : Nat := wrapInt 64 a

/-- R154: load n bytes. -/
def coreRead (x : Vx) (va n : Nat) : EngM Bytes := coreReadN x (n / 128 + 2) va n

/-- R72, R157: every byte of [va, va + n), n at most 65,536, may be written; a store that faults writes nothing. -/
def needWrite (va n : Nat) : EngM Unit := do
  let e ← get
  let last := va + n - 1
  if (translate e.s e.ctx va true).isNone then stopFault stTranslation (transInfo va)
  else if (translate e.s e.ctx last true).isNone then stopFault stTranslation (transInfo (last / 0x10000 * 0x10000))
  else pure ()

/-- What a line of virtual addresses names: a module's place and the address there, or nothing. -/
def lineTarget (s : State) (ctx ln : Nat) : Option (Bool × BitVec 16 × BitVec 8 × Nat) :=
  (translate s ctx (ln * 128) false).map fun m =>
    if m.remote then (true, m.dst, m.rctx, mapTarget m (ln * 128)) else (false, 0, 0, canon s.id (mapTarget m (ln * 128)))

/-- R155: a cached line after a store to lines a, a + 1, …: it takes the stored bytes, by whichever virtual address it is cached. -/
def updateLine (s : State) (ctx va : Nat) (bs : Bytes) (l : Nat × Bytes) : Nat × Bytes :=
  let lines := (List.range ((va + bs.length - 1) / 128 + 1 - va / 128)).map (· + va / 128)
  let same := fun (t : Nat) => t == l.1 || ((lineTarget s ctx t).isSome && lineTarget s ctx t == lineTarget s ctx l.1)
  match lines.find? same with
  | none => l
  | some t =>
    (l.1, (List.range l.2.length).map fun i =>
      let a := t * 128 + i
      if va ≤ a ∧ a < va + bs.length then bs.getD (a - va) 0 else l.2.getD i 0)

/-- R155: a store goes through to memory, and the core's own cached copies take it. -/
def coreWrite (x : Vx) (va : Nat) (bs : Bytes) : EngM Unit := do
  needWrite va bs.length
  writeV va bs
  let e ← get
  setCore x fun c => { c with dcache := c.dcache.map (updateLine e.s e.ctx va bs) }

/-! ### Faults and unpredictable results -/

/-- R4, R6: an instruction with an unpredictable result: any register of the core and any memory that the context may write may
change, and the launch may end with any status that it can return. -/
def coreHavoc (x : Vx) (s : State) : State :=
  let f := s.free
  let s := modCore x.key (freeCore f) { s with free := f + 1 }
  match findCmd s x.k with
  | none => s
  | some c =>
    if Config.freeBit f 406 then unpredictable c s
    else orSticky c.ctx (Config.freeW64 f 407 &&& 0xF01F) (havocMem c.ctx s)

/-- R158, R385: the element that a fault record names: that of the instruction, or the one given. -/
def coreInfo (s : State) (x : Vx) (info : FaultInfo) : FaultInfo :=
  let c := getCore s x.key
  let el : W64 := if wMajor x.w < 0x20 then 0 else c.vresume.setWidth 64
  { info with
    lane := BitVec.ofNat 16 x.lane
    aux := c.pc
    element := if info.element = 0xFFFFFFFFFFFFFFFF then el else info.element }

/-- The machine after the part of an instruction that was done: remote writes on their way (R155), sticky bits, warnings
and the pages used (R73) noted. -/
def coreCommit (x : Vx) (e : Eng) : State :=
  let s := engCommit (some x.k) e
  let old := match findCmd e.s x.k with
    | some c => c.waits
    | none => []
  let new := match findCmd s x.k with
    | some c => c.waits.drop old.length
    | none => []
  let s := modCmd x.k (fun c => { c with warns := c.warns ||| e.warns, touched := addPages c.touched e.pages }) s
  if new.isEmpty then s else modCore x.key (fun c => { c with waits := c.waits ++ new }) s

/-- Execute an instruction's work. After a trap, what the launch has written is unpredictable (R98). -/
def runCore (x : Vx) (ctx : Nat) (work : EngM Unit) (s : State) : State :=
  match work { s := s, ctx := ctx, owner := 2 * x.k } with
  | .ok _ e => coreCommit x e
  | .error (.fault st info) e =>
    if (findCmd s x.k).any fun d => unmapFault d st info then coreHavoc x s
    else
      let s := coreCommit x e
      let s := if st = stTranslation then s else havocMem ctx s
      faultCmd x.k st (coreInfo s x info) s
  | .error (.remote va n) e => askRemote ctx (some x.k) (2 * x.k) va n (coreCommit x e)
  | .error .wait e => coreCommit x e
  | .error .unpred e => coreHavoc x e.s

/-! ### Instructions -/

/-- Step to the next instruction. -/
def nextPc (x : Vx) : EngM Unit := setCore x fun c => { c with pc := c.pc + 4 }

/-- R88, R98: stop on a trapped event. Its own sticky bits are set, and some of the others of the operation (log entry 109). -/
def stopTrap (before : W64) : EngM Unit := do
  let e ← get
  match e.trap with
  | none => pure ()
  | some t =>
    set { e with sticky := before ||| t.sticky ||| (e.sticky &&& Config.freeW64 e.s.free 0), s := { e.s with free := e.s.free + 1 } }
    stopFault (trapStatus t) (trapInfo t)

/-- Note the events of a scalar instruction or of element i of a vector instruction (R98, R147). -/
def coreEv (x : Vx) (i role : Nat) (ev : Ev) : EngM Unit := noteEv 0 i role x.lane ev

/-- R157: process elements in ascending order, each complete before the next, VRESUME naming the one at work. A trap or a fault
at an element stops there; a pre-emption stops before one (R158). -/
def elemLoop (x : Vx) (f : Nat → EngM Unit) : Nat → List Nat → EngM Unit
  | _, [] => pure ()
  | 0, i :: _ => do
    setCore x fun c => { c with vresume := BitVec.ofNat 12 i }
    throw .wait
  | n + 1, i :: is => do
    setCore x fun c => { c with vresume := BitVec.ofNat 12 i }
    let e ← get
    f i
    stopTrap e.sticky
    elemLoop x f n is

/-- R141: the active elements from VRESUME to VL - 1. -/
def activeElems (x : Vx) (c : Core) : List Nat :=
  ((List.range c.len).drop c.vresume.toNat).filter fun i => c.active x.w i

/-- The end of a vector instruction: VRESUME is 0 (R157). -/
def vecDone (x : Vx) : EngM Unit := setCore x fun c => { c with vresume := 0, pc := c.pc + 4 }

/-- R140, R141, R157: an element-resumable instruction. -/
def vecElems (x : Vx) (legal : Core → Bool) (f : Nat → EngM Unit) : EngM Unit := do
  let c ← myCore x
  if c.invalid || !legal c then throw .unpred
  elemLoop x f x.limit (activeElems x c)
  vecDone x

/-- The destination of an instruction that is not element-resumable: a register group (first register, length), a mask register,
areas of memory. -/
structure Dest where
  /-- Register group. -/
  v : Nat × Nat := (0, 0)
  /-- Mask register. -/
  m : Option Nat := none
  /-- Memory: (virtual address, length). -/
  mem : List (Nat × Nat) := []
deriving DecidableEq, Repr

/-- R158: a destination left unpredictable. -/
def freeDest (x : Vx) (d : Dest) (ctx : Nat) (s : State) : State :=
  let s := modCore x.key (fun c => { c with
    v := (List.range 32).map fun i => if d.v.1 ≤ i ∧ i < d.v.1 + d.v.2 then Config.freeVec s.free i else c.v.getD i 0
    m := (List.range 8).map fun i => if d.m = some i then Config.freeVec s.free (40 + i) else c.m.getD i 0 }) s
  havocAreas ctx (some x.k) d.mem s

/-- R158: work whose fault or trap leaves its destination unpredictable. -/
def destWork (x : Vx) (d : Dest) (work : EngM Unit) : EngM Unit := fun e =>
  match work e with
  | .ok _ e => .ok () (if e.trap.isSome then { e with s := freeDest x d e.ctx e.s } else e)
  | .error (.fault st info) e => .error (.fault st info) { e with s := freeDest x d e.ctx e.s }
  | .error r e => .error r e

/-- R140, R157: an instruction that is not element-resumable: what it needs at any VL, and its work; with VL = 0 it writes nothing
(R141). -/
def vecWhole (x : Vx) (legal : Core → Bool) (dest : Core → Dest) (need : EngM Unit) (work : Core → EngM Unit) : EngM Unit := do
  let c ← myCore x
  if c.invalid || !legal c || c.vresume != 0 then throw .unpred
  destWork x (dest c) need
  if c.len ≠ 0 then
    destWork x (dest c) (work c)
    stopTrap 0
  vecDone x

/-- A scalar instruction: its work, unless it traps, and the next instruction. -/
def scalarDo (x : Vx) (work : Core → EngM Unit) : EngM Unit := do
  let c ← myCore x
  work c
  stopTrap 0
  nextPc x

/-- Write a scalar register. -/
def putS (x : Vx) (r : Nat) (v : W64) : EngM Unit := unlessTrapped (setCore x (Core.setS r v))

/-- Write an element of a group. -/
def putE (x : Vx) (r ew i v : Nat) : EngM Unit := unlessTrapped (setCore x (Core.setE r ew i v))

/-- Write a bit of a mask register. -/
def putM (x : Vx) (r i : Nat) (b : Bool) : EngM Unit := unlessTrapped (setCore x (Core.setM r i b))

/-! ### The frame of every instruction row -/

/-- The launch of a core that may execute an instruction now (R64, R155, R161, R389). -/
def coreCmd (s : State) (key : Nat) : Option Cmd :=
  match Tbl.find? s.cores key with
  | none => none
  | some c =>
    match c.k with
    | none => none
    | some k =>
      match findCmd s k with
      | none => none
      | some d =>
        if d.st = .started ∧ d.preempted = false ∧ inReset s = false ∧ c.running = true ∧ c.barrier = false then some d
        else none

/-- R135: fill a line of the core's 32 KiB instruction cache from memory. -/
def fillCode (key ln : Nat) : EngM Bytes := do
  let bs ← readV (ln * 128) 128
  let s ← getS
  modS (modCore key fun c => { c with icache := fillInto 256 s.free c.icache ln bs })
  modS fun s => { s with free := s.free + 1 }
  pure bs

/-- R135, R155: the line of an address as a fetch sees it: a line in the instruction cache may be stale or may have been fetched again, which
a free bit decides (log entry 36). -/
def codeLine (key va : Nat) : EngM Bytes := do
  let e ← get
  match translate e.s e.ctx va false with
  | none => stopFault stTranslation (transInfo va)
  | some _ =>
    match Tbl.find? (getCore e.s key).icache (va / 128) with
    | none => fillCode key (va / 128)
    | some bs =>
      let again ← freeChoice (va / 128)
      if again then fillCode key (va / 128) else pure bs

/-- R143: fetch the word at pc; none when pc is not 4-byte aligned. -/
def fetchWord (key : Nat) (pc : W64) : EngM (Option Nat) := do
  if pc.toNat % 4 ≠ 0 then pure none else
  let l ← codeLine key pc.toNat
  pure (some (leNat ((l.drop (pc.toNat % 128)).take 4)))

/-- R64, R158: a level 3 launch with a rival may be interrupted before any element. -/
def elemLimit (s : State) (d : Cmd) : Nat :=
  if effPrio s d = 3 ∧ wanted s d = true then Config.freeNat s.free 0 % 2049 else 4096

/-- One instruction row on core c of Basalt b. The core executes the instruction at its pc; a row that names another operation
changes nothing (log entry 14). A reserved word is unpredictable (R6), and so is a launch that runs across an UNMAP of pages that it
used (R73). -/
def coreRow (b c code : Nat) (work : Vx → EngM Unit) (s : State) : State :=
  let key := b * 64 + c
  match coreCmd s key with
  | none => s
  | some d =>
    let x : Vx := { key := key, k := d.k, limit := elemLimit s d }
    if crossedUnmap d then coreHavoc x s else
    match fetchWord key (getCore s key).pc { s := { s with free := s.free + 1 }, ctx := d.ctx, owner := 2 * d.k } with
    | .error (.fault st info) e => faultCmd d.k st (coreInfo e.s x { info with element := 0 }) e.s
    | .error (.remote va n) _ => askRemote d.ctx (some d.k) (2 * d.k) va n s
    | .error .wait _ => s
    | .error .unpred _ => s
    | .ok none _ => coreHavoc x s
    | .ok (some w) e =>
      match decodeWord w with
      | none => coreHavoc x s
      | some r => if r = code then runCore { x with w := w } d.ctx (work { x with w := w }) (dropUsed e.owner e.used e.s) else s

end Sys2Proof.Machine
end

