-- ==== Sys2Proof/Machine/Scalar.lean ====
section
/-!
DEFINITION. The scalar instructions of the vector cores (R144): integer, immediate, load and store, branch, scalar
floating-point, system and configure (R138, R140, R149, R155).
-/
namespace Sys2Proof.Machine

/-! ### Integer (R13, R144) -/

/-- R144: a three-register integer instruction. -/
def saluRow (b c f : Nat) (op : W64 → W64 → W64) (s : State) : State :=
  coreRow b c (0x100 + f) (fun x => scalarDo x fun r => putS x (wD x.w) (op (r.getS (wA x.w)) (r.getS (wB x.w)))) s

def execSAdd (b c : Nat) (s : State) : Host.Outcome State Fault Refusal := .next (saluRow b c 0x00 (· + ·) s)
def execSSub (b c : Nat) (s : State) : Host.Outcome State Fault Refusal := .next (saluRow b c 0x01 (· - ·) s)
def execSAnd (b c : Nat) (s : State) : Host.Outcome State Fault Refusal := .next (saluRow b c 0x02 (· &&& ·) s)
def execSOr (b c : Nat) (s : State) : Host.Outcome State Fault Refusal := .next (saluRow b c 0x03 (· ||| ·) s)
def execSXor (b c : Nat) (s : State) : Host.Outcome State Fault Refusal := .next (saluRow b c 0x04 (· ^^^ ·) s)

/-- R144: a shift. The spec states no result for a count of 64 or more: it is a free value of the operands (log entry 20). -/
def shiftRow (b c f : Nat) (op : W64 → Nat → W64) (s : State) : State :=
  saluRow b c f (fun v n => if n.toNat < 64 then op v n.toNat else Config.operandValue (0x100 + f) [v.toNat, n.toNat]) s

def execShl (b c : Nat) (s : State) : Host.Outcome State Fault Refusal := .next (shiftRow b c 0x05 (· <<< ·) s)
def execShr (b c : Nat) (s : State) : Host.Outcome State Fault Refusal := .next (shiftRow b c 0x06 (· >>> ·) s)
def execSra (b c : Nat) (s : State) : Host.Outcome State Fault Refusal := .next (shiftRow b c 0x07 BitVec.sshiftRight s)
def execMul (b c : Nat) (s : State) : Host.Outcome State Fault Refusal := .next (saluRow b c 0x08 (· * ·) s)

/-- R144: the high 64 bits of a signed product. -/
def mulHigh (a b : W64) : W64 := BitVec.ofInt 64 (a.toInt * b.toInt / (2 ^ 64 : Nat))

def execMulh (b c : Nat) (s : State) : Host.Outcome State Fault Refusal := .next (saluRow b c 0x09 mulHigh s)

/-- R13, R144: signed quotient, truncated; divisor 0 gives all ones. -/
def sdivide (a b : W64) : W64 := if b = 0 then BitVec.allOnes 64 else BitVec.ofInt 64 (a.toInt.tdiv b.toInt)
/-- R13, R144: signed remainder; divisor 0 gives the dividend. -/
def sremain (a b : W64) : W64 := if b = 0 then a else BitVec.ofInt 64 (a.toInt.tmod b.toInt)

def execDiv (b c : Nat) (s : State) : Host.Outcome State Fault Refusal := .next (saluRow b c 0x0A sdivide s)
def execRem (b c : Nat) (s : State) : Host.Outcome State Fault Refusal := .next (saluRow b c 0x0B sremain s)

/-- 1 or 0. -/
def flag64 (p : Bool) : W64 := if p then 1 else 0

def execSlt (b c : Nat) (s : State) : Host.Outcome State Fault Refusal := .next (saluRow b c 0x0C (fun a b => flag64 (a.slt b)) s)
def execSltu (b c : Nat) (s : State) : Host.Outcome State Fault Refusal := .next (saluRow b c 0x0D (fun a b => flag64 (a.ult b)) s)

/-- The sign-extended IMM16 as a word. -/
def immW (w : Nat) : W64 := BitVec.ofInt 64 (wImm w)

/-- ADDI (R144). -/
def execAddi (b c : Nat) (s : State) : Host.Outcome State Fault Refusal :=
  .next (coreRow b c 0x200 (fun x => scalarDo x fun r => putS x (wD x.w) (r.getS (wA x.w) + immW x.w)) s)

/-- SHLI (R144). -/
def execShli (b c : Nat) (s : State) : Host.Outcome State Fault Refusal :=
  .next (coreRow b c 0x900 (fun x => scalarDo x fun r =>
    putS x (wD x.w) ((r.getS (wA x.w) <<< 16) ||| BitVec.ofNat 64 (x.w % 65536))) s)

/-! ### Loads, stores and branches (R144, R155) -/

/-- Address of a scalar load or store. -/
def scalarVa (r : Core) (w : Nat) : Nat := (r.getS (wA w) + immW w).toNat

/-- LD (R144). -/
def execLd (b c : Nat) (s : State) : Host.Outcome State Fault Refusal :=
  .next (coreRow b c 0x300 (fun x => scalarDo x fun r => do
    let bs ← coreRead x (scalarVa r x.w) 8
    putS x (wD x.w) (BitVec.ofNat 64 (leNat bs))) s)

/-- LDW (R144). -/
def execLdw (b c : Nat) (s : State) : Host.Outcome State Fault Refusal :=
  .next (coreRow b c 0xB00 (fun x => scalarDo x fun r => do
    let bs ← coreRead x (scalarVa r x.w) 4
    putS x (wD x.w) (BitVec.ofInt 64 (signed 32 (leNat bs)))) s)

/-- ST (R144). -/
def execSt (b c : Nat) (s : State) : Host.Outcome State Fault Refusal :=
  .next (coreRow b c 0x400 (fun x => scalarDo x fun r =>
    coreWrite x (scalarVa r x.w) (leBytes 8 (r.getS (wD x.w)).toNat)) s)

/-- STW (R144). -/
def execStw (b c : Nat) (s : State) : Host.Outcome State Fault Refusal :=
  .next (coreRow b c 0xC00 (fun x => scalarDo x fun r =>
    coreWrite x (scalarVa r x.w) (leBytes 4 (r.getS (wD x.w)).toNat)) s)

/-- R144: a branch by IMM16 x 4. -/
def branchRow (b c code : Nat) (taken : W64 → W64 → Bool) (s : State) : State :=
  coreRow b c code (fun x => setCore x fun r =>
    { r with pc := if taken (r.getS (wD x.w)) (r.getS (wA x.w)) then r.pc + 4 * immW x.w else r.pc + 4 }) s

/-- BNE (R144). -/
def execBne (b c : Nat) (s : State) : Host.Outcome State Fault Refusal := .next (branchRow b c 0x500 (· != ·) s)

/-- BLT (R144). -/
def execBlt (b c : Nat) (s : State) : Host.Outcome State Fault Refusal := .next (branchRow b c 0xA00 BitVec.slt s)

/-- JAL (R144). -/
def execJal (b c : Nat) (s : State) : Host.Outcome State Fault Refusal :=
  .next (coreRow b c 0x600 (fun x => setCore x fun r =>
    let dest := r.getS (wA x.w) + 4 * immW x.w
    { Core.setS (wD x.w) (r.pc + 4) r with pc := dest }) s)

/-! ### Scalar floating point (R144, R147, R160) -/

/-- The format of a scalar floating-point instruction: FUNC[5]. -/
def sfpFmt (w : Nat) : Fmt := if wFunc w < 32 then fp64 else fp32

/-- A floating-point code in a scalar register: the bits above an FP32 value are not stated, and depend on the operation and its
registers (log entry 21). -/
def floatReg (f : Fmt) (op : Nat) (regs : List Nat) (code : Nat) : W64 :=
  if f.w = 64 then BitVec.ofNat 64 code
  else (Config.operandValue op (code :: regs)).extractLsb' 32 32 ++ BitVec.ofNat 32 code

/-- R100: the role of an operation with two operands: input when one is NaN, else result. -/
def pairRole (a b : FV) : Nat := if fvIsNan a || fvIsNan b then 1 else 3

/-- R144: a scalar floating-point instruction of one format. -/
def sfpRow (b c f : Nat) (op : Fmt → RM → Nat → Nat → Nat × Ev) (s : State) : State :=
  coreRow b c (0x700 + f) (fun x => scalarDo x fun r => do
    let mode ← getMode
    let g := sfpFmt x.w
    let p := (r.getS (wA x.w)).toNat % 2 ^ g.w
    let q := (r.getS (wB x.w)).toNat % 2 ^ g.w
    let res := op g (modeRm mode) p q
    coreEv x 0 (pairRole (decodeF g p) (if f = 4 then fvZero else decodeF g q)) res.2
    putS x (wD x.w) (floatReg g (0x700 + f) ([wD x.w, wA x.w, wB x.w].map fun i => (r.getS i).toNat) res.1)) s

/-- R146: minimum or maximum: NaN if either operand is NaN, -0 below +0. -/
def minMaxF (f : Fmt) (low : Bool) (a b : Nat) : Nat × Ev :=
  let x := decodeF f a
  let y := decodeF f b
  if fvIsNan x || fvIsNan y then (nanCode f, evRead2 x y)
  else
    let xLess := fvLt x y || (fvEq x y && fvNeg x && !fvNeg y)
    ((if xLess == low then a else b) % 2 ^ f.w, {})

/-- R146, R160: less than; false for NaN, which raises INVALID. -/
def lessF (f : Fmt) (a b : Nat) : Bool × Ev :=
  let x := decodeF f a
  let y := decodeF f b
  if fvIsNan x || fvIsNan y then (false, { nanRead := true, ieee := ieInvalid }) else (fvLt x y, {})

/-- R146, R160: equality; false for NaN, quiet. -/
def equalF (f : Fmt) (a b : Nat) : Bool × Ev :=
  let x := decodeF f a
  let y := decodeF f b
  if fvIsNan x || fvIsNan y then (false, evRead2 x y) else (fvEq x y, {})

/-- The codes of a two-operand operation. -/
def codes2 (op : Fmt → RM → FV → FV → Nat × Ev) (f : Fmt) (rm : RM) (a b : Nat) : Nat × Ev := op f rm (decodeF f a) (decodeF f b)

def execFadd (b c : Nat) (s : State) : Host.Outcome State Fault Refusal := .next (sfpRow b c 0 (codes2 fAdd) s)
def execFsub (b c : Nat) (s : State) : Host.Outcome State Fault Refusal := .next (sfpRow b c 1 (codes2 fSub) s)
def execFmul (b c : Nat) (s : State) : Host.Outcome State Fault Refusal := .next (sfpRow b c 2 (codes2 fMul) s)
def execFdiv (b c : Nat) (s : State) : Host.Outcome State Fault Refusal := .next (sfpRow b c 3 (codes2 fDiv) s)
/-- FSQRT (R144): of s[sa]. -/
def execFsqrt (b c : Nat) (s : State) : Host.Outcome State Fault Refusal :=
  .next (sfpRow b c 4 (fun f rm a _ => fSqrt f rm (decodeF f a)) s)
def execFmin (b c : Nat) (s : State) : Host.Outcome State Fault Refusal := .next (sfpRow b c 5 (fun f _ => minMaxF f true) s)
def execFmax (b c : Nat) (s : State) : Host.Outcome State Fault Refusal := .next (sfpRow b c 6 (fun f _ => minMaxF f false) s)

/-- FLT (R144): 1 or 0. -/
def execFlt (b c : Nat) (s : State) : Host.Outcome State Fault Refusal :=
  .next (coreRow b c 0x707 (fun x => scalarDo x fun r => do
    let g := sfpFmt x.w
    let res := lessF g ((r.getS (wA x.w)).toNat % 2 ^ g.w) ((r.getS (wB x.w)).toNat % 2 ^ g.w)
    coreEv x 0 1 res.2
    putS x (wD x.w) (flag64 res.1)) s)

/-- FCVT.I (R144, R85): float to signed 64-bit. -/
def execFcvtI (b c : Nat) (s : State) : Host.Outcome State Fault Refusal :=
  .next (coreRow b c 0x708 (fun x => scalarDo x fun r => do
    let mode ← getMode
    let g := sfpFmt x.w
    let res := toInt 64 (modeRm mode) (decodeF g ((r.getS (wA x.w)).toNat % 2 ^ g.w))
    coreEv x 0 4 res.2
    putS x (wD x.w) (BitVec.ofInt 64 res.1)) s)

/-- FCVT.F (R144, R85): signed 64-bit to float. -/
def execFcvtF (b c : Nat) (s : State) : Host.Outcome State Fault Refusal :=
  .next (coreRow b c 0x709 (fun x => scalarDo x fun r => do
    let mode ← getMode
    let g := sfpFmt x.w
    let res := roundV g (modeRm mode) (fvInt (r.getS (wA x.w)).toInt)
    coreEv x 0 4 res.2
    putS x (wD x.w) (floatReg g 0x709 ([wD x.w, wA x.w].map fun i => (r.getS i).toNat) res.1)) s)

/-! ### System (R138, R149, R155, R161) -/

/-- The cores of a launch, with their keys. -/
def coresOf (s : State) (k : Nat) : List (Nat × Core) := s.cores.filter fun c => decide (c.2.k = some k)

/-- R161: the launch completes when every core has executed VEXIT. RESULT holds NCORE. -/
def launchEnd (k : Nat) (s : State) : State :=
  let cs := coresOf s k
  if cs.all fun c => !c.2.running then finishCmd k (some (BitVec.ofNat 64 cs.length)) none (progress k s) else s

/-- VEXIT (R149, R161). -/
def execVexit (b c : Nat) (s : State) : Host.Outcome State Fault Refusal :=
  .next (coreRow b c 0x800 (fun x => do
    setCore x fun r => { r with running := false }
    modS (launchEnd x.k)) s)

/-- R155: release the barrier when every core of the launch has reached it. -/
def releaseBarrier (k : Nat) (s : State) : State :=
  let cs := coresOf s k
  if cs.all fun c => c.2.barrier then
    progress k (cs.foldl (fun s c => modCore c.1 (fun r => { r with barrier := false, pc := r.pc + 4 }) s) s)
  else s

/-- VBAR (R155). -/
def execVbar (b c : Nat) (s : State) : Host.Outcome State Fault Refusal :=
  .next (coreRow b c 0x801 (fun x => do
    let m ← getS
    if !(coreWaits m x).isEmpty then throw .wait
    let r ← myCore x
    setCore x fun r => { r with dcache := [], waits := [] }
    if r.getS (wA x.w) = 0 then nextPc x
    else
      setCore x fun r => { r with barrier := true }
      modS (releaseBarrier x.k)) s)

/-- R138: a control register; none for a reserved number. -/
def readCsr (s : State) (x : Vx) (r : Core) (n : Nat) : Option W64 :=
  match n with
  | 0 => some (r.vl.setWidth 64)
  | 1 => some (BitVec.ofNat 64 (coreVtype r))
  | 2 => some (r.vresume.setWidth 64)
  | 3 => some 2048
  | 4 => some (BitVec.ofNat 64 x.lane)
  | 5 => some r.lcore
  | 6 => some r.ncore
  | 7 => some s.ftw
  | _ => none

/-- CSRR (R138, R144). -/
def execCsrr (b c : Nat) (s : State) : Host.Outcome State Fault Refusal :=
  .next (coreRow b c 0x802 (fun x => scalarDo x fun r => do
    let m ← getS
    match readCsr m x r (bits x.w 15 5) with
    | some v => putS x (wD x.w) v
    | none => throw .unpred) s)

/-- CSRW (R138, R144): VRESUME alone is writable. -/
def execCsrw (b c : Nat) (s : State) : Host.Outcome State Fault Refusal :=
  .next (coreRow b c 0x803 (fun x => scalarDo x fun r => do
    let n := bits x.w 15 5
    if 8 ≤ n then throw .unpred
    else if n = 2 then setCore x fun r' => { r' with vresume := (r.getS (wA x.w)).setWidth 12 }
    else pure ()) s)

/-! ### Configure (R140) -/

/-- VFMT (R139, R140). -/
def execVfmt (b c : Nat) (s : State) : Host.Outcome State Fault Refusal :=
  .next (coreRow b c 0x2000 (fun x => scalarDo x fun _ => do
    let f := bits x.w 15 8
    let good := fmtLegal f
    setCore x fun r => { r with
      fmt := if good then BitVec.ofNat 8 f else r.fmt
      invalid := !good
      vl := 0
      vresume := 0 }
    putS x (wD x.w) (if good then BitVec.ofNat 64 (slimOf f) else 0)) s)

/-- VSTRIP (R140). -/
def execVstrip (b c : Nat) (s : State) : Host.Outcome State Fault Refusal :=
  .next (coreRow b c 0x2001 (fun x => scalarDo x fun r =>
    if r.invalid then do
      setCore x fun r => { r with vl := 0, vresume := 0 }
      putS x (wD x.w) 0
    else do
      let n := if wA x.w = 0 then r.slim else min (r.getS (wA x.w)).toNat r.slim
      setCore x fun r => { r with vl := BitVec.ofNat 12 n, vresume := 0 }
      putS x (wD x.w) (BitVec.ofNat 64 n)) s)

end Sys2Proof.Machine
end

