-- ==== Sys2Proof/Machine/Transcend.lean ====
section
/-!
DEFINITION. EXP and LOG (R146, R160): each result is one of the two floats around the exact value, which puts it within 1 ulp;
which of the two is the operand's own constant of Config (log entry 5). The exact value is bracketed in fixed point with far
more bits than any format holds.
-/
namespace Sys2Proof.Machine

/-- Fraction bits of the fixed-point work. -/
def workBits : Nat := 512

/-- Taylor sum of e^y for 0 <= y < 1, y in fixed point: n terms from term k on, the last term being t. -/
def expTaylor (y : Nat) : Nat → Nat → Nat → Nat
  | 0, _, _ => 0
  | n + 1, k, t => t + expTaylor y n (k + 1) (t * y / 2 ^ workBits / (k + 1))

/-- A value m x 2^e squared n times, m cut to the working bits. -/
def squareTimes : Nat → Nat → Int → Nat × Int
  | 0, m, e => (m, e)
  | n + 1, m, e =>
    let q := m * m
    let sh := Nat.log2 q - workBits
    squareTimes n (q / 2 ^ sh) (2 * e + sh)

/-- e^(m x 2^e) for a positive m x 2^e below 2^11 and a multiple of 2^-400, as m' x 2^e'. -/
def expPos (m : Nat) (e : Int) : Nat × Int :=
  let y := floorAt m (e - 20 + workBits)
  squareTimes 20 (expTaylor y 80 0 (2 ^ workBits)) (-(workBits : Int))

/-- The largest code of a format, of the given sign, whose magnitude is at most m x 2^e. -/
def magFloor (f : Fmt) (neg : Bool) (m : Nat) (e : Int) : Nat := (roundF f .tz neg m e).1

/-- The IEEE flags of an inexact result that is or is not infinite, or subnormal (R160). -/
def inexactFlags (f : Fmt) (code : Nat) : BitVec 5 :=
  let a := code % 2 ^ (f.w - 1)
  if a = infCode f false then ieOverflow ||| ieInexact
  else if a < 2 ^ f.fb then ieUnderflow ||| ieInexact else ieInexact

/-- EXP (R146): code and events. -/
def expF (f : Fmt) (code : Nat) : Nat × Ev :=
  match decodeF f code with
  | .nan sg => (nanCode f, { nanRead := true, ieee := if sg then ieInvalid else 0 })
  | .inf n => (if n then 0 else infCode f false, {})
  | .fin n m e =>
    if m = 0 then (f.bias * 2 ^ f.fb, {}) else
    let k := fvLog2 m e
    let c :=
      if 11 ≤ k then if n then 0 else infCode f false
      else
        let low :=
          if k < -200 then if n then f.bias * 2 ^ f.fb - 1 else f.bias * 2 ^ f.fb
          else
            let p := expPos m e
            if n then
              let d := 2 * workBits
              let r := 2 ^ d / p.1
              magFloor f false r (-p.2 - (d : Int))
            else magFloor f false p.1 p.2
        let isOver := decide (maxExp f < fvLog2 (expPos m e).1 (expPos m e).2) && !n && decide (-200 ≤ k)
        if isOver then infCode f false else if Config.expUp f.w code then low + 1 else low
    (c, { ieee := inexactFlags f c })

/-- 2 artanh z for z in fixed point: n terms from term k on, t being z^(2 k + 1) and zz being z^2. -/
def artanhSum (zz : Nat) : Nat → Nat → Nat → Nat
  | 0, _, _ => 0
  | n + 1, k, t => 2 * t / (2 * k + 1) + artanhSum zz n (k + 1) (t * zz / 2 ^ workBits)

/-- ln (a / b) for b <= a < 2 b, in fixed point. -/
def lnRatio (a b : Nat) : Nat :=
  let z := (a - b) * 2 ^ workBits / (a + b)
  artanhSum (z * z / 2 ^ workBits) 170 0 z

/-- ln (m x 2^e) for a nonzero m, in fixed point. -/
def lnFixed (m : Nat) (e : Int) : Int :=
  let l := Nat.log2 m
  ((l : Int) + e) * (lnRatio 2 1 : Int) + (lnRatio m (2 ^ l) : Int)

/-- LOG (R146): code and events. -/
def logF (f : Fmt) (code : Nat) : Nat × Ev :=
  match decodeF f code with
  | .nan _ => (nanCode f, { nanRead := true, ieee := ieInvalid })
  | .inf n => if n then (nanCode f, evMade) else (infCode f false, {})
  | .fin n m e =>
    if m = 0 then (infCode f true, { ieee := ieDivZero })
    else if n then (nanCode f, evMade)
    else
      let v := lnFixed m e
      if v = 0 then (0, {})
      else
        let low := magFloor f (decide (v < 0)) v.natAbs (-(workBits : Int))
        let c := if Config.logUp f.w code then low + 1 else low
        (c, { ieee := inexactFlags f c })

end Sys2Proof.Machine
end

