-- ==== Sys2Proof/Machine/VecFloat.lean ====
section
/-!
DEFINITION. VFP: the floating-point vector instructions (R146, R147), widening and dot products (R150, R151), reductions
(R152), and their strict forms (R160).
-/
namespace Sys2Proof.Machine

/-- R146: the format of FP64, FP32, FP16 or BF16 in force. -/
def coreFloat (c : Core) : Option Fmt := if c.efmt < 8 then efmtFloat c.efmt else none

/-- R141: the groups of an instruction with one format. -/
def vfpLegal (w : Nat) (c : Core) : Bool :=
  (coreFloat c).isSome && groupOk (wD w) c.span && groupOk (wA w) c.span && c.op1Ok w

/-- The role of a NaN among two operands and an accumulator (R100). -/
def tripleRole (a b d : FV) : Nat := if fvIsNan a || fvIsNan b then 1 else if fvIsNan d then 2 else 3

/-- R146: vd[i] from vs2[i], op1 and vd[i]; `acc` when vd is an operand. -/
def vfpRow (b c op : Nat) (acc : Bool) (f : Fmt → RM → Nat → Nat → Nat → Nat × Ev) (s : State) : State :=
  coreRow b c (0x2400 + op) (fun x => vecElems x (vfpLegal x.w) fun i => do
    let r ← myCore x
    let mode ← getMode
    let g := (coreFloat r).getD fp64
    let p := r.getE (wA x.w) r.ew i
    let q := r.op1 x.w r.ew i
    let d := r.getE (wD x.w) r.ew i
    let res := f g (modeRm mode) p q d
    coreEv x i (tripleRole (decodeF g p) (decodeF g q) (if acc then decodeF g d else fvZero)) res.2
    putE x (wD x.w) r.ew i res.1) s

/-- An operation on two codes. -/
def vfp2 (op : Fmt → RM → FV → FV → Nat × Ev) (f : Fmt) (rm : RM) (p q _ : Nat) : Nat × Ev :=
  op f rm (decodeF f p) (decodeF f q)

def execVfadd (b c : Nat) (s : State) : Host.Outcome State Fault Refusal := .next (vfpRow b c 0x0 false (vfp2 fAdd) s)
def execVfsub (b c : Nat) (s : State) : Host.Outcome State Fault Refusal := .next (vfpRow b c 0x1 false (vfp2 fSub) s)
def execVfmul (b c : Nat) (s : State) : Host.Outcome State Fault Refusal := .next (vfpRow b c 0x2 false (vfp2 fMul) s)
def execVfdiv (b c : Nat) (s : State) : Host.Outcome State Fault Refusal := .next (vfpRow b c 0x3 false (vfp2 fDiv) s)
/-- VFMA (R146): vs2 x op1 + vd, rounded once. -/
def execVfma (b c : Nat) (s : State) : Host.Outcome State Fault Refusal :=
  .next (vfpRow b c 0x4 true (fun f rm p q d => fFma f rm (decodeF f p) (decodeF f q) (decodeF f d)) s)
/-- VFNMS (R146): -(vs2 x op1) + vd, rounded once. -/
def execVfnms (b c : Nat) (s : State) : Host.Outcome State Fault Refusal :=
  .next (vfpRow b c 0x5 true (fun f rm p q d => fFma f rm (fvNegate (decodeF f p)) (decodeF f q) (decodeF f d)) s)
def execVfmin (b c : Nat) (s : State) : Host.Outcome State Fault Refusal :=
  .next (vfpRow b c 0x6 false (fun f _ p q _ => minMaxF f true p q) s)
def execVfmax (b c : Nat) (s : State) : Host.Outcome State Fault Refusal :=
  .next (vfpRow b c 0x7 false (fun f _ p q _ => minMaxF f false p q) s)

/-- R146: a comparison into a mask register. -/
def vfcmpRow (b c op : Nat) (f : Fmt → Nat → Nat → Bool × Ev) (s : State) : State :=
  coreRow b c (0x2400 + op) (fun x => vecElems x
    (fun r => (coreFloat r).isSome && maskField (wD x.w) && groupOk (wA x.w) r.span && r.op1Ok x.w) fun i => do
      let r ← myCore x
      let res := f ((coreFloat r).getD fp64) (r.getE (wA x.w) r.ew i) (r.op1 x.w r.ew i)
      coreEv x i 1 res.2
      putM x (wD x.w) i res.1) s

def execVfcmplt (b c : Nat) (s : State) : Host.Outcome State Fault Refusal := .next (vfcmpRow b c 0x8 lessF s)
def execVfcmpeq (b c : Nat) (s : State) : Host.Outcome State Fault Refusal := .next (vfcmpRow b c 0x9 equalF s)

/-! ### Widening and dot products (R150, R151) -/

/-- R150: the destination of a widening product. -/
def widenFloat (e : Nat) : Option Fmt :=
  match e with
  | 8 => some bf16 | 9 => some bf16 | 10 => some bf16
  | 6 => some fp32 | 7 => some fp32
  | 5 => some fp64
  | _ => none

/-- R141, R150: the registers of a widening product. -/
def widenFpLegal (w : Nat) (c : Core) : Bool :=
  (widenFloat c.efmt).isSome && decide (c.span ≤ 4) && groupOk (wD w) (2 * c.span) && groupOk (wA w) c.span && c.op1Ok w
    && !c.widenClash w

/-- R88, R150: the flags that a BF16 product sets outside strict mode. -/
def forceFlags (e : Nat) (ev : Ev) : EngM Unit :=
  if e = 7 then modify fun g => { g with sticky := g.sticky ||| (ev.ieee.setWidth 64 &&& 0x7) } else pure ()

/-- R150: the event of a BF16 product that overflows is an overflow to infinity (R100 kind 0x3): reported as a range event of
its own, since it saturates nothing. -/
def productEv (x : Vx) (e i role : Nat) (ev : Ev) : EngM Unit := do
  let mode ← getMode
  coreEv x i role ev
  if e = 7 ∧ ev.ieee &&& ieOverflow ≠ 0 ∧ mode.getLsbD 1 = true then
    let t : Trap := { elem := i, isNan := false, role := 3, kind := 3, lane := x.lane, sticky := ev.ieee.setWidth 64 &&& 0x7 }
    modify fun g => { g with trap := firstTrap g.trap (some t) }

/-- VFXMUL (R150, R160): the product rounded once to the wider format. -/
def execVfxmul (b c : Nat) (s : State) : Host.Outcome State Fault Refusal :=
  .next (coreRow b c 0x240A (fun x => vecElems x (widenFpLegal x.w) fun i => do
    let r ← myCore x
    let mode ← getMode
    let g := (widenFloat r.efmt).getD fp64
    let p := efmtValue r.efmt (r.getE (wA x.w) r.ew i)
    let q := efmtValue r.efmt (r.op1 x.w r.ew i)
    let res := fMul g (modeRm mode) p q
    productEv x r.efmt i (tripleRole p q fvZero) res.2
    forceFlags r.efmt res.2
    putE x (wD x.w) (2 * r.ew) i res.1) s)

/-- VFXMA (R150, R160): the exact product added to vd, rounded once. -/
def execVfxma (b c : Nat) (s : State) : Host.Outcome State Fault Refusal :=
  .next (coreRow b c 0x240B (fun x => vecElems x (widenFpLegal x.w) fun i => do
    let r ← myCore x
    let mode ← getMode
    let g := (widenFloat r.efmt).getD fp64
    let p := efmtValue r.efmt (r.getE (wA x.w) r.ew i)
    let q := efmtValue r.efmt (r.op1 x.w r.ew i)
    let d := decodeF g (r.getE (wD x.w) (2 * r.ew) i)
    let res := fFma g (modeRm mode) p q d
    coreEv x i (tripleRole p q d) res.2
    putE x (wD x.w) (2 * r.ew) i res.1) s)

/-- R86: exact sum of finite values after a first one. -/
def exactSum (rm : RM) : List FV → FV → FV
  | [], a => a
  | x :: xs, a => exactSum rm xs (fvAdd rm a x).1

/-- A signalling NaN. -/
def fvIsSnan : FV → Bool
  | .nan sg => sg
  | _ => false

/-- R151, R160: the result of VFDOT at one destination element, from the source pairs that count, whether others of its w positions
count as zero, and vd[j]. A NaN or infinite source gives the canonical NaN; a signalling one raises INVALID (R78). -/
def dotResult (rm : RM) (zeros : Bool) (ps : List (FV × FV)) (d : FV) : Nat × Ev :=
  let sg := fvIsSnan d || ps.any fun p => fvIsSnan p.1 || fvIsSnan p.2
  if ps.any fun p => fvIsNan p.1 || fvIsNan p.2 then (nanCode fp32, { nanRead := true, ieee := if sg then ieInvalid else 0 })
  else if ps.any fun p => fvIsInf p.1 || fvIsInf p.2 then (nanCode fp32, evMade)
  else
    match d with
    | .nan sg => (nanCode fp32, { nanRead := true, ieee := if sg then ieInvalid else 0 })
    | .inf n => (infCode fp32 n, {})
    | d =>
      match (if zeros then [fvZero] else []) ++ ps.map fun p => (fvMul p.1 p.2).1 with
      | [] => roundV fp32 rm d
      | t :: ts => fAdd fp32 rm (exactSum rm ts t) d

/-- VFDOT (R146, R151, R160). -/
def execVfdot (b c : Nat) (s : State) : Host.Outcome State Fault Refusal :=
  .next (coreRow b c 0x240C (fun x => vecWhole x
    (fun r => decide (6 ≤ r.efmt) && groupOk (wD x.w) r.span && groupOk (wA x.w) r.span && groupOk (wB x.w) r.span)
    (fun r => { v := (wD x.w, r.span) }) (pure ()) fun r => do
      let mode ← getMode
      let n := 32 / r.ew
      (List.range (ceilDiv r.len n)).forM fun j => do
        let ps := (dotTermsF r x.w n j).map fun i =>
          (efmtValue r.efmt (r.getE (wA x.w) r.ew i), efmtValue r.efmt (r.getE (wB x.w) r.ew i))
        let d := decodeF fp32 (r.getE (wD x.w) 32 j)
        let res := dotResult (modeRm mode) (decide (ps.length < n)) ps d
        coreEv x j (if ps.any fun p => fvIsNan p.1 || fvIsNan p.2 then 1 else if fvIsNan d then 2 else 3) res.2
        putE x (wD x.w) 32 j res.1) s)
where
  /-- R151: source positions of destination element j that count. -/
  dotTermsF (c : Core) (w n j : Nat) : List Nat :=
    ((List.range n).map (· + n * j)).filter fun i => decide (i < c.len) && c.active w i

/-! ### Unary and conversion (R146) -/

/-- R146: VFUN's selectors; none for a reserved code. -/
def unaryF (sel : Nat) (f : Fmt) (rm : RM) (a : Nat) : Option (Nat × Ev) :=
  let v := decodeF f a
  match sel with
  | 0 => some (fSqrt f rm v)
  | 1 => some (expF f a)
  | 2 => some (logF f a)
  | 3 => some (if fvIsNan v then (nanCode f, { nanRead := true }) else (a % 2 ^ (f.w - 1), {}))
  | 4 => some (if fvIsNan v then (nanCode f, { nanRead := true }) else (a ^^^ 2 ^ (f.w - 1), {}))
  | 5 => some (fDiv f rm (fvInt 1) v)
  | _ => none

/-- VFUN (R146, R160). -/
def execVfun (b c : Nat) (s : State) : Host.Outcome State Fault Refusal :=
  .next (coreRow b c 0x240D (fun x => vecElems x
    (fun r => (coreFloat r).isSome && groupOk (wD x.w) r.span && groupOk (wA x.w) r.span && decide (wB x.w ≤ 5)) fun i => do
      let r ← myCore x
      let mode ← getMode
      let g := (coreFloat r).getD fp64
      let p := r.getE (wA x.w) r.ew i
      match unaryF (wB x.w) g (modeRm mode) p with
      | none => throw .unpred
      | some res =>
        coreEv x i (if fvIsNan (decodeF g p) then 1 else 3) res.2
        putE x (wD x.w) r.ew i res.1) s)

/-- R146: DSPAN of a conversion, as a fraction: SPAN x destination EW / EW, from 1 to 8. -/
def cvtSpan (c : Core) (d : Nat) : Nat := c.span * efmtBits d / c.ew

/-- R146: the registers and formats of a conversion. -/
def cvtLegal (w : Nat) (c : Core) : Bool :=
  decide (wB w ≤ 10) && groupOk (wA w) c.span && decide (c.span * efmtBits (wB w) % c.ew = 0) && decide (cvtSpan c (wB w) ≤ 8)
    && groupOk (wD w) (cvtSpan c (wB w))

/-- VFCVT (R85, R146, R160). -/
def execVfcvt (b c : Nat) (s : State) : Host.Outcome State Fault Refusal :=
  .next (coreRow b c 0x240E (fun x => vecElems x (cvtLegal x.w) fun i => do
    let r ← myCore x
    let mode ← getMode
    let res := efmtConv (wB x.w) (modeRm mode) (efmtValue r.efmt (r.getE (wA x.w) r.ew i))
    coreEv x i 4 res.2
    putE x (wD x.w) (efmtBits (wB x.w)) i res.1) s)

/-! ### Reductions (R152) -/

/-- R152: the ordered sum: acc = round(acc + x) in turn, with the events. -/
def orderedSum (f : Fmt) (rm : RM) : List Nat → Nat → Ev → Nat × Ev
  | [], acc, ev => (acc, ev)
  | x :: xs, acc, ev =>
    let r := fAdd f rm (decodeF f acc) (decodeF f x)
    orderedSum f rm xs r.1 (ev.or r.2)

/-- R152: one level of a tree sum: elements 2 k and 2 k + 1 added. -/
def treeLevel (f : Fmt) (rm : RM) : List Nat → List Nat × Ev
  | [] => ([], {})
  | [x] => ([x], {})
  | x :: y :: xs =>
    let r := fAdd f rm (decodeF f x) (decodeF f y)
    let t := treeLevel f rm xs
    (r.1 :: t.1, r.2.or t.2)

/-- R152: n levels of a tree sum. -/
def treeSum (f : Fmt) (rm : RM) : Nat → List Nat → Ev → Nat × Ev
  | 0, xs, ev => (xs.headD 0, ev)
  | n + 1, xs, ev =>
    let r := treeLevel f rm xs
    treeSum f rm n r.1 (ev.or r.2)

/-- R152: the tree sum of elements, inactive ones as +0, padded with +0 to a power of two. -/
def treeTotal (f : Fmt) (rm : RM) (xs : List Nat) : Nat × Ev :=
  let n := log2c xs.length
  treeSum f rm n (xs ++ List.replicate (2 ^ n - xs.length) 0) {}

/-- R152: the maximum of an accumulator and elements. -/
def foldMax (f : Fmt) : List Nat → Nat → Ev → Nat × Ev
  | [], acc, ev => (acc, ev)
  | x :: xs, acc, ev =>
    let r := minMaxF f false acc x
    foldMax f xs r.1 (ev.or r.2)

/-- VFFOLD (R146, R152, R160): element 0 of vd. Its events count at destination element 0 (R147). -/
def execVffold (b c : Nat) (s : State) : Host.Outcome State Fault Refusal :=
  .next (coreRow b c 0x240F (fun x => vecWhole x
    (fun r => (coreFloat r).isSome && groupOk (wD x.w) r.span && groupOk (wA x.w) r.span) (fun r => { v := (wD x.w, r.span) }) (pure ())
    fun r => do
      let mode ← getMode
      let g := (coreFloat r).getD fp64
      let rm := modeRm mode
      let acc := r.getE (wD x.w) r.ew 0
      let act := ((List.range r.len).filter fun i => r.active x.w i).map fun i => r.getE (wA x.w) r.ew i
      let res :=
        match wForm x.w with
        | 0 => orderedSum g rm act acc {}
        | 1 =>
          let t := treeTotal g rm ((List.range r.len).map fun i => if r.active x.w i then r.getE (wA x.w) r.ew i else 0)
          let a := fAdd g rm (decodeF g acc) (decodeF g t.1)
          (a.1, t.2.or a.2)
        | _ => foldMax g act acc {}
      coreEv x 0 (if act.any fun y => fvIsNan (decodeF g y) then 1 else if fvIsNan (decodeF g acc) then 2 else 3) res.2
      putE x (wD x.w) r.ew 0 res.1) s)

end Sys2Proof.Machine
end

