-- ==== Sys2Proof/Machine/VecMem.lean ====
section
/-!
DEFINITION. Vector loads and stores (R153-R155, R157) and the tile streams (R149, R156).
-/
namespace Sys2Proof.Machine

/-- R153: address of field f of element i. -/
def elemVa (r : Core) (w i f : Nat) : Nat :=
  let n := r.ew / 8
  let base := (r.getS (wA w)).toNat
  match wMop w with
  | 0 => wrapVa (base + (i * wNf w + f) * n)
  | 1 => wrapVa (base + i * (r.getS (wB w)).toNat + f * n)
  | _ => wrapVa (base + r.getE (wB w) r.ew i + f * n)

/-- R141, R153: the registers of a vector load or store. -/
def vmLegal (w : Nat) (r : Core) : Bool :=
  decide (wNf w * r.span ≤ 8) && decide (wD w + wNf w * r.span ≤ 32) && decide (wD w % r.span = 0)
    && (decide (wMop w ≠ 2) || groupOk (wB w) r.span)

/-- R153: the registers of a mask load or store. -/
def vmMaskLegal (w : Nat) (_ : Core) : Bool := decide (wNf w = 1) && maskField (wD w)

/-- The bytes of a mask access that hold an active bit. -/
def maskBytes (r : Core) (w : Nat) : List Nat :=
  (List.range (ceilDiv r.len 8)).filter fun b => (List.range 8).any fun j => decide (8 * b + j < r.len) && r.active w (8 * b + j)

/-- R147, R153: translate a byte of a mask access; the fault names the byte's first element. -/
def needMaskByte (va b : Nat) (write : Bool) : EngM Unit := do
  let e ← get
  if (translate e.s e.ctx va write).isNone then
    stopFault stTranslation { transInfo va with element := BitVec.ofNat 64 (8 * b) }

/-- The loads of fields 0 to n - 1 of an element. -/
def loadFields (x : Vx) (r : Core) (i : Nat) : Nat → EngM (List Nat)
  | 0 => pure []
  | n + 1 => do
    let l ← loadFields x r i n
    let bs ← coreRead x (elemVa r x.w i n) (r.ew / 8)
    pure (l ++ [leNat bs])

/-- R153, R154, R157: the work of a vector load. -/
def vldWork (x : Vx) : EngM Unit :=
  if wMop x.w = 3 then
    vecWhole x (vmMaskLegal x.w) (fun _ => { m := some (wD x.w) }) (pure ()) fun r =>
      (maskBytes r x.w).forM fun y => do
        let va := wrapVa ((r.getS (wA x.w)).toNat + y)
        needMaskByte va y false
        let bs ← coreRead x va 1
        ((List.range 8).filter fun j => decide (8 * y + j < r.len) && r.active x.w (8 * y + j)).forM fun j =>
          putM x (wD x.w) (8 * y + j) (bitOf (leNat bs) j)
  else
    vecElems x (vmLegal x.w) fun i => do
      let r ← myCore x
      let vs ← loadFields x r i (wNf x.w)
      ((List.range vs.length).zip vs).forM fun p => putE x (wD x.w + p.1 * r.span) r.ew i p.2

/-- VLD (R153, R154, R157). -/
def execVld (b c : Nat) (s : State) : Host.Outcome State Fault Refusal := .next (coreRow b c 0x2100 vldWork s)

/-- R153-R155, R157: the work of a vector store. The bits of a mask store's bytes at or beyond VL, or not active, are not stated
(log entry 22). -/
def vstWork (x : Vx) : EngM Unit :=
  if wMop x.w = 3 then
    vecWhole x (vmMaskLegal x.w)
      (fun r => { mem := (maskBytes r x.w).map fun (y : Nat) => (wrapVa ((r.getS (wA x.w)).toNat + y), 1) }) (pure ()) fun r =>
      (maskBytes r x.w).forM fun y => do
        let va := wrapVa ((r.getS (wA x.w)).toNat + y)
        needMaskByte va y true
        let spare := Config.operandValue 0x2200 [y, r.len, (r.m.getD (wD x.w) 0).toNat, (r.m.getD 0 0).toNat]
        let bit := fun (j : Nat) =>
          if 8 * y + j < r.len ∧ r.active x.w (8 * y + j) = true then r.getM (wD x.w) (8 * y + j) else spare.getLsbD j
        coreWrite x va [BitVec.ofNat 8 (((List.range 8).map fun j => b2n (bit j) * 2 ^ j).foldl (· + ·) 0)]
  else
    vecElems x (vmLegal x.w) fun i => do
      let r ← myCore x
      (List.range (wNf x.w)).forM fun f => needWrite (elemVa r x.w i f) (r.ew / 8)
      (List.range (wNf x.w)).forM fun f =>
        coreWrite x (elemVa r x.w i f) (leBytes (r.ew / 8) (r.getE (wD x.w + f * r.span) r.ew i))

/-- VST (R153-R155, R157). -/
def execVst (b c : Nat) (s : State) : Host.Outcome State Fault Refusal := .next (coreRow b c 0x2200 vstWork s)

/-! ### Tile streams (R149, R156) -/

/-- R156: the pair that a stream instruction names is one of the core's own, in a cluster that the context holds. -/
def needPair (x : Vx) (p : Nat) : EngM Unit := do
  let e ← get
  if p ≠ x.lane / 4 || !ownsPair e.s e.ctx (x.key / 64) p then
    stopFault stTranslation { pairInfo p with element := 0 }

/-- VSRD (R149, R156): waits while the OUT queue holds fewer than VL elements. -/
def execVsrd (b c : Nat) (s : State) : Host.Outcome State Fault Refusal :=
  .next (coreRow b c 0x2600 (fun x => vecWhole x
    (fun r => groupOk (wD x.w) r.span && decide (wB x.w < 16)) (fun r => { v := (wD x.w, r.span) }) (needPair x (wB x.w))
    fun r => do
      let e ← get
      let n := r.len * r.ew / 8
      let q := takeStream (streamKey e.s e.ctx (x.key / 64) (wB x.w) 0) n e.s
      if q.1.length < n then throw .wait
      modS fun _ => q.2
      (List.range r.len).forM fun i => putE x (wD x.w) r.ew i (bitField q.1 (i * r.ew) r.ew)) s)

/-- VSWR (R149, R156): waits while the IN queue lacks room. -/
def execVswr (b c : Nat) (s : State) : Host.Outcome State Fault Refusal :=
  .next (coreRow b c 0x2601 (fun x => vecWhole x
    (fun r => groupOk (wD x.w) r.span && decide (wB x.w < 16)) (fun _ => {}) (needPair x (wB x.w))
    fun r => do
      let e ← get
      let key := streamKey e.s e.ctx (x.key / 64) (wB x.w) 1
      let n := r.len * r.ew / 8
      if streamCap e.s (x.key / 64) (wB x.w) < (Tbl.get [] e.s.streams key).length + n then throw .wait
      modS (pushStream key ((List.range r.len).flatMap fun i => leBytes (r.ew / 8) (r.getE (wD x.w) r.ew i)))) s)

end Sys2Proof.Machine
end

