-- ==== Sys2Proof/Machine/Launch.lean ====
section
/-!
DEFINITION. VX_LAUNCH (R161, R162) and VX_FUSED_BWD (R163, R164, R173).
-/
namespace Sys2Proof.Machine

/-! ### VX_LAUNCH -/

/-- The cores of a mask, ascending. -/
def maskCores (m : Nat) : List Nat := (List.range 64).filter fun i => bitOf m i

/-- R161: a core at the start of a launch: rank i of n. VTYPE.FMT is not stated (log entry 23). -/
def freshCore (c : Cmd) (fmt : BitVec 8) (i n : Nat) : Core :=
  let regs : List W64 := List.replicate 32 0
  { k := some c.k, running := true, pc := BitVec.ofNat 64 (body c 16 8), lcore := BitVec.ofNat 64 i,
    ncore := BitVec.ofNat 64 n, fmt := fmt,
    s := ((regs.set 1 (BitVec.ofNat 64 (body c 24 8))).set 2 (BitVec.ofNat 64 i)).set 3 (BitVec.ofNat 64 n) }

/-- R161: the launch starts its cores. -/
def launchCmd (c : Cmd) (s : State) : State :=
  let cs := maskCores (body c 32 8)
  let fmts := fun (i : Nat) => (Config.operandValue 0x30 [i, cs.length, body c 16 8, body c 24 8]).setWidth 8
  let t := ((List.range cs.length).zip cs).foldl (fun t p =>
    Tbl.ins t (c.basalt * 64 + p.2) (freshCore c (fmts p.1) p.1 cs.length)) s.cores
  modProg c.k (fun p => { p with next := 1 }) { s with cores := t }

/-- VX_LAUNCH (R161, R162). -/
def execVxLaunch (k : Nat) (s : State) : Host.Outcome State Fault Refusal :=
  .next (runOp k 0x30 0 [(16, 24)] (fun c => body c 16 8 % 4 == 0 && decide (body c 32 8 ≠ 0)) (fun c s =>
    if c.prog.next = 0 then launchCmd c s else s) s)

/-! ### VX_FUSED_BWD -/

def fbKernel (c : Cmd) : Nat := body c 16 1
def fbIo (c : Cmd) : Nat := body c 17 1
def fbSaved (c : Cmd) : Nat := body c 18 1
def fbDyStream (c : Cmd) : Bool := bitOf (body c 19 1) 0
def fbDxStream (c : Cmd) : Bool := bitOf (body c 19 1) 1
def fbAccum (c : Cmd) : Bool := bitOf (body c 19 1) 2
def fbRecompute (c : Cmd) : Bool := bitOf (body c 19 1) 3
def fbOut (c : Cmd) : Nat := bits (body c 20 1) 3 0
def fbIn (c : Cmd) : Nat := bits (body c 20 1) 7 4
def fbRows (c : Cmd) : Nat := body c 24 4
def fbW (c : Cmd) : Nat := body c 28 4
/-- R163: Fw. -/
def fbFmt (c : Cmd) : Fmt := if fbIo c = 0 then fp64 else fp32
/-- Bytes of an Fw value. -/
def fbSize (c : Cmd) : Nat := (fbFmt c).w / 8

/-- R74, R164, R173: the ranges of the body. -/
def fbLegal (c : Cmd) : Bool :=
  decide (fbKernel c ≤ 2) && decide (fbIo c ≤ 3) && decide (fbSaved c ≤ 3) && decide (body c 19 1 < 16)
    && decide (1 ≤ fbRows c) && decide (1 ≤ fbW c) && decide (fbW c ≤ 65536) && decide (body c 104 8 ≠ 0)
    && (!fbDyStream c || (body c 32 8 == 0 && body c 88 4 == 0 && decide (fbW c * fbSize c ≤ 65536)))
    && (!fbDxStream c || (body c 40 8 == 0 && body c 92 4 == 0))
    && (decide (fbKernel c ≠ 2) || (body c 56 8 == 0 && body c 64 8 == 0))
    && (fbKernel c == 0 || body c 72 8 == 0)

/-- R164: a stream satisfies R156 for some core of the mask. -/
def fbPair (s : State) (c : Cmd) (p : Nat) : Bool :=
  ((maskCores (body c 104 8)).any fun i => i / 4 == p) && ownsPair s c.ctx c.basalt p

/-- Format of a float code of R129. -/
def ioFmt (x : Nat) : Fmt := (fmtOf x).getD fp64

/-- A run of values in a format, converted to Fw, with the events of each. -/
def toFw (f : Fmt) (rm : RM) (src : Nat) (bs : Bytes) (n : Nat) : List (Nat × Ev) :=
  (List.range n).map fun i => roundV f rm (rawValue src (rawElem src bs i))

/-- Codes combined element by element. -/
def zipCodes (f : Fmt) (rm : RM) (op : Fmt → RM → FV → FV → Nat × Ev) (xs ys : List Nat) : List (Nat × Ev) :=
  (xs.zip ys).map fun p => op f rm (decodeF f p.1) (decodeF f p.2)

/-- Where the events of a row count: its first element index, and the core that processes it. -/
structure FbRow where
  /-- Element index of the row's first element. -/
  base : Nat := 0
  /-- The core: which one is not stated (log entry 24). -/
  lane : Nat := 0
deriving DecidableEq, Repr

/-- Note the events of a run of results and take its codes. -/
def codesOf (r : FbRow) (role : Nat) (xs : List (Nat × Ev)) : EngM (List Nat) := do
  noteEvs 0 r.base role r.lane (xs.map (·.2))
  pure (xs.map (·.1))

/-- Note the events of one value of a row and take its code. They count at the row's first element (log entry 24). -/
def codeOf (r : FbRow) (role : Nat) (x : Nat × Ev) : EngM Nat := do
  noteEv 0 r.base role r.lane x.2
  pure x.1

/-- R163: dy of a row from the stream: none while the queue does not hold it whole. -/
def streamRow (c : Cmd) (need : Nat) : EngM (Option Bytes) := do
  let s ← getS
  let old := match findCmd s c.k with
    | some d => d.prog.inbuf
    | none => []
  let r := takeStream (streamKey s c.ctx c.basalt (fbOut c) 0) (need - old.length) s
  let all := old ++ r.1
  modS fun _ => modProg c.k (fun p => { p with inbuf := if all.length < need then all else [] }) r.2
  pure (if all.length < need then none else some all)

/-- R163: add the block sums to DGAMMA or DBETA. `first`: the block starts from +0 when ACCUM is 0. -/
def flushBlock (c : Cmd) (r : FbRow) (rm : RM) (first : Bool) (va : Nat) (sums : List Nat) : EngM Unit := do
  let f := fbFmt c
  let n := fbSize c
  let bs ← if first && !fbAccum c then pure [] else readV va (n * sums.length)
  let old := (List.range sums.length).map fun i => field bs (i * n) n
  let new ← codesOf r 3 (zipCodes f rm fAdd old sums)
  writeV va (new.flatMap (leBytes n))

/-- The sums kept for the block at work: of dy x xh and of dy. -/
def keptSums (s : State) (c : Cmd) : List Nat × List Nat :=
  match findCmd s c.k with
  | some d => (d.prog.rs.map (·.toNat), d.prog.cs.map (·.toNat))
  | none => ([], [])

/-- R163: parameter gradients after row m: sums over blocks of 64 rows. -/
def paramRow (c : Cmd) (r : FbRow) (rm : RM) (m : Nat) (dy xh : List Nat) : EngM Unit := do
  let f := fbFmt c
  let s ← getS
  let kept := keptSums s c
  let p ← codesOf r 3 (zipCodes f rm fMul dy xh)
  let gs ← if m % 64 = 0 then pure p else codesOf r 3 (zipCodes f rm fAdd kept.1 p)
  let bs ← if fbKernel c ≠ 0 then pure [] else if m % 64 = 0 then pure dy else codesOf r 3 (zipCodes f rm fAdd kept.2 dy)
  if m % 64 = 63 ∨ m + 1 = fbRows c then
    flushBlock c r rm (decide (m < 64)) (body c 64 8) gs
    if fbKernel c = 0 then flushBlock c r rm (decide (m < 64)) (body c 72 8) bs
  modS (modProg c.k fun q => { q with rs := gs.map (BitVec.ofNat 64), cs := bs.map (BitVec.ofNat 64) })

/-- R163: mean and scale of a row: from STATS when RECOMPUTE is 1; else rho is not stated, and depends on the row's operands (log
entry 25). -/
def rowStats (c : Cmd) (m : Nat) (sv dy : List Nat) : EngM (Nat × Nat) := do
  let n := fbSize c
  if fbRecompute c then
    let bs ← readV (body c 80 8 + m * 2 * n) (2 * n)
    pure (field bs 0 n, field bs n n)
  else pure (0, (Config.operandValue 0x31 (fbKernel c :: sv ++ dy)).toNat % 2 ^ (fbFmt c).w)

/-- R163: one row from dy: its dx in Fw. -/
def fbRowDx (c : Cmd) (r : FbRow) (rm : RM) (m : Nat) (dy : List Nat) : EngM (List Nat) := do
  let f := fbFmt c
  let w := fbW c
  let bs ← readV (body c 48 8 + m * body c 96 4) (runBytes (fbSaved c) w)
  let sv ← codesOf r 4 (toFw f rm (fbSaved c) bs w)
  if fbKernel c = 2 then
    let p ← codesOf r 3 (zipCodes f rm fMul dy sv)
    let t ← codeOf r 3 (treeTotal f rm p)
    let d ← codesOf r 3 (zipCodes f rm fSub dy (List.replicate w t))
    codesOf r 3 (zipCodes f rm fMul sv d)
  else
    let st ← rowStats c m sv dy
    let rho := List.replicate w st.2
    let cent ← if fbRecompute c then codesOf r 3 (zipCodes f rm fSub sv (List.replicate w st.1)) else pure []
    let xh ← if fbRecompute c then codesOf r 3 (zipCodes f rm fMul cent rho) else pure sv
    let gb ← readV (body c 56 8) (fbSize c * w)
    let gamma := (List.range w).map fun i => field gb (i * fbSize c) (fbSize c)
    let g ← codesOf r 3 (zipCodes f rm fMul dy gamma)
    let sg ← if fbKernel c = 0 then codeOf r 3 (treeTotal f rm g) else pure 0
    let a ← if fbKernel c = 0 then codeOf r 3 (fDiv f rm (decodeF f sg) (fvInt w)) else pure 0
    let gx ← codesOf r 3 (zipCodes f rm fMul g xh)
    let sb ← codeOf r 3 (treeTotal f rm gx)
    let b ← codeOf r 3 (fDiv f rm (decodeF f sb) (fvInt w))
    let t1 ← codesOf r 3 (zipCodes f rm fSub g (List.replicate w a))
    let t2 ← codesOf r 3 (zipCodes f rm fMul xh (List.replicate w b))
    let t3 ← codesOf r 3 (zipCodes f rm fSub t1 t2)
    let dx ← codesOf r 3 (zipCodes f rm fMul rho t3)
    unlessTrapped (paramRow c r rm m dy xh)
    pure dx

/-- R163: one row; false while it waits for its dy or for room for its dx. -/
def fbRow (c : Cmd) (m : Nat) : EngM Bool := do
  let went ← if fbDxStream c then flushTo c (fbIn c) 1 else pure true
  let s ← getS
  let full := fbDxStream c && decide (streamCap s c.basalt (fbIn c)
    ≤ (Tbl.get [] s.streams (streamKey s c.ctx c.basalt (fbIn c) 1)).length)
  if !went || full then pure false else
  let need := runBytes (fbIo c) (fbW c)
  let dyb ← if fbDyStream c then streamRow c need else do
    let bs ← readV (body c 32 8 + m * body c 88 4) need
    pure (some bs)
  match dyb with
  | none => pure false
  | some dyb => do
    let mode ← getMode
    let rm := modeRm mode
    let cs := maskCores (body c 104 8)
    let i ← freeBelow cs.length
    let r : FbRow := { base := m * fbW c, lane := cs.getD i 0 }
    let dy ← codesOf r 4 (toFw (fbFmt c) rm (fbIo c) dyb (fbW c))
    let dx ← fbRowDx c r rm m dy
    let out := dx.map fun x => roundV (ioFmt (fbIo c)) rm (decodeF (fbFmt c) x)
    let os ← codesOf r 4 out
    let bs := os.flatMap (leBytes ((ioFmt (fbIo c)).w / 8))
    unlessTrapped (if fbDxStream c then do
        modS (modProg c.k fun p => { p with outbuf := p.outbuf ++ bs })
        let _ ← flushTo c (fbIn c) 1
      else writeV (body c 40 8 + m * body c 92 4) bs)
    modS (modProg c.k fun p => { p with next := m + 1 })
    pure true

/-- R163: rows from m on, at most n of them, until the kernel waits or traps. -/
def fbRows' (c : Cmd) : Nat → Nat → EngM Unit
  | _, 0 => pure ()
  | m, n + 1 => do
    let e ← get
    match e.trap with
    | some _ => pure ()
    | none =>
      let go ← fbRow c m
      if go then fbRows' c (m + 1) n else pure ()

/-- R163, R164: at most n further rows; RESULT holds ROWS. -/
def fbWork (c : Cmd) (n : Nat) : EngM (Option (Option W64 × Option Nat)) := do
  fbRows' c c.prog.next (min n (fbRows c - c.prog.next))
  let went ← if fbDxStream c then flushTo c (fbIn c) 1 else pure true
  let s ← getS
  let next := match findCmd s c.k with
    | some d => d.prog.next
    | none => 0
  pure (if fbRows c ≤ next ∧ went = true then some (some (BitVec.ofNat 64 (fbRows c)), none) else none)

/-- VX_FUSED_BWD (R163, R164, R173). -/
def execVxFusedBwd (k : Nat) (s : State) : Host.Outcome State Fault Refusal :=
  .next (runOp k 0x31 1 [(16, 5), (24, 76), (104, 8)] fbLegal (fun c s =>
    if fbDyStream c && !fbPair s c (fbOut c) then faultCmd k stTranslation (pairInfo (fbOut c)) s
    else if fbDxStream c && !fbPair s c (fbIn c) then faultCmd k stTranslation (pairInfo (fbIn c)) s
    else
      let t := runPart c false (fbWork c (workBudget s k (fbRows c))) { s with free := s.free + 1 }
      if (findCmd t k).map (·.st) = some .started then t else progress k t) s)

end Sys2Proof.Machine
end

