-- ==== Sys2Proof/Machine/Lowrank.lean ====
section
/-!
DEFINITION. RED_LOWRANK (R270-R272, R279): its array steps on the tiles, its vector steps, and its two reductions.
-/
namespace Sys2Proof.Machine

def lrRank (c : Cmd) : Nat := body c 18 1
def lrAfmt (c : Cmd) : Nat := body c 19 1
def lrTile (c : Cmd) : Nat := body c 24 2
def lrN (c : Cmd) : Nat := body c 32 4
def lrK (c : Cmd) : Nat := body c 36 4
def lrG (c : Cmd) : Nat := body c 40 8
def lrE (c : Cmd) : Nat := body c 48 8
def lrP (c : Cmd) : Nat := body c 56 8
def lrQ (c : Cmd) : Nat := body c 64 8
def lrOut (c : Cmd) : Nat := body c 72 8
def lrWork (c : Cmd) : Nat := body c 104 8
/-- Tiles that G' takes (R108). -/
def lrTiles (c : Cmd) : Nat := tileRowsOf (lrK c) * tileColsOf (lrAfmt c) (lrN c)

/-- R279: the fields. -/
def lrLegal (c : Cmd) : Bool :=
  decide (1 ≤ lrRank c) && decide (lrRank c ≤ 64) && (lrAfmt c == 1 || lrAfmt c == 3) && decide (body c 20 1 < 4)
    && decide (body c 21 1 < 8) && decide (1 ≤ lrN c) && decide (1 ≤ lrK c) && decide (lrK c ≤ 262144)
    && (lrSmall c || (decide (lrTile c + lrTiles c ≤ 512) && body c 112 8 != 0))

/-- The command with other fields in its body: (offset, length, value). -/
def withBody (c : Cmd) (fs : List (Nat × Nat × Nat)) : Cmd :=
  { c with blocks := fs.foldl (fun b f => b.take f.1 ++ leBytes f.2.1 f.2.2 ++ b.drop (f.1 + f.2.1)) (List.replicate 128 0) }

/-- Step 2: the load of G' as MA_LOAD's body says it (R130). -/
def lrLoad (c : Cmd) : Cmd :=
  withBody c [(0, 1, 0x20), (16, 2, lrTile c), (18, 1, lrAfmt c), (20, 4, lrK c), (24, 4, lrN c), (32, 8, lrG c), (40, 4, 4 * lrK c)]

/-- Steps 2 and 5: a product as the body of MA_RUN or MA_RUN_T says it (R132): ACC32, output FP32 at `dst`, rows of n. -/
def lrRun (c : Cmd) (dst n : Nat) : Cmd :=
  withBody c [(0, 1, 0x22), (16, 2, lrTile c), (18, 1, lrAfmt c), (19, 1, 1), (48, 4, 4 * n), (56, 8, dst)]

/-- n FP32 codes at an address. -/
def read32 (va n : Nat) : EngM (List Nat) := do
  let bs ← readV va (4 * n)
  pure ((chunks 4 bs).map leNat)

/-- Write FP32 codes. -/
def write32 (va : Nat) (xs : List Nat) : EngM Unit := writeV va (xs.flatMap (leBytes 4))

/-- One FP32 operation of a vector step, its events at an element. -/
def lrOp (el : Nat) (r : Nat × Ev) : EngM Nat := do
  noteEv 0 el (if r.2.nanRead then 1 else 3) 0xFFFF r.2
  pure r.1

/-- An FP32 code as a value. -/
def v32 (x : Nat) : FV := decodeF fp32 x

/-- An element-wise operation on two vectors whose first element has index el. -/
def lrZip (f : FV → FV → Nat × Ev) : Nat → List Nat → List Nat → EngM (List Nat)
  | el, x :: xs, y :: ys => do
    let a ← lrOp el (f (v32 x) (v32 y))
    let as ← lrZip f (el + 1) xs ys
    pure (a :: as)
  | _, _, _ => pure []

/-- Step 1: G' = G + E, written over G, one row at a time. -/
def lrAdd (c : Cmd) (rm : RM) (n : Nat) : EngM Unit := do
  let k := lrK c
  let g ← read32 (lrG c + 4 * k * n) k
  let e ← read32 (lrE c + 4 * k * n) k
  let x ← lrZip (fAdd fp32 rm) (k * n) g e
  write32 (lrG c + 4 * k * n) x

/-- Codes of FP32 values converted to AFMT under R85. -/
def lrConv (c : Cmd) : Nat → List Nat → EngM (List Nat)
  | _, [] => pure []
  | el, x :: xs => do
    let a ← if lrAfmt c = 1 then pure x else lrOp el (convElem (lrAfmt c) .ne (v32 x))
    let as ← lrConv c (el + 1) xs
    pure (a :: as)

/-- Step 2: column n of a tile of the weight source, from row r of the matrix on: row n of G' in AFMT, aligned (R90, R109). -/
def lrColumn (c : Cmd) (keep : Bool) (tile r n : Nat) : EngM BankCol := do
  let k := lrK c
  let g ← read32 (lrG c + 4 * (k * n + r)) (min 512 (k - r))
  let a ← lrConv c (k * n + r) g
  let w := alignColumn (lrAfmt c) (a.map fun x => maElem (lrAfmt c) x 0)
  noteEvsAt 0 (n * k + r) 0 (fun _ => tile) w.2
  pure { cells := w.1.cells, tw := w.1.tw, nan := w.1.nan, src := if keep then a.map fun x => (x, 0) else [] }

/-- Columns n, n + 1, … of a tile (the first argument counts them). -/
def lrColumns (c : Cmd) (keep : Bool) (tile r : Nat) : Nat → Nat → EngM (List BankCol)
  | 0, _ => pure []
  | m + 1, n => do
    let w ← lrColumn c keep tile r n
    let ws ← lrColumns c keep tile r m (n + 1)
    pure (w :: ws)

/-- Step 2: tile i of the layout is loaded (R108). -/
def lrTileLoad (c : Cmd) (strict keep : Bool) (i : Nat) : EngM Unit := do
  let tc := tileColsOf (lrAfmt c) (lrN c)
  let w := tileCols (lrAfmt c)
  let n0 := i % tc * w
  let cols ← if strict then pure [] else lrColumns c keep (lrTile c + i) (512 * (i / tc)) (min w (lrN c - n0)) n0
  modS (modLoaded (lrLoad c) (lrTile c + i) fun _ => { bankOf (lrLoad c) strict cols with st := .valid })

/-- Step 2: G' becomes resident in the banks that the next runs use. -/
def lrResident (c : Cmd) : EngM Unit := do
  let mode ← getMode
  (List.range (lrTiles c)).forM (lrTileLoad c (ldStrict mode (lrLoad c)) (mode.getLsbD 2))
  modS fun s => (List.range (lrTiles c)).foldl (fun s i => swapTile c.basalt (lrTile c + i) s) s

/-- One product vector on the resident G': the input is column m of P or Q, `len` elements at `src`. -/
def lrVector (c r : Cmd) (kind : RunKind) (src len m : Nat) : EngM Unit := do
  let x ← read32 (src + 4 * len * m) len
  let a ← lrConv c (len * m) x
  let xs := a.map fun x => maElem (lrAfmt c) x 0
  let s ← getS
  let b := activeBankOf s r (lrTile c)
  if strictRun s r then strictVector kind r b m xs
  else match kind with
    | .forward => forwardVector r b m xs
    | .transposed => transposedVector r b m xs
    | .elementwise => pure ()

/-- Steps 2 and 5: the vectors of a run from the next one on, at most n of them, each pass with its issue credit (R125). Answers whether
all of them are done. -/
def lrPasses (c r : Cmd) (kind : RunKind) (src len : Nat) : Nat → EngM Bool
  | 0 => pure true
  | n + 1 => do
    let p ← progNow c
    let s ← getS
    let e ← get
    if lrRank c ≤ p.next ∨ e.trap.isSome = true then pure true
    else if passesNow s r (vectorPasses s kind r) < vectorPasses s kind r then pure false
    else do
      modS fun s => (runClusters s r).foldl (fun s i => takeCredit c.basalt i (vectorPasses s kind r * passCycles r) s) s
      lrVector c r kind src len p.next
      modS (modProg c.k fun p => { p with next := p.next + 1 })
      lrPasses c r kind src len n

/-- The command's steps have come to a point: its segment (R270), with the vectors of a run counted from 0. -/
def lrAt (c : Cmd) (n : Nat) : EngM Unit := modS (modProg c.k fun p => { p with segment := n, next := 0 })

/-- Step 4: dot of two columns: products, and the tree sum of R152. -/
def lrDot (el : Nat) (rm : RM) (xs ys : List Nat) : EngM Nat := do
  let ps ← lrZip (fMul fp32 rm) el xs ys
  lrOp el (treeTotal fp32 rm ps)

/-- Step 4: take the earlier columns out of a column. -/
def lrOrth (el : Nat) (rm : RM) : List (List Nat) → List Nat → EngM (List Nat)
  | [], p => pure p
  | q :: qs, p => do
    let d ← lrDot el rm q p
    let t ← lrZip (fMul fp32 rm) el (List.replicate q.length d) q
    let p ← lrZip (fSub fp32 rm) el p t
    lrOrth el rm qs p

/-- Step 4: a column divided by its length, or zeros. -/
def lrUnit (el : Nat) (rm : RM) (p : List Nat) : EngM (List Nat) := do
  let nn ← lrDot el rm p p
  if fvIsZero (v32 nn) then pure (p.map fun _ => 0)
  else
    let l ← lrOp el (fSqrt fp32 rm (v32 nn))
    lrZip (fDiv fp32 rm) el p (List.replicate p.length l)

/-- Step 4: the columns in order; `done` holds the earlier ones. -/
def lrSchmidt (n : Nat) (rm : RM) : List (List Nat) → List (List Nat) → EngM (List (List Nat))
  | done, [] => pure done
  | done, p :: ps => do
    let el := n * done.length
    let a ← lrOrth el rm done p
    let u ← lrUnit el rm a
    lrSchmidt n rm (done ++ [u]) ps

/-- Step 7: fused multiply-adds over j ascending, from an initial value. -/
def lrFma (el : Nat) (rm : RM) (neg : Bool) : List (Nat × Nat) → Nat → EngM Nat
  | [], acc => pure acc
  | t :: ts, acc => do
    let x := if neg then fvNegate (v32 t.1) else v32 t.1
    let a ← lrOp el (fFma fp32 rm x (v32 t.2) (v32 acc))
    lrFma el rm neg ts a

/-- Step 7: one row of E or OUT. -/
def lrRow (el : Nat) (rm : RM) (neg : Bool) (p : List Nat) : List (Nat × List Nat) → EngM (List Nat)
  | [] => pure []
  | x :: xs => do
    let a ← lrFma el rm neg (p.zip x.2) x.1
    let as ← lrRow (el + 1) rm neg p xs
    pure (a :: as)

/-- Step 7: row n of E and of OUT. `ps`, `ql` and `q` hold r columns each. -/
def lrFinal (c : Cmd) (rm : RM) (ps ql q : List (List Nat)) (n : Nat) : EngM Unit := do
  let k := lrK c
  let g ← read32 (lrG c + 4 * k * n) k
  let p := ps.map fun col => col.getD n 0
  let at' := fun (m : List (List Nat)) (i : Nat) => m.map fun col => col.getD i 0
  let e ← lrRow (k * n) rm true p (((List.range k).zip g).map fun x => (x.2, at' ql x.1))
  let o ← lrRow (k * n) rm false p ((List.range k).map fun i => (0, at' q i))
  write32 (lrE c + 4 * k * n) e
  write32 (lrOut c + 4 * k * n) o

/-- Read r columns of n FP32 values. -/
def lrCols (va n r : Nat) : EngM (List (List Nat)) := do
  let xs ← read32 va (n * r)
  pure (chunks n xs)

/-- The single reduction of R272. -/
def lrSingle (c : Cmd) : EngM (Option (Option W64 × Option Nat)) := do
  let gr ← joinGroup c 2
  redSend c gr.1 gr.2
  redDone c

/-- Step 1, and the load of step 2. -/
def lrFirst (c : Cmd) : EngM (Option (Option W64 × Option Nat)) := do
  let mode ← getMode
  let _ ← joinGroup c 2
  (List.range (lrN c)).forM (lrAdd c (modeRm mode))
  lrResident c
  lrAt c 1
  pure none

/-- The passes of step 2, and step 3. -/
def lrForward (c : Cmd) (g : Group) : EngM (Option (Option W64 × Option Nat)) := do
  let done ← lrPasses c (lrRun c (lrP c) (lrN c)) .forward (lrQ c) (lrK c) (lrRank c)
  if done then do
    lrAt c 2
    let p ← progNow c
    redSend c g p.coll.rank
  pure none

/-- Step 4. -/
def lrSecond (c : Cmd) : EngM (Option (Option W64 × Option Nat)) := do
  let mode ← getMode
  let ps ← lrCols (lrP c) (lrN c) (lrRank c)
  let us ← lrSchmidt (lrN c) (modeRm mode) [] ps
  write32 (lrP c) (us.flatMap id)
  lrAt c 3
  pure none

/-- Step 5, and the start of step 6. -/
def lrBackward (c : Cmd) (g : Group) : EngM (Option (Option W64 × Option Nat)) := do
  let done ← lrPasses c (lrRun c (lrWork c) (lrK c)) .transposed (lrP c) (lrN c) (lrRank c)
  if done then do
    lrAt c 4
    modColl c fun q => { q with stage := 1, delivered := [] }
    let p ← progNow c
    redSend c g p.coll.rank
  pure none

/-- The end of step 6, and step 7. -/
def lrThird (c : Cmd) : EngM (Option (Option W64 × Option Nat)) := do
  let mode ← getMode
  let p ← progNow c
  let q := (List.range (lrK c * lrRank c)).map fun i => (Tbl.find? p.coll.values (heldKey i)).getD 0
  write32 (lrQ c) q
  let ps ← lrCols (lrP c) (lrN c) (lrRank c)
  let ql ← lrCols (lrWork c) (lrK c) (lrRank c)
  (List.range (lrN c)).forM (lrFinal c (modeRm mode) ps ql (chunks (lrK c) q))
  let r ← redFinish c
  pure (some r)

/-- R270: the next step of a RED_LOWRANK, once the blocks that it waits for have been delivered. -/
def lrNext (c : Cmd) (g : Group) : EngM (Option (Option W64 × Option Nat)) := do
  let p ← progNow c
  if lrSmall c then (if p.coll.sent then pure none else lrSingle c)
  else if p.segment = 1 then lrForward c g
  else if p.segment = 3 then lrBackward c g
  else if !p.coll.sent then lrFirst c
  else if p.coll.delivered.length < (redOf c p.coll.stage).blocks then pure none
  else if p.coll.stage = 0 then lrSecond c
  else lrThird c

/-- One step of a RED_LOWRANK (R251, R106). Its steps on tiles and cores begin when these are free for it at its priority. -/
def lrStep (k : Nat) (s : State) : State :=
  match findCmd s k with
  | none => s
  | some c =>
    if c.st ≠ .started then s
    else
      match ownRank s c with
      | none => faultCmd k stTranslation (groupInfo (body c 16 2)) s
      | some gr =>
        let bad := if lrSmall c then none else
          ((List.range (lrTiles c)).map (· + lrTile c)).find? fun t => !grantedTile s c.ctx c.basalt t
        match bad with
        | some t => faultCmd k stTranslation (tileInfo t) s
        | none =>
          let go := if lrSmall c then !c.prog.coll.sent else lrRunning c || (lrDue c && lrFree s c)
          if go then runWatched c false (lrNext c gr.1) s else s

/-- RED_LOWRANK (R270-R272, R279): the steps that can be taken now. -/
def execRedLowrank (k : Nat) (s : State) : Host.Outcome State Fault Refusal :=
  .next (runOp k 0x61 1 [(16, 7), (24, 6), (32, 92)] lrLegal (fun c s => repeatWork (lrStep c.k) 5 s) s)

end Sys2Proof.Machine
end

