-- ==== Sys2Proof/Machine/Mctp.lean ====
section
/-!
DEFINITION. The MCTP control messages that the endpoint answers (R360). Their layouts are those of DMTF DSP0236, which the spec names:
message type 0x00, then the request bit and the sender's tag, then the command code (log entry 32).
-/
namespace Sys2Proof.Machine

/-- DSP0236: a control request with a command code and at least n bytes of data. -/
def mctpIs (code n : Nat) (msg : Bytes) : Bool :=
  decide (3 + n ≤ msg.length) && field msg 0 1 % 128 == 0 && bitOf (field msg 1 1) 7 && field msg 2 1 == code

/-- DSP0236: the endpoint answers with a completion code and data; without the auxiliary supply it does not. -/
def mctpAnswer (msg : Bytes) (data : Bytes) (s : State) : State :=
  if s.sup.aux then
    { s with mctp := { s.mctp with out := s.mctp.out ++ [[0] ++ leBytes 1 (field msg 1 1 % 32) ++ leBytes 1 (field msg 2 1) ++ data] } }
  else s

/-- SET_ENDPOINT_ID (R360): operations 0 and 1 set the endpoint ID; another operation is refused with ERROR_INVALID_DATA, as is the null
or the broadcast ID. -/
def execSetEndpointId (msg : Bytes) (s : State) : Host.Outcome State Fault Refusal :=
  .next (if !mctpIs 1 2 msg then s
    else
      let op := field msg 3 1 % 4
      let e := field msg 4 1
      if 1 < op ∨ e = 0 ∨ e = 255 then mctpAnswer msg [2] s
      else mctpAnswer msg ([0, 0] ++ leBytes 1 e ++ [0]) (if s.sup.aux then { s with mctp := { s.mctp with eid := BitVec.ofNat 8 e } } else s))

/-- GET_ENDPOINT_ID (R360): a simple endpoint with a dynamic ID. -/
def execGetEndpointId (msg : Bytes) (s : State) : Host.Outcome State Fault Refusal :=
  .next (if !mctpIs 2 0 msg then s else mctpAnswer msg ([0] ++ [s.mctp.eid] ++ [0, 0]) s)

/-- GET_MCTP_VERSION_SUPPORT (R360): for the base specification, control messages and type 0x7E; another type is refused with 0x80. -/
def execGetMctpVersionSupport (msg : Bytes) (s : State) : Host.Outcome State Fault Refusal :=
  .next (if !mctpIs 4 1 msg then s
    else
      let t := field msg 3 1
      if t = 0xFF ∨ t = 0x00 ∨ t = 0x7E then
        let vs := Config.mctpVersions t
        mctpAnswer msg ([0] ++ leBytes 1 (vs.length / 4) ++ vs) s
      else mctpAnswer msg [0x80] s)

/-- GET_MESSAGE_TYPE_SUPPORT (R360): type 0x7E, and no other. -/
def execGetMessageTypeSupport (msg : Bytes) (s : State) : Host.Outcome State Fault Refusal :=
  .next (if !mctpIs 5 0 msg then s else mctpAnswer msg [0, 1, 0x7E] s)

/-- GET_VENDOR_DEFINED_MESSAGE_SUPPORT (R360): one set, the PCI vendor ID of the configuration space. -/
def execGetVendorDefinedMessageSupport (msg : Bytes) (s : State) : Host.Outcome State Fault Refusal :=
  .next (if !mctpIs 6 1 msg then s
    else if field msg 3 1 ≠ 0 then mctpAnswer msg [2] s
    else mctpAnswer msg ([0, 0xFF, 0] ++ (leBytes 2 Config.vendorId.toNat).reverse ++ (leBytes 2 Config.mctpVendorVersion.toNat).reverse) s)

end Sys2Proof.Machine
end

