-- ==== Sys2Proof/Machine/Supply.lean ====
section
/-!
DEFINITION. Supplies and start-up (R5, R340, R341, R354, R357, R375, R377, R415-R418, R421, R422), critical temperature (R375) and
the retraining of memory channels (R358).
-/
namespace Sys2Proof.Machine

/-! ### What outlives the 40 V input (R407, R416, R417) -/

/-- R407, R416, R417: the state that the auxiliary supply, flash and the outside keep: the queue of commands and the outputs, flash, the
sideband state, the log, MCTP, the RTC and its alarm. Everything else is as it is without the 40 V input. -/
def keptDark (s : State) : State :=
  { pending := s.pending
    free := s.free
    mem := []
    tb := { nowU := s.tb.nowU }
    sup := { s.sup with in40 := false, frameOut := .hiZ }
    id := s.id
    mb := .booting
    fns := [(0, freshFn 0)]
    msix := s.msix
    bus := s.bus
    pow := { rtcAlarm := s.pow.rtcAlarm, sample := { auxMw := s.pow.sample.auxMw } }
    fab := { outbox := s.fab.outbox }
    log := { next := s.log.next, ring := s.log.ring }
    mctp := { s.mctp with held := [] } }

/-! ### The supplies (R416-R418, R421) -/

/-- AUX_SUPPLY_VALID (R381, R407, R416, R418): applied after the 40 V input it is undefined (R377). -/
def execAuxSupplyValid (straps : BitVec 3) (s : State) : Host.Outcome State Fault Refusal :=
  if s.sup.aux then .next s
  else if s.sup.v40 then .fault .undefinedSupply
  else .next { s with
    tb := { s.tb with nowU := 0 }
    sup := { s.sup with
      aux := true, straps := straps, in40AtAux := false, offU := s.sup.offU.map fun _ => 0, wakeLow := false, tripLow := false,
      critOff := false }
    log := { next := 0, ring := [] }
    mctp := {}
    pow := { s.pow with rtcAlarm := none } }

/-- AUX_SUPPLY_REMOVAL (R407, R416): removed before the 40 V input it is undefined (R377). -/
def execAuxSupplyRemoval (s : State) : Host.Outcome State Fault Refusal :=
  if !s.sup.aux then .next s
  else if s.sup.v40 then .fault .undefinedSupply
  else .next { s with
    sup := { s.sup with aux := false, wakeLow := false, tripLow := false }
    log := { next := 0, ring := [] }
    mctp := {}
    pow := { s.pow with rtcAlarm := none } }

/-- SUPPLY_REMOVAL (R417). -/
def execSupplyRemoval (s : State) : Host.Outcome State Fault Refusal :=
  .next (if s.sup.v40 then
      let s := keptDark s
      { s with sup := { s.sup with v40 := false, offU := some s.tb.nowU } }
    else s)

/-! ### Start-up (R340, R341, R354, R357) -/

/-- R341, R354, R357: the slot that starts: the TRIAL slot that AT_RESTART named, else the active one; when its image fails
verification the other one, with the failure logged. -/
def bootSlot (goodA goodB : Bool) (s : State) : State :=
  let good := fun (b : Bool) => if b then goodB else goodA
  let mark := fun (b : Bool) (s : State) =>
    { s with id := if b then { s.id with slotB := { s.id.slotB with st := .invalid } }
                   else { s.id with slotA := { s.id.slotA with st := .invalid } } }
  let first := if s.id.trialNext then !s.id.activeB else s.id.activeB
  let trial := s.id.trial || s.id.trialNext
  let s := { s with id := { s.id with activeB := first, trial := trial, trialNext := false } }
  if good first then s
  else
    let s := logImage first (b2n trial) (mark first s)
    let s := { s with id := { s.id with activeB := !first, trial := false } }
    if good (!first) then s else logImage (!first) 0 (mark (!first) s)

/-- R302, R304: at start-up up to four channels of a stack are out; the channels whose live map-out was refused join them. -/
def applyOuts (i : Ident) : Ident :=
  { i with
    outChans := (List.range 8).map fun k =>
      ((i.outChans.getD k []) ++ ((i.outNext.filter fun p => p.1 == k).map (·.2)).filter fun c => !(i.outChans.getD k []).contains c).take 4
    outNext := [] }

/-- R284, R304: IL at start-up, in GiB: 64 on the FJ8-640 and 40 on the FJ8-384, or the largest number at which the reserve of every stack
lies below its capacity, where that is less. -/
def startIl (i : Ident) : Ident :=
  { i with ilGib := (List.range 8).foldl (fun n k => min n ((stackCap i k - stackReserve k) / 0x40000000)) (if i.v384 then 40 else 64) }

/-- R415, R417: the wait before the input may be applied again. -/
def offLongEnough (s : State) : Bool :=
  match s.sup.offU with
  | none => true
  | some t => s.since t (if s.sup.critOff then secU else 100 * msU)

/-- START_UP (R340, R341, R416, R417, R421): the 40 V input becomes valid. Without the auxiliary supply, or too early, it is undefined
(R377, R417). -/
def execStartUp (goodA goodB calOk : Bool) (s : State) : Host.Outcome State Fault Refusal :=
  if s.sup.v40 then .next s
  else if !s.sup.aux || !offLongEnough s then .fault .undefinedSupply
  else
    let s := keptDark s
    let s := { s with
      id := startIl (applyOuts s.id)
      sup := { s.sup with
        in40 := true, v40 := true, offU := none, wakeLow := false, tripLow := false, critOff := false, frameOut := .low,
        bothU := s.tb.nowU, slowCal := !calOk, in40AtAux := decide (s.tb.nowU = 0) } }
    .next (bootSlot goodA goodB s)

/-- R309, R329: the torus ports in use: both of every dimension larger than 1. -/
def torusPorts (i : Ident) : List Nat := (List.range 6).filter fun p => decide (1 < dimSize i (p / 2))

/-- The active image is valid (R341). -/
def activeValid (s : State) : Bool := decide ((if s.id.activeB then s.id.slotB else s.id.slotA).st = .valid)

/-- START_UP_MAILBOX (R340, R341): at 900 ms the mailbox answers; calibration begins and torus links train. Without a valid image STATE
becomes FAILED. -/
def execStartUpMailbox (s : State) : Host.Outcome State Fault Refusal :=
  .next (if s.mb = .booting ∧ s.sup.in40 = true ∧ s.since s.sup.bothU (900 * msU) = true then
      if !activeValid s then { s with mb := .failed }
      else
        let s := logEntry 0x0001 0 (leBytes 4 (fwVersion s).toNat ++ leBytes 1 (b2n s.sup.in40AtAux)) { s with mb := .calibrating }
        (torusPorts s.id).foldl (fun s p => setLink p .training id s) s
    else s)

/-- START_UP_FULL_OPERATION (R340, R341, R404): at 1.5 s, or at 8 s when every channel retrained, the frame counter starts from 0 and
STATE is READY. Firmware has zeroed the dump directory and set NEWEST to 0xFF. -/
def execStartUpFullOperation (s : State) : Host.Outcome State Fault Refusal :=
  .next (if s.mb = .calibrating ∧ s.since s.sup.bothU (if s.sup.slowCal then 8 * secU else 1500 * msU) = true then
      let chans := (List.range 8).flatMap fun k => (s.id.outChans.getD k []).map fun c => k * 32 + c
      { s with
        mb := .ready
        mem := memWrite s.mem (dumpBase s.id + 8) 0xFF
        tb := { nowU := s.tb.nowU }
        pow := { s.pow with chans := chans.foldl (fun t i => Tbl.put .normal t i .out) s.pow.chans } }
    else s)

/-! ### Critical temperature (R375, R422) -/

/-- CRITICAL_TEMP (R375, R407, R408, R422): the comparator stops every converter but the auxiliary one, logs and drives THERMTRIP_N. -/
def execCriticalTemp (die : Nat) (temp : BitVec 16) (s : State) : Host.Outcome State Fault Refusal :=
  .next (if s.sup.in40 = true ∧ die < 20 ∧ criticalAt die ≤ temp.toInt then
      let s := keptDark (logEntry 0x0008 0 (leBytes 1 die ++ [0] ++ leBytes 2 temp.toNat) s)
      { s with sup := { s.sup with critOff := true, tripLow := true } }
    else s)

/-- THERMTRIP_RELEASE (R375, R422): the input has been absent for at least 1 s. -/
def execThermtripRelease (s : State) : Host.Outcome State Fault Refusal :=
  .next (match s.sup.offU with
    | some t => if s.sup.critOff = true ∧ s.sup.v40 = false ∧ s.since t secU = true then
        { s with sup := { s.sup with critOff := false, tripLow := false } }
      else s
    | none => s)

/-! ### Memory calibration (R358) -/

/-- R358: a channel is due: its stack has moved 8 degrees C since its last training, or 10 minutes have passed. A channel not trained
since start-up was trained then, at 25 degrees C. -/
def retrainDue (s : State) (i : Nat) (deciC : Int) : Bool :=
  let at' := Tbl.get 250 s.pow.trainedAt i
  decide (80 ≤ (deciC - at').natAbs) || s.since (Tbl.get s.sup.bothU s.pow.trainedU i) (600 * secU)

/-- CHANNEL_RETRAIN (R303, R358): firmware then decides whether to map the channel out. -/
def execChannelRetrain (stack chan : Nat) (deciC : Int) (good : Bool) (s : State) : Host.Outcome State Fault Refusal :=
  .next (
    let i := stack * 32 + chan
    if stack < 8 ∧ chan < 32 ∧ tbRuns s = true ∧ Tbl.get .normal s.pow.chans i ≠ .out ∧ retrainDue s i deciC = true then
      decideMapout stack chan (retrainChan stack chan deciC good s)
    else s)

end Sys2Proof.Machine
end

