-- ==== Sys2Proof/Machine/PowerStates.lean ====
section
/-!
DEFINITION. Power states and wake (R378-R383).
-/
namespace Sys2Proof.Machine

/-- R378: the time in the present state, or idle in ACTIVE, has lasted. -/
def idleFor (s : State) (d : Nat) : Bool :=
  match s.pow.idleU with
  | some t => s.since t d
  | none => false

/-- R378, R379: a lower power state may be entered: the module runs, is idle, and no wake is pending. -/
def mayRest (s : State) : Bool :=
  decide (s.mb = .ready) && decide (s.rst.stage = .none) && s.sup.in40 && !s.pow.wake && idleNow s

/-- R365, R378: the module takes a power state, with f = 0 on every Basalt. -/
def enterState (p : PowerState) (s : State) : State :=
  let s := setF (List.replicate 8 0) s
  { s with pow := { s.pow with pst := p, idleU := some s.tb.nowU } }

/-- ENTER_IDLE (R378, R379): 2 ms idle in ACTIVE. -/
def execEnterIdle (s : State) : Host.Outcome State Fault Refusal :=
  .next (if s.pow.pst = .active ∧ mayRest s = true ∧ idleFor s (2 * msU) = true then enterState .idle s else s)

/-- R379: a queue is blocked on a wait. -/
def anyBlocked (s : State) : Bool := s.queues.any fun q => queueState s q.1 q.2 == 2

/-- R379: a host context maps a page in the Mica scratchpad. -/
def mapsMica (s : State) : Bool :=
  s.ctxs.any fun c => decide (c.1 ≠ 0) && c.2.maps.any fun m => !m.remote && decide (micaBase ≤ m.target) && decide (m.target < micaBase + 0x20000000)

/-- ENTER_DOZE (R378, R379, R380): 500 ms in IDLE. The Mica cache is empty from here on. -/
def execEnterDoze (s : State) : Host.Outcome State Fault Refusal :=
  .next (if s.pow.pst = .idle ∧ mayRest s = true ∧ idleFor s (500 * msU) = true ∧ anyBlocked s = false ∧ mapsMica s = false then
      enterState .doze { s with pref := s.pref.filter fun l => !l.mica }
    else s)

/-- R379: a context maps a page with REMOTE_RO or REMOTE_RW. -/
def anyShared (s : State) : Bool := s.ctxs.any fun c => c.2.maps.any fun m => m.access != 0

/-- ENTER_SLEEP (R378, R379): 60 s in DOZE. The memory-side caches are written back, which discards their counts (R291), and gated. -/
def execEnterSleep (s : State) : Host.Outcome State Fault Refusal :=
  .next (if s.pow.pst = .doze ∧ mayRest s = true ∧ idleFor s (60 * secU) = true ∧ anyShared s = false then
      enterState .sleep { s with lines := [], pref := [] }
    else s)

/-! ### Wake (R380, R381) -/

/-- RTC_ALARM (R381, R421): without the 40 V input it only drives WAKE_N. -/
def execRtcAlarm (s : State) : Host.Outcome State Fault Refusal :=
  .next (match s.pow.rtcAlarm with
    | none => s
    | some t =>
      if t ≤ s.rtcUs ∧ s.sup.aux = true then
        let s := { s with pow := { s.pow with rtcAlarm := none } }
        if s.sup.in40 then wakeUp s else { s with sup := { s.sup with wakeLow := !s.sup.v40 } }
      else s)

/-- R378, R381: the exit time of the current state. -/
def exitU (p : PowerState) : Nat :=
  match p with
  | .active => 0
  | .idle => usU
  | .doze => 3 * msU
  | .sleep => 3050 * usU

/-- FRAME_WAKE (R381): early by the exit time, rounded up to whole ph. -/
def execFrameWake (s : State) : Host.Outcome State Fault Refusal :=
  .next (match s.pow.frameAlarm with
    | none => s
    | some t =>
      if t.toNat ≤ s.ftw.toNat + ceilDiv (exitU s.pow.pst) (max 1 s.tb.period.toNat) ∧ (s.reached t = false ∨ mayAct s t.toNat = true) then
        wakeUp { s with pow := { s.pow with frameAlarm := none } }
      else s)

/-- EXIT_TO_ACTIVE (R378, R380): the timers restart, and the held adds are applied in order. -/
def execExitToActive (s : State) : Host.Outcome State Fault Refusal :=
  .next (if s.pow.pst ≠ .active ∧ s.pow.wake = true then
      let held := s.pow.heldAdds
      held.foldl (fun s p => applyAdd p s)
        { s with pow := { s.pow with pst := .active, wake := false, idleU := none, heldAdds := [] } }
    else s)

end Sys2Proof.Machine
end

