-- ==== Sys2Proof/Machine/Recovery.lean ====
section
/-!
DEFINITION. The compute reset (R384, R388, R391-R399, R404, R405, R127): its triggers and its stages. Detection is in ResetOps.
-/
namespace Sys2Proof.Machine

/-! ### Triggers (R384, R388) -/

/-- WATCHDOG_ESCALATION (R388): the engine has not stopped the command within its bound. -/
def execWatchdogEscalation (k : Nat) (s : State) : Host.Outcome State Fault Refusal :=
  .next (match findCmd s k with
    | none => s
    | some c =>
      if expired s c then startReset 1 (cmdFaultRec s c stHang { aux := BitVec.ofNat 64 c.wdog }) s else s)

/-- R67, R391: the units of the compute domain: a Basalt or a Gneiss die. -/
def resetUnit (u : Nat) : Bool := (decide (0x10 ≤ u) && decide (u < 0x18)) || (decide (0x20 ≤ u) && decide (u < 0x28))

/-- UNIT_ERROR (R384): a parity mismatch in a unit, which was executing a command or none. -/
def execUnitError (die : BitVec 8) (k : Option Nat) (s : State) : Host.Outcome State Fault Refusal :=
  .next (
    if !tbRuns s || !resetUnit die.toNat then s
    else match k with
      | none => startReset 2 { unit := die.toNat } s
      | some k =>
        match findCmd s k with
        | some c => if c.st = .started ∧ cmdUnit s c = die.toNat then startReset 2 (cmdFaultRec s c stUnitError {}) s else s
        | none => s)

/-! ### Fence (R393) -/

/-- R393: a command at the fence: one whose remote writes are not all acknowledged is still in progress. -/
def fenceCmd (c : Cmd) : Cmd :=
  if c.st = .done ∧ c.waits ≠ [] ∧ isGood c.status.toNat = true then { c with st := .started, waits := [] } else { c with waits := [] }

/-- R393: a request of the compute domain; a forwarded add is not one (R394). -/
def domainReq (p : Packet) : Bool := p.ptype.toNat == ptWrite || p.ptype.toNat == ptReadReq

/-- R204: a held request is a write of a commit group, which the fence accepts whole and the drain completes. -/
def groupWrite (s : State) (r : OutReq) : Bool :=
  r.held && r.ptype == 1 && match r.k.bind (findCmd s) with
    | some c => decide (opEngine (cmdOp c) = .update)
    | none => false

/-- RESET_FENCE (R204, R393): responses to requests already sent will be dropped; requests not yet sent are discarded, but for the writes
of an update's commit group. -/
def execResetFence (s : State) : Host.Outcome State Fault Refusal :=
  .next (if s.rst.stage ≠ .detected ∨ s.mb ≠ .computeReset then s
    else
      let group := (s.fab.reqs.filter (groupWrite s)).map (·.txn)
      let drop := fun (p : Packet) => domainReq p && !group.contains p.txn
      let unsent := (s.fab.holds.flatMap fun h => h.2.filter drop).map (·.txn)
      { s with
        rst := { s.rst with stage := .fenced, fenceFtw := s.ftw, fenceU := s.tb.nowU }
        cmds := s.cmds.map fenceCmd
        cores := s.cores.map fun c => (c.1, { c.2 with waits := [] })
        fab := { s.fab with
          holds := s.fab.holds.map fun h => (h.1, h.2.filter fun p => !drop p)
          reqs := (s.fab.reqs.filter fun r => !unsent.contains r.txn).map fun r =>
            if r.ptype = 6 then r else if groupWrite s r then { r with k := none } else { r with dropped := true }
          rdata := [] } })

/-! ### Dump (R404, R405) -/

/-- R405: the header of a module image. -/
def imgHeader (s : State) : Bytes :=
  leBytes 1 s.rst.cause ++ leBytes 1 s.rst.ctx ++ leBytes 2 0 ++ leBytes 4 s.log.resets ++ leBytes 8 s.rst.detectFtw.toNat
    ++ leBytes 8 s.rst.fenceFtw.toNat ++ leBytes 8 s.rst.dumpFtw.toNat ++ leBytes 32 0 ++ padTo 64 s.rst.record

/-- R405: the pieces of a module image. Where the spec gives no layout the bytes are free (log entry 10). -/
def moduleImage (s : State) : List (Nat × Bytes) :=
  [(0, imgHeader s), (0x10000, (List.range 256).flatMap fun c => imgCtx (getCtx s c))]
    ++ s.counters.map (fun e => (0x100000 + 8 * e.1, leBytes 8 e.2.toNat))
    ++ s.queues.flatMap (fun q => imgQueue s q.1 q.2 (0x200000 + 0x8000 * q.1))
    ++ s.cores.flatMap (fun c => imgCore c.2 (0x2200000 + 0x4000 * c.1))
    ++ freeRegion s 1 0x2A00000 0x1000000 ++ freeRegion s 2 0x3A00000 0x800000 ++ freeRegion s 3 0x4200000 0x800000

/-- R386, R406: the cores of the launch that a fault record names. -/
def recordCores (s : State) (rec : Bytes) : List (Nat × Core) :=
  match s.cmds.find? fun c => c.q == field rec 6 2 && cmdSeq c == field rec 8 4 && decide (opEngine (cmdOp c) = .vector) with
  | some c => launchCores s c.k
  | none => []

/-- RESET_DUMP (R404, R405): image A when NEWEST is 0xFF or 1, image B when it is 0, its COMPLETE bit cleared first; then the images of
the contexts that the reset named. -/
def execResetDump (s : State) : Host.Outcome State Fault Refusal :=
  .next (if s.rst.stage ≠ .fenced then s
    else
      let d := dumpBase s.id
      let b := memRead s.mem (d + 8) == 0
      let s := { s with rst := { s.rst with stage := .dumped, dumpFtw := s.ftw, dumpU := s.tb.nowU, imageB := b } }
      let slot := d + (if b then 24 else 16)
      let m := memWriteN s.mem slot (leBytes 8 0)
      let m := putImage (d + (if b then 0x8200000 else 0x200000)) 0x8000000 (moduleImage s) m
      let m := memWriteN m slot (leBytes 8 (2 ^ 63 + s.log.resets))
      let s := { s with mem := memWrite m (d + 8) (if b then 1 else 0), free := s.free + 1 }
      s.rst.named.foldl (fun s n => writeCtxImage n.1 (field n.2 40 4) n.2 (recordCores s n.2) s) s)

/-! ### Reset (R127, R295, R391, R396) -/

/-- R109, R127: the banks that started loads have come to write are LOADING. -/
def markLoads (s : State) : State := (s.cmds.filter fun c => decide (c.st = .started)).foldl (fun s c => markLoading c s) s

/-- R127: a bank after the reset: FREE for a DRAINING context, LOST when it was LOADING. -/
def resetBanks (s : State) : Tbl Bank :=
  (s.banks.filter fun b => decide ((getCtx s b.2.ctx).st ≠ .draining)).map fun b =>
    if b.2.st = .loading then (b.1, { b.2 with st := .lost }) else b

/-- RESET_COMPUTE_DOMAIN (R127, R159, R243, R295, R391, R396). -/
def execResetComputeDomain (s : State) : Host.Outcome State Fault Refusal :=
  .next (if s.rst.stage ≠ .dumped then s
    else { s with
      rst := { s.rst with stage := .reset, resetU := s.tb.nowU }
      cores := []
      saved := []
      streams := []
      banks := resetBanks (markLoads s)
      pref := s.pref.filter fun l => !l.mica
      pow := { s.pow with hints := [] }
      cmds := s.cmds.map fun c => { c with prog := { next := c.prog.next }, preempted := false, oldUcode := false } })

/-! ### Resume (R394, R397, R399) -/

/-- R398: the replay of a command that is not replay-safe: MA_RUN or MA_RUN_T with ACCUM, SCATTER_ROWS in ADD mode. -/
def replayUnsafe (c : Cmd) : Bool :=
  ((cmdOp c == 0x22 || cmdOp c == 0x23) && runAccum c) || (cmdOp c == 0x13 && scAdd c)

/-- R397: a started command is replayed. -/
def replays (s : State) (c : Cmd) : Bool :=
  decide (c.st = .started) && decide ((getCtx s c.ctx).st = .active) && cmdReplayable c && !isColl c

/-- R397, R398, R399: the outcome of one command that had started: it goes back to wait for its engine with its credit kept, or it
completes with RESET_ABORTED or CTX_GONE, its outputs unpredictable. -/
def resumeCmd (s : State) (k : Nat) : State :=
  match findCmd s k with
  | none => s
  | some c =>
    if c.st ≠ .started then s
    else if replays s c then
      let s := modCmd k (fun c => { c with st := .fetched, begun := false, replay := true, wdog := 0, prog := { replay := true } }) s
      if replayUnsafe c then havocMem c.ctx s else s
    else abortCmd k (if (getCtx s c.ctx).st = .draining then stCtxGone else stResetAborted) (havocMem c.ctx s)

/-- R394: an add that an end has not sent yet goes. -/
def resendHeld (s : State) (e : Nat) : State :=
  match findEnd s e with
  | none => s
  | some x =>
    match x.unacked with
    | [] => s
    | a :: _ =>
      if x.fencedU.isSome || s.fab.reqs.any (fun r => r.txn == a.1 && r.ptype == 6) then s else sendHead e s

/-- R408: microseconds from one time to another. -/
def usBetween (a b : Nat) : Nat := (b - a) / usU

/-- R389: post CTX_FAULT for a context that the reset named. -/
def postNamed (s : State) (n : Nat × Bytes) : State :=
  if n.1 = 0 then s else postEvent (getCtx s n.1).owner 0x8002 (field n.2 0 2) (n.2.take 32) s

/-- RESET_RESUME (R375, R389, R392, R394, R397, R408). -/
def execResetResume (s : State) : Host.Outcome State Fault Refusal :=
  .next (if s.rst.stage ≠ .reset ∨ s.pow.tripHold = true then s
    else
      let r := s.rst
      let started := s.cmds.filter fun c => decide (c.st = .started)
      let again := (started.filter (replays s)).length
      let s := (started.map (·.k)).foldl resumeCmd { s with rst := {}, mb := .ready, pow := { s.pow with idleU := none } }
      let s := releaseSlots ((s.ends.map (·.1)).foldl resendHeld s)
      let s := resetNotice 1 r.cause s
      let s := logEntry 0x0004 0 (leBytes 1 (b2n r.imageB) ++ leBytes 3 0 ++ leBytes 4 s.log.resets ++ leBytes 4 (usBetween r.fenceU r.dumpU)
        ++ leBytes 4 (usBetween r.dumpU r.resetU) ++ leBytes 4 (usBetween r.detectU s.tb.nowU) ++ leBytes 4 again
        ++ leBytes 4 (started.length - again)) s
      let s := postAll 0x8031 0 [0] s
      r.named.foldl postNamed s)

end Sys2Proof.Machine
end

