-- ==== Sys2Proof/Machine/SolverMath.lean ====
section
/-!
DEFINITION. The arithmetic of the Solver Engine: fixed-point formats (R217), exact values and their one rounding (R218-R220),
factorizations and pivots (R223-R227), preconditioners (R223, R236) and the four methods (R228-R232).
-/
namespace Sys2Proof.Machine

/-! ### Exact values (R218) -/

/-- An exact dyadic value m x 2^e. Every right-hand side of the chapter is one, or one quotient or root of them. -/
structure Dy where
  /-- Integer part. -/
  m : Int := 0
  /-- Exponent. -/
  e : Int := 0
deriving DecidableEq, Repr

/-- The value as an integer at exponent b, at most its own. -/
def Dy.at (x : Dy) (b : Int) : Int := x.m * ((2 ^ (x.e - b).toNat : Nat) : Int)
def Dy.add (x y : Dy) : Dy := let b := min x.e y.e; { m := x.at b + y.at b, e := b }
def Dy.neg (x : Dy) : Dy := { m := -x.m, e := x.e }
def Dy.sub (x y : Dy) : Dy := x.add y.neg
def Dy.mul (x y : Dy) : Dy := { m := x.m * y.m, e := x.e + y.e }
def Dy.isZero (x : Dy) : Bool := x.m == 0
def Dy.isNeg (x : Dy) : Bool := decide (x.m < 0)
/-- x at most y. -/
def Dy.le (x y : Dy) : Bool := let b := min x.e y.e; decide (x.at b ≤ y.at b)

/-- num / den to nearest, ties to even; den positive. -/
def rneDiv (num : Int) (den : Nat) : Int :=
  let q := num / (den : Int)
  let r := num % (den : Int)
  if (den : Int) < 2 * r ∨ (2 * r = den ∧ q % 2 = 1) then q + 1 else q

/-- x / y to nearest-even in steps of 2^-n; y is not zero. -/
def Dy.quot (n : Nat) (x y : Dy) : Int :=
  let k := x.e + n - y.e
  let num := if 0 ≤ k then x.m * ((2 ^ k.toNat : Nat) : Int) else x.m
  let den := if 0 ≤ k then y.m else y.m * ((2 ^ (-k).toNat : Nat) : Int)
  rneDiv (if den < 0 then -num else num) den.natAbs

/-- x to nearest-even in steps of 2^-n. -/
def Dy.round (n : Nat) (x : Dy) : Int := x.quot n { m := 1 }

/-- The square root of a nonnegative x to nearest-even in steps of 2^-n. -/
def Dy.root (n : Nat) (x : Dy) : Int :=
  let k := x.e + 2 * n + 2
  let v := floorAt x.m.toNat k
  let exact := 0 ≤ k ∨ x.m.toNat % 2 ^ (-k).toNat = 0
  let t := isqrt v
  let r := t / 2
  ((if t % 2 = 0 then r else if t * t = v ∧ exact then (if r % 2 = 0 then r else r + 1) else r + 1 : Nat) : Int)

/-! ### Formats (R217) -/

/-- R217: width of a format code; 0 for a reserved one. -/
def qWidth (c : Nat) : Nat := [16, 32, 64, 0].getD (c / 64) 0
/-- R217: fraction bits. -/
def qFrac (c : Nat) : Nat := c % 64
/-- R217: a code whose width is one of those allowed. -/
def qOk (widths : List Nat) (c : Nat) : Bool := widths.contains (qWidth c) && decide (qFrac c < qWidth c)
/-- R217: the four formats of a pattern. -/
def qFormats (qa qv qs qf : Nat) : Bool := qOk [16, 32, 64] qa && qOk [32, 64] qv && qOk [64] qs && qOk [32, 64] qf
/-- The value of a word of a format. -/
def qVal (c : Nat) (raw : Int) : Dy := { m := raw, e := -(qFrac c : Int) }
/-- Largest word of a format. -/
def qMax (c : Nat) : Int := (2 ^ (qWidth c - 1) : Nat) - 1

/-! ### A lane at work -/

/-- A pattern as its image holds it (R213). -/
structure Pat where
  n : Nat := 1
  nnz : Nat := 1
  gen : Nat := 0
  fprint : Nat := 0
  nnzL : Nat := 0
  levelsL : Nat := 0
  levelsU : Nat := 0
  opsIlu : Nat := 0
  opsIc : Nat := 0
  qa : Nat := 0
  qv : Nat := 0
  qs : Nat := 0
  qf : Nat := 0
  /-- POLICY: FAULT. -/
  fault : Bool := false
  /-- TAU, raw. -/
  tau : Int := 0
  /-- DELTA, raw. -/
  delta : Int := 0
  /-- The rows: (position, column) of each entry. -/
  rows : List (List (Nat × Nat)) := []
deriving DecidableEq, Repr

/-- What a lane keeps while it works on a system. -/
structure SolSt where
  /-- R219: range events. -/
  sat : Nat := 0
  /-- R219: row of the first one. -/
  first : Option Nat := none
  /-- Iterate: QV words. -/
  x : List Int := []
  /-- Completed iterations. -/
  it : Nat := 0
  /-- R240: the last measure tested for a stop. -/
  meas : Option Dy := none
  /-- Stop tests made so far (R228, R232). -/
  tests : Nat := 0
  /-- R233: the first test at which DEADLINE is reached; none when it is not reached during this work. -/
  late : Option Nat := none
  /-- R227, R243: the first test after which the command stops or holds the system. -/
  halt : Option Nat := none
  /-- R226: regularized pivots. -/
  regs : Nat := 0
  /-- R226: lowest regularized row. -/
  firstReg : Option Nat := none
deriving DecidableEq, Repr

/-- The work of a lane on a system. A stop carries its reason (R240), or 0 for a pivot that POLICY FAULT stops at. -/
abbrev SolM := EStateM Nat SolSt

/-- R240: reasons. -/
def whyConverged : Nat := 1
def whyMaxiter : Nat := 2
def whyDeadline : Nat := 3
def whyBreakdown : Nat := 4
def whyNoFactor : Nat := 5
def whyNoWorkspace : Nat := 6
def whyStopped : Nat := 7

/-- R219: count a range event at a row. -/
def rangeEvent (row : Nat) : SolM Unit := modify fun s =>
  { s with sat := s.sat + 1, first := match s.first with
    | some r => some r
    | none => some row }

/-- R219: a rounded result in its format's range. -/
def inRange (code row : Nat) (r : Int) : SolM Int := do
  let hi := qMax code
  if hi < r then
    rangeEvent row
    pure hi
  else if r < -hi - 1 then
    rangeEvent row
    pure (-hi - 1)
  else pure r

/-- R218: assign an exact value. -/
def assign (code row : Nat) (x : Dy) : SolM Int := inRange code row (x.round (qFrac code))

/-- R218, R220: assign a quotient. -/
def assignQuot (code row : Nat) (x y : Dy) : SolM Int :=
  if y.isZero then throw whyBreakdown else inRange code row (x.quot (qFrac code) y)

/-- R218, R220: assign a square root. -/
def assignRoot (code row : Nat) (x : Dy) : SolM Int :=
  if x.isNeg then throw whyBreakdown else inRange code row (x.root (qFrac code))

/-- R218, R219: a sum in ACCQ with the given fraction bits. -/
def accq (frac row : Nat) (x : Dy) : SolM Dy := do
  let lim : Int := (2 ^ 127 : Nat)
  let hi : Dy := { m := lim - 1, e := -(frac : Int) }
  let lo : Dy := { m := -lim, e := -(frac : Int) }
  if !x.le hi then
    rangeEvent row
    pure hi
  else if !lo.le x then
    rangeEvent row
    pure lo
  else pure x

/-- Sum of products of words. -/
def dotWords : List Int → List Int → Int
  | a :: as, b :: bs => a * b + dotWords as bs
  | _, _ => 0

/-- Indexed map in the lane. -/
def mapRows {α β : Type} (f : Nat → α → SolM β) : Nat → List α → SolM (List β)
  | _, [] => pure []
  | i, a :: as => do
    let b ← f i a
    let bs ← mapRows f (i + 1) as
    pure (b :: bs)

/-! ### Factorization (R223-R227) -/

/-- A factor record's data (R224): QF words. -/
structure Fact where
  /-- Entries or inverses. -/
  ents : List Int := []
  /-- Reciprocals. -/
  rec' : List Int := []
deriving DecidableEq, Repr

/-- The smallest k >= k0 with k = top or RNE(2^(2 n) / k) at most big, found by halving (fuel: bits). -/
def dminSearch (n : Nat) (big : Int) : Nat → Nat → Nat → Nat
  | 0, _, hi => hi
  | fuel + 1, lo, hi =>
    if hi ≤ lo then hi
    else
      let mid := (lo + hi) / 2
      if rneDiv ((2 ^ (2 * n) : Nat) : Int) (max 1 mid) ≤ big then dminSearch n big fuel lo mid
      else dminSearch n big fuel (mid + 1) hi

/-- R226 step 3: d_min, a QF word. -/
def dminOf (qf : Nat) : Int := (dminSearch (qFrac qf) (qMax qf) 140 1 (2 ^ (2 * qFrac qf) + 1) : Nat)

/-- R226: regularize(p): d and rec, QF words. -/
def regularize (p : Pat) (ic : Bool) (row : Nat) (v : Dy) : SolM (Int × Int) := do
  let n := qFrac p.qf
  let tau := qVal p.qf p.tau
  let delta := qVal p.qf p.delta
  let adelta := qVal p.qf (p.delta.natAbs : Int)
  let mag : Dy := { m := (v.m.natAbs : Int), e := v.e }
  let low := if ic then !tau.le v else !tau.le mag
  let v1 := if !low then v else if ic then adelta else if v.isZero then delta else if v.isNeg then adelta.neg else adelta
  let changed1 := !(v1.le v && v.le v1)
  let d ← if ic then assignRoot p.qf row v1 else assign p.qf row v1
  let isOver := d = 0 ∨ qMax p.qf < rneDiv ((2 ^ (2 * n) : Nat) : Int) (max 1 d.natAbs)
  let d' := if isOver then (if d < 0 then -dminOf p.qf else dminOf p.qf) else d
  if changed1 || decide (d' ≠ d) then
    modify fun s => { s with regs := s.regs + 1, firstReg := match s.firstReg with
      | some r => some (min r row)
      | none => some row }
    if p.fault then throw 0
  let r ← assignQuot p.qf row { m := 1 } (qVal p.qf d')
  pure (d', r)

/-- Position of entry (i, j), if the pattern has it. -/
def posOf (p : Pat) (i j : Nat) : Option Nat := ((p.rows.getD i []).find? fun e => e.2 == j).map (·.1)

/-- Diagonal value of a row: zero when absent (R225). -/
def diagOf (p : Pat) (a : List Int) (i : Nat) : Int :=
  match posOf p i i with
  | some q => a.getD q 0
  | none => 0

/-- R218: fraction bits of one entry of a factorization. -/
def factFrac (p : Pat) : Nat := max (qFrac p.qa) (2 * qFrac p.qf)

/-- JACOBI (R225): rows from i on. -/
def facJacobi (p : Pat) (a : List Int) : Nat → Nat → SolM (List Int)
  | _, 0 => pure []
  | i, n + 1 => do
    let dr ← regularize p false i (qVal p.qa (diagOf p a i))
    let rs ← facJacobi p a (i + 1) n
    pure (dr.2 :: rs)

/-- a minus the sum of products of the listed factor words. -/
def lessProducts (p : Pat) (f : List Int) (a : Int) (ts : List (Nat × Nat)) : Dy :=
  (qVal p.qa a).sub { m := ts.foldl (fun s t => s + f.getD t.1 0 * f.getD t.2 0) 0, e := -(2 * qFrac p.qf : Int) }

/-- R225 ILU0: the products of entry (i, j): positions of (i, k) and (k, j) for k below both bounds. -/
def iluTerms (p : Pat) (i j bound : Nat) : List (Nat × Nat) :=
  (p.rows.getD i []).filterMap fun e => if e.2 < bound then (posOf p e.2 j).map fun q => (e.1, q) else none

/-- ILU0 (R225): the entries of row i below the diagonal, in order. -/
def iluLower (p : Pat) (a : List Int) (rec' : List Int) (i : Nat) : List (Nat × Nat) → List Int → SolM (List Int)
  | [], f => pure f
  | e :: es, f =>
    if e.2 < i then do
      let v ← accq (factFrac p) i (lessProducts p f (a.getD e.1 0) (iluTerms p i e.2 e.2))
      let s ← assign p.qf i v
      let l ← assign p.qf i ((qVal p.qf s).mul (qVal p.qf (rec'.getD e.2 0)))
      iluLower p a rec' i es (f.set e.1 l)
    else iluLower p a rec' i es f

/-- ILU0 (R225): the entries of row i above the diagonal. -/
def iluUpper (p : Pat) (a : List Int) (i : Nat) : List (Nat × Nat) → List Int → SolM (List Int)
  | [], f => pure f
  | e :: es, f =>
    if i < e.2 then do
      let v ← accq (factFrac p) i (lessProducts p f (a.getD e.1 0) (iluTerms p i e.2 i))
      let u ← assign p.qf i v
      iluUpper p a i es (f.set e.1 u)
    else iluUpper p a i es f

/-- Set the diagonal entry of a row, if the pattern has it. -/
def setDiag (p : Pat) (i : Nat) (d : Int) (f : List Int) : List Int :=
  match posOf p i i with
  | some q => f.set q d
  | none => f

/-- ILU0 (R225): rows from i on. -/
def facIlu (p : Pat) (a : List Int) : Nat → Nat → List Int → List Int → SolM (List Int × List Int)
  | _, 0, f, rec' => pure (f, rec')
  | i, n + 1, f, rec' => do
    let row := p.rows.getD i []
    let f ← iluLower p a rec' i row f
    let f ← iluUpper p a i row f
    let v ← accq (factFrac p) i (lessProducts p f (diagOf p a i) (iluTerms p i i i))
    let dr ← regularize p false i v
    facIlu p a (i + 1) n (setDiag p i dr.1 f) (rec' ++ [dr.2])

/-- R225 IC0: the products of entry (i, k): positions of (i, j) and (k, j) for j below k. -/
def icTerms (p : Pat) (i k : Nat) : List (Nat × Nat) :=
  (p.rows.getD i []).filterMap fun e => if e.2 < k then (posOf p k e.2).map fun q => (e.1, q) else none

/-- IC0 (R225): the entries of row i below the diagonal. -/
def icLower (p : Pat) (a : List Int) (rec' : List Int) (i : Nat) : List (Nat × Nat) → List Int → SolM (List Int)
  | [], f => pure f
  | e :: es, f =>
    if e.2 < i then do
      let v ← accq (factFrac p) i (lessProducts p f (a.getD e.1 0) (icTerms p i e.2))
      let l ← assign p.qf i (v.mul (qVal p.qf (rec'.getD e.2 0)))
      icLower p a rec' i es (f.set e.1 l)
    else icLower p a rec' i es f

/-- IC0 (R225): rows from i on. -/
def facIc (p : Pat) (a : List Int) : Nat → Nat → List Int → List Int → SolM (List Int × List Int)
  | _, 0, f, rec' => pure (f, rec')
  | i, n + 1, f, rec' => do
    let row := p.rows.getD i []
    let f ← icLower p a rec' i row f
    let ts := (row.filter fun e => decide (e.2 < i)).map fun e => (e.1, e.1)
    let v ← accq (factFrac p) i (lessProducts p f (diagOf p a i) ts)
    let dr ← regularize p true i v
    facIc p a (i + 1) n (setDiag p i dr.1 f) (rec' ++ [dr.2])

/-- One value of a Gauss-Jordan work matrix: a word of QA until it is assigned, then of QF (R225). -/
abbrev GjRow := List Dy

/-- R225: step j of the inversion of a block whose first row is b0. -/
def gjStep (p : Pat) (b0 : Nat) (m : List GjRow) (j : Nat) : SolM (List GjRow) := do
  let prow := m.getD j []
  let dr ← regularize p false (b0 + j) (prow.getD j {})
  let rc := qVal p.qf dr.2
  let scaled ← mapRows (fun _ v => do
    let w ← assign p.qf (b0 + j) (Dy.mul v rc)
    pure (qVal p.qf w)) 0 prow
  mapRows (fun x row => if x = j then pure scaled else do
    let fx := row.getD j {}
    mapRows (fun c v => do
      let w ← assign p.qf (b0 + x) (Dy.sub v (fx.mul (scaled.getD c {})))
      pure (qVal p.qf w)) 0 row) 0 m

/-- R225: steps j on. -/
def gjSteps (p : Pat) (b0 : Nat) : Nat → Nat → List GjRow → SolM (List GjRow)
  | _, 0, m => pure m
  | j, n + 1, m => do
    let m ← gjStep p b0 m j
    gjSteps p b0 (j + 1) n m

/-- R225: the inverse of the block at row b0, BS x BS words by rows. -/
def gjBlock (p : Pat) (a : List Int) (bs b0 : Nat) : SolM (List Int) := do
  let m := min bs (p.n - b0)
  let start : List GjRow := (List.range m).map fun x =>
    ((List.range m).map fun y => match posOf p (b0 + x) (b0 + y) with
      | some q => qVal p.qa (a.getD q 0)
      | none => ({} : Dy)) ++ (List.range m).map fun y => ({ m := if x = y then 1 else 0 } : Dy)
  let r ← gjSteps p b0 0 m start
  pure ((List.range bs).flatMap fun x => (List.range bs).map fun y =>
    if x < m ∧ y < m then ((r.getD x []).getD (m + y) {}).round (qFrac p.qf) else 0)

/-- BLOCK_JACOBI (R225): n blocks from block b on. -/
def gjBlocks (p : Pat) (a : List Int) (bs : Nat) : Nat → Nat → SolM (List Int)
  | _, 0 => pure []
  | b, n + 1 => do
    let x ← gjBlock p a bs (b * bs)
    let xs ← gjBlocks p a bs (b + 1) n
    pure (x ++ xs)

/-- R225: the factorization of a matrix of QA words. -/
def factorize (p : Pat) (a : List Int) (prec bs : Nat) : SolM Fact := do
  match prec with
  | 1 => do
    let r ← facJacobi p a 0 p.n
    pure { rec' := r }
  | 2 => do
    let e ← gjBlocks p a bs 0 (ceilDiv p.n bs)
    pure { ents := e }
  | 3 => do
    let fr ← facIc p a 0 p.n (List.replicate p.nnz 0) []
    pure { ents := ((List.range p.n).zip p.rows).flatMap fun ir =>
             (ir.2.filter fun e => decide (e.2 ≤ ir.1)).map fun e => fr.1.getD e.1 0, rec' := fr.2 }
  | 4 => do
    let fr ← facIlu p a 0 p.n (List.replicate p.nnz 0) []
    pure { ents := fr.1, rec' := fr.2 }
  | _ => pure {}

/-- R224: entries and reciprocals of a factor record. -/
def factWords (p : Pat) (prec bs : Nat) : Nat × Nat :=
  match prec with
  | 1 => (0, p.n)
  | 2 => (ceilDiv p.n bs * bs * bs, 0)
  | 3 => (p.nnzL, p.n)
  | 4 => (p.nnz, p.n)
  | _ => (0, 0)

/-- R224: bytes of a factor record. -/
def factSize (p : Pat) (prec bs : Nat) : Nat := 32 + ((factWords p prec bs).1 + (factWords p prec bs).2) * (qWidth p.qf / 8)

/-! ### Operators (R223, R228, R236) -/

/-- A system ready to iterate. -/
structure Sys where
  p : Pat := {}
  /-- Values, QA words. -/
  a : List Int := []
  /-- Right-hand side, QV words. -/
  b : List Int := []
  /-- Factor data. -/
  f : Fact := {}
  prec : Nat := 0
  bs : Nat := 0
  /-- TRANSPOSE. -/
  tr : Bool := false
  maxit : Nat := 1
  /-- RTOL2, ATOL2: none for +infinity. -/
  rtol : Option Dy := some {}
  atol : Option Dy := some {}
  /-- GMRES m. -/
  gm : Nat := 1
  /-- Used where the threshold is +infinity x 0, which is not stated (log entry 29). -/
  spare : Bool := false
deriving DecidableEq, Repr

/-- The rows of A, or of its transpose: (value, column). -/
def Sys.mat (y : Sys) : List (List (Int × Nat)) :=
  let rs := y.p.rows.map fun r => r.map fun e => (y.a.getD e.1 0, e.2)
  if y.tr then (List.range y.p.n).map fun c =>
    ((List.range y.p.n).zip rs).flatMap fun ir => (ir.2.filter fun e => e.2 == c).map fun e => (e.1, ir.1)
  else rs

/-- R218: A y or its transpose, exact, each row in ACCQ. -/
def Sys.spmv (y : Sys) (v : List Int) : SolM (List Dy) :=
  let fr := qFrac y.p.qa + qFrac y.p.qv
  mapRows (fun i r => accq fr i { m := r.foldl (fun s e => s + e.1 * v.getD e.2 0) 0, e := -(fr : Int) }) 0 y.mat

/-- R218: assign a vector. -/
def Sys.vec (y : Sys) (xs : List Dy) : SolM (List Int) := mapRows (fun i x => assign y.p.qv i x) 0 xs

/-- A vector word as a value. -/
def Sys.qv (y : Sys) (x : Int) : Dy := qVal y.p.qv x
/-- A scalar word as a value. -/
def Sys.qs (y : Sys) (x : Int) : Dy := qVal y.p.qs x

/-- A vector from a formula over three vectors, element by element. -/
def Sys.vec3 (y : Sys) (f : Dy → Dy → Dy → Dy) (a b c : List Int) : SolM (List Int) :=
  y.vec ((a.zip (b.zip c)).map fun t => f (y.qv t.1) (y.qv t.2.1) (y.qv t.2.2))

/-- A vector from a formula over two vectors. -/
def Sys.vec2 (y : Sys) (f : Dy → Dy → Dy) (a b : List Int) : SolM (List Int) := y.vec3 (fun u v _ => f u v) a b b

/-- A vector divided by a scalar (R220). -/
def Sys.vdiv (y : Sys) (a : List Int) (g : Int) : SolM (List Int) :=
  mapRows (fun i x => assignQuot y.p.qv i (y.qv x) (y.qs g)) 0 a

/-- R218: dot(a, b), in ACCQ. -/
def Sys.dot (y : Sys) (a b : List Int) : SolM Dy :=
  accq (2 * qFrac y.p.qv) 0 { m := dotWords a b, e := -(2 * qFrac y.p.qv : Int) }

/-- R218: assign a scalar. -/
def Sys.scal (y : Sys) (x : Dy) : SolM Int := assign y.p.qs 0 x
def Sys.squot (y : Sys) (a b : Dy) : SolM Int := assignQuot y.p.qs 0 a b
def Sys.sroot (y : Sys) (x : Dy) : SolM Int := assignRoot y.p.qs 0 x

/-- Factor entries of IC0 or ILU0 with their places: (row, column, word). -/
def Sys.entries (y : Sys) : List (Nat × Nat × Int) :=
  let es := ((List.range y.p.n).zip y.p.rows).flatMap fun ir =>
    (ir.2.filter fun e => y.prec != 3 || decide (e.2 ≤ ir.1)).map fun e => (ir.1, e.2)
  (es.zip y.f.ents).map fun e => (e.1.1, e.1.2, e.2)

/-- R223: one triangular sweep over the rows in the given order; `row i` lists (index, word) of the terms. -/
def Sys.sweep (y : Sys) (r : List Int) (row : Nat → List (Nat × Int)) (scale : Bool) : List Nat → List Int → SolM (List Int)
  | [], z => pure z
  | i :: is, z => do
    let fr := qFrac y.p.qf + qFrac y.p.qv
    let sum : Dy := { m := (row i).foldl (fun s t => s + t.2 * z.getD t.1 0) 0, e := -(fr : Int) }
    let v ← accq fr i ((y.qv (r.getD i 0)).sub sum)
    let w ← assign y.p.qv i (if scale then v.mul (qVal y.p.qf (y.f.rec'.getD i 0)) else v)
    y.sweep r row scale is (z.set i w)

/-- The rows upward and downward. -/
def Sys.up (y : Sys) : List Nat := List.range y.p.n
def Sys.down (y : Sys) : List Nat := (List.range y.p.n).reverse
def Sys.zeros (y : Sys) : List Int := List.replicate y.p.n 0

/-- l_ik with k < i, and u_ij with j > i, by row; l_ki with k > i, and u_ki with k < i, by column. -/
def Sys.lowRow (y : Sys) (i : Nat) : List (Nat × Int) :=
  y.entries.filterMap fun e => if e.1 = i ∧ e.2.1 < i then some (e.2.1, e.2.2) else none
def Sys.uppRow (y : Sys) (i : Nat) : List (Nat × Int) :=
  y.entries.filterMap fun e => if e.1 = i ∧ i < e.2.1 then some (e.2.1, e.2.2) else none
def Sys.lowCol (y : Sys) (i : Nat) : List (Nat × Int) :=
  y.entries.filterMap fun e => if e.2.1 = i ∧ i < e.1 then some (e.1, e.2.2) else none
def Sys.uppCol (y : Sys) (i : Nat) : List (Nat × Int) :=
  y.entries.filterMap fun e => if e.2.1 = i ∧ e.1 < i then some (e.1, e.2.2) else none

/-- R223, R236: M^-1 r, or M^-T r under TRANSPOSE. -/
def Sys.minv (y : Sys) (r : List Int) : SolM (List Int) :=
  match y.prec with
  | 1 => mapRows (fun i x => assign y.p.qv i ((qVal y.p.qf (y.f.rec'.getD i 0)).mul (y.qv x))) 0 r
  | 2 =>
    mapRows (fun i _ =>
      let b0 := i / y.bs * y.bs
      let m := min y.bs (y.p.n - b0)
      let base := i / y.bs * (y.bs * y.bs)
      let fr := qFrac y.p.qf + qFrac y.p.qv
      let s := (List.range m).foldl (fun s k =>
        let at' := if y.tr then base + k * y.bs + i % y.bs else base + i % y.bs * y.bs + k
        s + y.f.ents.getD at' 0 * r.getD (b0 + k) 0) 0
      do
        let v ← accq fr i { m := s, e := -(fr : Int) }
        assign y.p.qv i v) 0 r
  | 3 => do
    let z ← y.sweep r y.lowRow true y.up y.zeros
    y.sweep z y.lowCol true y.down y.zeros
  | 4 =>
    if y.tr then do
      let z ← y.sweep r y.uppCol true y.up y.zeros
      y.sweep z y.lowCol false y.down y.zeros
    else do
      let z ← y.sweep r y.lowRow false y.up y.zeros
      y.sweep z y.uppRow true y.down y.zeros
  | _ => pure r

/-! ### Stops (R228, R233, R227) -/

/-- R228: the threshold test m <= max(rtol2 x ref, atol2). -/
def Sys.small (y : Sys) (ref m : Dy) : Bool :=
  match y.atol with
  | none => true
  | some t =>
    m.le t || match y.rtol with
      | some r => m.le (r.mul ref)
      | none => if ref.isZero then y.spare else !ref.isNeg

/-- R233: one of the tests made has found DEADLINE reached. -/
def SolSt.sawLate (s : SolSt) : Bool := s.late.any fun n => decide (n < s.tests)

/-- Whether DEADLINE is reached at this test (R233). -/
def lateNow : SolM Bool := do
  modify fun s => { s with tests := s.tests + 1 }
  let s ← get
  pure s.sawLate

/-- R227, R243: whether the command stops or holds the system here. -/
def haltNow : SolM Bool := do
  let s ← get
  pure (s.halt.any fun n => decide (n < s.tests))

/-- R228: boundary(): the reason to stop, or 0. -/
def Sys.boundary (y : Sys) (ref m : Dy) : SolM Nat := do
  modify fun s => { s with meas := some m }
  let s ← get
  if y.small ref m then pure whyConverged
  else if s.it = y.maxit then pure whyMaxiter
  else
    let l ← lateNow
    if l then pure whyDeadline else do
      let h ← haltNow
      pure (if h then whyStopped else 0)

/-- Set the iterate. -/
def setX (x : List Int) : SolM Unit := modify fun s => { s with x := x }
/-- Count an iteration. -/
def stepIt : SolM Unit := modify fun s => { s with it := s.it + 1 }

/-- b - A x. -/
def Sys.resid (y : Sys) : SolM (List Int) := do
  let s ← get
  let ax ← y.spmv s.x
  y.vec ((y.b.zip ax).map fun t => (y.qv t.1).sub t.2)

/-! ### Methods -/

/-- PCG (R229): iterations, with at most fuel left. -/
def Sys.pcgLoop (y : Sys) (ref : Dy) : Nat → List Int → List Int → List Int → Dy → SolM Nat
  | 0, r, _, _, _ => do
    let m ← y.dot r r
    y.boundary ref m
  | fuel + 1, r, z, p, rz => do
    let m ← y.dot r r
    let why ← y.boundary ref m
    if why ≠ 0 then pure why else do
      let ap ← y.spmv p
      let q ← y.vec ap
      let pq ← y.dot p q
      let alpha ← y.squot rz pq
      let s ← get
      let x ← y.vec2 (fun u v => u.add ((y.qs alpha).mul v)) s.x p
      setX x
      let r ← y.vec2 (fun u v => u.sub ((y.qs alpha).mul v)) r q
      let z' ← y.minv r
      let rz1 ← y.dot r z'
      let beta ← y.squot rz1 rz
      let p ← y.vec2 (fun u v => u.add ((y.qs beta).mul v)) z' p
      stepIt
      let _ := z
      y.pcgLoop ref fuel r z' p rz1

/-- PCG (R229). -/
def Sys.pcg (y : Sys) (ref : Dy) : SolM Nat := do
  let r ← y.resid
  let z ← y.minv r
  let rz ← y.dot r z
  y.pcgLoop ref y.maxit r z z rz

/-- What MINRES carries from one iteration to the next (R230). -/
structure MinSt where
  v0 : List Int := []
  v1 : List Int := []
  z1 : List Int := []
  w0 : List Int := []
  w1 : List Int := []
  g1 : Int := 0
  eta : Int := 0
  c0 : Int := 0
  c1 : Int := 0
  s0 : Int := 0
  s1 : Int := 0
deriving DecidableEq, Repr

/-- MINRES (R230): the body of one iteration; the reason to stop, or 0, and what is carried on. -/
def Sys.minresStep (y : Sys) (t : MinSt) : SolM (Nat × MinSt) := do
  let it := (← get).it
  let v1 ← if it = 0 then y.vdiv t.v1 t.g1 else pure t.v1
  let z1 ← if it = 0 then y.vdiv t.z1 t.g1 else pure t.z1
  let az ← y.spmv z1
  let q ← y.vec az
  let dd ← y.dot q z1
  let d ← y.scal dd
  let v2 ← y.vec3 (fun u a c => (u.sub ((y.qs d).mul a)).sub ((y.qs t.g1).mul c)) q v1 t.v0
  let z2 ← y.minv v2
  let g2d ← y.dot z2 v2
  let g2 ← y.sroot g2d
  let c0 := y.qs t.c0
  let c1 := y.qs t.c1
  let s0 := y.qs t.s0
  let s1 := y.qs t.s1
  let g1 := y.qs t.g1
  let a0 ← y.scal ((c1.mul (y.qs d)).sub ((c0.mul s1).mul g1))
  let a1 ← y.sroot (((y.qs a0).mul (y.qs a0)).add ((y.qs g2).mul (y.qs g2)))
  let a2 ← y.scal ((s1.mul (y.qs d)).add ((c0.mul c1).mul g1))
  let a3 ← y.scal (s0.mul g1)
  let c2 ← y.squot (y.qs a0) (y.qs a1)
  let s2 ← y.squot (y.qs g2) (y.qs a1)
  let num := (z1.zip (t.w0.zip t.w1)).map fun e =>
    ((y.qv e.1).sub ((y.qs a3).mul (y.qv e.2.1))).sub ((y.qs a2).mul (y.qv e.2.2))
  let w2 ← mapRows (fun i v => assignQuot y.p.qv i v (y.qs a1)) 0 num
  let s ← get
  let x ← y.vec2 (fun u w => u.add (((y.qs c2).mul (y.qs t.eta)).mul w)) s.x w2
  setX x
  let eta ← y.scal ((y.qs s2).mul (y.qs t.eta)).neg
  if g2 = 0 then
    stepIt
    modify fun s => { s with meas := some ((y.qs eta).mul (y.qs eta)) }
    pure (whyConverged, t)
  else do
    let v1' ← y.vdiv v2 g2
    let z1' ← y.vdiv z2 g2
    stepIt
    pure (0, { v0 := v1, v1 := v1', z1 := z1', w0 := t.w1, w1 := w2, g1 := g2, eta := eta, c0 := t.c1, c1 := c2, s0 := t.s1,
               s1 := s2 })

/-- MINRES (R230): iterations. -/
def Sys.minresLoop (y : Sys) (ref : Dy) : Nat → MinSt → SolM Nat
  | 0, t => y.boundary ref ((y.qs t.eta).mul (y.qs t.eta))
  | fuel + 1, t => do
    let why ← y.boundary ref ((y.qs t.eta).mul (y.qs t.eta))
    if why ≠ 0 then pure why else do
      let r ← y.minresStep t
      if r.1 ≠ 0 then pure r.1 else y.minresLoop ref fuel r.2

/-- MINRES (R230). The constant 1 is assigned to c0 and to c1 (R218). -/
def Sys.minres (y : Sys) (ref : Dy) : SolM Nat := do
  let v1 ← y.resid
  let z1 ← y.minv v1
  let g ← y.dot z1 v1
  let g1 ← y.sroot g
  let c0 ← y.scal { m := 1 }
  let c1 ← y.scal { m := 1 }
  y.minresLoop ref y.maxit { v0 := y.zeros, v1 := v1, z1 := z1, w0 := y.zeros, w1 := y.zeros, g1 := g1, eta := g1, c0 := c0, c1 := c1 }

/-- What BiCGSTAB carries on (R231). -/
structure BiSt where
  r : List Int := []
  rh : List Int := []
  v : List Int := []
  p : List Int := []
  rho : Int := 0
  alpha : Int := 0
  omega : Int := 0
deriving DecidableEq, Repr

/-- BiCGSTAB (R231): the body of one iteration. -/
def Sys.bicgStep (y : Sys) (ref : Dy) (t : BiSt) : SolM (Nat × BiSt) := do
  let rr ← y.dot t.rh t.r
  let rho1 ← y.scal rr
  let beta ← y.squot ((y.qs rho1).mul (y.qs t.alpha)) ((y.qs t.rho).mul (y.qs t.omega))
  let p ← y.vec3 (fun u a b => u.add ((y.qs beta).mul (a.sub ((y.qs t.omega).mul b)))) t.r t.p t.v
  let ph ← y.minv p
  let av ← y.spmv ph
  let v ← y.vec av
  let rv ← y.dot t.rh v
  let alpha ← y.squot (y.qs rho1) rv
  let s ← y.vec2 (fun u a => u.sub ((y.qs alpha).mul a)) t.r v
  let ss ← y.dot s s
  if y.small ref ss then
    let st ← get
    let x ← y.vec2 (fun u a => u.add ((y.qs alpha).mul a)) st.x ph
    setX x
    stepIt
    modify fun q => { q with meas := some ss }
    pure (whyConverged, t)
  else do
    let sh ← y.minv s
    let at' ← y.spmv sh
    let tt ← y.vec at'
    let ts ← y.dot tt s
    let t2 ← y.dot tt tt
    let omega ← y.squot ts t2
    let st ← get
    let x ← y.vec3 (fun u a b => (u.add ((y.qs alpha).mul a)).add ((y.qs omega).mul b)) st.x ph sh
    setX x
    let r ← y.vec2 (fun u a => u.sub ((y.qs omega).mul a)) s tt
    stepIt
    pure (0, { r := r, rh := t.rh, v := v, p := p, rho := rho1, alpha := alpha, omega := omega })

/-- BiCGSTAB (R231): iterations. -/
def Sys.bicgLoop (y : Sys) (ref : Dy) : Nat → BiSt → SolM Nat
  | 0, t => do
    let m ← y.dot t.r t.r
    y.boundary ref m
  | fuel + 1, t => do
    let m ← y.dot t.r t.r
    let why ← y.boundary ref m
    if why ≠ 0 then pure why else do
      let r ← y.bicgStep ref t
      if r.1 ≠ 0 then pure r.1 else y.bicgLoop ref fuel r.2

/-- BiCGSTAB (R231). The constant 1 is assigned to rho, alpha and omega (R218). -/
def Sys.bicg (y : Sys) (ref : Dy) : SolM Nat := do
  let r ← y.resid
  let rho ← y.scal { m := 1 }
  let alpha ← y.scal { m := 1 }
  let omega ← y.scal { m := 1 }
  y.bicgLoop ref y.maxit { r := r, rh := r, v := y.zeros, p := y.zeros, rho := rho, alpha := alpha, omega := omega }

/-- One cycle of GMRES (R232): the basis, the columns of h after rotation, g, c and s. -/
structure GmSt where
  vs : List (List Int) := []
  hs : List (List Int) := []
  g : List Int := []
  cs : List Int := []
  ss : List Int := []
deriving DecidableEq, Repr

/-- R232: orthogonalize w against the basis; answers w and h[0..k][k]. -/
def Sys.gmOrth (y : Sys) : List (List Int) → List Int → SolM (List Int × List Int)
  | [], w => pure (w, [])
  | v :: vs, w => do
    let d ← y.dot w v
    let h ← y.scal d
    let w ← y.vec2 (fun u a => u.sub ((y.qs h).mul a)) w v
    let r ← y.gmOrth vs w
    pure (r.1, h :: r.2)

/-- R232: apply the earlier rotations to a column. -/
def Sys.gmRotate (y : Sys) : List Int → List Int → List Int → SolM (List Int)
  | c :: cs, s :: ss, h0 :: h1 :: hs => do
    let t ← y.scal (((y.qs c).mul (y.qs h0)).add ((y.qs s).mul (y.qs h1)))
    let u ← y.scal (((y.qs c).mul (y.qs h1)).sub ((y.qs s).mul (y.qs h0)))
    let r ← y.gmRotate cs ss (u :: hs)
    pure (t :: r)
  | _, _, hs => pure hs

/-- R232: the inner steps; `left` further ones are allowed by m. -/
def Sys.gmInner (y : Sys) (ref : Dy) : Nat → GmSt → SolM GmSt
  | 0, t => pure t
  | left + 1, t => do
    let k := t.hs.length
    let z ← y.minv (t.vs.getD k [])
    let aw ← y.spmv z
    let w ← y.vec aw
    let o ← y.gmOrth (t.vs.take (k + 1)) w
    let ww ← y.dot o.1 o.1
    let hn ← y.sroot ww
    let col ← y.gmRotate t.cs t.ss o.2
    let hk := y.qs (col.getD k 0)
    let den ← y.sroot ((hk.mul hk).add ((y.qs hn).mul (y.qs hn)))
    let c ← y.squot hk (y.qs den)
    let s ← y.squot (y.qs hn) (y.qs den)
    let gk := y.qs (t.g.getD k 0)
    let g1 ← y.scal ((y.qs s).mul gk).neg
    let g0 ← y.scal ((y.qs c).mul gk)
    let t' : GmSt := { t with hs := t.hs ++ [col.set k den], g := t.g.set k g0 ++ [g1], cs := t.cs ++ [c], ss := t.ss ++ [s] }
    stepIt
    let st ← get
    let l ← lateNow
    if y.small ref ((y.qs g1).mul (y.qs g1)) || hn == 0 || st.it == y.maxit || l then pure t'
    else do
      let h ← haltNow
      if h then throw whyStopped
      let v ← y.vdiv o.1 hn
      y.gmInner ref left { t' with vs := t'.vs ++ [v] }

/-- R232: back substitution: y[i] for i from n - 1 down; `ys` holds y[n..]. -/
def Sys.gmBack (y : Sys) (t : GmSt) : Nat → List Int → SolM (List Int)
  | 0, ys => pure ys
  | i + 1, ys => do
    let k := t.hs.length
    let sum := ((List.range k).drop (i + 1)).foldl (fun (s : Dy) j =>
      s.add ((y.qs ((t.hs.getD j []).getD i 0)).mul (y.qs (ys.getD (j - i - 1) 0)))) {}
    let v ← y.squot ((y.qs (t.g.getD i 0)).sub sum) (y.qs ((t.hs.getD i []).getD i 0))
    y.gmBack t i (v :: ys)

/-- GMRES (R232): cycles. -/
def Sys.gmLoop (y : Sys) (ref : Dy) : Nat → SolM Nat
  | 0 => do
    let r ← y.resid
    let rr ← y.dot r r
    y.boundary ref rr
  | fuel + 1 => do
    let r ← y.resid
    let rr ← y.dot r r
    let why ← y.boundary ref rr
    if why ≠ 0 then pure why else do
      let beta ← y.sroot rr
      let v0 ← y.vdiv r beta
      let t ← y.gmInner ref y.gm { vs := [v0], g := [beta] }
      let ys ← y.gmBack t t.hs.length []
      let u ← y.vec ((List.range y.p.n).map fun e =>
        (ys.zip t.vs).foldl (fun (s : Dy) q => s.add ((y.qs q.1).mul (y.qv (q.2.getD e 0)))) {})
      let z ← y.minv u
      let st ← get
      let x ← y.vec2 Dy.add st.x z
      setX x
      y.gmLoop ref fuel

/-- R228: the method of a command, from x0 on: the reason for the stop. ref is computed once per system. -/
def Sys.solve (y : Sys) (method : Nat) : SolM Nat := do
  if method = 1 then
    let mb ← y.minv y.b
    let ref ← y.dot mb y.b
    y.minres ref
  else
    let ref ← y.dot y.b y.b
    match method with
    | 0 => y.pcg ref
    | 2 => y.bicg ref
    | _ => y.gmLoop ref y.maxit

end Sys2Proof.Machine
end

