-- ==== Sys2Proof/Machine/Update.lean ====
section
/-!
DEFINITION. The Update Engine (R190-R210): the coefficient slot (R192-R194), the recurrence (R195-R198), the factored second
moment (R199), touched rows (R200, R201), formats and the working copy (R202, R203), commit groups, the progress word and
replay (R204-R207), UPD_RUN and UPD_ROWS.
-/
namespace Sys2Proof.Machine

/-! ### Bodies (R202, R208, R209) -/

def upP (c : Cmd) : Nat := body c 18 1
def upG (c : Cmd) : Nat := body c 19 1
def upM (c : Cmd) : Nat := body c 20 1
def upV (c : Cmd) : Nat := body c 21 1
def upC (c : Cmd) : Nat := body c 22 1
/-- R208 COPY_EN. -/
def upCopy (c : Cmd) : Bool := bitOf (body c 23 1) 0
def upStep (c : Cmd) : Nat := body c 24 4
def upOuter (c : Cmd) : Nat := body c 32 4
def upInner (c : Cmd) : Nat := body c 36 4
/-- R209 WIDTH. -/
def upWidth (c : Cmd) : Nat := body c 28 4
/-- R209 COUNT. -/
def upCount (c : Cmd) : Nat := body c 32 4
/-- R209 NROWS. -/
def upNrows (c : Cmd) : Nat := body c 36 4
def upPva (c : Cmd) : Nat := body c 48 8
def upGva (c : Cmd) : Nat := body c 56 8
def upMva (c : Cmd) : Nat := body c 64 8
def upVva (c : Cmd) : Nat := body c 72 8
/-- R208 C_VA, R209 CNT_VA. -/
def upCva (c : Cmd) : Nat := body c 80 8
/-- R208 COPY_VA, R209 IDX_VA. -/
def upVa88 (c : Cmd) : Nat := body c 88 8
/-- R208 COPYS_VA, R209 COPY_VA. -/
def upVa96 (c : Cmd) : Nat := body c 96 8
def upProg (c : Cmd) : Nat := body c 104 8
def upGs (c : Cmd) : Nat := body c 112 8
/-- UPD_ROWS. -/
def upRows (c : Cmd) : Bool := cmdOp c == 0x41

/-- R202: the formats of P, G, M and V, COPY. -/
def upPok (x : Nat) : Bool := x ≤ 3
def upGok (x : Nat) : Bool := x ≤ 3 || x == 0xC || x == 0xD
def upMok (x : Nat) : Bool := x ≤ 1 || x == 3
def upCok (x : Nat) : Bool := x ≤ 0xB

/-! ### The slot (R192, R193) -/

/-- Field n of a slot: a binary64 code. -/
def slotF (slot : Bytes) (n : Nat) : Nat := field slot (8 * n) 8
/-- R192 FLAGS bit. -/
def slotFlag (slot : Bytes) (n : Nat) : Bool := bitOf (field slot 104 4) n

/-- The coefficients of R192 by name. -/
def coLR : Nat := 0
def coB1 : Nat := 1
def coA1 : Nat := 2
def coB2 : Nat := 3
def coA2 : Nat := 4
def coEPS : Nat := 5
def coK1 : Nat := 6
def coK2 : Nat := 7
def coWC : Nat := 8
def coWD : Nat := 9
def coGS : Nat := 10
def coGC : Nat := 11
def coEPS1 : Nat := 12

/-- The flags of R192 by name. -/
def flMOM : Nat := 0
def flSECOND : Nat := 1
def flFACTORED : Nat := 2
def flBC1 : Nat := 3
def flBC2 : Nat := 4
def flCM : Nat := 5
def flCV : Nat := 6
def flCD : Nat := 7
def flSKIP : Nat := 8

/-- A command's own slot as read at its start. -/
def cmdSlot (s : State) (c : Cmd) : Bytes :=
  match findCmd s c.k with
  | some d => d.prog.slot
  | none => []

/-- The engine state that the command keeps. -/
def cmdProg (s : State) (c : Cmd) : Progress :=
  match findCmd s c.k with
  | some d => d.prog
  | none => {}

/-- R202, R208: V, or R and C, is in use. -/
def usesV (slot : Bytes) : Bool := slotFlag slot flSECOND || slotFlag slot flFACTORED

/-- R202, R208, R209: the fields of the body against the slot: a field of UPD_RUN, or one that UPD_ROWS has of it, that the slot's flags
leave unused is zero, and the rest is in its ranges (log entry 27). -/
def upFields (c : Cmd) (slot : Bytes) : Bool :=
  let mom := slotFlag slot flMOM
  let fac := slotFlag slot flFACTORED
  let v := usesV slot
  let bc := slotFlag slot flBC1 || slotFlag slot flBC2
  let rows := upRows c
  decide (field slot 104 4 < 512) && (field slot 108 8 == 0) && (field slot 116 12 == 0)
    && upPok (upP c) && upGok (upG c)
    && (if mom then upMok (upM c) else upM c == 0 && (rows || upMva c == 0))
    && (if v then upMok (upV c) else upV c == 0 && (rows || upVva c == 0))
    && (if upCopy c then upCok (upC c) else decide (upC c < 16))
    && (rows || fac || upCva c == 0)
    && (if rows then !fac && decide (1 ≤ upWidth c) && decide (upWidth c ≤ 65536) && decide (1 ≤ upCount c) && upCva c % 8 == 0
        else decide (1 ≤ upOuter c) && decide (1 ≤ upInner c) && (!fac || decide (upOuter c + upInner c ≤ 65536))
          && (if bc then decide (1 ≤ upStep c) else upStep c == 0))

/-! ### Arithmetic (R195, R196, R198) -/

/-- R196: one binary64 operation for an element: its events count there with role 0x3 (R210). -/
def uOp (el : Nat) (r : Nat × Ev) : EngM Nat := do
  noteEv 0 el 3 0xFFFF r.2
  pure r.1

/-- R196: the rounding direction of the recurrence. -/
def uRm : EngM RM := do
  let m ← getMode
  pure (modeRm m)

def uAdd (el a b : Nat) : EngM Nat := do
  let rm ← uRm
  uOp el (fAdd fp64 rm (decodeF fp64 a) (decodeF fp64 b))
def uSub (el a b : Nat) : EngM Nat := do
  let rm ← uRm
  uOp el (fSub fp64 rm (decodeF fp64 a) (decodeF fp64 b))
def uMul (el a b : Nat) : EngM Nat := do
  let rm ← uRm
  uOp el (fMul fp64 rm (decodeF fp64 a) (decodeF fp64 b))
def uDiv (el a b : Nat) : EngM Nat := do
  let rm ← uRm
  uOp el (fDiv fp64 rm (decodeF fp64 a) (decodeF fp64 b))
def uSqrt (el a : Nat) : EngM Nat := do
  let rm ← uRm
  uOp el (fSqrt fp64 rm (decodeF fp64 a))

/-! Every other operation of the engine rounds to nearest-even in every mode (R87): the product of R193, the powers of R198, the sums and
statistics of R199, the catch-up of R201. -/

def nAdd (el a b : Nat) : EngM Nat := uOp el (fAdd fp64 .ne (decodeF fp64 a) (decodeF fp64 b))
def nSub (el a b : Nat) : EngM Nat := uOp el (fSub fp64 .ne (decodeF fp64 a) (decodeF fp64 b))
def nMul (el a b : Nat) : EngM Nat := uOp el (fMul fp64 .ne (decodeF fp64 a) (decodeF fp64 b))
def nDiv (el a b : Nat) : EngM Nat := uOp el (fDiv fp64 .ne (decodeF fp64 a) (decodeF fp64 b))

def uMin (el a b : Nat) : EngM Nat := uOp el (minMaxF fp64 true a b)
def uMax (el a b : Nat) : EngM Nat := uOp el (minMaxF fp64 false a b)

/-- The binary64 code of 1. -/
def oneCode : Nat := 0x3FF0000000000000
/-- A binary64 code is a zero. -/
def isZeroCode (x : Nat) : Bool := fvIsZero (decodeF fp64 x)
/-- A natural number as a binary64 code. -/
def natCode (n : Nat) : Nat := (roundV fp64 .ne (fvInt n)).1

/-- R198: powu, least significant bit first; `bs` lists the bits of the exponent. -/
def powBits (el : Nat) : List Bool → Nat → Nat → EngM Nat
  | [], r, _ => pure r
  | b :: bs, r, x => do
    let r ← if b then nMul el r x else pure r
    let x ← nMul el x x
    powBits el bs r x

/-- The bits of n, lowest first, up to its highest set bit. -/
def bitsOf (n : Nat) : List Bool := if n = 0 then [] else (List.range (Nat.log2 n + 1)).map (bitOf n)

/-- R198: powu. -/
def powu (el b n : Nat) : EngM Nat := powBits el (bitsOf n) oneCode b

/-- R198: 1 / (1 - powu(B, t)), or 1 when the flag is clear. Events of this scalar work count at element 0 (log entry 120). -/
def biasCorr (on : Bool) (b t : Nat) : EngM Nat := do
  if on then
    let p ← powu 0 b t
    let d ← nSub 0 oneCode p
    nDiv 0 oneCode d
  else pure oneCode

/-- R195: an operand read from memory, exactly as binary64; a NaN is read with role 0x4 (R210). -/
def uLoad (el fmt raw : Nat) : EngM Nat := do
  let x := rawValue fmt raw
  let r := roundV fp64 .ne x
  noteEv 0 el 4 0xFFFF { nanRead := fvIsNan x, ieee := r.2.ieee }
  pure r.1

/-- R87, R196: a result converted to a stored format: to nearest-even in every mode. -/
def uStore (el fmt x : Nat) : EngM Nat := do
  let r := convElem fmt .ne (decodeF fp64 x)
  noteEv 0 el 3 0xFFFF r.2
  pure r.1

/-- R195: the scaled gradient. -/
def scaled (slot : Bytes) (el g : Nat) : EngM Nat := uMul el (slotF slot coGS) g

/-- R197: NaN or infinite. -/
def notFinite (x : Nat) : Bool := fvIsNan (decodeF fp64 x) || fvIsInf (decodeF fp64 x)

/-- R195: clip and coupled decay. -/
def clipped (slot : Bytes) (el x p : Nat) : EngM Nat := do
  let gc := slotF slot coGC
  let wc := slotF slot coWC
  let x ← if isZeroCode gc then pure x else do
    let lo ← uMax el x (gc ^^^ 2 ^ 63)
    uMin el lo gc
  if isZeroCode wc then pure x else do
    let t ← uMul el wc p
    uAdd el x t

/-- What the second moment of an element comes from (R195, R199). -/
inductive Second where
  | none
  | plain (v : Nat)
  | factored (r c rbar : Nat)
deriving DecidableEq, Repr

/-- New p, m and v of an element. -/
structure UpOut where
  p : Nat := 0
  m : Nat := 0
  v : Nat := 0
deriving DecidableEq, Repr

/-- R195: the step divisor d, and the new v. -/
def secondPart (slot : Bytes) (el x c2 : Nat) (sec : Second) : EngM (Nat × Nat) := do
  match sec with
  | .none => pure (oneCode, 0)
  | .plain v0 => do
    let a ← uMul el (slotF slot coB2) v0
    let xx ← uMul el x x
    let b ← uMul el (slotF slot coA2) xx
    let v ← uAdd el a b
    let d ← rootPart v
    pure (d, v)
  | .factored r c rbar => do
    let vh ← if isZeroCode rbar then pure 0 else do
      let rc ← uMul el r c
      uDiv el rc rbar
    let d ← rootPart vh
    pure (d, 0)
where
  /-- sqrt of the corrected moment plus EPS. -/
  rootPart (vh : Nat) : EngM Nat := do
    let vh ← if slotFlag slot flBC2 then uMul el vh c2 else pure vh
    let r ← uSqrt el vh
    uAdd el r (slotF slot coEPS)

/-- R195: the recurrence after the scale; c1 and c2 are the bias corrections. -/
def recurrence (slot : Bytes) (el xs p m c1 c2 : Nat) (sec : Second) : EngM UpOut := do
  let x ← clipped slot el xs p
  let m1 ← if slotFlag slot flMOM then do
      let a ← uMul el (slotF slot coB1) m
      let b ← uMul el (slotF slot coA1) x
      uAdd el a b
    else pure m
  let mh ← if slotFlag slot flMOM then (if slotFlag slot flBC1 then uMul el m1 c1 else pure m1) else pure 0
  let dv ← secondPart slot el x c2 sec
  let u ← if isZeroCode dv.1 then pure 0 else do
    let a ← uMul el (slotF slot coK1) mh
    let b ← uMul el (slotF slot coK2) x
    let t ← uAdd el a b
    uDiv el t dv.1
  let w ← uMul el (slotF slot coWD) p
  let t ← uAdd el u w
  let t ← uMul el (slotF slot coLR) t
  let p1 ← uSub el p t
  pure { p := p1, m := m1, v := dv.2 }

/-! ### Operands in memory (R202, R203) -/

/-- Raw codes of elements [i, i + n) of an operand. -/
def readElems (fmt va i n : Nat) : EngM (List Nat) := do
  let w := elemBits fmt
  let bs ← readV (va + i * w / 8) (ceilDiv (i * w % 8 + n * w) 8)
  pure ((List.range n).map fun j => let r := bitField bs (i * w % 8 + j * w) w; if fmt = 6 then r % 64 else r)

/-- Write a run of codes from element i on; a byte of INT4 that the run shares keeps its other half. -/
def writeRun (fmt va i : Nat) (codes : List Nat) : EngM Unit := do
  if codes.isEmpty then pure ()
  else if elemBits fmt = 4 then
    let lead ← if i % 2 = 1 then readElems fmt va (i - 1) 1 else pure []
    let last := i + codes.length
    let tail ← if last % 2 = 1 then readElems fmt va last 1 else pure []
    writeV (va + i / 2) (packElems fmt (lead ++ codes ++ tail))
  else writeV (va + i * (elemBits fmt / 8)) (packElems fmt codes)

/-- Write the elements that are present, run by run; `acc` is the run before element i, newest first. -/
def writeSome (fmt va : Nat) : Nat → List (Option Nat) → List Nat → EngM Unit
  | i, [], acc => writeRun fmt va (i - acc.length) acc.reverse
  | i, some x :: xs, acc => writeSome fmt va (i + 1) xs (x :: acc)
  | i, none :: xs, acc => do
    writeRun fmt va (i - acc.length) acc.reverse
    writeSome fmt va (i + 1) xs []

/-- Bytes of an element block (R82). -/
def blockBytes (fmt : Nat) : Nat := 4 * blockWidth fmt

/-- R203: convert the values of one block from its stored P codes and write it. -/
def writeBlock (c : Cmd) (el va sva : Nat) (codes : List Nat) : EngM Unit := do
  let r := convRun (upP c) (upC c) .ne (codes.map (rawValue (upP c)))
  noteEvs 0 el 3 0xFFFF r.2.2
  writeV va r.1
  writeV sva r.2.1

/-! ### Start (R193, R205, R207) -/

/-- R205: the operands of a command: those it writes and those it reads, as (address, length). -/
def upRanges (c : Cmd) (slot : Bytes) : List (Nat × Nat) × List (Nat × Nat) :=
  let rows := upRows c
  let n := if rows then upNrows c * upWidth c else upOuter c * upInner c
  let mom := slotFlag slot flMOM
  let fac := slotFlag slot flFACTORED
  let blk := isBlock (upC c)
  let nb := if rows then ceilDiv (upWidth c) 32 else ceilDiv (upInner c) 32
  let p := [(upPva c, runBytes (upP c) n)]
  let m := if mom then [(upMva c, runBytes (upM c) n)] else []
  let v := if usesV slot then [(upVva c, runBytes (upV c) (if fac then upOuter c else n))] else []
  let cc := if rows then [(upCva c, 8 * upNrows c)] else if fac then [(upCva c, runBytes (upV c) (upInner c))] else []
  let cp := if !upCopy c then [] else
    let va := if rows then upVa96 c else upVa88 c
    if !blk then [(va, runBytes (upC c) n)]
    else if rows then [(va, upNrows c * (nb * (blockBytes (upC c) + 1)))]
    else [(va, upOuter c * nb * blockBytes (upC c)), (upVa96 c, upOuter c * nb)]
  let pr := if upProg c = 0 then [] else [(upProg c, 8)]
  let g := [(upGva c, runBytes (upG c) (if rows then upCount c * upWidth c else n))]
  let ix := if rows then [(upVa88 c, 4 * upCount c)] else []
  (p ++ m ++ v ++ cc ++ cp ++ pr, g ++ ix)

/-- Some two of the runs overlap. -/
def anyOverlap (s : State) (ctx : Nat) : List (Nat × Nat) → Bool
  | [] => false
  | r :: rs => overlap (extentsOf s ctx [r]) (extentsOf s ctx rs) || anyOverlap s ctx rs

/-- R193, R205, R207: read the slot and GS_VA, check the operands, and find where to start. -/
def upStart (c : Cmd) : EngM (Option (Option W64 × Option Nat)) := do
  let raw ← readV (body c 40 8 + body c 16 1 * 128) 128
  let gs ← if upGs c = 0 then pure (slotF raw coGS) else do
    let f ← readNat (upGs c) 8
    nMul 0 (slotF raw coGS) f
  let slot := raw.take 80 ++ leBytes 8 gs ++ raw.drop 88
  let e ← get
  let rs := upRanges c slot
  if !upFields c slot || anyOverlap e.s e.ctx (rs.1 ++ rs.2) then throw .unpred
  let fac := slotFlag slot flFACTORED
  let w ← if (cmdProg e.s c).replay && decide (upProg c ≠ 0) then readNat (upProg c) 8 else pure 0
  let sw := fac && bitOf w 63
  let from' := if upRows c || !fac || sw then w % 2 ^ 32 else 0
  modS (modProg c.k fun p => { p with
    slot := slot
    sweep2 := sw
    next := from'
    segment := if upRows c then bits w 47 32 else 0
    wrote := 0
    skipped := 0 })
  pure none

/-- R205: update commands at work whose written operands overlap those of this one. -/
def upClashes (s : State) (c : Cmd) : List Cmd :=
  let mine := extentsOf s c.ctx (upRanges c (cmdSlot s c)).1
  s.cmds.filter fun d => decide (d.k ≠ c.k) && decide (d.st = .started) && !d.prog.slot.isEmpty
    && decide (opEngine (cmdOp d) = .update) && overlap mine (extentsOf s d.ctx (upRanges d d.prog.slot).1)

/-! ### Groups (R204) -/

/-- R204, R207: the last write of a group. -/
def writeProgress (c : Cmd) (sweep2 : Bool) (segment next : Nat) : EngM Unit :=
  if upProg c = 0 then pure () else writeNat (upProg c) 8 (b2n sweep2 * 2 ^ 63 + segment * 2 ^ 32 + next)

/-- The progress word as an output. -/
def progOut (c : Cmd) : List (Nat × Nat) := if upProg c = 0 then [] else [(upProg c, 8)]

/-- R204: the bytes of elements [i, i + n) of an operand. -/
def elemArea (fmt va i n : Nat) : Nat × Nat :=
  let w := elemBits fmt
  (va + i * w / 8, ceilDiv (i * w % 8 + n * w) 8)

/-- R204, R210: the outputs of a group of elements from i on, but for COPY. -/
def groupOuts (c : Cmd) (slot : Bytes) (i n : Nat) : List (Nat × Nat) :=
  [elemArea (upP c) (upPva c) i n]
    ++ (if slotFlag slot flMOM then [elemArea (upM c) (upMva c) i n] else [])
    ++ (if slotFlag slot flSECOND && !slotFlag slot flFACTORED then [elemArea (upV c) (upVva c) i n] else []) ++ progOut c

/-- R210: RESULT and DETAIL. -/
def upResult (s : State) (c : Cmd) : Option W64 × Option Nat :=
  let p := cmdProg s c
  (some (BitVec.ofNat 64 p.wrote), some (min p.skipped 0xFFFFFFFF))

/-- R195, R197: one element from its raw codes: none when it is skipped; the answer holds the stored codes of p, m and v. -/
def upElem (c : Cmd) (slot : Bytes) (el p g m v c1 c2 : Nat) (fac : Option (Nat × Nat × Nat)) (catch' : UpOut → EngM UpOut) :
    EngM (Option UpOut) := do
  let mom := slotFlag slot flMOM
  let sec := slotFlag slot flSECOND
  let p0 ← uLoad el (upP c) p
  let g0 ← uLoad el (upG c) g
  let m0 ← if mom then uLoad el (upM c) m else pure 0
  let v0 ← if sec && fac.isNone then uLoad el (upV c) v else pure 0
  let o ← catch' { p := p0, m := m0, v := v0 }
  let xs ← scaled slot el g0
  if slotFlag slot flSKIP && notFinite xs then pure none
  else do
    let second : Second := if !sec then .none else match fac with
      | some f => .factored f.1 f.2.1 f.2.2
      | none => .plain o.v
    let r ← recurrence slot el xs o.p o.m c1 c2 second
    let ps ← uStore el (upP c) r.p
    let ms ← if mom then uStore el (upM c) r.m else pure 0
    let vs ← if sec && fac.isNone then uStore el (upV c) r.v else pure 0
    pure (some { p := ps, m := ms, v := vs })

/-- The raw codes of a run of elements: P, G, M, V. -/
structure UpRow where
  p : Nat := 0
  g : Nat := 0
  m : Nat := 0
  v : Nat := 0
deriving DecidableEq, Repr

/-- Read the operands of a group: elements from `i` on of P, M and V, from `j` on of G. -/
def upRead (c : Cmd) (slot : Bytes) (i j n : Nat) : EngM (List UpRow) := do
  let ps ← readElems (upP c) (upPva c) i n
  let gs ← readElems (upG c) (upGva c) j n
  let ms ← if slotFlag slot flMOM then readElems (upM c) (upMva c) i n else pure []
  let vs ← if slotFlag slot flSECOND && !slotFlag slot flFACTORED then readElems (upV c) (upVva c) i n else pure []
  pure ((List.range n).map fun x => { p := ps.getD x 0, g := gs.getD x 0, m := ms.getD x 0, v := vs.getD x 0 })

/-- The elements of a group in turn: `el` is the element index of the first. -/
def upElems (c : Cmd) (slot : Bytes) (c1 c2 : Nat) (fac : Nat → Option (Nat × Nat × Nat)) (catch' : Nat → UpOut → EngM UpOut) :
    Nat → List UpRow → EngM (List (Option UpOut))
  | _, [] => pure []
  | el, r :: rs => do
    let o ← upElem c slot el r.p r.g r.m r.v c1 c2 (fac el) (catch' el)
    let os ← upElems c slot c1 c2 fac catch' (el + 1) rs
    pure (o :: os)

/-- R203: the new stored P codes of a group, skipped elements keeping theirs. -/
def newP (rows : List UpRow) (os : List (Option UpOut)) : List Nat :=
  (rows.zip os).map fun x => match x.2 with
    | some o => o.p
    | none => x.1.p

/-- R203: COPY of a format other than a block format: elements from i on of the operand, el the index of the first. -/
def copyPlain (c : Cmd) (va el i : Nat) (os : List (Option UpOut)) : EngM Unit := do
  let cs ← conv el os
  writeSome (upC c) va i cs []
where
  /-- The copy's codes. -/
  conv : Nat → List (Option UpOut) → EngM (List (Option Nat))
    | _, [] => pure []
    | el, none :: os => do
      let r ← conv (el + 1) os
      pure (none :: r)
    | el, some o :: os => do
      let x := convElem (upC c) .ne (rawValue (upP c) o.p)
      noteEv 0 el 3 0xFFFF x.2
      let r ← conv (el + 1) os
      pure (some x.1 :: r)

/-- R195, R204: write P, M and V of a group. -/
def upWrite (c : Cmd) (slot : Bytes) (i : Nat) (os : List (Option UpOut)) : EngM Unit := do
  writeSome (upP c) (upPva c) i (os.map fun o => o.map (·.p)) []
  if slotFlag slot flMOM then writeSome (upM c) (upMva c) i (os.map fun o => o.map (·.m)) []
  if slotFlag slot flSECOND && !slotFlag slot flFACTORED then
    writeSome (upV c) (upVva c) i (os.map fun o => o.map (·.v)) []

/-- R210: count a group's elements. -/
def upCounted (c : Cmd) (entries : Nat) (os : List (Option UpOut)) : EngM Unit :=
  let skip := (os.filter fun o => o.isNone).length
  modS (modProg c.k fun p => { p with
    wrote := p.wrote + (if upRows c then entries else os.length - skip), skipped := p.skipped + skip })

/-! ### UPD_RUN -/

/-- R204: elements of a group. -/
def groupSize (c : Cmd) : Nat := 65536 / (elemBits (upP c) / 8)
/-- Elements of an UPD_RUN. -/
def upTotal (c : Cmd) : Nat := upOuter c * upInner c

/-- R203: the blocks of COPY whose last element lies in [a, a + n): their element blocks and scales; `ps` are the group's stored
P codes. Elements of earlier groups come from stored P. -/
def copyBlocks (c : Cmd) (a : Nat) (ps : List Nat) : List Nat → EngM Unit
  | [] => pure ()
  | e :: es => do
    let inner := upInner c
    let i := e % inner
    if i % 32 = 31 ∨ i + 1 = inner then
      let first := e - i % 32
      let old ← if first < a then readElems (upP c) (upPva c) first (a - first) else pure []
      let mine := (ps.drop (first - a)).take (e + 1 - max first a)
      let nb := ceilDiv inner 32
      let b := e / inner * nb + i / 32
      writeBlock c first (upVa88 c + b * blockBytes (upC c)) (upVa96 c + b) (old ++ mine)
    copyBlocks c a ps es

/-- R199: sweep 1 sums of a run of elements from index el on. -/
def sweepSums (c : Cmd) (slot : Bytes) : Nat → List UpRow → List Nat → List Nat → EngM (List Nat × List Nat × Nat)
  | _, [], rs, cs => pure (rs, cs, 0)
  | el, r :: rows, rs, cs => do
    let g ← uLoad el (upG c) r.g
    let p ← if isZeroCode (slotF slot coWC) then pure 0 else uLoad el (upP c) r.p
    let xs ← scaled slot el g
    if slotFlag slot flSKIP && notFinite xs then sweepSums c slot (el + 1) rows rs cs
    else do
      let x ← clipped slot el xs p
      let xx ← nMul el x x
      let t ← nAdd el xx (slotF slot coEPS1)
      let o := el / upInner c
      let i := el % upInner c
      let ro ← nAdd el (rs.getD o 0) t
      let ci ← nAdd el (cs.getD i 0) t
      sweepSums c slot (el + 1) rows (rs.set o ro) (cs.set i ci)

/-- R199: a statistic: B2 x old + A2 x (sum / n), stored in VFMT. -/
def newStat (c : Cmd) (slot : Bytes) (el old sum n : Nat) : EngM Nat := do
  let o ← uLoad el (upV c) old
  let a ← nMul el (slotF slot coB2) o
  let q ← nDiv el sum (natCode n)
  let b ← nMul el (slotF slot coA2) q
  let t ← nAdd el a b
  uStore el (upV c) t

/-- The statistics of a list of (element index, old code, sum). -/
def newStats (c : Cmd) (slot : Bytes) (n : Nat) : List (Nat × Nat × Nat) → EngM (List Nat)
  | [] => pure []
  | x :: xs => do
    let a ← newStat c slot x.1 x.2.1 x.2.2 n
    let as ← newStats c slot n xs
    pure (a :: as)

/-- R199: a group of sweep 1, or the commit of R and C after the last one. -/
def sweep1Work (c : Cmd) (slot : Bytes) (p : Progress) : EngM Unit := do
  let a := p.next * groupSize c
  if a < upTotal c then
    let n := min (groupSize c) (upTotal c - a)
    let gs ← readElems (upG c) (upGva c) a n
    let ps ← if isZeroCode (slotF slot coWC) then pure [] else readElems (upP c) (upPva c) a n
    let rows := (List.range n).map fun x => ({ p := ps.getD x 0, g := gs.getD x 0 } : UpRow)
    let rs := if p.next = 0 then List.replicate (upOuter c) 0 else p.rs.map (·.toNat)
    let cs := if p.next = 0 then List.replicate (upInner c) 0 else p.cs.map (·.toNat)
    let t ← sweepSums c slot a rows rs cs
    modS (modProg c.k fun q => { q with
      next := p.next + 1, rs := t.1.map (BitVec.ofNat 64), cs := t.2.1.map (BitVec.ofNat 64) })
  else
    setCommit ([(upVva c, runBytes (upV c) (upOuter c)), (upCva c, runBytes (upV c) (upInner c))] ++ progOut c)
    let ro ← readElems (upV c) (upVva c) 0 (upOuter c)
    let co ← readElems (upV c) (upCva c) 0 (upInner c)
    let r ← newStats c slot (upInner c)
      ((List.range (upOuter c)).map fun o => (o * upInner c, ro.getD o 0, (p.rs.getD o 0).toNat))
    let cc ← newStats c slot (upOuter c)
      ((List.range (upInner c)).map fun i => (i, co.getD i 0, (p.cs.getD i 0).toNat))
    unlessTrapped do
      writeRun (upV c) (upVva c) 0 r
      writeRun (upV c) (upCva c) 0 cc
      writeProgress c true 0 0
    modS (modProg c.k fun q => { q with sweep2 := true, next := 0, rs := [], cs := [] })

/-- R199: r and c as stored, as binary64. -/
def loadStats (c : Cmd) (els : List Nat) (raw : List Nat) : EngM (List Nat) :=
  match els, raw with
  | e :: es, x :: xs => do
    let a ← uLoad e (upV c) x
    let as ← loadStats c es xs
    pure (a :: as)
  | _, _ => pure []

/-- The sum of a list in order, each addition rounded. -/
def sumCodes : List Nat → EngM Nat
  | [] => pure 0
  | x :: xs => add x xs
where
  /-- Add the rest to a. -/
  add (a : Nat) : List Nat → EngM Nat
    | [] => pure a
    | x :: xs => do
      let t ← nAdd 0 a x
      add t xs

/-- R199: r, c and rbar of sweep 2. -/
def factors (c : Cmd) : EngM (List Nat × List Nat × Nat) := do
  let ro ← readElems (upV c) (upVva c) 0 (upOuter c)
  let co ← readElems (upV c) (upCva c) 0 (upInner c)
  let r ← loadStats c ((List.range (upOuter c)).map (· * upInner c)) ro
  let cc ← loadStats c (List.range (upInner c)) co
  let t ← sumCodes r
  let rbar ← nDiv 0 t (natCode (upOuter c))
  pure (r, cc, rbar)

/-- R203, R210: where COPY of elements [a, a + n) goes: the blocks whose last element lies there. -/
def copyOuts (c : Cmd) (a n : Nat) : List (Nat × Nat) :=
  let inner := upInner c
  if !upCopy c then []
  else if isBlock (upC c) then
    ((List.range n).map (· + a)).flatMap fun e =>
      let i := e % inner
      if i % 32 = 31 ∨ i + 1 = inner then
        let b := e / inner * ceilDiv inner 32 + i / 32
        [(upVa88 c + b * blockBytes (upC c), blockBytes (upC c)), (upVa96 c + b, 1)]
      else []
  else [elemArea (upC c) (upVa88 c) a n]

/-- R195, R203, R204: a group of UPD_RUN: its writes come after the whole of it is computed, unless it traps. -/
def runGroup (c : Cmd) (slot : Bytes) (p : Progress) : EngM Unit := do
  let a := p.next * groupSize c
  let n := min (groupSize c) (upTotal c - a)
  setCommit (groupOuts c slot a n ++ copyOuts c a n)
  let c1 ← biasCorr (slotFlag slot flBC1) (slotF slot coB1) (upStep c)
  let c2 ← biasCorr (slotFlag slot flBC2) (slotF slot coB2) (upStep c)
  let fac := slotFlag slot flFACTORED
  let f ← if fac then factors c else pure ([], [], 0)
  let rows ← upRead c slot a a n
  let os ← upElems c slot c1 c2 (fun el => if fac then
    some (f.1.getD (el / upInner c) 0, f.2.1.getD (el % upInner c) 0, f.2.2) else none) (fun _ o => pure o) a rows
  if upCopy c then
    if isBlock (upC c) then copyBlocks c a (newP rows os) ((List.range n).map (· + a))
    else copyPlain c (upVa88 c) a a os
  unlessTrapped do
    upWrite c slot a os
    writeProgress c fac 0 (p.next + 1)
    upCounted c 0 os
    modS (modProg c.k fun q => { q with next := p.next + 1 })

/-- One unit of work of an UPD_RUN: its start, a group of sweep 1, or a group; it ends with the last group. -/
def runUnit (c : Cmd) : EngM (Option (Option W64 × Option Nat)) := do
  let s ← getS
  let p := cmdProg s c
  let slot := p.slot
  if slot.isEmpty then upStart c
  else if slotFlag slot flFACTORED && !p.sweep2 then do
    sweep1Work c slot p
    pure none
  else do
    if p.next * groupSize c < upTotal c then runGroup c slot p
    let s ← getS
    if (cmdProg s c).next * groupSize c < upTotal c then pure none else pure (some (upResult s c))

/-! ### UPD_ROWS -/

/-- R204: segments of an entry. -/
def segments (c : Cmd) : Nat := ceilDiv (upWidth c) 8192

/-- R201: the catch-up factors of a touch: of m, v and p, where they apply. -/
def catchUp (slot : Bytes) (delta : Nat) (el : Nat) (o : UpOut) : EngM UpOut := do
  let m ← if slotFlag slot flCM && slotFlag slot flMOM then do
      let f ← powu el (slotF slot coB1) delta
      nMul el f o.m
    else pure o.m
  let v ← if slotFlag slot flCV && slotFlag slot flSECOND then do
      let f ← powu el (slotF slot coB2) delta
      nMul el f o.v
    else pure o.v
  let p ← if slotFlag slot flCD then do
      let t ← nMul el (slotF slot coLR) (slotF slot coWD)
      let b ← nSub el oneCode t
      let f ← powu el b delta
      nMul el f o.p
    else pure o.p
  pure { p := p, m := m, v := v }

/-- R203: COPY of a row's elements from element i on, in the row's slot. -/
def rowCopy (c : Cmd) (el j i : Nat) (rows : List UpRow) (os : List (Option UpOut)) : EngM Unit := do
  if isBlock (upC c) then
    let nb := ceilDiv (upWidth c) 32
    let base := upVa96 c + j * (nb * (blockBytes (upC c) + 1))
    let bs := chunks 32 (newP rows os)
    ((List.range bs.length).zip bs).forM fun x =>
      let b := i / 32 + x.1
      writeBlock c (el + 32 * x.1) (base + b * blockBytes (upC c)) (base + nb * blockBytes (upC c) + b) x.2
  else copyPlain c (upVa96 c) el (j * upWidth c + i) os

/-- R201, R206: row and count word of the list entry at work; the command keeps them from its first segment on. -/
def rowEntry (c : Cmd) (p : Progress) : EngM (Nat × Nat) :=
  match p.entry with
  | some x => pure x
  | none => do
    let j ← readNat (upVa88 c + 4 * p.next) 4
    if upNrows c ≤ j then throw .unpred
    let cw ← readNat (upCva c + 8 * j) 8
    pure (j, cw)

/-- R203, R210: where COPY of n elements of row j from element i on goes. -/
def rowOuts (c : Cmd) (j i n : Nat) : List (Nat × Nat) :=
  if !upCopy c then []
  else if isBlock (upC c) then
    let nb := ceilDiv (upWidth c) 32
    let base := upVa96 c + j * (nb * (blockBytes (upC c) + 1))
    [(base + i / 32 * blockBytes (upC c), ceilDiv n 32 * blockBytes (upC c)), (base + nb * blockBytes (upC c) + i / 32, ceilDiv n 32)]
  else [elemArea (upC c) (upVa96 c) (j * upWidth c + i) n]

/-- R200, R201, R204: one segment of one list entry: its writes come after the whole of it is computed, unless it traps. -/
def rowsSegment (c : Cmd) (slot : Bytes) (p : Progress) : EngM Unit := do
  let e := p.next
  let jc ← rowEntry c p
  let j := jc.1
  let cw := jc.2
  let cnt := cw % 2 ^ 32
  let gap := (upStep c + 2 ^ 32 - cw / 2 ^ 32) % 2 ^ 32
  if 2 ^ 31 ≤ gap then throw .unpred
  let delta := if cnt ≠ 0 ∧ gap ≠ 0 then gap - 1 else 0
  let new := min (cnt + 1) 0xFFFFFFFF
  let c1 ← biasCorr (slotFlag slot flBC1) (slotF slot coB1) new
  let c2 ← biasCorr (slotFlag slot flBC2) (slotF slot coB2) new
  let i := 8192 * p.segment
  let n := min 8192 (upWidth c - i)
  let last := p.segment + 1 = segments c
  let el := e * upWidth c + i
  setCommit (groupOuts c slot (j * upWidth c + i) n ++ rowOuts c j i n ++ if last then [(upCva c + 8 * j, 8)] else [])
  let rows ← upRead c slot (j * upWidth c + i) el n
  let os ← upElems c slot c1 c2 (fun _ => none) (catchUp slot delta) el rows
  if upCopy c then rowCopy c el j i rows os
  unlessTrapped do
    upWrite c slot (j * upWidth c + i) os
    if last then writeNat (upCva c + 8 * j) 8 (upStep c * 2 ^ 32 + new)
    writeProgress c false (if last then 0 else p.segment + 1) (if last then e + 1 else e)
    upCounted c (if last then 1 else 0) os
    modS (modProg c.k fun q => { q with
      next := if last then e + 1 else e, segment := if last then 0 else p.segment + 1, entry := if last then none else some jc })

/-- One unit of work of an UPD_ROWS: its start or a segment; it ends with the last one. -/
def rowsUnit (c : Cmd) : EngM (Option (Option W64 × Option Nat)) := do
  let s ← getS
  let p := cmdProg s c
  if p.slot.isEmpty then upStart c
  else do
    if p.next < upCount c then rowsSegment c p.slot p
    let s ← getS
    if (cmdProg s c).next < upCount c then pure none else pure (some (upResult s c))

/-! ### The commands -/

/-- R205, R388: one unit of work of a command still at work; each restarts the watchdog. -/
def upUnit (work : Cmd → EngM (Option (Option W64 × Option Nat))) (k : Nat) (s : State) : State :=
  match findCmd s k with
  | none => s
  | some c =>
    if c.st ≠ .started then s
    else
      let cl := upClashes s c
      if !c.prog.slot.isEmpty && !cl.isEmpty then
        (c :: cl).foldl (fun s d => unpredictable d s) s
      else runWatched c false (work c) s

/-- Units of work that are left at most: the start, the groups of both sweeps, and R and C. -/
def upLeft (c : Cmd) : Nat :=
  if upRows c then 1 + upCount c * segments c else 2 + 2 * ceilDiv (upTotal c) (max 1 (groupSize c))

/-- R204, R206: the units of work that are left, or a part of them. -/
def upAll (work : Cmd → EngM (Option (Option W64 × Option Nat))) (c : Cmd) (s : State) : State :=
  let n := workBudget s c.k (upLeft c)
  repeatWork (upUnit work c.k) n { s with free := s.free + 1 }

/-- R192, R208: alignments and reserved bits that need no slot. -/
def upLegal (c : Cmd) : Bool :=
  decide (body c 16 1 < 64) && decide (body c 23 1 < 2) && body c 40 8 % 128 == 0 && upProg c % 8 == 0

/-- UPD_RUN (R195-R199, R204, R208, R210). -/
def execUpdRun (k : Nat) (s : State) : Host.Outcome State Fault Refusal :=
  .next (runOp k 0x40 1 [(16, 1), (18, 10), (32, 88)] upLegal (upAll runUnit) s)

/-- UPD_ROWS (R195-R198, R200, R201, R204, R209, R210). -/
def execUpdRows (k : Nat) (s : State) : Host.Outcome State Fault Refusal :=
  .next (runOp k 0x41 1 [(16, 1), (18, 14), (32, 88)] upLegal (upAll rowsUnit) s)

end Sys2Proof.Machine
end

