-- ==== Sys2Proof/Machine/Solver.lean ====
section
/-!
DEFINITION. The commands of the Solver Engine (R211-R249): pattern images, values, factorizations, solves and summaries.
-/
namespace Sys2Proof.Machine

/-! ### Words of a format -/

/-- Bytes of a format's word. -/
def qBytes (code : Nat) : Nat := qWidth code / 8

/-- R221: n words of a format. -/
def readWords (code va n : Nat) : EngM (List Int) := do
  let bs ← readV va (n * qBytes code)
  pure ((chunks (qBytes code) bs).map fun b => signed (qWidth code) (leNat b))

/-- The bytes of words of a format. -/
def wordBytes (code : Nat) (xs : List Int) : Bytes := xs.flatMap fun x => leBytes (qBytes code) (wrapInt (qWidth code) x)

/-- R213: a QF value sign-extended to 64 bits. -/
def qfField (qf raw : Nat) : Bool := let v := signed 64 raw; decide (-qMax qf - 1 ≤ v) && decide (v ≤ qMax qf)

/-- n free bytes. -/
def freeBytes (n : Nat) : EngM Bytes := do
  let e ← get
  set { e with s := { e.s with free := e.s.free + 1 } }
  pure ((List.range n).map fun i => Config.freeByte e.s.free i)

/-- A free word. -/
def freeWord : EngM W64 := do
  let e ← get
  set { e with s := { e.s with free := e.s.free + 1 } }
  pure (Config.freeW64 e.s.free 0)

/-! ### Pattern images (R213-R216) -/

/-- R213 MAGIC. -/
def imgMagic : Nat := 0x9E375C01

/-- R213 PIMG_BYTES. -/
def imgBytes (n nnz : Nat) : Nat := roundUp 64 (280 + 32 * n + 8 * nnz)

/-- The model's layout of an image from byte 72 on (log entry 28). -/
def maskFrom (off : Nat) (bs : Bytes) : Bytes :=
  ((List.range bs.length).zip bs).map fun b => b.2 ^^^ Config.imageMask (off + b.1)

/-- Rows from row pointers and column indices: (position, column) of each entry. -/
def rowsOf (ptrs cols : List Nat) : List (List (Nat × Nat)) :=
  (ptrs.zip (ptrs.drop 1)).map fun ab => ((List.range (ab.2 - ab.1)).map (· + ab.1)).zip ((cols.drop ab.1).take (ab.2 - ab.1))

/-- Strictly rising. -/
def risingNat : List Nat → Bool
  | a :: b :: l => decide (a < b) && risingNat (b :: l)
  | _ => true

/-- R213, R216: a structure that SLV_PATTERN accepts. -/
def structOk (n nnz : Nat) (ptrs cols : List Nat) : Bool :=
  decide (ptrs.length = n + 1) && decide (cols.length = nnz) && ptrs.head? == some 0 && ptrs.getLast? == some nnz
    && ((ptrs.zip (ptrs.drop 1)).all fun ab => decide (ab.1 ≤ ab.2))
    && ((rowsOf ptrs cols).all fun r => risingNat (r.map (·.2)) && r.all fun e => decide (e.2 < n))

/-- Level of each row, from row 0 on: 1 more than the highest level among the rows that it needs. -/
def levelsFrom (need : Nat → List Nat) : List Nat → List Nat → List Nat
  | [], ls => ls
  | i :: is, ls => levelsFrom need is (ls.set i (1 + ((need i).map fun j => ls.getD j 0).foldl max 0))

/-- R213 LEVELS_L: rows need their entries left of the diagonal. -/
def levelsL (n : Nat) (rows : List (List (Nat × Nat))) : Nat :=
  (levelsFrom (fun i => ((rows.getD i []).map (·.2)).filter fun j => decide (j < i)) (List.range n)
    (List.replicate n 0)).foldl max 0

/-- R213 LEVELS_U. -/
def levelsU (n : Nat) (rows : List (List (Nat × Nat))) : Nat :=
  (levelsFrom (fun i => ((rows.getD i []).map (·.2)).filter fun j => decide (i < j)) (List.range n).reverse
    (List.replicate n 0)).foldl max 0

/-- R213 OPS_ILU: the multiplications of R225. -/
def opsIlu (p : Pat) : Nat :=
  ((List.range p.n).map fun i =>
    ((p.rows.getD i []).map fun e => if e.2 < i then (iluTerms p i e.2 e.2).length + 1
      else if i < e.2 then (iluTerms p i e.2 i).length else 0).sum + (iluTerms p i i i).length).sum

/-- R213 OPS_IC. -/
def opsIc (p : Pat) : Nat :=
  ((List.range p.n).map fun i => (((p.rows.getD i []).filter fun e => decide (e.2 < i)).map fun e =>
    (icTerms p i e.2).length + 2).sum).sum

/-- R214 FPRINT. -/
def fprintOf (n nnz qv : Nat) (struct : Bytes) : Nat :=
  (crc64 (leBytes 4 n ++ leBytes 4 nnz ++ struct ++ leBytes 1 qv)).toNat

/-- R213: header fields of a pattern, without its structure. -/
def patHead (h : Bytes) : Pat :=
  { n := field h 16 4, nnz := field h 20 4, gen := field h 4 4, fprint := field h 8 8, nnzL := field h 24 4,
    levelsL := field h 28 4, levelsU := field h 32 4, opsIlu := field h 36 4, opsIc := field h 40 4,
    qa := field h 44 1, qv := field h 45 1, qs := field h 46 1, qf := field h 47 1, fault := bitOf (field h 48 1) 0,
    tau := signed 64 (field h 56 8), delta := signed 64 (field h 64 8) }

/-- R213, R217: the header of a valid image. -/
def headOk (h : Bytes) : Bool :=
  let p := patHead h
  field h 0 4 == imgMagic && decide (1 ≤ p.n) && decide (p.n ≤ 65536) && decide (1 ≤ p.nnz) && decide (p.nnz ≤ 16777216)
    && qFormats p.qa p.qv p.qs p.qf && decide (field h 48 1 < 2) && field h 49 7 == 0
    && qfField p.qf (field h 56 8) && qfField p.qf (field h 64 8) && decide (0 ≤ p.tau)

/-- R213, R216: read a pattern image. One that SLV_PATTERN did not leave is unpredictable. -/
def readPattern (va : Nat) : EngM Pat := do
  let h ← readV va 72
  if !headOk h || va % 64 != 0 then throw .unpred
  let p := patHead h
  let raw ← readV (va + 72) (4 * (p.n + 1 + p.nnz))
  let ws := (chunks 4 (maskFrom 72 raw)).map leNat
  let ptrs := ws.take (p.n + 1)
  let cols := ws.drop (p.n + 1)
  if structOk p.n p.nnz ptrs cols then pure { p with rows := rowsOf ptrs cols } else throw .unpred

/-- R245: the fields of SLV_PATTERN. -/
def slpLegal (c : Cmd) : Bool :=
  let qf := body c 51 1
  decide (1 ≤ body c 16 4) && decide (body c 16 4 ≤ 65536) && decide (1 ≤ body c 20 4) && decide (body c 20 4 ≤ 16777216)
    && body c 40 8 % 64 == 0 && qFormats (body c 48 1) (body c 49 1) (body c 50 1) qf && decide (body c 52 1 < 2)
    && qfField qf (body c 56 8) && qfField qf (body c 64 8) && decide (0 ≤ signed 64 (body c 56 8))

/-- R213-R215: the image of a structure, from its bytes. -/
def imageOf (c : Cmd) (gen : Nat) (rp ci : Bytes) : Bytes :=
  let n := body c 16 4
  let nnz := body c 20 4
  let rows := rowsOf ((chunks 4 rp).map leNat) ((chunks 4 ci).map leNat)
  let p : Pat := { n := n, nnz := nnz, rows := rows }
  let low := ((List.range n).zip rows).foldl (fun t ir => t + (ir.2.filter fun e => decide (e.2 ≤ ir.1)).length) 0
  let head := leBytes 4 imgMagic ++ leBytes 4 gen ++ leBytes 8 (fprintOf n nnz (body c 49 1) (rp ++ ci)) ++ leBytes 4 n ++ leBytes 4 nnz
    ++ leBytes 4 low ++ leBytes 4 (levelsL n rows) ++ leBytes 4 (levelsU n rows) ++ leBytes 4 (opsIlu p) ++ leBytes 4 (opsIc p)
    ++ leBytes 4 (body c 48 4) ++ leBytes 1 (body c 52 1) ++ List.replicate 7 0
    ++ leBytes 8 (body c 56 8) ++ leBytes 8 (body c 64 8)
  head ++ maskFrom 72 (padTo (imgBytes n nnz - 72) (rp ++ ci))

/-- The command's kept state now. -/
def slProg (c : Cmd) : EngM Progress := do
  let s ← getS
  pure (cmdProg s c)

/-- Change the command's kept state. -/
def keepSl (c : Cmd) (f : Progress → Progress) : EngM Unit := modS (modProg c.k f)

/-- R243, R244: image bytes that SLV_PATTERN makes in a block of 8,192 engine cycles, at about 4 of its NNZ + 4 N units of 8 bytes a
cycle (log entry 127). -/
def slpPiece : Nat := 262144

/-- R243: blocks of an SLV_PATTERN that are left. -/
def slpLeft (c : Cmd) : Nat := ceilDiv (imgBytes (body c 16 4) (body c 20 4)) slpPiece - c.prog.next

/-- R213-R215, R243: one block of an SLV_PATTERN: the next piece of the image. The first one raises GEN. RESULT holds the new GEN, DETAIL
the low 32 bits of FPRINT. -/
def slpWork (c : Cmd) : EngM (Option (Option W64 × Option Nat)) := do
  let n := body c 16 4
  let nnz := body c 20 4
  let va := body c 40 8
  let rp ← readV (body c 24 8) (4 * (n + 1))
  let ci ← readV (body c 32 8) (4 * nnz)
  if !structOk n nnz ((chunks 4 rp).map leNat) ((chunks 4 ci).map leNat) then throw .unpred
  let q ← slProg c
  let gen ← if q.next = 0 then do
      let old ← readV va 8
      pure (if field old 0 4 = imgMagic then (if field old 4 4 = 0xFFFFFFFF then 1 else field old 4 4 + 1) else 1)
    else pure q.wrote
  let o := q.next * slpPiece
  writeV (va + o) (((imageOf c gen rp ci).drop o).take slpPiece)
  keepSl c fun p => { p with next := q.next + 1, wrote := gen }
  pure (if o + slpPiece < imgBytes n nnz then none
    else some (some (BitVec.ofNat 64 gen), some (fprintOf n nnz (body c 49 1) (rp ++ ci) % 2 ^ 32)))

/-! ### System lists (R238) -/

/-- R238: a descriptor. -/
structure SysD where
  pimg : Nat := 0
  val : Nat := 0
  b : Nat := 0
  ws : Nat := 0
  fact : Nat := 0
  stat : Nat := 0
  xf : Nat := 0
deriving DecidableEq, Repr

/-- R238: the fields of a descriptor's bytes. -/
def sysOf (d : Bytes) : SysD :=
  { pimg := field d 0 8, val := field d 8 8, b := field d 16 8, ws := field d 24 8, fact := field d 32 8, stat := field d 40 8,
    xf := field d 48 8 }

/-- R238: system idx of a list. -/
def readSys (list idx : Nat) : EngM SysD := do
  let d ← readV (list + 64 * idx) 64
  if field d 56 8 ≠ 0 then throw .unpred
  pure (sysOf d)

/-! ### SLV_VALUES (R222, R246) -/

def svlRhs (c : Cmd) : Bool := bitOf (body c 16 1) 0
def svlFull (c : Cmd) : Bool := bitOf (body c 16 1) 1
def svlFmt (c : Cmd) : Nat := body c 17 1
/-- Format and count of the destination. -/
def svlDest (c : Cmd) (p : Pat) : Nat × Nat := if svlRhs c then (p.qv, p.n) else (p.qa, p.nnz)

/-- R246: the fields. SRC_STRIDE and FIRST_SYS have a meaning in FULL mode alone; DELTA ignores them. -/
def svlLegal (c : Cmd) : Bool :=
  decide (body c 16 1 < 4) && decide (svlFmt c < 4)
    && (!svlFull c || decide (1 ≤ body c 20 4) && decide (body c 20 4 ≤ 65536))

/-- R219, R222: one source value as a word of the destination, with its events; STRICT_754 adds none here. -/
def svlWord (c : Cmd) (code elem raw : Nat) : EngM Int := do
  let r := toQ (qWidth code) (qFrac code) .ne (rawValue (svlFmt c) raw)
  noteEv 0 elem (if r.2.nanRead || r.2.nanMade then 4 else 3) 0xFFFF { r.2 with ieee := 0 }
  pure r.1

/-- R222: a run of source values. -/
def svlWords (c : Cmd) (code : Nat) : Nat → List Nat → EngM (List Int)
  | _, [] => pure []
  | el, x :: xs => do
    let w ← svlWord c code el x
    let ws ← svlWords c code (el + 1) xs
    pure (w :: ws)

/-- R222, R243: entries or elements that SLV_VALUES writes in a block of 8,192 engine cycles, at 16 a cycle (log entry 127). -/
def svlBlock : Nat := 131072

/-- R222 FULL: a block of the system at which the command is: its elements from number `segment` on. -/
def svlFullBlock (c : Cmd) : EngM Unit := do
  let q ← slProg c
  let idx := body c 44 4 + q.next
  let d ← readSys (body c 24 8) idx
  let p ← readPattern d.pimg
  let dst := svlDest c p
  let w := elemBits (svlFmt c) / 8
  let n := min svlBlock (dst.2 - q.segment)
  let src ← readV (body c 32 8 + q.next * body c 40 4 + q.segment * w) (n * w)
  let xs ← svlWords c dst.1 (idx * 2 ^ 32 + q.segment) ((chunks w src).map leNat)
  unlessTrapped (writeV ((if svlRhs c then d.b else d.val) + q.segment * qBytes dst.1) (wordBytes dst.1 xs))
  keepSl c fun p => if q.segment + n < dst.2 then { p with segment := q.segment + n, wrote := p.wrote + n }
    else { p with next := p.next + 1, segment := 0, wrote := p.wrote + n }

/-- R222 DELTA: one entry. -/
def svlEntry (c : Cmd) (i : Nat) : EngM Unit := do
  let e ← readV (body c 32 8 + 16 * i) 16
  let w := elemBits (svlFmt c) / 8
  if field e (8 + w) (8 - w) ≠ 0 then throw .unpred
  let d ← readSys (body c 24 8) (field e 0 4)
  let p ← readPattern d.pimg
  let dst := svlDest c p
  if dst.2 ≤ field e 4 4 then throw .unpred
  let x ← svlWord c dst.1 i (field e 8 w)
  unlessTrapped (writeV ((if svlRhs c then d.b else d.val) + field e 4 4 * qBytes dst.1) (wordBytes dst.1 [x]))

/-- R222 DELTA: a block of entries, in list order. -/
def svlDeltaBlock (c : Cmd) : EngM Unit := do
  let q ← slProg c
  let n := min svlBlock (body c 20 4 - q.next)
  (List.range n).forM fun i => unlessTrapped (svlEntry c (q.next + i))
  keepSl c fun p => { p with next := p.next + n, wrote := p.wrote + n }

/-- R243: blocks of an SLV_VALUES that are left, at most: a system of FULL mode has up to 16,777,216 values. -/
def svlLeft (c : Cmd) : Nat := if svlFull c then 128 * (body c 20 4 - c.prog.next) else max 1 (ceilDiv (body c 20 4 - c.prog.next) svlBlock)

/-! ### Fields of SLV_FACTOR and SLV_SOLVE (R247, R248) -/

def slFac (c : Cmd) : Bool := cmdOp c == 0x52
def slPrec (c : Cmd) : Nat := if slFac c then body c 16 1 else body c 18 1
def slBs (c : Cmd) : Nat := if slFac c then body c 17 1 else body c 21 1
def slFirst (c : Cmd) : Nat := if slFac c then body c 28 4 else body c 64 4
def slCount (c : Cmd) : Nat := body c 24 4
def slList (c : Cmd) : Nat := body c 32 8
def slMethod (c : Cmd) : Nat := bits (body c 16 1) 1 0
def slGm (c : Cmd) : Nat := body c 17 1
def slWarm (c : Cmd) : Bool := bitOf (body c 19 1) 0
def slTr (c : Cmd) : Bool := bitOf (body c 19 1) 1
/-- The command factors its systems. -/
def slFactor (c : Cmd) : Bool := (slFac c || bitOf (body c 19 1) 2) && slPrec c != 0
def slXf (c : Cmd) : Bool := bitOf (body c 19 1) 3
def slDeadline (c : Cmd) : W64 := BitVec.ofNat 64 (body c 40 8)
def slTag (c : Cmd) : Nat := body c 68 4

/-- PREC, BS and COUNT. -/
def slPrecOk (c : Cmd) (lo : Nat) : Bool :=
  decide (lo ≤ slPrec c) && decide (slPrec c ≤ 4)
    && (if slPrec c = 2 then decide (1 ≤ slBs c) && decide (slBs c ≤ 12) else slBs c == 0)
    && decide (1 ≤ slCount c) && decide (slCount c ≤ 65536)

/-- R248: a tolerance of at least 0. -/
def tolOk (code : Nat) : Bool := let x := decodeF fp64 code; !fvIsNan x && !fvLt x fvZero

/-- A tolerance as an exact value; none for +infinity. -/
def tolOf (code : Nat) : Option Dy :=
  match decodeF fp64 code with
  | .fin n m e => some { m := if n then -(m : Int) else m, e := e }
  | _ => none

/-- R248: the fields of SLV_SOLVE. -/
def slvLegal (c : Cmd) : Bool :=
  decide (body c 16 1 < 4) && (if slMethod c = 3 then decide (1 ≤ slGm c) && decide (slGm c ≤ 32) else slGm c == 0)
    && slPrecOk c 0 && decide (body c 19 1 < 16) && decide (body c 20 1 < 2) && decide (1 ≤ body c 28 4)
    && tolOk (body c 48 8) && tolOk (body c 56 8) && body c 72 8 % 64 == 0

/-! ### Areas (R242) -/

/-- R242: what a command reads and writes for a system: runs of virtual addresses. -/
def slAreas (s : State) (c : Cmd) (idx : Nat) : List (Nat × Nat) × List (Nat × Nat) :=
  match ctxPeek s c.ctx 3 (slList c + 64 * idx) 64 with
  | none => ([], [])
  | some db =>
    let d := sysOf db
    match ctxPeek s c.ctx 3 d.pimg 72 with
    | none => ([], [])
    | some h =>
      let p := patHead h
      let wv := qBytes p.qv
      let fact := (d.fact, factSize p (slPrec c) (slBs c))
      let img := [(d.pimg, imgBytes p.n p.nnz), (d.val, p.nnz * qBytes p.qa)]
      let img := (slList c + 64 * idx, 64) :: img
      if slFac c then (img, [fact])
      else
        (img ++ [(d.b, p.n * wv)] ++ (if slPrec c ≠ 0 ∧ slFactor c = false then [fact] else []),
         [(d.ws, 16 + p.n * wv), (d.stat, 32)] ++ (if slXf c then [(d.xf, p.n * (if body c 20 1 = 0 then 8 else 4))] else [])
          ++ (if slFactor c then [fact] else []))

/-- R212, R242: the work region of an SLV_SOLVE, an area per lane. -/
def workRegion (c : Cmd) : List (Nat × Nat) :=
  if slFac c || body c 72 8 == 0 then [] else [(body c 72 8, 16 * body c 80 4)]

/-- R242: what a solver command reads and writes. -/
def slvRuns (s : State) (c : Cmd) : List (Nat × Nat) × List (Nat × Nat) :=
  if cmdOp c = 0x50 then
    ([(body c 24 8, 4 * (body c 16 4 + 1)), (body c 32 8, 4 * body c 20 4)], [(body c 40 8, imgBytes (body c 16 4) (body c 20 4))])
  else if cmdOp c = 0x52 ∨ cmdOp c = 0x53 then
    let as := (List.range (slCount c)).map fun i => slAreas s c (slFirst c + i)
    (as.flatMap (·.1), as.flatMap (·.2) ++ workRegion c)
  else if cmdOp c = 0x51 then
    let n := body c 20 4
    let at' := fun (idx : Nat) => match ctxPeek s c.ctx 3 (body c 24 8 + 64 * idx) 64 with
      | none => (({} : SysD), ({} : Pat))
      | some db => (sysOf db, match ctxPeek s c.ctx 3 (sysOf db).pimg 72 with
        | some h => patHead h
        | none => {})
    let base := fun (d : SysD) => if svlRhs c then d.b else d.val
    let list := fun (idx : Nat) => (body c 24 8 + 64 * idx, 64)
    let image := fun (dp : SysD × Pat) => (dp.1.pimg, imgBytes dp.2.n dp.2.nnz)
    if svlFull c then
      let is := (List.range n).map (body c 44 4 + ·)
      let ws := (List.range n).map fun i =>
        let dp := at' (body c 44 4 + i)
        let t := svlDest c dp.2
        (base dp.1, t.2 * qBytes t.1)
      (((List.range n).map fun i =>
          (body c 32 8 + i * body c 40 4, (svlDest c (at' (body c 44 4 + i)).2).2 * (elemBits (svlFmt c) / 8)))
        ++ is.map list ++ is.map fun i => image (at' i), ws)
    else
      let is := (List.range n).map fun i => field ((ctxPeek s c.ctx 3 (body c 32 8 + 16 * i) 4).getD []) 0 4
      ((body c 32 8, 16 * n) :: (is.map list ++ is.map fun i => image (at' i)), (List.range n).map fun i =>
        let e := (ctxPeek s c.ctx 3 (body c 32 8 + 16 * i) 8).getD []
        let dp := at' (field e 0 4)
        let w := qBytes (svlDest c dp.2).1
        (base dp.1 + field e 4 4 * w, w))
  else
    ((body c 32 8 + 64 * body c 28 4, 64 * body c 24 4) :: (List.range (body c 24 4)).map fun i =>
       (match ctxPeek s c.ctx 3 (body c 32 8 + 64 * (body c 28 4 + i)) 64 with
        | some d => (field d 40 8, 32)
        | none => (0, 0)), [(body c 40 8, 64)])

/-- R242: what a command of another engine, at work beside a solver command, reads and writes: those of the movers and of the Update
Engine name it whole (log entry 128). -/
def otherRuns (s : State) (c : Cmd) : List (Nat × Nat) × List (Nat × Nat) :=
  let rows := fun (va stride len n : Nat) => rowRuns va stride len n
  let named := fun (_ : Unit) =>
    let bs := (ctxPeek s c.ctx 3 (body c 32 8) (4 * grCount c)).getD []
    (List.range (grCount c)).map fun e => (grRowVa c (field bs (4 * e) 4), grBytes c)
  match cmdOp c with
  | 0x10 => cpRuns c
  | 0x11 => (rows (body c 32 8) (body c 48 4) (body c 24 4 * ctSize c) (body c 20 4),
      rows (body c 40 8) (body c 52 4) (body c 20 4 * ctSize c) (body c 24 4))
  | 0x12 => ((body c 32 8, 4 * grCount c) :: named (), [(body c 40 8, grCount c * grBytes c)])
  | 0x13 => ([(body c 32 8, 4 * grCount c), (body c 40 8, grCount c * grBytes c)], named ())
  | 0x40 | 0x41 => let r := upRanges c c.prog.slot; (r.2, r.1)
  | _ => ([], [])

/-- R242: what a command reads and writes. -/
def areasOf (s : State) (c : Cmd) : List (Nat × Nat) × List (Nat × Nat) :=
  if opEngine (cmdOp c) = .solver then slvRuns s c else otherRuns s c
/-- R222, R243: one block of an SLV_VALUES. RESULT holds the entries or elements written. -/
def svlWork (c : Cmd) : EngM (Option (Option W64 × Option Nat)) := do
  if svlFull c then svlFullBlock c else svlDeltaBlock c
  let e ← get
  if e.trap.isSome then setOuts (slvRuns e.s c).2
  let q ← slProg c
  pure (if q.next < body c 20 4 then none else some (some (BitVec.ofNat 64 q.wrote), none))

/-- R242: a command that runs now: started, not held pre-empted, and first of its queue at its engine (R58). -/
def runsNow (s : State) (c : Cmd) : Bool := decide (c.st = .started) && !c.preempted && turnOf s c

/-- R242: commands that run at the same time and write what this one reads or writes, or read what it writes. -/
def slvClashes (s : State) (c : Cmd) : List Cmd :=
  let others := s.cmds.filter fun d => decide (d.k ≠ c.k) && runsNow s d
  if others.isEmpty then [] else
  let mine := slvRuns s c
  let r := extentsOf s c.ctx mine.1
  let w := extentsOf s c.ctx mine.2
  others.filter fun d =>
    let o := areasOf s d
    let r' := extentsOf s d.ctx o.1
    let w' := extentsOf s d.ctx o.2
    overlap w (r' ++ w') || overlap w' (r ++ w)

/-- R242: written areas of two systems of a list share a byte. -/
def areasMeet (s : State) (ctx : Nat) : List (List (Nat × Nat)) → Bool
  | [] => false
  | a :: as => overlap (extentsOf s ctx a) (extentsOf s ctx (as.flatMap id)) || areasMeet s ctx as

/-- R242: two systems of the command write one place. -/
def ownClash (s : State) (c : Cmd) : Bool :=
  areasMeet s c.ctx ((List.range (slCount c)).map fun i => (slAreas s c (slFirst c + i)).2)

/-! ### Factor records (R224) -/

/-- R225: the factorization of a pattern's values; none when POLICY FAULT stops it. -/
def facRun (p : Pat) (a : List Int) (prec bs : Nat) : Option Fact × SolSt :=
  match factorize p a prec bs {} with
  | .ok f st => (some f, st)
  | .error _ st => (none, st)

/-- R224: a factor record. -/
def factBytes (p : Pat) (prec bs : Nat) (f : Fact) (st : SolSt) (ftw : W64) : Bytes :=
  leBytes 4 p.gen ++ leBytes 1 prec ++ leBytes 1 bs ++ leBytes 1 p.qf ++ [0] ++ leBytes 4 (min st.regs 0xFFFFFFFF)
    ++ leBytes 4 (st.firstReg.getD 0xFFFFFFFF) ++ leBytes 8 ftw.toNat ++ List.replicate 8 0
    ++ wordBytes p.qf (f.ents ++ f.rec')

/-- R99, R219, R227: the range events of a system, at the row of the first. -/
def noteSat (idx lane : Nat) (st : SolSt) : EngM Unit :=
  if st.sat = 0 then pure () else noteEv 0 (idx * 65536 + st.first.getD 0) 3 lane evSat

/-- R227, R247: keep the lowest element index of a regularized pivot and its lane, and count the system. -/
def noteReg (c : Cmd) (idx lane : Nat) (st : SolSt) : EngM Unit :=
  match st.firstReg with
  | none => pure ()
  | some row =>
    let el := idx * 65536 + row
    keepSl c fun p =>
      if p.firstReg.any fun x => decide (x ≤ el) then { p with wrote := p.wrote + 1 }
      else { p with wrote := p.wrote + 1, firstReg := some el, regLane := lane }

/-- R225-R227: factor a system and write its record. None when POLICY FAULT stopped it: its record is unpredictable. -/
def facSystem (c : Cmd) (idx lane : Nat) (d : SysD) (p : Pat) : EngM (Option Fact × SolSt) := do
  let a ← readWords p.qa d.val p.nnz
  let r := facRun p a (slPrec c) (slBs c)
  noteSat idx lane r.2
  noteReg c idx lane r.2
  match r.1 with
  | some f =>
    let s ← getS
    unlessTrapped (writeV d.fact (factBytes p (slPrec c) (slBs c) f r.2 s.ftw))
    if r.2.regs ≠ 0 then addWarn 0x8
  | none =>
    let bs ← freeBytes (factSize p (slPrec c) (slBs c))
    unlessTrapped (writeV d.fact bs)
  pure r

/-! ### One system of SLV_SOLVE -/

/-- R244: V_n. -/
def slVn (c : Cmd) : Nat := [6, 9, 10].getD (slMethod c) (slGm c + 4)

/-- R244: the bytes of a system's vectors. -/
def vecBytes (c : Cmd) (p : Pat) : Nat := slVn c * p.n * qBytes p.qv

/-- R244: the footprint F. -/
def footprint (c : Cmd) (p : Pat) : Nat :=
  256 + 4 * (p.n + 1) + 2 * p.nnz + qBytes p.qa * p.nnz + (if slPrec c = 0 then 0 else factSize p (slPrec c) (slBs c))
    + vecBytes c p + (if slTr c then 4 * p.nnz else 0)
    + (if slPrec c = 3 ∨ slPrec c = 4 then 4 * p.n + 8 * (p.levelsL + p.levelsU + 2) else 0)

/-- R212: the system runs LOCAL. -/
def isLocal (c : Cmd) (p : Pat) : Bool := decide (footprint c p ≤ 2 ^ 20)

/-- R235, R243: x0 and the flags WS_USED, WS_REJECTED and REPLAYED. -/
def chooseX0 (c : Cmd) (d : SysD) (p : Pat) : EngM (List Int × Nat) := do
  let h ← readV d.ws 16
  let q ← slProg c
  let zero := List.replicate p.n (0 : Int)
  let valid := bitOf (field h 8 1) 0
  let fits := field h 0 8 == p.fprint && bitOf (field h 8 1) 1 == slTr c
  let redone := q.replay && valid && field h 12 4 == slTag c
  if !valid || !(slWarm c || redone) then pure (zero, 0)
  else if fits then
    let x ← readWords p.qv (d.ws + 16) p.n
    pure (x, (if slWarm c then 0x01 else 0) + (if redone then 0x40 else 0))
  else
    addWarn 0x10
    pure (zero, 0x02)

/-- R240: frame time at a stop. Where the deadline fell during the work before it, it lies at or after DEADLINE. -/
def stopFtw (c : Cmd) (late : Bool) : EngM W64 := do
  let s ← getS
  if late && !s.reached (slDeadline c) then do
    let f ← freeWord
    pure (slDeadline c + f)
  else pure s.ftw

/-- R240: write the status record; RESID2 is a free value when no measure was tested. -/
def writeStatus (c : Cmd) (d : SysD) (it why flags freg : Nat) (st : SolSt) (late : Bool) (resid : Option Nat) : EngM Unit := do
  let ftw ← stopFtw c late
  let r ← match resid with
    | some r => pure r
    | none => do
      let w ← freeWord
      pure w.toNat
  if why = whyDeadline then addWarn 0x2
  if why = whyConverged then keepSl c fun p => { p with good := p.good + 1 }
  writeV d.stat (leBytes 4 it ++ leBytes 1 why ++ leBytes 1 (flags + (if st.sat = 0 then 0 else 8) + b2n (slTr c) * 32)
    ++ leBytes 2 (min st.sat 0xFFFF) ++ leBytes 4 freg ++ leBytes 4 (slTag c) ++ leBytes 8 r ++ leBytes 8 ftw.toNat)

/-- R248: the float copy of x. -/
def writeXf (c : Cmd) (d : SysD) (p : Pat) (x : List Int) : EngM Unit :=
  if slXf c then
    let f := body c 20 1
    let fm := if f = 0 then fp64 else fp32
    writeV d.xf (x.flatMap fun v => leBytes (elemBits f / 8) (roundV fm .ne (ofQ (qFrac p.qv) v)).1)
  else pure ()

/-- R235: the solution record: the vector, then the header. -/
def writeWs (c : Cmd) (d : SysD) (p : Pat) (x : List Int) : EngM Unit := do
  writeV (d.ws + 16) (wordBytes p.qv x)
  writeV d.ws (leBytes 8 p.fprint ++ leBytes 1 (1 + 2 * b2n (slTr c)) ++ [0, 0, 0] ++ leBytes 4 (slTag c))

/-- R240: RESID2: a measure rounded to binary64. -/
def residOf (m : Option Dy) : Option Nat := m.map fun m => (roundV fp64 .ne (fvScaled m.m m.e)).1

/-- R237: a factor record that does not fit the pattern and the command. -/
def factMissing (c : Cmd) (d : SysD) (p : Pat) : EngM Bool := do
  if slPrec c = 0 ∨ slFactor c = true then pure false
  else
    let h ← readV d.fact 32
    pure (!(field h 0 4 == p.gen && field h 4 1 == slPrec c && field h 5 1 == slBs c))

/-- R224: the data of a factor record. -/
def readFact (c : Cmd) (d : SysD) (p : Pat) : EngM Fact := do
  let n := factWords p (slPrec c) (slBs c)
  let xs ← readWords p.qf (d.fact + 32) (n.1 + n.2)
  pure { ents := xs.take n.1, rec' := xs.drop n.1 }

/-- R233: a system that does not start. -/
def notStarted (c : Cmd) (idx : Nat) : EngM Unit := do
  let d ← readSys (slList c) idx
  if d.stat % 8 ≠ 0 then throw .unpred
  let p ← readPattern d.pimg
  let x ← chooseX0 c d p
  let loc ← freeBelow 2
  let f ← freeWord
  writeXf c d p x.1
  writeStatus c d 0 whyDeadline (x.2 + 16 * loc) (if slFactor c then f.toNat % 2 ^ 32 else 0xFFFFFFFF) {} true (some 0)

/-- R233: the command has found its DEADLINE reached, or finds it so now. -/
def pastDeadline (c : Cmd) : EngM Bool := do
  let s ← getS
  let p ← slProg c
  pure (decide (slDeadline c ≠ 0) && (p.late || s.reached (slDeadline c)))

/-- R233: the test, of those that a system has still to make, at which it finds the deadline reached: a free one, or none while the
deadline lies ahead. The time of an iteration is not the model's (log entry 45). -/
def drawLate (c : Cmd) (r : LaneSys) : EngM (Option Nat) := do
  if slDeadline c = 0 then pure none
  else
    let past ← pastDeadline c
    let a ← freeBelow 2
    let n ← freeWord
    pure (if !past && a == 0 then none else some (r.tests + n.toNat))

/-- R227, R243: the test after which a system is stopped, for a factorization that stopped the command, or held for another command: a
free one. -/
def drawHalt (c : Cmd) (r : LaneSys) : EngM (Option Nat) := do
  let s ← getS
  let p ← slProg c
  if p.doom || sharesTime s c.k then
    let a ← freeBelow 2
    let n ← freeWord
    pure (if !p.doom && a == 0 then none else some (r.tests + n.toNat))
  else pure none

/-! ### Lanes (R212) -/

/-- One of a list, freely chosen. -/
def pickOf {α : Type} (d : α) (l : List α) : EngM α :=
  match l with
  | [x] => pure x
  | _ => do
    let i ← freeBelow l.length
    pure (l.getD i d)

/-- R212: the lanes with no system in progress. -/
def freeLanes (p : Progress) : List Nat := (List.range 16).filter fun l => !(p.lanes.any fun r => r.lane == l)

/-- R212: a free lane takes a system. -/
def takeLane (c : Cmd) (r : LaneSys) : EngM Unit := do
  let p ← slProg c
  let lane ← pickOf 0 (freeLanes p)
  keepSl c fun p => { p with lanes := p.lanes ++ [{ r with lane := lane }] }

/-- R212: a lane has finished its system. -/
def leaveLane (c : Cmd) (r : LaneSys) : EngM Unit := keepSl c fun p => { p with lanes := p.lanes.filter fun x => x.idx != r.idx }

/-- A lane keeps what its system has reached. -/
def keepLane (c : Cmd) (r : LaneSys) : EngM Unit :=
  keepSl c fun p => { p with lanes := p.lanes.map fun x => if x.idx = r.idx then r else x }

/-- R243: the status record of a system carries the command's RUN_TAG: a replay skips it. Answers its REASON. -/
def doneBefore (c : Cmd) (idx : Nat) : EngM (Option Nat) := do
  let p ← slProg c
  if !p.replay then pure none
  else
    let d ← readSys (slList c) idx
    let r ← readV d.stat 32
    pure (if field r 12 4 = slTag c then some (field r 4 1) else none)

/-- R212, R235, R237: a system starts on a free lane, or stops at once with NO_FACTOR or NO_WORKSPACE. -/
def startLane (c : Cmd) (idx : Nat) : EngM Unit := do
  let d ← readSys (slList c) idx
  if d.stat % 8 ≠ 0 then throw .unpred
  let p ← readPattern d.pimg
  let x0 ← chooseX0 c d p
  let noWork := !isLocal c p && (body c 72 8 == 0 || decide (body c 80 4 < vecBytes c p))
  let noFact ← factMissing c d p
  let flags := x0.2 + (if isLocal c p then 16 else 0)
  let first ← if noFact && noWork then freeBelow 2 else pure 1
  if noFact && first == 1 then writeStatus c d 0 whyNoFactor flags 0xFFFFFFFF {} false none
  else if noWork then
    let f ← freeWord
    writeStatus c d 0 whyNoWorkspace flags (if slFactor c then f.toNat % 2 ^ 32 else 0xFFFFFFFF) {} false none
  else takeLane c { idx := idx, x0 := x0.1, flags := flags }

/-- R212, R233, R243: the next system of a list: of SLV_FACTOR, it starts; of SLV_SOLVE, it starts unless a replay skips it or the
deadline is reached. -/
def startSystem (c : Cmd) (idx : Nat) : EngM Unit := do
  if slFac c then takeLane c { idx := idx }
  else
    let old ← doneBefore c idx
    match old with
    | some why =>
      if why = whyDeadline then addWarn 0x2
      if why = whyConverged then keepSl c fun p => { p with good := p.good + 1 }
    | none =>
      let past ← pastDeadline c
      if past then notStarted c idx else startLane c idx

/-- R212, R244: a STREAMED system keeps its vectors in its lane's area of the work region. -/
def useWork (c : Cmd) (r : LaneSys) (p : Pat) : EngM Unit := do
  if isLocal c p then pure ()
  else
    let bs ← freeBytes (vecBytes c p)
    unlessTrapped (writeV (body c 72 8 + r.lane * body c 80 4) bs)

/-- R228, R240: a system stops: it writes its outputs and records, and its lane is free. -/
def stopSystem (c : Cmd) (r : LaneSys) (d : SysD) (p : Pat) (why : Nat) (st : SolSt) : EngM Unit := do
  if st.sawLate then keepSl c fun q => { q with late := true }
  useWork c r p
  unlessTrapped do
    writeWs c d p st.x
    writeXf c d p st.x
    writeStatus c d st.it why (r.flags + (if r.regs = 0 then 0 else 4)) (if slFactor c then r.firstReg.getD 0xFFFFFFFF else 0xFFFFFFFF)
      st st.sawLate (residOf st.meas)
  leaveLane c r

/-- R225-R227: a system in progress finishes its factorization. One that POLICY FAULT stopped writes no record of its own; one that
finishes after such a stop is STOPPED with ITER 0. -/
def factorLane (c : Cmd) (r : LaneSys) (d : SysD) (p : Pat) : EngM Unit := do
  let fo ← facSystem c r.idx r.lane d p
  match fo.1 with
  | none =>
    keepSl c fun q => { q with doom := true }
    leaveLane c r
  | some _ =>
    let q ← slProg c
    let r := { r with factored := true, sat := fo.2.sat, first := fo.2.first, regs := fo.2.regs, firstReg := fo.2.firstReg }
    if slFac c then leaveLane c r
    else if q.doom then stopSystem c r d p whyStopped { sat := r.sat, first := r.first, x := r.x0 }
    else keepLane c r

/-- R212, R228, R243: a system in progress iterates to its stop, or until the command holds it. A held system goes on from the tests that
it has passed: its iterates are fixed by what it read (R239), which nobody else writes meanwhile (R242). -/
def iterateLane (c : Cmd) (r : LaneSys) (d : SysD) (p : Pat) : EngM Unit := do
  let f ← if slPrec c = 0 then pure {} else readFact c d p
  let a ← readWords p.qa d.val p.nnz
  let b ← readWords p.qv d.b p.n
  let late ← drawLate c r
  let halt ← drawHalt c r
  let spare ← freeBelow 2
  let y : Sys := { p := p, a := a, b := b, f := f, prec := slPrec c, bs := slBs c, tr := slTr c, maxit := body c 28 4,
                   rtol := tolOf (body c 48 8), atol := tolOf (body c 56 8), gm := slGm c, spare := spare == 1 }
  let st0 : SolSt := { sat := r.sat, first := r.first, x := r.x0, late := late, halt := halt }
  let e : Nat × SolSt := match y.solve (slMethod c) st0 with
    | .ok why st => (why, st)
    | .error why st => (why, st)
  noteSat r.idx r.lane e.2
  let q ← slProg c
  if e.1 = whyStopped ∧ q.doom = false then
    useWork c r p
    keepLane c { r with tests := e.2.tests }
  else stopSystem c r d p e.1 e.2

/-- R212: a system in progress goes on. -/
def goOn (c : Cmd) (r : LaneSys) : EngM Unit := do
  let d ← readSys (slList c) r.idx
  let p ← readPattern d.pimg
  if slFactor c && !r.factored then factorLane c r d p else iterateLane c r d p

/-- R98, R227: the output locations of a trapped command: those of its started systems, and of its work region; the system whose event
trapped writes neither its solution nor its status record. -/
def trapOuts (c : Cmd) (bad : Nat) : EngM Unit := do
  let e ← get
  match e.trap with
  | none => pure ()
  | some _ =>
    let own := fun (i : Nat) =>
      let w := (slAreas e.s c (slFirst c + i)).2
      if slFac c = false ∧ slFirst c + i = bad then w.drop 2 else w
    setOuts ((List.range (cmdProg e.s c).next).flatMap own ++ workRegion c)

/-- R241, R247: RESULT and DETAIL. -/
def slResult (c : Cmd) (p : Progress) : Option W64 × Option Nat :=
  if slFac c then (some (BitVec.ofNat 64 p.wrote), some (p.firstReg.getD 0xFFFFFFFF % 2 ^ 32))
  else (some (BitVec.ofNat 64 p.good), some (slCount c - p.good))

/-- R212: one step of SLV_FACTOR or SLV_SOLVE: a free lane takes the next system; when none can, a system in progress goes on. The
command ends with its last system, or with PIVOT_FAULT when no system is in progress any more (R227). -/
def sysWork (c : Cmd) : EngM (Option (Option W64 × Option Nat)) := do
  let s ← getS
  let p ← slProg c
  if p.next = 0 ∧ ownClash s c = true then throw .unpred
  if decide (p.next < slCount c) && !p.doom && !(freeLanes p).isEmpty then
    keepSl c fun q => { q with next := q.next + 1 }
    startSystem c (slFirst c + p.next)
  else
    let r ← pickOf {} p.lanes
    goOn c r
    trapOuts c r.idx
  let q ← slProg c
  if !q.lanes.isEmpty || (decide (q.next < slCount c) && !q.doom) then pure none
  else if q.doom then
    stopFault stPivot { element := BitVec.ofNat 64 (q.firstReg.getD 0), lane := BitVec.ofNat 16 q.regLane }
  else pure (some (slResult c q))

/-- R243, R388: one block of a solver command still at work. -/
def slvUnit (work : Cmd → EngM (Option (Option W64 × Option Nat))) (k : Nat) (s : State) : State :=
  match findCmd s k with
  | none => s
  | some c =>
    if c.st ≠ .started then s
    else
      let cl := slvClashes s c
      if !cl.isEmpty then (c :: cl).foldl (fun s d => unpredictable d s) s
      else runWatched c false (work c) s

/-- R243: the blocks that are left, or a part of them. -/
def slvRun (left : Cmd → Nat) (work : Cmd → EngM (Option (Option W64 × Option Nat))) (c : Cmd) (s : State) : State :=
  repeatWork (slvUnit work c.k) (workBudget s c.k (left c)) { s with free := s.free + 1 }

/-- R212: the steps that the systems of a command have left: a start, a factorization and the iterations of each. -/
def slLeft (c : Cmd) : Nat := 3 * (slCount c - c.prog.next) + 2 * c.prog.lanes.length

/-! ### SLV_STATUS (R249) -/

/-- R249: add a status record. -/
def addStatus (tag : Nat) (r : Bytes) (t : SlvSum) : SlvSum :=
  if field r 12 4 ≠ tag then { t with stale := t.stale + 1 }
  else
    let why := field r 4 1
    let fl := field r 5 1
    { conv := t.conv + b2n (why == 1), maxit := t.maxit + b2n (why == 2), dead := t.dead + b2n (why == 3),
      broke := t.broke + b2n (why == 4), none' := t.none' + b2n (why == 5 || why == 6), stale := t.stale,
      rej := t.rej + b2n (bitOf fl 1), reg := t.reg + b2n (bitOf fl 2), sat := t.sat + b2n (bitOf fl 3),
      most := max t.most (field r 0 4), sum := t.sum + field r 0 4, ftw := max t.ftw (field r 24 8),
      stopped := t.stopped + b2n (why == 7) }

/-- R249: the summary's bytes. -/
def sumBytes (t : SlvSum) : Bytes :=
  ([t.conv, t.maxit, t.dead, t.broke, t.none', t.stale, t.rej, t.reg, t.sat, t.most].flatMap fun x => leBytes 4 x)
    ++ leBytes 8 t.sum ++ leBytes 8 t.ftw ++ leBytes 4 t.stopped ++ [0, 0, 0, 0]

/-- R249: records that SLV_STATUS reads before it can be pre-empted (log entry 127). -/
def slsBlock : Nat := 8192

/-- R249: read the records of n systems from index i on. -/
def sumFrom (c : Cmd) : Nat → Nat → SlvSum → EngM SlvSum
  | _, 0, t => pure t
  | i, n + 1, t => do
    let d ← readSys (body c 32 8) i
    let r ← readV d.stat 32
    sumFrom c (i + 1) n (addStatus (body c 48 4) r t)

/-- R243: blocks of an SLV_STATUS that are left. -/
def slsLeft (c : Cmd) : Nat := ceilDiv (body c 24 4 - c.prog.next) slsBlock

/-- R243, R249: one block of an SLV_STATUS. -/
def slsWork (c : Cmd) : EngM (Option (Option W64 × Option Nat)) := do
  let q ← slProg c
  let n := min slsBlock (body c 24 4 - q.next)
  let t ← sumFrom c (body c 28 4 + q.next) n q.sum
  keepSl c fun p => { p with next := p.next + n, sum := t }
  if q.next + n < body c 24 4 then pure none
  else
    writeV (body c 40 8) (sumBytes t)
    pure (some (some (BitVec.ofNat 64 t.conv), some (body c 24 4 - t.conv)))

/-! ### The commands -/

/-- SLV_PATTERN (R213-R216, R245). -/
def execSlvPattern (k : Nat) (s : State) : Host.Outcome State Fault Refusal :=
  .next (runOp k 0x50 1 [(16, 37), (56, 16)] slpLegal (slvRun slpLeft slpWork) s)

/-- SLV_VALUES (R221, R222, R246). -/
def execSlvValues (k : Nat) (s : State) : Host.Outcome State Fault Refusal :=
  .next (runOp k 0x51 0 [(16, 2), (20, 28)] svlLegal (slvRun svlLeft svlWork) s)

/-- SLV_FACTOR (R223-R227, R247). -/
def execSlvFactor (k : Nat) (s : State) : Host.Outcome State Fault Refusal :=
  .next (runOp k 0x52 0 [(16, 2), (24, 16)] (fun c => slPrecOk c 1) (slvRun slLeft sysWork) s)

/-- SLV_SOLVE (R212, R217-R220, R227-R241, R243, R248): every system that is left. -/
def execSlvSolve (k : Nat) (s : State) : Host.Outcome State Fault Refusal :=
  .next (runOp k 0x53 1 [(16, 6), (24, 60)] slvLegal (slvRun slLeft sysWork) s)

/-- SOLVER_SYSTEM_START (R212): a free lane takes the next system of an SLV_SOLVE; when none can, a system in progress goes on. -/
def execSolverSystemStart (k : Nat) (s : State) : Host.Outcome State Fault Refusal :=
  .next (runOp k 0x53 1 [(16, 6), (24, 60)] slvLegal (fun c s => slvUnit sysWork c.k s) s)

/-- SLV_STATUS (R249). -/
def execSlvStatus (k : Nat) (s : State) : Host.Outcome State Fault Refusal :=
  .next (runOp k 0x54 0 [(24, 28)] (fun c => decide (1 ≤ body c 24 4) && decide (body c 24 4 ≤ 65536)) (slvRun slsLeft slsWork) s)

end Sys2Proof.Machine
end

