-- ==== Sys2Proof/Machine/VecInt.lean ====
section
/-!
DEFINITION. VINT: the integer vector instructions (R145), their widening and dot-product forms (R150, R151).
-/
namespace Sys2Proof.Machine

/-- R145: the element formats of VINT. -/
def intCore (c : Core) : Bool := decide (c.efmt < 4)

/-- R141, R145: the groups of an instruction with one format. -/
def vintLegal (w : Nat) (c : Core) : Bool :=
  intCore c && groupOk (wD w) c.span && groupOk (wA w) c.span && c.op1Ok w

/-- R145: vd[i] = op vs2[i] op1, on EW-bit codes. -/
def vintRow (b c op : Nat) (f : Nat → Nat → Nat → Nat) (s : State) : State :=
  coreRow b c (0x2300 + op) (fun x => vecElems x (vintLegal x.w) fun i => do
    let r ← myCore x
    putE x (wD x.w) r.ew i (f r.ew (r.getE (wA x.w) r.ew i) (r.op1 x.w r.ew i))) s

/-- An operation on signed values, wrapped to EW bits (R13). -/
def signedOp (f : Int → Int → Int) (ew a b : Nat) : Nat := wrapInt ew (f (signed ew a) (signed ew b))

def execVadd (b c : Nat) (s : State) : Host.Outcome State Fault Refusal := .next (vintRow b c 0x0 (signedOp (· + ·)) s)
def execVsub (b c : Nat) (s : State) : Host.Outcome State Fault Refusal := .next (vintRow b c 0x1 (signedOp (· - ·)) s)
def execVmul (b c : Nat) (s : State) : Host.Outcome State Fault Refusal := .next (vintRow b c 0x2 (signedOp (· * ·)) s)
/-- VMULH (R145): the high EW bits of the signed product. -/
def execVmulh (b c : Nat) (s : State) : Host.Outcome State Fault Refusal :=
  .next (vintRow b c 0x3 (fun ew p q => wrapInt ew (signed ew p * signed ew q / ((2 ^ ew : Nat) : Int))) s)
def execVand (b c : Nat) (s : State) : Host.Outcome State Fault Refusal := .next (vintRow b c 0x4 (fun _ p q => p &&& q) s)
def execVor (b c : Nat) (s : State) : Host.Outcome State Fault Refusal := .next (vintRow b c 0x5 (fun _ p q => p ||| q) s)
def execVxor (b c : Nat) (s : State) : Host.Outcome State Fault Refusal := .next (vintRow b c 0x6 (fun _ p q => p ^^^ q) s)
/-- VSHL (R145): by op1 mod SEW. -/
def execVshl (b c : Nat) (s : State) : Host.Outcome State Fault Refusal :=
  .next (vintRow b c 0x7 (fun ew p q => p * 2 ^ (q % ew) % 2 ^ ew) s)
/-- VSHR (R145). -/
def execVshr (b c : Nat) (s : State) : Host.Outcome State Fault Refusal :=
  .next (vintRow b c 0x8 (fun ew p q => p / 2 ^ (q % ew)) s)
/-- VSRA (R145). -/
def execVsra (b c : Nat) (s : State) : Host.Outcome State Fault Refusal :=
  .next (vintRow b c 0x9 (fun ew p q => wrapInt ew (signed ew p / ((2 ^ (q % ew) : Nat) : Int))) s)
def execVmin (b c : Nat) (s : State) : Host.Outcome State Fault Refusal := .next (vintRow b c 0xA (signedOp min) s)
def execVmax (b c : Nat) (s : State) : Host.Outcome State Fault Refusal := .next (vintRow b c 0xB (signedOp max) s)

/-- R141, R145: the registers of a comparison, whose destination is a mask register. -/
def vcmpLegal (w : Nat) (c : Core) : Bool := maskField (wD w) && groupOk (wA w) c.span && c.op1Ok w

/-- R145: a comparison into a mask register. -/
def vcmpRow (b c op : Nat) (f : Int → Int → Bool) (s : State) : State :=
  coreRow b c (0x2300 + op) (fun x => vecElems x (fun r => intCore r && vcmpLegal x.w r) fun i => do
    let r ← myCore x
    putM x (wD x.w) i (f (signed r.ew (r.getE (wA x.w) r.ew i)) (signed r.ew (r.op1 x.w r.ew i)))) s

def execVcmpeq (b c : Nat) (s : State) : Host.Outcome State Fault Refusal := .next (vcmpRow b c 0xC (fun p q => decide (p = q)) s)
def execVcmplt (b c : Nat) (s : State) : Host.Outcome State Fault Refusal := .next (vcmpRow b c 0xD (fun p q => decide (p < q)) s)

/-- R150: the registers of a widening instruction. -/
def widenLegal (w : Nat) (c : Core) : Bool :=
  decide (c.span ≤ 4) && groupOk (wD w) (2 * c.span) && groupOk (wA w) c.span && c.op1Ok w && !c.widenClash w

/-- VXMA (R145, R150): vd += vs2 x op1 at twice the width, wrapping. -/
def execVxma (b c : Nat) (s : State) : Host.Outcome State Fault Refusal :=
  .next (coreRow b c 0x230E (fun x => vecElems x (fun r => decide (r.efmt < 3) && widenLegal x.w r) fun i => do
    let r ← myCore x
    let d := 2 * r.ew
    let v := signed d (r.getE (wD x.w) d i) + signed r.ew (r.getE (wA x.w) r.ew i) * signed r.ew (r.op1 x.w r.ew i)
    putE x (wD x.w) d i (wrapInt d v)) s)

/-- R151: source positions of destination element j that count: below VL and not masked off. -/
def dotTerms (c : Core) (w n j : Nat) : List Nat :=
  ((List.range n).map (· + n * j)).filter fun i => decide (i < c.len) && c.active w i

/-- VDOT4 (R145, R151). -/
def execVdot4 (b c : Nat) (s : State) : Host.Outcome State Fault Refusal :=
  .next (coreRow b c 0x230F (fun x => vecWhole x (fun r => decide (r.efmt = 0) && vintLegal x.w r)
    (fun r => { v := (wD x.w, r.span) }) (pure ()) fun r =>
      (List.range (ceilDiv r.len 4)).forM fun j => do
        let p := (dotTerms r x.w 4 j).map fun i => signed 8 (r.getE (wA x.w) 8 i) * signed 8 (r.getE (wB x.w) 8 i)
        putE x (wD x.w) 32 j (wrapInt 32 (p.foldl (· + ·) (signed 32 (r.getE (wD x.w) 32 j))))) s)

end Sys2Proof.Machine
end

