-- ==== Sys2Proof/Machine/VecMove.lean ====
section
/-!
DEFINITION. VMP: the mask, move and permute instructions of the vector cores (R148, R152).
-/
namespace Sys2Proof.Machine

/-- One VMP row. `group` is the vector group it writes, for the trap rule, which no row here needs. -/
def vmpRow (b c f : Nat) (legal : Nat → Core → Bool) (work : Vx → Core → EngM Unit) (s : State) : State :=
  coreRow b c (0x2500 + f) (fun x => vecWhole x (legal x.w) (fun _ => {}) (pure ()) (work x)) s

/-- The elements below VL that are active. -/
def liveElems (c : Core) (w : Nat) : List Nat := (List.range c.len).filter fun i => c.active w i

/-- R141: vd and vs2 are groups. -/
def pairLegal (w : Nat) (c : Core) : Bool := groupOk (wD w) c.span && groupOk (wA w) c.span

/-- Bit of a 4-bit truth table for bits a and b (R148). -/
def truthBit (t : Nat) (a b : Bool) : Bool := bitOf t (2 * b2n a + b2n b)

/-- VMLOG (R148). -/
def execVmlog (b c : Nat) (s : State) : Host.Outcome State Fault Refusal :=
  .next (vmpRow b c 0 (fun w _ => maskField (wD w) && maskField (wA w) && maskField (wB w)) (fun x r =>
    (liveElems r x.w).forM fun i => putM x (wD x.w) i (truthBit (wFunc x.w % 16) (r.getM (wA x.w) i) (r.getM (wB x.w) i))) s)

/-- The set bits of m[vs2] below VL. -/
def setBits (r : Core) (w : Nat) : List Nat := (List.range r.len).filter fun i => r.getM (wA w) i

/-- VMCOUNT (R148). -/
def execVmcount (b c : Nat) (s : State) : Host.Outcome State Fault Refusal :=
  .next (vmpRow b c 0x10 (fun w _ => maskField (wA w)) (fun x r =>
    putS x (wD x.w) (BitVec.ofNat 64 (setBits r x.w).length)) s)

/-- VMLOW (R148): the lowest set bit, or -1. -/
def execVmlow (b c : Nat) (s : State) : Host.Outcome State Fault Refusal :=
  .next (vmpRow b c 0x11 (fun w _ => maskField (wA w)) (fun x r =>
    putS x (wD x.w) (match (setBits r x.w).head? with
      | some i => BitVec.ofNat 64 i
      | none => BitVec.allOnes 64)) s)

/-- VSEL (R148): MEN must be 1. -/
def execVsel (b c : Nat) (s : State) : Host.Outcome State Fault Refusal :=
  .next (vmpRow b c 0x12 (fun w r => wMen w && pairLegal w r && groupOk (wB w) r.span) (fun x r =>
    (List.range r.len).forM fun i =>
      putE x (wD x.w) r.ew i (r.getE (if r.getM (wMsk x.w) i then wB x.w else wA x.w) r.ew i)) s)

/-- VCOPY (R148). -/
def execVcopy (b c : Nat) (s : State) : Host.Outcome State Fault Refusal :=
  .next (vmpRow b c 0x13 pairLegal (fun x r =>
    (liveElems r x.w).forM fun i => putE x (wD x.w) r.ew i (r.getE (wA x.w) r.ew i)) s)

/-- VINS (R148): element 0 alone. -/
def execVins (b c : Nat) (s : State) : Host.Outcome State Fault Refusal :=
  .next (vmpRow b c 0x14 (fun w r => groupOk (wD w) r.span) (fun x r =>
    if r.active x.w 0 then putE x (wD x.w) r.ew 0 (r.getS (wB x.w)).toNat else pure ()) s)

/-- VEXT (R148): element 0, sign-extended. -/
def execVext (b c : Nat) (s : State) : Host.Outcome State Fault Refusal :=
  .next (vmpRow b c 0x15 (fun w r => groupOk (wA w) r.span) (fun x r =>
    putS x (wD x.w) (BitVec.ofInt 64 (signed r.ew (r.getE (wA x.w) r.ew 0)))) s)

/-- VELUP (R148). -/
def execVelup (b c : Nat) (s : State) : Host.Outcome State Fault Refusal :=
  .next (vmpRow b c 0x16 pairLegal (fun x r =>
    let n := (r.getS (wB x.w)).toNat
    ((liveElems r x.w).filter fun i => decide (n ≤ i)).forM fun i =>
      putE x (wD x.w) r.ew i (r.getE (wA x.w) r.ew (i - n))) s)

/-- VELDN (R148): 0 from SLIM on. -/
def execVeldn (b c : Nat) (s : State) : Host.Outcome State Fault Refusal :=
  .next (vmpRow b c 0x17 pairLegal (fun x r =>
    let n := (r.getS (wB x.w)).toNat
    (liveElems r x.w).forM fun i =>
      putE x (wD x.w) r.ew i (if i + n < r.slim then r.getE (wA x.w) r.ew (i + n) else 0)) s)

/-- VPERM (R148): vd must not clash vs1 or vs2. -/
def execVperm (b c : Nat) (s : State) : Host.Outcome State Fault Refusal :=
  .next (vmpRow b c 0x18 (fun w r => pairLegal w r && groupOk (wB w) r.span && !clash (wD w) r.span (wA w) r.span
      && !clash (wD w) r.span (wB w) r.span) (fun x r =>
    (liveElems r x.w).forM fun i =>
      let j := r.getE (wB x.w) r.ew i
      putE x (wD x.w) r.ew i (if j < r.slim then r.getE (wA x.w) r.ew j else 0)) s)

/-- VPACK (R148): MEN must be 1, and vd must not clash vs2. -/
def execVpack (b c : Nat) (s : State) : Host.Outcome State Fault Refusal :=
  .next (vmpRow b c 0x19 (fun w r => wMen w && pairLegal w r && !clash (wD w) r.span (wA w) r.span) (fun x r =>
    let xs := (liveElems r x.w).map fun i => r.getE (wA x.w) r.ew i
    ((List.range xs.length).zip xs).forM fun p => putE x (wD x.w) r.ew p.1 p.2) s)

/-- VINDEX (R148). -/
def execVindex (b c : Nat) (s : State) : Host.Outcome State Fault Refusal :=
  .next (vmpRow b c 0x1A (fun w r => groupOk (wD w) r.span) (fun x r =>
    (liveElems r x.w).forM fun i => putE x (wD x.w) r.ew i i) s)

/-- VISUM (R148, R152): integer formats, wrapping. -/
def execVisum (b c : Nat) (s : State) : Host.Outcome State Fault Refusal :=
  .next (vmpRow b c 0x1B (fun w r => decide (r.efmt < 4) && pairLegal w r) (fun x r =>
    let total := ((liveElems r x.w).map fun i => r.getE (wA x.w) r.ew i).foldl (· + ·) (r.getE (wD x.w) r.ew 0)
    putE x (wD x.w) r.ew 0 (total % 2 ^ r.ew)) s)

/-- VSPLAT (R148). -/
def execVsplat (b c : Nat) (s : State) : Host.Outcome State Fault Refusal :=
  .next (vmpRow b c 0x1C (fun w r => groupOk (wD w) r.span) (fun x r =>
    (liveElems r x.w).forM fun i => putE x (wD x.w) r.ew i (r.getS (wB x.w)).toNat) s)

end Sys2Proof.Machine
end

