-- ==== Sys2Proof/Machine/Dispatch.lean ====
section
/-!
DEFINITION. The meaning of every command, one arm each: the command's effect on everything but the queue of commands.
-/
namespace Sys2Proof.Machine

/-- The effect of a command. -/
def exec (i : Instr) (s : State) : Host.Outcome State Fault Refusal :=
  match i with
  | .frameBoundary => Sys2Proof.Machine.execFrameBoundary s
  | .tbCtrlWrite fn v => Sys2Proof.Machine.execTbCtrlWrite fn v s
  | .tbPeriodSetWrite fn v => Sys2Proof.Machine.execTbPeriodSetWrite fn v s
  | .tbPeriodAtWrite fn v => Sys2Proof.Machine.execTbPeriodAtWrite fn v s
  | .tick port p => Sys2Proof.Machine.execTick port p s
  | .frameIn highNs => Sys2Proof.Machine.execFrameIn highNs s
  | .holdoverEntry => Sys2Proof.Machine.execHoldoverEntry s
  | .hopDelayMeasure port => Sys2Proof.Machine.execHopDelayMeasure port s
  | .registerWrite fn off v => Sys2Proof.Machine.execRegisterWrite fn off v s
  | .readToClear fn off => Sys2Proof.Machine.execReadToClear fn off s
  | .dbTail fn q v => Sys2Proof.Machine.execDbTail fn q v s
  | .dbCqhead fn q v => Sys2Proof.Machine.execDbCqhead fn q v s
  | .commandFetch q => Sys2Proof.Machine.execCommandFetch q s
  | .commandStart k => Sys2Proof.Machine.execCommandStart k s
  | .commandCompletion k => Sys2Proof.Machine.execCommandCompletion k s
  | .preemption k => Sys2Proof.Machine.execPreemption k s
  | .preemptedResume k => Sys2Proof.Machine.execPreemptedResume k s
  | .watchdogExpiry k => Sys2Proof.Machine.execWatchdogExpiry k s
  | .watchdogEscalation k => Sys2Proof.Machine.execWatchdogEscalation k s
  | .nop k => Sys2Proof.Machine.execNop k s
  | .fence k => Sys2Proof.Machine.execFence k s
  | .waitCount k => Sys2Proof.Machine.execWaitCount k s
  | .waitCountTimeout k => Sys2Proof.Machine.execWaitCountTimeout k s
  | .signal k => Sys2Proof.Machine.execSignal k s
  | .waitFrame k => Sys2Proof.Machine.execWaitFrame k s
  | .waitFrameReached k => Sys2Proof.Machine.execWaitFrameReached k s
  | .debugMark k => Sys2Proof.Machine.execDebugMark k s
  | .hintPower k => Sys2Proof.Machine.execHintPower k s
  | .hintScheduleStart h => Sys2Proof.Machine.execHintScheduleStart h s
  | .hintDisarm h => Sys2Proof.Machine.execHintDisarm h s
  | .copy k => Sys2Proof.Machine.execCopy k s
  | .copyT k => Sys2Proof.Machine.execCopyT k s
  | .gatherRows k => Sys2Proof.Machine.execGatherRows k s
  | .scatterRows k => Sys2Proof.Machine.execScatterRows k s
  | .prefetch k => Sys2Proof.Machine.execPrefetch k s
  | .prefetchCancel k => Sys2Proof.Machine.execPrefetchCancel k s
  | .feedBind k => Sys2Proof.Machine.execFeedBind k s
  | .feedSlotClose f => Sys2Proof.Machine.execFeedSlotClose f s
  | .maLoad k => Sys2Proof.Machine.execMaLoad k s
  | .maSwap k => Sys2Proof.Machine.execMaSwap k s
  | .maRun k => Sys2Proof.Machine.execMaRun k s
  | .maRunT k => Sys2Proof.Machine.execMaRunT k s
  | .maElem k => Sys2Proof.Machine.execMaElem k s
  | .tilePass k => Sys2Proof.Machine.execTilePass k s
  | .ballastPass b c => Sys2Proof.Machine.execBallastPass b c s
  | .vxLaunch k => Sys2Proof.Machine.execVxLaunch k s
  | .vxFusedBwd k => Sys2Proof.Machine.execVxFusedBwd k s
  | .sAdd b c => Sys2Proof.Machine.execSAdd b c s
  | .sSub b c => Sys2Proof.Machine.execSSub b c s
  | .sAnd b c => Sys2Proof.Machine.execSAnd b c s
  | .sOr b c => Sys2Proof.Machine.execSOr b c s
  | .sXor b c => Sys2Proof.Machine.execSXor b c s
  | .shl b c => Sys2Proof.Machine.execShl b c s
  | .shr b c => Sys2Proof.Machine.execShr b c s
  | .sra b c => Sys2Proof.Machine.execSra b c s
  | .mul b c => Sys2Proof.Machine.execMul b c s
  | .mulh b c => Sys2Proof.Machine.execMulh b c s
  | .div b c => Sys2Proof.Machine.execDiv b c s
  | .rem b c => Sys2Proof.Machine.execRem b c s
  | .slt b c => Sys2Proof.Machine.execSlt b c s
  | .sltu b c => Sys2Proof.Machine.execSltu b c s
  | .addi b c => Sys2Proof.Machine.execAddi b c s
  | .ld b c => Sys2Proof.Machine.execLd b c s
  | .st b c => Sys2Proof.Machine.execSt b c s
  | .bne b c => Sys2Proof.Machine.execBne b c s
  | .jal b c => Sys2Proof.Machine.execJal b c s
  | .fadd b c => Sys2Proof.Machine.execFadd b c s
  | .fsub b c => Sys2Proof.Machine.execFsub b c s
  | .fmul b c => Sys2Proof.Machine.execFmul b c s
  | .fdiv b c => Sys2Proof.Machine.execFdiv b c s
  | .fsqrt b c => Sys2Proof.Machine.execFsqrt b c s
  | .fmin b c => Sys2Proof.Machine.execFmin b c s
  | .fmax b c => Sys2Proof.Machine.execFmax b c s
  | .flt b c => Sys2Proof.Machine.execFlt b c s
  | .fcvtI b c => Sys2Proof.Machine.execFcvtI b c s
  | .fcvtF b c => Sys2Proof.Machine.execFcvtF b c s
  | .vexit b c => Sys2Proof.Machine.execVexit b c s
  | .vbar b c => Sys2Proof.Machine.execVbar b c s
  | .csrr b c => Sys2Proof.Machine.execCsrr b c s
  | .csrw b c => Sys2Proof.Machine.execCsrw b c s
  | .shli b c => Sys2Proof.Machine.execShli b c s
  | .blt b c => Sys2Proof.Machine.execBlt b c s
  | .ldw b c => Sys2Proof.Machine.execLdw b c s
  | .stw b c => Sys2Proof.Machine.execStw b c s
  | .vfmt b c => Sys2Proof.Machine.execVfmt b c s
  | .vstrip b c => Sys2Proof.Machine.execVstrip b c s
  | .vld b c => Sys2Proof.Machine.execVld b c s
  | .vst b c => Sys2Proof.Machine.execVst b c s
  | .vadd b c => Sys2Proof.Machine.execVadd b c s
  | .vsub b c => Sys2Proof.Machine.execVsub b c s
  | .vmul b c => Sys2Proof.Machine.execVmul b c s
  | .vmulh b c => Sys2Proof.Machine.execVmulh b c s
  | .vand b c => Sys2Proof.Machine.execVand b c s
  | .vor b c => Sys2Proof.Machine.execVor b c s
  | .vxor b c => Sys2Proof.Machine.execVxor b c s
  | .vshl b c => Sys2Proof.Machine.execVshl b c s
  | .vshr b c => Sys2Proof.Machine.execVshr b c s
  | .vsra b c => Sys2Proof.Machine.execVsra b c s
  | .vmin b c => Sys2Proof.Machine.execVmin b c s
  | .vmax b c => Sys2Proof.Machine.execVmax b c s
  | .vcmpeq b c => Sys2Proof.Machine.execVcmpeq b c s
  | .vcmplt b c => Sys2Proof.Machine.execVcmplt b c s
  | .vxma b c => Sys2Proof.Machine.execVxma b c s
  | .vdot4 b c => Sys2Proof.Machine.execVdot4 b c s
  | .vfadd b c => Sys2Proof.Machine.execVfadd b c s
  | .vfsub b c => Sys2Proof.Machine.execVfsub b c s
  | .vfmul b c => Sys2Proof.Machine.execVfmul b c s
  | .vfdiv b c => Sys2Proof.Machine.execVfdiv b c s
  | .vfma b c => Sys2Proof.Machine.execVfma b c s
  | .vfnms b c => Sys2Proof.Machine.execVfnms b c s
  | .vfmin b c => Sys2Proof.Machine.execVfmin b c s
  | .vfmax b c => Sys2Proof.Machine.execVfmax b c s
  | .vfcmplt b c => Sys2Proof.Machine.execVfcmplt b c s
  | .vfcmpeq b c => Sys2Proof.Machine.execVfcmpeq b c s
  | .vfxmul b c => Sys2Proof.Machine.execVfxmul b c s
  | .vfxma b c => Sys2Proof.Machine.execVfxma b c s
  | .vfdot b c => Sys2Proof.Machine.execVfdot b c s
  | .vfun b c => Sys2Proof.Machine.execVfun b c s
  | .vfcvt b c => Sys2Proof.Machine.execVfcvt b c s
  | .vffold b c => Sys2Proof.Machine.execVffold b c s
  | .vmlog b c => Sys2Proof.Machine.execVmlog b c s
  | .vmcount b c => Sys2Proof.Machine.execVmcount b c s
  | .vmlow b c => Sys2Proof.Machine.execVmlow b c s
  | .vsel b c => Sys2Proof.Machine.execVsel b c s
  | .vcopy b c => Sys2Proof.Machine.execVcopy b c s
  | .vins b c => Sys2Proof.Machine.execVins b c s
  | .vext b c => Sys2Proof.Machine.execVext b c s
  | .velup b c => Sys2Proof.Machine.execVelup b c s
  | .veldn b c => Sys2Proof.Machine.execVeldn b c s
  | .vperm b c => Sys2Proof.Machine.execVperm b c s
  | .vpack b c => Sys2Proof.Machine.execVpack b c s
  | .vindex b c => Sys2Proof.Machine.execVindex b c s
  | .visum b c => Sys2Proof.Machine.execVisum b c s
  | .vsplat b c => Sys2Proof.Machine.execVsplat b c s
  | .vsrd b c => Sys2Proof.Machine.execVsrd b c s
  | .vswr b c => Sys2Proof.Machine.execVswr b c s
  | .updRun k => Sys2Proof.Machine.execUpdRun k s
  | .updRows k => Sys2Proof.Machine.execUpdRows k s
  | .slvPattern k => Sys2Proof.Machine.execSlvPattern k s
  | .slvValues k => Sys2Proof.Machine.execSlvValues k s
  | .slvFactor k => Sys2Proof.Machine.execSlvFactor k s
  | .slvSolve k => Sys2Proof.Machine.execSlvSolve k s
  | .solverSystemStart k => Sys2Proof.Machine.execSolverSystemStart k s
  | .slvStatus k => Sys2Proof.Machine.execSlvStatus k s
  | .redTree k => Sys2Proof.Machine.execRedTree k s
  | .redLowrank k => Sys2Proof.Machine.execRedLowrank k s
  | .redScale k => Sys2Proof.Machine.execRedScale k s
  | .xchgTokens k => Sys2Proof.Machine.execXchgTokens k s
  | .bcast k => Sys2Proof.Machine.execBcast k s
  | .allgatherLayer k => Sys2Proof.Machine.execAllgatherLayer k s
  | .layoutEpoch k => Sys2Proof.Machine.execLayoutEpoch k s
  | .collUp port p => Sys2Proof.Machine.execCollUp port p s
  | .collDown port p => Sys2Proof.Machine.execCollDown port p s
  | .retryReq port p => Sys2Proof.Machine.execRetryReq port p s
  | .retryUp port p => Sys2Proof.Machine.execRetryUp port p s
  | .maxUp port p => Sys2Proof.Machine.execMaxUp port p s
  | .maxDown port p => Sys2Proof.Machine.execMaxDown port p s
  | .dataUp port p => Sys2Proof.Machine.execDataUp port p s
  | .dataDown port p => Sys2Proof.Machine.execDataDown port p s
  | .collToken port p => Sys2Proof.Machine.execCollToken port p s
  | .collTokenRet port p => Sys2Proof.Machine.execCollTokenRet port p s
  | .nodeDeadline n => Sys2Proof.Machine.execNodeDeadline n s
  | .retryDeadline n => Sys2Proof.Machine.execRetryDeadline n s
  | .deliveryDeadline k => Sys2Proof.Machine.execDeliveryDeadline k s
  | .exchangeDeadline k => Sys2Proof.Machine.execExchangeDeadline k s
  | .pktWrite port p => Sys2Proof.Machine.execPktWrite port p s
  | .readReq port p => Sys2Proof.Machine.execReadReq port p s
  | .readResp port p => Sys2Proof.Machine.execReadResp port p s
  | .pktAck port p => Sys2Proof.Machine.execPktAck port p s
  | .pktNack port p => Sys2Proof.Machine.execPktNack port p s
  | .ctrAdd port p => Sys2Proof.Machine.execCtrAdd port p s
  | .ctrAddResend e => Sys2Proof.Machine.execCtrAddResend e s
  | .pktFeed port p => Sys2Proof.Machine.execPktFeed port p s
  | .feedDb fn f v => Sys2Proof.Machine.execFeedDb fn f v s
  | .pktProbe port p => Sys2Proof.Machine.execPktProbe port p s
  | .pktProbeReply port p => Sys2Proof.Machine.execPktProbeReply port p s
  | .packetForward port p => Sys2Proof.Machine.execPacketForward port p s
  | .linkReplay port lseq hdrFail => Sys2Proof.Machine.execLinkReplay port lseq hdrFail s
  | .laneRetune port lane errRatioE9 => Sys2Proof.Machine.execLaneRetune port lane errRatioE9 s
  | .laneRetuneDone port good => Sys2Proof.Machine.execLaneRetuneDone port good s
  | .linkDown port => Sys2Proof.Machine.execLinkDown port s
  | .linkUp port => Sys2Proof.Machine.execLinkUp port s
  | .hello port p => Sys2Proof.Machine.execHello port p s
  | .mgmtJoin port p => Sys2Proof.Machine.execMgmtJoin port p s
  | .joinAck port p => Sys2Proof.Machine.execJoinAck port p s
  | .heartbeat port p => Sys2Proof.Machine.execHeartbeat port p s
  | .heartbeatSend => Sys2Proof.Machine.execHeartbeatSend s
  | .moduleLost addr => Sys2Proof.Machine.execModuleLost addr s
  | .leaveMessage port p => Sys2Proof.Machine.execLeaveMessage port p s
  | .beacon port p => Sys2Proof.Machine.execBeacon port p s
  | .beaconSend => Sys2Proof.Machine.execBeaconSend s
  | .resetNotice port p => Sys2Proof.Machine.execResetNotice port p s
  | .rankReset port p => Sys2Proof.Machine.execRankReset port p s
  | .rankLost port p => Sys2Proof.Machine.execRankLost port p s
  | .timeDegraded port p => Sys2Proof.Machine.execTimeDegraded port p s
  | .tickLostReport port p => Sys2Proof.Machine.execTickLostReport port p s
  | .holdoverTimeout addr => Sys2Proof.Machine.execHoldoverTimeout addr s
  | .routeSet port p => Sys2Proof.Machine.execRouteSet port p s
  | .groupInstall port p => Sys2Proof.Machine.execGroupInstall port p s
  | .groupStage port p => Sys2Proof.Machine.execGroupStage port p s
  | .groupRemove port p => Sys2Proof.Machine.execGroupRemove port p s
  | .periodArm port p => Sys2Proof.Machine.execPeriodArm port p s
  | .mgmtAck port p => Sys2Proof.Machine.execMgmtAck port p s
  | .mgmtResend mseq => Sys2Proof.Machine.execMgmtResend mseq s
  | .identify ch req => Sys2Proof.Machine.execIdentify ch req s
  | .statusQuery ch req => Sys2Proof.Machine.execStatusQuery ch req s
  | .telemetryRead ch req => Sys2Proof.Machine.execTelemetryRead ch req s
  | .logRead ch req => Sys2Proof.Machine.execLogRead ch req s
  | .micaSlices ch req => Sys2Proof.Machine.execMicaSlices ch req s
  | .bar2Set ch req => Sys2Proof.Machine.execBar2Set ch req s
  | .ctxCreate ch req => Sys2Proof.Machine.execCtxCreate ch req s
  | .ctxDestroy ch req => Sys2Proof.Machine.execCtxDestroy ch req s
  | .ctxDrained c => Sys2Proof.Machine.execCtxDrained c s
  | .ctxNumberRelease c => Sys2Proof.Machine.execCtxNumberRelease c s
  | .ctxQuery ch req => Sys2Proof.Machine.execCtxQuery ch req s
  | .counterGrant ch req => Sys2Proof.Machine.execCounterGrant ch req s
  | .queueCreate ch req => Sys2Proof.Machine.execQueueCreate ch req s
  | .queueDestroy ch req => Sys2Proof.Machine.execQueueDestroy ch req s
  | .tileGrant ch req => Sys2Proof.Machine.execTileGrant ch req s
  | .mapPages ch req => Sys2Proof.Machine.execMapPages ch req s
  | .unmap ch req => Sys2Proof.Machine.execUnmap ch req s
  | .memQuery ch req => Sys2Proof.Machine.execMemQuery ch req s
  | .channelMapout ch req => Sys2Proof.Machine.execChannelMapout ch req s
  | .mapoutComplete stack chan => Sys2Proof.Machine.execMapoutComplete stack chan s
  | .stageqCreate ch req => Sys2Proof.Machine.execStageqCreate ch req s
  | .stageqQuery ch req => Sys2Proof.Machine.execStageqQuery ch req s
  | .stageqDestroy ch req => Sys2Proof.Machine.execStageqDestroy ch req s
  | .groupSet ch req => Sys2Proof.Machine.execGroupSet ch req s
  | .groupQuery ch req => Sys2Proof.Machine.execGroupQuery ch req s
  | .roleSet ch req => Sys2Proof.Machine.execRoleSet ch req s
  | .leave ch req => Sys2Proof.Machine.execLeave ch req s
  | .powerCapSet ch req => Sys2Proof.Machine.execPowerCapSet ch req s
  | .oppointSet ch req => Sys2Proof.Machine.execOppointSet ch req s
  | .wakeSet ch req => Sys2Proof.Machine.execWakeSet ch req s
  | .fwQuery ch req => Sys2Proof.Machine.execFwQuery ch req s
  | .fwStage ch req => Sys2Proof.Machine.execFwStage ch req s
  | .fwActivate ch req => Sys2Proof.Machine.execFwActivate ch req s
  | .handover => Sys2Proof.Machine.execHandover s
  | .fwActivated => Sys2Proof.Machine.execFwActivated s
  | .fwCommit ch req => Sys2Proof.Machine.execFwCommit ch req s
  | .recalibrate ch req => Sys2Proof.Machine.execRecalibrate ch req s
  | .mailboxReservedCode ch req => Sys2Proof.Machine.execMailboxReservedCode ch req s
  | .msgDone n => Sys2Proof.Machine.execMsgDone n s
  | .setEndpointId msg => Sys2Proof.Machine.execSetEndpointId msg s
  | .getEndpointId msg => Sys2Proof.Machine.execGetEndpointId msg s
  | .getMctpVersionSupport msg => Sys2Proof.Machine.execGetMctpVersionSupport msg s
  | .getMessageTypeSupport msg => Sys2Proof.Machine.execGetMessageTypeSupport msg s
  | .getVendorDefinedMessageSupport msg => Sys2Proof.Machine.execGetVendorDefinedMessageSupport msg s
  | .bar2Access fn write off len data => Sys2Proof.Machine.execBar2Access fn write off len data s
  | .flr fn => Sys2Proof.Machine.execFlr fn s
  | .vfDisable fn => Sys2Proof.Machine.execVfDisable fn s
  | .perst => Sys2Proof.Machine.execPerst s
  | .auxSupplyValid straps => Sys2Proof.Machine.execAuxSupplyValid straps s
  | .auxSupplyRemoval => Sys2Proof.Machine.execAuxSupplyRemoval s
  | .startUp goodA goodB calOk => Sys2Proof.Machine.execStartUp goodA goodB calOk s
  | .startUpMailbox => Sys2Proof.Machine.execStartUpMailbox s
  | .startUpFullOperation => Sys2Proof.Machine.execStartUpFullOperation s
  | .supplyRemoval => Sys2Proof.Machine.execSupplyRemoval s
  | .criticalTemp die temp => Sys2Proof.Machine.execCriticalTemp die temp s
  | .thermalSample temps => Sys2Proof.Machine.execThermalSample temps s
  | .telemetrySample m => Sys2Proof.Machine.execTelemetrySample m s
  | .limiterTick m => Sys2Proof.Machine.execLimiterTick m s
  | .capUnmet inputW => Sys2Proof.Machine.execCapUnmet inputW s
  | .channelRetrain stack chan deciC good => Sys2Proof.Machine.execChannelRetrain stack chan deciC good s
  | .enterIdle => Sys2Proof.Machine.execEnterIdle s
  | .enterDoze => Sys2Proof.Machine.execEnterDoze s
  | .enterSleep => Sys2Proof.Machine.execEnterSleep s
  | .rtcAlarm => Sys2Proof.Machine.execRtcAlarm s
  | .frameWake => Sys2Proof.Machine.execFrameWake s
  | .exitToActive => Sys2Proof.Machine.execExitToActive s
  | .unitError die k => Sys2Proof.Machine.execUnitError die k s
  | .resetFence => Sys2Proof.Machine.execResetFence s
  | .resetDump => Sys2Proof.Machine.execResetDump s
  | .resetComputeDomain => Sys2Proof.Machine.execResetComputeDomain s
  | .resetResume => Sys2Proof.Machine.execResetResume s
  | .handoverEnd => Sys2Proof.Machine.execHandoverEnd s
  | .trialReversion => Sys2Proof.Machine.execTrialReversion s
  | .thermtripRelease => Sys2Proof.Machine.execThermtripRelease s
  | .refreshRateChange stack deciC => Sys2Proof.Machine.execRefreshRateChange stack deciC s
  | .overrun ch req => Sys2Proof.Machine.execOverrun ch req s
  | .perstDeassertion => Sys2Proof.Machine.execPerstDeassertion s

end Sys2Proof.Machine
end

