-- ==== Sys2Proof/Safety.lean ====
section
/-!
DEFINITION. What a sound state of the module is (the invariants that every step keeps), and the words in which the statements
speak of a command's end.
-/
namespace Sys2Proof.Machine

/-- Device memory is in its canonical form. -/
abbrev State.memOk (s : State) : Prop := Memory.wf s.mem = true

/-- R39: the frame period in force, and the one that TB_PERIOD_SET holds, lie between 40 us and 2 s. -/
abbrev State.periodInRange (s : State) : Prop :=
  (40000000 ≤ s.tb.period.toNat ∧ s.tb.period.toNat ≤ 2000000000000) ∧
  (40000000 ≤ s.tb.periodSet.toNat ∧ s.tb.periodSet.toNat ≤ 2000000000000)

/-- Command k is c, it is at work with the given opcode, its descriptor lies within its meaning, and no UNMAP has removed a page that it
used (R51, R53, R58, R64, R73, R393). -/
abbrev State.working (s : State) (k op ext : Nat) (used : List (Nat × Nat)) (c : Cmd) : Prop :=
  readyCmd s k op = some c ∧ headClean c = true ∧ bodyClean c ext used = true ∧ crossedUnmap c = false

/-- Command k has ended with a status; its completion record is still to be written (R67, R68). -/
def State.ended (t : State) (k status : Nat) : Prop :=
  ∃ d, findCmd t k = some d ∧ d.st = .done ∧ d.status = BitVec.ofNat 16 status

/-- Command k has ended with a status and a RESULT (R67). -/
def State.endedWith (t : State) (k status : Nat) (result : W64) : Prop :=
  ∃ d, findCmd t k = some d ∧ d.st = .done ∧ d.status = BitVec.ofNat 16 status ∧ d.result = result

/-- The work of command c on this state when it runs to the command's end, without a fault and without a trapped event: what it
answers for RESULT and DETAIL (none where the spec states none), and its unit at the end. -/
def State.doesPart (s : State) (c : Cmd) (once : Bool) (work : EngM (Option (Option W64 × Option Nat))) :
    Option ((Option W64 × Option Nat) × Eng) :=
  match work { s := s, ctx := c.ctx, owner := 2 * c.k, once := once, reads := { seen := c.prog.seen, kept := c.prog.kept } } with
  | .ok r e => if e.trap.isNone ∧ (findCmd e.s c.k).map (·.warns) = some c.warns then r.map fun x => (x, e) else none
  | .error _ _ => none

/-- The same for work that always ends its command. -/
def State.doesWork (s : State) (c : Cmd) (once : Bool) (work : EngM (Option W64 × Option Nat)) :
    Option ((Option W64 × Option Nat) × Eng) :=
  s.doesPart c once (do
    let r ← work
    pure (some r))

/-- Command c has ended with its work: the status is the lowest warning or OK (R89), RESULT and DETAIL are what the work
answers where the spec states them (R67), and memory, counters and error log are as the work left them. -/
def State.endedWork (t : State) (c : Cmd) (o : (Option W64 × Option Nat) × Eng) : Prop :=
  (∃ d, findCmd t c.k = some d ∧ d.st = .done ∧ d.status = BitVec.ofNat 16 (warnStatus (c.warns ||| o.2.warns)) ∧
    (∀ r, o.1.1 = some r → d.result = r) ∧ (∀ x, o.1.2 = some x → d.detail = BitVec.ofNat 32 x)) ∧
  t.mem = o.2.s.mem ∧ t.counters = o.2.s.counters ∧ t.log = o.2.s.log

/-- Core c of Basalt b fetches the word w, of operation `code`, for its launch d, which has not run across an UNMAP of its pages (R73);
u is the machine after the fetch (R143, R144). -/
def State.fetches (s u : State) (b c code w : Nat) (d : Cmd) : Prop :=
  coreCmd s (b * 64 + c) = some d ∧ crossedUnmap d = false ∧ decodeWord w = some code ∧
  ∃ e, fetchWord (b * 64 + c) (getCore s (b * 64 + c)).pc { s := { s with free := s.free + 1 }, ctx := d.ctx, owner := 2 * d.k }
    = .ok (some w) e ∧ dropUsed e.owner e.used e.s = u

/-- The instruction that the core executes. -/
def State.vx (s : State) (b c w : Nat) (d : Cmd) : Vx := { key := b * 64 + c, k := d.k, w := w, limit := elemLimit s d }

/-- From u to t core c of Basalt b became r, and no other core, no memory, no counter and no log entry changed. -/
def State.coreNow (u t : State) (b c : Nat) (r : Core) : Prop :=
  Tbl.find? t.cores (b * 64 + c) = some r ∧ (∀ j, j ≠ b * 64 + c → Tbl.find? t.cores j = Tbl.find? u.cores j) ∧
  t.mem = u.mem ∧ t.counters = u.counters ∧ t.log = u.log

/-- A packet of a type is taken at a port: it is whole, in order, for this module itself and not on its way to a waypoint, and its port may
carry its type (R308, R314, R316, R318, R321). -/
abbrev State.takes (s : State) (port ptype : Nat) (p : Packet) : Prop :=
  p.ptype.toNat = ptype ∧ packetWpActive p = false ∧ dstAddr p.dst = s.id.addr ∧ dstEdge p.dst = 0 ∧ s.sup.in40 = true ∧ lengthOk p = true ∧
  (takeLink port p s).1 = true ∧ ¬((port = 6 ∨ port = 7) ∧ edgeType ptype = false)

/-- The state with the packet taken from its port: the port's sequence number has counted on. -/
def State.taken (s : State) (port : Nat) (p : Packet) : State := (takeLink port p s).2

/-- A collective message of a kind is taken at a port, whole, with its check right, for a group known here and in its epoch; h is
its header (R256). -/
abbrev State.meets (s : State) (port kind : Nat) (p : Packet) (g : Group) (h : CollHdr) : Prop :=
  s.takes port ptColl p ∧ 32 ≤ p.payload.length ∧ collHdrOf p.payload = h ∧ h.kind = kind ∧ collCheckOk p.payload = true ∧
  findGroup s h.group = some g ∧ h.epoch = g.epoch

/-- Command k is the only one started, and no compute reset is due: nothing can fall between its units of work. -/
def State.alone (s : State) (k : Nat) : Prop := s.rst.stage = .none ∧ ∀ d ∈ s.cmds, d.st = .started → d.k = k

/-- Every command but k is as it was. -/
def State.othersSame (s t : State) (k : Nat) : Prop := ∀ j, j ≠ k → findCmd t j = findCmd s j

/-- R60: every command but k is as it was, but for a wait on a counter that an update released. -/
def State.othersReleased (s t : State) (k : Nat) : Prop :=
  ∀ j, j ≠ k → (findCmd t j).map (fun d => { d with waitMet := false, released := none }) =
    (findCmd s j).map (fun d => { d with waitMet := false, released := none })

/-- A management message of a code is taken at a port for the first time: whole, its CRC right, its LENGTH that of its layout; src
sent it, and bd is its body (R352, R353). -/
abbrev State.manages (s : State) (port code : Nat) (p : Packet) (src : BitVec 12) (bd : Bytes) : Prop :=
  s.takes port ptMgmt p ∧ field p.payload 0 2 = code ∧ p.payload.length = field p.payload 2 2 + 12 ∧
  field p.payload (8 + field p.payload 2 2) 4 = (crc32c (p.payload.take (8 + field p.payload 2 2))).toNat ∧
  dstAddr p.src = src ∧ (p.payload.drop 8).take (field p.payload 2 2) = bd ∧ mgmtLengthOk code bd = true ∧
  ∀ x ∈ s.fab.seen, x.1 ≠ (src, BitVec.ofNat 32 (field p.payload 4 4))

/-- The state u with the message p acknowledged to its sender with a status, where its code is acknowledged (R352). -/
def State.acknowledged (u : State) (code : Nat) (p : Packet) (status : Nat) : State :=
  ackMgmt (dstAddr p.src) code (BitVec.ofNat 32 (field p.payload 4 4)) status u

/-- A request that firmware carries out: written whole to a free channel of a module that is READY and awake, with CHECK, sender,
header, LENGTH and reserved bytes as they must be, and none of its objects held (R343-R346); bd is its body. -/
abbrev State.serves (s : State) (ch code : Nat) (req bd : Bytes) : Prop :=
  field req 0 2 = code ∧ ch < 32 ∧ hostUp s = true ∧ s.sup.in40 = true ∧ (getFn s ch).busy = false ∧ s.mb = .ready ∧
  checkOk req = true ∧ headerZero req = true ∧ field req 8 2 ≤ 3040 ∧ reqBody req = bd ∧
  ((msgRow code).any fun r => maySend r.sender ch && lengthFits r bd.length && reservedZero r bd) = true ∧
  mustDefer s s.deferred ch code bd = false

/-- The state with the request in its channel's buffer; writing GO is a wake source (R344, R381). -/
def State.given (s : State) (ch : Nat) (req : Bytes) : State := wakeUp (modFn ch (fun f => { f with reqBuf := padTo 3072 req }) s)

/-- The state u with the request answered with a status and a body (R344). -/
def State.answered (u : State) (ch : Nat) (req : Bytes) (status : Nat) (out : Bytes) : State :=
  respondCh ch (field req 0 2) (field req 4 4) status out u

/-- The state u with the request answered BUSY_DEFERRED (0x0031) and its work under way (R345). -/
def State.deferredAs (u : State) (ch : Nat) (req : Bytes) (waits : List (BitVec 32)) (bad : Nat) : State :=
  (deferReq ch (field req 0 2) (field req 4 4) (reqBody req) true waits bad u).answered ch req 0x0031 []

/-- The mailbox rows of a request on a channel, each with its message's code (R348). -/
def mailboxRows (ch : Nat) (req : Bytes) : List (Nat × Instr) :=
  [(0x0001, .identify ch req), (0x0002, .statusQuery ch req), (0x0003, .telemetryRead ch req), (0x0004, .logRead ch req),
   (0x0005, .micaSlices ch req), (0x0006, .bar2Set ch req), (0x0100, .ctxCreate ch req), (0x0101, .ctxDestroy ch req),
   (0x0102, .ctxQuery ch req), (0x0103, .counterGrant ch req), (0x0104, .queueCreate ch req), (0x0105, .queueDestroy ch req),
   (0x0106, .tileGrant ch req), (0x0200, .mapPages ch req), (0x0201, .unmap ch req), (0x0202, .memQuery ch req)] ++
  [(0x0203, .channelMapout ch req), (0x0300, .stageqCreate ch req), (0x0301, .stageqQuery ch req), (0x0302, .stageqDestroy ch req),
   (0x0310, .groupSet ch req), (0x0311, .groupQuery ch req), (0x0320, .roleSet ch req), (0x0321, .leave ch req),
   (0x0400, .powerCapSet ch req), (0x0401, .oppointSet ch req), (0x0402, .wakeSet ch req), (0x0500, .fwQuery ch req),
   (0x0501, .fwStage ch req), (0x0502, .fwActivate ch req), (0x0503, .fwCommit ch req), (0x0504, .recalibrate ch req)]

end Sys2Proof.Machine
end

