-- ==== Sys2Proof/Certificates/Slice0/Obligations.lean ====
section
/-!
DEFINITION. The statements for the provers, one definition each: what the spec's numbered rules say of the commands, and the
invariants that every step keeps.
-/
open Sys2Proof Sys2Proof.Machine

/-- O1. For every state whose queue of waiting commands begins with c, step answers exactly what exec answers for c on that
state with the rest of the queue. The queue is the model's own (log entry 1). -/
def Obligations.StepRunsFrontCommand : Prop :=
  ∀ (s : State) (c : Instr) (rest : List Instr), s.pending = c :: rest → step s = exec c { s with pending := rest }

/-- O2. With an empty queue, a running time base and phase below 0xFFFF, step answers a next state whose frame time word is one
more; device memory, counters, contexts' registers and the error log are unchanged. That an idle step is one ph is the
model's choice (log entry 1). For every command and state, if exec answers a next state then the queue of waiting commands
and the variant of the module are unchanged and the counter of free values has not gone back. Queue and counter are the
model's own (log entries 1 and 3). -/
def Obligations.IdleStepAndQueueFrame : Prop :=
  (
  ∀ s : State, s.pending = [] → tbRuns s = true → s.tb.phase ≠ 0xFFFF →
    ∃ t, step s = .next t ∧ t.ftw = s.ftw + 1 ∧
      t = { s with tb := t.tb, sup := t.sup, cmds := t.cmds, ends := t.ends, ctxs := t.ctxs, nodes := t.nodes, stalls := t.stalls,
                   pow := t.pow }) ∧
  (
  ∀ (c : Instr) (s t : State), exec c s = .next t → t.pending = s.pending ∧ t.id.v384 = s.id.v384 ∧ s.free ≤ t.free)

/-- O3. For every state whose device memory is in canonical form (addresses strictly rising, no byte equal to what an unlisted
address reads as), if step answers a next state, its memory is in canonical form. The form is the model's own. -/
def Obligations.StepKeepsMemoryCanonical : Prop :=
  ∀ s t : State, s.memOk → step s = .next t → t.memOk

/-- O4. For every state in which the period in force and TB_PERIOD_SET lie between 40 us and 2 s, whatever the command (a
register write, a PERIOD_ARM, an adopted tick interval, a supply event, a frame boundary), if step answers a next state then
both still do. A PF write to TB_PERIOD_SET of a value outside that range changes nothing but PERIOD_ERR, which is set. -/
def Obligations.FramePeriodStaysInRange : Prop :=
  (∀ s t : State, s.periodInRange → step s = .next t → t.periodInRange) ∧
  ∀ (s : State) (v : W64), pfWrites s 0 = true →
    ((v.extractLsb' 0 41).toNat < 40000000 ∨ 2000000000000 < (v.extractLsb' 0 41).toNat) →
    exec (.tbPeriodSetWrite 0 v) s = .next { s with tb := { s.tb with periodErr := true } }

/-- O5. At supply MB_STATUS.STATE is READY, TB_NOW is 0, the source is free-running in state FREE, TB_PERIOD and TB_PERIOD_SET
hold 0x3B9ACA00, context 0 is ACTIVE and every other context FREE, every sync counter reads zero, no queue and no fetched
command exists, the power state is ACTIVE, and NEWEST of the dump directory reads 0xFF. State.reset has its memory in
canonical form and both frame periods in range. -/
def Obligations.SupplyValuesMeetTheInvariants : Prop :=
  (
  State.reset.mb = .ready ∧ State.reset.ftw = 0 ∧ State.reset.tb.source = 0 ∧ State.reset.tb.st = .free ∧
  State.reset.tb.period = 0x3B9ACA00 ∧ State.reset.tb.periodSet = 0x3B9ACA00 ∧
  (getCtx State.reset 0).st = .active ∧ (∀ c, c ≠ 0 → (getCtx State.reset c).st = .free) ∧
  (∀ n, ctrGet State.reset n = 0) ∧ State.reset.queues = [] ∧ State.reset.cmds = [] ∧ State.reset.pow.pst = .active ∧
  memRead State.reset.mem (dumpBase State.reset.id + 8) = 0xFF) ∧
  (
  State.reset.memOk ∧ State.reset.periodInRange)

/-- O6. When the time base runs, FRAME_BOUNDARY answers a next state at phase 0 of the next frame, which is the local frame plus
1, or N + 1 after a frame that a tick of a higher number N started (R30); an armed period change whose frame is reached
comes into force and disarms; an unarmed or later one changes nothing; the source in force is the written one; FRAME_OUT is
high when enabled. Memory, counters, queues and cores are unchanged. In LOCKED, at or past phase 0x0400 of a frame for whose
start no tick was accepted, HOLDOVER_ENTRY puts the time base in HOLDOVER, sets TICK_LOST, counts HOLDOVERS (saturating) and
writes one TICK_LOST log entry; the frame time word, memory and the counters are unchanged. -/
def Obligations.FramesBeginAndTicksGoMissing : Prop :=
  (
  ∀ s : State, tbRuns s = true → s.sup.in40 = true →
    ∃ t, exec .frameBoundary s = .next t ∧ t.tb.phase = 0 ∧
      t.tb.frame = nextFrame s.tb ∧
      (s.tb.arm = true → s.tb.atFrame ≤ t.tb.frame → t.tb.period = s.tb.periodSet ∧ t.tb.arm = false) ∧
      ((s.tb.arm = false ∨ t.tb.frame < s.tb.atFrame) → t.tb.period = s.tb.period ∧ t.tb.arm = s.tb.arm) ∧
      t.tb.source = s.tb.sourceField ∧ (s.tb.frameOutEn = true → t.sup.frameOut = .high) ∧
      t.mem = s.mem ∧ t.counters = s.counters ∧ t.queues = s.queues ∧ t.cores = s.cores ∧ t.log = s.log) ∧
  (
  ∀ s : State, tbRuns s = true → s.tb.st = .locked → 0x0400 ≤ s.tb.phase → s.tb.lastTickFrame < s.tb.frame →
    ∃ t, exec .holdoverEntry s = .next t ∧ t.tb.st = .holdover ∧ t.tb.tickLost = true ∧
      t.tb.holdovers = satAdd s.tb.holdovers 1 ∧ t.ftw = s.ftw ∧ t.log.next = s.log.next + 1 ∧ t.mem = s.mem ∧
      t.counters = s.counters ∧ t.cmds = s.cmds)

/-- O7. For a PF that reaches the running time base: TB_CTRL takes FRAME_OUT_EN, and SOURCE unless it is the reserved code, and
drives FRAME_OUT low when disabled; TB_PERIOD_SET takes a period from 40 us to 2 s and otherwise only sets PERIOD_ERR;
TB_PERIOD_AT takes ARM and FRAME. Every other part of the state is unchanged. A write of another function changes nothing. -/
def Obligations.TimeBaseRegisterWrites : Prop :=
  ∀ (s : State) (v : W64), s.sup.perst = false → tbRuns s = true →
    (∃ t, exec (.tbCtrlWrite 0 v) s = .next t ∧ t.tb.frameOutEn = v.getLsbD 4 ∧
      t.tb.sourceField = (if v.extractLsb' 0 2 = 3 then s.tb.sourceField else v.extractLsb' 0 2) ∧
      t = { s with tb := { s.tb with frameOutEn := t.tb.frameOutEn, sourceField := t.tb.sourceField },
                   sup := { s.sup with frameOut := if v.getLsbD 4 then s.sup.frameOut else .low } }) ∧
    exec (.tbPeriodSetWrite 0 v) s = .next { s with tb :=
      if 40000000 ≤ (v.extractLsb' 0 41).toNat ∧ (v.extractLsb' 0 41).toNat ≤ 2000000000000
      then { s.tb with periodSet := v.extractLsb' 0 41 } else { s.tb with periodErr := true } } ∧
    exec (.tbPeriodAtWrite 0 v) s = .next { s with tb := { s.tb with arm := v.getLsbD 63, atFrame := v.extractLsb' 0 48 } } ∧
    (∀ fn, fn ≠ 0 → exec (.tbCtrlWrite fn v) s = .next s ∧ exec (.tbPeriodSetWrite fn v) s = .next s ∧
      exec (.tbPeriodAtWrite fn v) s = .next s)

/-- O8. In LOCKED with source FRAME_IN, an edge of at least 20 ns that arrives at most 0x0400 ph past the last boundary, and not
more than half a frame, counts in ACCEPTED and leaves the frame number as it is; within 0x0010 ph its error is trimmed over
the frame, beyond that it is removed at half rate. Later than 0x0400 ph and not within 0x0400 ph of the next boundary it
counts in REJECTED. An edge shorter than 10 ns changes nothing. A TICK that the module takes while its time base runs:
before join or from a module other than the tick parent it only counts in REJECTED; with a source other than FABRIC it
changes nothing; in LOCKED with source FABRIC, naming the local frame and with a corrected error of at most 0x0400 ph (and
at most half a frame) past the boundary, and no re-base due (BACKWARD clear, or a host context exists), it counts in
ACCEPTED, moves neither the frame time nor the state LOCKED, and the hop delay register holds the port's delay in ns. Memory
and counters are unchanged. Taking a packet counts the port's link sequence number on. -/
def Obligations.TicksAreJudged : Prop :=
  (
  ∀ (s : State) (high : Nat), tbRuns s = true → s.tb.source = 1 → s.tb.st = .locked → s.tb.needAcq = false → 0 < s.tb.period.toNat →
    (high < 10 → exec (.frameIn high) s = .next s) ∧
    (20 ≤ high → s.tb.phase.toNat ≤ 0x0400 → s.fab.confirmed = false →
      ∃ t, exec (.frameIn high) s = .next t ∧ t.tb.accepted = s.tb.accepted + 1 ∧ t.tb.frame = s.tb.frame ∧ t.tb.phase = s.tb.phase ∧
        t.tb.lastTickFrame = s.tb.frame ∧ t.tb.st = .locked ∧
        (s.tb.phase.toNat ≤ 0x10 → t.tb.trimU = ((s.tb.phase.toNat * s.tb.period.toNat : Nat) : Int)) ∧
        (0x10 < s.tb.phase.toNat → t.tb.slowU = s.tb.phase.toNat * s.tb.period.toNat) ∧
        t = { s with tb := t.tb }) ∧
    (20 ≤ high → 0x0400 < s.tb.phase.toNat → s.tb.phase.toNat < 0xFC00 → s.tb.rejTimes = [] →
      ∃ t, exec (.frameIn high) s = .next t ∧ t.tb.rejected = satAdd s.tb.rejected 1 ∧ t.tb.accepted = s.tb.accepted ∧
        t.tb.st = .locked ∧ t = { s with tb := t.tb })) ∧
  (
  ∀ (s : State) (port : Nat) (p : Packet), s.takes port ptTick p → tbRuns s = true →
    (s.fab.confirmed = false ∨ s.tb.tickParent ≠ some (dstAddr p.src) → exec (.tick port p) s =
      .next { s.taken port p with tb := { (s.taken port p).tb with rejected := satAdd s.tb.rejected 1 } }) ∧
    (s.fab.confirmed = true → s.tb.tickParent = some (dstAddr p.src) → s.tb.source ≠ 2 →
      exec (.tick port p) s = .next (s.taken port p)) ∧
    (s.fab.confirmed = true → s.tb.tickParent = some (dstAddr p.src) → s.tb.source = 2 → s.tb.st = .locked → s.tb.needAcq = false →
      BitVec.ofNat 48 (field p.payload 0 8 / 65536) = s.tb.frame → 0 < s.tb.period.toNat →
      (s.tb.backward = false ∨ hostCtxExists s = true) →
      field p.payload 8 8 * 65536 ≤ s.tb.phase.toNat * s.tb.period.toNat →
      s.tb.phase.toNat * s.tb.period.toNat - field p.payload 8 8 * 65536 ≤ 0x0400 * s.tb.period.toNat →
      ∃ t, exec (.tick port p) s = .next t ∧ t.tb.accepted = s.tb.accepted + 1 ∧ t.tb.rejected = s.tb.rejected ∧ t.ftw = s.ftw ∧
        t.tb.st = .locked ∧ t.tb.hopDelayNs = BitVec.ofNat 16 (((getPort s port).delayPs.toNat + 500) / 1000) ∧
        t.mem = s.mem ∧ t.counters = s.counters))

/-- O9. For a host that reaches the module and an aligned offset: a write to TB_STATUS by the PF clears PERIOD_ERR and TICK_LOST
where the written bit is 1 and changes nothing else; a write to MB_STATUS clears EVENT_LOST, OVERRUN and DONE of the writing
function where the bit is 1; MB_EVENT_VEC and EVENT_HEAD take their fields; a write of the request buffer while BUSY only
sets OVERRUN; every register below 0x2000 but TB_STATUS (TB_CTRL, TB_PERIOD_SET and TB_PERIOD_AT have rows of their own) and
every offset from 0x6000 to 0xFFFF leaves the state unchanged. A read of an aligned offset of BAR0 below 0x20000 by a host
that reaches the module puts the 64-bit value on the bus, little-endian. Reading TB_COUNTS at 0x30 then clears HOLDOVERS,
REJECTED and ACCEPTED; reading PORT_ERR or PORT_DROP of a port clears that port's four or two counts; any other register is
unchanged. Nothing else changes. The offsets beyond 0x1200 hold no RC field. -/
def Obligations.RegisterAccessesActOnNamedFields : Prop :=
  (
  ∀ (s : State) (fn off : Nat) (v : W64), hostUp s = true → off % 8 = 0 →
    (off = 0x10 → pfWrites s fn = true → exec (.registerWrite fn off v) s = .next { s with tb := { s.tb with
        periodErr := s.tb.periodErr && !v.getLsbD 7, tickLost := s.tb.tickLost && !v.getLsbD 4 } }) ∧
    (off = 0x10 → pfWrites s fn = false → exec (.registerWrite fn off v) s = .next s) ∧
    (off = 0x2008 → exec (.registerWrite fn off v) s = .next (modFn fn (fun f => { f with
        evLost := f.evLost && !v.getLsbD 3, overrun := f.overrun && !v.getLsbD 2, doneBit := f.doneBit && !v.getLsbD 1 }) s)) ∧
    (off = 0x2010 → exec (.registerWrite fn off v) s =
        .next (modFn fn (fun f => { f with vecEn := v.getLsbD 15, vec := v.setWidth 11 }) s)) ∧
    (off = 0x2018 → exec (.registerWrite fn off v) s = .next (modFn fn (fun f => { f with evHead := v.setWidth 32 }) s)) ∧
    (0x2400 ≤ off → off < 0x3000 → (getFn s fn).busy = true →
        exec (.registerWrite fn off v) s = .next (modFn fn (fun f => { f with overrun := true }) s)) ∧
    ((off < 0x2000 ∧ off ≠ 0x10) ∨ (0x6000 ≤ off ∧ off < 0x10000) → exec (.registerWrite fn off v) s = .next s)) ∧
  (
  ∀ (s : State) (fn off : Nat), hostUp s = true → off % 8 = 0 → off < 0x20000 →
    ∃ t, exec (.readToClear fn off) s = .next t ∧ t.bus = s.bus ++ [leBytes 8 (readReg fn off s)] ∧
      t = { s with bus := t.bus, tb := t.tb, fab := t.fab } ∧
      (off = 0x30 → t.tb = { s.tb with holdovers := 0, rejected := 0, accepted := 0 } ∧ t.fab = s.fab) ∧
      (off ≠ 0x30 → t.tb = s.tb) ∧
      t.fab = { s.fab with ports := t.fab.ports } ∧
      (∀ p, p < 8 → off / 0x20 ≠ 0x88 + p → getPort t p = getPort s p) ∧
      (off % 0x20 ≠ 0x08 → off % 0x20 ≠ 0x10 → t.fab = s.fab) ∧
      (∀ p, p < 8 → off = 0x1108 + 0x20 * p → getPort t p =
        { getPort s p with replays := 0, hdrCrc := 0, fecUncorr := 0, retunes := 0 }) ∧
      (∀ p, p < 8 → off = 0x1110 + 0x20 * p → getPort t p = { getPort s p with downDrop := 0, unroutable := 0 }) ∧
      (off < 0x1100 ∨ 0x1200 ≤ off → t.fab = s.fab))

/-- O10. For the function that owns a queue: a DB_TAIL write of T with (T - P) mod 2^32 nonzero and (T - H) mod 2^32 at most the
ring size makes T the tail and the blocks between the two tails available; otherwise the queue is unchanged. No other queue
changes. The entry ignores a write of a function that does not own the queue. A DB_CQHEAD write sets CQ_HEAD and changes
nothing else. (A doorbell is also a wake source, R381.) When a queue may fetch (its context ACTIVE, commands between head
and tail), the ring's pages are readable and every block up to the one that EXT counts is available, COMMAND_FETCH adds one
fetched command with those blocks and the queue's context, and the head advances by the number of blocks; a command whose
integrity word agrees is not started. Memory is as it was when no page it read is DISCARD_AFTER_LAST. While blocks are
missing nothing changes. That at most 56 commands of a queue are held is the model's reading of R405. -/
def Obligations.DoorbellsAndFetch : Prop :=
  (
  ∀ (s : State) (fn q : Nat) (v : W64) (x : Queue), hostUp s = true → findQueue s q = some x →
    (ownsQueue s fn q = true →
      (∃ t, exec (.dbTail fn q v) s = .next t ∧
        findQueue t q = some (if v.setWidth 32 - x.tail ≠ 0 ∧ (v.setWidth 32 - x.head : BitVec 32).toNat ≤ 2 ^ x.ringN
          then { x with tail := v.setWidth 32, rung := x.rung ++ ringBlocks s x (v.setWidth 32 - x.tail : BitVec 32).toNat }
          else x) ∧
        (∀ p, p ≠ q → findQueue t p = findQueue s p) ∧ t = { s with queues := t.queues, pow := t.pow }) ∧
      (∃ t, exec (.dbCqhead fn q v) s = .next t ∧ findQueue t q = some { x with cqHead := v.setWidth 32 } ∧
        (∀ p, p ≠ q → findQueue t p = findQueue s p) ∧ t = { s with queues := t.queues })) ∧
    (ownsQueue s fn q = false → exec (.dbTail fn q v) s = .next s ∧ exec (.dbCqhead fn q v) s = .next s)) ∧
  (
  ∀ (s : State) (q : Nat) (x : Queue) (e : Eng), findQueue s q = some x → mayFetch s q x = true →
    (∀ bs, fetchBlocks x { s := s, ctx := x.ctx, owner := 2 * q + 1 } = .ok (some bs) e →
      integrity bs = BitVec.ofNat 16 (field bs 14 2) → e.s = s → e.wr = [] → e.used = [] →
      ∃ t, exec (.commandFetch q) s = .next t ∧
        t.cmds = s.cmds ++ [{
          k := s.nextK, q := q, ctx := x.ctx, basalt := x.basalt, blocks := bs
          changed := x.rung.any fun r => decide ((r.1 - x.head).toNat < bs.length / 64) && decide (slotBytes s x r.1 ≠ some r.2) }] ∧
        t.nextK = s.nextK + 1 ∧ (findQueue t q).map (fun y => { y with rung := x.rung }) =
          some { x with head := x.head + BitVec.ofNat 32 (bs.length / 64) } ∧ t.mem = s.mem ∧ t.counters = s.counters) ∧
    (∀ bs, fetchBlocks x { s := s, ctx := x.ctx, owner := 2 * q + 1 } = .ok (some bs) e →
      integrity bs ≠ BitVec.ofNat 16 (field bs 14 2) → e.s = s → e.wr = [] → e.used = [] → (∀ d ∈ s.cmds, d.k < s.nextK) →
      ∃ t, exec (.commandFetch q) s = .next t ∧ t.nextK = s.nextK + 1 ∧ (getCtx t x.ctx).st = .error ∧
        (∀ d, findCmd t s.nextK = some d → d.st = .done ∧ d.status = 0x0030 ∧ d.raised = true) ∧
        (hasRoom s q = true → findCmd t s.nextK = none)) ∧
    (fetchBlocks x { s := s, ctx := x.ctx, owner := 2 * q + 1 } = .ok none e → exec (.commandFetch q) s = .next s))

/-- O11. A fetched command that is ready (the conditions of R57) and that its engines accept starts. With an opcode of the table
and ring slots left as they were, it is started at the present frame time with a completion credit and a watchdog count of
0; memory, counters, queues, cores and fabric are unchanged, and so are the other commands, but that the end of a header
wait restarts the watchdog counts that the command processor keeps for waits of the same context. With a reserved opcode, or
ring slots changed after their doorbell, its result is unpredictable: it has ended, and nothing is stated of what it wrote.
When the command at the head of its queue, of an ACTIVE context, intact, not held by an earlier wait, waits on a counter
that its context does not own, COMMAND_START ends it with TRANSLATION_FAULT (0x0020): its context enters ERROR; with a
completion slot free it completes at once, else it is done with that status, its fault information naming the counter.
Without a header signal no counter has changed. -/
def Obligations.CommandsStartOrFault : Prop :=
  (
  ∀ (s : State) (k : Nat) (c : Cmd), findCmd s k = some c →
    (cmdWaitEn c && !c.replay && !ctrOwned s c.ctx (cmdWaitCtr c)) = false → ready s c = true → accepts s c = true →
    (opEngine (cmdOp c) ≠ .reserved → c.changed = false → ∃ t, exec (.commandStart k) s = .next t ∧
      findCmd t k = some { c with
        st := .started, begun := true, credit := true, startFtw := s.ftw, startGen := (getCtx s c.ctx).prefGen,
        startNo := s.nextStart, wdog := 0, oldUcode := false } ∧
      (∀ j, j ≠ k → findCmd t j = (findCmd s j).map fun d =>
        if cmdWaitEn c = true ∧ c.replay = false ∧ sameWatch s c d = true then { d with wdog := 0 } else d) ∧
      t.mem = s.mem ∧ t.counters = s.counters ∧ t.queues = s.queues ∧ t.fab = s.fab ∧ t.cores = s.cores) ∧
    (opEngine (cmdOp c) = .reserved ∨ c.changed = true → ∃ t d, exec (.commandStart k) s = .next t ∧
      findCmd t k = some d ∧ d.begun = true ∧ d.st = .done ∧ t.nextStart = s.nextStart + 1)) ∧
  (
  ∀ (s : State) (k : Nat) (c : Cmd), findCmd s k = some c → (headCmd s c.q).map (·.k) = some k → (getCtx s c.ctx).st = .active →
    inReset s = false → c.intact = true → heldByWait s c.q = false → cmdWaitEn c = true → c.replay = false → c.raised = false →
    ctrOwned s c.ctx (cmdWaitCtr c) = false →
    ∃ t, exec (.commandStart k) s = .next t ∧ (getCtx t c.ctx).st = .error ∧
      ((c.credit || hasRoom s c.q) = true → findCmd t k = none) ∧
      ((c.credit || hasRoom s c.q) = false → ∃ d, findCmd t k = some d ∧ d.st = .done ∧ d.status = 0x0020 ∧
        d.fault.addr = BitVec.ofNat 64 (cmdWaitCtr c)) ∧
      (cmdSigEn c = false → t.counters = s.counters))

/-- O12. A command whose work ended with OK, without COMPL, that has no answer to wait for: COMMAND_COMPLETION takes it off the
list, leaves memory and every queue (its CQ_TAIL among them) unchanged, and with SIG_EN on an owned counter adds SIG_INC to
that counter (without saturating it); without SIG_EN no counter changes. Every other command is as it was, but for a wait on
that counter that the update releases. For a command that ended with OK and has COMPL set, without a header signal, whose
completion ring slot its context may write: memory is what writing the record's 32 bytes (SEQ, OPCODE, UNIT, STATUS, FTW,
RESULT, DETAIL, PHASE) through the context's mappings at CQ base + 32 * (CQ_TAIL mod size) leaves, CQ_TAIL advances by 1,
the command leaves the list, counters and every other queue are unchanged. -/
def Obligations.CompletionsWriteRecordAndSignal : Prop :=
  (
  ∀ (s : State) (k : Nat) (c : Cmd), findCmd s k = some c → mayComplete s c = true → c.status = 0 → cmdCompl c = false →
    (cmdSigEn c = false → ∃ t, exec (.commandCompletion k) s = .next t ∧ findCmd t k = none ∧ s.othersSame t k ∧ t.mem = s.mem ∧
      t.queues = s.queues ∧ t.counters = s.counters ∧ t.log = s.log) ∧
    (cmdSigEn c = true → ctrOwned s c.ctx (cmdSigCtr c) = true → (ctrGet s (cmdSigCtr c)).toNat + cmdSigInc c < 2 ^ 64 →
      ∃ t, exec (.commandCompletion k) s = .next t ∧ findCmd t k = none ∧ s.othersReleased t k ∧ t.mem = s.mem ∧ t.queues = s.queues ∧
        (ctrGet t (cmdSigCtr c)).toNat = (ctrGet s (cmdSigCtr c)).toNat + cmdSigInc c ∧
        (∀ n, n ≠ cmdSigCtr c → ctrGet t n = ctrGet s n))) ∧
  (
  ∀ (s : State) (k : Nat) (c : Cmd) (x : Queue) (e : Eng), findCmd s k = some c → mayComplete s c = true → c.status = 0 →
    cmdCompl c = true → cmdSigEn c = false → findQueue s c.q = some x →
    writeV (x.cqVa + x.cqTail.toNat % 2 ^ x.cqN * 32) (recordBytes s c x 0 c.result c.detail)
      { s := s, ctx := c.ctx, owner := 2 * c.k } = .ok () e →
    (recordBytes s c x 0 c.result c.detail).length = 32 ∧
    ∃ t, exec (.commandCompletion k) s = .next t ∧ t.mem = e.s.mem ∧
      findQueue t c.q = some { x with cqTail := x.cqTail + 1 } ∧ (∀ p, p ≠ c.q → findQueue t p = findQueue s p) ∧
      findCmd t k = none ∧ s.othersSame t k ∧ t.counters = s.counters)

/-- O13. A started level 3 command of an engine that pre-empts, an engine of which a ready command of levels 0 to 2 wants, is
marked pre-empted; its cores leave the core list and are saved with all they hold but their data caches; memory, counters
and every other core are unchanged. A pre-empted command resumes when no other command runs on its engines and none of
levels 0 to 2 wants them: it is marked running again, each core saved for it is back as it was saved, and every other core
is unchanged. -/
def Obligations.PreemptionKeepsTheCommandAndItsCores : Prop :=
  ∀ (s : State) (k : Nat) (c : Cmd), findCmd s k = some c → c.st = .started → inReset s = false →
    (c.preempted = false → effPrio s c = 3 → preemptible c = true → wanted s c = true →
      ∃ t, exec (.preemption k) s = .next t ∧ findCmd t k = some { c with preempted := true } ∧ s.othersSame t k ∧
        (∀ x, x ∈ t.cores ↔ x ∈ s.cores ∧ x.2.k ≠ some k) ∧
        (∀ x ∈ s.cores, x.2.k = some k → ((k, x.1), { x.2 with dcache := [] }) ∈ t.saved) ∧ (∀ x ∈ s.saved, x ∈ t.saved) ∧
        t = { s with cmds := t.cmds, cores := t.cores, saved := t.saved }) ∧
    (c.preempted = true → wanted s c = false →
      (∀ d ∈ s.cmds, d.st = .started → d.k ≠ k → d.preempted = false → shares (cmdUnits s c) (cmdUnits s d) = false) →
      ∃ t, exec (.preemptedResume k) s = .next t ∧ findCmd t k = some { c with preempted := false } ∧ s.othersSame t k ∧
        (∀ x ∈ s.saved, x.1.1 = k → (∀ y ∈ s.saved, y.1 = x.1 → y = x) → Tbl.find? t.cores x.1.2 = some x.2) ∧
        (∀ j, (∀ x ∈ s.saved, x.1 ≠ (k, j)) → Tbl.find? t.cores j = Tbl.find? s.cores j) ∧
        (∀ x, x ∈ t.saved ↔ x ∈ s.saved ∧ x.1.1 ≠ k) ∧ t = { s with cmds := t.cmds, cores := t.cores, saved := t.saved })

/-- O14. When a command's watchdog count has reached WDOG_PH of its context: WATCHDOG_EXPIRY ends it with HANG (0x0023) and its
count in the fault information. With a completion credit or a free slot it completes at once, as COMMAND_COMPLETION
completes a command so ended; else it waits so, done with that status; either way its ACTIVE context enters ERROR.
WATCHDOG_ESCALATION, outside a compute reset and outside a handover, starts a reset with cause 1 (HANG_ESCALATED) that names
the command's context, and MB_STATUS.STATE is COMPUTE_RESET; counters and queues are unchanged. A command whose count has
not reached WDOG_PH is left alone by both. -/
def Obligations.ExpiredCommandsEndWithHang : Prop :=
  ∀ (s : State) (k : Nat) (c : Cmd), findCmd s k = some c → c.raised = false →
    (expired s c = true → ∃ t, exec (.watchdogExpiry k) s = .next t ∧
      ((getCtx s c.ctx).st = .active → (getCtx t c.ctx).st = .error) ∧
      ((c.credit || hasRoom s c.q) = true → findCmd t k = none ∧ ∃ u d, findCmd u k = some d ∧ d.st = .done ∧ d.status = 0x0023 ∧
        d.fault.aux = BitVec.ofNat 64 c.wdog ∧ u = { s with cmds := u.cmds, fab := u.fab, free := u.free } ∧ s.othersSame u k ∧
        exec (.commandCompletion k) u = .next t) ∧
      ((c.credit || hasRoom s c.q) = false → ∃ d, findCmd t k = some d ∧ d.st = .done ∧ d.status = 0x0023 ∧
        d.fault.aux = BitVec.ofNat 64 c.wdog ∧ t.counters = s.counters)) ∧
    (expired s c = true → s.rst.stage = .none → s.mb ≠ .handover →
      ∃ t, exec (.watchdogEscalation k) s = .next t ∧ t.mb = .computeReset ∧ t.rst.stage = .detected ∧ t.rst.cause = 1 ∧
        t.rst.ctx = c.ctx ∧ t.log.resets = s.log.resets + 1 ∧ t.counters = s.counters ∧ t.queues = s.queues) ∧
    (expired s c = false → exec (.watchdogExpiry k) s = .next s ∧ exec (.watchdogEscalation k) s = .next s)

/-- O15. The CRC of no bytes is 0x0000; appending a byte x to bytes of CRC r gives the CRC got from r XOR (x shifted left by 8)
by eight steps that shift left by one bit and XOR 0x1021 when the bit shifted out was 1; the nine ASCII bytes 1 to 9 give
0x31C3. -/
def Obligations.IntegrityWordIsXmodem : Prop :=
  crc16 [] = 0x0000 ∧
  (∀ (bs : Bytes) (x : Byte), crc16 (bs ++ [x]) =
    (List.range 8).foldl (fun (r : BitVec 16) _ => if r.getLsbD 15 then (r <<< 1) ^^^ 0x1021 else r <<< 1) (crc16 bs ^^^ (x.setWidth 16 <<< 8))) ∧
  crc16 [0x31, 0x32, 0x33, 0x34, 0x35, 0x36, 0x37, 0x38, 0x39] = 0x31C3

/-- O16. For a command at work whose descriptor is well formed: NOP ends; FENCE (scope at most 2) ends once the commands and
remote writes that its scope names are complete, and until then nothing changes; WAIT_FRAME, at its start and at the instant
TARGET is reached, ends when TARGET is reached and no time that the same forward step skipped before it is still to be acted
on (R33), and before TARGET changes nothing; DEBUG_MARK ends with TAG in RESULT. The status is OK or the command's lowest
warning. Only the command itself changes, and no memory, counter, queue or context (the count of free values, the model's
own, grows; log entry 3). -/
def Obligations.ControlCommandsComplete : Prop :=
  ∀ (s : State) (k : Nat) (c : Cmd),
    (s.working k 0x00 0 [] c → ∃ t, exec (.nop k) s = .next t ∧ t.ended k (warnStatus c.warns) ∧ s.othersSame t k ∧
      t = { s with cmds := t.cmds, free := t.free }) ∧
    (s.working k 0x01 0 [(16, 1)] c → body c 16 1 ≤ 2 →
      (fenceDone s c = true → ∃ t, exec (.fence k) s = .next t ∧ t.ended k (warnStatus c.warns) ∧ s.othersSame t k ∧
        t = { s with cmds := t.cmds, free := t.free }) ∧
      (fenceDone s c = false → exec (.fence k) s = .next s)) ∧
    (s.working k 0x04 0 [(24, 8)] c →
      (∀ n, n ≤ s.ftw.toNat → (s.tb.skipFrom.toNat < n → n ≤ s.tb.skipTo.toNat → ∀ u ∈ dueTimes s, s.tb.skipFrom.toNat < u → n ≤ u) →
        mayAct s n = true) ∧
      (mayAct s (body c 24 8) = true →
        (∃ t, exec (.waitFrame k) s = .next t ∧ t.ended k (warnStatus c.warns) ∧ s.othersSame t k ∧
          t = { s with cmds := t.cmds, free := t.free }) ∧
        (∃ t, exec (.waitFrameReached k) s = .next t ∧ t.ended k (warnStatus c.warns) ∧ s.othersSame t k ∧
          t = { s with cmds := t.cmds, free := t.free })) ∧
      (s.ftw.toNat < body c 24 8 → exec (.waitFrame k) s = .next s ∧ exec (.waitFrameReached k) s = .next s)) ∧
    (s.working k 0x06 0 [(24, 8)] c → ∃ t, exec (.debugMark k) s = .next t ∧
      t.endedWith k (warnStatus c.warns) (BitVec.ofNat 64 (body c 24 8)) ∧ s.othersSame t k ∧
      t = { s with cmds := t.cmds, free := t.free })

/-- O17. For a WAIT_COUNT at work: on a counter of its context at or above the 64-bit threshold, or once an update has released
it, it ends, RESULT the counter's value at its release; below it, not released, nothing changes. Its TIMEOUT row ends it
with the warning PARTIAL_DEADLINE (0x0001, the lowest) when TIMEOUT is nonzero, reached (in the order of R33), and the
threshold is not; it changes nothing with TIMEOUT zero or before TIMEOUT. On a counter that the context does not own either
row ends it with TRANSLATION_FAULT. Memory, counters and queues never change. The end restarts the watchdog counts of the
context's other waits (R388). For a SIGNAL at work (flags legal), every earlier command of its queue complete, on a counter
of its context and without a report to memory: an add gives the sum, or 0xFFFF_FFFF_FFFF_FFFF with status SATURATED (0x0004
bit of the warnings, code 0x0002) when the sum would exceed it; a set gives the larger of the old and the written value;
RESULT is the new value, no other counter changes, memory is unchanged, and every other command is as it was but for a wait
that the update releases. With a report it ends as its work (the update, and the report) leaves it. While an earlier command
is incomplete nothing changes. On a counter of another context it ends with TRANSLATION_FAULT and no counter changes. -/
def Obligations.CountersWaitAndSignal : Prop :=
  (
  ∀ (s : State) (k : Nat) (c : Cmd), s.working k 0x02 0 waitCountBody c →
    (ctrOwned s c.ctx (body c 16 2) = true →
      (body c 24 8 ≤ (ctrGet s (body c 16 2)).toNat → c.released = none → ∃ t, exec (.waitCount k) s = .next t ∧
        t.endedWith k (warnStatus c.warns) (ctrGet s (body c 16 2)) ∧ t = { s with cmds := t.cmds, free := t.free }) ∧
      (∀ v, c.released = some v → ∃ t, exec (.waitCount k) s = .next t ∧
        t.endedWith k (warnStatus c.warns) v ∧ t = { s with cmds := t.cmds, free := t.free }) ∧
      ((ctrGet s (body c 16 2)).toNat < body c 24 8 → c.released = none → exec (.waitCount k) s = .next s) ∧
      (body c 32 8 ≠ 0 → mayAct s (body c 32 8) = true → (ctrGet s (body c 16 2)).toNat < body c 24 8 → c.released = none →
        ∃ t, exec (.waitCountTimeout k) s = .next t ∧ t.ended k (warnStatus (c.warns ||| 0x2)) ∧ s.othersSame t k ∧
          t = { s with cmds := t.cmds, free := t.free }) ∧
      (body c 32 8 = 0 ∨ s.ftw.toNat < body c 32 8 → exec (.waitCountTimeout k) s = .next s)) ∧
    (ctrOwned s c.ctx (body c 16 2) = false →
      (∃ t, exec (.waitCount k) s = .next t ∧ t.ended k 0x0020 ∧ t.mem = s.mem ∧ t.counters = s.counters) ∧
      (∃ t, exec (.waitCountTimeout k) s = .next t ∧ t.ended k 0x0020 ∧ t.mem = s.mem ∧ t.counters = s.counters))) ∧
  (
  ∀ (s : State) (k : Nat) (c : Cmd), s.working k 0x03 0 [(16, 3), (24, 8), (32, 8)] c → body c 18 1 < 4 →
    (bitOf (body c 18 1) 1 = true → body c 32 8 % 8 = 0) →
    (earlierDone s c = false → exec (.signal k) s = .next s) ∧
    (earlierDone s c = true → 2 ≤ body c 18 1 → ∀ o, s.doesWork c false (signalWork c) = some o →
      ∃ t, exec (.signal k) s = .next t ∧ t.endedWork c o) ∧
    (earlierDone s c = true → body c 18 1 < 2 → ctrOwned s c.ctx (body c 16 2) = true →
      ∃ t new, exec (.signal k) s = .next t ∧
        new = (if body c 18 1 = 1 then max (ctrGet s (body c 16 2)).toNat (body c 24 8)
          else min ((ctrGet s (body c 16 2)).toNat + body c 24 8) (2 ^ 64 - 1)) ∧
        ctrGet t (body c 16 2) = BitVec.ofNat 64 new ∧ (∀ n, n ≠ body c 16 2 → ctrGet t n = ctrGet s n) ∧
        t.endedWith k (warnStatus (if body c 18 1 = 0 ∧ 2 ^ 64 ≤ (ctrGet s (body c 16 2)).toNat + body c 24 8
          then c.warns ||| 0x4 else c.warns)) (BitVec.ofNat 64 new) ∧ s.othersReleased t k ∧ t.mem = s.mem ∧ t.queues = s.queues) ∧
    (earlierDone s c = true → ctrOwned s c.ctx (body c 16 2) = false →
      ∃ t, exec (.signal k) s = .next t ∧ t.ended k 0x0020 ∧ t.mem = s.mem ∧ t.counters = s.counters))

/-- O18. A HINT_POWER at work with LEVEL 1 to 64 appends one armed hint for each named Basalt of which its context holds a
cluster and which has fewer than eight, and ends with the mask of those Basalts in RESULT. A hint without a value takes the
value 1 within 64 ticks of TARGET. A hint whose TARGET is reached and held HOLD_PH ph is removed, in the order of R33. A
BALLAST_PASS of an idle cluster whose schedule exceeds f_act and that has 77 cycles of credit takes them from it. Nothing
else changes: no memory, counter, tile bank or context. -/
def Obligations.HintsArmRunAndDisarm : Prop :=
  (∀ (s : State) (k : Nat) (c : Cmd), s.working k 0x05 0 [(16, 4), (24, 8)] c → 1 ≤ body c 16 1 → body c 16 1 ≤ 64 →
    ∃ t, exec (.hintPower k) s = .next t ∧ t.pow.hints = s.pow.hints ++ (hintArms s c).map (armHint s c) ∧
      t.endedWith k (warnStatus c.warns) (BitVec.ofNat 64 ((hintArms s c).foldl (fun m b => m + 2 ^ b) 0)) ∧
      s.othersSame t k ∧ t = { s with cmds := t.cmds, free := t.free, pow := { s.pow with hints := t.pow.hints } }) ∧
  (∀ (s : State) (h : Nat) (x : Hint), s.pow.hints[h]? = some x →
    (x.value = none → untilU s x.target ≤ 64 * tickU → ∃ t, exec (.hintScheduleStart h) s = .next t ∧
      t.pow.hints[h]? = some { x with value := some 1 } ∧ (∀ j, j ≠ h → t.pow.hints[j]? = s.pow.hints[j]?) ∧
      t = { s with pow := { s.pow with hints := t.pow.hints } }) ∧
    (s.reached x.target = true → x.holdPh ≤ x.heldPh → mayAct s (x.target.toNat + x.holdPh) = true → exec (.hintDisarm h) s =
      .next { s with pow := { s.pow with hints := s.pow.hints.eraseIdx h } }) ∧
    (s.reached x.target = false → exec (.hintDisarm h) s = .next s)) ∧
  (∀ (s : State) (b c : Nat), s.pow.fAct.getD b 0 < scheduleOf s b → clusterIdle s b c = true → inReset s = false →
    77 * 64 ≤ creditNow s b c → ∃ t, exec (.ballastPass b c) s = .next t ∧
      (getCluster t b c).credit = creditNow s b c - 64 * 77 ∧ (getCluster t b c).creditU = s.tb.nowU ∧
      t = { s with clusters := t.clusters })

/-- O19. For a COPY at work alone on the module, without CONVERT, of one row of n bytes within one readable local page, to n
bytes within one writable local page apart from the source, with no page marked DISCARD_AFTER_LAST and no DEGRADED channel:
the byte at each device address of the destination is the source's byte, every byte at another address reads as before; the
command ends with RESULT n; counters, queues and cores are unchanged. (The device address of a byte is the one under which
the model keeps it, R286; should two bytes of the destination share one, the later stays.) For a well-formed command at work
alone on the module whose operands are readable and writable (its transfers meet no fault and no trapped event): COPY,
COPY_T, GATHER_ROWS and SCATTER_ROWS end with the lowest warning or OK and the RESULT of their work, memory being what the
work wrote. (How many transfers one step does while other commands run is free, log entries 26 and 126.) A PREFETCH (not a
cancel) of local pages, nothing asked for before, ends with the number of its lines that do not translate in DETAIL and at
most the number of those that do in RESULT, exactly that number when so few lines are held that no cache lacks room; it
writes no memory and no counter. -/
def Obligations.MoversMoveTheirBytes : Prop :=
  (
  ∀ (s : State) (k : Nat) (c : Cmd) (m d : Mapping), s.working k 0x10 0 cpUsed c → cpLegal c = true → s.alone k →
    cpConvert c = false → body c 20 4 = 1 → 0 < body c 24 4 → anyDiscard s = false → (∀ x, Tbl.get .normal s.pow.chans x ≠ .degraded) →
    c.prog.next = 0 → c.prog.kept = [] →
    translate s c.ctx (body c 32 8) false = some m → m.remote = false → body c 32 8 + body c 24 4 ≤ m.va + pageSize m →
    translate s c.ctx (body c 40 8) true = some d → d.remote = false → body c 40 8 + body c 24 4 ≤ d.va + pageSize d →
    overlap (extentsOf s c.ctx (cpRuns c).1) (extentsOf s c.ctx (cpRuns c).2) = false →
    ∃ t, exec (.copy k) s = .next t ∧ t.endedWith k (warnStatus c.warns) (BitVec.ofNat 64 (body c 24 4)) ∧
      (∀ i, i < body c 24 4 →
        (∀ j, i < j → j < body c 24 4 →
          canon s.id (mapTarget d (body c 40 8) + j) ≠ canon s.id (mapTarget d (body c 40 8) + i)) →
        memRead t.mem (canon s.id (mapTarget d (body c 40 8) + i)) = memRead s.mem (canon s.id (mapTarget m (body c 32 8) + i))) ∧
      (∀ a, (∀ i, i < body c 24 4 → a ≠ canon s.id (mapTarget d (body c 40 8) + i)) → memRead t.mem a = memRead s.mem a) ∧
      t.counters = s.counters ∧ t.queues = s.queues ∧ t.cores = s.cores) ∧
  (
  ∀ (s : State) (k : Nat) (c : Cmd),
    (∀ (o : (Option W64 × Option Nat) × Eng)
      (i : Instr × Nat × (Cmd → Nat) × List (Nat × Nat) × (Cmd → Bool) × Bool × (Cmd → Nat) × (Cmd → Nat → EngM (Option (Option W64 × Option Nat)))),
      i ∈ ([(.copy k, 0x10, cpExt, cpUsed, cpLegal, true, fun c => body c 20 4 * cpParts c, cpWork),
          (.copyT k, 0x11, fun _ => 0, [(16, 1), (20, 8), (32, 24)], fun c => decide (body c 16 1 < 4), true,
            fun c => body c 24 4 * ctParts c, ctWork),
          (.gatherRows k, 0x12, fun _ => 0, [(16, 8), (24, 32)], fun c => decide (1 ≤ grBytes c), true,
            fun c => grCount c * grParts c, grWork),
          (.scatterRows k, 0x13, fun _ => 0, [(16, 8), (24, 34)], scLegal, false, fun c => grCount c * grParts c, scWork)] :
        List (Instr × Nat × (Cmd → Nat) × List (Nat × Nat) × (Cmd → Bool) × Bool × (Cmd → Nat) ×
          (Cmd → Nat → EngM (Option (Option W64 × Option Nat))))) →
      s.working k i.2.1 (i.2.2.1 c) i.2.2.2.1 c → i.2.2.2.2.1 c = true → s.alone k →
      ({ s with free := s.free + 1 } : State).doesPart c i.2.2.2.2.2.1 (i.2.2.2.2.2.2.2 c (i.2.2.2.2.2.2.1 c)) = some o →
      ∃ t, exec i.1 s = .next t ∧ t.endedWork c o) ∧
    (s.working k 0x14 0 [(16, 1), (24, 16)] c → body c 16 1 < 2 → c.prog.next = 0 → c.prog.good = 0 → c.prog.refused = 0 →
      (∀ r ∈ s.fab.reqs, r.k ≠ some k) →
      (∀ l ∈ pfLines c, ∀ m, translate s c.ctx (l * 128) false = some m → m.remote = false) →
      ∃ t d n, exec (.prefetch k) s = .next t ∧ findCmd t k = some d ∧ d.st = .done ∧
        d.status = BitVec.ofNat 16 (warnStatus c.warns) ∧ d.result = BitVec.ofNat 64 n ∧
        n ≤ ((pfLines c).filter fun l => (translate s c.ctx (l * 128) false).isSome).length ∧
        (s.pref.length + s.lines.length + (pfLines c).length ≤ 16 → (body c 16 1 = 1 → micaLines s ≠ 0) →
          n = ((pfLines c).filter fun l => (translate s c.ctx (l * 128) false).isSome).length) ∧
        d.detail = BitVec.ofNat 32 ((pfLines c).filter fun l => (translate s c.ctx (l * 128) false).isNone).length ∧
        t.mem = s.mem ∧ t.counters = s.counters))

/-- O20. For a PREFETCH_CANCEL at work (flags only CANCEL): the context's generation is one more, modulo 2^16; no prefetched
line of the context carries the new value when the command ends; and a line with the old tag that arrives afterwards makes
no byte readable that was not readable without it. No memory, counter or other context changes. -/
def Obligations.PrefetchCancelRaisesTheGeneration : Prop :=
  ∀ (s : State) (k : Nat) (c : Cmd), s.working k 0x14 0 [(16, 1)] c → body c 16 1 = 2 →
    ∃ t, exec (.prefetchCancel k) s = .next t ∧ t.ended k (warnStatus c.warns) ∧
      (getCtx t c.ctx).prefGen = (getCtx s c.ctx).prefGen + 1 ∧
      (∀ l ∈ t.pref, ¬(l.ctx = c.ctx ∧ l.gen = (getCtx t c.ctx).prefGen)) ∧
      (∀ (l : PrefLine) (o va : Nat) (m : Mapping), l.ctx = c.ctx → l.gen = (getCtx s c.ctx).prefGen →
        remoteByte { s := { t with pref := t.pref ++ [l] }, ctx := c.ctx, owner := o } m va =
          remoteByte { s := t, ctx := c.ctx, owner := o } m va) ∧
      (∀ x, x ≠ c.ctx → getCtx t x = getCtx s x) ∧ t.mem = s.mem ∧ t.counters = s.counters

/-- O21. A legal FEED_BIND at work whose COUNTER its context owns (or that unbinds) is noted on its feed, once, and nothing else
changes; on a foreign counter it ends with TRANSLATION_FAULT. At the frame boundary, when it is the only binding that waits,
the feed takes the command's fields, with that boundary's frame as the first slot to close, no other feed and no byte of
memory changes, and the command ends. -/
def Obligations.FeedsBindAtTheFrameBoundary : Prop :=
  (∀ (s : State) (k : Nat) (c : Cmd), s.working k 0x15 0 [(16, 1), (18, 14), (32, 16)] c → feedLegal c = true →
    (fbSlots c = 0 ∨ ctrOwned s c.ctx (body c 30 2) = true → ∃ t, exec (.feedBind k) s = .next t ∧
      (k ∈ (getFeed s (fbFeed c)).bindCmds → getFeed t (fbFeed c) = getFeed s (fbFeed c)) ∧
      (k ∉ (getFeed s (fbFeed c)).bindCmds →
        getFeed t (fbFeed c) = { getFeed s (fbFeed c) with bindCmds := (getFeed s (fbFeed c)).bindCmds ++ [k] }) ∧
      (∀ f, f ≠ fbFeed c → getFeed t f = getFeed s f) ∧ t = { s with feeds := t.feeds }) ∧
    (fbSlots c ≠ 0 → ctrOwned s c.ctx (body c 30 2) = false → ∃ t, exec (.feedBind k) s = .next t ∧ t.ended k 0x0020 ∧
      t.feeds = s.feeds ∧ t.mem = s.mem ∧ t.counters = s.counters)) ∧
  (∀ (s : State) (f k : Nat) (x : Feed) (c : Cmd), tbRuns s = true → s.sup.in40 = true →
    s.feeds.filter (fun e => !e.2.bindCmds.isEmpty) = [(f, x)] → getFeed s f = x → x.bindCmds = [k] → findCmd s k = some c →
    c.st = .started →
    ∃ t, exec .frameBoundary s = .next t ∧ t.ended k (warnStatus c.warns) ∧ getFeed t f = feedOf c t.tb.frame.toNat x ∧
      (∀ g, g ≠ f → getFeed t g = getFeed s g) ∧ t.mem = s.mem)

/-- O22. A FEED packet that the module takes at its feed's edge port, aligned, within the slot, for the current or the next
frame and before that slot's deadline writes its payload at its offset in the slot (where the mapping allows) and adds its
length to the bytes received; any other is counted as dropped and writes nothing. FEED_DB by the owning function sets the
bytes received of such a frame, and otherwise counts as dropped; it never writes memory. When the deadline of the next slot
of a bound feed is reached: in a compute reset the slot is held with the bytes it received, and no memory or counter
changes; otherwise its 16-byte status record (frame, bytes, state 1 when the slot is full, else 2) is written at STATUS + 16
* (frame mod slots), or where no mapping allows it the ACTIVE context enters ERROR, and COUNTER gains one (up to its largest
value), no other counter changing. The following frame's slot is next to close. Before the deadline, and while a time that
the same forward step skipped before it is still to be acted on (R33), nothing changes. -/
def Obligations.FeedSlotsFillAndClose : Prop :=
  (
  (∀ (s : State) (port : Nat) (p : Packet) (x : Feed), s.takes port ptFeed p → getFeed s p.dstCtx.toNat = x →
    (∀ n e, feedFrame s (p.addr.toNat / 2 ^ 32) = some n → x.bound = true → x.source + 5 = port → 6 ≤ port →
      s.reachedN (feedDeadline x n) = false → bits p.addr.toNat 25 0 + p.payload.length ≤ x.slotBytes →
      bits p.addr.toNat 25 0 % 64 = 0 → p.payload.length % 64 = 0 →
      writeV (x.ringVa + n % max 1 x.slots * x.slotBytes + bits p.addr.toNat 25 0) p.payload
        { s := s.taken port p, ctx := x.ctx, owner := 0 } = .ok () e →
      ∃ t, exec (.pktFeed port p) s = .next t ∧ t.mem = e.s.mem ∧
        Tbl.get 0 (getFeed t p.dstCtx.toNat).recv n = Tbl.get 0 x.recv n + p.payload.length ∧
        (getFeed t p.dstCtx.toNat).dropped = x.dropped) ∧
    (feedFrame s (p.addr.toNat / 2 ^ 32) = none ∨ x.bound = false ∨ x.source + 5 ≠ port ∨ port < 6 ∨
        (∃ n, feedFrame s (p.addr.toNat / 2 ^ 32) = some n ∧ s.reachedN (feedDeadline x n) = true) ∨
        x.slotBytes < bits p.addr.toNat 25 0 + p.payload.length ∨ bits p.addr.toNat 25 0 % 64 ≠ 0 ∨ p.payload.length % 64 ≠ 0 →
      exec (.pktFeed port p) s =
        .next (modFeed p.dstCtx.toNat (fun x => { x with dropped := x.dropped + 1 }) (s.taken port p)))) ∧
  (∀ (s : State) (fn f : Nat) (v : W64) (x : Feed), s.sup.perst = false → f ≤ 255 → getFeed s f = x → x.bound = true →
    (∀ n, x.source = 0 → (getCtx s x.ctx).owner = fn → feedFrame s (v.extractLsb' 32 32).toNat = some n →
      s.reachedN (feedDeadline x n) = false →
      exec (.feedDb fn f v) s = .next (modFeed f (fun y => { y with recv := Tbl.put 0 y.recv n (v.setWidth 32).toNat }) s)) ∧
    (x.source ≠ 0 ∨ (getCtx s x.ctx).owner ≠ fn ∨ feedFrame s (v.extractLsb' 32 32).toNat = none ∨
        (∃ n, feedFrame s (v.extractLsb' 32 32).toNat = some n ∧ s.reachedN (feedDeadline x n) = true) →
      exec (.feedDb fn f v) s = .next (modFeed f (fun x => { x with dropped := x.dropped + 1 }) s)))) ∧
  (
  ∀ (s : State) (f : Nat) (x : Feed), getFeed s f = x → x.bound = true →
    (mayAct s (feedDeadline x x.nextClose) = false → exec (.feedSlotClose f) s = .next s) ∧
    (mayAct s (feedDeadline x x.nextClose) = true → inReset s = true →
      ∃ t, exec (.feedSlotClose f) s = .next t ∧ (getFeed t f).nextClose = x.nextClose + 1 ∧
        (getFeed t f).held = x.held ++ [(x.nextClose, Tbl.get 0 x.recv x.nextClose)] ∧ t = { s with feeds := t.feeds }) ∧
    (mayAct s (feedDeadline x x.nextClose) = true → inReset s = false →
      ∃ t, exec (.feedSlotClose f) s = .next t ∧ (getFeed t f).nextClose = x.nextClose + 1 ∧
        (ctrGet t x.counter).toNat = min ((ctrGet s x.counter).toNat + 1) (2 ^ 64 - 1) ∧
        (∀ n, n ≠ x.counter → ctrGet t n = ctrGet s n) ∧
        ∀ u, u = modFeed f (fun y => { y with nextClose := x.nextClose + 1, recv := Tbl.del y.recv x.nextClose }) s →
          (∀ e, writeV (x.statusVa + x.nextClose % max 1 x.slots * 16)
              (leBytes 8 x.nextClose ++ leBytes 4 (Tbl.get 0 x.recv x.nextClose)
                ++ leBytes 1 (if Tbl.get 0 x.recv x.nextClose = x.slotBytes then 1 else 2) ++ leBytes 3 0)
              { s := u, ctx := x.ctx, owner := 0 } = .ok () e → t.mem = e.s.mem) ∧
          (∀ r e, writeV (x.statusVa + x.nextClose % max 1 x.slots * 16)
              (leBytes 8 x.nextClose ++ leBytes 4 (Tbl.get 0 x.recv x.nextClose)
                ++ leBytes 1 (if Tbl.get 0 x.recv x.nextClose = x.slotBytes then 1 else 2) ++ leBytes 3 0)
              { s := u, ctx := x.ctx, owner := 0 } = .error r e → (getCtx s x.ctx).st = .active → (getCtx t x.ctx).st = .error)))

/-- O23. For a legal MA_LOAD at work: when its context holds every tile named, no earlier run of a SPLIT cluster is still at
work on them and no other command is started, it ends with what its load answers (the tiles made VALID in RESULT); while an
earlier run is at work nothing changes; a tile that is not held ends it with TRANSLATION_FAULT, the record naming the first
such tile. For a legal MA_SWAP: with the tiles held and no earlier command at work on their clusters, every tile of an
EXCLUSIVE cluster it names has its other bank active, no other tile's active bank changes, and it ends with RESULT 0; while
an earlier command is at work nothing changes; a tile not held ends it like a load. How many tiles one step loads while
other commands run is free (log entry 26). -/
def Obligations.LoadsAndSwapsOfTiles : Prop :=
  ∀ (s : State) (k : Nat) (c : Cmd),
    (s.working k 0x20 0 [(16, 3), (20, 8), (32, 24)] c → ldLegal c = true →
      ((∀ i, i < (maTiles s c).2 → grantedTile s c.ctx c.basalt (i + (maTiles s c).1) = true) →
        (loadFree s c = false → exec (.maLoad k) s = .next s) ∧
        (loadFree s c = true → s.alone k → ∀ o,
          (markLoading c { s with free := s.free + 1 }).doesPart c true (ldWork c (ldTiles c)) = some o →
          ∃ t, exec (.maLoad k) s = .next t ∧ t.endedWork c o)) ∧
      (∀ i, i < (maTiles s c).2 → grantedTile s c.ctx c.basalt (i + (maTiles s c).1) = false →
        (∀ j, j < i → grantedTile s c.ctx c.basalt (j + (maTiles s c).1) = true) →
        ∃ t d, exec (.maLoad k) s = .next t ∧ findCmd t k = some d ∧ d.st = .done ∧ d.status = 0x0020 ∧
          d.fault.addr = BitVec.ofNat 64 (i + (maTiles s c).1) ∧ t.mem = s.mem ∧ t.banks = s.banks)) ∧
    (s.working k 0x21 0 [(16, 4)] c → 1 ≤ body c 18 2 → body c 16 2 + body c 18 2 ≤ 512 →
      ((∀ i, i < body c 18 2 → grantedTile s c.ctx c.basalt (i + body c 16 2) = true) →
        (swapFree s c = true → ∃ t, exec (.maSwap k) s = .next t ∧ t.endedWith k (warnStatus c.warns) 0 ∧
          (∀ i, i < body c 18 2 → (getCluster s c.basalt ((i + body c 16 2) / 32)).mode = .exclusive →
            Tbl.get 0 t.activeBank (c.basalt * 512 + (i + body c 16 2)) =
              1 - Tbl.get 0 s.activeBank (c.basalt * 512 + (i + body c 16 2))) ∧
          (∀ n, (∀ i, i < body c 18 2 → (getCluster s c.basalt ((i + body c 16 2) / 32)).mode = .exclusive →
            n ≠ c.basalt * 512 + (i + body c 16 2)) → Tbl.get 0 t.activeBank n = Tbl.get 0 s.activeBank n) ∧
          t = { s with cmds := t.cmds, free := t.free, activeBank := t.activeBank }) ∧
        (swapFree s c = false → exec (.maSwap k) s = .next s)) ∧
      (∀ i, i < body c 18 2 → grantedTile s c.ctx c.basalt (i + body c 16 2) = false →
        (∀ j, j < i → grantedTile s c.ctx c.basalt (j + body c 16 2) = true) →
        ∃ t d, exec (.maSwap k) s = .next t ∧ findCmd t k = some d ∧ d.st = .done ∧ d.status = 0x0020 ∧
          d.fault.addr = BitVec.ofNat 64 (i + body c 16 2) ∧ t.mem = s.mem ∧ t.activeBank = s.activeBank))

/-- O24. For a legal run at work whose tiles pass the checks of R106 under one layout and whose streams its context owns: when
its vectors last (no fault, trap, stream wait or want of issue credit), the run ends with what its vectors answer. One
TILE_PASS of an MA_RUN or MA_RUN_T on the tiles does one vector, and when that is the last the run ends; the pass has taken
L cycles of every cluster's credit. At issue fraction 0, or while a cluster of the run has less than L cycles of credit, no
row of a run on tiles does a vector: the run stays started at its vector and memory is unchanged (R125). A tile that the
checks refuse ends the run with TRANSLATION_FAULT naming it; a LOST one ends it with RESET_ABORTED. -/
def Obligations.MatrixRunsEndWithTheirVectors : Prop :=
  ∀ (s : State) (k : Nat) (c : Cmd) (o : Instr × RunKind × Nat),
    o ∈ ([(.maRun k, .forward, 0x22), (.maRunT k, .transposed, 0x23), (.maElem k, .elementwise, 0x24)] : List (Instr × RunKind × Nat)) →
    s.working k o.2.2 (runExt c) (runUsed o.2.1) c → runLegal o.2.1 c = true →
    (∀ i, checkTiles s c = .fault i → ∃ t d, exec o.1 s = .next t ∧ findCmd t k = some d ∧ d.st = .done ∧
      d.status = 0x0020 ∧ d.fault.addr = BitVec.ofNat 64 i ∧ t.mem = s.mem ∧ t.banks = s.banks) ∧
    (checkTiles s c = .lost → ∃ t, exec o.1 s = .next t ∧ t.ended k stResetAborted ∧ t.mem = s.mem ∧ t.banks = s.banks) ∧
    (∀ b, checkTiles s c = .good b → (runXstream c = true → ownsPair s c.ctx c.basalt (runXpair c) = true) →
      (runYstream c = true → ownsPair s c.ctx c.basalt (runYpair c) = true) →
      (∀ r, s.doesPart c false (runWork o.2.1 c b (body c 24 4)) = some r → ∃ t, exec o.1 s = .next t ∧ t.endedWork c r) ∧
      (o.2.2 ≠ 0x24 → strictRun s c = false →
        ∀ r, s.doesPart c false (runWork o.2.1 c b 1) = some r → ∃ t, exec (.tilePass k) s = .next t ∧ t.endedWork c r ∧
          (c.prog.next < body c 24 4 → c.prog.segment = 0 → ∀ i ∈ runClusters s c, 64 * passCycles c ≤ creditNow s c.basalt i ∧
            (getCluster t c.basalt i).credit = creditNow s c.basalt i - 64 * passCycles c ∧
            (getCluster t c.basalt i).creditU = s.tb.nowU)) ∧
      (strictRun s c = false → c.prog.segment = 0 → c.prog.next < body c 24 4 →
        (s.pow.f.getD c.basalt 0 = 0 ∨ ∃ i ∈ runClusters s c, creditNow s c.basalt i < 64 * passCycles c) →
        ∀ j, j = o.1 ∨ (o.2.2 ≠ 0x24 ∧ j = .tilePass k) → ∃ t d, exec j s = .next t ∧ findCmd t k = some d ∧ d.st = .started ∧
          d.prog.next = c.prog.next ∧ t.mem = s.mem ∧ t.banks = s.banks))

/-- O25. For a legal VX_LAUNCH at work that has not started its cores: every core of the mask holds the launch, runs at the
entry address with s1 the argument, s2 and LCORE its rank among the mask, s3 and NCORE their number, every other scalar
register 0, VL and VRESUME 0 and VTYPE invalid (its format is a free value, log entry 23); no other core, no memory and no
counter changes. For a legal VX_FUSED_BWD alone on the module whose streams are its context's and whose rows last it ends
with what its rows answer. -/
def Obligations.LaunchesStartTheirCores : Prop :=
  ∀ (s : State) (k : Nat) (c : Cmd),
    (s.working k 0x30 0 [(16, 24)] c → body c 16 8 % 4 = 0 → body c 32 8 ≠ 0 → c.prog.next = 0 →
      ∃ t, exec (.vxLaunch k) s = .next t ∧
        (∀ i j, (maskCores (body c 32 8))[i]? = some j → ∃ r, Tbl.find? t.cores (c.basalt * 64 + j) = some r ∧ r.k = some k ∧
          r.running = true ∧ r.pc = BitVec.ofNat 64 (body c 16 8) ∧ r.getS 1 = BitVec.ofNat 64 (body c 24 8) ∧
          r.getS 2 = BitVec.ofNat 64 i ∧ r.lcore = BitVec.ofNat 64 i ∧
          r.getS 3 = BitVec.ofNat 64 (maskCores (body c 32 8)).length ∧ r.ncore = BitVec.ofNat 64 (maskCores (body c 32 8)).length ∧
          (∀ n, n = 0 ∨ 3 < n → r.getS n = 0) ∧ r.vl = 0 ∧ r.vresume = 0 ∧ r.invalid = true ∧ r.barrier = false) ∧
        (∀ n, (∀ j ∈ maskCores (body c 32 8), n ≠ c.basalt * 64 + j) → Tbl.find? t.cores n = Tbl.find? s.cores n) ∧
        s.othersSame t k ∧ t = { s with cmds := t.cmds, cores := t.cores, free := t.free }) ∧
    (∀ o, s.working k 0x31 1 [(16, 5), (24, 76), (104, 8)] c → fbLegal c = true →
      (fbDyStream c = true → fbPair s c (fbOut c) = true) → (fbDxStream c = true → fbPair s c (fbIn c) = true) →
      s.alone k → ({ s with free := s.free + 1 } : State).doesPart c false (fbWork c (fbRows c)) = some o →
      ∃ t, exec (.vxFusedBwd k) s = .next t ∧ t.endedWork c o)

/-- O26. For a core that executes one of S.ADD, S.SUB, S.AND, S.OR, S.XOR, SHL, SHR, SRA, MUL, MULH, DIV, REM, SLT, SLTU, ADDI,
SHLI: sd takes the operation's value of s[sa] and s[sb] (or the sign-extended IMM16; division by zero gives all ones, its
remainder the dividend), the pc steps by 4, and nothing else of the core, no other core, no memory, no counter and no log
entry changes. A shift by 64 or more completes with a free value (log entry 20). s0 reads as zero and discards writes. For a
core that executes BNE, BLT or JAL: the pc becomes pc + 4 x IMM16 when the branch is taken (BNE: the registers differ; BLT:
signed less than) and pc + 4 otherwise; JAL writes pc + 4 to sd and jumps to s[sa] + 4 x IMM16, with s[sa] read before sd is
written. Nothing else of the core, no other core, no memory, counter or log entry changes. -/
def Obligations.ScalarIntegerAndBranchInstructions : Prop :=
  (
  (∀ (s u : State) (b c w : Nat) (d : Cmd) (r : Core) (o : Instr × Nat × (W64 → W64 → W64 → Prop)),
    o ∈ ([(.sAdd b c, 0x100, fun x y v => v = x + y), (.sSub b c, 0x101, fun x y v => v = x - y),
      (.sAnd b c, 0x102, fun x y v => v = x &&& y), (.sOr b c, 0x103, fun x y v => v = x ||| y),
      (.sXor b c, 0x104, fun x y v => v = x ^^^ y),
      (.shl b c, 0x105, fun x y v => y.toNat < 64 → v = x <<< y.toNat), (.shr b c, 0x106, fun x y v => y.toNat < 64 → v = x >>> y.toNat),
      (.sra b c, 0x107, fun x y v => y.toNat < 64 → v = x.sshiftRight y.toNat), (.mul b c, 0x108, fun x y v => v = x * y),
      (.mulh b c, 0x109, fun x y v => v = (x.signExtend 128 * y.signExtend 128).extractLsb' 64 64),
      (.div b c, 0x10A, fun x y v => v = if y = 0 then BitVec.allOnes 64 else x.sdiv y),
      (.rem b c, 0x10B, fun x y v => v = if y = 0 then x else x.srem y),
      (.slt b c, 0x10C, fun x y v => v = if x.toInt < y.toInt then 1 else 0),
      (.sltu b c, 0x10D, fun x y v => v = if x.toNat < y.toNat then 1 else 0),
      (.addi b c, 0x200, fun x _ v => v = x + BitVec.ofInt 64 (wImm w)),
      (.shli b c, 0x900, fun x _ v => v = (x <<< 16) ||| BitVec.ofNat 64 (w % 65536))] :
        List (Instr × Nat × (W64 → W64 → W64 → Prop))) →
    s.fetches u b c o.2.1 w d → Tbl.find? u.cores (b * 64 + c) = some r →
    ∃ t v, exec o.1 s = .next t ∧ o.2.2 (r.getS (wA w)) (r.getS (wB w)) v ∧
      u.coreNow t b c { Core.setS (wD w) v r with pc := r.pc + 4 }) ∧
  (∀ (r : Core) (v : W64), r.getS 0 = 0 ∧ Core.setS 0 v r = r) ∧
  (∀ (r : Core) (k : Nat) (v : W64), r.s.length = 32 → 0 < k → k < 32 → (Core.setS k v r).getS k = v ∧
    ∀ j, j ≠ k → (Core.setS k v r).getS j = r.getS j)) ∧
  (
  ∀ (s u : State) (b c w : Nat) (d : Cmd) (r : Core), Tbl.find? u.cores (b * 64 + c) = some r →
    (s.fetches u b c 0x500 w d → ∃ t, exec (.bne b c) s = .next t ∧ u.coreNow t b c { r with
      pc := if r.getS (wD w) = r.getS (wA w) then r.pc + 4 else r.pc + 4 * BitVec.ofInt 64 (wImm w) }) ∧
    (s.fetches u b c 0xA00 w d → ∃ t, exec (.blt b c) s = .next t ∧ u.coreNow t b c { r with
      pc := if (r.getS (wD w)).toInt < (r.getS (wA w)).toInt then r.pc + 4 * BitVec.ofInt 64 (wImm w) else r.pc + 4 }) ∧
    (s.fetches u b c 0x600 w d → ∃ t, exec (.jal b c) s = .next t ∧ u.coreNow t b c { Core.setS (wD w) (r.pc + 4) r with
      pc := r.getS (wA w) + 4 * BitVec.ofInt 64 (wImm w) }))

/-- O27. For a core that executes FADD, FSUB, FMUL, FDIV, FSQRT, FMIN, FMAX, FLT, FCVT.I or FCVT.F on operands whose event traps
nothing under the context's mode: sd takes the result in the format of FUNC bit 5 (FP64, or FP32 in the low 32 bits, the
bits above being a free value, log entry 21; FLT and FCVT.I write 64 bits), ARITH_STICKY of the context gains exactly the
bits of the event, the pc steps by 4, and no other register, core, memory byte, counter or log entry changes. -/
def Obligations.ScalarFloatInstructions : Prop :=
  ∀ (s u : State) (b c w : Nat) (d : Cmd) (r : Core), Tbl.find? u.cores (b * 64 + c) = some r →
    (∀ (o : Instr × Nat × (Fmt → RM → Nat → Nat → Nat × Ev)),
      o ∈ ([(.fadd b c, 0x700, codes2 fAdd), (.fsub b c, 0x701, codes2 fSub), (.fmul b c, 0x702, codes2 fMul),
        (.fdiv b c, 0x703, codes2 fDiv), (.fsqrt b c, 0x704, fun f rm x _ => fSqrt f rm (decodeF f x)),
        (.fmin b c, 0x705, fun f _ => minMaxF f true), (.fmax b c, 0x706, fun f _ => minMaxF f false),
        (.fcvtF b c, 0x709, fun f rm _ _ => roundV f rm (fvInt (r.getS (wA w)).toInt))] :
          List (Instr × Nat × (Fmt → RM → Nat → Nat → Nat × Ev))) →
      s.fetches u b c o.2.1 w d → ∀ res, res = o.2.2 (sfpFmt w) (modeRm (getCtx u d.ctx).arithMode)
        ((r.getS (wA w)).toNat % 2 ^ (sfpFmt w).w) ((r.getS (wB w)).toNat % 2 ^ (sfpFmt w).w) →
      (∀ role, evTrap (getCtx u d.ctx).arithMode 0 0 role ((b * 64 + c) % 64) res.2 = none) →
      ∃ t v, exec o.1 s = .next t ∧ u.coreNow t b c { Core.setS (wD w) v r with pc := r.pc + 4 } ∧
        (wFunc w < 32 → v = BitVec.ofNat 64 res.1) ∧ (32 ≤ wFunc w → v.setWidth 32 = BitVec.ofNat 32 res.1) ∧
        (getCtx t d.ctx).sticky = (getCtx u d.ctx).sticky ||| evSticky (getCtx u d.ctx).arithMode res.2) ∧
    (∀ (o : Instr × Nat × W64 × Ev),
      o ∈ ([(.flt b c, 0x707,
          flag64 (lessF (sfpFmt w) ((r.getS (wA w)).toNat % 2 ^ (sfpFmt w).w) ((r.getS (wB w)).toNat % 2 ^ (sfpFmt w).w)).1,
          (lessF (sfpFmt w) ((r.getS (wA w)).toNat % 2 ^ (sfpFmt w).w) ((r.getS (wB w)).toNat % 2 ^ (sfpFmt w).w)).2),
        (.fcvtI b c, 0x708,
          BitVec.ofInt 64 (toInt 64 (modeRm (getCtx u d.ctx).arithMode)
            (decodeF (sfpFmt w) ((r.getS (wA w)).toNat % 2 ^ (sfpFmt w).w))).1,
          (toInt 64 (modeRm (getCtx u d.ctx).arithMode)
            (decodeF (sfpFmt w) ((r.getS (wA w)).toNat % 2 ^ (sfpFmt w).w))).2)] : List (Instr × Nat × W64 × Ev)) →
      s.fetches u b c o.2.1 w d →
      (∀ role, evTrap (getCtx u d.ctx).arithMode 0 0 role ((b * 64 + c) % 64) o.2.2.2 = none) →
      ∃ t, exec o.1 s = .next t ∧ u.coreNow t b c { Core.setS (wD w) o.2.2.1 r with pc := r.pc + 4 } ∧
        (getCtx t d.ctx).sticky = (getCtx u d.ctx).sticky ||| evSticky (getCtx u d.ctx).arithMode o.2.2.2)

/-- O28. For a core that executes a scalar load or store whose bytes its context may access: LD gives sd the 8 bytes, LDW the 4
bytes sign-extended, that the core reads at s[sa] + IMM16 (64-bit wrapping); of the core it changes sd, the pc and what the
data cache holds, and with no page marked DISCARD_AFTER_LAST every byte of memory reads as before. ST and STW leave memory
as writing the low 8 or 4 bytes of s[sd] through the mappings there leaves it: every byte but those at the device addresses
of the stored ones reads as before; of the core the pc, its data cache and its waits for remote writes change. No other core
and no counter changes. What the core reads may come from its data cache (R155). CSRR gives sd the control register (VL,
VTYPE, VRESUME, 2048, core number, LCORE, NCORE, frame time); CSRW writes VRESUME alone. VFMT with a legal format puts it in
force, clears VL and VRESUME and gives SLIM in sd; with an illegal one it makes VTYPE invalid and gives 0. VSTRIP gives VL
and sd the smaller of s[sa] (SLIM for s0) and SLIM, or 0 while VTYPE is invalid. VEXIT stops the core; when it is the
launch's last one the launch ends with NCORE in RESULT. VBAR waits while a remote write of the core is unanswered; then with
s[sa] = 0 it invalidates the data cache and goes on; otherwise the core waits, its cache invalidated, until every core of
the launch has reached it: then releaseBarrier lets them all go on. -/
def Obligations.ScalarMemoryAndSystemInstructions : Prop :=
  (
  ∀ (s u : State) (b c w : Nat) (d : Cmd) (r : Core) (va : Nat), Tbl.find? u.cores (b * 64 + c) = some r →
    va = (r.getS (wA w) + BitVec.ofInt 64 (wImm w)).toNat →
    (∀ (o : Instr × Nat × Nat × (Bytes → W64)) (bs : Bytes) (e : Eng),
      o ∈ ([(.ld b c, 0x300, 8, fun bs => BitVec.ofNat 64 (leNat bs)),
        (.ldw b c, 0xB00, 4, fun bs => (BitVec.ofNat 32 (leNat bs)).signExtend 64)] : List (Instr × Nat × Nat × (Bytes → W64))) →
      s.fetches u b c o.2.1 w d → coreRead (s.vx b c w d) va o.2.2.1 { s := u, ctx := d.ctx, owner := 2 * d.k } = .ok bs e →
      bs.length = o.2.2.1 ∧ ∃ t r', exec o.1 s = .next t ∧ Tbl.find? t.cores (b * 64 + c) = some r' ∧
        r' = { Core.setS (wD w) (o.2.2.2 bs) r with pc := r.pc + 4, dcache := r'.dcache } ∧
        (∀ j, j ≠ b * 64 + c → Tbl.find? t.cores j = Tbl.find? u.cores j) ∧ t.mem = e.s.mem ∧ t.counters = u.counters ∧
        (anyDiscard u = false → t.mem = u.mem)) ∧
    (∀ (o : Instr × Nat × Nat) (e : Eng),
      o ∈ ([(.st b c, 0x400, 8), (.stw b c, 0xC00, 4)] : List (Instr × Nat × Nat)) → s.fetches u b c o.2.1 w d →
      coreWrite (s.vx b c w d) va (leBytes o.2.2 (r.getS (wD w)).toNat) { s := u, ctx := d.ctx, owner := 2 * d.k } = .ok () e →
      ∃ t r', exec o.1 s = .next t ∧ Tbl.find? t.cores (b * 64 + c) = some r' ∧
        r' = { r with pc := r.pc + 4, dcache := r'.dcache, waits := r'.waits } ∧
        (∀ j, j ≠ b * 64 + c → Tbl.find? t.cores j = Tbl.find? u.cores j) ∧ t.mem = e.s.mem ∧ t.counters = u.counters ∧
        (∀ a, (∀ i m, i < o.2.2 → translate u d.ctx (va + i) true = some m → m.remote = false →
          a ≠ canon u.id (mapTarget m (va + i))) → memRead t.mem a = memRead u.mem a))) ∧
  (
  ∀ (s u : State) (b c w : Nat) (d : Cmd) (r : Core), Tbl.find? u.cores (b * 64 + c) = some r →
    (s.fetches u b c 0x802 w d → ∀ v, readCsr u (s.vx b c w d) r (bits w 15 5) = some v →
      ∃ t, exec (.csrr b c) s = .next t ∧ u.coreNow t b c { Core.setS (wD w) v r with pc := r.pc + 4 }) ∧
    (s.fetches u b c 0x803 w d → bits w 15 5 < 8 →
      ∃ t, exec (.csrw b c) s = .next t ∧ u.coreNow t b c { r with
        vresume := if bits w 15 5 = 2 then (r.getS (wA w)).setWidth 12 else r.vresume
        pc := r.pc + 4 }) ∧
    (s.fetches u b c 0x2000 w d →
      (fmtLegal (bits w 15 8) = true → ∃ t, exec (.vfmt b c) s = .next t ∧ u.coreNow t b c (Core.setS (wD w)
        (BitVec.ofNat 64 (slimOf (bits w 15 8)))
        { r with fmt := BitVec.ofNat 8 (bits w 15 8), invalid := false, vl := 0, vresume := 0, pc := r.pc + 4 })) ∧
      (fmtLegal (bits w 15 8) = false → ∃ t, exec (.vfmt b c) s = .next t ∧ u.coreNow t b c (Core.setS (wD w) 0
        { r with invalid := true, vl := 0, vresume := 0, pc := r.pc + 4 }))) ∧
    (s.fetches u b c 0x2001 w d →
      (r.invalid = false → ∀ n, n = (if wA w = 0 then r.slim else min (r.getS (wA w)).toNat r.slim) →
        ∃ t, exec (.vstrip b c) s = .next t ∧ u.coreNow t b c (Core.setS (wD w) (BitVec.ofNat 64 n)
          { r with vl := BitVec.ofNat 12 n, vresume := 0, pc := r.pc + 4 })) ∧
      (r.invalid = true → ∃ t, exec (.vstrip b c) s = .next t ∧ u.coreNow t b c (Core.setS (wD w) 0
        { r with vl := 0, vresume := 0, pc := r.pc + 4 }))) ∧
    (s.fetches u b c 0x800 w d →
      ((∃ x ∈ u.cores, x.1 ≠ b * 64 + c ∧ x.2.k = some d.k ∧ x.2.running = true) → ∃ t, exec (.vexit b c) s = .next t ∧
        u.coreNow t b c { r with running := false }) ∧
      ((∀ x ∈ u.cores, x.1 ≠ b * 64 + c → x.2.k = some d.k → x.2.running = false) → ∃ t n, exec (.vexit b c) s = .next t ∧
        u.coreNow t b c { r with running := false } ∧ n = (coresOf t d.k).length ∧
        t.endedWith d.k (warnStatus d.warns) (BitVec.ofNat 64 n))) ∧
    (s.fetches u b c 0x801 w d →
      (coreWaits u (s.vx b c w d) ≠ [] → ∃ t, exec (.vbar b c) s = .next t ∧ u.coreNow t b c r) ∧
      (coreWaits u (s.vx b c w d) = [] → r.getS (wA w) = 0 →
        ∃ t, exec (.vbar b c) s = .next t ∧ u.coreNow t b c { r with dcache := [], waits := [], pc := r.pc + 4 }) ∧
      (coreWaits u (s.vx b c w d) = [] → r.getS (wA w) ≠ 0 →
        (∃ x ∈ u.cores, x.1 ≠ b * 64 + c ∧ x.2.k = some d.k ∧ x.2.barrier = false) →
        ∃ t, exec (.vbar b c) s = .next t ∧ u.coreNow t b c { r with dcache := [], waits := [], barrier := true }) ∧
      (coreWaits u (s.vx b c w d) = [] → r.getS (wA w) ≠ 0 → ∃ t, exec (.vbar b c) s = .next t ∧ t.mem = u.mem ∧
        t.counters = u.counters ∧ t.cores = (releaseBarrier d.k
          { u with cores := Tbl.ins u.cores (b * 64 + c) { r with dcache := [], waits := [], barrier := true } }).cores)))

/-- O29. For a core with 32 vector and 8 mask registers and an element width of 8, 16, 32 or 64 bits: an element written at
index i of the group from register q on (within the 32 registers) reads back as the value modulo 2^EW, every other element
of that width reads as before, and a mask bit written reads back while every other mask bit keeps its value. Scalar
registers, pc, VL and VTYPE are not touched. For a core that executes VLD or VST whose accesses all succeed: memory and the
core (but for its list of remote writes that are on their way) are as its element accesses left them (a mask store's bits
beyond VL are free values, log entry 22), VRESUME is 0 and the pc has stepped by 4. For VSRD on the core's own pair with VL
elements in the OUT queue: the elements are taken from the queue's front into the group; with fewer nothing of core, memory
or streams changes. For VSWR with room: VL elements of the group are appended to the IN queue; without room nothing of core,
memory or streams changes. With VL = 0 both only step the pc. A pair that is not the core's own, or not its context's, ends
the launch with TRANSLATION_FAULT, the fault information carrying the pair. -/
def Obligations.VectorElementsAndMemory : Prop :=
  (
  ∀ (r : Core) (q ew i x : Nat), r.v.length = 32 → r.m.length = 8 → (ew = 8 ∨ ew = 16 ∨ ew = 32 ∨ ew = 64) →
    q + i * ew / 2048 < 32 →
    (Core.setE q ew i x r).getE q ew i = x % 2 ^ ew ∧
    (∀ p j, p * 2048 + j * ew ≠ q * 2048 + i * ew → (Core.setE q ew i x r).getE p ew j = r.getE p ew j) ∧
    Core.setE q ew i x r = { r with v := (Core.setE q ew i x r).v } ∧
    (∀ n k b, n < 8 → k < 2048 → (Core.setM n k b r).getM n k = b ∧
      (∀ n' k', (n', k') ≠ (n, k) → (Core.setM n k b r).getM n' k' = r.getM n' k') ∧
      Core.setM n k b r = { r with m := (Core.setM n k b r).m })) ∧
  (
  ∀ (s u : State) (b c w : Nat) (d : Cmd) (r : Core), Tbl.find? u.cores (b * 64 + c) = some r →
    (∀ (o : Instr × Nat × (Vx → EngM Unit)) (e : Eng) (r' : Core),
      o ∈ ([(.vld b c, 0x2100, vldWork), (.vst b c, 0x2200, vstWork)] : List (Instr × Nat × (Vx → EngM Unit))) →
      s.fetches u b c o.2.1 w d → o.2.2 (s.vx b c w d) { s := u, ctx := d.ctx, owner := 2 * d.k } = .ok () e →
      Tbl.find? e.s.cores (b * 64 + c) = some r' →
      ∃ t r'', exec o.1 s = .next t ∧ t.mem = e.s.mem ∧ Tbl.find? t.cores (b * 64 + c) = some r'' ∧
        r'' = { r' with waits := r''.waits } ∧ r'.vresume = 0 ∧ r'.pc = r.pc + 4) ∧
    (∀ (o : Instr × Nat × Nat), o ∈ ([(.vsrd b c, 0x2600, 0), (.vswr b c, 0x2601, 1)] : List (Instr × Nat × Nat)) →
      s.fetches u b c o.2.1 w d → r.invalid = false → r.vresume = 0 → groupOk (wD w) r.span = true → wB w < 16 → c < 64 →
      ((wB w ≠ c / 4 ∨ ownsPair u d.ctx b (wB w) = false) → ∃ t, exec o.1 s = .next t ∧ ∃ x, findCmd t d.k = some x ∧ x.st = .done ∧
        x.status = 0x0020 ∧ x.fault.addr = BitVec.ofNat 64 (wB w) ∧ t.streams = u.streams) ∧
      (wB w = c / 4 → ownsPair u d.ctx b (wB w) = true → ∀ key, key = streamKey u d.ctx b (wB w) o.2.2 →
        (r.len = 0 → ∃ t, exec o.1 s = .next t ∧ u.coreNow t b c { r with pc := r.pc + 4 } ∧ t.streams = u.streams) ∧
        (r.len ≠ 0 → o.2.2 = 0 →
          (r.len * r.ew / 8 ≤ (Tbl.get [] u.streams key).length → ∃ t, exec o.1 s = .next t ∧
            u.coreNow t b c { (List.range r.len).foldl (fun y i => Core.setE (wD w) r.ew i
              (bitField ((Tbl.get [] u.streams key).take (r.len * r.ew / 8)) (i * r.ew) r.ew) y) r with
              pc := r.pc + 4 } ∧
            Tbl.get [] t.streams key = (Tbl.get [] u.streams key).drop (r.len * r.ew / 8) ∧
            (∀ n, n ≠ key → Tbl.get [] t.streams n = Tbl.get [] u.streams n)) ∧
          ((Tbl.get [] u.streams key).length < r.len * r.ew / 8 → ∃ t, exec o.1 s = .next t ∧ u.coreNow t b c r ∧
            t.streams = u.streams)) ∧
        (r.len ≠ 0 → o.2.2 = 1 →
          ((Tbl.get [] u.streams key).length + r.len * r.ew / 8 ≤ streamCap u b (wB w) → ∃ t, exec o.1 s = .next t ∧
            u.coreNow t b c { r with pc := r.pc + 4 } ∧
            Tbl.get [] t.streams key = Tbl.get [] u.streams key
              ++ (List.range r.len).flatMap (fun i => leBytes (r.ew / 8) (r.getE (wD w) r.ew i)) ∧
            (∀ n, n ≠ key → Tbl.get [] t.streams n = Tbl.get [] u.streams n)) ∧
          (streamCap u b (wB w) < (Tbl.get [] u.streams key).length + r.len * r.ew / 8 → ∃ t, exec o.1 s = .next t ∧
            u.coreNow t b c r ∧ t.streams = u.streams)))))

/-- O30. For a core that executes VADD, VSUB, VMUL, VMULH, VAND, VOR, VXOR, VSHL, VSHR, VSRA, VMIN, VMAX, VCMPEQ, VCMPLT or VXMA
with a valid VTYPE and legal groups, not about to be interrupted: the active elements from VRESUME to VL - 1 are written in
ascending order, each with the operation on the source elements as they then are (signed wrapping arithmetic, shifts by op1
mod SEW, comparisons into a mask register, VXMA at twice the width), VRESUME becomes 0, the pc steps by 4, and no other
core, memory byte, counter or log entry changes. For a core that executes VMLOG, VMCOUNT, VMLOW, VSEL, VCOPY, VINS, VEXT,
VELUP, VELDN, VPERM, VPACK, VINDEX, VISUM or VSPLAT with a valid VTYPE, legal registers and VRESUME 0: with VL above 0 its
destination (a mask register's live bits, a scalar register, or the live elements of a group) takes the values that R148
gives, computed from the registers as they were before; with VL = 0 it writes nothing; nothing else of the core but the pc,
which steps by 4, no other core, memory byte, counter or log entry changes. -/
def Obligations.VectorIntegerAndPermuteInstructions : Prop :=
  (
  ∀ (s u : State) (b c w : Nat) (d : Cmd) (r : Core) (o : Instr × Nat × (Core → Bool) × (Core → Nat → Core)),
    o ∈ ([(.vadd b c, 0x0, fun x y => wrapInt r.ew (signed r.ew x + signed r.ew y)),
      (.vsub b c, 0x1, fun x y => wrapInt r.ew (signed r.ew x - signed r.ew y)),
      (.vmul b c, 0x2, fun x y => wrapInt r.ew (signed r.ew x * signed r.ew y)),
      (.vmulh b c, 0x3, fun x y => wrapInt r.ew (signed r.ew x * signed r.ew y / ((2 ^ r.ew : Nat) : Int))),
      (.vand b c, 0x4, fun x y => x &&& y), (.vor b c, 0x5, fun x y => x ||| y), (.vxor b c, 0x6, fun x y => x ^^^ y),
      (.vshl b c, 0x7, fun x y => x * 2 ^ (y % r.ew) % 2 ^ r.ew), (.vshr b c, 0x8, fun x y => x / 2 ^ (y % r.ew)),
      (.vsra b c, 0x9, fun x y => wrapInt r.ew (signed r.ew x / ((2 ^ (y % r.ew) : Nat) : Int))),
      (.vmin b c, 0xA, fun x y => wrapInt r.ew (min (signed r.ew x) (signed r.ew y))),
      (.vmax b c, 0xB, fun x y => wrapInt r.ew (max (signed r.ew x) (signed r.ew y)))] :
        List (Instr × Nat × (Nat → Nat → Nat))).map (fun p => (p.1, 0x2300 + p.2.1, vintLegal w,
          fun y i => Core.setE (wD w) r.ew i (p.2.2 (y.getE (wA w) r.ew i) (y.op1 w r.ew i)) y))
      ++ [(.vcmpeq b c, 0x230C, fun r => intCore r && vcmpLegal w r, fun y i =>
          Core.setM (wD w) i (decide (signed r.ew (y.getE (wA w) r.ew i) = signed r.ew (y.op1 w r.ew i))) y),
        (.vcmplt b c, 0x230D, fun r => intCore r && vcmpLegal w r, fun y i =>
          Core.setM (wD w) i (decide (signed r.ew (y.getE (wA w) r.ew i) < signed r.ew (y.op1 w r.ew i))) y),
        (.vxma b c, 0x230E, fun r => decide (r.efmt < 3) && widenLegal w r, fun y i =>
          Core.setE (wD w) (2 * r.ew) i (wrapInt (2 * r.ew) (signed (2 * r.ew) (y.getE (wD w) (2 * r.ew) i)
            + signed r.ew (y.getE (wA w) r.ew i) * signed r.ew (y.op1 w r.ew i))) y)] →
    s.fetches u b c o.2.1 w d → Tbl.find? u.cores (b * 64 + c) = some r → r.invalid = false → o.2.2.1 r = true →
    elemLimit s d = 4096 →
    ∃ t, exec o.1 s = .next t ∧ u.coreNow t b c { (activeElems { w := w } r).foldl o.2.2.2 r with
      vresume := 0, pc := r.pc + 4 }) ∧
  (
  ∀ (s u : State) (b c w : Nat) (d : Cmd) (r : Core) (o : Instr × Nat × Bool × Core),
    o ∈ ([(.vmlog b c, 0x00, maskField (wD w) && maskField (wA w) && maskField (wB w), (liveElems r w).foldl (fun y i =>
        Core.setM (wD w) i (truthBit (wFunc w % 16) (r.getM (wA w) i) (r.getM (wB w) i)) y) r),
      (.vmcount b c, 0x10, maskField (wA w),
        Core.setS (wD w) (BitVec.ofNat 64 ((List.range r.len).filter fun i => r.getM (wA w) i).length) r),
      (.vmlow b c, 0x11, maskField (wA w), Core.setS (wD w) ((((List.range r.len).find? fun i => r.getM (wA w) i).map
        (BitVec.ofNat 64)).getD (BitVec.allOnes 64)) r),
      (.vsel b c, 0x12, wMen w && pairLegal w r && groupOk (wB w) r.span, (List.range r.len).foldl (fun y i =>
        Core.setE (wD w) r.ew i (r.getE (if r.getM (wMsk w) i then wB w else wA w) r.ew i) y) r),
      (.vcopy b c, 0x13, pairLegal w r, (liveElems r w).foldl (fun y i => Core.setE (wD w) r.ew i (r.getE (wA w) r.ew i) y) r),
      (.vins b c, 0x14, groupOk (wD w) r.span,
        if r.active w 0 then Core.setE (wD w) r.ew 0 (r.getS (wB w)).toNat r else r),
      (.vext b c, 0x15, groupOk (wA w) r.span, Core.setS (wD w) (BitVec.ofInt 64 (signed r.ew (r.getE (wA w) r.ew 0))) r),
      (.velup b c, 0x16, pairLegal w r, ((liveElems r w).filter fun i => decide ((r.getS (wB w)).toNat ≤ i)).foldl (fun y i =>
        Core.setE (wD w) r.ew i (r.getE (wA w) r.ew (i - (r.getS (wB w)).toNat)) y) r),
      (.veldn b c, 0x17, pairLegal w r, (liveElems r w).foldl (fun y i => Core.setE (wD w) r.ew i
        (if i + (r.getS (wB w)).toNat < r.slim then r.getE (wA w) r.ew (i + (r.getS (wB w)).toNat) else 0) y) r),
      (.vperm b c, 0x18, pairLegal w r && groupOk (wB w) r.span && !clash (wD w) r.span (wA w) r.span
        && !clash (wD w) r.span (wB w) r.span, (liveElems r w).foldl (fun y i => Core.setE (wD w) r.ew i
        (if r.getE (wB w) r.ew i < r.slim then r.getE (wA w) r.ew (r.getE (wB w) r.ew i) else 0) y) r),
      (.vpack b c, 0x19, wMen w && pairLegal w r && !clash (wD w) r.span (wA w) r.span,
        ((List.range (liveElems r w).length).zip (liveElems r w)).foldl (fun y p =>
          Core.setE (wD w) r.ew p.1 (r.getE (wA w) r.ew p.2) y) r),
      (.vindex b c, 0x1A, groupOk (wD w) r.span, (liveElems r w).foldl (fun y i => Core.setE (wD w) r.ew i i y) r),
      (.visum b c, 0x1B, decide (r.efmt < 4) && pairLegal w r, Core.setE (wD w) r.ew 0 ((((liveElems r w).map fun i =>
        r.getE (wA w) r.ew i).foldl (· + ·) (r.getE (wD w) r.ew 0)) % 2 ^ r.ew) r),
      (.vsplat b c, 0x1C, groupOk (wD w) r.span, (liveElems r w).foldl (fun y i =>
        Core.setE (wD w) r.ew i (r.getS (wB w)).toNat y) r)] : List (Instr × Nat × Bool × Core)) →
    s.fetches u b c (0x2500 + o.2.1) w d → Tbl.find? u.cores (b * 64 + c) = some r → r.invalid = false → r.vresume = 0 →
    o.2.2.1 = true →
    ∃ t, exec o.1 s = .next t ∧ u.coreNow t b c { (if r.len = 0 then r else o.2.2.2) with
      pc := r.pc + 4 })

/-- O31. For a core that executes VFADD, VFSUB, VFMUL, VFDIV, VFMA, VFNMS, VFMIN, VFMAX, VFCMPLT or VFCMPEQ with a valid FP64,
FP32, FP16 or BF16 VTYPE and legal groups, under a mode that traps nothing (no trap bit and not strict), not about to be
interrupted: every active element from VRESUME to VL - 1 is written in ascending order with the operation on the source
codes as they then are (comparisons into a mask register), VRESUME becomes 0, the pc steps by 4, and no other core, memory
byte, counter or log entry changes. -/
def Obligations.VectorFloatInstructions : Prop :=
  ∀ (s u : State) (b c w : Nat) (d : Cmd) (r : Core) (f : Fmt) (o : Instr × Nat × (Core → Bool) × (Core → Nat → Core)),
    o ∈ ([(.vfadd b c, 0x0, vfp2 fAdd), (.vfsub b c, 0x1, vfp2 fSub), (.vfmul b c, 0x2, vfp2 fMul), (.vfdiv b c, 0x3, vfp2 fDiv),
      (.vfma b c, 0x4, fun f rm x y z => fFma f rm (decodeF f x) (decodeF f y) (decodeF f z)),
      (.vfnms b c, 0x5, fun f rm x y z => fFma f rm (fvNegate (decodeF f x)) (decodeF f y) (decodeF f z)),
      (.vfmin b c, 0x6, fun f _ x y _ => minMaxF f true x y), (.vfmax b c, 0x7, fun f _ x y _ => minMaxF f false x y)] :
        List (Instr × Nat × (Fmt → RM → Nat → Nat → Nat → Nat × Ev))).map (fun p => (p.1, 0x2400 + p.2.1, vfpLegal w,
          fun y i => Core.setE (wD w) r.ew i (p.2.2 f (modeRm (getCtx u d.ctx).arithMode) (y.getE (wA w) r.ew i) (y.op1 w r.ew i)
            (y.getE (wD w) r.ew i)).1 y))
      ++ ([(.vfcmplt b c, 0x2408, lessF), (.vfcmpeq b c, 0x2409, equalF)] :
        List (Instr × Nat × (Fmt → Nat → Nat → Bool × Ev))).map (fun p => (p.1, p.2.1,
          fun r => (coreFloat r).isSome && maskField (wD w) && groupOk (wA w) r.span && r.op1Ok w,
          fun y i => Core.setM (wD w) i (p.2.2 f (y.getE (wA w) r.ew i) (y.op1 w r.ew i)).1 y)) →
    s.fetches u b c o.2.1 w d → Tbl.find? u.cores (b * 64 + c) = some r → r.invalid = false → coreFloat r = some f → o.2.2.1 r = true →
    elemLimit s d = 4096 → (getCtx u d.ctx).arithMode.extractLsb' 0 3 = 0 →
    ∃ t, exec o.1 s = .next t ∧ u.coreNow t b c { (activeElems { w := w } r).foldl o.2.2.2 r with
      vresume := 0, pc := r.pc + 4 }

/-- O32. For a core that executes VFXMUL or VFXMA (product to the wider format, or added to vd there, rounded once), VFUN
(square root, exponential and logarithm as the model rounds them, log entry 5, absolute value, negation, reciprocal) or
VFCVT (conversion to the format in vs1's field), with a valid VTYPE and legal groups, under a mode that traps nothing, not
about to be interrupted: every active element is written in ascending order, VRESUME becomes 0, the pc steps by 4, and no
other core, memory byte, counter or log entry changes. For a core that executes VDOT4, VFDOT or VFFOLD with a valid VTYPE,
legal groups and VRESUME 0, under a mode that traps nothing, with VL above 0: VDOT4 adds to each 32-bit destination element
the products of its four (active, below VL) source pairs, wrapping; VFDOT writes each 32-bit destination element with the
exact sum of its products and vd rounded once; VFFOLD writes element 0 of vd with the ordered sum, the tree sum or the
maximum of the active elements and vd[0]. With VL = 0 they write nothing. VRESUME stays 0, the pc steps by 4, no other core,
memory byte, counter or log entry changes. -/
def Obligations.WideningAndReducingInstructions : Prop :=
  (
  ∀ (s u : State) (b c w : Nat) (d : Cmd) (r : Core) (f : Fmt) (rm : RM) (o : Instr × Nat × (Core → Bool) × (Core → Nat → Core)),
    rm = modeRm (getCtx u d.ctx).arithMode →
    (o ∈ ([(.vfxmul b c, 0x240A, widenFpLegal w, fun y i => Core.setE (wD w) (2 * r.ew) i
          (fMul f rm (efmtValue r.efmt (y.getE (wA w) r.ew i)) (efmtValue r.efmt (y.op1 w r.ew i))).1 y),
        (.vfxma b c, 0x240B, widenFpLegal w, fun y i => Core.setE (wD w) (2 * r.ew) i
          (fFma f rm (efmtValue r.efmt (y.getE (wA w) r.ew i)) (efmtValue r.efmt (y.op1 w r.ew i))
            (decodeF f (y.getE (wD w) (2 * r.ew) i))).1 y)] : List (Instr × Nat × (Core → Bool) × (Core → Nat → Core))) ∧
        widenFloat r.efmt = some f) ∨
      (o = (.vfun b c, 0x240D, fun r => (coreFloat r).isSome && groupOk (wD w) r.span && groupOk (wA w) r.span
          && decide (wB w ≤ 5), fun y i => Core.setE (wD w) r.ew i ((unaryF (wB w) f rm (y.getE (wA w) r.ew i)).getD (0, {})).1 y) ∧
        coreFloat r = some f) ∨
      o = (.vfcvt b c, 0x240E, cvtLegal w, fun y i => Core.setE (wD w) (efmtBits (wB w)) i
        (efmtConv (wB w) rm (efmtValue r.efmt (y.getE (wA w) r.ew i))).1 y) →
    s.fetches u b c o.2.1 w d → Tbl.find? u.cores (b * 64 + c) = some r → r.invalid = false → o.2.2.1 r = true →
    elemLimit s d = 4096 → (getCtx u d.ctx).arithMode.extractLsb' 0 3 = 0 →
    ∃ t, exec o.1 s = .next t ∧ u.coreNow t b c { (activeElems { w := w } r).foldl o.2.2.2 r with
      vresume := 0, pc := r.pc + 4 }) ∧
  (
  ∀ (s u : State) (b c w : Nat) (d : Cmd) (r : Core), Tbl.find? u.cores (b * 64 + c) = some r → r.invalid = false →
    r.vresume = 0 → (getCtx u d.ctx).arithMode.extractLsb' 0 3 = 0 →
    (r.len = 0 → ∀ (o : Instr × Nat × Bool),
      o ∈ ([(.vdot4 b c, 0x230F, decide (r.efmt = 0) && vintLegal w r),
        (.vfdot b c, 0x240C, decide (6 ≤ r.efmt) && groupOk (wD w) r.span && groupOk (wA w) r.span && groupOk (wB w) r.span),
        (.vffold b c, 0x240F, (coreFloat r).isSome && groupOk (wD w) r.span && groupOk (wA w) r.span)] :
          List (Instr × Nat × Bool)) →
      s.fetches u b c o.2.1 w d → o.2.2 = true → ∃ t, exec o.1 s = .next t ∧ u.coreNow t b c { r with pc := r.pc + 4 }) ∧
    (s.fetches u b c 0x230F w d → r.len ≠ 0 → r.efmt = 0 → vintLegal w r = true → ∃ t, exec (.vdot4 b c) s = .next t ∧
      u.coreNow t b c { (List.range (ceilDiv r.len 4)).foldl (fun y j => Core.setE (wD w) 32 j (wrapInt 32
        (((dotTerms r w 4 j).map fun i => signed 8 (r.getE (wA w) 8 i) * signed 8 (r.getE (wB w) 8 i)).foldl (· + ·)
          (signed 32 (r.getE (wD w) 32 j)))) y) r with
        pc := r.pc + 4 }) ∧
    (s.fetches u b c 0x240C w d → r.len ≠ 0 → 6 ≤ r.efmt → groupOk (wD w) r.span = true → groupOk (wA w) r.span = true →
      groupOk (wB w) r.span = true → ∃ t, exec (.vfdot b c) s = .next t ∧
      u.coreNow t b c { (List.range (ceilDiv r.len (32 / r.ew))).foldl (fun y j => Core.setE (wD w) 32 j
        (dotResult (modeRm (getCtx u d.ctx).arithMode) (decide ((dotTerms r w (32 / r.ew) j).length < 32 / r.ew)) ((dotTerms r w (32 / r.ew) j).map fun i =>
          (efmtValue r.efmt (r.getE (wA w) r.ew i), efmtValue r.efmt (r.getE (wB w) r.ew i)))
          (decodeF fp32 (r.getE (wD w) 32 j))).1 y) r with
        pc := r.pc + 4 }) ∧
    (∀ f act rm, f ∈ coreFloat r → act = ((List.range r.len).filter fun i => r.active w i).map (fun i => r.getE (wA w) r.ew i) →
      rm = modeRm (getCtx u d.ctx).arithMode → s.fetches u b c 0x240F w d → r.len ≠ 0 → groupOk (wD w) r.span = true →
      groupOk (wA w) r.span = true →
      ∃ t x, exec (.vffold b c) s = .next t ∧ u.coreNow t b c { Core.setE (wD w) r.ew 0 x r with pc := r.pc + 4 } ∧
        (wForm w = 0 → x = (orderedSum f rm act (r.getE (wD w) r.ew 0) {}).1) ∧
        (wForm w = 1 → x = (fAdd f rm (decodeF f (r.getE (wD w) r.ew 0)) (decodeF f (treeTotal f rm ((List.range r.len).map fun i =>
          if r.active w i then r.getE (wA w) r.ew i else 0)).1)).1) ∧
        (wForm w = 2 → x = (foldMax f act (r.getE (wD w) r.ew 0) {}).1)))

/-- O33. For a legal UPD_RUN or UPD_ROWS at work while no other command is started and no compute reset is due: if after j of
the units of work left (start, commit groups or list segments) its next unit runs through without fault, trap or clash and
is its last, then the command ends with what that unit answers and memory is what the unit left. While other commands run,
how many units one step does is a free value (log entry 26). -/
def Obligations.UpdatesEndWithTheirLastUnit : Prop :=
  ∀ (s u : State) (k j : Nat) (c c' : Cmd) (o : (Option W64 × Option Nat) × Eng)
    (i : Instr × Nat × List (Nat × Nat) × (Cmd → EngM (Option (Option W64 × Option Nat)))),
    i ∈ ([(.updRun k, 0x40, [(16, 1), (18, 10), (32, 88)], runUnit), (.updRows k, 0x41, [(16, 1), (18, 14), (32, 88)], rowsUnit)] :
      List (Instr × Nat × List (Nat × Nat) × (Cmd → EngM (Option (Option W64 × Option Nat))))) →
    s.working k i.2.1 1 i.2.2.1 c → upLegal c = true → s.alone k → j < upLeft c →
    repeatWork (upUnit i.2.2.2 k) j { s with free := s.free + 1 } = u → findCmd u k = some c' → c'.st = .started →
    (c'.prog.slot.isEmpty = true ∨ upClashes u c' = []) → u.doesPart c' false (i.2.2.2 c') = some o →
    ∃ t, exec i.1 s = .next t ∧ t.endedWork c' o

/-- O34. For a legal SLV_PATTERN, SLV_VALUES, SLV_FACTOR, SLV_SOLVE or SLV_STATUS at work while no other command is started and
no compute reset is due: if after j of the steps left (blocks, or starts, factorizations and iterations of systems) its next
step runs through without fault, trap or clash and is its last, then the command ends with what that step answers for RESULT
and DETAIL and memory is what the step left. SOLVER_SYSTEM_START is one such step of an SLV_SOLVE: while systems are left
and a lane is free it takes the next system and the command goes on; the step that ends the last system ends the command.
While other commands run, how many steps one row does is a free value (log entry 26). -/
def Obligations.SolverCommandsEndWithTheirSystems : Prop :=
  ∀ (s : State) (k : Nat) (c : Cmd) (o : (Option W64 × Option Nat) × Eng),
    (∀ (i : Instr × Nat × Nat × List (Nat × Nat) × (Cmd → Bool) × (Cmd → Nat) × (Cmd → EngM (Option (Option W64 × Option Nat))))
      (j : Nat) (u : State) (c' : Cmd),
      i ∈ ([(.slvPattern k, 0x50, 1, [(16, 37), (56, 16)], slpLegal, slpLeft, slpWork),
        (.slvValues k, 0x51, 0, [(16, 2), (20, 28)], svlLegal, svlLeft, svlWork),
        (.slvFactor k, 0x52, 0, [(16, 2), (24, 16)], fun c => slPrecOk c 1, slLeft, sysWork),
        (.slvSolve k, 0x53, 1, [(16, 6), (24, 60)], slvLegal, slLeft, sysWork),
        (.slvStatus k, 0x54, 0, [(24, 28)], fun c => decide (1 ≤ body c 24 4) && decide (body c 24 4 ≤ 65536), slsLeft, slsWork)] :
          List (Instr × Nat × Nat × List (Nat × Nat) × (Cmd → Bool) × (Cmd → Nat) × (Cmd → EngM (Option (Option W64 × Option Nat))))) →
      s.working k i.2.1 i.2.2.1 i.2.2.2.1 c → i.2.2.2.2.1 c = true → s.alone k → j < i.2.2.2.2.2.1 c →
      repeatWork (slvUnit i.2.2.2.2.2.2 k) j { s with free := s.free + 1 } = u → findCmd u k = some c' → c'.st = .started →
      slvClashes u c' = [] → u.doesPart c' false (i.2.2.2.2.2.2 c') = some o →
      ∃ t, exec i.1 s = .next t ∧ t.endedWork c' o) ∧
    (s.working k 0x53 1 [(16, 6), (24, 60)] c → slvLegal c = true → slvClashes s c = [] →
      (s.doesPart c false (sysWork c) = some o → ∃ t, exec (.solverSystemStart k) s = .next t ∧ t.endedWork c o) ∧
      (∀ e, c.prog.next < slCount c → c.prog.doom = false → freeLanes c.prog ≠ [] →
        sysWork c { s := s, ctx := c.ctx, owner := 2 * c.k, reads := { seen := c.prog.seen, kept := c.prog.kept } } = .ok none e →
        e.trap = none →
        ∃ t d, exec (.solverSystemStart k) s = .next t ∧ findCmd t k = some d ∧ d.st = .started ∧ d.prog.next = c.prog.next + 1 ∧
          t.mem = e.s.mem))

/-- O35. For a legal RED_TREE, RED_SCALE, XCHG_TOKENS, ALLGATHER_LAYER or BCAST at work that has not sent its part: when its
start runs through and answers an end (one rank, or nothing to deliver) the command ends with that answer; when its start
runs through and leaves the end to deliveries, the command goes on and memory and counters are as the start left them. Once
its part is sent the row changes nothing. A RED_LOWRANK of which one of the five next steps (sums and load, forward passes,
orthonormal columns, transposed passes, the end; or its single reduction) can be taken, its tiles granted and free for it
where it needs them, and runs through as its last, ends with that step's answer. For a LAYOUT_EPOCH at work that names one
group in which its queue has a rank: once every earlier collective command of its context has completed, the group's epoch
is the written one, the tag count of the issuing Basalt starts again at 0, the staged table of that epoch, if whole, comes
into force with its rank count, and the command ends with the previous epoch in RESULT; no other group, no memory and no
counter changes. Until then nothing changes. A group without a rank of its own ends it with TRANSLATION_FAULT. -/
def Obligations.CollectiveCommandsAndEpochs : Prop :=
  (
  ∀ (s : State) (k : Nat) (c : Cmd),
    (∀ (i : Instr × Nat × Nat × List (Nat × Nat) × (Cmd → Bool) × (Cmd → EngM (Option (Option W64 × Option Nat)))),
      i ∈ ([(.redTree k, 0x60, 1, [(16, 7), (24, 48)], redLegal, redStart),
        (.redScale k, 0x62, 0, [(16, 3), (24, 6), (32, 16), (56, 8)],
          fun c => redSrcOk (body c 18 1) && decide (1 ≤ body c 24 4), redStart),
        (.xchgTokens k, 0x63, 1, [(16, 80)], xcLegal, xcStart),
        (.bcast k, 0x64, 0, [(16, 8), (24, 26)], fun c => decide (64 ≤ agSize c) && agSize c % 64 == 0, bcStart),
        (.allgatherLayer k, 0x65, 0, [(16, 8), (24, 24)], fun c => decide (64 ≤ agSize c) && agSize c % 64 == 0, agStart)] :
          List (Instr × Nat × Nat × List (Nat × Nat) × (Cmd → Bool) × (Cmd → EngM (Option (Option W64 × Option Nat))))) →
      s.working k i.2.1 i.2.2.1 i.2.2.2.1 c → i.2.2.2.2.1 c = true →
      (c.prog.coll.sent = true → exec i.1 s = .next s) ∧
      (∀ o, c.prog.coll.sent = false → s.doesPart c false (i.2.2.2.2.2 c) = some o → ∃ t, exec i.1 s = .next t ∧ t.endedWork c o) ∧
      (∀ e, c.prog.coll.sent = false → i.2.2.2.2.2 c { s := s, ctx := c.ctx, owner := 2 * c.k, reads := { seen := c.prog.seen, kept := c.prog.kept } } = .ok none e → e.trap = none →
        ∃ t, exec i.1 s = .next t ∧ t.mem = e.s.mem ∧ t.counters = e.s.counters ∧ t.groups = e.s.groups)) ∧
    (∀ (j : Nat) (u : State) (c' : Cmd) (gr : Group × Nat) (o : (Option W64 × Option Nat) × Eng),
      s.working k 0x61 1 [(16, 7), (24, 6), (32, 92)] c → lrLegal c = true → j < 5 → repeatWork (lrStep k) j s = u →
      findCmd u k = some c' → c'.st = .started → ownRank u c' = some gr →
      ((lrSmall c' = true ∧ c'.prog.coll.sent = false) ∨ (lrSmall c' = false ∧
        (∀ t, t < lrTiles c' → grantedTile u c'.ctx c'.basalt (t + lrTile c') = true) ∧
        (lrRunning c' = true ∨ (lrDue c' = true ∧ lrFree u c' = true)))) →
      u.doesPart c' false (lrNext c' gr.1) = some o → ∃ t, exec (.redLowrank k) s = .next t ∧ t.endedWork c' o)) ∧
  (
  ∀ (s : State) (k : Nat) (c : Cmd), s.working k 0x70 0 [(16, 2), (20, 4)] c → body c 16 2 ≠ 0xFFFF →
    (collsDone s c = false → exec (.layoutEpoch k) s = .next s) ∧
    (∀ g n, collsDone s c = true → ownRank s c = some (g, n) → findGroup s (body c 16 2) = some g →
      ∃ t x, exec (.layoutEpoch k) s = .next t ∧ t.endedWith k (warnStatus c.warns) (g.epoch.setWidth 64) ∧
        findGroup t (body c 16 2) = some x ∧ x.epoch = BitVec.ofNat 32 (body c 20 4) ∧ Tbl.get 0 x.tags c.basalt = 0 ∧
        (∀ st, g.staged = some st → st.1 = BitVec.ofNat 32 (body c 20 4) → st.2.2.length = st.2.1 → x.r = st.2.1 ∧ x.staged = none) ∧
        (g.staged = none → x.r = g.r ∧ x.table = g.table) ∧
        (∀ m, m ≠ body c 16 2 → findGroup t m = findGroup s m) ∧ s.othersSame t k ∧ t.mem = s.mem ∧ t.counters = s.counters) ∧
    (collsDone s c = true → ownRank s c = none → ∃ t, exec (.layoutEpoch k) s = .next t ∧ t.ended k 0x0020 ∧
      t.groups = s.groups ∧ t.mem = s.mem))

/-- O36. For a collective message that the module takes whole, with its check right, for a known group in its epoch, the place
that its packet names being a node hosted here: it opens the node's instance unless that is open, and acts in the tree of
that instance (R254, R267). UP, MAX_UP and RETRY_UP act block by block on the node, UP and MAX_UP having opened the blocks
known of; DOWN, MAX_DOWN and RETRY_REQ of a level above the ranks act block by block on it; DATA_UP moves its piece up,
DATA_DOWN to the children; the instance closes with its last downward message. With no instance free the message is put
aside and comes again (log entry 125). A message for a node of another module changes nothing but the port's sequence
number. A message of a group not known here with its check right is answered NACK CTX_GONE. The places of node, child and
rank in the packet are the model's (log entry 30). -/
def Obligations.CollectiveMessagesReachTheirNodes : Prop :=
  (∀ (s u : State) (port : Nat) (p : Packet) (g g' : Group) (h : CollHdr)
    (i : Instr × Nat × (Group → CollHdr → Nat → Nat → Nat → Nat → WireBlock → State → State)),
    i ∈ ([(.collUp port p, 1, nodeUp), (.maxUp port p, 5, nodeUp), (.retryUp port p, 4, nodeRetryUp)] :
      List (Instr × Nat × (Group → CollHdr → Nat → Nat → Nat → Nat → WireBlock → State → State))) →
    s.meets port i.2.1 p g h → openInst g h (h.level + 1) (p.txn.toNat / 2) (s.taken port p) = u →
    treeOf u g h (h.level + 1) (p.txn.toNat / 2) = g' →
    (hostsNode s g (h.level + 1) (p.txn.toNat / 2) = false → exec i.1 s = .next (s.taken port p)) ∧
    (hostsNode s g (h.level + 1) (p.txn.toNat / 2) = true → noInstance s g h (h.level + 1) (p.txn.toNat / 2) = true →
      exec i.1 s = .next (parkColl port p s)) ∧
    (hostsNode s g (h.level + 1) (p.txn.toNat / 2) = true → noInstance s g h (h.level + 1) (p.txn.toNat / 2) = false →
      exec i.1 s = .next (settleInst h (h.level + 1) (p.txn.toNat / 2)
        ((blocksOf h p).foldl (fun s b => i.2.2 g' h (h.level + 1) (p.txn.toNat / 2) (p.txn.toNat % 2) b.1 b.2 s)
          (if i.2.1 = 4 then u else openBlocks h i.2.1 (h.level + 1) (p.txn.toNat / 2) (h.first + (blocksOf h p).length) u))))) ∧
  (∀ (s u : State) (port : Nat) (p : Packet) (g g' : Group) (h : CollHdr) (i : Instr × Nat × (State → State)),
    i ∈ ([(.collDown port p, 2, fun u => (blocksOf h p).foldl (fun s b => nodeDown g' h (h.level - 1) p.txn.toNat b.1 b.2 s) u),
      (.maxDown port p, 6, fun u => (blocksOf h p).foldl (fun s b => nodeDown g' h (h.level - 1) p.txn.toNat b.1 b.2 s) u),
      (.retryReq port p, 3, fun u => (blocksOf h p).foldl (fun s b => nodeRetryReq g' h (h.level - 1) p.txn.toNat b.1 b.2 s) u),
      (.dataDown port p, 8, fun u => passPiece h (h.level - 1) p.txn.toNat p.addr.toNat
        (sendDown g' h (h.level - 1) p.txn.toNat p.addr.toNat [0, 1] (p.payload.drop 32) u))] : List (Instr × Nat × (State → State))) →
    s.meets port i.2.1 p g h → 1 < h.level → openInst g h (h.level - 1) p.txn.toNat (s.taken port p) = u →
    treeOf u g h (h.level - 1) p.txn.toNat = g' →
    (hostsNode s g (h.level - 1) p.txn.toNat = false → exec i.1 s = .next (s.taken port p)) ∧
    (hostsNode s g (h.level - 1) p.txn.toNat = true → noInstance s g h (h.level - 1) p.txn.toNat = true →
      exec i.1 s = .next (parkColl port p s)) ∧
    (hostsNode s g (h.level - 1) p.txn.toNat = true → noInstance s g h (h.level - 1) p.txn.toNat = false →
      exec i.1 s = .next (settleInst h (h.level - 1) p.txn.toNat (i.2.2 u)))) ∧
  (∀ (s u : State) (port : Nat) (p : Packet) (g : Group) (h : CollHdr), s.meets port 7 p g h →
    openInst g h (h.level + 1) (p.txn.toNat / 2) (s.taken port p) = u →
    (hostsNode s g (h.level + 1) (p.txn.toNat / 2) = false → exec (.dataUp port p) s = .next (s.taken port p)) ∧
    (hostsNode s g (h.level + 1) (p.txn.toNat / 2) = true → noInstance s g h (h.level + 1) (p.txn.toNat / 2) = true →
      exec (.dataUp port p) s = .next (parkColl port p s)) ∧
    (hostsNode s g (h.level + 1) (p.txn.toNat / 2) = true → noInstance s g h (h.level + 1) (p.txn.toNat / 2) = false →
      exec (.dataUp port p) s = .next (settleInst h (h.level + 1) (p.txn.toNat / 2)
        (nodeData (treeOf u g h (h.level + 1) (p.txn.toNat / 2)) h (h.level + 1) (p.txn.toNat / 2) (p.txn.toNat % 2) p u)))) ∧
  (∀ (s : State) (port : Nat) (p : Packet) (h : CollHdr) (i : Instr × Nat),
    i ∈ [(.collUp port p, 1), (.retryUp port p, 4), (.maxUp port p, 5), (.dataUp port p, 7)] → s.takes port ptColl p →
    32 ≤ p.payload.length → collHdrOf p.payload = h → h.kind = i.2 → collCheckOk p.payload = true → findGroup s h.group = none →
    exec i.1 s = .next (nack p stCtxGone (s.taken port p)))

/-- O37. For a collective message of level 1 (or a TOKEN or TOKEN_RET) that finds its command at work: DOWN, MAX_DOWN,
DATA_DOWN, RETRY_REQ, TOKEN and TOKEN_RET, when their work at the rank runs through as the command's last, end it with that
work's answer. DELIVERY_DEADLINE of a reduction, broadcast or gather whose D_done has passed, and EXCHANGE_DEADLINE of an
exchange past its deadline, end the command with what has been delivered when that work runs through; before the deadline
both change nothing. -/
def Obligations.DeliveriesEndCollectives : Prop :=
  (∀ (s : State) (port : Nat) (p : Packet) (g : Group) (h : CollHdr) (c : Cmd) (o : (Option W64 × Option Nat) × Eng)
    (i : Instr × Nat × Nat × (Cmd → Group → CollHdr → EngM (Option (Option W64 × Option Nat)))),
    i ∈ ([(.collDown port p, 2, p.txn.toNat, downWork p), (.maxDown port p, 6, p.txn.toNat, downWork p),
      (.retryReq port p, 3, p.txn.toNat, retryWork p),
      (.dataDown port p, 8, p.txn.toNat, if bitOf p.addr.toNat 63 then bcWork p else agWork p),
      (.collToken port p, 9, bits p.addr.toNat 63 48, tokenWork p),
      (.collTokenRet port p, 10, bits p.addr.toNat 63 48, tokenRetWork p)] :
        List (Instr × Nat × Nat × (Cmd → Group → CollHdr → EngM (Option (Option W64 × Option Nat))))) →
    s.meets port i.2.1 p g h → (i.2.1 < 9 → h.level ≤ 1) → rankAt s h i.2.2.1 = .cmd c →
    (∀ va n e, i.2.2.2 c g h { s := s, ctx := c.ctx, owner := 2 * c.k } ≠ .error (.remote va n) e) →
    (s.taken port p).doesPart c false (i.2.2.2 c g h) = some o → ∃ t, exec i.1 s = .next t ∧ t.endedWork c o) ∧
  (∀ (s : State) (k : Nat) (c : Cmd) (g : Group), findCmd s k = some c → c.st = .started → c.prog.coll.sent = true →
    inReset s = false → findGroup s c.prog.coll.group = some g → isColl c = true → cmdOp c ≠ 0x63 → cmdOp c ≠ 0x70 →
    (∀ o, pastPh s (doneFields c).1 (2 * treeLevels g.r * (doneFields c).2.1 + (doneFields c).2.2) = true →
      s.doesPart c false (lateWork c g) = some o → ∃ t, exec (.deliveryDeadline k) s = .next t ∧ t.endedWork c o) ∧
    (pastPh s (doneFields c).1 (2 * treeLevels g.r * (doneFields c).2.1 + (doneFields c).2.2) = false →
      exec (.deliveryDeadline k) s = .next s)) ∧
  (∀ (s : State) (k : Nat) (c : Cmd), findCmd s k = some c → c.st = .started → cmdOp c = 0x63 → c.prog.coll.sent = true →
    inReset s = false →
    (∀ o, xcPast s c = true → s.doesPart c false (xcLate c) = some o → ∃ t, exec (.exchangeDeadline k) s = .next t ∧ t.endedWork c o) ∧
    (xcPast s c = false → exec (.exchangeDeadline k) s = .next s))

/-- O38. For an open node that has not sent and whose deadline has passed, NODE_DEADLINE sends it with the children that have
arrived; a node that has sent, is closed, or whose deadline lies ahead is left alone. For an open root in retry past D_R,
RETRY_DEADLINE delivers the first-pass block that it sent; any other node is left alone. Both act in the tree in which the
node's instance was opened, and close it with its last downward message. Combining two blocks (R259) keeps the larger MAXE,
adds the counts, ors the marks and halves each sum of elements, ties to even, 0x80 when either is 0x80. -/
def Obligations.NodesSendAtTheirDeadlines : Prop :=
  (∀ (s : State) (i : Nat) (n : Node) (g g' : Group), s.nodes[i]? = some n → findGroup s n.group = some g →
    treeOf s g (nodeHdr n n.kind) n.level n.pos = g' →
    (n.sent = none → n.closed = false → pastPh s n.deadline (n.level * n.levelPh) = true →
      exec (.nodeDeadline i) s = .next (settleInst (nodeHdr n n.kind) n.level n.pos (nodeSend g' n s))) ∧
    (n.sent.isSome = true ∨ n.closed = true ∨ pastPh s n.deadline (n.level * n.levelPh) = false →
      exec (.nodeDeadline i) s = .next s) ∧
    (∀ w, n.sent = some w → n.inRetry = true → n.closed = false → n.level = treeLevels g'.r → retryPast s n = true →
      exec (.retryDeadline i) s = .next (settleInst (nodeHdr n n.kind) n.level n.pos (rootDeliver g' n w s))) ∧
    (n.inRetry = false ∨ n.closed = true ∨ retryPast s n = false → exec (.retryDeadline i) s = .next s)) ∧
  (∀ a b : WireBlock, combineBlock a b = {
    maxe := if b.maxe.toInt ≤ a.maxe.toInt then a.maxe else b.maxe
    retry := a.retry || b.retry
    sat := a.sat || b.sat
    count := a.count + b.count
    elems := (a.elems.zip b.elems).map fun e => combineElem e.1 e.2 }) ∧
  (∀ x y : BitVec 8, (x = 0x80 ∨ y = 0x80 → combineElem x y = 0x80) ∧
    (x ≠ 0x80 → y ≠ 0x80 → 2 * (combineElem x y).toInt - (x.toInt + y.toInt) ∈ [-1, 0, 1] ∧
      ((x.toInt + y.toInt) % 2 ≠ 0 → (combineElem x y).toInt % 2 = 0)))

/-- O39. For a request the module takes, its context ACTIVE or in ERROR and no compute reset between fence and resume: a WRITE
within one writable local page with REMOTE_RW stores its payload there and is answered ACK; a READ_REQ of 1 to 4,096 bytes
within one local page with REMOTE_RO or REMOTE_RW is answered READ_RESP with those bytes; a CTR_ADD to an owned counter in
ACTIVE adds (saturating), releases the waits that its new value satisfies (R60), and no other counter nor memory changes; in
DOZE and SLEEP a CTR_ADD is kept for the wake. A WRITE where no such mapping holds the address is answered TRANSLATION_FAULT
and counted; fenced, NACK FENCED. (No page DISCARD_AFTER_LAST, for reads none PERSIST, stacks not in SLEEP, for writes no
prefetched line held.) -/
def Obligations.PacketRequestsAreServed : Prop :=
  (∀ (s : State) (port : Nat) (p : Packet) (m : Mapping), s.takes port ptWrite p → refuseCtx s p.dstCtx.toNat = none →
    s.pow.pst ≠ .sleep → anyDiscard s = false → s.pref = [] → findMap s p.dstCtx.toNat p.addr.toNat = some m → m.remote = false →
    m.access = 2 → m.writable = true → p.addr.toNat + p.payload.length ≤ m.va + pageSize m →
    exec (.pktWrite port p) s = .next (respond p ptAck [] { s.taken port p with
      mem := pokeRuns (canonRuns s.id (p.payload.length / 4096 + 2) (mapTarget m p.addr.toNat) p.payload.length) p.payload s.mem })) ∧
  (∀ (s : State) (port : Nat) (p : Packet) (m : Mapping), s.takes port ptReadReq p → refuseCtx s p.dstCtx.toNat = none →
    s.pow.pst ≠ .sleep → anyDiscard s = false → (∀ h ∈ s.held, h.hint ≠ 2) → findMap s p.dstCtx.toNat p.addr.toNat = some m → m.remote = false →
    m.access ≠ 0 → 1 ≤ field p.payload 0 4 → field p.payload 0 4 ≤ 4096 → p.addr.toNat + field p.payload 0 4 ≤ m.va + pageSize m →
    exec (.readReq port p) s =
      .next (respond p ptReadResp (peek s (mapTarget m p.addr.toNat) (field p.payload 0 4)) (s.taken port p))) ∧
  (∀ (s : State) (port : Nat) (p : Packet), s.takes port ptCtrAdd p → refuseCtx s p.dstCtx.toNat = none →
    (s.pow.pst = .active → ctrOwned s p.dstCtx.toNat (field p.payload 0 2) = true →
      ∃ t, exec (.ctrAdd port p) s = .next t ∧
        (ctrGet t (field p.payload 0 2)).toNat = min ((ctrGet s (field p.payload 0 2)).toNat + field p.payload 8 8) (2 ^ 64 - 1) ∧
        (∀ n, n ≠ field p.payload 0 2 → ctrGet t n = ctrGet s n) ∧
        t.cmds = s.cmds.map (releaseWaiter s (field p.payload 0 2) (ctrGet s (field p.payload 0 2)) (ctrGet t (field p.payload 0 2))) ∧
        t = { s with counters := t.counters, ends := t.ends, fab := t.fab, cmds := t.cmds }) ∧
    (s.pow.pst = .doze ∨ s.pow.pst = .sleep → exec (.ctrAdd port p) s = .next { s.taken port p with
      pow := { s.pow with heldAdds := s.pow.heldAdds ++ [p], wake := true } })) ∧
  (∀ (s : State) (port : Nat) (p : Packet), inReset s = true →
    (s.takes port ptWrite p → exec (.pktWrite port p) s = .next (nack p 0x0012 (s.taken port p))) ∧
    (s.takes port ptReadReq p → exec (.readReq port p) s = .next (nack p 0x0012 (s.taken port p)))) ∧
  (∀ (s : State) (port : Nat) (p : Packet), refuseCtx s p.dstCtx.toNat = none →
    (∀ m, findMap s p.dstCtx.toNat p.addr.toNat = some m → m.remote = true ∨ m.access ≠ 2 ∨ m.writable = false) → s.takes port ptWrite p → p.payload ≠ [] →
    exec (.pktWrite port p) s = .next (nack p 0x0020
      (modCtx p.dstCtx.toNat (fun c => { c with remoteRefused := c.remoteRefused + 1 }) (s.taken port p))))

/-- O40. For a response the module takes: one that answers no request is dropped and counted. One that answers a request of an
ACTIVE context takes the request off the list; READ_RESP gives the waiting read its bytes; ACK of a write ends the wait for
it everywhere; NACK TRANSLATION_FAULT ends the command that asked with that status. ACK of an end's only add empties its
list; NACK FENCED of an add keeps it, with the time noted, and CTR_ADD_RESEND sends it again 1 ms later, not earlier. -/
def Obligations.ResponsesSettleTheirRequests : Prop :=
  (∀ (s : State) (port : Nat) (p : Packet),
    (s.takes port ptReadResp p → findReq s p = none → exec (.readResp port p) s = .next (dropResponse (s.taken port p))) ∧
    (s.takes port ptAck p → findReq s p = none → exec (.pktAck port p) s = .next (dropResponse (s.taken port p))) ∧
    (s.takes port ptNack p → findReq s p = none → exec (.pktNack port p) s = .next (dropResponse (s.taken port p)))) ∧
  (∀ (s : State) (port : Nat) (p : Packet) (r : OutReq), findReq s p = some r → r.dropped = false →
    (s.takes port ptReadResp p → (getCtx s r.ctx).st = .active → r.ptype = 2 → r.pf = false → ∃ t, exec (.readResp port p) s = .next t ∧
      t.fab.rdata = s.fab.rdata ++ ((List.range (min r.len p.payload.length)).zip p.payload).map (fun b => (r.owner, r.va + b.1, b.2)) ∧
      t.fab.reqs.map (·.txn) = (s.fab.reqs.filter (fun q => q.txn != r.txn)).map (·.txn) ∧ t = { s with fab := t.fab }) ∧
    (s.takes port ptAck p → (getCtx s r.ctx).st = .active → r.ptype = 1 → ∃ t, exec (.pktAck port p) s = .next t ∧
      t.fab.reqs.map (·.txn) = (s.fab.reqs.filter (fun q => q.txn != r.txn)).map (·.txn) ∧
      t.cmds = s.cmds.map (fun c => { c with waits := c.waits.filter (· != r.txn) }) ∧
      t.cores = s.cores.map (fun c => (c.1, { c.2 with waits := c.2.waits.filter (· != r.txn) })) ∧
      t = { s with fab := t.fab, cmds := t.cmds, cores := t.cores }) ∧
    (∀ k c, s.takes port ptNack p → (getCtx s r.ctx).st = .active → r.ptype = 1 ∨ r.ptype = 2 → r.pf = false → r.k = some k →
      findCmd s k = some c → field p.payload 0 2 = 0x0020 → ∃ t, exec (.pktNack port p) s = .next t ∧ t.ended k 0x0020 ∧
      s.othersSame t k ∧ (∀ x ∈ t.cores, x.2.k ≠ some k) ∧ t.mem = s.mem ∧ t.counters = s.counters) ∧
    (∀ e x v, s.takes port ptAck p → r.ptype = 6 → endOfTxn s r.txn = some (e, x) → findEnd s e = some x → x.unacked = [(r.txn, v)] →
      ∃ t, exec (.pktAck port p) s = .next t ∧ findEnd t e = some { x with unacked := [], fencedU := none } ∧
      t = { s with fab := t.fab, ends := t.ends }) ∧
    (∀ e x, s.takes port ptNack p → r.ptype = 6 → endOfTxn s r.txn = some (e, x) → findEnd s e = some x →
      field p.payload 0 2 = 0x0012 → ∃ t, exec (.pktNack port p) s = .next t ∧
      findEnd t e = some { x with fencedU := some s.tb.nowU } ∧ t = { s with fab := t.fab, ends := t.ends })) ∧
  (∀ (s : State) (e t0 : Nat) (x : StageEnd) (a : BitVec 32 × W64) (l : List (BitVec 32 × W64)), findEnd s e = some x →
    x.fencedU = some t0 → x.unacked = a :: l → x.lost = false → inReset s = false →
    (s.since t0 msU = false → exec (.ctrAddResend e) s = .next s) ∧
    (s.since t0 msU = true → ∃ t n, exec (.ctrAddResend e) s = .next t ∧
      findEnd t e = some { x with unacked := (n, a.2) :: l, fencedU := none } ∧ t = { s with fab := t.fab, ends := t.ends }))

/-- O41. A packet in order on a torus port, of an assigned type but TICK, PROBE and PROBE_REPLY, not for this module and without
a waypoint here, leaves by the port of dimension order (X, then Y, then Z) toward its waypoint or destination with HOPS one
higher and a fresh HCRC, in the dateline class of the hop. One with its waypoint here goes on toward its destination with
WP_ACTIVE and DL clear, after any packet that waits for re-injection. A packet of a reserved type is dropped and counted on
its port; nothing but the fabric's state changes. -/
def Obligations.RoutersForwardPackets : Prop :=
  ∀ (s : State) (port : Nat) (p : Packet), s.sup.in40 = true → lengthOk p = true → port < 6 → (takeLink port p s).1 = true →
    (∀ target out, 1 ≤ p.ptype.toNat → p.ptype.toNat ≤ 12 → p.ptype.toNat ≠ ptTick → p.ptype.toNat ≠ ptProbe →
      p.ptype.toNat ≠ ptProbeReply → target = (if packetWpActive p then p.wp.extractLsb' 0 12 else dstAddr p.dst) →
      target ≠ s.id.addr → inTorus s.id target = true → routePort s.id s.id.addr target = some out →
      portUp (getPort (s.taken port p) out) = true →
      ∃ t q, exec (.packetForward port p) s = .next t ∧ t.fab.outbox = s.fab.outbox ++ [(out, q)] ∧ q.hops = p.hops + 1 ∧
        q.dst = p.dst ∧ q.src = p.src ∧ q.payload = p.payload ∧ q.wp = p.wp ∧ q.hcrc = packetCrc q ∧
        packetDl q = forwardDl s.id port out (packetDl p) ∧ packetWpActive q = packetWpActive p ∧ t = { s with fab := t.fab }) ∧
    (∀ out, 1 ≤ p.ptype.toNat → p.ptype.toNat ≤ 12 → p.ptype.toNat ≠ ptTick → p.ptype.toNat ≠ ptProbe →
      p.ptype.toNat ≠ ptProbeReply → packetWpActive p = true → p.wp.extractLsb' 0 12 = s.id.addr → dstAddr p.dst ≠ s.id.addr →
      s.fab.reinject = [] → inTorus s.id (dstAddr p.dst) = true → routePort s.id s.id.addr (dstAddr p.dst) = some out →
      portUp (getPort (s.taken port p) out) = true →
      ∃ t q, exec (.packetForward port p) s = .next t ∧ t.fab.outbox = s.fab.outbox ++ [(out, q)] ∧ q.hops = p.hops + 1 ∧
        q.dst = p.dst ∧ q.payload = p.payload ∧ packetWpActive q = false ∧ packetDl q = false ∧ t.fab.reinject = [] ∧
        t = { s with fab := t.fab }) ∧
    (p.ptype.toNat = 0 ∨ 12 < p.ptype.toNat →
      exec (.packetForward port p) s = .next (countUnroutable port (s.taken port p)))

/-- O42. LINK_UP puts a port that is not in service UP on 16 lanes, or DEGRADED on 12 to 15 good ones, with both sequence
numbers starting at 0, and with fewer lanes does nothing; on a torus port a PROBE and a HELLO leave (a manager may send
ROUTE_SETs besides, log entry 31). LINK_DOWN takes a port DOWN: no lane, an empty replay buffer, and (no manager) DOWN_DROP
grows by no more than the packets it held. LANE_RETUNE takes one lane off a port that is UP or DEGRADED, above 10^-4;
LANE_RETUNE_DONE brings it back, or disables it, DEGRADED while at least 12 lanes remain, else DOWN. LINK_REPLAY of the
packet expected counts a replay and its cause. No other port changes (but for what a manager sends at LINK_UP or when a link
goes DOWN); every change of state is one log entry; memory and counters are unchanged. How many packets are lost is free
(log entry 3). On a torus link in service HOP_DELAY_MEASURE sends one PROBE on that port and notes the time; on another port
or a link out of service nothing happens. A PROBE in order on a torus port is answered on the same port with PROBE_REPLY to
its sender under its transaction number. A PROBE_REPLY that answers the module's PROBE sets the port's hop delay, in ps, to
half of the time since; without a PROBE out it changes nothing but the link sequence number. Only the fabric's state
changes. -/
def Obligations.LinksAndTheirDelay : Prop :=
  (
  ∀ (s : State) (port : Nat) (q : Port), port < 8 → getPort s port = q →
    (∀ (lseq : BitVec 16) (h : Bool), portUp q = true → (lseq = q.rxSeq → exec (.linkReplay port lseq h) s = .next (modPort port (fun q => { q with
        replays := satAdd q.replays 1, replayFrom := some q.rxSeq, hdrCrc := if h then satAdd q.hdrCrc 1 else q.hdrCrc,
        fecUncorr := if h then q.fecUncorr else satAdd q.fecUncorr 1 }) s)) ∧
      (lseq ≠ q.rxSeq → exec (.linkReplay port lseq h) s = .next s)) ∧
    (s.sup.in40 = true → portUp q = false → q.disabled.length ≤ 4 → ∃ t, exec (.linkUp port) s = .next t ∧
      (getPort t port).st = (if q.disabled = [] then .up else .degraded) ∧ (getPort t port).lanes = 16 - q.disabled.length ∧
      (getPort t port).rxSeq = 0 ∧ (6 ≤ port → (getPort t port).txSeq = 0 ∧ t.fab.outbox = s.fab.outbox) ∧
      (s.id.role = .worker ∨ 6 ≤ port → ∀ j, j ≠ port → getPort t j = getPort s j) ∧
      (port < 6 → s.id.role = .worker → ∃ a b, t.fab.outbox = s.fab.outbox ++ [(port, a), (port, b)] ∧ a.ptype.toNat = ptProbe ∧
        a.lseq = 0 ∧ b.ptype.toNat = ptMgmt ∧ field b.payload 0 2 = 0x01) ∧
      t.log.next = s.log.next + 1 ∧ t = { s with fab := t.fab, log := t.log, free := t.free }) ∧
    (portUp q = true ∨ 4 < q.disabled.length → exec (.linkUp port) s = .next s) ∧
    (s.sup.in40 = true → q.st ≠ .down → ∃ t, exec (.linkDown port) s = .next t ∧ (getPort t port).st = .down ∧
      t.log.next = s.log.next + 1 ∧ t = { s with fab := t.fab, log := t.log, free := t.free } ∧
      (s.id.role = .worker → (getPort t port).lanes = 0 ∧ (getPort t port).txq = [] ∧ (∀ j, j ≠ port → getPort t j = getPort s j) ∧
        ∃ n, n ≤ q.txq.length ∧ (getPort t port).downDrop = satAdd q.downDrop n)) ∧
    (q.st = .down → exec (.linkDown port) s = .next s) ∧
    (∀ lane e, lane < 16 → 100000 < e → q.st = .up ∨ q.st = .degraded → q.tuning = none → q.disabled.contains lane = false →
      ∃ t, exec (.laneRetune port lane e) s = .next t ∧ (getPort t port).st = .retuning ∧ (getPort t port).tuning = some lane ∧
        (getPort t port).lanes = q.lanes - 1 ∧ (getPort t port).retunes = satAdd q.retunes 1 ∧
        (∀ j, j ≠ port → getPort t j = getPort s j) ∧ t.log.next = s.log.next + 1 ∧ t = { s with fab := t.fab, log := t.log }) ∧
    (∀ lane e, e ≤ 100000 → exec (.laneRetune port lane e) s = .next s) ∧
    (∀ l, q.st = .retuning → q.tuning = some l →
      (∃ t, exec (.laneRetuneDone port true) s = .next t ∧ (getPort t port).st = (if q.disabled.isEmpty then .up else .degraded) ∧
        (getPort t port).lanes = q.lanes + 1 ∧ (getPort t port).tuning = none ∧ (∀ j, j ≠ port → getPort t j = getPort s j) ∧
        t.log.next = s.log.next + 1 ∧ t = { s with fab := t.fab, log := t.log }) ∧
      (12 ≤ q.lanes → ∃ t, exec (.laneRetuneDone port false) s = .next t ∧ (getPort t port).st = .degraded ∧
        (getPort t port).lanes = q.lanes ∧ (getPort t port).disabled = l :: q.disabled ∧ (∀ j, j ≠ port → getPort t j = getPort s j) ∧
        t.log.next = s.log.next + 1 ∧ t = { s with fab := t.fab, log := t.log }) ∧
      (q.lanes < 12 → ∃ t, exec (.laneRetuneDone port false) s = .next t ∧ (getPort t port).st = .down ∧
        t.log.next = s.log.next + 1 ∧ t = { s with fab := t.fab, log := t.log, free := t.free }))) ∧
  (
  (∀ (s : State) (port : Nat),
    (port < 6 → portUp (getPort s port) = true → ∃ t a, exec (.hopDelayMeasure port) s = .next t ∧
      t.fab.outbox = s.fab.outbox ++ [(port, a)] ∧ a.ptype.toNat = ptProbe ∧ (getPort t port).probeU = some s.tb.nowU ∧
      (∀ j, j ≠ port → getPort t j = getPort s j) ∧ t = { s with fab := t.fab }) ∧
    (6 ≤ port ∨ portUp (getPort s port) = false → exec (.hopDelayMeasure port) s = .next s)) ∧
  (∀ (s : State) (port : Nat) (p : Packet), s.sup.in40 = true → lengthOk p = true → port < 6 → (takeLink port p s).1 = true →
    (p.ptype.toNat = ptProbe → ∃ t a, exec (.pktProbe port p) s = .next t ∧ t.fab.outbox = s.fab.outbox ++ [(port, a)] ∧
      a.ptype.toNat = ptProbeReply ∧ a.dst = p.src ∧ a.txn = p.txn ∧ t = { s with fab := t.fab }) ∧
    (p.ptype.toNat = ptProbeReply →
      (∀ t0, (getPort s port).probeU = some t0 → exec (.pktProbeReply port p) s = .next (modPort port (fun q => { q with
        probeU := none, delayPs := BitVec.ofNat 32 ((s.tb.nowU - t0) / 65536 / 2) }) (s.taken port p))) ∧
      ((getPort s port).probeU = none → exec (.pktProbeReply port p) s = .next (s.taken port p)))))

/-- O43. A whole HELLO on a torus link names the neighbour, and a module without an address takes the sender's stepped along the
link, with its torus sizes. A manager that takes a JOIN answers JOIN_ACK with the result of R329, keeps an accepted member
and may send ROUTE_SETs that clear entries (log entry 31); a worker refuses with NOT_PERMITTED. JOIN_ACK with RESULT 0 sets
address, sizes, managers, tick parent and source FABRIC; with RESULT 1 or 2 it changes nothing but its acknowledgement.
HEARTBEAT_SEND sends one every 10 ms, a pod manager's to the system manager (the model's reading, log entry 84), another's
to the manager whose beacon came last; HEARTBEAT renews its member; 30 ms without one, or LEAVE, marks the member lost and
sends RANK_LOST to every module known to hold a group with it. -/
def Obligations.MembersJoinAndAreLost : Prop :=
  (∀ (s : State) (port : Nat) (p : Packet) (bd : Bytes) (a : BitVec 12), s.sup.in40 = true → lengthOk p = true → port < 6 →
    (takeLink port p s).1 = true → p.ptype.toNat = ptMgmt → field p.payload 0 2 = 0x01 → p.payload.length = 28 →
    field p.payload 2 2 = 16 → field p.payload 24 4 = (crc32c (p.payload.take 24)).toNat → (p.payload.drop 8).take 16 = bd →
    addrOf (field bd 0 2) = some a →
    ∃ t, exec (.hello port p) s = .next t ∧ (getPort t port).neighbour = some a ∧ t = { s with id := t.id, fab := t.fab } ∧
      (s.id.hasAddr = true → t.id = s.id) ∧
      (s.id.hasAddr = false → t.id.hasAddr = true ∧ t.id.dx.toNat = field bd 2 1 % 16 ∧ t.id.dy.toNat = field bd 3 1 % 16 ∧
        t.id.dz.toNat = field bd 4 1 % 16 ∧ t.id.addr = neighbourAt t.id a (field bd 5 1))) ∧
  (∀ (s : State) (port : Nat) (p : Packet) (src : BitVec 12) (bd : Bytes), s.manages port 0x02 p src bd →
    (s.id.role = .worker → exec (.mgmtJoin port p) s = .next ((s.taken port p).acknowledged 0x02 p 0x0050)) ∧
    (∀ a res, s.id.role ≠ .worker → addrOf (field bd 34 2) = some a → joinResult s a (bd.take 16) (field bd 32 1) = res →
      ∃ u, u = (if res = 0 then { s.taken port p with fab := { (s.taken port p).fab with
            members := s.fab.members.filter (fun x => x.addr != a) ++
              [{ addr := a, seenU := s.tb.nowU, role := BitVec.ofNat 8 (field bd 32 1), serial := bd.take 16 }] } } else s.taken port p) ∧
        exec (.mgmtJoin port p) s = .next ((if res = 0 then sendUncovers (mgmtSend src 0x03 (joinAckBody u a res (field bd 32 1))
          { u with free := u.free + 1 }) else mgmtSend src 0x03 (joinAckBody u a res (field bd 32 1))
          { u with free := u.free + 1 }).acknowledged 0x02 p 0x0000))) ∧
  (∀ (s : State) (port : Nat) (p : Packet) (src : BitVec 12) (bd : Bytes), s.manages port 0x03 p src bd → field bd 12 1 ≤ 64 →
    (∀ a m y, field bd 5 1 = 0 → addrOf (field bd 0 2) = some a → addrOf (field bd 8 2) = some m → addrOf (field bd 10 2) = some y →
      ∃ t, exec (.joinAck port p) s = .next t ∧ t.id = { s.id with
          addr := a, hasAddr := true, dx := BitVec.ofNat 4 (field bd 2 1), dy := BitVec.ofNat 4 (field bd 3 1),
          dz := BitVec.ofNat 4 (field bd 4 1) } ∧ t.fab.manager = m ∧ t.fab.sysManager = y ∧
        t.fab.confirmed = true ∧ t.tb = { s.tb with tickParent := addrOf (field bd 6 2), sourceField := 2 } ∧
        (s.tb.st = .locked → s.tb.backward = false → t.fab.joined = true) ∧ t = { s with id := t.id, fab := t.fab, tb := t.tb }) ∧
    (field bd 5 1 = 1 ∨ field bd 5 1 = 2 →
      exec (.joinAck port p) s = .next ((s.taken port p).acknowledged 0x03 p 0x0000))) ∧
  (∀ s : State, (s.fab.confirmed = true → s.sup.in40 = true → s.mb ≠ .handover → s.since s.fab.heartU (10 * msU) = true →
      exec .heartbeatSend s = .next (mgmtSend (if s.id.role = .podManager then s.fab.sysManager else s.fab.beaconFrom.getD s.fab.manager) 0x04 (heartbeatBody s)
        { s with fab := { s.fab with heartU := s.tb.nowU } })) ∧
    (s.mb = .handover ∨ s.fab.confirmed = false ∨ s.since s.fab.heartU (10 * msU) = false → exec .heartbeatSend s = .next s)) ∧
  (∀ (s : State) (port : Nat) (p : Packet) (src : BitVec 12) (bd : Bytes) (m : Member), s.manages port 0x04 p src bd →
    findMember s src = some m → m.lost = false → ∃ t, exec (.heartbeat port p) s = .next t ∧ t = { s with fab := t.fab } ∧
      (∀ x, x ≠ src → findMember t x = findMember s x) ∧
      findMember t src = some (if field bd 1 1 = 3 then { m with seenU := s.tb.nowU, holdU := some (m.holdU.getD s.tb.nowU) }
        else { m with seenU := s.tb.nowU, holdU := none, degraded := false })) ∧
  (∀ (s : State) (a : BitVec 12) (m : Member), findMember s a = some m → s.id.role ≠ .worker → m.lost = false →
    (s.since m.seenU (30 * msU) = false → exec (.moduleLost a) s = .next s) ∧
    (s.since m.seenU (30 * msU) = true → ∃ t, exec (.moduleLost a) s = .next t ∧
      findMember t a = some { m with lost := true, holdU := none } ∧ (∀ x, x ≠ a → findMember t x = findMember s x) ∧
      (∀ h ∈ holdersOf s a, ∃ x ∈ t.fab.unacked, x.dst = h ∧ field x.payload 0 2 = 0x09) ∧
      t = { s with fab := t.fab, free := t.free }) ∧
    (∀ port p bd, s.manages port 0x05 p a bd → ∃ t, exec (.leaveMessage port p) s = .next t ∧
      findMember t a = some { m with lost := true, holdU := none } ∧ (∀ x, x ≠ a → findMember t x = findMember s x) ∧
      (∀ h ∈ holdersOf s a, ∃ x ∈ t.fab.unacked, x.dst = h ∧ field x.payload 0 2 = 0x09) ∧
      t = { s with fab := t.fab, free := t.free }))

/-- O44. A manager sends a BEACON to every other address of its pod each 100 ms, and not earlier. A BEACON of another manager of
the pod makes a worker heed its sender and JOIN it; a manager whose own address is higher reverts to WORKER, logs the
conflict and JOINs it; one whose address is lower stays. MGMT_ACK takes the acknowledged message off the list. MGMT_RESEND 5
ms after the last try sends the message once more, up to four times, and then gives it up; earlier it does nothing. Nothing
outside the fabric, the role and the log changes. -/
def Obligations.ManagersAnnounceAndMessagesAreAcknowledged : Prop :=
  (∀ s : State, (s.id.role ≠ .worker → s.sup.in40 = true → s.since s.fab.beaconU (100 * msU) = true →
      ∃ t, exec .beaconSend s = .next t ∧ t.fab.beaconU = s.tb.nowU ∧
        t.fab.mseq = s.fab.mseq + BitVec.ofNat 32 (podMembers s.id).length ∧ t.fab.unacked = s.fab.unacked ∧ t = { s with fab := t.fab }) ∧
    (s.id.role = .worker ∨ s.since s.fab.beaconU (100 * msU) = false → exec .beaconSend s = .next s)) ∧
  (∀ (s : State) (port : Nat) (p : Packet) (src m : BitVec 12) (bd : Bytes), s.manages port 0x06 p src bd →
    addrOf (field bd 0 2) = some m → podOf s.id m = podOf s.id s.id.addr → m ≠ s.id.addr → field bd 2 1 ≠ 0 →
    (s.id.role = .worker → ∃ t, exec (.beacon port p) s = .next t ∧ t.fab.beaconFrom = some m ∧
      (∃ x ∈ t.fab.unacked, x.dst = m ∧ field x.payload 0 2 = 0x02) ∧ t = { s with fab := t.fab }) ∧
    (s.id.role ≠ .worker → m < s.id.addr → ∃ t, exec (.beacon port p) s = .next t ∧ t.id = { s.id with role := .worker } ∧
      t.fab.beaconFrom = some m ∧ (∃ x ∈ t.fab.unacked, x.dst = m ∧ field x.payload 0 2 = 0x02) ∧ t.log.next = s.log.next + 1 ∧ t = { s with id := t.id, fab := t.fab, log := t.log }) ∧
    (s.id.role ≠ .worker → s.id.addr < m → exec (.beacon port p) s = .next ((s.taken port p).acknowledged 0x06 p 0x0000))) ∧
  (∀ (s : State) (port : Nat) (p : Packet) (src : BitVec 12) (bd : Bytes), s.manages port 0x11 p src bd → s.deferred = [] →
    ∃ t, exec (.mgmtAck port p) s = .next t ∧
      t.fab.unacked = s.fab.unacked.filter (fun u => !(u.mseq == BitVec.ofNat 32 (field bd 0 4) && u.dst == src)) ∧
      t = { s with fab := t.fab }) ∧
  (∀ (s : State) (n : BitVec 32) (u : MgmtOut), s.fab.unacked.find? (fun v => v.mseq == n) = some u →
    (s.since u.sentU (5 * msU) = false → exec (.mgmtResend n) s = .next s) ∧
    (s.since u.sentU (5 * msU) = true → u.tries < 4 → ∃ t, exec (.mgmtResend n) s = .next t ∧
      t.fab.unacked.find? (fun v => v.mseq == n) = some { u with tries := u.tries + 1, sentU := s.tb.nowU } ∧
      (isHeld s u.dst = false → u.dst = s.id.addr → inTorus s.id u.dst = true → ∃ x, t.fab.outbox = s.fab.outbox ++ [(8, x)] ∧
        x.payload = u.payload) ∧ t = { s with fab := t.fab }) ∧
    (s.since u.sentU (5 * msU) = true → 4 ≤ u.tries → exec (.mgmtResend n) s = .next { s with fab := { s.fab with
      unacked := s.fab.unacked.filter fun v => v.mseq != n } }))

/-- O45. A manager that takes a RESET_NOTICE sends RANK_RESET to every module known to hold a group with a rank on the sender. A
RANK_RESET, RANK_LOST or TIME_DEGRADED about a module posts its event (0x8010, 0x8011, 0x8012) once to the owner of every
context with an installed group there: with one such group, exactly that event; with none, nothing; RANK_LOST also marks the
stage-queue ends with that peer PEER_LOST, their forwarded adds dropped. TICK_LOST_REPORT of KIND 0 starts a member's
HOLDOVER time at a manager; after 10 s HOLDOVER_TIMEOUT sends TIME_DEGRADED to the holders, once. Memory and counters are
unchanged. -/
def Obligations.NoticesReachTheirContexts : Prop :=
  (∀ (s : State) (port : Nat) (p : Packet) (src : BitVec 12) (bd : Bytes), s.manages port 0x07 p src bd → field bd 0 1 ≤ 1 →
    ∃ t, exec (.resetNotice port p) s = .next t ∧ t = { s with fab := t.fab } ∧
      (s.id.role ≠ .worker → ∀ h ∈ holdersOf s src, ∃ x ∈ t.fab.unacked, x.dst = h ∧ field x.payload 0 2 = 0x08)) ∧
  (∀ (s : State) (port code kind : Nat) (p : Packet) (src a : BitVec 12) (bd : Bytes) (i : Instr),
    (i, code, kind) ∈ [(.rankReset port p, 0x08, 1), (.rankLost port p, 0x09, 0), (.timeDegraded port p, 0x0A, 0)] →
    s.manages port code p src bd → addrOf (field bd 0 2) = some a → field bd 2 1 ≤ kind →
    (∀ gs, gs = s.groups.filter (fun g => g.2.installed && g.2.table.any fun e => rankModule e == a) →
      (gs = [] → ∃ t, exec i s = .next t ∧ t = { s with fab := t.fab, ends := t.ends }) ∧
      (∀ g, gs = [g] → ∃ t u, exec i s = .next t ∧ t = { u with fab := t.fab, ends := t.ends } ∧
        u = postEvent (getCtx s g.2.ctx).owner (0x8008 + code) 0 (leBytes 1 g.2.ctx ++ leBytes 1 0 ++ leBytes 2 g.1 ++ leBytes 2 a.toNat
          ++ leBytes 1 (field bd 2 1) ++ leBytes 1 0 ++ leBytes 8 s.ftw.toNat) s)) ∧
    ∃ t, exec i s = .next t ∧ t.ends = (if code = 0x09 then s.ends.map (fun e => if e.2.peer == a then
      (e.1, { e.2 with lost := true, unacked := [], fencedU := none }) else e) else s.ends)) ∧
  (∀ (s : State) (port : Nat) (p : Packet) (src : BitVec 12) (bd : Bytes) (m : Member), s.manages port 0x0B p src bd →
    (s.id.role = .worker → field bd 8 1 ≤ 1 → exec (.tickLostReport port p) s = .next ((s.taken port p).acknowledged 0x0B p 0x0000)) ∧
    (s.id.role ≠ .worker → field bd 8 1 = 0 → findMember s src = some m → ∃ t, exec (.tickLostReport port p) s = .next t ∧
      findMember t src = some { m with holdU := some (m.holdU.getD s.tb.nowU) } ∧ t = { s with fab := t.fab, free := t.free })) ∧
  (∀ (s : State) (a : BitVec 12) (m : Member) (t0 : Nat), findMember s a = some m → m.holdU = some t0 → s.id.role ≠ .worker →
    m.lost = false →
    (m.degraded = true ∨ s.since t0 (10 * secU) = false → exec (.holdoverTimeout a) s = .next s) ∧
    (m.degraded = false → s.since t0 (10 * secU) = true → ∃ t, exec (.holdoverTimeout a) s = .next t ∧
      findMember t a = some { m with degraded := true } ∧ (∀ h ∈ holdersOf s a, ∃ x ∈ t.fab.unacked, x.dst = h ∧ field x.payload 0 2 = 0x0A) ∧
      t = { s with fab := t.fab }))

/-- O46. For a management message taken for the first time: ROUTE_SET in range writes its entries (replacing the table in MODE
1); a GROUP_INSTALL of a new group whose message carries all R entries installs it with its epoch, context and table;
GROUP_STAGE for an installed group of the context stages epoch, R and entries; GROUP_REMOVE for a record of the context
removes it and its nodes; PERIOD_ARM with a period from 40 us to 2 s sets TB_PERIOD_SET and arms the frame. Out of range,
they answer BAD_ARGUMENT (0x0052) and change nothing else; GROUP_STAGE and GROUP_REMOVE for another context's record answer
NOT_PERMITTED (0x0050). -/
def Obligations.RoutesGroupsAndPeriodsAreSet : Prop :=
  ∀ (s : State) (port : Nat) (p : Packet) (src : BitVec 12) (bd : Bytes) (u : State), u = s.taken port p →
    (s.manages port 0x0C p src bd →
      (field bd 0 1 ≤ 64 → field bd 1 1 + field bd 0 1 ≤ 64 → field bd 1 1 ≤ 63 → field bd 2 1 ≤ 1 →
        exec (.routeSet port p) s = .next ((setRoutes (putRoutes (field bd 1 1) (routesOf bd 8 (field bd 0 1))
          (if field bd 2 1 = 1 then [] else s.fab.routes)) u).acknowledged 0x0C p 0x0000)) ∧
      (1 < field bd 2 1 → exec (.routeSet port p) s = .next (u.acknowledged 0x0C p 0x0052))) ∧
    (s.manages port 0x0D p src bd →
      (groupFieldsOk s bd = true → Tbl.find? s.groups (field bd 0 2) = none → s.groups.length < 256 → field bd 12 4 = 0 →
        field bd 16 2 = field bd 8 4 → exec (.groupInstall port p) s = .next
          (({ u with
              groups := Tbl.ins s.groups (field bd 0 2) {
                ctx := field bd 3 1, qz := field bd 2 1, r := field bd 8 4, epoch := BitVec.ofNat 32 (field bd 4 4), installed := true
                table := (List.range (field bd 8 4)).map fun i => BitVec.ofNat 32 (field bd (24 + 4 * i) 4) } } : State).acknowledged
            0x0D p 0x0000)) ∧
      (groupFieldsOk s bd = false → exec (.groupInstall port p) s = .next (u.acknowledged 0x0D p 0x0052))) ∧
    (s.manages port 0x0E p src bd →
      (∀ g, groupFieldsOk s bd = true → findGroup s (field bd 0 2) = some g → g.ctx = field bd 3 1 → g.staged = none →
        ∃ t, exec (.groupStage port p) s = .next t ∧ findGroup t (field bd 0 2) = some { g with
            staged := some (BitVec.ofNat 32 (field bd 4 4), field bd 8 4, storeEntries bd []) } ∧
          (∀ n, n ≠ field bd 0 2 → findGroup t n = findGroup s n) ∧ t = { s with groups := t.groups, fab := t.fab }) ∧
      (∀ g, findGroup s (field bd 0 2) = some g → g.ctx ≠ field bd 3 1 →
        exec (.groupStage port p) s = .next (u.acknowledged 0x0E p 0x0050)) ∧
      (findGroup s (field bd 0 2) = none → exec (.groupStage port p) s = .next (u.acknowledged 0x0E p 0x0052))) ∧
    (s.manages port 0x0F p src bd →
      (∀ g, Tbl.find? s.groups (field bd 0 2) = some g → g.ctx = field bd 3 1 → exec (.groupRemove port p) s = .next
        (({ u with
              groups := Tbl.del s.groups (field bd 0 2)
              nodes := s.nodes.filter fun n => n.group != field bd 0 2
              insts := s.insts.filter fun x => x.group != field bd 0 2 } : State).acknowledged
          0x0F p 0x0000)) ∧
      (∀ g, Tbl.find? s.groups (field bd 0 2) = some g → g.ctx ≠ field bd 3 1 →
        exec (.groupRemove port p) s = .next (u.acknowledged 0x0F p 0x0050)) ∧
      (Tbl.find? s.groups (field bd 0 2) = none → exec (.groupRemove port p) s = .next (u.acknowledged 0x0F p 0x0052))) ∧
    (s.manages port 0x10 p src bd → ∀ per, per = BitVec.ofNat 41 (field bd 0 8) →
      (40000000 ≤ per.toNat → per.toNat ≤ 2000000000000 → exec (.periodArm port p) s = .next
        (({ u with tb := { s.tb with periodSet := per, arm := true, atFrame := BitVec.ofNat 48 (field bd 8 8) } } : State).acknowledged
          0x10 p 0x0000)) ∧
      (per.toNat < 40000000 ∨ 2000000000000 < per.toNat → exec (.periodArm port p) s = .next (u.acknowledged 0x10 p 0x0052)))

/-- O47. For each of the 32 messages, written with GO to a free channel of a READY module: a wrong CHECK answers INTEGRITY
(0x0030); a sender that R348 does not name NOT_PERMITTED (0x0050); a nonzero reserved header field BAD_ARGUMENT (0x0052); a
LENGTH over 3,040 or short of the assigned bytes BAD_MESSAGE (0x0053); a nonzero reserved body byte BAD_ARGUMENT; one that
must wait is put last on the deferred list and answered BUSY_DEFERRED (0x0031). A reserved code answers BAD_MESSAGE. A GO
while BUSY only sets OVERRUN. An answer puts the response, its TAG and CHECK in the buffer, clears BUSY, sets DONE, and
changes nothing but the channel and its interrupt. That these checks come in this order is the model's reading (log entry
33). For the deferred request d at place n: when its work has begun, the module is READY and awake and no context of it
drains quietly, MSG_DONE removes it and posts event 0x8000 with its TAG, code and status once its end is due: a
QUEUE_DESTROY when no command of the queue is left (the queue goes), an UNMAP when no remote access through its mappings is
out (the mappings go, noted on each started command of the context, R73), a request that was refused with its status; until
then nothing changes. One not begun whose turn has not come is left alone; one whose turn has come is carried out, answered
at once, by its event. -/
def Obligations.RequestsAreCheckedAndEnd : Prop :=
  (
  (∀ (s : State) (ch : Nat) (req : Bytes) (row : Nat × Instr) (r : MsgRow), row ∈ mailboxRows ch req → field req 0 2 = row.1 →
    msgRow row.1 = some r → ch < 32 → hostUp s = true → s.sup.in40 = true → (getFn s ch).busy = false → s.mb = .ready →
    ∀ u, u = s.given ch req →
    (checkOk req = false → exec row.2 s = .next (u.answered ch req 0x0030 [])) ∧
    (checkOk req = true → maySend r.sender ch = false → exec row.2 s = .next (u.answered ch req 0x0050 [])) ∧
    (checkOk req = true → maySend r.sender ch = true → headerZero req = false → exec row.2 s = .next (u.answered ch req 0x0052 [])) ∧
    (checkOk req = true → maySend r.sender ch = true → headerZero req = true →
      3040 < field req 8 2 ∨ lengthFits r (reqBody req).length = false → exec row.2 s = .next (u.answered ch req 0x0053 [])) ∧
    (checkOk req = true → maySend r.sender ch = true → headerZero req = true → field req 8 2 ≤ 3040 →
      lengthFits r (reqBody req).length = true →
      (reservedZero r (reqBody req) = false → exec row.2 s = .next (u.answered ch req 0x0052 [])) ∧
      (reservedZero r (reqBody req) = true → mustDefer s s.deferred ch row.1 (reqBody req) = true → exec row.2 s =
        .next (({ u with deferred := s.deferred ++ [{ ch := ch, code := row.1, tag := BitVec.ofNat 32 (field req 4 4), req := reqBody req }] } :
          State).answered ch req 0x0031 [])))) ∧
  (∀ (s : State) (ch : Nat) (req : Bytes), ch < 32 → hostUp s = true → s.sup.in40 = true →
    ((getFn s ch).busy = false → s.mb = .ready → checkOk req = true → msgRow (field req 0 2) = none →
      exec (.mailboxReservedCode ch req) s = .next ((s.given ch req).answered ch req 0x0053 [])) ∧
    ((getFn s ch).busy = true → exec (.overrun ch req) s = .next (modFn ch (fun f => { f with overrun := true }) s))) ∧
  (∀ (u t : State) (ch st : Nat) (req out : Bytes), ch < 32 → t = u.answered ch req st out →
    (getFn t ch).busy = false ∧ (getFn t ch).doneBit = true ∧
    (getFn t ch).respBuf = padTo 3072 (message u (field req 0 2) 1 (field req 4 4) st out) ∧ t = { u with fns := t.fns, msix := t.msix })) ∧
  (
  ∀ (s : State) (n : Nat) (d : Deferred), s.deferred[n]? = some d → carriesOut s = true →
    (∀ u st out, u = postEventF d.ch 0x8000 6 d.tag.toNat st (leBytes 2 d.code ++ leBytes 2 0 ++ leBytes 4 d.tag.toNat ++ padTo 8 out)
      { s with deferred := s.deferred.take n ++ s.deferred.drop (n + 1) } →
      (d.begun = true → d.bad = 0 → d.code = 0x0105 → out = [] → st = 0 →
        (queueCmds s (field d.req 0 2) = [] → exec (.msgDone n) s = .next { u with queues := Tbl.del s.queues (field d.req 0 2) }) ∧
        (queueCmds s (field d.req 0 2) ≠ [] → exec (.msgDone n) s = .next s)) ∧
      (∀ ms, d.begun = true → d.bad = 0 → d.code = 0x0201 → out = [] → st = 0 → unmapNamed s d.req = some ms →
        (accessOut s (field d.req 0 1) ms = false → exec (.msgDone n) s = .next { u with
          ctxs := (removeMaps (field d.req 0 1) ms s).ctxs, cmds := (noteUnmapped (field d.req 0 1) ms s).cmds }) ∧
        (accessOut s (field d.req 0 1) ms = true → exec (.msgDone n) s = .next s)) ∧
      (d.begun = true → d.bad ≠ 0 → d.waits = [] → d.code ≠ 0x0101 → out = [] → st = d.bad → exec (.msgDone n) s = .next u) ∧
      (d.begun = true → d.bad = 0 → d.code = 0x0310 → d.waits = [] → out = [] → st = 0 → exec (.msgDone n) s = .next u)) ∧
    (d.begun = false → mustDefer s (s.deferred.take n) d.ch d.code d.req = true → exec (.msgDone n) s = .next s) ∧
    (∀ r st out v, d.begun = false → mustDefer s (s.deferred.take n) d.ch d.code d.req = false → msgRow d.code = some r →
      r.handler d.ch d.tag.toNat d.req s = .now st out v → d.code ≠ 0x0101 →
      exec (.msgDone n) s = .next (postEventF d.ch 0x8000 6 d.tag.toNat st
        (leBytes 2 d.code ++ leBytes 2 0 ++ leBytes 4 d.tag.toNat ++ padTo 8 out)
        { v with deferred := v.deferred.take n ++ v.deferred.drop (n + 1) })))

/-- O48. For a request that firmware carries out, the answer is the module's state and nothing else changes, but for the
read-and-clear flag of CTX_QUERY (sticky flags), STAGEQ_QUERY (WAIT_PH) and GROUP_QUERY (its four counts). STATUS_QUERY
answers THERMAL (0x0041) while a thermal trip holds. TELEMETRY_READ has the sections 0 to 3 and LOG_READ 1 to 47 units;
beyond, BAD_ARGUMENT (0x0052). A query of another function's context, end or group answers NOT_PERMITTED (0x0050), of an end
or a group that does not exist BAD_ARGUMENT. -/
def Obligations.QueriesReportAndChangeNothingElse : Prop :=
  ∀ (s u : State) (ch : Nat) (req bd : Bytes), u = s.given ch req →
    (s.serves ch 0x0001 req bd → exec (.identify ch req) s = .next (u.answered ch req 0 (identifyBody s))) ∧
    (s.serves ch 0x0002 req bd → exec (.statusQuery ch req) s = .next (u.answered ch req (if s.pow.tripHold then 0x0041 else 0)
      (leBytes 1 (mbCode s.mb) ++ leBytes 1 s.pow.oppoint ++ leBytes 2 (min s.pow.boardCap s.pow.hostCap) ++ leBytes 4 s.log.resets
        ++ leBytes 2 (ctxCount s .active) ++ leBytes 2 (ctxCount s .error)))) ∧
    (s.serves ch 0x0003 req bd →
      (field bd 0 1 ≤ 3 → exec (.telemetryRead ch req) s = .next (u.answered ch req 0
        (if field bd 0 1 = 0 then telemModule s else if field bd 0 1 = 1 then telemDies s else if field bd 0 1 = 2 then telemStalls s
          else telemChans s))) ∧
      (3 < field bd 0 1 → exec (.telemetryRead ch req) s = .next (u.answered ch req 0x0052 []))) ∧
    (s.serves ch 0x0004 req bd → ∀ first n, first = field bd 0 4 → n = field bd 4 2 →
      (∀ es, 1 ≤ n → n ≤ 47 → es = (if bitOf first 31 then dumpUnits s (bits first 30 0) n
          else logEntries s (max first (s.log.next - 2048)) (min (first + n) s.log.next)) →
        exec (.logRead ch req) s =
          .next (u.answered ch req 0 (leBytes 4 s.log.next ++ leBytes 2 es.length ++ leBytes 2 0 ++ es.flatten))) ∧
      (n = 0 ∨ 47 < n → exec (.logRead ch req) s = .next (u.answered ch req 0x0052 []))) ∧
    (s.serves ch 0x0102 req bd → ∀ c, c = field bd 0 1 →
      (ownsCtx s ch c = true → field bd 1 1 ≤ 1 → exec (.ctxQuery ch req) s = .next
        ((if field bd 1 1 = 1 then modCtx c (fun x => { x with sticky := 0 }) u else u).answered ch req 0
          (leBytes 1 (ctxCode (getCtx s c).st) ++ leBytes 1 (s.queues.filter fun q => q.2.ctx == c).length ++ leBytes 6 0
            ++ leBytes 8 (getCtx s c).sticky.toNat ++ leBytes 8 (mappedBytes (getCtx s c))))) ∧
      (ownsCtx s ch c = false → exec (.ctxQuery ch req) s = .next (u.answered ch req 0x0050 []))) ∧
    (s.serves ch 0x0202 req bd → ∀ c, c = field bd 0 1 →
      (ownsCtx s ch c = true → exec (.memQuery ch req) s = .next (u.answered ch req 0
        ((((getCtx s c).shrink.drop (field bd 4 4)).take 380).flatMap fun v => leBytes 8 v))) ∧
      (ownsCtx s ch c = false → exec (.memQuery ch req) s = .next (u.answered ch req 0x0050 []))) ∧
    (s.serves ch 0x0301 req bd → ∀ e, e = field bd 0 2 →
      (∀ x, findEnd s e = some x → ownsCtx s ch x.ctx = true → field bd 2 1 ≤ 1 → exec (.stageqQuery ch req) s = .next
        ((if field bd 2 1 = 1 then { u with ends := Tbl.ins s.ends e { x with waitPh := 0 } } else u).answered ch req 0
          (leBytes 1 (b2n x.lost) ++ leBytes 7 0 ++ leBytes 8 x.waitPh.toNat))) ∧
      (∀ x, findEnd s e = some x → ownsCtx s ch x.ctx = false → exec (.stageqQuery ch req) s = .next (u.answered ch req 0x0050 [])) ∧
      (findEnd s e = none → exec (.stageqQuery ch req) s = .next (u.answered ch req 0x0052 []))) ∧
    (s.serves ch 0x0311 req bd → ∀ n, n = field bd 0 2 →
      (∀ g, findGroup s n = some g → ownsCtx s ch g.ctx = true → field bd 2 1 ≤ 1 → exec (.groupQuery ch req) s = .next
        ((if field bd 2 1 = 1 then modGroup n (fun g => { g with late := 0, stale := 0, hdrErr := 0, missing := 0 }) u else u).answered
          ch req 0 (leBytes 4 g.epoch.toNat ++ leBytes 4 g.r ++ leBytes 4 g.late.toNat ++ leBytes 4 g.stale.toNat
            ++ leBytes 4 g.hdrErr.toNat ++ leBytes 4 g.missing.toNat))) ∧
      (∀ g, findGroup s n = some g → ownsCtx s ch g.ctx = false → exec (.groupQuery ch req) s = .next (u.answered ch req 0x0050 [])) ∧
      (findGroup s n = none → exec (.groupQuery ch req) s = .next (u.answered ch req 0x0052 []))) ∧
    (s.serves ch 0x0500 req bd → exec (.fwQuery ch req) s = .next (u.answered ch req 0
      (leBytes 4 s.id.slotA.version.toNat ++ leBytes 4 (slotCode s false) ++ leBytes 4 s.id.slotB.version.toNat
        ++ leBytes 4 (slotCode s true))))

/-- O49. For a request that firmware carries out: MICA_SLICES takes the mask (bit 31 clear) when no mapped slice becomes cache,
memory outside the slices that change is as it was, and with a mapped one it answers NO_RESOURCE (0x0051); BAR2_SET takes
the offset of the PF, or a context and base of a VF; ROLE_SET makes the module a WORKER, or at a manager's place a manager
with itself as pod manager; LEAVE tells the manager and ends membership; POWER_CAP_SET takes 1,200 to 3,500 W, with
CAP_UNMET (0x0040) below the floor; OPPOINT_SET takes a level 0 to 2 while no host context exists; WAKE_SET sets, cancels or
fires its alarm. Arguments out of range answer BAD_ARGUMENT (0x0052). -/
def Obligations.ModuleMessagesSetTheModule : Prop :=
  ∀ (s u : State) (ch : Nat) (req bd : Bytes), u = s.given ch req →
    (s.serves ch 0x0005 req bd → ∀ mask, mask = BitVec.ofNat 32 (field bd 0 4) →
      (mask.getLsbD 31 = true → exec (.micaSlices ch req) s = .next (u.answered ch req 0x0052 [])) ∧
      (∀ k, k < 31 → mask.getLsbD 31 = false → mask.getLsbD k = true → s.micaCache.getLsbD k = false → sliceMapped s k = true →
        exec (.micaSlices ch req) s = .next (u.answered ch req 0x0051 [])) ∧
      (mask.getLsbD 31 = false → (∀ k, k < 31 → mask.getLsbD k = true → s.micaCache.getLsbD k = false → sliceMapped s k = false) →
        ∃ t : State, exec (.micaSlices ch req) s = .next (t.answered ch req 0 []) ∧ t.micaCache = mask ∧
          t = { u with micaCache := t.micaCache, mem := t.mem, pref := t.pref, free := t.free } ∧
          ∀ a, (∀ k, k < 31 → mask.getLsbD k = s.micaCache.getLsbD k ∨ a < sliceBase k ∨ sliceBase (k + 1) ≤ a) →
            memRead t.mem a = memRead s.mem a)) ∧
    (s.serves ch 0x0006 req bd →
      (ch = 0 → field bd 0 1 = 0 → field bd 8 8 % 2 ^ (getFn s 0).bar2Log = 0 → field bd 8 8 < 8 * ilBytes s.id →
        exec (.bar2Set ch req) s = .next ((modFn 0 (fun f => { f with bar2Off := field bd 8 8 }) u).answered ch req 0 [])) ∧
      (ch ≠ 0 → ownsCtx s ch (field bd 0 1) = true → field bd 8 8 < 2 ^ 48 → exec (.bar2Set ch req) s =
        .next ((modFn ch (fun f => { f with bar2Ctx := some (field bd 0 1), bar2Base := field bd 8 8 }) u).answered ch req 0 [])) ∧
      (ch ≠ 0 → ownsCtx s ch (field bd 0 1) = false → exec (.bar2Set ch req) s = .next (u.answered ch req 0x0050 []))) ∧
    (s.serves ch 0x0320 req bd →
      (field bd 0 1 = 0 → exec (.roleSet ch req) s = .next (({ u with id := { s.id with role := .worker } } : State).answered ch req 0 [])) ∧
      (field bd 0 1 = 2 → managerPlace s.id = true → exec (.roleSet ch req) s = .next (({ u with
          id := { s.id with role := .systemManager }
          fab := { s.fab with manager := s.id.addr, beaconU := s.tb.nowU - 100 * msU } } : State).answered ch req 0 [])) ∧
      (2 < field bd 0 1 ∨ (field bd 0 1 ≠ 0 ∧ managerPlace s.id = false) →
        exec (.roleSet ch req) s = .next (u.answered ch req 0x0052 []))) ∧
    (s.serves ch 0x0321 req bd →
      (s.fab.confirmed = true → ∃ t : State, exec (.leave ch req) s = .next (t.answered ch req 0 []) ∧ t.fab.confirmed = false ∧
        t.fab.joined = false ∧ (∃ x ∈ t.fab.unacked, x.dst = (if s.id.role = .podManager then s.fab.sysManager else s.fab.manager) ∧ field x.payload 0 2 = 0x05) ∧ t = { u with fab := t.fab }) ∧
      (s.fab.confirmed = false → exec (.leave ch req) s = .next (u.answered ch req 0x0052 []))) ∧
    (s.serves ch 0x0400 req bd →
      (1200 ≤ field bd 0 2 → field bd 0 2 ≤ 3500 → s.pow.tripHold = false → exec (.powerCapSet ch req) s =
        .next (({ u with pow := { u.pow with hostCap := field bd 0 2 } } : State).answered ch req
          (if min s.pow.boardCap (field bd 0 2) < floorW s.pow.oppoint then 0x0040 else 0) [])) ∧
      (field bd 0 2 < 1200 ∨ 3500 < field bd 0 2 → exec (.powerCapSet ch req) s = .next (u.answered ch req 0x0052 []))) ∧
    (s.serves ch 0x0401 req bd →
      (field bd 0 1 ≤ 2 → hostCtxExists s = false → exec (.oppointSet ch req) s =
        .next (({ u with pow := { u.pow with oppoint := field bd 0 1 } } : State).answered ch req 0 [])) ∧
      (2 < field bd 0 1 ∨ hostCtxExists s = true → exec (.oppointSet ch req) s = .next (u.answered ch req 0x0052 []))) ∧
    (s.serves ch 0x0402 req bd → ∀ time, time = field bd 8 8 →
      (field bd 0 1 = 0 → time ≠ 0 → s.rtcUs < time → exec (.wakeSet ch req) s =
        .next (({ u with pow := { u.pow with rtcAlarm := some time } } : State).answered ch req 0 [])) ∧
      (field bd 0 1 = 0 → time ≠ 0 → time ≤ s.rtcUs → exec (.wakeSet ch req) s =
        .next ((wakeUp { u with pow := { u.pow with rtcAlarm := none } }).answered ch req 0 [])) ∧
      (field bd 0 1 = 1 → time = 0 → exec (.wakeSet ch req) s =
        .next (({ u with pow := { u.pow with frameAlarm := none } } : State).answered ch req 0 [])) ∧
      (field bd 0 1 = 1 → s.reachedN time = false → time ≠ 0 → exec (.wakeSet ch req) s =
        .next (({ u with pow := { u.pow with frameAlarm := some (BitVec.ofNat 64 time) } } : State).answered ch req 0 [])) ∧
      (1 < field bd 0 1 → exec (.wakeSet ch req) s = .next (u.answered ch req 0x0052 [])))

/-- O50. FW_STAGE of a context of the sender, no TRIAL running, makes the inactive slot INVALID and is deferred; FW_ACTIVATE of
a VALID slot names it for the next start-up (AT_RESTART) or is deferred (LIVE); FW_COMMIT ends a TRIAL; RECALIBRATE is
deferred. HANDOVER, with a LIVE update accepted and no reset, puts STATE in HANDOVER and changes nothing else; HANDOVER_END,
nothing latched or due, makes it READY and schedules the switch for the frame named, or the next boundary; FW_ACTIVATED,
once the engines have switched and no command runs under the old microcode, makes the other slot active as TRIAL;
TRIAL_REVERSION, 2 s after both supplies without reaching MAILBOX, returns to the other slot with one log entry. -/
def Obligations.FirmwareSlotsFollowTheirMessages : Prop :=
  (∀ (s u : State) (ch : Nat) (req bd : Bytes), u = s.given ch req →
    (s.serves ch 0x0501 req bd →
      (ownsCtx s ch (field bd 0 1) = true → s.id.trial = false → exec (.fwStage ch req) s =
        .next ((setOther { otherSlot s with st := .invalid } u).deferredAs ch req [] 0)) ∧
      (ownsCtx s ch (field bd 0 1) = false ∨ s.id.trial = true → exec (.fwStage ch req) s = .next (u.answered ch req 0x0050 []))) ∧
    (s.serves ch 0x0502 req bd →
      (field bd 8 8 < 2 ^ 48 → (otherSlot s).st = .valid →
        (field bd 0 1 = 0 → exec (.fwActivate ch req) s = .next (u.deferredAs ch req [] 0)) ∧
        (field bd 0 1 = 1 → exec (.fwActivate ch req) s =
          .next (({ u with id := { s.id with trialNext := true } } : State).answered ch req 0 []))) ∧
      (1 < field bd 0 1 ∨ (otherSlot s).st ≠ .valid → exec (.fwActivate ch req) s = .next (u.answered ch req 0x0052 []))) ∧
    (s.serves ch 0x0503 req bd →
      (s.id.trial = true → exec (.fwCommit ch req) s =
        .next (({ u with id := { s.id with trial := false } } : State).answered ch req 0 [])) ∧
      (s.id.trial = false → exec (.fwCommit ch req) s = .next (u.answered ch req 0x0052 []))) ∧
    (s.serves ch 0x0504 req bd → exec (.recalibrate ch req) s = .next (u.deferredAs ch req [] 0))) ∧
  (∀ s : State,
    ((liveUpdate s).isSome = true → s.activating = none → s.mb = .ready → s.rst.stage = .none →
      exec .handover s = .next { s with mb := .handover }) ∧
    ((liveUpdate s).isSome = false ∨ s.mb ≠ .ready ∨ s.rst.stage ≠ .none → exec .handover s = .next s) ∧
    (∀ d, s.mb = .handover → s.rst.stage = .none → s.mctp.held = [] → (∀ f, (getFn s f).orphans = [] ∧ (getFn s f).latched = none ∧
        (getFn s f).busy = false) → liveUpdate s = some d → ∃ t, exec .handoverEnd s = .next t ∧ t.mb = .ready ∧
        t.activating = some (d.ch, d.tag, (if field d.req 8 8 = 0 ∨ field d.req 8 8 * 65536 ≤ s.ftw.toNat
          then (s.tb.frame + 1) ++ (0 : BitVec 16) else BitVec.ofNat 64 (field d.req 8 8 * 65536)), false) ∧
        (∀ f, getFn t f = getFn s f) ∧ t = { s with mb := t.mb, activating := t.activating, fns := t.fns }) ∧
    (s.mb ≠ .handover → exec .handoverEnd s = .next s) ∧
    (∀ a, s.activating = some a → a.2.2.2 = true → (s.cmds.any fun c => c.oldUcode) = false →
      ∃ t, exec .fwActivated s = .next t ∧ t.activating = none ∧
        t.id = { s.id with activeB := !s.id.activeB, trial := true, trialNext := false } ∧
        t.deferred = s.deferred.filter (fun e => !(e.code == 0x0502 && e.begun)) ∧
        t = { s with id := t.id, activating := t.activating, deferred := t.deferred, fns := t.fns, msix := t.msix }) ∧
    (∀ a, s.activating = some a → a.2.2.2 = false ∨ (s.cmds.any fun c => c.oldUcode) = true → exec .fwActivated s = .next s) ∧
    (s.sup.in40 = true → s.mb = .booting → s.id.trial = true → s.since s.sup.bothU (2 * secU) = true →
      ∃ t, exec .trialReversion s = .next t ∧ t.id = { s.id with activeB := !s.id.activeB, trial := false } ∧
        t.sup = { s.sup with bothU := s.tb.nowU } ∧ t.log.next = s.log.next + 1 ∧
        t = { s with id := t.id, sup := t.sup, log := t.log }) ∧
    (s.mb ≠ .booting ∨ s.id.trial = false ∨ s.since s.sup.bothU (2 * secU) = false → exec .trialReversion s = .next s))

/-- O51. For a request that firmware carries out: CTX_CREATE takes a free number (the one asked for, if any) and free counter
blocks and makes that context ACTIVE, of the sender, with ARITH_MODE and WDOG_PH, its counters zero; without a number or
blocks it answers NO_RESOURCE (0x0051). COUNTER_GRANT gives an ACTIVE context of the sender free blocks, zeroed. CTX_DESTROY
makes a context DRAINING, ends its started commands with CTX_GONE (0x0010) and is deferred. CTX_DRAINED of a drained context
leaves nothing of it (queues, commands, stage-queue ends, requests) and frees its number, withheld for 100 ms until
CTX_NUMBER_RELEASE. Other contexts, memory and other counters are unchanged. Which number and run are taken is free (log
entry 34). -/
def Obligations.ContextsAreMadeAndDestroyed : Prop :=
  (∀ (s u : State) (ch : Nat) (req bd : Bytes), u = s.given ch req →
    (s.serves ch 0x0100 req bd → ∀ n mode w want, n = field bd 2 2 → mode = field bd 4 4 → w = field bd 8 4 → want = field bd 0 1 →
      bits mode 31 8 = 0 → bits mode 5 3 = 0 →
      (freeCtxs s ≠ [] → (want ≠ 0 → want ∈ freeCtxs s) → (n ≠ 0 → freeRuns s n ≠ []) → ∃ (t : State) (c b : Nat),
        exec (.ctxCreate ch req) s = .next (t.answered ch req 0 (leBytes 1 c ++ [0] ++ leBytes 2 (b * 64) ++ leBytes 2 n)) ∧
        c ∈ freeCtxs s ∧ (want ≠ 0 → c = want) ∧ (n ≠ 0 → b ∈ freeRuns s n) ∧
        getCtx t c = { st := .active, owner := ch, arithMode := BitVec.ofNat 32 mode, wdogPh := if w = 0 then 0x20000 else w } ∧
        (∀ x, x ≠ c → getCtx t x = getCtx s x) ∧ (∀ k, b * 64 ≤ k → k < (b + n) * 64 → ctrOwned t c k = true ∧ ctrGet t k = 0) ∧
        (∀ k, k < b * 64 ∨ (b + n) * 64 ≤ k → ctrGet t k = ctrGet s k ∧ ∀ x, ctrOwned t x k = ctrOwned s x k) ∧
        t = { u with ctxs := t.ctxs, ctrOwner := t.ctrOwner, counters := t.counters, free := t.free }) ∧
      (freeCtxs s = [] ∨ (want ≠ 0 ∧ want ∉ freeCtxs s) ∨ (n ≠ 0 ∧ freeRuns s n = []) →
        exec (.ctxCreate ch req) s = .next (u.answered ch req 0x0051 []))) ∧
    (s.serves ch 0x0103 req bd → ∀ c n, c = field bd 0 1 → n = field bd 2 2 → ownsCtx s ch c = true → (getCtx s c).st = .active →
      (freeRuns s n ≠ [] → ∃ (t : State) (b : Nat), exec (.counterGrant ch req) s = .next (t.answered ch req 0 (leBytes 2 (b * 64))) ∧
        b ∈ freeRuns s n ∧ (∀ k, b * 64 ≤ k → k < (b + n) * 64 → ctrOwned t c k = true ∧ ctrGet t k = 0) ∧
        (∀ k, k < b * 64 ∨ (b + n) * 64 ≤ k → ctrGet t k = ctrGet s k ∧ ∀ x, ctrOwned t x k = ctrOwned s x k) ∧
        t = { u with ctrOwner := t.ctrOwner, counters := t.counters, free := t.free }) ∧
      (freeRuns s n = [] → exec (.counterGrant ch req) s = .next (u.answered ch req 0x0051 []))) ∧
    (s.serves ch 0x0101 req bd → ∀ c, c = field bd 0 1 →
      (ownsCtx s ch c = true → (getCtx s c).st ≠ .draining → ∃ t : State, exec (.ctxDestroy ch req) s = .next (t.deferredAs ch req [] 0) ∧
        (getCtx t c).st = .draining ∧ (∀ x, x ≠ c → getCtx t x = getCtx s x) ∧
        (∀ k d, findCmd s k = some d → d.ctx = c → d.st = .started → t.ended k 0x0010) ∧ t.mem = s.mem ∧ t.counters = s.counters ∧
        t.queues = s.queues) ∧
      (ownsCtx s ch c = false → exec (.ctxDestroy ch req) s = .next (u.answered ch req 0x0050 [])))) ∧
  (∀ (s : State) (c : Nat),
    (drainReady s c = true → ∃ t, exec (.ctxDrained c) s = .next t ∧ getCtx t c = { freedU := some s.tb.nowU } ∧
      (∀ x, x ≠ c → getCtx t x = getCtx s x) ∧ (∀ q ∈ t.queues, q.2.ctx ≠ c) ∧ (∀ d ∈ t.cmds, d.ctx ≠ c) ∧ (∀ e ∈ t.ends, e.2.ctx ≠ c) ∧
      (∀ r ∈ t.fab.reqs, r.ctx ≠ c) ∧ t.mem = s.mem ∧ t.counters = s.counters) ∧
    (drainReady s c = false → exec (.ctxDrained c) s = .next s) ∧
    (∀ t0, (getCtx s c).freedU = some t0 →
      (s.since t0 (100 * msU) = true → ∃ t, exec (.ctxNumberRelease c) s = .next t ∧ (getCtx t c).freedU = none ∧
        (∀ x, x ≠ c → getCtx t x = getCtx s x) ∧ t = { s with ctxs := t.ctxs }) ∧
      (s.since t0 (100 * msU) = false → exec (.ctxNumberRelease c) s = .next s)))

/-- O52. For a request that firmware carries out: QUEUE_CREATE with attributes in range, for an ACTIVE context of the sender
with fewer than 16 queues, makes an empty queue under a free number (NO_RESOURCE at 16); QUEUE_DESTROY closes the queue,
discards its commands that have not started, and is deferred; of a queue that does not exist it answers BAD_ARGUMENT
(0x0052). TILE_GRANT gives each cluster that it names the mode and contexts of the message; every bank that a context loses
is then FREE and no other cluster changes; while a losing context has a started command on a named cluster it is deferred
and changes nothing. Which queue number is taken is free (log entry 34). For a request that firmware carries out: MAP, for
an ACTIVE context of the sender and with nothing to refuse, adds exactly its pages to the context's mappings, and the memory
that local ones name is held by the function (while a map-out of a stack runs, its pages in the slab then move as those
before them, R303); a refused one answers its status and changes nothing. UNMAP of a run that starts at a mapping is
deferred with the mappings still there; otherwise BAD_ARGUMENT (0x0052). STAGEQ_CREATE under a free number makes the end,
and sets its own counter to 0 for a consumer and to S for a producer; under a number in use it answers NO_RESOURCE (0x0051).
STAGEQ_DESTROY removes the end. No other context, end or counter changes, and no byte of memory. -/
def Obligations.QueuesTilesMappingsAndStageQueues : Prop :=
  (
  ∀ (s u : State) (ch : Nat) (req bd : Bytes), u = s.given ch req →
    (s.serves ch 0x0104 req bd → ∀ c, c = field bd 0 1 → ownsCtx s ch c = true → (getCtx s c).st = .active → queueOk bd = true →
      ((s.queues.filter fun q => q.2.ctx == c).length < 16 → (∃ q, q < 1024 ∧ findQueue s q = none) → ∃ (t : State) (q : Nat),
        exec (.queueCreate ch req) s = .next (t.answered ch req 0 (leBytes 2 q)) ∧ q < 1024 ∧ findQueue s q = none ∧
        findQueue t q = some {
          ctx := c, basalt := field bd 1 1, ringVa := field bd 8 8, ringN := field bd 2 1, cqVa := field bd 16 8, cqN := field bd 3 1, floor := field bd 4 1, vector := field bd 6 2 } ∧
        (∀ p, p ≠ q → findQueue t p = findQueue s p) ∧ t = { u with queues := t.queues, free := t.free }) ∧
      (16 ≤ (s.queues.filter fun q => q.2.ctx == c).length → exec (.queueCreate ch req) s = .next (u.answered ch req 0x0051 []))) ∧
    (s.serves ch 0x0105 req bd → ∀ q, q = field bd 0 2 →
      (∀ x, findQueue s q = some x → ownsCtx s ch x.ctx = true → ∃ t : State,
        exec (.queueDestroy ch req) s = .next (t.deferredAs ch req [] 0) ∧ findQueue t q = some { x with closing := true } ∧
        (∀ p, p ≠ q → findQueue t p = findQueue s p) ∧ (∀ d, d ∈ t.cmds ↔ d ∈ s.cmds ∧ ¬(d.q = q ∧ d.st = .fetched)) ∧
        t = { u with queues := t.queues, cmds := t.cmds }) ∧
      (findQueue s q = none → exec (.queueDestroy ch req) s = .next (u.answered ch req 0x0052 []))) ∧
    (s.serves ch 0x0106 req bd → ∀ b, b = field bd 0 1 →
      (grantOk bd s = true → grantFree bd s = true → ∃ t : State, exec (.tileGrant ch req) s = .next (t.answered ch req 0 []) ∧
        (∀ i ∈ grantClusters bd, getCluster t b i =
          (if sameGrant (getCluster s b i) (grantOf bd (getCluster s b i)) then getCluster s b i else grantOf bd (getCluster s b i))) ∧
        (∀ a j, j < 16 → ¬(a = b ∧ j ∈ grantClusters bd) → getCluster t a j = getCluster s a j) ∧
        (∀ i ∈ grantClusters bd, ∀ k tile, k < 2 → tile < 32 →
          bankOwner (getCluster s b i) k ≠ bankOwner (grantOf bd (getCluster s b i)) k →
          Tbl.find? t.banks ((b * 512 + i * 32 + tile) * 2 + k) = none) ∧
        t = { u with clusters := t.clusters, streams := t.streams, activeBank := t.activeBank, banks := t.banks }) ∧
      (grantOk bd s = true → grantFree bd s = false → exec (.tileGrant ch req) s = .next (u.deferredAs ch req [] 0)) ∧
      (grantOk bd s = false → exec (.tileGrant ch req) s = .next (u.answered ch req 0x0052 [])))) ∧
  (
  ∀ (s u : State) (ch : Nat) (req bd : Bytes), u = s.given ch req →
    (s.serves ch 0x0200 req bd → ∀ c, c = field bd 0 1 → ownsCtx s ch c = true → (getCtx s c).st = .active →
      (mapRefused s ch bd = none → ∃ t : State, exec (.mapPages ch req) s = .next ((clearSlabs t).answered ch req 0 []) ∧
        ((∀ k, k < 8 → mapoutRuns s k = false) → clearSlabs t = t) ∧
        getCtx t c = { getCtx s c with maps := (getCtx s c).maps ++ (List.range (field bd 4 4)).map (mapOf bd) } ∧
        (∀ x, x ≠ c → getCtx t x = getCtx s x) ∧ (bitOf (field bd 1 1) 2 = true → t.held = s.held) ∧
        t = { u with ctxs := t.ctxs, held := t.held }) ∧
      (∀ st, mapRefused s ch bd = some st → exec (.mapPages ch req) s = .next (u.answered ch req st []))) ∧
    (s.serves ch 0x0201 req bd → ownsCtx s ch (field bd 0 1) = true →
      ((unmapNamed s bd).isSome = true → exec (.unmap ch req) s = .next (u.deferredAs ch req [] 0)) ∧
      (unmapNamed s bd = none → exec (.unmap ch req) s = .next (u.answered ch req 0x0052 []))) ∧
    (s.serves ch 0x0300 req bd → ∀ c e x, c = field bd 1 1 → e = field bd 2 2 → ownsCtx s ch c = true → (getCtx s c).st = .active →
      stageOk s bd = true → x = ({
        consumer := field bd 0 1 == 1, ctx := c, ownCtr := field bd 4 2, sendCtr := field bd 6 2, peer := BitVec.ofNat 12 (field bd 8 2), peerEnd := field bd 10 2, slots := field bd 12 2, slotBytes := field bd 16 4,
        slotVa := field bd 24 8 } : StageEnd) →
      (findEnd s e = none → ∃ t : State, exec (.stageqCreate ch req) s = .next (t.answered ch req 0 []) ∧ findEnd t e = some x ∧
        (∀ f, f ≠ e → findEnd t f = findEnd s f) ∧
        ctrGet t x.ownCtr = (if x.consumer then 0 else BitVec.ofNat 64 x.slots) ∧ (∀ n, n ≠ x.ownCtr → ctrGet t n = ctrGet s n) ∧
        t = { u with ends := t.ends, counters := t.counters }) ∧
      ((findEnd s e).isSome = true → exec (.stageqCreate ch req) s = .next (u.answered ch req 0x0051 []))) ∧
    (s.serves ch 0x0302 req bd → ∀ e, e = field bd 0 2 →
      (∀ x, findEnd s e = some x → ownsCtx s ch x.ctx = true →
        exec (.stageqDestroy ch req) s = .next (({ u with ends := Tbl.del s.ends e } : State).answered ch req 0 [])) ∧
      (findEnd s e = none → exec (.stageqDestroy ch req) s = .next (u.answered ch req 0x0052 []))))

/-- O53. For a request that firmware carries out: CHANNEL_MAPOUT of a NORMAL channel of a stack whose slab no context maps makes
it DEGRADED (one log entry) and is deferred; a second live map-out of a stack is noted for the next start-up and its
MSG_DONE will say NO_RESOURCE; a moved page holds the bytes as they read at its old place, which are those stored there
unless a DEGRADED channel may hold them (errors are free values, log entry 95). MAPOUT_COMPLETE, no page left in the slab,
makes the channel of such a request, or of firmware's own map-out, OUT, lowers the stack's capacity and ends the request;
memory outside the slab is unchanged but for the data that a DEGRADED channel of that stack may hold. GROUP_SET INSTALL or
STAGE with a readable, well-formed table, and REMOVE of a known group, send their messages to every member module and are
deferred until each is acknowledged. -/
def Obligations.ChannelsLeaveAndGroupsAreSent : Prop :=
  (∀ (s u : State) (ch : Nat) (req bd : Bytes), u = s.given ch req →
    (s.serves ch 0x0203 req bd → ∀ k c, k = field bd 0 1 → c = field bd 1 1 → k ≤ 7 → c ≤ 31 →
      (Tbl.get .normal s.pow.chans (k * 32 + c) = .out → exec (.channelMapout ch req) s = .next (u.answered ch req 0x0052 [])) ∧
      (Tbl.get .normal s.pow.chans (k * 32 + c) = .normal →
        (mapoutBad s k = false → slabPages s k true = [] → slabPages s k false = [] →
          (∀ x, (getCtx s x).maps.filter (inSlab s.id k) = []) →
          exec (.channelMapout ch req) s = .next ((setChan k c .degraded u).deferredAs ch req [] 0)) ∧
        (mapoutBad s k = true → ∃ t : State, exec (.channelMapout ch req) s = .next (t.deferredAs ch req [] 0x0051) ∧
          (k, c) ∈ t.id.outNext ∧ Tbl.get .normal t.pow.chans (k * 32 + c) = .degraded ∧ t.log.next = s.log.next + 2 ∧
          t.mem = s.mem ∧ t.ctxs = s.ctxs))) ∧
    (s.serves ch 0x0310 req bd → ∀ gn tbl, gn = field bd 0 2 → ownsCtx s ch (field bd 4 1) = true → (getCtx s (field bd 4 1)).st = .active →
      (field bd 2 1 ≤ 1 → 1 ≤ gn → gn ≤ 0xFFFE → field bd 3 1 ≤ 1 → 1 ≤ field bd 12 4 → field bd 12 4 ≤ 32768 → readTable s bd = some tbl →
        Tbl.find? s.groups gn = none → s.groups.length < 256 → (∀ e ∈ tbl, bits e.toNat 31 23 = 0) → ∃ (t : State) (ws : List (BitVec 32)),
        exec (.groupSet ch req) s = .next (t.deferredAs ch req ws 0) ∧ (gn, tbl) ∈ t.fab.known ∧ t = { u with fab := t.fab } ∧
        ∀ m ∈ tableMembers tbl, ∃ x ∈ t.fab.unacked, x.dst = m.1 ∧ x.mseq ∈ ws ∧
          field x.payload 0 2 = (if field bd 2 1 = 1 then 0x0E else 0x0D)) ∧
      (field bd 2 1 = 2 → (gn, tbl) ∈ s.fab.known → Tbl.find? s.groups gn = none → ∃ (t : State) (ws : List (BitVec 32)),
        exec (.groupSet ch req) s = .next (t.deferredAs ch req ws 0) ∧ (∀ k ∈ t.fab.known, k.1 ≠ gn) ∧ t = { u with fab := t.fab } ∧
        ∀ m ∈ tableMembers tbl, ∃ x ∈ t.fab.unacked, x.dst = m.1 ∧ x.mseq ∈ ws ∧ field x.payload 0 2 = 0x0F) ∧
      (2 < field bd 2 1 → exec (.groupSet ch req) s = .next (u.answered ch req 0x0052 [])))) ∧
  (∀ (s : State) (old size new i : Nat), i < size →
    memRead (movePage old size new s).mem (new + i) = seenByte s (old + i) (memRead s.mem (old + i)) ∧
    (mayErr s (old + i) = false → memRead (movePage old size new s).mem (new + i) = memRead s.mem (old + i))) ∧
  (∀ (s : State) (stack chan : Nat), stack < 8 →
    (∃ d ∈ s.deferred, d.code = 0x0203 ∧ d.begun = true ∧ d.bad = 0 ∧ field d.req 0 1 = stack ∧ field d.req 1 1 = chan) ∨
      (stack, chan) ∈ s.pow.ownOut →
    (s.ctxs.any (fun c => c.2.maps.any (inSlab s.id stack)) = true → exec (.mapoutComplete stack chan) s = .next s) ∧
    (s.ctxs.any (fun c => c.2.maps.any (inSlab s.id stack)) = false → ∃ t, exec (.mapoutComplete stack chan) s = .next t ∧
      Tbl.get .normal t.pow.chans (stack * 32 + chan) = .out ∧
      t.id.outChans = modAt s.id.outChans stack (fun l => l ++ [chan]) ∧ t.pow.liveOut.getLsbD stack = true ∧
      (∀ d ∈ t.deferred, ¬(d.code = 0x0203 ∧ d.begun = true ∧ d.bad = 0 ∧ field d.req 0 1 = stack ∧ field d.req 1 1 = chan)) ∧
      (stack, chan) ∉ t.pow.ownOut ∧
      (∀ a, (a < stackBase stack + slabStart s.id stack ∧ (a < stackBase stack ∨ mayErr s a = false)) ∨
          stackBase stack + slabStart s.id stack + stackC0 s.id / 32 ≤ a →
        memRead t.mem a = memRead s.mem a) ∧ t.ctxs = s.ctxs ∧ t.counters = s.counters ∧ t.log.next = s.log.next + 1))

/-- O54. With the auxiliary supply, each control request is answered by one message (type 0x00, the tag, the code, the
completion code): SET_ENDPOINT_ID of a usable ID sets it, and of the null or the broadcast ID answers 2 and sets nothing;
GET_ENDPOINT_ID gives the ID; GET_MCTP_VERSION_SUPPORT the versions of types 0xFF, 0x00 and 0x7E (free), else 0x80;
GET_MESSAGE_TYPE_SUPPORT the one type 0x7E; GET_VENDOR_DEFINED_MESSAGE_SUPPORT set 0 the PCI vendor ID, for another set 2.
Without the supply nothing changes. Nothing but the MCTP endpoint changes. The layouts are those of DSP0236 (log entry 32). -/
def Obligations.EndpointAnswersMctpControl : Prop :=
  ∀ (s : State) (msg : Bytes) (say : Bytes → Host.Outcome State Fault Refusal),
    (s.sup.aux = true → say = (fun d => .next { s with mctp := { s.mctp with
      out := s.mctp.out ++ [[0] ++ leBytes 1 (field msg 1 1 % 32) ++ leBytes 1 (field msg 2 1) ++ d] } }) →
      (mctpIs 1 2 msg = true →
        (field msg 3 1 % 4 ≤ 1 → field msg 4 1 ≠ 0 → field msg 4 1 ≠ 255 → ∃ t, exec (.setEndpointId msg) s = .next t ∧
          t.mctp.eid = BitVec.ofNat 8 (field msg 4 1) ∧ t = { s with mctp := t.mctp } ∧ t.mctp.held = s.mctp.held ∧ t.mctp.out =
            s.mctp.out ++ [[0] ++ leBytes 1 (field msg 1 1 % 32) ++ leBytes 1 (field msg 2 1) ++ ([0, 0] ++ leBytes 1 (field msg 4 1) ++ [0])]) ∧
        (1 < field msg 3 1 % 4 ∨ field msg 4 1 = 0 ∨ field msg 4 1 = 255 → exec (.setEndpointId msg) s = say [2])) ∧
      (mctpIs 2 0 msg = true → exec (.getEndpointId msg) s = say ([0] ++ [s.mctp.eid] ++ [0, 0])) ∧
      (mctpIs 4 1 msg = true → ∀ ty, ty = field msg 3 1 →
        (ty = 0xFF ∨ ty = 0x00 ∨ ty = 0x7E → exec (.getMctpVersionSupport msg) s =
          say ([0] ++ leBytes 1 ((Config.mctpVersions ty).length / 4) ++ Config.mctpVersions ty)) ∧
        (ty ≠ 0xFF → ty ≠ 0x00 → ty ≠ 0x7E → exec (.getMctpVersionSupport msg) s = say [0x80])) ∧
      (mctpIs 5 0 msg = true → exec (.getMessageTypeSupport msg) s = say [0, 1, 0x7E]) ∧
      (mctpIs 6 1 msg = true →
        (field msg 3 1 = 0 → exec (.getVendorDefinedMessageSupport msg) s = say
          ([0, 0xFF, 0] ++ (leBytes 2 Config.vendorId.toNat).reverse ++ (leBytes 2 Config.mctpVendorVersion.toNat).reverse)) ∧
        (field msg 3 1 ≠ 0 → exec (.getVendorDefinedMessageSupport msg) s = say [2]))) ∧
    (s.sup.aux = false → ∀ i ∈ [Instr.setEndpointId msg, .getEndpointId msg, .getMctpVersionSupport msg, .getMessageTypeSupport msg,
      .getVendorDefinedMessageSupport msg], exec i s = .next s)

/-- O55. With the host up and no page DISCARD_AFTER_LAST or PERSIST, stacks awake and no prefetched line: a PF access within the
window reads or writes the device addresses from OFFSET on, and every byte outside the written ones reads as before; a VF
without an ACTIVE or ERROR context of its own, and a function whose contexts drain after its reset, reads all ones, drops
its write, and is counted; a VF's write or read that its context's mappings allow throughout has the effect of the context's
own access. An access beyond the size of BAR2, or without the host up, changes nothing. FLR of a VF, or VF_DISABLE of one,
drains every ACTIVE or ERROR context of the function and returns its channel and BAR2 to their supply values, a latched
request kept without a response; FLR of the PF does so for all 32 functions, VF_DISABLE 0 for the 31 VFs. Memory, counters,
queues and every other function are unchanged. PERST takes the host away and returns the BAR2 sizes, and changes nothing
else (work goes on); PERST_DEASSERTION brings the host back, and every pending MSI-X message whose entry is not masked is
sent. -/
def Obligations.HostAccessAndFunctionResets : Prop :=
  (
  ∀ (s : State) (fn off len : Nat) (data : Bytes),
    (hostUp s = false ∨ 2 ^ (getFn s fn).bar2Log < off + len → ∀ w, exec (.bar2Access fn w off len data) s = .next s) ∧
    (hostUp s = true → s.sup.in40 = true → off + len ≤ 2 ^ (getFn s fn).bar2Log → anyDiscard s = false → (∀ h ∈ s.held, h.hint ≠ 2) → s.pow.pst ≠ .sleep →
      s.pref = [] →
      (∀ a runs, fn = 0 → fnDrains s fn = false → a = (getFn s 0).bar2Off + off → a + len ≤ 8 * ilBytes s.id → runs = canonRuns s.id (len / 4096 + 2) a len →
        exec (.bar2Access fn false off len data) s = .next { s with bus := s.bus ++ [peek s a len] } ∧
        (data.length = len → ∃ t, exec (.bar2Access fn true off len data) s = .next t ∧ t.mem = pokeRuns runs data s.mem ∧
          (∀ x, (∀ r ∈ runs, x < r.1 ∨ r.1 + r.2 ≤ x) → memRead t.mem x = memRead s.mem x) ∧ t = { s with mem := t.mem })) ∧
      (fn < 32 → fnDrains s fn = true ∨ (1 ≤ fn ∧ bar2CtxOf s fn = none) →
        exec (.bar2Access fn false off len data) s = .next (modFn fn (fun f => { f with bar2Bad := f.bar2Bad + 1 })
          { s with bus := s.bus ++ [List.replicate len 0xFF] }) ∧
        (data.length = len → exec (.bar2Access fn true off len data) s =
          .next (modFn fn (fun f => { f with bar2Bad := f.bar2Bad + 1 }) s))) ∧
      (∀ c e bs, 1 ≤ fn → fn < 32 → fnDrains s fn = false → bar2CtxOf s fn = some c →
        (readV ((getFn s fn).bar2Base + off) len { s := s, ctx := c, owner := 2 * (4096 + fn) + 1 } = .ok bs e →
          exec (.bar2Access fn false off len data) s =
            .next { engCommit none e with bus := (engCommit none e).bus ++ [bs] }) ∧
        (data.length = len → writeV ((getFn s fn).bar2Base + off) data { s := s, ctx := c, owner := 2 * (4096 + fn) + 1 } = .ok () e →
          exec (.bar2Access fn true off len data) s = .next (engCommit none e))))) ∧
  (
  (∀ (s : State) (fn : Nat) (i : Instr) (fs : List Nat), s.sup.perst = false → s.sup.in40 = true → fn < 32 →
    (i, fs) ∈ [(Instr.flr fn, if fn = 0 then List.range 32 else [fn]),
      (.vfDisable fn, if fn = 0 then (List.range 31).map (· + 1) else [fn])] →
    ∃ t, exec i s = .next t ∧
      (∀ f ∈ fs, getFn t f = { freshFn f with orphans := (getFn s f).orphans ++ (getFn s f).latched.toList }) ∧
      (∀ f, f ∉ fs → getFn t f = getFn s f) ∧
      (∀ c, c ≠ 0 → (getCtx s c).owner ∈ fs → (getCtx s c).st = .active ∨ (getCtx s c).st = .error → (getCtx t c).st = .draining) ∧
      t.mem = s.mem ∧ t.counters = s.counters ∧ t.queues = s.queues ∧ t.id = s.id) ∧
  (∀ (s : State) (fn : Nat), s.sup.perst = true → exec (.flr fn) s = .next s ∧ exec (.vfDisable fn) s = .next s) ∧
  (∀ s : State, (∃ t, exec .perst s = .next t ∧ t.sup = { s.sup with perst := true } ∧ t = { s with sup := t.sup, fns := t.fns } ∧
      (∀ f, f ≠ 0 → getFn t f = { getFn s f with bar2Log := 32 }) ∧
      ((Tbl.find? s.fns 0).isSome = true → getFn t 0 = { getFn s 0 with bar2Log := 36 })) ∧
    (s.sup.perst = true → ∃ t, exec .perstDeassertion s = .next t ∧ t.sup = { s.sup with perst := false } ∧
      (∀ f, f < 32 → (getFn t f).msixPend = (getFn s f).msixPend.filter (fun v => msixMasked (getFn s f) v) ∧
        ∀ v ∈ (getFn s f).msixPend, msixMasked (getFn s f) v = false → (f, v) ∈ t.msix) ∧
      t = { s with sup := t.sup, fns := t.fns, msix := t.msix }) ∧
    (s.sup.perst = false → exec .perstDeassertion s = .next s)))

/-- O56. AUX_3V3 first: the RTC, an empty log and no alarm; after the 40 V input it faults, as does its removal before that
input. Losing 40 V loses memory, contexts, queues, commands, counters and fabric; identity, flash, the log, MCTP's ID, the
RTC and its alarm remain, and STATE is BOOTING. START_UP with AUX_3V3 valid and the input absent long enough (100 ms, 1 s
after a critical temperature) starts BOOTING with both supplies, WAKE_N and THERMTRIP_N released; without AUX_3V3 or too
early it faults; with the input already there nothing changes. RTC_ALARM at its time drives WAKE_N low while 40 V is absent,
and wakes the module when it is there. While BOOTING with 40 V: 900 ms after both supplies the mailbox answers: with a valid
active image STATE is CALIBRATING, the start is logged and every torus port in use trains; without one STATE is FAILED;
earlier nothing changes. In CALIBRATING, at 1.5 s (8 s when a calibration failed) STATE is READY, the frame counter starts
from 0, the time base is as at supply and NEWEST of the dump directory reads 0xFF; earlier nothing changes. A die at its
critical temperature (115 degrees C a Gneiss, 125 others) loses memory and compute state, keeps the log with one entry more,
and drives THERMTRIP_N low until the input has been absent for 1 s. -/
def Obligations.SuppliesAndStartUp : Prop :=
  (
  ∀ s : State,
    (∀ straps, (s.sup.aux = true → exec (.auxSupplyValid straps) s = .next s) ∧
      (s.sup.aux = false → s.sup.v40 = true → exec (.auxSupplyValid straps) s = .fault .undefinedSupply) ∧
      (s.sup.aux = false → s.sup.v40 = false → ∃ t, exec (.auxSupplyValid straps) s = .next t ∧ t.sup.aux = true ∧ t.sup.straps = straps ∧
        t.rtcUs = 0 ∧ t.log = { next := 0, ring := [] } ∧ t.pow.rtcAlarm = none ∧ t.sup.wakeLow = false ∧ t.sup.tripLow = false ∧
        t.id = s.id ∧ t.mem = s.mem)) ∧
    (s.sup.aux = false → exec .auxSupplyRemoval s = .next s) ∧
    (s.sup.aux = true → s.sup.v40 = true → exec .auxSupplyRemoval s = .fault .undefinedSupply) ∧
    (s.sup.aux = true → s.sup.v40 = false → ∃ t, exec .auxSupplyRemoval s = .next t ∧ t.sup.aux = false ∧
      t.log = { next := 0, ring := [] } ∧ t.pow.rtcAlarm = none ∧ t.mctp = {} ∧ t.id = s.id) ∧
    (s.sup.v40 = false → exec .supplyRemoval s = .next s) ∧
    (s.sup.v40 = true → ∃ t, exec .supplyRemoval s = .next t ∧ t.sup = { s.sup with
        in40 := false, frameOut := .hiZ, v40 := false, offU := some s.tb.nowU } ∧
      t.mb = .booting ∧ t.mem = [] ∧ t.queues = [] ∧ t.cmds = [] ∧ (∀ n, ctrGet t n = 0) ∧ t.groups = [] ∧ t.ends = [] ∧ t.id = s.id ∧
      t.rtcUs = s.rtcUs ∧ t.pow.rtcAlarm = s.pow.rtcAlarm ∧ t.log.next = s.log.next ∧ t.log.ring = s.log.ring ∧ t.mctp.eid = s.mctp.eid) ∧
    (∀ a b c, (s.sup.v40 = true → exec (.startUp a b c) s = .next s) ∧
      (s.sup.v40 = false → s.sup.aux = false ∨ offLongEnough s = false → exec (.startUp a b c) s = .fault .undefinedSupply) ∧
      (s.sup.v40 = false → s.sup.aux = true → offLongEnough s = true → ∃ t, exec (.startUp a b c) s = .next t ∧ t.sup.v40 = true ∧
        t.sup.in40 = true ∧ t.sup.bothU = s.tb.nowU ∧ t.sup.wakeLow = false ∧ t.sup.tripLow = false ∧ t.sup.slowCal = !c ∧
        t.mb = .booting ∧ t.mem = [] ∧ t.cmds = [] ∧ t.rtcUs = s.rtcUs ∧ t.pow.rtcAlarm = s.pow.rtcAlarm ∧
        (a = true → b = true → t.log.next = s.log.next ∧
          t.id.activeB = (if s.id.trialNext then !s.id.activeB else s.id.activeB)) ∧
        (s.id.trialNext = false → s.id.trial = false → s.id.activeB = false → a = false → b = true →
          t.id.activeB = true ∧ t.id.slotA.st = .invalid ∧ t.log.next = s.log.next + 1))) ∧
    (∀ time, s.pow.rtcAlarm = some time → s.sup.aux = true →
      (s.rtcUs < time → exec .rtcAlarm s = .next s) ∧
      (time ≤ s.rtcUs → s.sup.in40 = false → s.sup.v40 = false → exec .rtcAlarm s = .next { s with
        pow := { s.pow with rtcAlarm := none }
        sup := { s.sup with wakeLow := true } }) ∧
      (time ≤ s.rtcUs → s.sup.in40 = true → exec .rtcAlarm s = .next (wakeUp { s with pow := { s.pow with rtcAlarm := none } })))) ∧
  (
  (∀ s : State, s.mb = .booting → s.sup.in40 = true →
    (s.since s.sup.bothU (900 * msU) = false → exec .startUpMailbox s = .next s) ∧
    (s.since s.sup.bothU (900 * msU) = true → activeValid s = false → exec .startUpMailbox s = .next { s with mb := .failed }) ∧
    (s.since s.sup.bothU (900 * msU) = true → activeValid s = true → ∃ t, exec .startUpMailbox s = .next t ∧ t.mb = .calibrating ∧
      (∀ p ∈ torusPorts s.id, (getPort t p).st = .training) ∧ (∀ p, p ∉ torusPorts s.id → getPort t p = getPort s p) ∧
      t.log.next = s.log.next + 1 + (torusPorts s.id).length ∧ t = { s with mb := t.mb, fab := t.fab, log := t.log })) ∧
  (∀ s : State, s.mb = .calibrating → ∀ due, due = (if s.sup.slowCal then 8 * secU else 1500 * msU) →
    (s.since s.sup.bothU due = false → exec .startUpFullOperation s = .next s) ∧
    (s.since s.sup.bothU due = true → ∃ t, exec .startUpFullOperation s = .next t ∧ t.mb = .ready ∧ t.ftw = 0 ∧
      t.tb = { nowU := s.tb.nowU } ∧ memRead t.mem (dumpBase s.id + 8) = 0xFF ∧
      (∀ a, a ≠ dumpBase s.id + 8 → memRead t.mem a = memRead s.mem a) ∧
      (∀ k c, k < 8 → c < 32 → c ∈ s.id.outChans.getD k [] → Tbl.get .normal t.pow.chans (k * 32 + c) = .out) ∧
      t = { s with mb := t.mb, mem := t.mem, tb := t.tb, pow := { s.pow with chans := t.pow.chans } })) ∧
  (∀ (s : State) (die : Nat) (temp : BitVec 16), s.sup.in40 = true → die < 20 →
    (temp.toInt < (if 8 ≤ die ∧ die < 16 then 1150 else 1250) → exec (.criticalTemp die temp) s = .next s) ∧
    ((if 8 ≤ die ∧ die < 16 then 1150 else 1250) ≤ temp.toInt → ∃ t, exec (.criticalTemp die temp) s = .next t ∧
      t.sup = { s.sup with in40 := false, frameOut := .hiZ, critOff := true, tripLow := true } ∧ t.mb = .booting ∧ t.mem = [] ∧
      t.cmds = [] ∧ t.queues = [] ∧ t.log.next = s.log.next + 1 ∧ t.id = s.id)) ∧
  (∀ (s : State) (t0 : Nat), s.sup.offU = some t0 → s.sup.critOff = true → s.sup.v40 = false →
    (s.since t0 secU = true →
      exec .thermtripRelease s = .next { s with sup := { s.sup with critOff := false, tripLow := false } }) ∧
    (s.since t0 secU = false → exec .thermtripRelease s = .next s)))

/-- O57. A sample sets every die's temperature (in DOZE and SLEEP the gated dies keep their last one and report 0 W; which dies
those are is the model's reading, log entry 131) and each Basalt's fth: 4 steps down (not below 0) while a die that charges
it is at throttle, 1 up (to 64) while all are at least 2 degrees C below, else as it was. When nothing crosses throttle,
nothing else changes; a die that enters throttle posts THERMAL with its index, KIND 0 and its temperature to every function
and writes one log entry. A die at trip sets f = 0 on every Basalt, holds the domain and starts a compute reset of cause
THERMAL; the hold ends when every die is 10 degrees C below throttle. TELEMETRY_SAMPLE and REFRESH_RATE_CHANGE set what they
name. CHANNEL_RETRAIN, when due, notes temperature and time, makes the channel DEGRADED when it failed, and leaves memory;
firmware may then begin a map-out of the channel (its decision is free, log entry 95). A tick sets f of every Basalt to the
least of FMAX of the level, fcap (from the budget of R365 and the measured powers), fth and framp (f_act + 1, or a larger
schedule), and to 0 in a compute reset, outside ACTIVE and while a trip holds; started schedules rise by 1 to their level;
nothing but the power manager's state and the clusters' credit changes. CAP_UNMET: when the input exceeds the cap by more
than 1% or a Basalt has been starved for 1 ms, an entry in the log and an event to every function, once; when that has been
absent for 1 s, the event with KIND 1; between, only the time is noted. -/
def Obligations.ThermalAndPowerLimits : Prop :=
  (
  (∀ (s : State) (given temps : List Int), temps = sampledTemps s given → ∃ t, exec (.thermalSample given) s = .next t ∧
    (∀ d, d < 20 → t.pow.temps.getD d 250 = temps.getD d 250 ∧ temps.getD d 250 =
      (if (s.pow.pst = .doze ∨ s.pow.pst = .sleep) ∧ (d < 16 ∨ d = 18) then s.pow.temps.getD d 250
        else given.getD d (s.pow.temps.getD d 250))) ∧
    (∀ b, b < 8 → t.pow.fth.getD b 64 =
      (if (chargers b).any fun d => decide (throttleAt d ≤ temps.getD d 250) then s.pow.fth.getD b 64 - 4
        else if (chargers b).all fun d => decide (temps.getD d 250 ≤ throttleAt d - 20) then min 64 (s.pow.fth.getD b 64 + 1)
        else s.pow.fth.getD b 64)) ∧
    ((∀ d, d < 20 → temps.getD d 250 < throttleAt d) → s.pow.throttled = List.replicate 20 false →
      t = { s with pow := t.pow } ∧ t.pow.throttled = s.pow.throttled ∧ t.pow.f = s.pow.f) ∧
    (∀ die, die < 20 → throttleAt die ≤ temps.getD die 250 → temps.getD die 250 < tripAt die → s.pow.throttled = List.replicate 20 false →
      (∀ d, d < 20 → d ≠ die → temps.getD d 250 < throttleAt d) → t.pow.throttled = modAt s.pow.throttled die (fun _ => true) ∧
      ∃ u bd, bd = leBytes 1 die ++ leBytes 1 0 ++ leBytes 2 (wrapInt 16 (temps.getD die 250)) ∧
        u = postAll 0x8020 0x0041 bd (logEntry 0x0007 0x0041 bd s) ∧ t = { u with pow := t.pow }) ∧
    (∀ die, die < 20 → tripAt die ≤ temps.getD die 250 → s.pow.tripHold = false → s.rst.stage = .none → s.mb ≠ .handover →
      t.pow.tripHold = true ∧ t.pow.f = List.replicate 8 0 ∧ t.mb = .computeReset ∧ t.rst.stage = .detected ∧ t.rst.cause = 3 ∧
      t.log.resets = s.log.resets + 1) ∧
    ((∀ d, d < 20 → temps.getD d 250 ≤ throttleAt d - 100) → t.pow.tripHold = false)) ∧
  (∀ (s : State) (m : Measure), exec (.telemetrySample m) s = .next { s with pow := { s.pow with
    sampleFtw := s.ftw
    sample := { m with dieW := (List.range 20).map fun d =>
      if (s.pow.pst = .doze ∨ s.pow.pst = .sleep) ∧ (d < 16 ∨ d = 18) then 0 else m.dieW.getD d 0 } } }) ∧
  (∀ (s : State) (k : Nat) (x : Int), exec (.refreshRateChange k x) s =
    .next { s with pow := { s.pow with fastRefresh := modAt s.pow.fastRefresh k fun _ => decide (850 < x) } }) ∧
  (∀ (s : State) (k c : Nat) (x : Int) (good : Bool), k < 8 → c < 32 → tbRuns s = true → Tbl.get .normal s.pow.chans (k * 32 + c) ≠ .out →
    (retrainDue s (k * 32 + c) x = true → ∃ t, exec (.channelRetrain k c x good) s = .next (decideMapout k c t) ∧
      Tbl.get 250 t.pow.trainedAt (k * 32 + c) = x ∧ Tbl.get 0 t.pow.trainedU (k * 32 + c) = s.tb.nowU ∧
      Tbl.get .normal t.pow.chans (k * 32 + c) = (if good then Tbl.get .normal s.pow.chans (k * 32 + c) else .degraded) ∧
      t = { s with pow := t.pow, id := t.id, log := t.log }) ∧
    (retrainDue s (k * 32 + c) x = false → exec (.channelRetrain k c x good) s = .next s))) ∧
  (
  (∀ (s : State) (m : PowerMeasure), ∃ t, exec (.limiterTick m) s = .next t ∧
    (∀ b, b < 8 → t.pow.fcap.getD b 0 = fcapOf s (sampledPower s m) b ∧
      (s.pow.pst ≠ .doze → s.pow.pst ≠ .sleep → ∀ d, d < 20 → (sampledPower s m).pDie.getD d 0 = m.pDie.getD d 0) ∧
      t.pow.framp.getD b 0 = max (min 64 (m.fAct.getD b 0 + 1)) (scheduleOf s b) ∧
      t.pow.f.getD b 0 = (if s.rst.stage ≠ .none ∨ s.pow.pst ≠ .active ∨ s.pow.tripHold = true then 0
        else min (min (fmaxOf s.pow.oppoint) (t.pow.fcap.getD b 0)) (min (s.pow.fth.getD b 0) (t.pow.framp.getD b 0)))) ∧
    t.pow.hints = s.pow.hints.map (fun h => { h with value := h.value.map fun v => min h.level (v + 1) }) ∧
    t = { s with pow := t.pow, clusters := t.clusters, free := t.free }) ∧
  (∀ (s : State) (w : Nat) (bd : Nat → Bytes), bd = (fun kind => leBytes 2 (min s.pow.boardCap s.pow.hostCap) ++ leBytes 2 w
      ++ leBytes 1 s.pow.oppoint ++ leBytes 1 (firstStarved s) ++ leBytes 1 kind) →
    (capBad s w = true → s.pow.capUnmet = false → exec (.capUnmet w) s = .next (postAll 0x8021 0x0040 (bd 0)
      (logEntry 0x0006 0x0040 (bd 0) { s with pow := { s.pow with capClearU := none, capUnmet := true } }))) ∧
    (capBad s w = true → s.pow.capUnmet = true → exec (.capUnmet w) s = .next { s with pow := { s.pow with capClearU := none } }) ∧
    (capBad s w = false → s.pow.capUnmet = true → s.pow.capClearU = none →
      exec (.capUnmet w) s = .next { s with pow := { s.pow with capClearU := some s.tb.nowU } }) ∧
    (∀ t0, capBad s w = false → s.pow.capUnmet = true → s.pow.capClearU = some t0 →
      (s.since t0 secU = true → exec (.capUnmet w) s = .next (postAll 0x8021 0x0040 (bd 1)
        { s with pow := { s.pow with capUnmet := false, capClearU := none } })) ∧
      (s.since t0 secU = false → exec (.capUnmet w) s = .next s)) ∧
    (capBad s w = false → s.pow.capUnmet = false → exec (.capUnmet w) s = .next s)) ∧
  (∀ (s : State) (w : Nat), min s.pow.boardCap s.pow.hostCap * 101 < w * 100 → capBad s w = true))

/-- O58. A module that may rest (READY, no reset, 40 V, no wake pending, idle) enters IDLE after 2 ms idle in ACTIVE, DOZE after
500 ms in IDLE with no blocked queue and no host mapping of Mica (its Mica lines gone), SLEEP after 60 s in DOZE with no
page shared (lines and last-use counts gone), each with f = 0 on every Basalt; otherwise nothing changes. FRAME_WAKE at its
time less the exit time clears the alarm and wakes the module; earlier, or while an earlier time that the same forward step
skipped is still to be acted on (R33), it does nothing. EXIT_TO_ACTIVE, with a wake pending, restores ACTIVE and applies the
held adds in order, releasing the waits that they satisfy; without a wake nothing changes. Memory, contexts, queues and
otherwise commands are unchanged throughout. -/
def Obligations.PowerStatesAreEnteredAndLeft : Prop :=
  ∀ s : State,
    (∀ (i : Instr) (p q : PowerState) (d : Nat) (extra : Bool), (i, p, q, d, extra) ∈ [(Instr.enterIdle, .active, .idle, 2 * msU, true),
        (.enterDoze, .idle, .doze, 500 * msU, !anyBlocked s && !mapsMica s), (.enterSleep, .doze, .sleep, 60 * secU, !anyShared s)] →
      (s.pow.pst = p → mayRest s = true → idleFor s d = true → extra = true → ∃ t, exec i s = .next t ∧ t.pow.pst = q ∧
        t.pow.f = List.replicate 8 0 ∧ t.pow.idleU = some s.tb.nowU ∧
        t.pref = (match q with
          | .doze => s.pref.filter fun l => !l.mica
          | .sleep => []
          | _ => s.pref) ∧
        t.lines = (if q = .sleep then [] else s.lines) ∧
        t = { s with pow := t.pow, clusters := t.clusters, lines := t.lines, pref := t.pref }) ∧
      (s.pow.pst ≠ p ∨ mayRest s = false ∨ idleFor s d = false ∨ extra = false → exec i s = .next s)) ∧
    (∀ f, s.pow.frameAlarm = some f →
      (f.toNat ≤ s.ftw.toNat + ceilDiv (exitU s.pow.pst) (max 1 s.tb.period.toNat) → s.reached f = false ∨ mayAct s f.toNat = true →
        exec .frameWake s = .next (wakeUp { s with pow := { s.pow with frameAlarm := none } })) ∧
      (s.ftw.toNat + ceilDiv (exitU s.pow.pst) (max 1 s.tb.period.toNat) < f.toNat ∨ (s.reached f = true ∧ mayAct s f.toNat = false) →
        exec .frameWake s = .next s)) ∧
    (s.pow.pst ≠ .active → s.pow.wake = true →
      (s.pow.heldAdds = [] → exec .exitToActive s = .next { s with pow := { s.pow with pst := .active, wake := false, idleU := none } }) ∧
      (∀ p n, s.pow.heldAdds = [p] → n = field p.payload 0 2 → refuseCtx s p.dstCtx.toNat = none → ctrOwned s p.dstCtx.toNat n = true →
        ∃ t, exec .exitToActive s = .next t ∧ t.pow.pst = .active ∧ t.pow.heldAdds = [] ∧
          (ctrGet t n).toNat = min ((ctrGet s n).toNat + field p.payload 8 8) (2 ^ 64 - 1) ∧ (∀ j, j ≠ n → ctrGet t j = ctrGet s j) ∧
          t.cmds = s.cmds.map (releaseWaiter s n (ctrGet s n) (ctrGet t n)) ∧
          t = { s with pow := t.pow, counters := t.counters, ends := t.ends, fab := t.fab, cmds := t.cmds })) ∧
    (s.pow.pst = .active ∨ s.pow.wake = false → exec .exitToActive s = .next s)

/-- O59. A parity error in a Basalt or Gneiss unit that runs the module, outside a reset and a handover, starts one of cause 2
and STATE is COMPUTE_RESET. Fence: requests sent will have their responses dropped (forwarded adds, and the writes of an
update's commit group that wait for a route, stay), read data goes, memory stays. Dump: the image that NEWEST does not name
is written whole, with its header and COMPLETE word, NEWEST names it, and no byte below the dump area changes. Reset: cores,
streams, hints and Mica lines go, LOADING banks (those that started loads write) are LOST. Resume: STATE is READY, one
RESET_END entry; a started, replayable command of an ACTIVE context waits again with its credit, any other started one ends
with RESET_ABORTED (0x0011), of a DRAINING context CTX_GONE (0x0010). In another stage each row changes nothing. -/
def Obligations.ComputeResetRunsItsStages : Prop :=
  ∀ s : State,
    (∀ die : BitVec 8, tbRuns s = true → (0x10 ≤ die.toNat ∧ die.toNat < 0x18) ∨ (0x20 ≤ die.toNat ∧ die.toNat < 0x28) →
      s.rst.stage = .none → s.mb ≠ .handover →
      (∃ t, exec (.unitError die none) s = .next t ∧ t.mb = .computeReset ∧ t.rst.stage = .detected ∧ t.rst.cause = 2 ∧ t.rst.ctx = 0xFF ∧
        t.log.resets = s.log.resets + 1 ∧ t.cmds = s.cmds ∧ t.counters = s.counters ∧ t.queues = s.queues ∧
        t.pow.f = List.replicate 8 0) ∧
      (∀ k c, findCmd s k = some c →
        (c.st = .started → cmdUnit s c = die.toNat → ∃ t, exec (.unitError die (some k)) s = .next t ∧ t.mb = .computeReset ∧
          t.rst.stage = .detected ∧ t.rst.cause = 2 ∧ t.rst.ctx = c.ctx ∧ ((getCtx s c.ctx).st = .active → c.ctx ≠ 0xFF →
            (getCtx t c.ctx).st = .error)) ∧
        (c.st ≠ .started ∨ cmdUnit s c ≠ die.toNat → exec (.unitError die (some k)) s = .next s))) ∧
    (s.rst.stage = .detected → s.mb = .computeReset → ∃ t, exec .resetFence s = .next t ∧
      t.rst = { s.rst with stage := .fenced, fenceFtw := s.ftw, fenceU := s.tb.nowU } ∧ t.fab.rdata = [] ∧
      (∀ r ∈ t.fab.reqs, r.ptype ≠ 6 → r.dropped = true ∨
        (r.k = none ∧ ∃ q ∈ s.fab.reqs, q.txn = r.txn ∧ groupWrite s q = true)) ∧ t.cmds = s.cmds.map fenceCmd ∧
      t = { s with rst := t.rst, cmds := t.cmds, cores := t.cores, fab := t.fab }) ∧
    (s.rst.stage ≠ .detected ∨ s.mb ≠ .computeReset → exec .resetFence s = .next s) ∧
    (∀ d b img, s.rst.stage = .fenced → s.rst.named = [] → d = dumpBase s.id → b = (memRead s.mem (d + 8) == 0) →
      img = d + (if b then 0x8200000 else 0x200000) → ∃ t, exec .resetDump s = .next t ∧ t.rst.stage = .dumped ∧ t.rst.dumpFtw = s.ftw ∧
      memRead t.mem (d + 8) = (if b then 1 else 0) ∧
      memReadN t.mem (d + (if b then 24 else 16)) 8 = leBytes 8 (2 ^ 63 + s.log.resets) ∧
      memReadN t.mem img 8 = leBytes 1 s.rst.cause ++ leBytes 1 s.rst.ctx ++ leBytes 2 0 ++ leBytes 4 s.log.resets ∧
      (∀ a, a < d → memRead t.mem a = memRead s.mem a) ∧ t = { s with rst := t.rst, mem := t.mem, free := t.free }) ∧
    (s.rst.stage ≠ .fenced → exec .resetDump s = .next s) ∧
    (s.rst.stage = .dumped → ∃ t, exec .resetComputeDomain s = .next t ∧
      t.rst = { s.rst with stage := .reset, resetU := s.tb.nowU } ∧ t.cores = [] ∧ t.saved = [] ∧ t.streams = [] ∧
      t.banks = resetBanks (markLoads s) ∧ t.pref = s.pref.filter (fun l => !l.mica) ∧ t.pow.hints = [] ∧
      (∀ k c, findCmd s k = some c → findCmd t k = some { c with prog := { next := c.prog.next }, preempted := false, oldUcode := false }) ∧
      t = { s with rst := t.rst, cores := t.cores, saved := t.saved, streams := t.streams, banks := t.banks, pref := t.pref, pow := t.pow,
                   cmds := t.cmds }) ∧
    (s.rst.stage ≠ .dumped → exec .resetComputeDomain s = .next s) ∧
    (s.rst.stage = .reset → s.pow.tripHold = false → s.feeds = [] → ∃ t, exec .resetResume s = .next t ∧ t.mb = .ready ∧ t.rst = {} ∧
      t.log.next = s.log.next + 1 ∧
      (∀ k c, findCmd s k = some c →
        (c.st ≠ .started → findCmd t k = some c) ∧
        (c.st = .started → replays s c = true →
          findCmd t k = some { c with st := .fetched, begun := false, replay := true, wdog := 0, prog := { replay := true } }) ∧
        (c.st = .started → replays s c = false → t.ended k (if (getCtx s c.ctx).st = .draining then 0x0010 else 0x0011))) ∧
      ((∀ c ∈ s.cmds, c.st = .started → replays s c = true ∧ replayUnsafe c = false) → t.mem = s.mem) ∧ t.counters = s.counters ∧
      t.queues = s.queues ∧ t.cores = s.cores) ∧
    (s.rst.stage ≠ .reset ∨ s.pow.tripHold = true → exec .resetResume s = .next s)
end

