-- ==== Sys2Proof/Laws/Access.lean ====
section
/-!
SUPPORT. What an access to memory can do: reads and writes through the page mappings change memory, the cached lines and the count of
free values, and of the unit at work only what it notes of its accesses.
-/
namespace Sys2Proof.Machine

/-- Nothing but memory, the cached lines and the count of free values has changed. -/
def MemOnly (s t : State) : Prop := t = { s with mem := t.mem, lines := t.lines, pref := t.pref, free := t.free }

theorem MemOnly.refl (s : State) : MemOnly s s := rfl

theorem MemOnly.trans {a b c : State} (h : MemOnly a b) (k : MemOnly b c) : MemOnly a c := by
  unfold MemOnly at *
  rw [k, h]

theorem foldl_memOnly {α : Type} {f : State → α → State} (h : ∀ s x, MemOnly s (f s x)) (l : List α) (s : State) :
    MemOnly s (l.foldl f s) := by
  induction l generalizing s with
  | nil => exact .refl s
  | cons x l ih => exact (h s x).trans (ih _)

theorem makeRoom_memOnly (p : Bool) (ln : Nat) (s : State) : MemOnly s (makeRoom p ln s).2 := by
  unfold makeRoom
  dsimp only
  repeat' split
  all_goals rfl

theorem micaRoom_memOnly (p : Bool) (l : PrefLine) (s : State) : MemOnly s (micaRoom p l s).2 := by
  unfold micaRoom
  dsimp only
  repeat' split
  all_goals rfl

theorem settleLine_memOnly (ln : Nat) (s : State) : MemOnly s (settleLine ln s) := by
  unfold settleLine
  dsimp only
  repeat' split
  all_goals rfl

theorem lowerLine_memOnly (ln n : Nat) (s : State) : MemOnly s (lowerLine ln n s) := by
  unfold lowerLine dropLine
  repeat' split
  all_goals rfl

theorem lineRead_memOnly (b : Bool) (u ln : Nat) (s : State) : MemOnly s (lineRead b u ln s) := by
  unfold lineRead
  extract_lets s1 n s2 _ s3
  have h1 : MemOnly s s1 := settleLine_memOnly ln s
  have h2 : MemOnly s1 s2 := by
    unfold s2
    split <;> rfl
  split
  · exact h1.trans h2
  · refine (h1.trans h2).trans (MemOnly.trans (b := s3) ?_ (lowerLine_memOnly ln n s3))
    unfold s3
    split
    · rfl
    · exact (makeRoom_memOnly false ln s2).trans rfl

theorem lineWrite_memOnly (u ln : Nat) (s : State) : MemOnly s (lineWrite u ln s) := by
  unfold lineWrite
  extract_lets s1 s2
  refine (settleLine_memOnly ln s).trans ?_
  split
  · rfl
  · exact (makeRoom_memOnly false ln s1).trans rfl

/-- A write at a device address. -/
theorem store_memOnly (a : Nat) (bs : Bytes) (s : State) : MemOnly s (store a bs s) := by
  unfold store
  extract_lets runs s1 s2
  have h1 : MemOnly s s1 := by
    unfold s1
    split
    · refine foldl_memOnly (fun s r => foldl_memOnly (fun s ln => ?_) _ s) _ s
      split
      · exact lineWrite_memOnly _ _ s
      · rfl
    · rfl
  refine h1.trans (MemOnly.trans (b := s2) ?_ rfl)
  unfold s2
  split <;> rfl

theorem countReads_memOnly (b : Bool) (log : ReadLog) (a n : Nat) (s : State) : MemOnly s (countReads b log a n s).1 := by
  unfold countReads
  split
  · extract_lets lns
    generalize lns = l
    suffices ∀ x : State × ReadLog, MemOnly s x.1 → MemOnly s (l.foldl _ x).1 from this (s, log) rfl
    induction l with
    | nil => exact fun _ h => h
    | cons ln l ih =>
      intro x h
      refine ih _ ?_
      dsimp only
      split
      · exact h.trans (lineRead_memOnly b _ ln x.1)
      · exact h
  · rfl

theorem fillLine_memOnly (p : Bool) (l : PrefLine) (s : State) : MemOnly s (fillLine p l s).2 := by
  unfold fillLine tagLine
  split
  · dsimp only
    split <;> rfl
  · extract_lets l' r
    have h : MemOnly s r.2 := by
      unfold r
      split
      · exact micaRoom_memOnly p l' s
      · exact makeRoom_memOnly p l'.line s
    split
    · exact h.trans rfl
    · exact h

theorem persistRead_memOnly (own : Option Nat) (c a n : Nat) (s : State) : MemOnly s (persistRead own c a n s) := by
  unfold persistRead
  split
  · refine foldl_memOnly (fun s ln => ?_) _ s
    dsimp only
    split
    · exact MemOnly.trans (b := { s with free := s.free + 1 }) rfl (fillLine_memOnly false _ _)
    · rfl
  · rfl

/-- A unit after accesses: the machine as accesses leave it; of the unit only what it notes of them. -/
def EngOnly (e f : Eng) : Prop :=
  MemOnly e.s f.s ∧ f = { e with s := f.s, used := f.used, wr := f.wr, reads := f.reads, pages := f.pages }

theorem EngOnly.refl (e : Eng) : EngOnly e e := ⟨rfl, rfl⟩

theorem EngOnly.trans {a b c : Eng} (h : EngOnly a b) (k : EngOnly b c) : EngOnly a c := by
  refine ⟨h.1.trans k.1, ?_⟩
  rw [k.2, h.2]

/-- Work that, from a unit, changes of it and of the machine what accesses change. -/
def EOFrom {α : Type} (e : Eng) (x : EngM α) : Prop := ∀ a f, x e = .ok a f → EngOnly e f

/-- The same from every unit. -/
abbrev EO {α : Type} (x : EngM α) : Prop := ∀ e, EOFrom e x

theorem eo_pure {α : Type} {a : α} : EO (pure a : EngM α) := by
  intro e b f h
  cases h
  exact .refl _

theorem eo_throw {α : Type} {r : EngStop} {e : Eng} : EOFrom e (throw r : EngM α) := fun _ _ h => nomatch h

theorem eo_bind {α β : Type} {x : EngM α} {f : α → EngM β} (hx : EO x) (hf : ∀ a, EO (f a)) : EO (x >>= f) := by
  intro e b g h
  simp only [bind, EStateM.bind] at h
  cases hr : x e with
  | ok a e' =>
    rw [hr] at h
    exact (hx e a e' hr).trans (hf a e' b g h)
  | error r e' =>
    rw [hr] at h
    cases h

theorem eo_get {α : Type} {f : Eng → EngM α} (h : ∀ e, EOFrom e (f e)) : EO ((get : EngM Eng) >>= f) := fun e => h e

theorem eo_set {α : Type} {e e' : Eng} {x : EngM α} (h : EngOnly e e') (hx : EO x) :
    EOFrom e ((set e' : EngM PUnit) >>= fun _ => x) := fun a g k => h.trans (hx e' a g k)

theorem eo_modify {f : Eng → Eng} (h : ∀ e, EngOnly e (f e)) : EO (modify f : EngM Unit) := by
  intro e a g k
  cases k
  exact h e

theorem notePage_only (m : Mapping) : EO (notePage m) := by
  refine eo_modify fun e => ?_
  split <;> exact ⟨rfl, rfl⟩

theorem readPage_only (m : Mapping) (va n : Nat) : EO (readPage m va n) := by
  refine eo_get fun e => ?_
  split
  · split
    · exact eo_set ⟨rfl, rfl⟩ eo_pure
    · exact eo_throw
  · exact eo_set ⟨(countReads_memOnly _ _ _ _ _).trans (persistRead_memOnly _ _ _ _ _), rfl⟩ eo_pure

theorem readPages_only (fuel va n : Nat) : EO (readPages fuel va n) := by
  induction fuel generalizing va n with
  | zero => exact eo_pure
  | succ fuel ih =>
    unfold readPages
    split
    · exact eo_pure
    · refine eo_get fun e => ?_
      split
      · exact eo_throw
      · exact eo_bind (notePage_only _) (fun _ => eo_bind (readPage_only _ _ _) fun _ => eo_bind (ih _ _) fun _ => eo_pure) e

/-- A read at a virtual address. -/
theorem readV_only {va n : Nat} {e f : Eng} {bs : Bytes} (h : readV va n e = .ok bs f) : EngOnly e f := readPages_only _ _ _ e bs f h

theorem writePages_only (fuel va : Nat) (bs : Bytes) : EO (writePages fuel va bs) := by
  induction fuel generalizing va bs with
  | zero => exact eo_pure
  | succ fuel ih =>
    unfold writePages
    split
    · exact eo_pure
    · refine eo_get fun e => ?_
      split
      · exact eo_throw
      · dsimp only
        split
        · exact eo_set ⟨rfl, rfl⟩ (eo_bind (notePage_only _) fun _ => ih _ _)
        · exact eo_set ⟨store_memOnly _ _ _, rfl⟩ (eo_bind (notePage_only _) fun _ => ih _ _)

/-- A write at a virtual address. -/
theorem writeV_only {va : Nat} {bs : Bytes} {e f : Eng} (h : writeV va bs e = .ok () f) : EngOnly e f := writePages_only _ _ _ e () f h

end Sys2Proof.Machine
end

