-- ==== Sys2Proof/Laws/Tables.lean ====
section
/-!
SUPPORT. Sparse tables and device memory: reading after writing, and that every operation keeps the canonical form.
-/
namespace Sys2Proof.Machine

/-! ### Sparse tables -/

/-- Every key of a table lies above k. -/
def Tbl.above {α : Type} (k : Nat) (t : Tbl α) : Prop := ∀ e ∈ t, k < e.1

theorem Tbl.rising_cons {α : Type} {e : Nat × α} {t : Tbl α} : Tbl.rising (e :: t) = true ↔ Tbl.above e.1 t ∧ Tbl.rising t = true := by
  induction t generalizing e with
  | nil => simp [Tbl.rising, Tbl.above]
  | cons d t ih =>
    obtain ⟨j, a⟩ := e
    obtain ⟨k, b⟩ := d
    rw [Tbl.rising, Bool.and_eq_true, decide_eq_true_iff, ih]
    simp only [Tbl.above, List.forall_mem_cons]
    constructor
    · rintro ⟨h, g, r⟩
      exact ⟨⟨h, fun e he => Nat.lt_trans h (g e he)⟩, g, r⟩
    · rintro ⟨⟨h, _⟩, g, r⟩
      exact ⟨h, g, r⟩

theorem Tbl.above_del {α : Type} {n k : Nat} {t : Tbl α} (h : Tbl.above n t) : Tbl.above n (Tbl.del t k) := by
  induction t with
  | nil => exact h
  | cons e t ih =>
    obtain ⟨j, a⟩ := e
    unfold Tbl.del
    simp only [Tbl.above, List.forall_mem_cons] at h ⊢
    split
    · exact ih h.2
    · simp only [List.forall_mem_cons]
      exact ⟨h.1, ih h.2⟩

theorem Tbl.above_ins {α : Type} {n k : Nat} {t : Tbl α} {a : α} (h : Tbl.above n t) (hk : n < k) : Tbl.above n (Tbl.ins t k a) := by
  induction t with
  | nil =>
    intro e he
    simp only [Tbl.ins, List.mem_singleton] at he
    subst he
    exact hk
  | cons e t ih =>
    obtain ⟨j, b⟩ := e
    unfold Tbl.ins
    simp only [Tbl.above, List.forall_mem_cons] at h ⊢
    split
    · simp only [List.forall_mem_cons]
      exact ⟨hk, h⟩
    · split
      · simp only [List.forall_mem_cons]
        exact ⟨hk, h.2⟩
      · simp only [List.forall_mem_cons]
        exact ⟨h.1, ih h.2⟩

theorem Tbl.rising_del {α : Type} {k : Nat} {t : Tbl α} (h : Tbl.rising t = true) : Tbl.rising (Tbl.del t k) = true := by
  induction t with
  | nil => rfl
  | cons e t ih =>
    obtain ⟨j, a⟩ := e
    obtain ⟨g, r⟩ := Tbl.rising_cons.mp h
    unfold Tbl.del
    split
    · exact ih r
    · exact Tbl.rising_cons.mpr ⟨Tbl.above_del g, ih r⟩

theorem Tbl.rising_ins {α : Type} {k : Nat} {t : Tbl α} {a : α} (h : Tbl.rising t = true) : Tbl.rising (Tbl.ins t k a) = true := by
  induction t with
  | nil => rfl
  | cons e t ih =>
    obtain ⟨j, b⟩ := e
    obtain ⟨g, r⟩ := Tbl.rising_cons.mp h
    unfold Tbl.ins
    split
    · rename_i hk
      refine Tbl.rising_cons.mpr ⟨?_, h⟩
      simp only [Tbl.above, List.forall_mem_cons]
      exact ⟨hk, fun e he => Nat.lt_trans hk (g e he)⟩
    · split
      · rename_i hk
        subst hk
        exact Tbl.rising_cons.mpr ⟨g, r⟩
      · refine Tbl.rising_cons.mpr ⟨Tbl.above_ins g ?_, ih r⟩
        show j < k
        omega

theorem Tbl.mem_del {α : Type} {k : Nat} {t : Tbl α} {e : Nat × α} (h : e ∈ Tbl.del t k) : e ∈ t := by
  induction t with
  | nil => exact h
  | cons d t ih =>
    obtain ⟨j, a⟩ := d
    unfold Tbl.del at h
    split at h
    · exact List.mem_cons_of_mem _ (ih h)
    · rcases List.mem_cons.mp h with rfl | h
      · exact List.mem_cons_self
      · exact List.mem_cons_of_mem _ (ih h)

theorem Tbl.mem_ins {α : Type} {k : Nat} {t : Tbl α} {a : α} {e : Nat × α} (h : e ∈ Tbl.ins t k a) : e = (k, a) ∨ e ∈ t := by
  induction t with
  | nil => exact Or.inl (List.mem_singleton.mp h)
  | cons d t ih =>
    obtain ⟨j, b⟩ := d
    unfold Tbl.ins at h
    split at h
    · rcases List.mem_cons.mp h with rfl | h
      · exact Or.inl rfl
      · exact Or.inr h
    · split at h
      · rcases List.mem_cons.mp h with rfl | h
        · exact Or.inl rfl
        · exact Or.inr (List.mem_cons_of_mem _ h)
      · rcases List.mem_cons.mp h with rfl | h
        · exact Or.inr List.mem_cons_self
        · rcases ih h with h | h
          · exact Or.inl h
          · exact Or.inr (List.mem_cons_of_mem _ h)

/-- Writing an entry keeps a table in canonical form. -/
theorem Tbl.put_wf {α : Type} [DecidableEq α] {d : α} {t : Tbl α} {k : Nat} {a : α} (h : Tbl.wf d t = true) : Tbl.wf d (Tbl.put d t k a) = true := by
  unfold Tbl.wf at h ⊢
  rw [Bool.and_eq_true] at h ⊢
  obtain ⟨r, n⟩ := h
  rw [List.all_eq_true] at n ⊢
  unfold Tbl.put
  split
  · exact ⟨Tbl.rising_del r, fun e he => n e (Tbl.mem_del he)⟩
  · rename_i hne
    refine ⟨Tbl.rising_ins r, fun e he => ?_⟩
    rcases Tbl.mem_ins he with rfl | he
    · simpa using hne
    · exact n e he

/-- Leaving entries out keeps a table in canonical form. -/
theorem Tbl.filter_wf {α : Type} [DecidableEq α] {d : α} {t : Tbl α} {p : Nat × α → Bool} (h : Tbl.wf d t = true) :
    Tbl.wf d (List.filter p t) = true := by
  unfold Tbl.wf at h ⊢
  rw [Bool.and_eq_true] at h ⊢
  obtain ⟨r, n⟩ := h
  rw [List.all_eq_true] at n ⊢
  refine ⟨?_, fun e he => n e ((List.mem_filter.mp he).1)⟩
  clear n
  induction t with
  | nil => rfl
  | cons e t ih =>
    obtain ⟨g, r⟩ := Tbl.rising_cons.mp r
    rw [List.filter_cons]
    split
    · exact Tbl.rising_cons.mpr ⟨fun x hx => g x ((List.mem_filter.mp hx).1), ih r⟩
    · exact ih r

/-- The entry just written is found. -/
theorem Tbl.find_ins_self {α : Type} {t : Tbl α} {k : Nat} {a : α} : Tbl.find? (Tbl.ins t k a) k = some a := by
  induction t with
  | nil => simp [Tbl.ins, Tbl.find?]
  | cons e t ih =>
    obtain ⟨j, b⟩ := e
    unfold Tbl.ins
    split
    · simp [Tbl.find?]
    · split
      · simp [Tbl.find?]
      · rename_i h1 h2
        unfold Tbl.find?
        rw [if_neg (fun h => h2 h.symm)]
        exact ih

/-- Writing an entry leaves every other one as it is. -/
theorem Tbl.find_ins_ne {α : Type} {t : Tbl α} {k j : Nat} {a : α} (h : j ≠ k) : Tbl.find? (Tbl.ins t k a) j = Tbl.find? t j := by
  induction t with
  | nil => simp [Tbl.ins, Tbl.find?, Ne.symm h]
  | cons e t ih =>
    obtain ⟨i, b⟩ := e
    unfold Tbl.ins
    split
    · rw [Tbl.find?]
      rw [if_neg (Ne.symm h)]
    · split
      · rename_i h1 h2
        subst h2
        rw [Tbl.find?, Tbl.find?]
        rw [if_neg (Ne.symm h), if_neg (Ne.symm h)]
      · rw [Tbl.find?, Tbl.find?]
        split
        · rfl
        · exact ih

/-- Below its first key a rising table lists nothing. -/
theorem Tbl.find_above {α : Type} {t : Tbl α} {k : Nat} (h : Tbl.above k t) : Tbl.find? t k = none := by
  induction t with
  | nil => rfl
  | cons e t ih =>
    obtain ⟨j, a⟩ := e
    simp only [Tbl.above, List.forall_mem_cons] at h
    unfold Tbl.find?
    rw [if_neg (by omega)]
    exact ih h.2

/-- A deleted entry is not listed. -/
theorem Tbl.find_del_self {α : Type} {t : Tbl α} {k : Nat} : Tbl.find? (Tbl.del t k) k = none := by
  induction t with
  | nil => rfl
  | cons e t ih =>
    obtain ⟨j, a⟩ := e
    unfold Tbl.del
    split
    · exact ih
    · rename_i hj
      unfold Tbl.find?
      rw [if_neg hj]
      exact ih

/-- Deleting an entry leaves every other one as it is. -/
theorem Tbl.find_del_ne {α : Type} {t : Tbl α} {k j : Nat} (h : j ≠ k) : Tbl.find? (Tbl.del t k) j = Tbl.find? t j := by
  induction t with
  | nil => rfl
  | cons e t ih =>
    obtain ⟨i, b⟩ := e
    unfold Tbl.del
    split
    · rename_i hi
      subst hi
      rw [Tbl.find?, if_neg (Ne.symm h)]
      exact ih
    · rw [Tbl.find?, Tbl.find?]
      split
      · rfl
      · exact ih

/-- Reading back an entry just written. -/
theorem Tbl.get_put_self {α : Type} [DecidableEq α] {d : α} {t : Tbl α} {k : Nat} {a : α} :
    Tbl.get d (Tbl.put d t k a) k = a := by
  unfold Tbl.get Tbl.put
  split
  · rename_i ha
    rw [Tbl.find_del_self, ha]
    rfl
  · rw [Tbl.find_ins_self]
    rfl

/-- Writing an entry leaves the reading of every other one as it is. -/
theorem Tbl.get_put_ne {α : Type} [DecidableEq α] {d : α} {t : Tbl α} {k j : Nat} {a : α} (h : j ≠ k) :
    Tbl.get d (Tbl.put d t k a) j = Tbl.get d t j := by
  unfold Tbl.get Tbl.put
  split
  · rw [Tbl.find_del_ne h]
  · rw [Tbl.find_ins_ne h]

/-! ### Memory -/

theorem memWrite_wf {m : List Host.Cell} {a : Nat} {b : Byte} (h : Memory.wf m = true) : Memory.wf (memWrite m a b) = true := Tbl.put_wf h

theorem memWriteN_wf {m : List Host.Cell} {a : Nat} {bs : Bytes} (h : Memory.wf m = true) : Memory.wf (memWriteN m a bs) = true := by
  induction bs generalizing m a with
  | nil => exact h
  | cons b bs ih => exact ih (memWrite_wf h)

theorem memClear_wf {m : List Host.Cell} {a n : Nat} (h : Memory.wf m = true) : Memory.wf (memClear m a n) = true := Tbl.filter_wf h

theorem pokeRuns_wf {rs : List (Nat × Nat)} {bs : Bytes} {m : List Host.Cell} (h : Memory.wf m = true) : Memory.wf (pokeRuns rs bs m) = true := by
  induction rs generalizing bs m with
  | nil => exact h
  | cons r rs ih =>
    obtain ⟨a, n⟩ := r
    exact ih (memWriteN_wf h)

theorem putImage_wf {base size : Nat} {ps : List (Nat × Bytes)} {m : List Host.Cell} (h : Memory.wf m = true) :
    Memory.wf (putImage base size ps m) = true := by
  unfold putImage
  suffices ∀ m, Memory.wf m = true → Memory.wf (ps.foldl (fun m p => memWriteN m (base + p.1) p.2) m) = true from this _ (memClear_wf h)
  induction ps with
  | nil => exact fun _ h => h
  | cons p ps ih => exact fun m h => ih _ (memWriteN_wf h)

/-- A byte reads as it was last written. -/
theorem memRead_memWrite_self {m : List Host.Cell} {a : Nat} {b : Byte} : memRead (memWrite m a b) a = b := Tbl.get_put_self

/-- Writing a byte leaves every other one as it is. -/
theorem memRead_memWrite_ne {m : List Host.Cell} {a c : Nat} {b : Byte} (h : c ≠ a) : memRead (memWrite m a b) c = memRead m c :=
  Tbl.get_put_ne h

/-- Writing bytes leaves every byte outside them as it is. -/
theorem memRead_memWriteN_out {m : List Host.Cell} {a c : Nat} {bs : Bytes} (h : c < a ∨ a + bs.length ≤ c) :
    memRead (memWriteN m a bs) c = memRead m c := by
  induction bs generalizing m a with
  | nil => rfl
  | cons b bs ih =>
    simp only [List.length_cons] at h
    show memRead (memWriteN (memWrite m a b) (a + 1) bs) c = _
    rw [ih (by omega), memRead_memWrite_ne (by omega)]

/-- Bytes read as they were last written. -/
theorem memReadN_memWriteN {m : List Host.Cell} {a : Nat} {bs : Bytes} :
    memReadN (memWriteN m a bs) a bs.length = bs := by
  induction bs generalizing m a with
  | nil => rfl
  | cons b bs ih =>
    show memRead (memWriteN (memWrite m a b) (a + 1) bs) a :: memReadN (memWriteN (memWrite m a b) (a + 1) bs) (a + 1) bs.length = _
    rw [memRead_memWriteN_out (by omega), memRead_memWrite_self, ih]

end Sys2Proof.Machine
end

