-- ==== Sys2Proof/Laws/State.lean ====
section
/-!
SUPPORT. What each shared update of the state leaves alone, field by field, and what it changes.
-/
namespace Sys2Proof.Machine

@[simp] theorem modCtx_pending (c : Nat) (f : Ctx → Ctx) (s : State) : (modCtx c f s).pending = s.pending := rfl
@[simp] theorem modCtx_free (c : Nat) (f : Ctx → Ctx) (s : State) : (modCtx c f s).free = s.free := rfl
@[simp] theorem modCtx_mem (c : Nat) (f : Ctx → Ctx) (s : State) : (modCtx c f s).mem = s.mem := rfl
@[simp] theorem modCtx_tb (c : Nat) (f : Ctx → Ctx) (s : State) : (modCtx c f s).tb = s.tb := rfl
@[simp] theorem modCtx_sup (c : Nat) (f : Ctx → Ctx) (s : State) : (modCtx c f s).sup = s.sup := rfl
@[simp] theorem modCtx_id (c : Nat) (f : Ctx → Ctx) (s : State) : (modCtx c f s).id = s.id := rfl
@[simp] theorem modCtx_mb (c : Nat) (f : Ctx → Ctx) (s : State) : (modCtx c f s).mb = s.mb := rfl
@[simp] theorem modCtx_counters (c : Nat) (f : Ctx → Ctx) (s : State) : (modCtx c f s).counters = s.counters := rfl
@[simp] theorem modCtx_ctrOwner (c : Nat) (f : Ctx → Ctx) (s : State) : (modCtx c f s).ctrOwner = s.ctrOwner := rfl
@[simp] theorem modCtx_queues (c : Nat) (f : Ctx → Ctx) (s : State) : (modCtx c f s).queues = s.queues := rfl
@[simp] theorem modCtx_cmds (c : Nat) (f : Ctx → Ctx) (s : State) : (modCtx c f s).cmds = s.cmds := rfl
@[simp] theorem modCtx_nextK (c : Nat) (f : Ctx → Ctx) (s : State) : (modCtx c f s).nextK = s.nextK := rfl
@[simp] theorem modCtx_nextStart (c : Nat) (f : Ctx → Ctx) (s : State) : (modCtx c f s).nextStart = s.nextStart := rfl
@[simp] theorem modCtx_served (c : Nat) (f : Ctx → Ctx) (s : State) : (modCtx c f s).served = s.served := rfl
@[simp] theorem modCtx_clusters (c : Nat) (f : Ctx → Ctx) (s : State) : (modCtx c f s).clusters = s.clusters := rfl
@[simp] theorem modCtx_activeBank (c : Nat) (f : Ctx → Ctx) (s : State) : (modCtx c f s).activeBank = s.activeBank := rfl
@[simp] theorem modCtx_banks (c : Nat) (f : Ctx → Ctx) (s : State) : (modCtx c f s).banks = s.banks := rfl
@[simp] theorem modCtx_streams (c : Nat) (f : Ctx → Ctx) (s : State) : (modCtx c f s).streams = s.streams := rfl
@[simp] theorem modCtx_stalls (c : Nat) (f : Ctx → Ctx) (s : State) : (modCtx c f s).stalls = s.stalls := rfl
@[simp] theorem modCtx_cores (c : Nat) (f : Ctx → Ctx) (s : State) : (modCtx c f s).cores = s.cores := rfl
@[simp] theorem modCtx_saved (c : Nat) (f : Ctx → Ctx) (s : State) : (modCtx c f s).saved = s.saved := rfl
@[simp] theorem modCtx_lines (c : Nat) (f : Ctx → Ctx) (s : State) : (modCtx c f s).lines = s.lines := rfl
@[simp] theorem modCtx_held (c : Nat) (f : Ctx → Ctx) (s : State) : (modCtx c f s).held = s.held := rfl
@[simp] theorem modCtx_micaCache (c : Nat) (f : Ctx → Ctx) (s : State) : (modCtx c f s).micaCache = s.micaCache := rfl
@[simp] theorem modCtx_pref (c : Nat) (f : Ctx → Ctx) (s : State) : (modCtx c f s).pref = s.pref := rfl
@[simp] theorem modCtx_ends (c : Nat) (f : Ctx → Ctx) (s : State) : (modCtx c f s).ends = s.ends := rfl
@[simp] theorem modCtx_groups (c : Nat) (f : Ctx → Ctx) (s : State) : (modCtx c f s).groups = s.groups := rfl
@[simp] theorem modCtx_nodes (c : Nat) (f : Ctx → Ctx) (s : State) : (modCtx c f s).nodes = s.nodes := rfl
@[simp] theorem modCtx_insts (c : Nat) (f : Ctx → Ctx) (s : State) : (modCtx c f s).insts = s.insts := rfl
@[simp] theorem modCtx_feeds (c : Nat) (f : Ctx → Ctx) (s : State) : (modCtx c f s).feeds = s.feeds := rfl
@[simp] theorem modCtx_fab (c : Nat) (f : Ctx → Ctx) (s : State) : (modCtx c f s).fab = s.fab := rfl
@[simp] theorem modCtx_fns (c : Nat) (f : Ctx → Ctx) (s : State) : (modCtx c f s).fns = s.fns := rfl
@[simp] theorem modCtx_deferred (c : Nat) (f : Ctx → Ctx) (s : State) : (modCtx c f s).deferred = s.deferred := rfl
@[simp] theorem modCtx_msix (c : Nat) (f : Ctx → Ctx) (s : State) : (modCtx c f s).msix = s.msix := rfl
@[simp] theorem modCtx_bus (c : Nat) (f : Ctx → Ctx) (s : State) : (modCtx c f s).bus = s.bus := rfl
@[simp] theorem modCtx_pow (c : Nat) (f : Ctx → Ctx) (s : State) : (modCtx c f s).pow = s.pow := rfl
@[simp] theorem modCtx_rst (c : Nat) (f : Ctx → Ctx) (s : State) : (modCtx c f s).rst = s.rst := rfl
@[simp] theorem modCtx_activating (c : Nat) (f : Ctx → Ctx) (s : State) : (modCtx c f s).activating = s.activating := rfl
@[simp] theorem modCtx_log (c : Nat) (f : Ctx → Ctx) (s : State) : (modCtx c f s).log = s.log := rfl
@[simp] theorem modCtx_mctp (c : Nat) (f : Ctx → Ctx) (s : State) : (modCtx c f s).mctp = s.mctp := rfl

@[simp] theorem modCmd_pending (k : Nat) (f : Cmd → Cmd) (s : State) : (modCmd k f s).pending = s.pending := rfl
@[simp] theorem modCmd_free (k : Nat) (f : Cmd → Cmd) (s : State) : (modCmd k f s).free = s.free := rfl
@[simp] theorem modCmd_mem (k : Nat) (f : Cmd → Cmd) (s : State) : (modCmd k f s).mem = s.mem := rfl
@[simp] theorem modCmd_tb (k : Nat) (f : Cmd → Cmd) (s : State) : (modCmd k f s).tb = s.tb := rfl
@[simp] theorem modCmd_sup (k : Nat) (f : Cmd → Cmd) (s : State) : (modCmd k f s).sup = s.sup := rfl
@[simp] theorem modCmd_id (k : Nat) (f : Cmd → Cmd) (s : State) : (modCmd k f s).id = s.id := rfl
@[simp] theorem modCmd_mb (k : Nat) (f : Cmd → Cmd) (s : State) : (modCmd k f s).mb = s.mb := rfl
@[simp] theorem modCmd_ctxs (k : Nat) (f : Cmd → Cmd) (s : State) : (modCmd k f s).ctxs = s.ctxs := rfl
@[simp] theorem modCmd_counters (k : Nat) (f : Cmd → Cmd) (s : State) : (modCmd k f s).counters = s.counters := rfl
@[simp] theorem modCmd_ctrOwner (k : Nat) (f : Cmd → Cmd) (s : State) : (modCmd k f s).ctrOwner = s.ctrOwner := rfl
@[simp] theorem modCmd_queues (k : Nat) (f : Cmd → Cmd) (s : State) : (modCmd k f s).queues = s.queues := rfl
@[simp] theorem modCmd_nextK (k : Nat) (f : Cmd → Cmd) (s : State) : (modCmd k f s).nextK = s.nextK := rfl
@[simp] theorem modCmd_nextStart (k : Nat) (f : Cmd → Cmd) (s : State) : (modCmd k f s).nextStart = s.nextStart := rfl
@[simp] theorem modCmd_served (k : Nat) (f : Cmd → Cmd) (s : State) : (modCmd k f s).served = s.served := rfl
@[simp] theorem modCmd_clusters (k : Nat) (f : Cmd → Cmd) (s : State) : (modCmd k f s).clusters = s.clusters := rfl
@[simp] theorem modCmd_activeBank (k : Nat) (f : Cmd → Cmd) (s : State) : (modCmd k f s).activeBank = s.activeBank := rfl
@[simp] theorem modCmd_banks (k : Nat) (f : Cmd → Cmd) (s : State) : (modCmd k f s).banks = s.banks := rfl
@[simp] theorem modCmd_streams (k : Nat) (f : Cmd → Cmd) (s : State) : (modCmd k f s).streams = s.streams := rfl
@[simp] theorem modCmd_stalls (k : Nat) (f : Cmd → Cmd) (s : State) : (modCmd k f s).stalls = s.stalls := rfl
@[simp] theorem modCmd_cores (k : Nat) (f : Cmd → Cmd) (s : State) : (modCmd k f s).cores = s.cores := rfl
@[simp] theorem modCmd_saved (k : Nat) (f : Cmd → Cmd) (s : State) : (modCmd k f s).saved = s.saved := rfl
@[simp] theorem modCmd_lines (k : Nat) (f : Cmd → Cmd) (s : State) : (modCmd k f s).lines = s.lines := rfl
@[simp] theorem modCmd_held (k : Nat) (f : Cmd → Cmd) (s : State) : (modCmd k f s).held = s.held := rfl
@[simp] theorem modCmd_micaCache (k : Nat) (f : Cmd → Cmd) (s : State) : (modCmd k f s).micaCache = s.micaCache := rfl
@[simp] theorem modCmd_pref (k : Nat) (f : Cmd → Cmd) (s : State) : (modCmd k f s).pref = s.pref := rfl
@[simp] theorem modCmd_ends (k : Nat) (f : Cmd → Cmd) (s : State) : (modCmd k f s).ends = s.ends := rfl
@[simp] theorem modCmd_groups (k : Nat) (f : Cmd → Cmd) (s : State) : (modCmd k f s).groups = s.groups := rfl
@[simp] theorem modCmd_nodes (k : Nat) (f : Cmd → Cmd) (s : State) : (modCmd k f s).nodes = s.nodes := rfl
@[simp] theorem modCmd_insts (k : Nat) (f : Cmd → Cmd) (s : State) : (modCmd k f s).insts = s.insts := rfl
@[simp] theorem modCmd_feeds (k : Nat) (f : Cmd → Cmd) (s : State) : (modCmd k f s).feeds = s.feeds := rfl
@[simp] theorem modCmd_fab (k : Nat) (f : Cmd → Cmd) (s : State) : (modCmd k f s).fab = s.fab := rfl
@[simp] theorem modCmd_fns (k : Nat) (f : Cmd → Cmd) (s : State) : (modCmd k f s).fns = s.fns := rfl
@[simp] theorem modCmd_deferred (k : Nat) (f : Cmd → Cmd) (s : State) : (modCmd k f s).deferred = s.deferred := rfl
@[simp] theorem modCmd_msix (k : Nat) (f : Cmd → Cmd) (s : State) : (modCmd k f s).msix = s.msix := rfl
@[simp] theorem modCmd_bus (k : Nat) (f : Cmd → Cmd) (s : State) : (modCmd k f s).bus = s.bus := rfl
@[simp] theorem modCmd_pow (k : Nat) (f : Cmd → Cmd) (s : State) : (modCmd k f s).pow = s.pow := rfl
@[simp] theorem modCmd_rst (k : Nat) (f : Cmd → Cmd) (s : State) : (modCmd k f s).rst = s.rst := rfl
@[simp] theorem modCmd_activating (k : Nat) (f : Cmd → Cmd) (s : State) : (modCmd k f s).activating = s.activating := rfl
@[simp] theorem modCmd_log (k : Nat) (f : Cmd → Cmd) (s : State) : (modCmd k f s).log = s.log := rfl
@[simp] theorem modCmd_mctp (k : Nat) (f : Cmd → Cmd) (s : State) : (modCmd k f s).mctp = s.mctp := rfl


@[simp] theorem modFn_pending (f : Nat) (g : Fn → Fn) (s : State) : (modFn f g s).pending = s.pending := rfl
@[simp] theorem modFn_free (f : Nat) (g : Fn → Fn) (s : State) : (modFn f g s).free = s.free := rfl
@[simp] theorem modFn_mem (f : Nat) (g : Fn → Fn) (s : State) : (modFn f g s).mem = s.mem := rfl
@[simp] theorem modFn_tb (f : Nat) (g : Fn → Fn) (s : State) : (modFn f g s).tb = s.tb := rfl
@[simp] theorem modFn_sup (f : Nat) (g : Fn → Fn) (s : State) : (modFn f g s).sup = s.sup := rfl
@[simp] theorem modFn_id (f : Nat) (g : Fn → Fn) (s : State) : (modFn f g s).id = s.id := rfl
@[simp] theorem modFn_mb (f : Nat) (g : Fn → Fn) (s : State) : (modFn f g s).mb = s.mb := rfl
@[simp] theorem modFn_ctxs (f : Nat) (g : Fn → Fn) (s : State) : (modFn f g s).ctxs = s.ctxs := rfl
@[simp] theorem modFn_counters (f : Nat) (g : Fn → Fn) (s : State) : (modFn f g s).counters = s.counters := rfl
@[simp] theorem modFn_ctrOwner (f : Nat) (g : Fn → Fn) (s : State) : (modFn f g s).ctrOwner = s.ctrOwner := rfl
@[simp] theorem modFn_queues (f : Nat) (g : Fn → Fn) (s : State) : (modFn f g s).queues = s.queues := rfl
@[simp] theorem modFn_cmds (f : Nat) (g : Fn → Fn) (s : State) : (modFn f g s).cmds = s.cmds := rfl
@[simp] theorem modFn_nextK (f : Nat) (g : Fn → Fn) (s : State) : (modFn f g s).nextK = s.nextK := rfl
@[simp] theorem modFn_nextStart (f : Nat) (g : Fn → Fn) (s : State) : (modFn f g s).nextStart = s.nextStart := rfl
@[simp] theorem modFn_served (f : Nat) (g : Fn → Fn) (s : State) : (modFn f g s).served = s.served := rfl
@[simp] theorem modFn_clusters (f : Nat) (g : Fn → Fn) (s : State) : (modFn f g s).clusters = s.clusters := rfl
@[simp] theorem modFn_activeBank (f : Nat) (g : Fn → Fn) (s : State) : (modFn f g s).activeBank = s.activeBank := rfl
@[simp] theorem modFn_banks (f : Nat) (g : Fn → Fn) (s : State) : (modFn f g s).banks = s.banks := rfl
@[simp] theorem modFn_streams (f : Nat) (g : Fn → Fn) (s : State) : (modFn f g s).streams = s.streams := rfl
@[simp] theorem modFn_stalls (f : Nat) (g : Fn → Fn) (s : State) : (modFn f g s).stalls = s.stalls := rfl
@[simp] theorem modFn_cores (f : Nat) (g : Fn → Fn) (s : State) : (modFn f g s).cores = s.cores := rfl
@[simp] theorem modFn_saved (f : Nat) (g : Fn → Fn) (s : State) : (modFn f g s).saved = s.saved := rfl
@[simp] theorem modFn_lines (f : Nat) (g : Fn → Fn) (s : State) : (modFn f g s).lines = s.lines := rfl
@[simp] theorem modFn_held (f : Nat) (g : Fn → Fn) (s : State) : (modFn f g s).held = s.held := rfl
@[simp] theorem modFn_micaCache (f : Nat) (g : Fn → Fn) (s : State) : (modFn f g s).micaCache = s.micaCache := rfl
@[simp] theorem modFn_pref (f : Nat) (g : Fn → Fn) (s : State) : (modFn f g s).pref = s.pref := rfl
@[simp] theorem modFn_ends (f : Nat) (g : Fn → Fn) (s : State) : (modFn f g s).ends = s.ends := rfl
@[simp] theorem modFn_groups (f : Nat) (g : Fn → Fn) (s : State) : (modFn f g s).groups = s.groups := rfl
@[simp] theorem modFn_nodes (f : Nat) (g : Fn → Fn) (s : State) : (modFn f g s).nodes = s.nodes := rfl
@[simp] theorem modFn_insts (f : Nat) (g : Fn → Fn) (s : State) : (modFn f g s).insts = s.insts := rfl
@[simp] theorem modFn_feeds (f : Nat) (g : Fn → Fn) (s : State) : (modFn f g s).feeds = s.feeds := rfl
@[simp] theorem modFn_fab (f : Nat) (g : Fn → Fn) (s : State) : (modFn f g s).fab = s.fab := rfl
@[simp] theorem modFn_deferred (f : Nat) (g : Fn → Fn) (s : State) : (modFn f g s).deferred = s.deferred := rfl
@[simp] theorem modFn_msix (f : Nat) (g : Fn → Fn) (s : State) : (modFn f g s).msix = s.msix := rfl
@[simp] theorem modFn_bus (f : Nat) (g : Fn → Fn) (s : State) : (modFn f g s).bus = s.bus := rfl
@[simp] theorem modFn_pow (f : Nat) (g : Fn → Fn) (s : State) : (modFn f g s).pow = s.pow := rfl
@[simp] theorem modFn_rst (f : Nat) (g : Fn → Fn) (s : State) : (modFn f g s).rst = s.rst := rfl
@[simp] theorem modFn_activating (f : Nat) (g : Fn → Fn) (s : State) : (modFn f g s).activating = s.activating := rfl
@[simp] theorem modFn_log (f : Nat) (g : Fn → Fn) (s : State) : (modFn f g s).log = s.log := rfl
@[simp] theorem modFn_mctp (f : Nat) (g : Fn → Fn) (s : State) : (modFn f g s).mctp = s.mctp := rfl

@[simp] theorem modPort_pending (p : Nat) (f : Port → Port) (s : State) : (modPort p f s).pending = s.pending := rfl
@[simp] theorem modPort_free (p : Nat) (f : Port → Port) (s : State) : (modPort p f s).free = s.free := rfl
@[simp] theorem modPort_mem (p : Nat) (f : Port → Port) (s : State) : (modPort p f s).mem = s.mem := rfl
@[simp] theorem modPort_tb (p : Nat) (f : Port → Port) (s : State) : (modPort p f s).tb = s.tb := rfl
@[simp] theorem modPort_sup (p : Nat) (f : Port → Port) (s : State) : (modPort p f s).sup = s.sup := rfl
@[simp] theorem modPort_id (p : Nat) (f : Port → Port) (s : State) : (modPort p f s).id = s.id := rfl
@[simp] theorem modPort_mb (p : Nat) (f : Port → Port) (s : State) : (modPort p f s).mb = s.mb := rfl
@[simp] theorem modPort_ctxs (p : Nat) (f : Port → Port) (s : State) : (modPort p f s).ctxs = s.ctxs := rfl
@[simp] theorem modPort_counters (p : Nat) (f : Port → Port) (s : State) : (modPort p f s).counters = s.counters := rfl
@[simp] theorem modPort_ctrOwner (p : Nat) (f : Port → Port) (s : State) : (modPort p f s).ctrOwner = s.ctrOwner := rfl
@[simp] theorem modPort_queues (p : Nat) (f : Port → Port) (s : State) : (modPort p f s).queues = s.queues := rfl
@[simp] theorem modPort_cmds (p : Nat) (f : Port → Port) (s : State) : (modPort p f s).cmds = s.cmds := rfl
@[simp] theorem modPort_nextK (p : Nat) (f : Port → Port) (s : State) : (modPort p f s).nextK = s.nextK := rfl
@[simp] theorem modPort_nextStart (p : Nat) (f : Port → Port) (s : State) : (modPort p f s).nextStart = s.nextStart := rfl
@[simp] theorem modPort_served (p : Nat) (f : Port → Port) (s : State) : (modPort p f s).served = s.served := rfl
@[simp] theorem modPort_clusters (p : Nat) (f : Port → Port) (s : State) : (modPort p f s).clusters = s.clusters := rfl
@[simp] theorem modPort_activeBank (p : Nat) (f : Port → Port) (s : State) : (modPort p f s).activeBank = s.activeBank := rfl
@[simp] theorem modPort_banks (p : Nat) (f : Port → Port) (s : State) : (modPort p f s).banks = s.banks := rfl
@[simp] theorem modPort_streams (p : Nat) (f : Port → Port) (s : State) : (modPort p f s).streams = s.streams := rfl
@[simp] theorem modPort_stalls (p : Nat) (f : Port → Port) (s : State) : (modPort p f s).stalls = s.stalls := rfl
@[simp] theorem modPort_cores (p : Nat) (f : Port → Port) (s : State) : (modPort p f s).cores = s.cores := rfl
@[simp] theorem modPort_saved (p : Nat) (f : Port → Port) (s : State) : (modPort p f s).saved = s.saved := rfl
@[simp] theorem modPort_lines (p : Nat) (f : Port → Port) (s : State) : (modPort p f s).lines = s.lines := rfl
@[simp] theorem modPort_held (p : Nat) (f : Port → Port) (s : State) : (modPort p f s).held = s.held := rfl
@[simp] theorem modPort_micaCache (p : Nat) (f : Port → Port) (s : State) : (modPort p f s).micaCache = s.micaCache := rfl
@[simp] theorem modPort_pref (p : Nat) (f : Port → Port) (s : State) : (modPort p f s).pref = s.pref := rfl
@[simp] theorem modPort_ends (p : Nat) (f : Port → Port) (s : State) : (modPort p f s).ends = s.ends := rfl
@[simp] theorem modPort_groups (p : Nat) (f : Port → Port) (s : State) : (modPort p f s).groups = s.groups := rfl
@[simp] theorem modPort_nodes (p : Nat) (f : Port → Port) (s : State) : (modPort p f s).nodes = s.nodes := rfl
@[simp] theorem modPort_insts (p : Nat) (f : Port → Port) (s : State) : (modPort p f s).insts = s.insts := rfl
@[simp] theorem modPort_feeds (p : Nat) (f : Port → Port) (s : State) : (modPort p f s).feeds = s.feeds := rfl
@[simp] theorem modPort_fns (p : Nat) (f : Port → Port) (s : State) : (modPort p f s).fns = s.fns := rfl
@[simp] theorem modPort_deferred (p : Nat) (f : Port → Port) (s : State) : (modPort p f s).deferred = s.deferred := rfl
@[simp] theorem modPort_msix (p : Nat) (f : Port → Port) (s : State) : (modPort p f s).msix = s.msix := rfl
@[simp] theorem modPort_bus (p : Nat) (f : Port → Port) (s : State) : (modPort p f s).bus = s.bus := rfl
@[simp] theorem modPort_pow (p : Nat) (f : Port → Port) (s : State) : (modPort p f s).pow = s.pow := rfl
@[simp] theorem modPort_rst (p : Nat) (f : Port → Port) (s : State) : (modPort p f s).rst = s.rst := rfl
@[simp] theorem modPort_activating (p : Nat) (f : Port → Port) (s : State) : (modPort p f s).activating = s.activating := rfl
@[simp] theorem modPort_log (p : Nat) (f : Port → Port) (s : State) : (modPort p f s).log = s.log := rfl
@[simp] theorem modPort_mctp (p : Nat) (f : Port → Port) (s : State) : (modPort p f s).mctp = s.mctp := rfl

@[simp] theorem modFeed_pending (f : Nat) (g : Feed → Feed) (s : State) : (modFeed f g s).pending = s.pending := rfl
@[simp] theorem modFeed_free (f : Nat) (g : Feed → Feed) (s : State) : (modFeed f g s).free = s.free := rfl
@[simp] theorem modFeed_mem (f : Nat) (g : Feed → Feed) (s : State) : (modFeed f g s).mem = s.mem := rfl
@[simp] theorem modFeed_tb (f : Nat) (g : Feed → Feed) (s : State) : (modFeed f g s).tb = s.tb := rfl
@[simp] theorem modFeed_sup (f : Nat) (g : Feed → Feed) (s : State) : (modFeed f g s).sup = s.sup := rfl
@[simp] theorem modFeed_id (f : Nat) (g : Feed → Feed) (s : State) : (modFeed f g s).id = s.id := rfl
@[simp] theorem modFeed_mb (f : Nat) (g : Feed → Feed) (s : State) : (modFeed f g s).mb = s.mb := rfl
@[simp] theorem modFeed_ctxs (f : Nat) (g : Feed → Feed) (s : State) : (modFeed f g s).ctxs = s.ctxs := rfl
@[simp] theorem modFeed_counters (f : Nat) (g : Feed → Feed) (s : State) : (modFeed f g s).counters = s.counters := rfl
@[simp] theorem modFeed_ctrOwner (f : Nat) (g : Feed → Feed) (s : State) : (modFeed f g s).ctrOwner = s.ctrOwner := rfl
@[simp] theorem modFeed_queues (f : Nat) (g : Feed → Feed) (s : State) : (modFeed f g s).queues = s.queues := rfl
@[simp] theorem modFeed_cmds (f : Nat) (g : Feed → Feed) (s : State) : (modFeed f g s).cmds = s.cmds := rfl
@[simp] theorem modFeed_nextK (f : Nat) (g : Feed → Feed) (s : State) : (modFeed f g s).nextK = s.nextK := rfl
@[simp] theorem modFeed_nextStart (f : Nat) (g : Feed → Feed) (s : State) : (modFeed f g s).nextStart = s.nextStart := rfl
@[simp] theorem modFeed_served (f : Nat) (g : Feed → Feed) (s : State) : (modFeed f g s).served = s.served := rfl
@[simp] theorem modFeed_clusters (f : Nat) (g : Feed → Feed) (s : State) : (modFeed f g s).clusters = s.clusters := rfl
@[simp] theorem modFeed_activeBank (f : Nat) (g : Feed → Feed) (s : State) : (modFeed f g s).activeBank = s.activeBank := rfl
@[simp] theorem modFeed_banks (f : Nat) (g : Feed → Feed) (s : State) : (modFeed f g s).banks = s.banks := rfl
@[simp] theorem modFeed_streams (f : Nat) (g : Feed → Feed) (s : State) : (modFeed f g s).streams = s.streams := rfl
@[simp] theorem modFeed_stalls (f : Nat) (g : Feed → Feed) (s : State) : (modFeed f g s).stalls = s.stalls := rfl
@[simp] theorem modFeed_cores (f : Nat) (g : Feed → Feed) (s : State) : (modFeed f g s).cores = s.cores := rfl
@[simp] theorem modFeed_saved (f : Nat) (g : Feed → Feed) (s : State) : (modFeed f g s).saved = s.saved := rfl
@[simp] theorem modFeed_lines (f : Nat) (g : Feed → Feed) (s : State) : (modFeed f g s).lines = s.lines := rfl
@[simp] theorem modFeed_held (f : Nat) (g : Feed → Feed) (s : State) : (modFeed f g s).held = s.held := rfl
@[simp] theorem modFeed_micaCache (f : Nat) (g : Feed → Feed) (s : State) : (modFeed f g s).micaCache = s.micaCache := rfl
@[simp] theorem modFeed_pref (f : Nat) (g : Feed → Feed) (s : State) : (modFeed f g s).pref = s.pref := rfl
@[simp] theorem modFeed_ends (f : Nat) (g : Feed → Feed) (s : State) : (modFeed f g s).ends = s.ends := rfl
@[simp] theorem modFeed_groups (f : Nat) (g : Feed → Feed) (s : State) : (modFeed f g s).groups = s.groups := rfl
@[simp] theorem modFeed_nodes (f : Nat) (g : Feed → Feed) (s : State) : (modFeed f g s).nodes = s.nodes := rfl
@[simp] theorem modFeed_insts (f : Nat) (g : Feed → Feed) (s : State) : (modFeed f g s).insts = s.insts := rfl
@[simp] theorem modFeed_fab (f : Nat) (g : Feed → Feed) (s : State) : (modFeed f g s).fab = s.fab := rfl
@[simp] theorem modFeed_fns (f : Nat) (g : Feed → Feed) (s : State) : (modFeed f g s).fns = s.fns := rfl
@[simp] theorem modFeed_deferred (f : Nat) (g : Feed → Feed) (s : State) : (modFeed f g s).deferred = s.deferred := rfl
@[simp] theorem modFeed_msix (f : Nat) (g : Feed → Feed) (s : State) : (modFeed f g s).msix = s.msix := rfl
@[simp] theorem modFeed_bus (f : Nat) (g : Feed → Feed) (s : State) : (modFeed f g s).bus = s.bus := rfl
@[simp] theorem modFeed_pow (f : Nat) (g : Feed → Feed) (s : State) : (modFeed f g s).pow = s.pow := rfl
@[simp] theorem modFeed_rst (f : Nat) (g : Feed → Feed) (s : State) : (modFeed f g s).rst = s.rst := rfl
@[simp] theorem modFeed_activating (f : Nat) (g : Feed → Feed) (s : State) : (modFeed f g s).activating = s.activating := rfl
@[simp] theorem modFeed_log (f : Nat) (g : Feed → Feed) (s : State) : (modFeed f g s).log = s.log := rfl
@[simp] theorem modFeed_mctp (f : Nat) (g : Feed → Feed) (s : State) : (modFeed f g s).mctp = s.mctp := rfl

@[simp] theorem ctrPut_pending (n : Nat) (v : Sys2Proof.W64) (s : State) : (ctrPut n v s).pending = s.pending := rfl
@[simp] theorem ctrPut_free (n : Nat) (v : Sys2Proof.W64) (s : State) : (ctrPut n v s).free = s.free := rfl
@[simp] theorem ctrPut_mem (n : Nat) (v : Sys2Proof.W64) (s : State) : (ctrPut n v s).mem = s.mem := rfl
@[simp] theorem ctrPut_tb (n : Nat) (v : Sys2Proof.W64) (s : State) : (ctrPut n v s).tb = s.tb := rfl
@[simp] theorem ctrPut_sup (n : Nat) (v : Sys2Proof.W64) (s : State) : (ctrPut n v s).sup = s.sup := rfl
@[simp] theorem ctrPut_id (n : Nat) (v : Sys2Proof.W64) (s : State) : (ctrPut n v s).id = s.id := rfl
@[simp] theorem ctrPut_mb (n : Nat) (v : Sys2Proof.W64) (s : State) : (ctrPut n v s).mb = s.mb := rfl
@[simp] theorem ctrPut_ctxs (n : Nat) (v : Sys2Proof.W64) (s : State) : (ctrPut n v s).ctxs = s.ctxs := rfl
@[simp] theorem ctrPut_ctrOwner (n : Nat) (v : Sys2Proof.W64) (s : State) : (ctrPut n v s).ctrOwner = s.ctrOwner := rfl
@[simp] theorem ctrPut_queues (n : Nat) (v : Sys2Proof.W64) (s : State) : (ctrPut n v s).queues = s.queues := rfl
@[simp] theorem ctrPut_cmds (n : Nat) (v : Sys2Proof.W64) (s : State) : (ctrPut n v s).cmds = s.cmds := rfl
@[simp] theorem ctrPut_nextK (n : Nat) (v : Sys2Proof.W64) (s : State) : (ctrPut n v s).nextK = s.nextK := rfl
@[simp] theorem ctrPut_nextStart (n : Nat) (v : Sys2Proof.W64) (s : State) : (ctrPut n v s).nextStart = s.nextStart := rfl
@[simp] theorem ctrPut_served (n : Nat) (v : Sys2Proof.W64) (s : State) : (ctrPut n v s).served = s.served := rfl
@[simp] theorem ctrPut_clusters (n : Nat) (v : Sys2Proof.W64) (s : State) : (ctrPut n v s).clusters = s.clusters := rfl
@[simp] theorem ctrPut_activeBank (n : Nat) (v : Sys2Proof.W64) (s : State) : (ctrPut n v s).activeBank = s.activeBank := rfl
@[simp] theorem ctrPut_banks (n : Nat) (v : Sys2Proof.W64) (s : State) : (ctrPut n v s).banks = s.banks := rfl
@[simp] theorem ctrPut_streams (n : Nat) (v : Sys2Proof.W64) (s : State) : (ctrPut n v s).streams = s.streams := rfl
@[simp] theorem ctrPut_stalls (n : Nat) (v : Sys2Proof.W64) (s : State) : (ctrPut n v s).stalls = s.stalls := rfl
@[simp] theorem ctrPut_cores (n : Nat) (v : Sys2Proof.W64) (s : State) : (ctrPut n v s).cores = s.cores := rfl
@[simp] theorem ctrPut_saved (n : Nat) (v : Sys2Proof.W64) (s : State) : (ctrPut n v s).saved = s.saved := rfl
@[simp] theorem ctrPut_lines (n : Nat) (v : Sys2Proof.W64) (s : State) : (ctrPut n v s).lines = s.lines := rfl
@[simp] theorem ctrPut_held (n : Nat) (v : Sys2Proof.W64) (s : State) : (ctrPut n v s).held = s.held := rfl
@[simp] theorem ctrPut_micaCache (n : Nat) (v : Sys2Proof.W64) (s : State) : (ctrPut n v s).micaCache = s.micaCache := rfl
@[simp] theorem ctrPut_pref (n : Nat) (v : Sys2Proof.W64) (s : State) : (ctrPut n v s).pref = s.pref := rfl
@[simp] theorem ctrPut_ends (n : Nat) (v : Sys2Proof.W64) (s : State) : (ctrPut n v s).ends = s.ends := rfl
@[simp] theorem ctrPut_groups (n : Nat) (v : Sys2Proof.W64) (s : State) : (ctrPut n v s).groups = s.groups := rfl
@[simp] theorem ctrPut_nodes (n : Nat) (v : Sys2Proof.W64) (s : State) : (ctrPut n v s).nodes = s.nodes := rfl
@[simp] theorem ctrPut_insts (n : Nat) (v : Sys2Proof.W64) (s : State) : (ctrPut n v s).insts = s.insts := rfl
@[simp] theorem ctrPut_feeds (n : Nat) (v : Sys2Proof.W64) (s : State) : (ctrPut n v s).feeds = s.feeds := rfl
@[simp] theorem ctrPut_fab (n : Nat) (v : Sys2Proof.W64) (s : State) : (ctrPut n v s).fab = s.fab := rfl
@[simp] theorem ctrPut_fns (n : Nat) (v : Sys2Proof.W64) (s : State) : (ctrPut n v s).fns = s.fns := rfl
@[simp] theorem ctrPut_deferred (n : Nat) (v : Sys2Proof.W64) (s : State) : (ctrPut n v s).deferred = s.deferred := rfl
@[simp] theorem ctrPut_msix (n : Nat) (v : Sys2Proof.W64) (s : State) : (ctrPut n v s).msix = s.msix := rfl
@[simp] theorem ctrPut_bus (n : Nat) (v : Sys2Proof.W64) (s : State) : (ctrPut n v s).bus = s.bus := rfl
@[simp] theorem ctrPut_pow (n : Nat) (v : Sys2Proof.W64) (s : State) : (ctrPut n v s).pow = s.pow := rfl
@[simp] theorem ctrPut_rst (n : Nat) (v : Sys2Proof.W64) (s : State) : (ctrPut n v s).rst = s.rst := rfl
@[simp] theorem ctrPut_activating (n : Nat) (v : Sys2Proof.W64) (s : State) : (ctrPut n v s).activating = s.activating := rfl
@[simp] theorem ctrPut_log (n : Nat) (v : Sys2Proof.W64) (s : State) : (ctrPut n v s).log = s.log := rfl
@[simp] theorem ctrPut_mctp (n : Nat) (v : Sys2Proof.W64) (s : State) : (ctrPut n v s).mctp = s.mctp := rfl



@[simp] theorem endCmd_pending (k : Nat) (status : Nat) (result : Sys2Proof.W64) (detail : BitVec 32) (s : State) : (endCmd k status result detail s).pending = s.pending :=
  rfl
@[simp] theorem endCmd_free (k : Nat) (status : Nat) (result : Sys2Proof.W64) (detail : BitVec 32) (s : State) : (endCmd k status result detail s).free = s.free :=
  rfl
@[simp] theorem endCmd_mem (k : Nat) (status : Nat) (result : Sys2Proof.W64) (detail : BitVec 32) (s : State) : (endCmd k status result detail s).mem = s.mem :=
  rfl
@[simp] theorem endCmd_tb (k : Nat) (status : Nat) (result : Sys2Proof.W64) (detail : BitVec 32) (s : State) : (endCmd k status result detail s).tb = s.tb :=
  rfl
@[simp] theorem endCmd_sup (k : Nat) (status : Nat) (result : Sys2Proof.W64) (detail : BitVec 32) (s : State) : (endCmd k status result detail s).sup = s.sup :=
  rfl
@[simp] theorem endCmd_id (k : Nat) (status : Nat) (result : Sys2Proof.W64) (detail : BitVec 32) (s : State) : (endCmd k status result detail s).id = s.id :=
  rfl
@[simp] theorem endCmd_mb (k : Nat) (status : Nat) (result : Sys2Proof.W64) (detail : BitVec 32) (s : State) : (endCmd k status result detail s).mb = s.mb :=
  rfl
@[simp] theorem endCmd_ctxs (k : Nat) (status : Nat) (result : Sys2Proof.W64) (detail : BitVec 32) (s : State) : (endCmd k status result detail s).ctxs = s.ctxs :=
  rfl
@[simp] theorem endCmd_counters (k : Nat) (status : Nat) (result : Sys2Proof.W64) (detail : BitVec 32) (s : State) : (endCmd k status result detail s).counters = s.counters :=
  rfl
@[simp] theorem endCmd_ctrOwner (k : Nat) (status : Nat) (result : Sys2Proof.W64) (detail : BitVec 32) (s : State) : (endCmd k status result detail s).ctrOwner = s.ctrOwner :=
  rfl
@[simp] theorem endCmd_queues (k : Nat) (status : Nat) (result : Sys2Proof.W64) (detail : BitVec 32) (s : State) : (endCmd k status result detail s).queues = s.queues :=
  rfl
@[simp] theorem endCmd_nextK (k : Nat) (status : Nat) (result : Sys2Proof.W64) (detail : BitVec 32) (s : State) : (endCmd k status result detail s).nextK = s.nextK :=
  rfl
@[simp] theorem endCmd_nextStart (k : Nat) (status : Nat) (result : Sys2Proof.W64) (detail : BitVec 32) (s : State) : (endCmd k status result detail s).nextStart = s.nextStart :=
  rfl
@[simp] theorem endCmd_served (k : Nat) (status : Nat) (result : Sys2Proof.W64) (detail : BitVec 32) (s : State) : (endCmd k status result detail s).served = s.served :=
  rfl
@[simp] theorem endCmd_clusters (k : Nat) (status : Nat) (result : Sys2Proof.W64) (detail : BitVec 32) (s : State) : (endCmd k status result detail s).clusters = s.clusters :=
  rfl
@[simp] theorem endCmd_activeBank (k : Nat) (status : Nat) (result : Sys2Proof.W64) (detail : BitVec 32) (s : State) : (endCmd k status result detail s).activeBank = s.activeBank :=
  rfl
@[simp] theorem endCmd_banks (k : Nat) (status : Nat) (result : Sys2Proof.W64) (detail : BitVec 32) (s : State) : (endCmd k status result detail s).banks = s.banks :=
  rfl
@[simp] theorem endCmd_streams (k : Nat) (status : Nat) (result : Sys2Proof.W64) (detail : BitVec 32) (s : State) : (endCmd k status result detail s).streams = s.streams :=
  rfl
@[simp] theorem endCmd_stalls (k : Nat) (status : Nat) (result : Sys2Proof.W64) (detail : BitVec 32) (s : State) : (endCmd k status result detail s).stalls = s.stalls :=
  rfl
@[simp] theorem endCmd_cores (k : Nat) (status : Nat) (result : Sys2Proof.W64) (detail : BitVec 32) (s : State) : (endCmd k status result detail s).cores = s.cores :=
  rfl
@[simp] theorem endCmd_saved (k : Nat) (status : Nat) (result : Sys2Proof.W64) (detail : BitVec 32) (s : State) : (endCmd k status result detail s).saved = s.saved :=
  rfl
@[simp] theorem endCmd_lines (k : Nat) (status : Nat) (result : Sys2Proof.W64) (detail : BitVec 32) (s : State) : (endCmd k status result detail s).lines = s.lines :=
  rfl
@[simp] theorem endCmd_held (k : Nat) (status : Nat) (result : Sys2Proof.W64) (detail : BitVec 32) (s : State) : (endCmd k status result detail s).held = s.held :=
  rfl
@[simp] theorem endCmd_micaCache (k : Nat) (status : Nat) (result : Sys2Proof.W64) (detail : BitVec 32) (s : State) : (endCmd k status result detail s).micaCache = s.micaCache :=
  rfl
@[simp] theorem endCmd_pref (k : Nat) (status : Nat) (result : Sys2Proof.W64) (detail : BitVec 32) (s : State) : (endCmd k status result detail s).pref = s.pref :=
  rfl
@[simp] theorem endCmd_ends (k : Nat) (status : Nat) (result : Sys2Proof.W64) (detail : BitVec 32) (s : State) : (endCmd k status result detail s).ends = s.ends :=
  rfl
@[simp] theorem endCmd_groups (k : Nat) (status : Nat) (result : Sys2Proof.W64) (detail : BitVec 32) (s : State) : (endCmd k status result detail s).groups = s.groups :=
  rfl
@[simp] theorem endCmd_nodes (k : Nat) (status : Nat) (result : Sys2Proof.W64) (detail : BitVec 32) (s : State) : (endCmd k status result detail s).nodes = s.nodes :=
  rfl
@[simp] theorem endCmd_insts (k : Nat) (status : Nat) (result : Sys2Proof.W64) (detail : BitVec 32) (s : State) : (endCmd k status result detail s).insts = s.insts :=
  rfl
@[simp] theorem endCmd_feeds (k : Nat) (status : Nat) (result : Sys2Proof.W64) (detail : BitVec 32) (s : State) : (endCmd k status result detail s).feeds = s.feeds :=
  rfl
@[simp] theorem endCmd_fab (k : Nat) (status : Nat) (result : Sys2Proof.W64) (detail : BitVec 32) (s : State) : (endCmd k status result detail s).fab = s.fab :=
  rfl
@[simp] theorem endCmd_fns (k : Nat) (status : Nat) (result : Sys2Proof.W64) (detail : BitVec 32) (s : State) : (endCmd k status result detail s).fns = s.fns :=
  rfl
@[simp] theorem endCmd_deferred (k : Nat) (status : Nat) (result : Sys2Proof.W64) (detail : BitVec 32) (s : State) : (endCmd k status result detail s).deferred = s.deferred :=
  rfl
@[simp] theorem endCmd_msix (k : Nat) (status : Nat) (result : Sys2Proof.W64) (detail : BitVec 32) (s : State) : (endCmd k status result detail s).msix = s.msix :=
  rfl
@[simp] theorem endCmd_bus (k : Nat) (status : Nat) (result : Sys2Proof.W64) (detail : BitVec 32) (s : State) : (endCmd k status result detail s).bus = s.bus :=
  rfl
@[simp] theorem endCmd_pow (k : Nat) (status : Nat) (result : Sys2Proof.W64) (detail : BitVec 32) (s : State) : (endCmd k status result detail s).pow = s.pow :=
  rfl
@[simp] theorem endCmd_rst (k : Nat) (status : Nat) (result : Sys2Proof.W64) (detail : BitVec 32) (s : State) : (endCmd k status result detail s).rst = s.rst :=
  rfl
@[simp] theorem endCmd_activating (k : Nat) (status : Nat) (result : Sys2Proof.W64) (detail : BitVec 32) (s : State) : (endCmd k status result detail s).activating = s.activating :=
  rfl
@[simp] theorem endCmd_log (k : Nat) (status : Nat) (result : Sys2Proof.W64) (detail : BitVec 32) (s : State) : (endCmd k status result detail s).log = s.log :=
  rfl
@[simp] theorem endCmd_mctp (k : Nat) (status : Nat) (result : Sys2Proof.W64) (detail : BitVec 32) (s : State) : (endCmd k status result detail s).mctp = s.mctp :=
  rfl

@[simp] theorem removeCmd_pending (k : Nat) (s : State) : (removeCmd k s).pending = s.pending := rfl
@[simp] theorem removeCmd_free (k : Nat) (s : State) : (removeCmd k s).free = s.free := rfl
@[simp] theorem removeCmd_mem (k : Nat) (s : State) : (removeCmd k s).mem = s.mem := rfl
@[simp] theorem removeCmd_tb (k : Nat) (s : State) : (removeCmd k s).tb = s.tb := rfl
@[simp] theorem removeCmd_sup (k : Nat) (s : State) : (removeCmd k s).sup = s.sup := rfl
@[simp] theorem removeCmd_id (k : Nat) (s : State) : (removeCmd k s).id = s.id := rfl
@[simp] theorem removeCmd_mb (k : Nat) (s : State) : (removeCmd k s).mb = s.mb := rfl
@[simp] theorem removeCmd_ctxs (k : Nat) (s : State) : (removeCmd k s).ctxs = s.ctxs := rfl
@[simp] theorem removeCmd_counters (k : Nat) (s : State) : (removeCmd k s).counters = s.counters := rfl
@[simp] theorem removeCmd_ctrOwner (k : Nat) (s : State) : (removeCmd k s).ctrOwner = s.ctrOwner := rfl
@[simp] theorem removeCmd_queues (k : Nat) (s : State) : (removeCmd k s).queues = s.queues := rfl
@[simp] theorem removeCmd_nextK (k : Nat) (s : State) : (removeCmd k s).nextK = s.nextK := rfl
@[simp] theorem removeCmd_nextStart (k : Nat) (s : State) : (removeCmd k s).nextStart = s.nextStart := rfl
@[simp] theorem removeCmd_served (k : Nat) (s : State) : (removeCmd k s).served = s.served := rfl
@[simp] theorem removeCmd_clusters (k : Nat) (s : State) : (removeCmd k s).clusters = s.clusters := rfl
@[simp] theorem removeCmd_activeBank (k : Nat) (s : State) : (removeCmd k s).activeBank = s.activeBank := rfl
@[simp] theorem removeCmd_banks (k : Nat) (s : State) : (removeCmd k s).banks = s.banks := rfl
@[simp] theorem removeCmd_streams (k : Nat) (s : State) : (removeCmd k s).streams = s.streams := rfl
@[simp] theorem removeCmd_stalls (k : Nat) (s : State) : (removeCmd k s).stalls = s.stalls := rfl
@[simp] theorem removeCmd_cores (k : Nat) (s : State) : (removeCmd k s).cores = s.cores := rfl
@[simp] theorem removeCmd_saved (k : Nat) (s : State) : (removeCmd k s).saved = s.saved := rfl
@[simp] theorem removeCmd_lines (k : Nat) (s : State) : (removeCmd k s).lines = s.lines := rfl
@[simp] theorem removeCmd_held (k : Nat) (s : State) : (removeCmd k s).held = s.held := rfl
@[simp] theorem removeCmd_micaCache (k : Nat) (s : State) : (removeCmd k s).micaCache = s.micaCache := rfl
@[simp] theorem removeCmd_pref (k : Nat) (s : State) : (removeCmd k s).pref = s.pref := rfl
@[simp] theorem removeCmd_ends (k : Nat) (s : State) : (removeCmd k s).ends = s.ends := rfl
@[simp] theorem removeCmd_groups (k : Nat) (s : State) : (removeCmd k s).groups = s.groups := rfl
@[simp] theorem removeCmd_nodes (k : Nat) (s : State) : (removeCmd k s).nodes = s.nodes := rfl
@[simp] theorem removeCmd_insts (k : Nat) (s : State) : (removeCmd k s).insts = s.insts := rfl
@[simp] theorem removeCmd_feeds (k : Nat) (s : State) : (removeCmd k s).feeds = s.feeds := rfl
@[simp] theorem removeCmd_fns (k : Nat) (s : State) : (removeCmd k s).fns = s.fns := rfl
@[simp] theorem removeCmd_deferred (k : Nat) (s : State) : (removeCmd k s).deferred = s.deferred := rfl
@[simp] theorem removeCmd_msix (k : Nat) (s : State) : (removeCmd k s).msix = s.msix := rfl
@[simp] theorem removeCmd_bus (k : Nat) (s : State) : (removeCmd k s).bus = s.bus := rfl
@[simp] theorem removeCmd_pow (k : Nat) (s : State) : (removeCmd k s).pow = s.pow := rfl
@[simp] theorem removeCmd_rst (k : Nat) (s : State) : (removeCmd k s).rst = s.rst := rfl
@[simp] theorem removeCmd_activating (k : Nat) (s : State) : (removeCmd k s).activating = s.activating := rfl
@[simp] theorem removeCmd_log (k : Nat) (s : State) : (removeCmd k s).log = s.log := rfl
@[simp] theorem removeCmd_mctp (k : Nat) (s : State) : (removeCmd k s).mctp = s.mctp := rfl

@[simp] theorem freeCores_pending (k : Nat) (s : State) : (freeCores k s).pending = s.pending := rfl
@[simp] theorem freeCores_free (k : Nat) (s : State) : (freeCores k s).free = s.free := rfl
@[simp] theorem freeCores_mem (k : Nat) (s : State) : (freeCores k s).mem = s.mem := rfl
@[simp] theorem freeCores_tb (k : Nat) (s : State) : (freeCores k s).tb = s.tb := rfl
@[simp] theorem freeCores_sup (k : Nat) (s : State) : (freeCores k s).sup = s.sup := rfl
@[simp] theorem freeCores_id (k : Nat) (s : State) : (freeCores k s).id = s.id := rfl
@[simp] theorem freeCores_mb (k : Nat) (s : State) : (freeCores k s).mb = s.mb := rfl
@[simp] theorem freeCores_ctxs (k : Nat) (s : State) : (freeCores k s).ctxs = s.ctxs := rfl
@[simp] theorem freeCores_counters (k : Nat) (s : State) : (freeCores k s).counters = s.counters := rfl
@[simp] theorem freeCores_ctrOwner (k : Nat) (s : State) : (freeCores k s).ctrOwner = s.ctrOwner := rfl
@[simp] theorem freeCores_queues (k : Nat) (s : State) : (freeCores k s).queues = s.queues := rfl
@[simp] theorem freeCores_cmds (k : Nat) (s : State) : (freeCores k s).cmds = s.cmds := rfl
@[simp] theorem freeCores_nextK (k : Nat) (s : State) : (freeCores k s).nextK = s.nextK := rfl
@[simp] theorem freeCores_nextStart (k : Nat) (s : State) : (freeCores k s).nextStart = s.nextStart := rfl
@[simp] theorem freeCores_served (k : Nat) (s : State) : (freeCores k s).served = s.served := rfl
@[simp] theorem freeCores_clusters (k : Nat) (s : State) : (freeCores k s).clusters = s.clusters := rfl
@[simp] theorem freeCores_activeBank (k : Nat) (s : State) : (freeCores k s).activeBank = s.activeBank := rfl
@[simp] theorem freeCores_banks (k : Nat) (s : State) : (freeCores k s).banks = s.banks := rfl
@[simp] theorem freeCores_streams (k : Nat) (s : State) : (freeCores k s).streams = s.streams := rfl
@[simp] theorem freeCores_stalls (k : Nat) (s : State) : (freeCores k s).stalls = s.stalls := rfl
@[simp] theorem freeCores_lines (k : Nat) (s : State) : (freeCores k s).lines = s.lines := rfl
@[simp] theorem freeCores_held (k : Nat) (s : State) : (freeCores k s).held = s.held := rfl
@[simp] theorem freeCores_micaCache (k : Nat) (s : State) : (freeCores k s).micaCache = s.micaCache := rfl
@[simp] theorem freeCores_pref (k : Nat) (s : State) : (freeCores k s).pref = s.pref := rfl
@[simp] theorem freeCores_ends (k : Nat) (s : State) : (freeCores k s).ends = s.ends := rfl
@[simp] theorem freeCores_groups (k : Nat) (s : State) : (freeCores k s).groups = s.groups := rfl
@[simp] theorem freeCores_nodes (k : Nat) (s : State) : (freeCores k s).nodes = s.nodes := rfl
@[simp] theorem freeCores_insts (k : Nat) (s : State) : (freeCores k s).insts = s.insts := rfl
@[simp] theorem freeCores_feeds (k : Nat) (s : State) : (freeCores k s).feeds = s.feeds := rfl
@[simp] theorem freeCores_fab (k : Nat) (s : State) : (freeCores k s).fab = s.fab := rfl
@[simp] theorem freeCores_fns (k : Nat) (s : State) : (freeCores k s).fns = s.fns := rfl
@[simp] theorem freeCores_deferred (k : Nat) (s : State) : (freeCores k s).deferred = s.deferred := rfl
@[simp] theorem freeCores_msix (k : Nat) (s : State) : (freeCores k s).msix = s.msix := rfl
@[simp] theorem freeCores_bus (k : Nat) (s : State) : (freeCores k s).bus = s.bus := rfl
@[simp] theorem freeCores_pow (k : Nat) (s : State) : (freeCores k s).pow = s.pow := rfl
@[simp] theorem freeCores_rst (k : Nat) (s : State) : (freeCores k s).rst = s.rst := rfl
@[simp] theorem freeCores_activating (k : Nat) (s : State) : (freeCores k s).activating = s.activating := rfl
@[simp] theorem freeCores_log (k : Nat) (s : State) : (freeCores k s).log = s.log := rfl
@[simp] theorem freeCores_mctp (k : Nat) (s : State) : (freeCores k s).mctp = s.mctp := rfl

@[simp] theorem orSticky_pending (ctx : Nat) (b : Sys2Proof.W64) (s : State) : (orSticky ctx b s).pending = s.pending := rfl
@[simp] theorem orSticky_free (ctx : Nat) (b : Sys2Proof.W64) (s : State) : (orSticky ctx b s).free = s.free := rfl
@[simp] theorem orSticky_mem (ctx : Nat) (b : Sys2Proof.W64) (s : State) : (orSticky ctx b s).mem = s.mem := rfl
@[simp] theorem orSticky_tb (ctx : Nat) (b : Sys2Proof.W64) (s : State) : (orSticky ctx b s).tb = s.tb := rfl
@[simp] theorem orSticky_sup (ctx : Nat) (b : Sys2Proof.W64) (s : State) : (orSticky ctx b s).sup = s.sup := rfl
@[simp] theorem orSticky_id (ctx : Nat) (b : Sys2Proof.W64) (s : State) : (orSticky ctx b s).id = s.id := rfl
@[simp] theorem orSticky_mb (ctx : Nat) (b : Sys2Proof.W64) (s : State) : (orSticky ctx b s).mb = s.mb := rfl
@[simp] theorem orSticky_counters (ctx : Nat) (b : Sys2Proof.W64) (s : State) : (orSticky ctx b s).counters = s.counters := rfl
@[simp] theorem orSticky_ctrOwner (ctx : Nat) (b : Sys2Proof.W64) (s : State) : (orSticky ctx b s).ctrOwner = s.ctrOwner := rfl
@[simp] theorem orSticky_queues (ctx : Nat) (b : Sys2Proof.W64) (s : State) : (orSticky ctx b s).queues = s.queues := rfl
@[simp] theorem orSticky_cmds (ctx : Nat) (b : Sys2Proof.W64) (s : State) : (orSticky ctx b s).cmds = s.cmds := rfl
@[simp] theorem orSticky_nextK (ctx : Nat) (b : Sys2Proof.W64) (s : State) : (orSticky ctx b s).nextK = s.nextK := rfl
@[simp] theorem orSticky_nextStart (ctx : Nat) (b : Sys2Proof.W64) (s : State) : (orSticky ctx b s).nextStart = s.nextStart := rfl
@[simp] theorem orSticky_served (ctx : Nat) (b : Sys2Proof.W64) (s : State) : (orSticky ctx b s).served = s.served := rfl
@[simp] theorem orSticky_clusters (ctx : Nat) (b : Sys2Proof.W64) (s : State) : (orSticky ctx b s).clusters = s.clusters := rfl
@[simp] theorem orSticky_activeBank (ctx : Nat) (b : Sys2Proof.W64) (s : State) : (orSticky ctx b s).activeBank = s.activeBank := rfl
@[simp] theorem orSticky_banks (ctx : Nat) (b : Sys2Proof.W64) (s : State) : (orSticky ctx b s).banks = s.banks := rfl
@[simp] theorem orSticky_streams (ctx : Nat) (b : Sys2Proof.W64) (s : State) : (orSticky ctx b s).streams = s.streams := rfl
@[simp] theorem orSticky_stalls (ctx : Nat) (b : Sys2Proof.W64) (s : State) : (orSticky ctx b s).stalls = s.stalls := rfl
@[simp] theorem orSticky_cores (ctx : Nat) (b : Sys2Proof.W64) (s : State) : (orSticky ctx b s).cores = s.cores := rfl
@[simp] theorem orSticky_saved (ctx : Nat) (b : Sys2Proof.W64) (s : State) : (orSticky ctx b s).saved = s.saved := rfl
@[simp] theorem orSticky_lines (ctx : Nat) (b : Sys2Proof.W64) (s : State) : (orSticky ctx b s).lines = s.lines := rfl
@[simp] theorem orSticky_held (ctx : Nat) (b : Sys2Proof.W64) (s : State) : (orSticky ctx b s).held = s.held := rfl
@[simp] theorem orSticky_micaCache (ctx : Nat) (b : Sys2Proof.W64) (s : State) : (orSticky ctx b s).micaCache = s.micaCache := rfl
@[simp] theorem orSticky_pref (ctx : Nat) (b : Sys2Proof.W64) (s : State) : (orSticky ctx b s).pref = s.pref := rfl
@[simp] theorem orSticky_ends (ctx : Nat) (b : Sys2Proof.W64) (s : State) : (orSticky ctx b s).ends = s.ends := rfl
@[simp] theorem orSticky_groups (ctx : Nat) (b : Sys2Proof.W64) (s : State) : (orSticky ctx b s).groups = s.groups := rfl
@[simp] theorem orSticky_nodes (ctx : Nat) (b : Sys2Proof.W64) (s : State) : (orSticky ctx b s).nodes = s.nodes := rfl
@[simp] theorem orSticky_insts (ctx : Nat) (b : Sys2Proof.W64) (s : State) : (orSticky ctx b s).insts = s.insts := rfl
@[simp] theorem orSticky_feeds (ctx : Nat) (b : Sys2Proof.W64) (s : State) : (orSticky ctx b s).feeds = s.feeds := rfl
@[simp] theorem orSticky_fab (ctx : Nat) (b : Sys2Proof.W64) (s : State) : (orSticky ctx b s).fab = s.fab := rfl
@[simp] theorem orSticky_fns (ctx : Nat) (b : Sys2Proof.W64) (s : State) : (orSticky ctx b s).fns = s.fns := rfl
@[simp] theorem orSticky_deferred (ctx : Nat) (b : Sys2Proof.W64) (s : State) : (orSticky ctx b s).deferred = s.deferred := rfl
@[simp] theorem orSticky_msix (ctx : Nat) (b : Sys2Proof.W64) (s : State) : (orSticky ctx b s).msix = s.msix := rfl
@[simp] theorem orSticky_bus (ctx : Nat) (b : Sys2Proof.W64) (s : State) : (orSticky ctx b s).bus = s.bus := rfl
@[simp] theorem orSticky_pow (ctx : Nat) (b : Sys2Proof.W64) (s : State) : (orSticky ctx b s).pow = s.pow := rfl
@[simp] theorem orSticky_rst (ctx : Nat) (b : Sys2Proof.W64) (s : State) : (orSticky ctx b s).rst = s.rst := rfl
@[simp] theorem orSticky_activating (ctx : Nat) (b : Sys2Proof.W64) (s : State) : (orSticky ctx b s).activating = s.activating := rfl
@[simp] theorem orSticky_log (ctx : Nat) (b : Sys2Proof.W64) (s : State) : (orSticky ctx b s).log = s.log := rfl
@[simp] theorem orSticky_mctp (ctx : Nat) (b : Sys2Proof.W64) (s : State) : (orSticky ctx b s).mctp = s.mctp := rfl

@[simp] theorem logEntry_pending (code : Nat) (status : Nat) (arg : Sys2Proof.Bytes) (s : State) : (logEntry code status arg s).pending = s.pending :=
  rfl
@[simp] theorem logEntry_free (code : Nat) (status : Nat) (arg : Sys2Proof.Bytes) (s : State) : (logEntry code status arg s).free = s.free :=
  rfl
@[simp] theorem logEntry_mem (code : Nat) (status : Nat) (arg : Sys2Proof.Bytes) (s : State) : (logEntry code status arg s).mem = s.mem :=
  rfl
@[simp] theorem logEntry_tb (code : Nat) (status : Nat) (arg : Sys2Proof.Bytes) (s : State) : (logEntry code status arg s).tb = s.tb := rfl
@[simp] theorem logEntry_sup (code : Nat) (status : Nat) (arg : Sys2Proof.Bytes) (s : State) : (logEntry code status arg s).sup = s.sup :=
  rfl
@[simp] theorem logEntry_id (code : Nat) (status : Nat) (arg : Sys2Proof.Bytes) (s : State) : (logEntry code status arg s).id = s.id := rfl
@[simp] theorem logEntry_mb (code : Nat) (status : Nat) (arg : Sys2Proof.Bytes) (s : State) : (logEntry code status arg s).mb = s.mb := rfl
@[simp] theorem logEntry_ctxs (code : Nat) (status : Nat) (arg : Sys2Proof.Bytes) (s : State) : (logEntry code status arg s).ctxs = s.ctxs :=
  rfl
@[simp] theorem logEntry_counters (code : Nat) (status : Nat) (arg : Sys2Proof.Bytes) (s : State) : (logEntry code status arg s).counters = s.counters :=
  rfl
@[simp] theorem logEntry_ctrOwner (code : Nat) (status : Nat) (arg : Sys2Proof.Bytes) (s : State) : (logEntry code status arg s).ctrOwner = s.ctrOwner :=
  rfl
@[simp] theorem logEntry_queues (code : Nat) (status : Nat) (arg : Sys2Proof.Bytes) (s : State) : (logEntry code status arg s).queues = s.queues :=
  rfl
@[simp] theorem logEntry_cmds (code : Nat) (status : Nat) (arg : Sys2Proof.Bytes) (s : State) : (logEntry code status arg s).cmds = s.cmds :=
  rfl
@[simp] theorem logEntry_nextK (code : Nat) (status : Nat) (arg : Sys2Proof.Bytes) (s : State) : (logEntry code status arg s).nextK = s.nextK :=
  rfl
@[simp] theorem logEntry_nextStart (code : Nat) (status : Nat) (arg : Sys2Proof.Bytes) (s : State) : (logEntry code status arg s).nextStart = s.nextStart :=
  rfl
@[simp] theorem logEntry_served (code : Nat) (status : Nat) (arg : Sys2Proof.Bytes) (s : State) : (logEntry code status arg s).served = s.served :=
  rfl
@[simp] theorem logEntry_clusters (code : Nat) (status : Nat) (arg : Sys2Proof.Bytes) (s : State) : (logEntry code status arg s).clusters = s.clusters :=
  rfl
@[simp] theorem logEntry_activeBank (code : Nat) (status : Nat) (arg : Sys2Proof.Bytes) (s : State) : (logEntry code status arg s).activeBank = s.activeBank :=
  rfl
@[simp] theorem logEntry_banks (code : Nat) (status : Nat) (arg : Sys2Proof.Bytes) (s : State) : (logEntry code status arg s).banks = s.banks :=
  rfl
@[simp] theorem logEntry_streams (code : Nat) (status : Nat) (arg : Sys2Proof.Bytes) (s : State) : (logEntry code status arg s).streams = s.streams :=
  rfl
@[simp] theorem logEntry_stalls (code : Nat) (status : Nat) (arg : Sys2Proof.Bytes) (s : State) : (logEntry code status arg s).stalls = s.stalls :=
  rfl
@[simp] theorem logEntry_cores (code : Nat) (status : Nat) (arg : Sys2Proof.Bytes) (s : State) : (logEntry code status arg s).cores = s.cores :=
  rfl
@[simp] theorem logEntry_saved (code : Nat) (status : Nat) (arg : Sys2Proof.Bytes) (s : State) : (logEntry code status arg s).saved = s.saved :=
  rfl
@[simp] theorem logEntry_lines (code : Nat) (status : Nat) (arg : Sys2Proof.Bytes) (s : State) : (logEntry code status arg s).lines = s.lines :=
  rfl
@[simp] theorem logEntry_held (code : Nat) (status : Nat) (arg : Sys2Proof.Bytes) (s : State) : (logEntry code status arg s).held = s.held :=
  rfl
@[simp] theorem logEntry_micaCache (code : Nat) (status : Nat) (arg : Sys2Proof.Bytes) (s : State) : (logEntry code status arg s).micaCache = s.micaCache :=
  rfl
@[simp] theorem logEntry_pref (code : Nat) (status : Nat) (arg : Sys2Proof.Bytes) (s : State) : (logEntry code status arg s).pref = s.pref :=
  rfl
@[simp] theorem logEntry_ends (code : Nat) (status : Nat) (arg : Sys2Proof.Bytes) (s : State) : (logEntry code status arg s).ends = s.ends :=
  rfl
@[simp] theorem logEntry_groups (code : Nat) (status : Nat) (arg : Sys2Proof.Bytes) (s : State) : (logEntry code status arg s).groups = s.groups :=
  rfl
@[simp] theorem logEntry_nodes (code : Nat) (status : Nat) (arg : Sys2Proof.Bytes) (s : State) : (logEntry code status arg s).nodes = s.nodes :=
  rfl
@[simp] theorem logEntry_insts (code : Nat) (status : Nat) (arg : Sys2Proof.Bytes) (s : State) : (logEntry code status arg s).insts = s.insts :=
  rfl
@[simp] theorem logEntry_feeds (code : Nat) (status : Nat) (arg : Sys2Proof.Bytes) (s : State) : (logEntry code status arg s).feeds = s.feeds :=
  rfl
@[simp] theorem logEntry_fab (code : Nat) (status : Nat) (arg : Sys2Proof.Bytes) (s : State) : (logEntry code status arg s).fab = s.fab :=
  rfl
@[simp] theorem logEntry_fns (code : Nat) (status : Nat) (arg : Sys2Proof.Bytes) (s : State) : (logEntry code status arg s).fns = s.fns :=
  rfl
@[simp] theorem logEntry_deferred (code : Nat) (status : Nat) (arg : Sys2Proof.Bytes) (s : State) : (logEntry code status arg s).deferred = s.deferred :=
  rfl
@[simp] theorem logEntry_msix (code : Nat) (status : Nat) (arg : Sys2Proof.Bytes) (s : State) : (logEntry code status arg s).msix = s.msix :=
  rfl
@[simp] theorem logEntry_bus (code : Nat) (status : Nat) (arg : Sys2Proof.Bytes) (s : State) : (logEntry code status arg s).bus = s.bus :=
  rfl
@[simp] theorem logEntry_pow (code : Nat) (status : Nat) (arg : Sys2Proof.Bytes) (s : State) : (logEntry code status arg s).pow = s.pow :=
  rfl
@[simp] theorem logEntry_rst (code : Nat) (status : Nat) (arg : Sys2Proof.Bytes) (s : State) : (logEntry code status arg s).rst = s.rst :=
  rfl
@[simp] theorem logEntry_activating (code : Nat) (status : Nat) (arg : Sys2Proof.Bytes) (s : State) : (logEntry code status arg s).activating = s.activating :=
  rfl
@[simp] theorem logEntry_mctp (code : Nat) (status : Nat) (arg : Sys2Proof.Bytes) (s : State) : (logEntry code status arg s).mctp = s.mctp :=
  rfl

@[simp] theorem armPeriod_pending (arm : Bool) (f : BitVec 48) (s : State) : (armPeriod arm f s).pending = s.pending := rfl
@[simp] theorem armPeriod_free (arm : Bool) (f : BitVec 48) (s : State) : (armPeriod arm f s).free = s.free := rfl
@[simp] theorem armPeriod_mem (arm : Bool) (f : BitVec 48) (s : State) : (armPeriod arm f s).mem = s.mem := rfl
@[simp] theorem armPeriod_sup (arm : Bool) (f : BitVec 48) (s : State) : (armPeriod arm f s).sup = s.sup := rfl
@[simp] theorem armPeriod_id (arm : Bool) (f : BitVec 48) (s : State) : (armPeriod arm f s).id = s.id := rfl
@[simp] theorem armPeriod_mb (arm : Bool) (f : BitVec 48) (s : State) : (armPeriod arm f s).mb = s.mb := rfl
@[simp] theorem armPeriod_ctxs (arm : Bool) (f : BitVec 48) (s : State) : (armPeriod arm f s).ctxs = s.ctxs := rfl
@[simp] theorem armPeriod_counters (arm : Bool) (f : BitVec 48) (s : State) : (armPeriod arm f s).counters = s.counters := rfl
@[simp] theorem armPeriod_ctrOwner (arm : Bool) (f : BitVec 48) (s : State) : (armPeriod arm f s).ctrOwner = s.ctrOwner := rfl
@[simp] theorem armPeriod_queues (arm : Bool) (f : BitVec 48) (s : State) : (armPeriod arm f s).queues = s.queues := rfl
@[simp] theorem armPeriod_cmds (arm : Bool) (f : BitVec 48) (s : State) : (armPeriod arm f s).cmds = s.cmds := rfl
@[simp] theorem armPeriod_nextK (arm : Bool) (f : BitVec 48) (s : State) : (armPeriod arm f s).nextK = s.nextK := rfl
@[simp] theorem armPeriod_nextStart (arm : Bool) (f : BitVec 48) (s : State) : (armPeriod arm f s).nextStart = s.nextStart := rfl
@[simp] theorem armPeriod_served (arm : Bool) (f : BitVec 48) (s : State) : (armPeriod arm f s).served = s.served := rfl
@[simp] theorem armPeriod_clusters (arm : Bool) (f : BitVec 48) (s : State) : (armPeriod arm f s).clusters = s.clusters := rfl
@[simp] theorem armPeriod_activeBank (arm : Bool) (f : BitVec 48) (s : State) : (armPeriod arm f s).activeBank = s.activeBank := rfl
@[simp] theorem armPeriod_banks (arm : Bool) (f : BitVec 48) (s : State) : (armPeriod arm f s).banks = s.banks := rfl
@[simp] theorem armPeriod_streams (arm : Bool) (f : BitVec 48) (s : State) : (armPeriod arm f s).streams = s.streams := rfl
@[simp] theorem armPeriod_stalls (arm : Bool) (f : BitVec 48) (s : State) : (armPeriod arm f s).stalls = s.stalls := rfl
@[simp] theorem armPeriod_cores (arm : Bool) (f : BitVec 48) (s : State) : (armPeriod arm f s).cores = s.cores := rfl
@[simp] theorem armPeriod_saved (arm : Bool) (f : BitVec 48) (s : State) : (armPeriod arm f s).saved = s.saved := rfl
@[simp] theorem armPeriod_lines (arm : Bool) (f : BitVec 48) (s : State) : (armPeriod arm f s).lines = s.lines := rfl
@[simp] theorem armPeriod_held (arm : Bool) (f : BitVec 48) (s : State) : (armPeriod arm f s).held = s.held := rfl
@[simp] theorem armPeriod_micaCache (arm : Bool) (f : BitVec 48) (s : State) : (armPeriod arm f s).micaCache = s.micaCache := rfl
@[simp] theorem armPeriod_pref (arm : Bool) (f : BitVec 48) (s : State) : (armPeriod arm f s).pref = s.pref := rfl
@[simp] theorem armPeriod_ends (arm : Bool) (f : BitVec 48) (s : State) : (armPeriod arm f s).ends = s.ends := rfl
@[simp] theorem armPeriod_groups (arm : Bool) (f : BitVec 48) (s : State) : (armPeriod arm f s).groups = s.groups := rfl
@[simp] theorem armPeriod_nodes (arm : Bool) (f : BitVec 48) (s : State) : (armPeriod arm f s).nodes = s.nodes := rfl
@[simp] theorem armPeriod_insts (arm : Bool) (f : BitVec 48) (s : State) : (armPeriod arm f s).insts = s.insts := rfl
@[simp] theorem armPeriod_feeds (arm : Bool) (f : BitVec 48) (s : State) : (armPeriod arm f s).feeds = s.feeds := rfl
@[simp] theorem armPeriod_fab (arm : Bool) (f : BitVec 48) (s : State) : (armPeriod arm f s).fab = s.fab := rfl
@[simp] theorem armPeriod_fns (arm : Bool) (f : BitVec 48) (s : State) : (armPeriod arm f s).fns = s.fns := rfl
@[simp] theorem armPeriod_deferred (arm : Bool) (f : BitVec 48) (s : State) : (armPeriod arm f s).deferred = s.deferred := rfl
@[simp] theorem armPeriod_msix (arm : Bool) (f : BitVec 48) (s : State) : (armPeriod arm f s).msix = s.msix := rfl
@[simp] theorem armPeriod_bus (arm : Bool) (f : BitVec 48) (s : State) : (armPeriod arm f s).bus = s.bus := rfl
@[simp] theorem armPeriod_pow (arm : Bool) (f : BitVec 48) (s : State) : (armPeriod arm f s).pow = s.pow := rfl
@[simp] theorem armPeriod_rst (arm : Bool) (f : BitVec 48) (s : State) : (armPeriod arm f s).rst = s.rst := rfl
@[simp] theorem armPeriod_activating (arm : Bool) (f : BitVec 48) (s : State) : (armPeriod arm f s).activating = s.activating := rfl
@[simp] theorem armPeriod_log (arm : Bool) (f : BitVec 48) (s : State) : (armPeriod arm f s).log = s.log := rfl
@[simp] theorem armPeriod_mctp (arm : Bool) (f : BitVec 48) (s : State) : (armPeriod arm f s).mctp = s.mctp := rfl

@[simp] theorem setLink_pending (port : Nat) (st : PortState) (f : Port → Port) (s : State) : (setLink port st f s).pending = s.pending :=
  rfl
@[simp] theorem setLink_free (port : Nat) (st : PortState) (f : Port → Port) (s : State) : (setLink port st f s).free = s.free := rfl
@[simp] theorem setLink_mem (port : Nat) (st : PortState) (f : Port → Port) (s : State) : (setLink port st f s).mem = s.mem := rfl
@[simp] theorem setLink_tb (port : Nat) (st : PortState) (f : Port → Port) (s : State) : (setLink port st f s).tb = s.tb := rfl
@[simp] theorem setLink_sup (port : Nat) (st : PortState) (f : Port → Port) (s : State) : (setLink port st f s).sup = s.sup := rfl
@[simp] theorem setLink_id (port : Nat) (st : PortState) (f : Port → Port) (s : State) : (setLink port st f s).id = s.id := rfl
@[simp] theorem setLink_mb (port : Nat) (st : PortState) (f : Port → Port) (s : State) : (setLink port st f s).mb = s.mb := rfl
@[simp] theorem setLink_ctxs (port : Nat) (st : PortState) (f : Port → Port) (s : State) : (setLink port st f s).ctxs = s.ctxs := rfl
@[simp] theorem setLink_counters (port : Nat) (st : PortState) (f : Port → Port) (s : State) : (setLink port st f s).counters = s.counters :=
  rfl
@[simp] theorem setLink_ctrOwner (port : Nat) (st : PortState) (f : Port → Port) (s : State) : (setLink port st f s).ctrOwner = s.ctrOwner :=
  rfl
@[simp] theorem setLink_queues (port : Nat) (st : PortState) (f : Port → Port) (s : State) : (setLink port st f s).queues = s.queues := rfl
@[simp] theorem setLink_cmds (port : Nat) (st : PortState) (f : Port → Port) (s : State) : (setLink port st f s).cmds = s.cmds := rfl
@[simp] theorem setLink_nextK (port : Nat) (st : PortState) (f : Port → Port) (s : State) : (setLink port st f s).nextK = s.nextK := rfl
@[simp] theorem setLink_nextStart (port : Nat) (st : PortState) (f : Port → Port) (s : State) : (setLink port st f s).nextStart = s.nextStart :=
  rfl
@[simp] theorem setLink_served (port : Nat) (st : PortState) (f : Port → Port) (s : State) : (setLink port st f s).served = s.served := rfl
@[simp] theorem setLink_clusters (port : Nat) (st : PortState) (f : Port → Port) (s : State) : (setLink port st f s).clusters = s.clusters :=
  rfl
@[simp] theorem setLink_activeBank (port : Nat) (st : PortState) (f : Port → Port) (s : State) : (setLink port st f s).activeBank = s.activeBank :=
  rfl
@[simp] theorem setLink_banks (port : Nat) (st : PortState) (f : Port → Port) (s : State) : (setLink port st f s).banks = s.banks := rfl
@[simp] theorem setLink_streams (port : Nat) (st : PortState) (f : Port → Port) (s : State) : (setLink port st f s).streams = s.streams :=
  rfl
@[simp] theorem setLink_stalls (port : Nat) (st : PortState) (f : Port → Port) (s : State) : (setLink port st f s).stalls = s.stalls := rfl
@[simp] theorem setLink_cores (port : Nat) (st : PortState) (f : Port → Port) (s : State) : (setLink port st f s).cores = s.cores := rfl
@[simp] theorem setLink_saved (port : Nat) (st : PortState) (f : Port → Port) (s : State) : (setLink port st f s).saved = s.saved := rfl
@[simp] theorem setLink_lines (port : Nat) (st : PortState) (f : Port → Port) (s : State) : (setLink port st f s).lines = s.lines := rfl
@[simp] theorem setLink_held (port : Nat) (st : PortState) (f : Port → Port) (s : State) : (setLink port st f s).held = s.held := rfl
@[simp] theorem setLink_micaCache (port : Nat) (st : PortState) (f : Port → Port) (s : State) : (setLink port st f s).micaCache = s.micaCache :=
  rfl
@[simp] theorem setLink_pref (port : Nat) (st : PortState) (f : Port → Port) (s : State) : (setLink port st f s).pref = s.pref := rfl
@[simp] theorem setLink_ends (port : Nat) (st : PortState) (f : Port → Port) (s : State) : (setLink port st f s).ends = s.ends := rfl
@[simp] theorem setLink_groups (port : Nat) (st : PortState) (f : Port → Port) (s : State) : (setLink port st f s).groups = s.groups := rfl
@[simp] theorem setLink_nodes (port : Nat) (st : PortState) (f : Port → Port) (s : State) : (setLink port st f s).nodes = s.nodes := rfl
@[simp] theorem setLink_insts (port : Nat) (st : PortState) (f : Port → Port) (s : State) : (setLink port st f s).insts = s.insts := rfl
@[simp] theorem setLink_feeds (port : Nat) (st : PortState) (f : Port → Port) (s : State) : (setLink port st f s).feeds = s.feeds := rfl
@[simp] theorem setLink_fns (port : Nat) (st : PortState) (f : Port → Port) (s : State) : (setLink port st f s).fns = s.fns := rfl
@[simp] theorem setLink_deferred (port : Nat) (st : PortState) (f : Port → Port) (s : State) : (setLink port st f s).deferred = s.deferred :=
  rfl
@[simp] theorem setLink_msix (port : Nat) (st : PortState) (f : Port → Port) (s : State) : (setLink port st f s).msix = s.msix := rfl
@[simp] theorem setLink_bus (port : Nat) (st : PortState) (f : Port → Port) (s : State) : (setLink port st f s).bus = s.bus := rfl
@[simp] theorem setLink_pow (port : Nat) (st : PortState) (f : Port → Port) (s : State) : (setLink port st f s).pow = s.pow := rfl
@[simp] theorem setLink_rst (port : Nat) (st : PortState) (f : Port → Port) (s : State) : (setLink port st f s).rst = s.rst := rfl
@[simp] theorem setLink_activating (port : Nat) (st : PortState) (f : Port → Port) (s : State) : (setLink port st f s).activating = s.activating :=
  rfl
@[simp] theorem setLink_mctp (port : Nat) (st : PortState) (f : Port → Port) (s : State) : (setLink port st f s).mctp = s.mctp := rfl

@[simp] theorem modGroup_pending (g : Nat) (f : Group → Group) (s : State) : (modGroup g f s).pending = s.pending := rfl
@[simp] theorem modGroup_free (g : Nat) (f : Group → Group) (s : State) : (modGroup g f s).free = s.free := rfl
@[simp] theorem modGroup_mem (g : Nat) (f : Group → Group) (s : State) : (modGroup g f s).mem = s.mem := rfl
@[simp] theorem modGroup_tb (g : Nat) (f : Group → Group) (s : State) : (modGroup g f s).tb = s.tb := rfl
@[simp] theorem modGroup_sup (g : Nat) (f : Group → Group) (s : State) : (modGroup g f s).sup = s.sup := rfl
@[simp] theorem modGroup_id (g : Nat) (f : Group → Group) (s : State) : (modGroup g f s).id = s.id := rfl
@[simp] theorem modGroup_mb (g : Nat) (f : Group → Group) (s : State) : (modGroup g f s).mb = s.mb := rfl
@[simp] theorem modGroup_ctxs (g : Nat) (f : Group → Group) (s : State) : (modGroup g f s).ctxs = s.ctxs := rfl
@[simp] theorem modGroup_counters (g : Nat) (f : Group → Group) (s : State) : (modGroup g f s).counters = s.counters := rfl
@[simp] theorem modGroup_ctrOwner (g : Nat) (f : Group → Group) (s : State) : (modGroup g f s).ctrOwner = s.ctrOwner := rfl
@[simp] theorem modGroup_queues (g : Nat) (f : Group → Group) (s : State) : (modGroup g f s).queues = s.queues := rfl
@[simp] theorem modGroup_cmds (g : Nat) (f : Group → Group) (s : State) : (modGroup g f s).cmds = s.cmds := rfl
@[simp] theorem modGroup_nextK (g : Nat) (f : Group → Group) (s : State) : (modGroup g f s).nextK = s.nextK := rfl
@[simp] theorem modGroup_nextStart (g : Nat) (f : Group → Group) (s : State) : (modGroup g f s).nextStart = s.nextStart := rfl
@[simp] theorem modGroup_served (g : Nat) (f : Group → Group) (s : State) : (modGroup g f s).served = s.served := rfl
@[simp] theorem modGroup_clusters (g : Nat) (f : Group → Group) (s : State) : (modGroup g f s).clusters = s.clusters := rfl
@[simp] theorem modGroup_activeBank (g : Nat) (f : Group → Group) (s : State) : (modGroup g f s).activeBank = s.activeBank := rfl
@[simp] theorem modGroup_banks (g : Nat) (f : Group → Group) (s : State) : (modGroup g f s).banks = s.banks := rfl
@[simp] theorem modGroup_streams (g : Nat) (f : Group → Group) (s : State) : (modGroup g f s).streams = s.streams := rfl
@[simp] theorem modGroup_stalls (g : Nat) (f : Group → Group) (s : State) : (modGroup g f s).stalls = s.stalls := rfl
@[simp] theorem modGroup_cores (g : Nat) (f : Group → Group) (s : State) : (modGroup g f s).cores = s.cores := rfl
@[simp] theorem modGroup_saved (g : Nat) (f : Group → Group) (s : State) : (modGroup g f s).saved = s.saved := rfl
@[simp] theorem modGroup_lines (g : Nat) (f : Group → Group) (s : State) : (modGroup g f s).lines = s.lines := rfl
@[simp] theorem modGroup_held (g : Nat) (f : Group → Group) (s : State) : (modGroup g f s).held = s.held := rfl
@[simp] theorem modGroup_micaCache (g : Nat) (f : Group → Group) (s : State) : (modGroup g f s).micaCache = s.micaCache := rfl
@[simp] theorem modGroup_pref (g : Nat) (f : Group → Group) (s : State) : (modGroup g f s).pref = s.pref := rfl
@[simp] theorem modGroup_ends (g : Nat) (f : Group → Group) (s : State) : (modGroup g f s).ends = s.ends := rfl
@[simp] theorem modGroup_nodes (g : Nat) (f : Group → Group) (s : State) : (modGroup g f s).nodes = s.nodes := rfl
@[simp] theorem modGroup_insts (g : Nat) (f : Group → Group) (s : State) : (modGroup g f s).insts = s.insts := rfl
@[simp] theorem modGroup_feeds (g : Nat) (f : Group → Group) (s : State) : (modGroup g f s).feeds = s.feeds := rfl
@[simp] theorem modGroup_fab (g : Nat) (f : Group → Group) (s : State) : (modGroup g f s).fab = s.fab := rfl
@[simp] theorem modGroup_fns (g : Nat) (f : Group → Group) (s : State) : (modGroup g f s).fns = s.fns := rfl
@[simp] theorem modGroup_deferred (g : Nat) (f : Group → Group) (s : State) : (modGroup g f s).deferred = s.deferred := rfl
@[simp] theorem modGroup_msix (g : Nat) (f : Group → Group) (s : State) : (modGroup g f s).msix = s.msix := rfl
@[simp] theorem modGroup_bus (g : Nat) (f : Group → Group) (s : State) : (modGroup g f s).bus = s.bus := rfl
@[simp] theorem modGroup_pow (g : Nat) (f : Group → Group) (s : State) : (modGroup g f s).pow = s.pow := rfl
@[simp] theorem modGroup_rst (g : Nat) (f : Group → Group) (s : State) : (modGroup g f s).rst = s.rst := rfl
@[simp] theorem modGroup_activating (g : Nat) (f : Group → Group) (s : State) : (modGroup g f s).activating = s.activating := rfl
@[simp] theorem modGroup_log (g : Nat) (f : Group → Group) (s : State) : (modGroup g f s).log = s.log := rfl
@[simp] theorem modGroup_mctp (g : Nat) (f : Group → Group) (s : State) : (modGroup g f s).mctp = s.mctp := rfl

@[simp] theorem pushStream_pending (key : Nat) (bs : Sys2Proof.Bytes) (s : State) : (pushStream key bs s).pending = s.pending := rfl
@[simp] theorem pushStream_free (key : Nat) (bs : Sys2Proof.Bytes) (s : State) : (pushStream key bs s).free = s.free := rfl
@[simp] theorem pushStream_mem (key : Nat) (bs : Sys2Proof.Bytes) (s : State) : (pushStream key bs s).mem = s.mem := rfl
@[simp] theorem pushStream_tb (key : Nat) (bs : Sys2Proof.Bytes) (s : State) : (pushStream key bs s).tb = s.tb := rfl
@[simp] theorem pushStream_sup (key : Nat) (bs : Sys2Proof.Bytes) (s : State) : (pushStream key bs s).sup = s.sup := rfl
@[simp] theorem pushStream_id (key : Nat) (bs : Sys2Proof.Bytes) (s : State) : (pushStream key bs s).id = s.id := rfl
@[simp] theorem pushStream_mb (key : Nat) (bs : Sys2Proof.Bytes) (s : State) : (pushStream key bs s).mb = s.mb := rfl
@[simp] theorem pushStream_ctxs (key : Nat) (bs : Sys2Proof.Bytes) (s : State) : (pushStream key bs s).ctxs = s.ctxs := rfl
@[simp] theorem pushStream_counters (key : Nat) (bs : Sys2Proof.Bytes) (s : State) : (pushStream key bs s).counters = s.counters := rfl
@[simp] theorem pushStream_ctrOwner (key : Nat) (bs : Sys2Proof.Bytes) (s : State) : (pushStream key bs s).ctrOwner = s.ctrOwner := rfl
@[simp] theorem pushStream_queues (key : Nat) (bs : Sys2Proof.Bytes) (s : State) : (pushStream key bs s).queues = s.queues := rfl
@[simp] theorem pushStream_cmds (key : Nat) (bs : Sys2Proof.Bytes) (s : State) : (pushStream key bs s).cmds = s.cmds := rfl
@[simp] theorem pushStream_nextK (key : Nat) (bs : Sys2Proof.Bytes) (s : State) : (pushStream key bs s).nextK = s.nextK := rfl
@[simp] theorem pushStream_nextStart (key : Nat) (bs : Sys2Proof.Bytes) (s : State) : (pushStream key bs s).nextStart = s.nextStart := rfl
@[simp] theorem pushStream_served (key : Nat) (bs : Sys2Proof.Bytes) (s : State) : (pushStream key bs s).served = s.served := rfl
@[simp] theorem pushStream_clusters (key : Nat) (bs : Sys2Proof.Bytes) (s : State) : (pushStream key bs s).clusters = s.clusters := rfl
@[simp] theorem pushStream_activeBank (key : Nat) (bs : Sys2Proof.Bytes) (s : State) : (pushStream key bs s).activeBank = s.activeBank :=
  rfl
@[simp] theorem pushStream_banks (key : Nat) (bs : Sys2Proof.Bytes) (s : State) : (pushStream key bs s).banks = s.banks := rfl
@[simp] theorem pushStream_stalls (key : Nat) (bs : Sys2Proof.Bytes) (s : State) : (pushStream key bs s).stalls = s.stalls := rfl
@[simp] theorem pushStream_cores (key : Nat) (bs : Sys2Proof.Bytes) (s : State) : (pushStream key bs s).cores = s.cores := rfl
@[simp] theorem pushStream_saved (key : Nat) (bs : Sys2Proof.Bytes) (s : State) : (pushStream key bs s).saved = s.saved := rfl
@[simp] theorem pushStream_lines (key : Nat) (bs : Sys2Proof.Bytes) (s : State) : (pushStream key bs s).lines = s.lines := rfl
@[simp] theorem pushStream_held (key : Nat) (bs : Sys2Proof.Bytes) (s : State) : (pushStream key bs s).held = s.held := rfl
@[simp] theorem pushStream_micaCache (key : Nat) (bs : Sys2Proof.Bytes) (s : State) : (pushStream key bs s).micaCache = s.micaCache := rfl
@[simp] theorem pushStream_pref (key : Nat) (bs : Sys2Proof.Bytes) (s : State) : (pushStream key bs s).pref = s.pref := rfl
@[simp] theorem pushStream_ends (key : Nat) (bs : Sys2Proof.Bytes) (s : State) : (pushStream key bs s).ends = s.ends := rfl
@[simp] theorem pushStream_groups (key : Nat) (bs : Sys2Proof.Bytes) (s : State) : (pushStream key bs s).groups = s.groups := rfl
@[simp] theorem pushStream_nodes (key : Nat) (bs : Sys2Proof.Bytes) (s : State) : (pushStream key bs s).nodes = s.nodes := rfl
@[simp] theorem pushStream_insts (key : Nat) (bs : Sys2Proof.Bytes) (s : State) : (pushStream key bs s).insts = s.insts := rfl
@[simp] theorem pushStream_feeds (key : Nat) (bs : Sys2Proof.Bytes) (s : State) : (pushStream key bs s).feeds = s.feeds := rfl
@[simp] theorem pushStream_fab (key : Nat) (bs : Sys2Proof.Bytes) (s : State) : (pushStream key bs s).fab = s.fab := rfl
@[simp] theorem pushStream_fns (key : Nat) (bs : Sys2Proof.Bytes) (s : State) : (pushStream key bs s).fns = s.fns := rfl
@[simp] theorem pushStream_deferred (key : Nat) (bs : Sys2Proof.Bytes) (s : State) : (pushStream key bs s).deferred = s.deferred := rfl
@[simp] theorem pushStream_msix (key : Nat) (bs : Sys2Proof.Bytes) (s : State) : (pushStream key bs s).msix = s.msix := rfl
@[simp] theorem pushStream_bus (key : Nat) (bs : Sys2Proof.Bytes) (s : State) : (pushStream key bs s).bus = s.bus := rfl
@[simp] theorem pushStream_pow (key : Nat) (bs : Sys2Proof.Bytes) (s : State) : (pushStream key bs s).pow = s.pow := rfl
@[simp] theorem pushStream_rst (key : Nat) (bs : Sys2Proof.Bytes) (s : State) : (pushStream key bs s).rst = s.rst := rfl
@[simp] theorem pushStream_activating (key : Nat) (bs : Sys2Proof.Bytes) (s : State) : (pushStream key bs s).activating = s.activating :=
  rfl
@[simp] theorem pushStream_log (key : Nat) (bs : Sys2Proof.Bytes) (s : State) : (pushStream key bs s).log = s.log := rfl
@[simp] theorem pushStream_mctp (key : Nat) (bs : Sys2Proof.Bytes) (s : State) : (pushStream key bs s).mctp = s.mctp := rfl

@[simp] theorem modCluster_pending (basalt : Nat) (cl : Nat) (f : Cluster → Cluster) (s : State) : (modCluster basalt cl f s).pending = s.pending :=
  rfl
@[simp] theorem modCluster_free (basalt : Nat) (cl : Nat) (f : Cluster → Cluster) (s : State) : (modCluster basalt cl f s).free = s.free :=
  rfl
@[simp] theorem modCluster_mem (basalt : Nat) (cl : Nat) (f : Cluster → Cluster) (s : State) : (modCluster basalt cl f s).mem = s.mem := rfl
@[simp] theorem modCluster_tb (basalt : Nat) (cl : Nat) (f : Cluster → Cluster) (s : State) : (modCluster basalt cl f s).tb = s.tb := rfl
@[simp] theorem modCluster_sup (basalt : Nat) (cl : Nat) (f : Cluster → Cluster) (s : State) : (modCluster basalt cl f s).sup = s.sup := rfl
@[simp] theorem modCluster_id (basalt : Nat) (cl : Nat) (f : Cluster → Cluster) (s : State) : (modCluster basalt cl f s).id = s.id := rfl
@[simp] theorem modCluster_mb (basalt : Nat) (cl : Nat) (f : Cluster → Cluster) (s : State) : (modCluster basalt cl f s).mb = s.mb := rfl
@[simp] theorem modCluster_ctxs (basalt : Nat) (cl : Nat) (f : Cluster → Cluster) (s : State) : (modCluster basalt cl f s).ctxs = s.ctxs :=
  rfl
@[simp] theorem modCluster_counters (basalt : Nat) (cl : Nat) (f : Cluster → Cluster) (s : State) : (modCluster basalt cl f s).counters = s.counters :=
  rfl
@[simp] theorem modCluster_ctrOwner (basalt : Nat) (cl : Nat) (f : Cluster → Cluster) (s : State) : (modCluster basalt cl f s).ctrOwner = s.ctrOwner :=
  rfl
@[simp] theorem modCluster_queues (basalt : Nat) (cl : Nat) (f : Cluster → Cluster) (s : State) : (modCluster basalt cl f s).queues = s.queues :=
  rfl
@[simp] theorem modCluster_cmds (basalt : Nat) (cl : Nat) (f : Cluster → Cluster) (s : State) : (modCluster basalt cl f s).cmds = s.cmds :=
  rfl
@[simp] theorem modCluster_nextK (basalt : Nat) (cl : Nat) (f : Cluster → Cluster) (s : State) : (modCluster basalt cl f s).nextK = s.nextK :=
  rfl
@[simp] theorem modCluster_nextStart (basalt : Nat) (cl : Nat) (f : Cluster → Cluster) (s : State) : (modCluster basalt cl f s).nextStart = s.nextStart :=
  rfl
@[simp] theorem modCluster_served (basalt : Nat) (cl : Nat) (f : Cluster → Cluster) (s : State) : (modCluster basalt cl f s).served = s.served :=
  rfl
@[simp] theorem modCluster_activeBank (basalt : Nat) (cl : Nat) (f : Cluster → Cluster) (s : State) : (modCluster basalt cl f s).activeBank = s.activeBank :=
  rfl
@[simp] theorem modCluster_banks (basalt : Nat) (cl : Nat) (f : Cluster → Cluster) (s : State) : (modCluster basalt cl f s).banks = s.banks :=
  rfl
@[simp] theorem modCluster_streams (basalt : Nat) (cl : Nat) (f : Cluster → Cluster) (s : State) : (modCluster basalt cl f s).streams = s.streams :=
  rfl
@[simp] theorem modCluster_stalls (basalt : Nat) (cl : Nat) (f : Cluster → Cluster) (s : State) : (modCluster basalt cl f s).stalls = s.stalls :=
  rfl
@[simp] theorem modCluster_cores (basalt : Nat) (cl : Nat) (f : Cluster → Cluster) (s : State) : (modCluster basalt cl f s).cores = s.cores :=
  rfl
@[simp] theorem modCluster_saved (basalt : Nat) (cl : Nat) (f : Cluster → Cluster) (s : State) : (modCluster basalt cl f s).saved = s.saved :=
  rfl
@[simp] theorem modCluster_lines (basalt : Nat) (cl : Nat) (f : Cluster → Cluster) (s : State) : (modCluster basalt cl f s).lines = s.lines :=
  rfl
@[simp] theorem modCluster_held (basalt : Nat) (cl : Nat) (f : Cluster → Cluster) (s : State) : (modCluster basalt cl f s).held = s.held :=
  rfl
@[simp] theorem modCluster_micaCache (basalt : Nat) (cl : Nat) (f : Cluster → Cluster) (s : State) : (modCluster basalt cl f s).micaCache = s.micaCache :=
  rfl
@[simp] theorem modCluster_pref (basalt : Nat) (cl : Nat) (f : Cluster → Cluster) (s : State) : (modCluster basalt cl f s).pref = s.pref :=
  rfl
@[simp] theorem modCluster_ends (basalt : Nat) (cl : Nat) (f : Cluster → Cluster) (s : State) : (modCluster basalt cl f s).ends = s.ends :=
  rfl
@[simp] theorem modCluster_groups (basalt : Nat) (cl : Nat) (f : Cluster → Cluster) (s : State) : (modCluster basalt cl f s).groups = s.groups :=
  rfl
@[simp] theorem modCluster_nodes (basalt : Nat) (cl : Nat) (f : Cluster → Cluster) (s : State) : (modCluster basalt cl f s).nodes = s.nodes :=
  rfl
@[simp] theorem modCluster_insts (basalt : Nat) (cl : Nat) (f : Cluster → Cluster) (s : State) : (modCluster basalt cl f s).insts = s.insts :=
  rfl
@[simp] theorem modCluster_feeds (basalt : Nat) (cl : Nat) (f : Cluster → Cluster) (s : State) : (modCluster basalt cl f s).feeds = s.feeds :=
  rfl
@[simp] theorem modCluster_fab (basalt : Nat) (cl : Nat) (f : Cluster → Cluster) (s : State) : (modCluster basalt cl f s).fab = s.fab := rfl
@[simp] theorem modCluster_fns (basalt : Nat) (cl : Nat) (f : Cluster → Cluster) (s : State) : (modCluster basalt cl f s).fns = s.fns := rfl
@[simp] theorem modCluster_deferred (basalt : Nat) (cl : Nat) (f : Cluster → Cluster) (s : State) : (modCluster basalt cl f s).deferred = s.deferred :=
  rfl
@[simp] theorem modCluster_msix (basalt : Nat) (cl : Nat) (f : Cluster → Cluster) (s : State) : (modCluster basalt cl f s).msix = s.msix :=
  rfl
@[simp] theorem modCluster_bus (basalt : Nat) (cl : Nat) (f : Cluster → Cluster) (s : State) : (modCluster basalt cl f s).bus = s.bus := rfl
@[simp] theorem modCluster_pow (basalt : Nat) (cl : Nat) (f : Cluster → Cluster) (s : State) : (modCluster basalt cl f s).pow = s.pow := rfl
@[simp] theorem modCluster_rst (basalt : Nat) (cl : Nat) (f : Cluster → Cluster) (s : State) : (modCluster basalt cl f s).rst = s.rst := rfl
@[simp] theorem modCluster_activating (basalt : Nat) (cl : Nat) (f : Cluster → Cluster) (s : State) : (modCluster basalt cl f s).activating = s.activating :=
  rfl
@[simp] theorem modCluster_log (basalt : Nat) (cl : Nat) (f : Cluster → Cluster) (s : State) : (modCluster basalt cl f s).log = s.log := rfl
@[simp] theorem modCluster_mctp (basalt : Nat) (cl : Nat) (f : Cluster → Cluster) (s : State) : (modCluster basalt cl f s).mctp = s.mctp :=
  rfl


@[simp] theorem modQueue_pending (q : Nat) (f : Queue → Queue) (s : State) : (modQueue q f s).pending = s.pending := by
  unfold modQueue
  split <;> rfl
@[simp] theorem modQueue_free (q : Nat) (f : Queue → Queue) (s : State) : (modQueue q f s).free = s.free := by
  unfold modQueue
  split <;> rfl
@[simp] theorem modQueue_mem (q : Nat) (f : Queue → Queue) (s : State) : (modQueue q f s).mem = s.mem := by
  unfold modQueue
  split <;> rfl
@[simp] theorem modQueue_tb (q : Nat) (f : Queue → Queue) (s : State) : (modQueue q f s).tb = s.tb := by
  unfold modQueue
  split <;> rfl
@[simp] theorem modQueue_sup (q : Nat) (f : Queue → Queue) (s : State) : (modQueue q f s).sup = s.sup := by
  unfold modQueue
  split <;> rfl
@[simp] theorem modQueue_id (q : Nat) (f : Queue → Queue) (s : State) : (modQueue q f s).id = s.id := by
  unfold modQueue
  split <;> rfl
@[simp] theorem modQueue_mb (q : Nat) (f : Queue → Queue) (s : State) : (modQueue q f s).mb = s.mb := by
  unfold modQueue
  split <;> rfl
@[simp] theorem modQueue_ctxs (q : Nat) (f : Queue → Queue) (s : State) : (modQueue q f s).ctxs = s.ctxs := by
  unfold modQueue
  split <;> rfl
@[simp] theorem modQueue_counters (q : Nat) (f : Queue → Queue) (s : State) : (modQueue q f s).counters = s.counters := by
  unfold modQueue
  split <;> rfl
@[simp] theorem modQueue_ctrOwner (q : Nat) (f : Queue → Queue) (s : State) : (modQueue q f s).ctrOwner = s.ctrOwner := by
  unfold modQueue
  split <;> rfl
@[simp] theorem modQueue_cmds (q : Nat) (f : Queue → Queue) (s : State) : (modQueue q f s).cmds = s.cmds := by
  unfold modQueue
  split <;> rfl
@[simp] theorem modQueue_nextK (q : Nat) (f : Queue → Queue) (s : State) : (modQueue q f s).nextK = s.nextK := by
  unfold modQueue
  split <;> rfl
@[simp] theorem modQueue_nextStart (q : Nat) (f : Queue → Queue) (s : State) : (modQueue q f s).nextStart = s.nextStart := by
  unfold modQueue
  split <;> rfl
@[simp] theorem modQueue_served (q : Nat) (f : Queue → Queue) (s : State) : (modQueue q f s).served = s.served := by
  unfold modQueue
  split <;> rfl
@[simp] theorem modQueue_clusters (q : Nat) (f : Queue → Queue) (s : State) : (modQueue q f s).clusters = s.clusters := by
  unfold modQueue
  split <;> rfl
@[simp] theorem modQueue_activeBank (q : Nat) (f : Queue → Queue) (s : State) : (modQueue q f s).activeBank = s.activeBank := by
  unfold modQueue
  split <;> rfl
@[simp] theorem modQueue_banks (q : Nat) (f : Queue → Queue) (s : State) : (modQueue q f s).banks = s.banks := by
  unfold modQueue
  split <;> rfl
@[simp] theorem modQueue_streams (q : Nat) (f : Queue → Queue) (s : State) : (modQueue q f s).streams = s.streams := by
  unfold modQueue
  split <;> rfl
@[simp] theorem modQueue_stalls (q : Nat) (f : Queue → Queue) (s : State) : (modQueue q f s).stalls = s.stalls := by
  unfold modQueue
  split <;> rfl
@[simp] theorem modQueue_cores (q : Nat) (f : Queue → Queue) (s : State) : (modQueue q f s).cores = s.cores := by
  unfold modQueue
  split <;> rfl
@[simp] theorem modQueue_saved (q : Nat) (f : Queue → Queue) (s : State) : (modQueue q f s).saved = s.saved := by
  unfold modQueue
  split <;> rfl
@[simp] theorem modQueue_lines (q : Nat) (f : Queue → Queue) (s : State) : (modQueue q f s).lines = s.lines := by
  unfold modQueue
  split <;> rfl
@[simp] theorem modQueue_held (q : Nat) (f : Queue → Queue) (s : State) : (modQueue q f s).held = s.held := by
  unfold modQueue
  split <;> rfl
@[simp] theorem modQueue_micaCache (q : Nat) (f : Queue → Queue) (s : State) : (modQueue q f s).micaCache = s.micaCache := by
  unfold modQueue
  split <;> rfl
@[simp] theorem modQueue_pref (q : Nat) (f : Queue → Queue) (s : State) : (modQueue q f s).pref = s.pref := by
  unfold modQueue
  split <;> rfl
@[simp] theorem modQueue_ends (q : Nat) (f : Queue → Queue) (s : State) : (modQueue q f s).ends = s.ends := by
  unfold modQueue
  split <;> rfl
@[simp] theorem modQueue_groups (q : Nat) (f : Queue → Queue) (s : State) : (modQueue q f s).groups = s.groups := by
  unfold modQueue
  split <;> rfl
@[simp] theorem modQueue_nodes (q : Nat) (f : Queue → Queue) (s : State) : (modQueue q f s).nodes = s.nodes := by
  unfold modQueue
  split <;> rfl
@[simp] theorem modQueue_insts (q : Nat) (f : Queue → Queue) (s : State) : (modQueue q f s).insts = s.insts := by
  unfold modQueue
  split <;> rfl
@[simp] theorem modQueue_feeds (q : Nat) (f : Queue → Queue) (s : State) : (modQueue q f s).feeds = s.feeds := by
  unfold modQueue
  split <;> rfl
@[simp] theorem modQueue_fab (q : Nat) (f : Queue → Queue) (s : State) : (modQueue q f s).fab = s.fab := by
  unfold modQueue
  split <;> rfl
@[simp] theorem modQueue_fns (q : Nat) (f : Queue → Queue) (s : State) : (modQueue q f s).fns = s.fns := by
  unfold modQueue
  split <;> rfl
@[simp] theorem modQueue_deferred (q : Nat) (f : Queue → Queue) (s : State) : (modQueue q f s).deferred = s.deferred := by
  unfold modQueue
  split <;> rfl
@[simp] theorem modQueue_msix (q : Nat) (f : Queue → Queue) (s : State) : (modQueue q f s).msix = s.msix := by
  unfold modQueue
  split <;> rfl
@[simp] theorem modQueue_bus (q : Nat) (f : Queue → Queue) (s : State) : (modQueue q f s).bus = s.bus := by
  unfold modQueue
  split <;> rfl
@[simp] theorem modQueue_pow (q : Nat) (f : Queue → Queue) (s : State) : (modQueue q f s).pow = s.pow := by
  unfold modQueue
  split <;> rfl
@[simp] theorem modQueue_rst (q : Nat) (f : Queue → Queue) (s : State) : (modQueue q f s).rst = s.rst := by
  unfold modQueue
  split <;> rfl
@[simp] theorem modQueue_activating (q : Nat) (f : Queue → Queue) (s : State) : (modQueue q f s).activating = s.activating := by
  unfold modQueue
  split <;> rfl
@[simp] theorem modQueue_log (q : Nat) (f : Queue → Queue) (s : State) : (modQueue q f s).log = s.log := by
  unfold modQueue
  split <;> rfl
@[simp] theorem modQueue_mctp (q : Nat) (f : Queue → Queue) (s : State) : (modQueue q f s).mctp = s.mctp := by
  unfold modQueue
  split <;> rfl

@[simp] theorem modEnd_pending (e : Nat) (f : StageEnd → StageEnd) (s : State) : (modEnd e f s).pending = s.pending := by
  unfold modEnd
  split <;> rfl
@[simp] theorem modEnd_free (e : Nat) (f : StageEnd → StageEnd) (s : State) : (modEnd e f s).free = s.free := by
  unfold modEnd
  split <;> rfl
@[simp] theorem modEnd_mem (e : Nat) (f : StageEnd → StageEnd) (s : State) : (modEnd e f s).mem = s.mem := by
  unfold modEnd
  split <;> rfl
@[simp] theorem modEnd_tb (e : Nat) (f : StageEnd → StageEnd) (s : State) : (modEnd e f s).tb = s.tb := by
  unfold modEnd
  split <;> rfl
@[simp] theorem modEnd_sup (e : Nat) (f : StageEnd → StageEnd) (s : State) : (modEnd e f s).sup = s.sup := by
  unfold modEnd
  split <;> rfl
@[simp] theorem modEnd_id (e : Nat) (f : StageEnd → StageEnd) (s : State) : (modEnd e f s).id = s.id := by
  unfold modEnd
  split <;> rfl
@[simp] theorem modEnd_mb (e : Nat) (f : StageEnd → StageEnd) (s : State) : (modEnd e f s).mb = s.mb := by
  unfold modEnd
  split <;> rfl
@[simp] theorem modEnd_ctxs (e : Nat) (f : StageEnd → StageEnd) (s : State) : (modEnd e f s).ctxs = s.ctxs := by
  unfold modEnd
  split <;> rfl
@[simp] theorem modEnd_counters (e : Nat) (f : StageEnd → StageEnd) (s : State) : (modEnd e f s).counters = s.counters := by
  unfold modEnd
  split <;> rfl
@[simp] theorem modEnd_ctrOwner (e : Nat) (f : StageEnd → StageEnd) (s : State) : (modEnd e f s).ctrOwner = s.ctrOwner := by
  unfold modEnd
  split <;> rfl
@[simp] theorem modEnd_queues (e : Nat) (f : StageEnd → StageEnd) (s : State) : (modEnd e f s).queues = s.queues := by
  unfold modEnd
  split <;> rfl
@[simp] theorem modEnd_cmds (e : Nat) (f : StageEnd → StageEnd) (s : State) : (modEnd e f s).cmds = s.cmds := by
  unfold modEnd
  split <;> rfl
@[simp] theorem modEnd_nextK (e : Nat) (f : StageEnd → StageEnd) (s : State) : (modEnd e f s).nextK = s.nextK := by
  unfold modEnd
  split <;> rfl
@[simp] theorem modEnd_nextStart (e : Nat) (f : StageEnd → StageEnd) (s : State) : (modEnd e f s).nextStart = s.nextStart := by
  unfold modEnd
  split <;> rfl
@[simp] theorem modEnd_served (e : Nat) (f : StageEnd → StageEnd) (s : State) : (modEnd e f s).served = s.served := by
  unfold modEnd
  split <;> rfl
@[simp] theorem modEnd_clusters (e : Nat) (f : StageEnd → StageEnd) (s : State) : (modEnd e f s).clusters = s.clusters := by
  unfold modEnd
  split <;> rfl
@[simp] theorem modEnd_activeBank (e : Nat) (f : StageEnd → StageEnd) (s : State) : (modEnd e f s).activeBank = s.activeBank := by
  unfold modEnd
  split <;> rfl
@[simp] theorem modEnd_banks (e : Nat) (f : StageEnd → StageEnd) (s : State) : (modEnd e f s).banks = s.banks := by
  unfold modEnd
  split <;> rfl
@[simp] theorem modEnd_streams (e : Nat) (f : StageEnd → StageEnd) (s : State) : (modEnd e f s).streams = s.streams := by
  unfold modEnd
  split <;> rfl
@[simp] theorem modEnd_stalls (e : Nat) (f : StageEnd → StageEnd) (s : State) : (modEnd e f s).stalls = s.stalls := by
  unfold modEnd
  split <;> rfl
@[simp] theorem modEnd_cores (e : Nat) (f : StageEnd → StageEnd) (s : State) : (modEnd e f s).cores = s.cores := by
  unfold modEnd
  split <;> rfl
@[simp] theorem modEnd_saved (e : Nat) (f : StageEnd → StageEnd) (s : State) : (modEnd e f s).saved = s.saved := by
  unfold modEnd
  split <;> rfl
@[simp] theorem modEnd_lines (e : Nat) (f : StageEnd → StageEnd) (s : State) : (modEnd e f s).lines = s.lines := by
  unfold modEnd
  split <;> rfl
@[simp] theorem modEnd_held (e : Nat) (f : StageEnd → StageEnd) (s : State) : (modEnd e f s).held = s.held := by
  unfold modEnd
  split <;> rfl
@[simp] theorem modEnd_micaCache (e : Nat) (f : StageEnd → StageEnd) (s : State) : (modEnd e f s).micaCache = s.micaCache := by
  unfold modEnd
  split <;> rfl
@[simp] theorem modEnd_pref (e : Nat) (f : StageEnd → StageEnd) (s : State) : (modEnd e f s).pref = s.pref := by
  unfold modEnd
  split <;> rfl
@[simp] theorem modEnd_groups (e : Nat) (f : StageEnd → StageEnd) (s : State) : (modEnd e f s).groups = s.groups := by
  unfold modEnd
  split <;> rfl
@[simp] theorem modEnd_nodes (e : Nat) (f : StageEnd → StageEnd) (s : State) : (modEnd e f s).nodes = s.nodes := by
  unfold modEnd
  split <;> rfl
@[simp] theorem modEnd_insts (e : Nat) (f : StageEnd → StageEnd) (s : State) : (modEnd e f s).insts = s.insts := by
  unfold modEnd
  split <;> rfl
@[simp] theorem modEnd_feeds (e : Nat) (f : StageEnd → StageEnd) (s : State) : (modEnd e f s).feeds = s.feeds := by
  unfold modEnd
  split <;> rfl
@[simp] theorem modEnd_fab (e : Nat) (f : StageEnd → StageEnd) (s : State) : (modEnd e f s).fab = s.fab := by
  unfold modEnd
  split <;> rfl
@[simp] theorem modEnd_fns (e : Nat) (f : StageEnd → StageEnd) (s : State) : (modEnd e f s).fns = s.fns := by
  unfold modEnd
  split <;> rfl
@[simp] theorem modEnd_deferred (e : Nat) (f : StageEnd → StageEnd) (s : State) : (modEnd e f s).deferred = s.deferred := by
  unfold modEnd
  split <;> rfl
@[simp] theorem modEnd_msix (e : Nat) (f : StageEnd → StageEnd) (s : State) : (modEnd e f s).msix = s.msix := by
  unfold modEnd
  split <;> rfl
@[simp] theorem modEnd_bus (e : Nat) (f : StageEnd → StageEnd) (s : State) : (modEnd e f s).bus = s.bus := by
  unfold modEnd
  split <;> rfl
@[simp] theorem modEnd_pow (e : Nat) (f : StageEnd → StageEnd) (s : State) : (modEnd e f s).pow = s.pow := by
  unfold modEnd
  split <;> rfl
@[simp] theorem modEnd_rst (e : Nat) (f : StageEnd → StageEnd) (s : State) : (modEnd e f s).rst = s.rst := by
  unfold modEnd
  split <;> rfl
@[simp] theorem modEnd_activating (e : Nat) (f : StageEnd → StageEnd) (s : State) : (modEnd e f s).activating = s.activating := by
  unfold modEnd
  split <;> rfl
@[simp] theorem modEnd_log (e : Nat) (f : StageEnd → StageEnd) (s : State) : (modEnd e f s).log = s.log := by
  unfold modEnd
  split <;> rfl
@[simp] theorem modEnd_mctp (e : Nat) (f : StageEnd → StageEnd) (s : State) : (modEnd e f s).mctp = s.mctp := by
  unfold modEnd
  split <;> rfl

@[simp] theorem modCore_pending (key : Nat) (f : Core → Core) (s : State) : (modCore key f s).pending = s.pending := by
  unfold modCore
  split <;> rfl
@[simp] theorem modCore_free (key : Nat) (f : Core → Core) (s : State) : (modCore key f s).free = s.free := by
  unfold modCore
  split <;> rfl
@[simp] theorem modCore_mem (key : Nat) (f : Core → Core) (s : State) : (modCore key f s).mem = s.mem := by
  unfold modCore
  split <;> rfl
@[simp] theorem modCore_tb (key : Nat) (f : Core → Core) (s : State) : (modCore key f s).tb = s.tb := by
  unfold modCore
  split <;> rfl
@[simp] theorem modCore_sup (key : Nat) (f : Core → Core) (s : State) : (modCore key f s).sup = s.sup := by
  unfold modCore
  split <;> rfl
@[simp] theorem modCore_id (key : Nat) (f : Core → Core) (s : State) : (modCore key f s).id = s.id := by
  unfold modCore
  split <;> rfl
@[simp] theorem modCore_mb (key : Nat) (f : Core → Core) (s : State) : (modCore key f s).mb = s.mb := by
  unfold modCore
  split <;> rfl
@[simp] theorem modCore_ctxs (key : Nat) (f : Core → Core) (s : State) : (modCore key f s).ctxs = s.ctxs := by
  unfold modCore
  split <;> rfl
@[simp] theorem modCore_counters (key : Nat) (f : Core → Core) (s : State) : (modCore key f s).counters = s.counters := by
  unfold modCore
  split <;> rfl
@[simp] theorem modCore_ctrOwner (key : Nat) (f : Core → Core) (s : State) : (modCore key f s).ctrOwner = s.ctrOwner := by
  unfold modCore
  split <;> rfl
@[simp] theorem modCore_queues (key : Nat) (f : Core → Core) (s : State) : (modCore key f s).queues = s.queues := by
  unfold modCore
  split <;> rfl
@[simp] theorem modCore_cmds (key : Nat) (f : Core → Core) (s : State) : (modCore key f s).cmds = s.cmds := by
  unfold modCore
  split <;> rfl
@[simp] theorem modCore_nextK (key : Nat) (f : Core → Core) (s : State) : (modCore key f s).nextK = s.nextK := by
  unfold modCore
  split <;> rfl
@[simp] theorem modCore_nextStart (key : Nat) (f : Core → Core) (s : State) : (modCore key f s).nextStart = s.nextStart := by
  unfold modCore
  split <;> rfl
@[simp] theorem modCore_served (key : Nat) (f : Core → Core) (s : State) : (modCore key f s).served = s.served := by
  unfold modCore
  split <;> rfl
@[simp] theorem modCore_clusters (key : Nat) (f : Core → Core) (s : State) : (modCore key f s).clusters = s.clusters := by
  unfold modCore
  split <;> rfl
@[simp] theorem modCore_activeBank (key : Nat) (f : Core → Core) (s : State) : (modCore key f s).activeBank = s.activeBank := by
  unfold modCore
  split <;> rfl
@[simp] theorem modCore_banks (key : Nat) (f : Core → Core) (s : State) : (modCore key f s).banks = s.banks := by
  unfold modCore
  split <;> rfl
@[simp] theorem modCore_streams (key : Nat) (f : Core → Core) (s : State) : (modCore key f s).streams = s.streams := by
  unfold modCore
  split <;> rfl
@[simp] theorem modCore_stalls (key : Nat) (f : Core → Core) (s : State) : (modCore key f s).stalls = s.stalls := by
  unfold modCore
  split <;> rfl
@[simp] theorem modCore_saved (key : Nat) (f : Core → Core) (s : State) : (modCore key f s).saved = s.saved := by
  unfold modCore
  split <;> rfl
@[simp] theorem modCore_lines (key : Nat) (f : Core → Core) (s : State) : (modCore key f s).lines = s.lines := by
  unfold modCore
  split <;> rfl
@[simp] theorem modCore_held (key : Nat) (f : Core → Core) (s : State) : (modCore key f s).held = s.held := by
  unfold modCore
  split <;> rfl
@[simp] theorem modCore_micaCache (key : Nat) (f : Core → Core) (s : State) : (modCore key f s).micaCache = s.micaCache := by
  unfold modCore
  split <;> rfl
@[simp] theorem modCore_pref (key : Nat) (f : Core → Core) (s : State) : (modCore key f s).pref = s.pref := by
  unfold modCore
  split <;> rfl
@[simp] theorem modCore_ends (key : Nat) (f : Core → Core) (s : State) : (modCore key f s).ends = s.ends := by
  unfold modCore
  split <;> rfl
@[simp] theorem modCore_groups (key : Nat) (f : Core → Core) (s : State) : (modCore key f s).groups = s.groups := by
  unfold modCore
  split <;> rfl
@[simp] theorem modCore_nodes (key : Nat) (f : Core → Core) (s : State) : (modCore key f s).nodes = s.nodes := by
  unfold modCore
  split <;> rfl
@[simp] theorem modCore_insts (key : Nat) (f : Core → Core) (s : State) : (modCore key f s).insts = s.insts := by
  unfold modCore
  split <;> rfl
@[simp] theorem modCore_feeds (key : Nat) (f : Core → Core) (s : State) : (modCore key f s).feeds = s.feeds := by
  unfold modCore
  split <;> rfl
@[simp] theorem modCore_fab (key : Nat) (f : Core → Core) (s : State) : (modCore key f s).fab = s.fab := by
  unfold modCore
  split <;> rfl
@[simp] theorem modCore_fns (key : Nat) (f : Core → Core) (s : State) : (modCore key f s).fns = s.fns := by
  unfold modCore
  split <;> rfl
@[simp] theorem modCore_deferred (key : Nat) (f : Core → Core) (s : State) : (modCore key f s).deferred = s.deferred := by
  unfold modCore
  split <;> rfl
@[simp] theorem modCore_msix (key : Nat) (f : Core → Core) (s : State) : (modCore key f s).msix = s.msix := by
  unfold modCore
  split <;> rfl
@[simp] theorem modCore_bus (key : Nat) (f : Core → Core) (s : State) : (modCore key f s).bus = s.bus := by
  unfold modCore
  split <;> rfl
@[simp] theorem modCore_pow (key : Nat) (f : Core → Core) (s : State) : (modCore key f s).pow = s.pow := by
  unfold modCore
  split <;> rfl
@[simp] theorem modCore_rst (key : Nat) (f : Core → Core) (s : State) : (modCore key f s).rst = s.rst := by
  unfold modCore
  split <;> rfl
@[simp] theorem modCore_activating (key : Nat) (f : Core → Core) (s : State) : (modCore key f s).activating = s.activating := by
  unfold modCore
  split <;> rfl
@[simp] theorem modCore_log (key : Nat) (f : Core → Core) (s : State) : (modCore key f s).log = s.log := by
  unfold modCore
  split <;> rfl
@[simp] theorem modCore_mctp (key : Nat) (f : Core → Core) (s : State) : (modCore key f s).mctp = s.mctp := by
  unfold modCore
  split <;> rfl

@[simp] theorem raiseMsix_pending (fn v : Nat) (s : State) : (raiseMsix fn v s).pending = s.pending := by
  unfold raiseMsix
  dsimp only
  split <;> rfl
@[simp] theorem raiseMsix_free (fn v : Nat) (s : State) : (raiseMsix fn v s).free = s.free := by
  unfold raiseMsix
  dsimp only
  split <;> rfl
@[simp] theorem raiseMsix_mem (fn v : Nat) (s : State) : (raiseMsix fn v s).mem = s.mem := by
  unfold raiseMsix
  dsimp only
  split <;> rfl
@[simp] theorem raiseMsix_tb (fn v : Nat) (s : State) : (raiseMsix fn v s).tb = s.tb := by
  unfold raiseMsix
  dsimp only
  split <;> rfl
@[simp] theorem raiseMsix_sup (fn v : Nat) (s : State) : (raiseMsix fn v s).sup = s.sup := by
  unfold raiseMsix
  dsimp only
  split <;> rfl
@[simp] theorem raiseMsix_id (fn v : Nat) (s : State) : (raiseMsix fn v s).id = s.id := by
  unfold raiseMsix
  dsimp only
  split <;> rfl
@[simp] theorem raiseMsix_mb (fn v : Nat) (s : State) : (raiseMsix fn v s).mb = s.mb := by
  unfold raiseMsix
  dsimp only
  split <;> rfl
@[simp] theorem raiseMsix_ctxs (fn v : Nat) (s : State) : (raiseMsix fn v s).ctxs = s.ctxs := by
  unfold raiseMsix
  dsimp only
  split <;> rfl
@[simp] theorem raiseMsix_counters (fn v : Nat) (s : State) : (raiseMsix fn v s).counters = s.counters := by
  unfold raiseMsix
  dsimp only
  split <;> rfl
@[simp] theorem raiseMsix_ctrOwner (fn v : Nat) (s : State) : (raiseMsix fn v s).ctrOwner = s.ctrOwner := by
  unfold raiseMsix
  dsimp only
  split <;> rfl
@[simp] theorem raiseMsix_queues (fn v : Nat) (s : State) : (raiseMsix fn v s).queues = s.queues := by
  unfold raiseMsix
  dsimp only
  split <;> rfl
@[simp] theorem raiseMsix_cmds (fn v : Nat) (s : State) : (raiseMsix fn v s).cmds = s.cmds := by
  unfold raiseMsix
  dsimp only
  split <;> rfl
@[simp] theorem raiseMsix_nextK (fn v : Nat) (s : State) : (raiseMsix fn v s).nextK = s.nextK := by
  unfold raiseMsix
  dsimp only
  split <;> rfl
@[simp] theorem raiseMsix_nextStart (fn v : Nat) (s : State) : (raiseMsix fn v s).nextStart = s.nextStart := by
  unfold raiseMsix
  dsimp only
  split <;> rfl
@[simp] theorem raiseMsix_served (fn v : Nat) (s : State) : (raiseMsix fn v s).served = s.served := by
  unfold raiseMsix
  dsimp only
  split <;> rfl
@[simp] theorem raiseMsix_clusters (fn v : Nat) (s : State) : (raiseMsix fn v s).clusters = s.clusters := by
  unfold raiseMsix
  dsimp only
  split <;> rfl
@[simp] theorem raiseMsix_activeBank (fn v : Nat) (s : State) : (raiseMsix fn v s).activeBank = s.activeBank := by
  unfold raiseMsix
  dsimp only
  split <;> rfl
@[simp] theorem raiseMsix_banks (fn v : Nat) (s : State) : (raiseMsix fn v s).banks = s.banks := by
  unfold raiseMsix
  dsimp only
  split <;> rfl
@[simp] theorem raiseMsix_streams (fn v : Nat) (s : State) : (raiseMsix fn v s).streams = s.streams := by
  unfold raiseMsix
  dsimp only
  split <;> rfl
@[simp] theorem raiseMsix_stalls (fn v : Nat) (s : State) : (raiseMsix fn v s).stalls = s.stalls := by
  unfold raiseMsix
  dsimp only
  split <;> rfl
@[simp] theorem raiseMsix_cores (fn v : Nat) (s : State) : (raiseMsix fn v s).cores = s.cores := by
  unfold raiseMsix
  dsimp only
  split <;> rfl
@[simp] theorem raiseMsix_saved (fn v : Nat) (s : State) : (raiseMsix fn v s).saved = s.saved := by
  unfold raiseMsix
  dsimp only
  split <;> rfl
@[simp] theorem raiseMsix_lines (fn v : Nat) (s : State) : (raiseMsix fn v s).lines = s.lines := by
  unfold raiseMsix
  dsimp only
  split <;> rfl
@[simp] theorem raiseMsix_held (fn v : Nat) (s : State) : (raiseMsix fn v s).held = s.held := by
  unfold raiseMsix
  dsimp only
  split <;> rfl
@[simp] theorem raiseMsix_micaCache (fn v : Nat) (s : State) : (raiseMsix fn v s).micaCache = s.micaCache := by
  unfold raiseMsix
  dsimp only
  split <;> rfl
@[simp] theorem raiseMsix_pref (fn v : Nat) (s : State) : (raiseMsix fn v s).pref = s.pref := by
  unfold raiseMsix
  dsimp only
  split <;> rfl
@[simp] theorem raiseMsix_ends (fn v : Nat) (s : State) : (raiseMsix fn v s).ends = s.ends := by
  unfold raiseMsix
  dsimp only
  split <;> rfl
@[simp] theorem raiseMsix_groups (fn v : Nat) (s : State) : (raiseMsix fn v s).groups = s.groups := by
  unfold raiseMsix
  dsimp only
  split <;> rfl
@[simp] theorem raiseMsix_nodes (fn v : Nat) (s : State) : (raiseMsix fn v s).nodes = s.nodes := by
  unfold raiseMsix
  dsimp only
  split <;> rfl
@[simp] theorem raiseMsix_insts (fn v : Nat) (s : State) : (raiseMsix fn v s).insts = s.insts := by
  unfold raiseMsix
  dsimp only
  split <;> rfl
@[simp] theorem raiseMsix_feeds (fn v : Nat) (s : State) : (raiseMsix fn v s).feeds = s.feeds := by
  unfold raiseMsix
  dsimp only
  split <;> rfl
@[simp] theorem raiseMsix_fab (fn v : Nat) (s : State) : (raiseMsix fn v s).fab = s.fab := by
  unfold raiseMsix
  dsimp only
  split <;> rfl
@[simp] theorem raiseMsix_deferred (fn v : Nat) (s : State) : (raiseMsix fn v s).deferred = s.deferred := by
  unfold raiseMsix
  dsimp only
  split <;> rfl
@[simp] theorem raiseMsix_bus (fn v : Nat) (s : State) : (raiseMsix fn v s).bus = s.bus := by
  unfold raiseMsix
  dsimp only
  split <;> rfl
@[simp] theorem raiseMsix_pow (fn v : Nat) (s : State) : (raiseMsix fn v s).pow = s.pow := by
  unfold raiseMsix
  dsimp only
  split <;> rfl
@[simp] theorem raiseMsix_rst (fn v : Nat) (s : State) : (raiseMsix fn v s).rst = s.rst := by
  unfold raiseMsix
  dsimp only
  split <;> rfl
@[simp] theorem raiseMsix_activating (fn v : Nat) (s : State) : (raiseMsix fn v s).activating = s.activating := by
  unfold raiseMsix
  dsimp only
  split <;> rfl
@[simp] theorem raiseMsix_log (fn v : Nat) (s : State) : (raiseMsix fn v s).log = s.log := by
  unfold raiseMsix
  dsimp only
  split <;> rfl
@[simp] theorem raiseMsix_mctp (fn v : Nat) (s : State) : (raiseMsix fn v s).mctp = s.mctp := by
  unfold raiseMsix
  dsimp only
  split <;> rfl


/-! ### What the updates change -/

/-- A changed context reads as changed. -/
theorem getCtx_modCtx_self {s : State} {c : Nat} {f : Ctx → Ctx} :
    getCtx (modCtx c f s) c = f (getCtx s c) := Tbl.get_put_self

/-- Every other context reads as before. -/
theorem getCtx_modCtx_ne {s : State} {c d : Nat} {f : Ctx → Ctx} (h : d ≠ c) : getCtx (modCtx c f s) d = getCtx s d := Tbl.get_put_ne h

/-- A set counter reads as set. -/
theorem ctrGet_ctrPut_self {s : State} {n : Nat} {v : W64} : ctrGet (ctrPut n v s) n = v :=
  Tbl.get_put_self

/-- Every other counter reads as before. -/
theorem ctrGet_ctrPut_ne {s : State} {n m : Nat} {v : W64} (h : m ≠ n) : ctrGet (ctrPut n v s) m = ctrGet s m := Tbl.get_put_ne h

/-- Changing a queue that is absent changes nothing; changing one that is there is found changed. -/
theorem findQueue_modQueue_self {s : State} {q : Nat} {f : Queue → Queue} : findQueue (modQueue q f s) q = (findQueue s q).map f := by
  unfold modQueue
  split
  · rename_i h
    rw [h]
    rfl
  · rename_i x h
    rw [h]
    exact Tbl.find_ins_self

/-- Every other queue is found as before. -/
theorem findQueue_modQueue_ne {s : State} {q r : Nat} {f : Queue → Queue} (h : r ≠ q) : findQueue (modQueue q f s) r = findQueue s r := by
  unfold modQueue
  split
  · rfl
  · exact Tbl.find_ins_ne h

/-- A change of command k leaves the others as they are. -/
theorem findCmd_modCmd_ne {s : State} {k j : Nat} {f : Cmd → Cmd} (hf : ∀ c, (f c).k = c.k) (h : j ≠ k) :
    findCmd (modCmd k f s) j = findCmd s j := by
  unfold findCmd modCmd
  simp only
  induction s.cmds with
  | nil => rfl
  | cons c l ih =>
    simp only [List.map_cons, List.find?_cons]
    by_cases hc : c.k = k
    · have hb : (k == j) = false := by simpa using Ne.symm h
      rw [if_pos hc, hf, hc, hb]
      exact ih
    · simp only [if_neg hc, ih]

/-- A changed command is found changed. -/
theorem findCmd_modCmd_self {s : State} {k : Nat} {f : Cmd → Cmd} (hf : ∀ c, (f c).k = c.k) :
    findCmd (modCmd k f s) k = (findCmd s k).map f := by
  unfold findCmd modCmd
  simp only
  induction s.cmds with
  | nil => rfl
  | cons c l ih =>
    simp only [List.map_cons, List.find?_cons]
    by_cases hc : c.k = k
    · simp [hc, hf]
    · have hb : (c.k == k) = false := by simpa using hc
      rw [if_neg hc, hb]
      exact ih

end Sys2Proof.Machine
end

