-- ==== Sys2Proof/Laws/Frames.lean ====
section
/-!
SUPPORT. What the shared operations can change at all: packets leave by the fabric's tables alone, events by the functions'
rings and interrupts, log entries by the error log; a counter's update reaches counters, stage-queue ends and the fabric. Then
what a packet's arrival and an engine's work come to.
-/
namespace Sys2Proof.Machine

/-- Nothing but the fabric's tables and ports has changed. -/
def FabOnly (s t : State) : Prop := ∃ f, t = { s with fab := f }

/-- Nothing but the functions' mailboxes and the interrupts sent has changed. -/
def HostOnly (s t : State) : Prop := ∃ g m, t = { s with fns := g, msix := m }

/-- Nothing but the fabric, the functions' mailboxes, the interrupts sent and the error log has changed. -/
def Reports (s t : State) : Prop := ∃ f g m l, t = { s with fab := f, fns := g, msix := m, log := l }

/-- R60: commands changed by updates of counters: only whether a wait of theirs is released, and the value at its release. -/
def Releases (w : Cmd → Cmd) : Prop := ∀ x, ∃ b r, w x = { x with waitMet := b, released := r }

theorem Releases.id : Releases fun x => x := fun x => ⟨x.waitMet, x.released, rfl⟩

theorem Releases.comp {v w : Cmd → Cmd} (hv : Releases v) (hw : Releases w) : Releases (v ∘ w) := by
  intro x
  obtain ⟨b, r, h⟩ := hw x
  obtain ⟨b', r', h'⟩ := hv (w x)
  exact ⟨b', r', by rw [Function.comp, h', h]⟩

/-- Nothing but counters, stage-queue ends, the fabric and released waits has changed. -/
def CtrOnly (s t : State) : Prop := ∃ c e f w, Releases w ∧ t = { s with counters := c, ends := e, fab := f, cmds := s.cmds.map w }

theorem FabOnly.refl (s : State) : FabOnly s s := ⟨s.fab, rfl⟩
theorem Reports.refl (s : State) : Reports s s := ⟨s.fab, s.fns, s.msix, s.log, rfl⟩
theorem HostOnly.refl (s : State) : HostOnly s s := ⟨s.fns, s.msix, rfl⟩
theorem CtrOnly.refl (s : State) : CtrOnly s s := ⟨s.counters, s.ends, s.fab, fun x => x, Releases.id, by simp⟩
theorem CtrOnly.of {s t : State} (h : ∃ c e f, t = { s with counters := c, ends := e, fab := f }) : CtrOnly s t := by
  obtain ⟨c, e, f, rfl⟩ := h
  exact ⟨c, e, f, fun x => x, Releases.id, by simp⟩

theorem releaseWaiter_releases (s : State) (n : Nat) (old v : W64) : Releases (releaseWaiter s n old v) := by
  intro x
  unfold releaseWaiter
  repeat' split
  all_goals exact ⟨_, _, rfl⟩

theorem ctrUpdate_ctr (n : Nat) (v : W64) (s : State) : CtrOnly s (ctrUpdate n v s) :=
  ⟨_, _, _, _, releaseWaiter_releases s n (ctrGet s n) v, rfl⟩

theorem FabOnly.trans {a b c : State} (h : FabOnly a b) (k : FabOnly b c) : FabOnly a c := by
  obtain ⟨f, rfl⟩ := h
  obtain ⟨g, rfl⟩ := k
  exact ⟨g, rfl⟩

theorem HostOnly.trans {a b c : State} (h : HostOnly a b) (k : HostOnly b c) : HostOnly a c := by
  obtain ⟨f, m, rfl⟩ := h
  obtain ⟨g, n, rfl⟩ := k
  exact ⟨g, n, rfl⟩

theorem HostOnly.reports {a b : State} (h : HostOnly a b) : Reports a b := by
  obtain ⟨f, m, rfl⟩ := h
  exact ⟨a.fab, f, m, a.log, rfl⟩

theorem Reports.trans {a b c : State} (h : Reports a b) (k : Reports b c) : Reports a c := by
  obtain ⟨f, g, m, l, rfl⟩ := h
  obtain ⟨f', g', m', l', rfl⟩ := k
  exact ⟨f', g', m', l', rfl⟩

theorem CtrOnly.trans {a b c : State} (h : CtrOnly a b) (k : CtrOnly b c) : CtrOnly a c := by
  obtain ⟨f, g, m, w, hw, rfl⟩ := h
  obtain ⟨f', g', m', v, hv, rfl⟩ := k
  exact ⟨f', g', m', v ∘ w, hv.comp hw, by simp⟩

theorem FabOnly.reports {a b : State} (h : FabOnly a b) : Reports a b := by
  obtain ⟨f, rfl⟩ := h
  exact ⟨f, a.fns, a.msix, a.log, rfl⟩

theorem FabOnly.counters_eq {a b : State} (h : FabOnly a b) : b.counters = a.counters := by
  obtain ⟨f, rfl⟩ := h
  rfl

theorem FabOnly.ctr {a b : State} (h : FabOnly a b) : CtrOnly a b := by
  obtain ⟨f, rfl⟩ := h
  exact CtrOnly.of ⟨a.counters, a.ends, f, rfl⟩

/-- A fold of steps that each relate a state to the next. -/
theorem foldl_rel {α : Type} {R : State → State → Prop} (r : ∀ s, R s s) (t : ∀ a b c, R a b → R b c → R a c)
    {f : State → α → State} (h : ∀ s a, R s (f s a)) (l : List α) (s : State) : R s (l.foldl f s) := by
  induction l generalizing s with
  | nil => exact r s
  | cons x l ih => exact t _ _ _ (h s x) (ih _)

theorem foldl_fab {α : Type} {f : State → α → State} (h : ∀ s a, FabOnly s (f s a)) (l : List α) (s : State) :
    FabOnly s (l.foldl f s) := foldl_rel FabOnly.refl (fun _ _ _ => FabOnly.trans) h l s

theorem foldl_host {α : Type} {f : State → α → State} (h : ∀ s a, HostOnly s (f s a)) (l : List α) (s : State) :
    HostOnly s (l.foldl f s) := foldl_rel HostOnly.refl (fun _ _ _ => HostOnly.trans) h l s

/-! ### Packets -/

theorem modPort_fab (p : Nat) (f : Port → Port) (s : State) : FabOnly s (modPort p f s) := ⟨_, rfl⟩
theorem countDown_fab (p n : Nat) (s : State) : FabOnly s (countDown p n s) := ⟨_, rfl⟩
theorem countUnroutable_fab (p : Nat) (s : State) : FabOnly s (countUnroutable p s) := ⟨_, rfl⟩
theorem sendSelf_fab (p : Packet) (s : State) : FabOnly s (sendSelf p s) := ⟨_, rfl⟩

theorem sendOn_fab (port : Nat) (p : Packet) (s : State) : FabOnly s (sendOn port p s) := by
  unfold sendOn
  dsimp only
  split
  · exact ⟨_, rfl⟩
  · exact countDown_fab _ _ _

theorem routeOut_fab (p : Packet) (dl : Option Nat) (s : State) : FabOnly s (routeOut p dl s) := by
  unfold routeOut
  dsimp only
  generalize (if packetWpActive p = true then BitVec.extractLsb' 0 12 p.wp else dstAddr p.dst) = target
  split
  · exact countUnroutable_fab _ _
  · split
    · split
      · exact sendSelf_fab _ _
      · exact sendOn_fab _ _ _
      · exact sendOn_fab _ _ _
      · exact countUnroutable_fab _ _
    · exact sendOn_fab _ _ _

theorem injectNow_fab (p : Packet) (s : State) : FabOnly s (injectNow p s) := by
  unfold injectNow
  dsimp only
  split
  · exact routeOut_fab _ _ _
  · split <;> exact routeOut_fab _ _ _

theorem sendPacket_fab (p : Packet) (s : State) : FabOnly s (sendPacket p s) := by
  unfold sendPacket
  dsimp only
  split
  · exact ⟨_, rfl⟩
  · exact injectNow_fab _ _

theorem releaseHolds_fab (s : State) : FabOnly s (releaseHolds s) := by
  refine FabOnly.trans (b := { s with fab := _ }) ⟨_, rfl⟩ (foldl_fab (fun s h => foldl_fab (fun s p => injectNow_fab p s) _ s) _ _)

theorem setRoutes_fab (r : Tbl RaEntry) (s : State) : FabOnly s (setRoutes r s) := ⟨_, rfl⟩

theorem request_fab (pt ctx : Nat) (k : Option Nat) (dst : BitVec 16) (rctx : BitVec 8) (addr len va owner : Nat) (pl : Bytes)
    (pf : Bool) (gen : BitVec 16) (s : State) : FabOnly s (request pt ctx k dst rctx addr len va owner pl pf gen s) :=
  FabOnly.trans (b := { s with fab := _ }) ⟨_, rfl⟩ (sendPacket_fab _ _)

theorem respond_fab (p : Packet) (pt : Nat) (pl : Bytes) (s : State) : FabOnly s (respond p pt pl s) := sendPacket_fab _ _
theorem nack_fab (p : Packet) (st : Nat) (s : State) : FabOnly s (nack p st s) := sendPacket_fab _ _

theorem mgmtSend_fab (dst : BitVec 12) (code : Nat) (body : Bytes) (s : State) : FabOnly s (mgmtSend dst code body s) :=
  FabOnly.trans (b := { s with fab := _ }) ⟨_, rfl⟩ (sendPacket_fab _ _)

theorem mgmtSendOn_fab (port code : Nat) (body : Bytes) (s : State) : FabOnly s (mgmtSendOn port code body s) :=
  FabOnly.trans (b := { s with fab := _ }) ⟨_, rfl⟩ (sendOn_fab _ _ _)

theorem dropReqs_fab (k : Nat) (s : State) : FabOnly s (dropReqs k s) :=
  FabOnly.trans (b := { s with fab := _ }) ⟨_, rfl⟩ (releaseHolds_fab _)

theorem askRemote_fab (ctx : Nat) (k : Option Nat) (owner va n : Nat) (s : State) : FabOnly s (askRemote ctx k owner va n s) := by
  unfold askRemote
  split
  · exact FabOnly.refl s
  · split
    · exact FabOnly.refl s
    · exact foldl_fab (fun s p => request_fab _ _ _ _ _ _ _ _ _ _ _ _ s) _ _

theorem dropUsed_fab (owner : Nat) (used : List Nat) (s : State) : FabOnly s (dropUsed owner used s) := ⟨_, rfl⟩

/-! ### Events, interrupts, log entries -/

theorem modFn_host (f : Nat) (g : Fn → Fn) (s : State) : HostOnly s (modFn f g s) := ⟨_, _, rfl⟩

theorem raiseMsix_host (f v : Nat) (s : State) : HostOnly s (raiseMsix f v s) := by
  unfold raiseMsix
  dsimp only
  split <;> exact ⟨_, _, rfl⟩

theorem postEventF_host (fn code flags tag status : Nat) (bd : Bytes) (s : State) :
    HostOnly s (postEventF fn code flags tag status bd s) := by
  unfold postEventF
  dsimp only
  split
  · exact modFn_host _ _ _
  · split
    · exact (modFn_host _ _ s).trans (raiseMsix_host _ _ _)
    · exact modFn_host _ _ s

theorem postEvent_host (fn code status : Nat) (bd : Bytes) (s : State) : HostOnly s (postEvent fn code status bd s) :=
  postEventF_host _ _ _ _ _ _ _

theorem postAll_host (code status : Nat) (bd : Bytes) (s : State) : HostOnly s (postAll code status bd s) := by
  unfold postAll
  generalize List.range 32 = l
  exact foldl_host (fun s fn => postEvent_host fn code status bd s) l s

theorem logEntry_reports (code status : Nat) (arg : Bytes) (s : State) : Reports s (logEntry code status arg s) :=
  ⟨_, _, _, _, rfl⟩

theorem logTimeBase_reports (kind : Nat) (a b : W64) (s : State) : Reports s (logTimeBase kind a b s) := ⟨_, _, _, _, rfl⟩

theorem reportTickLost_fab (kind : Nat) (s : State) : FabOnly s (reportTickLost kind s) := by
  unfold reportTickLost
  split
  · exact mgmtSend_fab _ _ _ _
  · exact FabOnly.refl s

theorem resetNotice_fab (kind cause : Nat) (s : State) : FabOnly s (resetNotice kind cause s) := by
  unfold resetNotice
  generalize leBytes 1 kind ++ leBytes 1 cause ++ leBytes 2 0 ++ leBytes 4 s.log.resets ++ leBytes 8 s.ftw.toNat = b
  split
  · exact mgmtSend_fab _ _ b s
  · exact FabOnly.refl s

theorem sendTick_fab (s0 : State) (dst : BitVec 12) (s : State) : FabOnly s (sendTick s0 dst s) := sendPacket_fab _ _

theorem sendTicks_fab (s : State) : FabOnly s (sendTicks s) := by
  unfold sendTicks
  dsimp only
  split
  · exact FabOnly.refl s
  · split
    · exact FabOnly.refl s
    · exact foldl_fab (f := fun t (m : Member) => sendTick s m.addr t) (fun t m => sendTick_fab s m.addr t) _ s
  · exact foldl_fab (f := fun t (m : Member) => sendTick s m.addr t) (fun t m => sendTick_fab s m.addr t) _ s

theorem thermalEvent_reports (die kind : Nat) (t : Int) (s : State) : Reports s (thermalEvent die kind t s) :=
  Reports.trans (b := logEntry _ _ _ s) ⟨_, _, _, _, rfl⟩ (postAll_host _ _ _ _).reports

/-! ### Counters -/

theorem modEnd_ctr (e : Nat) (f : StageEnd → StageEnd) (s : State) : CtrOnly s (modEnd e f s) := by
  unfold modEnd
  split
  · exact CtrOnly.refl s
  · exact CtrOnly.of ⟨_, _, _, rfl⟩

theorem forwardAdd_ctr (e : Nat) (v : W64) (s : State) : CtrOnly s (forwardAdd e v s) := by
  unfold forwardAdd
  split
  · exact CtrOnly.refl s
  · split
    · exact CtrOnly.refl s
    · split
      · exact (request_fab _ _ _ _ _ _ _ _ _ _ _ _ s).ctr.trans (modEnd_ctr _ _ _)
      · exact modEnd_ctr _ _ _

theorem forwardAll_ctr (ctx n : Nat) (v : W64) (s : State) : CtrOnly s (forwardAll ctx n v s) := by
  unfold forwardAll
  dsimp only
  split
  · exact CtrOnly.refl s
  · exact foldl_rel CtrOnly.refl (fun _ _ _ => CtrOnly.trans) (fun s (x : Nat × StageEnd) => forwardAdd_ctr x.1 v s) _ _

theorem ctrAdd_ctr (ctx n v : Nat) (s : State) : CtrOnly s (ctrAdd ctx n v s).2 :=
  (ctrUpdate_ctr _ _ _).trans (forwardAll_ctr _ _ _ _)

theorem ctrSet_ctr (ctx n v : Nat) (s : State) : CtrOnly s (ctrSet ctx n v s) := by
  unfold ctrSet
  dsimp only
  split
  · exact CtrOnly.refl s
  · exact (ctrUpdate_ctr _ _ _).trans (forwardAll_ctr _ _ _ _)

/-- R176: a counter's report to its peers leaves the counter itself alone. -/
theorem forwardAll_counters (ctx n : Nat) (v : W64) (s : State) : (forwardAll ctx n v s).counters = s.counters := by
  have hm : ∀ e f (s : State), (modEnd e f s).counters = s.counters := by
    intro e f s
    unfold modEnd
    split <;> rfl
  have hf : ∀ (s : State) (x : Nat × StageEnd), (forwardAdd x.1 v s).counters = s.counters := by
    intro s x
    unfold forwardAdd
    split
    · rfl
    · split
      · rfl
      · split
        · rw [hm]
          exact FabOnly.counters_eq (request_fab _ _ _ _ _ _ _ _ _ _ _ _ s)
        · rw [hm]
  unfold forwardAll
  dsimp only
  split
  · rfl
  · exact foldl_rel (R := fun a b => b.counters = a.counters) (fun _ => rfl) (fun _ _ _ h k => k.trans h) hf _ _

/-- R60: what a counter holds after an addition. -/
theorem ctrAdd_counters (ctx n v : Nat) (s : State) : (ctrAdd ctx n v s).2.counters =
    Tbl.put 0 s.counters n (BitVec.ofNat 64 (min ((ctrGet s n).toNat + v) (2 ^ 64 - 1))) := by
  unfold ctrAdd
  dsimp only
  rw [forwardAll_counters]
  rfl

/-! ### Arrival -/

theorem takeLink_fab (port : Nat) (p : Packet) (s : State) : FabOnly s (takeLink port p s).2 := by
  unfold takeLink
  dsimp only
  split
  · exact FabOnly.refl s
  · split
    · exact FabOnly.refl s
    · split
      · exact ⟨_, rfl⟩
      · split
        · exact FabOnly.refl s
        · exact ⟨_, rfl⟩

theorem taken_fab (port : Nat) (p : Packet) (s : State) : FabOnly s (s.taken port p) := takeLink_fab port p s

/-- R316, R321: a packet that is taken acts on the state with its port counted on. -/
theorem arrive_takes {port ty : Nat} {p : Packet} {f : State → State} {s : State} (h : s.takes port ty p) :
    arrive port ty p f s = f (s.taken port p) := by
  obtain ⟨h1, h0, h2, h3, h4, h5, h6, h7⟩ := h
  simp only [arrive, State.taken]
  rw [if_neg (by simp [h1, h0, h2, h3, h4, h5])]
  simp only [h6, Bool.not_true, Bool.false_eq_true, if_false]
  rw [if_neg h7]

/-! ### How a command ends -/

theorem findCmd_k {s : State} {k : Nat} {c : Cmd} (h : findCmd s k = some c) : c.k = k := by
  have := List.find?_some h
  simpa using this

theorem readyCmd_find {s : State} {k op : Nat} {c : Cmd} (h : readyCmd s k op = some c) : findCmd s k = some c := by
  unfold readyCmd at h
  split at h
  · cases h
  · split at h
    · cases h
      assumption
    · cases h

/-- R51, R53: a well-formed command at work does what its row says. -/
theorem runOp_working {s : State} {k op ext : Nat} {used : List (Nat × Nat)} {c : Cmd} {legal : Cmd → Bool}
    {f : Cmd → State → State} (h : s.working k op ext used c) (hl : legal c = true) : runOp k op ext used legal f s = f c s := by
  obtain ⟨h1, h2, h3, h4⟩ := h
  simp [runOp, runOpE, h1, h2, h3, h4, hl]

theorem findCmd_endCmd_self {s : State} {k st : Nat} {r : W64} {d : BitVec 32} : findCmd (endCmd k st r d s) k =
    (findCmd s k).map fun c => { c with
      st := .done, preempted := false, status := BitVec.ofNat 16 st, result := r, detail := d } :=
  findCmd_modCmd_self (by intro c; rfl)

theorem findCmd_endCmd_ne {s : State} {k j st : Nat} {r : W64} {d : BitVec 32} (h : j ≠ k) :
    findCmd (endCmd k st r d s) j = findCmd s j := findCmd_modCmd_ne (by intro c; rfl) h

/-- R67, R89: all that the end of a command does. -/
theorem finishCmd_spec {s : State} {k : Nat} {c : Cmd} (r : Option W64) (d : Option Nat) (h : findCmd s k = some c) :
    finishCmd k r d s = { s with cmds := (finishCmd k r d s).cmds, free := s.free + 1 } ∧ s.othersSame (finishCmd k r d s) k ∧
    ∃ x, findCmd (finishCmd k r d s) k = some x ∧ x.st = .done ∧ x.status = BitVec.ofNat 16 (warnStatus c.warns) ∧
      (∀ v, r = some v → x.result = v) ∧ (∀ n, d = some n → x.detail = BitVec.ofNat 32 n) := by
  unfold finishCmd
  simp only [h]
  refine ⟨rfl, fun j hj => findCmd_endCmd_ne hj,
    _, findCmd_endCmd_self.trans (by show Option.map _ (findCmd s k) = _; rw [h]; rfl), rfl, rfl, ?_, ?_⟩
  · rintro v rfl
    rfl
  · rintro n rfl
    rfl

/-- R67: a command that its work ends has ended with the status of its warnings. -/
theorem finishCmd_ended {s : State} {k : Nat} {c : Cmd} (r : Option W64) (d : Option Nat) (h : findCmd s k = some c) :
    (finishCmd k r d s).ended k (warnStatus c.warns) := by
  obtain ⟨-, -, x, h1, h2, h3, -⟩ := finishCmd_spec r d h
  exact ⟨x, h1, h2, h3⟩

theorem finishCmd_endedWith {s : State} {k : Nat} {c : Cmd} (v : W64) (d : Option Nat) (h : findCmd s k = some c) :
    (finishCmd k (some v) d s).endedWith k (warnStatus c.warns) v := by
  obtain ⟨-, -, x, h1, h2, h3, h4, -⟩ := finishCmd_spec (some v) d h
  exact ⟨x, h1, h2, h3, h4 v rfl⟩

/-! ### An engine's work -/

/-- Sending a unit's remote writes changes the fabric, and of the commands only the writes that they wait for. -/
theorem sendWrites_spec (ctx k : Nat) (ws : List (Mapping × Nat × Bytes)) (s : State) (c : Cmd) (h : findCmd s k = some c) :
    ∃ f cs w, sendWrites ctx (some k) ws s = { s with fab := f, cmds := cs } ∧
      findCmd (sendWrites ctx (some k) ws s) k = some { c with waits := w } := by
  induction ws generalizing s c with
  | nil => exact ⟨s.fab, s.cmds, c.waits, rfl, h⟩
  | cons x ws ih =>
    obtain ⟨m, va, bs⟩ := x
    have key : ∀ (l : List (Nat × Nat)) (s : State) (c : Cmd), findCmd s k = some c →
        ∃ f cs w, l.foldl (fun s p => modCmd k (fun c => { c with waits := c.waits ++ [s.fab.txn] })
          (request ptWrite ctx (some k) m.dst m.rctx (mapTarget m va + p.1) p.2 (va + p.1) 0 ((bs.drop p.1).take p.2) false 0 s)) s
            = { s with fab := f, cmds := cs } ∧
          findCmd ({ s with fab := f, cmds := cs } : State) k = some { c with waits := w } := by
      intro l
      induction l with
      | nil =>
        intro s c h
        exact ⟨s.fab, s.cmds, c.waits, rfl, h⟩
      | cons p l ih2 =>
        intro s c h
        obtain ⟨f, hf⟩ := request_fab ptWrite ctx (some k) m.dst m.rctx (mapTarget m va + p.1) p.2 (va + p.1) 0
          ((bs.drop p.1).take p.2) false 0 s
        rw [List.foldl_cons, hf]
        have h2 : findCmd (modCmd k (fun c => { c with waits := c.waits ++ [s.fab.txn] }) { s with fab := f }) k =
            some { c with waits := c.waits ++ [s.fab.txn] } := by
          rw [findCmd_modCmd_self (by intro c; rfl)]
          show Option.map _ (findCmd s k) = _
          rw [h]
          rfl
        obtain ⟨f', cs, w, e1, e2⟩ := ih2 _ _ h2
        exact ⟨f', cs, w, e1, e2⟩
    obtain ⟨f, cs, w, e1, e2⟩ := key (pieces (mapTarget m va) bs.length) s c h
    obtain ⟨f', cs', w', e3, e4⟩ := ih _ _ e2
    have e5 : sendWrites ctx (some k) ((m, va, bs) :: ws) s = sendWrites ctx (some k) ws { s with fab := f, cmds := cs } := by
      rw [← e1]
      rfl
    exact ⟨f', cs', w', e5.trans e3, by rw [e5]; exact e4⟩

/-- Noting what a command's work used and read changes that command alone, and not its warnings. -/
theorem noted_spec {s : State} {k : Nat} {e : Eng} {ps : List Nat} {c : Cmd} (h : findCmd s k = some c) :
    ∃ cs d, keepReads k e (noteTouched k ps s) = { s with cmds := cs } ∧
      findCmd (keepReads k e (noteTouched k ps s)) k = some d ∧ d.warns = c.warns := by
  have h1 : ∃ d, findCmd (noteTouched k ps s) k = some d ∧ d.warns = c.warns := by
    unfold noteTouched
    rw [findCmd_modCmd_self (by intro c; rfl), h]
    exact ⟨_, rfl, rfl⟩
  obtain ⟨d, h2, h3⟩ := h1
  unfold keepReads
  split
  · refine ⟨_, { d with prog := { d.prog with seen := e.reads.seen, kept := e.reads.kept } }, rfl, ?_, h3⟩
    unfold modProg
    rw [findCmd_modCmd_self (by intro c; rfl), h2]
    rfl
  · exact ⟨_, d, rfl, h2, h3⟩

/-- R67, R89: a command whose work runs through has ended with what its work answers. -/
theorem runPart_doesPart {s : State} {c : Cmd} {once : Bool} {work : EngM (Option (Option W64 × Option Nat))}
    {o : (Option W64 × Option Nat) × Eng} (h : s.doesPart c once work = some o) : (runPart c once work s).endedWork c o := by
  unfold State.doesPart at h
  split at h
  · rename_i r e hw
    split at h
    · rename_i hc
      obtain ⟨x, hx⟩ : ∃ x, r = some x := by
        cases r with
        | none => cases h
        | some x => exact ⟨x, rfl⟩
      subst hx
      cases h
      have ht : e.trap = none := by simpa using hc.1
      obtain ⟨d, hd, hdw⟩ : ∃ d, findCmd e.s c.k = some d ∧ d.warns = c.warns := by
        have := hc.2
        cases hf : findCmd e.s c.k with
        | none => simp [hf] at this
        | some d =>
          refine ⟨d, rfl, ?_⟩
          simpa [hf] using this
      obtain ⟨f, hf⟩ := dropUsed_fab e.owner e.used e.s
      have h1 : findCmd (dropUsed e.owner e.used e.s) c.k = some d := hd
      obtain ⟨f', cs, w, e1, e2⟩ := sendWrites_spec e.ctx c.k e.wr _ _ h1
      have e3 : findCmd (engCommit (some c.k) e) c.k = some { d with waits := w } := e2
      obtain ⟨cs2, d2, n1, n2, n3⟩ := noted_spec (e := e) (ps := e.pages) e3
      have n4 : d2.warns = c.warns := n3.trans hdw
      have e4 : findCmd (modCmd c.k (fun c => { c with warns := c.warns ||| e.warns })
          (keepReads c.k e (noteTouched c.k e.pages (engCommit (some c.k) e)))) c.k =
          some { d2 with warns := c.warns ||| e.warns } := by
        rw [findCmd_modCmd_self (by intro c; rfl), n2, ← n4]
        rfl
      have hr : runPart c once work s =
          finishCmd c.k x.1 x.2 (modCmd c.k (fun c => { c with warns := c.warns ||| e.warns })
            (keepReads c.k e (noteTouched c.k e.pages (engCommit (some c.k) e)))) := by
        unfold runPart
        simp only [hw, ht]
      obtain ⟨g1, -, y, g2, g3, g4, g5, g6⟩ := finishCmd_spec x.1 x.2 e4
      rw [hr]
      have e5 : engCommit (some c.k) e = orSticky e.ctx e.sticky { e.s with fab := f', cmds := cs } := by
        unfold engCommit
        rw [e1, hf]
      rw [n1, e5] at g1 g2 ⊢
      refine ⟨⟨y, g2, g3, g4, g5, g6⟩, ?_, ?_, ?_⟩ <;>
      · rw [g1]
        rfl
    · cases h
  · cases h

theorem runEng_doesWork {s : State} {c : Cmd} {once : Bool} {work : EngM (Option W64 × Option Nat)}
    {o : (Option W64 × Option Nat) × Eng} (h : s.doesWork c once work = some o) : (runEng c once work s).endedWork c o :=
  runPart_doesPart h

end Sys2Proof.Machine
end

