-- ==== Sys2Proof/Laws/Cores.lean ====
section
/-!
SUPPORT. What the instruction rows of the vector cores come to: the fetch, the core that an instruction replaces, and the machine
after an instruction that meets no fault and no trap.
-/
namespace Sys2Proof.Machine

/-- R143: a core that fetches a word of the row's operation does the row's work. -/
theorem coreRow_fetches {s u : State} {b c code w : Nat} {d : Cmd} {work : Vx → EngM Unit} (h : s.fetches u b c code w d) :
    coreRow b c code work s = runCore (s.vx b c w d) d.ctx (work (s.vx b c w d)) u := by
  obtain ⟨h1, hx, h2, e, h3, h4⟩ := h
  simp only [coreRow, h1, hx, h3, h2, if_true, Bool.false_eq_true, if_false]
  rw [h4]
  rfl

/-- A core replaced by another. -/
def withCore (key : Nat) (r : Core) (s : State) : State := { s with cores := Tbl.ins s.cores key r }

theorem modCore_find {key : Nat} {f : Core → Core} {s : State} {r : Core} (h : Tbl.find? s.cores key = some r) :
    modCore key f s = withCore key (f r) s := by
  simp [modCore, h, withCore]

theorem withCore_find {key : Nat} {r : Core} {s : State} : Tbl.find? (withCore key r s).cores key = some r := Tbl.find_ins_self

theorem getCore_find {key : Nat} {s : State} {r : Core} (h : Tbl.find? s.cores key = some r) : getCore s key = r := by
  simp [getCore, h]

/-- The machine after work that replaced the core and noted sticky bits and warnings, without a remote access. -/
theorem runCore_ok {x : Vx} {ctx : Nat} {work : EngM Unit} {u : State} {e : Eng} {r : Core}
    (h : work { s := u, ctx := ctx, owner := 2 * x.k } = .ok () e) (hw : e.wr = [])
    (hr : Tbl.find? e.s.cores x.key = some r) (hm : e.s.mem = u.mem) (hc : e.s.counters = u.counters) (hl : e.s.log = u.log)
    (ho : ∀ j, j ≠ x.key → Tbl.find? e.s.cores j = Tbl.find? u.cores j) :
    Tbl.find? (runCore x ctx work u).cores x.key = some r ∧
    (∀ j, j ≠ x.key → Tbl.find? (runCore x ctx work u).cores j = Tbl.find? u.cores j) ∧
    (runCore x ctx work u).mem = u.mem ∧ (runCore x ctx work u).counters = u.counters ∧ (runCore x ctx work u).log = u.log := by
  have e1 : engCommit (some x.k) e = orSticky e.ctx e.sticky (dropUsed e.owner e.used e.s) := by
    unfold engCommit
    rw [hw]
    rfl
  have hf : ∀ k, findCmd (engCommit (some x.k) e) k = findCmd e.s k := by
    intro k
    rw [e1]
    rfl
  have e2 : runCore x ctx work u = modCmd x.k (fun c => { c with warns := c.warns ||| e.warns, touched := addPages c.touched e.pages }) (engCommit (some x.k) e) := by
    unfold runCore
    simp only [h]
    unfold coreCommit
    simp only [hf]
    cases findCmd e.s x.k with
    | none => rfl
    | some c => simp
  rw [e2, e1]
  exact ⟨hr, ho, hm, hc, hl⟩

end Sys2Proof.Machine
end

