-- ==== Sys2Proof/Laws/Keeps.lean ====
section
/-!
SUPPORT. What no command does, whatever its operands (`Keeps`): it leaves the queue of commands and the variant of the module
alone, it never reads a free value again, and it keeps device memory in its canonical form. This file holds the relation, its
forms for the kinds of result that the definitions of the machine have, and its rules; the other Keeps files hold one lemma for
every definition that changes the machine.
-/
namespace Sys2Proof.Machine

/-- R39: the frame period in force and the one that waits lie between 40 us and 2 s. -/
def PeriodOk (t : TimeBase) : Prop := periodOk t.period = true ∧ periodOk t.periodSet = true

/-- What every command keeps from one state to a later one. -/
def Keeps (s t : State) : Prop :=
  t.pending = s.pending ∧ s.free ≤ t.free ∧ t.id.v384 = s.id.v384 ∧ (Memory.wf s.mem = true → Memory.wf t.mem = true)
    ∧ (PeriodOk s.tb → PeriodOk t.tb)

/-- The state of a unit after its work, however it ended. -/
def resEng {α : Type} (r : EStateM.Result EngStop Eng α) : Eng :=
  match r with
  | .ok _ e => e
  | .error _ e => e

/-- A result that carries a state in second place. -/
abbrev KP {α : Type} (s0 : State) (p : α × State) : Prop := Keeps s0 p.2
/-- A result that carries a state in third place. -/
abbrev KPP {α β : Type} (s0 : State) (p : α × β × State) : Prop := Keeps s0 p.2.2
/-- A result that carries a state in first place. -/
abbrev KF {α : Type} (s0 : State) (p : State × α) : Prop := Keeps s0 p.1
/-- The work of a unit. -/
def EK {α : Type} (s0 : State) (x : EngM α) : Prop := ∀ e, Keeps s0 e.s → Keeps s0 (resEng (x e)).s
/-- An outcome of a step. -/
def KO (s0 : State) (o : Host.Outcome State Fault Refusal) : Prop := ∀ t, o = .next t → Keeps s0 t
/-- The state in a reply of firmware. -/
def replyState (r : Reply) : State :=
  match r with
  | .now _ _ s => s
  | .later _ _ s => s
/-- A reply of firmware. -/
abbrev KR (s0 : State) (r : Reply) : Prop := Keeps s0 (replyState r)

theorem keeps_refl (s : State) : Keeps s s := ⟨rfl, Nat.le_refl _, rfl, id, id⟩

theorem keeps_trans {a b c : State} (h : Keeps a b) (k : Keeps b c) : Keeps a c :=
  ⟨k.1.trans h.1, Nat.le_trans h.2.1 k.2.1, k.2.2.1.trans h.2.2.1, fun w => k.2.2.2.1 (h.2.2.2.1 w),
    fun w => k.2.2.2.2 (h.2.2.2.2 w)⟩

theorem keeps_mk {s0 s : State} {ffree : Nat} {fmem : List Host.Cell} {ftb : TimeBase} {fsup : Supply} {fid : Ident} {fmb :
    MbState} {fctxs : Tbl Ctx} {fcounters : Tbl W64} {fctrOwner : Tbl Nat} {fqueues : List (Nat × Queue)} {fcmds : List Cmd}
    {fnextK : Nat} {fnextStart : Nat} {fserved : Tbl Nat} {fclusters : Tbl Cluster} {factiveBank : Tbl Nat} {fbanks : Tbl Bank}
    {fstreams : Tbl Bytes} {fstalls : Tbl W64} {fcores : List (Nat × Core)} {fsaved : List ((Nat × Nat) × Core)} {flines : List
    (Nat × CacheLine)} {fheld : List HeldPage} {fmicaCache : BitVec 32} {fpref : List PrefLine} {fends : List (Nat × StageEnd)}
    {fgroups : List (Nat × Group)} {fnodes : List Node} {finsts : List TreeInst} {ffeeds : Tbl Feed} {ffab : Fabric} {ffns : Tbl Fn} {fdeferred : List
    Deferred} {fmsix : List (Nat × Nat)} {fbus : List Bytes} {fpow : Power} {frst : ResetRun} {factivating : Option (Nat × BitVec
    32 × W64 × Bool)} {flog : Log} {fmctp : Mctp}
 (h : Keeps s0 s) (hf : s.free ≤ ffree) (hv : fid.v384 = s.id.v384) (hm : Memory.wf s.mem = true → Memory.wf fmem = true)
    (ht : PeriodOk s.tb → PeriodOk ftb) :
    Keeps s0 (State.mk s.pending ffree fmem ftb fsup fid fmb fctxs fcounters fctrOwner fqueues fcmds fnextK fnextStart fserved
    fclusters factiveBank fbanks fstreams fstalls fcores fsaved flines fheld fmicaCache fpref fends fgroups fnodes finsts ffeeds ffab
    ffns fdeferred fmsix fbus fpow frst factivating flog fmctp) :=
  keeps_trans h ⟨rfl, hf, hv, hm, ht⟩

theorem ite_of {α : Type} {P : α → Prop} {c : Prop} [Decidable c] {a b : α} (ha : c → P a) (hb : ¬c → P b) : P (if c then a else b) := by
  by_cases h : c
  · rw [if_pos h]
    exact ha h
  · rw [if_neg h]
    exact hb h

theorem dite_of {α : Type} {P : α → Prop} {c : Prop} [Decidable c] {a : c → α} {b : ¬c → α} (ha : ∀ h, P (a h)) (hb : ∀ h, P (b h)) :
    P (if h : c then a h else b h) := by
  by_cases h : c
  · rw [dif_pos h]
    exact ha h
  · rw [dif_neg h]
    exact hb h

theorem foldl_of {α β : Type} {P : β → Prop} {f : β → α → β} {l : List α} {b : β} (hf : ∀ b a, P b → P (f b a)) (hb : P b) :
    P (List.foldl f b l) := by
  induction l generalizing b with
  | nil => exact hb
  | cons a l ih => exact ih (hf b a hb)

theorem cut_of {α : Type} {P : α → Prop} {x y : α} {G : Prop} (heq : x = y) (hx : P x) (k : P y → G) : G := k (heq ▸ hx)

theorem ko_next {s0 t : State} (h : Keeps s0 t) : KO s0 (.next t) := by
  intro u hu
  cases hu
  exact h
theorem ko_fault {s0 : State} {f : Fault} : KO s0 (.fault f) := by
  intro u hu
  cases hu
theorem ko_refused {s0 : State} {r : Refusal} : KO s0 (.refused r) := by
  intro u hu
  cases hu

theorem kp_mk {α : Type} {s0 s : State} {a : α} (h : Keeps s0 s) : KP s0 (a, s) := h
theorem kpp_mk {α β : Type} {s0 : State} {a : α} {p : β × State} (h : KP s0 p) : KPP s0 (a, p) := h
theorem kf_mk {α : Type} {s0 s : State} {a : α} (h : Keeps s0 s) : KF s0 (s, a) := h
theorem kp_snd {α : Type} {s0 : State} {p : α × State} (h : KP s0 p) : Keeps s0 p.2 := h
theorem kpp_snd {α β : Type} {s0 : State} {p : α × β × State} (h : KPP s0 p) : KP s0 p.2 := h
theorem kf_fst {α : Type} {s0 : State} {p : State × α} (h : KF s0 p) : Keeps s0 p.1 := h
theorem kr_now {s0 s : State} {n : Nat} {b : Bytes} (h : Keeps s0 s) : KR s0 (.now n b s) := h
theorem kr_later {s0 s : State} {w : List (BitVec 32)} {n : Nat} (h : Keeps s0 s) : KR s0 (.later w n s) := h

theorem ek_pure {α : Type} {s0 : State} {a : α} : EK s0 (pure a) := fun _ h => h
theorem ek_throw {α : Type} {s0 : State} {x : EngStop} : EK s0 (throw x : EngM α) := fun _ h => h
theorem ek_set {s0 : State} {e : Eng} (h : Keeps s0 e.s) : EK s0 (set e) := fun _ _ => h
theorem ek_get' {s0 : State} : EK s0 get := fun _ h => h
theorem ek_modify {s0 : State} {f : Eng → Eng} (h : ∀ e, Keeps s0 e.s → Keeps s0 (f e).s) : EK s0 (modify f) := fun e he => h e he

theorem ek_bind {α β : Type} {s0 : State} {x : EngM α} {f : α → EngM β} (hx : EK s0 x) (hf : ∀ a, EK s0 (f a)) : EK s0 (x >>= f) := by
  intro e he
  have hx := hx e he
  show Keeps s0 (resEng (EStateM.bind x f e)).s
  unfold EStateM.bind
  generalize x e = r at hx
  cases r with
  | ok a e' => exact hf a e' hx
  | error y e' => exact hx

theorem ek_get {β : Type} {s0 : State} {f : Eng → EngM β} (hf : ∀ e, Keeps s0 e.s → EK s0 (f e)) : EK s0 (get >>= f) :=
  fun e he => hf e he e he

theorem ek_getS {β : Type} {s0 : State} {f : State → EngM β} (hf : ∀ s, Keeps s0 s → EK s0 (f s)) : EK s0 (getS >>= f) :=
  fun e he => hf e.s he e he

theorem ek_map {α β : Type} {s0 : State} {f : α → β} {x : EngM α} (hx : EK s0 x) : EK s0 (f <$> x) := by
  intro e he
  have hx := hx e he
  show Keeps s0 (resEng (EStateM.map f x e)).s
  unfold EStateM.map
  generalize x e = r at hx
  cases r with
  | ok a e' => exact hx
  | error y e' => exact hx

theorem ek_forM {α : Type} {s0 : State} {f : α → EngM PUnit} {l : List α} (hf : ∀ a, EK s0 (f a)) : EK s0 (l.forM f) := by
  induction l with
  | nil => exact ek_pure
  | cons a l ih => exact ek_bind (hf a) (fun _ => ih)

theorem ek_mapM {α β : Type} {s0 : State} {f : α → EngM β} {l : List α} (hf : ∀ a, EK s0 (f a)) : EK s0 (l.mapM f) := by
  induction l with
  | nil => exact ek_pure
  | cons a l ih =>
    rw [List.mapM_cons]
    exact ek_bind (hf a) (fun _ => ek_bind ih (fun _ => ek_pure))

theorem ek_foldlM {α β : Type} {s0 : State} {f : β → α → EngM β} {l : List α} {b : β} (hf : ∀ b a, EK s0 (f b a)) :
    EK s0 (l.foldlM f b) := by
  induction l generalizing b with
  | nil => exact ek_pure
  | cons a l ih =>
    rw [List.foldlM_cons]
    exact ek_bind (hf b a) (fun _ => ih)

theorem ek_cut {α : Type} {s0 : State} {x : EngM α} {e : Eng} {r : EStateM.Result EngStop Eng α} {G : Prop} (heq : x e = r)
    (hx : EK s0 x) (he : Keeps s0 e.s) (k : Keeps s0 (resEng r).s → G) : G := k (heq ▸ hx e he)

end Sys2Proof.Machine
end

