-- ==== Sys2Proof/Laws/KeepsBasic.lean ====
section
/-!
SUPPORT. What no command does (see Laws/Keeps.lean): fabric packets, memory, commands, engines, the command processor, control commands, movers and feeds.
-/
namespace Sys2Proof.Machine

/-! ### Net -/

theorem modPort_keeps {s0 : State} {p : Nat} {f : Port → Port} {s : State} (h0 : Keeps s0 s) : Keeps s0 (modPort p f s) := by
  unfold modPort
  refine keeps_mk ?_ (Nat.le_refl _) rfl (fun h => h) (fun h => h)
  exact h0

theorem countDown_keeps {s0 : State} {port : Nat} {n : Nat} {s : State} (h0 : Keeps s0 s) : Keeps s0 (countDown port n s) := by
  unfold countDown
  exact modPort_keeps h0

theorem countUnroutable_keeps {s0 : State} {port : Nat} {s : State} (h0 : Keeps s0 s) : Keeps s0 (countUnroutable port s) := by
  unfold countUnroutable
  exact modPort_keeps h0

theorem sendOn_keeps {s0 : State} {port : Nat} {p : Packet} {s : State} (h0 : Keeps s0 s) : Keeps s0 (sendOn port p s) := by
  unfold sendOn
  extract_lets -merge -underBinder +onlyGivenNames x1
  clear_value x1
  refine ite_of (P := Keeps s0) (fun _ => ?_) (fun _ => ?_)
  · extract_lets -merge -underBinder +onlyGivenNames x2
    clear_value x2
    extract_lets -merge -underBinder +onlyGivenNames x3
    have h4 : Keeps s0 x3 := by
      unfold x3
      exact modPort_keeps h0
    clear_value x3
    refine keeps_mk ?_ (Nat.le_refl _) rfl (fun h => h) (fun h => h)
    exact h4
  · exact countDown_keeps h0

theorem sendSelf_keeps {s0 : State} {p : Packet} {s : State} (h0 : Keeps s0 s) : Keeps s0 (sendSelf p s) := by
  unfold sendSelf
  refine keeps_mk ?_ (Nat.le_refl _) rfl (fun h => h) (fun h => h)
  exact h0

theorem routeOut_keeps {s0 : State} {p : Packet} {dl : Option Nat} {s : State} (h0 : Keeps s0 s) : Keeps s0 (routeOut p dl s) := by
  unfold routeOut
  extract_lets -merge -underBinder +onlyGivenNames x1
  clear_value x1
  refine ite_of (P := Keeps s0) (fun _ => ?_) (fun _ => ?_)
  · exact countUnroutable_keeps h0
  · split
    · split
      · exact sendSelf_keeps h0
      · exact sendOn_keeps h0
      · exact sendOn_keeps h0
      · exact countUnroutable_keeps h0
    · extract_lets -merge -underBinder +onlyGivenNames x2
      clear_value x2
      extract_lets -merge -underBinder +onlyGivenNames x3
      clear_value x3
      exact sendOn_keeps h0

theorem injectNow_keeps {s0 : State} {p : Packet} {s : State} (h0 : Keeps s0 s) : Keeps s0 (injectNow p s) := by
  unfold injectNow
  extract_lets -merge -underBinder +onlyGivenNames x1
  clear_value x1
  split
  · exact routeOut_keeps h0
  · refine ite_of (P := Keeps s0) (fun _ => ?_) (fun _ => ?_)
    · exact routeOut_keeps h0
    · exact routeOut_keeps h0

theorem sendPacket_keeps {s0 : State} {p : Packet} {s : State} (h0 : Keeps s0 s) : Keeps s0 (sendPacket p s) := by
  unfold sendPacket
  extract_lets -merge -underBinder +onlyGivenNames x1
  clear_value x1
  refine ite_of (P := Keeps s0) (fun _ => ?_) (fun _ => ?_)
  · refine keeps_mk ?_ (Nat.le_refl _) rfl (fun h => h) (fun h => h)
    exact h0
  · exact injectNow_keeps h0

theorem releaseHolds_keeps {s0 : State} {s : State} (h0 : Keeps s0 s) : Keeps s0 (releaseHolds s) := by
  unfold releaseHolds
  extract_lets -merge -underBinder +onlyGivenNames x1
  clear_value x1
  extract_lets -merge -underBinder +onlyGivenNames x2
  extract_lets -merge -underBinder +onlyGivenNames x3 x4
  clear_value x3
  have h5 : Keeps s0 x4 := by
    unfold x4
    refine keeps_mk ?_ (Nat.le_refl _) rfl (fun h => h) (fun h => h)
    exact h0
  clear_value x4
  refine foldl_of (P := Keeps s0) (fun _ _ h6 => ?_) ?_
  · refine foldl_of (P := Keeps s0) (fun _ _ h7 => ?_) ?_
    · exact injectNow_keeps h7
    · exact h6
  · exact h5

theorem setRoutes_keeps {s0 : State} {routes : Tbl RaEntry} {s : State} (h0 : Keeps s0 s) : Keeps s0 (setRoutes routes s) := by
  unfold setRoutes
  extract_lets -merge -underBinder +onlyGivenNames x1 x2
  clear_value x1
  have h3 : Keeps s0 x2 := by
    unfold x2
    refine keeps_mk ?_ (Nat.le_refl _) rfl (fun h => h) (fun h => h)
    exact h0
  clear_value x2
  extract_lets -merge -underBinder +onlyGivenNames x4
  clear_value x4
  extract_lets -merge -underBinder +onlyGivenNames x5
  clear_value x5
  refine keeps_mk ?_ (Nat.le_refl _) rfl (fun h => h) (fun h => h)
  exact h3

theorem request_keeps {s0 : State} {ptype : Nat} {ctx : Nat} {k : Option Nat} {dst : BitVec 16} {rctx : BitVec 8} {addr : Nat}
    {len : Nat} {va : Nat} {owner : Nat} {payload : Bytes} {pf : Bool} {gen : BitVec 16} {s : State} (h0 : Keeps s0 s) : Keeps s0
    (request ptype ctx k dst rctx addr len va owner payload pf gen s) := by
  unfold request
  extract_lets -merge -underBinder +onlyGivenNames x1
  clear_value x1
  extract_lets -merge -underBinder +onlyGivenNames x2
  clear_value x2
  extract_lets -merge -underBinder +onlyGivenNames x3
  clear_value x3
  extract_lets -merge -underBinder +onlyGivenNames x4
  clear_value x4
  refine sendPacket_keeps ?_
  refine keeps_mk ?_ (Nat.le_refl _) rfl (fun h => h) (fun h => h)
  exact h0

theorem respond_keeps {s0 : State} {p : Packet} {ptype : Nat} {payload : Bytes} {s : State} (h0 : Keeps s0 s) : Keeps s0 (respond
    p ptype payload s) := by
  unfold respond
  exact sendPacket_keeps h0

theorem nack_keeps {s0 : State} {p : Packet} {status : Nat} {s : State} (h0 : Keeps s0 s) : Keeps s0 (nack p status s) := by
  unfold nack
  exact respond_keeps h0

theorem mgmtSend_keeps {s0 : State} {dst : BitVec 12} {code : Nat} {body : Bytes} {s : State} (h0 : Keeps s0 s) : Keeps s0
    (mgmtSend dst code body s) := by
  unfold mgmtSend
  extract_lets -merge -underBinder +onlyGivenNames x1
  clear_value x1
  extract_lets -merge -underBinder +onlyGivenNames x2
  clear_value x2
  extract_lets -merge -underBinder +onlyGivenNames x3
  clear_value x3
  extract_lets -merge -underBinder +onlyGivenNames x4
  clear_value x4
  extract_lets -merge -underBinder +onlyGivenNames x5 x6
  clear_value x5
  have h7 : Keeps s0 x6 := by
    unfold x6
    refine keeps_mk ?_ (Nat.le_refl _) rfl (fun h => h) (fun h => h)
    exact h0
  clear_value x6
  exact sendPacket_keeps h7

theorem mgmtSendOn_keeps {s0 : State} {port : Nat} {code : Nat} {body : Bytes} {s : State} (h0 : Keeps s0 s) : Keeps s0
    (mgmtSendOn port code body s) := by
  unfold mgmtSendOn
  extract_lets -merge -underBinder +onlyGivenNames x1
  clear_value x1
  extract_lets -merge -underBinder +onlyGivenNames x2 x3
  clear_value x2
  have h4 : Keeps s0 x3 := by
    unfold x3
    refine keeps_mk ?_ (Nat.le_refl _) rfl (fun h => h) (fun h => h)
    exact h0
  clear_value x3
  exact sendOn_keeps h4

theorem sendCovers_keeps {s0 : State} {s : State} (h0 : Keeps s0 s) : Keeps s0 (sendCovers s) := by
  unfold sendCovers
  split
  · exact h0
  · extract_lets -merge -underBinder +onlyGivenNames x1
    refine foldl_of (P := Keeps s0) (fun _ _ h2 => ?_) ?_
    · extract_lets -merge -underBinder +onlyGivenNames x3
      clear_value x3
      exact mgmtSend_keeps h2
    · refine keeps_mk ?_ (Nat.le_succ _) rfl (fun h => h) (fun h => h)
      exact h0
  · extract_lets -merge -underBinder +onlyGivenNames x4
    refine foldl_of (P := Keeps s0) (fun _ _ h5 => ?_) ?_
    · extract_lets -merge -underBinder +onlyGivenNames x6
      clear_value x6
      exact mgmtSend_keeps h5
    · refine keeps_mk ?_ (Nat.le_succ _) rfl (fun h => h) (fun h => h)
      exact h0

theorem sendUncovers_keeps {s0 : State} {s : State} (h0 : Keeps s0 s) : Keeps s0 (sendUncovers s) := by
  unfold sendUncovers
  split
  · exact h0
  · extract_lets -merge -underBinder +onlyGivenNames x1
    refine foldl_of (P := Keeps s0) (fun _ _ h2 => ?_) ?_
    · extract_lets -merge -underBinder +onlyGivenNames x3
      clear_value x3
      exact mgmtSend_keeps h2
    · refine keeps_mk ?_ (Nat.le_succ _) rfl (fun h => h) (fun h => h)
      exact h0
  · extract_lets -merge -underBinder +onlyGivenNames x4
    refine foldl_of (P := Keeps s0) (fun _ _ h5 => ?_) ?_
    · extract_lets -merge -underBinder +onlyGivenNames x6
      clear_value x6
      exact mgmtSend_keeps h5
    · refine keeps_mk ?_ (Nat.le_succ _) rfl (fun h => h) (fun h => h)
      exact h0

/-! ### Mem -/

theorem modCtx_keeps {s0 : State} {c : Nat} {f : Ctx → Ctx} {s : State} (h0 : Keeps s0 s) : Keeps s0 (modCtx c f s) := by
  unfold modCtx
  refine keeps_mk ?_ (Nat.le_refl _) rfl (fun h => h) (fun h => h)
  exact h0

theorem makeRoom_keeps {s0 : State} {prefetch : Bool} {ln : Nat} {s : State} (h0 : Keeps s0 s) : KP s0 (makeRoom prefetch ln s) :=
    by
  unfold makeRoom
  extract_lets -merge -underBinder +onlyGivenNames x1
  extract_lets -merge -underBinder +onlyGivenNames x2
  clear_value x2
  extract_lets -merge -underBinder +onlyGivenNames x3
  clear_value x3
  extract_lets -merge -underBinder +onlyGivenNames x4
  clear_value x4
  extract_lets -merge -underBinder +onlyGivenNames x5
  clear_value x5
  refine ite_of (P := KP s0) (fun _ => ?_) (fun _ => ?_)
  · exact kp_mk h0
  · refine ite_of (P := KP s0) (fun _ => ?_) (fun _ => ?_)
    · exact kp_mk h0
    · extract_lets -merge -underBinder +onlyGivenNames x6
      extract_lets -merge -underBinder +onlyGivenNames x7
      have h8 : Keeps s0 x7 := by
        unfold x7
        refine keeps_mk ?_ (Nat.le_succ _) rfl (fun h => h) (fun h => h)
        exact h0
      clear_value x7
      refine ite_of (P := KP s0) (fun _ => ?_) (fun _ => ?_)
      · refine kp_mk ?_
        refine keeps_mk ?_ (Nat.le_refl _) rfl (fun h => h) (fun h => h)
        exact h8
      · split
        · refine kp_mk ?_
          refine keeps_mk ?_ (Nat.le_refl _) rfl (fun h => h) (fun h => h)
          exact h8
        · exact kp_mk h8

theorem settleLine_keeps {s0 : State} {ln : Nat} {s : State} (h0 : Keeps s0 s) : Keeps s0 (settleLine ln s) := by
  unfold settleLine
  split
  · exact h0
  · extract_lets -merge -underBinder +onlyGivenNames x1
    clear_value x1
    extract_lets -merge -underBinder +onlyGivenNames x2
    have h3 : Keeps s0 x2 := by
      unfold x2
      refine keeps_mk ?_ (Nat.le_succ _) rfl (fun h => h) (fun h => h)
      exact h0
    clear_value x2
    refine ite_of (P := Keeps s0) (fun _ => ?_) (fun _ => ?_)
    · refine keeps_mk ?_ (Nat.le_refl _) rfl (fun h => h) (fun h => h)
      exact h3
    · exact h3

theorem dropLine_keeps {s0 : State} {ln : Nat} {s : State} (h0 : Keeps s0 s) : Keeps s0 (dropLine ln s) := by
  unfold dropLine
  split
  · exact h0
  · refine keeps_mk ?_ (Nat.le_refl _) rfl (fun h => by repeat' first | with_reducible exact h | with_reducible apply memWriteN_wf | with_reducible apply memWrite_wf | with_reducible apply memClear_wf | with_reducible apply putImage_wf | with_reducible apply pokeRuns_wf | exact rfl) (fun h => h)
    exact h0

theorem lowerLine_keeps {s0 : State} {ln : Nat} {n : Nat} {s : State} (h0 : Keeps s0 s) : Keeps s0 (lowerLine ln n s) := by
  unfold lowerLine
  split
  · exact h0
  · refine ite_of (P := Keeps s0) (fun _ => ?_) (fun _ => ?_)
    · exact dropLine_keeps h0
    · refine keeps_mk ?_ (Nat.le_refl _) rfl (fun h => h) (fun h => h)
      exact h0

theorem lineRead_keeps {s0 : State} {counted : Bool} {use : Nat} {ln : Nat} {s : State} (h0 : Keeps s0 s) : Keeps s0 (lineRead
    counted use ln s) := by
  unfold lineRead
  extract_lets -merge -underBinder +onlyGivenNames x1
  have h2 : Keeps s0 x1 := by
    unfold x1
    exact settleLine_keeps h0
  clear_value x1
  extract_lets -merge -underBinder +onlyGivenNames x3
  extract_lets -merge -underBinder +onlyGivenNames x4
  have h5 : Keeps s0 x4 := by
    unfold x4
    refine ite_of (P := Keeps s0) (fun _ => ?_) (fun _ => ?_)
    · exact h2
    · refine keeps_mk ?_ (Nat.le_succ _) rfl (fun h => h) (fun h => h)
      exact h2
  clear_value x4
  refine ite_of (P := Keeps s0) (fun _ => ?_) (fun _ => ?_)
  · exact h5
  · extract_lets -merge -underBinder +onlyGivenNames x6
    have h7 : Keeps s0 x6 := by
      unfold x6
      split
      · exact h5
      · extract_lets -merge -underBinder +onlyGivenNames x8
        have h9 : Keeps s0 x8 := by
          unfold x8
          exact kp_snd (makeRoom_keeps h5)
        refine keeps_mk ?_ (Nat.le_refl _) rfl (fun h => h) (fun h => h)
        exact h9
    clear_value x6
    exact lowerLine_keeps h7

theorem micaRoom_keeps {s0 : State} {prefetch : Bool} {l : PrefLine} {s : State} (h0 : Keeps s0 s) : KP s0 (micaRoom prefetch l s)
    := by
  unfold micaRoom
  extract_lets -merge -underBinder +onlyGivenNames x1
  clear_value x1
  extract_lets -merge -underBinder +onlyGivenNames x2
  clear_value x2
  extract_lets -merge -underBinder +onlyGivenNames x3
  clear_value x3
  refine ite_of (P := KP s0) (fun _ => ?_) (fun _ => ?_)
  · exact kp_mk h0
  · refine ite_of (P := KP s0) (fun _ => ?_) (fun _ => ?_)
    · exact kp_mk h0
    · refine ite_of (P := KP s0) (fun _ => ?_) (fun _ => ?_)
      · exact kp_mk h0
      · extract_lets -merge -underBinder +onlyGivenNames x4
        split
        · refine kp_mk ?_
          refine keeps_mk ?_ (Nat.le_succ _) rfl (fun h => h) (fun h => h)
          exact h0
        · refine kp_mk ?_
          refine keeps_mk ?_ (Nat.le_succ _) rfl (fun h => h) (fun h => h)
          exact h0

theorem tagLine_keeps {s0 : State} {l : PrefLine} {s : State} (h0 : Keeps s0 s) : Keeps s0 (tagLine l s) := by
  unfold tagLine
  refine keeps_mk ?_ (Nat.le_refl _) rfl (fun h => h) (fun h => h)
  exact h0

theorem fillLine_keeps {s0 : State} {prefetch : Bool} {l : PrefLine} {s : State} (h0 : Keeps s0 s) : KP s0 (fillLine prefetch l s)
    := by
  unfold fillLine
  refine ite_of (P := KP s0) (fun _ => ?_) (fun _ => ?_)
  · extract_lets -merge -underBinder +onlyGivenNames x1
    have h2 : Keeps s0 x1 := by
      unfold x1
      exact tagLine_keeps h0
    clear_value x1
    refine kp_mk ?_
    refine ite_of (P := Keeps s0) (fun _ => ?_) (fun _ => ?_)
    · refine keeps_mk ?_ (Nat.le_refl _) rfl (fun h => h) (fun h => h)
      exact h2
    · exact h2
  · extract_lets -merge -underBinder +onlyGivenNames x3
    clear_value x3
    extract_lets -merge -underBinder +onlyGivenNames x4
    have h5 : KP s0 x4 := by
      unfold x4
      refine ite_of (P := KP s0) (fun _ => ?_) (fun _ => ?_)
      · exact micaRoom_keeps h0
      · exact makeRoom_keeps h0
    clear_value x4
    refine ite_of (P := KP s0) (fun _ => ?_) (fun _ => ?_)
    · refine kp_mk ?_
      extract_lets -merge -underBinder +onlyGivenNames x6
      have h7 : Keeps s0 x6 := by
        unfold x6
        exact kp_snd h5
      refine keeps_mk ?_ (Nat.le_refl _) rfl (fun h => h) (fun h => h)
      exact h7
    · exact h5

theorem persistRead_keeps {s0 : State} {own : Option Nat} {ctx : Nat} {z2 : Nat} {n : Nat} {s : State} (h0 : Keeps s0 s) : Keeps
    s0 (persistRead own ctx z2 n s) := by
  unfold persistRead
  refine ite_of (P := Keeps s0) (fun _ => ?_) (fun _ => ?_)
  · extract_lets -merge -underBinder +onlyGivenNames x1
    clear_value x1
    refine foldl_of (P := Keeps s0) (fun _ _ h2 => ?_) ?_
    · extract_lets -merge -underBinder +onlyGivenNames x3
      clear_value x3
      extract_lets -merge -underBinder +onlyGivenNames x4
      have h5 : Keeps s0 x4 := by
        unfold x4
        refine keeps_mk ?_ (Nat.le_succ _) rfl (fun h => h) (fun h => h)
        exact h2
      clear_value x4
      refine ite_of (P := Keeps s0) (fun _ => ?_) (fun _ => ?_)
      · exact kp_snd (fillLine_keeps h5)
      · exact h5
    · exact h0
  · exact h0

theorem lineWrite_keeps {s0 : State} {use : Nat} {ln : Nat} {s : State} (h0 : Keeps s0 s) : Keeps s0 (lineWrite use ln s) := by
  unfold lineWrite
  extract_lets -merge -underBinder +onlyGivenNames x1
  have h2 : Keeps s0 x1 := by
    unfold x1
    exact settleLine_keeps h0
  clear_value x1
  split
  · refine keeps_mk ?_ (Nat.le_refl _) rfl (fun h => h) (fun h => h)
    exact h2
  · extract_lets -merge -underBinder +onlyGivenNames x3
    have h4 : Keeps s0 x3 := by
      unfold x3
      exact kp_snd (makeRoom_keeps h2)
    refine keeps_mk ?_ (Nat.le_refl _) rfl (fun h => h) (fun h => h)
    exact h4

theorem dropMica_keeps {s0 : State} {lns : List Nat} {s : State} (h0 : Keeps s0 s) : Keeps s0 (dropMica lns s) := by
  unfold dropMica
  refine keeps_mk ?_ (Nat.le_refl _) rfl (fun h => h) (fun h => h)
  exact h0

theorem store_keeps {s0 : State} {z0 : Nat} {bs : Bytes} {s : State} (h0 : Keeps s0 s) : Keeps s0 (store z0 bs s) := by
  unfold store
  extract_lets -merge -underBinder +onlyGivenNames x1
  extract_lets -merge -underBinder +onlyGivenNames x2
  have h3 : Keeps s0 x2 := by
    unfold x2
    refine ite_of (P := Keeps s0) (fun _ => ?_) (fun _ => ?_)
    · refine foldl_of (P := Keeps s0) (fun _ _ h4 => ?_) ?_
      · refine foldl_of (P := Keeps s0) (fun _ _ h5 => ?_) ?_
        · split
          · exact lineWrite_keeps h5
          · exact h5
        · exact h4
      · exact h0
    · exact h0
  clear_value x2
  extract_lets -merge -underBinder +onlyGivenNames x6
  have h7 : Keeps s0 x6 := by
    unfold x6
    refine ite_of (P := Keeps s0) (fun _ => ?_) (fun _ => ?_)
    · exact h3
    · exact dropMica_keeps h3
  clear_value x6
  refine keeps_mk ?_ (Nat.le_refl _) rfl (fun h => by repeat' first | with_reducible exact h | with_reducible apply memWriteN_wf | with_reducible apply memWrite_wf | with_reducible apply memClear_wf | with_reducible apply putImage_wf | with_reducible apply pokeRuns_wf | exact rfl) (fun h => h)
  exact h7

theorem countLine_keeps {s0 : State} {counted : Bool} {use : Nat} {ln : Nat} {x : State × ReadLog} (h0 : KF s0 x) : KF s0
    (countLine counted use ln x) := by
  unfold countLine
  extract_lets -merge -underBinder +onlyGivenNames x1
  clear_value x1
  extract_lets -merge -underBinder +onlyGivenNames x2
  have h3 : Keeps s0 x2 := by
    unfold x2
    exact lineRead_keeps (kf_fst h0)
  clear_value x2
  exact kf_mk h3

theorem countReads_keeps {s0 : State} {counted : Bool} {log : ReadLog} {z2 : Nat} {n : Nat} {s : State} (h0 : Keeps s0 s) : KF s0
    (countReads counted log z2 n s) := by
  unfold countReads
  refine ite_of (P := KF s0) (fun _ => ?_) (fun _ => ?_)
  · extract_lets -merge -underBinder +onlyGivenNames x1
    clear_value x1
    refine foldl_of (P := KF s0) (fun _ _ h2 => ?_) ?_
    · split
      · exact countLine_keeps h2
      · exact h2
    · exact kf_mk h0
  · exact kf_mk h0

theorem ctxPoke_keeps {s0 : State} {ctx : Nat} {va : Nat} {b : Byte} {s : State} (h0 : Keeps s0 s) : Keeps s0 (ctxPoke ctx va b s)
    := by
  unfold ctxPoke
  split
  · refine ite_of (P := Keeps s0) (fun _ => ?_) (fun _ => ?_)
    · exact h0
    · exact store_keeps h0
  · exact h0

theorem havocMem_keeps {s0 : State} {ctx : Nat} {s : State} (h0 : Keeps s0 s) : Keeps s0 (havocMem ctx s) := by
  unfold havocMem
  extract_lets -merge -underBinder +onlyGivenNames x1
  refine foldl_of (P := Keeps s0) (fun _ _ h2 => ?_) ?_
  · exact ctxPoke_keeps h2
  · refine keeps_mk ?_ (Nat.le_succ _) rfl (fun h => h) (fun h => h)
    exact h0

/-! ### Ops -/

theorem modCmd_keeps {s0 : State} {k : Nat} {f : Cmd → Cmd} {s : State} (h0 : Keeps s0 s) : Keeps s0 (modCmd k f s) := by
  unfold modCmd
  refine keeps_mk ?_ (Nat.le_refl _) rfl (fun h => h) (fun h => h)
  exact h0

theorem modProg_keeps {s0 : State} {k : Nat} {f : Progress → Progress} {s : State} (h0 : Keeps s0 s) : Keeps s0 (modProg k f s) :=
    by
  unfold modProg
  exact modCmd_keeps h0

theorem modQueue_keeps {s0 : State} {q : Nat} {f : Queue → Queue} {s : State} (h0 : Keeps s0 s) : Keeps s0 (modQueue q f s) := by
  unfold modQueue
  split
  · exact h0
  · refine keeps_mk ?_ (Nat.le_refl _) rfl (fun h => h) (fun h => h)
    exact h0

theorem wakeUp_keeps {s0 : State} {s : State} (h0 : Keeps s0 s) : Keeps s0 (wakeUp s) := by
  unfold wakeUp
  refine ite_of (P := Keeps s0) (fun _ => ?_) (fun _ => ?_)
  · exact h0
  · refine keeps_mk ?_ (Nat.le_refl _) rfl (fun h => h) (fun h => h)
    exact h0

theorem touchStacks_keeps {s0 : State} {s : State} (h0 : Keeps s0 s) : Keeps s0 (touchStacks s) := by
  unfold touchStacks
  refine ite_of (P := Keeps s0) (fun _ => ?_) (fun _ => ?_)
  · refine keeps_mk ?_ (Nat.le_refl _) rfl (fun h => h) (fun h => h)
    exact h0
  · exact h0

theorem modCluster_keeps {s0 : State} {basalt : Nat} {cl : Nat} {f : Cluster → Cluster} {s : State} (h0 : Keeps s0 s) : Keeps s0
    (modCluster basalt cl f s) := by
  unfold modCluster
  refine keeps_mk ?_ (Nat.le_refl _) rfl (fun h => h) (fun h => h)
  exact h0

theorem takeCredit_keeps {s0 : State} {b : Nat} {c : Nat} {n : Nat} {s : State} (h0 : Keeps s0 s) : Keeps s0 (takeCredit b c n s)
    := by
  unfold takeCredit
  extract_lets -merge -underBinder +onlyGivenNames x1
  exact modCluster_keeps h0

theorem setF_keeps {s0 : State} {fs : List Nat} {s : State} (h0 : Keeps s0 s) : Keeps s0 (setF fs s) := by
  unfold setF
  extract_lets -merge -underBinder +onlyGivenNames x1
  have h2 : Keeps s0 x1 := by
    unfold x1
    refine foldl_of (P := Keeps s0) (fun _ _ h3 => ?_) ?_
    · refine foldl_of (P := Keeps s0) (fun _ _ h4 => ?_) ?_
      · exact takeCredit_keeps h4
      · exact h3
    · exact h0
  clear_value x1
  refine keeps_mk ?_ (Nat.le_refl _) rfl (fun h => h) (fun h => h)
  exact h2

theorem modFn_keeps {s0 : State} {f : Nat} {g : Fn → Fn} {s : State} (h0 : Keeps s0 s) : Keeps s0 (modFn f g s) := by
  unfold modFn
  refine keeps_mk ?_ (Nat.le_refl _) rfl (fun h => h) (fun h => h)
  exact h0

theorem raiseMsix_keeps {s0 : State} {fn : Nat} {v : Nat} {s : State} (h0 : Keeps s0 s) : Keeps s0 (raiseMsix fn v s) := by
  unfold raiseMsix
  extract_lets -merge -underBinder +onlyGivenNames x1
  clear_value x1
  refine ite_of (P := Keeps s0) (fun _ => ?_) (fun _ => ?_)
  · exact modFn_keeps h0
  · refine keeps_mk ?_ (Nat.le_refl _) rfl (fun h => h) (fun h => h)
    exact h0

theorem postEventF_keeps {s0 : State} {fn : Nat} {code : Nat} {flags : Nat} {tag : Nat} {status : Nat} {bd : Bytes} {s : State}
    (h0 : Keeps s0 s) : Keeps s0 (postEventF fn code flags tag status bd s) := by
  unfold postEventF
  extract_lets -merge -underBinder +onlyGivenNames x1
  clear_value x1
  refine ite_of (P := Keeps s0) (fun _ => ?_) (fun _ => ?_)
  · exact modFn_keeps h0
  · extract_lets -merge -underBinder +onlyGivenNames x2
    clear_value x2
    extract_lets -merge -underBinder +onlyGivenNames x3
    have h4 : Keeps s0 x3 := by
      unfold x3
      exact modFn_keeps h0
    clear_value x3
    refine ite_of (P := Keeps s0) (fun _ => ?_) (fun _ => ?_)
    · exact raiseMsix_keeps h4
    · exact h4

theorem postEvent_keeps {s0 : State} {fn : Nat} {code : Nat} {status : Nat} {bd : Bytes} {s : State} (h0 : Keeps s0 s) : Keeps s0
    (postEvent fn code status bd s) := by
  unfold postEvent
  exact postEventF_keeps h0

theorem postAll_keeps {s0 : State} {code : Nat} {status : Nat} {bd : Bytes} {s : State} (h0 : Keeps s0 s) : Keeps s0 (postAll code
    status bd s) := by
  unfold postAll
  refine foldl_of (P := Keeps s0) (fun _ _ h1 => ?_) ?_
  · exact postEvent_keeps h1
  · exact h0

theorem logEntry_keeps {s0 : State} {code : Nat} {status : Nat} {arg : Bytes} {s : State} (h0 : Keeps s0 s) : Keeps s0 (logEntry
    code status arg s) := by
  unfold logEntry
  extract_lets -merge -underBinder +onlyGivenNames x1
  clear_value x1
  extract_lets -merge -underBinder +onlyGivenNames x2
  clear_value x2
  refine keeps_mk ?_ (Nat.le_refl _) rfl (fun h => h) (fun h => h)
  exact h0

theorem ctrPut_keeps {s0 : State} {n : Nat} {v : W64} {s : State} (h0 : Keeps s0 s) : Keeps s0 (ctrPut n v s) := by
  unfold ctrPut
  refine keeps_mk ?_ (Nat.le_refl _) rfl (fun h => h) (fun h => h)
  exact h0

theorem ctrUpdate_keeps {s0 : State} {n : Nat} {v : W64} {s : State} (h0 : Keeps s0 s) : Keeps s0 (ctrUpdate n v s) := by
  unfold ctrUpdate
  extract_lets -merge -underBinder +onlyGivenNames x1
  clear_value x1
  refine ctrPut_keeps ?_
  refine keeps_mk ?_ (Nat.le_refl _) rfl (fun h => h) (fun h => h)
  exact h0

theorem modEnd_keeps {s0 : State} {e : Nat} {f : StageEnd → StageEnd} {s : State} (h0 : Keeps s0 s) : Keeps s0 (modEnd e f s) := by
  unfold modEnd
  split
  · exact h0
  · refine keeps_mk ?_ (Nat.le_refl _) rfl (fun h => h) (fun h => h)
    exact h0

theorem sendAdd_keeps {s0 : State} {x : StageEnd} {v : W64} {s : State} (h0 : Keeps s0 s) : KP s0 (sendAdd x v s) := by
  unfold sendAdd
  extract_lets -merge -underBinder +onlyGivenNames x1
  clear_value x1
  extract_lets -merge -underBinder +onlyGivenNames x2
  clear_value x2
  exact kp_mk (request_keeps h0)

theorem forwardAdd_keeps {s0 : State} {e : Nat} {v : W64} {s : State} (h0 : Keeps s0 s) : Keeps s0 (forwardAdd e v s) := by
  unfold forwardAdd
  split
  · exact h0
  · refine ite_of (P := Keeps s0) (fun _ => ?_) (fun _ => ?_)
    · exact h0
    · refine ite_of (P := Keeps s0) (fun _ => ?_) (fun _ => ?_)
      · extract_lets -merge -underBinder +onlyGivenNames x1
        have h2 : KP s0 x1 := by
          unfold x1
          exact sendAdd_keeps h0
        clear_value x1
        exact modEnd_keeps (kp_snd h2)
      · exact modEnd_keeps h0

theorem forwardAll_keeps {s0 : State} {ctx : Nat} {n : Nat} {v : W64} {s : State} (h0 : Keeps s0 s) : Keeps s0 (forwardAll ctx n v
    s) := by
  unfold forwardAll
  extract_lets -merge -underBinder +onlyGivenNames x1
  refine ite_of (P := Keeps s0) (fun _ => ?_) (fun _ => ?_)
  · exact h0
  · refine foldl_of (P := Keeps s0) (fun _ _ h2 => ?_) ?_
    · exact forwardAdd_keeps h2
    · exact h0

theorem ctrAdd_keeps {s0 : State} {ctx : Nat} {n : Nat} {v : Nat} {s : State} (h0 : Keeps s0 s) : KP s0 (ctrAdd ctx n v s) := by
  unfold ctrAdd
  extract_lets -merge -underBinder +onlyGivenNames x1
  extract_lets -merge -underBinder +onlyGivenNames x2
  exact kp_mk (forwardAll_keeps (ctrUpdate_keeps h0))

theorem ctrSet_keeps {s0 : State} {ctx : Nat} {n : Nat} {v : Nat} {s : State} (h0 : Keeps s0 s) : Keeps s0 (ctrSet ctx n v s) := by
  unfold ctrSet
  extract_lets -merge -underBinder +onlyGivenNames x1
  refine ite_of (P := Keeps s0) (fun _ => ?_) (fun _ => ?_)
  · exact h0
  · exact forwardAll_keeps (ctrUpdate_keeps h0)

theorem writeRecord_keeps {s0 : State} {r : FaultRec} {s : State} (h0 : Keeps s0 s) : KP s0 (writeRecord r s) := by
  unfold writeRecord
  extract_lets -merge -underBinder +onlyGivenNames x1
  extract_lets -merge -underBinder +onlyGivenNames x2
  clear_value x2
  extract_lets -merge -underBinder +onlyGivenNames x3
  extract_lets -merge -underBinder +onlyGivenNames x4
  refine kp_mk ?_
  refine keeps_mk ?_ (Nat.le_refl _) rfl (fun h => by repeat' first | with_reducible exact h | with_reducible apply memWriteN_wf | with_reducible apply memWrite_wf | with_reducible apply memClear_wf | with_reducible apply putImage_wf | with_reducible apply pokeRuns_wf | exact rfl) (fun h => h)
  exact h0

theorem writeCtxImage_keeps {s0 : State} {c : Nat} {no : Nat} {rec : Bytes} {cores : List (Nat × Core)} {s : State} (h0 : Keeps s0
    s) : Keeps s0 (writeCtxImage c no rec cores s) := by
  unfold writeCtxImage
  refine ite_of (P := Keeps s0) (fun _ => ?_) (fun _ => ?_)
  · exact h0
  · extract_lets -merge -underBinder +onlyGivenNames x1
    extract_lets -merge -underBinder +onlyGivenNames x2
    extract_lets -merge -underBinder +onlyGivenNames x3
    refine keeps_mk ?_ (Nat.le_succ _) rfl (fun h => by repeat' first | with_reducible exact h | with_reducible apply memWriteN_wf | with_reducible apply memWrite_wf | with_reducible apply memClear_wf | with_reducible apply putImage_wf | with_reducible apply pokeRuns_wf | exact rfl) (fun h => h)
    exact h0

theorem dropReqs_keeps {s0 : State} {k : Nat} {s : State} (h0 : Keeps s0 s) : Keeps s0 (dropReqs k s) := by
  unfold dropReqs
  refine releaseHolds_keeps ?_
  refine keeps_mk ?_ (Nat.le_refl _) rfl (fun h => h) (fun h => h)
  exact h0

theorem freeCores_keeps {s0 : State} {k : Nat} {s : State} (h0 : Keeps s0 s) : Keeps s0 (freeCores k s) := by
  unfold freeCores
  refine keeps_mk ?_ (Nat.le_refl _) rfl (fun h => h) (fun h => h)
  exact h0

theorem endCmd_keeps {s0 : State} {k : Nat} {status : Nat} {result : W64} {detail : BitVec 32} {s : State} (h0 : Keeps s0 s) :
    Keeps s0 (endCmd k status result detail s) := by
  unfold endCmd
  exact modCmd_keeps h0

theorem abortCmd_keeps {s0 : State} {k : Nat} {status : Nat} {s : State} (h0 : Keeps s0 s) : Keeps s0 (abortCmd k status s) := by
  unfold abortCmd
  extract_lets -merge -underBinder +onlyGivenNames x1
  clear_value x1
  extract_lets -merge -underBinder +onlyGivenNames x2
  clear_value x2
  refine endCmd_keeps ?_
  refine dropReqs_keeps ?_
  refine keeps_mk ?_ (Nat.le_succ _) rfl (fun h => h) (fun h => h)
  exact h0

theorem faultCmd_keeps {s0 : State} {k : Nat} {status : Nat} {info : FaultInfo} {s : State} (h0 : Keeps s0 s) : Keeps s0 (faultCmd
    k status info s) := by
  unfold faultCmd
  extract_lets -merge -underBinder +onlyGivenNames x1
  clear_value x1
  extract_lets -merge -underBinder +onlyGivenNames x2
  have h3 : Keeps s0 x2 := by
    unfold x2
    refine endCmd_keeps ?_
    refine dropReqs_keeps ?_
    refine keeps_mk ?_ (Nat.le_succ _) rfl (fun h => h) (fun h => h)
    exact h0
  clear_value x2
  exact modCmd_keeps h3

theorem finishCmd_keeps {s0 : State} {k : Nat} {result : Option W64} {detail : Option Nat} {s : State} (h0 : Keeps s0 s) : Keeps
    s0 (finishCmd k result detail s) := by
  unfold finishCmd
  split
  · exact h0
  · refine endCmd_keeps ?_
    refine keeps_mk ?_ (Nat.le_succ _) rfl (fun h => h) (fun h => h)
    exact h0

theorem contextFault_keeps {s0 : State} {ctx : Nat} {r : FaultRec} {k : Option Nat} {s : State} (h0 : Keeps s0 s) : Keeps s0
    (contextFault ctx r k s) := by
  unfold contextFault
  extract_lets -merge -underBinder +onlyGivenNames x1
  clear_value x1
  extract_lets -merge -underBinder +onlyGivenNames x2
  refine ite_of (P := Keeps s0) (fun _ => ?_) (fun _ => ?_)
  · extract_lets -merge -underBinder +onlyGivenNames x3
    have h4 : Keeps s0 x3 := by
      unfold x3
      exact modCtx_keeps h0
    clear_value x3
    extract_lets -merge -underBinder +onlyGivenNames x5
    clear_value x5
    extract_lets -merge -underBinder +onlyGivenNames x6
    have h7 : Keeps s0 x6 := by
      unfold x6
      refine foldl_of (P := Keeps s0) (fun _ _ h8 => ?_) ?_
      · exact abortCmd_keeps h8
      · exact h4
    clear_value x6
    extract_lets -merge -underBinder +onlyGivenNames x9
    extract_lets -merge -underBinder +onlyGivenNames x10
    have h11 : KP s0 x10 := by
      unfold x10
      exact writeRecord_keeps h7
    clear_value x10
    extract_lets -merge -underBinder +onlyGivenNames x12
    have h13 : Keeps s0 x12 := by
      unfold x12
      exact writeCtxImage_keeps (kp_snd h11)
    clear_value x12
    extract_lets -merge -underBinder +onlyGivenNames x14
    have h15 : Keeps s0 x14 := by
      unfold x14
      refine foldl_of (P := Keeps s0) (fun _ _ h16 => ?_) ?_
      · exact freeCores_keeps h16
      · exact h13
    clear_value x14
    extract_lets -merge -underBinder +onlyGivenNames x17
    have h18 : Keeps s0 x17 := by
      unfold x17
      exact logEntry_keeps h15
    clear_value x17
    refine ite_of (P := Keeps s0) (fun _ => ?_) (fun _ => ?_)
    · exact h18
    · exact postEvent_keeps h18
  · extract_lets -merge -underBinder +onlyGivenNames x19
    have h20 : KP s0 x19 := by
      unfold x19
      exact writeRecord_keeps h0
    clear_value x19
    exact logEntry_keeps (kp_snd h20)

theorem orSticky_keeps {s0 : State} {ctx : Nat} {b : W64} {s : State} (h0 : Keeps s0 s) : Keeps s0 (orSticky ctx b s) := by
  unfold orSticky
  exact modCtx_keeps h0

/-! ### Engine -/

theorem stopFault_keeps {s0 : State} {α : Type} {status : Nat} {info : FaultInfo} : EK s0 (stopFault status info : EngM α) := by
  unfold stopFault
  exact ek_throw

theorem notePage_keeps {s0 : State} {m : Mapping} : EK s0 (notePage m : EngM PUnit) := by
  unfold notePage
  refine ek_modify (fun _ h0 => ?_)
  refine ite_of (P := fun e : Eng => Keeps s0 e.s) (fun _ => ?_) (fun _ => ?_)
  · exact h0
  · exact h0

theorem setOuts_keeps {s0 : State} {l : List (Nat × Nat)} : EK s0 (setOuts l : EngM PUnit) := by
  unfold setOuts
  refine ek_modify (fun _ h0 => ?_)
  exact h0

theorem setCommit_keeps {s0 : State} {l : List (Nat × Nat)} : EK s0 (setCommit l : EngM PUnit) := by
  unfold setCommit
  refine ek_modify (fun _ h0 => ?_)
  exact h0

theorem readPage_keeps {s0 : State} {m : Mapping} {va : Nat} {n : Nat} : EK s0 (readPage m va n : EngM Bytes) := by
  unfold readPage
  refine ek_get (fun _ h0 => ?_)
  refine ite_of (P := EK s0) (fun _ => ?_) (fun _ => ?_)
  · split
    · refine ek_bind ?_ (fun _ => ?_)
      · exact ek_set h0
      · exact ek_pure
    · exact ek_throw
  · extract_lets -merge -underBinder +onlyGivenNames x1
    extract_lets -merge -underBinder +onlyGivenNames x2
    clear_value x2
    extract_lets -merge -underBinder +onlyGivenNames x3
    have h4 : KF s0 x3 := by
      unfold x3
      exact countReads_keeps h0
    clear_value x3
    refine ek_bind ?_ (fun _ => ?_)
    · refine ek_set ?_
      show Keeps s0 _
      dsimp -zeta only
      exact persistRead_keeps (kf_fst h4)
    · exact ek_pure

theorem readPages_keeps {s0 : State} : ∀ (z0 : Nat) (z1 : Nat) (z2 : Nat), EK s0 (readPages z0 z1 z2)
  | 0, p0, p1 => by
    rw [readPages.eq_1]
    exact ek_pure
  | p2 + 1, p0, p1 => by
    rw [readPages.eq_2]
    refine ite_of (P := EK s0) (fun _ => ?_) (fun _ => ?_)
    · exact ek_pure
    · refine ek_get (fun _ h0 => ?_)
      split
      · exact stopFault_keeps
      · extract_lets -merge -underBinder +onlyGivenNames x1
        refine ek_bind ?_ (fun _ => ?_)
        · exact notePage_keeps
        · refine ek_bind ?_ (fun _ => ?_)
          · exact readPage_keeps
          · refine ek_bind ?_ (fun _ => ?_)
            · exact readPages_keeps _ _ _
            · exact ek_pure

theorem readV_keeps {s0 : State} {va : Nat} {n : Nat} : EK s0 (readV va n : EngM Bytes) := by
  unfold readV
  exact readPages_keeps _ _ _

theorem writePages_keeps {s0 : State} : ∀ (z0 : Nat) (z1 : Nat) (z2 : Bytes), EK s0 (writePages z0 z1 z2)
  | 0, p0, p1 => by
    rw [writePages.eq_1]
    exact ek_pure
  | p2 + 1, p0, p1 => by
    rw [writePages.eq_2]
    refine ite_of (P := EK s0) (fun _ => ?_) (fun _ => ?_)
    · exact ek_pure
    · refine ek_get (fun _ h0 => ?_)
      split
      · exact stopFault_keeps
      · extract_lets -merge -underBinder +onlyGivenNames x1
        extract_lets -merge -underBinder +onlyGivenNames x2
        have h3 : ∀ y0, EK s0 (x2 y0) := by
          unfold x2
          refine fun _ => ?_
          refine ek_bind ?_ (fun _ => ?_)
          · exact notePage_keeps
          · exact writePages_keeps _ _ _
        clear_value x2
        refine ite_of (P := EK s0) (fun _ => ?_) (fun _ => ?_)
        · refine ek_bind ?_ (fun _ => ?_)
          · exact ek_set h0
          · exact h3 _
        · refine ek_bind ?_ (fun _ => ?_)
          · refine ek_set ?_
            show Keeps s0 _
            dsimp -zeta only
            exact store_keeps h0
          · exact h3 _

theorem writeV_keeps {s0 : State} {va : Nat} {bs : Bytes} : EK s0 (writeV va bs : EngM Unit) := by
  unfold writeV
  exact writePages_keeps _ _ _

theorem readNat_keeps {s0 : State} {va : Nat} {n : Nat} : EK s0 (readNat va n : EngM Nat) := by
  unfold readNat
  refine ek_bind ?_ (fun _ => ?_)
  · exact readV_keeps
  · exact ek_pure

theorem writeNat_keeps {s0 : State} {va : Nat} {n : Nat} {x : Nat} : EK s0 (writeNat va n x : EngM Unit) := by
  unfold writeNat
  exact writeV_keeps

theorem needCtr_keeps {s0 : State} {n : Nat} : EK s0 (needCtr n : EngM Unit) := by
  unfold needCtr
  refine ek_get (fun _ h0 => ?_)
  refine ite_of (P := EK s0) (fun _ => ?_) (fun _ => ?_)
  · exact ek_pure
  · exact stopFault_keeps

theorem modS_keeps {s0 : State} {f : State → State} (h0 : ∀ y0, Keeps s0 y0 → Keeps s0 (f y0)) : EK s0 (modS f : EngM PUnit) := by
  unfold modS
  refine ek_modify (fun _ h1 => ?_)
  show Keeps s0 _
  dsimp -zeta only
  exact h0 _ h1

theorem getS_keeps {s0 : State} : EK s0 (getS : EngM State) := by
  unfold getS
  refine ek_get (fun _ h0 => ?_)
  exact ek_pure

theorem getMode_keeps {s0 : State} : EK s0 (getMode : EngM (BitVec 32)) := by
  unfold getMode
  refine ek_get (fun _ h0 => ?_)
  exact ek_pure

theorem addWarn_keeps {s0 : State} {w : BitVec 16} : EK s0 (addWarn w : EngM PUnit) := by
  unfold addWarn
  refine ek_modify (fun _ h0 => ?_)
  exact h0

theorem noteEv_keeps {s0 : State} {group : Nat} {elem : Nat} {role : Nat} {lane : Nat} {ev : Ev} : EK s0 (noteEv group elem role
    lane ev : EngM PUnit) := by
  unfold noteEv
  refine ek_modify (fun _ h0 => ?_)
  extract_lets -merge -underBinder +onlyGivenNames x1
  clear_value x1
  exact h0

theorem noteEvs_keeps {s0 : State} {group : Nat} {first : Nat} {role : Nat} {lane : Nat} {evs : List Ev} : EK s0 (noteEvs group
    first role lane evs : EngM PUnit) := by
  unfold noteEvs
  refine ek_forM (fun _ => ?_)
  exact noteEv_keeps

theorem noteEvsAt_keeps {s0 : State} {group : Nat} {first : Nat} {role : Nat} {lane : Nat → Nat} {evs : List Ev} : EK s0
    (noteEvsAt group first role lane evs : EngM PUnit) := by
  unfold noteEvsAt
  refine ek_forM (fun _ => ?_)
  exact noteEv_keeps

theorem freeBelow_keeps {s0 : State} {n : Nat} : EK s0 (freeBelow n : EngM Nat) := by
  unfold freeBelow
  refine ek_get (fun _ h0 => ?_)
  refine ek_bind ?_ (fun _ => ?_)
  · refine ek_set ?_
    show Keeps s0 _
    dsimp -zeta only
    extract_lets -merge -underBinder +onlyGivenNames x1
    have h2 : Keeps s0 x1 := by
      unfold x1
      exact h0
    refine keeps_mk ?_ (Nat.le_succ _) rfl (fun h => h) (fun h => h)
    exact h2
  · exact ek_pure

theorem sendWrites_keeps {s0 : State} : ∀ (ctx : Nat) (k : Option Nat) (z2 : List (Mapping × Nat × Bytes)) (z3 : State) (_ : Keeps
    s0 z3), Keeps s0 (sendWrites ctx k z2 z3)
  | p0, p1, [], p2, h1 => by
    rw [sendWrites.eq_1]
    exact h1
  | p0, p1, (p3, p4, p5) :: p6, p2, h2 => by
    rw [sendWrites.eq_2]
    refine sendWrites_keeps _ _ _ _ ?_
    refine foldl_of (P := Keeps s0) (fun _ _ h3 => ?_) ?_
    · extract_lets -merge -underBinder +onlyGivenNames x4
      clear_value x4
      extract_lets -merge -underBinder +onlyGivenNames x5
      have h6 : Keeps s0 x5 := by
        unfold x5
        exact request_keeps h3
      clear_value x5
      split
      · exact modCmd_keeps h6
      · exact h6
    · exact h2

theorem askRemote_keeps {s0 : State} {ctx : Nat} {k : Option Nat} {owner : Nat} {va : Nat} {n : Nat} {s : State} (h0 : Keeps s0 s)
    : Keeps s0 (askRemote ctx k owner va n s) := by
  unfold askRemote
  refine ite_of (P := Keeps s0) (fun _ => ?_) (fun _ => ?_)
  · exact h0
  · split
    · exact h0
    · extract_lets -merge -underBinder +onlyGivenNames x1
      refine foldl_of (P := Keeps s0) (fun _ _ h2 => ?_) ?_
      · exact request_keeps h2
      · exact h0

theorem dropUsed_keeps {s0 : State} {owner : Nat} {used : List Nat} {s : State} (h0 : Keeps s0 s) : Keeps s0 (dropUsed owner used
    s) := by
  unfold dropUsed
  refine keeps_mk ?_ (Nat.le_refl _) rfl (fun h => h) (fun h => h)
  exact h0

theorem engCommit_keeps {s0 : State} {k : Option Nat} {e : Eng} (h0 : Keeps s0 e.s) : Keeps s0 (engCommit k e) := by
  unfold engCommit
  exact orSticky_keeps (sendWrites_keeps _ _ _ _ (dropUsed_keeps h0))

theorem havocAreas_keeps {s0 : State} {ctx : Nat} {k : Option Nat} {l : List (Nat × Nat)} {s : State} (h0 : Keeps s0 s) : Keeps s0
    (havocAreas ctx k l s) := by
  unfold havocAreas
  extract_lets -merge -underBinder +onlyGivenNames x1
  refine foldl_of (P := Keeps s0) (fun _ _ h2 => ?_) ?_
  · split
    · refine ite_of (P := Keeps s0) (fun _ => ?_) (fun _ => ?_)
      · exact sendWrites_keeps _ _ _ _ h2
      · exact store_keeps h2
    · exact h2
  · refine keeps_mk ?_ (Nat.le_succ _) rfl (fun h => h) (fun h => h)
    exact h0

theorem trapState_keeps {s0 : State} {k : Nat} {own : W64} {e : Eng} {s : State} (h0 : Keeps s0 e.s) (h1 : Keeps s0 s) : Keeps s0
    (trapState k own e s) := by
  unfold trapState
  extract_lets -merge -underBinder +onlyGivenNames x2
  clear_value x2
  extract_lets -merge -underBinder +onlyGivenNames x3
  clear_value x3
  split
  · exact orSticky_keeps (havocMem_keeps h1)
  · extract_lets -merge -underBinder +onlyGivenNames x4
    exact orSticky_keeps (havocAreas_keeps (sendWrites_keeps _ _ _ _ (dropUsed_keeps h0)))

theorem havocBanks_keeps {s0 : State} {ctx : Nat} {s : State} (h0 : Keeps s0 s) : Keeps s0 (havocBanks ctx s) := by
  unfold havocBanks
  refine keeps_mk ?_ (Nat.le_succ _) rfl (fun h => h) (fun h => h)
  exact h0

theorem havocTiles_keeps {s0 : State} {ctx : Nat} {s : State} (h0 : Keeps s0 s) : Keeps s0 (havocTiles ctx s) := by
  unfold havocTiles
  extract_lets -merge -underBinder +onlyGivenNames x1
  extract_lets -merge -underBinder +onlyGivenNames x2
  extract_lets -merge -underBinder +onlyGivenNames x3
  extract_lets -merge -underBinder +onlyGivenNames x4
  clear_value x4
  refine keeps_mk ?_ (Nat.le_succ _) rfl (fun h => h) (fun h => h)
  exact h0

theorem havocCores_keeps {s0 : State} {ctx : Nat} {s : State} (h0 : Keeps s0 s) : Keeps s0 (havocCores ctx s) := by
  unfold havocCores
  refine keeps_mk ?_ (Nat.le_succ _) rfl (fun h => h) (fun h => h)
  exact h0

theorem havocCtrs_keeps {s0 : State} {ctx : Nat} {s : State} (h0 : Keeps s0 s) : Keeps s0 (havocCtrs ctx s) := by
  unfold havocCtrs
  extract_lets -merge -underBinder +onlyGivenNames x1
  extract_lets -merge -underBinder +onlyGivenNames x2
  clear_value x2
  refine foldl_of (P := Keeps s0) (fun _ _ h3 => ?_) ?_
  · exact ctrSet_keeps h3
  · refine keeps_mk ?_ (Nat.le_succ _) rfl (fun h => h) (fun h => h)
    exact h0

theorem havocFeed_keeps {s0 : State} {ctx : Nat} {s : State} (h0 : Keeps s0 s) : Keeps s0 (havocFeed ctx s) := by
  unfold havocFeed
  extract_lets -merge -underBinder +onlyGivenNames x1
  extract_lets -merge -underBinder +onlyGivenNames x2
  extract_lets -merge -underBinder +onlyGivenNames x3
  clear_value x3
  extract_lets -merge -underBinder +onlyGivenNames x4
  have h5 : Keeps s0 x4 := by
    unfold x4
    refine keeps_mk ?_ (Nat.le_succ _) rfl (fun h => h) (fun h => h)
    exact h0
  clear_value x4
  refine ite_of (P := Keeps s0) (fun _ => ?_) (fun _ => ?_)
  · exact h5
  · extract_lets -merge -underBinder +onlyGivenNames x6
    clear_value x6
    refine keeps_mk ?_ (Nat.le_refl _) rfl (fun h => h) (fun h => h)
    exact h5

theorem havocHint_keeps {s0 : State} {s : State} (h0 : Keeps s0 s) : Keeps s0 (havocHint s) := by
  unfold havocHint
  extract_lets -merge -underBinder +onlyGivenNames x1
  extract_lets -merge -underBinder +onlyGivenNames x2
  have h3 : Keeps s0 x2 := by
    unfold x2
    refine keeps_mk ?_ (Nat.le_succ _) rfl (fun h => h) (fun h => h)
    exact h0
  clear_value x2
  refine ite_of (P := Keeps s0) (fun _ => ?_) (fun _ => ?_)
  · exact h3
  · extract_lets -merge -underBinder +onlyGivenNames x4
    clear_value x4
    refine keeps_mk ?_ (Nat.le_refl _) rfl (fun h => h) (fun h => h)
    exact h3

theorem havocColl_keeps {s0 : State} {c : Cmd} {s : State} (h0 : Keeps s0 s) : Keeps s0 (havocColl c s) := by
  unfold havocColl
  extract_lets -merge -underBinder +onlyGivenNames x1
  extract_lets -merge -underBinder +onlyGivenNames x2
  have h3 : Keeps s0 x2 := by
    unfold x2
    refine keeps_mk ?_ (Nat.le_succ _) rfl (fun h => h) (fun h => h)
    exact h0
  clear_value x2
  split
  · exact h3
  · refine ite_of (P := Keeps s0) (fun _ => ?_) (fun _ => ?_)
    · exact h3
    · extract_lets -merge -underBinder +onlyGivenNames x4
      refine foldl_of (P := Keeps s0) (fun _ _ h5 => ?_) ?_
      · exact sendPacket_keeps h5
      · exact h3

theorem havocRemote_keeps {s0 : State} {ctx : Nat} {k : Nat} {s : State} (h0 : Keeps s0 s) : Keeps s0 (havocRemote ctx k s) := by
  unfold havocRemote
  refine foldl_of (P := Keeps s0) (fun _ _ h1 => ?_) ?_
  · split
    · refine ite_of (P := Keeps s0) (fun _ => ?_) (fun _ => ?_)
      · exact sendWrites_keeps _ _ _ _ h1
      · exact h1
    · exact h1
  · refine keeps_mk ?_ (Nat.le_succ _) rfl (fun h => h) (fun h => h)
    exact h0

theorem unpredictable_keeps {s0 : State} {c : Cmd} {s : State} (h0 : Keeps s0 s) : Keeps s0 (unpredictable c s) := by
  unfold unpredictable
  extract_lets -merge -underBinder +onlyGivenNames x1
  extract_lets -merge -underBinder +onlyGivenNames x2
  clear_value x2
  extract_lets -merge -underBinder +onlyGivenNames x3
  extract_lets -merge -underBinder +onlyGivenNames x4
  clear_value x4
  extract_lets -merge -underBinder +onlyGivenNames x5
  have h6 : Keeps s0 x5 := by
    unfold x5
    exact dropReqs_keeps (havocMem_keeps h0)
  clear_value x5
  extract_lets -merge -underBinder +onlyGivenNames x7
  have h8 : Keeps s0 x7 := by
    unfold x7
    exact havocCtrs_keeps (havocCores_keeps (havocTiles_keeps (havocBanks_keeps h6)))
  clear_value x7
  extract_lets -merge -underBinder +onlyGivenNames x9
  have h10 : Keeps s0 x9 := by
    unfold x9
    refine ite_of (P := Keeps s0) (fun _ => ?_) (fun _ => ?_)
    · exact havocFeed_keeps h8
    · exact h8
  clear_value x9
  extract_lets -merge -underBinder +onlyGivenNames x11
  have h12 : Keeps s0 x11 := by
    unfold x11
    refine ite_of (P := Keeps s0) (fun _ => ?_) (fun _ => ?_)
    · exact havocHint_keeps h10
    · exact h10
  clear_value x11
  extract_lets -merge -underBinder +onlyGivenNames x13
  have h14 : Keeps s0 x13 := by
    unfold x13
    refine ite_of (P := Keeps s0) (fun _ => ?_) (fun _ => ?_)
    · exact havocColl_keeps h12
    · exact h12
  clear_value x13
  extract_lets -merge -underBinder +onlyGivenNames x15
  have h16 : Keeps s0 x15 := by
    unfold x15
    exact havocRemote_keeps (orSticky_keeps h14)
  clear_value x15
  refine ite_of (P := Keeps s0) (fun _ => ?_) (fun _ => ?_)
  · exact faultCmd_keeps h16
  · exact endCmd_keeps h16

theorem noteTouched_keeps {s0 : State} {k : Nat} {ps : List Nat} {s : State} (h0 : Keeps s0 s) : Keeps s0 (noteTouched k ps s) := by
  unfold noteTouched
  exact modCmd_keeps h0

theorem keepReads_keeps {s0 : State} {k : Nat} {e : Eng} {s : State} (h0 : Keeps s0 e.s) (h1 : Keeps s0 s) : Keeps s0 (keepReads k
    e s) := by
  unfold keepReads
  refine ite_of (P := Keeps s0) (fun _ => ?_) (fun _ => ?_)
  · exact modProg_keeps h1
  · exact h1

theorem keepProg_keeps {s0 : State} {k : Nat} {e : Eng} {s : State} (h0 : Keeps s0 e.s) (h1 : Keeps s0 s) : Keeps s0 (keepProg k e
    s) := by
  unfold keepProg
  split
  · exact modProg_keeps h1
  · exact h1

theorem runPart_keeps {s0 : State} {c : Cmd} {once : Bool} {work : EngM (Option (Option W64 × Option Nat))} {s : State} (h0 : EK
    s0 work) (h1 : Keeps s0 s) : Keeps s0 (runPart c once work s) := by
  unfold runPart
  split
  · rename_i heq
    refine ek_cut (s0 := s0) heq ?_ ?_ (fun h2 => ?_)
    · exact h0
    · show Keeps s0 _
      dsimp -zeta only
      exact h1
    · split
      · refine faultCmd_keeps ?_
        refine keepProg_keeps ?_ ?_
        · exact h2
        · refine trapState_keeps ?_ ?_
          · exact h2
          · exact h1
      · extract_lets -merge -underBinder +onlyGivenNames x3
        have h4 : Keeps s0 x3 := by
          unfold x3
          refine modCmd_keeps ?_
          refine keepReads_keeps ?_ ?_
          · exact h2
          · exact noteTouched_keeps (engCommit_keeps h2)
        clear_value x3
        split
        · exact finishCmd_keeps h4
        · exact h4
  · rename_i heq
    refine ek_cut (s0 := s0) heq ?_ ?_ (fun h5 => ?_)
    · exact h0
    · show Keeps s0 _
      dsimp -zeta only
      exact h1
    · exact askRemote_keeps h1
  · rename_i heq
    refine ek_cut (s0 := s0) heq ?_ ?_ (fun h6 => ?_)
    · exact h0
    · show Keeps s0 _
      dsimp -zeta only
      exact h1
    · split
      · refine faultCmd_keeps ?_
        refine keepProg_keeps ?_ ?_
        · exact h6
        · refine trapState_keeps ?_ ?_
          · exact h6
          · exact h1
      · refine ite_of (P := Keeps s0) (fun _ => ?_) (fun _ => ?_)
        · exact unpredictable_keeps h1
        · refine faultCmd_keeps ?_
          refine ite_of (P := Keeps s0) (fun _ => ?_) (fun _ => ?_)
          · refine trapState_keeps ?_ ?_
            · exact h6
            · exact h1
          · exact engCommit_keeps h6
  · rename_i heq
    refine ek_cut (s0 := s0) heq ?_ ?_ (fun h7 => ?_)
    · exact h0
    · show Keeps s0 _
      dsimp -zeta only
      exact h1
    · exact unpredictable_keeps h1
  · rename_i heq
    refine ek_cut (s0 := s0) heq ?_ ?_ (fun h8 => ?_)
    · exact h0
    · show Keeps s0 _
      dsimp -zeta only
      exact h1
    · refine keepReads_keeps ?_ ?_
      · exact h8
      · exact noteTouched_keeps (engCommit_keeps h8)

theorem runEng_keeps {s0 : State} {c : Cmd} {once : Bool} {work : EngM (Option W64 × Option Nat)} {s : State} (h0 : EK s0 work)
    (h1 : Keeps s0 s) : Keeps s0 (runEng c once work s) := by
  unfold runEng
  refine runPart_keeps ?_ ?_
  · refine ek_bind ?_ (fun _ => ?_)
    · exact h0
    · exact ek_pure
  · exact h1

theorem unlessTrapped_keeps {s0 : State} {act : EngM Unit} (h0 : EK s0 act) : EK s0 (unlessTrapped act : EngM Unit) := by
  unfold unlessTrapped
  refine ek_get (fun _ h1 => ?_)
  split
  · exact ek_pure
  · exact h0

theorem runOpE_keeps {s0 : State} {k : Nat} {op : Nat} {ext : Cmd → Nat} {used : List (Nat × Nat)} {legal : Cmd → Bool} {f : Cmd →
    State → State} {s : State} (h0 : ∀ y0, ∀ y1, Keeps s0 y1 → Keeps s0 (f y0 y1)) (h1 : Keeps s0 s) : Keeps s0 (runOpE k op ext used
    legal f s) := by
  unfold runOpE
  split
  · exact h1
  · refine ite_of (P := Keeps s0) (fun _ => ?_) (fun _ => ?_)
    · exact h0 _ _ h1
    · exact unpredictable_keeps h1

theorem runOp_keeps {s0 : State} {k : Nat} {op : Nat} {ext : Nat} {used : List (Nat × Nat)} {legal : Cmd → Bool} {f : Cmd → State
    → State} {s : State} (h0 : ∀ y0, ∀ y1, Keeps s0 y1 → Keeps s0 (f y0 y1)) (h1 : Keeps s0 s) : Keeps s0 (runOp k op ext used legal f
    s) := by
  unfold runOp
  refine runOpE_keeps ?_ ?_
  · exact fun _ _ h2 => h0 _ _ h2
  · exact h1

/-! ### Units -/

theorem progress_keeps {s0 : State} {k : Nat} {s : State} (h0 : Keeps s0 s) : Keeps s0 (progress k s) := by
  unfold progress
  split
  · exact h0
  · refine keeps_mk ?_ (Nat.le_refl _) rfl (fun h => h) (fun h => h)
    exact h0

theorem progressSince_keeps {s0 : State} {k : Nat} {s : State} {s' : State} (h0 : Keeps s0 s) (h1 : Keeps s0 s') : Keeps s0
    (progressSince k s s') := by
  unfold progressSince
  refine ite_of (P := Keeps s0) (fun _ => ?_) (fun _ => ?_)
  · exact h1
  · exact progress_keeps h1

theorem runWatched_keeps {s0 : State} {c : Cmd} {once : Bool} {work : EngM (Option (Option W64 × Option Nat))} {s : State} (h0 :
    EK s0 work) (h1 : Keeps s0 s) : Keeps s0 (runWatched c once work s) := by
  unfold runWatched
  refine progressSince_keeps ?_ ?_
  · exact h1
  · refine runPart_keeps ?_ ?_
    · exact h0
    · exact h1

theorem markLoading_keeps {s0 : State} {c : Cmd} {s : State} (h0 : Keeps s0 s) : Keeps s0 (markLoading c s) := by
  unfold markLoading
  extract_lets -merge -underBinder +onlyGivenNames x1
  clear_value x1
  extract_lets -merge -underBinder +onlyGivenNames x2
  clear_value x2
  refine ite_of (P := Keeps s0) (fun _ => ?_) (fun _ => ?_)
  · extract_lets -merge -underBinder +onlyGivenNames x3
    clear_value x3
    refine keeps_mk ?_ (Nat.le_refl _) rfl (fun h => h) (fun h => h)
    exact h0
  · exact h0

theorem repeatWork_keeps {s0 : State} : ∀ (f : State → State) (z1 : Nat) (z2 : State) (_ : ∀ y0, Keeps s0 y0 → Keeps s0 (f y0)) (_
    : Keeps s0 z2), Keeps s0 (repeatWork f z1 z2)
  | p0, 0, p1, h2, h3 => by
    rw [repeatWork.eq_1]
    exact h3
  | p0, p2 + 1, p1, h4, h5 => by
    rw [repeatWork.eq_2]
    refine repeatWork_keeps _ _ _ ?_ ?_
    · exact fun _ h6 => h4 _ h6
    · exact h4 _ h5

/-! ### CommandProc -/

theorem execDbTail_keeps {s0 : State} {fn : Nat} {q : Nat} {v : W64} {s : State} (h0 : Keeps s0 s) : KO s0 (execDbTail fn q v s)
    := by
  unfold execDbTail
  extract_lets -merge -underBinder +onlyGivenNames x1
  clear_value x1
  refine ko_next ?_
  refine ite_of (P := Keeps s0) (fun _ => ?_) (fun _ => ?_)
  · exact wakeUp_keeps (modQueue_keeps h0)
  · exact h0

theorem execDbCqhead_keeps {s0 : State} {fn : Nat} {q : Nat} {v : W64} {s : State} (h0 : Keeps s0 s) : KO s0 (execDbCqhead fn q v
    s) := by
  unfold execDbCqhead
  refine ko_next ?_
  refine ite_of (P := Keeps s0) (fun _ => ?_) (fun _ => ?_)
  · exact modQueue_keeps h0
  · exact h0

theorem headerSignal_keeps {s0 : State} {c : Cmd} {s : State} (h0 : Keeps s0 s) : KPP s0 (headerSignal c s) := by
  unfold headerSignal
  extract_lets -merge -underBinder +onlyGivenNames x1
  refine ite_of (P := KPP s0) (fun _ => ?_) (fun _ => ?_)
  · refine ite_of (P := KPP s0) (fun _ => ?_) (fun _ => ?_)
    · extract_lets -merge -underBinder +onlyGivenNames x2
      have h3 : KP s0 x2 := by
        unfold x2
        exact ctrAdd_keeps h0
      clear_value x2
      extract_lets -merge -underBinder +onlyGivenNames x4
      exact kpp_mk (kp_mk (kp_snd h3))
    · refine ite_of (P := KPP s0) (fun _ => ?_) (fun _ => ?_)
      · exact kpp_mk (kp_mk h0)
      · exact kpp_mk (kp_mk h0)
  · exact kpp_mk (kp_mk h0)

theorem removeCmd_keeps {s0 : State} {k : Nat} {s : State} (h0 : Keeps s0 s) : Keeps s0 (removeCmd k s) := by
  unfold removeCmd
  refine keeps_mk ?_ (Nat.le_refl _) rfl (fun h => h) (fun h => h)
  exact h0

theorem putRecord_keeps {s0 : State} {c : Cmd} {status : Nat} {result : W64} {detail : BitVec 32} {s : State} (h0 : Keeps s0 s) :
    Keeps s0 (putRecord c status result detail s) := by
  unfold putRecord
  split
  · exact h0
  · extract_lets -merge -underBinder +onlyGivenNames x1
    split
    · rename_i heq
      refine ek_cut (s0 := s0) heq ?_ ?_ (fun h2 => ?_)
      · exact writeV_keeps
      · show Keeps s0 _
        dsimp -zeta only
        exact h0
      · exact contextFault_keeps h0
    · rename_i heq
      refine ek_cut (s0 := s0) heq ?_ ?_ (fun h3 => ?_)
      · exact writeV_keeps
      · show Keeps s0 _
        dsimp -zeta only
        exact h0
      · extract_lets -merge -underBinder +onlyGivenNames x4
        have h5 : Keeps s0 x4 := by
          unfold x4
          exact modQueue_keeps (engCommit_keeps h3)
        clear_value x4
        refine ite_of (P := Keeps s0) (fun _ => ?_) (fun _ => ?_)
        · exact raiseMsix_keeps h5
        · exact h5

theorem completeCmd_keeps {s0 : State} {c : Cmd} {s : State} (h0 : Keeps s0 s) : Keeps s0 (completeCmd c s) := by
  unfold completeCmd
  extract_lets -merge -underBinder +onlyGivenNames x1
  have h2 : KPP s0 x1 := by
    unfold x1
    exact headerSignal_keeps h0
  clear_value x1
  extract_lets -merge -underBinder +onlyGivenNames x3
  extract_lets -merge -underBinder +onlyGivenNames x4
  have h5 : Keeps s0 x4 := by
    unfold x4
    exact kp_snd (kpp_snd h2)
  extract_lets -merge -underBinder +onlyGivenNames x6
  clear_value x6
  extract_lets -merge -underBinder +onlyGivenNames x7
  clear_value x7
  extract_lets -merge -underBinder +onlyGivenNames x8
  have h9 : Keeps s0 x8 := by
    unfold x8
    refine ite_of (P := Keeps s0) (fun _ => ?_) (fun _ => ?_)
    · exact contextFault_keeps h5
    · exact h5
  clear_value x8
  extract_lets -merge -underBinder +onlyGivenNames x10
  have h11 : Keeps s0 x10 := by
    unfold x10
    refine ite_of (P := Keeps s0) (fun _ => ?_) (fun _ => ?_)
    · exact putRecord_keeps h9
    · exact h9
  clear_value x10
  exact freeCores_keeps (removeCmd_keeps h11)

theorem execCommandCompletion_keeps {s0 : State} {k : Nat} {s : State} (h0 : Keeps s0 s) : KO s0 (execCommandCompletion k s) := by
  unfold execCommandCompletion
  refine ko_next ?_
  split
  · refine ite_of (P := Keeps s0) (fun _ => ?_) (fun _ => ?_)
    · exact completeCmd_keeps h0
    · exact h0
  · exact h0

theorem endFaulted_keeps {s0 : State} {k : Nat} {st : Nat} {info : FaultInfo} {s : State} (h0 : Keeps s0 s) : Keeps s0 (endFaulted
    k st info s) := by
  unfold endFaulted
  extract_lets -merge -underBinder +onlyGivenNames x1
  have h2 : Keeps s0 x1 := by
    unfold x1
    exact faultCmd_keeps h0
  clear_value x1
  split
  · exact h2
  · refine ite_of (P := Keeps s0) (fun _ => ?_) (fun _ => ?_)
    · exact completeCmd_keeps h2
    · exact contextFault_keeps (modCmd_keeps h2)

theorem readBlocks_keeps {s0 : State} : ∀ (x : Queue) (z1 : Nat) (z2 : BitVec 32), EK s0 (readBlocks x z1 z2)
  | p0, 0, p1 => by
    rw [readBlocks.eq_1]
    exact ek_pure
  | p0, p2 + 1, p1 => by
    rw [readBlocks.eq_2]
    refine ek_bind ?_ (fun _ => ?_)
    · exact readV_keeps
    · refine ek_bind ?_ (fun _ => ?_)
      · exact readBlocks_keeps _ _ _
      · exact ek_pure

theorem fetchBlocks_keeps {s0 : State} {x : Queue} : EK s0 (fetchBlocks x : EngM (Option Bytes)) := by
  unfold fetchBlocks
  refine ek_bind ?_ (fun _ => ?_)
  · exact readV_keeps
  · extract_lets -merge -underBinder +onlyGivenNames x0
    refine ite_of (P := EK s0) (fun _ => ?_) (fun _ => ?_)
    · exact ek_pure
    · refine ek_bind ?_ (fun _ => ?_)
      · exact readBlocks_keeps _ _ _
      · exact ek_pure

theorem addCmd_keeps {s0 : State} {q : Nat} {x : Queue} {blocks : Bytes} {s : State} (h0 : Keeps s0 s) : Keeps s0 (addCmd q x
    blocks s) := by
  unfold addCmd
  extract_lets -merge -underBinder +onlyGivenNames x1
  extract_lets -merge -underBinder +onlyGivenNames x2
  extract_lets -merge -underBinder +onlyGivenNames x3
  extract_lets -merge -underBinder +onlyGivenNames x4
  clear_value x4
  extract_lets -merge -underBinder +onlyGivenNames x5
  clear_value x5
  extract_lets -merge -underBinder +onlyGivenNames x6
  have h7 : Keeps s0 x6 := by
    unfold x6
    refine modQueue_keeps ?_
    refine keeps_mk ?_ (Nat.le_refl _) rfl (fun h => h) (fun h => h)
    exact h0
  clear_value x6
  refine ite_of (P := Keeps s0) (fun _ => ?_) (fun _ => ?_)
  · exact h7
  · exact endFaulted_keeps h7

theorem execCommandFetch_keeps {s0 : State} {q : Nat} {s : State} (h0 : Keeps s0 s) : KO s0 (execCommandFetch q s) := by
  unfold execCommandFetch
  refine ko_next ?_
  split
  · exact h0
  · refine ite_of (P := Keeps s0) (fun _ => ?_) (fun _ => ?_)
    · split
      · rename_i heq
        refine ek_cut (s0 := s0) heq ?_ ?_ (fun h1 => ?_)
        · exact fetchBlocks_keeps
        · show Keeps s0 _
          dsimp -zeta only
          exact h0
        · exact h0
      · rename_i heq
        refine ek_cut (s0 := s0) heq ?_ ?_ (fun h2 => ?_)
        · exact fetchBlocks_keeps
        · show Keeps s0 _
          dsimp -zeta only
          exact h0
        · exact addCmd_keeps (engCommit_keeps h2)
      · rename_i heq
        refine ek_cut (s0 := s0) heq ?_ ?_ (fun h3 => ?_)
        · exact fetchBlocks_keeps
        · show Keeps s0 _
          dsimp -zeta only
          exact h0
        · exact h0
      · rename_i heq
        refine ek_cut (s0 := s0) heq ?_ ?_ (fun h4 => ?_)
        · exact fetchBlocks_keeps
        · show Keeps s0 _
          dsimp -zeta only
          exact h0
        · exact h0
      · rename_i heq
        refine ek_cut (s0 := s0) heq ?_ ?_ (fun h5 => ?_)
        · exact fetchBlocks_keeps
        · show Keeps s0 _
          dsimp -zeta only
          exact h0
        · exact askRemote_keeps h0
      · rename_i heq
        refine ek_cut (s0 := s0) heq ?_ ?_ (fun h6 => ?_)
        · exact fetchBlocks_keeps
        · show Keeps s0 _
          dsimp -zeta only
          exact h0
        · exact contextFault_keeps h0
    · exact h0

theorem startCmd_keeps {s0 : State} {c : Cmd} {s : State} (h0 : Keeps s0 s) : Keeps s0 (startCmd c s) := by
  unfold startCmd
  extract_lets -merge -underBinder +onlyGivenNames x1
  have h2 : Keeps s0 x1 := by
    unfold x1
    exact modCmd_keeps h0
  clear_value x1
  extract_lets -merge -underBinder +onlyGivenNames x3 x4
  clear_value x3
  have h5 : Keeps s0 x4 := by
    unfold x4
    refine keeps_mk ?_ (Nat.le_refl _) rfl (fun h => h) (fun h => h)
    exact h2
  clear_value x4
  split
  · exact markLoading_keeps h5
  · exact h5

theorem openStart_keeps {s0 : State} {c : Cmd} {s : State} (h0 : Keeps s0 s) : Keeps s0 (openStart c s) := by
  unfold openStart
  refine ite_of (P := Keeps s0) (fun _ => ?_) (fun _ => ?_)
  · split
    · exact unpredictable_keeps h0
    · exact h0
  · exact h0

theorem headerWaitEnds_keeps {s0 : State} {c : Cmd} {s : State} (h0 : Keeps s0 s) : Keeps s0 (headerWaitEnds c s) := by
  unfold headerWaitEnds
  refine ite_of (P := Keeps s0) (fun _ => ?_) (fun _ => ?_)
  · exact progress_keeps h0
  · exact h0

theorem execCommandStart_keeps {s0 : State} {k : Nat} {s : State} (h0 : Keeps s0 s) : KO s0 (execCommandStart k s) := by
  unfold execCommandStart
  refine ko_next ?_
  split
  · exact h0
  · extract_lets -merge -underBinder +onlyGivenNames x1
    clear_value x1
    refine ite_of (P := Keeps s0) (fun _ => ?_) (fun _ => ?_)
    · exact endFaulted_keeps h0
    · refine ite_of (P := Keeps s0) (fun _ => ?_) (fun _ => ?_)
      · exact openStart_keeps (startCmd_keeps (headerWaitEnds_keeps h0))
      · exact h0

theorem saveCores_keeps {s0 : State} {k : Nat} {s : State} (h0 : Keeps s0 s) : Keeps s0 (saveCores k s) := by
  unfold saveCores
  extract_lets -merge -underBinder +onlyGivenNames x1
  refine keeps_mk ?_ (Nat.le_refl _) rfl (fun h => h) (fun h => h)
  exact h0

theorem restoreCores_keeps {s0 : State} {k : Nat} {s : State} (h0 : Keeps s0 s) : Keeps s0 (restoreCores k s) := by
  unfold restoreCores
  extract_lets -merge -underBinder +onlyGivenNames x1
  refine keeps_mk ?_ (Nat.le_refl _) rfl (fun h => h) (fun h => h)
  exact h0

theorem execPreemption_keeps {s0 : State} {k : Nat} {s : State} (h0 : Keeps s0 s) : KO s0 (execPreemption k s) := by
  unfold execPreemption
  refine ko_next ?_
  split
  · exact h0
  · refine ite_of (P := Keeps s0) (fun _ => ?_) (fun _ => ?_)
    · exact saveCores_keeps (modCmd_keeps h0)
    · exact h0

theorem execPreemptedResume_keeps {s0 : State} {k : Nat} {s : State} (h0 : Keeps s0 s) : KO s0 (execPreemptedResume k s) := by
  unfold execPreemptedResume
  refine ko_next ?_
  split
  · exact h0
  · extract_lets -merge -underBinder +onlyGivenNames x1
    clear_value x1
    refine ite_of (P := Keeps s0) (fun _ => ?_) (fun _ => ?_)
    · exact restoreCores_keeps (modCmd_keeps h0)
    · exact h0

theorem execWatchdogExpiry_keeps {s0 : State} {k : Nat} {s : State} (h0 : Keeps s0 s) : KO s0 (execWatchdogExpiry k s) := by
  unfold execWatchdogExpiry
  refine ko_next ?_
  split
  · exact h0
  · refine ite_of (P := Keeps s0) (fun _ => ?_) (fun _ => ?_)
    · exact endFaulted_keeps h0
    · exact h0

/-! ### Control -/

theorem execNop_keeps {s0 : State} {k : Nat} {s : State} (h0 : Keeps s0 s) : KO s0 (execNop k s) := by
  unfold execNop
  refine ko_next ?_
  refine runOp_keeps ?_ ?_
  · exact fun _ _ h1 => finishCmd_keeps h1
  · exact h0

theorem execFence_keeps {s0 : State} {k : Nat} {s : State} (h0 : Keeps s0 s) : KO s0 (execFence k s) := by
  unfold execFence
  refine ko_next ?_
  refine runOp_keeps ?_ ?_
  · refine fun _ _ h1 => ?_
    refine ite_of (P := Keeps s0) (fun _ => ?_) (fun _ => ?_)
    · exact finishCmd_keeps h1
    · exact h1
  · exact h0

theorem ctrFault_keeps {s0 : State} {c : Cmd} {n : Nat} {s : State} (h0 : Keeps s0 s) : Keeps s0 (ctrFault c n s) := by
  unfold ctrFault
  exact faultCmd_keeps h0

theorem execWaitCount_keeps {s0 : State} {k : Nat} {s : State} (h0 : Keeps s0 s) : KO s0 (execWaitCount k s) := by
  unfold execWaitCount
  refine ko_next ?_
  refine runOp_keeps ?_ ?_
  · refine fun _ _ h1 => ?_
    extract_lets -merge -underBinder +onlyGivenNames x2
    refine ite_of (P := Keeps s0) (fun _ => ?_) (fun _ => ?_)
    · exact ctrFault_keeps h1
    · refine ite_of (P := Keeps s0) (fun _ => ?_) (fun _ => ?_)
      · exact finishCmd_keeps (progress_keeps h1)
      · exact h1
  · exact h0

theorem execWaitCountTimeout_keeps {s0 : State} {k : Nat} {s : State} (h0 : Keeps s0 s) : KO s0 (execWaitCountTimeout k s) := by
  unfold execWaitCountTimeout
  refine ko_next ?_
  refine runOp_keeps ?_ ?_
  · refine fun _ _ h1 => ?_
    extract_lets -merge -underBinder +onlyGivenNames x2
    refine ite_of (P := Keeps s0) (fun _ => ?_) (fun _ => ?_)
    · exact ctrFault_keeps h1
    · refine ite_of (P := Keeps s0) (fun _ => ?_) (fun _ => ?_)
      · exact finishCmd_keeps (modCmd_keeps h1)
      · exact h1
  · exact h0

theorem signalWork_keeps {s0 : State} {c : Cmd} : EK s0 (signalWork c : EngM (Option W64 × Option Nat)) := by
  unfold signalWork
  extract_lets -merge -underBinder +onlyGivenNames x0
  refine ek_bind ?_ (fun _ => ?_)
  · exact needCtr_keeps
  · refine ek_getS (fun _ h1 => ?_)
    extract_lets -merge -underBinder +onlyGivenNames x2
    extract_lets -merge -underBinder +onlyGivenNames x3
    have h4 : ∀ y0, EK s0 (x3 y0) := by
      unfold x3
      refine fun _ => ?_
      refine ek_getS (fun _ h5 => ?_)
      extract_lets -merge -underBinder +onlyGivenNames x6
      clear_value x6
      extract_lets -merge -underBinder +onlyGivenNames x7
      have h8 : ∀ y0, EK s0 (x7 y0) := by
        unfold x7
        exact fun _ => ek_pure
      clear_value x7
      refine ite_of (P := EK s0) (fun _ => ?_) (fun _ => ?_)
      · refine ek_bind ?_ (fun _ => ?_)
        · exact writeNat_keeps
        · exact h8 _
      · exact h8 _
    clear_value x3
    refine ite_of (P := EK s0) (fun _ => ?_) (fun _ => ?_)
    · refine ek_bind ?_ (fun _ => ?_)
      · refine modS_keeps ?_
        exact fun _ h9 => ctrSet_keeps h9
      · exact h4 _
    · extract_lets -merge -underBinder +onlyGivenNames x10
      have h11 : KP s0 x10 := by
        unfold x10
        exact ctrAdd_keeps h1
      clear_value x10
      refine ek_bind ?_ (fun _ => ?_)
      · refine modS_keeps ?_
        exact fun _ h12 => kp_snd h11
      · refine ite_of (P := EK s0) (fun _ => ?_) (fun _ => ?_)
        · refine ek_bind ?_ (fun _ => ?_)
          · exact addWarn_keeps
          · exact h4 _
        · exact h4 _

theorem execSignal_keeps {s0 : State} {k : Nat} {s : State} (h0 : Keeps s0 s) : KO s0 (execSignal k s) := by
  unfold execSignal
  refine ko_next ?_
  refine runOp_keeps ?_ ?_
  · refine fun _ _ h1 => ?_
    refine ite_of (P := Keeps s0) (fun _ => ?_) (fun _ => ?_)
    · refine runEng_keeps ?_ ?_
      · exact signalWork_keeps
      · exact h1
    · exact h1
  · exact h0

theorem waitFrameStep_keeps {s0 : State} {k : Nat} {s : State} (h0 : Keeps s0 s) : Keeps s0 (waitFrameStep k s) := by
  unfold waitFrameStep
  refine runOp_keeps ?_ ?_
  · refine fun _ _ h1 => ?_
    refine ite_of (P := Keeps s0) (fun _ => ?_) (fun _ => ?_)
    · exact finishCmd_keeps h1
    · exact h1
  · exact h0

theorem execWaitFrame_keeps {s0 : State} {k : Nat} {s : State} (h0 : Keeps s0 s) : KO s0 (execWaitFrame k s) := by
  unfold execWaitFrame
  exact ko_next (waitFrameStep_keeps h0)

theorem execWaitFrameReached_keeps {s0 : State} {k : Nat} {s : State} (h0 : Keeps s0 s) : KO s0 (execWaitFrameReached k s) := by
  unfold execWaitFrameReached
  exact ko_next (waitFrameStep_keeps h0)

theorem execDebugMark_keeps {s0 : State} {k : Nat} {s : State} (h0 : Keeps s0 s) : KO s0 (execDebugMark k s) := by
  unfold execDebugMark
  refine ko_next ?_
  refine runOp_keeps ?_ ?_
  · exact fun _ _ h1 => finishCmd_keeps h1
  · exact h0

/-! ### Movers -/

theorem needApart_keeps {s0 : State} {src : List (Nat × Nat)} {dst : List (Nat × Nat)} : EK s0 (needApart src dst : EngM Unit) := by
  unfold needApart
  refine ek_get (fun _ h0 => ?_)
  refine ite_of (P := EK s0) (fun _ => ?_) (fun _ => ?_)
  · exact ek_throw
  · exact ek_pure

theorem mvLoop_keeps {s0 : State} : ∀ (k : Nat) (unit' : Nat → EngM Unit) (z2 : Nat) (z3 : Nat) (_ : ∀ y0, EK s0 (unit' y0)), EK
    s0 (mvLoop k unit' z2 z3)
  | p0, p1, 0, p2, h1 => by
    rw [mvLoop.eq_1]
    exact ek_pure
  | p0, p1, p3 + 1, p2, h2 => by
    rw [mvLoop.eq_2]
    refine ek_get (fun _ h3 => ?_)
    split
    · exact ek_pure
    · refine ek_bind ?_ (fun _ => ?_)
      · exact h2 _
      · refine ek_bind ?_ (fun _ => ?_)
        · refine modS_keeps ?_
          exact fun _ h4 => modProg_keeps h4
        · refine mvLoop_keeps _ _ _ _ ?_
          exact fun _ => h2 _

theorem mvPart_keeps {s0 : State} {c : Cmd} {n : Nat} {total : Nat} {src : List (Nat × Nat)} {dst : List (Nat × Nat)} {unit' : Nat
    → EngM Unit} {result : Nat} (h0 : ∀ y0, EK s0 (unit' y0)) : EK s0 (mvPart c n total src dst unit' result : EngM (Option (Option
    W64 × Option Nat))) := by
  unfold mvPart
  extract_lets -merge -underBinder +onlyGivenNames x1
  have h2 : ∀ y0, EK s0 (x1 y0) := by
    unfold x1
    refine fun _ => ?_
    refine ek_bind ?_ (fun _ => ?_)
    · exact setOuts_keeps
    · extract_lets -merge -underBinder +onlyGivenNames x3
      refine ek_bind ?_ (fun _ => ?_)
      · refine mvLoop_keeps _ _ _ _ ?_
        exact fun _ => h0 _
      · exact ek_pure
  clear_value x1
  refine ite_of (P := EK s0) (fun _ => ?_) (fun _ => ?_)
  · refine ek_bind ?_ (fun _ => ?_)
    · exact needApart_keeps
    · exact h2 _
  · exact h2 _

theorem mvRun_keeps {s0 : State} {once : Bool} {total : Cmd → Nat} {work : Cmd → Nat → EngM (Option (Option W64 × Option Nat))} {c
    : Cmd} {s : State} (h0 : ∀ y0, ∀ y1, EK s0 (work y0 y1)) (h1 : Keeps s0 s) : Keeps s0 (mvRun once total work c s) := by
  unfold mvRun
  refine runWatched_keeps ?_ ?_
  · exact h0 _ _
  · refine keeps_mk ?_ (Nat.le_succ _) rfl (fun h => h) (fun h => h)
    exact h1

theorem cpUnit_keeps {s0 : State} {c : Cmd} {t : Nat} : EK s0 (cpUnit c t : EngM Unit) := by
  unfold cpUnit
  extract_lets -merge -underBinder +onlyGivenNames x0
  extract_lets -merge -underBinder +onlyGivenNames x1
  extract_lets -merge -underBinder +onlyGivenNames x2
  extract_lets -merge -underBinder +onlyGivenNames x3
  extract_lets -merge -underBinder +onlyGivenNames x4
  refine ite_of (P := EK s0) (fun _ => ?_) (fun _ => ?_)
  · extract_lets -merge -underBinder +onlyGivenNames x5
    extract_lets -merge -underBinder +onlyGivenNames x6
    extract_lets -merge -underBinder +onlyGivenNames x7
    extract_lets -merge -underBinder +onlyGivenNames x8
    refine ek_bind ?_ (fun _ => ?_)
    · exact readV_keeps
    · extract_lets -merge -underBinder +onlyGivenNames x9
      have h10 : ∀ y0, EK s0 (x9 y0) := by
        unfold x9
        refine fun _ => ?_
        extract_lets -merge -underBinder +onlyGivenNames x11
        clear_value x11
        refine ek_bind ?_ (fun _ => ?_)
        · exact noteEvs_keeps
        · refine ek_bind ?_ (fun _ => ?_)
          · exact unlessTrapped_keeps writeV_keeps
          · exact unlessTrapped_keeps writeV_keeps
      clear_value x9
      refine ite_of (P := EK s0) (fun _ => ?_) (fun _ => ?_)
      · refine ek_bind ?_ (fun _ => ?_)
        · exact readV_keeps
        · exact h10 _
      · refine ek_bind ?_ (fun _ => ?_)
        · exact ek_pure
        · exact h10 _
  · refine ek_bind ?_ (fun _ => ?_)
    · exact readV_keeps
    · exact writeV_keeps

theorem cpWork_keeps {s0 : State} {c : Cmd} {n : Nat} : EK s0 (cpWork c n : EngM (Option (Option W64 × Option Nat))) := by
  unfold cpWork
  extract_lets -merge -underBinder +onlyGivenNames x0
  clear_value x0
  refine mvPart_keeps ?_
  exact fun _ => cpUnit_keeps

theorem execCopy_keeps {s0 : State} {k : Nat} {s : State} (h0 : Keeps s0 s) : KO s0 (execCopy k s) := by
  unfold execCopy
  refine ko_next ?_
  refine runOpE_keeps ?_ ?_
  · refine fun _ _ h1 => ?_
    refine mvRun_keeps ?_ ?_
    · exact fun _ _ => cpWork_keeps
    · exact h1
  · exact h0

theorem readColumnOf_keeps {s0 : State} : ∀ (va : Nat) (stride : Nat) (len : Nat) (z3 : Nat), EK s0 (readColumnOf va stride len z3)
  | p0, p1, p2, 0 => by
    rw [readColumnOf.eq_1]
    exact ek_pure
  | p0, p1, p2, p3 + 1 => by
    rw [readColumnOf.eq_2]
    refine ek_bind ?_ (fun _ => ?_)
    · exact readColumnOf_keeps _ _ _ _
    · refine ek_bind ?_ (fun _ => ?_)
      · exact readV_keeps
      · exact ek_pure

theorem ctUnit_keeps {s0 : State} {c : Cmd} {t : Nat} : EK s0 (ctUnit c t : EngM Unit) := by
  unfold ctUnit
  extract_lets -merge -underBinder +onlyGivenNames x0
  extract_lets -merge -underBinder +onlyGivenNames x1
  extract_lets -merge -underBinder +onlyGivenNames x2
  extract_lets -merge -underBinder +onlyGivenNames x3
  refine ek_bind ?_ (fun _ => ?_)
  · exact readColumnOf_keeps _ _ _ _
  · exact writeV_keeps

theorem ctWork_keeps {s0 : State} {c : Cmd} {n : Nat} : EK s0 (ctWork c n : EngM (Option (Option W64 × Option Nat))) := by
  unfold ctWork
  extract_lets -merge -underBinder +onlyGivenNames x0
  extract_lets -merge -underBinder +onlyGivenNames x1
  extract_lets -merge -underBinder +onlyGivenNames x2
  refine mvPart_keeps ?_
  exact fun _ => ctUnit_keeps

theorem execCopyT_keeps {s0 : State} {k : Nat} {s : State} (h0 : Keeps s0 s) : KO s0 (execCopyT k s) := by
  unfold execCopyT
  refine ko_next ?_
  refine runOp_keeps ?_ ?_
  · refine fun _ _ h1 => ?_
    refine mvRun_keeps ?_ ?_
    · exact fun _ _ => ctWork_keeps
    · exact h1
  · exact h0

theorem grIndices_keeps {s0 : State} {c : Cmd} : EK s0 (grIndices c : EngM (List Nat)) := by
  unfold grIndices
  refine ek_bind ?_ (fun _ => ?_)
  · exact readV_keeps
  · extract_lets -merge -underBinder +onlyGivenNames x0
    clear_value x0
    refine ite_of (P := EK s0) (fun _ => ?_) (fun _ => ?_)
    · exact ek_throw
    · exact ek_pure

theorem grUnit_keeps {s0 : State} {c : Cmd} {ix : List Nat} {t : Nat} : EK s0 (grUnit c ix t : EngM Unit) := by
  unfold grUnit
  extract_lets -merge -underBinder +onlyGivenNames x0
  extract_lets -merge -underBinder +onlyGivenNames x1
  refine ek_bind ?_ (fun _ => ?_)
  · exact readV_keeps
  · exact writeV_keeps

theorem grWork_keeps {s0 : State} {c : Cmd} {n : Nat} : EK s0 (grWork c n : EngM (Option (Option W64 × Option Nat))) := by
  unfold grWork
  refine ek_bind ?_ (fun _ => ?_)
  · exact grIndices_keeps
  · refine mvPart_keeps ?_
    exact fun _ => grUnit_keeps

theorem execGatherRows_keeps {s0 : State} {k : Nat} {s : State} (h0 : Keeps s0 s) : KO s0 (execGatherRows k s) := by
  unfold execGatherRows
  refine ko_next ?_
  refine runOp_keeps ?_ ?_
  · refine fun _ _ h1 => ?_
    refine mvRun_keeps ?_ ?_
    · exact fun _ _ => grWork_keeps
    · exact h1
  · exact h0

theorem scUnit_keeps {s0 : State} {c : Cmd} {ix : List Nat} {t : Nat} : EK s0 (scUnit c ix t : EngM Unit) := by
  unfold scUnit
  extract_lets -merge -underBinder +onlyGivenNames x0
  extract_lets -merge -underBinder +onlyGivenNames x1
  extract_lets -merge -underBinder +onlyGivenNames x2
  refine ite_of (P := EK s0) (fun _ => ?_) (fun _ => ?_)
  · extract_lets -merge -underBinder +onlyGivenNames x3
    clear_value x3
    extract_lets -merge -underBinder +onlyGivenNames x4
    extract_lets -merge -underBinder +onlyGivenNames x5
    extract_lets -merge -underBinder +onlyGivenNames x6
    refine ek_bind ?_ (fun _ => ?_)
    · exact readV_keeps
    · refine ek_bind ?_ (fun _ => ?_)
      · exact readV_keeps
      · extract_lets -merge -underBinder +onlyGivenNames x7
        clear_value x7
        refine ek_bind ?_ (fun _ => ?_)
        · exact noteEvs_keeps
        · exact unlessTrapped_keeps writeV_keeps
  · refine ek_bind ?_ (fun _ => ?_)
    · exact readV_keeps
    · exact writeV_keeps

theorem scWork_keeps {s0 : State} {c : Cmd} {n : Nat} : EK s0 (scWork c n : EngM (Option (Option W64 × Option Nat))) := by
  unfold scWork
  refine ek_bind ?_ (fun _ => ?_)
  · exact grIndices_keeps
  · refine mvPart_keeps ?_
    exact fun _ => scUnit_keeps

theorem execScatterRows_keeps {s0 : State} {k : Nat} {s : State} (h0 : Keeps s0 s) : KO s0 (execScatterRows k s) := by
  unfold execScatterRows
  refine ko_next ?_
  refine runOp_keeps ?_ ?_
  · refine fun _ _ h1 => ?_
    refine mvRun_keeps ?_ ?_
    · exact fun _ _ => scWork_keeps
    · exact h1
  · exact h0

theorem pfCount_keeps {s0 : State} {k : Nat} {r : Bool × State} (h0 : KP s0 r) : Keeps s0 (pfCount k r) := by
  unfold pfCount
  refine ite_of (P := Keeps s0) (fun _ => ?_) (fun _ => ?_)
  · exact modProg_keeps (kp_snd h0)
  · exact kp_snd h0

theorem pfLine_keeps {s0 : State} {c : Cmd} {ln : Nat} {s : State} (h0 : Keeps s0 s) : Keeps s0 (pfLine c ln s) := by
  unfold pfLine
  split
  · exact modProg_keeps h0
  · extract_lets -merge -underBinder +onlyGivenNames x1
    refine ite_of (P := Keeps s0) (fun _ => ?_) (fun _ => ?_)
    · refine ite_of (P := Keeps s0) (fun _ => ?_) (fun _ => ?_)
      · exact pfCount_keeps (kp_mk (tagLine_keeps h0))
      · exact request_keeps h0
    · exact pfCount_keeps (fillLine_keeps h0)

theorem pfFinish_keeps {s0 : State} {k : Nat} {s : State} (h0 : Keeps s0 s) : Keeps s0 (pfFinish k s) := by
  unfold pfFinish
  split
  · exact h0
  · refine ite_of (P := Keeps s0) (fun _ => ?_) (fun _ => ?_)
    · exact h0
    · exact finishCmd_keeps h0

theorem pfWork_keeps {s0 : State} {c : Cmd} {s : State} (h0 : Keeps s0 s) : Keeps s0 (pfWork c s) := by
  unfold pfWork
  refine ite_of (P := Keeps s0) (fun _ => ?_) (fun _ => ?_)
  · refine pfFinish_keeps ?_
    refine modProg_keeps ?_
    refine foldl_of (P := Keeps s0) (fun _ _ h1 => ?_) ?_
    · exact pfLine_keeps h1
    · exact h0
  · exact pfFinish_keeps h0

theorem execPrefetch_keeps {s0 : State} {k : Nat} {s : State} (h0 : Keeps s0 s) : KO s0 (execPrefetch k s) := by
  unfold execPrefetch
  refine ko_next ?_
  split
  · exact h0
  · refine ite_of (P := Keeps s0) (fun _ => ?_) (fun _ => ?_)
    · exact h0
    · refine runOp_keeps ?_ ?_
      · exact fun _ _ h1 => pfWork_keeps h1
      · exact h0

theorem cancelPrefetch_keeps {s0 : State} {ctx : Nat} {s : State} (h0 : Keeps s0 s) : Keeps s0 (cancelPrefetch ctx s) := by
  unfold cancelPrefetch
  extract_lets -merge -underBinder +onlyGivenNames x1
  clear_value x1
  refine modCtx_keeps ?_
  refine keeps_mk ?_ (Nat.le_refl _) rfl (fun h => h) (fun h => h)
  exact h0

theorem execPrefetchCancel_keeps {s0 : State} {k : Nat} {s : State} (h0 : Keeps s0 s) : KO s0 (execPrefetchCancel k s) := by
  unfold execPrefetchCancel
  refine ko_next ?_
  split
  · exact h0
  · refine ite_of (P := Keeps s0) (fun _ => ?_) (fun _ => ?_)
    · refine runOp_keeps ?_ ?_
      · exact fun _ _ h1 => finishCmd_keeps (cancelPrefetch_keeps h1)
      · exact h0
    · exact h0

/-! ### Arrive -/

theorem askReplay_keeps {s0 : State} {port : Nat} {hdr : Bool} {s : State} (h0 : Keeps s0 s) : Keeps s0 (askReplay port hdr s) := by
  unfold askReplay
  exact modPort_keeps h0

theorem takeLink_keeps {s0 : State} {port : Nat} {p : Packet} {s : State} (h0 : Keeps s0 s) : KP s0 (takeLink port p s) := by
  unfold takeLink
  refine ite_of (P := KP s0) (fun _ => ?_) (fun _ => ?_)
  · exact kp_mk h0
  · extract_lets -merge -underBinder +onlyGivenNames x1
    clear_value x1
    refine ite_of (P := KP s0) (fun _ => ?_) (fun _ => ?_)
    · exact kp_mk h0
    · refine ite_of (P := KP s0) (fun _ => ?_) (fun _ => ?_)
      · exact kp_mk (askReplay_keeps h0)
      · refine ite_of (P := KP s0) (fun _ => ?_) (fun _ => ?_)
        · exact kp_mk h0
        · exact kp_mk (modPort_keeps h0)

theorem arrive_keeps {s0 : State} {port : Nat} {ptype : Nat} {p : Packet} {f : State → State} {s : State} (h0 : ∀ y0, Keeps s0 y0
    → Keeps s0 (f y0)) (h1 : Keeps s0 s) : Keeps s0 (arrive port ptype p f s) := by
  unfold arrive
  refine ite_of (P := Keeps s0) (fun _ => ?_) (fun _ => ?_)
  · exact h1
  · extract_lets -merge -underBinder +onlyGivenNames x2
    have h3 : KP s0 x2 := by
      unfold x2
      exact takeLink_keeps h1
    clear_value x2
    refine ite_of (P := Keeps s0) (fun _ => ?_) (fun _ => ?_)
    · exact kp_snd h3
    · refine ite_of (P := Keeps s0) (fun _ => ?_) (fun _ => ?_)
      · exact countUnroutable_keeps (kp_snd h3)
      · exact h0 _ (kp_snd h3)

/-! ### Feeds -/

theorem modFeed_keeps {s0 : State} {f : Nat} {g : Feed → Feed} {s : State} (h0 : Keeps s0 s) : Keeps s0 (modFeed f g s) := by
  unfold modFeed
  refine keeps_mk ?_ (Nat.le_refl _) rfl (fun h => h) (fun h => h)
  exact h0

theorem execFeedBind_keeps {s0 : State} {k : Nat} {s : State} (h0 : Keeps s0 s) : KO s0 (execFeedBind k s) := by
  unfold execFeedBind
  refine ko_next ?_
  refine runOp_keeps ?_ ?_
  · refine fun _ _ h1 => ?_
    refine ite_of (P := Keeps s0) (fun _ => ?_) (fun _ => ?_)
    · exact faultCmd_keeps h1
    · exact modFeed_keeps h1
  · exact h0

theorem bindFeed_keeps {s0 : State} {f : Nat} {s : State} {k : Nat} (h0 : Keeps s0 s) : Keeps s0 (bindFeed f s k) := by
  unfold bindFeed
  split
  · exact h0
  · refine ite_of (P := Keeps s0) (fun _ => ?_) (fun _ => ?_)
    · exact finishCmd_keeps (progress_keeps (modFeed_keeps h0))
    · exact h0

theorem bindFeeds_keeps {s0 : State} {s : State} (h0 : Keeps s0 s) : Keeps s0 (bindFeeds s) := by
  unfold bindFeeds
  refine foldl_of (P := Keeps s0) (fun _ _ h1 => ?_) ?_
  · refine foldl_of (P := Keeps s0) (fun _ _ h2 => ?_) ?_
    · exact bindFeed_keeps h2
    · exact modFeed_keeps h1
  · exact h0

theorem closeSlot_keeps {s0 : State} {f : Nat} {n : Nat} {bytes : Nat} {s : State} (h0 : Keeps s0 s) : Keeps s0 (closeSlot f n
    bytes s) := by
  unfold closeSlot
  extract_lets -merge -underBinder +onlyGivenNames x1
  clear_value x1
  extract_lets -merge -underBinder +onlyGivenNames x2
  extract_lets -merge -underBinder +onlyGivenNames x3
  clear_value x3
  extract_lets -merge -underBinder +onlyGivenNames x4
  extract_lets -merge -underBinder +onlyGivenNames x5
  have h6 : Keeps s0 x5 := by
    unfold x5
    split
    · rename_i heq
      refine ek_cut (s0 := s0) heq ?_ ?_ (fun h7 => ?_)
      · exact writeV_keeps
      · show Keeps s0 _
        dsimp -zeta only
        exact h0
      · exact engCommit_keeps h7
    · rename_i heq
      refine ek_cut (s0 := s0) heq ?_ ?_ (fun h8 => ?_)
      · exact writeV_keeps
      · show Keeps s0 _
        dsimp -zeta only
        exact h0
      · exact contextFault_keeps h0
  clear_value x5
  exact kp_snd (ctrAdd_keeps h6)

theorem execFeedSlotClose_keeps {s0 : State} {f : Nat} {s : State} (h0 : Keeps s0 s) : KO s0 (execFeedSlotClose f s) := by
  unfold execFeedSlotClose
  extract_lets -merge -underBinder +onlyGivenNames x1
  clear_value x1
  extract_lets -merge -underBinder +onlyGivenNames x2
  refine ko_next ?_
  refine ite_of (P := Keeps s0) (fun _ => ?_) (fun _ => ?_)
  · extract_lets -merge -underBinder +onlyGivenNames x3
    extract_lets -merge -underBinder +onlyGivenNames x4
    have h5 : Keeps s0 x4 := by
      unfold x4
      exact modFeed_keeps h0
    clear_value x4
    refine ite_of (P := Keeps s0) (fun _ => ?_) (fun _ => ?_)
    · exact modFeed_keeps h5
    · exact closeSlot_keeps h5
  · exact h0

theorem releaseSlots_keeps {s0 : State} {s : State} (h0 : Keeps s0 s) : Keeps s0 (releaseSlots s) := by
  unfold releaseSlots
  refine foldl_of (P := Keeps s0) (fun _ _ h1 => ?_) ?_
  · extract_lets -merge -underBinder +onlyGivenNames x2
    have h3 : Keeps s0 x2 := by
      unfold x2
      exact modFeed_keeps h1
    clear_value x2
    refine foldl_of (P := Keeps s0) (fun _ _ h4 => ?_) ?_
    · exact closeSlot_keeps h4
    · exact h3
  · exact h0

theorem dropFeed_keeps {s0 : State} {f : Nat} {s : State} (h0 : Keeps s0 s) : Keeps s0 (dropFeed f s) := by
  unfold dropFeed
  exact modFeed_keeps h0

theorem execFeedDb_keeps {s0 : State} {fn : Nat} {f : Nat} {v : W64} {s : State} (h0 : Keeps s0 s) : KO s0 (execFeedDb fn f v s)
    := by
  unfold execFeedDb
  extract_lets -merge -underBinder +onlyGivenNames x1
  clear_value x1
  refine ko_next ?_
  refine ite_of (P := Keeps s0) (fun _ => ?_) (fun _ => ?_)
  · exact h0
  · refine ite_of (P := Keeps s0) (fun _ => ?_) (fun _ => ?_)
    · exact dropFeed_keeps h0
    · split
      · exact dropFeed_keeps h0
      · refine ite_of (P := Keeps s0) (fun _ => ?_) (fun _ => ?_)
        · exact dropFeed_keeps h0
        · exact modFeed_keeps h0

theorem takeFeed_keeps {s0 : State} {f : Nat} {n : Nat} {off : Nat} {p : Packet} {s : State} (h0 : Keeps s0 s) : Keeps s0
    (takeFeed f n off p s) := by
  unfold takeFeed
  extract_lets -merge -underBinder +onlyGivenNames x1
  clear_value x1
  extract_lets -merge -underBinder +onlyGivenNames x2
  split
  · rename_i heq
    refine ek_cut (s0 := s0) heq ?_ ?_ (fun h3 => ?_)
    · exact writeV_keeps
    · show Keeps s0 _
      dsimp -zeta only
      exact h0
    · exact modFeed_keeps (engCommit_keeps h3)
  · rename_i heq
    refine ek_cut (s0 := s0) heq ?_ ?_ (fun h4 => ?_)
    · exact writeV_keeps
    · show Keeps s0 _
      dsimp -zeta only
      exact h0
    · exact contextFault_keeps h0

theorem execPktFeed_keeps {s0 : State} {port : Nat} {p : Packet} {s : State} (h0 : Keeps s0 s) : KO s0 (execPktFeed port p s) := by
  unfold execPktFeed
  refine ko_next ?_
  refine arrive_keeps ?_ ?_
  · refine fun _ h1 => ?_
    extract_lets -merge -underBinder +onlyGivenNames x2
    extract_lets -merge -underBinder +onlyGivenNames x3
    clear_value x3
    extract_lets -merge -underBinder +onlyGivenNames x4
    split
    · exact dropFeed_keeps h1
    · refine ite_of (P := Keeps s0) (fun _ => ?_) (fun _ => ?_)
      · exact takeFeed_keeps h1
      · exact dropFeed_keeps h1
  · exact h0

end Sys2Proof.Machine
end

