-- ==== Sys2Proof/Laws/KeepsMatrix.lean ====
section
/-!
SUPPORT. What no command does (see Laws/Keeps.lean): the matrix arrays, time, registers, the start of a compute reset and the power manager.
-/
namespace Sys2Proof.Machine

/-! ### Matrix -/

theorem readColumn_keeps {s0 : State} {fmt : Nat} {k : Nat} {va : Nat} {stride : Nat} {sva : Nat} {sstride : Nat} {r : Nat} {n :
    Nat} : EK s0 (readColumn fmt k va stride sva sstride r n : EngM (List MaElem × List (Nat × Nat))) := by
  unfold readColumn
  refine ek_bind ?_ (fun _ => ?_)
  · exact readV_keeps
  · extract_lets -merge -underBinder +onlyGivenNames x0
    have h1 : ∀ y0, EK s0 (x0 y0) := by
      unfold x0
      exact fun _ => ek_pure
    clear_value x0
    refine ite_of (P := EK s0) (fun _ => ?_) (fun _ => ?_)
    · refine ek_bind ?_ (fun _ => ?_)
      · exact readV_keeps
      · exact h1 _
    · refine ek_bind ?_ (fun _ => ?_)
      · exact ek_pure
      · exact h1 _

theorem loadColumn_keeps {s0 : State} {c : Cmd} {keep : Bool} {tile : Nat} {r : Nat} {n : Nat} : EK s0 (loadColumn c keep tile r n
    : EngM BankCol) := by
  unfold loadColumn
  extract_lets -merge -underBinder +onlyGivenNames x0
  extract_lets -merge -underBinder +onlyGivenNames x1
  refine ek_bind ?_ (fun _ => ?_)
  · exact readColumn_keeps
  · extract_lets -merge -underBinder +onlyGivenNames x2
    clear_value x2
    refine ek_bind ?_ (fun _ => ?_)
    · exact noteEvsAt_keeps
    · exact ek_pure

theorem loadColumns_keeps {s0 : State} : ∀ (c : Cmd) (keep : Bool) (tile : Nat) (r : Nat) (z4 : Nat) (z5 : Nat), EK s0
    (loadColumns c keep tile r z4 z5)
  | p0, p1, p2, p3, 0, p4 => by
    rw [loadColumns.eq_1]
    exact ek_pure
  | p0, p1, p2, p3, p5 + 1, p4 => by
    rw [loadColumns.eq_2]
    refine ek_bind ?_ (fun _ => ?_)
    · exact loadColumn_keeps
    · refine ek_bind ?_ (fun _ => ?_)
      · exact loadColumns_keeps _ _ _ _ _ _
      · exact ek_pure

theorem modLoaded_keeps {s0 : State} {c : Cmd} {t : Nat} {f : Bank → Bank} {s : State} (h0 : Keeps s0 s) : Keeps s0 (modLoaded c t
    f s) := by
  unfold modLoaded
  extract_lets -merge -underBinder +onlyGivenNames x1
  refine keeps_mk ?_ (Nat.le_refl _) rfl (fun h => h) (fun h => h)
  exact h0

theorem loadTiles_keeps {s0 : State} : ∀ (c : Cmd) (strict : Bool) (keep : Bool) (z3 : Nat) (z4 : Nat), EK s0 (loadTiles c strict
    keep z3 z4)
  | p0, p1, p2, 0, p3 => by
    rw [loadTiles.eq_1]
    exact ek_pure
  | p0, p1, p2, p4 + 1, p3 => by
    rw [loadTiles.eq_2]
    refine ite_of (P := EK s0) (fun _ => ?_) (fun _ => ?_)
    · refine ek_bind ?_ (fun _ => ?_)
      · exact ek_pure
      · refine ek_bind ?_ (fun _ => ?_)
        · refine modS_keeps ?_
          exact fun _ h0 => modLoaded_keeps h0
        · refine ek_bind ?_ (fun _ => ?_)
          · refine modS_keeps ?_
            exact fun _ h1 => modProg_keeps h1
          · exact loadTiles_keeps _ _ _ _ _
    · refine ek_bind ?_ (fun _ => ?_)
      · exact loadColumns_keeps _ _ _ _ _ _
      · refine ek_bind ?_ (fun _ => ?_)
        · refine modS_keeps ?_
          exact fun _ h2 => modLoaded_keeps h2
        · refine ek_bind ?_ (fun _ => ?_)
          · refine modS_keeps ?_
            exact fun _ h3 => modProg_keeps h3
          · exact loadTiles_keeps _ _ _ _ _

theorem ldWork_keeps {s0 : State} {c : Cmd} {n : Nat} : EK s0 (ldWork c n : EngM (Option (Option W64 × Option Nat))) := by
  unfold ldWork
  refine ek_bind ?_ (fun _ => ?_)
  · exact getMode_keeps
  · extract_lets -merge -underBinder +onlyGivenNames x0
    extract_lets -merge -underBinder +onlyGivenNames x1
    refine ek_bind ?_ (fun _ => ?_)
    · exact loadTiles_keeps _ _ _ _ _
    · refine ite_of (P := EK s0) (fun _ => ?_) (fun _ => ?_)
      · exact ek_pure
      · refine ek_bind ?_ (fun _ => ?_)
        · refine modS_keeps ?_
          refine fun _ h2 => ?_
          refine foldl_of (P := Keeps s0) (fun _ _ h3 => ?_) ?_
          · exact modLoaded_keeps h3
          · exact h2
        · exact ek_pure

theorem execMaLoad_keeps {s0 : State} {k : Nat} {s : State} (h0 : Keeps s0 s) : KO s0 (execMaLoad k s) := by
  unfold execMaLoad
  refine ko_next ?_
  refine runOp_keeps ?_ ?_
  · refine fun _ _ h1 => ?_
    extract_lets -merge -underBinder +onlyGivenNames x2
    clear_value x2
    split
    · exact faultCmd_keeps h1
    · refine ite_of (P := Keeps s0) (fun _ => ?_) (fun _ => ?_)
      · refine runWatched_keeps ?_ ?_
        · exact ldWork_keeps
        · refine markLoading_keeps ?_
          refine keeps_mk ?_ (Nat.le_succ _) rfl (fun h => h) (fun h => h)
          exact h1
      · exact h1
  · exact h0

theorem swapTile_keeps {s0 : State} {b : Nat} {t : Nat} {s : State} (h0 : Keeps s0 s) : Keeps s0 (swapTile b t s) := by
  unfold swapTile
  split
  · refine keeps_mk ?_ (Nat.le_refl _) rfl (fun h => h) (fun h => h)
    exact h0
  · exact h0
  · exact h0

theorem execMaSwap_keeps {s0 : State} {k : Nat} {s : State} (h0 : Keeps s0 s) : KO s0 (execMaSwap k s) := by
  unfold execMaSwap
  refine ko_next ?_
  refine runOp_keeps ?_ ?_
  · refine fun _ _ h1 => ?_
    extract_lets -merge -underBinder +onlyGivenNames x2
    clear_value x2
    split
    · exact faultCmd_keeps h1
    · refine ite_of (P := Keeps s0) (fun _ => ?_) (fun _ => ?_)
      · refine finishCmd_keeps ?_
        refine foldl_of (P := Keeps s0) (fun _ _ h3 => ?_) ?_
        · exact swapTile_keeps h3
        · exact h1
      · exact h1
  · exact h0

theorem takeStream_keeps {s0 : State} {key : Nat} {n : Nat} {s : State} (h0 : Keeps s0 s) : KP s0 (takeStream key n s) := by
  unfold takeStream
  extract_lets -merge -underBinder +onlyGivenNames x1
  clear_value x1
  refine kp_mk ?_
  refine keeps_mk ?_ (Nat.le_refl _) rfl (fun h => h) (fun h => h)
  exact h0

theorem pushStream_keeps {s0 : State} {key : Nat} {bs : Bytes} {s : State} (h0 : Keeps s0 s) : Keeps s0 (pushStream key bs s) := by
  unfold pushStream
  refine keeps_mk ?_ (Nat.le_refl _) rfl (fun h => h) (fun h => h)
  exact h0

theorem readInput_keeps {s0 : State} {kind : RunKind} {c : Cmd} {b : Bank} {m : Nat} : EK s0 (readInput kind c b m : EngM (Option
    (Bytes × Bytes))) := by
  unfold readInput
  extract_lets -merge -underBinder +onlyGivenNames x0
  extract_lets -merge -underBinder +onlyGivenNames x1
  extract_lets -merge -underBinder +onlyGivenNames x2
  refine ite_of (P := EK s0) (fun _ => ?_) (fun _ => ?_)
  · refine ek_getS (fun _ h3 => ?_)
    extract_lets -merge -underBinder +onlyGivenNames x4
    clear_value x4
    extract_lets -merge -underBinder +onlyGivenNames x5
    have h6 : KP s0 x5 := by
      unfold x5
      exact takeStream_keeps h3
    clear_value x5
    extract_lets -merge -underBinder +onlyGivenNames x7
    clear_value x7
    refine ek_bind ?_ (fun _ => ?_)
    · refine modS_keeps ?_
      exact fun _ h8 => modProg_keeps (kp_snd h6)
    · exact ek_pure
  · refine ek_bind ?_ (fun _ => ?_)
    · exact readV_keeps
    · extract_lets -merge -underBinder +onlyGivenNames x9
      have h10 : ∀ y0, EK s0 (x9 y0) := by
        unfold x9
        exact fun _ => ek_pure
      clear_value x9
      refine ite_of (P := EK s0) (fun _ => ?_) (fun _ => ?_)
      · refine ek_bind ?_ (fun _ => ?_)
        · exact readV_keeps
        · exact h10 _
      · refine ek_bind ?_ (fun _ => ?_)
        · exact ek_pure
        · exact h10 _

theorem initialAcc_keeps {s0 : State} {c : Cmd} {lane : Nat → Nat} {f : Fmt} {rm : RM} {m : Nat} {n : Nat} : EK s0 (initialAcc c
    lane f rm m n : EngM (List Acc)) := by
  unfold initialAcc
  refine ite_of (P := EK s0) (fun _ => ?_) (fun _ => ?_)
  · extract_lets -merge -underBinder +onlyGivenNames x0
    refine ek_bind ?_ (fun _ => ?_)
    · exact readV_keeps
    · extract_lets -merge -underBinder +onlyGivenNames x1
      have h2 : ∀ y0, EK s0 (x1 y0) := by
        unfold x1
        refine fun _ => ?_
        extract_lets -merge -underBinder +onlyGivenNames x3
        refine ek_bind ?_ (fun _ => ?_)
        · exact noteEvsAt_keeps
        · exact ek_pure
      clear_value x1
      refine ite_of (P := EK s0) (fun _ => ?_) (fun _ => ?_)
      · refine ek_bind ?_ (fun _ => ?_)
        · exact readV_keeps
        · exact h2 _
      · refine ek_bind ?_ (fun _ => ?_)
        · exact ek_pure
        · exact h2 _
  · exact ek_pure

theorem noteAccs_keeps {s0 : State} {m : Nat} {first : Nat} {as : List Acc} : EK s0 (noteAccs m first as : EngM PUnit) := by
  unfold noteAccs
  refine ek_forM (fun _ => ?_)
  refine ek_forM (fun _ => ?_)
  exact noteEv_keeps

theorem noteStream_keeps {s0 : State} {m : Nat} {first : Nat} {tile : Nat → Nat} {xs : List (Int × List (Bool × Nat × Bool) ×
    Option Ev × Ev)} : EK s0 (noteStream m first tile xs : EngM PUnit) := by
  unfold noteStream
  refine ek_forM (fun _ => ?_)
  refine ek_bind ?_ (fun _ => ?_)
  · exact noteEv_keeps
  · exact noteEv_keeps

theorem flushTo_keeps {s0 : State} {c : Cmd} {pair : Nat} {dir : Nat} : EK s0 (flushTo c pair dir : EngM Bool) := by
  unfold flushTo
  refine ek_getS (fun _ h0 => ?_)
  extract_lets -merge -underBinder +onlyGivenNames x1
  clear_value x1
  extract_lets -merge -underBinder +onlyGivenNames x2
  extract_lets -merge -underBinder +onlyGivenNames x3
  refine ite_of (P := EK s0) (fun _ => ?_) (fun _ => ?_)
  · exact ek_pure
  · refine ek_bind ?_ (fun _ => ?_)
    · refine modS_keeps ?_
      exact fun _ h4 => modProg_keeps (pushStream_keeps h4)
    · exact ek_pure

theorem flushOut_keeps {s0 : State} {c : Cmd} : EK s0 (flushOut c : EngM Bool) := by
  unfold flushOut
  exact flushTo_keeps

theorem writeOutput_keeps {s0 : State} {c : Cmd} {lane : Nat → Nat} {src : Nat} {rm : RM} {m : Nat} {row : Nat} {vals : List FV} :
    EK s0 (writeOutput c lane src rm m row vals : EngM Unit) := by
  unfold writeOutput
  extract_lets -merge -underBinder +onlyGivenNames x0
  extract_lets -merge -underBinder +onlyGivenNames x1
  extract_lets -merge -underBinder +onlyGivenNames x2
  refine ek_bind ?_ (fun _ => ?_)
  · exact noteEvsAt_keeps
  · extract_lets -merge -underBinder +onlyGivenNames x3
    clear_value x3
    refine ite_of (P := EK s0) (fun _ => ?_) (fun _ => ?_)
    · refine ek_bind ?_ (fun _ => ?_)
      · refine modS_keeps ?_
        exact fun _ h4 => modProg_keeps h4
      · refine ek_bind ?_ (fun _ => ?_)
        · exact flushOut_keeps
        · exact ek_pure
    · refine ek_bind ?_ (fun _ => ?_)
      · exact writeV_keeps
      · exact writeV_keeps

theorem strictCol_keeps {s0 : State} {c : Cmd} {b : Bank} {n : Nat} : EK s0 (strictCol c b n : EngM (List FV)) := by
  unfold strictCol
  split
  · refine ek_bind ?_ (fun _ => ?_)
    · exact readColumn_keeps
    · exact ek_pure
  · refine ek_getS (fun _ h0 => ?_)
    exact ek_pure

theorem strictCols_keeps {s0 : State} : ∀ (c : Cmd) (b : Bank) (z2 : Nat), EK s0 (strictCols c b z2)
  | p0, p1, 0 => by
    rw [strictCols.eq_1]
    exact ek_pure
  | p0, p1, p2 + 1 => by
    rw [strictCols.eq_2]
    refine ek_bind ?_ (fun _ => ?_)
    · exact strictCols_keeps _ _ _
    · refine ek_bind ?_ (fun _ => ?_)
      · exact strictCol_keeps
      · exact ek_pure

theorem noteCuts_keeps {s0 : State} {kind : RunKind} {c : Cmd} {b : Bank} {m : Nat} {lane : Nat → Nat} {x : List MaElem} : EK s0
    (noteCuts kind c b m lane x : EngM PUnit) := by
  unfold noteCuts
  refine ek_forM (fun _ => ?_)
  extract_lets -merge -underBinder +onlyGivenNames x0
  refine ite_of (P := EK s0) (fun _ => ?_) (fun _ => ?_)
  · exact noteEv_keeps
  · exact ek_pure

theorem strictVector_keeps {s0 : State} {kind : RunKind} {c : Cmd} {b : Bank} {m : Nat} {xs : List MaElem} : EK s0 (strictVector
    kind c b m xs : EngM Unit) := by
  unfold strictVector
  refine ek_bind ?_ (fun _ => ?_)
  · exact getMode_keeps
  · refine ek_getS (fun _ h0 => ?_)
    extract_lets -merge -underBinder +onlyGivenNames x1
    clear_value x1
    refine ek_bind ?_ (fun _ => ?_)
    · exact noteCuts_keeps
    · extract_lets -merge -underBinder +onlyGivenNames x2
      clear_value x2
      extract_lets -merge -underBinder +onlyGivenNames x3
      clear_value x3
      refine ek_bind ?_ (fun _ => ?_)
      · exact strictCols_keeps _ _ _
      · extract_lets -merge -underBinder +onlyGivenNames x4
        clear_value x4
        extract_lets -merge -underBinder +onlyGivenNames x5
        have h6 : ∀ y0, EK s0 (x5 y0) := by
          unfold x5
          refine fun _ => ?_
          refine ek_forM (fun _ => ?_)
          refine ek_forM (fun _ => ?_)
          exact noteEv_keeps
        clear_value x5
        split
        · extract_lets -merge -underBinder +onlyGivenNames x7
          refine ek_bind ?_ (fun _ => ?_)
          · exact noteEvsAt_keeps
          · exact writeOutput_keeps
        · refine ek_bind ?_ (fun _ => ?_)
          · exact initialAcc_keeps
          · extract_lets -merge -underBinder +onlyGivenNames x8
            refine ek_bind ?_ (fun _ => ?_)
            · exact h6 _
            · exact writeOutput_keeps
        · refine ek_bind ?_ (fun _ => ?_)
          · exact initialAcc_keeps
          · extract_lets -merge -underBinder +onlyGivenNames x9
            refine ek_bind ?_ (fun _ => ?_)
            · exact h6 _
            · exact writeOutput_keeps

theorem forwardVector_keeps {s0 : State} {c : Cmd} {b : Bank} {m : Nat} {xs : List MaElem} : EK s0 (forwardVector c b m xs : EngM
    Unit) := by
  unfold forwardVector
  refine ek_getS (fun _ h0 => ?_)
  extract_lets -merge -underBinder +onlyGivenNames x1
  clear_value x1
  extract_lets -merge -underBinder +onlyGivenNames x2
  clear_value x2
  extract_lets -merge -underBinder +onlyGivenNames x3
  refine ek_bind ?_ (fun _ => ?_)
  · exact noteStream_keeps
  · refine ek_bind ?_ (fun _ => ?_)
    · exact initialAcc_keeps
    · extract_lets -merge -underBinder +onlyGivenNames x4
      clear_value x4
      refine ek_bind ?_ (fun _ => ?_)
      · exact noteAccs_keeps
      · exact writeOutput_keeps

theorem transposedVector_keeps {s0 : State} {c : Cmd} {b : Bank} {m : Nat} {xs : List MaElem} : EK s0 (transposedVector c b m xs :
    EngM Unit) := by
  unfold transposedVector
  refine ek_getS (fun _ h0 => ?_)
  extract_lets -merge -underBinder +onlyGivenNames x1
  clear_value x1
  extract_lets -merge -underBinder +onlyGivenNames x2
  clear_value x2
  refine ek_bind ?_ (fun _ => ?_)
  · exact noteStream_keeps
  · extract_lets -merge -underBinder +onlyGivenNames x3
    refine ek_bind ?_ (fun _ => ?_)
    · exact initialAcc_keeps
    · extract_lets -merge -underBinder +onlyGivenNames x4
      clear_value x4
      refine ek_bind ?_ (fun _ => ?_)
      · exact noteAccs_keeps
      · exact writeOutput_keeps

theorem elemVector_keeps {s0 : State} {c : Cmd} {b : Bank} {m : Nat} {xs : List MaElem} : EK s0 (elemVector c b m xs : EngM Unit)
    := by
  unfold elemVector
  refine ek_getS (fun _ h0 => ?_)
  extract_lets -merge -underBinder +onlyGivenNames x1
  clear_value x1
  extract_lets -merge -underBinder +onlyGivenNames x2
  clear_value x2
  extract_lets -merge -underBinder +onlyGivenNames x3
  extract_lets -merge -underBinder +onlyGivenNames x4
  extract_lets -merge -underBinder +onlyGivenNames x5
  clear_value x5
  extract_lets -merge -underBinder +onlyGivenNames x6
  extract_lets -merge -underBinder +onlyGivenNames x7
  refine ek_bind ?_ (fun _ => ?_)
  · refine ek_forM (fun _ => ?_)
    refine ek_forM (fun _ => ?_)
    exact noteEv_keeps
  · exact writeOutput_keeps

theorem outputReady_keeps {s0 : State} {c : Cmd} : EK s0 (outputReady c : EngM Bool) := by
  unfold outputReady
  refine ite_of (P := EK s0) (fun _ => ?_) (fun _ => ?_)
  · refine ek_bind ?_ (fun _ => ?_)
    · exact flushOut_keeps
    · refine ek_getS (fun _ h0 => ?_)
      exact ek_pure
  · exact ek_pure

theorem vectorOut_keeps {s0 : State} {kind : RunKind} {c : Cmd} {b : Bank} {m : Nat} {xs : List MaElem} : EK s0 (vectorOut kind c
    b m xs : EngM Unit) := by
  unfold vectorOut
  refine ek_getS (fun _ h0 => ?_)
  extract_lets -merge -underBinder +onlyGivenNames x1
  have h2 : ∀ y0, EK s0 (x1 y0) := by
    unfold x1
    refine fun _ => ?_
    refine modS_keeps ?_
    exact fun _ h3 => modProg_keeps h3
  clear_value x1
  refine ite_of (P := EK s0) (fun _ => ?_) (fun _ => ?_)
  · refine ek_bind ?_ (fun _ => ?_)
    · exact strictVector_keeps
    · exact h2 _
  · split
    · refine ek_bind ?_ (fun _ => ?_)
      · exact forwardVector_keeps
      · exact h2 _
    · refine ek_bind ?_ (fun _ => ?_)
      · exact transposedVector_keeps
      · exact h2 _
    · refine ek_bind ?_ (fun _ => ?_)
      · exact elemVector_keeps
      · exact h2 _

theorem runVector_keeps {s0 : State} {kind : RunKind} {c : Cmd} {b : Bank} {m : Nat} : EK s0 (runVector kind c b m : EngM Bool) :=
    by
  unfold runVector
  refine ek_bind ?_ (fun _ => ?_)
  · exact outputReady_keeps
  · refine ek_getS (fun _ h0 => ?_)
    refine ite_of (P := EK s0) (fun _ => ?_) (fun _ => ?_)
    · exact ek_pure
    · refine ite_of (P := EK s0) (fun _ => ?_) (fun _ => ?_)
      · refine ek_bind ?_ (fun _ => ?_)
        · exact readInput_keeps
        · exact ek_pure
      · extract_lets -merge -underBinder +onlyGivenNames x1
        extract_lets -merge -underBinder +onlyGivenNames x2
        extract_lets -merge -underBinder +onlyGivenNames x3
        refine ek_bind ?_ (fun _ => ?_)
        · refine modS_keeps ?_
          refine fun _ h4 => ?_
          refine modProg_keeps ?_
          refine foldl_of (P := Keeps s0) (fun _ _ h5 => ?_) ?_
          · exact takeCredit_keeps h5
          · exact h4
        · refine ite_of (P := EK s0) (fun _ => ?_) (fun _ => ?_)
          · exact ek_pure
          · refine ek_bind ?_ (fun _ => ?_)
            · exact readInput_keeps
            · split
              · exact ek_pure
              · refine ek_bind ?_ (fun _ => ?_)
                · exact vectorOut_keeps
                · exact ek_pure

theorem runVectors_keeps {s0 : State} : ∀ (kind : RunKind) (c : Cmd) (b : Bank) (z3 : Nat) (z4 : Nat), EK s0 (runVectors kind c b
    z3 z4)
  | p0, p1, p2, p3, 0 => by
    rw [runVectors.eq_1]
    exact ek_pure
  | p0, p1, p2, p3, p4 + 1 => by
    rw [runVectors.eq_2]
    refine ek_get (fun _ h0 => ?_)
    split
    · exact ek_pure
    · refine ek_bind ?_ (fun _ => ?_)
      · exact runVector_keeps
      · refine ite_of (P := EK s0) (fun _ => ?_) (fun _ => ?_)
        · exact runVectors_keeps _ _ _ _ _
        · exact ek_pure

theorem runWork_keeps {s0 : State} {kind : RunKind} {c : Cmd} {b : Bank} {n : Nat} : EK s0 (runWork kind c b n : EngM (Option
    (Option W64 × Option Nat))) := by
  unfold runWork
  extract_lets -merge -underBinder +onlyGivenNames x0
  refine ek_bind ?_ (fun _ => ?_)
  · exact runVectors_keeps _ _ _ _ _
  · extract_lets -merge -underBinder +onlyGivenNames x1
    have h2 : ∀ y0, EK s0 (x1 y0) := by
      unfold x1
      refine fun _ => ?_
      refine ek_getS (fun _ h3 => ?_)
      extract_lets -merge -underBinder +onlyGivenNames x4
      extract_lets -merge -underBinder +onlyGivenNames x5
      exact ek_pure
    clear_value x1
    refine ite_of (P := EK s0) (fun _ => ?_) (fun _ => ?_)
    · refine ek_bind ?_ (fun _ => ?_)
      · exact flushOut_keeps
      · exact h2 _
    · refine ek_bind ?_ (fun _ => ?_)
      · exact ek_pure
      · exact h2 _

theorem runStart_keeps {s0 : State} {kind : RunKind} {n : Nat} {c : Cmd} {s : State} (h0 : Keeps s0 s) : Keeps s0 (runStart kind n
    c s) := by
  unfold runStart
  split
  · exact faultCmd_keeps h0
  · exact abortCmd_keeps h0
  · exact unpredictable_keeps h0
  · refine ite_of (P := Keeps s0) (fun _ => ?_) (fun _ => ?_)
    · exact faultCmd_keeps h0
    · refine ite_of (P := Keeps s0) (fun _ => ?_) (fun _ => ?_)
      · exact faultCmd_keeps h0
      · refine runWatched_keeps ?_ ?_
        · exact runWork_keeps
        · exact h0

theorem runAll_keeps {s0 : State} {kind : RunKind} {k : Nat} {op : Nat} {s : State} (h0 : Keeps s0 s) : Keeps s0 (runAll kind k op
    s) := by
  unfold runAll
  refine runOpE_keeps ?_ ?_
  · exact fun _ _ h1 => runStart_keeps h1
  · exact h0

theorem execMaRun_keeps {s0 : State} {k : Nat} {s : State} (h0 : Keeps s0 s) : KO s0 (execMaRun k s) := by
  unfold execMaRun
  exact ko_next (runAll_keeps h0)

theorem execMaRunT_keeps {s0 : State} {k : Nat} {s : State} (h0 : Keeps s0 s) : KO s0 (execMaRunT k s) := by
  unfold execMaRunT
  exact ko_next (runAll_keeps h0)

theorem execMaElem_keeps {s0 : State} {k : Nat} {s : State} (h0 : Keeps s0 s) : KO s0 (execMaElem k s) := by
  unfold execMaElem
  exact ko_next (runAll_keeps h0)

theorem onePass_keeps {s0 : State} {kind : RunKind} {k : Nat} {op : Nat} {s : State} (h0 : Keeps s0 s) : Keeps s0 (onePass kind k
    op s) := by
  unfold onePass
  refine runOpE_keeps ?_ ?_
  · refine fun _ _ h1 => ?_
    refine ite_of (P := Keeps s0) (fun _ => ?_) (fun _ => ?_)
    · exact h1
    · exact runStart_keeps h1
  · exact h0

theorem execTilePass_keeps {s0 : State} {k : Nat} {s : State} (h0 : Keeps s0 s) : KO s0 (execTilePass k s) := by
  unfold execTilePass
  refine ko_next ?_
  split
  · exact h0
  · refine ite_of (P := Keeps s0) (fun _ => ?_) (fun _ => ?_)
    · exact onePass_keeps h0
    · refine ite_of (P := Keeps s0) (fun _ => ?_) (fun _ => ?_)
      · exact onePass_keeps h0
      · exact h0

/-! ### Clock -/

theorem passTime_keeps {s0 : State} {n : Nat} {s : State} (h0 : Keeps s0 s) : Keeps s0 (passTime n s) := by
  unfold passTime
  extract_lets -merge -underBinder +onlyGivenNames x1
  extract_lets -merge -underBinder +onlyGivenNames x2
  clear_value x2
  extract_lets -merge -underBinder +onlyGivenNames x3
  extract_lets -merge -underBinder +onlyGivenNames x4
  extract_lets -merge -underBinder +onlyGivenNames x5
  clear_value x5
  refine keeps_mk ?_ (Nat.le_refl _) rfl (fun h => h) (by first | exact fun h => h | exact fun _ => ⟨rfl, rfl⟩)
  exact h0

theorem elapse_keeps {s0 : State} {n : Nat} {s : State} (h0 : Keeps s0 s) : Keeps s0 (elapse n s) := by
  unfold elapse
  extract_lets -merge -underBinder +onlyGivenNames x1
  have h2 : Keeps s0 x1 := by
    unfold x1
    exact passTime_keeps h0
  clear_value x1
  refine keeps_mk ?_ (Nat.le_refl _) rfl (fun h => h) (fun h => h)
  exact h2

theorem sendTick_keeps {s0 : State} {z0 : State} {dst : BitVec 12} {s : State} (h0 : Keeps s0 z0) (h1 : Keeps s0 s) : Keeps s0
    (sendTick z0 dst s) := by
  unfold sendTick
  extract_lets -merge -underBinder +onlyGivenNames x2
  extract_lets -merge -underBinder +onlyGivenNames x3
  clear_value x3
  exact sendPacket_keeps h1

theorem sendTicks_keeps {s0 : State} {s : State} (h0 : Keeps s0 s) : Keeps s0 (sendTicks s) := by
  unfold sendTicks
  extract_lets -merge -underBinder +onlyGivenNames x1
  clear_value x1
  extract_lets -merge -underBinder +onlyGivenNames x2
  clear_value x2
  extract_lets -merge -underBinder +onlyGivenNames x3
  clear_value x3
  split
  · exact h0
  · refine ite_of (P := Keeps s0) (fun _ => ?_) (fun _ => ?_)
    · exact h0
    · refine foldl_of (P := Keeps s0) (fun _ _ h4 => ?_) ?_
      · refine sendTick_keeps ?_ ?_
        · exact h0
        · exact h4
      · exact h0
  · refine foldl_of (P := Keeps s0) (fun _ _ h5 => ?_) ?_
    · refine sendTick_keeps ?_ ?_
      · exact h0
      · exact h5
    · exact h0

theorem riseOut_keeps {s0 : State} {s : State} (h0 : Keeps s0 s) : Keeps s0 (riseOut s) := by
  unfold riseOut
  refine ite_of (P := Keeps s0) (fun _ => ?_) (fun _ => ?_)
  · refine keeps_mk ?_ (Nat.le_refl _) rfl (fun h => h) (fun h => h)
    exact h0
  · exact h0

theorem switchMicrocode_keeps {s0 : State} {s : State} (h0 : Keeps s0 s) : Keeps s0 (switchMicrocode s) := by
  unfold switchMicrocode
  split
  · refine ite_of (P := Keeps s0) (fun _ => ?_) (fun _ => ?_)
    · refine keeps_mk ?_ (Nat.le_refl _) rfl (fun h => h) (fun h => h)
      exact h0
    · exact h0
  · exact h0

/-- R40: the change of the period keeps both periods in range. -/
theorem changePeriod_ok {f : BitVec 48} {t : TimeBase} (h : PeriodOk t) : PeriodOk (changePeriod f t) := by
  unfold changePeriod
  split
  · exact ⟨h.2, h.2⟩
  · exact h

/-- R29: a change of source leaves the periods alone. -/
theorem switchSource_ok {t : TimeBase} (h : PeriodOk t) : PeriodOk (switchSource t) := by
  unfold switchSource
  split <;> exact h

/-- R33: noting a skipped range leaves the periods alone. -/
theorem noteSkip_ok {old : W64} {t : TimeBase} (h : PeriodOk t) : PeriodOk (noteSkip old t) := by
  unfold noteSkip
  dsimp only
  split <;> exact h

theorem boundaryTo_keeps {s0 : State} {f : BitVec 48} {s : State} (h0 : Keeps s0 s) : Keeps s0 (boundaryTo f s) := by
  unfold boundaryTo
  refine sendTicks_keeps (riseOut_keeps (switchMicrocode_keeps (bindFeeds_keeps
    (keeps_mk h0 (Nat.le_refl _) rfl (fun h => h) (fun h => switchSource_ok (changePeriod_ok (noteSkip_ok ?_)))))))
  exact h

theorem boundary_keeps {s0 : State} {s : State} (h0 : Keeps s0 s) : Keeps s0 (boundary s) := by
  unfold boundary
  refine boundaryTo_keeps ?_
  refine keeps_mk ?_ (Nat.le_refl _) rfl (fun h => h) (fun h => h)
  exact h0

theorem onePh_keeps {s0 : State} {s : State} (h0 : Keeps s0 s) : Keeps s0 (onePh s) := by
  unfold onePh
  refine ite_of (P := Keeps s0) (fun _ => ?_) (fun _ => ?_)
  · refine ite_of (P := Keeps s0) (fun _ => ?_) (fun _ => ?_)
    · exact boundary_keeps (passTime_keeps h0)
    · exact elapse_keeps h0
  · refine keeps_mk ?_ (Nat.le_refl _) rfl (fun h => h) (fun h => h)
    exact h0

theorem toBoundary_keeps {s0 : State} {s : State} (h0 : Keeps s0 s) : Keeps s0 (toBoundary s) := by
  unfold toBoundary
  refine ite_of (P := Keeps s0) (fun _ => ?_) (fun _ => ?_)
  · exact onePh_keeps (elapse_keeps h0)
  · exact onePh_keeps h0

/-! ### TimeBase -/

theorem execFrameBoundary_keeps {s0 : State} {s : State} (h0 : Keeps s0 s) : KO s0 (execFrameBoundary s) := by
  unfold execFrameBoundary
  exact ko_next (toBoundary_keeps h0)

theorem execTbCtrlWrite_keeps {s0 : State} {fn : Nat} {v : W64} {s : State} (h0 : Keeps s0 s) : KO s0 (execTbCtrlWrite fn v s) := by
  unfold execTbCtrlWrite
  extract_lets -merge -underBinder +onlyGivenNames x1
  clear_value x1
  extract_lets -merge -underBinder +onlyGivenNames x2
  clear_value x2
  refine ko_next ?_
  refine ite_of (P := Keeps s0) (fun _ => ?_) (fun _ => ?_)
  · refine keeps_mk ?_ (Nat.le_refl _) rfl (fun h => h) (fun h => h)
    exact h0
  · exact h0

theorem execTbPeriodSetWrite_keeps {s0 : State} {fn : Nat} {v : W64} {s : State} (h0 : Keeps s0 s) : KO s0 (execTbPeriodSetWrite
    fn v s) := by
  unfold execTbPeriodSetWrite
  refine ko_next (ite_of (P := Keeps s0) (fun _ => ?_) (fun _ => h0))
  refine keeps_mk h0 (Nat.le_refl _) rfl (fun h => h) (fun h => ?_)
  split
  · rename_i hp
    exact ⟨h.1, hp⟩
  · exact h

theorem armPeriod_keeps {s0 : State} {arm : Bool} {f : BitVec 48} {s : State} (h0 : Keeps s0 s) : Keeps s0 (armPeriod arm f s) := by
  unfold armPeriod
  refine keeps_mk ?_ (Nat.le_refl _) rfl (fun h => h) (fun h => h)
  exact h0

theorem execTbPeriodAtWrite_keeps {s0 : State} {fn : Nat} {v : W64} {s : State} (h0 : Keeps s0 s) : KO s0 (execTbPeriodAtWrite fn
    v s) := by
  unfold execTbPeriodAtWrite
  refine ko_next ?_
  refine ite_of (P := Keeps s0) (fun _ => ?_) (fun _ => ?_)
  · exact armPeriod_keeps h0
  · exact h0

theorem logTimeBase_keeps {s0 : State} {kind : Nat} {before : W64} {after : W64} {s : State} (h0 : Keeps s0 s) : Keeps s0
    (logTimeBase kind before after s) := by
  unfold logTimeBase
  exact logEntry_keeps h0

theorem reportTickLost_keeps {s0 : State} {kind : Nat} {s : State} (h0 : Keeps s0 s) : Keeps s0 (reportTickLost kind s) := by
  unfold reportTickLost
  refine ite_of (P := Keeps s0) (fun _ => ?_) (fun _ => ?_)
  · exact mgmtSend_keeps h0
  · exact h0

theorem noteJoined_keeps {s0 : State} {s : State} (h0 : Keeps s0 s) : Keeps s0 (noteJoined s) := by
  unfold noteJoined
  refine ite_of (P := Keeps s0) (fun _ => ?_) (fun _ => ?_)
  · refine keeps_mk ?_ (Nat.le_refl _) rfl (fun h => h) (fun h => h)
    exact h0
  · exact h0

theorem countAccepted_keeps {s0 : State} {e : Int} {delayNs : Nat} {s : State} (h0 : Keeps s0 s) : Keeps s0 (countAccepted e
    delayNs s) := by
  unfold countAccepted
  refine keeps_mk ?_ (Nat.le_refl _) rfl (fun h => h) (fun h => h)
  exact h0

theorem stepWithin_keeps {s0 : State} {n : Nat} {s : State} (h0 : Keeps s0 s) : Keeps s0 (stepWithin n s) := by
  unfold stepWithin
  extract_lets -merge -underBinder +onlyGivenNames x1
  exact keeps_mk h0 (Nat.le_refl _) rfl (fun h => h) (fun h => noteSkip_ok h)

theorem discipline_keeps {s0 : State} {e : Int} {ahead : Bool} {s : State} (h0 : Keeps s0 s) : Keeps s0 (discipline e ahead s) := by
  unfold discipline
  extract_lets -merge -underBinder +onlyGivenNames x1 x2
  refine ite_of (P := Keeps s0) (fun _ => ?_) (fun _ => ?_)
  · refine keeps_mk ?_ (Nat.le_refl _) rfl (fun h => h) (fun h => h)
    exact h0
  · refine ite_of (P := Keeps s0) (fun _ => ?_) (fun _ => ?_)
    · refine keeps_mk ?_ (Nat.le_refl _) rfl (fun h => h) (fun h => h)
      exact h0
    · refine ite_of (P := Keeps s0) (fun _ => ?_) (fun _ => ?_)
      · refine boundary_keeps ?_
        refine keeps_mk ?_ (Nat.le_refl _) rfl (fun h => h) (by first | exact fun h => h | exact fun _ => ⟨rfl, rfl⟩)
        exact h0
      · refine stepWithin_keeps ?_
        refine keeps_mk ?_ (Nat.le_refl _) rfl (fun h => h) (by first | exact fun h => h | exact fun _ => ⟨rfl, rfl⟩)
        exact h0

theorem acceptTick_keeps {s0 : State} {e : Int} {ahead : Bool} {delayNs : Nat} {s : State} (h0 : Keeps s0 s) : Keeps s0
    (acceptTick e ahead delayNs s) := by
  unfold acceptTick
  extract_lets -merge -underBinder +onlyGivenNames x1
  have h2 : Keeps s0 x1 := by
    unfold x1
    exact countAccepted_keeps h0
  clear_value x1
  extract_lets -merge -underBinder +onlyGivenNames x3
  clear_value x3
  refine noteJoined_keeps ?_
  refine discipline_keeps ?_
  refine keeps_mk ?_ (Nat.le_refl _) rfl (fun h => h) (by first | exact fun h => h | exact fun _ => ⟨rfl, rfl⟩)
  exact h2

/-- R41: an adopted period lies in the range of R39. -/
theorem equalIntervals_range {l : List Nat} {p : Nat} (h : equalIntervals l = some p) : 40000000 ≤ p ∧ p ≤ 2000000000000 := by
  unfold equalIntervals at h
  split at h
  · dsimp only at h
    rename_i d c b a
    by_cases hc : 40 * usU ≤ min (b - a) (min (c - b) (d - c)) ∧ max (b - a) (max (c - b) (d - c)) ≤ 2 * secU
        ∧ (max (b - a) (max (c - b) (d - c)) - min (b - a) (min (c - b) (d - c))) * 10000 ≤ b - a + 10000 * 100 * nsU
    · rw [if_pos hc] at h
      simp only [Option.some.injEq, usU, secU, nsU] at h hc
      omega
    · rw [if_neg hc] at h
      cases h
  · cases h

/-- A period in range fits the register. -/
theorem periodOk_ofNat {p : Nat} (h : 40000000 ≤ p ∧ p ≤ 2000000000000) : periodOk (BitVec.ofNat 41 p) = true := by
  unfold periodOk
  rw [BitVec.toNat_ofNat, Nat.mod_eq_of_lt (by omega)]
  simp [h.1, h.2]

theorem rejectTick_keeps {s0 : State} {at' : Nat} {s : State} (h0 : Keeps s0 s) : Keeps s0 (rejectTick at' s) := by
  unfold rejectTick
  extract_lets -merge -underBinder +onlyGivenNames x1 x2
  refine ite_of (P := Keeps s0) (fun _ => ?_) (fun _ => ite_of (P := Keeps s0) (fun _ => ?_) (fun _ => ?_))
  · exact keeps_mk h0 (Nat.le_refl _) rfl (fun h => h) (fun h => h)
  · exact keeps_mk h0 (Nat.le_refl _) rfl (fun h => h) (fun h => h)
  · split
    · rename_i p hp
      exact keeps_mk h0 (Nat.le_refl _) rfl (fun h => h) (fun h => ⟨periodOk_ofNat (equalIntervals_range hp), h.2⟩)
    · exact keeps_mk h0 (Nat.le_refl _) rfl (fun h => h) (fun h => h)

theorem endFirmwareWaits_keeps {s0 : State} {s : State} (h0 : Keeps s0 s) : Keeps s0 (endFirmwareWaits s) := by
  unfold endFirmwareWaits
  extract_lets -merge -underBinder +onlyGivenNames x1
  clear_value x1
  refine foldl_of (P := Keeps s0) (fun _ _ h2 => ?_) ?_
  · exact finishCmd_keeps h2
  · exact h0

theorem reBase_keeps {s0 : State} {n : BitVec 48} {s : State} (h0 : Keeps s0 s) : Keeps s0 (reBase n s) := by
  unfold reBase
  extract_lets -merge -underBinder +onlyGivenNames x1
  clear_value x1
  extract_lets -merge -underBinder +onlyGivenNames x2 x3
  clear_value x2
  have h4 : Keeps s0 x3 := by
    unfold x3
    refine endFirmwareWaits_keeps ?_
    refine keeps_mk ?_ (Nat.le_refl _) rfl (fun h => h) (fun h => h)
    exact h0
  clear_value x3
  extract_lets -merge -underBinder +onlyGivenNames x5 x6
  have h7 : Keeps s0 x6 := by
    unfold x6
    refine boundaryTo_keeps ?_
    refine keeps_mk ?_ (Nat.le_refl _) rfl (fun h => h) (fun h => h)
    exact h4
  clear_value x6
  exact logTimeBase_keeps h7

theorem setBackward_keeps {s0 : State} {p : BitVec 48} {s : State} (h0 : Keeps s0 s) : Keeps s0 (setBackward p s) := by
  unfold setBackward
  extract_lets -merge -underBinder +onlyGivenNames x1
  clear_value x1
  extract_lets -merge -underBinder +onlyGivenNames x2 x3
  have h4 : Keeps s0 x3 := by
    unfold x3
    refine keeps_mk ?_ (Nat.le_refl _) rfl (fun h => h) (fun h => h)
    exact h0
  clear_value x3
  refine ite_of (P := Keeps s0) (fun _ => ?_) (fun _ => ?_)
  · exact h4
  · exact reportTickLost_keeps (logTimeBase_keeps h4)

theorem acquire_keeps {s0 : State} {e : Int} {n : Option (BitVec 48)} {delayNs : Nat} {s : State} (h0 : Keeps s0 s) : Keeps s0
    (acquire e n delayNs s) := by
  unfold acquire
  extract_lets -merge -underBinder +onlyGivenNames x1
  clear_value x1
  extract_lets -merge -underBinder +onlyGivenNames x2
  have h3 : Keeps s0 x2 := by
    unfold x2
    exact countAccepted_keeps h0
  clear_value x2
  extract_lets -merge -underBinder +onlyGivenNames x4
  have h5 : ∀ y0, Keeps s0 (x4 y0) := by
    unfold x4
    refine fun _ => ?_
    refine keeps_mk ?_ (Nat.le_refl _) rfl (fun h => h) (fun h => h)
    exact h3
  clear_value x4
  extract_lets -merge -underBinder +onlyGivenNames x6
  have h7 : ∀ y0, Keeps s0 y0 → Keeps s0 (x6 y0) := by
    unfold x6
    exact fun _ h8 => logTimeBase_keeps h8
  clear_value x6
  split
  · extract_lets -merge -underBinder +onlyGivenNames x9
    clear_value x9
    exact h7 _ (boundaryTo_keeps (h5 _))
  · refine ite_of (P := Keeps s0) (fun _ => ?_) (fun _ => ?_)
    · exact reBase_keeps h3
    · refine ite_of (P := Keeps s0) (fun _ => ?_) (fun _ => ?_)
      · exact h7 _ (boundaryTo_keeps (h5 _))
      · refine ite_of (P := Keeps s0) (fun _ => ?_) (fun _ => ?_)
        · extract_lets -merge -underBinder +onlyGivenNames x10
          have h11 : Keeps s0 x10 := by
            unfold x10
            exact h5 _
          clear_value x10
          refine h7 _ ?_
          refine keeps_mk ?_ (Nat.le_refl _) rfl (fun h => h) (fun h => h)
          exact h11
        · exact setBackward_keeps h3

theorem judgeTick_keeps {s0 : State} {corrPs : Nat} {n : Option (BitVec 48)} {delayNs : Nat} {s : State} (h0 : Keeps s0 s) : Keeps
    s0 (judgeTick corrPs n delayNs s) := by
  unfold judgeTick
  extract_lets -merge -underBinder +onlyGivenNames x1
  refine ite_of (P := Keeps s0) (fun _ => ?_) (fun _ => ?_)
  · exact acquire_keeps h0
  · extract_lets -merge -underBinder +onlyGivenNames x2
    clear_value x2
    refine ite_of (P := Keeps s0) (fun _ => ?_) (fun _ => ?_)
    · exact rejectTick_keeps h0
    · extract_lets -merge -underBinder +onlyGivenNames x3
      clear_value x3
      split
      · exact acceptTick_keeps h0
      · refine ite_of (P := Keeps s0) (fun _ => ?_) (fun _ => ?_)
        · exact reBase_keeps (countAccepted_keeps h0)
        · refine ite_of (P := Keeps s0) (fun _ => ?_) (fun _ => ?_)
          · exact acceptTick_keeps h0
          · refine ite_of (P := Keeps s0) (fun _ => ?_) (fun _ => ?_)
            · refine acceptTick_keeps ?_
              refine keeps_mk ?_ (Nat.le_refl _) rfl (fun h => h) (fun h => h)
              exact h0
            · exact setBackward_keeps (countAccepted_keeps h0)

theorem execTick_keeps {s0 : State} {port : Nat} {p : Packet} {s : State} (h0 : Keeps s0 s) : KO s0 (execTick port p s) := by
  unfold execTick
  refine ko_next ?_
  refine arrive_keeps ?_ ?_
  · refine fun _ h1 => ?_
    refine ite_of (P := Keeps s0) (fun _ => ?_) (fun _ => ?_)
    · exact h1
    · refine ite_of (P := Keeps s0) (fun _ => ?_) (fun _ => ?_)
      · refine keeps_mk ?_ (Nat.le_refl _) rfl (fun h => h) (fun h => h)
        exact h1
      · refine ite_of (P := Keeps s0) (fun _ => ?_) (fun _ => ?_)
        · exact h1
        · exact judgeTick_keeps h1
  · exact h0

theorem execFrameIn_keeps {s0 : State} {highNs : Nat} {s : State} (h0 : Keeps s0 s) : KO s0 (execFrameIn highNs s) := by
  unfold execFrameIn
  refine ko_next ?_
  refine ite_of (P := Keeps s0) (fun _ => ?_) (fun _ => ?_)
  · exact h0
  · refine ite_of (P := Keeps s0) (fun _ => ?_) (fun _ => ?_)
    · extract_lets -merge -underBinder +onlyGivenNames x1
      clear_value x1
      extract_lets -merge -underBinder +onlyGivenNames x2
      have h3 : Keeps s0 x2 := by
        unfold x2
        refine keeps_mk ?_ (Nat.le_succ _) rfl (fun h => h) (fun h => h)
        exact h0
      clear_value x2
      refine ite_of (P := Keeps s0) (fun _ => ?_) (fun _ => ?_)
      · exact judgeTick_keeps h3
      · exact h3
    · exact judgeTick_keeps h0

theorem execHoldoverEntry_keeps {s0 : State} {s : State} (h0 : Keeps s0 s) : KO s0 (execHoldoverEntry s) := by
  unfold execHoldoverEntry
  refine ko_next ?_
  refine ite_of (P := Keeps s0) (fun _ => ?_) (fun _ => ?_)
  · extract_lets -merge -underBinder +onlyGivenNames x1 x2
    have h3 : Keeps s0 x2 := by
      unfold x2
      refine keeps_mk ?_ (Nat.le_refl _) rfl (fun h => h) (fun h => h)
      exact h0
    clear_value x2
    extract_lets -merge -underBinder +onlyGivenNames x4
    have h5 : Keeps s0 x4 := by
      unfold x4
      exact logEntry_keeps h3
    clear_value x4
    extract_lets -merge -underBinder +onlyGivenNames x6
    have h7 : Keeps s0 x6 := by
      unfold x6
      exact postAll_keeps h5
    clear_value x6
    exact reportTickLost_keeps h7
  · exact h0

theorem probeLink_keeps {s0 : State} {port : Nat} {s : State} (h0 : Keeps s0 s) : Keeps s0 (probeLink port s) := by
  unfold probeLink
  refine ite_of (P := Keeps s0) (fun _ => ?_) (fun _ => ?_)
  · exact h0
  · extract_lets -merge -underBinder +onlyGivenNames x1
    have h2 : Keeps s0 x1 := by
      unfold x1
      exact modPort_keeps h0
    clear_value x1
    exact sendOn_keeps h2

theorem execHopDelayMeasure_keeps {s0 : State} {port : Nat} {s : State} (h0 : Keeps s0 s) : KO s0 (execHopDelayMeasure port s) := by
  unfold execHopDelayMeasure
  exact ko_next (probeLink_keeps h0)

/-! ### Registers -/

theorem clearReg_keeps {s0 : State} {off : Nat} {s : State} (h0 : Keeps s0 s) : Keeps s0 (clearReg off s) := by
  unfold clearReg
  refine ite_of (P := Keeps s0) (fun _ => ?_) (fun _ => ?_)
  · refine keeps_mk ?_ (Nat.le_refl _) rfl (fun h => h) (fun h => h)
    exact h0
  · refine ite_of (P := Keeps s0) (fun _ => ?_) (fun _ => ?_)
    · extract_lets -merge -underBinder +onlyGivenNames x1
      refine ite_of (P := Keeps s0) (fun _ => ?_) (fun _ => ?_)
      · exact modPort_keeps h0
      · refine ite_of (P := Keeps s0) (fun _ => ?_) (fun _ => ?_)
        · exact modPort_keeps h0
        · exact h0
    · exact h0

theorem execReadToClear_keeps {s0 : State} {fn : Nat} {off : Nat} {s : State} (h0 : Keeps s0 s) : KO s0 (execReadToClear fn off s)
    := by
  unfold execReadToClear
  refine ko_next ?_
  refine ite_of (P := Keeps s0) (fun _ => ?_) (fun _ => ?_)
  · extract_lets -merge -underBinder +onlyGivenNames x1
    refine clearReg_keeps ?_
    refine keeps_mk ?_ (Nat.le_refl _) rfl (fun h => h) (fun h => h)
    exact h0
  · exact h0

theorem writeMsix_keeps {s0 : State} {fn : Nat} {off : Nat} {v : W64} {s : State} (h0 : Keeps s0 s) : Keeps s0 (writeMsix fn off v
    s) := by
  unfold writeMsix
  extract_lets -merge -underBinder +onlyGivenNames x1
  extract_lets -merge -underBinder +onlyGivenNames x2
  have h3 : Keeps s0 x2 := by
    unfold x2
    exact modFn_keeps h0
  clear_value x2
  extract_lets -merge -underBinder +onlyGivenNames x4
  clear_value x4
  refine ite_of (P := Keeps s0) (fun _ => ?_) (fun _ => ?_)
  · exact raiseMsix_keeps (modFn_keeps h3)
  · exact h3

theorem writeMailbox_keeps {s0 : State} {fn : Nat} {off : Nat} {v : W64} {s : State} (h0 : Keeps s0 s) : Keeps s0 (writeMailbox fn
    off v s) := by
  unfold writeMailbox
  refine ite_of (P := Keeps s0) (fun _ => ?_) (fun _ => ?_)
  · exact modFn_keeps h0
  · refine ite_of (P := Keeps s0) (fun _ => ?_) (fun _ => ?_)
    · exact modFn_keeps h0
    · refine ite_of (P := Keeps s0) (fun _ => ?_) (fun _ => ?_)
      · exact modFn_keeps h0
      · refine ite_of (P := Keeps s0) (fun _ => ?_) (fun _ => ?_)
        · exact modFn_keeps h0
        · exact h0

theorem writeTbStatus_keeps {s0 : State} {v : W64} {s : State} (h0 : Keeps s0 s) : Keeps s0 (writeTbStatus v s) := by
  unfold writeTbStatus
  refine keeps_mk ?_ (Nat.le_refl _) rfl (fun h => h) (fun h => h)
  exact h0

theorem execRegisterWrite_keeps {s0 : State} {fn : Nat} {off : Nat} {v : W64} {s : State} (h0 : Keeps s0 s) : KO s0
    (execRegisterWrite fn off v s) := by
  unfold execRegisterWrite
  refine ko_next ?_
  refine ite_of (P := Keeps s0) (fun _ => ?_) (fun _ => ?_)
  · refine ite_of (P := Keeps s0) (fun _ => ?_) (fun _ => ?_)
    · refine ite_of (P := Keeps s0) (fun _ => ?_) (fun _ => ?_)
      · exact writeTbStatus_keeps h0
      · exact h0
    · refine ite_of (P := Keeps s0) (fun _ => ?_) (fun _ => ?_)
      · exact writeMailbox_keeps h0
      · refine ite_of (P := Keeps s0) (fun _ => ?_) (fun _ => ?_)
        · exact writeMsix_keeps h0
        · exact h0
  · exact h0

/-! ### ResetOps -/

theorem logResetStart_keeps {s0 : State} {cause : Nat} {ctx : Nat} {addr : W64} {s : State} (h0 : Keeps s0 s) : Keeps s0
    (logResetStart cause ctx addr s) := by
  unfold logResetStart
  exact logEntry_keeps h0

theorem resetNotice_keeps {s0 : State} {kind : Nat} {cause : Nat} {s : State} (h0 : Keeps s0 s) : Keeps s0 (resetNotice kind cause
    s) := by
  unfold resetNotice
  split
  · exact mgmtSend_keeps h0
  · exact h0

theorem announceReset_keeps {s0 : State} {s : State} (h0 : Keeps s0 s) : Keeps s0 (announceReset s) := by
  unfold announceReset
  extract_lets -merge -underBinder +onlyGivenNames x1
  clear_value x1
  extract_lets -merge -underBinder +onlyGivenNames x2
  have h3 : Keeps s0 x2 := by
    unfold x2
    exact resetNotice_keeps (logResetStart_keeps h0)
  clear_value x2
  refine setF_keeps ?_
  refine postAll_keeps ?_
  refine keeps_mk ?_ (Nat.le_refl _) rfl (fun h => h) (fun h => h)
  exact h3

theorem nameCtx_keeps {s0 : State} {ctx : Nat} {no : Nat} {rec : Bytes} {s : State} (h0 : Keeps s0 s) : Keeps s0 (nameCtx ctx no
    rec s) := by
  unfold nameCtx
  refine ite_of (P := Keeps s0) (fun _ => ?_) (fun _ => ?_)
  · extract_lets -merge -underBinder +onlyGivenNames x1 x2
    clear_value x1
    have h3 : Keeps s0 x2 := by
      unfold x2
      refine modCtx_keeps ?_
      refine keeps_mk ?_ (Nat.le_refl _) rfl (fun h => h) (fun h => h)
      exact h0
    clear_value x2
    split
    · exact writeCtxImage_keeps h3
    · exact writeCtxImage_keeps h3
    · exact h3
    · exact h3
    · exact h3
  · exact h0

theorem startReset_keeps {s0 : State} {cause : Nat} {r : FaultRec} {s : State} (h0 : Keeps s0 s) : Keeps s0 (startReset cause r s)
    := by
  unfold startReset
  extract_lets -merge -underBinder +onlyGivenNames x1 x2
  clear_value x1
  clear_value x2
  extract_lets -merge -underBinder +onlyGivenNames x3
  split
  · extract_lets -merge -underBinder +onlyGivenNames x4 x5
    clear_value x4
    have h6 : Keeps s0 x5 := by
      unfold x5
      refine keeps_mk ?_ (Nat.le_refl _) rfl (fun h => h) (fun h => h)
      exact h0
    clear_value x5
    extract_lets -merge -underBinder +onlyGivenNames x7
    have h8 : KP s0 x7 := by
      unfold x7
      exact writeRecord_keeps h6
    clear_value x7
    extract_lets -merge -underBinder +onlyGivenNames x9 x10
    have h11 : Keeps s0 x9 := by
      unfold x9
      exact kp_snd h8
    have h12 : Keeps s0 x10 := by
      unfold x10
      refine keeps_mk ?_ (Nat.le_refl _) rfl (fun h => by repeat' first | with_reducible exact h | with_reducible apply memWriteN_wf | with_reducible apply memWrite_wf | with_reducible apply memClear_wf | with_reducible apply putImage_wf | with_reducible apply pokeRuns_wf | exact rfl) (fun h => h)
      exact h11
    clear_value x10
    extract_lets -merge -underBinder +onlyGivenNames x13
    have h14 : Keeps s0 x13 := by
      unfold x13
      refine ite_of (P := Keeps s0) (fun _ => ?_) (fun _ => ?_)
      · exact h12
      · exact nameCtx_keeps h12
    clear_value x13
    refine ite_of (P := Keeps s0) (fun _ => ?_) (fun _ => ?_)
    · exact h14
    · exact announceReset_keeps h14
  · extract_lets -merge -underBinder +onlyGivenNames x15
    have h16 : KP s0 x15 := by
      unfold x15
      exact writeRecord_keeps h0
    clear_value x15
    extract_lets -merge -underBinder +onlyGivenNames x17
    have h18 : Keeps s0 x17 := by
      unfold x17
      exact logResetStart_keeps (kp_snd h16)
    clear_value x17
    refine ite_of (P := Keeps s0) (fun _ => ?_) (fun _ => ?_)
    · exact h18
    · exact nameCtx_keeps h18
  · extract_lets -merge -underBinder +onlyGivenNames x19
    have h20 : KP s0 x19 := by
      unfold x19
      exact writeRecord_keeps h0
    clear_value x19
    extract_lets -merge -underBinder +onlyGivenNames x21
    have h22 : Keeps s0 x21 := by
      unfold x21
      exact logResetStart_keeps (kp_snd h20)
    clear_value x21
    refine ite_of (P := Keeps s0) (fun _ => ?_) (fun _ => ?_)
    · exact h22
    · exact nameCtx_keeps h22
  · extract_lets -merge -underBinder +onlyGivenNames x23
    have h24 : KP s0 x23 := by
      unfold x23
      exact writeRecord_keeps h0
    clear_value x23
    extract_lets -merge -underBinder +onlyGivenNames x25
    have h26 : Keeps s0 x25 := by
      unfold x25
      exact logResetStart_keeps (kp_snd h24)
    clear_value x25
    refine ite_of (P := Keeps s0) (fun _ => ?_) (fun _ => ?_)
    · exact h26
    · exact nameCtx_keeps h26
  · extract_lets -merge -underBinder +onlyGivenNames x27
    have h28 : KP s0 x27 := by
      unfold x27
      exact writeRecord_keeps h0
    clear_value x27
    extract_lets -merge -underBinder +onlyGivenNames x29
    have h30 : Keeps s0 x29 := by
      unfold x29
      exact logResetStart_keeps (kp_snd h28)
    clear_value x29
    refine ite_of (P := Keeps s0) (fun _ => ?_) (fun _ => ?_)
    · exact h30
    · exact nameCtx_keeps h30

/-! ### Power -/

theorem execHintPower_keeps {s0 : State} {k : Nat} {s : State} (h0 : Keeps s0 s) : KO s0 (execHintPower k s) := by
  unfold execHintPower
  refine ko_next ?_
  refine runOp_keeps ?_ ?_
  · refine fun _ _ h1 => ?_
    extract_lets -merge -underBinder +onlyGivenNames x2
    clear_value x2
    extract_lets -merge -underBinder +onlyGivenNames x3
    refine finishCmd_keeps ?_
    refine keeps_mk ?_ (Nat.le_refl _) rfl (fun h => h) (fun h => h)
    exact h1
  · exact h0

theorem execHintScheduleStart_keeps {s0 : State} {h : Nat} {s : State} (h0 : Keeps s0 s) : KO s0 (execHintScheduleStart h s) := by
  unfold execHintScheduleStart
  refine ko_next ?_
  split
  · exact h0
  · refine ite_of (P := Keeps s0) (fun _ => ?_) (fun _ => ?_)
    · refine keeps_mk ?_ (Nat.le_refl _) rfl (fun h => h) (fun h => h)
      exact h0
    · exact h0

theorem execHintDisarm_keeps {s0 : State} {h : Nat} {s : State} (h0 : Keeps s0 s) : KO s0 (execHintDisarm h s) := by
  unfold execHintDisarm
  refine ko_next ?_
  split
  · exact h0
  · refine ite_of (P := Keeps s0) (fun _ => ?_) (fun _ => ?_)
    · refine keeps_mk ?_ (Nat.le_refl _) rfl (fun h => h) (fun h => h)
      exact h0
    · exact h0

theorem execBallastPass_keeps {s0 : State} {b : Nat} {c : Nat} {s : State} (h0 : Keeps s0 s) : KO s0 (execBallastPass b c s) := by
  unfold execBallastPass
  refine ko_next ?_
  refine ite_of (P := Keeps s0) (fun _ => ?_) (fun _ => ?_)
  · exact takeCredit_keeps h0
  · exact h0

theorem execLimiterTick_keeps {s0 : State} {m : PowerMeasure} {s : State} (h0 : Keeps s0 s) : KO s0 (execLimiterTick m s) := by
  unfold execLimiterTick
  extract_lets -merge -underBinder +onlyGivenNames x0
  clear_value x0
  extract_lets -merge -underBinder +onlyGivenNames x1
  clear_value x1
  extract_lets -merge -underBinder +onlyGivenNames x2
  clear_value x2
  extract_lets -merge -underBinder +onlyGivenNames x3
  clear_value x3
  extract_lets -merge -underBinder +onlyGivenNames x4
  clear_value x4
  extract_lets -merge -underBinder +onlyGivenNames x5
  clear_value x5
  extract_lets -merge -underBinder +onlyGivenNames x6
  have h7 : Keeps s0 x6 := by
    unfold x6
    exact setF_keeps h0
  clear_value x6
  refine ko_next ?_
  refine keeps_mk ?_ (Nat.le_succ _) rfl (fun h => h) (fun h => h)
  exact h7

theorem execCapUnmet_keeps {s0 : State} {inputW : Nat} {s : State} (h0 : Keeps s0 s) : KO s0 (execCapUnmet inputW s) := by
  unfold execCapUnmet
  refine ko_next ?_
  refine ite_of (P := Keeps s0) (fun _ => ?_) (fun _ => ?_)
  · extract_lets -merge -underBinder +onlyGivenNames x1 x2
    clear_value x1
    have h3 : Keeps s0 x2 := by
      unfold x2
      refine keeps_mk ?_ (Nat.le_refl _) rfl (fun h => h) (fun h => h)
      exact h0
    clear_value x2
    refine ite_of (P := Keeps s0) (fun _ => ?_) (fun _ => ?_)
    · exact h3
    · extract_lets -merge -underBinder +onlyGivenNames x4 x5
      clear_value x4
      have h6 : Keeps s0 x5 := by
        unfold x5
        refine logEntry_keeps ?_
        refine keeps_mk ?_ (Nat.le_refl _) rfl (fun h => h) (fun h => h)
        exact h3
      clear_value x5
      exact postAll_keeps h6
  · refine ite_of (P := Keeps s0) (fun _ => ?_) (fun _ => ?_)
    · split
      · refine keeps_mk ?_ (Nat.le_refl _) rfl (fun h => h) (fun h => h)
        exact h0
      · refine ite_of (P := Keeps s0) (fun _ => ?_) (fun _ => ?_)
        · refine postAll_keeps ?_
          refine keeps_mk ?_ (Nat.le_refl _) rfl (fun h => h) (fun h => h)
          exact h0
        · exact h0
    · exact h0

theorem thermalEvent_keeps {s0 : State} {die : Nat} {kind : Nat} {t : Int} {s : State} (h0 : Keeps s0 s) : Keeps s0 (thermalEvent
    die kind t s) := by
  unfold thermalEvent
  extract_lets -merge -underBinder +onlyGivenNames x1
  clear_value x1
  exact postAll_keeps (logEntry_keeps h0)

theorem sampleDie_keeps {s0 : State} {temps : List Int} {s : State} {die : Nat} (h0 : Keeps s0 s) : Keeps s0 (sampleDie temps s
    die) := by
  unfold sampleDie
  extract_lets -merge -underBinder +onlyGivenNames x1
  clear_value x1
  extract_lets -merge -underBinder +onlyGivenNames x2
  clear_value x2
  extract_lets -merge -underBinder +onlyGivenNames x3
  clear_value x3
  extract_lets -merge -underBinder +onlyGivenNames x4 x5
  clear_value x4
  have h6 : Keeps s0 x5 := by
    unfold x5
    refine ite_of (P := Keeps s0) (fun _ => ?_) (fun _ => ?_)
    · exact h0
    · refine thermalEvent_keeps ?_
      refine keeps_mk ?_ (Nat.le_refl _) rfl (fun h => h) (fun h => h)
      exact h0
  clear_value x5
  refine ite_of (P := Keeps s0) (fun _ => ?_) (fun _ => ?_)
  · extract_lets -merge -underBinder +onlyGivenNames x7 x8
    clear_value x7
    have h9 : Keeps s0 x8 := by
      unfold x8
      refine setF_keeps ?_
      refine keeps_mk ?_ (Nat.le_refl _) rfl (fun h => h) (fun h => h)
      exact h6
    clear_value x8
    exact startReset_keeps (thermalEvent_keeps h9)
  · exact h6

theorem execThermalSample_keeps {s0 : State} {temps : List Int} {s : State} (h0 : Keeps s0 s) : KO s0 (execThermalSample temps s)
    := by
  unfold execThermalSample
  extract_lets -merge -underBinder +onlyGivenNames x0
  clear_value x0
  extract_lets -merge -underBinder +onlyGivenNames x1 x2
  clear_value x1
  have h3 : Keeps s0 x2 := by
    unfold x2
    refine keeps_mk ?_ (Nat.le_refl _) rfl (fun h => h) (fun h => h)
    exact h0
  clear_value x2
  extract_lets -merge -underBinder +onlyGivenNames x4
  have h5 : Keeps s0 x4 := by
    unfold x4
    refine foldl_of (P := Keeps s0) (fun _ _ h6 => ?_) ?_
    · exact sampleDie_keeps h6
    · exact h3
  clear_value x4
  refine ko_next ?_
  refine keeps_mk ?_ (Nat.le_refl _) rfl (fun h => h) (fun h => h)
  exact h5

theorem execRefreshRateChange_keeps {s0 : State} {stack : Nat} {deciC : Int} {s : State} (h0 : Keeps s0 s) : KO s0
    (execRefreshRateChange stack deciC s) := by
  unfold execRefreshRateChange
  refine ko_next ?_
  refine keeps_mk ?_ (Nat.le_refl _) rfl (fun h => h) (fun h => h)
  exact h0

theorem execTelemetrySample_keeps {s0 : State} {m : Measure} {s : State} (h0 : Keeps s0 s) : KO s0 (execTelemetrySample m s) := by
  unfold execTelemetrySample
  refine ko_next ?_
  refine keeps_mk ?_ (Nat.le_refl _) rfl (fun h => h) (fun h => h)
  exact h0

end Sys2Proof.Machine
end

