-- ==== Sys2Proof/Laws/KeepsCores.lean ====
section
/-!
SUPPORT. What no command does (see Laws/Keeps.lean): the vector cores.
-/
namespace Sys2Proof.Machine

/-! ### Cores -/

theorem modCore_keeps {s0 : State} {key : Nat} {f : Core → Core} {s : State} (h0 : Keeps s0 s) : Keeps s0 (modCore key f s) := by
  unfold modCore
  split
  · exact h0
  · refine keeps_mk ?_ (Nat.le_refl _) rfl (fun h => h) (fun h => h)
    exact h0

theorem myCore_keeps {s0 : State} {x : Vx} : EK s0 (myCore x : EngM Core) := by
  unfold myCore
  refine ek_getS (fun _ h0 => ?_)
  exact ek_pure

theorem setCore_keeps {s0 : State} {x : Vx} {f : Core → Core} : EK s0 (setCore x f : EngM Unit) := by
  unfold setCore
  refine modS_keeps ?_
  exact fun _ h0 => modCore_keeps h0

theorem freeChoice_keeps {s0 : State} {n : Nat} : EK s0 (freeChoice n : EngM Bool) := by
  unfold freeChoice
  refine ek_get (fun _ h0 => ?_)
  refine ek_bind ?_ (fun _ => ?_)
  · refine ek_set ?_
    show Keeps s0 _
    dsimp -zeta only
    extract_lets -merge -underBinder +onlyGivenNames x1
    have h2 : Keeps s0 x1 := by
      unfold x1
      exact h0
    refine keeps_mk ?_ (Nat.le_succ _) rfl (fun h => h) (fun h => h)
    exact h2
  · exact ek_pure

theorem fillCache_keeps {s0 : State} {x : Vx} {ln : Nat} : EK s0 (fillCache x ln : EngM Bytes) := by
  unfold fillCache
  refine ek_bind ?_ (fun _ => ?_)
  · exact readV_keeps
  · refine ek_getS (fun _ h0 => ?_)
    refine ek_bind ?_ (fun _ => ?_)
    · exact setCore_keeps
    · refine ek_bind ?_ (fun _ => ?_)
      · refine modS_keeps ?_
        refine fun _ h1 => ?_
        refine keeps_mk ?_ (Nat.le_succ _) rfl (fun h => h) (fun h => h)
        exact h1
      · exact ek_pure

theorem cacheLine_keeps {s0 : State} {x : Vx} {ln : Nat} : EK s0 (cacheLine x ln : EngM Bytes) := by
  unfold cacheLine
  refine ek_get (fun _ h0 => ?_)
  split
  · exact stopFault_keeps
  · refine ite_of (P := EK s0) (fun _ => ?_) (fun _ => ?_)
    · exact ek_throw
    · split
      · exact fillCache_keeps
      · refine ek_bind ?_ (fun _ => ?_)
        · exact freeChoice_keeps
        · refine ite_of (P := EK s0) (fun _ => ?_) (fun _ => ?_)
          · exact fillCache_keeps
          · exact ek_pure

theorem coreReadN_keeps {s0 : State} : ∀ (x : Vx) (z1 : Nat) (z2 : Nat) (z3 : Nat), EK s0 (coreReadN x z1 z2 z3)
  | p0, 0, p1, p2 => by
    rw [coreReadN.eq_1]
    exact ek_pure
  | p0, p3 + 1, p1, p2 => by
    rw [coreReadN.eq_2]
    refine ite_of (P := EK s0) (fun _ => ?_) (fun _ => ?_)
    · exact ek_pure
    · refine ek_get (fun _ h0 => ?_)
      split
      · exact stopFault_keeps
      · extract_lets -merge -underBinder +onlyGivenNames x1
        refine ek_bind ?_ (fun _ => ?_)
        · exact cacheLine_keeps
        · refine ek_bind ?_ (fun _ => ?_)
          · exact coreReadN_keeps _ _ _ _
          · exact ek_pure

theorem coreRead_keeps {s0 : State} {x : Vx} {va : Nat} {n : Nat} : EK s0 (coreRead x va n : EngM Bytes) := by
  unfold coreRead
  exact coreReadN_keeps _ _ _ _

theorem needWrite_keeps {s0 : State} {va : Nat} {n : Nat} : EK s0 (needWrite va n : EngM Unit) := by
  unfold needWrite
  refine ek_get (fun _ h0 => ?_)
  extract_lets -merge -underBinder +onlyGivenNames x1
  refine ite_of (P := EK s0) (fun _ => ?_) (fun _ => ?_)
  · exact stopFault_keeps
  · refine ite_of (P := EK s0) (fun _ => ?_) (fun _ => ?_)
    · exact stopFault_keeps
    · exact ek_pure

theorem coreWrite_keeps {s0 : State} {x : Vx} {va : Nat} {bs : Bytes} : EK s0 (coreWrite x va bs : EngM Unit) := by
  unfold coreWrite
  refine ek_bind ?_ (fun _ => ?_)
  · exact needWrite_keeps
  · refine ek_bind ?_ (fun _ => ?_)
    · exact writeV_keeps
    · refine ek_get (fun _ h0 => ?_)
      exact setCore_keeps

theorem coreHavoc_keeps {s0 : State} {x : Vx} {s : State} (h0 : Keeps s0 s) : Keeps s0 (coreHavoc x s) := by
  unfold coreHavoc
  extract_lets -merge -underBinder +onlyGivenNames x1
  extract_lets -merge -underBinder +onlyGivenNames x2
  have h3 : Keeps s0 x2 := by
    unfold x2
    refine modCore_keeps ?_
    refine keeps_mk ?_ (Nat.le_succ _) rfl (fun h => h) (fun h => h)
    exact h0
  clear_value x2
  split
  · exact h3
  · refine ite_of (P := Keeps s0) (fun _ => ?_) (fun _ => ?_)
    · exact unpredictable_keeps h3
    · exact orSticky_keeps (havocMem_keeps h3)

theorem coreCommit_keeps {s0 : State} {x : Vx} {e : Eng} (h0 : Keeps s0 e.s) : Keeps s0 (coreCommit x e) := by
  unfold coreCommit
  extract_lets -merge -underBinder +onlyGivenNames x1
  have h2 : Keeps s0 x1 := by
    unfold x1
    exact engCommit_keeps h0
  clear_value x1
  extract_lets -merge -underBinder +onlyGivenNames x3
  clear_value x3
  extract_lets -merge -underBinder +onlyGivenNames x4
  clear_value x4
  extract_lets -merge -underBinder +onlyGivenNames x5
  have h6 : Keeps s0 x5 := by
    unfold x5
    exact modCmd_keeps h2
  clear_value x5
  refine ite_of (P := Keeps s0) (fun _ => ?_) (fun _ => ?_)
  · exact h6
  · exact modCore_keeps h6

theorem runCore_keeps {s0 : State} {x : Vx} {ctx : Nat} {work : EngM Unit} {s : State} (h0 : EK s0 work) (h1 : Keeps s0 s) : Keeps
    s0 (runCore x ctx work s) := by
  unfold runCore
  split
  · rename_i heq
    refine ek_cut (s0 := s0) heq ?_ ?_ (fun h2 => ?_)
    · exact h0
    · show Keeps s0 _
      dsimp -zeta only
      exact h1
    · exact coreCommit_keeps h2
  · rename_i heq
    refine ek_cut (s0 := s0) heq ?_ ?_ (fun h3 => ?_)
    · exact h0
    · show Keeps s0 _
      dsimp -zeta only
      exact h1
    · refine ite_of (P := Keeps s0) (fun _ => ?_) (fun _ => ?_)
      · exact coreHavoc_keeps h1
      · extract_lets -merge -underBinder +onlyGivenNames x4
        have h5 : Keeps s0 x4 := by
          unfold x4
          exact coreCommit_keeps h3
        clear_value x4
        extract_lets -merge -underBinder +onlyGivenNames x6
        have h7 : Keeps s0 x6 := by
          unfold x6
          refine ite_of (P := Keeps s0) (fun _ => ?_) (fun _ => ?_)
          · exact h5
          · exact havocMem_keeps h5
        clear_value x6
        exact faultCmd_keeps h7
  · rename_i heq
    refine ek_cut (s0 := s0) heq ?_ ?_ (fun h8 => ?_)
    · exact h0
    · show Keeps s0 _
      dsimp -zeta only
      exact h1
    · exact askRemote_keeps (coreCommit_keeps h8)
  · rename_i heq
    refine ek_cut (s0 := s0) heq ?_ ?_ (fun h9 => ?_)
    · exact h0
    · show Keeps s0 _
      dsimp -zeta only
      exact h1
    · exact coreCommit_keeps h9
  · rename_i heq
    refine ek_cut (s0 := s0) heq ?_ ?_ (fun h10 => ?_)
    · exact h0
    · show Keeps s0 _
      dsimp -zeta only
      exact h1
    · exact coreHavoc_keeps h10

theorem nextPc_keeps {s0 : State} {x : Vx} : EK s0 (nextPc x : EngM Unit) := by
  unfold nextPc
  exact setCore_keeps

theorem stopTrap_keeps {s0 : State} {before : W64} : EK s0 (stopTrap before : EngM Unit) := by
  unfold stopTrap
  refine ek_get (fun _ h0 => ?_)
  split
  · exact ek_pure
  · refine ek_bind ?_ (fun _ => ?_)
    · refine ek_set ?_
      show Keeps s0 _
      dsimp -zeta only
      extract_lets -merge -underBinder +onlyGivenNames x1
      have h2 : Keeps s0 x1 := by
        unfold x1
        exact h0
      refine keeps_mk ?_ (Nat.le_succ _) rfl (fun h => h) (fun h => h)
      exact h2
    · exact stopFault_keeps

theorem coreEv_keeps {s0 : State} {x : Vx} {i : Nat} {role : Nat} {ev : Ev} : EK s0 (coreEv x i role ev : EngM Unit) := by
  unfold coreEv
  exact noteEv_keeps

theorem elemLoop_keeps {s0 : State} : ∀ (x : Vx) (f : Nat → EngM Unit) (z2 : Nat) (z3 : List Nat) (_ : ∀ y0, EK s0 (f y0)), EK s0
    (elemLoop x f z2 z3)
  | p0, p1, p2, [], h1 => by
    rw [elemLoop.eq_1]
    exact ek_pure
  | p0, p1, 0, p2 :: p3, h2 => by
    rw [elemLoop.eq_2]
    refine ek_bind ?_ (fun _ => ?_)
    · exact setCore_keeps
    · exact ek_throw
  | p0, p1, p2 + 1, p3 :: p4, h3 => by
    rw [elemLoop.eq_3]
    refine ek_bind ?_ (fun _ => ?_)
    · exact setCore_keeps
    · refine ek_get (fun _ h4 => ?_)
      refine ek_bind ?_ (fun _ => ?_)
      · exact h3 _
      · refine ek_bind ?_ (fun _ => ?_)
        · exact stopTrap_keeps
        · refine elemLoop_keeps _ _ _ _ ?_
          exact fun _ => h3 _

theorem vecDone_keeps {s0 : State} {x : Vx} : EK s0 (vecDone x : EngM Unit) := by
  unfold vecDone
  exact setCore_keeps

theorem vecElems_keeps {s0 : State} {x : Vx} {legal : Core → Bool} {f : Nat → EngM Unit} (h0 : ∀ y0, EK s0 (f y0)) : EK s0
    (vecElems x legal f : EngM Unit) := by
  unfold vecElems
  refine ek_bind ?_ (fun _ => ?_)
  · exact myCore_keeps
  · extract_lets -merge -underBinder +onlyGivenNames x1
    have h2 : ∀ y0, EK s0 (x1 y0) := by
      unfold x1
      refine fun _ => ?_
      refine ek_bind ?_ (fun _ => ?_)
      · refine elemLoop_keeps _ _ _ _ ?_
        exact fun _ => h0 _
      · exact vecDone_keeps
    clear_value x1
    refine ite_of (P := EK s0) (fun _ => ?_) (fun _ => ?_)
    · refine ek_bind ?_ (fun _ => ?_)
      · exact ek_throw
      · exact h2 _
    · exact h2 _

theorem freeDest_keeps {s0 : State} {x : Vx} {d : Dest} {ctx : Nat} {s : State} (h0 : Keeps s0 s) : Keeps s0 (freeDest x d ctx s)
    := by
  unfold freeDest
  extract_lets -merge -underBinder +onlyGivenNames x1
  have h2 : Keeps s0 x1 := by
    unfold x1
    exact modCore_keeps h0
  clear_value x1
  exact havocAreas_keeps h2

theorem destWork_keeps {s0 : State} {x : Vx} {d : Dest} {work : EngM Unit} (h0 : EK s0 work) : EK s0 (destWork x d work : EngM
    Unit) := by
  intro e he
  have h := h0 e he
  unfold destWork
  cases hw : work e with
  | ok a e1 =>
    rw [hw] at h
    simp only [resEng] at h ⊢
    split
    · exact freeDest_keeps h
    · exact h
  | error r e1 =>
    rw [hw] at h
    cases r with
    | fault st info => exact freeDest_keeps h
    | remote va n => exact h
    | unpred => exact h
    | wait => exact h

theorem vecWhole_keeps {s0 : State} {x : Vx} {legal : Core → Bool} {dest : Core → Dest} {need : EngM Unit} {work : Core → EngM
    Unit} (h0 : EK s0 need) (h1 : ∀ y0, EK s0 (work y0)) : EK s0 (vecWhole x legal dest need work : EngM Unit) := by
  unfold vecWhole
  refine ek_bind ?_ (fun _ => ?_)
  · exact myCore_keeps
  · extract_lets -merge -underBinder +onlyGivenNames x2
    have h3 : ∀ y0, EK s0 (x2 y0) := by
      unfold x2
      refine fun _ => ?_
      refine ek_bind ?_ (fun _ => ?_)
      · exact destWork_keeps h0
      · extract_lets -merge -underBinder +onlyGivenNames x4
        have h5 : ∀ y0, EK s0 (x4 y0) := by
          unfold x4
          exact fun _ => vecDone_keeps
        clear_value x4
        refine ite_of (P := EK s0) (fun _ => ?_) (fun _ => ?_)
        · refine ek_bind ?_ (fun _ => ?_)
          · exact destWork_keeps (h1 _)
          · refine ek_bind ?_ (fun _ => ?_)
            · exact stopTrap_keeps
            · exact h5 _
        · exact h5 _
    clear_value x2
    refine ite_of (P := EK s0) (fun _ => ?_) (fun _ => ?_)
    · refine ek_bind ?_ (fun _ => ?_)
      · exact ek_throw
      · exact h3 _
    · exact h3 _

theorem scalarDo_keeps {s0 : State} {x : Vx} {work : Core → EngM Unit} (h0 : ∀ y0, EK s0 (work y0)) : EK s0 (scalarDo x work :
    EngM Unit) := by
  unfold scalarDo
  refine ek_bind ?_ (fun _ => ?_)
  · exact myCore_keeps
  · refine ek_bind ?_ (fun _ => ?_)
    · exact h0 _
    · refine ek_bind ?_ (fun _ => ?_)
      · exact stopTrap_keeps
      · exact nextPc_keeps

theorem putS_keeps {s0 : State} {x : Vx} {r : Nat} {v : W64} : EK s0 (putS x r v : EngM Unit) := by
  unfold putS
  exact unlessTrapped_keeps setCore_keeps

theorem putE_keeps {s0 : State} {x : Vx} {r : Nat} {ew : Nat} {i : Nat} {v : Nat} : EK s0 (putE x r ew i v : EngM Unit) := by
  unfold putE
  exact unlessTrapped_keeps setCore_keeps

theorem putM_keeps {s0 : State} {x : Vx} {r : Nat} {i : Nat} {b : Bool} : EK s0 (putM x r i b : EngM Unit) := by
  unfold putM
  exact unlessTrapped_keeps setCore_keeps

theorem fillCode_keeps {s0 : State} {key : Nat} {ln : Nat} : EK s0 (fillCode key ln : EngM Bytes) := by
  unfold fillCode
  refine ek_bind ?_ (fun _ => ?_)
  · exact readV_keeps
  · refine ek_getS (fun _ h0 => ?_)
    refine ek_bind ?_ (fun _ => ?_)
    · refine modS_keeps ?_
      exact fun _ h1 => modCore_keeps h1
    · refine ek_bind ?_ (fun _ => ?_)
      · refine modS_keeps ?_
        refine fun _ h2 => ?_
        refine keeps_mk ?_ (Nat.le_succ _) rfl (fun h => h) (fun h => h)
        exact h2
      · exact ek_pure

theorem codeLine_keeps {s0 : State} {key : Nat} {va : Nat} : EK s0 (codeLine key va : EngM Bytes) := by
  unfold codeLine
  refine ek_get (fun _ h0 => ?_)
  split
  · exact stopFault_keeps
  · split
    · exact fillCode_keeps
    · refine ek_bind ?_ (fun _ => ?_)
      · exact freeChoice_keeps
      · refine ite_of (P := EK s0) (fun _ => ?_) (fun _ => ?_)
        · exact fillCode_keeps
        · exact ek_pure

theorem fetchWord_keeps {s0 : State} {key : Nat} {pc : W64} : EK s0 (fetchWord key pc : EngM (Option Nat)) := by
  unfold fetchWord
  refine ite_of (P := EK s0) (fun _ => ?_) (fun _ => ?_)
  · exact ek_pure
  · refine ek_bind ?_ (fun _ => ?_)
    · exact codeLine_keeps
    · exact ek_pure

theorem coreRow_keeps {s0 : State} {b : Nat} {c : Nat} {code : Nat} {work : Vx → EngM Unit} {s : State} (h0 : ∀ y0, EK s0 (work
    y0)) (h1 : Keeps s0 s) : Keeps s0 (coreRow b c code work s) := by
  unfold coreRow
  extract_lets -merge -underBinder +onlyGivenNames x2
  split
  · exact h1
  · extract_lets -merge -underBinder +onlyGivenNames x3
    clear_value x3
    refine ite_of (P := Keeps s0) (fun _ => ?_) (fun _ => ?_)
    · exact coreHavoc_keeps h1
    · split
      · rename_i heq
        refine ek_cut (s0 := s0) heq ?_ ?_ (fun h4 => ?_)
        · exact fetchWord_keeps
        · show Keeps s0 _
          dsimp -zeta only
          refine keeps_mk ?_ (Nat.le_succ _) rfl (fun h => h) (fun h => h)
          exact h1
        · exact faultCmd_keeps h4
      · rename_i heq
        refine ek_cut (s0 := s0) heq ?_ ?_ (fun h5 => ?_)
        · exact fetchWord_keeps
        · show Keeps s0 _
          dsimp -zeta only
          refine keeps_mk ?_ (Nat.le_succ _) rfl (fun h => h) (fun h => h)
          exact h1
        · exact askRemote_keeps h1
      · rename_i heq
        refine ek_cut (s0 := s0) heq ?_ ?_ (fun h6 => ?_)
        · exact fetchWord_keeps
        · show Keeps s0 _
          dsimp -zeta only
          refine keeps_mk ?_ (Nat.le_succ _) rfl (fun h => h) (fun h => h)
          exact h1
        · exact h1
      · rename_i heq
        refine ek_cut (s0 := s0) heq ?_ ?_ (fun h7 => ?_)
        · exact fetchWord_keeps
        · show Keeps s0 _
          dsimp -zeta only
          refine keeps_mk ?_ (Nat.le_succ _) rfl (fun h => h) (fun h => h)
          exact h1
        · exact h1
      · rename_i heq
        refine ek_cut (s0 := s0) heq ?_ ?_ (fun h8 => ?_)
        · exact fetchWord_keeps
        · show Keeps s0 _
          dsimp -zeta only
          refine keeps_mk ?_ (Nat.le_succ _) rfl (fun h => h) (fun h => h)
          exact h1
        · exact coreHavoc_keeps h1
      · rename_i heq
        refine ek_cut (s0 := s0) heq ?_ ?_ (fun h9 => ?_)
        · exact fetchWord_keeps
        · show Keeps s0 _
          dsimp -zeta only
          refine keeps_mk ?_ (Nat.le_succ _) rfl (fun h => h) (fun h => h)
          exact h1
        · split
          · exact coreHavoc_keeps h1
          · refine ite_of (P := Keeps s0) (fun _ => ?_) (fun _ => ?_)
            · refine runCore_keeps ?_ ?_
              · exact h0 _
              · exact dropUsed_keeps h9
            · exact h1

/-! ### Scalar -/

theorem saluRow_keeps {s0 : State} {b : Nat} {c : Nat} {f : Nat} {op : W64 → W64 → W64} {s : State} (h0 : Keeps s0 s) : Keeps s0
    (saluRow b c f op s) := by
  unfold saluRow
  refine coreRow_keeps ?_ ?_
  · refine fun _ => ?_
    refine scalarDo_keeps ?_
    exact fun _ => putS_keeps
  · exact h0

theorem execSAdd_keeps {s0 : State} {b : Nat} {c : Nat} {s : State} (h0 : Keeps s0 s) : KO s0 (execSAdd b c s) := by
  unfold execSAdd
  exact ko_next (saluRow_keeps h0)

theorem execSSub_keeps {s0 : State} {b : Nat} {c : Nat} {s : State} (h0 : Keeps s0 s) : KO s0 (execSSub b c s) := by
  unfold execSSub
  exact ko_next (saluRow_keeps h0)

theorem execSAnd_keeps {s0 : State} {b : Nat} {c : Nat} {s : State} (h0 : Keeps s0 s) : KO s0 (execSAnd b c s) := by
  unfold execSAnd
  exact ko_next (saluRow_keeps h0)

theorem execSOr_keeps {s0 : State} {b : Nat} {c : Nat} {s : State} (h0 : Keeps s0 s) : KO s0 (execSOr b c s) := by
  unfold execSOr
  exact ko_next (saluRow_keeps h0)

theorem execSXor_keeps {s0 : State} {b : Nat} {c : Nat} {s : State} (h0 : Keeps s0 s) : KO s0 (execSXor b c s) := by
  unfold execSXor
  exact ko_next (saluRow_keeps h0)

theorem shiftRow_keeps {s0 : State} {b : Nat} {c : Nat} {f : Nat} {op : W64 → Nat → W64} {s : State} (h0 : Keeps s0 s) : Keeps s0
    (shiftRow b c f op s) := by
  unfold shiftRow
  exact saluRow_keeps h0

theorem execShl_keeps {s0 : State} {b : Nat} {c : Nat} {s : State} (h0 : Keeps s0 s) : KO s0 (execShl b c s) := by
  unfold execShl
  exact ko_next (shiftRow_keeps h0)

theorem execShr_keeps {s0 : State} {b : Nat} {c : Nat} {s : State} (h0 : Keeps s0 s) : KO s0 (execShr b c s) := by
  unfold execShr
  exact ko_next (shiftRow_keeps h0)

theorem execSra_keeps {s0 : State} {b : Nat} {c : Nat} {s : State} (h0 : Keeps s0 s) : KO s0 (execSra b c s) := by
  unfold execSra
  exact ko_next (shiftRow_keeps h0)

theorem execMul_keeps {s0 : State} {b : Nat} {c : Nat} {s : State} (h0 : Keeps s0 s) : KO s0 (execMul b c s) := by
  unfold execMul
  exact ko_next (saluRow_keeps h0)

theorem execMulh_keeps {s0 : State} {b : Nat} {c : Nat} {s : State} (h0 : Keeps s0 s) : KO s0 (execMulh b c s) := by
  unfold execMulh
  exact ko_next (saluRow_keeps h0)

theorem execDiv_keeps {s0 : State} {b : Nat} {c : Nat} {s : State} (h0 : Keeps s0 s) : KO s0 (execDiv b c s) := by
  unfold execDiv
  exact ko_next (saluRow_keeps h0)

theorem execRem_keeps {s0 : State} {b : Nat} {c : Nat} {s : State} (h0 : Keeps s0 s) : KO s0 (execRem b c s) := by
  unfold execRem
  exact ko_next (saluRow_keeps h0)

theorem execSlt_keeps {s0 : State} {b : Nat} {c : Nat} {s : State} (h0 : Keeps s0 s) : KO s0 (execSlt b c s) := by
  unfold execSlt
  exact ko_next (saluRow_keeps h0)

theorem execSltu_keeps {s0 : State} {b : Nat} {c : Nat} {s : State} (h0 : Keeps s0 s) : KO s0 (execSltu b c s) := by
  unfold execSltu
  exact ko_next (saluRow_keeps h0)

theorem execAddi_keeps {s0 : State} {b : Nat} {c : Nat} {s : State} (h0 : Keeps s0 s) : KO s0 (execAddi b c s) := by
  unfold execAddi
  refine ko_next ?_
  refine coreRow_keeps ?_ ?_
  · refine fun _ => ?_
    refine scalarDo_keeps ?_
    exact fun _ => putS_keeps
  · exact h0

theorem execShli_keeps {s0 : State} {b : Nat} {c : Nat} {s : State} (h0 : Keeps s0 s) : KO s0 (execShli b c s) := by
  unfold execShli
  refine ko_next ?_
  refine coreRow_keeps ?_ ?_
  · refine fun _ => ?_
    refine scalarDo_keeps ?_
    exact fun _ => putS_keeps
  · exact h0

theorem execLd_keeps {s0 : State} {b : Nat} {c : Nat} {s : State} (h0 : Keeps s0 s) : KO s0 (execLd b c s) := by
  unfold execLd
  refine ko_next ?_
  refine coreRow_keeps ?_ ?_
  · refine fun _ => ?_
    refine scalarDo_keeps ?_
    refine fun _ => ?_
    refine ek_bind ?_ (fun _ => ?_)
    · exact coreRead_keeps
    · exact putS_keeps
  · exact h0

theorem execLdw_keeps {s0 : State} {b : Nat} {c : Nat} {s : State} (h0 : Keeps s0 s) : KO s0 (execLdw b c s) := by
  unfold execLdw
  refine ko_next ?_
  refine coreRow_keeps ?_ ?_
  · refine fun _ => ?_
    refine scalarDo_keeps ?_
    refine fun _ => ?_
    refine ek_bind ?_ (fun _ => ?_)
    · exact coreRead_keeps
    · exact putS_keeps
  · exact h0

theorem execSt_keeps {s0 : State} {b : Nat} {c : Nat} {s : State} (h0 : Keeps s0 s) : KO s0 (execSt b c s) := by
  unfold execSt
  refine ko_next ?_
  refine coreRow_keeps ?_ ?_
  · refine fun _ => ?_
    refine scalarDo_keeps ?_
    exact fun _ => coreWrite_keeps
  · exact h0

theorem execStw_keeps {s0 : State} {b : Nat} {c : Nat} {s : State} (h0 : Keeps s0 s) : KO s0 (execStw b c s) := by
  unfold execStw
  refine ko_next ?_
  refine coreRow_keeps ?_ ?_
  · refine fun _ => ?_
    refine scalarDo_keeps ?_
    exact fun _ => coreWrite_keeps
  · exact h0

theorem branchRow_keeps {s0 : State} {b : Nat} {c : Nat} {code : Nat} {taken : W64 → W64 → Bool} {s : State} (h0 : Keeps s0 s) :
    Keeps s0 (branchRow b c code taken s) := by
  unfold branchRow
  refine coreRow_keeps ?_ ?_
  · exact fun _ => setCore_keeps
  · exact h0

theorem execBne_keeps {s0 : State} {b : Nat} {c : Nat} {s : State} (h0 : Keeps s0 s) : KO s0 (execBne b c s) := by
  unfold execBne
  exact ko_next (branchRow_keeps h0)

theorem execBlt_keeps {s0 : State} {b : Nat} {c : Nat} {s : State} (h0 : Keeps s0 s) : KO s0 (execBlt b c s) := by
  unfold execBlt
  exact ko_next (branchRow_keeps h0)

theorem execJal_keeps {s0 : State} {b : Nat} {c : Nat} {s : State} (h0 : Keeps s0 s) : KO s0 (execJal b c s) := by
  unfold execJal
  refine ko_next ?_
  refine coreRow_keeps ?_ ?_
  · exact fun _ => setCore_keeps
  · exact h0

theorem sfpRow_keeps {s0 : State} {b : Nat} {c : Nat} {f : Nat} {op : Fmt → RM → Nat → Nat → Nat × Ev} {s : State} (h0 : Keeps s0
    s) : Keeps s0 (sfpRow b c f op s) := by
  unfold sfpRow
  refine coreRow_keeps ?_ ?_
  · refine fun _ => ?_
    refine scalarDo_keeps ?_
    refine fun _ => ?_
    refine ek_bind ?_ (fun _ => ?_)
    · exact getMode_keeps
    · extract_lets -merge -underBinder +onlyGivenNames x1
      clear_value x1
      extract_lets -merge -underBinder +onlyGivenNames x2
      extract_lets -merge -underBinder +onlyGivenNames x3
      extract_lets -merge -underBinder +onlyGivenNames x4
      clear_value x4
      refine ek_bind ?_ (fun _ => ?_)
      · exact coreEv_keeps
      · exact putS_keeps
  · exact h0

theorem execFadd_keeps {s0 : State} {b : Nat} {c : Nat} {s : State} (h0 : Keeps s0 s) : KO s0 (execFadd b c s) := by
  unfold execFadd
  exact ko_next (sfpRow_keeps h0)

theorem execFsub_keeps {s0 : State} {b : Nat} {c : Nat} {s : State} (h0 : Keeps s0 s) : KO s0 (execFsub b c s) := by
  unfold execFsub
  exact ko_next (sfpRow_keeps h0)

theorem execFmul_keeps {s0 : State} {b : Nat} {c : Nat} {s : State} (h0 : Keeps s0 s) : KO s0 (execFmul b c s) := by
  unfold execFmul
  exact ko_next (sfpRow_keeps h0)

theorem execFdiv_keeps {s0 : State} {b : Nat} {c : Nat} {s : State} (h0 : Keeps s0 s) : KO s0 (execFdiv b c s) := by
  unfold execFdiv
  exact ko_next (sfpRow_keeps h0)

theorem execFsqrt_keeps {s0 : State} {b : Nat} {c : Nat} {s : State} (h0 : Keeps s0 s) : KO s0 (execFsqrt b c s) := by
  unfold execFsqrt
  exact ko_next (sfpRow_keeps h0)

theorem execFmin_keeps {s0 : State} {b : Nat} {c : Nat} {s : State} (h0 : Keeps s0 s) : KO s0 (execFmin b c s) := by
  unfold execFmin
  exact ko_next (sfpRow_keeps h0)

theorem execFmax_keeps {s0 : State} {b : Nat} {c : Nat} {s : State} (h0 : Keeps s0 s) : KO s0 (execFmax b c s) := by
  unfold execFmax
  exact ko_next (sfpRow_keeps h0)

theorem execFlt_keeps {s0 : State} {b : Nat} {c : Nat} {s : State} (h0 : Keeps s0 s) : KO s0 (execFlt b c s) := by
  unfold execFlt
  refine ko_next ?_
  refine coreRow_keeps ?_ ?_
  · refine fun _ => ?_
    refine scalarDo_keeps ?_
    refine fun _ => ?_
    extract_lets -merge -underBinder +onlyGivenNames x1
    clear_value x1
    extract_lets -merge -underBinder +onlyGivenNames x2
    clear_value x2
    refine ek_bind ?_ (fun _ => ?_)
    · exact coreEv_keeps
    · exact putS_keeps
  · exact h0

theorem execFcvtI_keeps {s0 : State} {b : Nat} {c : Nat} {s : State} (h0 : Keeps s0 s) : KO s0 (execFcvtI b c s) := by
  unfold execFcvtI
  refine ko_next ?_
  refine coreRow_keeps ?_ ?_
  · refine fun _ => ?_
    refine scalarDo_keeps ?_
    refine fun _ => ?_
    refine ek_bind ?_ (fun _ => ?_)
    · exact getMode_keeps
    · extract_lets -merge -underBinder +onlyGivenNames x1
      clear_value x1
      extract_lets -merge -underBinder +onlyGivenNames x2
      clear_value x2
      refine ek_bind ?_ (fun _ => ?_)
      · exact coreEv_keeps
      · exact putS_keeps
  · exact h0

theorem execFcvtF_keeps {s0 : State} {b : Nat} {c : Nat} {s : State} (h0 : Keeps s0 s) : KO s0 (execFcvtF b c s) := by
  unfold execFcvtF
  refine ko_next ?_
  refine coreRow_keeps ?_ ?_
  · refine fun _ => ?_
    refine scalarDo_keeps ?_
    refine fun _ => ?_
    refine ek_bind ?_ (fun _ => ?_)
    · exact getMode_keeps
    · extract_lets -merge -underBinder +onlyGivenNames x1
      clear_value x1
      extract_lets -merge -underBinder +onlyGivenNames x2
      clear_value x2
      refine ek_bind ?_ (fun _ => ?_)
      · exact coreEv_keeps
      · exact putS_keeps
  · exact h0

theorem launchEnd_keeps {s0 : State} {k : Nat} {s : State} (h0 : Keeps s0 s) : Keeps s0 (launchEnd k s) := by
  unfold launchEnd
  extract_lets -merge -underBinder +onlyGivenNames x1
  refine ite_of (P := Keeps s0) (fun _ => ?_) (fun _ => ?_)
  · exact finishCmd_keeps (progress_keeps h0)
  · exact h0

theorem execVexit_keeps {s0 : State} {b : Nat} {c : Nat} {s : State} (h0 : Keeps s0 s) : KO s0 (execVexit b c s) := by
  unfold execVexit
  refine ko_next ?_
  refine coreRow_keeps ?_ ?_
  · refine fun _ => ?_
    refine ek_bind ?_ (fun _ => ?_)
    · exact setCore_keeps
    · refine modS_keeps ?_
      exact fun _ h1 => launchEnd_keeps h1
  · exact h0

theorem releaseBarrier_keeps {s0 : State} {k : Nat} {s : State} (h0 : Keeps s0 s) : Keeps s0 (releaseBarrier k s) := by
  unfold releaseBarrier
  extract_lets -merge -underBinder +onlyGivenNames x1
  refine ite_of (P := Keeps s0) (fun _ => ?_) (fun _ => ?_)
  · refine progress_keeps ?_
    refine foldl_of (P := Keeps s0) (fun _ _ h2 => ?_) ?_
    · exact modCore_keeps h2
    · exact h0
  · exact h0

theorem execVbar_keeps {s0 : State} {b : Nat} {c : Nat} {s : State} (h0 : Keeps s0 s) : KO s0 (execVbar b c s) := by
  unfold execVbar
  refine ko_next ?_
  refine coreRow_keeps ?_ ?_
  · refine fun _ => ?_
    refine ek_getS (fun _ h1 => ?_)
    extract_lets -merge -underBinder +onlyGivenNames x2
    have h3 : ∀ y0, EK s0 (x2 y0) := by
      unfold x2
      refine fun _ => ?_
      refine ek_bind ?_ (fun _ => ?_)
      · exact myCore_keeps
      · refine ek_bind ?_ (fun _ => ?_)
        · exact setCore_keeps
        · refine ite_of (P := EK s0) (fun _ => ?_) (fun _ => ?_)
          · exact nextPc_keeps
          · refine ek_bind ?_ (fun _ => ?_)
            · exact setCore_keeps
            · refine modS_keeps ?_
              exact fun _ h4 => releaseBarrier_keeps h4
    clear_value x2
    refine ite_of (P := EK s0) (fun _ => ?_) (fun _ => ?_)
    · refine ek_bind ?_ (fun _ => ?_)
      · exact ek_throw
      · exact h3 _
    · exact h3 _
  · exact h0

theorem execCsrr_keeps {s0 : State} {b : Nat} {c : Nat} {s : State} (h0 : Keeps s0 s) : KO s0 (execCsrr b c s) := by
  unfold execCsrr
  refine ko_next ?_
  refine coreRow_keeps ?_ ?_
  · refine fun _ => ?_
    refine scalarDo_keeps ?_
    refine fun _ => ?_
    refine ek_getS (fun _ h1 => ?_)
    split
    · exact putS_keeps
    · exact ek_throw
  · exact h0

theorem execCsrw_keeps {s0 : State} {b : Nat} {c : Nat} {s : State} (h0 : Keeps s0 s) : KO s0 (execCsrw b c s) := by
  unfold execCsrw
  refine ko_next ?_
  refine coreRow_keeps ?_ ?_
  · refine fun _ => ?_
    refine scalarDo_keeps ?_
    refine fun _ => ?_
    extract_lets -merge -underBinder +onlyGivenNames x1
    refine ite_of (P := EK s0) (fun _ => ?_) (fun _ => ?_)
    · exact ek_throw
    · refine ite_of (P := EK s0) (fun _ => ?_) (fun _ => ?_)
      · exact setCore_keeps
      · exact ek_pure
  · exact h0

theorem execVfmt_keeps {s0 : State} {b : Nat} {c : Nat} {s : State} (h0 : Keeps s0 s) : KO s0 (execVfmt b c s) := by
  unfold execVfmt
  refine ko_next ?_
  refine coreRow_keeps ?_ ?_
  · refine fun _ => ?_
    refine scalarDo_keeps ?_
    refine fun _ => ?_
    extract_lets -merge -underBinder +onlyGivenNames x1
    extract_lets -merge -underBinder +onlyGivenNames x2
    clear_value x2
    refine ek_bind ?_ (fun _ => ?_)
    · exact setCore_keeps
    · exact putS_keeps
  · exact h0

theorem execVstrip_keeps {s0 : State} {b : Nat} {c : Nat} {s : State} (h0 : Keeps s0 s) : KO s0 (execVstrip b c s) := by
  unfold execVstrip
  refine ko_next ?_
  refine coreRow_keeps ?_ ?_
  · refine fun _ => ?_
    refine scalarDo_keeps ?_
    refine fun _ => ?_
    refine ite_of (P := EK s0) (fun _ => ?_) (fun _ => ?_)
    · refine ek_bind ?_ (fun _ => ?_)
      · exact setCore_keeps
      · exact putS_keeps
    · extract_lets -merge -underBinder +onlyGivenNames x1
      refine ek_bind ?_ (fun _ => ?_)
      · exact setCore_keeps
      · exact putS_keeps
  · exact h0

/-! ### VecInt -/

theorem vintRow_keeps {s0 : State} {b : Nat} {c : Nat} {op : Nat} {f : Nat → Nat → Nat → Nat} {s : State} (h0 : Keeps s0 s) :
    Keeps s0 (vintRow b c op f s) := by
  unfold vintRow
  refine coreRow_keeps ?_ ?_
  · refine fun _ => ?_
    refine vecElems_keeps ?_
    refine fun _ => ?_
    refine ek_bind ?_ (fun _ => ?_)
    · exact myCore_keeps
    · exact putE_keeps
  · exact h0

theorem execVadd_keeps {s0 : State} {b : Nat} {c : Nat} {s : State} (h0 : Keeps s0 s) : KO s0 (execVadd b c s) := by
  unfold execVadd
  exact ko_next (vintRow_keeps h0)

theorem execVsub_keeps {s0 : State} {b : Nat} {c : Nat} {s : State} (h0 : Keeps s0 s) : KO s0 (execVsub b c s) := by
  unfold execVsub
  exact ko_next (vintRow_keeps h0)

theorem execVmul_keeps {s0 : State} {b : Nat} {c : Nat} {s : State} (h0 : Keeps s0 s) : KO s0 (execVmul b c s) := by
  unfold execVmul
  exact ko_next (vintRow_keeps h0)

theorem execVmulh_keeps {s0 : State} {b : Nat} {c : Nat} {s : State} (h0 : Keeps s0 s) : KO s0 (execVmulh b c s) := by
  unfold execVmulh
  exact ko_next (vintRow_keeps h0)

theorem execVand_keeps {s0 : State} {b : Nat} {c : Nat} {s : State} (h0 : Keeps s0 s) : KO s0 (execVand b c s) := by
  unfold execVand
  exact ko_next (vintRow_keeps h0)

theorem execVor_keeps {s0 : State} {b : Nat} {c : Nat} {s : State} (h0 : Keeps s0 s) : KO s0 (execVor b c s) := by
  unfold execVor
  exact ko_next (vintRow_keeps h0)

theorem execVxor_keeps {s0 : State} {b : Nat} {c : Nat} {s : State} (h0 : Keeps s0 s) : KO s0 (execVxor b c s) := by
  unfold execVxor
  exact ko_next (vintRow_keeps h0)

theorem execVshl_keeps {s0 : State} {b : Nat} {c : Nat} {s : State} (h0 : Keeps s0 s) : KO s0 (execVshl b c s) := by
  unfold execVshl
  exact ko_next (vintRow_keeps h0)

theorem execVshr_keeps {s0 : State} {b : Nat} {c : Nat} {s : State} (h0 : Keeps s0 s) : KO s0 (execVshr b c s) := by
  unfold execVshr
  exact ko_next (vintRow_keeps h0)

theorem execVsra_keeps {s0 : State} {b : Nat} {c : Nat} {s : State} (h0 : Keeps s0 s) : KO s0 (execVsra b c s) := by
  unfold execVsra
  exact ko_next (vintRow_keeps h0)

theorem execVmin_keeps {s0 : State} {b : Nat} {c : Nat} {s : State} (h0 : Keeps s0 s) : KO s0 (execVmin b c s) := by
  unfold execVmin
  exact ko_next (vintRow_keeps h0)

theorem execVmax_keeps {s0 : State} {b : Nat} {c : Nat} {s : State} (h0 : Keeps s0 s) : KO s0 (execVmax b c s) := by
  unfold execVmax
  exact ko_next (vintRow_keeps h0)

theorem vcmpRow_keeps {s0 : State} {b : Nat} {c : Nat} {op : Nat} {f : Int → Int → Bool} {s : State} (h0 : Keeps s0 s) : Keeps s0
    (vcmpRow b c op f s) := by
  unfold vcmpRow
  refine coreRow_keeps ?_ ?_
  · refine fun _ => ?_
    refine vecElems_keeps ?_
    refine fun _ => ?_
    refine ek_bind ?_ (fun _ => ?_)
    · exact myCore_keeps
    · exact putM_keeps
  · exact h0

theorem execVcmpeq_keeps {s0 : State} {b : Nat} {c : Nat} {s : State} (h0 : Keeps s0 s) : KO s0 (execVcmpeq b c s) := by
  unfold execVcmpeq
  exact ko_next (vcmpRow_keeps h0)

theorem execVcmplt_keeps {s0 : State} {b : Nat} {c : Nat} {s : State} (h0 : Keeps s0 s) : KO s0 (execVcmplt b c s) := by
  unfold execVcmplt
  exact ko_next (vcmpRow_keeps h0)

theorem execVxma_keeps {s0 : State} {b : Nat} {c : Nat} {s : State} (h0 : Keeps s0 s) : KO s0 (execVxma b c s) := by
  unfold execVxma
  refine ko_next ?_
  refine coreRow_keeps ?_ ?_
  · refine fun _ => ?_
    refine vecElems_keeps ?_
    refine fun _ => ?_
    refine ek_bind ?_ (fun _ => ?_)
    · exact myCore_keeps
    · extract_lets -merge -underBinder +onlyGivenNames x1
      extract_lets -merge -underBinder +onlyGivenNames x2
      clear_value x2
      exact putE_keeps
  · exact h0

theorem execVdot4_keeps {s0 : State} {b : Nat} {c : Nat} {s : State} (h0 : Keeps s0 s) : KO s0 (execVdot4 b c s) := by
  unfold execVdot4
  refine ko_next ?_
  refine coreRow_keeps ?_ ?_
  · refine fun _ => ?_
    refine vecWhole_keeps ?_ ?_
    · exact ek_pure
    · refine fun _ => ?_
      refine ek_forM (fun _ => ?_)
      extract_lets -merge -underBinder +onlyGivenNames x1
      clear_value x1
      exact putE_keeps
  · exact h0

/-! ### VecFloat -/

theorem vfpRow_keeps {s0 : State} {b : Nat} {c : Nat} {op : Nat} {acc : Bool} {f : Fmt → RM → Nat → Nat → Nat → Nat × Ev} {s :
    State} (h0 : Keeps s0 s) : Keeps s0 (vfpRow b c op acc f s) := by
  unfold vfpRow
  refine coreRow_keeps ?_ ?_
  · refine fun _ => ?_
    refine vecElems_keeps ?_
    refine fun _ => ?_
    refine ek_bind ?_ (fun _ => ?_)
    · exact myCore_keeps
    · refine ek_bind ?_ (fun _ => ?_)
      · exact getMode_keeps
      · extract_lets -merge -underBinder +onlyGivenNames x1
        clear_value x1
        extract_lets -merge -underBinder +onlyGivenNames x2
        extract_lets -merge -underBinder +onlyGivenNames x3
        extract_lets -merge -underBinder +onlyGivenNames x4
        extract_lets -merge -underBinder +onlyGivenNames x5
        clear_value x5
        refine ek_bind ?_ (fun _ => ?_)
        · exact coreEv_keeps
        · exact putE_keeps
  · exact h0

theorem execVfadd_keeps {s0 : State} {b : Nat} {c : Nat} {s : State} (h0 : Keeps s0 s) : KO s0 (execVfadd b c s) := by
  unfold execVfadd
  exact ko_next (vfpRow_keeps h0)

theorem execVfsub_keeps {s0 : State} {b : Nat} {c : Nat} {s : State} (h0 : Keeps s0 s) : KO s0 (execVfsub b c s) := by
  unfold execVfsub
  exact ko_next (vfpRow_keeps h0)

theorem execVfmul_keeps {s0 : State} {b : Nat} {c : Nat} {s : State} (h0 : Keeps s0 s) : KO s0 (execVfmul b c s) := by
  unfold execVfmul
  exact ko_next (vfpRow_keeps h0)

theorem execVfdiv_keeps {s0 : State} {b : Nat} {c : Nat} {s : State} (h0 : Keeps s0 s) : KO s0 (execVfdiv b c s) := by
  unfold execVfdiv
  exact ko_next (vfpRow_keeps h0)

theorem execVfma_keeps {s0 : State} {b : Nat} {c : Nat} {s : State} (h0 : Keeps s0 s) : KO s0 (execVfma b c s) := by
  unfold execVfma
  exact ko_next (vfpRow_keeps h0)

theorem execVfnms_keeps {s0 : State} {b : Nat} {c : Nat} {s : State} (h0 : Keeps s0 s) : KO s0 (execVfnms b c s) := by
  unfold execVfnms
  exact ko_next (vfpRow_keeps h0)

theorem execVfmin_keeps {s0 : State} {b : Nat} {c : Nat} {s : State} (h0 : Keeps s0 s) : KO s0 (execVfmin b c s) := by
  unfold execVfmin
  exact ko_next (vfpRow_keeps h0)

theorem execVfmax_keeps {s0 : State} {b : Nat} {c : Nat} {s : State} (h0 : Keeps s0 s) : KO s0 (execVfmax b c s) := by
  unfold execVfmax
  exact ko_next (vfpRow_keeps h0)

theorem vfcmpRow_keeps {s0 : State} {b : Nat} {c : Nat} {op : Nat} {f : Fmt → Nat → Nat → Bool × Ev} {s : State} (h0 : Keeps s0 s)
    : Keeps s0 (vfcmpRow b c op f s) := by
  unfold vfcmpRow
  refine coreRow_keeps ?_ ?_
  · refine fun _ => ?_
    refine vecElems_keeps ?_
    refine fun _ => ?_
    refine ek_bind ?_ (fun _ => ?_)
    · exact myCore_keeps
    · extract_lets -merge -underBinder +onlyGivenNames x1
      clear_value x1
      refine ek_bind ?_ (fun _ => ?_)
      · exact coreEv_keeps
      · exact putM_keeps
  · exact h0

theorem execVfcmplt_keeps {s0 : State} {b : Nat} {c : Nat} {s : State} (h0 : Keeps s0 s) : KO s0 (execVfcmplt b c s) := by
  unfold execVfcmplt
  exact ko_next (vfcmpRow_keeps h0)

theorem execVfcmpeq_keeps {s0 : State} {b : Nat} {c : Nat} {s : State} (h0 : Keeps s0 s) : KO s0 (execVfcmpeq b c s) := by
  unfold execVfcmpeq
  exact ko_next (vfcmpRow_keeps h0)

theorem forceFlags_keeps {s0 : State} {e : Nat} {ev : Ev} : EK s0 (forceFlags e ev : EngM Unit) := by
  unfold forceFlags
  refine ite_of (P := EK s0) (fun _ => ?_) (fun _ => ?_)
  · refine ek_modify (fun _ h0 => ?_)
    exact h0
  · exact ek_pure

theorem productEv_keeps {s0 : State} {x : Vx} {e : Nat} {i : Nat} {role : Nat} {ev : Ev} : EK s0 (productEv x e i role ev : EngM
    Unit) := by
  unfold productEv
  refine ek_bind ?_ (fun _ => ?_)
  · exact getMode_keeps
  · refine ek_bind ?_ (fun _ => ?_)
    · exact coreEv_keeps
    · refine ite_of (P := EK s0) (fun _ => ?_) (fun _ => ?_)
      · extract_lets -merge -underBinder +onlyGivenNames x0
        clear_value x0
        refine ek_modify (fun _ h1 => ?_)
        exact h1
      · exact ek_pure

theorem execVfxmul_keeps {s0 : State} {b : Nat} {c : Nat} {s : State} (h0 : Keeps s0 s) : KO s0 (execVfxmul b c s) := by
  unfold execVfxmul
  refine ko_next ?_
  refine coreRow_keeps ?_ ?_
  · refine fun _ => ?_
    refine vecElems_keeps ?_
    refine fun _ => ?_
    refine ek_bind ?_ (fun _ => ?_)
    · exact myCore_keeps
    · refine ek_bind ?_ (fun _ => ?_)
      · exact getMode_keeps
      · extract_lets -merge -underBinder +onlyGivenNames x1
        clear_value x1
        extract_lets -merge -underBinder +onlyGivenNames x2
        clear_value x2
        extract_lets -merge -underBinder +onlyGivenNames x3
        clear_value x3
        extract_lets -merge -underBinder +onlyGivenNames x4
        clear_value x4
        refine ek_bind ?_ (fun _ => ?_)
        · exact productEv_keeps
        · refine ek_bind ?_ (fun _ => ?_)
          · exact forceFlags_keeps
          · exact putE_keeps
  · exact h0

theorem execVfxma_keeps {s0 : State} {b : Nat} {c : Nat} {s : State} (h0 : Keeps s0 s) : KO s0 (execVfxma b c s) := by
  unfold execVfxma
  refine ko_next ?_
  refine coreRow_keeps ?_ ?_
  · refine fun _ => ?_
    refine vecElems_keeps ?_
    refine fun _ => ?_
    refine ek_bind ?_ (fun _ => ?_)
    · exact myCore_keeps
    · refine ek_bind ?_ (fun _ => ?_)
      · exact getMode_keeps
      · extract_lets -merge -underBinder +onlyGivenNames x1
        clear_value x1
        extract_lets -merge -underBinder +onlyGivenNames x2
        clear_value x2
        extract_lets -merge -underBinder +onlyGivenNames x3
        clear_value x3
        extract_lets -merge -underBinder +onlyGivenNames x4
        clear_value x4
        extract_lets -merge -underBinder +onlyGivenNames x5
        clear_value x5
        refine ek_bind ?_ (fun _ => ?_)
        · exact coreEv_keeps
        · exact putE_keeps
  · exact h0

theorem execVfdot_keeps {s0 : State} {b : Nat} {c : Nat} {s : State} (h0 : Keeps s0 s) : KO s0 (execVfdot b c s) := by
  unfold execVfdot
  refine ko_next ?_
  refine coreRow_keeps ?_ ?_
  · refine fun _ => ?_
    refine vecWhole_keeps ?_ ?_
    · exact ek_pure
    · refine fun _ => ?_
      refine ek_bind ?_ (fun _ => ?_)
      · exact getMode_keeps
      · extract_lets -merge -underBinder +onlyGivenNames x1
        refine ek_forM (fun _ => ?_)
        extract_lets -merge -underBinder +onlyGivenNames x2
        extract_lets -merge -underBinder +onlyGivenNames x3
        clear_value x3
        extract_lets -merge -underBinder +onlyGivenNames x4
        clear_value x4
        refine ek_bind ?_ (fun _ => ?_)
        · exact coreEv_keeps
        · exact putE_keeps
  · exact h0

theorem execVfun_keeps {s0 : State} {b : Nat} {c : Nat} {s : State} (h0 : Keeps s0 s) : KO s0 (execVfun b c s) := by
  unfold execVfun
  refine ko_next ?_
  refine coreRow_keeps ?_ ?_
  · refine fun _ => ?_
    refine vecElems_keeps ?_
    refine fun _ => ?_
    refine ek_bind ?_ (fun _ => ?_)
    · exact myCore_keeps
    · refine ek_bind ?_ (fun _ => ?_)
      · exact getMode_keeps
      · extract_lets -merge -underBinder +onlyGivenNames x1
        clear_value x1
        extract_lets -merge -underBinder +onlyGivenNames x2
        split
        · exact ek_throw
        · refine ek_bind ?_ (fun _ => ?_)
          · exact coreEv_keeps
          · exact putE_keeps
  · exact h0

theorem execVfcvt_keeps {s0 : State} {b : Nat} {c : Nat} {s : State} (h0 : Keeps s0 s) : KO s0 (execVfcvt b c s) := by
  unfold execVfcvt
  refine ko_next ?_
  refine coreRow_keeps ?_ ?_
  · refine fun _ => ?_
    refine vecElems_keeps ?_
    refine fun _ => ?_
    refine ek_bind ?_ (fun _ => ?_)
    · exact myCore_keeps
    · refine ek_bind ?_ (fun _ => ?_)
      · exact getMode_keeps
      · extract_lets -merge -underBinder +onlyGivenNames x1
        clear_value x1
        refine ek_bind ?_ (fun _ => ?_)
        · exact coreEv_keeps
        · exact putE_keeps
  · exact h0

theorem execVffold_keeps {s0 : State} {b : Nat} {c : Nat} {s : State} (h0 : Keeps s0 s) : KO s0 (execVffold b c s) := by
  unfold execVffold
  refine ko_next ?_
  refine coreRow_keeps ?_ ?_
  · refine fun _ => ?_
    refine vecWhole_keeps ?_ ?_
    · exact ek_pure
    · refine fun _ => ?_
      refine ek_bind ?_ (fun _ => ?_)
      · exact getMode_keeps
      · extract_lets -merge -underBinder +onlyGivenNames x1
        clear_value x1
        extract_lets -merge -underBinder +onlyGivenNames x2
        clear_value x2
        extract_lets -merge -underBinder +onlyGivenNames x3
        extract_lets -merge -underBinder +onlyGivenNames x4
        clear_value x4
        extract_lets -merge -underBinder +onlyGivenNames x5
        clear_value x5
        refine ek_bind ?_ (fun _ => ?_)
        · exact coreEv_keeps
        · exact putE_keeps
  · exact h0

/-! ### VecMove -/

theorem vmpRow_keeps {s0 : State} {b : Nat} {c : Nat} {f : Nat} {legal : Nat → Core → Bool} {work : Vx → Core → EngM Unit} {s :
    State} (h0 : ∀ y0, ∀ y1, EK s0 (work y0 y1)) (h1 : Keeps s0 s) : Keeps s0 (vmpRow b c f legal work s) := by
  unfold vmpRow
  refine coreRow_keeps ?_ ?_
  · refine fun _ => ?_
    refine vecWhole_keeps ?_ ?_
    · exact ek_pure
    · exact fun _ => h0 _ _
  · exact h1

theorem execVmlog_keeps {s0 : State} {b : Nat} {c : Nat} {s : State} (h0 : Keeps s0 s) : KO s0 (execVmlog b c s) := by
  unfold execVmlog
  refine ko_next ?_
  refine vmpRow_keeps ?_ ?_
  · refine fun _ _ => ?_
    refine ek_forM (fun _ => ?_)
    exact putM_keeps
  · exact h0

theorem execVmcount_keeps {s0 : State} {b : Nat} {c : Nat} {s : State} (h0 : Keeps s0 s) : KO s0 (execVmcount b c s) := by
  unfold execVmcount
  refine ko_next ?_
  refine vmpRow_keeps ?_ ?_
  · exact fun _ _ => putS_keeps
  · exact h0

theorem execVmlow_keeps {s0 : State} {b : Nat} {c : Nat} {s : State} (h0 : Keeps s0 s) : KO s0 (execVmlow b c s) := by
  unfold execVmlow
  refine ko_next ?_
  refine vmpRow_keeps ?_ ?_
  · exact fun _ _ => putS_keeps
  · exact h0

theorem execVsel_keeps {s0 : State} {b : Nat} {c : Nat} {s : State} (h0 : Keeps s0 s) : KO s0 (execVsel b c s) := by
  unfold execVsel
  refine ko_next ?_
  refine vmpRow_keeps ?_ ?_
  · refine fun _ _ => ?_
    refine ek_forM (fun _ => ?_)
    exact putE_keeps
  · exact h0

theorem execVcopy_keeps {s0 : State} {b : Nat} {c : Nat} {s : State} (h0 : Keeps s0 s) : KO s0 (execVcopy b c s) := by
  unfold execVcopy
  refine ko_next ?_
  refine vmpRow_keeps ?_ ?_
  · refine fun _ _ => ?_
    refine ek_forM (fun _ => ?_)
    exact putE_keeps
  · exact h0

theorem execVins_keeps {s0 : State} {b : Nat} {c : Nat} {s : State} (h0 : Keeps s0 s) : KO s0 (execVins b c s) := by
  unfold execVins
  refine ko_next ?_
  refine vmpRow_keeps ?_ ?_
  · refine fun _ _ => ?_
    refine ite_of (P := EK s0) (fun _ => ?_) (fun _ => ?_)
    · exact putE_keeps
    · exact ek_pure
  · exact h0

theorem execVext_keeps {s0 : State} {b : Nat} {c : Nat} {s : State} (h0 : Keeps s0 s) : KO s0 (execVext b c s) := by
  unfold execVext
  refine ko_next ?_
  refine vmpRow_keeps ?_ ?_
  · exact fun _ _ => putS_keeps
  · exact h0

theorem execVelup_keeps {s0 : State} {b : Nat} {c : Nat} {s : State} (h0 : Keeps s0 s) : KO s0 (execVelup b c s) := by
  unfold execVelup
  refine ko_next ?_
  refine vmpRow_keeps ?_ ?_
  · refine fun _ _ => ?_
    extract_lets -merge -underBinder +onlyGivenNames x1
    refine ek_forM (fun _ => ?_)
    exact putE_keeps
  · exact h0

theorem execVeldn_keeps {s0 : State} {b : Nat} {c : Nat} {s : State} (h0 : Keeps s0 s) : KO s0 (execVeldn b c s) := by
  unfold execVeldn
  refine ko_next ?_
  refine vmpRow_keeps ?_ ?_
  · refine fun _ _ => ?_
    extract_lets -merge -underBinder +onlyGivenNames x1
    refine ek_forM (fun _ => ?_)
    exact putE_keeps
  · exact h0

theorem execVperm_keeps {s0 : State} {b : Nat} {c : Nat} {s : State} (h0 : Keeps s0 s) : KO s0 (execVperm b c s) := by
  unfold execVperm
  refine ko_next ?_
  refine vmpRow_keeps ?_ ?_
  · refine fun _ _ => ?_
    refine ek_forM (fun _ => ?_)
    extract_lets -merge -underBinder +onlyGivenNames x1
    exact putE_keeps
  · exact h0

theorem execVpack_keeps {s0 : State} {b : Nat} {c : Nat} {s : State} (h0 : Keeps s0 s) : KO s0 (execVpack b c s) := by
  unfold execVpack
  refine ko_next ?_
  refine vmpRow_keeps ?_ ?_
  · refine fun _ _ => ?_
    extract_lets -merge -underBinder +onlyGivenNames x1
    clear_value x1
    refine ek_forM (fun _ => ?_)
    exact putE_keeps
  · exact h0

theorem execVindex_keeps {s0 : State} {b : Nat} {c : Nat} {s : State} (h0 : Keeps s0 s) : KO s0 (execVindex b c s) := by
  unfold execVindex
  refine ko_next ?_
  refine vmpRow_keeps ?_ ?_
  · refine fun _ _ => ?_
    refine ek_forM (fun _ => ?_)
    exact putE_keeps
  · exact h0

theorem execVisum_keeps {s0 : State} {b : Nat} {c : Nat} {s : State} (h0 : Keeps s0 s) : KO s0 (execVisum b c s) := by
  unfold execVisum
  refine ko_next ?_
  refine vmpRow_keeps ?_ ?_
  · refine fun _ _ => ?_
    extract_lets -merge -underBinder +onlyGivenNames x1
    exact putE_keeps
  · exact h0

theorem execVsplat_keeps {s0 : State} {b : Nat} {c : Nat} {s : State} (h0 : Keeps s0 s) : KO s0 (execVsplat b c s) := by
  unfold execVsplat
  refine ko_next ?_
  refine vmpRow_keeps ?_ ?_
  · refine fun _ _ => ?_
    refine ek_forM (fun _ => ?_)
    exact putE_keeps
  · exact h0

/-! ### VecMem -/

theorem needMaskByte_keeps {s0 : State} {va : Nat} {b : Nat} {write : Bool} : EK s0 (needMaskByte va b write : EngM Unit) := by
  unfold needMaskByte
  refine ek_get (fun _ h0 => ?_)
  refine ite_of (P := EK s0) (fun _ => ?_) (fun _ => ?_)
  · exact stopFault_keeps
  · exact ek_pure

theorem loadFields_keeps {s0 : State} : ∀ (x : Vx) (r : Core) (i : Nat) (z3 : Nat), EK s0 (loadFields x r i z3)
  | p0, p1, p2, 0 => by
    rw [loadFields.eq_1]
    exact ek_pure
  | p0, p1, p2, p3 + 1 => by
    rw [loadFields.eq_2]
    refine ek_bind ?_ (fun _ => ?_)
    · exact loadFields_keeps _ _ _ _
    · refine ek_bind ?_ (fun _ => ?_)
      · exact coreRead_keeps
      · exact ek_pure

theorem vldWork_keeps {s0 : State} {x : Vx} : EK s0 (vldWork x : EngM Unit) := by
  unfold vldWork
  refine ite_of (P := EK s0) (fun _ => ?_) (fun _ => ?_)
  · refine vecWhole_keeps ?_ ?_
    · exact ek_pure
    · refine fun _ => ?_
      refine ek_forM (fun _ => ?_)
      extract_lets -merge -underBinder +onlyGivenNames x0
      refine ek_bind ?_ (fun _ => ?_)
      · exact needMaskByte_keeps
      · refine ek_bind ?_ (fun _ => ?_)
        · exact coreRead_keeps
        · refine ek_forM (fun _ => ?_)
          exact putM_keeps
  · refine vecElems_keeps ?_
    refine fun _ => ?_
    refine ek_bind ?_ (fun _ => ?_)
    · exact myCore_keeps
    · refine ek_bind ?_ (fun _ => ?_)
      · exact loadFields_keeps _ _ _ _
      · refine ek_forM (fun _ => ?_)
        exact putE_keeps

theorem execVld_keeps {s0 : State} {b : Nat} {c : Nat} {s : State} (h0 : Keeps s0 s) : KO s0 (execVld b c s) := by
  unfold execVld
  refine ko_next ?_
  refine coreRow_keeps ?_ ?_
  · exact fun _ => vldWork_keeps
  · exact h0

theorem vstWork_keeps {s0 : State} {x : Vx} : EK s0 (vstWork x : EngM Unit) := by
  unfold vstWork
  refine ite_of (P := EK s0) (fun _ => ?_) (fun _ => ?_)
  · refine vecWhole_keeps ?_ ?_
    · exact ek_pure
    · refine fun _ => ?_
      refine ek_forM (fun _ => ?_)
      extract_lets -merge -underBinder +onlyGivenNames x0
      refine ek_bind ?_ (fun _ => ?_)
      · exact needMaskByte_keeps
      · extract_lets -merge -underBinder +onlyGivenNames x1
        clear_value x1
        extract_lets -merge -underBinder +onlyGivenNames x2
        clear_value x2
        exact coreWrite_keeps
  · refine vecElems_keeps ?_
    refine fun _ => ?_
    refine ek_bind ?_ (fun _ => ?_)
    · exact myCore_keeps
    · refine ek_bind ?_ (fun _ => ?_)
      · refine ek_forM (fun _ => ?_)
        exact needWrite_keeps
      · refine ek_forM (fun _ => ?_)
        exact coreWrite_keeps

theorem execVst_keeps {s0 : State} {b : Nat} {c : Nat} {s : State} (h0 : Keeps s0 s) : KO s0 (execVst b c s) := by
  unfold execVst
  refine ko_next ?_
  refine coreRow_keeps ?_ ?_
  · exact fun _ => vstWork_keeps
  · exact h0

theorem needPair_keeps {s0 : State} {x : Vx} {p : Nat} : EK s0 (needPair x p : EngM Unit) := by
  unfold needPair
  refine ek_get (fun _ h0 => ?_)
  refine ite_of (P := EK s0) (fun _ => ?_) (fun _ => ?_)
  · exact stopFault_keeps
  · exact ek_pure

theorem execVsrd_keeps {s0 : State} {b : Nat} {c : Nat} {s : State} (h0 : Keeps s0 s) : KO s0 (execVsrd b c s) := by
  unfold execVsrd
  refine ko_next ?_
  refine coreRow_keeps ?_ ?_
  · refine fun _ => ?_
    refine vecWhole_keeps ?_ ?_
    · exact needPair_keeps
    · refine fun _ => ?_
      refine ek_get (fun _ h1 => ?_)
      extract_lets -merge -underBinder +onlyGivenNames x2
      extract_lets -merge -underBinder +onlyGivenNames x3
      have h4 : KP s0 x3 := by
        unfold x3
        exact takeStream_keeps h1
      clear_value x3
      extract_lets -merge -underBinder +onlyGivenNames x5
      have h6 : ∀ y0, EK s0 (x5 y0) := by
        unfold x5
        refine fun _ => ?_
        refine ek_bind ?_ (fun _ => ?_)
        · refine modS_keeps ?_
          exact fun _ h7 => kp_snd h4
        · refine ek_forM (fun _ => ?_)
          exact putE_keeps
      clear_value x5
      refine ite_of (P := EK s0) (fun _ => ?_) (fun _ => ?_)
      · refine ek_bind ?_ (fun _ => ?_)
        · exact ek_throw
        · exact h6 _
      · exact h6 _
  · exact h0

theorem execVswr_keeps {s0 : State} {b : Nat} {c : Nat} {s : State} (h0 : Keeps s0 s) : KO s0 (execVswr b c s) := by
  unfold execVswr
  refine ko_next ?_
  refine coreRow_keeps ?_ ?_
  · refine fun _ => ?_
    refine vecWhole_keeps ?_ ?_
    · exact needPair_keeps
    · refine fun _ => ?_
      refine ek_get (fun _ h1 => ?_)
      extract_lets -merge -underBinder +onlyGivenNames x2
      extract_lets -merge -underBinder +onlyGivenNames x3
      extract_lets -merge -underBinder +onlyGivenNames x4
      have h5 : ∀ y0, EK s0 (x4 y0) := by
        unfold x4
        refine fun _ => ?_
        refine modS_keeps ?_
        exact fun _ h6 => pushStream_keeps h6
      clear_value x4
      refine ite_of (P := EK s0) (fun _ => ?_) (fun _ => ?_)
      · refine ek_bind ?_ (fun _ => ?_)
        · exact ek_throw
        · exact h5 _
      · exact h5 _
  · exact h0

/-! ### Launch -/

theorem launchCmd_keeps {s0 : State} {c : Cmd} {s : State} (h0 : Keeps s0 s) : Keeps s0 (launchCmd c s) := by
  unfold launchCmd
  extract_lets -merge -underBinder +onlyGivenNames x1
  clear_value x1
  extract_lets -merge -underBinder +onlyGivenNames x2
  clear_value x2
  extract_lets -merge -underBinder +onlyGivenNames x3
  refine modProg_keeps ?_
  refine keeps_mk ?_ (Nat.le_refl _) rfl (fun h => h) (fun h => h)
  exact h0

theorem execVxLaunch_keeps {s0 : State} {k : Nat} {s : State} (h0 : Keeps s0 s) : KO s0 (execVxLaunch k s) := by
  unfold execVxLaunch
  refine ko_next ?_
  refine runOp_keeps ?_ ?_
  · refine fun _ _ h1 => ?_
    refine ite_of (P := Keeps s0) (fun _ => ?_) (fun _ => ?_)
    · exact launchCmd_keeps h1
    · exact h1
  · exact h0

theorem codesOf_keeps {s0 : State} {r : FbRow} {role : Nat} {xs : List (Nat × Ev)} : EK s0 (codesOf r role xs : EngM (List Nat))
    := by
  unfold codesOf
  refine ek_bind ?_ (fun _ => ?_)
  · exact noteEvs_keeps
  · exact ek_pure

theorem codeOf_keeps {s0 : State} {r : FbRow} {role : Nat} {x : Nat × Ev} : EK s0 (codeOf r role x : EngM Nat) := by
  unfold codeOf
  refine ek_bind ?_ (fun _ => ?_)
  · exact noteEv_keeps
  · exact ek_pure

theorem streamRow_keeps {s0 : State} {c : Cmd} {need : Nat} : EK s0 (streamRow c need : EngM (Option Bytes)) := by
  unfold streamRow
  refine ek_getS (fun _ h0 => ?_)
  extract_lets -merge -underBinder +onlyGivenNames x1
  clear_value x1
  extract_lets -merge -underBinder +onlyGivenNames x2
  have h3 : KP s0 x2 := by
    unfold x2
    exact takeStream_keeps h0
  clear_value x2
  extract_lets -merge -underBinder +onlyGivenNames x4
  clear_value x4
  refine ek_bind ?_ (fun _ => ?_)
  · refine modS_keeps ?_
    exact fun _ h5 => modProg_keeps (kp_snd h3)
  · exact ek_pure

theorem flushBlock_keeps {s0 : State} {c : Cmd} {r : FbRow} {rm : RM} {first : Bool} {va : Nat} {sums : List Nat} : EK s0
    (flushBlock c r rm first va sums : EngM Unit) := by
  unfold flushBlock
  extract_lets -merge -underBinder +onlyGivenNames x0
  clear_value x0
  extract_lets -merge -underBinder +onlyGivenNames x1
  extract_lets -merge -underBinder +onlyGivenNames x2
  have h3 : ∀ y0, EK s0 (x2 y0) := by
    unfold x2
    refine fun _ => ?_
    extract_lets -merge -underBinder +onlyGivenNames x4
    clear_value x4
    refine ek_bind ?_ (fun _ => ?_)
    · exact codesOf_keeps
    · exact writeV_keeps
  clear_value x2
  refine ite_of (P := EK s0) (fun _ => ?_) (fun _ => ?_)
  · refine ek_bind ?_ (fun _ => ?_)
    · exact ek_pure
    · exact h3 _
  · refine ek_bind ?_ (fun _ => ?_)
    · exact readV_keeps
    · exact h3 _

theorem paramRow_keeps {s0 : State} {c : Cmd} {r : FbRow} {rm : RM} {m : Nat} {dy : List Nat} {xh : List Nat} : EK s0 (paramRow c
    r rm m dy xh : EngM Unit) := by
  unfold paramRow
  extract_lets -merge -underBinder +onlyGivenNames x0
  clear_value x0
  refine ek_getS (fun _ h1 => ?_)
  extract_lets -merge -underBinder +onlyGivenNames x2
  clear_value x2
  refine ek_bind ?_ (fun _ => ?_)
  · exact codesOf_keeps
  · extract_lets -merge -underBinder +onlyGivenNames x3
    have h4 : ∀ y0, EK s0 (x3 y0) := by
      unfold x3
      refine fun _ => ?_
      extract_lets -merge -underBinder +onlyGivenNames x5
      have h6 : ∀ y0, EK s0 (x5 y0) := by
        unfold x5
        refine fun _ => ?_
        extract_lets -merge -underBinder +onlyGivenNames x7
        have h8 : ∀ y0, EK s0 (x7 y0) := by
          unfold x7
          refine fun _ => ?_
          refine modS_keeps ?_
          exact fun _ h9 => modProg_keeps h9
        clear_value x7
        refine ite_of (P := EK s0) (fun _ => ?_) (fun _ => ?_)
        · refine ek_bind ?_ (fun _ => ?_)
          · exact flushBlock_keeps
          · refine ite_of (P := EK s0) (fun _ => ?_) (fun _ => ?_)
            · refine ek_bind ?_ (fun _ => ?_)
              · exact flushBlock_keeps
              · exact h8 _
            · exact h8 _
        · exact h8 _
      clear_value x5
      refine ite_of (P := EK s0) (fun _ => ?_) (fun _ => ?_)
      · refine ek_bind ?_ (fun _ => ?_)
        · exact ek_pure
        · exact h6 _
      · refine ite_of (P := EK s0) (fun _ => ?_) (fun _ => ?_)
        · refine ek_bind ?_ (fun _ => ?_)
          · exact ek_pure
          · exact h6 _
        · refine ek_bind ?_ (fun _ => ?_)
          · exact codesOf_keeps
          · exact h6 _
    clear_value x3
    refine ite_of (P := EK s0) (fun _ => ?_) (fun _ => ?_)
    · refine ek_bind ?_ (fun _ => ?_)
      · exact ek_pure
      · exact h4 _
    · refine ek_bind ?_ (fun _ => ?_)
      · exact codesOf_keeps
      · exact h4 _

theorem rowStats_keeps {s0 : State} {c : Cmd} {m : Nat} {sv : List Nat} {dy : List Nat} : EK s0 (rowStats c m sv dy : EngM (Nat ×
    Nat)) := by
  unfold rowStats
  extract_lets -merge -underBinder +onlyGivenNames x0
  refine ite_of (P := EK s0) (fun _ => ?_) (fun _ => ?_)
  · refine ek_bind ?_ (fun _ => ?_)
    · exact readV_keeps
    · exact ek_pure
  · exact ek_pure

theorem fbRowDx_keeps {s0 : State} {c : Cmd} {r : FbRow} {rm : RM} {m : Nat} {dy : List Nat} : EK s0 (fbRowDx c r rm m dy : EngM
    (List Nat)) := by
  unfold fbRowDx
  extract_lets -merge -underBinder +onlyGivenNames x0
  clear_value x0
  extract_lets -merge -underBinder +onlyGivenNames x1
  refine ek_bind ?_ (fun _ => ?_)
  · exact readV_keeps
  · refine ek_bind ?_ (fun _ => ?_)
    · exact codesOf_keeps
    · refine ite_of (P := EK s0) (fun _ => ?_) (fun _ => ?_)
      · refine ek_bind ?_ (fun _ => ?_)
        · exact codesOf_keeps
        · refine ek_bind ?_ (fun _ => ?_)
          · exact codeOf_keeps
          · refine ek_bind ?_ (fun _ => ?_)
            · exact codesOf_keeps
            · exact codesOf_keeps
      · refine ek_bind ?_ (fun _ => ?_)
        · exact rowStats_keeps
        · extract_lets -merge -underBinder +onlyGivenNames x2
          clear_value x2
          extract_lets -merge -underBinder +onlyGivenNames x3
          have h4 : ∀ y0, EK s0 (x3 y0) := by
            unfold x3
            refine fun _ => ?_
            extract_lets -merge -underBinder +onlyGivenNames x5
            have h6 : ∀ y0, EK s0 (x5 y0) := by
              unfold x5
              refine fun _ => ?_
              refine ek_bind ?_ (fun _ => ?_)
              · exact readV_keeps
              · extract_lets -merge -underBinder +onlyGivenNames x7
                clear_value x7
                refine ek_bind ?_ (fun _ => ?_)
                · exact codesOf_keeps
                · extract_lets -merge -underBinder +onlyGivenNames x8
                  have h9 : ∀ y0, EK s0 (x8 y0) := by
                    unfold x8
                    refine fun _ => ?_
                    extract_lets -merge -underBinder +onlyGivenNames x10
                    have h11 : ∀ y0, EK s0 (x10 y0) := by
                      unfold x10
                      refine fun _ => ?_
                      refine ek_bind ?_ (fun _ => ?_)
                      · exact codesOf_keeps
                      · refine ek_bind ?_ (fun _ => ?_)
                        · exact codeOf_keeps
                        · refine ek_bind ?_ (fun _ => ?_)
                          · exact codeOf_keeps
                          · refine ek_bind ?_ (fun _ => ?_)
                            · exact codesOf_keeps
                            · refine ek_bind ?_ (fun _ => ?_)
                              · exact codesOf_keeps
                              · refine ek_bind ?_ (fun _ => ?_)
                                · exact codesOf_keeps
                                · refine ek_bind ?_ (fun _ => ?_)
                                  · exact codesOf_keeps
                                  · refine ek_bind ?_ (fun _ => ?_)
                                    · exact unlessTrapped_keeps paramRow_keeps
                                    · exact ek_pure
                    clear_value x10
                    refine ite_of (P := EK s0) (fun _ => ?_) (fun _ => ?_)
                    · refine ek_bind ?_ (fun _ => ?_)
                      · exact codeOf_keeps
                      · exact h11 _
                    · refine ek_bind ?_ (fun _ => ?_)
                      · exact ek_pure
                      · exact h11 _
                  clear_value x8
                  refine ite_of (P := EK s0) (fun _ => ?_) (fun _ => ?_)
                  · refine ek_bind ?_ (fun _ => ?_)
                    · exact codeOf_keeps
                    · exact h9 _
                  · refine ek_bind ?_ (fun _ => ?_)
                    · exact ek_pure
                    · exact h9 _
            clear_value x5
            refine ite_of (P := EK s0) (fun _ => ?_) (fun _ => ?_)
            · refine ek_bind ?_ (fun _ => ?_)
              · exact codesOf_keeps
              · exact h6 _
            · refine ek_bind ?_ (fun _ => ?_)
              · exact ek_pure
              · exact h6 _
          clear_value x3
          refine ite_of (P := EK s0) (fun _ => ?_) (fun _ => ?_)
          · refine ek_bind ?_ (fun _ => ?_)
            · exact codesOf_keeps
            · exact h4 _
          · refine ek_bind ?_ (fun _ => ?_)
            · exact ek_pure
            · exact h4 _

theorem fbRow_keeps {s0 : State} {c : Cmd} {m : Nat} : EK s0 (fbRow c m : EngM Bool) := by
  unfold fbRow
  extract_lets -merge -underBinder +onlyGivenNames x0
  have h1 : ∀ y0, EK s0 (x0 y0) := by
    unfold x0
    refine fun _ => ?_
    refine ek_getS (fun _ h2 => ?_)
    extract_lets -merge -underBinder +onlyGivenNames x3
    clear_value x3
    refine ite_of (P := EK s0) (fun _ => ?_) (fun _ => ?_)
    · exact ek_pure
    · extract_lets -merge -underBinder +onlyGivenNames x4
      extract_lets -merge -underBinder +onlyGivenNames x5
      have h6 : ∀ y0, EK s0 (x5 y0) := by
        unfold x5
        refine fun _ => ?_
        split
        · exact ek_pure
        · refine ek_bind ?_ (fun _ => ?_)
          · exact getMode_keeps
          · extract_lets -merge -underBinder +onlyGivenNames x7
            clear_value x7
            extract_lets -merge -underBinder +onlyGivenNames x8
            clear_value x8
            refine ek_bind ?_ (fun _ => ?_)
            · exact freeBelow_keeps
            · extract_lets -merge -underBinder +onlyGivenNames x9
              clear_value x9
              refine ek_bind ?_ (fun _ => ?_)
              · exact codesOf_keeps
              · refine ek_bind ?_ (fun _ => ?_)
                · exact fbRowDx_keeps
                · extract_lets -merge -underBinder +onlyGivenNames x10
                  refine ek_bind ?_ (fun _ => ?_)
                  · exact codesOf_keeps
                  · extract_lets -merge -underBinder +onlyGivenNames x11
                    clear_value x11
                    refine ek_bind ?_ (fun _ => ?_)
                    · refine unlessTrapped_keeps ?_
                      refine ite_of (P := EK s0) (fun _ => ?_) (fun _ => ?_)
                      · refine ek_bind ?_ (fun _ => ?_)
                        · refine modS_keeps ?_
                          exact fun _ h12 => modProg_keeps h12
                        · refine ek_bind ?_ (fun _ => ?_)
                          · exact flushTo_keeps
                          · exact ek_pure
                      · exact writeV_keeps
                    · refine ek_bind ?_ (fun _ => ?_)
                      · refine modS_keeps ?_
                        exact fun _ h13 => modProg_keeps h13
                      · exact ek_pure
      clear_value x5
      refine ite_of (P := EK s0) (fun _ => ?_) (fun _ => ?_)
      · refine ek_bind ?_ (fun _ => ?_)
        · exact streamRow_keeps
        · exact h6 _
      · refine ek_bind ?_ (fun _ => ?_)
        · exact readV_keeps
        · refine ek_bind ?_ (fun _ => ?_)
          · exact ek_pure
          · exact h6 _
  clear_value x0
  refine ite_of (P := EK s0) (fun _ => ?_) (fun _ => ?_)
  · refine ek_bind ?_ (fun _ => ?_)
    · exact flushTo_keeps
    · exact h1 _
  · refine ek_bind ?_ (fun _ => ?_)
    · exact ek_pure
    · exact h1 _

theorem fbRows'_keeps {s0 : State} : ∀ (c : Cmd) (z1 : Nat) (z2 : Nat), EK s0 (fbRows' c z1 z2)
  | p0, p1, 0 => by
    rw [fbRows'.eq_1]
    exact ek_pure
  | p0, p1, p2 + 1 => by
    rw [fbRows'.eq_2]
    refine ek_get (fun _ h0 => ?_)
    split
    · exact ek_pure
    · refine ek_bind ?_ (fun _ => ?_)
      · exact fbRow_keeps
      · refine ite_of (P := EK s0) (fun _ => ?_) (fun _ => ?_)
        · exact fbRows'_keeps _ _ _
        · exact ek_pure

theorem fbWork_keeps {s0 : State} {c : Cmd} {n : Nat} : EK s0 (fbWork c n : EngM (Option (Option W64 × Option Nat))) := by
  unfold fbWork
  refine ek_bind ?_ (fun _ => ?_)
  · exact fbRows'_keeps _ _ _
  · extract_lets -merge -underBinder +onlyGivenNames x0
    have h1 : ∀ y0, EK s0 (x0 y0) := by
      unfold x0
      refine fun _ => ?_
      refine ek_getS (fun _ h2 => ?_)
      extract_lets -merge -underBinder +onlyGivenNames x3
      exact ek_pure
    clear_value x0
    refine ite_of (P := EK s0) (fun _ => ?_) (fun _ => ?_)
    · refine ek_bind ?_ (fun _ => ?_)
      · exact flushTo_keeps
      · exact h1 _
    · refine ek_bind ?_ (fun _ => ?_)
      · exact ek_pure
      · exact h1 _

theorem execVxFusedBwd_keeps {s0 : State} {k : Nat} {s : State} (h0 : Keeps s0 s) : KO s0 (execVxFusedBwd k s) := by
  unfold execVxFusedBwd
  refine ko_next ?_
  refine runOp_keeps ?_ ?_
  · refine fun _ _ h1 => ?_
    refine ite_of (P := Keeps s0) (fun _ => ?_) (fun _ => ?_)
    · exact faultCmd_keeps h1
    · refine ite_of (P := Keeps s0) (fun _ => ?_) (fun _ => ?_)
      · exact faultCmd_keeps h1
      · extract_lets -merge -underBinder +onlyGivenNames x2
        have h3 : Keeps s0 x2 := by
          unfold x2
          refine runPart_keeps ?_ ?_
          · exact fbWork_keeps
          · refine keeps_mk ?_ (Nat.le_succ _) rfl (fun h => h) (fun h => h)
            exact h1
        clear_value x2
        refine ite_of (P := Keeps s0) (fun _ => ?_) (fun _ => ?_)
        · exact h3
        · exact progress_keeps h3
  · exact h0

end Sys2Proof.Machine
end

