-- ==== Sys2Proof/Laws/KeepsUpdate.lean ====
section
/-!
SUPPORT. What no command does (see Laws/Keeps.lean): the update engine.
-/
namespace Sys2Proof.Machine

/-! ### Update -/

theorem uOp_keeps {s0 : State} {el : Nat} {r : Nat × Ev} : EK s0 (uOp el r : EngM Nat) := by
  unfold uOp
  refine ek_bind ?_ (fun _ => ?_)
  · exact noteEv_keeps
  · exact ek_pure

theorem uRm_keeps {s0 : State} : EK s0 (uRm : EngM RM) := by
  unfold uRm
  refine ek_bind ?_ (fun _ => ?_)
  · exact getMode_keeps
  · exact ek_pure

theorem uAdd_keeps {s0 : State} {el : Nat} {z1 : Nat} {b : Nat} : EK s0 (uAdd el z1 b : EngM Nat) := by
  unfold uAdd
  refine ek_bind ?_ (fun _ => ?_)
  · exact uRm_keeps
  · exact uOp_keeps

theorem uSub_keeps {s0 : State} {el : Nat} {z1 : Nat} {b : Nat} : EK s0 (uSub el z1 b : EngM Nat) := by
  unfold uSub
  refine ek_bind ?_ (fun _ => ?_)
  · exact uRm_keeps
  · exact uOp_keeps

theorem uMul_keeps {s0 : State} {el : Nat} {z1 : Nat} {b : Nat} : EK s0 (uMul el z1 b : EngM Nat) := by
  unfold uMul
  refine ek_bind ?_ (fun _ => ?_)
  · exact uRm_keeps
  · exact uOp_keeps

theorem uDiv_keeps {s0 : State} {el : Nat} {z1 : Nat} {b : Nat} : EK s0 (uDiv el z1 b : EngM Nat) := by
  unfold uDiv
  refine ek_bind ?_ (fun _ => ?_)
  · exact uRm_keeps
  · exact uOp_keeps

theorem uSqrt_keeps {s0 : State} {el : Nat} {z1 : Nat} : EK s0 (uSqrt el z1 : EngM Nat) := by
  unfold uSqrt
  refine ek_bind ?_ (fun _ => ?_)
  · exact uRm_keeps
  · exact uOp_keeps

theorem nAdd_keeps {s0 : State} {el : Nat} {z1 : Nat} {b : Nat} : EK s0 (nAdd el z1 b : EngM Nat) := by
  unfold nAdd
  exact uOp_keeps

theorem nSub_keeps {s0 : State} {el : Nat} {z1 : Nat} {b : Nat} : EK s0 (nSub el z1 b : EngM Nat) := by
  unfold nSub
  exact uOp_keeps

theorem nMul_keeps {s0 : State} {el : Nat} {z1 : Nat} {b : Nat} : EK s0 (nMul el z1 b : EngM Nat) := by
  unfold nMul
  exact uOp_keeps

theorem nDiv_keeps {s0 : State} {el : Nat} {z1 : Nat} {b : Nat} : EK s0 (nDiv el z1 b : EngM Nat) := by
  unfold nDiv
  exact uOp_keeps

theorem uMin_keeps {s0 : State} {el : Nat} {z1 : Nat} {b : Nat} : EK s0 (uMin el z1 b : EngM Nat) := by
  unfold uMin
  exact uOp_keeps

theorem uMax_keeps {s0 : State} {el : Nat} {z1 : Nat} {b : Nat} : EK s0 (uMax el z1 b : EngM Nat) := by
  unfold uMax
  exact uOp_keeps

theorem powBits_keeps {s0 : State} : ∀ (el : Nat) (z1 : List Bool) (z2 : Nat) (z3 : Nat), EK s0 (powBits el z1 z2 z3)
  | p0, [], p1, p2 => by
    rw [powBits.eq_1]
    exact ek_pure
  | p0, p3 :: p4, p1, p2 => by
    rw [powBits.eq_2]
    refine ite_of (P := EK s0) (fun _ => ?_) (fun _ => ?_)
    · refine ek_bind ?_ (fun _ => ?_)
      · exact nMul_keeps
      · refine ek_bind ?_ (fun _ => ?_)
        · exact nMul_keeps
        · exact powBits_keeps _ _ _ _
    · refine ek_bind ?_ (fun _ => ?_)
      · exact ek_pure
      · refine ek_bind ?_ (fun _ => ?_)
        · exact nMul_keeps
        · exact powBits_keeps _ _ _ _

theorem powu_keeps {s0 : State} {el : Nat} {b : Nat} {n : Nat} : EK s0 (powu el b n : EngM Nat) := by
  unfold powu
  exact powBits_keeps _ _ _ _

theorem biasCorr_keeps {s0 : State} {on : Bool} {b : Nat} {t : Nat} : EK s0 (biasCorr on b t : EngM Nat) := by
  unfold biasCorr
  refine ite_of (P := EK s0) (fun _ => ?_) (fun _ => ?_)
  · refine ek_bind ?_ (fun _ => ?_)
    · exact powu_keeps
    · refine ek_bind ?_ (fun _ => ?_)
      · exact nSub_keeps
      · exact nDiv_keeps
  · exact ek_pure

theorem uLoad_keeps {s0 : State} {el : Nat} {fmt : Nat} {raw : Nat} : EK s0 (uLoad el fmt raw : EngM Nat) := by
  unfold uLoad
  extract_lets -merge -underBinder +onlyGivenNames x0
  clear_value x0
  extract_lets -merge -underBinder +onlyGivenNames x1
  clear_value x1
  refine ek_bind ?_ (fun _ => ?_)
  · exact noteEv_keeps
  · exact ek_pure

theorem uStore_keeps {s0 : State} {el : Nat} {fmt : Nat} {x : Nat} : EK s0 (uStore el fmt x : EngM Nat) := by
  unfold uStore
  extract_lets -merge -underBinder +onlyGivenNames x0
  clear_value x0
  refine ek_bind ?_ (fun _ => ?_)
  · exact noteEv_keeps
  · exact ek_pure

theorem scaled_keeps {s0 : State} {slot : Bytes} {el : Nat} {g : Nat} : EK s0 (scaled slot el g : EngM Nat) := by
  unfold scaled
  exact uMul_keeps

theorem clipped_keeps {s0 : State} {slot : Bytes} {el : Nat} {x : Nat} {p : Nat} : EK s0 (clipped slot el x p : EngM Nat) := by
  unfold clipped
  extract_lets -merge -underBinder +onlyGivenNames x0
  extract_lets -merge -underBinder +onlyGivenNames x1
  extract_lets -merge -underBinder +onlyGivenNames x2
  have h3 : ∀ y0, EK s0 (x2 y0) := by
    unfold x2
    refine fun _ => ?_
    refine ite_of (P := EK s0) (fun _ => ?_) (fun _ => ?_)
    · exact ek_pure
    · refine ek_bind ?_ (fun _ => ?_)
      · exact uMul_keeps
      · exact uAdd_keeps
  clear_value x2
  refine ite_of (P := EK s0) (fun _ => ?_) (fun _ => ?_)
  · refine ek_bind ?_ (fun _ => ?_)
    · exact ek_pure
    · exact h3 _
  · refine ek_bind ?_ (fun _ => ?_)
    · exact uMax_keeps
    · refine ek_bind ?_ (fun _ => ?_)
      · exact uMin_keeps
      · exact h3 _

theorem secondPart_rootPart_keeps {s0 : State} {slot : Bytes} {el : Nat} {c2 : Nat} {vh : Nat} : EK s0 (secondPart.rootPart slot
    el c2 vh : EngM Nat) := by
  unfold secondPart.rootPart
  extract_lets -merge -underBinder +onlyGivenNames x0
  have h1 : ∀ y0, EK s0 (x0 y0) := by
    unfold x0
    refine fun _ => ?_
    refine ek_bind ?_ (fun _ => ?_)
    · exact uSqrt_keeps
    · exact uAdd_keeps
  clear_value x0
  refine ite_of (P := EK s0) (fun _ => ?_) (fun _ => ?_)
  · refine ek_bind ?_ (fun _ => ?_)
    · exact uMul_keeps
    · exact h1 _
  · refine ek_bind ?_ (fun _ => ?_)
    · exact ek_pure
    · exact h1 _

theorem secondPart_keeps {s0 : State} {slot : Bytes} {el : Nat} {x : Nat} {c2 : Nat} {sec : Second} : EK s0 (secondPart slot el x
    c2 sec : EngM (Nat × Nat)) := by
  unfold secondPart
  split
  · exact ek_pure
  · refine ek_bind ?_ (fun _ => ?_)
    · exact uMul_keeps
    · refine ek_bind ?_ (fun _ => ?_)
      · exact uMul_keeps
      · refine ek_bind ?_ (fun _ => ?_)
        · exact uMul_keeps
        · refine ek_bind ?_ (fun _ => ?_)
          · exact uAdd_keeps
          · refine ek_bind ?_ (fun _ => ?_)
            · exact secondPart_rootPart_keeps
            · exact ek_pure
  · extract_lets -merge -underBinder +onlyGivenNames x0
    have h1 : ∀ y0, EK s0 (x0 y0) := by
      unfold x0
      refine fun _ => ?_
      refine ek_bind ?_ (fun _ => ?_)
      · exact secondPart_rootPart_keeps
      · exact ek_pure
    clear_value x0
    refine ite_of (P := EK s0) (fun _ => ?_) (fun _ => ?_)
    · refine ek_bind ?_ (fun _ => ?_)
      · exact ek_pure
      · exact h1 _
    · refine ek_bind ?_ (fun _ => ?_)
      · exact uMul_keeps
      · refine ek_bind ?_ (fun _ => ?_)
        · exact uDiv_keeps
        · exact h1 _

theorem recurrence_keeps {s0 : State} {slot : Bytes} {el : Nat} {xs : Nat} {p : Nat} {m : Nat} {c1 : Nat} {c2 : Nat} {sec :
    Second} : EK s0 (recurrence slot el xs p m c1 c2 sec : EngM UpOut) := by
  unfold recurrence
  refine ek_bind ?_ (fun _ => ?_)
  · exact clipped_keeps
  · extract_lets -merge -underBinder +onlyGivenNames x0
    have h1 : ∀ y0, EK s0 (x0 y0) := by
      unfold x0
      refine fun _ => ?_
      extract_lets -merge -underBinder +onlyGivenNames x2
      have h3 : ∀ y0, EK s0 (x2 y0) := by
        unfold x2
        refine fun _ => ?_
        refine ek_bind ?_ (fun _ => ?_)
        · exact secondPart_keeps
        · extract_lets -merge -underBinder +onlyGivenNames x4
          have h5 : ∀ y0, EK s0 (x4 y0) := by
            unfold x4
            refine fun _ => ?_
            refine ek_bind ?_ (fun _ => ?_)
            · exact uMul_keeps
            · refine ek_bind ?_ (fun _ => ?_)
              · exact uAdd_keeps
              · refine ek_bind ?_ (fun _ => ?_)
                · exact uMul_keeps
                · refine ek_bind ?_ (fun _ => ?_)
                  · exact uSub_keeps
                  · exact ek_pure
          clear_value x4
          refine ite_of (P := EK s0) (fun _ => ?_) (fun _ => ?_)
          · refine ek_bind ?_ (fun _ => ?_)
            · exact ek_pure
            · exact h5 _
          · refine ek_bind ?_ (fun _ => ?_)
            · exact uMul_keeps
            · refine ek_bind ?_ (fun _ => ?_)
              · exact uMul_keeps
              · refine ek_bind ?_ (fun _ => ?_)
                · exact uAdd_keeps
                · refine ek_bind ?_ (fun _ => ?_)
                  · exact uDiv_keeps
                  · exact h5 _
      clear_value x2
      refine ite_of (P := EK s0) (fun _ => ?_) (fun _ => ?_)
      · refine ek_bind ?_ (fun _ => ?_)
        · refine ite_of (P := EK s0) (fun _ => ?_) (fun _ => ?_)
          · exact uMul_keeps
          · exact ek_pure
        · exact h3 _
      · refine ek_bind ?_ (fun _ => ?_)
        · exact ek_pure
        · exact h3 _
    clear_value x0
    refine ite_of (P := EK s0) (fun _ => ?_) (fun _ => ?_)
    · refine ek_bind ?_ (fun _ => ?_)
      · exact uMul_keeps
      · refine ek_bind ?_ (fun _ => ?_)
        · exact uMul_keeps
        · refine ek_bind ?_ (fun _ => ?_)
          · exact uAdd_keeps
          · exact h1 _
    · refine ek_bind ?_ (fun _ => ?_)
      · exact ek_pure
      · exact h1 _

theorem readElems_keeps {s0 : State} {fmt : Nat} {va : Nat} {i : Nat} {n : Nat} : EK s0 (readElems fmt va i n : EngM (List Nat))
    := by
  unfold readElems
  extract_lets -merge -underBinder +onlyGivenNames x0
  refine ek_bind ?_ (fun _ => ?_)
  · exact readV_keeps
  · exact ek_pure

theorem writeRun_keeps {s0 : State} {fmt : Nat} {va : Nat} {i : Nat} {codes : List Nat} : EK s0 (writeRun fmt va i codes : EngM
    Unit) := by
  unfold writeRun
  refine ite_of (P := EK s0) (fun _ => ?_) (fun _ => ?_)
  · exact ek_pure
  · refine ite_of (P := EK s0) (fun _ => ?_) (fun _ => ?_)
    · extract_lets -merge -underBinder +onlyGivenNames x0
      have h1 : ∀ y0, EK s0 (x0 y0) := by
        unfold x0
        refine fun _ => ?_
        extract_lets -merge -underBinder +onlyGivenNames x2
        extract_lets -merge -underBinder +onlyGivenNames x3
        have h4 : ∀ y0, EK s0 (x3 y0) := by
          unfold x3
          exact fun _ => writeV_keeps
        clear_value x3
        refine ite_of (P := EK s0) (fun _ => ?_) (fun _ => ?_)
        · refine ek_bind ?_ (fun _ => ?_)
          · exact readElems_keeps
          · exact h4 _
        · refine ek_bind ?_ (fun _ => ?_)
          · exact ek_pure
          · exact h4 _
      clear_value x0
      refine ite_of (P := EK s0) (fun _ => ?_) (fun _ => ?_)
      · refine ek_bind ?_ (fun _ => ?_)
        · exact readElems_keeps
        · exact h1 _
      · refine ek_bind ?_ (fun _ => ?_)
        · exact ek_pure
        · exact h1 _
    · exact writeV_keeps

theorem writeSome_keeps {s0 : State} : ∀ (fmt : Nat) (va : Nat) (z2 : Nat) (z3 : List (Option Nat)) (z4 : List Nat), EK s0
    (writeSome fmt va z2 z3 z4)
  | p0, p1, p2, [], p3 => by
    rw [writeSome.eq_1]
    exact writeRun_keeps
  | p0, p1, p2, some p4 :: p5, p3 => by
    rw [writeSome.eq_2]
    exact writeSome_keeps _ _ _ _ _
  | p0, p1, p2, none :: p4, p3 => by
    rw [writeSome.eq_3]
    refine ek_bind ?_ (fun _ => ?_)
    · exact writeRun_keeps
    · exact writeSome_keeps _ _ _ _ _

theorem writeBlock_keeps {s0 : State} {c : Cmd} {el : Nat} {va : Nat} {sva : Nat} {codes : List Nat} : EK s0 (writeBlock c el va
    sva codes : EngM Unit) := by
  unfold writeBlock
  extract_lets -merge -underBinder +onlyGivenNames x0
  clear_value x0
  refine ek_bind ?_ (fun _ => ?_)
  · exact noteEvs_keeps
  · refine ek_bind ?_ (fun _ => ?_)
    · exact writeV_keeps
    · exact writeV_keeps

theorem upStart_keeps {s0 : State} {c : Cmd} : EK s0 (upStart c : EngM (Option (Option W64 × Option Nat))) := by
  unfold upStart
  refine ek_bind ?_ (fun _ => ?_)
  · exact readV_keeps
  · extract_lets -merge -underBinder +onlyGivenNames x0
    have h1 : ∀ y0, EK s0 (x0 y0) := by
      unfold x0
      refine fun _ => ?_
      extract_lets -merge -underBinder +onlyGivenNames x2
      clear_value x2
      refine ek_get (fun _ h3 => ?_)
      extract_lets -merge -underBinder +onlyGivenNames x4
      clear_value x4
      extract_lets -merge -underBinder +onlyGivenNames x5
      have h6 : ∀ y0, EK s0 (x5 y0) := by
        unfold x5
        refine fun _ => ?_
        extract_lets -merge -underBinder +onlyGivenNames x7
        clear_value x7
        extract_lets -merge -underBinder +onlyGivenNames x8
        have h9 : ∀ y0, EK s0 (x8 y0) := by
          unfold x8
          refine fun _ => ?_
          extract_lets -merge -underBinder +onlyGivenNames x10
          clear_value x10
          extract_lets -merge -underBinder +onlyGivenNames x11
          refine ek_bind ?_ (fun _ => ?_)
          · refine modS_keeps ?_
            exact fun _ h12 => modProg_keeps h12
          · exact ek_pure
        clear_value x8
        refine ite_of (P := EK s0) (fun _ => ?_) (fun _ => ?_)
        · refine ek_bind ?_ (fun _ => ?_)
          · exact readNat_keeps
          · exact h9 _
        · refine ek_bind ?_ (fun _ => ?_)
          · exact ek_pure
          · exact h9 _
      clear_value x5
      refine ite_of (P := EK s0) (fun _ => ?_) (fun _ => ?_)
      · refine ek_bind ?_ (fun _ => ?_)
        · exact ek_throw
        · exact h6 _
      · exact h6 _
    clear_value x0
    refine ite_of (P := EK s0) (fun _ => ?_) (fun _ => ?_)
    · refine ek_bind ?_ (fun _ => ?_)
      · exact ek_pure
      · exact h1 _
    · refine ek_bind ?_ (fun _ => ?_)
      · exact readNat_keeps
      · refine ek_bind ?_ (fun _ => ?_)
        · exact nMul_keeps
        · exact h1 _

theorem writeProgress_keeps {s0 : State} {c : Cmd} {sweep2 : Bool} {segment : Nat} {next : Nat} : EK s0 (writeProgress c sweep2
    segment next : EngM Unit) := by
  unfold writeProgress
  refine ite_of (P := EK s0) (fun _ => ?_) (fun _ => ?_)
  · exact ek_pure
  · exact writeNat_keeps

theorem upElem_keeps {s0 : State} {c : Cmd} {slot : Bytes} {el : Nat} {p : Nat} {g : Nat} {m : Nat} {v : Nat} {c1 : Nat} {c2 :
    Nat} {fac : Option (Nat × Nat × Nat)} {catch' : UpOut → EngM UpOut} (h0 : ∀ y0, EK s0 (catch' y0)) : EK s0 (upElem c slot el p g m
    v c1 c2 fac catch' : EngM (Option UpOut)) := by
  unfold upElem
  extract_lets -merge -underBinder +onlyGivenNames x1
  clear_value x1
  extract_lets -merge -underBinder +onlyGivenNames x2
  clear_value x2
  refine ek_bind ?_ (fun _ => ?_)
  · exact uLoad_keeps
  · refine ek_bind ?_ (fun _ => ?_)
    · exact uLoad_keeps
    · extract_lets -merge -underBinder +onlyGivenNames x3
      have h4 : ∀ y0, EK s0 (x3 y0) := by
        unfold x3
        refine fun _ => ?_
        extract_lets -merge -underBinder +onlyGivenNames x5
        have h6 : ∀ y0, EK s0 (x5 y0) := by
          unfold x5
          refine fun _ => ?_
          refine ek_bind ?_ (fun _ => ?_)
          · exact h0 _
          · refine ek_bind ?_ (fun _ => ?_)
            · exact scaled_keeps
            · refine ite_of (P := EK s0) (fun _ => ?_) (fun _ => ?_)
              · exact ek_pure
              · extract_lets -merge -underBinder +onlyGivenNames x7
                clear_value x7
                refine ek_bind ?_ (fun _ => ?_)
                · exact recurrence_keeps
                · refine ek_bind ?_ (fun _ => ?_)
                  · exact uStore_keeps
                  · extract_lets -merge -underBinder +onlyGivenNames x8
                    have h9 : ∀ y0, EK s0 (x8 y0) := by
                      unfold x8
                      refine fun _ => ?_
                      extract_lets -merge -underBinder +onlyGivenNames x10
                      have h11 : ∀ y0, EK s0 (x10 y0) := by
                        unfold x10
                        exact fun _ => ek_pure
                      clear_value x10
                      refine ite_of (P := EK s0) (fun _ => ?_) (fun _ => ?_)
                      · refine ek_bind ?_ (fun _ => ?_)
                        · exact uStore_keeps
                        · exact h11 _
                      · refine ek_bind ?_ (fun _ => ?_)
                        · exact ek_pure
                        · exact h11 _
                    clear_value x8
                    refine ite_of (P := EK s0) (fun _ => ?_) (fun _ => ?_)
                    · refine ek_bind ?_ (fun _ => ?_)
                      · exact uStore_keeps
                      · exact h9 _
                    · refine ek_bind ?_ (fun _ => ?_)
                      · exact ek_pure
                      · exact h9 _
        clear_value x5
        refine ite_of (P := EK s0) (fun _ => ?_) (fun _ => ?_)
        · refine ek_bind ?_ (fun _ => ?_)
          · exact uLoad_keeps
          · exact h6 _
        · refine ek_bind ?_ (fun _ => ?_)
          · exact ek_pure
          · exact h6 _
      clear_value x3
      refine ite_of (P := EK s0) (fun _ => ?_) (fun _ => ?_)
      · refine ek_bind ?_ (fun _ => ?_)
        · exact uLoad_keeps
        · exact h4 _
      · refine ek_bind ?_ (fun _ => ?_)
        · exact ek_pure
        · exact h4 _

theorem upRead_keeps {s0 : State} {c : Cmd} {slot : Bytes} {i : Nat} {j : Nat} {n : Nat} : EK s0 (upRead c slot i j n : EngM (List
    UpRow)) := by
  unfold upRead
  refine ek_bind ?_ (fun _ => ?_)
  · exact readElems_keeps
  · refine ek_bind ?_ (fun _ => ?_)
    · exact readElems_keeps
    · extract_lets -merge -underBinder +onlyGivenNames x0
      have h1 : ∀ y0, EK s0 (x0 y0) := by
        unfold x0
        refine fun _ => ?_
        extract_lets -merge -underBinder +onlyGivenNames x2
        have h3 : ∀ y0, EK s0 (x2 y0) := by
          unfold x2
          exact fun _ => ek_pure
        clear_value x2
        refine ite_of (P := EK s0) (fun _ => ?_) (fun _ => ?_)
        · refine ek_bind ?_ (fun _ => ?_)
          · exact readElems_keeps
          · exact h3 _
        · refine ek_bind ?_ (fun _ => ?_)
          · exact ek_pure
          · exact h3 _
      clear_value x0
      refine ite_of (P := EK s0) (fun _ => ?_) (fun _ => ?_)
      · refine ek_bind ?_ (fun _ => ?_)
        · exact readElems_keeps
        · exact h1 _
      · refine ek_bind ?_ (fun _ => ?_)
        · exact ek_pure
        · exact h1 _

theorem upElems_keeps {s0 : State} : ∀ (c : Cmd) (slot : Bytes) (c1 : Nat) (c2 : Nat) (fac : Nat → Option (Nat × Nat × Nat))
    (catch' : Nat → UpOut → EngM UpOut) (z6 : Nat) (z7 : List UpRow) (_ : ∀ y0, ∀ y1, EK s0 (catch' y0 y1)), EK s0 (upElems c slot c1
    c2 fac catch' z6 z7)
  | p0, p1, p2, p3, p4, p5, p6, [], h1 => by
    rw [upElems.eq_1]
    exact ek_pure
  | p0, p1, p2, p3, p4, p5, p6, p7 :: p8, h2 => by
    rw [upElems.eq_2]
    refine ek_bind ?_ (fun _ => ?_)
    · refine upElem_keeps ?_
      exact fun _ => h2 _ _
    · refine ek_bind ?_ (fun _ => ?_)
      · refine upElems_keeps _ _ _ _ _ _ _ _ ?_
        exact fun _ _ => h2 _ _
      · exact ek_pure

theorem copyPlain_conv_keeps {s0 : State} : ∀ (c : Cmd) (z1 : Nat) (z2 : List (Option UpOut)), EK s0 (copyPlain.conv c z1 z2)
  | p0, p1, [] => by
    rw [copyPlain.conv.eq_1]
    exact ek_pure
  | p0, p1, none :: p2 => by
    rw [copyPlain.conv.eq_2]
    refine ek_bind ?_ (fun _ => ?_)
    · exact copyPlain_conv_keeps _ _ _
    · exact ek_pure
  | p0, p1, some p2 :: p3 => by
    rw [copyPlain.conv.eq_3]
    refine ek_bind ?_ (fun _ => ?_)
    · exact noteEv_keeps
    · refine ek_bind ?_ (fun _ => ?_)
      · exact copyPlain_conv_keeps _ _ _
      · exact ek_pure

theorem copyPlain_keeps {s0 : State} {c : Cmd} {va : Nat} {el : Nat} {i : Nat} {os : List (Option UpOut)} : EK s0 (copyPlain c va
    el i os : EngM Unit) := by
  unfold copyPlain
  refine ek_bind ?_ (fun _ => ?_)
  · exact copyPlain_conv_keeps _ _ _
  · exact writeSome_keeps _ _ _ _ _

theorem upWrite_keeps {s0 : State} {c : Cmd} {slot : Bytes} {i : Nat} {os : List (Option UpOut)} : EK s0 (upWrite c slot i os :
    EngM Unit) := by
  unfold upWrite
  refine ek_bind ?_ (fun _ => ?_)
  · exact writeSome_keeps _ _ _ _ _
  · extract_lets -merge -underBinder +onlyGivenNames x0
    have h1 : ∀ y0, EK s0 (x0 y0) := by
      unfold x0
      refine fun _ => ?_
      refine ite_of (P := EK s0) (fun _ => ?_) (fun _ => ?_)
      · exact writeSome_keeps _ _ _ _ _
      · exact ek_pure
    clear_value x0
    refine ite_of (P := EK s0) (fun _ => ?_) (fun _ => ?_)
    · refine ek_bind ?_ (fun _ => ?_)
      · exact writeSome_keeps _ _ _ _ _
      · exact h1 _
    · exact h1 _

theorem upCounted_keeps {s0 : State} {c : Cmd} {entries : Nat} {os : List (Option UpOut)} : EK s0 (upCounted c entries os : EngM
    Unit) := by
  unfold upCounted
  extract_lets -merge -underBinder +onlyGivenNames x0
  refine modS_keeps ?_
  exact fun _ h1 => modProg_keeps h1

theorem copyBlocks_keeps {s0 : State} : ∀ (c : Cmd) (z1 : Nat) (ps : List Nat) (z3 : List Nat), EK s0 (copyBlocks c z1 ps z3)
  | p0, p1, p2, [] => by
    rw [copyBlocks.eq_1]
    exact ek_pure
  | p0, p1, p2, p3 :: p4 => by
    rw [copyBlocks.eq_2]
    refine ite_of (P := EK s0) (fun _ => ?_) (fun _ => ?_)
    · extract_lets -merge -underBinder +onlyGivenNames x0
      extract_lets -merge -underBinder +onlyGivenNames x1
      have h2 : ∀ y0, EK s0 (x1 y0) := by
        unfold x1
        refine fun _ => ?_
        extract_lets -merge -underBinder +onlyGivenNames x3
        clear_value x3
        extract_lets -merge -underBinder +onlyGivenNames x4
        extract_lets -merge -underBinder +onlyGivenNames x5
        refine ek_bind ?_ (fun _ => ?_)
        · exact writeBlock_keeps
        · exact copyBlocks_keeps _ _ _ _
      clear_value x1
      refine ite_of (P := EK s0) (fun _ => ?_) (fun _ => ?_)
      · refine ek_bind ?_ (fun _ => ?_)
        · exact readElems_keeps
        · exact h2 _
      · refine ek_bind ?_ (fun _ => ?_)
        · exact ek_pure
        · exact h2 _
    · exact copyBlocks_keeps _ _ _ _

theorem sweepSums_keeps {s0 : State} : ∀ (c : Cmd) (slot : Bytes) (z2 : Nat) (z3 : List UpRow) (z4 : List Nat) (z5 : List Nat), EK
    s0 (sweepSums c slot z2 z3 z4 z5)
  | p0, p1, p2, [], p3, p4 => by
    rw [sweepSums.eq_1]
    exact ek_pure
  | p0, p1, p2, p5 :: p6, p3, p4 => by
    rw [sweepSums.eq_2]
    refine ek_bind ?_ (fun _ => ?_)
    · exact uLoad_keeps
    · extract_lets -merge -underBinder +onlyGivenNames x0
      have h1 : ∀ y0, EK s0 (x0 y0) := by
        unfold x0
        refine fun _ => ?_
        refine ek_bind ?_ (fun _ => ?_)
        · exact scaled_keeps
        · refine ite_of (P := EK s0) (fun _ => ?_) (fun _ => ?_)
          · exact sweepSums_keeps _ _ _ _ _ _
          · refine ek_bind ?_ (fun _ => ?_)
            · exact clipped_keeps
            · refine ek_bind ?_ (fun _ => ?_)
              · exact nMul_keeps
              · refine ek_bind ?_ (fun _ => ?_)
                · exact nAdd_keeps
                · extract_lets -merge -underBinder +onlyGivenNames x2
                  extract_lets -merge -underBinder +onlyGivenNames x3
                  refine ek_bind ?_ (fun _ => ?_)
                  · exact nAdd_keeps
                  · refine ek_bind ?_ (fun _ => ?_)
                    · exact nAdd_keeps
                    · exact sweepSums_keeps _ _ _ _ _ _
      clear_value x0
      refine ite_of (P := EK s0) (fun _ => ?_) (fun _ => ?_)
      · refine ek_bind ?_ (fun _ => ?_)
        · exact ek_pure
        · exact h1 _
      · refine ek_bind ?_ (fun _ => ?_)
        · exact uLoad_keeps
        · exact h1 _

theorem newStat_keeps {s0 : State} {c : Cmd} {slot : Bytes} {el : Nat} {old : Nat} {sum : Nat} {n : Nat} : EK s0 (newStat c slot
    el old sum n : EngM Nat) := by
  unfold newStat
  refine ek_bind ?_ (fun _ => ?_)
  · exact uLoad_keeps
  · refine ek_bind ?_ (fun _ => ?_)
    · exact nMul_keeps
    · refine ek_bind ?_ (fun _ => ?_)
      · exact nDiv_keeps
      · refine ek_bind ?_ (fun _ => ?_)
        · exact nMul_keeps
        · refine ek_bind ?_ (fun _ => ?_)
          · exact nAdd_keeps
          · exact uStore_keeps

theorem newStats_keeps {s0 : State} : ∀ (c : Cmd) (slot : Bytes) (n : Nat) (z3 : List (Nat × Nat × Nat)), EK s0 (newStats c slot n
    z3)
  | p0, p1, p2, [] => by
    rw [newStats.eq_1]
    exact ek_pure
  | p0, p1, p2, p3 :: p4 => by
    rw [newStats.eq_2]
    refine ek_bind ?_ (fun _ => ?_)
    · exact newStat_keeps
    · refine ek_bind ?_ (fun _ => ?_)
      · exact newStats_keeps _ _ _ _
      · exact ek_pure

theorem sweep1Work_keeps {s0 : State} {c : Cmd} {slot : Bytes} {p : Progress} : EK s0 (sweep1Work c slot p : EngM Unit) := by
  unfold sweep1Work
  extract_lets -merge -underBinder +onlyGivenNames x0
  refine ite_of (P := EK s0) (fun _ => ?_) (fun _ => ?_)
  · extract_lets -merge -underBinder +onlyGivenNames x1
    refine ek_bind ?_ (fun _ => ?_)
    · exact readElems_keeps
    · extract_lets -merge -underBinder +onlyGivenNames x2
      have h3 : ∀ y0, EK s0 (x2 y0) := by
        unfold x2
        refine fun _ => ?_
        extract_lets -merge -underBinder +onlyGivenNames x4
        clear_value x4
        extract_lets -merge -underBinder +onlyGivenNames x5
        clear_value x5
        extract_lets -merge -underBinder +onlyGivenNames x6
        clear_value x6
        refine ek_bind ?_ (fun _ => ?_)
        · exact sweepSums_keeps _ _ _ _ _ _
        · refine modS_keeps ?_
          exact fun _ h7 => modProg_keeps h7
      clear_value x2
      refine ite_of (P := EK s0) (fun _ => ?_) (fun _ => ?_)
      · refine ek_bind ?_ (fun _ => ?_)
        · exact ek_pure
        · exact h3 _
      · refine ek_bind ?_ (fun _ => ?_)
        · exact readElems_keeps
        · exact h3 _
  · refine ek_bind ?_ (fun _ => ?_)
    · exact setCommit_keeps
    · refine ek_bind ?_ (fun _ => ?_)
      · exact readElems_keeps
      · refine ek_bind ?_ (fun _ => ?_)
        · exact readElems_keeps
        · refine ek_bind ?_ (fun _ => ?_)
          · exact newStats_keeps _ _ _ _
          · refine ek_bind ?_ (fun _ => ?_)
            · exact newStats_keeps _ _ _ _
            · refine ek_bind ?_ (fun _ => ?_)
              · refine unlessTrapped_keeps ?_
                refine ek_bind ?_ (fun _ => ?_)
                · exact writeRun_keeps
                · refine ek_bind ?_ (fun _ => ?_)
                  · exact writeRun_keeps
                  · exact writeProgress_keeps
              · refine modS_keeps ?_
                exact fun _ h8 => modProg_keeps h8

theorem loadStats_keeps {s0 : State} : ∀ (c : Cmd) (els : List Nat) (raw : List Nat), EK s0 (loadStats c els raw)
  | p0, p1 :: p2, p3 :: p4 => by
    rw [loadStats.eq_1]
    exact ek_bind uLoad_keeps (fun _ => ek_bind (loadStats_keeps _ _ _) (fun _ => ek_pure))
  | _, [], _ => by
    rw [loadStats.eq_2 _ _ _ (by simp)]
    exact ek_pure
  | _, _ :: _, [] => by
    rw [loadStats.eq_2 _ _ _ (by simp)]
    exact ek_pure

theorem sumCodes_add_keeps {s0 : State} : ∀ (z0 : Nat) (z1 : List Nat), EK s0 (sumCodes.add z0 z1)
  | p0, [] => by
    rw [sumCodes.add.eq_1]
    exact ek_pure
  | p0, p1 :: p2 => by
    rw [sumCodes.add.eq_2]
    refine ek_bind ?_ (fun _ => ?_)
    · exact nAdd_keeps
    · exact sumCodes_add_keeps _ _

theorem sumCodes_keeps {s0 : State} {z0 : List Nat} : EK s0 (sumCodes z0 : EngM Nat) := by
  unfold sumCodes
  split
  · exact ek_pure
  · exact sumCodes_add_keeps _ _

theorem factors_keeps {s0 : State} {c : Cmd} : EK s0 (factors c : EngM (List Nat × List Nat × Nat)) := by
  unfold factors
  refine ek_bind ?_ (fun _ => ?_)
  · exact readElems_keeps
  · refine ek_bind ?_ (fun _ => ?_)
    · exact readElems_keeps
    · refine ek_bind ?_ (fun _ => ?_)
      · exact loadStats_keeps _ _ _
      · refine ek_bind ?_ (fun _ => ?_)
        · exact loadStats_keeps _ _ _
        · refine ek_bind ?_ (fun _ => ?_)
          · exact sumCodes_keeps
          · refine ek_bind ?_ (fun _ => ?_)
            · exact nDiv_keeps
            · exact ek_pure

theorem runGroup_keeps {s0 : State} {c : Cmd} {slot : Bytes} {p : Progress} : EK s0 (runGroup c slot p : EngM Unit) := by
  unfold runGroup
  extract_lets -merge -underBinder +onlyGivenNames x0
  extract_lets -merge -underBinder +onlyGivenNames x1
  refine ek_bind ?_ (fun _ => ?_)
  · exact setCommit_keeps
  · refine ek_bind ?_ (fun _ => ?_)
    · exact biasCorr_keeps
    · refine ek_bind ?_ (fun _ => ?_)
      · exact biasCorr_keeps
      · extract_lets -merge -underBinder +onlyGivenNames x2
        clear_value x2
        extract_lets -merge -underBinder +onlyGivenNames x3
        have h4 : ∀ y0, EK s0 (x3 y0) := by
          unfold x3
          refine fun _ => ?_
          refine ek_bind ?_ (fun _ => ?_)
          · exact upRead_keeps
          · refine ek_bind ?_ (fun _ => ?_)
            · refine upElems_keeps _ _ _ _ _ _ _ _ ?_
              exact fun _ _ => ek_pure
            · extract_lets -merge -underBinder +onlyGivenNames x5
              have h6 : ∀ y0, EK s0 (x5 y0) := by
                unfold x5
                refine fun _ => ?_
                refine unlessTrapped_keeps ?_
                refine ek_bind ?_ (fun _ => ?_)
                · exact upWrite_keeps
                · refine ek_bind ?_ (fun _ => ?_)
                  · exact writeProgress_keeps
                  · refine ek_bind ?_ (fun _ => ?_)
                    · exact upCounted_keeps
                    · refine modS_keeps ?_
                      exact fun _ h7 => modProg_keeps h7
              clear_value x5
              refine ite_of (P := EK s0) (fun _ => ?_) (fun _ => ?_)
              · refine ite_of (P := EK s0) (fun _ => ?_) (fun _ => ?_)
                · refine ek_bind ?_ (fun _ => ?_)
                  · exact copyBlocks_keeps _ _ _ _
                  · exact h6 _
                · refine ek_bind ?_ (fun _ => ?_)
                  · exact copyPlain_keeps
                  · exact h6 _
              · exact h6 _
        clear_value x3
        refine ite_of (P := EK s0) (fun _ => ?_) (fun _ => ?_)
        · refine ek_bind ?_ (fun _ => ?_)
          · exact factors_keeps
          · exact h4 _
        · refine ek_bind ?_ (fun _ => ?_)
          · exact ek_pure
          · exact h4 _

theorem runUnit_keeps {s0 : State} {c : Cmd} : EK s0 (runUnit c : EngM (Option (Option W64 × Option Nat))) := by
  unfold runUnit
  refine ek_getS (fun _ h0 => ?_)
  extract_lets -merge -underBinder +onlyGivenNames x1
  clear_value x1
  extract_lets -merge -underBinder +onlyGivenNames x2
  clear_value x2
  refine ite_of (P := EK s0) (fun _ => ?_) (fun _ => ?_)
  · exact upStart_keeps
  · refine ite_of (P := EK s0) (fun _ => ?_) (fun _ => ?_)
    · refine ek_bind ?_ (fun _ => ?_)
      · exact sweep1Work_keeps
      · exact ek_pure
    · extract_lets -merge -underBinder +onlyGivenNames x3
      have h4 : ∀ y0, EK s0 (x3 y0) := by
        unfold x3
        refine fun _ => ?_
        refine ek_getS (fun _ h5 => ?_)
        refine ite_of (P := EK s0) (fun _ => ?_) (fun _ => ?_)
        · exact ek_pure
        · exact ek_pure
      clear_value x3
      refine ite_of (P := EK s0) (fun _ => ?_) (fun _ => ?_)
      · refine ek_bind ?_ (fun _ => ?_)
        · exact runGroup_keeps
        · exact h4 _
      · exact h4 _

theorem catchUp_keeps {s0 : State} {slot : Bytes} {delta : Nat} {el : Nat} {o : UpOut} : EK s0 (catchUp slot delta el o : EngM
    UpOut) := by
  unfold catchUp
  extract_lets -merge -underBinder +onlyGivenNames x0
  have h1 : ∀ y0, EK s0 (x0 y0) := by
    unfold x0
    refine fun _ => ?_
    extract_lets -merge -underBinder +onlyGivenNames x2
    have h3 : ∀ y0, EK s0 (x2 y0) := by
      unfold x2
      refine fun _ => ?_
      extract_lets -merge -underBinder +onlyGivenNames x4
      have h5 : ∀ y0, EK s0 (x4 y0) := by
        unfold x4
        exact fun _ => ek_pure
      clear_value x4
      refine ite_of (P := EK s0) (fun _ => ?_) (fun _ => ?_)
      · refine ek_bind ?_ (fun _ => ?_)
        · exact nMul_keeps
        · refine ek_bind ?_ (fun _ => ?_)
          · exact nSub_keeps
          · refine ek_bind ?_ (fun _ => ?_)
            · exact powu_keeps
            · refine ek_bind ?_ (fun _ => ?_)
              · exact nMul_keeps
              · exact h5 _
      · refine ek_bind ?_ (fun _ => ?_)
        · exact ek_pure
        · exact h5 _
    clear_value x2
    refine ite_of (P := EK s0) (fun _ => ?_) (fun _ => ?_)
    · refine ek_bind ?_ (fun _ => ?_)
      · exact powu_keeps
      · refine ek_bind ?_ (fun _ => ?_)
        · exact nMul_keeps
        · exact h3 _
    · refine ek_bind ?_ (fun _ => ?_)
      · exact ek_pure
      · exact h3 _
  clear_value x0
  refine ite_of (P := EK s0) (fun _ => ?_) (fun _ => ?_)
  · refine ek_bind ?_ (fun _ => ?_)
    · exact powu_keeps
    · refine ek_bind ?_ (fun _ => ?_)
      · exact nMul_keeps
      · exact h1 _
  · refine ek_bind ?_ (fun _ => ?_)
    · exact ek_pure
    · exact h1 _

theorem rowCopy_keeps {s0 : State} {c : Cmd} {el : Nat} {j : Nat} {i : Nat} {rows : List UpRow} {os : List (Option UpOut)} : EK s0
    (rowCopy c el j i rows os : EngM Unit) := by
  unfold rowCopy
  refine ite_of (P := EK s0) (fun _ => ?_) (fun _ => ?_)
  · extract_lets -merge -underBinder +onlyGivenNames x0
    extract_lets -merge -underBinder +onlyGivenNames x1
    extract_lets -merge -underBinder +onlyGivenNames x2
    clear_value x2
    refine ek_forM (fun _ => ?_)
    extract_lets -merge -underBinder +onlyGivenNames x3
    exact writeBlock_keeps
  · exact copyPlain_keeps

theorem rowEntry_keeps {s0 : State} {c : Cmd} {p : Progress} : EK s0 (rowEntry c p : EngM (Nat × Nat)) := by
  unfold rowEntry
  split
  · exact ek_pure
  · refine ek_bind ?_ (fun _ => ?_)
    · exact readNat_keeps
    · extract_lets -merge -underBinder +onlyGivenNames x0
      have h1 : ∀ y0, EK s0 (x0 y0) := by
        unfold x0
        refine fun _ => ?_
        refine ek_bind ?_ (fun _ => ?_)
        · exact readNat_keeps
        · exact ek_pure
      clear_value x0
      refine ite_of (P := EK s0) (fun _ => ?_) (fun _ => ?_)
      · refine ek_bind ?_ (fun _ => ?_)
        · exact ek_throw
        · exact h1 _
      · exact h1 _

theorem rowsSegment_keeps {s0 : State} {c : Cmd} {slot : Bytes} {p : Progress} : EK s0 (rowsSegment c slot p : EngM Unit) := by
  unfold rowsSegment
  extract_lets -merge -underBinder +onlyGivenNames x0
  refine ek_bind ?_ (fun _ => ?_)
  · exact rowEntry_keeps
  · extract_lets -merge -underBinder +onlyGivenNames x1
    extract_lets -merge -underBinder +onlyGivenNames x2
    extract_lets -merge -underBinder +onlyGivenNames x3
    extract_lets -merge -underBinder +onlyGivenNames x4
    extract_lets -merge -underBinder +onlyGivenNames x5
    have h6 : ∀ y0, EK s0 (x5 y0) := by
      unfold x5
      refine fun _ => ?_
      extract_lets -merge -underBinder +onlyGivenNames x7
      extract_lets -merge -underBinder +onlyGivenNames x8
      refine ek_bind ?_ (fun _ => ?_)
      · exact biasCorr_keeps
      · refine ek_bind ?_ (fun _ => ?_)
        · exact biasCorr_keeps
        · extract_lets -merge -underBinder +onlyGivenNames x9
          extract_lets -merge -underBinder +onlyGivenNames x10
          extract_lets -merge -underBinder +onlyGivenNames x11
          extract_lets -merge -underBinder +onlyGivenNames x12
          refine ek_bind ?_ (fun _ => ?_)
          · exact setCommit_keeps
          · refine ek_bind ?_ (fun _ => ?_)
            · exact upRead_keeps
            · refine ek_bind ?_ (fun _ => ?_)
              · refine upElems_keeps _ _ _ _ _ _ _ _ ?_
                exact fun _ _ => catchUp_keeps
              · extract_lets -merge -underBinder +onlyGivenNames x13
                have h14 : ∀ y0, EK s0 (x13 y0) := by
                  unfold x13
                  refine fun _ => ?_
                  refine unlessTrapped_keeps ?_
                  refine ek_bind ?_ (fun _ => ?_)
                  · exact upWrite_keeps
                  · extract_lets -merge -underBinder +onlyGivenNames x15
                    have h16 : ∀ y0, EK s0 (x15 y0) := by
                      unfold x15
                      refine fun _ => ?_
                      refine ek_bind ?_ (fun _ => ?_)
                      · exact writeProgress_keeps
                      · refine ek_bind ?_ (fun _ => ?_)
                        · exact upCounted_keeps
                        · refine modS_keeps ?_
                          exact fun _ h17 => modProg_keeps h17
                    clear_value x15
                    refine ite_of (P := EK s0) (fun _ => ?_) (fun _ => ?_)
                    · refine ek_bind ?_ (fun _ => ?_)
                      · exact writeNat_keeps
                      · exact h16 _
                    · exact h16 _
                clear_value x13
                refine ite_of (P := EK s0) (fun _ => ?_) (fun _ => ?_)
                · refine ek_bind ?_ (fun _ => ?_)
                  · exact rowCopy_keeps
                  · exact h14 _
                · exact h14 _
    clear_value x5
    refine ite_of (P := EK s0) (fun _ => ?_) (fun _ => ?_)
    · refine ek_bind ?_ (fun _ => ?_)
      · exact ek_throw
      · exact h6 _
    · exact h6 _

theorem rowsUnit_keeps {s0 : State} {c : Cmd} : EK s0 (rowsUnit c : EngM (Option (Option W64 × Option Nat))) := by
  unfold rowsUnit
  refine ek_getS (fun _ h0 => ?_)
  extract_lets -merge -underBinder +onlyGivenNames x1
  clear_value x1
  refine ite_of (P := EK s0) (fun _ => ?_) (fun _ => ?_)
  · exact upStart_keeps
  · extract_lets -merge -underBinder +onlyGivenNames x2
    have h3 : ∀ y0, EK s0 (x2 y0) := by
      unfold x2
      refine fun _ => ?_
      refine ek_getS (fun _ h4 => ?_)
      refine ite_of (P := EK s0) (fun _ => ?_) (fun _ => ?_)
      · exact ek_pure
      · exact ek_pure
    clear_value x2
    refine ite_of (P := EK s0) (fun _ => ?_) (fun _ => ?_)
    · refine ek_bind ?_ (fun _ => ?_)
      · exact rowsSegment_keeps
      · exact h3 _
    · exact h3 _

theorem upUnit_keeps {s0 : State} {work : Cmd → EngM (Option (Option W64 × Option Nat))} {k : Nat} {s : State} (h0 : ∀ y0, EK s0
    (work y0)) (h1 : Keeps s0 s) : Keeps s0 (upUnit work k s) := by
  unfold upUnit
  split
  · exact h1
  · refine ite_of (P := Keeps s0) (fun _ => ?_) (fun _ => ?_)
    · exact h1
    · extract_lets -merge -underBinder +onlyGivenNames x2
      clear_value x2
      refine ite_of (P := Keeps s0) (fun _ => ?_) (fun _ => ?_)
      · refine foldl_of (P := Keeps s0) (fun _ _ h3 => ?_) ?_
        · exact unpredictable_keeps h3
        · exact h1
      · refine runWatched_keeps ?_ ?_
        · exact h0 _
        · exact h1

theorem upAll_keeps {s0 : State} {work : Cmd → EngM (Option (Option W64 × Option Nat))} {c : Cmd} {s : State} (h0 : ∀ y0, EK s0
    (work y0)) (h1 : Keeps s0 s) : Keeps s0 (upAll work c s) := by
  unfold upAll
  extract_lets -merge -underBinder +onlyGivenNames x2
  refine repeatWork_keeps _ _ _ ?_ ?_
  · refine fun _ h3 => ?_
    refine upUnit_keeps ?_ ?_
    · exact fun _ => h0 _
    · exact h3
  · refine keeps_mk ?_ (Nat.le_succ _) rfl (fun h => h) (fun h => h)
    exact h1

theorem execUpdRun_keeps {s0 : State} {k : Nat} {s : State} (h0 : Keeps s0 s) : KO s0 (execUpdRun k s) := by
  unfold execUpdRun
  refine ko_next ?_
  refine runOp_keeps ?_ ?_
  · refine fun _ _ h1 => ?_
    refine upAll_keeps ?_ ?_
    · exact fun _ => runUnit_keeps
    · exact h1
  · exact h0

theorem execUpdRows_keeps {s0 : State} {k : Nat} {s : State} (h0 : Keeps s0 s) : KO s0 (execUpdRows k s) := by
  unfold execUpdRows
  refine ko_next ?_
  refine runOp_keeps ?_ ?_
  · refine fun _ _ h1 => ?_
    refine upAll_keeps ?_ ?_
    · exact fun _ => rowsUnit_keeps
    · exact h1
  · exact h0

end Sys2Proof.Machine
end

