-- ==== Sys2Proof/Laws/KeepsSolver.lean ====
section
/-!
SUPPORT. What no command does (see Laws/Keeps.lean): the solver engine.
-/
namespace Sys2Proof.Machine

/-! ### Solver -/

theorem readWords_keeps {s0 : State} {code : Nat} {va : Nat} {n : Nat} : EK s0 (readWords code va n : EngM (List Int)) := by
  unfold readWords
  refine ek_bind ?_ (fun _ => ?_)
  · exact readV_keeps
  · exact ek_pure

theorem freeBytes_keeps {s0 : State} {n : Nat} : EK s0 (freeBytes n : EngM Bytes) := by
  unfold freeBytes
  refine ek_get (fun _ h0 => ?_)
  refine ek_bind ?_ (fun _ => ?_)
  · refine ek_set ?_
    show Keeps s0 _
    dsimp -zeta only
    extract_lets -merge -underBinder +onlyGivenNames x1
    have h2 : Keeps s0 x1 := by
      unfold x1
      exact h0
    refine keeps_mk ?_ (Nat.le_succ _) rfl (fun h => h) (fun h => h)
    exact h2
  · exact ek_pure

theorem freeWord_keeps {s0 : State} : EK s0 (freeWord : EngM W64) := by
  unfold freeWord
  refine ek_get (fun _ h0 => ?_)
  refine ek_bind ?_ (fun _ => ?_)
  · refine ek_set ?_
    show Keeps s0 _
    dsimp -zeta only
    extract_lets -merge -underBinder +onlyGivenNames x1
    have h2 : Keeps s0 x1 := by
      unfold x1
      exact h0
    refine keeps_mk ?_ (Nat.le_succ _) rfl (fun h => h) (fun h => h)
    exact h2
  · exact ek_pure

theorem readPattern_keeps {s0 : State} {va : Nat} : EK s0 (readPattern va : EngM Pat) := by
  unfold readPattern
  refine ek_bind ?_ (fun _ => ?_)
  · exact readV_keeps
  · extract_lets -merge -underBinder +onlyGivenNames x0
    have h1 : ∀ y0, EK s0 (x0 y0) := by
      unfold x0
      refine fun _ => ?_
      extract_lets -merge -underBinder +onlyGivenNames x2
      clear_value x2
      refine ek_bind ?_ (fun _ => ?_)
      · exact readV_keeps
      · extract_lets -merge -underBinder +onlyGivenNames x3
        clear_value x3
        extract_lets -merge -underBinder +onlyGivenNames x4
        clear_value x4
        extract_lets -merge -underBinder +onlyGivenNames x5
        clear_value x5
        refine ite_of (P := EK s0) (fun _ => ?_) (fun _ => ?_)
        · exact ek_pure
        · exact ek_throw
    clear_value x0
    refine ite_of (P := EK s0) (fun _ => ?_) (fun _ => ?_)
    · refine ek_bind ?_ (fun _ => ?_)
      · exact ek_throw
      · exact h1 _
    · exact h1 _

theorem slProg_keeps {s0 : State} {c : Cmd} : EK s0 (slProg c : EngM Progress) := by
  unfold slProg
  refine ek_getS (fun _ h0 => ?_)
  exact ek_pure

theorem keepSl_keeps {s0 : State} {c : Cmd} {f : Progress → Progress} : EK s0 (keepSl c f : EngM Unit) := by
  unfold keepSl
  refine modS_keeps ?_
  exact fun _ h0 => modProg_keeps h0

theorem slpWork_keeps {s0 : State} {c : Cmd} : EK s0 (slpWork c : EngM (Option (Option W64 × Option Nat))) := by
  unfold slpWork
  extract_lets -merge -underBinder +onlyGivenNames x0
  extract_lets -merge -underBinder +onlyGivenNames x1
  extract_lets -merge -underBinder +onlyGivenNames x2
  refine ek_bind ?_ (fun _ => ?_)
  · exact readV_keeps
  · refine ek_bind ?_ (fun _ => ?_)
    · exact readV_keeps
    · extract_lets -merge -underBinder +onlyGivenNames x3
      have h4 : ∀ y0, EK s0 (x3 y0) := by
        unfold x3
        refine fun _ => ?_
        refine ek_bind ?_ (fun _ => ?_)
        · exact slProg_keeps
        · extract_lets -merge -underBinder +onlyGivenNames x5
          have h6 : ∀ y0, EK s0 (x5 y0) := by
            unfold x5
            refine fun _ => ?_
            extract_lets -merge -underBinder +onlyGivenNames x7
            refine ek_bind ?_ (fun _ => ?_)
            · exact writeV_keeps
            · refine ek_bind ?_ (fun _ => ?_)
              · exact keepSl_keeps
              · exact ek_pure
          clear_value x5
          refine ite_of (P := EK s0) (fun _ => ?_) (fun _ => ?_)
          · refine ek_bind ?_ (fun _ => ?_)
            · exact readV_keeps
            · refine ek_bind ?_ (fun _ => ?_)
              · exact ek_pure
              · exact h6 _
          · refine ek_bind ?_ (fun _ => ?_)
            · exact ek_pure
            · exact h6 _
      clear_value x3
      refine ite_of (P := EK s0) (fun _ => ?_) (fun _ => ?_)
      · refine ek_bind ?_ (fun _ => ?_)
        · exact ek_throw
        · exact h4 _
      · exact h4 _

theorem readSys_keeps {s0 : State} {list : Nat} {idx : Nat} : EK s0 (readSys list idx : EngM SysD) := by
  unfold readSys
  refine ek_bind ?_ (fun _ => ?_)
  · exact readV_keeps
  · extract_lets -merge -underBinder +onlyGivenNames x0
    have h1 : ∀ y0, EK s0 (x0 y0) := by
      unfold x0
      exact fun _ => ek_pure
    clear_value x0
    refine ite_of (P := EK s0) (fun _ => ?_) (fun _ => ?_)
    · refine ek_bind ?_ (fun _ => ?_)
      · exact ek_throw
      · exact h1 _
    · exact h1 _

theorem svlWord_keeps {s0 : State} {c : Cmd} {code : Nat} {elem : Nat} {raw : Nat} : EK s0 (svlWord c code elem raw : EngM Int) :=
    by
  unfold svlWord
  extract_lets -merge -underBinder +onlyGivenNames x0
  clear_value x0
  refine ek_bind ?_ (fun _ => ?_)
  · exact noteEv_keeps
  · exact ek_pure

theorem svlWords_keeps {s0 : State} : ∀ (c : Cmd) (code : Nat) (z2 : Nat) (z3 : List Nat), EK s0 (svlWords c code z2 z3)
  | p0, p1, p2, [] => by
    rw [svlWords.eq_1]
    exact ek_pure
  | p0, p1, p2, p3 :: p4 => by
    rw [svlWords.eq_2]
    refine ek_bind ?_ (fun _ => ?_)
    · exact svlWord_keeps
    · refine ek_bind ?_ (fun _ => ?_)
      · exact svlWords_keeps _ _ _ _
      · exact ek_pure

theorem svlFullBlock_keeps {s0 : State} {c : Cmd} : EK s0 (svlFullBlock c : EngM Unit) := by
  unfold svlFullBlock
  refine ek_bind ?_ (fun _ => ?_)
  · exact slProg_keeps
  · extract_lets -merge -underBinder +onlyGivenNames x0
    refine ek_bind ?_ (fun _ => ?_)
    · exact readSys_keeps
    · refine ek_bind ?_ (fun _ => ?_)
      · exact readPattern_keeps
      · extract_lets -merge -underBinder +onlyGivenNames x1
        clear_value x1
        extract_lets -merge -underBinder +onlyGivenNames x2
        extract_lets -merge -underBinder +onlyGivenNames x3
        refine ek_bind ?_ (fun _ => ?_)
        · exact readV_keeps
        · refine ek_bind ?_ (fun _ => ?_)
          · exact svlWords_keeps _ _ _ _
          · refine ek_bind ?_ (fun _ => ?_)
            · exact unlessTrapped_keeps writeV_keeps
            · exact keepSl_keeps

theorem svlEntry_keeps {s0 : State} {c : Cmd} {i : Nat} : EK s0 (svlEntry c i : EngM Unit) := by
  unfold svlEntry
  refine ek_bind ?_ (fun _ => ?_)
  · exact readV_keeps
  · extract_lets -merge -underBinder +onlyGivenNames x0
    extract_lets -merge -underBinder +onlyGivenNames x1
    have h2 : ∀ y0, EK s0 (x1 y0) := by
      unfold x1
      refine fun _ => ?_
      refine ek_bind ?_ (fun _ => ?_)
      · exact readSys_keeps
      · refine ek_bind ?_ (fun _ => ?_)
        · exact readPattern_keeps
        · extract_lets -merge -underBinder +onlyGivenNames x3
          clear_value x3
          extract_lets -merge -underBinder +onlyGivenNames x4
          have h5 : ∀ y0, EK s0 (x4 y0) := by
            unfold x4
            refine fun _ => ?_
            refine ek_bind ?_ (fun _ => ?_)
            · exact svlWord_keeps
            · exact unlessTrapped_keeps writeV_keeps
          clear_value x4
          refine ite_of (P := EK s0) (fun _ => ?_) (fun _ => ?_)
          · refine ek_bind ?_ (fun _ => ?_)
            · exact ek_throw
            · exact h5 _
          · exact h5 _
    clear_value x1
    refine ite_of (P := EK s0) (fun _ => ?_) (fun _ => ?_)
    · refine ek_bind ?_ (fun _ => ?_)
      · exact ek_throw
      · exact h2 _
    · exact h2 _

theorem svlDeltaBlock_keeps {s0 : State} {c : Cmd} : EK s0 (svlDeltaBlock c : EngM Unit) := by
  unfold svlDeltaBlock
  refine ek_bind ?_ (fun _ => ?_)
  · exact slProg_keeps
  · extract_lets -merge -underBinder +onlyGivenNames x0
    refine ek_bind ?_ (fun _ => ?_)
    · refine ek_forM (fun _ => ?_)
      exact unlessTrapped_keeps svlEntry_keeps
    · exact keepSl_keeps

theorem svlWork_keeps {s0 : State} {c : Cmd} : EK s0 (svlWork c : EngM (Option (Option W64 × Option Nat))) := by
  unfold svlWork
  extract_lets -merge -underBinder +onlyGivenNames x0
  have h1 : ∀ y0, EK s0 (x0 y0) := by
    unfold x0
    refine fun _ => ?_
    refine ek_get (fun _ h2 => ?_)
    extract_lets -merge -underBinder +onlyGivenNames x3
    have h4 : ∀ y0, EK s0 (x3 y0) := by
      unfold x3
      refine fun _ => ?_
      refine ek_bind ?_ (fun _ => ?_)
      · exact slProg_keeps
      · exact ek_pure
    clear_value x3
    refine ite_of (P := EK s0) (fun _ => ?_) (fun _ => ?_)
    · refine ek_bind ?_ (fun _ => ?_)
      · exact setOuts_keeps
      · exact h4 _
    · exact h4 _
  clear_value x0
  refine ite_of (P := EK s0) (fun _ => ?_) (fun _ => ?_)
  · refine ek_bind ?_ (fun _ => ?_)
    · exact svlFullBlock_keeps
    · exact h1 _
  · refine ek_bind ?_ (fun _ => ?_)
    · exact svlDeltaBlock_keeps
    · exact h1 _

theorem noteSat_keeps {s0 : State} {idx : Nat} {lane : Nat} {st : SolSt} : EK s0 (noteSat idx lane st : EngM Unit) := by
  unfold noteSat
  refine ite_of (P := EK s0) (fun _ => ?_) (fun _ => ?_)
  · exact ek_pure
  · exact noteEv_keeps

theorem noteReg_keeps {s0 : State} {c : Cmd} {idx : Nat} {lane : Nat} {st : SolSt} : EK s0 (noteReg c idx lane st : EngM Unit) := by
  unfold noteReg
  split
  · exact ek_pure
  · extract_lets -merge -underBinder +onlyGivenNames x0
    exact keepSl_keeps

theorem facSystem_keeps {s0 : State} {c : Cmd} {idx : Nat} {lane : Nat} {d : SysD} {p : Pat} : EK s0 (facSystem c idx lane d p :
    EngM (Option Fact × SolSt)) := by
  unfold facSystem
  refine ek_bind ?_ (fun _ => ?_)
  · exact readWords_keeps
  · extract_lets -merge -underBinder +onlyGivenNames x0
    clear_value x0
    refine ek_bind ?_ (fun _ => ?_)
    · exact noteSat_keeps
    · refine ek_bind ?_ (fun _ => ?_)
      · exact noteReg_keeps
      · extract_lets -merge -underBinder +onlyGivenNames x1
        have h2 : ∀ y0, EK s0 (x1 y0) := by
          unfold x1
          exact fun _ => ek_pure
        clear_value x1
        split
        · refine ek_getS (fun _ h3 => ?_)
          refine ek_bind ?_ (fun _ => ?_)
          · exact unlessTrapped_keeps writeV_keeps
          · refine ite_of (P := EK s0) (fun _ => ?_) (fun _ => ?_)
            · refine ek_bind ?_ (fun _ => ?_)
              · exact addWarn_keeps
              · exact h2 _
            · exact h2 _
        · refine ek_bind ?_ (fun _ => ?_)
          · exact freeBytes_keeps
          · refine ek_bind ?_ (fun _ => ?_)
            · exact unlessTrapped_keeps writeV_keeps
            · exact h2 _

theorem chooseX0_keeps {s0 : State} {c : Cmd} {d : SysD} {p : Pat} : EK s0 (chooseX0 c d p : EngM (List Int × Nat)) := by
  unfold chooseX0
  refine ek_bind ?_ (fun _ => ?_)
  · exact readV_keeps
  · refine ek_bind ?_ (fun _ => ?_)
    · exact slProg_keeps
    · extract_lets -merge -underBinder +onlyGivenNames x0
      clear_value x0
      extract_lets -merge -underBinder +onlyGivenNames x1
      clear_value x1
      extract_lets -merge -underBinder +onlyGivenNames x2
      clear_value x2
      extract_lets -merge -underBinder +onlyGivenNames x3
      clear_value x3
      refine ite_of (P := EK s0) (fun _ => ?_) (fun _ => ?_)
      · exact ek_pure
      · refine ite_of (P := EK s0) (fun _ => ?_) (fun _ => ?_)
        · refine ek_bind ?_ (fun _ => ?_)
          · exact readWords_keeps
          · exact ek_pure
        · refine ek_bind ?_ (fun _ => ?_)
          · exact addWarn_keeps
          · exact ek_pure

theorem stopFtw_keeps {s0 : State} {c : Cmd} {late : Bool} : EK s0 (stopFtw c late : EngM W64) := by
  unfold stopFtw
  refine ek_getS (fun _ h0 => ?_)
  refine ite_of (P := EK s0) (fun _ => ?_) (fun _ => ?_)
  · refine ek_bind ?_ (fun _ => ?_)
    · exact freeWord_keeps
    · exact ek_pure
  · exact ek_pure

theorem writeStatus_keeps {s0 : State} {c : Cmd} {d : SysD} {it : Nat} {why : Nat} {flags : Nat} {freg : Nat} {st : SolSt} {late :
    Bool} {resid : Option Nat} : EK s0 (writeStatus c d it why flags freg st late resid : EngM Unit) := by
  unfold writeStatus
  refine ek_bind ?_ (fun _ => ?_)
  · exact stopFtw_keeps
  · extract_lets -merge -underBinder +onlyGivenNames x0
    have h1 : ∀ y0, EK s0 (x0 y0) := by
      unfold x0
      refine fun _ => ?_
      extract_lets -merge -underBinder +onlyGivenNames x2
      have h3 : ∀ y0, EK s0 (x2 y0) := by
        unfold x2
        refine fun _ => ?_
        extract_lets -merge -underBinder +onlyGivenNames x4
        have h5 : ∀ y0, EK s0 (x4 y0) := by
          unfold x4
          exact fun _ => writeV_keeps
        clear_value x4
        refine ite_of (P := EK s0) (fun _ => ?_) (fun _ => ?_)
        · refine ek_bind ?_ (fun _ => ?_)
          · exact keepSl_keeps
          · exact h5 _
        · exact h5 _
      clear_value x2
      refine ite_of (P := EK s0) (fun _ => ?_) (fun _ => ?_)
      · refine ek_bind ?_ (fun _ => ?_)
        · exact addWarn_keeps
        · exact h3 _
      · exact h3 _
    clear_value x0
    split
    · refine ek_bind ?_ (fun _ => ?_)
      · exact ek_pure
      · exact h1 _
    · refine ek_bind ?_ (fun _ => ?_)
      · exact freeWord_keeps
      · refine ek_bind ?_ (fun _ => ?_)
        · exact ek_pure
        · exact h1 _

theorem writeXf_keeps {s0 : State} {c : Cmd} {d : SysD} {p : Pat} {x : List Int} : EK s0 (writeXf c d p x : EngM Unit) := by
  unfold writeXf
  refine ite_of (P := EK s0) (fun _ => ?_) (fun _ => ?_)
  · extract_lets -merge -underBinder +onlyGivenNames x0
    extract_lets -merge -underBinder +onlyGivenNames x1
    clear_value x1
    exact writeV_keeps
  · exact ek_pure

theorem writeWs_keeps {s0 : State} {c : Cmd} {d : SysD} {p : Pat} {x : List Int} : EK s0 (writeWs c d p x : EngM Unit) := by
  unfold writeWs
  refine ek_bind ?_ (fun _ => ?_)
  · exact writeV_keeps
  · exact writeV_keeps

theorem factMissing_keeps {s0 : State} {c : Cmd} {d : SysD} {p : Pat} : EK s0 (factMissing c d p : EngM Bool) := by
  unfold factMissing
  refine ite_of (P := EK s0) (fun _ => ?_) (fun _ => ?_)
  · exact ek_pure
  · refine ek_bind ?_ (fun _ => ?_)
    · exact readV_keeps
    · exact ek_pure

theorem readFact_keeps {s0 : State} {c : Cmd} {d : SysD} {p : Pat} : EK s0 (readFact c d p : EngM Fact) := by
  unfold readFact
  extract_lets -merge -underBinder +onlyGivenNames x0
  clear_value x0
  refine ek_bind ?_ (fun _ => ?_)
  · exact readWords_keeps
  · exact ek_pure

theorem notStarted_keeps {s0 : State} {c : Cmd} {idx : Nat} : EK s0 (notStarted c idx : EngM Unit) := by
  unfold notStarted
  refine ek_bind ?_ (fun _ => ?_)
  · exact readSys_keeps
  · extract_lets -merge -underBinder +onlyGivenNames x0
    have h1 : ∀ y0, EK s0 (x0 y0) := by
      unfold x0
      refine fun _ => ?_
      refine ek_bind ?_ (fun _ => ?_)
      · exact readPattern_keeps
      · refine ek_bind ?_ (fun _ => ?_)
        · exact chooseX0_keeps
        · refine ek_bind ?_ (fun _ => ?_)
          · exact freeBelow_keeps
          · refine ek_bind ?_ (fun _ => ?_)
            · exact freeWord_keeps
            · refine ek_bind ?_ (fun _ => ?_)
              · exact writeXf_keeps
              · exact writeStatus_keeps
    clear_value x0
    refine ite_of (P := EK s0) (fun _ => ?_) (fun _ => ?_)
    · refine ek_bind ?_ (fun _ => ?_)
      · exact ek_throw
      · exact h1 _
    · exact h1 _

theorem pastDeadline_keeps {s0 : State} {c : Cmd} : EK s0 (pastDeadline c : EngM Bool) := by
  unfold pastDeadline
  refine ek_getS (fun _ h0 => ?_)
  refine ek_bind ?_ (fun _ => ?_)
  · exact slProg_keeps
  · exact ek_pure

theorem drawLate_keeps {s0 : State} {c : Cmd} {r : LaneSys} : EK s0 (drawLate c r : EngM (Option Nat)) := by
  unfold drawLate
  refine ite_of (P := EK s0) (fun _ => ?_) (fun _ => ?_)
  · exact ek_pure
  · refine ek_bind ?_ (fun _ => ?_)
    · exact pastDeadline_keeps
    · refine ek_bind ?_ (fun _ => ?_)
      · exact freeBelow_keeps
      · refine ek_bind ?_ (fun _ => ?_)
        · exact freeWord_keeps
        · exact ek_pure

theorem drawHalt_keeps {s0 : State} {c : Cmd} {r : LaneSys} : EK s0 (drawHalt c r : EngM (Option Nat)) := by
  unfold drawHalt
  refine ek_getS (fun _ h0 => ?_)
  refine ek_bind ?_ (fun _ => ?_)
  · exact slProg_keeps
  · refine ite_of (P := EK s0) (fun _ => ?_) (fun _ => ?_)
    · refine ek_bind ?_ (fun _ => ?_)
      · exact freeBelow_keeps
      · refine ek_bind ?_ (fun _ => ?_)
        · exact freeWord_keeps
        · exact ek_pure
    · exact ek_pure

theorem pickOf_keeps {s0 : State} {α : Type} {d : α} {l : List α} : EK s0 (pickOf d l : EngM α) := by
  unfold pickOf
  split
  · exact ek_pure
  · refine ek_bind ?_ (fun _ => ?_)
    · exact freeBelow_keeps
    · exact ek_pure

theorem takeLane_keeps {s0 : State} {c : Cmd} {r : LaneSys} : EK s0 (takeLane c r : EngM Unit) := by
  unfold takeLane
  refine ek_bind ?_ (fun _ => ?_)
  · exact slProg_keeps
  · refine ek_bind ?_ (fun _ => ?_)
    · exact pickOf_keeps
    · exact keepSl_keeps

theorem leaveLane_keeps {s0 : State} {c : Cmd} {r : LaneSys} : EK s0 (leaveLane c r : EngM Unit) := by
  unfold leaveLane
  exact keepSl_keeps

theorem keepLane_keeps {s0 : State} {c : Cmd} {r : LaneSys} : EK s0 (keepLane c r : EngM Unit) := by
  unfold keepLane
  exact keepSl_keeps

theorem doneBefore_keeps {s0 : State} {c : Cmd} {idx : Nat} : EK s0 (doneBefore c idx : EngM (Option Nat)) := by
  unfold doneBefore
  refine ek_bind ?_ (fun _ => ?_)
  · exact slProg_keeps
  · refine ite_of (P := EK s0) (fun _ => ?_) (fun _ => ?_)
    · exact ek_pure
    · refine ek_bind ?_ (fun _ => ?_)
      · exact readSys_keeps
      · refine ek_bind ?_ (fun _ => ?_)
        · exact readV_keeps
        · exact ek_pure

theorem startLane_keeps {s0 : State} {c : Cmd} {idx : Nat} : EK s0 (startLane c idx : EngM Unit) := by
  unfold startLane
  refine ek_bind ?_ (fun _ => ?_)
  · exact readSys_keeps
  · extract_lets -merge -underBinder +onlyGivenNames x0
    have h1 : ∀ y0, EK s0 (x0 y0) := by
      unfold x0
      refine fun _ => ?_
      refine ek_bind ?_ (fun _ => ?_)
      · exact readPattern_keeps
      · refine ek_bind ?_ (fun _ => ?_)
        · exact chooseX0_keeps
        · extract_lets -merge -underBinder +onlyGivenNames x2
          clear_value x2
          refine ek_bind ?_ (fun _ => ?_)
          · exact factMissing_keeps
          · extract_lets -merge -underBinder +onlyGivenNames x3
            extract_lets -merge -underBinder +onlyGivenNames x4
            have h5 : ∀ y0, EK s0 (x4 y0) := by
              unfold x4
              refine fun _ => ?_
              refine ite_of (P := EK s0) (fun _ => ?_) (fun _ => ?_)
              · exact writeStatus_keeps
              · refine ite_of (P := EK s0) (fun _ => ?_) (fun _ => ?_)
                · refine ek_bind ?_ (fun _ => ?_)
                  · exact freeWord_keeps
                  · exact writeStatus_keeps
                · exact takeLane_keeps
            clear_value x4
            refine ite_of (P := EK s0) (fun _ => ?_) (fun _ => ?_)
            · refine ek_bind ?_ (fun _ => ?_)
              · exact freeBelow_keeps
              · exact h5 _
            · refine ek_bind ?_ (fun _ => ?_)
              · exact ek_pure
              · exact h5 _
    clear_value x0
    refine ite_of (P := EK s0) (fun _ => ?_) (fun _ => ?_)
    · refine ek_bind ?_ (fun _ => ?_)
      · exact ek_throw
      · exact h1 _
    · exact h1 _

theorem startSystem_keeps {s0 : State} {c : Cmd} {idx : Nat} : EK s0 (startSystem c idx : EngM Unit) := by
  unfold startSystem
  refine ite_of (P := EK s0) (fun _ => ?_) (fun _ => ?_)
  · exact takeLane_keeps
  · refine ek_bind ?_ (fun _ => ?_)
    · exact doneBefore_keeps
    · split
      · extract_lets -merge -underBinder +onlyGivenNames x0
        have h1 : ∀ y0, EK s0 (x0 y0) := by
          unfold x0
          refine fun _ => ?_
          refine ite_of (P := EK s0) (fun _ => ?_) (fun _ => ?_)
          · exact keepSl_keeps
          · exact ek_pure
        clear_value x0
        refine ite_of (P := EK s0) (fun _ => ?_) (fun _ => ?_)
        · refine ek_bind ?_ (fun _ => ?_)
          · exact addWarn_keeps
          · exact h1 _
        · exact h1 _
      · refine ek_bind ?_ (fun _ => ?_)
        · exact pastDeadline_keeps
        · refine ite_of (P := EK s0) (fun _ => ?_) (fun _ => ?_)
          · exact notStarted_keeps
          · exact startLane_keeps

theorem useWork_keeps {s0 : State} {c : Cmd} {r : LaneSys} {p : Pat} : EK s0 (useWork c r p : EngM Unit) := by
  unfold useWork
  refine ite_of (P := EK s0) (fun _ => ?_) (fun _ => ?_)
  · exact ek_pure
  · refine ek_bind ?_ (fun _ => ?_)
    · exact freeBytes_keeps
    · exact unlessTrapped_keeps writeV_keeps

theorem stopSystem_keeps {s0 : State} {c : Cmd} {r : LaneSys} {d : SysD} {p : Pat} {why : Nat} {st : SolSt} : EK s0 (stopSystem c
    r d p why st : EngM Unit) := by
  unfold stopSystem
  extract_lets -merge -underBinder +onlyGivenNames x0
  have h1 : ∀ y0, EK s0 (x0 y0) := by
    unfold x0
    refine fun _ => ?_
    refine ek_bind ?_ (fun _ => ?_)
    · exact useWork_keeps
    · refine ek_bind ?_ (fun _ => ?_)
      · refine unlessTrapped_keeps ?_
        refine ek_bind ?_ (fun _ => ?_)
        · exact writeWs_keeps
        · refine ek_bind ?_ (fun _ => ?_)
          · exact writeXf_keeps
          · exact writeStatus_keeps
      · exact leaveLane_keeps
  clear_value x0
  refine ite_of (P := EK s0) (fun _ => ?_) (fun _ => ?_)
  · refine ek_bind ?_ (fun _ => ?_)
    · exact keepSl_keeps
    · exact h1 _
  · exact h1 _

theorem factorLane_keeps {s0 : State} {c : Cmd} {r : LaneSys} {d : SysD} {p : Pat} : EK s0 (factorLane c r d p : EngM Unit) := by
  unfold factorLane
  refine ek_bind ?_ (fun _ => ?_)
  · exact facSystem_keeps
  · split
    · refine ek_bind ?_ (fun _ => ?_)
      · exact keepSl_keeps
      · exact leaveLane_keeps
    · refine ek_bind ?_ (fun _ => ?_)
      · exact slProg_keeps
      · extract_lets -merge -underBinder +onlyGivenNames x0
        clear_value x0
        refine ite_of (P := EK s0) (fun _ => ?_) (fun _ => ?_)
        · exact leaveLane_keeps
        · refine ite_of (P := EK s0) (fun _ => ?_) (fun _ => ?_)
          · exact stopSystem_keeps
          · exact keepLane_keeps

theorem iterateLane_keeps {s0 : State} {c : Cmd} {r : LaneSys} {d : SysD} {p : Pat} : EK s0 (iterateLane c r d p : EngM Unit) := by
  unfold iterateLane
  extract_lets -merge -underBinder +onlyGivenNames x0
  have h1 : ∀ y0, EK s0 (x0 y0) := by
    unfold x0
    refine fun _ => ?_
    refine ek_bind ?_ (fun _ => ?_)
    · exact readWords_keeps
    · refine ek_bind ?_ (fun _ => ?_)
      · exact readWords_keeps
      · refine ek_bind ?_ (fun _ => ?_)
        · exact drawLate_keeps
        · refine ek_bind ?_ (fun _ => ?_)
          · exact drawHalt_keeps
          · refine ek_bind ?_ (fun _ => ?_)
            · exact freeBelow_keeps
            · extract_lets -merge -underBinder +onlyGivenNames x2
              clear_value x2
              extract_lets -merge -underBinder +onlyGivenNames x3
              clear_value x3
              extract_lets -merge -underBinder +onlyGivenNames x4
              clear_value x4
              refine ek_bind ?_ (fun _ => ?_)
              · exact noteSat_keeps
              · refine ek_bind ?_ (fun _ => ?_)
                · exact slProg_keeps
                · refine ite_of (P := EK s0) (fun _ => ?_) (fun _ => ?_)
                  · refine ek_bind ?_ (fun _ => ?_)
                    · exact useWork_keeps
                    · exact keepLane_keeps
                  · exact stopSystem_keeps
  clear_value x0
  refine ite_of (P := EK s0) (fun _ => ?_) (fun _ => ?_)
  · refine ek_bind ?_ (fun _ => ?_)
    · exact ek_pure
    · exact h1 _
  · refine ek_bind ?_ (fun _ => ?_)
    · exact readFact_keeps
    · exact h1 _

theorem goOn_keeps {s0 : State} {c : Cmd} {r : LaneSys} : EK s0 (goOn c r : EngM Unit) := by
  unfold goOn
  refine ek_bind ?_ (fun _ => ?_)
  · exact readSys_keeps
  · refine ek_bind ?_ (fun _ => ?_)
    · exact readPattern_keeps
    · refine ite_of (P := EK s0) (fun _ => ?_) (fun _ => ?_)
      · exact factorLane_keeps
      · exact iterateLane_keeps

theorem trapOuts_keeps {s0 : State} {c : Cmd} {bad : Nat} : EK s0 (trapOuts c bad : EngM Unit) := by
  unfold trapOuts
  refine ek_get (fun _ h0 => ?_)
  split
  · exact ek_pure
  · extract_lets -merge -underBinder +onlyGivenNames x1
    clear_value x1
    exact setOuts_keeps

theorem sysWork_keeps {s0 : State} {c : Cmd} : EK s0 (sysWork c : EngM (Option (Option W64 × Option Nat))) := by
  unfold sysWork
  refine ek_getS (fun _ h0 => ?_)
  refine ek_bind ?_ (fun _ => ?_)
  · exact slProg_keeps
  · extract_lets -merge -underBinder +onlyGivenNames x1
    have h2 : ∀ y0, EK s0 (x1 y0) := by
      unfold x1
      refine fun _ => ?_
      extract_lets -merge -underBinder +onlyGivenNames x3
      have h4 : ∀ y0, EK s0 (x3 y0) := by
        unfold x3
        refine fun _ => ?_
        refine ek_bind ?_ (fun _ => ?_)
        · exact slProg_keeps
        · refine ite_of (P := EK s0) (fun _ => ?_) (fun _ => ?_)
          · exact ek_pure
          · refine ite_of (P := EK s0) (fun _ => ?_) (fun _ => ?_)
            · exact stopFault_keeps
            · exact ek_pure
      clear_value x3
      refine ite_of (P := EK s0) (fun _ => ?_) (fun _ => ?_)
      · refine ek_bind ?_ (fun _ => ?_)
        · exact keepSl_keeps
        · refine ek_bind ?_ (fun _ => ?_)
          · exact startSystem_keeps
          · exact h4 _
      · refine ek_bind ?_ (fun _ => ?_)
        · exact pickOf_keeps
        · refine ek_bind ?_ (fun _ => ?_)
          · exact goOn_keeps
          · refine ek_bind ?_ (fun _ => ?_)
            · exact trapOuts_keeps
            · exact h4 _
    clear_value x1
    refine ite_of (P := EK s0) (fun _ => ?_) (fun _ => ?_)
    · refine ek_bind ?_ (fun _ => ?_)
      · exact ek_throw
      · exact h2 _
    · exact h2 _

theorem slvUnit_keeps {s0 : State} {work : Cmd → EngM (Option (Option W64 × Option Nat))} {k : Nat} {s : State} (h0 : ∀ y0, EK s0
    (work y0)) (h1 : Keeps s0 s) : Keeps s0 (slvUnit work k s) := by
  unfold slvUnit
  split
  · exact h1
  · refine ite_of (P := Keeps s0) (fun _ => ?_) (fun _ => ?_)
    · exact h1
    · extract_lets -merge -underBinder +onlyGivenNames x2
      clear_value x2
      refine ite_of (P := Keeps s0) (fun _ => ?_) (fun _ => ?_)
      · refine foldl_of (P := Keeps s0) (fun _ _ h3 => ?_) ?_
        · exact unpredictable_keeps h3
        · exact h1
      · refine runWatched_keeps ?_ ?_
        · exact h0 _
        · exact h1

theorem slvRun_keeps {s0 : State} {left : Cmd → Nat} {work : Cmd → EngM (Option (Option W64 × Option Nat))} {c : Cmd} {s : State}
    (h0 : ∀ y0, EK s0 (work y0)) (h1 : Keeps s0 s) : Keeps s0 (slvRun left work c s) := by
  unfold slvRun
  refine repeatWork_keeps _ _ _ ?_ ?_
  · refine fun _ h2 => ?_
    refine slvUnit_keeps ?_ ?_
    · exact fun _ => h0 _
    · exact h2
  · refine keeps_mk ?_ (Nat.le_succ _) rfl (fun h => h) (fun h => h)
    exact h1

theorem sumFrom_keeps {s0 : State} : ∀ (c : Cmd) (z1 : Nat) (z2 : Nat) (z3 : SlvSum), EK s0 (sumFrom c z1 z2 z3)
  | p0, p1, 0, p2 => by
    rw [sumFrom.eq_1]
    exact ek_pure
  | p0, p1, p3 + 1, p2 => by
    rw [sumFrom.eq_2]
    refine ek_bind ?_ (fun _ => ?_)
    · exact readSys_keeps
    · refine ek_bind ?_ (fun _ => ?_)
      · exact readV_keeps
      · exact sumFrom_keeps _ _ _ _

theorem slsWork_keeps {s0 : State} {c : Cmd} : EK s0 (slsWork c : EngM (Option (Option W64 × Option Nat))) := by
  unfold slsWork
  refine ek_bind ?_ (fun _ => ?_)
  · exact slProg_keeps
  · extract_lets -merge -underBinder +onlyGivenNames x0
    refine ek_bind ?_ (fun _ => ?_)
    · exact sumFrom_keeps _ _ _ _
    · refine ek_bind ?_ (fun _ => ?_)
      · exact keepSl_keeps
      · refine ite_of (P := EK s0) (fun _ => ?_) (fun _ => ?_)
        · exact ek_pure
        · refine ek_bind ?_ (fun _ => ?_)
          · exact writeV_keeps
          · exact ek_pure

theorem execSlvPattern_keeps {s0 : State} {k : Nat} {s : State} (h0 : Keeps s0 s) : KO s0 (execSlvPattern k s) := by
  unfold execSlvPattern
  refine ko_next ?_
  refine runOp_keeps ?_ ?_
  · refine fun _ _ h1 => ?_
    refine slvRun_keeps ?_ ?_
    · exact fun _ => slpWork_keeps
    · exact h1
  · exact h0

theorem execSlvValues_keeps {s0 : State} {k : Nat} {s : State} (h0 : Keeps s0 s) : KO s0 (execSlvValues k s) := by
  unfold execSlvValues
  refine ko_next ?_
  refine runOp_keeps ?_ ?_
  · refine fun _ _ h1 => ?_
    refine slvRun_keeps ?_ ?_
    · exact fun _ => svlWork_keeps
    · exact h1
  · exact h0

theorem execSlvFactor_keeps {s0 : State} {k : Nat} {s : State} (h0 : Keeps s0 s) : KO s0 (execSlvFactor k s) := by
  unfold execSlvFactor
  refine ko_next ?_
  refine runOp_keeps ?_ ?_
  · refine fun _ _ h1 => ?_
    refine slvRun_keeps ?_ ?_
    · exact fun _ => sysWork_keeps
    · exact h1
  · exact h0

theorem execSlvSolve_keeps {s0 : State} {k : Nat} {s : State} (h0 : Keeps s0 s) : KO s0 (execSlvSolve k s) := by
  unfold execSlvSolve
  refine ko_next ?_
  refine runOp_keeps ?_ ?_
  · refine fun _ _ h1 => ?_
    refine slvRun_keeps ?_ ?_
    · exact fun _ => sysWork_keeps
    · exact h1
  · exact h0

theorem execSolverSystemStart_keeps {s0 : State} {k : Nat} {s : State} (h0 : Keeps s0 s) : KO s0 (execSolverSystemStart k s) := by
  unfold execSolverSystemStart
  refine ko_next ?_
  refine runOp_keeps ?_ ?_
  · refine fun _ _ h1 => ?_
    refine slvUnit_keeps ?_ ?_
    · exact fun _ => sysWork_keeps
    · exact h1
  · exact h0

theorem execSlvStatus_keeps {s0 : State} {k : Nat} {s : State} (h0 : Keeps s0 s) : KO s0 (execSlvStatus k s) := by
  unfold execSlvStatus
  refine ko_next ?_
  refine runOp_keeps ?_ ?_
  · refine fun _ _ h1 => ?_
    refine slvRun_keeps ?_ ?_
    · exact fun _ => slsWork_keeps
    · exact h1
  · exact h0

end Sys2Proof.Machine
end

