-- ==== Sys2Proof/Laws/KeepsCollective.lean ====
section
/-!
SUPPORT. What no command does (see Laws/Keeps.lean): collectives.
-/
namespace Sys2Proof.Machine

/-! ### CollTree -/

theorem modGroup_keeps {s0 : State} {g : Nat} {f : Group → Group} {s : State} (h0 : Keeps s0 s) : Keeps s0 (modGroup g f s) := by
  unfold modGroup
  refine keeps_mk ?_ (Nat.le_refl _) rfl (fun h => h) (fun h => h)
  exact h0

theorem addLate_keeps {s0 : State} {gn : Nat} {n : Nat} {s : State} (h0 : Keeps s0 s) : Keeps s0 (addLate gn n s) := by
  unfold addLate
  exact modGroup_keeps h0

theorem addStale_keeps {s0 : State} {gn : Nat} {n : Nat} {s : State} (h0 : Keeps s0 s) : Keeps s0 (addStale gn n s) := by
  unfold addStale
  exact modGroup_keeps h0

theorem addHdrErr_keeps {s0 : State} {gn : Nat} {n : Nat} {s : State} (h0 : Keeps s0 s) : Keeps s0 (addHdrErr gn n s) := by
  unfold addHdrErr
  exact modGroup_keeps h0

theorem addMissing_keeps {s0 : State} {gn : Nat} {n : Nat} {s : State} (h0 : Keeps s0 s) : Keeps s0 (addMissing gn n s) := by
  unfold addMissing
  exact modGroup_keeps h0

theorem collSend_keeps {s0 : State} {g : Group} {rank : Nat} {h : CollHdr} {node : Nat} {addr : Nat} {data : Bytes} {s : State}
    (h0 : Keeps s0 s) : Keeps s0 (collSend g rank h node addr data s) := by
  unfold collSend
  extract_lets -merge -underBinder +onlyGivenNames x1
  clear_value x1
  exact sendPacket_keeps h0

theorem sendUp_keeps {s0 : State} {g : Group} {h : CollHdr} {level : Nat} {j : Nat} {addr : Nat} {data : Bytes} {s : State} (h0 :
    Keeps s0 s) : Keeps s0 (sendUp g h level j addr data s) := by
  unfold sendUp
  exact collSend_keeps h0

theorem sendDown_keeps {s0 : State} {g : Group} {h : CollHdr} {level : Nat} {j : Nat} {addr : Nat} {sides : List Nat} {data :
    Bytes} {s : State} (h0 : Keeps s0 s) : Keeps s0 (sendDown g h level j addr sides data s) := by
  unfold sendDown
  refine foldl_of (P := Keeps s0) (fun _ _ h1 => ?_) ?_
  · exact collSend_keeps h1
  · exact h0

theorem putNode_keeps {s0 : State} {n : Node} {s : State} (h0 : Keeps s0 s) : Keeps s0 (putNode n s) := by
  unfold putNode
  refine ite_of (P := Keeps s0) (fun _ => ?_) (fun _ => ?_)
  · refine keeps_mk ?_ (Nat.le_refl _) rfl (fun h => h) (fun h => h)
    exact h0
  · refine keeps_mk ?_ (Nat.le_refl _) rfl (fun h => h) (fun h => h)
    exact h0

theorem openInst_keeps {s0 : State} {g : Group} {h : CollHdr} {level : Nat} {pos : Nat} {s : State} (h0 : Keeps s0 s) : Keeps s0
    (openInst g h level pos s) := by
  unfold openInst
  extract_lets -merge -underBinder +onlyGivenNames x1
  clear_value x1
  refine ite_of (P := Keeps s0) (fun _ => ?_) (fun _ => ?_)
  · refine keeps_mk ?_ (Nat.le_refl _) rfl (fun h => h) (fun h => h)
    exact h0
  · refine keeps_mk ?_ (Nat.le_refl _) rfl (fun h => h) (fun h => h)
    exact h0

theorem openBlocks_keeps {s0 : State} {h : CollHdr} {kind : Nat} {level : Nat} {pos : Nat} {n : Nat} {s : State} (h0 : Keeps s0 s)
    : Keeps s0 (openBlocks h kind level pos n s) := by
  unfold openBlocks
  extract_lets -merge -underBinder +onlyGivenNames x1
  refine foldl_of (P := Keeps s0) (fun _ _ h2 => ?_) ?_
  · extract_lets -merge -underBinder +onlyGivenNames x3
    clear_value x3
    refine ite_of (P := Keeps s0) (fun _ => ?_) (fun _ => ?_)
    · exact h2
    · refine keeps_mk ?_ (Nat.le_refl _) rfl (fun h => h) (fun h => h)
      exact h2
  · exact h0

theorem settleInst_keeps {s0 : State} {h : CollHdr} {level : Nat} {pos : Nat} {s : State} (h0 : Keeps s0 s) : Keeps s0 (settleInst
    h level pos s) := by
  unfold settleInst
  extract_lets -merge -underBinder +onlyGivenNames x1
  clear_value x1
  extract_lets -merge -underBinder +onlyGivenNames x2
  clear_value x2
  refine keeps_mk ?_ (Nat.le_refl _) rfl (fun h => h) (fun h => h)
  exact h0

theorem lateOnce_keeps {s0 : State} {h : CollHdr} {place : List Nat} {s : State} (h0 : Keeps s0 s) : Keeps s0 (lateOnce h place s)
    := by
  unfold lateOnce
  extract_lets -merge -underBinder +onlyGivenNames x1
  clear_value x1
  split
  · exact h0
  · refine ite_of (P := Keeps s0) (fun _ => ?_) (fun _ => ?_)
    · exact h0
    · exact modGroup_keeps h0

theorem rootDeliver_keeps {s0 : State} {g : Group} {n : Node} {w : WireBlock} {s : State} (h0 : Keeps s0 s) : Keeps s0
    (rootDeliver g n w s) := by
  unfold rootDeliver
  exact sendDown_keeps (putNode_keeps h0)

theorem nodeSend_keeps {s0 : State} {g : Group} {n : Node} {s : State} (h0 : Keeps s0 s) : Keeps s0 (nodeSend g n s) := by
  unfold nodeSend
  extract_lets -merge -underBinder +onlyGivenNames x1
  clear_value x1
  extract_lets -merge -underBinder +onlyGivenNames x2
  clear_value x2
  refine ite_of (P := Keeps s0) (fun _ => ?_) (fun _ => ?_)
  · exact sendUp_keeps (putNode_keeps h0)
  · refine ite_of (P := Keeps s0) (fun _ => ?_) (fun _ => ?_)
    · exact sendDown_keeps (putNode_keeps h0)
    · exact rootDeliver_keeps h0

theorem nodeUp_keeps {s0 : State} {g : Group} {h : CollHdr} {level : Nat} {pos : Nat} {side : Nat} {idx : Nat} {w : WireBlock} {s
    : State} (h0 : Keeps s0 s) : Keeps s0 (nodeUp g h level pos side idx w s) := by
  unfold nodeUp
  extract_lets -merge -underBinder +onlyGivenNames x1
  clear_value x1
  refine ite_of (P := Keeps s0) (fun _ => ?_) (fun _ => ?_)
  · exact addLate_keeps h0
  · refine ite_of (P := Keeps s0) (fun _ => ?_) (fun _ => ?_)
    · exact addLate_keeps (nodeSend_keeps h0)
    · extract_lets -merge -underBinder +onlyGivenNames x2
      clear_value x2
      extract_lets -merge -underBinder +onlyGivenNames x3
      clear_value x3
      refine ite_of (P := Keeps s0) (fun _ => ?_) (fun _ => ?_)
      · exact nodeSend_keeps h0
      · exact putNode_keeps h0

theorem retrySend_keeps {s0 : State} {g : Group} {n : Node} {s : State} (h0 : Keeps s0 s) : Keeps s0 (retrySend g n s) := by
  unfold retrySend
  extract_lets -merge -underBinder +onlyGivenNames x1
  clear_value x1
  extract_lets -merge -underBinder +onlyGivenNames x2
  clear_value x2
  extract_lets -merge -underBinder +onlyGivenNames x3
  clear_value x3
  refine ite_of (P := Keeps s0) (fun _ => ?_) (fun _ => ?_)
  · exact sendUp_keeps (putNode_keeps h0)
  · refine ite_of (P := Keeps s0) (fun _ => ?_) (fun _ => ?_)
    · exact rootDeliver_keeps h0
    · exact rootDeliver_keeps h0

theorem nodeRetryUp_keeps {s0 : State} {g : Group} {h : CollHdr} {level : Nat} {pos : Nat} {side : Nat} {idx : Nat} {w :
    WireBlock} {s : State} (h0 : Keeps s0 s) : Keeps s0 (nodeRetryUp g h level pos side idx w s) := by
  unfold nodeRetryUp
  split
  · exact h0
  · extract_lets -merge -underBinder +onlyGivenNames x1
    clear_value x1
    refine ite_of (P := Keeps s0) (fun _ => ?_) (fun _ => ?_)
    · exact h0
    · extract_lets -merge -underBinder +onlyGivenNames x2
      clear_value x2
      extract_lets -merge -underBinder +onlyGivenNames x3
      clear_value x3
      refine ite_of (P := Keeps s0) (fun _ => ?_) (fun _ => ?_)
      · exact retrySend_keeps h0
      · exact putNode_keeps h0

theorem nodeRetryReq_keeps {s0 : State} {g : Group} {h : CollHdr} {level : Nat} {pos : Nat} {idx : Nat} {w : WireBlock} {s :
    State} (h0 : Keeps s0 s) : Keeps s0 (nodeRetryReq g h level pos idx w s) := by
  unfold nodeRetryReq
  split
  · exact h0
  · refine ite_of (P := Keeps s0) (fun _ => ?_) (fun _ => ?_)
    · exact h0
    · extract_lets -merge -underBinder +onlyGivenNames x1
      clear_value x1
      extract_lets -merge -underBinder +onlyGivenNames x2
      have h3 : Keeps s0 x2 := by
        unfold x2
        exact sendDown_keeps (putNode_keeps h0)
      clear_value x2
      refine ite_of (P := Keeps s0) (fun _ => ?_) (fun _ => ?_)
      · exact retrySend_keeps h3
      · exact h3

theorem nodeDown_keeps {s0 : State} {g : Group} {h : CollHdr} {level : Nat} {pos : Nat} {idx : Nat} {w : WireBlock} {s : State}
    (h0 : Keeps s0 s) : Keeps s0 (nodeDown g h level pos idx w s) := by
  unfold nodeDown
  extract_lets -merge -underBinder +onlyGivenNames x1
  extract_lets -merge -underBinder +onlyGivenNames x2
  clear_value x2
  extract_lets -merge -underBinder +onlyGivenNames x3
  clear_value x3
  exact sendDown_keeps (putNode_keeps h0)

theorem collArrive_keeps {s0 : State} {port : Nat} {kind : Nat} {p : Packet} {f : Group → CollHdr → State → State} {s : State} (h0
    : ∀ y0, ∀ y1, ∀ y2, Keeps s0 y2 → Keeps s0 (f y0 y1 y2)) (h1 : Keeps s0 s) : Keeps s0 (collArrive port kind p f s) := by
  unfold collArrive
  extract_lets -merge -underBinder +onlyGivenNames x2
  clear_value x2
  refine ite_of (P := Keeps s0) (fun _ => ?_) (fun _ => ?_)
  · exact h1
  · refine arrive_keeps ?_ ?_
    · refine fun _ h3 => ?_
      refine ite_of (P := Keeps s0) (fun _ => ?_) (fun _ => ?_)
      · refine ite_of (P := Keeps s0) (fun _ => ?_) (fun _ => ?_)
        · exact h3
        · exact addHdrErr_keeps h3
      · refine ite_of (P := Keeps s0) (fun _ => ?_) (fun _ => ?_)
        · exact h3
        · split
          · exact nack_keeps h3
          · refine ite_of (P := Keeps s0) (fun _ => ?_) (fun _ => ?_)
            · exact addStale_keeps h3
            · exact h0 _ _ _ h3
    · exact h1

theorem parkColl_keeps {s0 : State} {port : Nat} {p : Packet} {s : State} (h0 : Keeps s0 s) : Keeps s0 (parkColl port p s) := by
  unfold parkColl
  refine ite_of (P := Keeps s0) (fun _ => ?_) (fun _ => ?_)
  · exact h0
  · refine arrive_keeps ?_ ?_
    · exact fun _ h1 => sendSelf_keeps h1
    · exact h0

theorem nodeArrive_keeps {s0 : State} {port : Nat} {kind : Nat} {level : Nat} {pos : Nat} {p : Packet} {f : Group → CollHdr →
    State → State} {s : State} (h0 : ∀ y0, ∀ y1, ∀ y2, Keeps s0 y2 → Keeps s0 (f y0 y1 y2)) (h1 : Keeps s0 s) : Keeps s0 (nodeArrive
    port kind level pos p f s) := by
  unfold nodeArrive
  extract_lets -merge -underBinder +onlyGivenNames x2
  clear_value x2
  extract_lets -merge -underBinder +onlyGivenNames x3
  clear_value x3
  refine ite_of (P := Keeps s0) (fun _ => ?_) (fun _ => ?_)
  · exact parkColl_keeps h1
  · refine collArrive_keeps ?_ ?_
    · refine fun _ _ _ h4 => ?_
      refine ite_of (P := Keeps s0) (fun _ => ?_) (fun _ => ?_)
      · extract_lets -merge -underBinder +onlyGivenNames x5
        have h6 : Keeps s0 x5 := by
          unfold x5
          exact openInst_keeps h4
        clear_value x5
        exact settleInst_keeps (h0 _ _ _ h6)
      · exact h4
    · exact h1

theorem upArrive_keeps {s0 : State} {port : Nat} {kind : Nat} {p : Packet} {f : Group →   CollHdr →     Nat → Nat → Nat → Nat →
    WireBlock → State → State} {s : State} (h0 : ∀ y0, ∀ y1, ∀ y2, ∀ y3, ∀ y4, ∀ y5, ∀ y6, ∀ y7, Keeps s0 y7 → Keeps s0 (f y0 y1 y2 y3
    y4 y5 y6 y7)) (h1 : Keeps s0 s) : Keeps s0 (upArrive port kind p f s) := by
  unfold upArrive
  extract_lets -merge -underBinder +onlyGivenNames x2
  extract_lets -merge -underBinder +onlyGivenNames x3
  refine nodeArrive_keeps ?_ ?_
  · refine fun _ _ _ h4 => ?_
    extract_lets -merge -underBinder +onlyGivenNames x5
    extract_lets -merge -underBinder +onlyGivenNames x6
    have h7 : Keeps s0 x6 := by
      unfold x6
      refine ite_of (P := Keeps s0) (fun _ => ?_) (fun _ => ?_)
      · exact h4
      · exact openBlocks_keeps h4
    clear_value x6
    refine foldl_of (P := Keeps s0) (fun _ _ h8 => ?_) ?_
    · exact h0 _ _ _ _ _ _ _ _ h8
    · exact h7
  · exact h1

theorem execCollUp_keeps {s0 : State} {port : Nat} {p : Packet} {s : State} (h0 : Keeps s0 s) : KO s0 (execCollUp port p s) := by
  unfold execCollUp
  refine ko_next ?_
  refine upArrive_keeps ?_ ?_
  · exact fun _ _ _ _ _ _ _ _ h1 => nodeUp_keeps h1
  · exact h0

theorem execMaxUp_keeps {s0 : State} {port : Nat} {p : Packet} {s : State} (h0 : Keeps s0 s) : KO s0 (execMaxUp port p s) := by
  unfold execMaxUp
  refine ko_next ?_
  refine upArrive_keeps ?_ ?_
  · exact fun _ _ _ _ _ _ _ _ h1 => nodeUp_keeps h1
  · exact h0

theorem execRetryUp_keeps {s0 : State} {port : Nat} {p : Packet} {s : State} (h0 : Keeps s0 s) : KO s0 (execRetryUp port p s) := by
  unfold execRetryUp
  refine ko_next ?_
  refine upArrive_keeps ?_ ?_
  · exact fun _ _ _ _ _ _ _ _ h1 => nodeRetryUp_keeps h1
  · exact h0

theorem execNodeDeadline_keeps {s0 : State} {i : Nat} {s : State} (h0 : Keeps s0 s) : KO s0 (execNodeDeadline i s) := by
  unfold execNodeDeadline
  refine ko_next ?_
  split
  · exact h0
  · split
    · exact h0
    · extract_lets -merge -underBinder +onlyGivenNames x1
      clear_value x1
      refine ite_of (P := Keeps s0) (fun _ => ?_) (fun _ => ?_)
      · exact settleInst_keeps (nodeSend_keeps h0)
      · exact h0

theorem execRetryDeadline_keeps {s0 : State} {i : Nat} {s : State} (h0 : Keeps s0 s) : KO s0 (execRetryDeadline i s) := by
  unfold execRetryDeadline
  refine ko_next ?_
  split
  · exact h0
  · split
    · extract_lets -merge -underBinder +onlyGivenNames x1
      clear_value x1
      extract_lets -merge -underBinder +onlyGivenNames x2
      clear_value x2
      refine ite_of (P := Keeps s0) (fun _ => ?_) (fun _ => ?_)
      · exact settleInst_keeps (rootDeliver_keeps h0)
      · exact h0
    · exact h0

/-! ### Collective -/

theorem progNow_keeps {s0 : State} {c : Cmd} : EK s0 (progNow c : EngM Progress) := by
  unfold progNow
  refine ek_getS (fun _ h0 => ?_)
  exact ek_pure

theorem modColl_keeps {s0 : State} {c : Cmd} {f : CollRun → CollRun} : EK s0 (modColl c f : EngM Unit) := by
  unfold modColl
  refine modS_keeps ?_
  exact fun _ h0 => modProg_keeps h0

theorem joinGroup_keeps {s0 : State} {c : Cmd} {n : Nat} : EK s0 (joinGroup c n : EngM (Group × Nat)) := by
  unfold joinGroup
  refine ek_getS (fun _ h0 => ?_)
  extract_lets -merge -underBinder +onlyGivenNames x1
  split
  · exact stopFault_keeps
  · extract_lets -merge -underBinder +onlyGivenNames x2
    clear_value x2
    refine ek_bind ?_ (fun _ => ?_)
    · refine modS_keeps ?_
      exact fun _ h3 => modGroup_keeps h3
    · refine ek_bind ?_ (fun _ => ?_)
      · exact modColl_keeps
      · exact ek_pure

theorem rankArrive_keeps {s0 : State} {port : Nat} {kind : Nat} {rank : Nat} {p : Packet} {late : CollHdr → State → State} {work :
    Cmd →   Group →     CollHdr → EngM (Option (Option W64 × Option Nat))} {s : State} (h0 : ∀ y0, ∀ y1, Keeps s0 y1 → Keeps s0 (late
    y0 y1)) (h1 : ∀ y0, ∀ y1, ∀ y2, EK s0 (work y0 y1 y2)) (h2 : Keeps s0 s) : Keeps s0 (rankArrive port kind rank p late work s) :=
    by
  unfold rankArrive
  extract_lets -merge -underBinder +onlyGivenNames x3
  clear_value x3
  split
  · exact parkColl_keeps h2
  · refine collArrive_keeps ?_ ?_
    · exact fun _ _ _ h4 => h0 _ _ h4
    · exact h2
  · extract_lets -merge -underBinder +onlyGivenNames x5
    clear_value x5
    split
    · exact askRemote_keeps (parkColl_keeps h2)
    · refine collArrive_keeps ?_ ?_
      · refine fun _ _ _ h6 => ?_
        refine runWatched_keeps ?_ ?_
        · exact h1 _ _ _
        · exact h6
      · exact h2

theorem leafRead_keeps {s0 : State} {r : Red} {idx : Nat} : EK s0 (leafRead r idx : EngM (List FV)) := by
  unfold leafRead
  extract_lets -merge -underBinder +onlyGivenNames x0
  extract_lets -merge -underBinder +onlyGivenNames x1
  refine ek_bind ?_ (fun _ => ?_)
  · exact readV_keeps
  · extract_lets -merge -underBinder +onlyGivenNames x2
    clear_value x2
    refine ek_bind ?_ (fun _ => ?_)
    · exact noteEvs_keeps
    · exact ek_pure

theorem leafBlocks_keeps {s0 : State} : ∀ (r : Red) (codes : Bytes) (idx : Nat) (z3 : Nat), EK s0 (leafBlocks r codes idx z3)
  | p0, p1, p2, 0 => by
    rw [leafBlocks.eq_1]
    exact ek_pure
  | p0, p1, p2, p3 + 1 => by
    rw [leafBlocks.eq_2]
    refine ek_bind ?_ (fun _ => ?_)
    · exact leafRead_keeps
    · refine ek_bind ?_ (fun _ => ?_)
      · exact leafBlocks_keeps _ _ _ _
      · exact ek_pure

theorem deliverBlock_keeps {s0 : State} {c : Cmd} {g : Group} {idx : Nat} {w : WireBlock} : EK s0 (deliverBlock c g idx w : EngM
    Unit) := by
  unfold deliverBlock
  refine ek_bind ?_ (fun _ => ?_)
  · exact progNow_keeps
  · extract_lets -merge -underBinder +onlyGivenNames x0
    clear_value x0
    extract_lets -merge -underBinder +onlyGivenNames x1
    clear_value x1
    refine ite_of (P := EK s0) (fun _ => ?_) (fun _ => ?_)
    · exact ek_pure
    · extract_lets -merge -underBinder +onlyGivenNames x2
      clear_value x2
      extract_lets -merge -underBinder +onlyGivenNames x3
      have h4 : ∀ y0, EK s0 (x3 y0) := by
        unfold x3
        refine fun _ => ?_
        extract_lets -merge -underBinder +onlyGivenNames x5
        have h6 : ∀ y0, EK s0 (x5 y0) := by
          unfold x5
          refine fun _ => ?_
          extract_lets -merge -underBinder +onlyGivenNames x7
          clear_value x7
          extract_lets -merge -underBinder +onlyGivenNames x8
          have h9 : ∀ y0, EK s0 (x8 y0) := by
            unfold x8
            exact fun _ => modColl_keeps
          clear_value x8
          refine ite_of (P := EK s0) (fun _ => ?_) (fun _ => ?_)
          · refine ek_bind ?_ (fun _ => ?_)
            · refine modS_keeps ?_
              exact fun _ h10 => addMissing_keeps h10
            · exact h9 _
          · exact h9 _
        clear_value x5
        refine ite_of (P := EK s0) (fun _ => ?_) (fun _ => ?_)
        · refine ek_bind ?_ (fun _ => ?_)
          · exact writeNat_keeps
          · exact h6 _
        · exact h6 _
      clear_value x3
      refine ite_of (P := EK s0) (fun _ => ?_) (fun _ => ?_)
      · refine ek_bind ?_ (fun _ => ?_)
        · exact writeV_keeps
        · exact h4 _
      · extract_lets -merge -underBinder +onlyGivenNames x11
        extract_lets -merge -underBinder +onlyGivenNames x12
        refine ek_bind ?_ (fun _ => ?_)
        · exact noteEvs_keeps
        · extract_lets -merge -underBinder +onlyGivenNames x13
          have h14 : ∀ y0, EK s0 (x13 y0) := by
            unfold x13
            refine fun _ => ?_
            refine ite_of (P := EK s0) (fun _ => ?_) (fun _ => ?_)
            · refine ek_bind ?_ (fun _ => ?_)
              · exact noteEv_keeps
              · exact h4 _
            · exact h4 _
          clear_value x13
          refine ite_of (P := EK s0) (fun _ => ?_) (fun _ => ?_)
          · refine ek_bind ?_ (fun _ => ?_)
            · exact modColl_keeps
            · exact h14 _
          · refine ek_bind ?_ (fun _ => ?_)
            · exact writeV_keeps
            · exact h14 _

theorem writeScales_keeps {s0 : State} {c : Cmd} {stage : Nat} : EK s0 (writeScales c stage : EngM PUnit) := by
  unfold writeScales
  refine ek_bind ?_ (fun _ => ?_)
  · exact progNow_keeps
  · extract_lets -merge -underBinder +onlyGivenNames x0
    clear_value x0
    refine ek_forM (fun _ => ?_)
    split
    · exact writeV_keeps
    · exact ek_pure

theorem redFinish_keeps {s0 : State} {c : Cmd} : EK s0 (redFinish c : EngM (Option W64 × Option Nat)) := by
  unfold redFinish
  refine ek_bind ?_ (fun _ => ?_)
  · exact progNow_keeps
  · extract_lets -merge -underBinder +onlyGivenNames x0
    clear_value x0
    extract_lets -merge -underBinder +onlyGivenNames x1
    clear_value x1
    extract_lets -merge -underBinder +onlyGivenNames x2
    extract_lets -merge -underBinder +onlyGivenNames x3
    have h4 : ∀ y0, EK s0 (x3 y0) := by
      unfold x3
      refine fun _ => ?_
      refine ek_bind ?_ (fun _ => ?_)
      · refine modS_keeps ?_
        exact fun _ h5 => addMissing_keeps h5
      · refine ek_bind ?_ (fun _ => ?_)
        · exact writeScales_keeps
        · extract_lets -merge -underBinder +onlyGivenNames x6
          have h7 : ∀ y0, EK s0 (x6 y0) := by
            unfold x6
            refine fun _ => ?_
            refine ek_get (fun _ h8 => ?_)
            extract_lets -merge -underBinder +onlyGivenNames x9
            extract_lets -merge -underBinder +onlyGivenNames x10
            extract_lets -merge -underBinder +onlyGivenNames x11
            exact ek_pure
          clear_value x6
          refine ite_of (P := EK s0) (fun _ => ?_) (fun _ => ?_)
          · refine ek_bind ?_ (fun _ => ?_)
            · exact writeScales_keeps
            · exact h7 _
          · exact h7 _
    clear_value x3
    refine ite_of (P := EK s0) (fun _ => ?_) (fun _ => ?_)
    · refine ek_bind ?_ (fun _ => ?_)
      · exact addWarn_keeps
      · exact h4 _
    · exact h4 _

theorem redDone_keeps {s0 : State} {c : Cmd} : EK s0 (redDone c : EngM (Option (Option W64 × Option Nat))) := by
  unfold redDone
  refine ek_bind ?_ (fun _ => ?_)
  · exact progNow_keeps
  · refine ite_of (P := EK s0) (fun _ => ?_) (fun _ => ?_)
    · exact ek_pure
    · refine ite_of (P := EK s0) (fun _ => ?_) (fun _ => ?_)
      · exact ek_pure
      · refine ek_bind ?_ (fun _ => ?_)
        · exact redFinish_keeps
        · exact ek_pure

theorem aloneBlocks_keeps {s0 : State} : ∀ (c : Cmd) (g : Group) (r : Red) (codes : Bytes) (z4 : Nat) (z5 : List WireBlock), EK s0
    (aloneBlocks c g r codes z4 z5)
  | p0, p1, p2, p3, p4, [] => by
    rw [aloneBlocks.eq_1]
    exact ek_pure
  | p0, p1, p2, p3, p4, p5 :: p6 => by
    rw [aloneBlocks.eq_2]
    refine ek_getS (fun _ h0 => ?_)
    extract_lets -merge -underBinder +onlyGivenNames x1
    have h2 : ∀ y0, EK s0 (x1 y0) := by
      unfold x1
      exact fun _ => aloneBlocks_keeps _ _ _ _ _ _
    clear_value x1
    refine ite_of (P := EK s0) (fun _ => ?_) (fun _ => ?_)
    · refine ek_bind ?_ (fun _ => ?_)
      · exact leafRead_keeps
      · extract_lets -merge -underBinder +onlyGivenNames x3
        clear_value x3
        refine ek_bind ?_ (fun _ => ?_)
        · exact deliverBlock_keeps
        · exact h2 _
    · refine ek_bind ?_ (fun _ => ?_)
      · exact deliverBlock_keeps
      · exact h2 _

theorem redSend_keeps {s0 : State} {c : Cmd} {g : Group} {rank : Nat} : EK s0 (redSend c g rank : EngM Unit) := by
  unfold redSend
  refine ek_bind ?_ (fun _ => ?_)
  · exact progNow_keeps
  · extract_lets -merge -underBinder +onlyGivenNames x0
    clear_value x0
    extract_lets -merge -underBinder +onlyGivenNames x1
    have h2 : ∀ y0, EK s0 (x1 y0) := by
      unfold x1
      refine fun _ => ?_
      refine ek_bind ?_ (fun _ => ?_)
      · refine modS_keeps ?_
        exact fun _ h3 => modProg_keeps h3
      · refine ek_bind ?_ (fun _ => ?_)
        · exact leafBlocks_keeps _ _ _ _
        · refine ite_of (P := EK s0) (fun _ => ?_) (fun _ => ?_)
          · exact aloneBlocks_keeps _ _ _ _ _ _
          · extract_lets -merge -underBinder +onlyGivenNames x4
            clear_value x4
            refine modS_keeps ?_
            refine fun _ h5 => ?_
            refine foldl_of (P := Keeps s0) (fun _ _ h6 => ?_) ?_
            · exact sendUp_keeps h6
            · exact h5
    clear_value x1
    refine ite_of (P := EK s0) (fun _ => ?_) (fun _ => ?_)
    · refine ek_bind ?_ (fun _ => ?_)
      · exact ek_pure
      · exact h2 _
    · refine ek_bind ?_ (fun _ => ?_)
      · exact readV_keeps
      · exact h2 _

theorem redStart_keeps {s0 : State} {c : Cmd} : EK s0 (redStart c : EngM (Option (Option W64 × Option Nat))) := by
  unfold redStart
  extract_lets -merge -underBinder +onlyGivenNames x0
  clear_value x0
  extract_lets -merge -underBinder +onlyGivenNames x1
  have h2 : ∀ y0, EK s0 (x1 y0) := by
    unfold x1
    refine fun _ => ?_
    refine ek_bind ?_ (fun _ => ?_)
    · exact joinGroup_keeps
    · refine ek_bind ?_ (fun _ => ?_)
      · exact redSend_keeps
      · exact redDone_keeps
  clear_value x1
  refine ite_of (P := EK s0) (fun _ => ?_) (fun _ => ?_)
  · refine ek_bind ?_ (fun _ => ?_)
    · exact needApart_keeps
    · exact h2 _
  · exact h2 _

theorem collOnce_keeps {s0 : State} {work : Cmd → EngM (Option (Option W64 × Option Nat))} {c : Cmd} {s : State} (h0 : ∀ y0, EK s0
    (work y0)) (h1 : Keeps s0 s) : Keeps s0 (collOnce work c s) := by
  unfold collOnce
  refine ite_of (P := Keeps s0) (fun _ => ?_) (fun _ => ?_)
  · exact h1
  · refine runWatched_keeps ?_ ?_
    · exact h0 _
    · exact h1

theorem execRedTree_keeps {s0 : State} {k : Nat} {s : State} (h0 : Keeps s0 s) : KO s0 (execRedTree k s) := by
  unfold execRedTree
  refine ko_next ?_
  refine runOp_keeps ?_ ?_
  · refine fun _ _ h1 => ?_
    refine collOnce_keeps ?_ ?_
    · exact fun _ => redStart_keeps
    · exact h1
  · exact h0

theorem execRedScale_keeps {s0 : State} {k : Nat} {s : State} (h0 : Keeps s0 s) : KO s0 (execRedScale k s) := by
  unfold execRedScale
  refine ko_next ?_
  refine runOp_keeps ?_ ?_
  · refine fun _ _ h1 => ?_
    refine collOnce_keeps ?_ ?_
    · exact fun _ => redStart_keeps
    · exact h1
  · exact h0

theorem lateWork_keeps {s0 : State} {c : Cmd} {g : Group} : EK s0 (lateWork c g : EngM (Option (Option W64 × Option Nat))) := by
  unfold lateWork
  refine ek_bind ?_ (fun _ => ?_)
  · exact progNow_keeps
  · refine ite_of (P := EK s0) (fun _ => ?_) (fun _ => ?_)
    · refine ek_bind ?_ (fun _ => ?_)
      · exact addWarn_keeps
      · exact ek_pure
    · refine ite_of (P := EK s0) (fun _ => ?_) (fun _ => ?_)
      · refine ek_bind ?_ (fun _ => ?_)
        · exact addWarn_keeps
        · exact ek_pure
      · refine ite_of (P := EK s0) (fun _ => ?_) (fun _ => ?_)
        · refine ek_bind ?_ (fun _ => ?_)
          · exact redFinish_keeps
          · exact ek_pure
        · exact ek_pure

theorem deliverInTime_keeps {s0 : State} {c : Cmd} {g : Group} {work : EngM (Option (Option W64 × Option Nat))} (h0 : EK s0 work)
    : EK s0 (deliverInTime c g work : EngM (Option (Option W64 × Option Nat))) := by
  unfold deliverInTime
  refine ek_getS (fun _ h1 => ?_)
  refine ite_of (P := EK s0) (fun _ => ?_) (fun _ => ?_)
  · exact lateWork_keeps
  · exact h0

theorem downWork_keeps {s0 : State} {p : Packet} {c : Cmd} {g : Group} {h : CollHdr} : EK s0 (downWork p c g h : EngM (Option
    (Option W64 × Option Nat))) := by
  unfold downWork
  refine deliverInTime_keeps ?_
  refine ek_bind ?_ (fun _ => ?_)
  · refine ek_forM (fun _ => ?_)
    exact deliverBlock_keeps
  · exact redDone_keeps

theorem downArrive_keeps {s0 : State} {port : Nat} {kind : Nat} {p : Packet} {s : State} (h0 : Keeps s0 s) : Keeps s0 (downArrive
    port kind p s) := by
  unfold downArrive
  extract_lets -merge -underBinder +onlyGivenNames x1
  clear_value x1
  extract_lets -merge -underBinder +onlyGivenNames x2
  extract_lets -merge -underBinder +onlyGivenNames x3
  refine ite_of (P := Keeps s0) (fun _ => ?_) (fun _ => ?_)
  · refine rankArrive_keeps ?_ ?_ ?_
    · exact fun _ _ h4 => h4
    · exact fun _ _ _ => downWork_keeps
    · exact h0
  · refine nodeArrive_keeps ?_ ?_
    · refine fun _ _ _ h5 => ?_
      refine foldl_of (P := Keeps s0) (fun _ _ h6 => ?_) ?_
      · exact nodeDown_keeps h6
      · exact h5
    · exact h0

theorem execCollDown_keeps {s0 : State} {port : Nat} {p : Packet} {s : State} (h0 : Keeps s0 s) : KO s0 (execCollDown port p s) :=
    by
  unfold execCollDown
  exact ko_next (downArrive_keeps h0)

theorem execMaxDown_keeps {s0 : State} {port : Nat} {p : Packet} {s : State} (h0 : Keeps s0 s) : KO s0 (execMaxDown port p s) := by
  unfold execMaxDown
  exact ko_next (downArrive_keeps h0)

theorem retryWork_keeps {s0 : State} {p : Packet} {c : Cmd} {g : Group} {h : CollHdr} : EK s0 (retryWork p c g h : EngM (Option
    (Option W64 × Option Nat))) := by
  unfold retryWork
  refine ek_bind ?_ (fun _ => ?_)
  · exact progNow_keeps
  · extract_lets -merge -underBinder +onlyGivenNames x0
    clear_value x0
    refine ek_bind ?_ (fun _ => ?_)
    · refine ek_forM (fun _ => ?_)
      refine ite_of (P := EK s0) (fun _ => ?_) (fun _ => ?_)
      · refine ek_bind ?_ (fun _ => ?_)
        · exact leafRead_keeps
        · extract_lets -merge -underBinder +onlyGivenNames x1
          clear_value x1
          refine modS_keeps ?_
          exact fun _ h2 => sendUp_keeps h2
      · exact ek_pure
    · exact ek_pure

theorem execRetryReq_keeps {s0 : State} {port : Nat} {p : Packet} {s : State} (h0 : Keeps s0 s) : KO s0 (execRetryReq port p s) :=
    by
  unfold execRetryReq
  extract_lets -merge -underBinder +onlyGivenNames x1
  clear_value x1
  extract_lets -merge -underBinder +onlyGivenNames x2
  extract_lets -merge -underBinder +onlyGivenNames x3
  refine ko_next ?_
  refine ite_of (P := Keeps s0) (fun _ => ?_) (fun _ => ?_)
  · refine rankArrive_keeps ?_ ?_ ?_
    · exact fun _ _ h4 => h4
    · exact fun _ _ _ => retryWork_keeps
    · exact h0
  · refine nodeArrive_keeps ?_ ?_
    · refine fun _ _ _ h5 => ?_
      refine foldl_of (P := Keeps s0) (fun _ _ h6 => ?_) ?_
      · exact nodeRetryReq_keeps h6
      · exact h5
    · exact h0

theorem agStart_keeps {s0 : State} {c : Cmd} : EK s0 (agStart c : EngM (Option (Option W64 × Option Nat))) := by
  unfold agStart
  refine ek_bind ?_ (fun _ => ?_)
  · exact joinGroup_keeps
  · refine ek_bind ?_ (fun _ => ?_)
    · exact readV_keeps
    · refine ek_bind ?_ (fun _ => ?_)
      · exact writeV_keeps
      · refine ek_bind ?_ (fun _ => ?_)
        · exact modColl_keeps
        · refine ek_bind ?_ (fun _ => ?_)
          · exact progNow_keeps
          · refine ite_of (P := EK s0) (fun _ => ?_) (fun _ => ?_)
            · exact ek_pure
            · extract_lets -merge -underBinder +onlyGivenNames x0
              clear_value x0
              refine ek_bind ?_ (fun _ => ?_)
              · refine modS_keeps ?_
                refine fun _ h1 => ?_
                refine foldl_of (P := Keeps s0) (fun _ _ h2 => ?_) ?_
                · exact sendUp_keeps h2
                · exact h1
              · exact ek_pure

theorem agWork_keeps {s0 : State} {pk : Packet} {c : Cmd} {g : Group} {h : CollHdr} : EK s0 (agWork pk c g h : EngM (Option
    (Option W64 × Option Nat))) := by
  unfold agWork
  refine deliverInTime_keeps ?_
  refine ek_bind ?_ (fun _ => ?_)
  · exact progNow_keeps
  · extract_lets -merge -underBinder +onlyGivenNames x0
    extract_lets -merge -underBinder +onlyGivenNames x1
    clear_value x1
    refine ite_of (P := EK s0) (fun _ => ?_) (fun _ => ?_)
    · exact ek_pure
    · extract_lets -merge -underBinder +onlyGivenNames x2
      extract_lets -merge -underBinder +onlyGivenNames x3
      extract_lets -merge -underBinder +onlyGivenNames x4
      extract_lets -merge -underBinder +onlyGivenNames x5
      refine ite_of (P := EK s0) (fun _ => ?_) (fun _ => ?_)
      · refine ek_bind ?_ (fun _ => ?_)
        · exact writeV_keeps
        · refine ek_bind ?_ (fun _ => ?_)
          · exact modColl_keeps
          · refine ek_bind ?_ (fun _ => ?_)
            · exact progNow_keeps
            · exact ek_pure
      · refine ek_bind ?_ (fun _ => ?_)
        · exact modColl_keeps
        · exact ek_pure

theorem execAllgatherLayer_keeps {s0 : State} {k : Nat} {s : State} (h0 : Keeps s0 s) : KO s0 (execAllgatherLayer k s) := by
  unfold execAllgatherLayer
  refine ko_next ?_
  refine runOp_keeps ?_ ?_
  · refine fun _ _ h1 => ?_
    refine collOnce_keeps ?_ ?_
    · exact fun _ => agStart_keeps
    · exact h1
  · exact h0

theorem bcStart_keeps {s0 : State} {c : Cmd} : EK s0 (bcStart c : EngM (Option (Option W64 × Option Nat))) := by
  unfold bcStart
  refine ek_bind ?_ (fun _ => ?_)
  · exact joinGroup_keeps
  · extract_lets -merge -underBinder +onlyGivenNames x0
    have h1 : ∀ y0, EK s0 (x0 y0) := by
      unfold x0
      refine fun _ => ?_
      refine ite_of (P := EK s0) (fun _ => ?_) (fun _ => ?_)
      · exact ek_pure
      · refine ek_bind ?_ (fun _ => ?_)
        · exact readV_keeps
        · refine ite_of (P := EK s0) (fun _ => ?_) (fun _ => ?_)
          · refine ek_bind ?_ (fun _ => ?_)
            · exact writeV_keeps
            · exact ek_pure
          · refine ek_bind ?_ (fun _ => ?_)
            · exact progNow_keeps
            · extract_lets -merge -underBinder +onlyGivenNames x2
              clear_value x2
              refine ek_bind ?_ (fun _ => ?_)
              · refine modS_keeps ?_
                refine fun _ h3 => ?_
                refine foldl_of (P := Keeps s0) (fun _ _ h4 => ?_) ?_
                · exact sendUp_keeps h4
                · exact h3
              · exact ek_pure
    clear_value x0
    refine ite_of (P := EK s0) (fun _ => ?_) (fun _ => ?_)
    · refine ek_bind ?_ (fun _ => ?_)
      · exact ek_throw
      · exact h1 _
    · exact h1 _

theorem bcWork_keeps {s0 : State} {pk : Packet} {c : Cmd} {g : Group} {h : CollHdr} : EK s0 (bcWork pk c g h : EngM (Option
    (Option W64 × Option Nat))) := by
  unfold bcWork
  refine deliverInTime_keeps ?_
  extract_lets -merge -underBinder +onlyGivenNames x0
  clear_value x0
  refine ek_bind ?_ (fun _ => ?_)
  · refine ek_forM (fun _ => ?_)
    refine ek_bind ?_ (fun _ => ?_)
    · exact progNow_keeps
    · extract_lets -merge -underBinder +onlyGivenNames x1
      refine ite_of (P := EK s0) (fun _ => ?_) (fun _ => ?_)
      · refine ek_bind ?_ (fun _ => ?_)
        · exact writeV_keeps
        · exact modColl_keeps
      · exact ek_pure
  · refine ek_bind ?_ (fun _ => ?_)
    · exact progNow_keeps
    · exact ek_pure

theorem execBcast_keeps {s0 : State} {k : Nat} {s : State} (h0 : Keeps s0 s) : KO s0 (execBcast k s) := by
  unfold execBcast
  refine ko_next ?_
  refine runOp_keeps ?_ ?_
  · refine fun _ _ h1 => ?_
    refine collOnce_keeps ?_ ?_
    · exact fun _ => bcStart_keeps
    · exact h1
  · exact h0

theorem passPiece_keeps {s0 : State} {h : CollHdr} {level : Nat} {pos : Nat} {off : Nat} {s : State} (h0 : Keeps s0 s) : Keeps s0
    (passPiece h level pos off s) := by
  unfold passPiece
  extract_lets -merge -underBinder +onlyGivenNames x1
  refine keeps_mk ?_ (Nat.le_refl _) rfl (fun h => h) (fun h => h)
  exact h0

theorem nodeData_keeps {s0 : State} {g : Group} {h : CollHdr} {level : Nat} {pos : Nat} {side : Nat} {p : Packet} {s : State} (h0
    : Keeps s0 s) : Keeps s0 (nodeData g h level pos side p s) := by
  unfold nodeData
  extract_lets -merge -underBinder +onlyGivenNames x1
  clear_value x1
  extract_lets -merge -underBinder +onlyGivenNames x2
  extract_lets -merge -underBinder +onlyGivenNames x3
  clear_value x3
  extract_lets -merge -underBinder +onlyGivenNames x4
  clear_value x4
  refine ite_of (P := Keeps s0) (fun _ => ?_) (fun _ => ?_)
  · refine ite_of (P := Keeps s0) (fun _ => ?_) (fun _ => ?_)
    · exact passPiece_keeps (sendDown_keeps h0)
    · exact sendUp_keeps h0
  · refine ite_of (P := Keeps s0) (fun _ => ?_) (fun _ => ?_)
    · exact lateOnce_keeps h0
    · extract_lets -merge -underBinder +onlyGivenNames x5
      have h6 : Keeps s0 x5 := by
        unfold x5
        refine ite_of (P := Keeps s0) (fun _ => ?_) (fun _ => ?_)
        · exact h0
        · exact sendUp_keeps h0
      clear_value x5
      exact passPiece_keeps (sendDown_keeps h6)

theorem execDataUp_keeps {s0 : State} {port : Nat} {p : Packet} {s : State} (h0 : Keeps s0 s) : KO s0 (execDataUp port p s) := by
  unfold execDataUp
  extract_lets -merge -underBinder +onlyGivenNames x1
  extract_lets -merge -underBinder +onlyGivenNames x2
  refine ko_next ?_
  refine nodeArrive_keeps ?_ ?_
  · exact fun _ _ _ h3 => nodeData_keeps h3
  · exact h0

theorem execDataDown_keeps {s0 : State} {port : Nat} {p : Packet} {s : State} (h0 : Keeps s0 s) : KO s0 (execDataDown port p s) :=
    by
  unfold execDataDown
  dsimp only
  refine ko_next (ite_of (P := Keeps s0) (fun _ => ?_) (fun _ => ?_))
  · refine rankArrive_keeps (fun _ _ h => h) (fun _ _ _ => ?_) h0
    split
    · exact bcWork_keeps
    · exact agWork_keeps
  · exact nodeArrive_keeps (fun _ _ _ h => passPiece_keeps (sendDown_keeps h)) h0

theorem execDeliveryDeadline_keeps {s0 : State} {k : Nat} {s : State} (h0 : Keeps s0 s) : KO s0 (execDeliveryDeadline k s) := by
  unfold execDeliveryDeadline
  refine ko_next ?_
  split
  · exact h0
  · split
    · exact h0
    · refine ite_of (P := Keeps s0) (fun _ => ?_) (fun _ => ?_)
      · refine runPart_keeps ?_ ?_
        · exact lateWork_keeps
        · exact h0
      · exact h0

theorem leWork_keeps {s0 : State} {c : Cmd} {s : State} (h0 : Keeps s0 s) : Keeps s0 (leWork c s) := by
  unfold leWork
  extract_lets -merge -underBinder +onlyGivenNames x1
  extract_lets -merge -underBinder +onlyGivenNames x2
  clear_value x2
  split
  · exact faultCmd_keeps h0
  · extract_lets -merge -underBinder +onlyGivenNames x3
    clear_value x3
    extract_lets -merge -underBinder +onlyGivenNames x4
    have h5 : Keeps s0 x4 := by
      unfold x4
      refine foldl_of (P := Keeps s0) (fun _ _ h6 => ?_) ?_
      · exact modGroup_keeps h6
      · exact h0
    clear_value x4
    exact finishCmd_keeps h5

theorem execLayoutEpoch_keeps {s0 : State} {k : Nat} {s : State} (h0 : Keeps s0 s) : KO s0 (execLayoutEpoch k s) := by
  unfold execLayoutEpoch
  refine ko_next ?_
  refine runOp_keeps ?_ ?_
  · refine fun _ _ h1 => ?_
    refine ite_of (P := Keeps s0) (fun _ => ?_) (fun _ => ?_)
    · exact leWork_keeps h1
    · exact h1
  · exact h0

/-! ### Lowrank -/

theorem read32_keeps {s0 : State} {va : Nat} {n : Nat} : EK s0 (read32 va n : EngM (List Nat)) := by
  unfold read32
  refine ek_bind ?_ (fun _ => ?_)
  · exact readV_keeps
  · exact ek_pure

theorem write32_keeps {s0 : State} {va : Nat} {xs : List Nat} : EK s0 (write32 va xs : EngM Unit) := by
  unfold write32
  exact writeV_keeps

theorem lrOp_keeps {s0 : State} {el : Nat} {r : Nat × Ev} : EK s0 (lrOp el r : EngM Nat) := by
  unfold lrOp
  refine ek_bind ?_ (fun _ => ?_)
  · exact noteEv_keeps
  · exact ek_pure

theorem lrZip_keeps {s0 : State} : ∀ (f : FV → FV → Nat × Ev) (n : Nat) (xs : List Nat) (ys : List Nat), EK s0 (lrZip f n xs ys)
  | _, _, _ :: _, _ :: _ => by
    rw [lrZip.eq_1]
    exact ek_bind lrOp_keeps (fun _ => ek_bind (lrZip_keeps _ _ _ _) (fun _ => ek_pure))
  | _, _, [], _ => by
    rw [lrZip.eq_2 _ _ _ _ (by simp)]
    exact ek_pure
  | _, _, _ :: _, [] => by
    rw [lrZip.eq_2 _ _ _ _ (by simp)]
    exact ek_pure

theorem lrAdd_keeps {s0 : State} {c : Cmd} {rm : RM} {n : Nat} : EK s0 (lrAdd c rm n : EngM Unit) := by
  unfold lrAdd
  extract_lets -merge -underBinder +onlyGivenNames x0
  refine ek_bind ?_ (fun _ => ?_)
  · exact read32_keeps
  · refine ek_bind ?_ (fun _ => ?_)
    · exact read32_keeps
    · refine ek_bind ?_ (fun _ => ?_)
      · exact lrZip_keeps _ _ _ _
      · exact write32_keeps

theorem lrConv_keeps {s0 : State} : ∀ (c : Cmd) (z1 : Nat) (z2 : List Nat), EK s0 (lrConv c z1 z2)
  | p0, p1, [] => by
    rw [lrConv.eq_1]
    exact ek_pure
  | p0, p1, p2 :: p3 => by
    rw [lrConv.eq_2]
    refine ite_of (P := EK s0) (fun _ => ?_) (fun _ => ?_)
    · refine ek_bind ?_ (fun _ => ?_)
      · exact ek_pure
      · refine ek_bind ?_ (fun _ => ?_)
        · exact lrConv_keeps _ _ _
        · exact ek_pure
    · refine ek_bind ?_ (fun _ => ?_)
      · exact lrOp_keeps
      · refine ek_bind ?_ (fun _ => ?_)
        · exact lrConv_keeps _ _ _
        · exact ek_pure

theorem lrColumn_keeps {s0 : State} {c : Cmd} {keep : Bool} {tile : Nat} {r : Nat} {n : Nat} : EK s0 (lrColumn c keep tile r n :
    EngM BankCol) := by
  unfold lrColumn
  extract_lets -merge -underBinder +onlyGivenNames x0
  refine ek_bind ?_ (fun _ => ?_)
  · exact read32_keeps
  · refine ek_bind ?_ (fun _ => ?_)
    · exact lrConv_keeps _ _ _
    · extract_lets -merge -underBinder +onlyGivenNames x1
      clear_value x1
      refine ek_bind ?_ (fun _ => ?_)
      · exact noteEvsAt_keeps
      · exact ek_pure

theorem lrColumns_keeps {s0 : State} : ∀ (c : Cmd) (keep : Bool) (tile : Nat) (r : Nat) (z4 : Nat) (z5 : Nat), EK s0 (lrColumns c
    keep tile r z4 z5)
  | p0, p1, p2, p3, 0, p4 => by
    rw [lrColumns.eq_1]
    exact ek_pure
  | p0, p1, p2, p3, p5 + 1, p4 => by
    rw [lrColumns.eq_2]
    refine ek_bind ?_ (fun _ => ?_)
    · exact lrColumn_keeps
    · refine ek_bind ?_ (fun _ => ?_)
      · exact lrColumns_keeps _ _ _ _ _ _
      · exact ek_pure

theorem lrTileLoad_keeps {s0 : State} {c : Cmd} {strict : Bool} {keep : Bool} {i : Nat} : EK s0 (lrTileLoad c strict keep i : EngM
    Unit) := by
  unfold lrTileLoad
  extract_lets -merge -underBinder +onlyGivenNames x0
  extract_lets -merge -underBinder +onlyGivenNames x1
  extract_lets -merge -underBinder +onlyGivenNames x2
  extract_lets -merge -underBinder +onlyGivenNames x3
  have h4 : ∀ y0, EK s0 (x3 y0) := by
    unfold x3
    refine fun _ => ?_
    refine modS_keeps ?_
    exact fun _ h5 => modLoaded_keeps h5
  clear_value x3
  refine ite_of (P := EK s0) (fun _ => ?_) (fun _ => ?_)
  · refine ek_bind ?_ (fun _ => ?_)
    · exact ek_pure
    · exact h4 _
  · refine ek_bind ?_ (fun _ => ?_)
    · exact lrColumns_keeps _ _ _ _ _ _
    · exact h4 _

theorem lrResident_keeps {s0 : State} {c : Cmd} : EK s0 (lrResident c : EngM Unit) := by
  unfold lrResident
  refine ek_bind ?_ (fun _ => ?_)
  · exact getMode_keeps
  · refine ek_bind ?_ (fun _ => ?_)
    · refine ek_forM (fun _ => ?_)
      exact lrTileLoad_keeps
    · refine modS_keeps ?_
      refine fun _ h0 => ?_
      refine foldl_of (P := Keeps s0) (fun _ _ h1 => ?_) ?_
      · exact swapTile_keeps h1
      · exact h0

theorem lrVector_keeps {s0 : State} {c : Cmd} {r : Cmd} {kind : RunKind} {src : Nat} {len : Nat} {m : Nat} : EK s0 (lrVector c r
    kind src len m : EngM Unit) := by
  unfold lrVector
  refine ek_bind ?_ (fun _ => ?_)
  · exact read32_keeps
  · refine ek_bind ?_ (fun _ => ?_)
    · exact lrConv_keeps _ _ _
    · extract_lets -merge -underBinder +onlyGivenNames x0
      clear_value x0
      refine ek_getS (fun _ h1 => ?_)
      extract_lets -merge -underBinder +onlyGivenNames x2
      clear_value x2
      refine ite_of (P := EK s0) (fun _ => ?_) (fun _ => ?_)
      · exact strictVector_keeps
      · split
        · exact forwardVector_keeps
        · exact transposedVector_keeps
        · exact ek_pure

theorem lrPasses_keeps {s0 : State} : ∀ (c : Cmd) (r : Cmd) (kind : RunKind) (src : Nat) (len : Nat) (z5 : Nat), EK s0 (lrPasses c
    r kind src len z5)
  | p0, p1, p2, p3, p4, 0 => by
    rw [lrPasses.eq_1]
    exact ek_pure
  | p0, p1, p2, p3, p4, p5 + 1 => by
    rw [lrPasses.eq_2]
    refine ek_bind ?_ (fun _ => ?_)
    · exact progNow_keeps
    · refine ek_getS (fun _ h0 => ?_)
      refine ek_get (fun _ h1 => ?_)
      refine ite_of (P := EK s0) (fun _ => ?_) (fun _ => ?_)
      · exact ek_pure
      · refine ite_of (P := EK s0) (fun _ => ?_) (fun _ => ?_)
        · exact ek_pure
        · refine ek_bind ?_ (fun _ => ?_)
          · refine modS_keeps ?_
            refine fun _ h2 => ?_
            refine foldl_of (P := Keeps s0) (fun _ _ h3 => ?_) ?_
            · exact takeCredit_keeps h3
            · exact h2
          · refine ek_bind ?_ (fun _ => ?_)
            · exact lrVector_keeps
            · refine ek_bind ?_ (fun _ => ?_)
              · refine modS_keeps ?_
                exact fun _ h4 => modProg_keeps h4
              · exact lrPasses_keeps _ _ _ _ _ _

theorem lrAt_keeps {s0 : State} {c : Cmd} {n : Nat} : EK s0 (lrAt c n : EngM Unit) := by
  unfold lrAt
  refine modS_keeps ?_
  exact fun _ h0 => modProg_keeps h0

theorem lrDot_keeps {s0 : State} {el : Nat} {rm : RM} {xs : List Nat} {ys : List Nat} : EK s0 (lrDot el rm xs ys : EngM Nat) := by
  unfold lrDot
  refine ek_bind ?_ (fun _ => ?_)
  · exact lrZip_keeps _ _ _ _
  · exact lrOp_keeps

theorem lrOrth_keeps {s0 : State} : ∀ (el : Nat) (rm : RM) (z2 : List (List Nat)) (z3 : List Nat), EK s0 (lrOrth el rm z2 z3)
  | p0, p1, [], p2 => by
    rw [lrOrth.eq_1]
    exact ek_pure
  | p0, p1, p3 :: p4, p2 => by
    rw [lrOrth.eq_2]
    refine ek_bind ?_ (fun _ => ?_)
    · exact lrDot_keeps
    · refine ek_bind ?_ (fun _ => ?_)
      · exact lrZip_keeps _ _ _ _
      · refine ek_bind ?_ (fun _ => ?_)
        · exact lrZip_keeps _ _ _ _
        · exact lrOrth_keeps _ _ _ _

theorem lrUnit_keeps {s0 : State} {el : Nat} {rm : RM} {p : List Nat} : EK s0 (lrUnit el rm p : EngM (List Nat)) := by
  unfold lrUnit
  refine ek_bind ?_ (fun _ => ?_)
  · exact lrDot_keeps
  · refine ite_of (P := EK s0) (fun _ => ?_) (fun _ => ?_)
    · exact ek_pure
    · refine ek_bind ?_ (fun _ => ?_)
      · exact lrOp_keeps
      · exact lrZip_keeps _ _ _ _

theorem lrSchmidt_keeps {s0 : State} : ∀ (n : Nat) (rm : RM) (z2 : List (List Nat)) (z3 : List (List Nat)), EK s0 (lrSchmidt n rm
    z2 z3)
  | p0, p1, p2, [] => by
    rw [lrSchmidt.eq_1]
    exact ek_pure
  | p0, p1, p2, p3 :: p4 => by
    rw [lrSchmidt.eq_2]
    refine ek_bind ?_ (fun _ => ?_)
    · exact lrOrth_keeps _ _ _ _
    · refine ek_bind ?_ (fun _ => ?_)
      · exact lrUnit_keeps
      · exact lrSchmidt_keeps _ _ _ _

theorem lrFma_keeps {s0 : State} : ∀ (el : Nat) (rm : RM) (neg : Bool) (z3 : List (Nat × Nat)) (z4 : Nat), EK s0 (lrFma el rm neg
    z3 z4)
  | p0, p1, p2, [], p3 => by
    rw [lrFma.eq_1]
    exact ek_pure
  | p0, p1, p2, p4 :: p5, p3 => by
    rw [lrFma.eq_2]
    refine ek_bind ?_ (fun _ => ?_)
    · exact lrOp_keeps
    · exact lrFma_keeps _ _ _ _ _

theorem lrRow_keeps {s0 : State} : ∀ (el : Nat) (rm : RM) (neg : Bool) (p : List Nat) (z4 : List (Nat × List Nat)), EK s0 (lrRow
    el rm neg p z4)
  | p0, p1, p2, p3, [] => by
    rw [lrRow.eq_1]
    exact ek_pure
  | p0, p1, p2, p3, p4 :: p5 => by
    rw [lrRow.eq_2]
    refine ek_bind ?_ (fun _ => ?_)
    · exact lrFma_keeps _ _ _ _ _
    · refine ek_bind ?_ (fun _ => ?_)
      · exact lrRow_keeps _ _ _ _ _
      · exact ek_pure

theorem lrFinal_keeps {s0 : State} {c : Cmd} {rm : RM} {ps : List (List Nat)} {ql : List (List Nat)} {q : List (List Nat)} {n :
    Nat} : EK s0 (lrFinal c rm ps ql q n : EngM Unit) := by
  unfold lrFinal
  extract_lets -merge -underBinder +onlyGivenNames x0
  refine ek_bind ?_ (fun _ => ?_)
  · exact read32_keeps
  · extract_lets -merge -underBinder +onlyGivenNames x1
    clear_value x1
    extract_lets -merge -underBinder +onlyGivenNames x2
    clear_value x2
    refine ek_bind ?_ (fun _ => ?_)
    · exact lrRow_keeps _ _ _ _ _
    · refine ek_bind ?_ (fun _ => ?_)
      · exact lrRow_keeps _ _ _ _ _
      · refine ek_bind ?_ (fun _ => ?_)
        · exact write32_keeps
        · exact write32_keeps

theorem lrCols_keeps {s0 : State} {va : Nat} {n : Nat} {r : Nat} : EK s0 (lrCols va n r : EngM (List (List Nat))) := by
  unfold lrCols
  refine ek_bind ?_ (fun _ => ?_)
  · exact read32_keeps
  · exact ek_pure

theorem lrSingle_keeps {s0 : State} {c : Cmd} : EK s0 (lrSingle c : EngM (Option (Option W64 × Option Nat))) := by
  unfold lrSingle
  refine ek_bind ?_ (fun _ => ?_)
  · exact joinGroup_keeps
  · refine ek_bind ?_ (fun _ => ?_)
    · exact redSend_keeps
    · exact redDone_keeps

theorem lrFirst_keeps {s0 : State} {c : Cmd} : EK s0 (lrFirst c : EngM (Option (Option W64 × Option Nat))) := by
  unfold lrFirst
  refine ek_bind ?_ (fun _ => ?_)
  · exact getMode_keeps
  · refine ek_bind ?_ (fun _ => ?_)
    · exact joinGroup_keeps
    · refine ek_bind ?_ (fun _ => ?_)
      · refine ek_forM (fun _ => ?_)
        exact lrAdd_keeps
      · refine ek_bind ?_ (fun _ => ?_)
        · exact lrResident_keeps
        · refine ek_bind ?_ (fun _ => ?_)
          · exact lrAt_keeps
          · exact ek_pure

theorem lrForward_keeps {s0 : State} {c : Cmd} {g : Group} : EK s0 (lrForward c g : EngM (Option (Option W64 × Option Nat))) := by
  unfold lrForward
  refine ek_bind ?_ (fun _ => ?_)
  · exact lrPasses_keeps _ _ _ _ _ _
  · extract_lets -merge -underBinder +onlyGivenNames x0
    have h1 : ∀ y0, EK s0 (x0 y0) := by
      unfold x0
      exact fun _ => ek_pure
    clear_value x0
    refine ite_of (P := EK s0) (fun _ => ?_) (fun _ => ?_)
    · refine ek_bind ?_ (fun _ => ?_)
      · exact lrAt_keeps
      · refine ek_bind ?_ (fun _ => ?_)
        · exact progNow_keeps
        · refine ek_bind ?_ (fun _ => ?_)
          · exact redSend_keeps
          · exact h1 _
    · exact h1 _

theorem lrSecond_keeps {s0 : State} {c : Cmd} : EK s0 (lrSecond c : EngM (Option (Option W64 × Option Nat))) := by
  unfold lrSecond
  refine ek_bind ?_ (fun _ => ?_)
  · exact getMode_keeps
  · refine ek_bind ?_ (fun _ => ?_)
    · exact lrCols_keeps
    · refine ek_bind ?_ (fun _ => ?_)
      · exact lrSchmidt_keeps _ _ _ _
      · refine ek_bind ?_ (fun _ => ?_)
        · exact write32_keeps
        · refine ek_bind ?_ (fun _ => ?_)
          · exact lrAt_keeps
          · exact ek_pure

theorem lrBackward_keeps {s0 : State} {c : Cmd} {g : Group} : EK s0 (lrBackward c g : EngM (Option (Option W64 × Option Nat))) := by
  unfold lrBackward
  refine ek_bind ?_ (fun _ => ?_)
  · exact lrPasses_keeps _ _ _ _ _ _
  · extract_lets -merge -underBinder +onlyGivenNames x0
    have h1 : ∀ y0, EK s0 (x0 y0) := by
      unfold x0
      exact fun _ => ek_pure
    clear_value x0
    refine ite_of (P := EK s0) (fun _ => ?_) (fun _ => ?_)
    · refine ek_bind ?_ (fun _ => ?_)
      · exact lrAt_keeps
      · refine ek_bind ?_ (fun _ => ?_)
        · exact modColl_keeps
        · refine ek_bind ?_ (fun _ => ?_)
          · exact progNow_keeps
          · refine ek_bind ?_ (fun _ => ?_)
            · exact redSend_keeps
            · exact h1 _
    · exact h1 _

theorem lrThird_keeps {s0 : State} {c : Cmd} : EK s0 (lrThird c : EngM (Option (Option W64 × Option Nat))) := by
  unfold lrThird
  refine ek_bind ?_ (fun _ => ?_)
  · exact getMode_keeps
  · refine ek_bind ?_ (fun _ => ?_)
    · exact progNow_keeps
    · extract_lets -merge -underBinder +onlyGivenNames x0
      clear_value x0
      refine ek_bind ?_ (fun _ => ?_)
      · exact write32_keeps
      · refine ek_bind ?_ (fun _ => ?_)
        · exact lrCols_keeps
        · refine ek_bind ?_ (fun _ => ?_)
          · exact lrCols_keeps
          · refine ek_bind ?_ (fun _ => ?_)
            · refine ek_forM (fun _ => ?_)
              exact lrFinal_keeps
            · refine ek_bind ?_ (fun _ => ?_)
              · exact redFinish_keeps
              · exact ek_pure

theorem lrNext_keeps {s0 : State} {c : Cmd} {g : Group} : EK s0 (lrNext c g : EngM (Option (Option W64 × Option Nat))) := by
  unfold lrNext
  refine ek_bind ?_ (fun _ => ?_)
  · exact progNow_keeps
  · refine ite_of (P := EK s0) (fun _ => ?_) (fun _ => ?_)
    · refine ite_of (P := EK s0) (fun _ => ?_) (fun _ => ?_)
      · exact ek_pure
      · exact lrSingle_keeps
    · refine ite_of (P := EK s0) (fun _ => ?_) (fun _ => ?_)
      · exact lrForward_keeps
      · refine ite_of (P := EK s0) (fun _ => ?_) (fun _ => ?_)
        · exact lrBackward_keeps
        · refine ite_of (P := EK s0) (fun _ => ?_) (fun _ => ?_)
          · exact lrFirst_keeps
          · refine ite_of (P := EK s0) (fun _ => ?_) (fun _ => ?_)
            · exact ek_pure
            · refine ite_of (P := EK s0) (fun _ => ?_) (fun _ => ?_)
              · exact lrSecond_keeps
              · exact lrThird_keeps

theorem lrStep_keeps {s0 : State} {k : Nat} {s : State} (h0 : Keeps s0 s) : Keeps s0 (lrStep k s) := by
  unfold lrStep
  split
  · exact h0
  · refine ite_of (P := Keeps s0) (fun _ => ?_) (fun _ => ?_)
    · exact h0
    · split
      · exact faultCmd_keeps h0
      · extract_lets -merge -underBinder +onlyGivenNames x1
        clear_value x1
        split
        · exact faultCmd_keeps h0
        · extract_lets -merge -underBinder +onlyGivenNames x2
          clear_value x2
          refine ite_of (P := Keeps s0) (fun _ => ?_) (fun _ => ?_)
          · refine runWatched_keeps ?_ ?_
            · exact lrNext_keeps
            · exact h0
          · exact h0

theorem execRedLowrank_keeps {s0 : State} {k : Nat} {s : State} (h0 : Keeps s0 s) : KO s0 (execRedLowrank k s) := by
  unfold execRedLowrank
  refine ko_next ?_
  refine runOp_keeps ?_ ?_
  · refine fun _ _ h1 => ?_
    refine repeatWork_keeps _ _ _ ?_ ?_
    · exact fun _ h2 => lrStep_keeps h2
    · exact h1
  · exact h0

/-! ### Exchange -/

theorem xcTables_keeps {s0 : State} {c : Cmd} : EK s0 (xcTables c : EngM (List Expert × List Nat)) := by
  unfold xcTables
  refine ek_bind ?_ (fun _ => ?_)
  · exact readV_keeps
  · refine ek_bind ?_ (fun _ => ?_)
    · exact readV_keeps
    · extract_lets -merge -underBinder +onlyGivenNames x0
      clear_value x0
      extract_lets -merge -underBinder +onlyGivenNames x1
      clear_value x1
      extract_lets -merge -underBinder +onlyGivenNames x2
      have h3 : ∀ y0, EK s0 (x2 y0) := by
        unfold x2
        exact fun _ => ek_pure
      clear_value x2
      refine ite_of (P := EK s0) (fun _ => ?_) (fun _ => ?_)
      · refine ek_bind ?_ (fun _ => ?_)
        · exact ek_throw
        · exact h3 _
      · exact h3 _

theorem sendRow_keeps {s0 : State} {g : Group} {h : CollHdr} {dst : Nat} {src : Nat} {pair : Nat} {row : Bytes} {s : State} (h0 :
    Keeps s0 s) : Keeps s0 (sendRow g h dst src pair row s) := by
  unfold sendRow
  extract_lets -merge -underBinder +onlyGivenNames x1
  clear_value x1
  refine foldl_of (P := Keeps s0) (fun _ _ h2 => ?_) ?_
  · exact collSend_keeps h2
  · exact h0

theorem sendEnds_keeps {s0 : State} {c : Cmd} {g : Group} {q : CollRun} : EK s0 (sendEnds c g q : EngM Unit) := by
  unfold sendEnds
  refine modS_keeps ?_
  refine fun _ h0 => ?_
  refine foldl_of (P := Keeps s0) (fun _ _ h1 => ?_) ?_
  · exact collSend_keeps h1
  · exact h0

theorem writeStats_keeps {s0 : State} {c : Cmd} {routes : List Nat} {acc : List Bool} {late : List Nat} : EK s0 (writeStats c
    routes acc late : EngM PUnit) := by
  unfold writeStats
  refine ek_forM (fun _ => ?_)
  extract_lets -merge -underBinder +onlyGivenNames x0
  extract_lets -merge -underBinder +onlyGivenNames x1
  exact writeV_keeps

theorem xcSend_keeps {s0 : State} : ∀ (c : Cmd) (g : Group) (es : List Expert) (row : Nat → Nat) (z4 : List (Nat × Nat × Option
    Nat)), EK s0 (xcSend c g es row z4)
  | p0, p1, p2, p3, [] => by
    rw [xcSend.eq_1]
    exact ek_pure
  | p0, p1, p2, p3, (p4, p5, none) :: p6 => by
    rw [xcSend.eq_2]
    exact xcSend_keeps _ _ _ _ _
  | p0, p1, p2, p3, (p4, p5, some p7) :: p6 => by
    rw [xcSend.eq_3]
    refine ek_bind ?_ (fun _ => ?_)
    · exact progNow_keeps
    · extract_lets -merge -underBinder +onlyGivenNames x0
      clear_value x0
      extract_lets -merge -underBinder +onlyGivenNames x1
      have h2 : ∀ y0, EK s0 (x1 y0) := by
        unfold x1
        refine fun _ => ?_
        refine ek_bind ?_ (fun _ => ?_)
        · exact readV_keeps
        · refine ek_bind ?_ (fun _ => ?_)
          · refine modS_keeps ?_
            exact fun _ h3 => sendRow_keeps h3
          · exact xcSend_keeps _ _ _ _ _
      clear_value x1
      refine ite_of (P := EK s0) (fun _ => ?_) (fun _ => ?_)
      · refine ek_bind ?_ (fun _ => ?_)
        · exact ek_throw
        · exact h2 _
      · exact h2 _

theorem homeEnd_keeps {s0 : State} {c : Cmd} : EK s0 (homeEnd c : EngM (Option (Option W64 × Option Nat))) := by
  unfold homeEnd
  refine ek_bind ?_ (fun _ => ?_)
  · exact progNow_keeps
  · refine ek_bind ?_ (fun _ => ?_)
    · exact readV_keeps
    · extract_lets -merge -underBinder +onlyGivenNames x0
      clear_value x0
      refine ek_bind ?_ (fun _ => ?_)
      · refine ek_forM (fun _ => ?_)
        refine ite_of (P := EK s0) (fun _ => ?_) (fun _ => ?_)
        · refine ek_bind ?_ (fun _ => ?_)
          · exact writeV_keeps
          · exact writeV_keeps
        · exact ek_pure
      · exact ek_pure

theorem dispatchStart_keeps {s0 : State} {c : Cmd} {g : Group} {bwd : Bool} : EK s0 (dispatchStart c g bwd : EngM (Option (Option
    W64 × Option Nat))) := by
  unfold dispatchStart
  refine ek_bind ?_ (fun _ => ?_)
  · exact progNow_keeps
  · refine ek_bind ?_ (fun _ => ?_)
    · exact xcTables_keeps
    · extract_lets -merge -underBinder +onlyGivenNames x0
      extract_lets -merge -underBinder +onlyGivenNames x1
      have h2 : ∀ y0, EK s0 (x1 y0) := by
        unfold x1
        refine fun _ => ?_
        extract_lets -merge -underBinder +onlyGivenNames x3
        clear_value x3
        extract_lets -merge -underBinder +onlyGivenNames x4
        clear_value x4
        extract_lets -merge -underBinder +onlyGivenNames x5
        clear_value x5
        refine ek_bind ?_ (fun _ => ?_)
        · exact xcSend_keeps _ _ _ _ _
        · extract_lets -merge -underBinder +onlyGivenNames x6
          have h7 : ∀ y0, EK s0 (x6 y0) := by
            unfold x6
            refine fun _ => ?_
            refine ek_bind ?_ (fun _ => ?_)
            · exact writeStats_keeps
            · extract_lets -merge -underBinder +onlyGivenNames x8
              refine ek_bind ?_ (fun _ => ?_)
              · exact modColl_keeps
              · refine ek_bind ?_ (fun _ => ?_)
                · exact progNow_keeps
                · refine ek_bind ?_ (fun _ => ?_)
                  · exact sendEnds_keeps
                  · exact ek_pure
          clear_value x6
          refine ite_of (P := EK s0) (fun _ => ?_) (fun _ => ?_)
          · refine ek_bind ?_ (fun _ => ?_)
            · exact writeV_keeps
            · exact h7 _
          · exact h7 _
      clear_value x1
      refine ite_of (P := EK s0) (fun _ => ?_) (fun _ => ?_)
      · refine ek_bind ?_ (fun _ => ?_)
        · exact readV_keeps
        · exact h2 _
      · refine ek_bind ?_ (fun _ => ?_)
        · exact ek_pure
        · exact h2 _

theorem returnHome_keeps {s0 : State} {c : Cmd} {g : Group} {es : List Expert} : EK s0 (returnHome c g es : EngM PUnit) := by
  unfold returnHome
  refine ek_bind ?_ (fun _ => ?_)
  · exact progNow_keeps
  · refine ek_forM (fun _ => ?_)
    refine ek_bind ?_ (fun _ => ?_)
    · exact readV_keeps
    · refine ite_of (P := EK s0) (fun _ => ?_) (fun _ => ?_)
      · extract_lets -merge -underBinder +onlyGivenNames x0
        extract_lets -merge -underBinder +onlyGivenNames x1
        extract_lets -merge -underBinder +onlyGivenNames x2
        have h3 : ∀ y0, EK s0 (x2 y0) := by
          unfold x2
          refine fun _ => ?_
          refine ek_bind ?_ (fun _ => ?_)
          · exact readV_keeps
          · refine modS_keeps ?_
            exact fun _ h4 => sendRow_keeps h4
        clear_value x2
        refine ite_of (P := EK s0) (fun _ => ?_) (fun _ => ?_)
        · refine ek_bind ?_ (fun _ => ?_)
          · exact ek_throw
          · exact h3 _
        · exact h3 _
      · exact ek_pure

theorem returnEnd_keeps {s0 : State} {c : Cmd} : EK s0 (returnEnd c : EngM (Option (Option W64 × Option Nat))) := by
  unfold returnEnd
  refine ek_bind ?_ (fun _ => ?_)
  · exact progNow_keeps
  · refine ek_bind ?_ (fun _ => ?_)
    · exact xcTables_keeps
    · extract_lets -merge -underBinder +onlyGivenNames x0
      extract_lets -merge -underBinder +onlyGivenNames x1
      clear_value x1
      extract_lets -merge -underBinder +onlyGivenNames x2
      clear_value x2
      refine ek_bind ?_ (fun _ => ?_)
      · refine ek_forM (fun _ => ?_)
        exact writeV_keeps
      · refine ek_bind ?_ (fun _ => ?_)
        · exact writeStats_keeps
        · extract_lets -merge -underBinder +onlyGivenNames x3
          have h4 : ∀ y0, EK s0 (x3 y0) := by
            unfold x3
            exact fun _ => ek_pure
          clear_value x3
          refine ite_of (P := EK s0) (fun _ => ?_) (fun _ => ?_)
          · refine ek_bind ?_ (fun _ => ?_)
            · exact addWarn_keeps
            · exact h4 _
          · exact h4 _

theorem returnStart_keeps {s0 : State} {c : Cmd} {g : Group} : EK s0 (returnStart c g : EngM (Option (Option W64 × Option Nat)))
    := by
  unfold returnStart
  refine ek_bind ?_ (fun _ => ?_)
  · exact xcTables_keeps
  · extract_lets -merge -underBinder +onlyGivenNames x0
    refine ek_bind ?_ (fun _ => ?_)
    · exact readV_keeps
    · extract_lets -merge -underBinder +onlyGivenNames x1
      clear_value x1
      extract_lets -merge -underBinder +onlyGivenNames x2
      refine ek_bind ?_ (fun _ => ?_)
      · refine ek_forM (fun _ => ?_)
        exact writeV_keeps
      · refine ek_bind ?_ (fun _ => ?_)
        · exact modColl_keeps
        · refine ek_bind ?_ (fun _ => ?_)
          · exact returnHome_keeps
          · refine ite_of (P := EK s0) (fun _ => ?_) (fun _ => ?_)
            · exact returnEnd_keeps
            · exact ek_pure

theorem xcStart_keeps {s0 : State} {c : Cmd} : EK s0 (xcStart c : EngM (Option (Option W64 × Option Nat))) := by
  unfold xcStart
  refine ek_bind ?_ (fun _ => ?_)
  · exact joinGroup_keeps
  · split
    · exact dispatchStart_keeps
    · exact dispatchStart_keeps
    · exact returnStart_keeps

theorem execXchgTokens_keeps {s0 : State} {k : Nat} {s : State} (h0 : Keeps s0 s) : KO s0 (execXchgTokens k s) := by
  unfold execXchgTokens
  refine ko_next ?_
  refine runOp_keeps ?_ ?_
  · refine fun _ _ h1 => ?_
    refine collOnce_keeps ?_ ?_
    · exact fun _ => xcStart_keeps
    · exact h1
  · exact h0

theorem rowPiece_keeps {s0 : State} {c : Cmd} {i : Nat} {off : Nat} {data : Bytes} : EK s0 (rowPiece c i off data : EngM Bool) := by
  unfold rowPiece
  refine ek_bind ?_ (fun _ => ?_)
  · exact writeV_keeps
  · extract_lets -merge -underBinder +onlyGivenNames x0
    refine ek_bind ?_ (fun _ => ?_)
    · exact modColl_keeps
    · refine ek_bind ?_ (fun _ => ?_)
      · exact progNow_keeps
      · extract_lets -merge -underBinder +onlyGivenNames x1
        exact ek_pure

theorem tokenWork_keeps {s0 : State} {pk : Packet} {c : Cmd} {g : Group} {h : CollHdr} : EK s0 (tokenWork pk c g h : EngM (Option
    (Option W64 × Option Nat))) := by
  unfold tokenWork
  refine ek_getS (fun _ h0 => ?_)
  extract_lets -merge -underBinder +onlyGivenNames x1
  extract_lets -merge -underBinder +onlyGivenNames x2
  extract_lets -merge -underBinder +onlyGivenNames x3
  clear_value x3
  refine ite_of (P := EK s0) (fun _ => ?_) (fun _ => ?_)
  · exact ek_pure
  · refine ite_of (P := EK s0) (fun _ => ?_) (fun _ => ?_)
    · extract_lets -merge -underBinder +onlyGivenNames x4
      have h5 : ∀ y0, EK s0 (x4 y0) := by
        unfold x4
        exact fun _ => ek_pure
      clear_value x4
      refine ite_of (P := EK s0) (fun _ => ?_) (fun _ => ?_)
      · refine ek_bind ?_ (fun _ => ?_)
        · refine modS_keeps ?_
          exact fun _ h6 => lateOnce_keeps h6
        · exact h5 _
      · exact h5 _
    · refine ite_of (P := EK s0) (fun _ => ?_) (fun _ => ?_)
      · refine ek_bind ?_ (fun _ => ?_)
        · exact modColl_keeps
        · refine ek_bind ?_ (fun _ => ?_)
          · exact progNow_keeps
          · refine ite_of (P := EK s0) (fun _ => ?_) (fun _ => ?_)
            · exact homeEnd_keeps
            · exact ek_pure
      · refine ek_bind ?_ (fun _ => ?_)
        · exact rowPiece_keeps
        · extract_lets -merge -underBinder +onlyGivenNames x7
          have h8 : ∀ y0, EK s0 (x7 y0) := by
            unfold x7
            exact fun _ => ek_pure
          clear_value x7
          refine ite_of (P := EK s0) (fun _ => ?_) (fun _ => ?_)
          · refine ek_bind ?_ (fun _ => ?_)
            · exact writeV_keeps
            · refine ek_bind ?_ (fun _ => ?_)
              · exact modColl_keeps
              · exact h8 _
          · exact h8 _

theorem tokenRetWork_keeps {s0 : State} {pk : Packet} {c : Cmd} {z2 : Group} {h : CollHdr} : EK s0 (tokenRetWork pk c z2 h : EngM
    (Option (Option W64 × Option Nat))) := by
  unfold tokenRetWork
  refine ek_getS (fun _ h0 => ?_)
  refine ek_bind ?_ (fun _ => ?_)
  · exact progNow_keeps
  · extract_lets -merge -underBinder +onlyGivenNames x1
    extract_lets -merge -underBinder +onlyGivenNames x2
    clear_value x2
    refine ite_of (P := EK s0) (fun _ => ?_) (fun _ => ?_)
    · exact ek_pure
    · refine ite_of (P := EK s0) (fun _ => ?_) (fun _ => ?_)
      · refine ek_bind ?_ (fun _ => ?_)
        · refine modS_keeps ?_
          exact fun _ h3 => lateOnce_keeps h3
        · exact ek_pure
      · refine ite_of (P := EK s0) (fun _ => ?_) (fun _ => ?_)
        · exact ek_pure
        · refine ek_bind ?_ (fun _ => ?_)
          · exact rowPiece_keeps
          · refine ite_of (P := EK s0) (fun _ => ?_) (fun _ => ?_)
            · exact ek_pure
            · extract_lets -merge -underBinder +onlyGivenNames x4
              have h5 : ∀ y0, EK s0 (x4 y0) := by
                unfold x4
                refine fun _ => ?_
                refine ek_bind ?_ (fun _ => ?_)
                · exact modColl_keeps
                · refine ek_bind ?_ (fun _ => ?_)
                  · exact progNow_keeps
                  · refine ite_of (P := EK s0) (fun _ => ?_) (fun _ => ?_)
                    · exact returnEnd_keeps
                    · exact ek_pure
              clear_value x4
              refine ite_of (P := EK s0) (fun _ => ?_) (fun _ => ?_)
              · refine ek_bind ?_ (fun _ => ?_)
                · exact readV_keeps
                · refine ek_bind ?_ (fun _ => ?_)
                  · exact writeV_keeps
                  · exact h5 _
              · exact h5 _

theorem execCollToken_keeps {s0 : State} {port : Nat} {p : Packet} {s : State} (h0 : Keeps s0 s) : KO s0 (execCollToken port p s)
    := by
  unfold execCollToken
  refine ko_next ?_
  refine rankArrive_keeps ?_ ?_ ?_
  · refine fun _ _ h1 => ?_
    refine ite_of (P := Keeps s0) (fun _ => ?_) (fun _ => ?_)
    · exact h1
    · exact lateOnce_keeps h1
  · exact fun _ _ _ => tokenWork_keeps
  · exact h0

theorem execCollTokenRet_keeps {s0 : State} {port : Nat} {p : Packet} {s : State} (h0 : Keeps s0 s) : KO s0 (execCollTokenRet port
    p s) := by
  unfold execCollTokenRet
  refine ko_next ?_
  refine rankArrive_keeps ?_ ?_ ?_
  · exact fun _ _ h1 => lateOnce_keeps h1
  · exact fun _ _ _ => tokenRetWork_keeps
  · exact h0

theorem xcLate_keeps {s0 : State} {c : Cmd} : EK s0 (xcLate c : EngM (Option (Option W64 × Option Nat))) := by
  unfold xcLate
  refine ite_of (P := EK s0) (fun _ => ?_) (fun _ => ?_)
  · refine ek_bind ?_ (fun _ => ?_)
    · exact addWarn_keeps
    · exact homeEnd_keeps
  · exact returnEnd_keeps

theorem execExchangeDeadline_keeps {s0 : State} {k : Nat} {s : State} (h0 : Keeps s0 s) : KO s0 (execExchangeDeadline k s) := by
  unfold execExchangeDeadline
  refine ko_next ?_
  split
  · exact h0
  · refine ite_of (P := Keeps s0) (fun _ => ?_) (fun _ => ?_)
    · refine runPart_keeps ?_ ?_
      · exact xcLate_keeps
      · exact h0
    · exact h0

end Sys2Proof.Machine
end

