-- ==== Sys2Proof/Laws/KeepsFabric.lean ====
section
/-!
SUPPORT. What no command does (see Laws/Keeps.lean): the fabric and membership.
-/
namespace Sys2Proof.Machine

/-! ### Fabric -/

theorem refuse_keeps {s0 : State} {p : Packet} {status : Nat} {s : State} (h0 : Keeps s0 s) : Keeps s0 (refuse p status s) := by
  unfold refuse
  extract_lets -merge -underBinder +onlyGivenNames x1
  extract_lets -merge -underBinder +onlyGivenNames x2 x3
  clear_value x2
  have h4 : Keeps s0 x3 := by
    unfold x3
    refine ite_of (P := Keeps s0) (fun _ => ?_) (fun _ => ?_)
    · exact h0
    · refine ite_of (P := Keeps s0) (fun _ => ?_) (fun _ => ?_)
      · exact modCtx_keeps h0
      · refine ite_of (P := Keeps s0) (fun _ => ?_) (fun _ => ?_)
        · refine keeps_mk ?_ (Nat.le_refl _) rfl (fun h => h) (fun h => h)
          exact h0
        · exact h0
  clear_value x3
  exact nack_keeps h4

theorem storeRuns_keeps {s0 : State} : ∀ (z0 : List (Nat × Nat)) (z1 : Bytes) (z2 : State) (_ : Keeps s0 z2), Keeps s0 (storeRuns
    z0 z1 z2)
  | [], p0, p1, h1 => by
    rw [storeRuns.eq_1]
    exact h1
  | p2 :: p3, p0, p1, h2 => by
    rw [storeRuns.eq_2]
    exact storeRuns_keeps _ _ _ (store_keeps h2)

theorem readRuns_keeps {s0 : State} : ∀ (ctx : Nat) (z1 : List (Nat × Nat)) (z2 : State) (_ : Keeps s0 z2), KP s0 (readRuns ctx z1
    z2)
  | p0, [], p1, h1 => by
    rw [readRuns.eq_1]
    exact kp_mk h1
  | p0, p2 :: p3, p1, h2 => by
    rw [readRuns.eq_2]
    exact kp_mk (kp_snd (readRuns_keeps _ _ _ (persistRead_keeps (kf_fst (countReads_keeps h2)))))

theorem takeWrite_keeps {s0 : State} {p : Packet} {s : State} (h0 : Keeps s0 s) : Keeps s0 (takeWrite p s) := by
  unfold takeWrite
  split
  · exact refuse_keeps h0
  · split
    · exact refuse_keeps h0
    · exact respond_keeps (storeRuns_keeps _ _ _ (touchStacks_keeps h0))

theorem execPktWrite_keeps {s0 : State} {port : Nat} {p : Packet} {s : State} (h0 : Keeps s0 s) : KO s0 (execPktWrite port p s) :=
    by
  unfold execPktWrite
  refine ko_next ?_
  refine arrive_keeps ?_ ?_
  · exact fun _ h1 => takeWrite_keeps h1
  · exact h0

theorem takeRead_keeps {s0 : State} {p : Packet} {s : State} (h0 : Keeps s0 s) : Keeps s0 (takeRead p s) := by
  unfold takeRead
  extract_lets -merge -underBinder +onlyGivenNames x1
  split
  · exact refuse_keeps h0
  · refine ite_of (P := Keeps s0) (fun _ => ?_) (fun _ => ?_)
    · exact refuse_keeps h0
    · split
      · exact refuse_keeps h0
      · extract_lets -merge -underBinder +onlyGivenNames x2
        have h3 : Keeps s0 x2 := by
          unfold x2
          exact touchStacks_keeps h0
        clear_value x2
        refine ite_of (P := Keeps s0) (fun _ => ?_) (fun _ => ?_)
        · exact respond_keeps h3
        · extract_lets -merge -underBinder +onlyGivenNames x4
          have h5 : KP s0 x4 := by
            unfold x4
            exact readRuns_keeps _ _ _ h3
          clear_value x4
          exact respond_keeps (kp_snd h5)

theorem execReadReq_keeps {s0 : State} {port : Nat} {p : Packet} {s : State} (h0 : Keeps s0 s) : KO s0 (execReadReq port p s) := by
  unfold execReadReq
  refine ko_next ?_
  refine arrive_keeps ?_ ?_
  · exact fun _ h1 => takeRead_keeps h1
  · exact h0

theorem dropReq_keeps {s0 : State} {txn : BitVec 32} {s : State} (h0 : Keeps s0 s) : Keeps s0 (dropReq txn s) := by
  unfold dropReq
  refine releaseHolds_keeps ?_
  refine keeps_mk ?_ (Nat.le_refl _) rfl (fun h => h) (fun h => h)
  exact h0

theorem dropResponse_keeps {s0 : State} {s : State} (h0 : Keeps s0 s) : Keeps s0 (dropResponse s) := by
  unfold dropResponse
  refine keeps_mk ?_ (Nat.le_refl _) rfl (fun h => h) (fun h => h)
  exact h0

theorem onResponse_keeps {s0 : State} {p : Packet} {f : OutReq → State → State} {s : State} (h0 : ∀ y0, ∀ y1, Keeps s0 y1 → Keeps
    s0 (f y0 y1)) (h1 : Keeps s0 s) : Keeps s0 (onResponse p f s) := by
  unfold onResponse
  split
  · exact dropResponse_keeps h1
  · extract_lets -merge -underBinder +onlyGivenNames x2
    have h3 : Keeps s0 x2 := by
      unfold x2
      exact dropReq_keeps h1
    clear_value x2
    refine ite_of (P := Keeps s0) (fun _ => ?_) (fun _ => ?_)
    · exact dropResponse_keeps h3
    · refine ite_of (P := Keeps s0) (fun _ => ?_) (fun _ => ?_)
      · exact h0 _ _ h3
      · extract_lets -merge -underBinder +onlyGivenNames x4
        have h5 : Keeps s0 x4 := by
          unfold x4
          exact dropResponse_keeps h3
        clear_value x4
        refine ite_of (P := Keeps s0) (fun _ => ?_) (fun _ => ?_)
        · exact h0 _ _ h5
        · exact h5

theorem takeResp_keeps {s0 : State} {p : Packet} {r : OutReq} {s : State} (h0 : Keeps s0 s) : Keeps s0 (takeResp p r s) := by
  unfold takeResp
  refine ite_of (P := Keeps s0) (fun _ => ?_) (fun _ => ?_)
  · exact h0
  · refine ite_of (P := Keeps s0) (fun _ => ?_) (fun _ => ?_)
    · extract_lets -merge -underBinder +onlyGivenNames x1
      have h2 : KP s0 x1 := by
        unfold x1
        exact fillLine_keeps h0
      clear_value x1
      split
      · exact pfFinish_keeps (pfCount_keeps h2)
      · exact kp_snd h2
    · refine keeps_mk ?_ (Nat.le_refl _) rfl (fun h => h) (fun h => h)
      exact h0

theorem execReadResp_keeps {s0 : State} {port : Nat} {p : Packet} {s : State} (h0 : Keeps s0 s) : KO s0 (execReadResp port p s) :=
    by
  unfold execReadResp
  refine ko_next ?_
  refine arrive_keeps ?_ ?_
  · refine fun _ h1 => ?_
    refine onResponse_keeps ?_ ?_
    · exact fun _ _ h2 => takeResp_keeps h2
    · exact h1
  · exact h0

theorem sendHead_keeps {s0 : State} {e : Nat} {s : State} (h0 : Keeps s0 s) : Keeps s0 (sendHead e s) := by
  unfold sendHead
  split
  · exact h0
  · split
    · exact h0
    · refine ite_of (P := Keeps s0) (fun _ => ?_) (fun _ => ?_)
      · exact h0
      · extract_lets -merge -underBinder +onlyGivenNames x1
        have h2 : KP s0 x1 := by
          unfold x1
          exact sendAdd_keeps h0
        clear_value x1
        exact modEnd_keeps (kp_snd h2)

theorem popAdd_keeps {s0 : State} {e : Nat} {s : State} (h0 : Keeps s0 s) : Keeps s0 (popAdd e s) := by
  unfold popAdd
  exact sendHead_keeps (modEnd_keeps h0)

theorem takeAck_keeps {s0 : State} {r : OutReq} {s : State} (h0 : Keeps s0 s) : Keeps s0 (takeAck r s) := by
  unfold takeAck
  refine ite_of (P := Keeps s0) (fun _ => ?_) (fun _ => ?_)
  · split
    · exact popAdd_keeps h0
    · exact h0
  · refine keeps_mk ?_ (Nat.le_refl _) rfl (fun h => h) (fun h => h)
    exact h0

theorem execPktAck_keeps {s0 : State} {port : Nat} {p : Packet} {s : State} (h0 : Keeps s0 s) : KO s0 (execPktAck port p s) := by
  unfold execPktAck
  refine ko_next ?_
  refine arrive_keeps ?_ ?_
  · refine fun _ h1 => ?_
    refine onResponse_keeps ?_ ?_
    · exact fun _ _ h2 => takeAck_keeps h2
    · exact h1
  · exact h0

theorem takeNack_keeps {s0 : State} {p : Packet} {r : OutReq} {s : State} (h0 : Keeps s0 s) : Keeps s0 (takeNack p r s) := by
  unfold takeNack
  extract_lets -merge -underBinder +onlyGivenNames x1
  refine ite_of (P := Keeps s0) (fun _ => ?_) (fun _ => ?_)
  · split
    · refine ite_of (P := Keeps s0) (fun _ => ?_) (fun _ => ?_)
      · exact modEnd_keeps h0
      · exact popAdd_keeps h0
    · exact h0
  · split
    · refine ite_of (P := Keeps s0) (fun _ => ?_) (fun _ => ?_)
      · exact pfFinish_keeps (modProg_keeps h0)
      · refine ite_of (P := Keeps s0) (fun _ => ?_) (fun _ => ?_)
        · exact faultCmd_keeps (freeCores_keeps h0)
        · exact abortCmd_keeps (freeCores_keeps h0)
    · refine ite_of (P := Keeps s0) (fun _ => ?_) (fun _ => ?_)
      · exact contextFault_keeps h0
      · exact h0

theorem execPktNack_keeps {s0 : State} {port : Nat} {p : Packet} {s : State} (h0 : Keeps s0 s) : KO s0 (execPktNack port p s) := by
  unfold execPktNack
  refine ko_next ?_
  refine arrive_keeps ?_ ?_
  · refine fun _ h1 => ?_
    refine onResponse_keeps ?_ ?_
    · exact fun _ _ h2 => takeNack_keeps h2
    · exact h1
  · exact h0

theorem applyAdd_keeps {s0 : State} {p : Packet} {s : State} (h0 : Keeps s0 s) : Keeps s0 (applyAdd p s) := by
  unfold applyAdd
  extract_lets -merge -underBinder +onlyGivenNames x1
  extract_lets -merge -underBinder +onlyGivenNames x2
  split
  · exact refuse_keeps h0
  · refine ite_of (P := Keeps s0) (fun _ => ?_) (fun _ => ?_)
    · exact respond_keeps (kp_snd (ctrAdd_keeps h0))
    · exact refuse_keeps h0

theorem execCtrAdd_keeps {s0 : State} {port : Nat} {p : Packet} {s : State} (h0 : Keeps s0 s) : KO s0 (execCtrAdd port p s) := by
  unfold execCtrAdd
  refine ko_next ?_
  refine arrive_keeps ?_ ?_
  · refine fun _ h1 => ?_
    refine ite_of (P := Keeps s0) (fun _ => ?_) (fun _ => ?_)
    · refine wakeUp_keeps ?_
      refine keeps_mk ?_ (Nat.le_refl _) rfl (fun h => h) (fun h => h)
      exact h1
    · exact wakeUp_keeps (applyAdd_keeps h1)
  · exact h0

theorem execCtrAddResend_keeps {s0 : State} {e : Nat} {s : State} (h0 : Keeps s0 s) : KO s0 (execCtrAddResend e s) := by
  unfold execCtrAddResend
  refine ko_next ?_
  split
  · exact h0
  · split
    · refine ite_of (P := Keeps s0) (fun _ => ?_) (fun _ => ?_)
      · exact sendHead_keeps h0
      · exact h0
    · exact h0

theorem linkArrive_keeps {s0 : State} {port : Nat} {ptype : Nat} {p : Packet} {f : State → State} {s : State} (h0 : ∀ y0, Keeps s0
    y0 → Keeps s0 (f y0)) (h1 : Keeps s0 s) : Keeps s0 (linkArrive port ptype p f s) := by
  unfold linkArrive
  refine ite_of (P := Keeps s0) (fun _ => ?_) (fun _ => ?_)
  · exact h1
  · extract_lets -merge -underBinder +onlyGivenNames x2
    have h3 : KP s0 x2 := by
      unfold x2
      exact takeLink_keeps h1
    clear_value x2
    refine ite_of (P := Keeps s0) (fun _ => ?_) (fun _ => ?_)
    · exact kp_snd h3
    · refine ite_of (P := Keeps s0) (fun _ => ?_) (fun _ => ?_)
      · exact countUnroutable_keeps (kp_snd h3)
      · exact h0 _ (kp_snd h3)

theorem execPktProbe_keeps {s0 : State} {port : Nat} {p : Packet} {s : State} (h0 : Keeps s0 s) : KO s0 (execPktProbe port p s) :=
    by
  unfold execPktProbe
  refine ko_next ?_
  refine linkArrive_keeps ?_ ?_
  · exact fun _ h1 => sendOn_keeps h1
  · exact h0

theorem execPktProbeReply_keeps {s0 : State} {port : Nat} {p : Packet} {s : State} (h0 : Keeps s0 s) : KO s0 (execPktProbeReply
    port p s) := by
  unfold execPktProbeReply
  refine ko_next ?_
  refine linkArrive_keeps ?_ ?_
  · refine fun _ h1 => ?_
    split
    · exact h1
    · exact modPort_keeps h1
  · exact h0

theorem correctTick_keeps {s0 : State} {out : Nat} {p : Packet} {s : State} (h0 : Keeps s0 s) : KP s0 (correctTick out p s) := by
  unfold correctTick
  refine ite_of (P := KP s0) (fun _ => ?_) (fun _ => ?_)
  · extract_lets -merge -underBinder +onlyGivenNames x1
    refine kp_mk ?_
    refine keeps_mk ?_ (Nat.le_succ _) rfl (fun h => h) (fun h => h)
    exact h0
  · exact kp_mk h0

theorem drainReinject_keeps {s0 : State} {s : State} (h0 : Keeps s0 s) : Keeps s0 (drainReinject s) := by
  unfold drainReinject
  extract_lets -merge -underBinder +onlyGivenNames x1
  clear_value x1
  refine foldl_of (P := Keeps s0) (fun _ _ h2 => ?_) ?_
  · extract_lets -merge -underBinder +onlyGivenNames x3
    have h4 : KP s0 x3 := by
      unfold x3
      exact correctTick_keeps h2
    clear_value x3
    exact routeOut_keeps (kp_snd h4)
  · refine keeps_mk ?_ (Nat.le_refl _) rfl (fun h => h) (fun h => h)
    exact h0

theorem forward_keeps {s0 : State} {port : Nat} {p : Packet} {s : State} (h0 : Keeps s0 s) : Keeps s0 (forward port p s) := by
  unfold forward
  extract_lets -merge -underBinder +onlyGivenNames x1
  clear_value x1
  refine ite_of (P := Keeps s0) (fun _ => ?_) (fun _ => ?_)
  · refine drainReinject_keeps ?_
    refine keeps_mk ?_ (Nat.le_refl _) rfl (fun h => h) (fun h => h)
    exact h0
  · extract_lets -merge -underBinder +onlyGivenNames x2
    have h3 : KP s0 x2 := by
      unfold x2
      exact correctTick_keeps h0
    clear_value x2
    exact routeOut_keeps (kp_snd h3)

theorem execPacketForward_keeps {s0 : State} {port : Nat} {p : Packet} {s : State} (h0 : Keeps s0 s) : KO s0 (execPacketForward
    port p s) := by
  unfold execPacketForward
  refine ko_next ?_
  extract_lets -merge -underBinder +onlyGivenNames x1
  extract_lets -merge -underBinder +onlyGivenNames x2
  clear_value x2
  extract_lets -merge -underBinder +onlyGivenNames x3
  clear_value x3
  refine ite_of (P := Keeps s0) (fun _ => ?_) (fun _ => ?_)
  · exact h0
  · extract_lets -merge -underBinder +onlyGivenNames x4
    have h5 : KP s0 x4 := by
      unfold x4
      exact takeLink_keeps h0
    clear_value x4
    refine ite_of (P := Keeps s0) (fun _ => ?_) (fun _ => ?_)
    · exact kp_snd h5
    · refine ite_of (P := Keeps s0) (fun _ => ?_) (fun _ => ?_)
      · exact countUnroutable_keeps (kp_snd h5)
      · exact forward_keeps (kp_snd h5)

theorem execLinkReplay_keeps {s0 : State} {port : Nat} {lseq : BitVec 16} {hdrFail : Bool} {s : State} (h0 : Keeps s0 s) : KO s0
    (execLinkReplay port lseq hdrFail s) := by
  unfold execLinkReplay
  refine ko_next ?_
  extract_lets -merge -underBinder +onlyGivenNames x1
  clear_value x1
  refine ite_of (P := Keeps s0) (fun _ => ?_) (fun _ => ?_)
  · exact askReplay_keeps h0
  · exact h0

theorem setLink_keeps {s0 : State} {port : Nat} {st : PortState} {f : Port → Port} {s : State} (h0 : Keeps s0 s) : Keeps s0
    (setLink port st f s) := by
  unfold setLink
  exact logEntry_keeps (modPort_keeps h0)

theorem takeDown_keeps {s0 : State} {port : Nat} {s : State} (h0 : Keeps s0 s) : Keeps s0 (takeDown port s) := by
  unfold takeDown
  extract_lets -merge -underBinder +onlyGivenNames x1
  extract_lets -merge -underBinder +onlyGivenNames x2
  have h3 : Keeps s0 x2 := by
    unfold x2
    refine countDown_keeps ?_
    refine keeps_mk ?_ (Nat.le_succ _) rfl (fun h => h) (fun h => h)
    exact h0
  clear_value x2
  exact setLink_keeps h3

theorem execLinkDown_keeps {s0 : State} {port : Nat} {s : State} (h0 : Keeps s0 s) : KO s0 (execLinkDown port s) := by
  unfold execLinkDown
  refine ko_next ?_
  refine ite_of (P := Keeps s0) (fun _ => ?_) (fun _ => ?_)
  · exact sendCovers_keeps (takeDown_keeps h0)
  · exact h0

theorem sendHello_keeps {s0 : State} {port : Nat} {s : State} (h0 : Keeps s0 s) : Keeps s0 (sendHello port s) := by
  unfold sendHello
  exact mgmtSendOn_keeps h0

theorem execLinkUp_keeps {s0 : State} {port : Nat} {s : State} (h0 : Keeps s0 s) : KO s0 (execLinkUp port s) := by
  unfold execLinkUp
  extract_lets -merge -underBinder +onlyGivenNames x1
  refine ko_next ?_
  refine ite_of (P := Keeps s0) (fun _ => ?_) (fun _ => ?_)
  · extract_lets -merge -underBinder +onlyGivenNames x2
    have h3 : Keeps s0 x2 := by
      unfold x2
      exact setLink_keeps h0
    clear_value x2
    refine ite_of (P := Keeps s0) (fun _ => ?_) (fun _ => ?_)
    · exact sendUncovers_keeps (sendHello_keeps (probeLink_keeps h3))
    · exact h3
  · exact h0

theorem execLaneRetune_keeps {s0 : State} {port : Nat} {lane : Nat} {errRatioE9 : Nat} {s : State} (h0 : Keeps s0 s) : KO s0
    (execLaneRetune port lane errRatioE9 s) := by
  unfold execLaneRetune
  refine ko_next ?_
  extract_lets -merge -underBinder +onlyGivenNames x1
  clear_value x1
  refine ite_of (P := Keeps s0) (fun _ => ?_) (fun _ => ?_)
  · exact probeLink_keeps (setLink_keeps h0)
  · exact h0

theorem execLaneRetuneDone_keeps {s0 : State} {port : Nat} {good : Bool} {s : State} (h0 : Keeps s0 s) : KO s0 (execLaneRetuneDone
    port good s) := by
  unfold execLaneRetuneDone
  refine ko_next ?_
  extract_lets -merge -underBinder +onlyGivenNames x1
  clear_value x1
  split
  · exact h0
  · refine ite_of (P := Keeps s0) (fun _ => ?_) (fun _ => ?_)
    · refine ite_of (P := Keeps s0) (fun _ => ?_) (fun _ => ?_)
      · exact probeLink_keeps (setLink_keeps h0)
      · extract_lets -merge -underBinder +onlyGivenNames x2
        have h3 : Keeps s0 x2 := by
          unfold x2
          exact modPort_keeps h0
        clear_value x2
        refine ite_of (P := Keeps s0) (fun _ => ?_) (fun _ => ?_)
        · exact sendCovers_keeps (takeDown_keeps h3)
        · exact probeLink_keeps (setLink_keeps h3)
    · exact h0

/-! ### Membership -/

theorem ackMgmt_keeps {s0 : State} {src : BitVec 12} {code : Nat} {mseq : BitVec 32} {status : Nat} {s : State} (h0 : Keeps s0 s)
    : Keeps s0 (ackMgmt src code mseq status s) := by
  unfold ackMgmt
  extract_lets -merge -underBinder +onlyGivenNames x1 x2
  clear_value x1
  have h3 : Keeps s0 x2 := by
    unfold x2
    refine keeps_mk ?_ (Nat.le_refl _) rfl (fun h => h) (fun h => h)
    exact h0
  clear_value x2
  refine ite_of (P := Keeps s0) (fun _ => ?_) (fun _ => ?_)
  · exact mgmtSend_keeps h3
  · exact h3

theorem takeMgmt_keeps {s0 : State} {code : Nat} {p : Packet} {f : BitVec 12 → Bytes → State → Nat × State} {s : State} (h0 : ∀
    y0, ∀ y1, ∀ y2, Keeps s0 y2 → KP s0 (f y0 y1 y2)) (h1 : Keeps s0 s) : Keeps s0 (takeMgmt code p f s) := by
  unfold takeMgmt
  extract_lets -merge -underBinder +onlyGivenNames x2
  extract_lets -merge -underBinder +onlyGivenNames x3
  clear_value x3
  extract_lets -merge -underBinder +onlyGivenNames x4
  clear_value x4
  refine ite_of (P := Keeps s0) (fun _ => ?_) (fun _ => ?_)
  · exact h1
  · split
    · refine ite_of (P := Keeps s0) (fun _ => ?_) (fun _ => ?_)
      · exact mgmtSend_keeps h1
      · exact h1
    · extract_lets -merge -underBinder +onlyGivenNames x5
      clear_value x5
      refine ite_of (P := Keeps s0) (fun _ => ?_) (fun _ => ?_)
      · refine ite_of (P := Keeps s0) (fun _ => ?_) (fun _ => ?_)
        · exact ackMgmt_keeps h1
        · exact h1
      · extract_lets -merge -underBinder +onlyGivenNames x6
        have h7 : KP s0 x6 := by
          unfold x6
          exact h0 _ _ _ h1
        clear_value x6
        exact ackMgmt_keeps (kp_snd h7)

theorem mgmtArrive_keeps {s0 : State} {code : Nat} {port : Nat} {p : Packet} {f : BitVec 12 → Bytes → State → Nat × State} {s :
    State} (h0 : ∀ y0, ∀ y1, ∀ y2, Keeps s0 y2 → KP s0 (f y0 y1 y2)) (h1 : Keeps s0 s) : Keeps s0 (mgmtArrive code port p f s) := by
  unfold mgmtArrive
  refine ite_of (P := Keeps s0) (fun _ => ?_) (fun _ => ?_)
  · exact h1
  · refine arrive_keeps ?_ ?_
    · refine fun _ h2 => ?_
      refine takeMgmt_keeps ?_ ?_
      · exact fun _ _ _ h3 => h0 _ _ _ h3
      · exact h2
    · exact h1

theorem sendJoin_keeps {s0 : State} {m : BitVec 12} {s : State} (h0 : Keeps s0 s) : Keeps s0 (sendJoin m s) := by
  unfold sendJoin
  refine ite_of (P := Keeps s0) (fun _ => ?_) (fun _ => ?_)
  · exact h0
  · exact mgmtSend_keeps h0

theorem takeHello_keeps {s0 : State} {port : Nat} {bd : Bytes} {s : State} (h0 : Keeps s0 s) : Keeps s0 (takeHello port bd s) := by
  unfold takeHello
  extract_lets -merge -underBinder +onlyGivenNames x1
  clear_value x1
  extract_lets -merge -underBinder +onlyGivenNames x2
  clear_value x2
  extract_lets -merge -underBinder +onlyGivenNames x3
  have h4 : Keeps s0 x3 := by
    unfold x3
    split
    · exact h0
    · extract_lets -merge -underBinder +onlyGivenNames x5
      have h6 : Keeps s0 x5 := by
        unfold x5
        exact modPort_keeps h0
      clear_value x5
      refine ite_of (P := Keeps s0) (fun _ => ?_) (fun _ => ?_)
      · exact h6
      · extract_lets -merge -underBinder +onlyGivenNames x7 x8
        refine keeps_mk ?_ (Nat.le_refl _) rfl (fun h => h) (fun h => h)
        exact h6
  clear_value x3
  extract_lets -merge -underBinder +onlyGivenNames x9
  have h10 : Keeps s0 x9 := by
    unfold x9
    refine ite_of (P := Keeps s0) (fun _ => ?_) (fun _ => ?_)
    · exact sendHello_keeps h4
    · exact h4
  clear_value x9
  refine ite_of (P := Keeps s0) (fun _ => ?_) (fun _ => ?_)
  · exact h10
  · split
    · exact sendJoin_keeps h10
    · exact h10

theorem execHello_keeps {s0 : State} {port : Nat} {p : Packet} {s : State} (h0 : Keeps s0 s) : KO s0 (execHello port p s) := by
  unfold execHello
  refine ko_next ?_
  refine ite_of (P := Keeps s0) (fun _ => ?_) (fun _ => ?_)
  · exact h0
  · refine linkArrive_keeps ?_ ?_
    · refine fun _ h1 => ?_
      extract_lets -merge -underBinder +onlyGivenNames x2
      extract_lets -merge -underBinder +onlyGivenNames x3
      clear_value x3
      refine ite_of (P := Keeps s0) (fun _ => ?_) (fun _ => ?_)
      · exact h1
      · exact takeHello_keeps h1
    · exact h0

theorem modMember_keeps {s0 : State} {z0 : BitVec 12} {f : Member → Member} {s : State} (h0 : Keeps s0 s) : Keeps s0 (modMember z0
    f s) := by
  unfold modMember
  refine keeps_mk ?_ (Nat.le_refl _) rfl (fun h => h) (fun h => h)
  exact h0

theorem takeJoin_keeps {s0 : State} {src : BitVec 12} {bd : Bytes} {s : State} (h0 : Keeps s0 s) : KP s0 (takeJoin src bd s) := by
  unfold takeJoin
  split
  · exact kp_mk h0
  · extract_lets -merge -underBinder +onlyGivenNames x1
    clear_value x1
    extract_lets -merge -underBinder +onlyGivenNames x2
    clear_value x2
    extract_lets -merge -underBinder +onlyGivenNames x3
    extract_lets -merge -underBinder +onlyGivenNames x4
    extract_lets -merge -underBinder +onlyGivenNames x5
    clear_value x5
    extract_lets -merge -underBinder +onlyGivenNames x6 x7
    clear_value x6
    have h8 : Keeps s0 x7 := by
      unfold x7
      refine ite_of (P := Keeps s0) (fun _ => ?_) (fun _ => ?_)
      · refine keeps_mk ?_ (Nat.le_refl _) rfl (fun h => h) (fun h => h)
        exact h0
      · exact h0
    clear_value x7
    extract_lets -merge -underBinder +onlyGivenNames x9
    clear_value x9
    extract_lets -merge -underBinder +onlyGivenNames x10
    have h11 : Keeps s0 x10 := by
      unfold x10
      refine mgmtSend_keeps ?_
      refine keeps_mk ?_ (Nat.le_succ _) rfl (fun h => h) (fun h => h)
      exact h8
    clear_value x10
    refine kp_mk ?_
    refine ite_of (P := Keeps s0) (fun _ => ?_) (fun _ => ?_)
    · exact sendUncovers_keeps h11
    · exact h11
  · extract_lets -merge -underBinder +onlyGivenNames x12
    clear_value x12
    extract_lets -merge -underBinder +onlyGivenNames x13
    clear_value x13
    extract_lets -merge -underBinder +onlyGivenNames x14
    extract_lets -merge -underBinder +onlyGivenNames x15
    extract_lets -merge -underBinder +onlyGivenNames x16
    clear_value x16
    extract_lets -merge -underBinder +onlyGivenNames x17 x18
    clear_value x17
    have h19 : Keeps s0 x18 := by
      unfold x18
      refine ite_of (P := Keeps s0) (fun _ => ?_) (fun _ => ?_)
      · refine keeps_mk ?_ (Nat.le_refl _) rfl (fun h => h) (fun h => h)
        exact h0
      · exact h0
    clear_value x18
    extract_lets -merge -underBinder +onlyGivenNames x20
    clear_value x20
    extract_lets -merge -underBinder +onlyGivenNames x21
    have h22 : Keeps s0 x21 := by
      unfold x21
      refine mgmtSend_keeps ?_
      refine keeps_mk ?_ (Nat.le_succ _) rfl (fun h => h) (fun h => h)
      exact h19
    clear_value x21
    refine kp_mk ?_
    refine ite_of (P := Keeps s0) (fun _ => ?_) (fun _ => ?_)
    · exact sendUncovers_keeps h22
    · exact h22

theorem execMgmtJoin_keeps {s0 : State} {port : Nat} {p : Packet} {s : State} (h0 : Keeps s0 s) : KO s0 (execMgmtJoin port p s) :=
    by
  unfold execMgmtJoin
  refine ko_next ?_
  refine mgmtArrive_keeps ?_ ?_
  · exact fun _ _ _ h1 => takeJoin_keeps h1
  · exact h0

theorem takeJoinAck_keeps {s0 : State} {_src : BitVec 12} {bd : Bytes} {s : State} (h0 : Keeps s0 s) : KP s0 (takeJoinAck _src bd
    s) := by
  unfold takeJoinAck
  extract_lets -merge -underBinder +onlyGivenNames x1
  refine ite_of (P := KP s0) (fun _ => ?_) (fun _ => ?_)
  · exact kp_mk h0
  · refine ite_of (P := KP s0) (fun _ => ?_) (fun _ => ?_)
    · exact kp_mk h0
    · extract_lets -merge -underBinder +onlyGivenNames x2
      have h3 : Keeps s0 x2 := by
        unfold x2
        exact setRoutes_keeps h0
      clear_value x2
      extract_lets -merge -underBinder +onlyGivenNames x4 x5 x6 x7
      clear_value x6
      have h8 : Keeps s0 x7 := by
        unfold x7
        refine keeps_mk ?_ (Nat.le_refl _) rfl (fun h => h) (fun h => h)
        exact h3
      clear_value x7
      exact kp_mk (noteJoined_keeps h8)

theorem execJoinAck_keeps {s0 : State} {port : Nat} {p : Packet} {s : State} (h0 : Keeps s0 s) : KO s0 (execJoinAck port p s) := by
  unfold execJoinAck
  refine ko_next ?_
  refine mgmtArrive_keeps ?_ ?_
  · exact fun _ _ _ h1 => takeJoinAck_keeps h1
  · exact h0

theorem execHeartbeatSend_keeps {s0 : State} {s : State} (h0 : Keeps s0 s) : KO s0 (execHeartbeatSend s) := by
  unfold execHeartbeatSend
  refine ko_next ?_
  refine ite_of (P := Keeps s0) (fun _ => ?_) (fun _ => ?_)
  · refine mgmtSend_keeps ?_
    refine keeps_mk ?_ (Nat.le_refl _) rfl (fun h => h) (fun h => h)
    exact h0
  · exact h0

theorem takeHeartbeat_keeps {s0 : State} {src : BitVec 12} {bd : Bytes} {s : State} (h0 : Keeps s0 s) : KP s0 (takeHeartbeat src
    bd s) := by
  unfold takeHeartbeat
  exact kp_mk (modMember_keeps h0)

theorem execHeartbeat_keeps {s0 : State} {port : Nat} {p : Packet} {s : State} (h0 : Keeps s0 s) : KO s0 (execHeartbeat port p s)
    := by
  unfold execHeartbeat
  refine ko_next ?_
  refine mgmtArrive_keeps ?_ ?_
  · exact fun _ _ _ h1 => takeHeartbeat_keeps h1
  · exact h0

theorem notifyHolders_keeps {s0 : State} {code : Nat} {kind : Nat} {z2 : BitVec 12} {s : State} (h0 : Keeps s0 s) : Keeps s0
    (notifyHolders code kind z2 s) := by
  unfold notifyHolders
  refine foldl_of (P := Keeps s0) (fun _ _ h1 => ?_) ?_
  · exact mgmtSend_keeps h1
  · exact h0

theorem loseMember_keeps {s0 : State} {z0 : BitVec 12} {s : State} (h0 : Keeps s0 s) : Keeps s0 (loseMember z0 s) := by
  unfold loseMember
  exact notifyHolders_keeps (sendCovers_keeps (modMember_keeps h0))

theorem execModuleLost_keeps {s0 : State} {addr : BitVec 12} {s : State} (h0 : Keeps s0 s) : KO s0 (execModuleLost addr s) := by
  unfold execModuleLost
  refine ko_next ?_
  split
  · refine ite_of (P := Keeps s0) (fun _ => ?_) (fun _ => ?_)
    · exact loseMember_keeps h0
    · exact h0
  · exact h0

theorem execLeaveMessage_keeps {s0 : State} {port : Nat} {p : Packet} {s : State} (h0 : Keeps s0 s) : KO s0 (execLeaveMessage port
    p s) := by
  unfold execLeaveMessage
  refine ko_next ?_
  refine mgmtArrive_keeps ?_ ?_
  · refine fun _ _ _ h1 => ?_
    split
    · refine kp_mk ?_
      refine ite_of (P := Keeps s0) (fun _ => ?_) (fun _ => ?_)
      · exact loseMember_keeps h1
      · exact h1
    · exact kp_mk h1
  · exact h0

theorem takeBeacon_keeps {s0 : State} {_src : BitVec 12} {bd : Bytes} {s : State} (h0 : Keeps s0 s) : KP s0 (takeBeacon _src bd s)
    := by
  unfold takeBeacon
  split
  · exact kp_mk h0
  · refine ite_of (P := KP s0) (fun _ => ?_) (fun _ => ?_)
    · exact kp_mk h0
    · extract_lets -merge -underBinder +onlyGivenNames x1
      have h2 : Keeps s0 x1 := by
        unfold x1
        split
        · exact h0
        · refine ite_of (P := Keeps s0) (fun _ => ?_) (fun _ => ?_)
          · refine logEntry_keeps ?_
            refine keeps_mk ?_ (Nat.le_refl _) rfl (fun h => h) (fun h => h)
            exact h0
          · exact h0
        · refine ite_of (P := Keeps s0) (fun _ => ?_) (fun _ => ?_)
          · refine logEntry_keeps ?_
            refine keeps_mk ?_ (Nat.le_refl _) rfl (fun h => h) (fun h => h)
            exact h0
          · exact h0
      clear_value x1
      split
      · refine kp_mk (sendJoin_keeps ?_)
        refine keeps_mk ?_ (Nat.le_refl _) rfl (fun h => h) (fun h => h)
        exact h2
      · exact kp_mk h2
      · exact kp_mk h2

theorem execBeacon_keeps {s0 : State} {port : Nat} {p : Packet} {s : State} (h0 : Keeps s0 s) : KO s0 (execBeacon port p s) := by
  unfold execBeacon
  refine ko_next ?_
  refine mgmtArrive_keeps ?_ ?_
  · exact fun _ _ _ h1 => takeBeacon_keeps h1
  · exact h0

theorem execBeaconSend_keeps {s0 : State} {s : State} (h0 : Keeps s0 s) : KO s0 (execBeaconSend s) := by
  unfold execBeaconSend
  refine ko_next ?_
  refine ite_of (P := Keeps s0) (fun _ => ?_) (fun _ => ?_)
  · extract_lets -merge -underBinder +onlyGivenNames x1
    clear_value x1
    refine foldl_of (P := Keeps s0) (fun _ _ h2 => ?_) ?_
    · exact mgmtSend_keeps h2
    · refine keeps_mk ?_ (Nat.le_refl _) rfl (fun h => h) (fun h => h)
      exact h0
  · exact h0

theorem execResetNotice_keeps {s0 : State} {port : Nat} {p : Packet} {s : State} (h0 : Keeps s0 s) : KO s0 (execResetNotice port p
    s) := by
  unfold execResetNotice
  refine ko_next ?_
  refine mgmtArrive_keeps ?_ ?_
  · refine fun _ _ _ h1 => ?_
    refine ite_of (P := KP s0) (fun _ => ?_) (fun _ => ?_)
    · exact kp_mk h1
    · refine kp_mk ?_
      refine ite_of (P := Keeps s0) (fun _ => ?_) (fun _ => ?_)
      · exact notifyHolders_keeps h1
      · exact h1
  · exact h0

theorem postRank_keeps {s0 : State} {code : Nat} {kind : Nat} {z2 : BitVec 12} {ctx : Nat} {group : Nat} {s : State} (h0 : Keeps
    s0 s) : Keeps s0 (postRank code kind z2 ctx group s) := by
  unfold postRank
  exact postEvent_keeps h0

theorem postAffected_keeps {s0 : State} {code : Nat} {kind : Nat} {z2 : BitVec 12} {s : State} (h0 : Keeps s0 s) : Keeps s0
    (postAffected code kind z2 s) := by
  unfold postAffected
  extract_lets -merge -underBinder +onlyGivenNames x1
  refine foldl_of (P := Keeps s0) (fun _ _ h2 => ?_) ?_
  · split
    · exact postRank_keeps h2
    · exact h2
  · exact h0

theorem takeRank_keeps {s0 : State} {code : Nat} {maxKind : Nat} {_src : BitVec 12} {bd : Bytes} {s : State} (h0 : Keeps s0 s) :
    KP s0 (takeRank code maxKind _src bd s) := by
  unfold takeRank
  split
  · exact kp_mk h0
  · refine ite_of (P := KP s0) (fun _ => ?_) (fun _ => ?_)
    · exact kp_mk h0
    · exact kp_mk (postAffected_keeps h0)

theorem execRankReset_keeps {s0 : State} {port : Nat} {p : Packet} {s : State} (h0 : Keeps s0 s) : KO s0 (execRankReset port p s)
    := by
  unfold execRankReset
  refine ko_next ?_
  refine mgmtArrive_keeps ?_ ?_
  · exact fun _ _ _ h1 => takeRank_keeps h1
  · exact h0

theorem losePeer_keeps {s0 : State} {z0 : BitVec 12} {s : State} (h0 : Keeps s0 s) : Keeps s0 (losePeer z0 s) := by
  unfold losePeer
  refine keeps_mk ?_ (Nat.le_refl _) rfl (fun h => h) (fun h => h)
  exact h0

theorem execRankLost_keeps {s0 : State} {port : Nat} {p : Packet} {s : State} (h0 : Keeps s0 s) : KO s0 (execRankLost port p s) :=
    by
  unfold execRankLost
  refine ko_next ?_
  refine mgmtArrive_keeps ?_ ?_
  · refine fun _ _ _ h1 => ?_
    extract_lets -merge -underBinder +onlyGivenNames x2
    have h3 : KP s0 x2 := by
      unfold x2
      exact takeRank_keeps h1
    clear_value x2
    refine kp_mk ?_
    refine ite_of (P := Keeps s0) (fun _ => ?_) (fun _ => ?_)
    · exact losePeer_keeps (kp_snd h3)
    · exact kp_snd h3
  · exact h0

theorem execTimeDegraded_keeps {s0 : State} {port : Nat} {p : Packet} {s : State} (h0 : Keeps s0 s) : KO s0 (execTimeDegraded port
    p s) := by
  unfold execTimeDegraded
  refine ko_next ?_
  refine mgmtArrive_keeps ?_ ?_
  · exact fun _ _ _ h1 => takeRank_keeps h1
  · exact h0

theorem execTickLostReport_keeps {s0 : State} {port : Nat} {p : Packet} {s : State} (h0 : Keeps s0 s) : KO s0 (execTickLostReport
    port p s) := by
  unfold execTickLostReport
  refine ko_next ?_
  refine mgmtArrive_keeps ?_ ?_
  · refine fun _ _ _ h1 => ?_
    refine ite_of (P := KP s0) (fun _ => ?_) (fun _ => ?_)
    · exact kp_mk h1
    · refine ite_of (P := KP s0) (fun _ => ?_) (fun _ => ?_)
      · exact kp_mk h1
      · refine ite_of (P := KP s0) (fun _ => ?_) (fun _ => ?_)
        · exact kp_mk h1
        · exact kp_mk (sendCovers_keeps (modMember_keeps h1))
  · exact h0

theorem execHoldoverTimeout_keeps {s0 : State} {addr : BitVec 12} {s : State} (h0 : Keeps s0 s) : KO s0 (execHoldoverTimeout addr
    s) := by
  unfold execHoldoverTimeout
  refine ko_next ?_
  split
  · exact h0
  · split
    · refine ite_of (P := Keeps s0) (fun _ => ?_) (fun _ => ?_)
      · exact notifyHolders_keeps (modMember_keeps h0)
      · exact h0
    · exact h0

theorem takeRoutes_keeps {s0 : State} {_src : BitVec 12} {bd : Bytes} {s : State} (h0 : Keeps s0 s) : KP s0 (takeRoutes _src bd s)
    := by
  unfold takeRoutes
  extract_lets -merge -underBinder +onlyGivenNames x1
  extract_lets -merge -underBinder +onlyGivenNames x2
  extract_lets -merge -underBinder +onlyGivenNames x3
  refine ite_of (P := KP s0) (fun _ => ?_) (fun _ => ?_)
  · exact kp_mk h0
  · exact kp_mk (setRoutes_keeps h0)

theorem execRouteSet_keeps {s0 : State} {port : Nat} {p : Packet} {s : State} (h0 : Keeps s0 s) : KO s0 (execRouteSet port p s) :=
    by
  unfold execRouteSet
  refine ko_next ?_
  refine mgmtArrive_keeps ?_ ?_
  · exact fun _ _ _ h1 => takeRoutes_keeps h1
  · exact h0

theorem takeInstall_keeps {s0 : State} {_src : BitVec 12} {bd : Bytes} {s : State} (h0 : Keeps s0 s) : KP s0 (takeInstall _src bd
    s) := by
  unfold takeInstall
  extract_lets -merge -underBinder +onlyGivenNames x1
  extract_lets -merge -underBinder +onlyGivenNames x2
  extract_lets -merge -underBinder +onlyGivenNames x3
  clear_value x3
  extract_lets -merge -underBinder +onlyGivenNames x4
  clear_value x4
  refine ite_of (P := KP s0) (fun _ => ?_) (fun _ => ?_)
  · exact kp_mk h0
  · extract_lets -merge -underBinder +onlyGivenNames x5
    clear_value x5
    extract_lets -merge -underBinder +onlyGivenNames x6
    clear_value x6
    refine ite_of (P := KP s0) (fun _ => ?_) (fun _ => ?_)
    · exact kp_mk h0
    · extract_lets -merge -underBinder +onlyGivenNames x7
      clear_value x7
      extract_lets -merge -underBinder +onlyGivenNames x8
      extract_lets -merge -underBinder +onlyGivenNames x9
      clear_value x9
      refine kp_mk ?_
      refine keeps_mk ?_ (Nat.le_refl _) rfl (fun h => h) (fun h => h)
      exact h0

theorem execGroupInstall_keeps {s0 : State} {port : Nat} {p : Packet} {s : State} (h0 : Keeps s0 s) : KO s0 (execGroupInstall port
    p s) := by
  unfold execGroupInstall
  refine ko_next ?_
  refine mgmtArrive_keeps ?_ ?_
  · exact fun _ _ _ h1 => takeInstall_keeps h1
  · exact h0

theorem takeStage_keeps {s0 : State} {_src : BitVec 12} {bd : Bytes} {s : State} (h0 : Keeps s0 s) : KP s0 (takeStage _src bd s)
    := by
  unfold takeStage
  extract_lets -merge -underBinder +onlyGivenNames x1
  extract_lets -merge -underBinder +onlyGivenNames x2
  extract_lets -merge -underBinder +onlyGivenNames x3
  clear_value x3
  split
  · exact kp_mk h0
  · refine ite_of (P := KP s0) (fun _ => ?_) (fun _ => ?_)
    · exact kp_mk h0
    · refine ite_of (P := KP s0) (fun _ => ?_) (fun _ => ?_)
      · exact kp_mk h0
      · extract_lets -merge -underBinder +onlyGivenNames x4
        exact kp_mk (modGroup_keeps h0)

theorem execGroupStage_keeps {s0 : State} {port : Nat} {p : Packet} {s : State} (h0 : Keeps s0 s) : KO s0 (execGroupStage port p
    s) := by
  unfold execGroupStage
  refine ko_next ?_
  refine mgmtArrive_keeps ?_ ?_
  · exact fun _ _ _ h1 => takeStage_keeps h1
  · exact h0

theorem dropGroup_keeps {s0 : State} {gn : Nat} {s : State} (h0 : Keeps s0 s) : Keeps s0 (dropGroup gn s) := by
  unfold dropGroup
  refine keeps_mk ?_ (Nat.le_refl _) rfl (fun h => h) (fun h => h)
  exact h0

theorem takeRemove_keeps {s0 : State} {_src : BitVec 12} {bd : Bytes} {s : State} (h0 : Keeps s0 s) : KP s0 (takeRemove _src bd s)
    := by
  unfold takeRemove
  split
  · exact kp_mk h0
  · refine ite_of (P := KP s0) (fun _ => ?_) (fun _ => ?_)
    · exact kp_mk h0
    · exact kp_mk (dropGroup_keeps h0)

theorem execGroupRemove_keeps {s0 : State} {port : Nat} {p : Packet} {s : State} (h0 : Keeps s0 s) : KO s0 (execGroupRemove port p
    s) := by
  unfold execGroupRemove
  refine ko_next ?_
  refine mgmtArrive_keeps ?_ ?_
  · exact fun _ _ _ h1 => takeRemove_keeps h1
  · exact h0

theorem execPeriodArm_keeps {s0 : State} {port : Nat} {p : Packet} {s : State} (h0 : Keeps s0 s) : KO s0 (execPeriodArm port p s)
    := by
  unfold execPeriodArm
  refine ko_next (mgmtArrive_keeps (fun _ bd s h => ?_) h0)
  refine ite_of (P := KP s0) (fun _ => kp_mk h) (fun hp => ?_)
  refine kp_mk (armPeriod_keeps (keeps_mk h (Nat.le_refl _) rfl (fun h => h) (fun h => ⟨h.1, ?_⟩)))
  simpa using hp

theorem takeMgmtAck_keeps {s0 : State} {src : BitVec 12} {bd : Bytes} {s : State} (h0 : Keeps s0 s) : KP s0 (takeMgmtAck src bd s)
    := by
  unfold takeMgmtAck
  extract_lets -merge -underBinder +onlyGivenNames x1
  clear_value x1
  extract_lets -merge -underBinder +onlyGivenNames x2
  refine ite_of (P := KP s0) (fun _ => ?_) (fun _ => ?_)
  · refine kp_mk ?_
    refine keeps_mk ?_ (Nat.le_refl _) rfl (fun h => h) (fun h => h)
    exact h0
  · exact kp_mk h0

theorem execMgmtAck_keeps {s0 : State} {port : Nat} {p : Packet} {s : State} (h0 : Keeps s0 s) : KO s0 (execMgmtAck port p s) := by
  unfold execMgmtAck
  refine ko_next ?_
  refine mgmtArrive_keeps ?_ ?_
  · exact fun _ _ _ h1 => takeMgmtAck_keeps h1
  · exact h0

theorem execMgmtResend_keeps {s0 : State} {mseq : BitVec 32} {s : State} (h0 : Keeps s0 s) : KO s0 (execMgmtResend mseq s) := by
  unfold execMgmtResend
  refine ko_next ?_
  split
  · exact h0
  · refine ite_of (P := Keeps s0) (fun _ => ?_) (fun _ => ?_)
    · exact h0
    · refine ite_of (P := Keeps s0) (fun _ => ?_) (fun _ => ?_)
      · extract_lets -merge -underBinder +onlyGivenNames x1 x2
        clear_value x1
        have h3 : Keeps s0 x2 := by
          unfold x2
          refine keeps_mk ?_ (Nat.le_refl _) rfl (fun h => h) (fun h => h)
          exact h0
        clear_value x2
        exact sendPacket_keeps h3
      · refine keeps_mk ?_ (Nat.le_refl _) rfl (fun h => h) (fun h => h)
        exact h0

end Sys2Proof.Machine
end

