-- ==== Sys2Proof/Laws/KeepsManagement.lean ====
section
/-!
SUPPORT. What no command does (see Laws/Keeps.lean): mailbox messages, teardown, BAR2 and handover.
-/
namespace Sys2Proof.Machine

/-! ### MsgModule -/

theorem refuseMsg_keeps {s0 : State} {status : Nat} {s : State} (h0 : Keeps s0 s) : KR s0 (refuseMsg status s) := by
  unfold refuseMsg
  exact kr_now h0

theorem doIdentify_keeps {s0 : State} {_ch : Nat} {_tag : Nat} {_bd : Bytes} {s : State} (h0 : Keeps s0 s) : KR s0 (doIdentify _ch
    _tag _bd s) := by
  unfold doIdentify
  exact kr_now h0

theorem doStatusQuery_keeps {s0 : State} {_ch : Nat} {_tag : Nat} {_bd : Bytes} {s : State} (h0 : Keeps s0 s) : KR s0
    (doStatusQuery _ch _tag _bd s) := by
  unfold doStatusQuery
  exact kr_now h0

theorem doTelemetryRead_keeps {s0 : State} {_ch : Nat} {_tag : Nat} {bd : Bytes} {s : State} (h0 : Keeps s0 s) : KR s0
    (doTelemetryRead _ch _tag bd s) := by
  unfold doTelemetryRead
  split
  · exact kr_now h0
  · exact kr_now h0
  · exact kr_now h0
  · exact kr_now h0
  · exact refuseMsg_keeps h0

theorem doLogRead_keeps {s0 : State} {_ch : Nat} {_tag : Nat} {bd : Bytes} {s : State} (h0 : Keeps s0 s) : KR s0 (doLogRead _ch
    _tag bd s) := by
  unfold doLogRead
  extract_lets -merge -underBinder +onlyGivenNames x1
  extract_lets -merge -underBinder +onlyGivenNames x2
  refine ite_of (P := KR s0) (fun _ => ?_) (fun _ => ?_)
  · exact refuseMsg_keeps h0
  · extract_lets -merge -underBinder +onlyGivenNames x3
    clear_value x3
    exact kr_now h0

theorem toScratch_keeps {s0 : State} {k : Nat} {s : State} (h0 : Keeps s0 s) : Keeps s0 (toScratch k s) := by
  unfold toScratch
  extract_lets -merge -underBinder +onlyGivenNames x1
  clear_value x1
  extract_lets -merge -underBinder +onlyGivenNames x2
  clear_value x2
  refine keeps_mk ?_ (Nat.le_succ _) rfl (fun h => by repeat' first | with_reducible exact h | with_reducible apply memWriteN_wf | with_reducible apply memWrite_wf | with_reducible apply memClear_wf | with_reducible apply putImage_wf | with_reducible apply pokeRuns_wf | exact rfl) (fun h => h)
  exact h0

theorem doMicaSlices_keeps {s0 : State} {_ch : Nat} {_tag : Nat} {bd : Bytes} {s : State} (h0 : Keeps s0 s) : KR s0 (doMicaSlices
    _ch _tag bd s) := by
  unfold doMicaSlices
  extract_lets -merge -underBinder +onlyGivenNames x1
  clear_value x1
  extract_lets -merge -underBinder +onlyGivenNames x2
  clear_value x2
  refine ite_of (P := KR s0) (fun _ => ?_) (fun _ => ?_)
  · exact refuseMsg_keeps h0
  · refine ite_of (P := KR s0) (fun _ => ?_) (fun _ => ?_)
    · exact refuseMsg_keeps h0
    · extract_lets -merge -underBinder +onlyGivenNames x3
      have h4 : Keeps s0 x3 := by
        unfold x3
        refine foldl_of (P := Keeps s0) (fun _ _ h5 => ?_) ?_
        · exact toScratch_keeps h5
        · exact h0
      clear_value x3
      extract_lets -merge -underBinder +onlyGivenNames x6
      have h7 : Keeps s0 x6 := by
        unfold x6
        refine foldl_of (P := Keeps s0) (fun _ _ h8 => ?_) ?_
        · refine keeps_mk ?_ (Nat.le_refl _) rfl (fun h => by repeat' first | with_reducible exact h | with_reducible apply memWriteN_wf | with_reducible apply memWrite_wf | with_reducible apply memClear_wf | with_reducible apply putImage_wf | with_reducible apply pokeRuns_wf | exact rfl) (fun h => h)
          exact h8
        · exact h4
      clear_value x6
      extract_lets -merge -underBinder +onlyGivenNames x9
      have h10 : Keeps s0 x9 := by
        unfold x9
        refine keeps_mk ?_ (Nat.le_refl _) rfl (fun h => h) (fun h => h)
        exact h7
      clear_value x9
      refine kr_now ?_
      refine keeps_mk ?_ (Nat.le_refl _) rfl (fun h => h) (fun h => h)
      exact h10

theorem doBar2Set_keeps {s0 : State} {ch : Nat} {_tag : Nat} {bd : Bytes} {s : State} (h0 : Keeps s0 s) : KR s0 (doBar2Set ch _tag
    bd s) := by
  unfold doBar2Set
  extract_lets -merge -underBinder +onlyGivenNames x1
  refine ite_of (P := KR s0) (fun _ => ?_) (fun _ => ?_)
  · refine ite_of (P := KR s0) (fun _ => ?_) (fun _ => ?_)
    · exact refuseMsg_keeps h0
    · exact kr_now (modFn_keeps h0)
  · refine ite_of (P := KR s0) (fun _ => ?_) (fun _ => ?_)
    · exact refuseMsg_keeps h0
    · refine ite_of (P := KR s0) (fun _ => ?_) (fun _ => ?_)
      · exact refuseMsg_keeps h0
      · exact kr_now (modFn_keeps h0)

theorem doRoleSet_keeps {s0 : State} {_ch : Nat} {_tag : Nat} {bd : Bytes} {s : State} (h0 : Keeps s0 s) : KR s0 (doRoleSet _ch
    _tag bd s) := by
  unfold doRoleSet
  extract_lets -merge -underBinder +onlyGivenNames x1
  refine ite_of (P := KR s0) (fun _ => ?_) (fun _ => ?_)
  · exact refuseMsg_keeps h0
  · refine ite_of (P := KR s0) (fun _ => ?_) (fun _ => ?_)
    · exact refuseMsg_keeps h0
    · extract_lets -merge -underBinder +onlyGivenNames x2
      clear_value x2
      extract_lets -merge -underBinder +onlyGivenNames x3 x4
      have h5 : Keeps s0 x4 := by
        unfold x4
        refine keeps_mk ?_ (Nat.le_refl _) rfl (fun h => h) (fun h => h)
        exact h0
      clear_value x4
      refine ite_of (P := KR s0) (fun _ => ?_) (fun _ => ?_)
      · exact kr_now h5
      · extract_lets -merge -underBinder +onlyGivenNames x6 x7
        clear_value x6
        have h8 : Keeps s0 x7 := by
          unfold x7
          refine keeps_mk ?_ (Nat.le_refl _) rfl (fun h => h) (fun h => h)
          exact h5
        clear_value x7
        refine kr_now ?_
        refine ite_of (P := Keeps s0) (fun _ => ?_) (fun _ => ?_)
        · exact sendJoin_keeps h8
        · exact h8

theorem doLeave_keeps {s0 : State} {_ch : Nat} {_tag : Nat} {_bd : Bytes} {s : State} (h0 : Keeps s0 s) : KR s0 (doLeave _ch _tag
    _bd s) := by
  unfold doLeave
  refine ite_of (P := KR s0) (fun _ => ?_) (fun _ => ?_)
  · exact refuseMsg_keeps h0
  · extract_lets -merge -underBinder +onlyGivenNames x1
    have h2 : Keeps s0 x1 := by
      unfold x1
      exact mgmtSend_keeps h0
    clear_value x1
    refine kr_now ?_
    refine keeps_mk ?_ (Nat.le_refl _) rfl (fun h => h) (fun h => h)
    exact h2

theorem doPowerCapSet_keeps {s0 : State} {ch : Nat} {_tag : Nat} {bd : Bytes} {s : State} (h0 : Keeps s0 s) : KR s0 (doPowerCapSet
    ch _tag bd s) := by
  unfold doPowerCapSet
  extract_lets -merge -underBinder +onlyGivenNames x1
  refine ite_of (P := KR s0) (fun _ => ?_) (fun _ => ?_)
  · exact refuseMsg_keeps h0
  · extract_lets -merge -underBinder +onlyGivenNames x2 x3 x4
    clear_value x2
    clear_value x3
    have h5 : Keeps s0 x4 := by
      unfold x4
      refine keeps_mk ?_ (Nat.le_refl _) rfl (fun h => h) (fun h => h)
      exact h0
    clear_value x4
    exact kr_now h5

theorem doOppointSet_keeps {s0 : State} {_ch : Nat} {_tag : Nat} {bd : Bytes} {s : State} (h0 : Keeps s0 s) : KR s0 (doOppointSet
    _ch _tag bd s) := by
  unfold doOppointSet
  extract_lets -merge -underBinder +onlyGivenNames x1
  refine ite_of (P := KR s0) (fun _ => ?_) (fun _ => ?_)
  · exact refuseMsg_keeps h0
  · refine kr_now ?_
    refine keeps_mk ?_ (Nat.le_refl _) rfl (fun h => h) (fun h => h)
    exact h0

theorem doWakeSet_keeps {s0 : State} {_ch : Nat} {_tag : Nat} {bd : Bytes} {s : State} (h0 : Keeps s0 s) : KR s0 (doWakeSet _ch
    _tag bd s) := by
  unfold doWakeSet
  extract_lets -merge -underBinder +onlyGivenNames x1
  split
  · refine ite_of (P := KR s0) (fun _ => ?_) (fun _ => ?_)
    · refine kr_now ?_
      refine keeps_mk ?_ (Nat.le_refl _) rfl (fun h => h) (fun h => h)
      exact h0
    · refine ite_of (P := KR s0) (fun _ => ?_) (fun _ => ?_)
      · refine kr_now ?_
        refine wakeUp_keeps ?_
        refine keeps_mk ?_ (Nat.le_refl _) rfl (fun h => h) (fun h => h)
        exact h0
      · refine kr_now ?_
        refine keeps_mk ?_ (Nat.le_refl _) rfl (fun h => h) (fun h => h)
        exact h0
  · refine ite_of (P := KR s0) (fun _ => ?_) (fun _ => ?_)
    · refine kr_now ?_
      refine keeps_mk ?_ (Nat.le_refl _) rfl (fun h => h) (fun h => h)
      exact h0
    · refine ite_of (P := KR s0) (fun _ => ?_) (fun _ => ?_)
      · refine kr_now ?_
        refine wakeUp_keeps ?_
        refine keeps_mk ?_ (Nat.le_refl _) rfl (fun h => h) (fun h => h)
        exact h0
      · refine kr_now ?_
        refine keeps_mk ?_ (Nat.le_refl _) rfl (fun h => h) (fun h => h)
        exact h0
  · exact refuseMsg_keeps h0

theorem doFwQuery_keeps {s0 : State} {_ch : Nat} {_tag : Nat} {_bd : Bytes} {s : State} (h0 : Keeps s0 s) : KR s0 (doFwQuery _ch
    _tag _bd s) := by
  unfold doFwQuery
  exact kr_now h0

theorem setOther_keeps {s0 : State} {x : Slot} {s : State} (h0 : Keeps s0 s) : Keeps s0 (setOther x s) := by
  unfold setOther
  refine keeps_mk ?_ (Nat.le_refl _) (by first | rfl | (split <;> rfl)) (fun h => h) (fun h => h)
  exact h0

theorem doFwStage_keeps {s0 : State} {ch : Nat} {_tag : Nat} {bd : Bytes} {s : State} (h0 : Keeps s0 s) : KR s0 (doFwStage ch _tag
    bd s) := by
  unfold doFwStage
  refine ite_of (P := KR s0) (fun _ => ?_) (fun _ => ?_)
  · exact refuseMsg_keeps h0
  · exact kr_later (setOther_keeps h0)

theorem endFwStage_keeps {s0 : State} {bd : Bytes} {s : State} (h0 : Keeps s0 s) : KP s0 (endFwStage bd s) := by
  unfold endFwStage
  extract_lets -merge -underBinder +onlyGivenNames x1
  refine ite_of (P := KP s0) (fun _ => ?_) (fun _ => ?_)
  · exact kp_mk h0
  · split
    · exact kp_mk h0
    · refine ite_of (P := KP s0) (fun _ => ?_) (fun _ => ?_)
      · exact kp_mk h0
      · refine ite_of (P := KP s0) (fun _ => ?_) (fun _ => ?_)
        · exact kp_mk h0
        · exact kp_mk (setOther_keeps h0)

theorem doFwActivate_keeps {s0 : State} {_ch : Nat} {_tag : Nat} {bd : Bytes} {s : State} (h0 : Keeps s0 s) : KR s0 (doFwActivate
    _ch _tag bd s) := by
  unfold doFwActivate
  refine ite_of (P := KR s0) (fun _ => ?_) (fun _ => ?_)
  · exact refuseMsg_keeps h0
  · refine ite_of (P := KR s0) (fun _ => ?_) (fun _ => ?_)
    · exact kr_later h0
    · refine kr_now ?_
      refine keeps_mk ?_ (Nat.le_refl _) rfl (fun h => h) (fun h => h)
      exact h0

theorem doFwCommit_keeps {s0 : State} {_ch : Nat} {_tag : Nat} {_bd : Bytes} {s : State} (h0 : Keeps s0 s) : KR s0 (doFwCommit _ch
    _tag _bd s) := by
  unfold doFwCommit
  refine ite_of (P := KR s0) (fun _ => ?_) (fun _ => ?_)
  · refine kr_now ?_
    refine keeps_mk ?_ (Nat.le_refl _) rfl (fun h => h) (fun h => h)
    exact h0
  · exact refuseMsg_keeps h0

theorem setChan_keeps {s0 : State} {stack : Nat} {chan : Nat} {st : ChanState} {s : State} (h0 : Keeps s0 s) : Keeps s0 (setChan
    stack chan st s) := by
  unfold setChan
  extract_lets -merge -underBinder +onlyGivenNames x1 x2
  clear_value x1
  have h3 : Keeps s0 x2 := by
    unfold x2
    refine keeps_mk ?_ (Nat.le_refl _) rfl (fun h => h) (fun h => h)
    exact h0
  clear_value x2
  exact logEntry_keeps h3

theorem storeCalib_keeps {s0 : State} {s : State} (h0 : Keeps s0 s) : Keeps s0 (storeCalib s) := by
  unfold storeCalib
  refine keeps_mk ?_ (Nat.le_refl _) rfl (fun h => h) (fun h => h)
  exact h0

theorem retrainChan_keeps {s0 : State} {stack : Nat} {chan : Nat} {deciC : Int} {good : Bool} {s : State} (h0 : Keeps s0 s) :
    Keeps s0 (retrainChan stack chan deciC good s) := by
  unfold retrainChan
  extract_lets -merge -underBinder +onlyGivenNames x1
  extract_lets -merge -underBinder +onlyGivenNames x2 x3
  clear_value x2
  have h4 : Keeps s0 x3 := by
    unfold x3
    refine keeps_mk ?_ (Nat.le_refl _) rfl (fun h => h) (fun h => h)
    exact h0
  clear_value x3
  refine ite_of (P := Keeps s0) (fun _ => ?_) (fun _ => ?_)
  · extract_lets -merge -underBinder +onlyGivenNames x5 x6
    clear_value x5
    have h6 : Keeps s0 x6 := by
      unfold x6
      refine keeps_mk ?_ (Nat.le_refl _) rfl (fun h => h) (fun h => h)
      exact h4
    clear_value x6
    refine ite_of (P := Keeps s0) (fun _ => ?_) (fun _ => ?_)
    · exact storeCalib_keeps h6
    · exact h6
  · split
    · exact setChan_keeps h4
    · exact h4
    · exact h4

theorem doRecalibrate_keeps {s0 : State} {_ch : Nat} {_tag : Nat} {_bd : Bytes} {s : State} (h0 : Keeps s0 s) : KR s0
    (doRecalibrate _ch _tag _bd s) := by
  unfold doRecalibrate
  exact kr_later h0

theorem retrainStack_keeps {s0 : State} {s : State} {stack : Nat} (h0 : Keeps s0 s) : Keeps s0 (retrainStack s stack) := by
  unfold retrainStack
  refine foldl_of (P := Keeps s0) (fun _ _ h1 => ?_) ?_
  · exact retrainChan_keeps h1
  · refine keeps_mk ?_ (Nat.le_succ _) rfl (fun h => h) (fun h => h)
    exact h0

theorem retunePort_keeps {s0 : State} {s : State} {port : Nat} (h0 : Keeps s0 s) : Keeps s0 (retunePort s port) := by
  unfold retunePort
  extract_lets -merge -underBinder +onlyGivenNames x1
  clear_value x1
  refine ite_of (P := Keeps s0) (fun _ => ?_) (fun _ => ?_)
  · exact h0
  · extract_lets -merge -underBinder +onlyGivenNames x2
    clear_value x2
    extract_lets -merge -underBinder +onlyGivenNames x3
    clear_value x3
    extract_lets -merge -underBinder +onlyGivenNames x4
    have h5 : Keeps s0 x4 := by
      unfold x4
      refine modPort_keeps ?_
      refine keeps_mk ?_ (Nat.le_succ _) rfl (fun h => h) (fun h => h)
      exact h0
    clear_value x4
    refine ite_of (P := Keeps s0) (fun _ => ?_) (fun _ => ?_)
    · exact probeLink_keeps h5
    · refine ite_of (P := Keeps s0) (fun _ => ?_) (fun _ => ?_)
      · exact sendCovers_keeps (takeDown_keeps h5)
      · exact probeLink_keeps (setLink_keeps h5)

theorem endRecalibrate_keeps {s0 : State} {bd : Bytes} {s : State} (h0 : Keeps s0 s) : KP s0 (endRecalibrate bd s) := by
  unfold endRecalibrate
  extract_lets -merge -underBinder +onlyGivenNames x1
  have h2 : Keeps s0 x1 := by
    unfold x1
    refine foldl_of (P := Keeps s0) (fun _ _ h3 => ?_) ?_
    · exact retrainStack_keeps h3
    · exact h0
  clear_value x1
  refine kp_mk (storeCalib_keeps ?_)
  refine foldl_of (P := Keeps s0) (fun _ _ h4 => ?_) ?_
  · exact retunePort_keeps h4
  · exact h2

/-! ### MsgContext -/

theorem grantBlocks_keeps {s0 : State} {ctx : Nat} {b : Nat} {n : Nat} {s : State} (h0 : Keeps s0 s) : Keeps s0 (grantBlocks ctx b
    n s) := by
  unfold grantBlocks
  refine foldl_of (P := Keeps s0) (fun _ _ h1 => ?_) ?_
  · refine keeps_mk ?_ (Nat.le_refl _) rfl (fun h => h) (fun h => h)
    exact h1
  · exact h0

theorem doCtxCreate_keeps {s0 : State} {ch : Nat} {_tag : Nat} {bd : Bytes} {s : State} (h0 : Keeps s0 s) : KR s0 (doCtxCreate ch
    _tag bd s) := by
  unfold doCtxCreate
  extract_lets -merge -underBinder +onlyGivenNames x1
  extract_lets -merge -underBinder +onlyGivenNames x2
  extract_lets -merge -underBinder +onlyGivenNames x3
  extract_lets -merge -underBinder +onlyGivenNames x4
  extract_lets -merge -underBinder +onlyGivenNames x5
  clear_value x5
  extract_lets -merge -underBinder +onlyGivenNames x6
  clear_value x6
  refine ite_of (P := KR s0) (fun _ => ?_) (fun _ => ?_)
  · exact refuseMsg_keeps h0
  · refine ite_of (P := KR s0) (fun _ => ?_) (fun _ => ?_)
    · exact refuseMsg_keeps h0
    · extract_lets -merge -underBinder +onlyGivenNames x7
      extract_lets -merge -underBinder +onlyGivenNames x8
      extract_lets -merge -underBinder +onlyGivenNames x9
      have h10 : Keeps s0 x9 := by
        unfold x9
        refine keeps_mk ?_ (Nat.le_succ _) rfl (fun h => h) (fun h => h)
        exact h0
      clear_value x9
      extract_lets -merge -underBinder +onlyGivenNames x11
      have h12 : Keeps s0 x11 := by
        unfold x11
        exact modCtx_keeps h10
      clear_value x11
      exact kr_now (grantBlocks_keeps h12)

theorem stopDraining_keeps {s0 : State} {k : Nat} {s : State} (h0 : Keeps s0 s) : Keeps s0 (stopDraining k s) := by
  unfold stopDraining
  exact abortCmd_keeps (freeCores_keeps h0)

theorem beginDrain_keeps {s0 : State} {c : Nat} {tag : BitVec 32} {quiet : Bool} {s : State} (h0 : Keeps s0 s) : Keeps s0
    (beginDrain c tag quiet s) := by
  unfold beginDrain
  extract_lets -merge -underBinder +onlyGivenNames x1
  have h2 : Keeps s0 x1 := by
    unfold x1
    exact modCtx_keeps h0
  clear_value x1
  extract_lets -merge -underBinder +onlyGivenNames x3
  clear_value x3
  refine foldl_of (P := Keeps s0) (fun _ _ h4 => ?_) ?_
  · exact stopDraining_keeps h4
  · exact h2

theorem doCtxDestroy_keeps {s0 : State} {ch : Nat} {tag : Nat} {bd : Bytes} {s : State} (h0 : Keeps s0 s) : KR s0 (doCtxDestroy ch
    tag bd s) := by
  unfold doCtxDestroy
  extract_lets -merge -underBinder +onlyGivenNames x1
  refine ite_of (P := KR s0) (fun _ => ?_) (fun _ => ?_)
  · exact refuseMsg_keeps h0
  · refine ite_of (P := KR s0) (fun _ => ?_) (fun _ => ?_)
    · exact refuseMsg_keeps h0
    · exact kr_later (beginDrain_keeps h0)

theorem doCtxQuery_keeps {s0 : State} {ch : Nat} {_tag : Nat} {bd : Bytes} {s : State} (h0 : Keeps s0 s) : KR s0 (doCtxQuery ch
    _tag bd s) := by
  unfold doCtxQuery
  extract_lets -merge -underBinder +onlyGivenNames x1
  refine ite_of (P := KR s0) (fun _ => ?_) (fun _ => ?_)
  · exact refuseMsg_keeps h0
  · refine ite_of (P := KR s0) (fun _ => ?_) (fun _ => ?_)
    · exact refuseMsg_keeps h0
    · extract_lets -merge -underBinder +onlyGivenNames x2
      clear_value x2
      refine kr_now ?_
      refine ite_of (P := Keeps s0) (fun _ => ?_) (fun _ => ?_)
      · exact modCtx_keeps h0
      · exact h0

theorem doCounterGrant_keeps {s0 : State} {ch : Nat} {_tag : Nat} {bd : Bytes} {s : State} (h0 : Keeps s0 s) : KR s0
    (doCounterGrant ch _tag bd s) := by
  unfold doCounterGrant
  extract_lets -merge -underBinder +onlyGivenNames x1
  extract_lets -merge -underBinder +onlyGivenNames x2
  split
  · exact refuseMsg_keeps h0
  · extract_lets -merge -underBinder +onlyGivenNames x3
    clear_value x3
    refine ite_of (P := KR s0) (fun _ => ?_) (fun _ => ?_)
    · exact refuseMsg_keeps h0
    · extract_lets -merge -underBinder +onlyGivenNames x4
      refine kr_now ?_
      refine grantBlocks_keeps ?_
      refine keeps_mk ?_ (Nat.le_succ _) rfl (fun h => h) (fun h => h)
      exact h0

theorem doQueueCreate_keeps {s0 : State} {ch : Nat} {_tag : Nat} {bd : Bytes} {s : State} (h0 : Keeps s0 s) : KR s0 (doQueueCreate
    ch _tag bd s) := by
  unfold doQueueCreate
  extract_lets -merge -underBinder +onlyGivenNames x1
  split
  · exact refuseMsg_keeps h0
  · extract_lets -merge -underBinder +onlyGivenNames x2
    clear_value x2
    refine ite_of (P := KR s0) (fun _ => ?_) (fun _ => ?_)
    · exact refuseMsg_keeps h0
    · refine ite_of (P := KR s0) (fun _ => ?_) (fun _ => ?_)
      · exact refuseMsg_keeps h0
      · extract_lets -merge -underBinder +onlyGivenNames x3
        extract_lets -merge -underBinder +onlyGivenNames x4
        clear_value x4
        refine kr_now ?_
        refine keeps_mk ?_ (Nat.le_succ _) rfl (fun h => h) (fun h => h)
        exact h0

theorem dropUnstarted_keeps {s0 : State} {q : Nat} {s : State} (h0 : Keeps s0 s) : Keeps s0 (dropUnstarted q s) := by
  unfold dropUnstarted
  refine keeps_mk ?_ (Nat.le_refl _) rfl (fun h => h) (fun h => h)
  exact h0

theorem doQueueDestroy_keeps {s0 : State} {ch : Nat} {_tag : Nat} {bd : Bytes} {s : State} (h0 : Keeps s0 s) : KR s0
    (doQueueDestroy ch _tag bd s) := by
  unfold doQueueDestroy
  extract_lets -merge -underBinder +onlyGivenNames x1
  split
  · exact refuseMsg_keeps h0
  · refine ite_of (P := KR s0) (fun _ => ?_) (fun _ => ?_)
    · exact refuseMsg_keeps h0
    · exact kr_later (dropUnstarted_keeps (modQueue_keeps h0))

theorem grantCluster_keeps {s0 : State} {b : Nat} {i : Nat} {new : Cluster} {s : State} (h0 : Keeps s0 s) : Keeps s0 (grantCluster
    b i new s) := by
  unfold grantCluster
  extract_lets -merge -underBinder +onlyGivenNames x1
  clear_value x1
  refine ite_of (P := Keeps s0) (fun _ => ?_) (fun _ => ?_)
  · exact h0
  · extract_lets -merge -underBinder +onlyGivenNames x2
    clear_value x2
    extract_lets -merge -underBinder +onlyGivenNames x3
    clear_value x3
    refine keeps_mk ?_ (Nat.le_refl _) rfl (fun h => h) (fun h => h)
    exact h0

theorem applyGrant_keeps {s0 : State} {bd : Bytes} {s : State} (h0 : Keeps s0 s) : Keeps s0 (applyGrant bd s) := by
  unfold applyGrant
  extract_lets -merge -underBinder +onlyGivenNames x1
  refine foldl_of (P := Keeps s0) (fun _ _ h2 => ?_) ?_
  · exact grantCluster_keeps h2
  · exact h0

theorem doTileGrant_keeps {s0 : State} {_ch : Nat} {_tag : Nat} {bd : Bytes} {s : State} (h0 : Keeps s0 s) : KR s0 (doTileGrant
    _ch _tag bd s) := by
  unfold doTileGrant
  refine ite_of (P := KR s0) (fun _ => ?_) (fun _ => ?_)
  · exact refuseMsg_keeps h0
  · refine ite_of (P := KR s0) (fun _ => ?_) (fun _ => ?_)
    · exact kr_now (applyGrant_keeps h0)
    · exact kr_later h0

theorem holdMem_keeps {s0 : State} {fn : Nat} {ctx : Nat} {hint : Nat} {lastUse : Nat} {p : Nat × Nat} {s : State} (h0 : Keeps s0
    s) : Keeps s0 (holdMem fn ctx hint lastUse p s) := by
  unfold holdMem
  extract_lets -merge -underBinder +onlyGivenNames x1
  clear_value x1
  extract_lets -merge -underBinder +onlyGivenNames x2
  clear_value x2
  refine keeps_mk ?_ (Nat.le_refl _) rfl (fun h => h) (fun h => h)
  exact h0

theorem releaseMem_keeps {s0 : State} {ctx : Nat} {s : State} (h0 : Keeps s0 s) : Keeps s0 (releaseMem ctx s) := by
  unfold releaseMem
  refine keeps_mk ?_ (Nat.le_refl _) rfl (fun h => h) (fun h => h)
  exact h0

theorem doUnmap_keeps {s0 : State} {ch : Nat} {_tag : Nat} {bd : Bytes} {s : State} (h0 : Keeps s0 s) : KR s0 (doUnmap ch _tag bd
    s) := by
  unfold doUnmap
  refine ite_of (P := KR s0) (fun _ => ?_) (fun _ => ?_)
  · exact refuseMsg_keeps h0
  · split
    · exact refuseMsg_keeps h0
    · exact kr_later h0

theorem removeMaps_keeps {s0 : State} {ctx : Nat} {ms : List Mapping} {s : State} (h0 : Keeps s0 s) : Keeps s0 (removeMaps ctx ms
    s) := by
  unfold removeMaps
  exact modCtx_keeps h0

theorem noteUnmapped_keeps {s0 : State} {ctx : Nat} {ms : List Mapping} {s : State} (h0 : Keeps s0 s) : Keeps s0 (noteUnmapped ctx
    ms s) := by
  unfold noteUnmapped
  refine keeps_mk ?_ (Nat.le_refl _) rfl (fun h => h) (fun h => h)
  exact h0

theorem doMemQuery_keeps {s0 : State} {ch : Nat} {_tag : Nat} {bd : Bytes} {s : State} (h0 : Keeps s0 s) : KR s0 (doMemQuery ch
    _tag bd s) := by
  unfold doMemQuery
  extract_lets -merge -underBinder +onlyGivenNames x1
  refine ite_of (P := KR s0) (fun _ => ?_) (fun _ => ?_)
  · exact refuseMsg_keeps h0
  · exact kr_now h0

theorem postMoved_keeps {s0 : State} {ctx : Nat} {va : Nat} {s : State} (h0 : Keeps s0 s) : Keeps s0 (postMoved ctx va s) := by
  unfold postMoved
  exact postEvent_keeps h0

theorem movePage_keeps {s0 : State} {old : Nat} {size : Nat} {new : Nat} {s : State} (h0 : Keeps s0 s) : Keeps s0 (movePage old
    size new s) := by
  unfold movePage
  extract_lets -merge -underBinder +onlyGivenNames x1
  clear_value x1
  extract_lets -merge -underBinder +onlyGivenNames x2
  clear_value x2
  extract_lets -merge -underBinder +onlyGivenNames x3
  extract_lets -merge -underBinder +onlyGivenNames x4
  clear_value x4
  extract_lets -merge -underBinder +onlyGivenNames x5
  clear_value x5
  extract_lets -merge -underBinder +onlyGivenNames x6
  have h7 : Keeps s0 x6 := by
    unfold x6
    refine keeps_mk ?_ (Nat.le_refl _) rfl (fun h => by repeat' first | with_reducible exact h | with_reducible apply memWriteN_wf | with_reducible apply memWrite_wf | with_reducible apply memClear_wf | with_reducible apply putImage_wf | with_reducible apply pokeRuns_wf | exact rfl) (fun h => h)
    exact h0
  clear_value x6
  refine foldl_of (P := Keeps s0) (fun _ _ h8 => ?_) ?_
  · exact postMoved_keeps h8
  · exact h7

theorem movePages_keeps {s0 : State} {k : Nat} {size : Nat} {l : List Nat} {s : State} (h0 : Keeps s0 s) : Keeps s0 (movePages k
    size l s) := by
  unfold movePages
  refine foldl_of (P := Keeps s0) (fun _ _ h1 => ?_) ?_
  · split
    · exact movePage_keeps h1
    · exact h1
  · exact h0

theorem shrinkCtxs_keeps {s0 : State} {k : Nat} {s : State} (h0 : Keeps s0 s) : Keeps s0 (shrinkCtxs k s) := by
  unfold shrinkCtxs
  refine foldl_of (P := Keeps s0) (fun _ _ h1 => ?_) ?_
  · extract_lets -merge -underBinder +onlyGivenNames x2
    clear_value x2
    refine ite_of (P := Keeps s0) (fun _ => ?_) (fun _ => ?_)
    · exact h1
    · extract_lets -merge -underBinder +onlyGivenNames x3
      have h4 : Keeps s0 x3 := by
        unfold x3
        exact modCtx_keeps h1
      clear_value x3
      exact postEvent_keeps h4
  · exact h0

theorem clearSlab_keeps {s0 : State} {k : Nat} {s : State} (h0 : Keeps s0 s) : Keeps s0 (clearSlab k s) := by
  unfold clearSlab
  extract_lets -merge -underBinder +onlyGivenNames x1
  have h2 : Keeps s0 x1 := by
    unfold x1
    exact movePages_keeps h0
  clear_value x1
  extract_lets -merge -underBinder +onlyGivenNames x3
  have h4 : Keeps s0 x3 := by
    unfold x3
    exact movePages_keeps h2
  clear_value x3
  exact shrinkCtxs_keeps h4

theorem beginMapout_keeps {s0 : State} {k : Nat} {c : Nat} {s : State} (h0 : Keeps s0 s) : KP s0 (beginMapout k c s) := by
  unfold beginMapout
  extract_lets -merge -underBinder +onlyGivenNames x1
  clear_value x1
  extract_lets -merge -underBinder +onlyGivenNames x2
  have h3 : Keeps s0 x2 := by
    unfold x2
    refine ite_of (P := Keeps s0) (fun _ => ?_) (fun _ => ?_)
    · exact h0
    · exact setChan_keeps h0
  clear_value x2
  refine ite_of (P := KP s0) (fun _ => ?_) (fun _ => ?_)
  · extract_lets -merge -underBinder +onlyGivenNames x4 x5
    have h6 : Keeps s0 x5 := by
      unfold x5
      refine keeps_mk ?_ (Nat.le_refl _) rfl (fun h => h) (fun h => h)
      exact h3
    clear_value x5
    exact kp_mk (logEntry_keeps h6)
  · exact kp_mk (clearSlab_keeps h3)

theorem doChannelMapout_keeps {s0 : State} {_ch : Nat} {_tag : Nat} {bd : Bytes} {s : State} (h0 : Keeps s0 s) : KR s0
    (doChannelMapout _ch _tag bd s) := by
  unfold doChannelMapout
  extract_lets -merge -underBinder +onlyGivenNames x1
  extract_lets -merge -underBinder +onlyGivenNames x2
  refine ite_of (P := KR s0) (fun _ => ?_) (fun _ => ?_)
  · exact refuseMsg_keeps h0
  · extract_lets -merge -underBinder +onlyGivenNames x3
    have h4 : KP s0 x3 := by
      unfold x3
      exact beginMapout_keeps h0
    clear_value x3
    exact kr_later (kp_snd h4)

theorem decideMapout_keeps {s0 : State} {k : Nat} {c : Nat} {s : State} (h0 : Keeps s0 s) : Keeps s0 (decideMapout k c s) := by
  unfold decideMapout
  extract_lets -merge -underBinder +onlyGivenNames x1 x2
  have h3 : Keeps s0 x2 := keeps_mk h0 (Nat.le_succ _) rfl (fun h => h) (fun h => h)
  refine ite_of (P := Keeps s0) (fun _ => ?_) (fun _ => h3)
  have h5 : Keeps s0 (beginMapout k c x2).2 := kp_snd (beginMapout_keeps h3)
  exact ite_of (P := Keeps s0) (fun _ => h5) (fun _ => keeps_mk h5 (Nat.le_refl _) rfl (fun h => h) (fun h => h))

theorem clearSlabs_keeps {s0 : State} {s : State} (h0 : Keeps s0 s) : Keeps s0 (clearSlabs s) := by
  unfold clearSlabs
  refine foldl_of (P := Keeps s0) (fun _ _ h1 => ?_) ?_
  · exact clearSlab_keeps h1
  · exact h0

theorem doMap_keeps {s0 : State} {ch : Nat} {_tag : Nat} {bd : Bytes} {s : State} (h0 : Keeps s0 s) : KR s0 (doMap ch _tag bd s)
    := by
  unfold doMap
  extract_lets -merge -underBinder +onlyGivenNames x1
  split
  · exact refuseMsg_keeps h0
  · split
    · exact refuseMsg_keeps h0
    · extract_lets -merge -underBinder +onlyGivenNames x2
      clear_value x2
      extract_lets -merge -underBinder +onlyGivenNames x3
      have h4 : Keeps s0 x3 := by
        unfold x3
        exact modCtx_keeps h0
      clear_value x3
      extract_lets -merge -underBinder +onlyGivenNames x5
      refine kr_now ?_
      refine clearSlabs_keeps ?_
      refine ite_of (P := Keeps s0) (fun _ => ?_) (fun _ => ?_)
      · exact h4
      · refine foldl_of (P := Keeps s0) (fun _ _ h6 => ?_) ?_
        · exact holdMem_keeps h6
        · exact h4

theorem doStageqCreate_keeps {s0 : State} {ch : Nat} {_tag : Nat} {bd : Bytes} {s : State} (h0 : Keeps s0 s) : KR s0
    (doStageqCreate ch _tag bd s) := by
  unfold doStageqCreate
  extract_lets -merge -underBinder +onlyGivenNames x1
  extract_lets -merge -underBinder +onlyGivenNames x2
  split
  · exact refuseMsg_keeps h0
  · refine ite_of (P := KR s0) (fun _ => ?_) (fun _ => ?_)
    · exact refuseMsg_keeps h0
    · refine ite_of (P := KR s0) (fun _ => ?_) (fun _ => ?_)
      · exact refuseMsg_keeps h0
      · extract_lets -merge -underBinder +onlyGivenNames x3
        clear_value x3
        extract_lets -merge -underBinder +onlyGivenNames x4
        clear_value x4
        refine kr_now ?_
        refine ctrPut_keeps ?_
        refine keeps_mk ?_ (Nat.le_refl _) rfl (fun h => h) (fun h => h)
        exact h0

theorem doStageqQuery_keeps {s0 : State} {ch : Nat} {_tag : Nat} {bd : Bytes} {s : State} (h0 : Keeps s0 s) : KR s0 (doStageqQuery
    ch _tag bd s) := by
  unfold doStageqQuery
  extract_lets -merge -underBinder +onlyGivenNames x1
  split
  · refine ite_of (P := KR s0) (fun _ => ?_) (fun _ => ?_)
    · exact refuseMsg_keeps h0
    · refine kr_now ?_
      refine ite_of (P := Keeps s0) (fun _ => ?_) (fun _ => ?_)
      · exact modEnd_keeps h0
      · exact h0
  · exact refuseMsg_keeps h0
  · exact refuseMsg_keeps h0

theorem doStageqDestroy_keeps {s0 : State} {ch : Nat} {_tag : Nat} {bd : Bytes} {s : State} (h0 : Keeps s0 s) : KR s0
    (doStageqDestroy ch _tag bd s) := by
  unfold doStageqDestroy
  extract_lets -merge -underBinder +onlyGivenNames x1
  split
  · exact refuseMsg_keeps h0
  · refine kr_now ?_
    refine keeps_mk ?_ (Nat.le_refl _) rfl (fun h => h) (fun h => h)
    exact h0

theorem sendWaited_keeps {s0 : State} {dst : BitVec 12} {code : Nat} {bd : Bytes} {x : List (BitVec 32) × State} (h0 : KP s0 x) :
    KP s0 (sendWaited dst code bd x) := by
  unfold sendWaited
  exact kp_mk (mgmtSend_keeps (kp_snd h0))

theorem sendTable_keeps {s0 : State} {code : Nat} {gn : Nat} {qz : Nat} {epoch : Nat} {r : Nat} {t : List (BitVec 32)} {m : BitVec
    12 × Nat} {x : List (BitVec 32) × State} (h0 : KP s0 x) : KP s0 (sendTable code gn qz epoch r t m x) := by
  unfold sendTable
  refine foldl_of (P := KP s0) (fun _ _ h1 => ?_) ?_
  · extract_lets -merge -underBinder +onlyGivenNames x2
    clear_value x2
    exact sendWaited_keeps h1
  · exact h0

theorem setGroup_keeps {s0 : State} {ch : Nat} {bd : Bytes} {s : State} (h0 : Keeps s0 s) : KR s0 (setGroup ch bd s) := by
  unfold setGroup
  extract_lets -merge -underBinder +onlyGivenNames x1
  extract_lets -merge -underBinder +onlyGivenNames x2
  clear_value x2
  extract_lets -merge -underBinder +onlyGivenNames x3
  split
  · exact refuseMsg_keeps h0
  · refine ite_of (P := KR s0) (fun _ => ?_) (fun _ => ?_)
    · exact refuseMsg_keeps h0
    · split
      · exact refuseMsg_keeps h0
      · extract_lets -merge -underBinder +onlyGivenNames x4
        clear_value x4
        extract_lets -merge -underBinder +onlyGivenNames x5
        clear_value x5
        refine ite_of (P := KR s0) (fun _ => ?_) (fun _ => ?_)
        · exact refuseMsg_keeps h0
        · refine ite_of (P := KR s0) (fun _ => ?_) (fun _ => ?_)
          · exact refuseMsg_keeps h0
          · refine ite_of (P := KR s0) (fun _ => ?_) (fun _ => ?_)
            · exact refuseMsg_keeps h0
            · extract_lets -merge -underBinder +onlyGivenNames x6 x7
              clear_value x6
              have h8 : Keeps s0 x7 := by
                unfold x7
                refine keeps_mk ?_ (Nat.le_refl _) rfl (fun h => h) (fun h => h)
                exact h0
              clear_value x7
              extract_lets -merge -underBinder +onlyGivenNames x9
              have h10 : KP s0 x9 := by
                unfold x9
                refine foldl_of (P := KP s0) (fun _ _ h11 => ?_) ?_
                · exact sendTable_keeps h11
                · exact kp_mk h8
              clear_value x9
              exact kr_later (kp_snd h10)

theorem removeGroup_keeps {s0 : State} {ch : Nat} {bd : Bytes} {s : State} (h0 : Keeps s0 s) : KR s0 (removeGroup ch bd s) := by
  unfold removeGroup
  extract_lets -merge -underBinder +onlyGivenNames x1
  extract_lets -merge -underBinder +onlyGivenNames x2
  clear_value x2
  extract_lets -merge -underBinder +onlyGivenNames x3
  clear_value x3
  extract_lets -merge -underBinder +onlyGivenNames x4
  clear_value x4
  refine ite_of (P := KR s0) (fun _ => ?_) (fun _ => ?_)
  · exact refuseMsg_keeps h0
  · refine ite_of (P := KR s0) (fun _ => ?_) (fun _ => ?_)
    · exact refuseMsg_keeps h0
    · extract_lets -merge -underBinder +onlyGivenNames x5 x6
      clear_value x5
      have h7 : Keeps s0 x6 := by
        unfold x6
        refine keeps_mk ?_ (Nat.le_refl _) rfl (fun h => h) (fun h => h)
        exact h0
      clear_value x6
      extract_lets -merge -underBinder +onlyGivenNames x8
      have h9 : KP s0 x8 := by
        unfold x8
        refine foldl_of (P := KP s0) (fun _ _ h10 => ?_) ?_
        · exact sendWaited_keeps h10
        · exact kp_mk h7
      clear_value x8
      exact kr_later (kp_snd h9)

theorem doGroupSet_keeps {s0 : State} {ch : Nat} {_tag : Nat} {bd : Bytes} {s : State} (h0 : Keeps s0 s) : KR s0 (doGroupSet ch
    _tag bd s) := by
  unfold doGroupSet
  split
  · exact setGroup_keeps h0
  · exact setGroup_keeps h0
  · exact removeGroup_keeps h0
  · exact refuseMsg_keeps h0

theorem doGroupQuery_keeps {s0 : State} {ch : Nat} {_tag : Nat} {bd : Bytes} {s : State} (h0 : Keeps s0 s) : KR s0 (doGroupQuery
    ch _tag bd s) := by
  unfold doGroupQuery
  extract_lets -merge -underBinder +onlyGivenNames x1
  split
  · exact refuseMsg_keeps h0
  · refine ite_of (P := KR s0) (fun _ => ?_) (fun _ => ?_)
    · exact refuseMsg_keeps h0
    · refine ite_of (P := KR s0) (fun _ => ?_) (fun _ => ?_)
      · exact refuseMsg_keeps h0
      · refine kr_now ?_
        refine ite_of (P := Keeps s0) (fun _ => ?_) (fun _ => ?_)
        · exact modGroup_keeps h0
        · exact h0

/-! ### Mailbox -/

theorem deferReq_keeps {s0 : State} {ch : Nat} {code : Nat} {tag : Nat} {bd : Bytes} {begun : Bool} {waits : List (BitVec 32)}
    {bad : Nat} {s : State} (h0 : Keeps s0 s) : Keeps s0 (deferReq ch code tag bd begun waits bad s) := by
  unfold deferReq
  refine keeps_mk ?_ (Nat.le_refl _) rfl (fun h => h) (fun h => h)
  exact h0

/-- The handlers of the catalogue. -/
theorem handler_keeps {s0 : State} {code : Nat} {r : MsgRow} (hr : msgRow code = some r) {ch tag : Nat} {bd : Bytes} {s : State}
    (h : Keeps s0 s) : KR s0 (r.handler ch tag bd s) := by
  unfold msgRow at hr
  split at hr <;> first | (cases hr; done) | skip
  all_goals
    cases hr
    dsimp only
    first
    | with_reducible exact doIdentify_keeps h | with_reducible exact doStatusQuery_keeps h
    | with_reducible exact doTelemetryRead_keeps h | with_reducible exact doLogRead_keeps h
    | with_reducible exact doMicaSlices_keeps h | with_reducible exact doBar2Set_keeps h
    | with_reducible exact doCtxCreate_keeps h | with_reducible exact doCtxDestroy_keeps h
    | with_reducible exact doCtxQuery_keeps h | with_reducible exact doCounterGrant_keeps h
    | with_reducible exact doQueueCreate_keeps h | with_reducible exact doQueueDestroy_keeps h
    | with_reducible exact doTileGrant_keeps h | with_reducible exact doMap_keeps h
    | with_reducible exact doUnmap_keeps h | with_reducible exact doMemQuery_keeps h
    | with_reducible exact doChannelMapout_keeps h | with_reducible exact doStageqCreate_keeps h
    | with_reducible exact doStageqQuery_keeps h | with_reducible exact doStageqDestroy_keeps h
    | with_reducible exact doGroupSet_keeps h | with_reducible exact doGroupQuery_keeps h
    | with_reducible exact doRoleSet_keeps h | with_reducible exact doLeave_keeps h
    | with_reducible exact doPowerCapSet_keeps h | with_reducible exact doOppointSet_keeps h
    | with_reducible exact doWakeSet_keeps h | with_reducible exact doFwQuery_keeps h
    | with_reducible exact doFwStage_keeps h | with_reducible exact doFwActivate_keeps h
    | with_reducible exact doFwCommit_keeps h | with_reducible exact doRecalibrate_keeps h

theorem serveReq_keeps {s0 : State} {ch : Nat} {req : Bytes} {s : State} (h : Keeps s0 s) : KPP s0 (serveReq ch req s) := by
  unfold serveReq
  extract_lets code tag bd
  refine ite_of (P := KPP s0) (fun _ => h) (fun _ => ?_)
  split
  · exact h
  · rename_i r hr
    refine ite_of (P := KPP s0) (fun _ => h) (fun _ => ?_)
    refine ite_of (P := KPP s0) (fun _ => h) (fun _ => ?_)
    refine ite_of (P := KPP s0) (fun _ => h) (fun _ => ?_)
    refine ite_of (P := KPP s0) (fun _ => h) (fun _ => ?_)
    refine ite_of (P := KPP s0) (fun _ => deferReq_keeps h) (fun _ => ?_)
    have k := handler_keeps (ch := ch) (tag := tag) (bd := bd) hr h
    split
    · rename_i heq
      exact cut_of (P := KR s0) heq k (fun h => h)
    · rename_i heq
      exact cut_of (P := KR s0) heq k (fun h => deferReq_keeps h)

theorem respondCh_keeps {s0 : State} {ch : Nat} {code : Nat} {tag : Nat} {status : Nat} {out : Bytes} {s : State} (h0 : Keeps s0
    s) : Keeps s0 (respondCh ch code tag status out s) := by
  unfold respondCh
  extract_lets -merge -underBinder +onlyGivenNames x1
  clear_value x1
  refine ite_of (P := Keeps s0) (fun _ => ?_) (fun _ => ?_)
  · refine keeps_mk ?_ (Nat.le_refl _) rfl (fun h => h) (fun h => h)
    exact h0
  · extract_lets -merge -underBinder +onlyGivenNames x2
    have h3 : Keeps s0 x2 := by
      unfold x2
      exact modFn_keeps h0
    clear_value x2
    extract_lets -merge -underBinder +onlyGivenNames x4
    clear_value x4
    refine ite_of (P := Keeps s0) (fun _ => ?_) (fun _ => ?_)
    · exact raiseMsix_keeps h3
    · exact h3

theorem answerReq_keeps {s0 : State} {ch : Nat} {req : Bytes} {s : State} (h0 : Keeps s0 s) : Keeps s0 (answerReq ch req s) := by
  unfold answerReq
  extract_lets -merge -underBinder +onlyGivenNames x1
  have h2 : KPP s0 x1 := by
    unfold x1
    exact serveReq_keeps h0
  clear_value x1
  exact respondCh_keeps (kp_snd (kpp_snd h2))

theorem submitReq_keeps {s0 : State} {ch : Nat} {req : Bytes} {s : State} (h0 : Keeps s0 s) : Keeps s0 (submitReq ch req s) := by
  unfold submitReq
  extract_lets -merge -underBinder +onlyGivenNames x1
  refine ite_of (P := Keeps s0) (fun _ => ?_) (fun _ => ?_)
  · refine ite_of (P := Keeps s0) (fun _ => ?_) (fun _ => ?_)
    · exact h0
    · refine ite_of (P := Keeps s0) (fun _ => ?_) (fun _ => ?_)
      · refine ite_of (P := Keeps s0) (fun _ => ?_) (fun _ => ?_)
        · exact answerReq_keeps h0
        · exact h0
      · split
        · refine keeps_mk ?_ (Nat.le_refl _) rfl (fun h => h) (fun h => h)
          exact h0
        · refine ite_of (P := Keeps s0) (fun _ => ?_) (fun _ => ?_)
          · exact answerReq_keeps h0
          · exact h0
        · exact answerReq_keeps h0
  · refine ite_of (P := Keeps s0) (fun _ => ?_) (fun _ => ?_)
    · exact h0
    · refine ite_of (P := Keeps s0) (fun _ => ?_) (fun _ => ?_)
      · exact modFn_keeps h0
      · extract_lets -merge -underBinder +onlyGivenNames x2
        have h3 : Keeps s0 x2 := by
          unfold x2
          exact wakeUp_keeps (modFn_keeps h0)
        clear_value x2
        extract_lets -merge -underBinder +onlyGivenNames x4
        clear_value x4
        refine ite_of (P := Keeps s0) (fun _ => ?_) (fun _ => ?_)
        · exact modFn_keeps h3
        · exact answerReq_keeps h3

theorem mailboxRow_keeps {s0 : State} {code : Nat} {ch : Nat} {req : Bytes} {s : State} (h0 : Keeps s0 s) : Keeps s0 (mailboxRow
    code ch req s) := by
  unfold mailboxRow
  refine ite_of (P := Keeps s0) (fun _ => ?_) (fun _ => ?_)
  · exact h0
  · exact submitReq_keeps h0

theorem execIdentify_keeps {s0 : State} {ch : Nat} {req : Bytes} {s : State} (h0 : Keeps s0 s) : KO s0 (execIdentify ch req s) := by
  unfold execIdentify
  exact ko_next (mailboxRow_keeps h0)

theorem execStatusQuery_keeps {s0 : State} {ch : Nat} {req : Bytes} {s : State} (h0 : Keeps s0 s) : KO s0 (execStatusQuery ch req
    s) := by
  unfold execStatusQuery
  exact ko_next (mailboxRow_keeps h0)

theorem execTelemetryRead_keeps {s0 : State} {ch : Nat} {req : Bytes} {s : State} (h0 : Keeps s0 s) : KO s0 (execTelemetryRead ch
    req s) := by
  unfold execTelemetryRead
  exact ko_next (mailboxRow_keeps h0)

theorem execLogRead_keeps {s0 : State} {ch : Nat} {req : Bytes} {s : State} (h0 : Keeps s0 s) : KO s0 (execLogRead ch req s) := by
  unfold execLogRead
  exact ko_next (mailboxRow_keeps h0)

theorem execMicaSlices_keeps {s0 : State} {ch : Nat} {req : Bytes} {s : State} (h0 : Keeps s0 s) : KO s0 (execMicaSlices ch req s)
    := by
  unfold execMicaSlices
  exact ko_next (mailboxRow_keeps h0)

theorem execBar2Set_keeps {s0 : State} {ch : Nat} {req : Bytes} {s : State} (h0 : Keeps s0 s) : KO s0 (execBar2Set ch req s) := by
  unfold execBar2Set
  exact ko_next (mailboxRow_keeps h0)

theorem execCtxCreate_keeps {s0 : State} {ch : Nat} {req : Bytes} {s : State} (h0 : Keeps s0 s) : KO s0 (execCtxCreate ch req s)
    := by
  unfold execCtxCreate
  exact ko_next (mailboxRow_keeps h0)

theorem execCtxDestroy_keeps {s0 : State} {ch : Nat} {req : Bytes} {s : State} (h0 : Keeps s0 s) : KO s0 (execCtxDestroy ch req s)
    := by
  unfold execCtxDestroy
  exact ko_next (mailboxRow_keeps h0)

theorem execCtxQuery_keeps {s0 : State} {ch : Nat} {req : Bytes} {s : State} (h0 : Keeps s0 s) : KO s0 (execCtxQuery ch req s) := by
  unfold execCtxQuery
  exact ko_next (mailboxRow_keeps h0)

theorem execCounterGrant_keeps {s0 : State} {ch : Nat} {req : Bytes} {s : State} (h0 : Keeps s0 s) : KO s0 (execCounterGrant ch
    req s) := by
  unfold execCounterGrant
  exact ko_next (mailboxRow_keeps h0)

theorem execQueueCreate_keeps {s0 : State} {ch : Nat} {req : Bytes} {s : State} (h0 : Keeps s0 s) : KO s0 (execQueueCreate ch req
    s) := by
  unfold execQueueCreate
  exact ko_next (mailboxRow_keeps h0)

theorem execQueueDestroy_keeps {s0 : State} {ch : Nat} {req : Bytes} {s : State} (h0 : Keeps s0 s) : KO s0 (execQueueDestroy ch
    req s) := by
  unfold execQueueDestroy
  exact ko_next (mailboxRow_keeps h0)

theorem execTileGrant_keeps {s0 : State} {ch : Nat} {req : Bytes} {s : State} (h0 : Keeps s0 s) : KO s0 (execTileGrant ch req s)
    := by
  unfold execTileGrant
  exact ko_next (mailboxRow_keeps h0)

theorem execMapPages_keeps {s0 : State} {ch : Nat} {req : Bytes} {s : State} (h0 : Keeps s0 s) : KO s0 (execMapPages ch req s) := by
  unfold execMapPages
  exact ko_next (mailboxRow_keeps h0)

theorem execUnmap_keeps {s0 : State} {ch : Nat} {req : Bytes} {s : State} (h0 : Keeps s0 s) : KO s0 (execUnmap ch req s) := by
  unfold execUnmap
  exact ko_next (mailboxRow_keeps h0)

theorem execMemQuery_keeps {s0 : State} {ch : Nat} {req : Bytes} {s : State} (h0 : Keeps s0 s) : KO s0 (execMemQuery ch req s) := by
  unfold execMemQuery
  exact ko_next (mailboxRow_keeps h0)

theorem execChannelMapout_keeps {s0 : State} {ch : Nat} {req : Bytes} {s : State} (h0 : Keeps s0 s) : KO s0 (execChannelMapout ch
    req s) := by
  unfold execChannelMapout
  exact ko_next (mailboxRow_keeps h0)

theorem execStageqCreate_keeps {s0 : State} {ch : Nat} {req : Bytes} {s : State} (h0 : Keeps s0 s) : KO s0 (execStageqCreate ch
    req s) := by
  unfold execStageqCreate
  exact ko_next (mailboxRow_keeps h0)

theorem execStageqQuery_keeps {s0 : State} {ch : Nat} {req : Bytes} {s : State} (h0 : Keeps s0 s) : KO s0 (execStageqQuery ch req
    s) := by
  unfold execStageqQuery
  exact ko_next (mailboxRow_keeps h0)

theorem execStageqDestroy_keeps {s0 : State} {ch : Nat} {req : Bytes} {s : State} (h0 : Keeps s0 s) : KO s0 (execStageqDestroy ch
    req s) := by
  unfold execStageqDestroy
  exact ko_next (mailboxRow_keeps h0)

theorem execGroupSet_keeps {s0 : State} {ch : Nat} {req : Bytes} {s : State} (h0 : Keeps s0 s) : KO s0 (execGroupSet ch req s) := by
  unfold execGroupSet
  exact ko_next (mailboxRow_keeps h0)

theorem execGroupQuery_keeps {s0 : State} {ch : Nat} {req : Bytes} {s : State} (h0 : Keeps s0 s) : KO s0 (execGroupQuery ch req s)
    := by
  unfold execGroupQuery
  exact ko_next (mailboxRow_keeps h0)

theorem execRoleSet_keeps {s0 : State} {ch : Nat} {req : Bytes} {s : State} (h0 : Keeps s0 s) : KO s0 (execRoleSet ch req s) := by
  unfold execRoleSet
  exact ko_next (mailboxRow_keeps h0)

theorem execLeave_keeps {s0 : State} {ch : Nat} {req : Bytes} {s : State} (h0 : Keeps s0 s) : KO s0 (execLeave ch req s) := by
  unfold execLeave
  exact ko_next (mailboxRow_keeps h0)

theorem execPowerCapSet_keeps {s0 : State} {ch : Nat} {req : Bytes} {s : State} (h0 : Keeps s0 s) : KO s0 (execPowerCapSet ch req
    s) := by
  unfold execPowerCapSet
  exact ko_next (mailboxRow_keeps h0)

theorem execOppointSet_keeps {s0 : State} {ch : Nat} {req : Bytes} {s : State} (h0 : Keeps s0 s) : KO s0 (execOppointSet ch req s)
    := by
  unfold execOppointSet
  exact ko_next (mailboxRow_keeps h0)

theorem execWakeSet_keeps {s0 : State} {ch : Nat} {req : Bytes} {s : State} (h0 : Keeps s0 s) : KO s0 (execWakeSet ch req s) := by
  unfold execWakeSet
  exact ko_next (mailboxRow_keeps h0)

theorem execFwQuery_keeps {s0 : State} {ch : Nat} {req : Bytes} {s : State} (h0 : Keeps s0 s) : KO s0 (execFwQuery ch req s) := by
  unfold execFwQuery
  exact ko_next (mailboxRow_keeps h0)

theorem execFwStage_keeps {s0 : State} {ch : Nat} {req : Bytes} {s : State} (h0 : Keeps s0 s) : KO s0 (execFwStage ch req s) := by
  unfold execFwStage
  exact ko_next (mailboxRow_keeps h0)

theorem execFwActivate_keeps {s0 : State} {ch : Nat} {req : Bytes} {s : State} (h0 : Keeps s0 s) : KO s0 (execFwActivate ch req s)
    := by
  unfold execFwActivate
  exact ko_next (mailboxRow_keeps h0)

theorem execFwCommit_keeps {s0 : State} {ch : Nat} {req : Bytes} {s : State} (h0 : Keeps s0 s) : KO s0 (execFwCommit ch req s) := by
  unfold execFwCommit
  exact ko_next (mailboxRow_keeps h0)

theorem execRecalibrate_keeps {s0 : State} {ch : Nat} {req : Bytes} {s : State} (h0 : Keeps s0 s) : KO s0 (execRecalibrate ch req
    s) := by
  unfold execRecalibrate
  exact ko_next (mailboxRow_keeps h0)

theorem execMailboxReservedCode_keeps {s0 : State} {ch : Nat} {req : Bytes} {s : State} (h0 : Keeps s0 s) : KO s0
    (execMailboxReservedCode ch req s) := by
  unfold execMailboxReservedCode
  refine ko_next ?_
  extract_lets -merge -underBinder +onlyGivenNames x1
  clear_value x1
  refine ite_of (P := Keeps s0) (fun _ => ?_) (fun _ => ?_)
  · exact submitReq_keeps h0
  · exact h0

theorem execOverrun_keeps {s0 : State} {ch : Nat} {_req : Bytes} {s : State} (h0 : Keeps s0 s) : KO s0 (execOverrun ch _req s) := by
  unfold execOverrun
  refine ko_next ?_
  refine ite_of (P := Keeps s0) (fun _ => ?_) (fun _ => ?_)
  · exact modFn_keeps h0
  · exact h0

theorem postMsgDone_keeps {s0 : State} {d : Deferred} {status : Nat} {result : Bytes} {s : State} (h0 : Keeps s0 s) : Keeps s0
    (postMsgDone d status result s) := by
  unfold postMsgDone
  refine ite_of (P := Keeps s0) (fun _ => ?_) (fun _ => ?_)
  · exact h0
  · exact postEventF_keeps h0

theorem dropDeferred_keeps {s0 : State} {n : Nat} {s : State} (h0 : Keeps s0 s) : Keeps s0 (dropDeferred n s) := by
  unfold dropDeferred
  refine keeps_mk ?_ (Nat.le_refl _) rfl (fun h => h) (fun h => h)
  exact h0

theorem beginDeferred_keeps {s0 : State} {n : Nat} {d : Deferred} {s : State} (h : Keeps s0 s) : Keeps s0 (beginDeferred n d s) :=
    by
  unfold beginDeferred
  split
  · exact dropDeferred_keeps h
  · rename_i r hr
    have k := handler_keeps (ch := d.ch) (tag := d.tag.toNat) (bd := d.req) hr h
    split
    · rename_i heq
      exact cut_of (P := KR s0) heq k (fun h => postMsgDone_keeps (dropDeferred_keeps h))
    · rename_i heq
      exact cut_of (P := KR s0) heq k (fun h => keeps_mk h (Nat.le_refl _) rfl (fun h => h) (fun h => h))

theorem finishDeferred_keeps {s0 : State} {d : Deferred} {s : State} {r : Nat × State} (h : Keeps s0 s) (hr : finishDeferred d s =
    some r) :
    Keeps s0 r.2 := by
  unfold finishDeferred at hr
  split at hr
  · cases hr
    exact h
  · split at hr
    · unfold endQueueDestroy at hr
      extract_lets at hr
      split at hr
      · cases hr
        exact keeps_mk h (Nat.le_refl _) rfl (fun h => h) (fun h => h)
      · cases hr
    · unfold endTileGrant at hr
      split at hr
      · cases hr
        exact h
      · split at hr
        · cases hr
          exact applyGrant_keeps h
        · cases hr
    · unfold endUnmap at hr
      extract_lets at hr
      split at hr
      · cases hr
        exact h
      · split at hr
        · cases hr
        · cases hr
          exact removeMaps_keeps h
    · split at hr
      · cases hr
        exact h
      · cases hr
    · cases hr
      exact endFwStage_keeps h
    · cases hr
      exact endRecalibrate_keeps h
    · cases hr

theorem execMsgDone_keeps {s0 : State} {n : Nat} {s : State} (h : Keeps s0 s) : KO s0 (execMsgDone n s) := by
  unfold execMsgDone
  refine ko_next ?_
  split
  · exact h
  · refine ite_of (P := Keeps s0) (fun _ => ?_) (fun _ => ?_)
    · refine ite_of (P := Keeps s0) (fun _ => h) (fun _ => ?_)
      split
      · rename_i hr
        exact postMsgDone_keeps (dropDeferred_keeps (finishDeferred_keeps h hr))
      · exact h
    · refine ite_of (P := Keeps s0) (fun _ => h) (fun _ => ?_)
      exact beginDeferred_keeps h

/-! ### Drain -/

theorem freeBanks_keeps {s0 : State} {c : Nat} {s : State} (h0 : Keeps s0 s) : Keeps s0 (freeBanks c s) := by
  unfold freeBanks
  refine keeps_mk ?_ (Nat.le_refl _) rfl (fun h => h) (fun h => h)
  exact h0

theorem clearCtx_keeps {s0 : State} {c : Nat} {s : State} (h0 : Keeps s0 s) : Keeps s0 (clearCtx c s) := by
  unfold clearCtx
  extract_lets -merge -underBinder +onlyGivenNames x1
  clear_value x1
  extract_lets -merge -underBinder +onlyGivenNames x2
  have h3 : Keeps s0 x2 := by
    unfold x2
    refine releaseMem_keeps ?_
    refine freeBanks_keeps ?_
    refine foldl_of (P := Keeps s0) (fun _ _ h4 => ?_) ?_
    · exact dropGroup_keeps h4
    · exact h0
  clear_value x2
  refine releaseHolds_keeps ?_
  refine keeps_mk ?_ (Nat.le_refl _) rfl (fun h => h) (fun h => h)
  exact h3

theorem execCtxDrained_keeps {s0 : State} {c : Nat} {s : State} (h0 : Keeps s0 s) : KO s0 (execCtxDrained c s) := by
  unfold execCtxDrained
  refine ko_next ?_
  refine ite_of (P := Keeps s0) (fun _ => ?_) (fun _ => ?_)
  · extract_lets -merge -underBinder +onlyGivenNames x1
    clear_value x1
    extract_lets -merge -underBinder +onlyGivenNames x2
    have h3 : Keeps s0 x2 := by
      unfold x2
      exact clearCtx_keeps h0
    clear_value x2
    extract_lets -merge -underBinder +onlyGivenNames x4
    clear_value x4
    extract_lets -merge -underBinder +onlyGivenNames x5
    clear_value x5
    extract_lets -merge -underBinder +onlyGivenNames x6
    have h7 : Keeps s0 x6 := by
      unfold x6
      refine keeps_mk ?_ (Nat.le_refl _) rfl (fun h => h) (fun h => h)
      exact h3
    clear_value x6
    refine ite_of (P := Keeps s0) (fun _ => ?_) (fun _ => ?_)
    · exact h7
    · refine foldl_of (P := Keeps s0) (fun _ _ h8 => ?_) ?_
      · exact postMsgDone_keeps h8
      · exact postEvent_keeps h7
  · exact h0

theorem execCtxNumberRelease_keeps {s0 : State} {c : Nat} {s : State} (h0 : Keeps s0 s) : KO s0 (execCtxNumberRelease c s) := by
  unfold execCtxNumberRelease
  refine ko_next ?_
  split
  · refine ite_of (P := Keeps s0) (fun _ => ?_) (fun _ => ?_)
    · exact modCtx_keeps h0
    · exact h0
  · exact h0

theorem copyErrors_keeps {s0 : State} {stack : Nat} {slab : Nat} {s : State} (h0 : Keeps s0 s) : Keeps s0 (copyErrors stack slab
    s) := by
  unfold copyErrors
  refine keeps_mk h0 (Nat.le_succ _) rfl (fun h => ?_) (fun h => h)
  refine foldl_of (P := fun m => Memory.wf m = true) (fun m w hm => ?_) h
  exact ite_of (P := fun m => Memory.wf m = true) (fun _ => memWrite_wf hm) (fun _ => hm)

theorem execMapoutComplete_keeps {s0 : State} {stack : Nat} {chan : Nat} {s : State} (h0 : Keeps s0 s) : KO s0 (execMapoutComplete
    stack chan s) := by
  unfold execMapoutComplete
  refine ko_next ?_
  extract_lets -merge -underBinder +onlyGivenNames x1
  clear_value x1
  extract_lets -merge -underBinder +onlyGivenNames x2
  clear_value x2
  refine ite_of (P := Keeps s0) (fun _ => ?_) (fun _ => ?_)
  · extract_lets -merge -underBinder +onlyGivenNames x3
    extract_lets -merge -underBinder +onlyGivenNames x4
    extract_lets -merge -underBinder +onlyGivenNames x5
    have h6 : Keeps s0 x5 := by
      unfold x5
      exact copyErrors_keeps h0
    clear_value x5
    extract_lets -merge -underBinder +onlyGivenNames x7 x8 x9
    clear_value x8
    have h10 : Keeps s0 x9 := by
      unfold x9
      refine setChan_keeps ?_
      refine keeps_mk ?_ (Nat.le_refl _) rfl (fun h => by repeat' first | with_reducible exact h | with_reducible apply memWriteN_wf | with_reducible apply memWrite_wf | with_reducible apply memClear_wf | with_reducible apply putImage_wf | with_reducible apply pokeRuns_wf | exact rfl) (fun h => h)
      exact h6
    clear_value x9
    extract_lets -merge -underBinder +onlyGivenNames x11
    clear_value x11
    extract_lets -merge -underBinder +onlyGivenNames x12
    clear_value x12
    extract_lets -merge -underBinder +onlyGivenNames x13
    have h14 : Keeps s0 x13 := by
      unfold x13
      refine postAll_keeps ?_
      refine keeps_mk ?_ (Nat.le_refl _) rfl (fun h => h) (fun h => h)
      exact h10
    clear_value x13
    refine foldl_of (P := Keeps s0) (fun _ _ h15 => ?_) ?_
    · exact postMsgDone_keeps h15
    · exact h14
  · exact h0

theorem busData_keeps {s0 : State} {bs : Bytes} {s : State} (h0 : Keeps s0 s) : Keeps s0 (busData bs s) := by
  unfold busData
  refine keeps_mk ?_ (Nat.le_refl _) rfl (fun h => h) (fun h => h)
  exact h0

theorem countBad_keeps {s0 : State} {fn : Nat} {s : State} (h0 : Keeps s0 s) : Keeps s0 (countBad fn s) := by
  unfold countBad
  exact modFn_keeps h0

theorem bar2Pf_keeps {s0 : State} {write : Bool} {off : Nat} {len : Nat} {data : Bytes} {s : State} (h0 : Keeps s0 s) : Keeps s0
    (bar2Pf write off len data s) := by
  unfold bar2Pf
  extract_lets -merge -underBinder +onlyGivenNames x1
  extract_lets -merge -underBinder +onlyGivenNames x2
  extract_lets -merge -underBinder +onlyGivenNames x3
  have h4 : Keeps s0 x3 := by
    unfold x3
    refine touchStacks_keeps ?_
    refine ite_of (P := Keeps s0) (fun _ => ?_) (fun _ => ?_)
    · exact countBad_keeps h0
    · exact h0
  clear_value x3
  refine ite_of (P := Keeps s0) (fun _ => ?_) (fun _ => ?_)
  · exact store_keeps h4
  · exact busData_keeps (persistRead_keeps (kf_fst (countReads_keeps h4)))

theorem bar2None_keeps {s0 : State} {fn : Nat} {write : Bool} {len : Nat} {s : State} (h0 : Keeps s0 s) :
    Keeps s0 (bar2None fn write len s) := by
  unfold bar2None
  refine countBad_keeps ?_
  refine ite_of (P := Keeps s0) (fun _ => ?_) (fun _ => ?_)
  · exact h0
  · exact busData_keeps h0

theorem bar2Vf_keeps {s0 : State} {fn : Nat} {write : Bool} {off : Nat} {len : Nat} {data : Bytes} {s : State} (h0 : Keeps s0 s) :
    Keeps s0 (bar2Vf fn write off len data s) := by
  unfold bar2Vf
  extract_lets -merge -underBinder +onlyGivenNames x1
  split
  · exact bar2None_keeps h0
  · extract_lets -merge -underBinder +onlyGivenNames x2
    have h3 : Keeps s0 x2 := by
      unfold x2
      exact touchStacks_keeps h0
    clear_value x2
    extract_lets -merge -underBinder +onlyGivenNames x4
    refine ite_of (P := Keeps s0) (fun _ => ?_) (fun _ => ?_)
    · split
      · rename_i heq
        refine ek_cut (s0 := s0) heq ?_ ?_ (fun h5 => ?_)
        · exact writeV_keeps
        · show Keeps s0 _
          dsimp -zeta only
          exact h3
        · exact engCommit_keeps h5
      · rename_i heq
        refine ek_cut (s0 := s0) heq ?_ ?_ (fun h6 => ?_)
        · exact writeV_keeps
        · show Keeps s0 _
          dsimp -zeta only
          exact h3
        · refine countBad_keeps ?_
          refine foldl_of (P := Keeps s0) (fun _ _ h7 => ?_) ?_
          · exact ctxPoke_keeps h7
          · exact h3
    · split
      · rename_i heq
        refine ek_cut (s0 := s0) heq ?_ ?_ (fun h8 => ?_)
        · exact readV_keeps
        · show Keeps s0 _
          dsimp -zeta only
          exact h3
        · exact busData_keeps (engCommit_keeps h8)
      · rename_i heq
        refine ek_cut (s0 := s0) heq ?_ ?_ (fun h9 => ?_)
        · exact readV_keeps
        · show Keeps s0 _
          dsimp -zeta only
          exact h3
        · exact askRemote_keeps h3
      · rename_i heq
        refine ek_cut (s0 := s0) heq ?_ ?_ (fun h10 => ?_)
        · exact readV_keeps
        · show Keeps s0 _
          dsimp -zeta only
          exact h3
        · exact countBad_keeps (busData_keeps h3)

theorem execBar2Access_keeps {s0 : State} {fn : Nat} {write : Bool} {off : Nat} {len : Nat} {data : Bytes} {s : State} (h0 : Keeps
    s0 s) : KO s0 (execBar2Access fn write off len data s) := by
  unfold execBar2Access
  refine ko_next ?_
  refine ite_of (P := Keeps s0) (fun _ => ?_) (fun _ => ?_)
  · refine ite_of (P := Keeps s0) (fun _ => bar2None_keeps h0) (fun _ => ?_)
    refine ite_of (P := Keeps s0) (fun _ => ?_) (fun _ => ?_)
    · exact bar2Pf_keeps h0
    · exact bar2Vf_keeps h0
  · exact h0

theorem drainFn_keeps {s0 : State} {fn : Nat} {s : State} (h0 : Keeps s0 s) : Keeps s0 (drainFn fn s) := by
  unfold drainFn
  extract_lets -merge -underBinder +onlyGivenNames x1
  clear_value x1
  refine foldl_of (P := Keeps s0) (fun _ _ h2 => ?_) ?_
  · refine ite_of (P := Keeps s0) (fun _ => ?_) (fun _ => ?_)
    · exact modCtx_keeps h2
    · exact beginDrain_keeps h2
  · exact h0

theorem resetFn_keeps {s0 : State} {fn : Nat} {s : State} (h0 : Keeps s0 s) : Keeps s0 (resetFn fn s) := by
  unfold resetFn
  exact modFn_keeps (drainFn_keeps h0)

theorem execFlr_keeps {s0 : State} {fn : Nat} {s : State} (h0 : Keeps s0 s) : KO s0 (execFlr fn s) := by
  unfold execFlr
  refine ko_next ?_
  refine ite_of (P := Keeps s0) (fun _ => ?_) (fun _ => ?_)
  · exact h0
  · refine ite_of (P := Keeps s0) (fun _ => ?_) (fun _ => ?_)
    · refine foldl_of (P := Keeps s0) (fun _ _ h1 => ?_) ?_
      · exact resetFn_keeps h1
      · exact h0
    · exact resetFn_keeps h0

theorem execVfDisable_keeps {s0 : State} {fn : Nat} {s : State} (h0 : Keeps s0 s) : KO s0 (execVfDisable fn s) := by
  unfold execVfDisable
  refine ko_next ?_
  refine ite_of (P := Keeps s0) (fun _ => ?_) (fun _ => ?_)
  · exact h0
  · refine ite_of (P := Keeps s0) (fun _ => ?_) (fun _ => ?_)
    · refine foldl_of (P := Keeps s0) (fun _ _ h1 => ?_) ?_
      · exact resetFn_keeps h1
      · exact h0
    · exact resetFn_keeps h0

theorem execPerst_keeps {s0 : State} {s : State} (h0 : Keeps s0 s) : KO s0 (execPerst s) := by
  unfold execPerst
  refine ko_next ?_
  refine keeps_mk ?_ (Nat.le_refl _) rfl (fun h => h) (fun h => h)
  exact h0

theorem flushMsix_keeps {s0 : State} {s : State} {fn : Nat} (h0 : Keeps s0 s) : Keeps s0 (flushMsix s fn) := by
  unfold flushMsix
  extract_lets -merge -underBinder +onlyGivenNames x1
  clear_value x1
  extract_lets -merge -underBinder +onlyGivenNames x2
  clear_value x2
  refine modFn_keeps ?_
  refine keeps_mk ?_ (Nat.le_refl _) rfl (fun h => h) (fun h => h)
  exact h0

theorem execPerstDeassertion_keeps {s0 : State} {s : State} (h0 : Keeps s0 s) : KO s0 (execPerstDeassertion s) := by
  unfold execPerstDeassertion
  refine ko_next ?_
  refine ite_of (P := Keeps s0) (fun _ => ?_) (fun _ => ?_)
  · refine foldl_of (P := Keeps s0) (fun _ _ h1 => ?_) ?_
    · exact flushMsix_keeps h1
    · refine keeps_mk ?_ (Nat.le_refl _) rfl (fun h => h) (fun h => h)
      exact h0
  · exact h0

/-! ### Handover -/

theorem execHandover_keeps {s0 : State} {s : State} (h0 : Keeps s0 s) : KO s0 (execHandover s) := by
  unfold execHandover
  refine ko_next ?_
  refine ite_of (P := Keeps s0) (fun _ => ?_) (fun _ => ?_)
  · refine keeps_mk ?_ (Nat.le_refl _) rfl (fun h => h) (fun h => h)
    exact h0
  · exact h0

theorem answerLatched_keeps {s0 : State} {s : State} {ch : Nat} (h0 : Keeps s0 s) : Keeps s0 (answerLatched s ch) := by
  unfold answerLatched
  extract_lets -merge -underBinder +onlyGivenNames x1
  clear_value x1
  extract_lets -merge -underBinder +onlyGivenNames x2
  have h3 : Keeps s0 x2 := by
    unfold x2
    exact modFn_keeps h0
  clear_value x2
  extract_lets -merge -underBinder +onlyGivenNames x4
  have h5 : Keeps s0 x4 := by
    unfold x4
    refine foldl_of (P := Keeps s0) (fun _ _ h6 => ?_) ?_
    · exact kp_snd (kpp_snd (serveReq_keeps h6))
    · exact h3
  clear_value x4
  split
  · exact answerReq_keeps h5
  · exact h5

theorem scheduleSwitch_keeps {s0 : State} {s : State} (h0 : Keeps s0 s) : Keeps s0 (scheduleSwitch s) := by
  unfold scheduleSwitch
  split
  · refine keeps_mk ?_ (Nat.le_refl _) rfl (fun h => h) (fun h => h)
    exact h0
  · exact h0

theorem execHandoverEnd_keeps {s0 : State} {s : State} (h0 : Keeps s0 s) : KO s0 (execHandoverEnd s) := by
  unfold execHandoverEnd
  refine ko_next ?_
  refine ite_of (P := Keeps s0) (fun _ => ?_) (fun _ => ?_)
  · exact h0
  · extract_lets -merge -underBinder +onlyGivenNames x1
    have h2 : Keeps s0 x1 := by
      unfold x1
      refine scheduleSwitch_keeps ?_
      refine keeps_mk ?_ (Nat.le_refl _) rfl (fun h => h) (fun h => h)
      exact h0
    clear_value x1
    extract_lets -merge -underBinder +onlyGivenNames x3
    clear_value x3
    extract_lets -merge -underBinder +onlyGivenNames x4 x5
    clear_value x4
    have h6 : Keeps s0 x5 := by
      unfold x5
      refine foldl_of (P := Keeps s0) (fun _ _ h7 => ?_) ?_
      · exact answerLatched_keeps h7
      · refine keeps_mk ?_ (Nat.le_refl _) rfl (fun h => h) (fun h => h)
        exact h2
    clear_value x5
    extract_lets -merge -underBinder +onlyGivenNames x8
    have h9 : Keeps s0 x8 := by
      unfold x8
      refine foldl_of (P := Keeps s0) (fun _ _ h10 => ?_) ?_
      · exact answerReq_keeps h10
      · exact h6
    clear_value x8
    refine ite_of (P := Keeps s0) (fun _ => ?_) (fun _ => ?_)
    · exact announceReset_keeps h9
    · exact h9

theorem execFwActivated_keeps {s0 : State} {s : State} (h0 : Keeps s0 s) : KO s0 (execFwActivated s) := by
  unfold execFwActivated
  refine ko_next ?_
  split
  · exact h0
  · refine ite_of (P := Keeps s0) (fun _ => ?_) (fun _ => ?_)
    · exact h0
    · extract_lets -merge -underBinder +onlyGivenNames x1 x2
      have h3 : Keeps s0 x2 := by
        unfold x2
        refine keeps_mk ?_ (Nat.le_refl _) rfl (fun h => h) (fun h => h)
        exact h0
      clear_value x2
      extract_lets -merge -underBinder +onlyGivenNames x4
      have h5 : Keeps s0 x4 := by
        unfold x4
        exact postAll_keeps h3
      clear_value x4
      split
      · refine postMsgDone_keeps ?_
        refine keeps_mk ?_ (Nat.le_refl _) rfl (fun h => h) (fun h => h)
        exact h5
      · exact h5

theorem logImage_keeps {s0 : State} {b : Bool} {reason : Nat} {s : State} (h0 : Keeps s0 s) : Keeps s0 (logImage b reason s) := by
  unfold logImage
  extract_lets -merge -underBinder +onlyGivenNames x1
  clear_value x1
  exact logEntry_keeps h0

theorem execTrialReversion_keeps {s0 : State} {s : State} (h0 : Keeps s0 s) : KO s0 (execTrialReversion s) := by
  unfold execTrialReversion
  refine ko_next ?_
  refine ite_of (P := Keeps s0) (fun _ => ?_) (fun _ => ?_)
  · extract_lets -merge -underBinder +onlyGivenNames x1
    have h2 : Keeps s0 x1 := by
      unfold x1
      exact logImage_keeps h0
    clear_value x1
    refine keeps_mk ?_ (Nat.le_refl _) rfl (fun h => h) (fun h => h)
    exact h2
  · exact h0

end Sys2Proof.Machine
end

