-- ==== Sys2Proof/Laws/KeepsRecovery.lean ====
section
/-!
SUPPORT. What no command does (see Laws/Keeps.lean): supplies, power states, recovery and MCTP.
-/
namespace Sys2Proof.Machine

/-! ### Supply -/

theorem keptDark_keeps {s0 : State} {s : State} (h0 : Keeps s0 s) : Keeps s0 (keptDark s) := by
  unfold keptDark
  refine keeps_mk ?_ (Nat.le_refl _) rfl (fun h => by repeat' first | with_reducible exact h | with_reducible apply memWriteN_wf | with_reducible apply memWrite_wf | with_reducible apply memClear_wf | with_reducible apply putImage_wf | with_reducible apply pokeRuns_wf | exact rfl) (by first | exact fun h => h | exact fun _ => ⟨rfl, rfl⟩)
  exact h0

theorem execAuxSupplyValid_keeps {s0 : State} {straps : BitVec 3} {s : State} (h0 : Keeps s0 s) : KO s0 (execAuxSupplyValid straps
    s) := by
  unfold execAuxSupplyValid
  refine ite_of (P := KO s0) (fun _ => ?_) (fun _ => ?_)
  · exact ko_next h0
  · refine ite_of (P := KO s0) (fun _ => ?_) (fun _ => ?_)
    · exact ko_fault
    · refine ko_next ?_
      refine keeps_mk ?_ (Nat.le_refl _) rfl (fun h => h) (fun h => h)
      exact h0

theorem execAuxSupplyRemoval_keeps {s0 : State} {s : State} (h0 : Keeps s0 s) : KO s0 (execAuxSupplyRemoval s) := by
  unfold execAuxSupplyRemoval
  refine ite_of (P := KO s0) (fun _ => ?_) (fun _ => ?_)
  · exact ko_next h0
  · refine ite_of (P := KO s0) (fun _ => ?_) (fun _ => ?_)
    · exact ko_fault
    · refine ko_next ?_
      refine keeps_mk ?_ (Nat.le_refl _) rfl (fun h => h) (fun h => h)
      exact h0

theorem execSupplyRemoval_keeps {s0 : State} {s : State} (h0 : Keeps s0 s) : KO s0 (execSupplyRemoval s) := by
  unfold execSupplyRemoval
  refine ko_next ?_
  refine ite_of (P := Keeps s0) (fun _ => ?_) (fun _ => ?_)
  · extract_lets -merge -underBinder +onlyGivenNames x1
    have h2 : Keeps s0 x1 := by
      unfold x1
      exact keptDark_keeps h0
    clear_value x1
    refine keeps_mk ?_ (Nat.le_refl _) rfl (fun h => h) (fun h => h)
    exact h2
  · exact h0

theorem bootSlot_keeps {s0 : State} {goodA : Bool} {goodB : Bool} {s : State} (h0 : Keeps s0 s) : Keeps s0 (bootSlot goodA goodB
    s) := by
  unfold bootSlot
  extract_lets -merge -underBinder +onlyGivenNames x1
  clear_value x1
  extract_lets -merge -underBinder +onlyGivenNames x2
  have h3 : ∀ y0, ∀ y1, Keeps s0 y1 → Keeps s0 (x2 y0 y1) := by
    unfold x2
    refine fun _ _ h4 => ?_
    refine keeps_mk ?_ (Nat.le_refl _) (by first | rfl | (split <;> rfl)) (fun h => h) (fun h => h)
    exact h4
  clear_value x2
  extract_lets -merge -underBinder +onlyGivenNames x5
  clear_value x5
  extract_lets -merge -underBinder +onlyGivenNames x6
  clear_value x6
  extract_lets -merge -underBinder +onlyGivenNames x7 x8
  have h9 : Keeps s0 x8 := by
    unfold x8
    refine keeps_mk ?_ (Nat.le_refl _) rfl (fun h => h) (fun h => h)
    exact h0
  clear_value x8
  refine ite_of (P := Keeps s0) (fun _ => ?_) (fun _ => ?_)
  · exact h9
  · extract_lets -merge -underBinder +onlyGivenNames x10
    have h11 : Keeps s0 x10 := by
      unfold x10
      exact logImage_keeps (h3 _ _ h9)
    clear_value x10
    extract_lets -merge -underBinder +onlyGivenNames x12 x13
    have h14 : Keeps s0 x13 := by
      unfold x13
      refine keeps_mk ?_ (Nat.le_refl _) rfl (fun h => h) (fun h => h)
      exact h11
    clear_value x13
    refine ite_of (P := Keeps s0) (fun _ => ?_) (fun _ => ?_)
    · exact h14
    · exact logImage_keeps (h3 _ _ h14)

theorem startIl_v384 (i : Ident) : (startIl (applyOuts i)).v384 = i.v384 := by simp only [startIl, applyOuts]

theorem execStartUp_keeps {s0 : State} {goodA : Bool} {goodB : Bool} {calOk : Bool} {s : State} (h0 : Keeps s0 s) : KO s0
    (execStartUp goodA goodB calOk s) := by
  unfold execStartUp
  refine ite_of (P := KO s0) (fun _ => ?_) (fun _ => ?_)
  · exact ko_next h0
  · refine ite_of (P := KO s0) (fun _ => ?_) (fun _ => ?_)
    · exact ko_fault
    · extract_lets -merge -underBinder +onlyGivenNames x1
      have h2 : Keeps s0 x1 := by
        unfold x1
        exact keptDark_keeps h0
      clear_value x1
      extract_lets -merge -underBinder +onlyGivenNames x3 x4
      clear_value x3
      have h5 : Keeps s0 x4 := by
        unfold x4
        refine keeps_mk ?_ (Nat.le_refl _) (startIl_v384 _) (fun h => h) (fun h => h)
        exact h2
      clear_value x4
      exact ko_next (bootSlot_keeps h5)

theorem execStartUpMailbox_keeps {s0 : State} {s : State} (h0 : Keeps s0 s) : KO s0 (execStartUpMailbox s) := by
  unfold execStartUpMailbox
  refine ko_next ?_
  refine ite_of (P := Keeps s0) (fun _ => ?_) (fun _ => ?_)
  · refine ite_of (P := Keeps s0) (fun _ => ?_) (fun _ => ?_)
    · refine keeps_mk ?_ (Nat.le_refl _) rfl (fun h => h) (fun h => h)
      exact h0
    · extract_lets -merge -underBinder +onlyGivenNames x1
      have h2 : Keeps s0 x1 := by
        unfold x1
        refine logEntry_keeps ?_
        refine keeps_mk ?_ (Nat.le_refl _) rfl (fun h => h) (fun h => h)
        exact h0
      clear_value x1
      refine foldl_of (P := Keeps s0) (fun _ _ h3 => ?_) ?_
      · exact setLink_keeps h3
      · exact h2
  · exact h0

theorem execStartUpFullOperation_keeps {s0 : State} {s : State} (h0 : Keeps s0 s) : KO s0 (execStartUpFullOperation s) := by
  unfold execStartUpFullOperation
  refine ko_next ?_
  refine ite_of (P := Keeps s0) (fun _ => ?_) (fun _ => ?_)
  · extract_lets -merge -underBinder +onlyGivenNames x1
    clear_value x1
    refine keeps_mk ?_ (Nat.le_refl _) rfl (fun h => by repeat' first | with_reducible exact h | with_reducible apply memWriteN_wf | with_reducible apply memWrite_wf | with_reducible apply memClear_wf | with_reducible apply putImage_wf | with_reducible apply pokeRuns_wf | exact rfl) (by first | exact fun h => h | exact fun _ => ⟨rfl, rfl⟩)
    exact h0
  · exact h0

theorem execCriticalTemp_keeps {s0 : State} {die : Nat} {temp : BitVec 16} {s : State} (h0 : Keeps s0 s) : KO s0 (execCriticalTemp
    die temp s) := by
  unfold execCriticalTemp
  refine ko_next ?_
  refine ite_of (P := Keeps s0) (fun _ => ?_) (fun _ => ?_)
  · extract_lets -merge -underBinder +onlyGivenNames x1
    have h2 : Keeps s0 x1 := by
      unfold x1
      exact keptDark_keeps (logEntry_keeps h0)
    clear_value x1
    refine keeps_mk ?_ (Nat.le_refl _) rfl (fun h => h) (fun h => h)
    exact h2
  · exact h0

theorem execThermtripRelease_keeps {s0 : State} {s : State} (h0 : Keeps s0 s) : KO s0 (execThermtripRelease s) := by
  unfold execThermtripRelease
  refine ko_next ?_
  split
  · refine ite_of (P := Keeps s0) (fun _ => ?_) (fun _ => ?_)
    · refine keeps_mk ?_ (Nat.le_refl _) rfl (fun h => h) (fun h => h)
      exact h0
    · exact h0
  · exact h0

theorem execChannelRetrain_keeps {s0 : State} {stack : Nat} {chan : Nat} {deciC : Int} {good : Bool} {s : State} (h0 : Keeps s0 s)
    : KO s0 (execChannelRetrain stack chan deciC good s) := by
  unfold execChannelRetrain
  refine ko_next ?_
  extract_lets -merge -underBinder +onlyGivenNames x1
  refine ite_of (P := Keeps s0) (fun _ => ?_) (fun _ => ?_)
  · exact decideMapout_keeps (retrainChan_keeps h0)
  · exact h0

/-! ### PowerStates -/

theorem enterState_keeps {s0 : State} {p : PowerState} {s : State} (h0 : Keeps s0 s) : Keeps s0 (enterState p s) := by
  unfold enterState
  extract_lets -merge -underBinder +onlyGivenNames x1
  have h2 : Keeps s0 x1 := by
    unfold x1
    exact setF_keeps h0
  clear_value x1
  refine keeps_mk ?_ (Nat.le_refl _) rfl (fun h => h) (fun h => h)
  exact h2

theorem execEnterIdle_keeps {s0 : State} {s : State} (h0 : Keeps s0 s) : KO s0 (execEnterIdle s) := by
  unfold execEnterIdle
  refine ko_next ?_
  refine ite_of (P := Keeps s0) (fun _ => ?_) (fun _ => ?_)
  · exact enterState_keeps h0
  · exact h0

theorem execEnterDoze_keeps {s0 : State} {s : State} (h0 : Keeps s0 s) : KO s0 (execEnterDoze s) := by
  unfold execEnterDoze
  refine ko_next ?_
  refine ite_of (P := Keeps s0) (fun _ => ?_) (fun _ => ?_)
  · refine enterState_keeps ?_
    refine keeps_mk ?_ (Nat.le_refl _) rfl (fun h => h) (fun h => h)
    exact h0
  · exact h0

theorem execEnterSleep_keeps {s0 : State} {s : State} (h0 : Keeps s0 s) : KO s0 (execEnterSleep s) := by
  unfold execEnterSleep
  refine ko_next ?_
  refine ite_of (P := Keeps s0) (fun _ => ?_) (fun _ => ?_)
  · refine enterState_keeps ?_
    refine keeps_mk ?_ (Nat.le_refl _) rfl (fun h => h) (fun h => h)
    exact h0
  · exact h0

theorem execRtcAlarm_keeps {s0 : State} {s : State} (h0 : Keeps s0 s) : KO s0 (execRtcAlarm s) := by
  unfold execRtcAlarm
  refine ko_next ?_
  split
  · exact h0
  · refine ite_of (P := Keeps s0) (fun _ => ?_) (fun _ => ?_)
    · extract_lets -merge -underBinder +onlyGivenNames x1 x2
      clear_value x1
      have h3 : Keeps s0 x2 := by
        unfold x2
        refine keeps_mk ?_ (Nat.le_refl _) rfl (fun h => h) (fun h => h)
        exact h0
      clear_value x2
      refine ite_of (P := Keeps s0) (fun _ => ?_) (fun _ => ?_)
      · exact wakeUp_keeps h3
      · refine keeps_mk ?_ (Nat.le_refl _) rfl (fun h => h) (fun h => h)
        exact h3
    · exact h0

theorem execFrameWake_keeps {s0 : State} {s : State} (h0 : Keeps s0 s) : KO s0 (execFrameWake s) := by
  unfold execFrameWake
  refine ko_next ?_
  split
  · exact h0
  · refine ite_of (P := Keeps s0) (fun _ => ?_) (fun _ => ?_)
    · refine wakeUp_keeps ?_
      refine keeps_mk ?_ (Nat.le_refl _) rfl (fun h => h) (fun h => h)
      exact h0
    · exact h0

theorem execExitToActive_keeps {s0 : State} {s : State} (h0 : Keeps s0 s) : KO s0 (execExitToActive s) := by
  unfold execExitToActive
  refine ko_next ?_
  refine ite_of (P := Keeps s0) (fun _ => ?_) (fun _ => ?_)
  · extract_lets -merge -underBinder +onlyGivenNames x1
    clear_value x1
    refine foldl_of (P := Keeps s0) (fun _ _ h2 => ?_) ?_
    · exact applyAdd_keeps h2
    · refine keeps_mk ?_ (Nat.le_refl _) rfl (fun h => h) (fun h => h)
      exact h0
  · exact h0

/-! ### Recovery -/

theorem execWatchdogEscalation_keeps {s0 : State} {k : Nat} {s : State} (h0 : Keeps s0 s) : KO s0 (execWatchdogEscalation k s) := by
  unfold execWatchdogEscalation
  refine ko_next ?_
  split
  · exact h0
  · refine ite_of (P := Keeps s0) (fun _ => ?_) (fun _ => ?_)
    · exact startReset_keeps h0
    · exact h0

theorem execUnitError_keeps {s0 : State} {die : BitVec 8} {k : Option Nat} {s : State} (h0 : Keeps s0 s) : KO s0 (execUnitError
    die k s) := by
  unfold execUnitError
  refine ko_next ?_
  refine ite_of (P := Keeps s0) (fun _ => ?_) (fun _ => ?_)
  · exact h0
  · split
    · exact startReset_keeps h0
    · split
      · refine ite_of (P := Keeps s0) (fun _ => ?_) (fun _ => ?_)
        · exact startReset_keeps h0
        · exact h0
      · exact h0

theorem execResetFence_keeps {s0 : State} {s : State} (h0 : Keeps s0 s) : KO s0 (execResetFence s) := by
  unfold execResetFence
  refine ko_next ?_
  refine ite_of (P := Keeps s0) (fun _ => ?_) (fun _ => ?_)
  · exact h0
  · extract_lets -merge -underBinder +onlyGivenNames x1
    clear_value x1
    extract_lets -merge -underBinder +onlyGivenNames x2
    clear_value x2
    extract_lets -merge -underBinder +onlyGivenNames x3
    clear_value x3
    refine keeps_mk ?_ (Nat.le_refl _) rfl (fun h => h) (fun h => h)
    exact h0

theorem execResetDump_keeps {s0 : State} {s : State} (h0 : Keeps s0 s) : KO s0 (execResetDump s) := by
  unfold execResetDump
  refine ko_next ?_
  refine ite_of (P := Keeps s0) (fun _ => ?_) (fun _ => ?_)
  · exact h0
  · extract_lets -merge -underBinder +onlyGivenNames x1
    extract_lets -merge -underBinder +onlyGivenNames x2
    clear_value x2
    extract_lets -merge -underBinder +onlyGivenNames x3 x4
    clear_value x3
    have h5 : Keeps s0 x4 := by
      unfold x4
      refine keeps_mk ?_ (Nat.le_refl _) rfl (fun h => h) (fun h => h)
      exact h0
    clear_value x4
    extract_lets -merge -underBinder +onlyGivenNames x6
    extract_lets -merge -underBinder +onlyGivenNames x7
    extract_lets -merge -underBinder +onlyGivenNames x8
    extract_lets -merge -underBinder +onlyGivenNames x9
    extract_lets -merge -underBinder +onlyGivenNames x10
    have h11 : Keeps s0 x10 := by
      unfold x10
      refine keeps_mk ?_ (Nat.le_succ _) rfl (fun h => by repeat' first | with_reducible exact h | with_reducible apply memWriteN_wf | with_reducible apply memWrite_wf | with_reducible apply memClear_wf | with_reducible apply putImage_wf | with_reducible apply pokeRuns_wf | exact rfl) (fun h => h)
      exact h5
    clear_value x10
    refine foldl_of (P := Keeps s0) (fun _ _ h12 => ?_) ?_
    · exact writeCtxImage_keeps h12
    · exact h11

theorem markLoads_keeps {s0 : State} {s : State} (h0 : Keeps s0 s) : Keeps s0 (markLoads s) := by
  unfold markLoads
  refine foldl_of (P := Keeps s0) (fun _ _ h1 => ?_) ?_
  · exact markLoading_keeps h1
  · exact h0

theorem execResetComputeDomain_keeps {s0 : State} {s : State} (h0 : Keeps s0 s) : KO s0 (execResetComputeDomain s) := by
  unfold execResetComputeDomain
  refine ko_next ?_
  refine ite_of (P := Keeps s0) (fun _ => ?_) (fun _ => ?_)
  · exact h0
  · refine keeps_mk ?_ (Nat.le_refl _) rfl (fun h => h) (fun h => h)
    exact h0

theorem resumeCmd_keeps {s0 : State} {s : State} {k : Nat} (h0 : Keeps s0 s) : Keeps s0 (resumeCmd s k) := by
  unfold resumeCmd
  split
  · exact h0
  · refine ite_of (P := Keeps s0) (fun _ => ?_) (fun _ => ?_)
    · exact h0
    · refine ite_of (P := Keeps s0) (fun _ => ?_) (fun _ => ?_)
      · extract_lets -merge -underBinder +onlyGivenNames x1
        have h2 : Keeps s0 x1 := by
          unfold x1
          exact modCmd_keeps h0
        clear_value x1
        refine ite_of (P := Keeps s0) (fun _ => ?_) (fun _ => ?_)
        · exact havocMem_keeps h2
        · exact h2
      · exact abortCmd_keeps (havocMem_keeps h0)

theorem resendHeld_keeps {s0 : State} {s : State} {e : Nat} (h0 : Keeps s0 s) : Keeps s0 (resendHeld s e) := by
  unfold resendHeld
  split
  · exact h0
  · split
    · exact h0
    · refine ite_of (P := Keeps s0) (fun _ => ?_) (fun _ => ?_)
      · exact h0
      · exact sendHead_keeps h0

theorem postNamed_keeps {s0 : State} {s : State} {n : Nat × Bytes} (h0 : Keeps s0 s) : Keeps s0 (postNamed s n) := by
  unfold postNamed
  refine ite_of (P := Keeps s0) (fun _ => ?_) (fun _ => ?_)
  · exact h0
  · exact postEvent_keeps h0

theorem execResetResume_keeps {s0 : State} {s : State} (h0 : Keeps s0 s) : KO s0 (execResetResume s) := by
  unfold execResetResume
  refine ko_next ?_
  refine ite_of (P := Keeps s0) (fun _ => ?_) (fun _ => ?_)
  · exact h0
  · extract_lets -merge -underBinder +onlyGivenNames x1
    clear_value x1
    extract_lets -merge -underBinder +onlyGivenNames x2
    clear_value x2
    extract_lets -merge -underBinder +onlyGivenNames x3
    extract_lets -merge -underBinder +onlyGivenNames x4 x5
    clear_value x4
    have h6 : Keeps s0 x5 := by
      unfold x5
      refine foldl_of (P := Keeps s0) (fun _ _ h7 => ?_) ?_
      · exact resumeCmd_keeps h7
      · refine keeps_mk ?_ (Nat.le_refl _) rfl (fun h => h) (fun h => h)
        exact h0
    clear_value x5
    extract_lets -merge -underBinder +onlyGivenNames x8
    have h9 : Keeps s0 x8 := by
      unfold x8
      refine releaseSlots_keeps ?_
      refine foldl_of (P := Keeps s0) (fun _ _ h10 => ?_) ?_
      · exact resendHeld_keeps h10
      · exact h6
    clear_value x8
    extract_lets -merge -underBinder +onlyGivenNames x11
    have h12 : Keeps s0 x11 := by
      unfold x11
      exact resetNotice_keeps h9
    clear_value x11
    extract_lets -merge -underBinder +onlyGivenNames x13
    have h14 : Keeps s0 x13 := by
      unfold x13
      exact logEntry_keeps h12
    clear_value x13
    extract_lets -merge -underBinder +onlyGivenNames x15
    have h16 : Keeps s0 x15 := by
      unfold x15
      exact postAll_keeps h14
    clear_value x15
    refine foldl_of (P := Keeps s0) (fun _ _ h17 => ?_) ?_
    · exact postNamed_keeps h17
    · exact h16

/-! ### Mctp -/

theorem mctpAnswer_keeps {s0 : State} {msg : Bytes} {data : Bytes} {s : State} (h0 : Keeps s0 s) : Keeps s0 (mctpAnswer msg data
    s) := by
  unfold mctpAnswer
  refine ite_of (P := Keeps s0) (fun _ => ?_) (fun _ => ?_)
  · refine keeps_mk ?_ (Nat.le_refl _) rfl (fun h => h) (fun h => h)
    exact h0
  · exact h0

theorem execSetEndpointId_keeps {s0 : State} {msg : Bytes} {s : State} (h0 : Keeps s0 s) : KO s0 (execSetEndpointId msg s) := by
  unfold execSetEndpointId
  refine ko_next ?_
  refine ite_of (P := Keeps s0) (fun _ => ?_) (fun _ => ?_)
  · exact h0
  · extract_lets -merge -underBinder +onlyGivenNames x1
    extract_lets -merge -underBinder +onlyGivenNames x2
    refine ite_of (P := Keeps s0) (fun _ => ?_) (fun _ => ?_)
    · exact mctpAnswer_keeps h0
    · refine mctpAnswer_keeps ?_
      refine ite_of (P := Keeps s0) (fun _ => ?_) (fun _ => ?_)
      · refine keeps_mk ?_ (Nat.le_refl _) rfl (fun h => h) (fun h => h)
        exact h0
      · exact h0

theorem execGetEndpointId_keeps {s0 : State} {msg : Bytes} {s : State} (h0 : Keeps s0 s) : KO s0 (execGetEndpointId msg s) := by
  unfold execGetEndpointId
  refine ko_next ?_
  refine ite_of (P := Keeps s0) (fun _ => ?_) (fun _ => ?_)
  · exact h0
  · exact mctpAnswer_keeps h0

theorem execGetMctpVersionSupport_keeps {s0 : State} {msg : Bytes} {s : State} (h0 : Keeps s0 s) : KO s0
    (execGetMctpVersionSupport msg s) := by
  unfold execGetMctpVersionSupport
  refine ko_next ?_
  refine ite_of (P := Keeps s0) (fun _ => ?_) (fun _ => ?_)
  · exact h0
  · extract_lets -merge -underBinder +onlyGivenNames x1
    refine ite_of (P := Keeps s0) (fun _ => ?_) (fun _ => ?_)
    · extract_lets -merge -underBinder +onlyGivenNames x2
      clear_value x2
      exact mctpAnswer_keeps h0
    · exact mctpAnswer_keeps h0

theorem execGetMessageTypeSupport_keeps {s0 : State} {msg : Bytes} {s : State} (h0 : Keeps s0 s) : KO s0
    (execGetMessageTypeSupport msg s) := by
  unfold execGetMessageTypeSupport
  refine ko_next ?_
  refine ite_of (P := Keeps s0) (fun _ => ?_) (fun _ => ?_)
  · exact h0
  · exact mctpAnswer_keeps h0

theorem execGetVendorDefinedMessageSupport_keeps {s0 : State} {msg : Bytes} {s : State} (h0 : Keeps s0 s) : KO s0
    (execGetVendorDefinedMessageSupport msg s) := by
  unfold execGetVendorDefinedMessageSupport
  refine ko_next ?_
  refine ite_of (P := Keeps s0) (fun _ => ?_) (fun _ => ?_)
  · exact h0
  · refine ite_of (P := Keeps s0) (fun _ => ?_) (fun _ => ?_)
    · exact mctpAnswer_keeps h0
    · exact mctpAnswer_keeps h0

end Sys2Proof.Machine
end

