-- ==== Sys2Proof/Laws/Mailbox.lean ====
section
/-!
SUPPORT. What a mailbox row comes to (R344-R346): a request that firmware carries out has its handler's answer, on the state with the
request in its channel's buffer.
-/
namespace Sys2Proof.Machine

/-- Writing a request and GO changes the channel's buffer and the pending wake alone. -/
theorem given_frame (s : State) (ch : Nat) (req : Bytes) :
    s.given ch req = { s with fns := (s.given ch req).fns, pow := (s.given ch req).pow } := by
  unfold State.given wakeUp modFn
  split <;> rfl

@[simp] theorem given_pst (s : State) (ch : Nat) (req : Bytes) : (s.given ch req).pow.pst = s.pow.pst := by
  unfold State.given wakeUp modFn
  split <;> rfl

@[simp] theorem given_mb (s : State) (ch : Nat) (req : Bytes) : (s.given ch req).mb = s.mb := by rw [given_frame]
@[simp] theorem given_deferred (s : State) (ch : Nat) (req : Bytes) : (s.given ch req).deferred = s.deferred := by rw [given_frame]
@[simp] theorem given_getCtx (s : State) (ch : Nat) (req : Bytes) (c : Nat) : getCtx (s.given ch req) c = getCtx s c := by
  rw [given_frame]
  rfl
@[simp] theorem given_ownsCtx (s : State) (ch : Nat) (req : Bytes) (f c : Nat) : ownsCtx (s.given ch req) f c = ownsCtx s f c := by
  unfold ownsCtx
  rw [given_getCtx]
@[simp] theorem given_unmapNamed (s : State) (ch : Nat) (req bd : Bytes) : unmapNamed (s.given ch req) bd = unmapNamed s bd := by
  unfold unmapNamed
  rw [given_getCtx]

/-- Whether a request must wait does not depend on its own buffer. -/
theorem given_mustDefer (s : State) (ch : Nat) (req : Bytes) (ds : List Deferred) (code : Nat) (bd : Bytes) :
    mustDefer (s.given ch req) ds ch code bd = mustDefer s ds ch code bd := by
  unfold mustDefer carriesOut waitsForHeld namedObjs heldObjs pageObj
  simp only [given_mb, given_pst, given_unmapNamed]

/-- A request that is carried out has its handler's answer (R344, R345). -/
theorem mailboxRow_serves {s : State} {ch code : Nat} {req bd : Bytes} {r : MsgRow} (hr : msgRow code = some r)
    (h : s.serves ch code req bd) :
    mailboxRow code ch req s = match r.handler ch (field req 4 4) bd (s.given ch req) with
      | .now st out u => u.answered ch req st out
      | .later ws bad u => u.deferredAs ch req ws bad := by
  obtain ⟨h1, h2, h3, h4, h5, h6, h7, h8, h9, rfl, h11, h15⟩ := h
  rw [hr] at h11
  simp only [Option.any_some, Bool.and_eq_true] at h11
  obtain ⟨⟨h12, h13⟩, h14⟩ := h11
  subst h1
  have hm : (wakeUp (modFn ch (fun f => { f with reqBuf := padTo 3072 req }) s)).mb = .ready := (given_mb s ch req).trans h6
  rw [← given_mustDefer s ch req, ← given_deferred s ch req] at h15
  unfold State.given at h15 ⊢
  unfold mailboxRow submitReq
  rw [if_neg (by simp), if_neg (by omega), if_neg (by simp [h3, h4]; omega), if_neg (by simp [h5])]
  simp only [hm, Bool.false_eq_true, if_false]
  unfold answerReq serveReq
  have h9' : ¬ 3040 < field req 8 2 := by omega
  simp only [h7, h8, h12, h13, h14, hr, h15, h9', Bool.not_true, Bool.false_eq_true, if_false, Bool.or_false, decide_false]
  cases r.handler ch (field req 4 4) (reqBody req) (wakeUp (modFn ch (fun f => { f with reqBuf := padTo 3072 req }) s)) <;> rfl

end Sys2Proof.Machine
end

