-- ==== Sys2Proof/WellFormed.lean ====
section
/-!
DEFINITION. Which commands are well formed: the operands name things that the module has.
-/
namespace Sys2Proof

/-- The shape of a command: what it names. -/
inductive Form where
  /-- An event of the module as a whole, or of an object that its own meaning looks up. -/
  | event
  /-- A fetched command, by its fetch number. -/
  | command (k : Nat)
  /-- A vector core or a cluster of a Basalt. -/
  | core (b c : Nat)
  /-- A packet that arrives on a port. -/
  | packet (port : Nat) (p : Packet)
  /-- A request on a mailbox channel. -/
  | mailbox (ch : Nat) (req : Bytes)
  /-- An access of a PCIe function. -/
  | function (fn : Nat)
  /-- An event of a port. -/
  | link (port : Nat)
deriving DecidableEq, Repr

/-- The shape of each command. -/
def Instr.form (i : Instr) : Form :=
  match i with
  | .frameBoundary => .event
  | .tbCtrlWrite fn _ => .function fn
  | .tbPeriodSetWrite fn _ => .function fn
  | .tbPeriodAtWrite fn _ => .function fn
  | .tick port p => .packet port p
  | .frameIn _ => .event
  | .holdoverEntry => .event
  | .hopDelayMeasure port => .link port
  | .registerWrite fn _ _ => .function fn
  | .readToClear fn _ => .function fn
  | .dbTail fn _ _ => .function fn
  | .dbCqhead fn _ _ => .function fn
  | .commandFetch _ => .event
  | .commandStart k => .command k
  | .commandCompletion k => .command k
  | .preemption k => .command k
  | .preemptedResume k => .command k
  | .watchdogExpiry k => .command k
  | .watchdogEscalation k => .command k
  | .nop k => .command k
  | .fence k => .command k
  | .waitCount k => .command k
  | .waitCountTimeout k => .command k
  | .signal k => .command k
  | .waitFrame k => .command k
  | .waitFrameReached k => .command k
  | .debugMark k => .command k
  | .hintPower k => .command k
  | .hintScheduleStart _ => .event
  | .hintDisarm _ => .event
  | .copy k => .command k
  | .copyT k => .command k
  | .gatherRows k => .command k
  | .scatterRows k => .command k
  | .prefetch k => .command k
  | .prefetchCancel k => .command k
  | .feedBind k => .command k
  | .feedSlotClose _ => .event
  | .maLoad k => .command k
  | .maSwap k => .command k
  | .maRun k => .command k
  | .maRunT k => .command k
  | .maElem k => .command k
  | .tilePass k => .command k
  | .ballastPass b c => .core b c
  | .vxLaunch k => .command k
  | .vxFusedBwd k => .command k
  | .sAdd b c => .core b c
  | .sSub b c => .core b c
  | .sAnd b c => .core b c
  | .sOr b c => .core b c
  | .sXor b c => .core b c
  | .shl b c => .core b c
  | .shr b c => .core b c
  | .sra b c => .core b c
  | .mul b c => .core b c
  | .mulh b c => .core b c
  | .div b c => .core b c
  | .rem b c => .core b c
  | .slt b c => .core b c
  | .sltu b c => .core b c
  | .addi b c => .core b c
  | .ld b c => .core b c
  | .st b c => .core b c
  | .bne b c => .core b c
  | .jal b c => .core b c
  | .fadd b c => .core b c
  | .fsub b c => .core b c
  | .fmul b c => .core b c
  | .fdiv b c => .core b c
  | .fsqrt b c => .core b c
  | .fmin b c => .core b c
  | .fmax b c => .core b c
  | .flt b c => .core b c
  | .fcvtI b c => .core b c
  | .fcvtF b c => .core b c
  | .vexit b c => .core b c
  | .vbar b c => .core b c
  | .csrr b c => .core b c
  | .csrw b c => .core b c
  | .shli b c => .core b c
  | .blt b c => .core b c
  | .ldw b c => .core b c
  | .stw b c => .core b c
  | .vfmt b c => .core b c
  | .vstrip b c => .core b c
  | .vld b c => .core b c
  | .vst b c => .core b c
  | .vadd b c => .core b c
  | .vsub b c => .core b c
  | .vmul b c => .core b c
  | .vmulh b c => .core b c
  | .vand b c => .core b c
  | .vor b c => .core b c
  | .vxor b c => .core b c
  | .vshl b c => .core b c
  | .vshr b c => .core b c
  | .vsra b c => .core b c
  | .vmin b c => .core b c
  | .vmax b c => .core b c
  | .vcmpeq b c => .core b c
  | .vcmplt b c => .core b c
  | .vxma b c => .core b c
  | .vdot4 b c => .core b c
  | .vfadd b c => .core b c
  | .vfsub b c => .core b c
  | .vfmul b c => .core b c
  | .vfdiv b c => .core b c
  | .vfma b c => .core b c
  | .vfnms b c => .core b c
  | .vfmin b c => .core b c
  | .vfmax b c => .core b c
  | .vfcmplt b c => .core b c
  | .vfcmpeq b c => .core b c
  | .vfxmul b c => .core b c
  | .vfxma b c => .core b c
  | .vfdot b c => .core b c
  | .vfun b c => .core b c
  | .vfcvt b c => .core b c
  | .vffold b c => .core b c
  | .vmlog b c => .core b c
  | .vmcount b c => .core b c
  | .vmlow b c => .core b c
  | .vsel b c => .core b c
  | .vcopy b c => .core b c
  | .vins b c => .core b c
  | .vext b c => .core b c
  | .velup b c => .core b c
  | .veldn b c => .core b c
  | .vperm b c => .core b c
  | .vpack b c => .core b c
  | .vindex b c => .core b c
  | .visum b c => .core b c
  | .vsplat b c => .core b c
  | .vsrd b c => .core b c
  | .vswr b c => .core b c
  | .updRun k => .command k
  | .updRows k => .command k
  | .slvPattern k => .command k
  | .slvValues k => .command k
  | .slvFactor k => .command k
  | .slvSolve k => .command k
  | .solverSystemStart k => .command k
  | .slvStatus k => .command k
  | .redTree k => .command k
  | .redLowrank k => .command k
  | .redScale k => .command k
  | .xchgTokens k => .command k
  | .bcast k => .command k
  | .allgatherLayer k => .command k
  | .layoutEpoch k => .command k
  | .collUp port p => .packet port p
  | .collDown port p => .packet port p
  | .retryReq port p => .packet port p
  | .retryUp port p => .packet port p
  | .maxUp port p => .packet port p
  | .maxDown port p => .packet port p
  | .dataUp port p => .packet port p
  | .dataDown port p => .packet port p
  | .collToken port p => .packet port p
  | .collTokenRet port p => .packet port p
  | .nodeDeadline _ => .event
  | .retryDeadline _ => .event
  | .deliveryDeadline k => .command k
  | .exchangeDeadline k => .command k
  | .pktWrite port p => .packet port p
  | .readReq port p => .packet port p
  | .readResp port p => .packet port p
  | .pktAck port p => .packet port p
  | .pktNack port p => .packet port p
  | .ctrAdd port p => .packet port p
  | .ctrAddResend _ => .event
  | .pktFeed port p => .packet port p
  | .feedDb fn _ _ => .function fn
  | .pktProbe port p => .packet port p
  | .pktProbeReply port p => .packet port p
  | .packetForward port p => .packet port p
  | .linkReplay port _ _ => .link port
  | .laneRetune port _ _ => .link port
  | .laneRetuneDone port _ => .link port
  | .linkDown port => .link port
  | .linkUp port => .link port
  | .hello port p => .packet port p
  | .mgmtJoin port p => .packet port p
  | .joinAck port p => .packet port p
  | .heartbeat port p => .packet port p
  | .heartbeatSend => .event
  | .moduleLost _ => .event
  | .leaveMessage port p => .packet port p
  | .beacon port p => .packet port p
  | .beaconSend => .event
  | .resetNotice port p => .packet port p
  | .rankReset port p => .packet port p
  | .rankLost port p => .packet port p
  | .timeDegraded port p => .packet port p
  | .tickLostReport port p => .packet port p
  | .holdoverTimeout _ => .event
  | .routeSet port p => .packet port p
  | .groupInstall port p => .packet port p
  | .groupStage port p => .packet port p
  | .groupRemove port p => .packet port p
  | .periodArm port p => .packet port p
  | .mgmtAck port p => .packet port p
  | .mgmtResend _ => .event
  | .identify ch req => .mailbox ch req
  | .statusQuery ch req => .mailbox ch req
  | .telemetryRead ch req => .mailbox ch req
  | .logRead ch req => .mailbox ch req
  | .micaSlices ch req => .mailbox ch req
  | .bar2Set ch req => .mailbox ch req
  | .ctxCreate ch req => .mailbox ch req
  | .ctxDestroy ch req => .mailbox ch req
  | .ctxDrained _ => .event
  | .ctxNumberRelease _ => .event
  | .ctxQuery ch req => .mailbox ch req
  | .counterGrant ch req => .mailbox ch req
  | .queueCreate ch req => .mailbox ch req
  | .queueDestroy ch req => .mailbox ch req
  | .tileGrant ch req => .mailbox ch req
  | .mapPages ch req => .mailbox ch req
  | .unmap ch req => .mailbox ch req
  | .memQuery ch req => .mailbox ch req
  | .channelMapout ch req => .mailbox ch req
  | .mapoutComplete _ _ => .event
  | .stageqCreate ch req => .mailbox ch req
  | .stageqQuery ch req => .mailbox ch req
  | .stageqDestroy ch req => .mailbox ch req
  | .groupSet ch req => .mailbox ch req
  | .groupQuery ch req => .mailbox ch req
  | .roleSet ch req => .mailbox ch req
  | .leave ch req => .mailbox ch req
  | .powerCapSet ch req => .mailbox ch req
  | .oppointSet ch req => .mailbox ch req
  | .wakeSet ch req => .mailbox ch req
  | .fwQuery ch req => .mailbox ch req
  | .fwStage ch req => .mailbox ch req
  | .fwActivate ch req => .mailbox ch req
  | .handover => .event
  | .fwActivated => .event
  | .fwCommit ch req => .mailbox ch req
  | .recalibrate ch req => .mailbox ch req
  | .mailboxReservedCode ch req => .mailbox ch req
  | .msgDone _ => .event
  | .setEndpointId _ => .event
  | .getEndpointId _ => .event
  | .getMctpVersionSupport _ => .event
  | .getMessageTypeSupport _ => .event
  | .getVendorDefinedMessageSupport _ => .event
  | .bar2Access fn _ _ _ _ => .function fn
  | .flr fn => .function fn
  | .vfDisable fn => .function fn
  | .perst => .event
  | .auxSupplyValid _ => .event
  | .auxSupplyRemoval => .event
  | .startUp _ _ _ => .event
  | .startUpMailbox => .event
  | .startUpFullOperation => .event
  | .supplyRemoval => .event
  | .criticalTemp _ _ => .event
  | .thermalSample _ => .event
  | .telemetrySample _ => .event
  | .limiterTick _ => .event
  | .capUnmet _ => .event
  | .channelRetrain _ _ _ _ => .event
  | .enterIdle => .event
  | .enterDoze => .event
  | .enterSleep => .event
  | .rtcAlarm => .event
  | .frameWake => .event
  | .exitToActive => .event
  | .unitError _ _ => .event
  | .resetFence => .event
  | .resetDump => .event
  | .resetComputeDomain => .event
  | .resetResume => .event
  | .handoverEnd => .event
  | .trialReversion => .event
  | .thermtripRelease => .event
  | .refreshRateChange _ _ => .event
  | .overrun ch req => .mailbox ch req
  | .perstDeassertion => .event

/-- R312, R313: a packet whose payload has the length that its header gives, at most 4,096 bytes. -/
def Packet.wf (p : Packet) : Bool := p.length.toNat == p.payload.length && decide (p.payload.length ≤ 4096)

/-- Shapes that name things that exist: Basalts 0-7 and cores 0-63 (R15), ports P0-P7 and 8 for the module itself (R17),
mailbox channels of the PF, 31 VFs and MCTP with a request of at most 3 KiB (R335, R342, R360), functions 0-31 (R335). -/
def Form.wf : Form → Bool
  | .event => true
  | .command _ => true
  | .core b c => decide (b < 8) && decide (c < 64)
  | .packet port p => decide (port ≤ 8) && p.wf
  | .mailbox ch req => decide (ch ≤ 32) && decide (req.length ≤ 3072)
  | .function fn => decide (fn < 32)
  | .link port => decide (port < 8)

/-- A well-formed command. -/
def Instr.wf (i : Instr) : Bool := i.form.wf

end Sys2Proof
end

