-- ==== Sys2Proof/Laws/PerInstr.lean ====
section
/-!
SUPPORT. Per-command facts. Family Bounded: a well-formed command names only ports, cores, functions, channels and payloads
that the module has.
-/

/-- What a well-formed shape names lies within the module. -/
def Sys2Proof.Laws.Bounded.Statement (i : Sys2Proof.Instr) : Prop :=
  i.wf = true →
    (∀ b c, i.form = .core b c → b < 8 ∧ c < 64) ∧
    (∀ port p, i.form = .packet port p → port ≤ 8 ∧ p.payload.length ≤ 4096 ∧ p.length.toNat = p.payload.length) ∧
    (∀ ch req, i.form = .mailbox ch req → ch ≤ 32 ∧ req.length ≤ 3072) ∧
    (∀ fn, i.form = .function fn → fn < 32) ∧
    (∀ port, i.form = .link port → port < 8)

theorem Sys2Proof.Laws.bounded_form (i : Sys2Proof.Instr) : Sys2Proof.Laws.Bounded.Statement i := by
  unfold Sys2Proof.Laws.Bounded.Statement Sys2Proof.Instr.wf
  generalize i.form = f
  cases f <;> simp_all [Sys2Proof.Form.wf, Sys2Proof.Packet.wf]

theorem Sys2Proof.Laws.Bounded.frameBoundary : Sys2Proof.Laws.Bounded.Statement (.frameBoundary) := Sys2Proof.Laws.bounded_form _
theorem Sys2Proof.Laws.Bounded.tbCtrlWrite (fn : Nat) (v : W64) : Sys2Proof.Laws.Bounded.Statement (.tbCtrlWrite fn v) := Sys2Proof.Laws.bounded_form _
theorem Sys2Proof.Laws.Bounded.tbPeriodSetWrite (fn : Nat) (v : W64) : Sys2Proof.Laws.Bounded.Statement (.tbPeriodSetWrite fn v) := Sys2Proof.Laws.bounded_form _
theorem Sys2Proof.Laws.Bounded.tbPeriodAtWrite (fn : Nat) (v : W64) : Sys2Proof.Laws.Bounded.Statement (.tbPeriodAtWrite fn v) := Sys2Proof.Laws.bounded_form _
theorem Sys2Proof.Laws.Bounded.tick (port : Nat) (p : Packet) : Sys2Proof.Laws.Bounded.Statement (.tick port p) := Sys2Proof.Laws.bounded_form _
theorem Sys2Proof.Laws.Bounded.frameIn (highNs : Nat) : Sys2Proof.Laws.Bounded.Statement (.frameIn highNs) := Sys2Proof.Laws.bounded_form _
theorem Sys2Proof.Laws.Bounded.holdoverEntry : Sys2Proof.Laws.Bounded.Statement (.holdoverEntry) := Sys2Proof.Laws.bounded_form _
theorem Sys2Proof.Laws.Bounded.hopDelayMeasure (port : Nat) : Sys2Proof.Laws.Bounded.Statement (.hopDelayMeasure port) := Sys2Proof.Laws.bounded_form _
theorem Sys2Proof.Laws.Bounded.registerWrite (fn off : Nat) (v : W64) : Sys2Proof.Laws.Bounded.Statement (.registerWrite fn off v) := Sys2Proof.Laws.bounded_form _
theorem Sys2Proof.Laws.Bounded.readToClear (fn off : Nat) : Sys2Proof.Laws.Bounded.Statement (.readToClear fn off) := Sys2Proof.Laws.bounded_form _
theorem Sys2Proof.Laws.Bounded.dbTail (fn q : Nat) (v : W64) : Sys2Proof.Laws.Bounded.Statement (.dbTail fn q v) := Sys2Proof.Laws.bounded_form _
theorem Sys2Proof.Laws.Bounded.dbCqhead (fn q : Nat) (v : W64) : Sys2Proof.Laws.Bounded.Statement (.dbCqhead fn q v) := Sys2Proof.Laws.bounded_form _
theorem Sys2Proof.Laws.Bounded.commandFetch (q : Nat) : Sys2Proof.Laws.Bounded.Statement (.commandFetch q) := Sys2Proof.Laws.bounded_form _
theorem Sys2Proof.Laws.Bounded.commandStart (k : Nat) : Sys2Proof.Laws.Bounded.Statement (.commandStart k) := Sys2Proof.Laws.bounded_form _
theorem Sys2Proof.Laws.Bounded.commandCompletion (k : Nat) : Sys2Proof.Laws.Bounded.Statement (.commandCompletion k) := Sys2Proof.Laws.bounded_form _
theorem Sys2Proof.Laws.Bounded.preemption (k : Nat) : Sys2Proof.Laws.Bounded.Statement (.preemption k) := Sys2Proof.Laws.bounded_form _
theorem Sys2Proof.Laws.Bounded.preemptedResume (k : Nat) : Sys2Proof.Laws.Bounded.Statement (.preemptedResume k) := Sys2Proof.Laws.bounded_form _
theorem Sys2Proof.Laws.Bounded.watchdogExpiry (k : Nat) : Sys2Proof.Laws.Bounded.Statement (.watchdogExpiry k) := Sys2Proof.Laws.bounded_form _
theorem Sys2Proof.Laws.Bounded.watchdogEscalation (k : Nat) : Sys2Proof.Laws.Bounded.Statement (.watchdogEscalation k) := Sys2Proof.Laws.bounded_form _
theorem Sys2Proof.Laws.Bounded.nop (k : Nat) : Sys2Proof.Laws.Bounded.Statement (.nop k) := Sys2Proof.Laws.bounded_form _
theorem Sys2Proof.Laws.Bounded.fence (k : Nat) : Sys2Proof.Laws.Bounded.Statement (.fence k) := Sys2Proof.Laws.bounded_form _
theorem Sys2Proof.Laws.Bounded.waitCount (k : Nat) : Sys2Proof.Laws.Bounded.Statement (.waitCount k) := Sys2Proof.Laws.bounded_form _
theorem Sys2Proof.Laws.Bounded.waitCountTimeout (k : Nat) : Sys2Proof.Laws.Bounded.Statement (.waitCountTimeout k) := Sys2Proof.Laws.bounded_form _
theorem Sys2Proof.Laws.Bounded.signal (k : Nat) : Sys2Proof.Laws.Bounded.Statement (.signal k) := Sys2Proof.Laws.bounded_form _
theorem Sys2Proof.Laws.Bounded.waitFrame (k : Nat) : Sys2Proof.Laws.Bounded.Statement (.waitFrame k) := Sys2Proof.Laws.bounded_form _
theorem Sys2Proof.Laws.Bounded.waitFrameReached (k : Nat) : Sys2Proof.Laws.Bounded.Statement (.waitFrameReached k) := Sys2Proof.Laws.bounded_form _
theorem Sys2Proof.Laws.Bounded.debugMark (k : Nat) : Sys2Proof.Laws.Bounded.Statement (.debugMark k) := Sys2Proof.Laws.bounded_form _
theorem Sys2Proof.Laws.Bounded.hintPower (k : Nat) : Sys2Proof.Laws.Bounded.Statement (.hintPower k) := Sys2Proof.Laws.bounded_form _
theorem Sys2Proof.Laws.Bounded.hintScheduleStart (h : Nat) : Sys2Proof.Laws.Bounded.Statement (.hintScheduleStart h) := Sys2Proof.Laws.bounded_form _
theorem Sys2Proof.Laws.Bounded.hintDisarm (h : Nat) : Sys2Proof.Laws.Bounded.Statement (.hintDisarm h) := Sys2Proof.Laws.bounded_form _
theorem Sys2Proof.Laws.Bounded.copy (k : Nat) : Sys2Proof.Laws.Bounded.Statement (.copy k) := Sys2Proof.Laws.bounded_form _
theorem Sys2Proof.Laws.Bounded.copyT (k : Nat) : Sys2Proof.Laws.Bounded.Statement (.copyT k) := Sys2Proof.Laws.bounded_form _
theorem Sys2Proof.Laws.Bounded.gatherRows (k : Nat) : Sys2Proof.Laws.Bounded.Statement (.gatherRows k) := Sys2Proof.Laws.bounded_form _
theorem Sys2Proof.Laws.Bounded.scatterRows (k : Nat) : Sys2Proof.Laws.Bounded.Statement (.scatterRows k) := Sys2Proof.Laws.bounded_form _
theorem Sys2Proof.Laws.Bounded.prefetch (k : Nat) : Sys2Proof.Laws.Bounded.Statement (.prefetch k) := Sys2Proof.Laws.bounded_form _
theorem Sys2Proof.Laws.Bounded.prefetchCancel (k : Nat) : Sys2Proof.Laws.Bounded.Statement (.prefetchCancel k) := Sys2Proof.Laws.bounded_form _
theorem Sys2Proof.Laws.Bounded.feedBind (k : Nat) : Sys2Proof.Laws.Bounded.Statement (.feedBind k) := Sys2Proof.Laws.bounded_form _
theorem Sys2Proof.Laws.Bounded.feedSlotClose (f : Nat) : Sys2Proof.Laws.Bounded.Statement (.feedSlotClose f) := Sys2Proof.Laws.bounded_form _
theorem Sys2Proof.Laws.Bounded.maLoad (k : Nat) : Sys2Proof.Laws.Bounded.Statement (.maLoad k) := Sys2Proof.Laws.bounded_form _
theorem Sys2Proof.Laws.Bounded.maSwap (k : Nat) : Sys2Proof.Laws.Bounded.Statement (.maSwap k) := Sys2Proof.Laws.bounded_form _
theorem Sys2Proof.Laws.Bounded.maRun (k : Nat) : Sys2Proof.Laws.Bounded.Statement (.maRun k) := Sys2Proof.Laws.bounded_form _
theorem Sys2Proof.Laws.Bounded.maRunT (k : Nat) : Sys2Proof.Laws.Bounded.Statement (.maRunT k) := Sys2Proof.Laws.bounded_form _
theorem Sys2Proof.Laws.Bounded.maElem (k : Nat) : Sys2Proof.Laws.Bounded.Statement (.maElem k) := Sys2Proof.Laws.bounded_form _
theorem Sys2Proof.Laws.Bounded.tilePass (k : Nat) : Sys2Proof.Laws.Bounded.Statement (.tilePass k) := Sys2Proof.Laws.bounded_form _
theorem Sys2Proof.Laws.Bounded.ballastPass (b c : Nat) : Sys2Proof.Laws.Bounded.Statement (.ballastPass b c) := Sys2Proof.Laws.bounded_form _
theorem Sys2Proof.Laws.Bounded.vxLaunch (k : Nat) : Sys2Proof.Laws.Bounded.Statement (.vxLaunch k) := Sys2Proof.Laws.bounded_form _
theorem Sys2Proof.Laws.Bounded.vxFusedBwd (k : Nat) : Sys2Proof.Laws.Bounded.Statement (.vxFusedBwd k) := Sys2Proof.Laws.bounded_form _
theorem Sys2Proof.Laws.Bounded.sAdd (b c : Nat) : Sys2Proof.Laws.Bounded.Statement (.sAdd b c) := Sys2Proof.Laws.bounded_form _
theorem Sys2Proof.Laws.Bounded.sSub (b c : Nat) : Sys2Proof.Laws.Bounded.Statement (.sSub b c) := Sys2Proof.Laws.bounded_form _
theorem Sys2Proof.Laws.Bounded.sAnd (b c : Nat) : Sys2Proof.Laws.Bounded.Statement (.sAnd b c) := Sys2Proof.Laws.bounded_form _
theorem Sys2Proof.Laws.Bounded.sOr (b c : Nat) : Sys2Proof.Laws.Bounded.Statement (.sOr b c) := Sys2Proof.Laws.bounded_form _
theorem Sys2Proof.Laws.Bounded.sXor (b c : Nat) : Sys2Proof.Laws.Bounded.Statement (.sXor b c) := Sys2Proof.Laws.bounded_form _
theorem Sys2Proof.Laws.Bounded.shl (b c : Nat) : Sys2Proof.Laws.Bounded.Statement (.shl b c) := Sys2Proof.Laws.bounded_form _
theorem Sys2Proof.Laws.Bounded.shr (b c : Nat) : Sys2Proof.Laws.Bounded.Statement (.shr b c) := Sys2Proof.Laws.bounded_form _
theorem Sys2Proof.Laws.Bounded.sra (b c : Nat) : Sys2Proof.Laws.Bounded.Statement (.sra b c) := Sys2Proof.Laws.bounded_form _
theorem Sys2Proof.Laws.Bounded.mul (b c : Nat) : Sys2Proof.Laws.Bounded.Statement (.mul b c) := Sys2Proof.Laws.bounded_form _
theorem Sys2Proof.Laws.Bounded.mulh (b c : Nat) : Sys2Proof.Laws.Bounded.Statement (.mulh b c) := Sys2Proof.Laws.bounded_form _
theorem Sys2Proof.Laws.Bounded.div (b c : Nat) : Sys2Proof.Laws.Bounded.Statement (.div b c) := Sys2Proof.Laws.bounded_form _
theorem Sys2Proof.Laws.Bounded.rem (b c : Nat) : Sys2Proof.Laws.Bounded.Statement (.rem b c) := Sys2Proof.Laws.bounded_form _
theorem Sys2Proof.Laws.Bounded.slt (b c : Nat) : Sys2Proof.Laws.Bounded.Statement (.slt b c) := Sys2Proof.Laws.bounded_form _
theorem Sys2Proof.Laws.Bounded.sltu (b c : Nat) : Sys2Proof.Laws.Bounded.Statement (.sltu b c) := Sys2Proof.Laws.bounded_form _
theorem Sys2Proof.Laws.Bounded.addi (b c : Nat) : Sys2Proof.Laws.Bounded.Statement (.addi b c) := Sys2Proof.Laws.bounded_form _
theorem Sys2Proof.Laws.Bounded.ld (b c : Nat) : Sys2Proof.Laws.Bounded.Statement (.ld b c) := Sys2Proof.Laws.bounded_form _
theorem Sys2Proof.Laws.Bounded.st (b c : Nat) : Sys2Proof.Laws.Bounded.Statement (.st b c) := Sys2Proof.Laws.bounded_form _
theorem Sys2Proof.Laws.Bounded.bne (b c : Nat) : Sys2Proof.Laws.Bounded.Statement (.bne b c) := Sys2Proof.Laws.bounded_form _
theorem Sys2Proof.Laws.Bounded.jal (b c : Nat) : Sys2Proof.Laws.Bounded.Statement (.jal b c) := Sys2Proof.Laws.bounded_form _
theorem Sys2Proof.Laws.Bounded.fadd (b c : Nat) : Sys2Proof.Laws.Bounded.Statement (.fadd b c) := Sys2Proof.Laws.bounded_form _
theorem Sys2Proof.Laws.Bounded.fsub (b c : Nat) : Sys2Proof.Laws.Bounded.Statement (.fsub b c) := Sys2Proof.Laws.bounded_form _
theorem Sys2Proof.Laws.Bounded.fmul (b c : Nat) : Sys2Proof.Laws.Bounded.Statement (.fmul b c) := Sys2Proof.Laws.bounded_form _
theorem Sys2Proof.Laws.Bounded.fdiv (b c : Nat) : Sys2Proof.Laws.Bounded.Statement (.fdiv b c) := Sys2Proof.Laws.bounded_form _
theorem Sys2Proof.Laws.Bounded.fsqrt (b c : Nat) : Sys2Proof.Laws.Bounded.Statement (.fsqrt b c) := Sys2Proof.Laws.bounded_form _
theorem Sys2Proof.Laws.Bounded.fmin (b c : Nat) : Sys2Proof.Laws.Bounded.Statement (.fmin b c) := Sys2Proof.Laws.bounded_form _
theorem Sys2Proof.Laws.Bounded.fmax (b c : Nat) : Sys2Proof.Laws.Bounded.Statement (.fmax b c) := Sys2Proof.Laws.bounded_form _
theorem Sys2Proof.Laws.Bounded.flt (b c : Nat) : Sys2Proof.Laws.Bounded.Statement (.flt b c) := Sys2Proof.Laws.bounded_form _
theorem Sys2Proof.Laws.Bounded.fcvtI (b c : Nat) : Sys2Proof.Laws.Bounded.Statement (.fcvtI b c) := Sys2Proof.Laws.bounded_form _
theorem Sys2Proof.Laws.Bounded.fcvtF (b c : Nat) : Sys2Proof.Laws.Bounded.Statement (.fcvtF b c) := Sys2Proof.Laws.bounded_form _
theorem Sys2Proof.Laws.Bounded.vexit (b c : Nat) : Sys2Proof.Laws.Bounded.Statement (.vexit b c) := Sys2Proof.Laws.bounded_form _
theorem Sys2Proof.Laws.Bounded.vbar (b c : Nat) : Sys2Proof.Laws.Bounded.Statement (.vbar b c) := Sys2Proof.Laws.bounded_form _
theorem Sys2Proof.Laws.Bounded.csrr (b c : Nat) : Sys2Proof.Laws.Bounded.Statement (.csrr b c) := Sys2Proof.Laws.bounded_form _
theorem Sys2Proof.Laws.Bounded.csrw (b c : Nat) : Sys2Proof.Laws.Bounded.Statement (.csrw b c) := Sys2Proof.Laws.bounded_form _
theorem Sys2Proof.Laws.Bounded.shli (b c : Nat) : Sys2Proof.Laws.Bounded.Statement (.shli b c) := Sys2Proof.Laws.bounded_form _
theorem Sys2Proof.Laws.Bounded.blt (b c : Nat) : Sys2Proof.Laws.Bounded.Statement (.blt b c) := Sys2Proof.Laws.bounded_form _
theorem Sys2Proof.Laws.Bounded.ldw (b c : Nat) : Sys2Proof.Laws.Bounded.Statement (.ldw b c) := Sys2Proof.Laws.bounded_form _
theorem Sys2Proof.Laws.Bounded.stw (b c : Nat) : Sys2Proof.Laws.Bounded.Statement (.stw b c) := Sys2Proof.Laws.bounded_form _
theorem Sys2Proof.Laws.Bounded.vfmt (b c : Nat) : Sys2Proof.Laws.Bounded.Statement (.vfmt b c) := Sys2Proof.Laws.bounded_form _
theorem Sys2Proof.Laws.Bounded.vstrip (b c : Nat) : Sys2Proof.Laws.Bounded.Statement (.vstrip b c) := Sys2Proof.Laws.bounded_form _
theorem Sys2Proof.Laws.Bounded.vld (b c : Nat) : Sys2Proof.Laws.Bounded.Statement (.vld b c) := Sys2Proof.Laws.bounded_form _
theorem Sys2Proof.Laws.Bounded.vst (b c : Nat) : Sys2Proof.Laws.Bounded.Statement (.vst b c) := Sys2Proof.Laws.bounded_form _
theorem Sys2Proof.Laws.Bounded.vadd (b c : Nat) : Sys2Proof.Laws.Bounded.Statement (.vadd b c) := Sys2Proof.Laws.bounded_form _
theorem Sys2Proof.Laws.Bounded.vsub (b c : Nat) : Sys2Proof.Laws.Bounded.Statement (.vsub b c) := Sys2Proof.Laws.bounded_form _
theorem Sys2Proof.Laws.Bounded.vmul (b c : Nat) : Sys2Proof.Laws.Bounded.Statement (.vmul b c) := Sys2Proof.Laws.bounded_form _
theorem Sys2Proof.Laws.Bounded.vmulh (b c : Nat) : Sys2Proof.Laws.Bounded.Statement (.vmulh b c) := Sys2Proof.Laws.bounded_form _
theorem Sys2Proof.Laws.Bounded.vand (b c : Nat) : Sys2Proof.Laws.Bounded.Statement (.vand b c) := Sys2Proof.Laws.bounded_form _
theorem Sys2Proof.Laws.Bounded.vor (b c : Nat) : Sys2Proof.Laws.Bounded.Statement (.vor b c) := Sys2Proof.Laws.bounded_form _
theorem Sys2Proof.Laws.Bounded.vxor (b c : Nat) : Sys2Proof.Laws.Bounded.Statement (.vxor b c) := Sys2Proof.Laws.bounded_form _
theorem Sys2Proof.Laws.Bounded.vshl (b c : Nat) : Sys2Proof.Laws.Bounded.Statement (.vshl b c) := Sys2Proof.Laws.bounded_form _
theorem Sys2Proof.Laws.Bounded.vshr (b c : Nat) : Sys2Proof.Laws.Bounded.Statement (.vshr b c) := Sys2Proof.Laws.bounded_form _
theorem Sys2Proof.Laws.Bounded.vsra (b c : Nat) : Sys2Proof.Laws.Bounded.Statement (.vsra b c) := Sys2Proof.Laws.bounded_form _
theorem Sys2Proof.Laws.Bounded.vmin (b c : Nat) : Sys2Proof.Laws.Bounded.Statement (.vmin b c) := Sys2Proof.Laws.bounded_form _
theorem Sys2Proof.Laws.Bounded.vmax (b c : Nat) : Sys2Proof.Laws.Bounded.Statement (.vmax b c) := Sys2Proof.Laws.bounded_form _
theorem Sys2Proof.Laws.Bounded.vcmpeq (b c : Nat) : Sys2Proof.Laws.Bounded.Statement (.vcmpeq b c) := Sys2Proof.Laws.bounded_form _
theorem Sys2Proof.Laws.Bounded.vcmplt (b c : Nat) : Sys2Proof.Laws.Bounded.Statement (.vcmplt b c) := Sys2Proof.Laws.bounded_form _
theorem Sys2Proof.Laws.Bounded.vxma (b c : Nat) : Sys2Proof.Laws.Bounded.Statement (.vxma b c) := Sys2Proof.Laws.bounded_form _
theorem Sys2Proof.Laws.Bounded.vdot4 (b c : Nat) : Sys2Proof.Laws.Bounded.Statement (.vdot4 b c) := Sys2Proof.Laws.bounded_form _
theorem Sys2Proof.Laws.Bounded.vfadd (b c : Nat) : Sys2Proof.Laws.Bounded.Statement (.vfadd b c) := Sys2Proof.Laws.bounded_form _
theorem Sys2Proof.Laws.Bounded.vfsub (b c : Nat) : Sys2Proof.Laws.Bounded.Statement (.vfsub b c) := Sys2Proof.Laws.bounded_form _
theorem Sys2Proof.Laws.Bounded.vfmul (b c : Nat) : Sys2Proof.Laws.Bounded.Statement (.vfmul b c) := Sys2Proof.Laws.bounded_form _
theorem Sys2Proof.Laws.Bounded.vfdiv (b c : Nat) : Sys2Proof.Laws.Bounded.Statement (.vfdiv b c) := Sys2Proof.Laws.bounded_form _
theorem Sys2Proof.Laws.Bounded.vfma (b c : Nat) : Sys2Proof.Laws.Bounded.Statement (.vfma b c) := Sys2Proof.Laws.bounded_form _
theorem Sys2Proof.Laws.Bounded.vfnms (b c : Nat) : Sys2Proof.Laws.Bounded.Statement (.vfnms b c) := Sys2Proof.Laws.bounded_form _
theorem Sys2Proof.Laws.Bounded.vfmin (b c : Nat) : Sys2Proof.Laws.Bounded.Statement (.vfmin b c) := Sys2Proof.Laws.bounded_form _
theorem Sys2Proof.Laws.Bounded.vfmax (b c : Nat) : Sys2Proof.Laws.Bounded.Statement (.vfmax b c) := Sys2Proof.Laws.bounded_form _
theorem Sys2Proof.Laws.Bounded.vfcmplt (b c : Nat) : Sys2Proof.Laws.Bounded.Statement (.vfcmplt b c) := Sys2Proof.Laws.bounded_form _
theorem Sys2Proof.Laws.Bounded.vfcmpeq (b c : Nat) : Sys2Proof.Laws.Bounded.Statement (.vfcmpeq b c) := Sys2Proof.Laws.bounded_form _
theorem Sys2Proof.Laws.Bounded.vfxmul (b c : Nat) : Sys2Proof.Laws.Bounded.Statement (.vfxmul b c) := Sys2Proof.Laws.bounded_form _
theorem Sys2Proof.Laws.Bounded.vfxma (b c : Nat) : Sys2Proof.Laws.Bounded.Statement (.vfxma b c) := Sys2Proof.Laws.bounded_form _
theorem Sys2Proof.Laws.Bounded.vfdot (b c : Nat) : Sys2Proof.Laws.Bounded.Statement (.vfdot b c) := Sys2Proof.Laws.bounded_form _
theorem Sys2Proof.Laws.Bounded.vfun (b c : Nat) : Sys2Proof.Laws.Bounded.Statement (.vfun b c) := Sys2Proof.Laws.bounded_form _
theorem Sys2Proof.Laws.Bounded.vfcvt (b c : Nat) : Sys2Proof.Laws.Bounded.Statement (.vfcvt b c) := Sys2Proof.Laws.bounded_form _
theorem Sys2Proof.Laws.Bounded.vffold (b c : Nat) : Sys2Proof.Laws.Bounded.Statement (.vffold b c) := Sys2Proof.Laws.bounded_form _
theorem Sys2Proof.Laws.Bounded.vmlog (b c : Nat) : Sys2Proof.Laws.Bounded.Statement (.vmlog b c) := Sys2Proof.Laws.bounded_form _
theorem Sys2Proof.Laws.Bounded.vmcount (b c : Nat) : Sys2Proof.Laws.Bounded.Statement (.vmcount b c) := Sys2Proof.Laws.bounded_form _
theorem Sys2Proof.Laws.Bounded.vmlow (b c : Nat) : Sys2Proof.Laws.Bounded.Statement (.vmlow b c) := Sys2Proof.Laws.bounded_form _
theorem Sys2Proof.Laws.Bounded.vsel (b c : Nat) : Sys2Proof.Laws.Bounded.Statement (.vsel b c) := Sys2Proof.Laws.bounded_form _
theorem Sys2Proof.Laws.Bounded.vcopy (b c : Nat) : Sys2Proof.Laws.Bounded.Statement (.vcopy b c) := Sys2Proof.Laws.bounded_form _
theorem Sys2Proof.Laws.Bounded.vins (b c : Nat) : Sys2Proof.Laws.Bounded.Statement (.vins b c) := Sys2Proof.Laws.bounded_form _
theorem Sys2Proof.Laws.Bounded.vext (b c : Nat) : Sys2Proof.Laws.Bounded.Statement (.vext b c) := Sys2Proof.Laws.bounded_form _
theorem Sys2Proof.Laws.Bounded.velup (b c : Nat) : Sys2Proof.Laws.Bounded.Statement (.velup b c) := Sys2Proof.Laws.bounded_form _
theorem Sys2Proof.Laws.Bounded.veldn (b c : Nat) : Sys2Proof.Laws.Bounded.Statement (.veldn b c) := Sys2Proof.Laws.bounded_form _
theorem Sys2Proof.Laws.Bounded.vperm (b c : Nat) : Sys2Proof.Laws.Bounded.Statement (.vperm b c) := Sys2Proof.Laws.bounded_form _
theorem Sys2Proof.Laws.Bounded.vpack (b c : Nat) : Sys2Proof.Laws.Bounded.Statement (.vpack b c) := Sys2Proof.Laws.bounded_form _
theorem Sys2Proof.Laws.Bounded.vindex (b c : Nat) : Sys2Proof.Laws.Bounded.Statement (.vindex b c) := Sys2Proof.Laws.bounded_form _
theorem Sys2Proof.Laws.Bounded.visum (b c : Nat) : Sys2Proof.Laws.Bounded.Statement (.visum b c) := Sys2Proof.Laws.bounded_form _
theorem Sys2Proof.Laws.Bounded.vsplat (b c : Nat) : Sys2Proof.Laws.Bounded.Statement (.vsplat b c) := Sys2Proof.Laws.bounded_form _
theorem Sys2Proof.Laws.Bounded.vsrd (b c : Nat) : Sys2Proof.Laws.Bounded.Statement (.vsrd b c) := Sys2Proof.Laws.bounded_form _
theorem Sys2Proof.Laws.Bounded.vswr (b c : Nat) : Sys2Proof.Laws.Bounded.Statement (.vswr b c) := Sys2Proof.Laws.bounded_form _
theorem Sys2Proof.Laws.Bounded.updRun (k : Nat) : Sys2Proof.Laws.Bounded.Statement (.updRun k) := Sys2Proof.Laws.bounded_form _
theorem Sys2Proof.Laws.Bounded.updRows (k : Nat) : Sys2Proof.Laws.Bounded.Statement (.updRows k) := Sys2Proof.Laws.bounded_form _
theorem Sys2Proof.Laws.Bounded.slvPattern (k : Nat) : Sys2Proof.Laws.Bounded.Statement (.slvPattern k) := Sys2Proof.Laws.bounded_form _
theorem Sys2Proof.Laws.Bounded.slvValues (k : Nat) : Sys2Proof.Laws.Bounded.Statement (.slvValues k) := Sys2Proof.Laws.bounded_form _
theorem Sys2Proof.Laws.Bounded.slvFactor (k : Nat) : Sys2Proof.Laws.Bounded.Statement (.slvFactor k) := Sys2Proof.Laws.bounded_form _
theorem Sys2Proof.Laws.Bounded.slvSolve (k : Nat) : Sys2Proof.Laws.Bounded.Statement (.slvSolve k) := Sys2Proof.Laws.bounded_form _
theorem Sys2Proof.Laws.Bounded.solverSystemStart (k : Nat) : Sys2Proof.Laws.Bounded.Statement (.solverSystemStart k) := Sys2Proof.Laws.bounded_form _
theorem Sys2Proof.Laws.Bounded.slvStatus (k : Nat) : Sys2Proof.Laws.Bounded.Statement (.slvStatus k) := Sys2Proof.Laws.bounded_form _
theorem Sys2Proof.Laws.Bounded.redTree (k : Nat) : Sys2Proof.Laws.Bounded.Statement (.redTree k) := Sys2Proof.Laws.bounded_form _
theorem Sys2Proof.Laws.Bounded.redLowrank (k : Nat) : Sys2Proof.Laws.Bounded.Statement (.redLowrank k) := Sys2Proof.Laws.bounded_form _
theorem Sys2Proof.Laws.Bounded.redScale (k : Nat) : Sys2Proof.Laws.Bounded.Statement (.redScale k) := Sys2Proof.Laws.bounded_form _
theorem Sys2Proof.Laws.Bounded.xchgTokens (k : Nat) : Sys2Proof.Laws.Bounded.Statement (.xchgTokens k) := Sys2Proof.Laws.bounded_form _
theorem Sys2Proof.Laws.Bounded.bcast (k : Nat) : Sys2Proof.Laws.Bounded.Statement (.bcast k) := Sys2Proof.Laws.bounded_form _
theorem Sys2Proof.Laws.Bounded.allgatherLayer (k : Nat) : Sys2Proof.Laws.Bounded.Statement (.allgatherLayer k) := Sys2Proof.Laws.bounded_form _
theorem Sys2Proof.Laws.Bounded.layoutEpoch (k : Nat) : Sys2Proof.Laws.Bounded.Statement (.layoutEpoch k) := Sys2Proof.Laws.bounded_form _
theorem Sys2Proof.Laws.Bounded.collUp (port : Nat) (p : Packet) : Sys2Proof.Laws.Bounded.Statement (.collUp port p) := Sys2Proof.Laws.bounded_form _
theorem Sys2Proof.Laws.Bounded.collDown (port : Nat) (p : Packet) : Sys2Proof.Laws.Bounded.Statement (.collDown port p) := Sys2Proof.Laws.bounded_form _
theorem Sys2Proof.Laws.Bounded.retryReq (port : Nat) (p : Packet) : Sys2Proof.Laws.Bounded.Statement (.retryReq port p) := Sys2Proof.Laws.bounded_form _
theorem Sys2Proof.Laws.Bounded.retryUp (port : Nat) (p : Packet) : Sys2Proof.Laws.Bounded.Statement (.retryUp port p) := Sys2Proof.Laws.bounded_form _
theorem Sys2Proof.Laws.Bounded.maxUp (port : Nat) (p : Packet) : Sys2Proof.Laws.Bounded.Statement (.maxUp port p) := Sys2Proof.Laws.bounded_form _
theorem Sys2Proof.Laws.Bounded.maxDown (port : Nat) (p : Packet) : Sys2Proof.Laws.Bounded.Statement (.maxDown port p) := Sys2Proof.Laws.bounded_form _
theorem Sys2Proof.Laws.Bounded.dataUp (port : Nat) (p : Packet) : Sys2Proof.Laws.Bounded.Statement (.dataUp port p) := Sys2Proof.Laws.bounded_form _
theorem Sys2Proof.Laws.Bounded.dataDown (port : Nat) (p : Packet) : Sys2Proof.Laws.Bounded.Statement (.dataDown port p) := Sys2Proof.Laws.bounded_form _
theorem Sys2Proof.Laws.Bounded.collToken (port : Nat) (p : Packet) : Sys2Proof.Laws.Bounded.Statement (.collToken port p) := Sys2Proof.Laws.bounded_form _
theorem Sys2Proof.Laws.Bounded.collTokenRet (port : Nat) (p : Packet) : Sys2Proof.Laws.Bounded.Statement (.collTokenRet port p) := Sys2Proof.Laws.bounded_form _
theorem Sys2Proof.Laws.Bounded.nodeDeadline (i : Nat) : Sys2Proof.Laws.Bounded.Statement (.nodeDeadline i) := Sys2Proof.Laws.bounded_form _
theorem Sys2Proof.Laws.Bounded.retryDeadline (i : Nat) : Sys2Proof.Laws.Bounded.Statement (.retryDeadline i) := Sys2Proof.Laws.bounded_form _
theorem Sys2Proof.Laws.Bounded.deliveryDeadline (k : Nat) : Sys2Proof.Laws.Bounded.Statement (.deliveryDeadline k) := Sys2Proof.Laws.bounded_form _
theorem Sys2Proof.Laws.Bounded.exchangeDeadline (k : Nat) : Sys2Proof.Laws.Bounded.Statement (.exchangeDeadline k) := Sys2Proof.Laws.bounded_form _
theorem Sys2Proof.Laws.Bounded.pktWrite (port : Nat) (p : Packet) : Sys2Proof.Laws.Bounded.Statement (.pktWrite port p) := Sys2Proof.Laws.bounded_form _
theorem Sys2Proof.Laws.Bounded.readReq (port : Nat) (p : Packet) : Sys2Proof.Laws.Bounded.Statement (.readReq port p) := Sys2Proof.Laws.bounded_form _
theorem Sys2Proof.Laws.Bounded.readResp (port : Nat) (p : Packet) : Sys2Proof.Laws.Bounded.Statement (.readResp port p) := Sys2Proof.Laws.bounded_form _
theorem Sys2Proof.Laws.Bounded.pktAck (port : Nat) (p : Packet) : Sys2Proof.Laws.Bounded.Statement (.pktAck port p) := Sys2Proof.Laws.bounded_form _
theorem Sys2Proof.Laws.Bounded.pktNack (port : Nat) (p : Packet) : Sys2Proof.Laws.Bounded.Statement (.pktNack port p) := Sys2Proof.Laws.bounded_form _
theorem Sys2Proof.Laws.Bounded.ctrAdd (port : Nat) (p : Packet) : Sys2Proof.Laws.Bounded.Statement (.ctrAdd port p) := Sys2Proof.Laws.bounded_form _
theorem Sys2Proof.Laws.Bounded.ctrAddResend (e : Nat) : Sys2Proof.Laws.Bounded.Statement (.ctrAddResend e) := Sys2Proof.Laws.bounded_form _
theorem Sys2Proof.Laws.Bounded.pktFeed (port : Nat) (p : Packet) : Sys2Proof.Laws.Bounded.Statement (.pktFeed port p) := Sys2Proof.Laws.bounded_form _
theorem Sys2Proof.Laws.Bounded.feedDb (fn f : Nat) (v : W64) : Sys2Proof.Laws.Bounded.Statement (.feedDb fn f v) := Sys2Proof.Laws.bounded_form _
theorem Sys2Proof.Laws.Bounded.pktProbe (port : Nat) (p : Packet) : Sys2Proof.Laws.Bounded.Statement (.pktProbe port p) := Sys2Proof.Laws.bounded_form _
theorem Sys2Proof.Laws.Bounded.pktProbeReply (port : Nat) (p : Packet) : Sys2Proof.Laws.Bounded.Statement (.pktProbeReply port p) := Sys2Proof.Laws.bounded_form _
theorem Sys2Proof.Laws.Bounded.packetForward (port : Nat) (p : Packet) : Sys2Proof.Laws.Bounded.Statement (.packetForward port p) := Sys2Proof.Laws.bounded_form _
theorem Sys2Proof.Laws.Bounded.linkReplay (port : Nat) (lseq : BitVec 16) (hdrFail : Bool) : Sys2Proof.Laws.Bounded.Statement (.linkReplay port lseq hdrFail) := Sys2Proof.Laws.bounded_form _
theorem Sys2Proof.Laws.Bounded.laneRetune (port lane : Nat) (errRatioE9 : Nat) : Sys2Proof.Laws.Bounded.Statement (.laneRetune port lane errRatioE9) := Sys2Proof.Laws.bounded_form _
theorem Sys2Proof.Laws.Bounded.laneRetuneDone (port : Nat) (good : Bool) : Sys2Proof.Laws.Bounded.Statement (.laneRetuneDone port good) := Sys2Proof.Laws.bounded_form _
theorem Sys2Proof.Laws.Bounded.linkDown (port : Nat) : Sys2Proof.Laws.Bounded.Statement (.linkDown port) := Sys2Proof.Laws.bounded_form _
theorem Sys2Proof.Laws.Bounded.linkUp (port : Nat) : Sys2Proof.Laws.Bounded.Statement (.linkUp port) := Sys2Proof.Laws.bounded_form _
theorem Sys2Proof.Laws.Bounded.hello (port : Nat) (p : Packet) : Sys2Proof.Laws.Bounded.Statement (.hello port p) := Sys2Proof.Laws.bounded_form _
theorem Sys2Proof.Laws.Bounded.mgmtJoin (port : Nat) (p : Packet) : Sys2Proof.Laws.Bounded.Statement (.mgmtJoin port p) := Sys2Proof.Laws.bounded_form _
theorem Sys2Proof.Laws.Bounded.joinAck (port : Nat) (p : Packet) : Sys2Proof.Laws.Bounded.Statement (.joinAck port p) := Sys2Proof.Laws.bounded_form _
theorem Sys2Proof.Laws.Bounded.heartbeat (port : Nat) (p : Packet) : Sys2Proof.Laws.Bounded.Statement (.heartbeat port p) := Sys2Proof.Laws.bounded_form _
theorem Sys2Proof.Laws.Bounded.heartbeatSend : Sys2Proof.Laws.Bounded.Statement (.heartbeatSend) := Sys2Proof.Laws.bounded_form _
theorem Sys2Proof.Laws.Bounded.moduleLost (addr : BitVec 12) : Sys2Proof.Laws.Bounded.Statement (.moduleLost addr) := Sys2Proof.Laws.bounded_form _
theorem Sys2Proof.Laws.Bounded.leaveMessage (port : Nat) (p : Packet) : Sys2Proof.Laws.Bounded.Statement (.leaveMessage port p) := Sys2Proof.Laws.bounded_form _
theorem Sys2Proof.Laws.Bounded.beacon (port : Nat) (p : Packet) : Sys2Proof.Laws.Bounded.Statement (.beacon port p) := Sys2Proof.Laws.bounded_form _
theorem Sys2Proof.Laws.Bounded.beaconSend : Sys2Proof.Laws.Bounded.Statement (.beaconSend) := Sys2Proof.Laws.bounded_form _
theorem Sys2Proof.Laws.Bounded.resetNotice (port : Nat) (p : Packet) : Sys2Proof.Laws.Bounded.Statement (.resetNotice port p) := Sys2Proof.Laws.bounded_form _
theorem Sys2Proof.Laws.Bounded.rankReset (port : Nat) (p : Packet) : Sys2Proof.Laws.Bounded.Statement (.rankReset port p) := Sys2Proof.Laws.bounded_form _
theorem Sys2Proof.Laws.Bounded.rankLost (port : Nat) (p : Packet) : Sys2Proof.Laws.Bounded.Statement (.rankLost port p) := Sys2Proof.Laws.bounded_form _
theorem Sys2Proof.Laws.Bounded.timeDegraded (port : Nat) (p : Packet) : Sys2Proof.Laws.Bounded.Statement (.timeDegraded port p) := Sys2Proof.Laws.bounded_form _
theorem Sys2Proof.Laws.Bounded.tickLostReport (port : Nat) (p : Packet) : Sys2Proof.Laws.Bounded.Statement (.tickLostReport port p) := Sys2Proof.Laws.bounded_form _
theorem Sys2Proof.Laws.Bounded.holdoverTimeout (addr : BitVec 12) : Sys2Proof.Laws.Bounded.Statement (.holdoverTimeout addr) := Sys2Proof.Laws.bounded_form _
theorem Sys2Proof.Laws.Bounded.routeSet (port : Nat) (p : Packet) : Sys2Proof.Laws.Bounded.Statement (.routeSet port p) := Sys2Proof.Laws.bounded_form _
theorem Sys2Proof.Laws.Bounded.groupInstall (port : Nat) (p : Packet) : Sys2Proof.Laws.Bounded.Statement (.groupInstall port p) := Sys2Proof.Laws.bounded_form _
theorem Sys2Proof.Laws.Bounded.groupStage (port : Nat) (p : Packet) : Sys2Proof.Laws.Bounded.Statement (.groupStage port p) := Sys2Proof.Laws.bounded_form _
theorem Sys2Proof.Laws.Bounded.groupRemove (port : Nat) (p : Packet) : Sys2Proof.Laws.Bounded.Statement (.groupRemove port p) := Sys2Proof.Laws.bounded_form _
theorem Sys2Proof.Laws.Bounded.periodArm (port : Nat) (p : Packet) : Sys2Proof.Laws.Bounded.Statement (.periodArm port p) := Sys2Proof.Laws.bounded_form _
theorem Sys2Proof.Laws.Bounded.mgmtAck (port : Nat) (p : Packet) : Sys2Proof.Laws.Bounded.Statement (.mgmtAck port p) := Sys2Proof.Laws.bounded_form _
theorem Sys2Proof.Laws.Bounded.mgmtResend (mseq : BitVec 32) : Sys2Proof.Laws.Bounded.Statement (.mgmtResend mseq) := Sys2Proof.Laws.bounded_form _
theorem Sys2Proof.Laws.Bounded.identify (ch : Nat) (req : Bytes) : Sys2Proof.Laws.Bounded.Statement (.identify ch req) := Sys2Proof.Laws.bounded_form _
theorem Sys2Proof.Laws.Bounded.statusQuery (ch : Nat) (req : Bytes) : Sys2Proof.Laws.Bounded.Statement (.statusQuery ch req) := Sys2Proof.Laws.bounded_form _
theorem Sys2Proof.Laws.Bounded.telemetryRead (ch : Nat) (req : Bytes) : Sys2Proof.Laws.Bounded.Statement (.telemetryRead ch req) := Sys2Proof.Laws.bounded_form _
theorem Sys2Proof.Laws.Bounded.logRead (ch : Nat) (req : Bytes) : Sys2Proof.Laws.Bounded.Statement (.logRead ch req) := Sys2Proof.Laws.bounded_form _
theorem Sys2Proof.Laws.Bounded.micaSlices (ch : Nat) (req : Bytes) : Sys2Proof.Laws.Bounded.Statement (.micaSlices ch req) := Sys2Proof.Laws.bounded_form _
theorem Sys2Proof.Laws.Bounded.bar2Set (ch : Nat) (req : Bytes) : Sys2Proof.Laws.Bounded.Statement (.bar2Set ch req) := Sys2Proof.Laws.bounded_form _
theorem Sys2Proof.Laws.Bounded.ctxCreate (ch : Nat) (req : Bytes) : Sys2Proof.Laws.Bounded.Statement (.ctxCreate ch req) := Sys2Proof.Laws.bounded_form _
theorem Sys2Proof.Laws.Bounded.ctxDestroy (ch : Nat) (req : Bytes) : Sys2Proof.Laws.Bounded.Statement (.ctxDestroy ch req) := Sys2Proof.Laws.bounded_form _
theorem Sys2Proof.Laws.Bounded.ctxDrained (c : Nat) : Sys2Proof.Laws.Bounded.Statement (.ctxDrained c) := Sys2Proof.Laws.bounded_form _
theorem Sys2Proof.Laws.Bounded.ctxNumberRelease (c : Nat) : Sys2Proof.Laws.Bounded.Statement (.ctxNumberRelease c) := Sys2Proof.Laws.bounded_form _
theorem Sys2Proof.Laws.Bounded.ctxQuery (ch : Nat) (req : Bytes) : Sys2Proof.Laws.Bounded.Statement (.ctxQuery ch req) := Sys2Proof.Laws.bounded_form _
theorem Sys2Proof.Laws.Bounded.counterGrant (ch : Nat) (req : Bytes) : Sys2Proof.Laws.Bounded.Statement (.counterGrant ch req) := Sys2Proof.Laws.bounded_form _
theorem Sys2Proof.Laws.Bounded.queueCreate (ch : Nat) (req : Bytes) : Sys2Proof.Laws.Bounded.Statement (.queueCreate ch req) := Sys2Proof.Laws.bounded_form _
theorem Sys2Proof.Laws.Bounded.queueDestroy (ch : Nat) (req : Bytes) : Sys2Proof.Laws.Bounded.Statement (.queueDestroy ch req) := Sys2Proof.Laws.bounded_form _
theorem Sys2Proof.Laws.Bounded.tileGrant (ch : Nat) (req : Bytes) : Sys2Proof.Laws.Bounded.Statement (.tileGrant ch req) := Sys2Proof.Laws.bounded_form _
theorem Sys2Proof.Laws.Bounded.mapPages (ch : Nat) (req : Bytes) : Sys2Proof.Laws.Bounded.Statement (.mapPages ch req) := Sys2Proof.Laws.bounded_form _
theorem Sys2Proof.Laws.Bounded.unmap (ch : Nat) (req : Bytes) : Sys2Proof.Laws.Bounded.Statement (.unmap ch req) := Sys2Proof.Laws.bounded_form _
theorem Sys2Proof.Laws.Bounded.memQuery (ch : Nat) (req : Bytes) : Sys2Proof.Laws.Bounded.Statement (.memQuery ch req) := Sys2Proof.Laws.bounded_form _
theorem Sys2Proof.Laws.Bounded.channelMapout (ch : Nat) (req : Bytes) : Sys2Proof.Laws.Bounded.Statement (.channelMapout ch req) := Sys2Proof.Laws.bounded_form _
theorem Sys2Proof.Laws.Bounded.mapoutComplete (stack chan : Nat) : Sys2Proof.Laws.Bounded.Statement (.mapoutComplete stack chan) := Sys2Proof.Laws.bounded_form _
theorem Sys2Proof.Laws.Bounded.stageqCreate (ch : Nat) (req : Bytes) : Sys2Proof.Laws.Bounded.Statement (.stageqCreate ch req) := Sys2Proof.Laws.bounded_form _
theorem Sys2Proof.Laws.Bounded.stageqQuery (ch : Nat) (req : Bytes) : Sys2Proof.Laws.Bounded.Statement (.stageqQuery ch req) := Sys2Proof.Laws.bounded_form _
theorem Sys2Proof.Laws.Bounded.stageqDestroy (ch : Nat) (req : Bytes) : Sys2Proof.Laws.Bounded.Statement (.stageqDestroy ch req) := Sys2Proof.Laws.bounded_form _
theorem Sys2Proof.Laws.Bounded.groupSet (ch : Nat) (req : Bytes) : Sys2Proof.Laws.Bounded.Statement (.groupSet ch req) := Sys2Proof.Laws.bounded_form _
theorem Sys2Proof.Laws.Bounded.groupQuery (ch : Nat) (req : Bytes) : Sys2Proof.Laws.Bounded.Statement (.groupQuery ch req) := Sys2Proof.Laws.bounded_form _
theorem Sys2Proof.Laws.Bounded.roleSet (ch : Nat) (req : Bytes) : Sys2Proof.Laws.Bounded.Statement (.roleSet ch req) := Sys2Proof.Laws.bounded_form _
theorem Sys2Proof.Laws.Bounded.leave (ch : Nat) (req : Bytes) : Sys2Proof.Laws.Bounded.Statement (.leave ch req) := Sys2Proof.Laws.bounded_form _
theorem Sys2Proof.Laws.Bounded.powerCapSet (ch : Nat) (req : Bytes) : Sys2Proof.Laws.Bounded.Statement (.powerCapSet ch req) := Sys2Proof.Laws.bounded_form _
theorem Sys2Proof.Laws.Bounded.oppointSet (ch : Nat) (req : Bytes) : Sys2Proof.Laws.Bounded.Statement (.oppointSet ch req) := Sys2Proof.Laws.bounded_form _
theorem Sys2Proof.Laws.Bounded.wakeSet (ch : Nat) (req : Bytes) : Sys2Proof.Laws.Bounded.Statement (.wakeSet ch req) := Sys2Proof.Laws.bounded_form _
theorem Sys2Proof.Laws.Bounded.fwQuery (ch : Nat) (req : Bytes) : Sys2Proof.Laws.Bounded.Statement (.fwQuery ch req) := Sys2Proof.Laws.bounded_form _
theorem Sys2Proof.Laws.Bounded.fwStage (ch : Nat) (req : Bytes) : Sys2Proof.Laws.Bounded.Statement (.fwStage ch req) := Sys2Proof.Laws.bounded_form _
theorem Sys2Proof.Laws.Bounded.fwActivate (ch : Nat) (req : Bytes) : Sys2Proof.Laws.Bounded.Statement (.fwActivate ch req) := Sys2Proof.Laws.bounded_form _
theorem Sys2Proof.Laws.Bounded.handover : Sys2Proof.Laws.Bounded.Statement (.handover) := Sys2Proof.Laws.bounded_form _
theorem Sys2Proof.Laws.Bounded.fwActivated : Sys2Proof.Laws.Bounded.Statement (.fwActivated) := Sys2Proof.Laws.bounded_form _
theorem Sys2Proof.Laws.Bounded.fwCommit (ch : Nat) (req : Bytes) : Sys2Proof.Laws.Bounded.Statement (.fwCommit ch req) := Sys2Proof.Laws.bounded_form _
theorem Sys2Proof.Laws.Bounded.recalibrate (ch : Nat) (req : Bytes) : Sys2Proof.Laws.Bounded.Statement (.recalibrate ch req) := Sys2Proof.Laws.bounded_form _
theorem Sys2Proof.Laws.Bounded.mailboxReservedCode (ch : Nat) (req : Bytes) : Sys2Proof.Laws.Bounded.Statement (.mailboxReservedCode ch req) := Sys2Proof.Laws.bounded_form _
theorem Sys2Proof.Laws.Bounded.msgDone (n : Nat) : Sys2Proof.Laws.Bounded.Statement (.msgDone n) := Sys2Proof.Laws.bounded_form _
theorem Sys2Proof.Laws.Bounded.setEndpointId (msg : Bytes) : Sys2Proof.Laws.Bounded.Statement (.setEndpointId msg) := Sys2Proof.Laws.bounded_form _
theorem Sys2Proof.Laws.Bounded.getEndpointId (msg : Bytes) : Sys2Proof.Laws.Bounded.Statement (.getEndpointId msg) := Sys2Proof.Laws.bounded_form _
theorem Sys2Proof.Laws.Bounded.getMctpVersionSupport (msg : Bytes) : Sys2Proof.Laws.Bounded.Statement (.getMctpVersionSupport msg) := Sys2Proof.Laws.bounded_form _
theorem Sys2Proof.Laws.Bounded.getMessageTypeSupport (msg : Bytes) : Sys2Proof.Laws.Bounded.Statement (.getMessageTypeSupport msg) := Sys2Proof.Laws.bounded_form _
theorem Sys2Proof.Laws.Bounded.getVendorDefinedMessageSupport (msg : Bytes) : Sys2Proof.Laws.Bounded.Statement (.getVendorDefinedMessageSupport msg) := Sys2Proof.Laws.bounded_form _
theorem Sys2Proof.Laws.Bounded.bar2Access (fn : Nat) (write : Bool) (off len : Nat) (data : Bytes) : Sys2Proof.Laws.Bounded.Statement (.bar2Access fn write off len data) := Sys2Proof.Laws.bounded_form _
theorem Sys2Proof.Laws.Bounded.flr (fn : Nat) : Sys2Proof.Laws.Bounded.Statement (.flr fn) := Sys2Proof.Laws.bounded_form _
theorem Sys2Proof.Laws.Bounded.vfDisable (fn : Nat) : Sys2Proof.Laws.Bounded.Statement (.vfDisable fn) := Sys2Proof.Laws.bounded_form _
theorem Sys2Proof.Laws.Bounded.perst : Sys2Proof.Laws.Bounded.Statement (.perst) := Sys2Proof.Laws.bounded_form _
theorem Sys2Proof.Laws.Bounded.auxSupplyValid (straps : BitVec 3) : Sys2Proof.Laws.Bounded.Statement (.auxSupplyValid straps) := Sys2Proof.Laws.bounded_form _
theorem Sys2Proof.Laws.Bounded.auxSupplyRemoval : Sys2Proof.Laws.Bounded.Statement (.auxSupplyRemoval) := Sys2Proof.Laws.bounded_form _
theorem Sys2Proof.Laws.Bounded.startUp (goodA goodB calOk : Bool) : Sys2Proof.Laws.Bounded.Statement (.startUp goodA goodB calOk) := Sys2Proof.Laws.bounded_form _
theorem Sys2Proof.Laws.Bounded.startUpMailbox : Sys2Proof.Laws.Bounded.Statement (.startUpMailbox) := Sys2Proof.Laws.bounded_form _
theorem Sys2Proof.Laws.Bounded.startUpFullOperation : Sys2Proof.Laws.Bounded.Statement (.startUpFullOperation) := Sys2Proof.Laws.bounded_form _
theorem Sys2Proof.Laws.Bounded.supplyRemoval : Sys2Proof.Laws.Bounded.Statement (.supplyRemoval) := Sys2Proof.Laws.bounded_form _
theorem Sys2Proof.Laws.Bounded.criticalTemp (die : Nat) (temp : BitVec 16) : Sys2Proof.Laws.Bounded.Statement (.criticalTemp die temp) := Sys2Proof.Laws.bounded_form _
theorem Sys2Proof.Laws.Bounded.thermalSample (temps : List Int) : Sys2Proof.Laws.Bounded.Statement (.thermalSample temps) := Sys2Proof.Laws.bounded_form _
theorem Sys2Proof.Laws.Bounded.telemetrySample (m : Measure) : Sys2Proof.Laws.Bounded.Statement (.telemetrySample m) := Sys2Proof.Laws.bounded_form _
theorem Sys2Proof.Laws.Bounded.limiterTick (m : PowerMeasure) : Sys2Proof.Laws.Bounded.Statement (.limiterTick m) := Sys2Proof.Laws.bounded_form _
theorem Sys2Proof.Laws.Bounded.capUnmet (inputW : Nat) : Sys2Proof.Laws.Bounded.Statement (.capUnmet inputW) := Sys2Proof.Laws.bounded_form _
theorem Sys2Proof.Laws.Bounded.channelRetrain (stack chan : Nat) (deciC : Int) (good : Bool) : Sys2Proof.Laws.Bounded.Statement (.channelRetrain stack chan deciC good) := Sys2Proof.Laws.bounded_form _
theorem Sys2Proof.Laws.Bounded.enterIdle : Sys2Proof.Laws.Bounded.Statement (.enterIdle) := Sys2Proof.Laws.bounded_form _
theorem Sys2Proof.Laws.Bounded.enterDoze : Sys2Proof.Laws.Bounded.Statement (.enterDoze) := Sys2Proof.Laws.bounded_form _
theorem Sys2Proof.Laws.Bounded.enterSleep : Sys2Proof.Laws.Bounded.Statement (.enterSleep) := Sys2Proof.Laws.bounded_form _
theorem Sys2Proof.Laws.Bounded.rtcAlarm : Sys2Proof.Laws.Bounded.Statement (.rtcAlarm) := Sys2Proof.Laws.bounded_form _
theorem Sys2Proof.Laws.Bounded.frameWake : Sys2Proof.Laws.Bounded.Statement (.frameWake) := Sys2Proof.Laws.bounded_form _
theorem Sys2Proof.Laws.Bounded.exitToActive : Sys2Proof.Laws.Bounded.Statement (.exitToActive) := Sys2Proof.Laws.bounded_form _
theorem Sys2Proof.Laws.Bounded.unitError (die : BitVec 8) (k : Option Nat) : Sys2Proof.Laws.Bounded.Statement (.unitError die k) := Sys2Proof.Laws.bounded_form _
theorem Sys2Proof.Laws.Bounded.resetFence : Sys2Proof.Laws.Bounded.Statement (.resetFence) := Sys2Proof.Laws.bounded_form _
theorem Sys2Proof.Laws.Bounded.resetDump : Sys2Proof.Laws.Bounded.Statement (.resetDump) := Sys2Proof.Laws.bounded_form _
theorem Sys2Proof.Laws.Bounded.resetComputeDomain : Sys2Proof.Laws.Bounded.Statement (.resetComputeDomain) := Sys2Proof.Laws.bounded_form _
theorem Sys2Proof.Laws.Bounded.resetResume : Sys2Proof.Laws.Bounded.Statement (.resetResume) := Sys2Proof.Laws.bounded_form _
theorem Sys2Proof.Laws.Bounded.handoverEnd : Sys2Proof.Laws.Bounded.Statement (.handoverEnd) := Sys2Proof.Laws.bounded_form _
theorem Sys2Proof.Laws.Bounded.trialReversion : Sys2Proof.Laws.Bounded.Statement (.trialReversion) := Sys2Proof.Laws.bounded_form _
theorem Sys2Proof.Laws.Bounded.thermtripRelease : Sys2Proof.Laws.Bounded.Statement (.thermtripRelease) := Sys2Proof.Laws.bounded_form _
theorem Sys2Proof.Laws.Bounded.refreshRateChange (stack : Nat) (deciC : Int) : Sys2Proof.Laws.Bounded.Statement (.refreshRateChange stack deciC) := Sys2Proof.Laws.bounded_form _
theorem Sys2Proof.Laws.Bounded.overrun (ch : Nat) (req : Bytes) : Sys2Proof.Laws.Bounded.Statement (.overrun ch req) := Sys2Proof.Laws.bounded_form _
theorem Sys2Proof.Laws.Bounded.perstDeassertion : Sys2Proof.Laws.Bounded.Statement (.perstDeassertion) := Sys2Proof.Laws.bounded_form _
end

