-- ==== Sys2Proof/Tests/Slice0.lean ====
section
/-!
SUPPORT. Small tests of the model on values written out from the spec, and for every statement a concrete state and operands
that meet its hypotheses.
-/
namespace Sys2Proof.Tests
open Sys2Proof Sys2Proof.Machine

set_option maxRecDepth 8000
set_option Elab.async false

/-! ### Helpers -/

/-- Bytes with others put over them from an offset on. -/
def setBytes (bs : Bytes) (off : Nat) (v : Bytes) : Bytes := bs.take off ++ v ++ bs.drop (off + v.length)
/-- A descriptor of 1 + ext blocks with the given fields (offset, width, value), the rest zero. -/
def descE (ext op : Nat) (fs : List (Nat × Nat × Nat)) : Bytes :=
  fs.foldl (fun bs f => setBytes bs f.1 (leBytes f.2.1 f.2.2)) (leBytes 1 op ++ List.replicate (64 * (1 + ext) - 1) 0)
def desc (op : Nat) (fs : List (Nat × Nat × Nat)) : Bytes := descE 0 op fs
/-- Command 7 of queue 3 and context 1, started. -/
def cmdOf (bs : Bytes) : Cmd := {
  k := 7, q := 3, ctx := 1, blocks := bs, st := .started, credit := true }
/-- The module at supply with context 1 of function 1 active, queue 3 of it, and local writable pages at 0x100000 and 0x200000. -/
def base : State := { State.reset with
  ctxs := [(0, { st := .active }), (1, {
    st := .active, owner := 1
    maps := [{ va := 0x100000, writable := true, access := 2, target := 0x10020000000 },
             { va := 0x200000, writable := true, access := 2, target := 0x10020100000 }] })]
  ctrOwner := [(0, 1), (1, 1), (2, 1), (3, 1), (4, 2)]
  queues := [(3, { ctx := 1, ringVa := 0x100000, cqVa := 0x101000 })] }
def withCmd (c : Cmd) : State := { base with cmds := [c] }
def work (bs : Bytes) : State := withCmd (cmdOf bs)

/-- A packet of a type for the module itself, handed over without a link. -/
def pkt (ptype : BitVec 8) (payload : Bytes) : Packet := {
  ptype := ptype, length := BitVec.ofNat 16 payload.length, payload := payload }

/-! ### Well-formed commands -/

theorem test_wellFormed_refuses_core : (Instr.sAdd 8 0).wf = false ∧ (Instr.sAdd 0 64).wf = false ∧ (Instr.sAdd 7 63).wf = true := by
  decide
theorem test_wellFormed_refuses_packet : (Instr.tick 9 {}).wf = false ∧ (Instr.tick 0 { length := 1 }).wf = false ∧
    (Instr.tick 8 {}).wf = true := by decide
theorem test_wellFormed_refuses_mailbox : (Instr.identify 33 []).wf = false ∧ (Instr.identify 0 (List.replicate 3073 0)).wf = false ∧
    (Instr.identify 32 []).wf = true := by decide +kernel
theorem test_wellFormed_refuses_function : (Instr.registerWrite 32 0 0).wf = false ∧ (Instr.registerWrite 31 0 0).wf = true := by decide
theorem test_wellFormed_refuses_link : (Instr.linkUp 8).wf = false ∧ (Instr.linkUp 7).wf = true := by decide

/-! ### Step, time base and registers (O1-O9) -/

theorem test_stepRunsFrontCommand_met : ({ State.reset with pending := [.frameBoundary] } : State).pending = [.frameBoundary] := rfl
theorem test_idleStep_met : State.reset.pending = [] ∧ tbRuns State.reset = true ∧ State.reset.tb.phase ≠ 0xFFFF := by decide
theorem test_execNext_met : ∃ t, exec (.sAdd 0 0) State.reset = .next t := ⟨_, rfl⟩
theorem test_memoryCanonical_met : State.reset.memOk ∧ ∃ t, step State.reset = .next t := ⟨by decide, _, rfl⟩
theorem test_periodInRange_met : State.reset.periodInRange ∧ ∃ t, step State.reset = .next t := ⟨by decide, _, rfl⟩
theorem test_periodRefused_met : pfWrites State.reset 0 = true ∧ ((39999999 : W64).extractLsb' 0 41).toNat < 40000000 ∧
    2000000000000 < ((2000000000001 : W64).extractLsb' 0 41).toNat := by decide

def locked : State := { State.reset with tb := { ({} : TimeBase) with
  st := .locked, source := 1, sourceField := 1, frame := 5, phase := 0x0400, lastTickFrame := 4, arm := true, atFrame := 6 } }
theorem test_frameBoundary_met : tbRuns State.reset = true ∧ State.reset.sup.in40 = true ∧
    locked.tb.arm = true ∧ locked.tb.atFrame ≤ locked.tb.frame + 1 := by decide
theorem test_holdoverEntry_met : tbRuns locked = true ∧ locked.tb.st = .locked ∧ 0x0400 ≤ locked.tb.phase ∧
    locked.tb.lastTickFrame < locked.tb.frame := by decide
theorem test_timeBaseWrites_met : State.reset.sup.perst = false ∧ tbRuns State.reset = true := by decide
theorem test_frameIn_met : tbRuns locked = true ∧ locked.tb.source = 1 ∧ locked.tb.st = .locked ∧ locked.tb.needAcq = false ∧
    0 < locked.tb.period.toNat ∧ locked.tb.phase.toNat ≤ 0x0400 ∧ locked.fab.confirmed = false := by decide
theorem test_frameInLate_met : 0x0400 < (0x0401 : BitVec 16).toNat ∧ (0x0401 : BitVec 16).toNat < 0xFC00 ∧
    locked.tb.rejTimes = [] := by decide

def ticked : State := { State.reset with
  fab := { State.reset.fab with confirmed := true }
  tb := { ({} : TimeBase) with st := .locked, source := 2, sourceField := 2, frame := 5, phase := 0x0400, tickParent := some 0 } }
def tickPkt : Packet := pkt 9 (leBytes 8 (5 * 65536) ++ leBytes 8 0)
theorem test_tick_met : ticked.takes 8 ptTick tickPkt ∧ tbRuns ticked = true ∧ ticked.fab.confirmed = true ∧
    ticked.tb.tickParent = some (dstAddr tickPkt.src) ∧ ticked.tb.source = 2 ∧ ticked.tb.st = .locked ∧ ticked.tb.backward = false ∧ ticked.tb.needAcq = false ∧
    BitVec.ofNat 48 (field tickPkt.payload 0 8 / 65536) = ticked.tb.frame ∧
    ticked.tb.phase.toNat * ticked.tb.period.toNat - field tickPkt.payload 8 8 * 65536 ≤ 0x0400 * ticked.tb.period.toNat := by decide
theorem test_tickRefused_met : State.reset.takes 8 ptTick tickPkt ∧ State.reset.fab.confirmed = false ∧
    locked.tb.source ≠ 2 := by decide
theorem test_registerAccess_met : hostUp State.reset = true ∧ pfWrites State.reset 0 = true ∧ pfWrites State.reset 1 = false ∧
    (getFn ({ State.reset with fns := [(1, { busy := true })] } : State) 1).busy = true := by decide

/-! ### Command processor and control commands (O10-O18) -/

/-- NOP of 64 bytes with its integrity word. -/
def nopBytes : Bytes := setBytes (desc 0x00 []) 14 (leBytes 2 (integrity (desc 0x00 [])).toNat)
/-- Queue 3 with one NOP in its ring, at the physical page of 0x100000. -/
def ringed : State := { base with
  mem := memWriteN [] 0x10004000000 []
  queues := [(3, { ctx := 1, ringVa := 0x100000, cqVa := 0x101000, tail := 1 })] }
theorem test_doorbell_met : hostUp base = true ∧ (findQueue base 3).isSome ∧ ownsQueue base 1 3 = true ∧ ownsQueue base 2 3 = false ∧
    (1 : W64).setWidth 32 - (0 : BitVec 32) ≠ 0 ∧ ((64 : W64).setWidth 32 - (0 : BitVec 32) : BitVec 32).toNat ≤ 2 ^ 6 := by decide
/-- DB_TAIL takes a whole ring of 64 blocks and not one block more (R48). -/
theorem test_dbTail_takes_a_full_ring : tailOk { ringN := 6 } 64 = true ∧ tailOk { ringN := 6 } 65 = false ∧ tailOk { ringN := 6 } 0 = false := by
  decide
def fetched (x : Queue) (s : State) : Option Bytes :=
  match fetchBlocks x { s := s, ctx := x.ctx, owner := 7 } with
  | .ok r e => if e.s = s ∧ e.wr = [] ∧ e.used = [] then r else none
  | .error _ _ => none
theorem test_fetch_met : mayFetch ringed 3 { ctx := 1, ringVa := 0x100000, cqVa := 0x101000, tail := 1 } = true ∧
    fetched { ctx := 1, ringVa := 0x100000, cqVa := 0x101000, tail := 1 } ringed = some (List.replicate 64 0) ∧
    integrity (List.replicate 64 0) = BitVec.ofNat 16 (field (List.replicate 64 0) 14 2) := by decide +kernel
/-- The same block with an opcode that its integrity word does not fit. -/
def spoiled : State := { ringed with mem := memWriteN [] 0x10020000000 [6] }
theorem test_fetchSpoiled_met : mayFetch spoiled 3 { ctx := 1, ringVa := 0x100000, cqVa := 0x101000, tail := 1 } = true ∧
    fetched { ctx := 1, ringVa := 0x100000, cqVa := 0x101000, tail := 1 } spoiled = some (desc 0x06 []) ∧
    integrity (desc 0x06 []) ≠ BitVec.ofNat 16 (field (desc 0x06 []) 14 2) ∧ spoiled.cmds = [] ∧ hasRoom spoiled 3 = true := by decide +kernel
/-- A head block that counts one continuation block, of which the ring holds none yet. -/
def halfway : State := { ringed with mem := memWriteN [] 0x10020000000 [0, 0, 4] }
theorem test_fetchWaits_met : (match fetchBlocks { ctx := 1, ringVa := 0x100000, cqVa := 0x101000, tail := 1 }
    { s := halfway, ctx := 1, owner := 7 } with | .ok none _ => true | _ => false) = true := by decide +kernel

def nop : Cmd := { cmdOf (desc 0x00 []) with st := .fetched, credit := false }
theorem test_start_met : findCmd (withCmd nop) 7 = some nop ∧
    (cmdWaitEn nop && !nop.replay && !ctrOwned (withCmd nop) nop.ctx (cmdWaitCtr nop)) = false ∧ ready (withCmd nop) nop = true ∧
    accepts (withCmd nop) nop = true ∧ opEngine (cmdOp nop) ≠ .reserved ∧ nop.changed = false := by decide
/-- A command of a reserved opcode, and a NOP whose ring slots were changed. -/
def odd : Cmd := { nop with blocks := desc 0x7F [] }
theorem test_startUnpredictable_met : findCmd (withCmd odd) 7 = some odd ∧ ready (withCmd odd) odd = true ∧ accepts (withCmd odd) odd = true ∧
    opEngine (cmdOp odd) = .reserved ∧ ready (withCmd { nop with changed := true }) { nop with changed := true } = true ∧
    accepts (withCmd { nop with changed := true }) { nop with changed := true } = true := by decide
/-- A NOP that waits on counter 0, of context 0. -/
def waiter : Cmd := { nop with blocks := desc 0x00 [(1, 1, 1)] }
theorem test_startFault_met : findCmd (withCmd waiter) 7 = some waiter ∧ (headCmd (withCmd waiter) waiter.q).map (·.k) = some 7 ∧
    (getCtx (withCmd waiter) waiter.ctx).st = .active ∧ inReset (withCmd waiter) = false ∧ waiter.intact = true ∧
    heldByWait (withCmd waiter) waiter.q = false ∧ cmdWaitEn waiter = true ∧ waiter.replay = false ∧ waiter.raised = false ∧
    ctrOwned (withCmd waiter) waiter.ctx (cmdWaitCtr waiter) = false ∧ hasRoom (withCmd waiter) waiter.q = true := by decide
def cqFull (c : Cmd) : State := { withCmd c with queues := [(3, { ctx := 1, ringVa := 0x100000, cqVa := 0x101000, cqTail := 64 })] }
theorem test_startFaultNoRoom_met : findCmd (cqFull waiter) 7 = some waiter ∧ (headCmd (cqFull waiter) 3).map (·.k) = some 7 ∧
    heldByWait (cqFull waiter) 3 = false ∧ ctrOwned (cqFull waiter) 1 0 = false ∧ waiter.credit = false ∧ hasRoom (cqFull waiter) 3 = false := by
  decide
theorem test_commandStart_starts : ∃ t, exec (.commandStart 7) (withCmd nop) = .next t ∧ (findCmd t 7).map (·.st) = some .started :=
  ⟨_, rfl, by decide⟩

/-- A NOP that has ended with OK, without and with COMPL, and with a header signal of 15 on counter 256. -/
def ended (flags : Nat) : Cmd := { cmdOf (desc 0x00 [(1, 1, flags), (3, 1, 15), (12, 2, 256)]) with st := .done }
theorem test_completionSilent_met : mayComplete (withCmd (ended 0)) (ended 0) = true ∧ (ended 0).status = 0 ∧ cmdCompl (ended 0) = false ∧
    cmdSigEn (ended 0) = false := by decide
theorem test_completionSignal_met : mayComplete (withCmd (ended 2)) (ended 2) = true ∧ cmdSigEn (ended 2) = true ∧
    ctrOwned (withCmd (ended 2)) 1 (cmdSigCtr (ended 2)) = true ∧
    (ctrGet (withCmd (ended 2)) (cmdSigCtr (ended 2))).toNat + cmdSigInc (ended 2) < 2 ^ 64 := by decide
def recorded (c : Cmd) (s : State) : Bool :=
  match findQueue s c.q with
  | none => false
  | some x => match writeV (x.cqVa + x.cqTail.toNat % 2 ^ x.cqN * 32) (recordBytes s c x 0 c.result c.detail)
      { s := s, ctx := c.ctx, owner := 2 * c.k } with
    | .ok _ e => decide (e.s.queues = s.queues ∧ e.s.cmds = s.cmds ∧ e.s.counters = s.counters)
    | .error _ _ => false
theorem test_completionRecord_met : mayComplete (withCmd (ended 32)) (ended 32) = true ∧ cmdCompl (ended 32) = true ∧
    cmdSigEn (ended 32) = false ∧ recorded (ended 32) (withCmd (ended 32)) = true := by decide +kernel
theorem test_completion_signals : ∃ t, exec (.commandCompletion 7) (withCmd (ended 2)) = .next t ∧ ctrGet t 256 = 15 ∧
    findCmd t 7 = none := ⟨_, rfl, by decide +kernel⟩

/-- A VX_LAUNCH of priority 3 at work, and a ready NOP-like launch of priority 0 behind it on another queue. -/
def low : Cmd := cmdOf (desc 0x30 [(2, 1, 3), (32, 8, 1)])
def high : Cmd := { low with k := 8, q := 4, blocks := desc 0x30 [(32, 8, 1)], st := .fetched, credit := false }
def contended : State := { base with
  cmds := [low, high]
  queues := [(3, { ctx := 1, ringVa := 0x100000, cqVa := 0x101000 }), (4, { ctx := 1, ringVa := 0x100000, cqVa := 0x101000 })]
  cores := [(0, { k := some 7, running := true })] }
theorem test_preemption_met : findCmd contended 7 = some low ∧ low.st = .started ∧ inReset contended = false ∧ low.preempted = false ∧
    effPrio contended low = 3 ∧ preemptible low = true ∧ wanted contended low = true := by decide +kernel
def held : State := { withCmd { low with preempted := true } with saved := [((7, 0), { k := some 7, running := true })] }
theorem test_preemptedResume_met : findCmd held 7 = some { low with preempted := true } ∧ wanted held { low with preempted := true } = false ∧
    (∀ d ∈ held.cmds, d.st = .started → d.k ≠ 7 → d.preempted = false → shares (cmdUnits held low) (cmdUnits held d) = false) ∧
    (∀ x ∈ held.saved, x.1.1 = 7 ∧ ∀ y ∈ held.saved, y.1 = x.1 → y = x) := by
  decide +kernel
theorem test_preemption_saves_the_core : ∃ t, exec (.preemption 7) contended = .next t ∧ t.cores = [] ∧ t.saved.length = 1 :=
  ⟨_, rfl, by decide +kernel⟩

/-- A command of 64 blocks' wait: its watchdog count at the context's WDOG_PH, and one short of it. -/
def silent (n : Nat) (credit : Bool) : Cmd := { cmdOf (desc 0x40 []) with wdog := n, credit := credit }
theorem test_expiry_met : expired (withCmd (silent 0x20000 true)) (silent 0x20000 true) = true ∧ (silent 0x20000 true).credit = true ∧
    (silent 0x20000 true).raised = false ∧ (getCtx (withCmd (silent 0x20000 true)) 1).st = .active ∧
    (withCmd (silent 0x20000 true)).rst.stage = .none ∧ (withCmd (silent 0x20000 true)).mb ≠ .handover := by decide
theorem test_expiryAhead_met : expired (withCmd (silent 0x1FFFF true)) (silent 0x1FFFF true) = false := by decide
def crowded : State := cqFull (silent 0x20000 false)
theorem test_expiryNoRoom_met : findCmd crowded 7 = some (silent 0x20000 false) ∧ expired crowded (silent 0x20000 false) = true ∧
    hasRoom crowded 3 = false := by decide

/-! R71: integrity of a block of zeros with opcode 6, by the polynomial 0x1021. -/
theorem test_integrity_changes_with_the_opcode : integrity (desc 0x00 []) = 0 ∧ integrity (desc 0x06 []) ≠ 0 := by decide +kernel

theorem test_nop_met : (work (desc 0x00 [])).working 7 0x00 0 [] (cmdOf (desc 0x00 [])) := by decide
theorem test_fence_met : (work (desc 0x01 [(16, 1, 2)])).working 7 0x01 0 [(16, 1)] (cmdOf (desc 0x01 [(16, 1, 2)])) ∧
    body (cmdOf (desc 0x01 [(16, 1, 2)])) 16 1 ≤ 2 ∧
    fenceDone (work (desc 0x01 [(16, 1, 2)])) (cmdOf (desc 0x01 [(16, 1, 2)])) = true := by decide
def behind (d : Bytes) : State := { base with cmds := [{ cmdOf (desc 0x10 []) with k := 6 }, cmdOf d] }
theorem test_fenceWaits_met : (behind (desc 0x01 [])).working 7 0x01 0 [(16, 1)] (cmdOf (desc 0x01 [])) ∧
    fenceDone (behind (desc 0x01 [])) (cmdOf (desc 0x01 [])) = false := by decide
theorem test_waitFrame_met : (work (desc 0x04 [(24, 8, 0)])).working 7 0x04 0 [(24, 8)] (cmdOf (desc 0x04 [(24, 8, 0)])) ∧
    mayAct (work (desc 0x04 [(24, 8, 0)])) (body (cmdOf (desc 0x04 [(24, 8, 0)])) 24 8) = true ∧
    (work (desc 0x04 [(24, 8, 1)])).working 7 0x04 0 [(24, 8)] (cmdOf (desc 0x04 [(24, 8, 1)])) ∧
    (work (desc 0x04 [])).ftw.toNat < body (cmdOf (desc 0x04 [(24, 8, 1)])) 24 8 := by decide
/-- A forward step has skipped the times 1 to 5; a feed's slot deadline at 1 comes before a wait for 5 (R33). -/
def skipped : State := { work (desc 0x04 [(24, 8, 5)]) with
  tb := { ({} : TimeBase) with phase := 5, skipTo := 5 }, feeds := [(0, { bound := true, deadlinePh := 1 })] }
theorem test_skippedTimes_in_order : skipped.reachedN 5 = true ∧ mayAct skipped 5 = false ∧ mayAct skipped 1 = true := by decide
theorem test_debugMark_met : (work (desc 0x06 [(24, 8, 0xABCD)])).working 7 0x06 0 [(24, 8)] (cmdOf (desc 0x06 [(24, 8, 0xABCD)])) := by
  decide
theorem test_debugMark_returns_its_tag : ∃ t, exec (.debugMark 7) (work (desc 0x06 [(24, 8, 0xABCD)])) = .next t ∧
    (findCmd t 7).map (·.result) = some 0xABCD := ⟨_, rfl, by decide +kernel⟩

/-- WAIT_COUNT on counter 256 (of context 1) or 0 (of context 0): threshold, timeout. -/
def waitOn (n v t : Nat) : Bytes := desc 0x02 [(16, 2, n), (24, 8, v), (32, 8, t)]
theorem test_waitCount_met : (work (waitOn 256 0 0)).working 7 0x02 0 waitCountBody (cmdOf (waitOn 256 0 0)) ∧
    ctrOwned (work (waitOn 256 0 0)) 1 (body (cmdOf (waitOn 256 0 0)) 16 2) = true ∧
    body (cmdOf (waitOn 256 0 0)) 24 8 ≤ (ctrGet (work (waitOn 256 0 0)) (body (cmdOf (waitOn 256 0 0)) 16 2)).toNat ∧
    (cmdOf (waitOn 256 0 0)).released = none ∧
    (withCmd { cmdOf (waitOn 256 9 0) with released := some 9 }).working 7 0x02 0 waitCountBody { cmdOf (waitOn 256 9 0) with released := some 9 } := by
  decide
def late (d : Bytes) : State := { work d with tb := { ({} : TimeBase) with frame := 1 } }
theorem test_waitCountTimeout_met : (late (waitOn 256 1 65536)).working 7 0x02 0 waitCountBody (cmdOf (waitOn 256 1 65536)) ∧
    body (cmdOf (waitOn 256 1 65536)) 32 8 ≠ 0 ∧ mayAct (late (waitOn 256 1 65536)) (body (cmdOf (waitOn 256 1 65536)) 32 8) = true ∧
    (ctrGet (late (waitOn 256 1 65536)) (body (cmdOf (waitOn 256 1 65536)) 16 2)).toNat < body (cmdOf (waitOn 256 1 65536)) 24 8 := by
  decide
theorem test_waitCountForeign_met : (work (waitOn 255 0 0)).working 7 0x02 0 waitCountBody (cmdOf (waitOn 255 0 0)) ∧
    ctrOwned (work (waitOn 255 0 0)) 1 (body (cmdOf (waitOn 255 0 0)) 16 2) = false := by decide
def signalOn (n mode v : Nat) : Bytes := desc 0x03 [(16, 2, n), (18, 1, mode), (24, 8, v)]
theorem test_signal_met : (work (signalOn 256 1 5)).working 7 0x03 0 [(16, 3), (24, 8), (32, 8)] (cmdOf (signalOn 256 1 5)) ∧
    body (cmdOf (signalOn 256 1 5)) 18 1 < 2 ∧ bitOf (body (cmdOf (signalOn 256 1 5)) 18 1) 1 = false ∧ earlierDone (work (signalOn 256 1 5)) (cmdOf (signalOn 256 1 5)) = true ∧
    ctrOwned (work (signalOn 256 1 5)) 1 (body (cmdOf (signalOn 256 1 5)) 16 2) = true := by decide
def reportBytes : Bytes := desc 0x03 [(16, 2, 256), (18, 1, 3), (24, 8, 5), (32, 8, 0x100008)]
theorem test_signalReport_met : (work reportBytes).working 7 0x03 0 [(16, 3), (24, 8), (32, 8)] (cmdOf reportBytes) ∧
    body (cmdOf reportBytes) 32 8 % 8 = 0 ∧ 2 ≤ body (cmdOf reportBytes) 18 1 ∧ body (cmdOf reportBytes) 18 1 < 4 ∧
    ((work reportBytes).doesWork (cmdOf reportBytes) false (signalWork (cmdOf reportBytes))).isSome = true := by decide +kernel
theorem test_signalWaits_met : (behind (signalOn 256 0 5)).working 7 0x03 0 [(16, 3), (24, 8), (32, 8)] (cmdOf (signalOn 256 0 5)) ∧
    earlierDone (behind (signalOn 256 0 5)) (cmdOf (signalOn 256 0 5)) = false := by decide
theorem test_signalForeign_met : (work (signalOn 255 0 5)).working 7 0x03 0 [(16, 3), (24, 8), (32, 8)] (cmdOf (signalOn 255 0 5)) ∧
    ctrOwned (work (signalOn 255 0 5)) 1 (body (cmdOf (signalOn 255 0 5)) 16 2) = false := by decide
theorem test_signal_saturates : ∃ t, exec (.signal 7) { work (signalOn 256 0 1) with counters := [(256, 0xFFFFFFFFFFFFFFFF)] } = .next t ∧
    ctrGet t 256 = 0xFFFFFFFFFFFFFFFF ∧ (findCmd t 7).map (·.status) = some 0x0002 := ⟨_, rfl, by decide +kernel⟩

def hintBytes : Bytes := desc 0x05 [(16, 1, 64), (17, 1, 1), (24, 8, 65536)]
theorem test_hintPower_met : (work hintBytes).working 7 0x05 0 [(16, 4), (24, 8)] (cmdOf hintBytes) ∧
    1 ≤ body (cmdOf hintBytes) 16 1 ∧ body (cmdOf hintBytes) 16 1 ≤ 64 := by decide
def hinted (v : Option Nat) (target : W64) : State := { State.reset with
  pow := { ({} : Power) with hints := [{ level := 64, target := target, value := v }] } }
theorem test_hintSchedule_met : (hinted none 0).pow.hints[0]? = some { level := 64, target := 0 } ∧
    untilU (hinted none 0) 0 ≤ 64 * tickU ∧ (hinted none 0).reached 0 = true ∧ mayAct (hinted none 0) 0 = true ∧ (hinted none 1).reached 1 = false := by decide
def ballast : State := { hinted (some 64) 0x10000000 with clusters := [(0, { credit := 77 * 64, creditU := 98304000000000000 })] }
theorem test_ballast_met : ballast.pow.fAct.getD 0 0 < scheduleOf ballast 0 ∧ clusterIdle ballast 0 0 = true ∧ inReset ballast = false ∧
    77 * 64 ≤ creditNow ballast 0 0 := by decide

/-! ### Movers and feeds (O19-O22) -/

/-- A command alone on the module: nothing else is started, no reset is due. -/
theorem test_alone (d : Bytes) : (work d).alone 7 := ⟨rfl, by simp [work, withCmd, cmdOf]⟩
/-- The state that a mover's work begins in. -/
def worked (d : Bytes) : State := { work d with free := 1 }
def copyBytes : Bytes := desc 0x10 [(20, 4, 1), (24, 4, 4), (32, 8, 0x100000), (40, 8, 0x200000)]
def pageA : Mapping := { va := 0x100000, writable := true, access := 2, target := 0x10020000000 }
def pageB : Mapping := { va := 0x200000, writable := true, access := 2, target := 0x10020100000 }
theorem test_copyPlain_met : (work copyBytes).working 7 0x10 0 cpUsed (cmdOf copyBytes) ∧ cpLegal (cmdOf copyBytes) = true ∧
    (work copyBytes).pow.chans = [] ∧ (cmdOf copyBytes).prog.next = 0 ∧ (cmdOf copyBytes).prog.kept = [] ∧
    cpConvert (cmdOf copyBytes) = false ∧ body (cmdOf copyBytes) 20 4 = 1 ∧ 0 < body (cmdOf copyBytes) 24 4 ∧
    anyDiscard (work copyBytes) = false ∧ translate (work copyBytes) 1 (body (cmdOf copyBytes) 32 8) false = some pageA ∧
    translate (work copyBytes) 1 (body (cmdOf copyBytes) 40 8) true = some pageB ∧
    body (cmdOf copyBytes) 32 8 + body (cmdOf copyBytes) 24 4 ≤ pageA.va + pageSize pageA ∧
    body (cmdOf copyBytes) 40 8 + body (cmdOf copyBytes) 24 4 ≤ pageB.va + pageSize pageB ∧
    overlap (extentsOf (work copyBytes) 1 (cpRuns (cmdOf copyBytes)).1) (extentsOf (work copyBytes) 1 (cpRuns (cmdOf copyBytes)).2)
      = false := by decide +kernel
/-- The row whose last byte is the page's last. -/
theorem test_copyToPageEnd_met : 0x100000 + 0x10000 ≤ pageA.va + pageSize pageA := by decide
theorem test_copy_moves_its_bytes : ∃ t, exec (.copy 7) { work copyBytes with mem := memWriteN [] 0x10020000000 [1, 2, 3, 4] } = .next t ∧
    memReadN t.mem 0x10020100000 5 = [1, 2, 3, 4, 0] := ⟨_, rfl, by decide +kernel⟩
theorem test_copyWork_met : ((worked copyBytes).doesPart (cmdOf copyBytes) true
    (cpWork (cmdOf copyBytes) (body (cmdOf copyBytes) 20 4 * cpParts (cmdOf copyBytes)))).isSome = true := by decide +kernel
def transposeBytes : Bytes := desc 0x11 [(20, 4, 2), (24, 4, 2), (32, 8, 0x100000), (40, 8, 0x200000), (48, 4, 2), (52, 4, 2)]
theorem test_copyT_met : (work transposeBytes).working 7 0x11 0 [(16, 1), (20, 8), (32, 24)] (cmdOf transposeBytes) ∧
    body (cmdOf transposeBytes) 16 1 < 4 ∧
    ((worked transposeBytes).doesPart (cmdOf transposeBytes) true
      (ctWork (cmdOf transposeBytes) (body (cmdOf transposeBytes) 24 4 * ctParts (cmdOf transposeBytes)))).isSome = true := by decide +kernel
theorem test_copyT_transposes : ∃ t, exec (.copyT 7) { work transposeBytes with mem := memWriteN [] 0x10020000000 [1, 2, 3, 4] } = .next t ∧
    memReadN t.mem 0x10020100000 4 = [1, 3, 2, 4] := ⟨_, rfl, by decide +kernel⟩
def gatherBytes : Bytes := desc 0x12 [(16, 4, 1), (20, 4, 4), (24, 8, 0x100000), (32, 8, 0x100100), (40, 8, 0x200000), (48, 4, 4), (52, 4, 1)]
theorem test_gather_met : (work gatherBytes).working 7 0x12 0 [(16, 8), (24, 32)] (cmdOf gatherBytes) ∧ 1 ≤ grBytes (cmdOf gatherBytes) ∧
    ((worked gatherBytes).doesPart (cmdOf gatherBytes) true
      (grWork (cmdOf gatherBytes) (grCount (cmdOf gatherBytes) * grParts (cmdOf gatherBytes)))).isSome = true := by decide +kernel
def scatterBytes : Bytes := desc 0x13 [(16, 4, 1), (20, 4, 4), (24, 8, 0x200000), (32, 8, 0x100100), (40, 8, 0x100000), (48, 4, 4),
  (52, 4, 1), (56, 1, 1), (57, 1, 1)]
theorem test_scatter_met : (work scatterBytes).working 7 0x13 0 [(16, 8), (24, 34)] (cmdOf scatterBytes) ∧ scLegal (cmdOf scatterBytes) = true ∧
    ((worked scatterBytes).doesPart (cmdOf scatterBytes) false
      (scWork (cmdOf scatterBytes) (grCount (cmdOf scatterBytes) * grParts (cmdOf scatterBytes)))).isSome = true := by decide +kernel
def prefetchBytes : Bytes := desc 0x14 [(24, 8, 256), (32, 8, 0x100000)]
theorem test_prefetch_met : (work prefetchBytes).working 7 0x14 0 [(16, 1), (24, 16)] (cmdOf prefetchBytes) ∧
    body (cmdOf prefetchBytes) 16 1 < 2 ∧ (cmdOf prefetchBytes).prog.next = 0 ∧ (cmdOf prefetchBytes).prog.good = 0 ∧
    (cmdOf prefetchBytes).prog.refused = 0 ∧ (work prefetchBytes).fab.reqs = [] ∧
    pfLines (cmdOf prefetchBytes) = [0x2000, 0x2001] ∧ (work prefetchBytes).pref = [] ∧ (work prefetchBytes).lines = [] ∧
    ((pfLines (cmdOf prefetchBytes)).all fun l => decide (translate (work prefetchBytes) 1 (l * 128) false = some pageA)) = true ∧
    pageA.remote = false := by decide +kernel
def cancelBytes : Bytes := desc 0x14 [(16, 1, 2)]
theorem test_prefetchCancel_met : (work cancelBytes).working 7 0x14 0 [(16, 1)] (cmdOf cancelBytes) ∧ body (cmdOf cancelBytes) 16 1 = 2 := by
  decide
def bindBytes (ctr : Nat) : Bytes := desc 0x15 [(18, 2, 255), (20, 4, 2), (24, 4, 64), (28, 2, 1), (30, 2, ctr), (32, 8, 0x100000), (40, 8, 0x200000)]
theorem test_feedBind_met : (work (bindBytes 256)).working 7 0x15 0 [(16, 1), (18, 14), (32, 16)] (cmdOf (bindBytes 256)) ∧
    feedLegal (cmdOf (bindBytes 256)) = true ∧ fbSlots (cmdOf (bindBytes 256)) ≠ 0 ∧
    ctrOwned (work (bindBytes 256)) 1 (body (cmdOf (bindBytes 256)) 30 2) = true ∧
    (work (bindBytes 0)).working 7 0x15 0 [(16, 1), (18, 14), (32, 16)] (cmdOf (bindBytes 0)) ∧ feedLegal (cmdOf (bindBytes 0)) = true ∧
    ctrOwned (work (bindBytes 0)) 1 (body (cmdOf (bindBytes 0)) 30 2) = false := by decide +kernel
def binding : State := { work (bindBytes 256) with feeds := [(255, { bindCmds := [7] })] }
theorem test_feedBound_met : tbRuns binding = true ∧ binding.sup.in40 = true ∧
    binding.feeds.filter (fun e => !e.2.bindCmds.isEmpty) = [(255, { bindCmds := [7] })] ∧ getFeed binding 255 = { bindCmds := [7] } ∧
    findCmd binding 7 = some (cmdOf (bindBytes 256)) ∧ (cmdOf (bindBytes 256)).st = .started := by decide +kernel

/-- A feed of edge port P6 (or of the host) with 2 slots of 64 bytes. -/
def feed (source : Nat) : Feed := {
  bound := true, ctx := 1, source := source, slots := 2, slotBytes := 64, deadlinePh := 1, counter := 256, ringVa := 0x100000
  statusVa := 0x200000 }
def feeding (source : Nat) : State := { base with feeds := [(0, feed source)] }
def feedPkt (n : Nat) : Packet := { pkt 8 (List.replicate n 7) with dstCtx := 0, hcrc := 0 }
def edgeFed : State := { feeding 1 with fab := { ({} : Fabric) with ports := [(6, { st := .up, lanes := 16 })] } }
def edgePkt : Packet := sealPacket (feedPkt 64)
def fedOk (s : State) (p : Packet) : Bool :=
  match writeV (0x100000 + 0 % 2 * 64 + 0) p.payload { s := s.taken 6 p, ctx := 1, owner := 0 } with
  | .ok _ e => decide (e.s.feeds = s.feeds)
  | .error _ _ => false
theorem test_feed_met : edgeFed.takes 6 ptFeed edgePkt ∧ getFeed edgeFed 0 = feed 1 ∧ feedFrame edgeFed 0 = some 0 ∧
    (feed 1).source + 5 = 6 ∧ (feed 1).bound = true ∧ edgeFed.reachedN (feedDeadline (feed 1) 0) = false ∧
    bits edgePkt.addr.toNat 25 0 + edgePkt.payload.length ≤ 64 ∧ fedOk edgeFed edgePkt = true := by decide +kernel
theorem test_feedTooLong_met : edgeFed.takes 6 ptFeed (sealPacket (feedPkt 65)) ∧ (feed 1).slotBytes < 0 + (feedPkt 65).payload.length := by
  decide +kernel
theorem test_feedDb_met : (feeding 0).sup.perst = false ∧ getFeed (feeding 0) 0 = feed 0 ∧ (feed 0).bound = true ∧
    (getCtx (feeding 0) (feed 0).ctx).owner = 1 ∧ (getCtx (feeding 0) (feed 0).ctx).owner ≠ 2 ∧
    feedFrame (feeding 0) ((0x100000040 : W64).extractLsb' 32 32).toNat = some 1 ∧
    (feeding 0).reachedN (feedDeadline (feed 0) 1) = false := by decide
/-- The frame time word at the slot's deadline. -/
def due : State := { feeding 0 with tb := { ({} : TimeBase) with phase := 1 } }
def closedOk (s : State) : Bool :=
  match writeV 0x200000 (leBytes 8 0 ++ leBytes 4 0 ++ leBytes 1 2 ++ leBytes 3 0) {
      s := modFeed 0 (fun y => { y with nextClose := 1, recv := Tbl.del y.recv 0 }) s, ctx := 1, owner := 0 } with
  | .ok _ e => decide (e.s.counters = s.counters) && decide ((Tbl.get {} e.s.feeds 0).nextClose = 1)
  | .error _ _ => false
theorem test_feedClose_met : getFeed due 0 = feed 0 ∧ mayAct due (feedDeadline (feed 0) 0) = true ∧ (feed 0).bound = true ∧ mayAct (feeding 0) (feedDeadline (feed 0) 0) = false ∧
    inReset due = false ∧
    closedOk due = true := by decide +kernel
theorem test_feedHeld_met : inReset ({ due with rst := { ({} : ResetRun) with stage := .fenced } } : State) = true := by decide
theorem test_feedClose_counts : ∃ t, exec (.feedSlotClose 0) due = .next t ∧ ctrGet t 256 = 1 ∧
    memReadN t.mem 0x10020100000 16 = [0, 0, 0, 0, 0, 0, 0, 0, 0, 0, 0, 0, 2, 0, 0, 0] := ⟨_, rfl, by decide +kernel⟩

/-! ### Matrix arrays (O23, O24) -/

def granted (c : Cmd) : State := { withCmd c with clusters := [(0, { mode := .exclusive, ctxA := 1, credit := 77 * 64, creditU := 98304000000000000 })] }
def loadBytes : Bytes := desc 0x20 [(18, 1, 0xB), (20, 4, 1), (24, 4, 1), (32, 8, 0x100000), (40, 4, 1)]
def grantsAll (s : State) (c : Cmd) : Bool := (List.range (maTiles s c).2).all fun i => grantedTile s c.ctx c.basalt (i + (maTiles s c).1)
theorem test_load_met : (granted (cmdOf loadBytes)).working 7 0x20 0 [(16, 3), (20, 8), (32, 24)] (cmdOf loadBytes) ∧
    ldLegal (cmdOf loadBytes) = true ∧ grantsAll (granted (cmdOf loadBytes)) (cmdOf loadBytes) = true ∧
    loadFree (granted (cmdOf loadBytes)) (cmdOf loadBytes) = true ∧
    ((markLoading (cmdOf loadBytes) { granted (cmdOf loadBytes) with free := 1 }).doesPart (cmdOf loadBytes) true
      (ldWork (cmdOf loadBytes) (ldTiles (cmdOf loadBytes)))).isSome = true := by decide +kernel
theorem test_loadNotGranted_met : (work loadBytes).working 7 0x20 0 [(16, 3), (20, 8), (32, 24)] (cmdOf loadBytes) ∧
    0 < (maTiles (work loadBytes) (cmdOf loadBytes)).2 ∧ grantedTile (work loadBytes) 1 0 (0 + (maTiles (work loadBytes) (cmdOf loadBytes)).1)
      = false := by decide +kernel
def swapBytes : Bytes := desc 0x21 [(18, 2, 32)]
theorem test_swap_met : (granted (cmdOf swapBytes)).working 7 0x21 0 [(16, 4)] (cmdOf swapBytes) ∧ body (cmdOf swapBytes) 18 2 = 32 ∧
    grantsAll (granted (cmdOf swapBytes)) (cmdOf swapBytes) = true ∧ swapFree (granted (cmdOf swapBytes)) (cmdOf swapBytes) = true ∧
    (getCluster (granted (cmdOf swapBytes)) 0 0).mode = .exclusive := by decide +kernel
/-- A swap behind a load of the same tile that is still at work. -/
def swapBehind : State := { granted (cmdOf swapBytes) with
  cmds := [{ cmdOf loadBytes with k := 6, q := 4 }, { cmdOf swapBytes with startNo := 1 }] }
theorem test_swapWaits_met : swapBehind.working 7 0x21 0 [(16, 4)] { cmdOf swapBytes with startNo := 1 } ∧
    swapFree swapBehind { cmdOf swapBytes with startNo := 1 } = false := by decide +kernel
theorem test_swap_makes_the_other_bank_active : ∃ t, exec (.maSwap 7) (granted (cmdOf swapBytes)) = .next t ∧
    Tbl.get 0 t.activeBank 31 = 1 ∧ Tbl.get 0 t.activeBank 32 = 0 := ⟨_, rfl, by decide +kernel⟩

/-- A bank that holds the 1 x 1 INT8 matrix (3). -/
def bank3 : Bank := {
  st := .valid, ctx := 1, kDim := 1, nDim := 1, fmt := 0xB, cols := [{ cells := [(false, 3)], tw := [0], nan := [false] }] }
/-- A run of one INT8 vector, output FP32. -/
def runBytes1 (op : Nat) : Bytes := desc op [(18, 1, 0xB), (19, 1, 1), (24, 4, 1), (32, 8, 0x100000), (56, 8, 0x200000)]
def banked (op : Nat) : State := { granted (cmdOf (runBytes1 op)) with
  banks := [(0, bank3)], mem := memWriteN [] 0x10020000000 [5]
  pow := { ({} : Power) with fAct := [1, 1, 1, 1, 1, 1, 1, 1] } }
def runReady (kind : RunKind) (op segment : Nat) : Bool :=
  let c := { cmdOf (runBytes1 op) with prog := { ({} : Progress) with segment := segment } }
  let s := { banked op with cmds := [c] }
  decide (s.working 7 op (runExt c) (runUsed kind) c) && runLegal kind c && !runXstream c && !runYstream c
    && (match checkTiles s c with
      | .good b => (s.doesPart c false (runWork kind c b 1)).isSome
      | _ => false)
/-- An MA_ELEM with one of its 512 passes left. -/
theorem test_runs_met : runReady .forward 0x22 0 = true ∧ runReady .transposed 0x23 0 = true ∧ runReady .elementwise 0x24 511 = true := by
  decide +kernel
theorem test_tilePass_met : strictRun (banked 0x22) (cmdOf (runBytes1 0x22)) = false ∧ runClusters (banked 0x22) (cmdOf (runBytes1 0x22)) = [0] ∧
    body (cmdOf (runBytes1 0x22)) 24 4 = 1 ∧ (cmdOf (runBytes1 0x22)).prog.next = 0 ∧ (cmdOf (runBytes1 0x22)).prog.segment = 0 ∧
    64 * passCycles (cmdOf (runBytes1 0x22)) ≤ creditNow (banked 0x22) 0 0 := by decide +kernel
theorem test_runWaits_met : (banked 0x22).pow.f.getD 0 0 ≠ 0 ∧ ({ ({} : Power) with f := [0] } : Power).f.getD 0 0 = 0 ∧
    creditNow { banked 0x22 with clusters := [(0, { creditU := 98304000000000000, credit := 447 })] } 0 0 < 64 * passCycles (cmdOf (runBytes1 0x22)) := by
  decide +kernel
theorem test_runNotGranted_met : (match checkTiles (work (runBytes1 0x22)) (cmdOf (runBytes1 0x22)) with | .fault i => i == 0 | _ => false) = true := by
  decide +kernel
theorem test_runLost_met : (match checkTiles { banked 0x22 with banks := [(0, { bank3 with st := .lost })] } (cmdOf (runBytes1 0x22)) with
    | .lost => true | _ => false) = true := by decide +kernel
/-- 5 x 3 = 15, in FP32 0x41700000. -/
theorem test_run_multiplies : ∃ t, exec (.maRun 7) (banked 0x22) = .next t ∧ memReadN t.mem 0x10020100000 4 = [0, 0, 0x70, 0x41] :=
  ⟨_, rfl, by decide +kernel⟩

/-! ### Launches (O25) -/

def launchBytes : Bytes := desc 0x30 [(16, 8, 0x100000), (24, 8, 9), (32, 8, 2 ^ 63 + 1)]
theorem test_launch_met : (work launchBytes).working 7 0x30 0 [(16, 24)] (cmdOf launchBytes) ∧ body (cmdOf launchBytes) 16 8 % 4 = 0 ∧
    body (cmdOf launchBytes) 32 8 ≠ 0 ∧ (cmdOf launchBytes).prog.next = 0 ∧ (maskCores (body (cmdOf launchBytes) 32 8))[1]? = some 63 := by
  decide +kernel
/-- A softmax row of one element, FP32. -/
def fusedBytes : Bytes := descE 1 0x31 [(16, 1, 2), (17, 1, 1), (18, 1, 1), (24, 4, 1), (28, 4, 1), (32, 8, 0x100000), (40, 8, 0x200000),
  (48, 8, 0x100100), (104, 8, 1)]
theorem test_fusedBwd_met : (work fusedBytes).working 7 0x31 1 [(16, 5), (24, 76), (104, 8)] (cmdOf fusedBytes) ∧
    fbLegal (cmdOf fusedBytes) = true ∧ fbDyStream (cmdOf fusedBytes) = false ∧ fbDxStream (cmdOf fusedBytes) = false ∧
    ((worked fusedBytes).doesPart (cmdOf fusedBytes) false (fbWork (cmdOf fusedBytes) (fbRows (cmdOf fusedBytes)))).isSome = true := by decide +kernel

/-! ### Vector cores (O26-O32) -/

/-- An instruction word from its fields (R144). -/
def word (major d a b func low : Nat) : Nat := major * 2 ^ 26 + d * 2 ^ 21 + a * 2 ^ 16 + b * 2 ^ 11 + func * 32 + low
/-- Core 0 of Basalt 0 at 0x100000, VL 2 in a format, with the word there; s2 = 8, s3 = 3, s5 = 0x100200. -/
def core (fmt : BitVec 8) : Core := {
  k := some 7, running := true, pc := 0x100000, vl := 2, invalid := false, fmt := fmt
  s := [0, 0, 8, 3, 0, 0x100200] ++ List.replicate 26 0 }
def launch : Cmd := cmdOf launchBytes
def coreAt (fmt : BitVec 8) (w : Nat) : State := { withCmd launch with
  mem := memWriteN [] 0x10020000000 (leBytes 4 w), cores := [(0, core fmt)] }
/-- The machine after the fetch. -/
def afterFetch (s : State) : State :=
  match fetchWord 0 (getCore s 0).pc { s := { s with free := s.free + 1 }, ctx := 1, owner := 14 } with
  | .ok _ e => dropUsed e.owner e.used e.s
  | .error _ _ => s
def fetchGood (s : State) (w code : Nat) : Bool :=
  decide (coreCmd s 0 = some launch) && decide (decodeWord w = some code) &&
  (match fetchWord 0 (getCore s 0).pc { s := { s with free := s.free + 1 }, ctx := 1, owner := 14 } with
    | .ok (some x) _ => x == w
    | _ => false)
theorem fetches_met {s : State} {w code : Nat} (h : fetchGood s w code = true) : s.fetches (afterFetch s) 0 0 code w launch := by
  unfold fetchGood at h
  simp only [Bool.and_eq_true, decide_eq_true_eq] at h
  obtain ⟨⟨h1, h2⟩, h3⟩ := h
  refine ⟨by simpa using h1, by decide, h2, ?_⟩
  unfold afterFetch
  show ∃ e, fetchWord (0 * 64 + 0) (getCore s (0 * 64 + 0)).pc { s := { s with free := s.free + 1 }, ctx := 1, owner := 14 } = _ ∧ _
  simp only [Nat.zero_mul, Nat.zero_add]
  revert h3
  cases hw : fetchWord 0 (getCore s 0).pc { s := { s with free := s.free + 1 }, ctx := 1, owner := 14 } with
  | ok x e =>
    cases x with
    | none => simp
    | some y => intro h; exact ⟨e, by simp_all, rfl⟩
  | error x e => simp
/-- Words of a list, each of its operation, are fetched with the core as it is. -/
def allFetch (fmt : BitVec 8) (l : List (Nat × Nat)) : Bool :=
  l.all fun p => fetchGood (coreAt fmt p.2) p.2 p.1 && decide (Tbl.find? (afterFetch (coreAt fmt p.2)).cores 0 = some { core fmt with icache := [(0x2000, leBytes 4 p.2 ++ List.replicate 124 0)] })

theorem test_scalarWords_met : allFetch 0 ((List.range 14).map fun f => (0x100 + f, word 0x01 1 2 3 f 0)) = true := by decide +kernel
theorem test_otherScalarWords_met : allFetch 0 ([2, 9, 5, 0xA, 6].map fun m => (m * 256, word m 1 2 0 0 4)) = true := by decide +kernel
theorem test_floatWords_met : allFetch 0 ((List.range 10).map fun f => (0x700 + f, word 0x07 1 2 3 f 0)) = true ∧
    allFetch 0 ((List.range 10).map fun f => (0x700 + f, word 0x07 1 2 3 (32 + f) 0)) = true := by decide +kernel
/-- 8.0 / 2.0 under mode 0 raises no event. -/
theorem test_floatQuiet_met : (fDiv fp64 .ne (decodeF fp64 0x4020000000000000) (decodeF fp64 0x4000000000000000)) = (0x4010000000000000, {}) ∧
    evTrap 0 0 0 3 0 {} = none := by decide +kernel
theorem test_add_wraps : ∃ t, exec (.sAdd 0 0) { coreAt 0 (word 0x01 1 2 2 0 0) with cores := [(0, { core 0 with
    s := [0, 0, 0x8000000000000000] ++ List.replicate 29 0 })] } = .next t ∧ (getCore t 0).getS 1 = 0 ∧ (getCore t 0).pc = 0x100004 :=
  ⟨_, rfl, by decide +kernel⟩
theorem test_div_by_zero : ∃ t, exec (.div 0 0) (coreAt 0 (word 0x01 1 2 4 0xA 0)) = .next t ∧ (getCore t 0).getS 1 = BitVec.allOnes 64 :=
  ⟨_, rfl, by decide +kernel⟩
theorem test_jal_returns : ∃ t, exec (.jal 0 0) (coreAt 0 (word 0x06 2 2 0 0 4)) = .next t ∧ (getCore t 0).getS 2 = 0x100004 ∧
    (getCore t 0).pc = 24 := ⟨_, rfl, by decide +kernel⟩
theorem test_addi_sign_extends : ∃ t, exec (.addi 0 0) (coreAt 0 (word 0x02 1 3 31 63 31)) = .next t ∧ (getCore t 0).getS 1 = 2 :=
  ⟨_, rfl, by decide +kernel⟩

/-- Scalar loads and stores at s2 = 0x100100. -/
def addressed (w : Nat) : State := { coreAt 0 w with cores := [(0, { core 0 with s := [0, 0, 0x100100] ++ List.replicate 29 0 })] }
def loads (w n : Nat) : Bool :=
  match coreRead ((addressed w).vx 0 0 w launch) 0x100100 n { s := afterFetch (addressed w), ctx := 1, owner := 14 } with
  | .ok _ e => decide (e.trap = none ∧ e.wr.length = 0) && (Tbl.find? e.s.cores 0).isSome
  | .error _ _ => false
def stores (w n : Nat) : Bool :=
  match coreWrite ((addressed w).vx 0 0 w launch) 0x100100 (leBytes n 5) { s := afterFetch (addressed w), ctx := 1, owner := 14 } with
  | .ok _ e => decide (e.trap = none ∧ e.wr.length = 0) && (Tbl.find? e.s.cores 0).isSome
  | .error _ _ => false
theorem test_scalarMemory_met : fetchGood (addressed (word 3 1 2 0 0 0)) (word 3 1 2 0 0 0) 0x300 = true ∧
    fetchGood (addressed (word 0xB 1 2 0 0 0)) (word 0xB 1 2 0 0 0) 0xB00 = true ∧
    fetchGood (addressed (word 4 1 2 0 0 0)) (word 4 1 2 0 0 0) 0x400 = true ∧
    fetchGood (addressed (word 0xC 1 2 0 0 0)) (word 0xC 1 2 0 0 0) 0xC00 = true ∧
    loads (word 3 1 2 0 0 0) 8 = true ∧ loads (word 0xB 1 2 0 0 0) 4 = true ∧ stores (word 4 1 2 0 0 0) 8 = true ∧
    stores (word 0xC 1 2 0 0 0) 4 = true := by decide +kernel
theorem test_ldw_sign_extends : ∃ t, exec (.ldw 0 0) { addressed (word 0xB 1 2 0 0 0) with
    mem := memWriteN (addressed (word 0xB 1 2 0 0 0)).mem 0x10020000100 [0, 0, 0, 0x80] } = .next t ∧
    (getCore t 0).getS 1 = 0xFFFFFFFF80000000 := ⟨_, rfl, by decide +kernel⟩
theorem test_stw_stores_four_bytes : ∃ t, exec (.stw 0 0) { addressed (word 0xC 2 2 0 0 0) with
    mem := memWriteN (addressed (word 0xC 2 2 0 0 0)).mem 0x10020000100 [9, 9, 9, 9, 9] } = .next t ∧
    memReadN t.mem 0x10020000100 5 = [0, 1, 0x10, 0, 9] := ⟨_, rfl, by decide +kernel⟩

theorem test_systemWords_met : allFetch 0 ((List.range 4).map fun n => (0x800 + n, word 0x08 1 2 0 0 n)) = true ∧
    allFetch 0 ((List.range 2).map fun n => (0x2000 + n, word 0x20 1 2 0 0 n)) = true := by decide +kernel
theorem test_system_met : (core 0).k = some 7 ∧ findCmd (coreAt 0 0) 7 = some launch ∧ (core 0).invalid = false ∧
    fmtLegal 0xA3 = true ∧ fmtLegal 0xA4 = false ∧ coreWaits (coreAt 0 0) { k := 7 } = [] ∧
    coreWaits { coreAt 0 0 with cores := [(0, { core 0 with waits := [5] })], cmds := [{ launch with waits := [5] }] } { k := 7 } = [5] ∧ (core 0).getS 0 = 0 ∧ (core 0).getS 2 ≠ 0 ∧
    readCsr (coreAt 0 0) { k := 7 } (core 0) 3 = some 2048 := by decide +kernel
/-- Another core of the same launch, at work. -/
def twoCores (w : Nat) : State := { coreAt 0 w with cores := [(0, core 0), (1, core 0)] }
theorem test_launchGoesOn_met : fetchGood (twoCores (word 8 0 0 0 0 0)) (word 8 0 0 0 0 0) 0x800 = true ∧
    ((twoCores 0).cores.any fun x => decide (x.1 ≠ 0 ∧ x.2.k = some 7 ∧ x.2.running = true ∧ x.2.barrier = false)) = true := by decide +kernel
theorem test_invalid_met : ({ core 0 with invalid := true } : Core).invalid = true ∧ (core 0).slim = 256 := by decide
theorem test_vexit_ends_the_launch : ∃ t, exec (.vexit 0 0) (coreAt 0 (word 8 0 0 0 0 0)) = .next t ∧
    (findCmd t 7).map (fun c => (c.status, c.result)) = some (0, 1) := ⟨_, rfl, by decide +kernel⟩
theorem test_vfmt_gives_slim : ∃ t, exec (.vfmt 0 0) (coreAt 0 (word 0x20 1 0 0 0 0 + 0x53 * 256)) = .next t ∧
    (getCore t 0).getS 1 = 512 ∧ (getCore t 0).fmt = 0x53 ∧ (getCore t 0).vl = 0 := ⟨_, rfl, by decide +kernel⟩

/-- Element 0 and the last element of register v31, and the last bit of m7. -/
theorem test_elements_met : (core 0).v.length = 32 ∧ (core 0).m.length = 8 ∧ 31 + 255 * 8 / 2048 < 32 ∧ 31 + 31 * 64 / 2048 < 32 := by decide
def oneElement (w : Nat) : State := { coreAt 0x20 w with cores := [(0, { core 0x20 with vl := 1 })] }
def vecRuns (w : Nat) (f : Vx → EngM Unit) : Bool :=
  fetchGood (oneElement w) w (wMajor w * 256) &&
  match f ((oneElement w).vx 0 0 w launch) { s := afterFetch (oneElement w), ctx := 1, owner := 14 } with
  | .ok _ e => (Tbl.find? e.s.cores 0).isSome && decide (e.wr.length = 0)
  | .error _ _ => false
/-- VLD and VST of 32-bit elements from s5 = 0x100200. -/
theorem test_vectorMemory_met : vecRuns (word 0x21 1 5 0 0 0) vldWork = true ∧ vecRuns (word 0x22 1 5 0 0 0) vstWork = true := by decide +kernel
/-- The pair of core 0, in a cluster of context 1, with n bytes in each direction. -/
def streaming (w n : Nat) : State := { coreAt 0x20 w with
  clusters := [(0, { mode := .exclusive, ctxA := 1 })]
  streams := [(streamKey (coreAt 0x20 w) 1 0 0 0, List.replicate n 1), (streamKey (coreAt 0x20 w) 1 0 0 1, List.replicate n 1)] }
theorem test_streams_met : fetchGood (streaming (word 0x26 1 0 0 0 0) 8) (word 0x26 1 0 0 0 0) 0x2600 = true ∧
    fetchGood (streaming (word 0x26 1 0 0 1 0) 8) (word 0x26 1 0 0 1 0) 0x2601 = true ∧ (core 0x20).invalid = false ∧
    (core 0x20).vresume = 0 ∧ (core 0x20).len ≠ 0 ∧ groupOk 1 (core 0x20).span = true ∧ 0 = (0 * 64 + 0) % 64 / 4 ∧
    ownsPair (streaming 0 8) 1 0 0 = true ∧ (15 : Nat) ≠ 0 / 4 ∧ ownsPair (coreAt 0x20 0) 1 0 0 = false ∧ findCmd (streaming 0 8) 7 = some launch ∧
    ({ core 0x20 with vl := 0 } : Core).len = 0 ∧ (core 0x20).len * (core 0x20).ew / 8 = 8 ∧ (core 0x20).len * (core 0x20).ew / 8 ≤ 8 ∧
    7 < (core 0x20).len * (core 0x20).ew / 8 ∧ 8 + 8 ≤ streamCap (streaming 0 8) 0 0 ∧
    streamCap (streaming 0 8) 0 0 < streamCap (streaming 0 8) 0 0 - 7 + 8 := by decide +kernel
theorem test_vsrd_takes_two_elements : ∃ t, exec (.vsrd 0 0) (streaming (word 0x26 1 0 0 0 0) 8) = .next t ∧
    (getCore t 0).getE 1 32 1 = 0x01010101 ∧ (getCore t 0).getE 1 32 2 = 0 := ⟨_, rfl, by decide +kernel⟩

theorem test_vintWords_met : allFetch 0x20 ((List.range 14).map fun f => (0x2300 + f, word 0x23 1 2 3 f 0)) = true ∧
    (core 0x20).invalid = false ∧ vintLegal (word 0x23 1 2 3 0 0) (core 0x20) = true ∧ intCore (core 0x20) = true ∧
    vcmpLegal (word 0x23 1 2 3 0xC 0) (core 0x20) = true ∧ elemLimit (coreAt 0x20 0) launch = 4096 ∧
    activeElems { w := word 0x23 1 2 3 0 0 } (core 0x20) = [0, 1] := by decide +kernel
theorem test_vxma_met : allFetch 0x20 [(0x230E, word 0x23 4 2 3 0xE 0)] = true ∧ (core 0x20).efmt < 3 ∧
    widenLegal (word 0x23 4 2 3 0xE 0) (core 0x20) = true := by decide +kernel
theorem test_vdot4_met : allFetch 0x00 [(0x230F, word 0x23 4 2 3 0xF 0)] = true ∧ (core 0x00).efmt = 0 ∧
    vintLegal (word 0x23 4 2 3 0xF 0) (core 0x00) = true ∧ ({ core 0 with vl := 0 } : Core).len = 0 ∧ (core 0x00).vresume = 0 ∧ (core 0x00).len ≠ 0 := by decide +kernel
theorem test_permuteWords_met : allFetch 0x20 ((List.range 0x1D).map fun f => (0x2500 + (if f < 0x10 then 0 else f), word 0x25 1 2 3 f 16)) = true ∧
    maskField 7 = true ∧ pairLegal (word 0x25 1 2 3 0x13 0) (core 0x20) = true ∧ wMen (word 0x25 1 2 3 0x12 16) = true ∧
    groupOk 1 (core 0x20).span = true ∧ clash 1 (core 0x20).span 2 (core 0x20).span = false ∧ (core 0x20).efmt < 4 := by decide +kernel
theorem test_vmul_wraps_per_element : ∃ t, exec (.vmul 0 0) { coreAt 0x20 (word 0x23 1 2 3 2 0) with cores := [(0, { core 0x20 with
    v := [0, 0, 0x8000000080000000, 0x3_00000002] ++ List.replicate 28 0 })] } = .next t ∧ (getCore t 0).getE 1 32 0 = 0 ∧
    (getCore t 0).getE 1 32 1 = 0x80000000 := ⟨_, rfl, by decide +kernel⟩
theorem test_vindex_counts : ∃ t, exec (.vindex 0 0) (coreAt 0x20 (word 0x25 1 0 0 0x1A 0)) = .next t ∧ (getCore t 0).getE 1 32 1 = 1 ∧
    (getCore t 0).getE 1 32 2 = 0 := ⟨_, rfl, by decide +kernel⟩

theorem test_vfpWords_met : allFetch 0x50 ((List.range 10).map fun f => (0x2400 + f, word 0x24 1 2 3 f 0)) = true ∧
    coreFloat (core 0x50) = some fp32 ∧ vfpLegal (word 0x24 1 2 3 0 0) (core 0x50) = true ∧ (core 0x50).op1Ok (word 0x24 1 2 3 8 0) = true ∧
    (getCtx (coreAt 0x50 0) 1).arithMode.extractLsb' 0 3 = 0 := by decide +kernel
theorem test_widenWords_met : allFetch 0x50 [(0x240A, word 0x24 4 2 3 0xA 0), (0x240B, word 0x24 4 2 3 0xB 0)] = true ∧
    widenFloat 5 = some fp64 ∧ widenFpLegal (word 0x24 4 2 3 0xA 0) (core 0x50) = true := by decide +kernel
theorem test_vfunWords_met : allFetch 0x50 ((List.range 6).map fun n => (0x240D, word 0x24 1 2 n 0xD 0)) = true ∧
    allFetch 0x50 [(0x240E, word 0x24 1 2 4 0xE 0)] = true ∧ cvtLegal (word 0x24 4 2 4 0xE 0) (core 0x50) = true := by decide +kernel
theorem test_reducing_met : allFetch 0x60 [(0x240C, word 0x24 4 2 3 0xC 0)] = true ∧ 6 ≤ (core 0x60).efmt ∧
    allFetch 0x50 [(0x240F, word 0x24 1 2 0 0x0F 0), (0x240F, word 0x24 1 2 0 0x1F 0), (0x240F, word 0x24 1 2 0 0x2F 0)] = true ∧
    groupOk 1 (core 0x50).span = true := by decide +kernel
/-- 1.5 + 2.25 = 3.75 in FP32. -/
theorem test_vfadd_adds : ∃ t, exec (.vfadd 0 0) { coreAt 0x50 (word 0x24 1 2 3 0 0) with cores := [(0, { core 0x50 with
    v := [0, 0, 0x3FC00000, 0x40100000] ++ List.replicate 28 0 })] } = .next t ∧ (getCore t 0).getE 1 32 0 = 0x40700000 :=
  ⟨_, rfl, by decide +kernel⟩

/-! ### Update and solver (O33, O34) -/

/-- One element, P and G in FP32, coefficient slot 0 of the table at 0x100200. -/
def updRunBytes : Bytes := descE 1 0x40 [(18, 1, 1), (19, 1, 1), (32, 4, 1), (36, 4, 1), (40, 8, 0x100200), (48, 8, 0x200000), (56, 8, 0x100000)]
/-- One row of one element. -/
def updRowsBytes : Bytes := descE 1 0x41 [(18, 1, 1), (19, 1, 1), (28, 4, 1), (32, 4, 1), (36, 4, 1), (40, 8, 0x100200), (48, 8, 0x200000),
  (56, 8, 0x100000), (80, 8, 0x200100), (88, 8, 0x100300)]
/-- LR = 0.5, K2 = 1.0 and GS = 1.0 in the slot, gradient 1.0, parameter 2.0. -/
def updating (bs : Bytes) : State := { work bs with
  mem := [(0x10020000002, 0x80), (0x10020000003, 0x3F), (0x10020000206, 0xE0), (0x10020000207, 0x3F), (0x1002000023E, 0xF0), (0x1002000023F, 0x3F), (0x10020000256, 0xF0),
    (0x10020000257, 0x3F), (0x10020100003, 0x40)] }
def unitReady (unit : State → State) (j : Nat) (clash : State → Cmd → List Cmd) (work : Cmd → EngM (Option (Option W64 × Option Nat)))
    (s : State) : Bool :=
  let u := repeatWork unit j { s with free := s.free + 1 }
  match findCmd u 7 with
  | some c => decide (c.st = .started) && (clash u c).isEmpty && (u.doesPart c false (work c)).isSome
  | none => false
theorem test_updRun_met : (updating updRunBytes).working 7 0x40 1 [(16, 1), (18, 10), (32, 88)] (cmdOf updRunBytes) ∧
    upLegal (cmdOf updRunBytes) = true ∧ 1 < upLeft (cmdOf updRunBytes) ∧
    unitReady (upUnit runUnit 7) 1 upClashes runUnit (updating updRunBytes) = true := by decide +kernel
theorem test_updRows_met : (updating updRowsBytes).working 7 0x41 1 [(16, 1), (18, 14), (32, 88)] (cmdOf updRowsBytes) ∧
    upLegal (cmdOf updRowsBytes) = true ∧ 1 < upLeft (cmdOf updRowsBytes) ∧
    unitReady (upUnit rowsUnit 7) 1 upClashes rowsUnit (updating updRowsBytes) = true := by decide +kernel
theorem test_alone_met : (updating updRunBytes).alone 7 := by
  unfold State.alone
  decide
/-- 2.0 - 0.5 x 1.0 = 1.5 in FP32. -/
theorem test_updRun_steps : ∃ t, exec (.updRun 7) (updating updRunBytes) = .next t ∧ memReadN t.mem 0x10020100000 4 = [0, 0, 0xC0, 0x3F] :=
  ⟨_, rfl, by decide +kernel⟩

def patternBytes : Bytes := descE 1 0x50 [(16, 4, 1), (20, 4, 1), (24, 8, 0x100400), (32, 8, 0x100408), (40, 8, 0x200000), (48, 1, 80),
  (49, 1, 80), (50, 1, 160), (51, 1, 80)]
def patterned : State := { work patternBytes with mem := memWriteN [] 0x10020000404 [1] }
theorem test_pattern_met : slpLegal (cmdOf patternBytes) = true ∧ patterned.working 7 0x50 1 [(16, 37), (56, 16)] (cmdOf patternBytes) ∧
    0 < slpLeft (cmdOf patternBytes) ∧ unitReady (slvUnit slpWork 7) 0 slvClashes slpWork patterned = true := by decide +kernel
/-- DELTA mode without an entry. -/
def valuesBytes : Bytes := desc 0x51 [(24, 8, 0x100800), (32, 8, 0x100000)]
theorem test_values_met : (work valuesBytes).working 7 0x51 0 [(16, 2), (20, 28)] (cmdOf valuesBytes) ∧ svlLegal (cmdOf valuesBytes) = true ∧
    0 < svlLeft (cmdOf valuesBytes) ∧ unitReady (slvUnit svlWork 7) 0 slvClashes svlWork (work valuesBytes) = true := by decide +kernel
def statusBytes : Bytes := desc 0x54 [(24, 4, 1), (32, 8, 0x100800), (40, 8, 0x200000)]
/-- A descriptor: PIMG, VAL, B, WS, FACT, STAT. -/
def sysBytes : Bytes := [0x100000, 0x100A00, 0x100A80, 0x200000, 0x200100, 0x200200].flatMap (leBytes 8)
def listed (bs : Bytes) : State := { work bs with mem := memWriteN [] 0x10020000800 sysBytes }
theorem test_status_met : (listed statusBytes).working 7 0x54 0 [(24, 28)] (cmdOf statusBytes) ∧ body (cmdOf statusBytes) 24 4 = 1 ∧
    0 < slsLeft (cmdOf statusBytes) ∧ unitReady (slvUnit slsWork 7) 0 slvClashes slsWork (listed statusBytes) = true := by decide +kernel

/-! A pattern image of the 1 x 1 matrix (1.0), with the model's mask over its structure, and one system of the list. -/

def imageHead : Bytes := leBytes 4 imgMagic ++ leBytes 4 1 ++ leBytes 8 0 ++ leBytes 4 1 ++ leBytes 4 1 ++ leBytes 4 1 ++ leBytes 4 1
  ++ leBytes 4 1 ++ leBytes 8 0 ++ [80, 80, 160, 80] ++ List.replicate 24 0
def imageTail : Bytes := maskFrom 72 (leBytes 4 0 ++ leBytes 4 1 ++ leBytes 4 0)
def cellsAt (a : Nat) (bs : Bytes) : List Host.Cell := ((List.range bs.length).map (· + a)).zip bs
def imaged (bs : Bytes) : State := { listed bs with
  mem := cellsAt 0x10020000000 imageHead ++ cellsAt 0x10020000048 imageTail ++ (listed bs).mem ++ [(0x10020000A02, 1), (0x10020000A82, 1)] }
def pattern1 : Pat := { patHead imageHead with rows := rowsOf [0, 1] [0] }
theorem maskFrom_twice (n : Nat) (x : Bytes) : maskFrom n (maskFrom n x) = x := by
  unfold maskFrom
  apply List.ext_getElem
  · simp
  · intro i h1 h2
    simp [BitVec.xor_assoc]


/-- The command with the work that it has done. -/
def atWork (bs : Bytes) (p : Progress) : State := { imaged bs with cmds := [{ cmdOf bs with prog := p }] }
def laneWork (r : LaneSys) : Progress := { next := 1, lanes := [r] }
def factorBytes : Bytes := desc 0x52 [(16, 1, 1), (24, 4, 1), (32, 8, 0x100800)]
def solveBytes : Bytes := descE 1 0x53 [(24, 4, 1), (28, 4, 1), (32, 8, 0x100800)]
def factorCmd : Cmd := { cmdOf factorBytes with prog := laneWork { lane := 3 } }
def solveCmd : Cmd := { cmdOf solveBytes with prog := laneWork { lane := 3, x0 := [0], flags := 16 } }
theorem test_factor_works : (atWork factorBytes factorCmd.prog).working 7 0x52 0 [(16, 2), (24, 16)] factorCmd ∧
    slPrecOk factorCmd 1 = true ∧ 0 < slLeft factorCmd ∧ slvClashes (atWork factorBytes factorCmd.prog) factorCmd = [] := by decide +kernel
theorem test_solve_works : (atWork solveBytes solveCmd.prog).working 7 0x53 1 [(16, 6), (24, 60)] solveCmd ∧ slvLegal solveCmd = true ∧
    0 < slLeft solveCmd ∧ slvClashes (atWork solveBytes solveCmd.prog) solveCmd = [] := by decide +kernel
/-- Two systems, the first of which a replay skips. -/
def replayBytes : Bytes := descE 1 0x53 [(24, 4, 2), (28, 4, 1), (32, 8, 0x100800)]
theorem test_systemStart_met : (atWork replayBytes { replay := true }).working 7 0x53 1 [(16, 6), (24, 60)]
      { cmdOf replayBytes with prog := { replay := true } } ∧ slvLegal (cmdOf replayBytes) = true ∧
    slvClashes (atWork replayBytes { replay := true }) { cmdOf replayBytes with prog := { replay := true } } = [] ∧
    freeLanes { replay := true } ≠ [] ∧
    (match sysWork { cmdOf replayBytes with prog := { replay := true } } { s := atWork replayBytes { replay := true }, ctx := 1, owner := 14 } with
      | .ok none e => e.trap.isNone
      | _ => false) = true := by decide +kernel

/-- The unit of a command at a state. -/
def unitOf (s : State) : Eng := { s := s, ctx := 1, owner := 14 }
/-- The unit after a read, as the two commands come to it. -/
def afterRead {α : Type} (m : EngM α) (e : Eng) : Eng :=
  match m e with
  | .ok _ e => e
  | .error _ e => e
theorem readPattern_of {e e1 e2 : Eng} {va : Nat} {h raw : Bytes} {ptrs cols : List Nat} (h1 : readV va 72 e = .ok h e1)
    (h2 : (!headOk h || va % 64 != 0) = false) (h3 : readV (va + 72) (4 * ((patHead h).n + 1 + (patHead h).nnz)) e1 = .ok (maskFrom 72 raw) e2)
    (h4 : ((chunks 4 raw).map leNat).take ((patHead h).n + 1) = ptrs) (h5 : ((chunks 4 raw).map leNat).drop ((patHead h).n + 1) = cols)
    (h6 : structOk (patHead h).n (patHead h).nnz ptrs cols = true) :
    readPattern va e = .ok { patHead h with rows := rowsOf ptrs cols } e2 := by
  unfold readPattern
  simp only [bind, EStateM.bind, h1, h2, h3, maskFrom_twice, h4, h5, h6, Bool.false_eq_true, if_false, if_true]
  rfl
def okWith {α : Type} [DecidableEq α] (m : EngM α) (e : Eng) (a : α) : Bool :=
  match m e with
  | .ok x _ => decide (x = a)
  | .error _ _ => false
theorem okWith_eq {α : Type} [DecidableEq α] {m : EngM α} {e : Eng} {a : α} (h : okWith m e a = true) : m e = .ok a (afterRead m e) := by
  unfold okWith at h
  unfold afterRead
  cases hm : m e <;> simp_all
def sys1 : SysD := { pimg := 0x100000, val := 0x100A00, b := 0x100A80, ws := 0x200000, fact := 0x200100, stat := 0x200200 }
theorem goOn_of {c : Cmd} {r : LaneSys} {d : SysD} {p : Pat} {e e1 e2 e3 : Eng} (h1 : readSys (slList c) r.idx e = .ok d e1)
    (h2 : readPattern d.pimg e1 = .ok p e2)
    (h3 : if slFactor c && !r.factored then factorLane c r d p e2 = .ok () e3 else iterateLane c r d p e2 = .ok () e3) :
    goOn c r e = .ok () e3 := by
  unfold goOn
  simp only [bind, EStateM.bind, h1, h2]
  split at h3 <;> simp only [*, if_true, if_false, Bool.false_eq_true]
theorem sysWork_of {c : Cmd} {r : LaneSys} {e e1 : Eng} {p : Progress} (h1 : slProg c e = .ok p e) (h2 : p.next = slCount c ∧ p.next ≠ 0)
    (h3 : p.lanes = [r]) (h4 : goOn c r e = .ok () e1) (h5 : e1.trap = none) :
    sysWork c e = (do
      let q ← slProg c
      if !q.lanes.isEmpty || (decide (q.next < slCount c) && !q.doom) then pure none
      else if q.doom then
        stopFault stPivot { element := BitVec.ofNat 64 (q.firstReg.getD 0), lane := BitVec.ofNat 16 q.regLane }
      else pure (some (slResult c q)) : EngM _) e1 := by
  have h6 : getS e = .ok e.s e := rfl
  have h7 : (get : EngM Eng) e1 = .ok e1 e1 := rfl
  have h8 : trapOuts c r.idx e1 = .ok () e1 := by
    unfold trapOuts
    simp only [bind, EStateM.bind, h7, h5]
    rfl
  have h9 : ¬(p.next < slCount c) := by omega
  unfold sysWork
  simp only [bind, EStateM.bind, h6, h1, h2.2, false_and, if_false, h9, decide_false, Bool.false_and, Bool.false_eq_true, h3, pickOf, pure,
    EStateM.pure, h4, h8]

def facState : State := { atWork factorBytes factorCmd.prog with free := 1 }
def facE1 : Eng := afterRead (readSys (slList factorCmd) 0) (unitOf facState)
def facE2 : Eng := afterRead (readV 0x100000 72) facE1
def facE3 : Eng := afterRead (readV 0x100048 12) facE2
theorem fac1 : readSys (slList factorCmd) 0 (unitOf facState) = .ok sys1 facE1 := okWith_eq (by decide +kernel)
theorem fac2 : readV 0x100000 72 facE1 = .ok imageHead facE2 := okWith_eq (by decide +kernel)
theorem fac3 : readV 0x100048 12 facE2 = .ok imageTail facE3 := by
  unfold facE3 afterRead
  rfl
theorem facPattern : readPattern sys1.pimg facE1 = .ok pattern1 facE3 :=
  readPattern_of (va := 0x100000) (raw := leBytes 4 0 ++ leBytes 4 1 ++ leBytes 4 0) fac2 (by decide +kernel) fac3 (by decide +kernel) (by decide +kernel)
    (by decide +kernel)
def facE4 : Eng := afterRead (factorLane factorCmd { lane := 3 } sys1 pattern1) facE3
theorem fac4 : factorLane factorCmd { lane := 3 } sys1 pattern1 facE3 = .ok () facE4 := okWith_eq (by decide +kernel)
def endsWell (c : Cmd) (e : Eng) : Bool :=
  match (do
      let q ← slProg c
      if !q.lanes.isEmpty || (decide (q.next < slCount c) && !q.doom) then pure none
      else if q.doom then
        stopFault stPivot { element := BitVec.ofNat 64 (q.firstReg.getD 0), lane := BitVec.ofNat 16 q.regLane }
      else pure (some (slResult c q)) : EngM (Option (Option W64 × Option Nat))) e with
  | .ok (some _) e => e.trap.isNone && decide ((findCmd e.s 7).map (·.warns) = some 0)
  | _ => false
theorem doesPart_of {c : Cmd} {s : State} {r : LaneSys} {e1 : Eng} {p : Progress} (hk : c.k = 7 ∧ c.ctx = 1 ∧ c.warns = 0 ∧
    c.prog.seen = [] ∧ c.prog.kept = []) (h1 : slProg c (unitOf s) = .ok p (unitOf s)) (h2 : p.next = slCount c ∧ p.next ≠ 0)
    (h3 : p.lanes = [r]) (h4 : goOn c r (unitOf s) = .ok () e1) (h5 : e1.trap = none) (h6 : endsWell c e1 = true) :
    (s.doesPart c false (sysWork c)).isSome = true := by
  have h := sysWork_of h1 h2 h3 h4 h5
  unfold unitOf at h
  unfold State.doesPart
  rw [hk.1, hk.2.1, hk.2.2.1, hk.2.2.2.1, hk.2.2.2.2, h]
  unfold endsWell at h6
  split at h6
  · rename_i e he
    rw [he]
    simp only [Bool.and_eq_true, decide_eq_true_eq] at h6
    simp only [h6.1, h6.2, and_self, if_true, Option.map_some, Option.isSome_some]
  · simp at h6
theorem test_factor_met : (facState.doesPart factorCmd false (sysWork factorCmd)).isSome = true :=
  doesPart_of (p := factorCmd.prog) (e1 := facE4) (by decide +kernel) rfl (by decide +kernel) rfl
    (goOn_of fac1 facPattern (by
      rw [if_pos (by decide +kernel)]
      exact fac4)) (by decide +kernel) (by decide +kernel)

def slvState : State := { atWork solveBytes solveCmd.prog with free := 1 }
def slvE1 : Eng := afterRead (readSys (slList solveCmd) 0) (unitOf slvState)
def slvE2 : Eng := afterRead (readV 0x100000 72) slvE1
def slvE3 : Eng := afterRead (readV 0x100048 12) slvE2
theorem slv1 : readSys (slList solveCmd) 0 (unitOf slvState) = .ok sys1 slvE1 := okWith_eq (by decide +kernel)
theorem slv2 : readV 0x100000 72 slvE1 = .ok imageHead slvE2 := okWith_eq (by decide +kernel)
theorem slv3 : readV 0x100048 12 slvE2 = .ok imageTail slvE3 := by
  unfold slvE3 afterRead
  rfl
theorem slvPattern : readPattern sys1.pimg slvE1 = .ok pattern1 slvE3 :=
  readPattern_of (va := 0x100000) (raw := leBytes 4 0 ++ leBytes 4 1 ++ leBytes 4 0) slv2 (by decide +kernel) slv3 (by decide +kernel)
    (by decide +kernel) (by decide +kernel)
def slvLane : LaneSys := { lane := 3, x0 := [0], flags := 16 }
def slvEnds (r : EStateM.Result EngStop Eng Unit) : Bool :=
  match r with
  | .ok _ e => e.trap.isNone && endsWell solveCmd e
  | .error _ _ => false
theorem slv4a : slvEnds (iterateLane solveCmd slvLane sys1 pattern1 slvE3) = true := by decide +kernel
theorem test_solve_met : (slvState.doesPart solveCmd false (sysWork solveCmd)).isSome = true := by
  have h := slv4a
  cases h1 : iterateLane solveCmd slvLane sys1 pattern1 slvE3 with
  | error x e => rw [h1] at h; simp [slvEnds] at h
  | ok x e =>
    rw [h1] at h
    simp only [slvEnds, Bool.and_eq_true, Option.isNone_iff_eq_none] at h
    exact doesPart_of (p := solveCmd.prog) (e1 := e) (by decide +kernel) rfl (by decide +kernel) rfl
      (goOn_of slv1 slvPattern (by
        rw [if_neg (by decide +kernel)]
        exact h1)) h.1 h.2

/-! ### Collectives (O35-O38) -/

/-- A group of context 1 whose ranks are Basalts 0 to r - 1 of this module. -/
def groupOf (r : Nat) : Group := {
  ctx := 1, r := r, installed := true, table := (List.range r).map fun b => BitVec.ofNat 32 (0x1000 + b * 2 ^ 20) }
def grouped (r : Nat) (c : Cmd) : State := { withCmd c with groups := [(0, groupOf r)] }
def collCmd (bs : Bytes) (sent : Bool) : Cmd := { cmdOf bs with prog := { ({} : Progress) with coll := { ({} : CollRun) with sent := sent } } }
abbrev CollWork := EngM (Option (Option W64 × Option Nat))
/-- Its start ends the command. -/
def endsAtStart (s : State) (c : Cmd) (w : CollWork) : Bool := !c.prog.coll.sent && (s.doesPart c false w).isSome
/-- Its start leaves the end to deliveries. -/
def opensAtStart (s : State) (c : Cmd) (w : CollWork) : Bool :=
  !c.prog.coll.sent && (match w { s := s, ctx := c.ctx, owner := 2 * c.k } with
    | .ok none e => e.trap.isNone
    | _ => false)
def redTreeBytes : Bytes := descE 1 0x60 [(18, 1, 1), (19, 1, 1), (24, 4, 1), (32, 8, 0x100000), (40, 8, 0x200000), (48, 8, 0x100100)]
def redScaleBytes : Bytes := desc 0x62 [(18, 1, 1), (24, 4, 1), (32, 8, 0x100000), (40, 8, 0x200000)]
def xchgBytes : Bytes := descE 1 0x63 [(18, 1, 1), (19, 1, 1), (24, 4, 64), (28, 4, 1), (32, 8, 0x100000), (40, 8, 0x100100), (48, 8, 0x100200),
  (56, 8, 0x200000), (64, 8, 0x200100), (72, 8, 0x200200), (80, 8, 0x200300)]
def bcastBytes : Bytes := desc 0x64 [(20, 4, 64), (24, 8, 0x100000), (32, 8, 0x200000)]
def gatherLayerBytes : Bytes := desc 0x65 [(20, 4, 64), (24, 8, 0x100000), (32, 8, 0x200000)]
theorem test_collectivesWork_met :
    (grouped 1 (cmdOf redTreeBytes)).working 7 0x60 1 [(16, 7), (24, 48)] (cmdOf redTreeBytes) ∧ redLegal (cmdOf redTreeBytes) = true ∧
    (grouped 1 (cmdOf redScaleBytes)).working 7 0x62 0 [(16, 3), (24, 6), (32, 16), (56, 8)] (cmdOf redScaleBytes) ∧
    (redSrcOk (body (cmdOf redScaleBytes) 18 1) && decide (1 ≤ body (cmdOf redScaleBytes) 24 4)) = true ∧
    (grouped 1 (cmdOf xchgBytes)).working 7 0x63 1 [(16, 80)] (cmdOf xchgBytes) ∧ xcLegal (cmdOf xchgBytes) = true ∧
    (grouped 1 (cmdOf bcastBytes)).working 7 0x64 0 [(16, 8), (24, 26)] (cmdOf bcastBytes) ∧
    (decide (64 ≤ agSize (cmdOf bcastBytes)) && agSize (cmdOf bcastBytes) % 64 == 0) = true ∧
    (grouped 1 (cmdOf gatherLayerBytes)).working 7 0x65 0 [(16, 8), (24, 24)] (cmdOf gatherLayerBytes) ∧
    (decide (64 ≤ agSize (cmdOf gatherLayerBytes)) && agSize (cmdOf gatherLayerBytes) % 64 == 0) = true := by decide +kernel
theorem test_collectivesEnd_met :
    endsAtStart (grouped 1 (cmdOf redTreeBytes)) (cmdOf redTreeBytes) (redStart (cmdOf redTreeBytes)) = true ∧
    endsAtStart (grouped 1 (cmdOf redScaleBytes)) (cmdOf redScaleBytes) (redStart (cmdOf redScaleBytes)) = true ∧
    endsAtStart (grouped 1 (cmdOf xchgBytes)) (cmdOf xchgBytes) (xcStart (cmdOf xchgBytes)) = true ∧
    endsAtStart (grouped 1 (cmdOf bcastBytes)) (cmdOf bcastBytes) (bcStart (cmdOf bcastBytes)) = true ∧
    endsAtStart (grouped 1 (cmdOf gatherLayerBytes)) (cmdOf gatherLayerBytes) (agStart (cmdOf gatherLayerBytes)) = true := by decide +kernel
theorem test_collectivesOpen_met :
    (grouped 2 (cmdOf redTreeBytes)).working 7 0x60 1 [(16, 7), (24, 48)] (cmdOf redTreeBytes) ∧
    opensAtStart (grouped 2 (cmdOf redTreeBytes)) (cmdOf redTreeBytes) (redStart (cmdOf redTreeBytes)) = true ∧
    (grouped 2 (collCmd redTreeBytes true)).working 7 0x60 1 [(16, 7), (24, 48)] (collCmd redTreeBytes true) := by decide +kernel
/-- 3.0 over one rank: 3 x 2^0 at scale -6: 3.0 again. -/
theorem test_redTree_of_one_rank : ∃ t, exec (.redTree 7) { grouped 1 (cmdOf redTreeBytes) with mem := [(0x10020000002, 0x40), (0x10020000003, 0x40), (0x10020000100, 1)] } =
    .next t ∧ memReadN t.mem 0x10020100000 4 = [0, 0, 0x40, 0x40] := ⟨_, rfl, by decide +kernel⟩

def lowrankBytes : Bytes := descE 1 0x61 [(18, 1, 1), (19, 1, 1), (32, 4, 1), (36, 4, 1), (40, 8, 0x100000), (72, 8, 0x200000), (80, 8, 0x100100),
  (120, 4, 2)]
def lrOwnEnds (s : State) : Bool :=
  match findCmd s 7 with
  | some c => decide (c.st = .started) && lrSmall c && (match ownRank s c with
    | some gr => (s.doesPart c false (lrNext c gr.1)).isSome
    | none => false)
  | none => false
theorem test_redLowrank_met : (grouped 1 (cmdOf lowrankBytes)).working 7 0x61 1 [(16, 7), (24, 6), (32, 92)] (cmdOf lowrankBytes) ∧
    lrLegal (cmdOf lowrankBytes) = true ∧ lrOwnEnds (repeatWork (lrStep 7) 0 (grouped 1 (cmdOf lowrankBytes))) = true := by decide +kernel
/-- The large form on tile 0: five steps in one row of the table. -/
def lowrankBigBytes : Bytes := descE 1 0x61 [(18, 1, 1), (19, 1, 3), (32, 4, 1), (36, 4, 1), (40, 8, 0x100000), (48, 8, 0x200000),
  (56, 8, 0x200100), (64, 8, 0x200200), (72, 8, 0x200300), (80, 8, 0x100100), (88, 8, 0x100180), (104, 8, 0x200400), (112, 8, 1)]
def lowrankBig : State := { grouped 1 (cmdOf lowrankBigBytes) with
  clusters := (granted (cmdOf lowrankBigBytes)).clusters }
def lrBigEnds (s : State) : Bool :=
  match findCmd s 7 with
  | some c => decide (c.st = .started) && (lrRunning c || (lrDue c && lrFree s c)) && grantedTile s c.ctx c.basalt (0 + lrTile c) && decide (lrTiles c = 1) &&
    (match ownRank s c with
    | some gr => (s.doesPart c false (lrNext c gr.1)).isSome
    | none => false)
  | none => false
theorem test_redLowrankBig_met : lowrankBig.working 7 0x61 1 [(16, 7), (24, 6), (32, 92)] (cmdOf lowrankBigBytes) ∧
    lrLegal (cmdOf lowrankBigBytes) = true ∧ lrBigEnds (repeatWork (lrStep 7) 4 lowrankBig) = true := by decide +kernel

def epochBytes : Bytes := desc 0x70 [(20, 4, 5)]
def epochStaged : State := { grouped 1 (cmdOf epochBytes) with
  groups := [(0, { groupOf 1 with staged := some (5, 1, [(0, 0x1000)]) })] }
theorem test_layoutEpoch_met : (grouped 1 (cmdOf epochBytes)).working 7 0x70 0 [(16, 2), (20, 4)] (cmdOf epochBytes) ∧
    body (cmdOf epochBytes) 16 2 ≠ 0xFFFF ∧ collsDone (grouped 1 (cmdOf epochBytes)) (cmdOf epochBytes) = true ∧
    ownRank (grouped 1 (cmdOf epochBytes)) (cmdOf epochBytes) = some (groupOf 1, 0) ∧
    findGroup (grouped 1 (cmdOf epochBytes)) (body (cmdOf epochBytes) 16 2) = some (groupOf 1) ∧
    epochStaged.working 7 0x70 0 [(16, 2), (20, 4)] (cmdOf epochBytes) ∧
    findGroup epochStaged 0 = some { groupOf 1 with staged := some (5, 1, [(0, 0x1000)]) } ∧
    ownRank (work epochBytes) (cmdOf epochBytes) = none := by decide +kernel
theorem test_layoutEpochWaits_met : collsDone { grouped 1 (cmdOf epochBytes) with
    cmds := [{ cmdOf redTreeBytes with k := 6, q := 4 }, { cmdOf epochBytes with startNo := 1 }] } { cmdOf epochBytes with startNo := 1 } = false := by
  decide

/-! Messages of group 0 with R = 2. -/

def collPkt (h : CollHdr) (txn addr : Nat) (data : Bytes) : Packet := {
  pkt 8 (collHead h ++ data) with ptype := 7, txn := BitVec.ofNat 32 txn, addr := BitVec.ofNat 64 addr, dstCtx := 1, srcCtx := 1 }
def oneBlock : Bytes := wireBytes { maxe := 1, count := 1, elems := List.replicate 64 1 }
def headOf (kind level : Nat) : CollHdr := { kind := kind, level := level }
def two : State := { base with groups := [(0, groupOf 2)] }
def meetsAt (s : State) (kind level : Nat) (data : Bytes) : Prop :=
  s.meets 8 kind (collPkt (headOf kind level) 0 0 data) (groupOf 2) (headOf kind level)
theorem test_collUp_met : meetsAt two 1 0 oneBlock ∧ noInstance two (groupOf 2) (headOf 1 0) 1 0 = false ∧
    hostsNode two (groupOf 2) 1 0 = true := by
  unfold meetsAt
  decide +kernel
theorem test_maxUp_met : meetsAt two 5 0 oneBlock ∧ noInstance two (groupOf 2) (headOf 5 0) 1 0 = false ∧ hostsNode two (groupOf 2) 1 0 = true := by
  unfold meetsAt
  decide +kernel
theorem test_retryUp_met : meetsAt two 4 0 oneBlock ∧ noInstance two (groupOf 2) (headOf 4 0) 1 0 = false ∧ hostsNode two (groupOf 2) 1 0 = true := by
  unfold meetsAt
  decide +kernel
theorem test_collDown_met : meetsAt two 2 2 oneBlock ∧ 1 < (headOf 2 2).level ∧ hostsNode two (groupOf 2) 1 0 = true ∧
    noInstance two (groupOf 2) (headOf 2 2) 1 0 = false := by
  unfold meetsAt
  decide +kernel
theorem test_maxDown_met : meetsAt two 6 2 oneBlock ∧ 1 < (headOf 6 2).level := by
  unfold meetsAt
  decide +kernel
/-- A node of no module; and a table full of other instances. -/
theorem test_noNode_met : hostsNode two (groupOf 2) 1 5 = false ∧ noInstance { two with insts := List.replicate 4096 { tag := 9 } } (groupOf 2)
    (headOf 1 0) 1 0 = true := by decide +kernel
theorem test_retryReq_met : meetsAt two 3 2 oneBlock ∧ 1 < (headOf 3 2).level := by
  unfold meetsAt
  decide +kernel
theorem test_data_met : meetsAt two 7 0 oneBlock ∧ meetsAt two 8 2 oneBlock := by
  unfold meetsAt
  decide +kernel
theorem test_unknownGroup_met : base.takes 8 ptColl (collPkt (headOf 1 0) 0 0 oneBlock) ∧
    collHdrOf (collPkt (headOf 1 0) 0 0 oneBlock).payload = headOf 1 0 ∧
    collCheckOk (collPkt (headOf 1 0) 0 0 oneBlock).payload = true ∧ findGroup base 0 = none := by decide +kernel
/-- The first child's block opens the root of two ranks; the second child's completes it. -/
theorem test_collUp_opens_its_node : ∃ t, exec (.collUp 8 (collPkt (headOf 1 0) 0 0 oneBlock)) two = .next t ∧
    t.nodes.length = 1 ∧ (t.nodes.all fun n => n.lo.isSome && n.hi.isNone) = true := ⟨_, rfl, by decide +kernel⟩

/-- Rank 0's command of group 0 (R = 2) with its part sent. -/
def rankState (bs : Bytes) : State := grouped 2 (collCmd bs true)
/-- A message that finds its rank's command and ends it. -/
def endsThere (s : State) (c : Cmd) (port : Nat) (p : Packet) (h : CollHdr) (r : Nat) (w : CollWork) : Bool :=
  decide (rankAt s h r = .cmd c) &&
  (match w { s := s, ctx := c.ctx, owner := 2 * c.k } with
    | .error (.remote _ _) _ => false
    | _ => true) && ((s.taken port p).doesPart c false w).isSome
def downPkt (kind : Nat) : Packet := collPkt (headOf kind 1) 0 0 oneBlock
theorem test_downEnds_met : (rankState redTreeBytes).meets 8 2 (downPkt 2) (groupOf 2) (headOf 2 1) ∧
    endsThere (rankState redTreeBytes) (collCmd redTreeBytes true) 8 (downPkt 2) (headOf 2 1) 0
      (downWork (downPkt 2) (collCmd redTreeBytes true) (groupOf 2) (headOf 2 1)) = true := by decide +kernel
theorem test_maxDownEnds_met : (rankState redScaleBytes).meets 8 6 (downPkt 6) (groupOf 2) (headOf 6 1) ∧
    endsThere (rankState redScaleBytes) (collCmd redScaleBytes true) 8 (downPkt 6) (headOf 6 1) 0
      (downWork (downPkt 6) (collCmd redScaleBytes true) (groupOf 2) (headOf 6 1)) = true := by decide +kernel
/-- The last 64-byte shard: rank 1's. -/
def shardPkt : Packet := collPkt { headOf 8 1 with first := 1 } 0 0 (List.replicate 64 9)
def gathering : Cmd := { cmdOf gatherLayerBytes with prog := { ({} : Progress) with coll := { ({} : CollRun) with sent := true, delivered := [0] } } }
theorem test_shardEnds_met : (grouped 2 gathering).meets 8 8 shardPkt (groupOf 2) { headOf 8 1 with first := 1 } ∧
    endsThere (grouped 2 gathering) gathering 8 shardPkt { headOf 8 1 with first := 1 } 0
      (agWork shardPkt gathering (groupOf 2) { headOf 8 1 with first := 1 }) = true := by decide +kernel
def bcastPkt : Packet := collPkt (headOf 8 1) 0 bcastBit (List.replicate 64 9)
theorem test_broadcastEnds_met : (rankState bcastBytes).meets 8 8 bcastPkt (groupOf 2) (headOf 8 1) ∧ bitOf bcastPkt.addr.toNat 63 = true ∧
    endsThere (rankState bcastBytes) (collCmd bcastBytes true) 8 bcastPkt (headOf 8 1) 0
      (bcWork bcastPkt (collCmd bcastBytes true) (groupOf 2) (headOf 8 1)) = true := by decide +kernel
/-- The last end marker of a dispatch: rank 1's. -/
def dispatchBytes : Bytes := descE 1 0x63 [(18, 1, 0), (19, 1, 1), (24, 4, 64), (28, 4, 1), (32, 8, 0x100000), (40, 8, 0x100100), (48, 8, 0x100200),
  (56, 8, 0x200000), (64, 8, 0x200100), (72, 8, 0x200200), (80, 8, 0x200300), (88, 8, 1)]
def dispatching : Cmd := { cmdOf dispatchBytes with prog := { ({} : Progress) with coll := { ({} : CollRun) with sent := true, ends := [0] } } }
def endPkt : Packet := collPkt (headOf 9 0) 0 (xcAddr 0 1 0) []
theorem test_tokenEnds_met : (grouped 2 dispatching).meets 8 9 endPkt (groupOf 2) (headOf 9 0) ∧
    endsThere (grouped 2 dispatching) dispatching 8 endPkt (headOf 9 0) (bits endPkt.addr.toNat 63 48)
      (tokenWork endPkt dispatching (groupOf 2) (headOf 9 0)) = true := by decide +kernel
/-- The only accepted row of a return comes back. -/
def returnBytes : Bytes := setBytes (setBytes xchgBytes 20 (leBytes 4 1)) 88 (leBytes 8 1)
def returning : Cmd := { cmdOf returnBytes with
  prog := { ({} : Progress) with coll := { ({} : CollRun) with sent := true, accepted := 1, values := [(2 ^ 60, 0)] } } }
def rowPkt : Packet := collPkt (headOf 10 1) 0 0 (List.replicate 64 9)
theorem test_tokenRetEnds_met : (grouped 2 returning).meets 8 10 rowPkt (groupOf 2) (headOf 10 1) ∧
    endsThere (grouped 2 returning) returning 8 rowPkt (headOf 10 1) (bits rowPkt.addr.toNat 63 48)
      (tokenRetWork rowPkt returning (groupOf 2) (headOf 10 1)) = true := by decide +kernel

/-- A reduction with DEADLINE 1, and the frame time word at 0 or 1. -/
def timed (bs : Bytes) (at' : Nat) (d : W64) : State := { rankState (setBytes bs at' (leBytes 8 d.toNat)) with tb := { ({} : TimeBase) with phase := 1 } }
def timedCmd (bs : Bytes) (at' : Nat) (d : W64) : Cmd := collCmd (setBytes bs at' (leBytes 8 d.toNat)) true
theorem test_deliveryDeadline_met : findCmd (timed redTreeBytes 56 1) 7 = some (timedCmd redTreeBytes 56 1) ∧
    findGroup (timed redTreeBytes 56 1) 0 = some (groupOf 2) ∧ isColl (timedCmd redTreeBytes 56 1) = true ∧
    inReset (timed redTreeBytes 56 1) = false ∧
    pastPh (timed redTreeBytes 56 1) (doneFields (timedCmd redTreeBytes 56 1)).1
      (2 * treeLevels 2 * (doneFields (timedCmd redTreeBytes 56 1)).2.1 + (doneFields (timedCmd redTreeBytes 56 1)).2.2) = true ∧
    ((timed redTreeBytes 56 1).doesPart (timedCmd redTreeBytes 56 1) false (lateWork (timedCmd redTreeBytes 56 1) (groupOf 2))).isSome = true ∧
    pastPh (timed redTreeBytes 56 2) (doneFields (timedCmd redTreeBytes 56 2)).1
      (2 * treeLevels 2 * (doneFields (timedCmd redTreeBytes 56 2)).2.1 + (doneFields (timedCmd redTreeBytes 56 2)).2.2) = false := by
  decide +kernel
theorem test_exchangeDeadline_met : findCmd (timed dispatchBytes 88 1) 7 = some (timedCmd dispatchBytes 88 1) ∧
    cmdOp (timedCmd dispatchBytes 88 1) = 0x63 ∧ xcPast (timed dispatchBytes 88 1) (timedCmd dispatchBytes 88 1) = true ∧
    ((timed dispatchBytes 88 1).doesPart (timedCmd dispatchBytes 88 1) false (xcLate (timedCmd dispatchBytes 88 1))).isSome = true ∧
    xcPast (timed dispatchBytes 88 2) (timedCmd dispatchBytes 88 2) = false := by decide +kernel

/-- The root of two ranks, level 1, deadline 1. -/
def node1 (sent retry : Bool) : Node := {
  level := 1, deadline := 1, kind := 1, inRetry := retry, sent := if sent then some { count := 1, elems := List.replicate 64 0 } else none }
def noded (n : Node) (phase : Nat) : State := { two with nodes := [n], tb := { ({} : TimeBase) with phase := phase } }
theorem test_nodeDeadline_met : (noded (node1 false false) 1).nodes[0]? = some (node1 false false) ∧
    findGroup (noded (node1 false false) 1) 0 = some (groupOf 2) ∧ pastPh (noded (node1 false false) 1) 1 (1 * 0) = true ∧
    pastPh (noded (node1 false false) 0) 1 (1 * 0) = false ∧ (node1 true false).sent.isSome = true := by decide
theorem test_retryDeadline_met : (node1 true true).level = treeLevels (groupOf 2).r ∧ (node1 true true).inRetry = true ∧
    retryPast (noded (node1 true true) 1) (node1 true true) = true ∧ retryPast (noded (node1 true true) 0) (node1 true true) = false := by decide
/-- R259: 1 + 2 halves to 1.5, to even 2; 127 + 127 stays 127; the mark 0x80 stays. -/
theorem test_combineElem : combineElem 1 2 = 2 ∧ combineElem 0 1 = 0 ∧ combineElem 127 127 = 127 ∧ combineElem 0x81 0x81 = 0x81 ∧
    combineElem 0x80 5 = 0x80 := by decide

/-! ### Packets (O39, O40) -/

def toCtx (p : Packet) : Packet := { p with dstCtx := 1 }
def writePkt (va : Nat) : Packet := { toCtx (pkt 1 [1, 2]) with addr := BitVec.ofNat 64 va }
theorem test_write_met : base.takes 8 ptWrite (writePkt 0x200000) ∧ refuseCtx base 1 = none ∧ base.pow.pst ≠ .sleep ∧
    anyDiscard base = false ∧ base.pref = [] ∧ findMap base 1 0x200000 = some pageB ∧ pageB.remote = false ∧ pageB.access = 2 ∧ pageB.writable = true ∧ base.held = [] ∧
    (writePkt 0x200000).addr.toNat + (writePkt 0x200000).payload.length ≤ pageB.va + pageSize pageB := by decide +kernel
theorem test_write_stores : ∃ t, exec (.pktWrite 8 (writePkt 0x200000)) base = .next t ∧ memReadN t.mem 0x10020100000 3 = [1, 2, 0] :=
  ⟨_, rfl, by decide +kernel⟩
def readPkt (n : Nat) : Packet := { toCtx (pkt 2 (leBytes 4 n ++ leBytes 4 0)) with addr := 0x200000 }
theorem test_read_met : base.takes 8 ptReadReq (readPkt 4096) ∧ pageB.access ≠ 0 ∧ 1 ≤ field (readPkt 1).payload 0 4 ∧
    field (readPkt 4096).payload 0 4 ≤ 4096 ∧
    (readPkt 4096).addr.toNat + field (readPkt 4096).payload 0 4 ≤ pageB.va + pageSize pageB := by decide +kernel
def addPkt : Packet := toCtx (pkt 6 (leBytes 2 256 ++ leBytes 6 0 ++ leBytes 8 5))
theorem test_ctrAdd_met : base.takes 8 ptCtrAdd addPkt ∧ base.pow.pst = .active ∧ ctrOwned base 1 (field addPkt.payload 0 2) = true ∧
    ({ base with pow := { ({} : Power) with pst := .doze } } : State).takes 8 ptCtrAdd addPkt ∧
    refuseCtx ({ base with pow := { ({} : Power) with pst := .doze } } : State) 1 = none := by decide +kernel
def fencedBase : State := { base with rst := { ({} : ResetRun) with stage := .fenced } }
theorem test_fencedPackets_met : inReset fencedBase = true ∧ fencedBase.takes 8 ptWrite (writePkt 0x200000) ∧
    fencedBase.takes 8 ptReadReq (readPkt 1) := by decide +kernel
theorem test_writeUnmapped_met : findMap base 1 0x300000 = none ∧ base.takes 8 ptWrite (writePkt 0x300000) ∧ (writePkt 0x300000).payload ≠ [] := by
  decide +kernel

def reqOf (t : Nat) : OutReq := { txn := 9, ptype := BitVec.ofNat 8 t, ctx := 1, k := some 7, dst := 0, rctx := 0, len := 2, va := 0x100000, owner := 14 }
def asked (t : Nat) : State := { work (desc 0x10 []) with fab := { ({} : Fabric) with reqs := [reqOf t] } }
def respPkt (t : Nat) (b : Bytes) : Packet := { toCtx (pkt (BitVec.ofNat 8 t) b) with txn := 9, srcCtx := 0 }
theorem test_noRequest_met : findReq base (respPkt 3 [1]) = none ∧ base.takes 8 ptReadResp (respPkt 3 [1]) ∧ base.takes 8 ptAck (respPkt 4 []) ∧
    base.takes 8 ptNack (respPkt 5 (leBytes 8 0x20)) := by decide +kernel
theorem test_readResp_met : findReq (asked 2) (respPkt 3 [1, 2]) = some (reqOf 2) ∧ (asked 2).takes 8 ptReadResp (respPkt 3 [1, 2]) ∧
    (getCtx (asked 2) 1).st = .active ∧ (reqOf 2).pf = false ∧ (reqOf 2).dropped = false := by decide +kernel
theorem test_ack_met : findReq (asked 1) (respPkt 4 []) = some (reqOf 1) ∧ (asked 1).takes 8 ptAck (respPkt 4 []) ∧
    findReq (asked 1) (respPkt 5 (leBytes 8 0x20)) = some (reqOf 1) ∧ (asked 1).takes 8 ptNack (respPkt 5 (leBytes 8 0x20)) ∧
    findCmd (asked 1) 7 = some (cmdOf (desc 0x10 [])) ∧ field (respPkt 5 (leBytes 8 0x20)).payload 0 2 = 0x0020 := by decide +kernel
def endAdd (t0 : Option Nat) : StageEnd := { ctx := 1, unacked := [(9, 1)], fencedU := t0 }
def adding (t0 : Option Nat) : State := { asked 6 with ends := [(2, endAdd t0)] }
theorem test_endAck_met : endOfTxn (adding none) 9 = some (2, endAdd none) ∧ findEnd (adding none) 2 = some (endAdd none) ∧
    findReq (adding none) (respPkt 4 []) = some (reqOf 6) ∧ (adding none).takes 8 ptAck (respPkt 4 []) ∧
    (adding none).takes 8 ptNack (respPkt 5 (leBytes 8 0x12)) ∧ findReq (adding none) (respPkt 5 (leBytes 8 0x12)) = some (reqOf 6) ∧
    field (respPkt 5 (leBytes 8 0x12)).payload 0 2 = 0x0012 := by decide +kernel
theorem test_resend_met : findEnd (adding (some 0)) 2 = some (endAdd (some 0)) ∧ (adding (some 0)).since 0 msU = true ∧
    (adding (some (adding none).tb.nowU)).since (adding none).tb.nowU msU = false ∧ inReset (adding none) = false := by decide +kernel

/-! ### Routers and links (O41, O42) -/

/-- Address 0 of a ring of two in X, every torus port UP. -/
def ring2 : State := { base with
  id := { ({} : Ident) with dx := 1 }
  fab := { ({} : Fabric) with ports := (List.range 8).map fun i => (i, { st := .up, lanes := 16 }) } }
def inOrder (p : Packet) : Packet := sealPacket p
def passing : Packet := inOrder { pkt 1 [1] with dst := 0x100 }
theorem test_forward_met : ring2.sup.in40 = true ∧ lengthOk passing = true ∧ (takeLink 1 passing ring2).1 = true ∧
    packetWpActive passing = false ∧ dstAddr passing.dst ≠ ring2.id.addr ∧ inTorus ring2.id 0x100 = true ∧
    routePort ring2.id ring2.id.addr 0x100 = some 0 ∧ portUp (getPort (ring2.taken 1 passing) 0) = true := by decide +kernel
def turning : Packet := inOrder { passing with flags := 0x10, wp := 0 }
theorem test_waypoint_met : packetWpActive turning = true ∧ turning.wp.extractLsb' 0 12 = ring2.id.addr ∧
    (takeLink 1 turning ring2).1 = true ∧ lengthOk turning = true ∧ ring2.fab.reinject = [] := by decide +kernel
theorem test_reservedType_met : (takeLink 1 (inOrder { passing with ptype := 13 }) ring2).1 = true ∧
    (takeLink 1 (inOrder { passing with ptype := 0 }) ring2).1 = true := by decide +kernel
theorem test_forward_counts_hops : ∃ t, exec (.packetForward 1 passing) ring2 = .next t ∧
    t.fab.outbox.map (fun x => (x.1, x.2.hops)) = [(0, 1)] := ⟨_, rfl, by decide +kernel⟩

theorem test_linkReplay_met : portUp (getPort ring2 5) = true ∧ (getPort ring2 5).rxSeq = 0 := by decide
theorem test_linkUp_met : base.sup.in40 = true ∧ portUp (getPort base 5) = false ∧ portUp (getPort base 6) = false ∧ (getPort ring2 7).st ≠ .down ∧
    (getPort base 0).st = .down ∧ base.id.role = .worker := by decide
def retuning (lanes : Nat) : State := { base with
  fab := { ({} : Fabric) with ports := [(5, { st := .retuning, lanes := lanes, tuning := some 15 })] } }
theorem test_laneRetune_met : (getPort ring2 5).st = .up ∧ (getPort ring2 5).tuning = none ∧ (getPort ring2 5).disabled.contains 15 = false ∧
    (getPort (retuning 12) 5).st = .retuning ∧ (getPort (retuning 12) 5).tuning = some 15 ∧ 12 ≤ (getPort (retuning 12) 5).lanes ∧
    (getPort (retuning 11) 5).lanes < 12 := by decide
/-- A port that has lost n lanes. -/
def lamed (n : Nat) : State := { base with fab := { ({} : Fabric) with ports := [(5, { disabled := List.range n })] } }
theorem test_linkUp_of_twelve_lanes : ∃ t, exec (.linkUp 5) (lamed 4) = .next t ∧ (getPort t 5).st = .degraded ∧ (getPort t 5).lanes = 12 :=
  ⟨_, rfl, by decide +kernel⟩
theorem test_linkUpTooFew_met : 4 < (getPort (lamed 5) 5).disabled.length := by decide
theorem test_laneRetuneDone_at_twelve : ∃ t, exec (.laneRetuneDone 5 false) (retuning 12) = .next t ∧ (getPort t 5).st = .degraded := ⟨_, rfl, by decide +kernel⟩
theorem test_laneRetuneDone_below_twelve : ∃ t, exec (.laneRetuneDone 5 false) (retuning 11) = .next t ∧ (getPort t 5).st = .down := ⟨_, rfl, by decide +kernel⟩
def probing (t0 : Option Nat) : State := { ring2 with
  fab := { ({} : Fabric) with ports := [(5, { st := .up, lanes := 16, probeU := t0 })] } }
theorem test_hopDelay_met : portUp (getPort (probing none) 5) = true ∧ portUp (getPort base 5) = false ∧
    lengthOk (inOrder (pkt 10 [])) = true ∧ (takeLink 5 (inOrder (pkt 10 [])) (probing none)).1 = true ∧
    lengthOk (inOrder (pkt 11 [])) = true ∧ (takeLink 5 (inOrder (pkt 11 [])) (probing (some 0))).1 = true ∧
    (getPort (probing (some 0)) 5).probeU = some 0 ∧ (getPort (probing none) 5).probeU = none := by decide +kernel
/-- 3 ms there and back: 1.5 ms one way, in ps. -/
theorem test_probeReply_halves : ∃ t, exec (.pktProbeReply 5 (inOrder (pkt 11 []))) (probing (some (98304000000000000 - 3 * msU))) = .next t ∧
    (getPort t 5).delayPs = 1500000000 := ⟨_, rfl, by decide +kernel⟩

/-! ### Members and messages (O43-O46) -/

/-- A management message (R352): code, LENGTH, MSEQ 1, body, CRC. -/
def mgmtBytes (code : Nat) (bd : Bytes) : Bytes :=
  let h := leBytes 2 code ++ leBytes 2 bd.length ++ leBytes 4 1 ++ bd
  h ++ leBytes 4 (crc32c h).toNat
def mgmtFrom (src code : Nat) (bd : Bytes) : Packet := { pkt 12 (mgmtBytes code bd) with src := BitVec.ofNat 16 src }
/-- A message of code and body from the module at 0x100 on port 8. -/
def told (s : State) (code : Nat) (bd : Bytes) : Prop := s.manages 8 code (mgmtFrom 0x100 code bd) 0x100 bd
def helloBody : Bytes := leBytes 2 0x100 ++ [1, 0, 0, 1] ++ leBytes 2 0x8000 ++ leBytes 2 0x8000 ++ List.replicate 6 0
def helloPkt : Packet := inOrder (mgmtFrom 0x100 1 helloBody)
def unnamed : State := { ring2 with id := { ({} : Ident) with hasAddr := false } }
theorem test_hello_met : lengthOk helloPkt = true ∧ (takeLink 1 helloPkt ring2).1 = true ∧ (takeLink 1 helloPkt unnamed).1 = true ∧
    helloPkt.ptype.toNat = ptMgmt ∧ field helloPkt.payload 0 2 = 1 ∧ helloPkt.payload.length = 28 ∧ field helloPkt.payload 2 2 = 16 ∧
    field helloPkt.payload 24 4 = (crc32c (helloPkt.payload.take 24)).toNat ∧ addrOf (field helloBody 0 2) = some 0x100 ∧
    ring2.id.hasAddr = true ∧ unnamed.id.hasAddr = false := by decide +kernel
/-- A worker of a ring of two at 0x100 asks to join. -/
def joinBytes (a : Nat) : Bytes := List.replicate 32 1 ++ [0, 0] ++ leBytes 2 a ++ List.replicate 12 0
def manager : State := { ring2 with id := { ({} : Ident) with dx := 1, role := .podManager } }
theorem test_join_met : told ring2 2 (joinBytes 0x100) ∧ told manager 2 (joinBytes 0x100) ∧ addrOf (field (joinBytes 0x100) 34 2) = some 0x100 := by
  unfold told
  decide +kernel
theorem test_joinResult_met : joinResult manager 0x100 (List.replicate 16 1) 0 = 0 ∧ joinResult manager 0x200 (List.replicate 16 1) 0 = 2 ∧
    joinResult { manager with fab := { ({} : Fabric) with members := [{ addr := 0x100 }] } } 0x100 (List.replicate 16 1) 0 = 1 := by decide +kernel
def joinAckBytes (res : Nat) : Bytes := leBytes 2 0x100 ++ [1, 0, 0, BitVec.ofNat 8 res] ++ leBytes 2 0x100 ++ leBytes 2 0x100 ++ leBytes 2 0x100 ++
  List.replicate 4 0
theorem test_joinAck_met : told ring2 3 (joinAckBytes 0) ∧ field (joinAckBytes 0) 12 1 ≤ 64 ∧ field (joinAckBytes 0) 5 1 = 0 ∧
    addrOf (field (joinAckBytes 0) 0 2) = some 0x100 ∧ addrOf (field (joinAckBytes 0) 8 2) = some 0x100 ∧
    addrOf (field (joinAckBytes 0) 10 2) = some 0x100 := by
  unfold told
  decide +kernel
theorem test_joinAckRefused_met : told ring2 3 (joinAckBytes 1) ∧ field (joinAckBytes 1) 5 1 = 1 := by
  unfold told
  decide +kernel
theorem test_joinAckRefused2_met : told ring2 3 (joinAckBytes 2) ∧ field (joinAckBytes 2) 5 1 = 2 := by
  unfold told
  decide +kernel
def beating (u : Nat) : State := { ring2 with fab := { ring2.fab with confirmed := true, heartU := u } }
theorem test_heartbeatSend_met : (beating 0).fab.confirmed = true ∧ (beating 0).mb ≠ .handover ∧ (beating 0).since 0 (10 * msU) = true ∧
    (beating ring2.tb.nowU).since ring2.tb.nowU (10 * msU) = false := by decide +kernel
def member (m : Member) : State := { manager with fab := { manager.fab with members := [m] } }
def heartBytes (tb : Nat) : Bytes := [1, BitVec.ofNat 8 tb] ++ List.replicate 14 0
theorem test_heartbeat_met : told (member { addr := 0x100 }) 4 (heartBytes 3) ∧ findMember (member { addr := 0x100 }) 0x100 = some { addr := 0x100 } ∧
    field (heartBytes 3) 1 1 = 3 ∧ field (heartBytes 1) 1 1 ≠ 3 := by
  unfold told
  decide +kernel
theorem test_moduleLost_met : (member { addr := 0x100 }).id.role ≠ .worker ∧ (member { addr := 0x100 }).since 0 (30 * msU) = true ∧
    (member { addr := 0x100, seenU := ring2.tb.nowU }).since ring2.tb.nowU (30 * msU) = false := by decide +kernel
theorem test_leave_met : told (member { addr := 0x100 }) 5 [] := by
  unfold told
  decide +kernel

theorem test_beaconSend_met : manager.since manager.fab.beaconU (100 * msU) = true ∧ ring2.id.role = .worker ∧
    ({ manager with fab := { manager.fab with beaconU := ring2.tb.nowU } } : State).since ring2.tb.nowU (100 * msU) = false := by decide +kernel
def beaconBytes (a : Nat) : Bytes := leBytes 2 a ++ [1] ++ List.replicate 5 0
theorem test_beacon_met : told ring2 6 (beaconBytes 0x100) ∧ told manager 6 (beaconBytes 0x100) ∧ addrOf (field (beaconBytes 0x100) 0 2) = some 0x100 ∧
    podOf ring2.id 0x100 = podOf ring2.id ring2.id.addr ∧ (0x100 : BitVec 12) ≠ ring2.id.addr ∧ field (beaconBytes 0x100) 2 1 ≠ 0 ∧
    manager.id.addr < 0x100 := by
  unfold told
  decide +kernel
/-- A manager at 0x100 that hears of one at 0. -/
def higher : State := { manager with id := { manager.id with addr := 0x100 } }
theorem test_beaconOfLower_met : higher.manages 8 6 { mgmtFrom 0 6 (beaconBytes 0) with dst := 0x100 } 0 (beaconBytes 0) ∧ (0 : BitVec 12) < higher.id.addr ∧
    podOf higher.id 0 = podOf higher.id higher.id.addr := by decide +kernel
theorem test_mgmtAck_met : told ring2 0x11 (leBytes 8 1) ∧ ring2.deferred = [] := by
  unfold told
  decide +kernel
def unacked (u : MgmtOut) : State := { ring2 with fab := { ring2.fab with unacked := [u] } }
theorem test_mgmtResend_met : (unacked { mseq := 1 }).since 0 (5 * msU) = true ∧
    (unacked { mseq := 1, sentU := ring2.tb.nowU }).since ring2.tb.nowU (5 * msU) = false ∧
    isHeld (unacked { mseq := 1 }) 0 = false ∧ inTorus ring2.id 0 = true ∧
    (unacked { mseq := 1, tries := 4 }).fab.unacked.find? (fun v => v.mseq == 1) = some { mseq := 1, tries := 4 } := by decide +kernel

/-- A notice about the module at 0x100, and a group of context 1 with a rank there. -/
def noticeBytes (kind : Nat) : Bytes := leBytes 2 0x100 ++ [BitVec.ofNat 8 kind] ++ List.replicate 13 0
def groupThere : Group := { groupOf 2 with table := [0x1000, 0x1100] }
def holding : State := { manager with groups := [(3, groupThere)], ends := [(2, { peer := 0x100 })] }
theorem test_resetNotice_met : told holding 7 (List.replicate 16 0) ∧ field (List.replicate 16 0) 0 1 ≤ 1 := by
  unfold told
  decide +kernel
theorem test_rankReset_met : told holding 8 (noticeBytes 1) ∧ addrOf (field (noticeBytes 1) 0 2) = some 0x100 ∧ field (noticeBytes 1) 2 1 ≤ 1 := by
  unfold told
  decide +kernel
theorem test_rankLost_met : told holding 9 (noticeBytes 0) ∧ field (noticeBytes 0) 2 1 ≤ 0 ∧
    holding.groups.filter (fun g => g.2.installed && g.2.table.any fun e => rankModule e == 0x100) = [(3, groupThere)] ∧
    ring2.groups.filter (fun g => g.2.installed && g.2.table.any fun e => rankModule e == 0x100) = [] := by
  unfold told
  decide +kernel
theorem test_timeDegraded_met : told holding 10 (noticeBytes 0) := by
  unfold told
  decide +kernel
def tickBytes (kind : Nat) : Bytes := leBytes 8 5 ++ [BitVec.ofNat 8 kind] ++ List.replicate 7 0
theorem test_tickLostReport_met : told ring2 11 (tickBytes 1) ∧ field (tickBytes 1) 8 1 ≤ 1 ∧ field (tickBytes 0) 8 1 = 0 := by
  unfold told
  decide +kernel
theorem test_tickLostReportManager_met : told (member { addr := 0x100 }) 11 (tickBytes 0) := by
  unfold told
  decide +kernel
theorem test_holdoverTimeout_met : findMember (member { addr := 0x100, holdU := some 0 }) 0x100 = some { addr := 0x100, holdU := some 0 } ∧
    (member { addr := 0x100 }).since (98304000000000000 - 1) (10 * secU) = false ∧
    ({ manager with tb := { ({} : TimeBase) with nowU := 10 * secU } } : State).since 0 (10 * secU) = true := by decide +kernel

def routeBytes (first mode : Nat) : Bytes := [1, BitVec.ofNat 8 first, BitVec.ofNat 8 mode] ++ List.replicate 5 0 ++ leBytes 8 0
theorem test_routeSet_met : told ring2 0x0C (routeBytes 63 1) ∧ field (routeBytes 63 1) 1 1 + field (routeBytes 63 1) 0 1 ≤ 64 ∧
    field (routeBytes 63 1) 2 1 ≤ 1 := by
  unfold told
  decide +kernel
theorem test_routeSetMode_met : told ring2 0x0C (routeBytes 0 2) ∧ 1 < field (routeBytes 0 2) 2 1 := by
  unfold told
  decide +kernel
/-- Group gn, Quartz 0, context 1, epoch 1, R = 1, from entry 0 on, one entry. -/
def groupBytes (gn : Nat) : Bytes := leBytes 2 gn ++ [0, 1] ++ leBytes 4 1 ++ leBytes 4 1 ++ leBytes 4 0 ++ leBytes 2 1 ++ List.replicate 6 0 ++
  leBytes 4 0x1000
theorem test_groupInstall_met : told ring2 0x0D (groupBytes 1) ∧ groupFieldsOk ring2 (groupBytes 1) = true ∧
    Tbl.find? ring2.groups (field (groupBytes 1) 0 2) = none ∧ field (groupBytes 1) 12 4 = 0 ∧
    field (groupBytes 1) 16 2 = field (groupBytes 1) 8 4 := by
  unfold told
  decide +kernel
theorem test_groupInstallBad_met : told ring2 0x0D (groupBytes 0) ∧ groupFieldsOk ring2 (groupBytes 0) = false := by
  unfold told
  decide +kernel
def group1 (ctx : Nat) : State := { ring2 with groups := [(1, { groupOf 1 with ctx := ctx })] }
theorem test_groupStage_met : told (group1 1) 0x0E (groupBytes 1) ∧ groupFieldsOk (group1 1) (groupBytes 1) = true ∧
    findGroup (group1 1) 1 = some { groupOf 1 with ctx := 1 } ∧ findGroup (group1 2) 1 = some { groupOf 1 with ctx := 2 } ∧
    findGroup ring2 1 = none := by
  unfold told
  decide +kernel
theorem test_groupStageForeign_met : told (group1 2) 0x0E (groupBytes 1) ∧ told ring2 0x0E (groupBytes 1) := by
  unfold told
  decide +kernel
def removeBytes : Bytes := leBytes 2 1 ++ [0, 1] ++ List.replicate 4 0
theorem test_groupRemove_met : told (group1 1) 0x0F removeBytes ∧ told (group1 2) 0x0F removeBytes ∧ field removeBytes 3 1 = 1 ∧
    field removeBytes 0 2 = 1 := by
  unfold told
  decide +kernel
theorem test_groupRemoveNone_met : told ring2 0x0F removeBytes := by
  unfold told
  decide +kernel
def periodBytes (ps : Nat) : Bytes := leBytes 8 ps ++ leBytes 8 9
theorem test_periodArm_met : told ring2 0x10 (periodBytes 40000000) ∧ told ring2 0x10 (periodBytes 2000000000001) ∧
    (BitVec.ofNat 41 (field (periodBytes 40000000) 0 8)).toNat = 40000000 ∧
    (BitVec.ofNat 41 (field (periodBytes 2000000000001) 0 8)).toNat = 2000000000001 := by
  unfold told
  decide +kernel

/-! ### The mailbox (O47-O53) -/

/-- A mailbox request (R343): code, LENGTH, body, CHECK; TAG 5. -/
def msgReq (code : Nat) (bd : Bytes) : Bytes :=
  let h := leBytes 2 code ++ [0, 0] ++ leBytes 4 5 ++ leBytes 2 bd.length ++ List.replicate 18 0
  h ++ leBytes 4 (crc32c (h ++ bd)).toNat ++ bd
def served (s : State) (ch code : Nat) (bd : Bytes) : Prop := s.serves ch code (msgReq code bd) bd
/-- Context 1 belongs to function 1, context 2 to the PF. -/
def hosted : State := { base with ctxs := base.ctxs ++ [(2, { st := .active })] }
def zeros (n : Nat) : Bytes := List.replicate n 0

/-! R345: a request refused at each check, and one that waits. -/
def spoilt : Bytes := (msgReq 1 []).take 28 ++ [0, 0, 0, 0]
def oddHeader : Bytes :=
  let h := leBytes 2 1 ++ [8, 0] ++ leBytes 4 5 ++ leBytes 2 0 ++ zeros 18
  h ++ leBytes 4 (crc32c h).toNat
def isRow (ch code : Nat) (req : Bytes) : Bool := (mailboxRows ch req).any fun r => r.1 == code && field req 0 2 == code
def rowOf (code : Nat) : MsgRow := (msgRow code).getD { sender := .anyone true, fields := [], handler := doIdentify }
theorem test_requestChecks_met : isRow 0 1 spoilt = true ∧ checkOk spoilt = false ∧ hostUp hosted = true ∧ (getFn hosted 0).busy = false ∧
    isRow 1 4 (msgReq 4 (zeros 6)) = true ∧ checkOk (msgReq 4 (zeros 6)) = true ∧ maySend (rowOf 4).sender 1 = false ∧
    isRow 0 1 oddHeader = true ∧ checkOk oddHeader = true ∧ headerZero oddHeader = false ∧ maySend (rowOf 1).sender 0 = true := by decide +kernel
theorem test_requestLengths_met : checkOk (msgReq 3 []) = true ∧ headerZero (msgReq 3 []) = true ∧
    lengthFits (rowOf 3) (reqBody (msgReq 3 [])).length = false ∧ lengthFits (rowOf 3) (reqBody (msgReq 3 [0])).length = true ∧
    reservedZero (rowOf 3) (reqBody (msgReq 3 [0, 1])) = false ∧ reservedZero (rowOf 3) (reqBody (msgReq 3 [3, 0])) = true := by decide +kernel
def queued (d : Deferred) : State := { hosted with deferred := [d] }
theorem test_requestWaits_met : checkOk (msgReq 0x0102 [1, 0]) = true ∧ maySend (rowOf 0x0102).sender 1 = true ∧
    headerZero (msgReq 0x0102 [1, 0]) = true ∧ reservedZero (rowOf 0x0102) (reqBody (msgReq 0x0102 [1, 0])) = true ∧
    mustDefer (queued { ch := 1, code := 0x0102 }) (queued { ch := 1, code := 0x0102 }).deferred 1 0x0102 [1, 0] = true := by decide +kernel
theorem test_reservedCode_met : checkOk (msgReq 0x0999 []) = true ∧ msgRow (field (msgReq 0x0999 []) 0 2) = none := by decide +kernel
theorem test_overrun_met : (getFn { hosted with fns := [(0, { busy := true })] } 0).busy = true := by decide
/-! R345: deferred requests whose end is due, or not. -/
theorem test_msgDone_met : carriesOut (queued { ch := 1, code := 0x0105, req := [3, 0], begun := true }) = true ∧
    queueCmds (queued {}) 3 = [] ∧ queueCmds (work (desc 0 [])) 3 ≠ [] ∧
    (unmapNamed hosted ([1, 0, 0, 0] ++ leBytes 4 1 ++ leBytes 8 0x100000)).isSome = true ∧ accessOut hosted 1 [pageA] = false ∧
    accessOut { hosted with fab := { ({} : Fabric) with reqs := [{ ctx := 1, len := 1, va := 0x100000 }] } } 1 [{ pageA with remote := true }] = true := by
  decide +kernel
/-- At place 0 the turn of a request has come; at place 1 it waits behind another of its channel. -/
theorem test_msgDoneBegins_met : mustDefer (queued { ch := 1, code := 0x0102, req := [1, 0] }) [] 1 0x0102 [1, 0] = false ∧
    mustDefer { hosted with deferred := [{ ch := 1, code := 0x0102 }, { ch := 1, code := 0x0102, req := [1, 0] }] }
      [{ ch := 1, code := 0x0102 }] 1 0x0102 [1, 0] = true ∧
    (match (rowOf 0x0102).handler 1 0 [1, 0] hosted with | .now st _ _ => st == 0 | _ => false) = true := by decide +kernel
theorem test_queueDestroy_ends : ∃ t, exec (.msgDone 0) (queued { ch := 1, code := 0x0105, req := [3, 0], begun := true }) = .next t ∧
    findQueue t 3 = none ∧ t.deferred = [] := ⟨_, rfl, by decide +kernel⟩

/-! R348: requests that firmware carries out. -/
theorem test_identify_met : served hosted 0 1 [] := by
  unfold served
  decide +kernel
theorem test_statusQuery_met : served hosted 0 2 [] ∧ served { hosted with pow := { ({} : Power) with tripHold := true } } 0 2 [] := by
  unfold served
  decide +kernel
theorem test_telemetryRead_met : served hosted 0 3 [3] ∧ served hosted 0 3 [4] := by
  unfold served
  decide +kernel
theorem test_logRead_met : served hosted 0 4 (leBytes 4 0 ++ leBytes 2 47) ∧ served hosted 0 4 (leBytes 4 0 ++ leBytes 2 48) := by
  unfold served
  decide +kernel
theorem test_logReadDump_met : served hosted 0 4 (leBytes 4 0x80000000 ++ leBytes 2 1) ∧ bitOf (field (leBytes 4 0x80000000) 0 4) 31 = true := by
  unfold served
  decide +kernel
theorem test_ctxQuery_met : served hosted 1 0x0102 [1, 1] ∧ served hosted 1 0x0102 [2, 0] ∧ ownsCtx hosted 1 1 = true ∧ ownsCtx hosted 1 2 = false := by
  unfold served
  decide +kernel
theorem test_memQuery_met : served hosted 1 0x0202 (zeros 8) ∧ served hosted 1 0x0202 ([1] ++ zeros 7) := by
  unfold served
  decide +kernel
def ended' (x : StageEnd) : State := { hosted with ends := [(7, x)] }
theorem test_stageqQuery_met : served (ended' { ctx := 1 }) 1 0x0301 [7, 0, 1] ∧ served (ended' { ctx := 2 }) 1 0x0301 [7, 0, 0] ∧
    findEnd (ended' { ctx := 1 }) 7 = some { ctx := 1 } := by
  unfold served
  decide +kernel
theorem test_stageqQueryNone_met : served hosted 1 0x0301 [7, 0, 0] ∧ findEnd hosted 7 = none := by
  unfold served
  decide +kernel
def grouped' (g : Group) : State := { hosted with groups := [(7, g)] }
theorem test_groupQuery_met : served (grouped' (groupOf 1)) 1 0x0311 [7, 0, 1] ∧ served (grouped' { groupOf 1 with ctx := 2 }) 1 0x0311 [7, 0, 0] ∧
    findGroup (grouped' (groupOf 1)) 7 = some (groupOf 1) := by
  unfold served
  decide +kernel
theorem test_groupQueryNone_met : served hosted 1 0x0311 [7, 0, 0] ∧ findGroup hosted 7 = none := by
  unfold served
  decide +kernel
theorem test_fwQuery_met : served hosted 0 0x0500 [] := by
  unfold served
  decide +kernel

theorem test_micaSlices_met : served hosted 0 5 (leBytes 4 0x7F000001) ∧ served hosted 0 5 (leBytes 4 0x80000000) := by
  unfold served
  decide +kernel
/-- Slice 0 mapped by context 2; slice 30 lies in no mapping. -/
def sliced : State := { hosted with ctxs := base.ctxs ++ [(2, { st := .active, maps := [{ va := 0x100000, target := micaBase }] })] }
theorem test_micaSlicesMapped_met : served sliced 0 5 (leBytes 4 0x7F000001) ∧ sliceMapped sliced 0 = true ∧ sliced.micaCache.getLsbD 0 = false ∧
    ((List.range 31).all fun k => sliceMapped hosted k == false) = true := by
  unfold served
  decide +kernel
def bar2Bytes (c : Nat) (v : Nat) : Bytes := leBytes 1 c ++ zeros 7 ++ leBytes 8 v
theorem test_bar2Set_met : served hosted 0 6 (bar2Bytes 0 (2 ^ 36)) ∧ 2 ^ 36 % 2 ^ (getFn hosted 0).bar2Log = 0 ∧ 2 ^ 36 < 8 * ilBytes hosted.id := by
  unfold served
  decide +kernel
theorem test_bar2SetVf_met : served hosted 1 6 (bar2Bytes 1 (2 ^ 48 - 1)) ∧ served hosted 1 6 (bar2Bytes 2 0) := by
  unfold served
  decide +kernel
theorem test_roleSet_met : served hosted 0 0x0320 [0] ∧ served hosted 0 0x0320 [2] ∧ served hosted 0 0x0320 [3] ∧ managerPlace hosted.id = true := by
  unfold served
  decide +kernel
theorem test_leaveRequest_met : served hosted 0 0x0321 [] ∧ served { hosted with fab := { ({} : Fabric) with confirmed := true } } 0 0x0321 [] ∧
    hosted.fab.confirmed = false := by
  unfold served
  decide +kernel
theorem test_powerCapSet_met : served hosted 0 0x0400 (leBytes 2 1200) ∧ served hosted 0 0x0400 (leBytes 2 3501) ∧ hosted.pow.tripHold = false := by
  unfold served
  decide +kernel
/-- A module without a host context. -/
def empty' : State := { State.reset with ctxs := [(0, { st := .active })] }
theorem test_oppointSet_met : served empty' 0 0x0401 [2] ∧ served hosted 0 0x0401 [2] ∧ hostCtxExists empty' = false ∧ hostCtxExists hosted = true := by
  unfold served
  decide +kernel
def alarmBytes (kind t : Nat) : Bytes := leBytes 1 kind ++ zeros 7 ++ leBytes 8 t
theorem test_wakeSet_met : served hosted 0 0x0402 (alarmBytes 0 (hosted.rtcUs + 1)) ∧ served hosted 0 0x0402 (alarmBytes 0 hosted.rtcUs) ∧
    hosted.rtcUs ≠ 0 ∧ hosted.reachedN 65536 = false := by
  unfold served
  decide +kernel
theorem test_wakeSetFrame_met : served hosted 0 0x0402 (alarmBytes 1 0) ∧ served hosted 0 0x0402 (alarmBytes 1 65536) ∧ served hosted 0 0x0402 (alarmBytes 2 0) := by
  unfold served
  decide +kernel

def stageFwBytes (c : Nat) : Bytes := leBytes 1 c ++ zeros 15
theorem test_fwStage_met : served hosted 0 0x0501 (stageFwBytes 2) ∧ served hosted 0 0x0501 (stageFwBytes 1) ∧ ownsCtx hosted 0 2 = true ∧
    ownsCtx hosted 0 1 = false ∧ hosted.id.trial = false := by
  unfold served
  decide +kernel
def flashed (st : SlotState) (trial : Bool) : State := { hosted with id := { ({} : Ident) with slotB := { version := 2, st := st }, trial := trial } }
theorem test_fwActivate_met : served (flashed .valid false) 0 0x0502 (bar2Bytes 0 5) ∧ served (flashed .valid false) 0 0x0502 (bar2Bytes 1 0) ∧
    served (flashed .invalid false) 0 0x0502 (bar2Bytes 0 0) ∧ (otherSlot (flashed .valid false)).st = .valid ∧
    (otherSlot (flashed .invalid false)).st ≠ .valid := by
  unfold served
  decide +kernel
theorem test_fwCommit_met : served (flashed .valid true) 0 0x0503 [] ∧ served (flashed .valid false) 0 0x0503 [] := by
  unfold served
  decide +kernel
theorem test_recalibrate_met : served hosted 0 0x0504 [0, 0] := by
  unfold served
  decide +kernel
def live : Deferred := { code := 0x0502, begun := true, req := bar2Bytes 0 0 }
theorem test_handover_met : (liveUpdate (queued live)).isSome = true ∧ (queued live).activating = none ∧ (queued live).rst.stage = .none ∧
    (liveUpdate hosted).isSome = false := by decide
def handing : State := { queued live with mb := .handover }
theorem test_handoverEnd_met : (∀ f, (getFn handing f).orphans = [] ∧ (getFn handing f).latched = none ∧ (getFn handing f).busy = false) ∧
    handing.mctp.held = [] ∧ liveUpdate handing = some live := by
  refine ⟨fun f => ?_, by decide, by decide⟩
  rcases Nat.eq_zero_or_pos f with rfl | h
  · decide
  · have h' : ¬0 = f := Nat.ne_of_lt h
    simp [getFn, handing, queued, hosted, base, State.reset, Tbl.get, Tbl.find?, h']
def switching (done old : Bool) : State := { queued live with
  activating := some (0, 0, 0, done), cmds := [{ cmdOf (desc 0 []) with oldUcode := old }] }
theorem test_fwActivated_met : (switching true false).activating = some (0, 0, 0, true) ∧ ((switching true false).cmds.any fun c => c.oldUcode) = false ∧
    ((switching true true).cmds.any fun c => c.oldUcode) = true := by decide
def trying (u : Nat) : State := { flashed .valid true with mb := .booting, sup := { ({} : Supply) with bothU := u } }
theorem test_trialReversion_met : (trying 0).sup.in40 = true ∧ (trying 0).since 0 secU = true ∧
    ({ trying 0 with tb := { ({} : TimeBase) with nowU := 2 * secU } } : State).since 0 (2 * secU) = true ∧
    (trying 98304000000000000).since 98304000000000000 (2 * secU) = false := by decide +kernel

def createBytes (want n mode : Nat) : Bytes := leBytes 1 want ++ [0] ++ leBytes 2 n ++ leBytes 4 mode ++ leBytes 4 0
theorem test_ctxCreate_met : served hosted 1 0x0100 (createBytes 0 0 7) ∧ bits 7 31 8 = 0 ∧ bits 7 5 3 = 0 ∧ freeCtxs hosted ≠ [] := by
  unfold served
  decide +kernel
theorem test_ctxCreateNamed_met : served hosted 1 0x0100 (createBytes 3 1 0) ∧ 3 ∈ freeCtxs hosted ∧ freeRuns hosted 1 ≠ [] ∧
    freeRuns hosted 1021 = [] := by
  unfold served
  decide +kernel
theorem test_ctxCreateTaken_met : served hosted 1 0x0100 (createBytes 2 0 0) ∧ 2 ∉ freeCtxs hosted := by
  unfold served
  decide +kernel
theorem test_counterGrant_met : served hosted 1 0x0103 ([1, 0] ++ leBytes 2 1) ∧ served hosted 1 0x0103 ([1, 0] ++ leBytes 2 1021) ∧
    (getCtx hosted 1).st = .active := by
  unfold served
  decide +kernel
theorem test_ctxDestroy_met : served hosted 1 0x0101 [1] ∧ served hosted 1 0x0101 [2] ∧ (getCtx hosted 1).st ≠ .draining := by
  unfold served
  decide +kernel
def draining : State := { hosted with ctxs := [(0, { st := .active }), (3, { st := .draining })] }
theorem test_ctxDrained_met : drainReady draining 3 = true ∧ drainReady hosted 1 = false := by decide
def freed (u : Nat) : State := { hosted with ctxs := [(3, { freedU := some u })] }
theorem test_ctxNumberRelease_met : (getCtx (freed 0) 3).freedU = some 0 ∧ (freed 0).since 0 (100 * msU) = true ∧
    (freed hosted.tb.nowU).since hosted.tb.nowU (100 * msU) = false := by decide

def queueBytes (n : Nat) : Bytes := [1, 7, BitVec.ofNat 8 n, 6, 0, 0] ++ leBytes 2 2047 ++ leBytes 8 0 ++ leBytes 8 0
theorem test_queueCreate_met : served hosted 1 0x0104 (queueBytes 16) ∧ queueOk (queueBytes 16) = true ∧
    (hosted.queues.filter fun q => q.2.ctx == 1).length < 16 ∧ findQueue hosted 0 = none := by
  unfold served
  decide +kernel
def full : State := { hosted with queues := (List.range 16).map fun i => (i, { ctx := 1 }) }
theorem test_queueCreateFull_met : served full 1 0x0104 (queueBytes 6) ∧ queueOk (queueBytes 6) = true ∧
    16 ≤ (full.queues.filter fun q => q.2.ctx == 1).length := by
  unfold served
  decide +kernel
theorem test_queueDestroy_met : served hosted 1 0x0105 [3, 0] ∧ served hosted 1 0x0105 [4, 0] ∧
    findQueue hosted 3 = some { ctx := 1, ringVa := 0x100000, cqVa := 0x101000 } ∧ findQueue hosted 4 = none := by
  unfold served
  decide +kernel
/-- Cluster 15 of Basalt 7. -/
def grantBytes (mode : Nat) : Bytes := [7, BitVec.ofNat 8 mode] ++ leBytes 2 0x8000 ++ [1, 2]
theorem test_tileGrant_met : served hosted 0 0x0106 (grantBytes 1) ∧ grantOk (grantBytes 1) hosted = true ∧ grantFree (grantBytes 1) hosted = true ∧
    served hosted 0 0x0106 (grantBytes 3) ∧ grantOk (grantBytes 3) hosted = false := by
  unfold served
  decide +kernel
/-- Context 1 runs a load on cluster 0 of Basalt 0, which the grant takes from it. -/
def grantedBusy : State := { granted (cmdOf loadBytes) with ctxs := hosted.ctxs }
def takeBytes : Bytes := [0, 0] ++ leBytes 2 1 ++ [2, 0]
theorem test_tileGrantWaits_met : served grantedBusy 0 0x0106 takeBytes ∧ grantOk takeBytes grantedBusy = true ∧ grantFree takeBytes grantedBusy = false := by
  unfold served
  decide +kernel
/-- One 64 KiB page at VA of context 1: device address, attributes. -/
def mapBytes (va t at' : Nat) : Bytes := [1, BitVec.ofNat 8 at', 0, 0] ++ leBytes 4 1 ++ leBytes 8 va ++ leBytes 8 t ++ leBytes 2 0 ++ [0]
theorem test_map_met : served hosted 1 0x0200 (mapBytes 0x300000 0 1) ∧ mapRefused hosted 1 (mapBytes 0x300000 0 1) = none := by
  unfold served
  decide +kernel
theorem test_mapRefused_met : served hosted 1 0x0200 (mapBytes 0x100000 0 1) ∧ mapRefused hosted 1 (mapBytes 0x100000 0 1) = some 0x0052 ∧
    mapRefused hosted 1 (mapBytes 0 0 1) = some 0x0052 ∧ mapRefused hosted 1 (mapBytes (2 ^ 48 - 0x10000) 0 1) = none ∧
    bitOf (field (mapBytes 0x300000 0 4) 1 1) 2 = true ∧ mapRefused hosted 1 (mapBytes 0x300000 0 4) = none := by
  unfold served
  decide +kernel
def unmapBytes (va : Nat) : Bytes := [1, 0, 0, 0] ++ leBytes 4 1 ++ leBytes 8 va
theorem test_unmap_met : served hosted 1 0x0201 (unmapBytes 0x100000) ∧ (unmapNamed hosted (unmapBytes 0x100000)).isSome = true ∧
    served hosted 1 0x0201 (unmapBytes 0x300000) ∧ unmapNamed hosted (unmapBytes 0x300000) = none := by
  unfold served
  decide +kernel
def stageBytes (own : Nat) : Bytes := [0, 1] ++ leBytes 2 1023 ++ leBytes 2 own ++ leBytes 2 257 ++ leBytes 2 0 ++ leBytes 2 1023 ++ leBytes 2 4096 ++
  [0, 0] ++ leBytes 4 64 ++ leBytes 4 0 ++ leBytes 8 0x200000
theorem test_stageqCreate_met : served hosted 1 0x0300 (stageBytes 256) ∧ stageOk hosted (stageBytes 256) = true ∧ findEnd hosted 1023 = none := by
  unfold served
  decide +kernel
theorem test_stageqCreateTaken_met : served { hosted with ends := [(1023, {})] } 1 0x0300 (stageBytes 256) ∧
    stageOk { hosted with ends := [(1023, {})] } (stageBytes 256) = true := by
  unfold served
  decide +kernel
theorem test_stageqDestroy_met : served (ended' { ctx := 1 }) 1 0x0302 [7, 0] ∧ served hosted 1 0x0302 [7, 0] := by
  unfold served
  decide +kernel
theorem test_channelMapout_met : served hosted 0 0x0203 [7, 31] ∧ Tbl.get .normal hosted.pow.chans (7 * 32 + 31) = .normal ∧ mapoutBad hosted 7 = false ∧
    slabPages hosted 7 true = [] ∧ slabPages hosted 7 false = [] := by
  unfold served
  decide +kernel
def outOf (live' : BitVec 8) (chans : Tbl ChanState) : State := { hosted with pow := { ({} : Power) with liveOut := live', chans := chans } }
theorem test_channelMapoutRefused_met : served (outOf 0x80 []) 0 0x0203 [7, 31] ∧ mapoutBad (outOf 0x80 []) 7 = true ∧
    served (outOf 0 [(255, .out)]) 0 0x0203 [7, 31] ∧ Tbl.get .normal (outOf 0 [(255, .out)]).pow.chans 255 = .out := by
  unfold served
  decide +kernel
theorem test_noSlabMaps_met : ∀ x, (getCtx hosted x).maps.filter (inSlab hosted.id 7) = [] := by
  intro x
  rcases x with _ | _ | _ | x
  · decide
  · decide +kernel
  · decide
  · simp [getCtx, hosted, base, Tbl.get, Tbl.find?]
def setBytes' (gn mode : Nat) : Bytes := leBytes 2 gn ++ [BitVec.ofNat 8 mode, 0, 1] ++ zeros 3 ++ leBytes 4 1 ++ leBytes 4 1 ++ leBytes 8 0x100000
theorem test_groupSet_met : served hosted 1 0x0310 (setBytes' 0xFFFE 0) ∧ readTable hosted (setBytes' 0xFFFE 0) = some [0] ∧
    Tbl.find? hosted.groups 0xFFFE = none ∧ bits (0 : BitVec 32).toNat 31 23 = 0 ∧ served hosted 1 0x0310 (setBytes' 1 1) ∧
    served hosted 1 0x0310 (setBytes' 1 3) := by
  unfold served
  decide +kernel
def known : State := { hosted with fab := { ({} : Fabric) with known := [(1, [0x1000])] } }
theorem test_groupSetRemove_met : served known 1 0x0310 (setBytes' 1 2) ∧ (1, [0x1000]) ∈ known.fab.known ∧ Tbl.find? known.groups 1 = none := by
  unfold served
  decide +kernel
def leaving : Deferred := { code := 0x0203, begun := true, req := [7, 31] }
theorem test_ownMapout_met : (7, 31) ∈ ({ hosted with pow := { ({} : Power) with ownOut := [(7, 31)] } } : State).pow.ownOut ∧
    ((List.range 8).all fun k => !mapoutRuns hosted k) = true := by decide
theorem test_mapoutComplete_met : leaving ∈ (queued leaving).deferred ∧ (queued leaving).ctxs.any (fun c => c.2.maps.any (inSlab (queued leaving).id 7)) = false ∧
    ({ hosted with ctxs := [(1, { maps := [{ target := stackBase 7 + slabStart hosted.id 7 }] })] } : State).ctxs.any
      (fun c => c.2.maps.any (inSlab hosted.id 7)) = true := by decide +kernel

/-- R305: granule 31 of a stack lies on its channel 31, granule 0 on channel 0. -/
theorem test_degradedChannel : mayErr (outOf 0 [(255, .degraded)]) (stackBase 7 + 31 * 256) = true ∧
    mayErr (outOf 0 [(255, .degraded)]) (stackBase 7) = false ∧ mayErr (outOf 0 [(255, .out)]) (stackBase 7 + 31 * 256) = false := by
  decide +kernel

/-! ### MCTP (O54) -/

def mctpReq (code : Nat) (d : Bytes) : Bytes := [0, 0x85, BitVec.ofNat 8 code] ++ d
theorem test_mctp_met : mctpIs 1 2 (mctpReq 1 [1, 8]) = true ∧ mctpIs 1 2 (mctpReq 1 [2, 8]) = true ∧ mctpIs 1 2 (mctpReq 1 [0, 255]) = true ∧
    mctpIs 2 0 (mctpReq 2 []) = true ∧ mctpIs 4 1 (mctpReq 4 [0x7E]) = true ∧ mctpIs 5 0 (mctpReq 5 []) = true ∧
    mctpIs 6 1 (mctpReq 6 [0]) = true ∧ hosted.sup.aux = true := by decide

/-! ### Host access, resets of functions, supplies (O55, O56) -/

theorem test_bar2Drains_met : fnDrains { base with ctxs := [(3, { st := .draining, owner := 0, quiet := true })] } 0 = true ∧ fnDrains base 0 = false ∧
    fnDrains base 1 = false := by decide +kernel
theorem test_bar2Pf_met : hostUp base = true ∧ base.sup.in40 = true ∧ 0 + 4 ≤ 2 ^ (getFn base 0).bar2Log ∧ anyDiscard base = false ∧
    base.pow.pst ≠ .sleep ∧ base.pref = [] ∧ (getFn base 0).bar2Off + 0 + 4 ≤ 8 * ilBytes base.id ∧
    2 ^ (getFn base 0).bar2Log < (2 ^ 36 - 3) + 4 ∧ (getFn base 0).bar2Log = 36 := by decide +kernel
def viewed : State := { base with fns := [(1, { bar2Ctx := some 1, bar2Base := 0x200000 })] }
def okRead (x : EStateM.Result EngStop Eng Bytes) : Bool :=
  match x with
  | .ok _ _ => true
  | _ => false
def okWrite (x : EStateM.Result EngStop Eng Unit) : Bool :=
  match x with
  | .ok _ _ => true
  | _ => false
theorem test_bar2Vf_met : bar2CtxOf base 1 = none ∧ bar2CtxOf viewed 1 = some 1 ∧
    okRead (readV ((getFn viewed 1).bar2Base + 0xFFFC) 4 { s := viewed, ctx := 1, owner := 2 * (4096 + 1) + 1 }) = true ∧
    okWrite (writeV ((getFn viewed 1).bar2Base + 0xFFFC) [1, 2, 3, 4] { s := viewed, ctx := 1, owner := 2 * (4096 + 1) + 1 }) = true ∧
    0xFFFC + 4 ≤ 2 ^ (getFn viewed 1).bar2Log := by decide +kernel
theorem test_bar2_writes_the_window : ∃ t, exec (.bar2Access 0 true 0 2 [8, 9]) base = .next t ∧ memReadN t.mem 0x010000000000 3 = [8, 9, 0] :=
  ⟨_, rfl, by decide +kernel⟩
theorem test_flr_met : base.sup.perst = false ∧ (getCtx base 1).owner ∈ [1] ∧ (getCtx base 1).st = .active ∧
    ({ base with sup := { ({} : Supply) with perst := true } } : State).sup.perst = true ∧ (Tbl.find? base.fns 0).isSome = true := by decide
theorem test_flr_drains_its_contexts : ∃ t, exec (.flr 1) base = .next t ∧ (getCtx t 1).st = .draining ∧ (getCtx t 0).st = .active :=
  ⟨_, rfl, by decide +kernel⟩

def off (aux : Bool) (u : Nat) : State := { base with
  mb := .booting
  sup := { ({} : Supply) with in40 := false, v40 := false, aux := aux, offU := some u } }
theorem test_supply_met : (off false 0).sup.aux = false ∧ (off false 0).sup.v40 = false ∧ base.sup.aux = true ∧ base.sup.v40 = true ∧
    (off true 0).sup.aux = true ∧ ({ base with sup := { ({} : Supply) with aux := false } } : State).sup.v40 = true := by decide
theorem test_startUp_met : offLongEnough (off true (98304000000000000 - 100 * msU)) = true ∧
    offLongEnough (off true (98304000000000000 - 100 * msU + 1)) = false ∧ (off true 0).id.trialNext = false ∧ (off true 0).id.trial = false ∧
    (off true 0).id.activeB = false := by decide +kernel
theorem test_startUp_boots : ∃ t, exec (.startUp true true true) (off true 0) = .next t ∧ t.mb = .booting ∧ t.sup.in40 = true := ⟨_, rfl, by decide +kernel⟩
def alarmed (s : State) (time : Nat) : State := { s with pow := { ({} : Power) with rtcAlarm := some time } }
theorem test_rtcAlarm_met : (alarmed (off true 0) 1500000).rtcUs = 1500000 ∧ (alarmed (off true 0) 1500001).rtcUs < 1500001 ∧
    (alarmed base 0).pow.rtcAlarm = some 0 ∧ (alarmed base 0).sup.in40 = true := by decide +kernel
def booting (u : Nat) (st : SlotState) : State := { base with
  mb := .booting
  sup := { ({} : Supply) with bothU := u }
  id := { ({} : Ident) with dx := 1, slotA := { version := 1, st := st } } }
theorem test_startUpMailbox_met : (booting (98304000000000000 - 900 * msU) .valid).since (98304000000000000 - 900 * msU) (900 * msU) = true ∧
    (booting (98304000000000000 - 900 * msU + 1) .valid).since (98304000000000000 - 900 * msU + 1) (900 * msU) = false ∧
    activeValid (booting 0 .valid) = true ∧ activeValid (booting 0 .invalid) = false ∧ torusPorts (booting 0 .valid).id = [0, 1] := by decide +kernel
def calibrating (u : Nat) : State := { booting u .valid with mb := .calibrating }
theorem test_startUpFull_met : (calibrating 0).since 0 (1500 * msU) = true ∧ (calibrating 1).since 1 (1500 * msU) = false ∧ (calibrating 0).sup.slowCal = false := by
  decide +kernel
theorem test_critical_met : (1150 : BitVec 16).toInt = 1150 ∧ (1149 : BitVec 16).toInt < 1150 ∧ (1250 : BitVec 16).toInt = 1250 ∧ base.sup.in40 = true := by decide
theorem test_critical_at_its_limits : (∃ t, exec (.criticalTemp 8 1150) base = .next t ∧ t.sup.tripLow = true) ∧
    ∃ t, exec (.criticalTemp 7 1150) base = .next t ∧ t.sup.tripLow = false := ⟨⟨_, rfl, by decide +kernel⟩, ⟨_, rfl, by decide +kernel⟩⟩
def tripped (u : Nat) : State := { off true u with sup := { (off true u).sup with critOff := true, tripLow := true } }
theorem test_thermtripRelease_met : (tripped 0).sup.offU = some 0 ∧ (tripped 0).since 0 secU = true ∧
    (tripped (98304000000000000 - secU + 1)).since (98304000000000000 - secU + 1) secU = false := by decide +kernel

/-! ### Power and compute reset (O57-O59) -/

def heat (d : Nat) (x : Int) : List Int := modAt (List.replicate 20 250) d (fun _ => x)
def waking (l : List Packet) : State := { base with pow := { ({} : Power) with pst := .doze, wake := true, heldAdds := l } }
theorem test_thermalSample_met : sampledTemps base (heat 8 950) = heat 8 950 ∧ sampledTemps base (heat 8 1050) = heat 8 1050 ∧
    sampledTemps base (heat 8 850) = heat 8 850 ∧ dieGated (waking []) 18 = true ∧ dieGated (waking []) 16 = false ∧ throttleAt 8 ≤ (heat 8 950).getD 8 250 ∧ (heat 8 1049).getD 8 250 < tripAt 8 ∧ tripAt 8 ≤ (heat 8 1050).getD 8 250 ∧
    base.pow.throttled = List.replicate 20 false ∧ base.pow.tripHold = false ∧ base.rst.stage = .none ∧ base.mb ≠ .handover ∧
    (∀ d, d < 20 → d ≠ 8 → (heat 8 950).getD d 250 < throttleAt d) ∧ (∀ d, d < 20 → (heat 8 850).getD d 250 ≤ throttleAt d - 100) := by
  decide +kernel
theorem test_retrain_met : tbRuns base = true ∧ Tbl.get .normal base.pow.chans 255 ≠ .out ∧ retrainDue base 255 330 = true ∧
    retrainDue base 255 329 = false := by decide +kernel
theorem test_limiter_caps_the_ramp : ∃ t, exec (.limiterTick {}) base = .next t ∧ t.pow.framp = List.replicate 8 1 := ⟨_, rfl, by decide +kernel⟩
def capped (b : Bool) (u : Option Nat) : State := { base with pow := { ({} : Power) with capUnmet := b, capClearU := u } }
theorem test_capUnmet_met : capBad base 3536 = true ∧ capBad base 3535 = false ∧ (capped true none).pow.capUnmet = true ∧
    capBad (capped true none) 0 = false ∧ (capped true (some 0)).since 0 secU = true ∧
    (capped true (some 98304000000000000)).since 98304000000000000 secU = false := by decide +kernel
/-- Idle in a power state since t. -/
def resting (p : PowerState) (t : Option Nat) : State := { empty' with pow := { ({} : Power) with pst := p, idleU := t } }
theorem test_rest_met : mayRest (resting .active (some 0)) = true ∧ idleFor (resting .active (some 0)) (2 * msU) = true ∧
    mayRest (resting .idle (some 0)) = true ∧ idleFor (resting .idle (some 0)) (500 * msU) = true ∧
    (!anyBlocked (resting .idle (some 0)) && !mapsMica (resting .idle (some 0))) = true ∧
    mayRest (resting .doze (some 0)) = true ∧ (!anyShared (resting .doze (some 0))) = true ∧
    idleFor (resting .active (some 98304000000000000)) (2 * msU) = false := by decide +kernel
/-- 60 s idle. -/
def long : State := { resting .doze (some 0) with tb := { ({} : TimeBase) with nowU := 60 * secU } }
theorem test_sleep_met : idleFor long (60 * secU) = true ∧ mayRest long = true ∧ (!anyShared long) = true := by decide +kernel
def framed (f : W64) : State := { resting .idle none with pow := { ({} : Power) with pst := .idle, frameAlarm := some f } }
theorem test_frameWake_met : (framed 65).pow.frameAlarm = some 65 ∧
    (66 : W64).toNat ≤ (framed 66).ftw.toNat + ceilDiv (exitU .idle) (max 1 (framed 66).tb.period.toNat) ∧
    (framed 67).ftw.toNat + ceilDiv (exitU .idle) (max 1 (framed 67).tb.period.toNat) < (67 : W64).toNat := by decide +kernel
/-- The time 65 is not reached; it is one that a step to 100 skipped, and a command waits for 60. -/
def skipping : State := { framed 65 with
  tb := { ({} : TimeBase) with phase := 100, skipFrom := 50, skipTo := 100 }
  cmds := [{ cmdOf (desc 0x04 [(24, 8, 60)]) with st := .started }] }
theorem test_frameWakeOrder_met : (framed 65).reached 65 = false ∧ skipping.reached 65 = true ∧ mayAct skipping 65 = false := by decide +kernel
theorem test_exit_met : (waking []).pow.pst ≠ .active ∧ (waking []).pow.wake = true ∧ refuseCtx (waking [addPkt]) 1 = none ∧
    ctrOwned (waking [addPkt]) 1 (field addPkt.payload 0 2) = true ∧ base.pow.wake = false := by decide +kernel
theorem test_exit_applies_the_held_add : ∃ t, exec .exitToActive (waking [addPkt]) = .next t ∧ ctrGet t 256 = 5 := ⟨_, rfl, by decide +kernel⟩

theorem test_unitError_met : tbRuns base = true ∧ (0x10 : BitVec 8).toNat = 0x10 ∧ (0x27 : BitVec 8).toNat < 0x28 ∧ base.rst.stage = .none ∧
    base.mb ≠ .handover ∧ cmdUnit (work copyBytes) (cmdOf copyBytes) = (0x20 : BitVec 8).toNat ∧
    cmdUnit (work copyBytes) (cmdOf copyBytes) ≠ (0x10 : BitVec 8).toNat := by decide +kernel
def staged (x : ResetStage) (m : MbState) : State := { work copyBytes with rst := { ({} : ResetRun) with stage := x }, mb := m }
theorem test_resetStages_met : (staged .detected .computeReset).rst.stage = .detected ∧ (staged .fenced .computeReset).rst.named = [] ∧
    (staged .dumped .computeReset).rst.stage = .dumped ∧ (staged .reset .computeReset).pow.tripHold = false ∧
    (staged .reset .computeReset).feeds = [] := by decide
/-- A COPY without REPLAYABLE ends with RESET_ABORTED; one with it (one bit of FLAGS) is replayed. -/
theorem test_replays_met : replays (staged .reset .computeReset) (cmdOf copyBytes) = false ∧
    (∃ n < 8, replays (staged .reset .computeReset) (cmdOf (setBytes copyBytes 1 (leBytes 1 (2 ^ n)))) = true) := by decide +kernel
theorem test_fence_goes_on : ∃ t, exec .resetFence (staged .detected .computeReset) = .next t ∧ t.rst.stage = .fenced := ⟨_, rfl, by decide +kernel⟩

end Sys2Proof.Tests
end

section
/-!
The values at supply (O5), the writes of the time base registers (O7) and the accesses of the other registers (O9).
-/
namespace Sys2Proof.Machine

/-! ### Supply (O5) -/

/-- A table of one entry answers its default at every other key. -/
theorem Tbl.get_singleton_ne {α : Type} {d a : α} {k j : Nat} (h : j ≠ k) : Tbl.get d [(k, a)] j = d := by
  simp [Tbl.get, Tbl.find?, Ne.symm h]

/-- R43: only context 0 is in use at supply. -/
theorem reset_getCtx_of_ne_zero {c : Nat} (h : c ≠ 0) : getCtx State.reset c = {} := Tbl.get_singleton_ne h

/-- R59: no sync counter is set at supply. -/
theorem reset_ctrGet (n : Nat) : ctrGet State.reset n = 0 := rfl

/-- Settles O5: the values are those of the state's fields, and memory holds the one byte of the dump directory. -/
theorem supplyValuesMeetTheInvariants : Obligations.SupplyValuesMeetTheInvariants := by
  unfold Obligations.SupplyValuesMeetTheInvariants
  have other : ∀ c, c ≠ 0 → (getCtx State.reset c).st = .free := fun c h => by rw [reset_getCtx_of_ne_zero h]
  have newest : memRead State.reset.mem (dumpBase State.reset.id + 8) = 0xFF := by decide
  have canonical : State.reset.memOk := by decide
  have periods : State.reset.periodInRange := by decide
  exact ⟨⟨rfl, rfl, rfl, rfl, rfl, rfl, rfl, other, reset_ctrGet, rfl, rfl, rfl, newest⟩, canonical, periods⟩

/-! ### Time base registers (O7) -/

/-- R338: the PF, and no other function, writes the running time base of a module whose host is not held in reset. -/
theorem pfWrites_eq {s : State} (hp : s.sup.perst = false) (ht : tbRuns s = true) (fn : Nat) : pfWrites s fn = decide (fn = 0) := by
  simp [pfWrites, hp, ht]

theorem periodOk_iff {p : BitVec 41} : periodOk p = true ↔ 40000000 ≤ p.toNat ∧ p.toNat ≤ 2000000000000 := by
  simp [periodOk]

/-- A function that may not write the time base changes nothing by its three writes. -/
theorem timeBaseWrites_refused {s : State} {fn : Nat} (h : pfWrites s fn = false) (v : W64) :
    exec (.tbCtrlWrite fn v) s = .next s ∧ exec (.tbPeriodSetWrite fn v) s = .next s ∧ exec (.tbPeriodAtWrite fn v) s = .next s := by
  simp [exec, execTbCtrlWrite, execTbPeriodSetWrite, execTbPeriodAtWrite, h]

/-- R28, R29, R420: what a write of TB_CTRL by the PF changes. -/
theorem execTbCtrlWrite_pf {s : State} {fn : Nat} (h : pfWrites s fn = true) (v : W64) :
    execTbCtrlWrite fn v s = .next { s with
      tb := { s.tb with frameOutEn := v.getLsbD 4,
                        sourceField := if v.extractLsb' 0 2 = 3 then s.tb.sourceField else v.extractLsb' 0 2 }
      sup := { s.sup with frameOut := if v.getLsbD 4 then s.sup.frameOut else .low } } :=
  congrArg Host.Outcome.next (if_pos h)

/-- Settles O7: each register's write by the PF in turn, then the refusal of every other function. -/
theorem timeBaseRegisterWrites : Obligations.TimeBaseRegisterWrites := by
  unfold Obligations.TimeBaseRegisterWrites
  intro s v hp ht
  have pf : pfWrites s 0 = true := by simp [pfWrites_eq hp ht]
  refine ⟨?ctrl, ?periodSet, ?periodAt, ?others⟩
  case ctrl => exact ⟨_, execTbCtrlWrite_pf pf v, rfl, rfl, rfl⟩
  case periodSet => simp only [exec, execTbPeriodSetWrite, pf, if_true, periodOk_iff]
  case periodAt => simp only [exec, execTbPeriodAtWrite, pf, if_true, armPeriod]
  case others =>
    intro fn h
    exact timeBaseWrites_refused (by simp [pfWrites_eq hp ht, h]) v

/-! ### Register accesses (O9) -/

/-- R338: a write at an aligned offset, by the register that it names. -/
theorem exec_registerWrite {s : State} {off : Nat} (hu : hostUp s = true) (ha : off % 8 = 0) (fn : Nat) (v : W64) :
    exec (.registerWrite fn off v) s = .next (
      if off = 0x10 then if pfWrites s fn then writeTbStatus v s else s
      else if 0x2000 ≤ off ∧ off < 0x6000 then writeMailbox fn (off - 0x2000) v s
      else if 0x10000 ≤ off ∧ off < 0x18000 then writeMsix fn off v s
      else s) := by
  simp [exec, execRegisterWrite, hu, ha]

/-- A write in the mailbox window acts on the writing function's channel. -/
theorem exec_registerWrite_mailbox {s : State} {off : Nat} (hu : hostUp s = true) (ha : off % 8 = 0) (lo : 0x2000 ≤ off)
    (hi : off < 0x6000) (fn : Nat) (v : W64) :
    exec (.registerWrite fn off v) s = .next (writeMailbox fn (off - 0x2000) v s) := by
  rw [exec_registerWrite hu ha, if_neg (by omega), if_pos ⟨lo, hi⟩]

/-- Two changes of a function that agree on it as it is are the same change. -/
theorem modFn_congr {s : State} {fn : Nat} {f g : Fn → Fn} (h : f (getFn s fn) = g (getFn s fn)) : modFn fn f s = modFn fn g s := by
  unfold modFn
  rw [h]

/-- R344: while BUSY a write of the request buffer only sets OVERRUN. -/
theorem writeMailbox_busy {s : State} {fn off : Nat} (hb : (getFn s fn).busy = true) (lo : 0x400 ≤ off) (hi : off < 0x1000) (v : W64) :
    writeMailbox fn off v s = modFn fn (fun f => { f with overrun := true }) s := by
  unfold writeMailbox
  rw [if_neg (by omega), if_neg (by omega), if_neg (by omega), if_pos ⟨lo, hi⟩]
  exact modFn_congr (if_pos hb)

theorem getPort_modPort_self {s : State} {p : Nat} {f : Port → Port} : getPort (modPort p f s) p = f (getPort s p) := Tbl.get_put_self

theorem getPort_modPort_ne {s : State} {p q : Nat} {f : Port → Port} (h : q ≠ p) : getPort (modPort p f s) q = getPort s q :=
  Tbl.get_put_ne h

/-- R10: the RC fields of TB_COUNTS. -/
theorem clearReg_counts (s : State) : clearReg 0x30 s = { s with tb := { s.tb with holdovers := 0, rejected := 0, accepted := 0 } } := rfl

/-- R10: the RC fields of PORT_ERR. -/
theorem clearReg_portErr {p : Nat} (h : p < 8) (s : State) :
    clearReg (0x1108 + 0x20 * p) s = modPort p (fun x => { x with replays := 0, hdrCrc := 0, fecUncorr := 0, retunes := 0 }) s := by
  have port : (0x1108 + 0x20 * p - 0x1100) / 0x20 = p := by omega
  unfold clearReg
  rw [if_neg (by omega), if_pos (by omega), port, if_pos (by omega)]

/-- R10: the RC fields of PORT_DROP. -/
theorem clearReg_portDrop {p : Nat} (h : p < 8) (s : State) :
    clearReg (0x1110 + 0x20 * p) s = modPort p (fun x => { x with downDrop := 0, unroutable := 0 }) s := by
  have port : (0x1110 + 0x20 * p - 0x1100) / 0x20 = p := by omega
  unfold clearReg
  rw [if_neg (by omega), if_pos (by omega), port, if_neg (by omega), if_pos (by omega)]

/-- A read of any other register clears nothing. -/
theorem clearReg_other {off : Nat} (hc : off ≠ 0x30) (hp : off < 0x1100 ∨ 0x1200 ≤ off ∨ off % 0x20 ≠ 0x08 ∧ off % 0x20 ≠ 0x10)
    (s : State) : clearReg off s = s := by
  unfold clearReg
  rw [if_neg hc]
  split
  · rw [if_neg (by omega), if_neg (by omega)]
  · rfl

/-- What a read clears: a register with RC fields is TB_COUNTS, or PORT_ERR or PORT_DROP of a port. -/
theorem clearReg_cases (off : Nat) : off = 0x30 ∨ (∃ p < 8, off = 0x1108 + 0x20 * p) ∨ (∃ p < 8, off = 0x1110 + 0x20 * p) ∨
    off ≠ 0x30 ∧ (off < 0x1100 ∨ 0x1200 ≤ off ∨ off % 0x20 ≠ 0x08 ∧ off % 0x20 ≠ 0x10) := by
  by_cases h : off = 0x30 ∨ off < 0x1100 ∨ 0x1200 ≤ off
  · omega
  · by_cases e : off % 0x20 = 0x08
    · exact .inr (.inl ⟨(off - 0x1100) / 0x20, by omega, by omega⟩)
    · by_cases d : off % 0x20 = 0x10
      · exact .inr (.inr (.inl ⟨(off - 0x1100) / 0x20, by omega, by omega⟩))
      · omega

/-- A read clears fields of the time base and of the ports alone. -/
theorem clearReg_frame (off : Nat) (s : State) :
    clearReg off s = { s with tb := (clearReg off s).tb, fab := { s.fab with ports := (clearReg off s).fab.ports } } := by
  obtain rfl | ⟨p, hp, rfl⟩ | ⟨p, hp, rfl⟩ | ⟨hc, hp⟩ := clearReg_cases off
  · rfl
  · rw [clearReg_portErr hp]
    rfl
  · rw [clearReg_portDrop hp]
    rfl
  · rw [clearReg_other hc hp]

/-- TB_COUNTS alone has RC fields of the time base. -/
theorem clearReg_tb {off : Nat} (h : off ≠ 0x30) (s : State) : (clearReg off s).tb = s.tb := by
  obtain rfl | ⟨p, hp, rfl⟩ | ⟨p, hp, rfl⟩ | ⟨hc, hp⟩ := clearReg_cases off
  · exact absurd rfl h
  · rw [clearReg_portErr hp, modPort_tb]
  · rw [clearReg_portDrop hp, modPort_tb]
  · rw [clearReg_other hc hp]

/-- Only a read of PORT_ERR or PORT_DROP of a port touches the fabric. -/
theorem clearReg_fab {off : Nat} (h : off < 0x1100 ∨ 0x1200 ≤ off ∨ off % 0x20 ≠ 0x08 ∧ off % 0x20 ≠ 0x10) (s : State) :
    (clearReg off s).fab = s.fab := by
  by_cases hc : off = 0x30
  · rw [hc, clearReg_counts]
  · rw [clearReg_other hc h]

/-- A read of a port's register leaves every other port as it is. -/
theorem clearReg_getPort_ne {off q : Nat} (h : off / 0x20 ≠ 0x88 + q) (s : State) : getPort (clearReg off s) q = getPort s q := by
  obtain rfl | ⟨p, hp, rfl⟩ | ⟨p, hp, rfl⟩ | ⟨hc, hp⟩ := clearReg_cases off
  · rfl
  · rw [clearReg_portErr hp, getPort_modPort_ne (by omega)]
  · rw [clearReg_portDrop hp, getPort_modPort_ne (by omega)]
  · rw [clearReg_other hc hp]

/-- R337: a read of an aligned offset puts the register's value on the bus, then clears its RC fields. -/
theorem exec_readToClear {s : State} {off : Nat} (hu : hostUp s = true) (ha : off % 8 = 0) (hi : off < 0x20000) (fn : Nat) :
    exec (.readToClear fn off) s = .next (clearReg off { s with bus := s.bus ++ [leBytes 8 (readReg fn off s)] }) := by
  simp [exec, execReadToClear, hu, ha, hi]

/-- Settles O9: the writes by the register that they name, the reads by what `clearReg` does to each field. -/
theorem registerAccessesActOnNamedFields : Obligations.RegisterAccessesActOnNamedFields := by
  unfold Obligations.RegisterAccessesActOnNamedFields
  refine ⟨fun s fn off v hu ha => ?writes, fun s fn off hu ha hi => ?reads⟩
  case writes =>
    have mailbox := exec_registerWrite_mailbox hu ha (fn := fn) (v := v)
    refine ⟨?status, ?refused, ?mbStatus, ?eventVec, ?eventHead, ?busy, ?none⟩
    case status =>
      rintro rfl pf
      rw [exec_registerWrite hu ha, if_pos rfl, if_pos pf, writeTbStatus]
    case refused =>
      rintro rfl pf
      rw [exec_registerWrite hu ha, if_pos rfl, pf, if_neg Bool.false_ne_true]
    case mbStatus =>
      rintro rfl
      exact mailbox (by omega) (by omega)
    case eventVec =>
      rintro rfl
      exact mailbox (by omega) (by omega)
    case eventHead =>
      rintro rfl
      exact mailbox (by omega) (by omega)
    case busy =>
      intro lo hi hb
      rw [mailbox (by omega) (by omega), writeMailbox_busy hb (by omega) (by omega)]
    case none =>
      intro h
      rw [exec_registerWrite hu ha, if_neg (by omega), if_neg (by omega), if_neg (by omega)]
  case reads =>
    refine ⟨_, exec_readToClear hu ha hi fn, ?bus, ?frame, ?counts, ?time, ?fabric, ?port, ?plain, ?portErr, ?portDrop, ?outside⟩
    case bus => rw [clearReg_frame]
    case frame => rw [clearReg_frame]
    case counts =>
      rintro rfl
      rw [clearReg_counts]
      exact ⟨rfl, rfl⟩
    case time => exact fun h => clearReg_tb h _
    case fabric => rw [clearReg_frame]
    case port => exact fun p _ h => clearReg_getPort_ne h _
    case plain => exact fun h h' => clearReg_fab (.inr (.inr ⟨h, h'⟩)) _
    case portErr =>
      rintro p hp rfl
      rw [clearReg_portErr hp, getPort_modPort_self]
      rfl
    case portDrop =>
      rintro p hp rfl
      rw [clearReg_portDrop hp, getPort_modPort_self]
      rfl
    case outside => exact fun h => clearReg_fab (by omega) _

end Sys2Proof.Machine
end

section
/-!
Work of the vector cores that turns one core into another, whatever the machine: the rules by which the work of an instruction
is put together, and what an instruction row whose work is of this kind comes to.
-/
namespace Sys2Proof.Machine

/-- Work of a core that turns r into r', whatever the machine: without a trap, a stop or a remote access, and with nothing else
changed but the core table's entry. -/
def Turns (key : Nat) (act : EngM Unit) (r r' : Core) : Prop :=
  ∀ e : Eng, e.trap = none → Tbl.find? e.s.cores key = some r →
    ∃ cs, act e = .ok () { e with s := { e.s with cores := cs } } ∧ Tbl.find? cs key = some r' ∧
      ∀ j, j ≠ key → Tbl.find? cs j = Tbl.find? e.s.cores j

theorem turns_pure (key : Nat) (r : Core) : Turns key (pure ()) r r := fun e _ hr => ⟨e.s.cores, rfl, hr, fun _ _ => rfl⟩

theorem Turns.bind {key : Nat} {act act' : EngM Unit} {r r' r'' : Core} (h : Turns key act r r') (h' : Turns key act' r' r'') :
    Turns key (act >>= fun _ => act') r r'' := by
  intro e ht hr
  obtain ⟨cs, ha, hf, ho⟩ := h e ht hr
  obtain ⟨cs', ha', hf', ho'⟩ := h' { e with s := { e.s with cores := cs } } ht hf
  refine ⟨cs', ?_, hf', fun j hj => (ho' j hj).trans (ho j hj)⟩
  simp only [Bind.bind, EStateM.bind, ha, ha']

/-- Work may begin by reading the core. -/
theorem turns_myCore {x : Vx} {f : Core → EngM Unit} {r r' : Core} (h : Turns x.key (f r) r r') :
    Turns x.key (myCore x >>= f) r r' := by
  intro e ht hr
  obtain ⟨cs, ha, hf⟩ := h e ht hr
  refine ⟨cs, ?_, hf⟩
  rw [← getCore_find hr] at ha
  exact ha

theorem turns_setCore (x : Vx) (f : Core → Core) (r : Core) : Turns x.key (setCore x f) r (f r) := by
  intro e _ hr
  refine ⟨Tbl.ins e.s.cores x.key (f r), ?_, Tbl.find_ins_self, fun j hj => Tbl.find_ins_ne hj⟩
  show EStateM.Result.ok () { e with s := modCore x.key f e.s } = _
  rw [modCore_find hr]
  rfl

theorem turns_unlessTrapped {key : Nat} {act : EngM Unit} {r r' : Core} (h : Turns key act r r') :
    Turns key (unlessTrapped act) r r' := by
  intro e ht hr
  obtain ⟨cs, ha, hf⟩ := h e ht hr
  refine ⟨cs, ?_, hf⟩
  simp only [unlessTrapped, Bind.bind, EStateM.bind, get, getThe, MonadStateOf.get, EStateM.get, ht, ha]

theorem turns_putS (x : Vx) {n : Nat} {v : W64} {r : Core} : Turns x.key (putS x n v) r (Core.setS n v r) :=
  turns_unlessTrapped (turns_setCore x _ r)

theorem turns_putE (x : Vx) {n ew i v : Nat} {r : Core} : Turns x.key (putE x n ew i v) r (Core.setE n ew i v r) :=
  turns_unlessTrapped (turns_setCore x _ r)

theorem turns_putM (x : Vx) {n i : Nat} {b : Bool} {r : Core} : Turns x.key (putM x n i b) r (Core.setM n i b r) :=
  turns_unlessTrapped (turns_setCore x _ r)

theorem stopTrap_none {e : Eng} (h : e.trap = none) (before : W64) : stopTrap before e = .ok () e := by
  simp only [stopTrap, Bind.bind, EStateM.bind, get, getThe, MonadStateOf.get, EStateM.get, h]
  rfl

theorem turns_stopTrap (key : Nat) (before : W64) (r : Core) : Turns key (stopTrap before) r r :=
  fun e ht hr => ⟨e.s.cores, stopTrap_none ht before, hr, fun _ _ => rfl⟩

/-- A choice of work. -/
theorem turns_ite {key : Nat} {p : Prop} [Decidable p] {act act' : EngM Unit} {r r' r'' : Core} (h : Turns key act r r')
    (h' : Turns key act' r r'') : Turns key (if p then act else act') r (if p then r' else r'') := by
  split
  · exact h
  · exact h'

/-- Writes of a list of items, in order. -/
theorem turns_forM {α : Type} {key : Nat} {act : α → EngM Unit} {f : Core → α → Core} (h : ∀ a r, Turns key (act a) r (f r a))
    (l : List α) (r : Core) : Turns key (l.forM act) r (l.foldl f r) := by
  induction l generalizing r with
  | nil => exact turns_pure key r
  | cons a l ih => exact (h a r).bind (ih (f r a))

/-- An instruction row whose work turns the core that fetched it into r'. -/
theorem coreNow_of_turns {s u : State} {b c code w : Nat} {d : Cmd} {r r' : Core} {work : Vx → EngM Unit}
    (h : s.fetches u b c code w d) (hr : Tbl.find? u.cores (b * 64 + c) = some r)
    (hw : Turns (b * 64 + c) (work (s.vx b c w d)) r r') : u.coreNow (coreRow b c code work s) b c r' := by
  obtain ⟨cs, ha, hf, ho⟩ := hw { s := u, ctx := d.ctx, owner := 2 * d.k } rfl hr
  rw [coreRow_fetches h]
  exact runCore_ok (x := s.vx b c w d) ha rfl hf rfl rfl rfl ho

end Sys2Proof.Machine
end

section
/-!
The scalar integer instructions and the branches of the vector cores (O26).
-/
namespace Sys2Proof.Machine

/-- A scalar instruction: its work, then the next instruction. -/
theorem turns_scalarDo {x : Vx} {work : Core → EngM Unit} {r r' : Core} (h : Turns x.key (work r) r r') :
    Turns x.key (scalarDo x work) r { r' with pc := r'.pc + 4 } :=
  turns_myCore (h.bind ((turns_stopTrap x.key 0 r').bind (turns_setCore x _ r')))

theorem setS_pc (n : Nat) (v : W64) (r : Core) : (Core.setS n v r).pc = r.pc := by
  unfold Core.setS
  split <;> rfl

theorem setS_vresume (n : Nat) (v : W64) (r : Core) : (Core.setS n v r).vresume = r.vresume := by
  unfold Core.setS
  split <;> rfl

/-- R144: a scalar instruction that writes one value to sd. -/
theorem coreNow_putS {s u : State} {b c code w : Nat} {d : Cmd} {r : Core} {val : Nat → Core → W64} (h : s.fetches u b c code w d)
    (hr : Tbl.find? u.cores (b * 64 + c) = some r) :
    u.coreNow (coreRow b c code (fun x => scalarDo x fun r => putS x (wD x.w) (val x.w r)) s) b c
      { Core.setS (wD w) (val w r) r with pc := r.pc + 4 } := by
  rw [← setS_pc (wD w) (val w r) r]
  exact coreNow_of_turns h hr (turns_scalarDo (x := s.vx b c w d) (turns_putS (s.vx b c w d)))

/-- R144: a three-register integer instruction. -/
theorem coreNow_saluRow {s u : State} {b c f w : Nat} {d : Cmd} {r : Core} {op : W64 → W64 → W64}
    (h : s.fetches u b c (0x100 + f) w d) (hr : Tbl.find? u.cores (b * 64 + c) = some r) :
    u.coreNow (saluRow b c f op s) b c { Core.setS (wD w) (op (r.getS (wA w)) (r.getS (wB w))) r with pc := r.pc + 4 } :=
  coreNow_putS (val := fun w r => op (r.getS (wA w)) (r.getS (wB w))) h hr

/-- R144: the high half of the 128-bit product. -/
theorem mulHigh_eq (x y : W64) : mulHigh x y = (x.signExtend 128 * y.signExtend 128).extractLsb' 64 64 := by
  have product : x.signExtend 128 * y.signExtend 128 = BitVec.ofInt 128 (x.toInt * y.toInt) := (BitVec.ofInt_mul ..).symm
  rw [product, mulHigh]
  generalize x.toInt * y.toInt = z
  apply BitVec.eq_of_toNat_eq
  simp only [BitVec.toNat_ofInt, BitVec.extractLsb'_toNat, Nat.shiftRight_eq_div_pow]
  omega

/-- R13, R144: the truncated quotient. -/
theorem sdivide_eq (x y : W64) : sdivide x y = if y = 0 then BitVec.allOnes 64 else x.sdiv y := by
  unfold sdivide
  split
  · rfl
  · apply BitVec.eq_of_toInt_eq
    rw [BitVec.toInt_sdiv, BitVec.toInt_ofInt]

/-- R13, R144: the remainder of the truncated quotient. -/
theorem sremain_eq (x y : W64) : sremain x y = if y = 0 then x else x.srem y := by
  unfold sremain
  split
  · rfl
  · rw [← BitVec.toInt_srem, BitVec.ofInt_toInt]

theorem slt_flag (x y : W64) : flag64 (x.slt y) = if x.toInt < y.toInt then 1 else 0 := by
  simp [flag64, BitVec.slt]

theorem ult_flag (x y : W64) : flag64 (x.ult y) = if x.toNat < y.toNat then 1 else 0 := by
  simp [flag64, BitVec.ult]

/-- R137: s0 reads as zero and discards writes. -/
theorem getS_zero (r : Core) : r.getS 0 = 0 := if_pos rfl

theorem setS_zero (r : Core) (v : W64) : Core.setS 0 v r = r := if_pos rfl

/-- A scalar register reads as it was last written. -/
theorem getS_setS_self {r : Core} {k : Nat} (v : W64) (hl : r.s.length = 32) (h0 : 0 < k) (hk : k < 32) : (Core.setS k v r).getS k = v := by
  simp [Core.getS, Core.setS, Nat.ne_of_gt h0, List.getD, hl, hk]

/-- Writing a scalar register leaves the others as they are. -/
theorem getS_setS_ne {r : Core} {j k : Nat} (v : W64) (h : j ≠ k) : (Core.setS k v r).getS j = r.getS j := by
  unfold Core.getS Core.setS
  split
  · rfl
  · split
    · rfl
    · simp [List.getD, List.getElem?_set_ne (Ne.symm h)]

/-- What the statement asks of an arithmetic row: the machine after it, and the value that its operation gives. -/
theorem saluRow_gives {s u : State} {b c f w : Nat} {d : Cmd} {r : Core} {op : W64 → W64 → W64} {P : W64 → W64 → W64 → Prop}
    (h : s.fetches u b c (0x100 + f) w d) (hr : Tbl.find? u.cores (b * 64 + c) = some r) (hP : ∀ x y, P x y (op x y)) :
    ∃ t v, (Host.Outcome.next (saluRow b c f op s) : Host.Outcome State Fault Refusal) = .next t ∧
      P (r.getS (wA w)) (r.getS (wB w)) v ∧ u.coreNow t b c { Core.setS (wD w) v r with pc := r.pc + 4 } :=
  ⟨_, _, rfl, hP _ _, coreNow_saluRow h hr⟩

/-- Log entry 20: a shift's value is stated for a count below 64 alone. -/
theorem shiftRow_gives {s u : State} {b c f w : Nat} {d : Cmd} {r : Core} {op : W64 → Nat → W64}
    (h : s.fetches u b c (0x100 + f) w d) (hr : Tbl.find? u.cores (b * 64 + c) = some r) :
    ∃ t v, (Host.Outcome.next (shiftRow b c f op s) : Host.Outcome State Fault Refusal) = .next t ∧
      ((r.getS (wB w)).toNat < 64 → v = op (r.getS (wA w)) (r.getS (wB w)).toNat) ∧
      u.coreNow t b c { Core.setS (wD w) v r with pc := r.pc + 4 } :=
  saluRow_gives (P := fun x y v => y.toNat < 64 → v = op x y.toNat) h hr fun _ _ hy => if_pos hy

/-- R144: a branch sets the pc alone. -/
theorem coreNow_branchRow {s u : State} {b c code w : Nat} {d : Cmd} {r : Core} {taken : W64 → W64 → Bool}
    (h : s.fetches u b c code w d) (hr : Tbl.find? u.cores (b * 64 + c) = some r) :
    u.coreNow (branchRow b c code taken s) b c
      { r with pc := if taken (r.getS (wD w)) (r.getS (wA w)) then r.pc + 4 * immW w else r.pc + 4 } :=
  coreNow_of_turns h hr (turns_setCore (s.vx b c w d) _ r)

/-- Settles O26: each arithmetic row by the value of its operation, the branches by the pc that they set. -/
theorem scalarIntegerAndBranchInstructions : Obligations.ScalarIntegerAndBranchInstructions := by
  unfold Obligations.ScalarIntegerAndBranchInstructions
  refine ⟨⟨?arithmetic, fun r v => ⟨getS_zero r, setS_zero r v⟩,
    fun r k v hl h0 hk => ⟨getS_setS_self v hl h0 hk, fun j hj => getS_setS_ne v hj⟩⟩, ?branches⟩
  case arithmetic =>
    intro s u b c w d r o ho hf hr
    simp only [List.mem_cons, List.not_mem_nil, or_false] at ho
    rcases ho with rfl | rfl | rfl | rfl | rfl | rfl | rfl | rfl | rfl | rfl | rfl | rfl | rfl | rfl | rfl | rfl
    · -- S.ADD
      exact saluRow_gives hf hr fun _ _ => rfl
    · -- S.SUB
      exact saluRow_gives hf hr fun _ _ => rfl
    · -- S.AND
      exact saluRow_gives hf hr fun _ _ => rfl
    · -- S.OR
      exact saluRow_gives hf hr fun _ _ => rfl
    · -- S.XOR
      exact saluRow_gives hf hr fun _ _ => rfl
    · -- SHL
      exact shiftRow_gives hf hr
    · -- SHR
      exact shiftRow_gives hf hr
    · -- SRA
      exact shiftRow_gives hf hr
    · -- MUL
      exact saluRow_gives hf hr fun _ _ => rfl
    · -- MULH
      exact saluRow_gives hf hr mulHigh_eq
    · -- DIV
      exact saluRow_gives hf hr sdivide_eq
    · -- REM
      exact saluRow_gives hf hr sremain_eq
    · -- SLT
      exact saluRow_gives hf hr slt_flag
    · -- SLTU
      exact saluRow_gives hf hr ult_flag
    · -- ADDI
      exact ⟨_, _, rfl, rfl, coreNow_putS (val := fun w r => r.getS (wA w) + immW w) hf hr⟩
    · -- SHLI
      exact ⟨_, _, rfl, rfl, coreNow_putS (val := fun w r => (r.getS (wA w) <<< 16) ||| BitVec.ofNat 64 (w % 65536)) hf hr⟩
  case branches =>
    intro s u b c w d r hr
    refine ⟨fun hf => ⟨_, rfl, ?bne⟩, fun hf => ⟨_, rfl, ?blt⟩, fun hf => ⟨_, rfl, ?jal⟩⟩
    case bne =>
      have h := coreNow_branchRow (taken := (· != ·)) hf hr
      simp only [bne_iff_ne, ne_eq, ite_not] at h
      exact h
    case blt =>
      have h := coreNow_branchRow (taken := BitVec.slt) hf hr
      simp only [BitVec.slt, decide_eq_true_eq] at h
      exact h
    case jal => exact coreNow_of_turns hf hr (turns_setCore (s.vx b c w d) _ r)

end Sys2Proof.Machine
end

section
/-!
The vector instructions: element-resumable work and whole work, then the integer, mask, move and permute rows (O30).
-/
namespace Sys2Proof.Machine

/-- Work may begin by reading the unit. -/
theorem turns_get {key : Nat} {f : Eng → EngM Unit} {r r' : Core} (h : ∀ e, Turns key (f e) r r') :
    Turns key (get >>= f) r r' := fun e => h e e

/-- The trap rule of a destination adds nothing to work that does not trap (R158). -/
theorem turns_destWork {key : Nat} {act : EngM Unit} {r r' : Core} (h : Turns key act r r') (x : Vx) (d : Dest) :
    Turns key (destWork x d act) r r' := by
  intro e ht hr
  obtain ⟨cs, ha, hf⟩ := h e ht hr
  refine ⟨cs, ?_, hf⟩
  simp only [destWork, ha, ht, Option.isSome_none, Bool.false_eq_true, if_false]

/-- What an element's write does to a core: VRESUME, the pc and VTYPE do not enter it. -/
structure ElemStep {α : Type} (g : Core → α → Core) : Prop where
  vresume : ∀ y i v, g { y with vresume := v } i = { g y i with vresume := v }
  pc : ∀ y i, (g y i).pc = y.pc
  fmt : ∀ y i, (g y i).fmt = y.fmt

theorem ElemStep.foldl_vresume {α : Type} {g : Core → α → Core} (hg : ElemStep g) (is : List α) (y : Core) (v : BitVec 12) :
    is.foldl g { y with vresume := v } = { is.foldl g y with vresume := v } := by
  induction is generalizing y with
  | nil => rfl
  | cons i is ih => rw [List.foldl_cons, hg.vresume, ih, List.foldl_cons]

theorem ElemStep.foldl_pc {α : Type} {g : Core → α → Core} (hg : ElemStep g) (is : List α) (y : Core) : (is.foldl g y).pc = y.pc := by
  induction is generalizing y with
  | nil => rfl
  | cons i is ih => rw [List.foldl_cons, ih, hg.pc]

theorem ElemStep.foldl_keeps_vresume {α : Type} {g : Core → α → Core} (hg : ElemStep g) (is : List α) (y : Core) :
    (is.foldl g y).vresume = y.vresume :=
  (congrArg Core.vresume (hg.foldl_vresume is y y.vresume) :)

/-- Writing an element of a group, of a value that does not depend on VRESUME. -/
theorem elemStep_setE {α : Type} {n ew : Nat} {pos : α → Nat} {val : Core → α → Nat}
    (h : ∀ y a v, val { y with vresume := v } a = val y a) : ElemStep fun y a => Core.setE n ew (pos a) (val y a) y where
  vresume y a v := by rw [h]; rfl
  pc _ _ := rfl
  fmt _ _ := rfl

/-- Writing a mask bit that does not depend on VRESUME. -/
theorem elemStep_setM {n : Nat} {val : Core → Nat → Bool} (h : ∀ y i v, val { y with vresume := v } i = val y i) :
    ElemStep fun y i => Core.setM n i (val y i) y where
  vresume y i v := by rw [h]; rfl
  pc _ _ := rfl
  fmt _ _ := rfl

/-- R157: the elements are written in ascending order, whatever VRESUME says meanwhile, unless the core is interrupted. -/
theorem turns_elemLoop {x : Vx} {f : Nat → EngM Unit} {g : Core → Nat → Core} {fmt : BitVec 8} (hg : ElemStep g)
    (hf : ∀ i y, y.fmt = fmt → Turns x.key (f i) y (g y i)) (is : List Nat) :
    ∀ (n : Nat) (y : Core), is.length ≤ n → y.fmt = fmt →
      ∃ v, Turns x.key (elemLoop x f n is) y { is.foldl g y with vresume := v } := by
  induction is with
  | nil =>
    intro n y _ _
    refine ⟨y.vresume, ?_⟩
    cases n <;> exact turns_pure x.key y
  | cons i is ih =>
    intro n y hn hy
    obtain ⟨n, rfl⟩ : ∃ m, n = m + 1 := Nat.exists_eq_succ_of_ne_zero (by rintro rfl; simp at hn)
    have element := hf i { y with vresume := BitVec.ofNat 12 i } hy
    rw [hg.vresume] at element
    obtain ⟨v, rest⟩ := ih n { g y i with vresume := BitVec.ofNat 12 i } (by simpa using hn) ((hg.fmt y i).trans hy)
    rw [hg.foldl_vresume] at rest
    exact ⟨v, (turns_setCore x _ y).bind (turns_get fun e => element.bind ((turns_stopTrap x.key e.sticky _).bind rest))⟩

theorem length_activeElems_le (x : Vx) (r : Core) : (activeElems x r).length ≤ 4096 := by
  have h : (activeElems x r).length ≤ ((List.range r.len).drop r.vresume.toNat).length := List.length_filter_le _ _
  have l : r.len < 4096 := r.vl.isLt
  simp only [List.length_drop, List.length_range] at h
  omega

/-- R140, R141, R157: an element-resumable instruction on legal registers that is not interrupted. -/
theorem turns_vecElems {x : Vx} {legal : Core → Bool} {f : Nat → EngM Unit} {g : Core → Nat → Core} {r : Core} (hg : ElemStep g)
    (hf : ∀ i y, y.fmt = r.fmt → Turns x.key (f i) y (g y i)) (hv : r.invalid = false) (hl : legal r = true) (hx : x.limit = 4096) :
    Turns x.key (vecElems x legal f) r { (activeElems x r).foldl g r with vresume := 0, pc := r.pc + 4 } := by
  refine turns_myCore ?_
  simp only [hv, hl, Bool.not_true, Bool.or_false, Bool.false_eq_true, if_false]
  obtain ⟨v, loop⟩ := turns_elemLoop hg hf (activeElems x r) x.limit r (hx ▸ length_activeElems_le x r) rfl
  have done := turns_setCore x (fun c => { c with vresume := 0, pc := c.pc + 4 }) { (activeElems x r).foldl g r with vresume := v }
  rw [hg.foldl_pc] at done
  exact loop.bind done

/-- R140, R141, R157: an instruction that is not element-resumable, on legal registers: at VL 0 it writes nothing. -/
theorem turns_vecWhole {x : Vx} {legal : Core → Bool} {dest : Core → Dest} {work : Core → EngM Unit} {r r' : Core}
    (hw : Turns x.key (work r) r r') (hv : r.invalid = false) (hl : legal r = true) (h0 : r.vresume = 0)
    (hvr : r'.vresume = r.vresume) (hpc : r'.pc = r.pc) :
    Turns x.key (vecWhole x legal dest (pure ()) work) r { (if r.len = 0 then r else r') with pc := r.pc + 4 } := by
  have done : ∀ y : Core, y.vresume = 0 → y.pc = r.pc → Turns x.key (vecDone x) y { y with pc := r.pc + 4 } := by
    intro y hy hp
    have same : ({ y with vresume := 0, pc := y.pc + 4 } : Core) = { y with pc := r.pc + 4 } := by rw [hp, ← hy]
    exact same ▸ turns_setCore x (fun c => { c with vresume := 0, pc := c.pc + 4 }) y
  refine turns_myCore ?_
  simp only [hv, hl, h0, Bool.not_true, Bool.or_false, bne_self_eq_false, Bool.false_eq_true, if_false]
  refine (turns_destWork (turns_pure x.key r) x (dest r)).bind ?_
  by_cases hn : r.len = 0
  · simp only [hn, ne_eq, not_true_eq_false, if_false, if_true]
    exact done r h0 rfl
  · simp only [hn, ne_eq, not_false_eq_true, if_false, if_true]
    exact (turns_destWork hw x (dest r)).bind ((turns_stopTrap x.key 0 r').bind (done r' (hvr.trans h0) hpc))

/-- VTYPE.FMT alone gives the element width. -/
theorem ew_of_fmt {y r : Core} (h : y.fmt = r.fmt) : y.ew = r.ew := by
  rw [Core.ew, Core.efmt, h]
  rfl

@[simp] theorem vx_w (s : State) (b c w : Nat) (d : Cmd) : (s.vx b c w d).w = w := rfl

section
variable {s u : State} {b c w : Nat} {d : Cmd} {r : Core}

/-- An element-resumable row whose element work is a write `g` of one element. -/
theorem coreNow_vecElems {code : Nat} {legal : Nat → Core → Bool} {f : Vx → Nat → EngM Unit} {g : Core → Nat → Core}
    (h : s.fetches u b c code w d) (hr : Tbl.find? u.cores (b * 64 + c) = some r) (hv : r.invalid = false) (hl : legal w r = true)
    (hx : elemLimit s d = 4096) (hg : ElemStep g) (hf : ∀ i y, y.fmt = r.fmt → Turns (b * 64 + c) (f (s.vx b c w d) i) y (g y i)) :
    u.coreNow (coreRow b c code (fun x => vecElems x (legal x.w) (f x)) s) b c
      { (activeElems { w := w } r).foldl g r with vresume := 0, pc := r.pc + 4 } :=
  coreNow_of_turns h hr (turns_vecElems (x := s.vx b c w d) hg hf hv hl hx)

/-- R145: the rows of VINT. -/
theorem coreNow_vintRow {op : Nat} {f : Nat → Nat → Nat → Nat} (h : s.fetches u b c (0x2300 + op) w d)
    (hr : Tbl.find? u.cores (b * 64 + c) = some r) (hv : r.invalid = false) (hl : vintLegal w r = true) (hx : elemLimit s d = 4096) :
    u.coreNow (vintRow b c op f s) b c { (activeElems { w := w } r).foldl (fun y i =>
      Core.setE (wD w) r.ew i (f r.ew (y.getE (wA w) r.ew i) (y.op1 w r.ew i)) y) r with vresume := 0, pc := r.pc + 4 } := by
  refine coreNow_vecElems (legal := vintLegal) h hr hv hl hx (elemStep_setE (pos := id) fun _ _ _ => rfl) fun i y hy => ?_
  rw [← ew_of_fmt hy]
  exact turns_myCore (x := s.vx b c w d) (turns_putE _)

/-- R145: the comparisons. -/
theorem coreNow_vcmpRow {op : Nat} {f : Int → Int → Bool} (h : s.fetches u b c (0x2300 + op) w d)
    (hr : Tbl.find? u.cores (b * 64 + c) = some r) (hv : r.invalid = false) (hl : (intCore r && vcmpLegal w r) = true)
    (hx : elemLimit s d = 4096) :
    u.coreNow (vcmpRow b c op f s) b c { (activeElems { w := w } r).foldl (fun y i =>
      Core.setM (wD w) i (f (signed r.ew (y.getE (wA w) r.ew i)) (signed r.ew (y.op1 w r.ew i))) y) r with
        vresume := 0, pc := r.pc + 4 } := by
  refine coreNow_vecElems (legal := fun w r => intCore r && vcmpLegal w r) h hr hv hl hx (elemStep_setM fun _ _ _ => rfl) fun i y hy => ?_
  rw [← ew_of_fmt hy]
  exact turns_myCore (x := s.vx b c w d) (turns_putM _)

/-- A VMP row whose work turns the core into r' without touching VRESUME and the pc. -/
theorem coreNow_vmpRow {f : Nat} {legal : Nat → Core → Bool} {work : Vx → Core → EngM Unit} {r' : Core}
    (h : s.fetches u b c (0x2500 + f) w d) (hr : Tbl.find? u.cores (b * 64 + c) = some r) (hv : r.invalid = false)
    (h0 : r.vresume = 0) (hl : legal w r = true) (hw : Turns (b * 64 + c) (work (s.vx b c w d) r) r r')
    (hvr : r'.vresume = r.vresume) (hpc : r'.pc = r.pc) :
    u.coreNow (vmpRow b c f legal work s) b c { (if r.len = 0 then r else r') with pc := r.pc + 4 } :=
  coreNow_of_turns h hr (turns_vecWhole (x := s.vx b c w d) hw hv hl h0 hvr hpc)

/-- A VMP row whose work is a list of writes, one for each item. -/
theorem coreNow_vmpRow_forM {α : Type} {f : Nat} {legal : Nat → Core → Bool} {work : Vx → Core → EngM Unit} {l : List α}
    {act : α → EngM Unit} {g : Core → α → Core} (h : s.fetches u b c (0x2500 + f) w d)
    (hr : Tbl.find? u.cores (b * 64 + c) = some r) (hv : r.invalid = false) (h0 : r.vresume = 0) (hl : legal w r = true)
    (hwork : work (s.vx b c w d) r = l.forM act) (hg : ElemStep g) (hact : ∀ a y, Turns (b * 64 + c) (act a) y (g y a)) :
    u.coreNow (vmpRow b c f legal work s) b c { (if r.len = 0 then r else l.foldl g r) with pc := r.pc + 4 } :=
  coreNow_vmpRow h hr hv h0 hl (hwork ▸ turns_forM hact l r) (hg.foldl_keeps_vresume l r) (hg.foldl_pc l r)

/-- A VMP row that writes elements of a group, each of a value of the core before. -/
theorem coreNow_vmpRow_elems {f : Nat} {legal : Nat → Core → Bool} {work : Vx → Core → EngM Unit} {l : List Nat} {val : Nat → Nat}
    (h : s.fetches u b c (0x2500 + f) w d) (hr : Tbl.find? u.cores (b * 64 + c) = some r) (hv : r.invalid = false)
    (h0 : r.vresume = 0) (hl : legal w r = true)
    (hwork : work (s.vx b c w d) r = l.forM fun i => putE (s.vx b c w d) (wD w) r.ew i (val i)) :
    u.coreNow (vmpRow b c f legal work s) b c
      { (if r.len = 0 then r else l.foldl (fun y i => Core.setE (wD w) r.ew i (val i) y) r) with pc := r.pc + 4 } :=
  coreNow_vmpRow_forM h hr hv h0 hl hwork (elemStep_setE (pos := id) fun _ _ _ => rfl) fun _ _ => turns_putE (s.vx b c w d)

/-- A VMP row that writes one scalar register. -/
theorem coreNow_vmpRow_scalar {f : Nat} {legal : Nat → Core → Bool} {work : Vx → Core → EngM Unit} {v : W64}
    (h : s.fetches u b c (0x2500 + f) w d) (hr : Tbl.find? u.cores (b * 64 + c) = some r) (hv : r.invalid = false)
    (h0 : r.vresume = 0) (hl : legal w r = true) (hwork : work (s.vx b c w d) r = putS (s.vx b c w d) (wD w) v) :
    u.coreNow (vmpRow b c f legal work s) b c { (if r.len = 0 then r else Core.setS (wD w) v r) with pc := r.pc + 4 } :=
  coreNow_vmpRow h hr hv h0 hl (hwork ▸ turns_putS (s.vx b c w d)) (setS_vresume ..) (setS_pc ..)

end

/-- R148: the lowest set bit. -/
theorem head_setBits (r : Core) (w : Nat) : (setBits r w).head? = (List.range r.len).find? fun i => r.getM (wA w) i :=
  List.head?_filter ..

/-- Settles O30: each element-resumable row by its element's write, each other row by the writes of its work. -/
theorem vectorIntegerAndPermuteInstructions : Obligations.VectorIntegerAndPermuteInstructions := by
  unfold Obligations.VectorIntegerAndPermuteInstructions
  refine ⟨fun s u b c w d r o ho hf hr hv hl hx => ?elements, fun s u b c w d r o ho hf hr hv h0 hl => ?whole⟩
  case elements =>
    rcases List.mem_append.mp ho with ho | ho
    · obtain ⟨p, hp, rfl⟩ := List.mem_map.mp ho
      have row : ∃ f : Nat → Nat → Nat → Nat, exec p.1 s = .next (vintRow b c p.2.1 f s) ∧ f r.ew = p.2.2 := by
        simp only [List.mem_cons, List.not_mem_nil, or_false] at hp
        rcases hp with rfl | rfl | rfl | rfl | rfl | rfl | rfl | rfl | rfl | rfl | rfl | rfl <;> exact ⟨_, rfl, rfl⟩
      obtain ⟨f, he, hp⟩ := row
      have now := coreNow_vintRow (f := f) hf hr hv hl hx
      rw [hp] at now
      exact ⟨_, he, now⟩
    · simp only [List.mem_cons, List.not_mem_nil, or_false] at ho
      rcases ho with rfl | rfl | rfl
      · exact ⟨_, rfl, coreNow_vcmpRow hf hr hv hl hx⟩
      · exact ⟨_, rfl, coreNow_vcmpRow hf hr hv hl hx⟩
      · refine ⟨_, rfl, coreNow_vecElems (legal := fun w r => decide (r.efmt < 3) && widenLegal w r) hf hr hv hl hx
          (elemStep_setE (pos := id) fun _ _ _ => rfl) fun i y hy => ?_⟩
        rw [← ew_of_fmt hy]
        exact turns_myCore (x := s.vx b c w d) (turns_putE _)
  case whole =>
    simp only [List.mem_cons, List.not_mem_nil, or_false] at ho
    rcases ho with rfl | rfl | rfl | rfl | rfl | rfl | rfl | rfl | rfl | rfl | rfl | rfl | rfl | rfl
    · -- VMLOG
      exact ⟨_, rfl, coreNow_vmpRow_forM hf hr hv h0 hl rfl (elemStep_setM fun _ _ _ => rfl) fun _ _ => turns_putM (s.vx b c w d)⟩
    · -- VMCOUNT
      exact ⟨_, rfl, coreNow_vmpRow_scalar hf hr hv h0 hl rfl⟩
    · -- VMLOW
      refine ⟨_, rfl, coreNow_vmpRow_scalar hf hr hv h0 hl (congrArg (putS (s.vx b c w d) (wD w)) ?_)⟩
      rw [vx_w, ← head_setBits]
      cases (setBits r w).head? <;> rfl
    · -- VSEL
      exact ⟨_, rfl, coreNow_vmpRow_elems hf hr hv h0 hl rfl⟩
    · -- VCOPY
      exact ⟨_, rfl, coreNow_vmpRow_elems hf hr hv h0 hl rfl⟩
    · -- VINS
      refine ⟨_, rfl, coreNow_vmpRow hf hr hv h0 hl (turns_ite (turns_putE (s.vx b c w d)) (turns_pure _ r)) ?_ ?_⟩ <;>
        dsimp only <;> split <;> rfl
    · -- VEXT
      exact ⟨_, rfl, coreNow_vmpRow_scalar hf hr hv h0 hl rfl⟩
    · -- VELUP
      exact ⟨_, rfl, coreNow_vmpRow_elems hf hr hv h0 hl rfl⟩
    · -- VELDN
      exact ⟨_, rfl, coreNow_vmpRow_elems hf hr hv h0 hl rfl⟩
    · -- VPERM
      exact ⟨_, rfl, coreNow_vmpRow_elems hf hr hv h0 hl rfl⟩
    · -- VPACK
      refine ⟨_, rfl, coreNow_vmpRow_forM hf hr hv h0 hl ?_ (elemStep_setE (pos := Prod.fst) fun _ _ _ => rfl)
        fun p y => turns_putE (s.vx b c w d)⟩
      simp only [List.length_map, List.zip_map_right, List.forM_eq_forM, List.forM_map]
      rfl
    · -- VINDEX
      exact ⟨_, rfl, coreNow_vmpRow_elems hf hr hv h0 hl rfl⟩
    · -- VISUM
      exact ⟨_, rfl, coreNow_vmpRow hf hr hv h0 hl (turns_putE (s.vx b c w d)) rfl rfl⟩
    · -- VSPLAT
      exact ⟨_, rfl, coreNow_vmpRow_elems hf hr hv h0 hl rfl⟩

end Sys2Proof.Machine
end

section
/-!
The checks of a mailbox request in their order, its answer, and MSG_DONE of a deferred request (O47).
-/
namespace Sys2Proof.Machine

/-! ### A request written to a free channel -/

/-- R348: each row of the mailbox is the submission of its message. -/
theorem exec_mailboxRows {s : State} {ch : Nat} {req : Bytes} {row : Nat × Instr} (h : row ∈ mailboxRows ch req) :
    exec row.2 s = .next (mailboxRow row.1 ch req s) := by
  simp only [mailboxRows, List.cons_append, List.nil_append, List.mem_cons, List.not_mem_nil, or_false] at h
  rcases h with rfl | rfl | rfl | rfl | rfl | rfl | rfl | rfl | rfl | rfl | rfl | rfl | rfl | rfl | rfl | rfl | rfl | rfl | rfl | rfl
    | rfl | rfl | rfl | rfl | rfl | rfl | rfl | rfl | rfl | rfl | rfl | rfl <;> rfl

theorem mailboxRow_of_code {ch code : Nat} {req : Bytes} {s : State} (h : field req 0 2 = code) :
    mailboxRow code ch req s = submitReq ch req s := if_neg (not_not_intro h)

/-- R344: a READY module answers a request on a free channel at once. -/
theorem submitReq_ready {s : State} {ch : Nat} {req : Bytes} (hc : ch < 32) (hu : hostUp s = true) (hi : s.sup.in40 = true)
    (hb : (getFn s ch).busy = false) (hm : s.mb = .ready) : submitReq ch req s = answerReq ch req (s.given ch req) := by
  have ready : (wakeUp (modFn ch (fun f => { f with reqBuf := padTo 3072 req }) s)).mb = .ready := (given_mb s ch req).trans hm
  unfold submitReq
  rw [if_neg (by omega), if_neg (by simp [hu, hi]; omega), if_neg (by simp [hb])]
  simp only [ready, Bool.false_eq_true, if_false]
  rfl

section
variable {ch : Nat} {req : Bytes} {r : MsgRow} {s : State}

/-- R344: the first check. -/
theorem serveReq_badCheck (h : checkOk req = false) : serveReq ch req s = (stIntegrity, [], s) := by
  simp only [serveReq, h, Bool.not_false, if_true]

/-- R346: a reserved code. -/
theorem serveReq_reservedCode (h : checkOk req = true) (hr : msgRow (field req 0 2) = none) (hc : ch < 32) :
    serveReq ch req s = (stBadMessage, [], s) := by
  simp only [serveReq, h, hr, Bool.not_true, Bool.false_eq_true, if_false, if_neg (by omega : ch ≠ 32)]

variable (h : checkOk req = true) (hr : msgRow (field req 0 2) = some r)
include h hr

/-- R348: the second check. -/
theorem serveReq_badSender (hs : maySend r.sender ch = false) : serveReq ch req s = (stNotPermitted, [], s) := by
  simp only [serveReq, h, hr, hs, Bool.not_true, Bool.not_false, Bool.false_eq_true, if_false, if_true]

variable (hs : maySend r.sender ch = true)
include hs

/-- R343: the third check. -/
theorem serveReq_badHeader (hh : headerZero req = false) : serveReq ch req s = (stBadArgument, [], s) := by
  simp only [serveReq, h, hr, hs, hh, Bool.not_true, Bool.not_false, Bool.false_eq_true, if_false, if_true]

variable (hh : headerZero req = true)
include hh

/-- R346: the fourth check. -/
theorem serveReq_badLength (hl : 3040 < field req 8 2 ∨ lengthFits r (reqBody req).length = false) :
    serveReq ch req s = (stBadMessage, [], s) := by
  have wrong : (decide (3040 < field req 8 2) || !lengthFits r (reqBody req).length) = true := by simpa using hl
  simp only [serveReq, h, hr, hs, hh, wrong, Bool.not_true, Bool.false_eq_true, if_false, if_true]

variable (hl : field req 8 2 ≤ 3040) (hf : lengthFits r (reqBody req).length = true)
include hl hf

/-- R6, R346: the fifth check. -/
theorem serveReq_badReserved (hz : reservedZero r (reqBody req) = false) : serveReq ch req s = (stBadArgument, [], s) := by
  simp only [serveReq, h, hr, hs, hh, hf, hz, Nat.not_lt.mpr hl, decide_false, Bool.not_true, Bool.not_false, Bool.or_false,
    Bool.false_eq_true, if_false, if_true]

/-- R345: a request that passes every check and must wait. -/
theorem serveReq_deferred (hz : reservedZero r (reqBody req) = true)
    (hd : mustDefer s s.deferred ch (field req 0 2) (reqBody req) = true) :
    serveReq ch req s =
      (stDeferred, [], deferReq ch (field req 0 2) (field req 4 4) (reqBody req) false [] 0 s) := by
  simp only [serveReq, h, hr, hs, hh, hf, hz, hd, Nat.not_lt.mpr hl, decide_false, Bool.not_true, Bool.or_false,
    Bool.false_eq_true, if_false, if_true]

end

/-- The answer of a request whose serving is known. -/
theorem answerReq_of_serveReq {ch st : Nat} {req out : Bytes} {s u : State} (h : serveReq ch req s = (st, out, u)) :
    answerReq ch req s = u.answered ch req st out := by
  rw [answerReq, h]
  rfl

/-- R344: GO while BUSY. -/
theorem exec_overrun_busy {s : State} {ch : Nat} (req : Bytes) (hc : ch < 32) (hu : hostUp s = true) (hb : (getFn s ch).busy = true) :
    exec (.overrun ch req) s = .next (modFn ch (fun f => { f with overrun := true }) s) :=
  congrArg Host.Outcome.next (if_pos ⟨hc, hu, hb⟩)

/-- R346: a reserved code is submitted by its own row. -/
theorem exec_mailboxReservedCode {s : State} {ch : Nat} {req : Bytes} (h : msgRow (field req 0 2) = none) :
    exec (.mailboxReservedCode ch req) s = .next (submitReq ch req s) := by
  simp only [exec, execMailboxReservedCode, h, if_true]

/-! ### The answer -/

theorem getFn_modFn_self {s : State} {fn : Nat} {f : Fn → Fn} : getFn (modFn fn f s) fn = f (getFn s fn) := Tbl.get_put_self

/-- An interrupt changes of its function the pending vectors alone. -/
theorem getFn_raiseMsix (fn v : Nat) (s : State) :
    ∃ p, getFn (raiseMsix fn v s) fn = { getFn s fn with msixPend := p } := by
  unfold raiseMsix
  dsimp only
  split
  · exact ⟨_, getFn_modFn_self⟩
  · exact ⟨_, rfl⟩

/-- What changed the functions and the interrupts alone is the machine before with those of the machine after. -/
theorem HostOnly.frame {s t : State} (h : HostOnly s t) : t = { s with fns := t.fns, msix := t.msix } := by
  obtain ⟨fns, msix, rfl⟩ := h
  rfl

/-- The channel's state with a response in its buffer, before the interrupt (R344). -/
def State.responded (u : State) (ch code tag st : Nat) (out : Bytes) : State :=
  modFn ch (fun f => { f with respBuf := padTo 3072 (message u code 1 tag st out), busy := false, doneBit := true, latched := none }) u

/-- R344: a response in a channel's buffer is the buffer's change, with or without the interrupt. -/
theorem respondCh_cases {ch : Nat} (hc : ch < 32) (code tag st : Nat) (out : Bytes) (u : State) :
    respondCh ch code tag st out u = u.responded ch code tag st out ∨
    ∃ v, respondCh ch code tag st out u = raiseMsix ch v (u.responded ch code tag st out) := by
  unfold respondCh
  rw [if_neg (by omega)]
  dsimp only
  split
  · exact .inr ⟨_, rfl⟩
  · exact .inl rfl

/-- R344: the response stands in the channel's buffer, BUSY is clear and DONE set, and only the channel and its interrupt changed. -/
theorem answered_effect {u : State} {ch : Nat} (hc : ch < 32) (req out : Bytes) (st : Nat) :
    (getFn (u.answered ch req st out) ch).busy = false ∧ (getFn (u.answered ch req st out) ch).doneBit = true ∧
    (getFn (u.answered ch req st out) ch).respBuf = padTo 3072 (message u (field req 0 2) 1 (field req 4 4) st out) ∧
    u.answered ch req st out = { u with fns := (u.answered ch req st out).fns, msix := (u.answered ch req st out).msix } := by
  have channel : getFn (u.responded ch (field req 0 2) (field req 4 4) st out) ch = _ := getFn_modFn_self
  unfold State.answered
  rcases respondCh_cases hc (field req 0 2) (field req 4 4) st out u with h | ⟨v, h⟩
  · rw [h, channel]
    exact ⟨rfl, rfl, rfl, rfl⟩
  · obtain ⟨p, hp⟩ := getFn_raiseMsix ch v (u.responded ch (field req 0 2) (field req 4 4) st out)
    rw [h, hp, channel]
    exact ⟨rfl, rfl, rfl, ((modFn_host ch _ u).trans (raiseMsix_host ch v _)).frame⟩

/-! ### MSG_DONE -/

/-- An event reads the time and the functions alone: queues, contexts and commands do not enter it. -/
theorem postEventF_others (fn code flags tag status : Nat) (bd : Bytes) (s : State) (qs : List (Nat × Queue)) (cs : Tbl Ctx)
    (ms : List Cmd) :
    postEventF fn code flags tag status bd { s with queues := qs, ctxs := cs, cmds := ms } =
      { postEventF fn code flags tag status bd s with queues := qs, ctxs := cs, cmds := ms } := by
  unfold postEventF raiseMsix
  dsimp only [modFn, getFn, message, State.ftw]
  split
  · rfl
  · split
    · split <;> rfl
    · rfl

theorem postEventF_queues (fn code flags tag status : Nat) (bd : Bytes) (s : State) (qs : List (Nat × Queue)) :
    postEventF fn code flags tag status bd { s with queues := qs } = { postEventF fn code flags tag status bd s with queues := qs } := by
  have others := postEventF_others fn code flags tag status bd s qs s.ctxs s.cmds
  obtain ⟨fns, msix, event⟩ := postEventF_host fn code flags tag status bd s
  rw [event] at others ⊢
  exact others

theorem postEventF_ctxs_cmds (fn code flags tag status : Nat) (bd : Bytes) (s : State) (cs : Tbl Ctx) (ms : List Cmd) :
    postEventF fn code flags tag status bd { s with ctxs := cs, cmds := ms } =
      { postEventF fn code flags tag status bd s with ctxs := cs, cmds := ms } := by
  have others := postEventF_others fn code flags tag status bd s s.queues cs ms
  obtain ⟨fns, msix, event⟩ := postEventF_host fn code flags tag status bd s
  rw [event] at others ⊢
  exact others

/-- R345: the event of a deferred request, but for a context's quiet drain (R336). -/
theorem postMsgDone_event {d : Deferred} (h : d.code ≠ 0x0101) (st : Nat) (out : Bytes) (s : State) :
    postMsgDone d st out s = postEventF d.ch 0x8000 6 d.tag.toNat st
      (leBytes 2 d.code ++ leBytes 2 0 ++ leBytes 4 d.tag.toNat ++ padTo 8 out) s := by
  unfold postMsgDone isQuiet
  simp [h]

section
variable {s : State} {n : Nat} {d : Deferred} (hn : s.deferred[n]? = some d)
include hn

/-- R345: a request whose work has begun ends when its end is due. -/
theorem exec_msgDone_begun (hc : carriesOut s = true) (hb : d.begun = true) :
    exec (.msgDone n) s = .next (((finishDeferred d s).map fun r => postMsgDone d r.1 [] (dropDeferred n r.2)).getD s) := by
  simp only [exec, execMsgDone, hn, hb, hc, Bool.not_true, Bool.false_eq_true, if_false, if_true]
  cases finishDeferred d s <;> rfl

/-- R345: the turn of a request has not come. -/
theorem exec_msgDone_mustDefer (hb : d.begun = false) (hm : mustDefer s (s.deferred.take n) d.ch d.code d.req = true) :
    exec (.msgDone n) s = .next s := by
  simp only [exec, execMsgDone, hn, hb, hm, Bool.false_eq_true, if_false, if_true]

/-- R345: a request whose turn has come is carried out. -/
theorem exec_msgDone_carriesOut {r : MsgRow} {st : Nat} {out : Bytes} {v : State} (hb : d.begun = false)
    (hm : mustDefer s (s.deferred.take n) d.ch d.code d.req = false) (hr : msgRow d.code = some r)
    (hh : r.handler d.ch d.tag.toNat d.req s = .now st out v) :
    exec (.msgDone n) s = .next (postMsgDone d st out (dropDeferred n v)) := by
  simp only [exec, execMsgDone, hn, hb, hm, beginDeferred, hr, hh, Bool.false_eq_true, if_false]

end

/-- R345: the end of a request that was refused: its status, once no response is awaited. -/
theorem finishDeferred_bad {d : Deferred} (h : d.bad ≠ 0) (hw : d.waits = []) (s : State) : finishDeferred d s = some (d.bad, s) := by
  simp only [finishDeferred, h, hw, List.isEmpty_nil, ne_eq, not_false_eq_true, and_self, if_true]

/-- The end of a request that was not refused is that of its message. -/
theorem finishDeferred_queueDestroy {d : Deferred} (h : d.bad = 0) (hc : d.code = 0x0105) (s : State) :
    finishDeferred d s = endQueueDestroy d.req s := by
  simp [finishDeferred, h, hc]

theorem finishDeferred_unmap {d : Deferred} (h : d.bad = 0) (hc : d.code = 0x0201) (s : State) :
    finishDeferred d s = endUnmap d.req s := by
  simp [finishDeferred, h, hc]

theorem finishDeferred_groupSet {d : Deferred} (h : d.bad = 0) (hc : d.code = 0x0310) (hw : d.waits = []) (s : State) :
    finishDeferred d s = some (stOk, s) := by
  simp [finishDeferred, h, hc, hw]

/-- R348: the end of QUEUE_DESTROY. -/
theorem endQueueDestroy_eq (bd : Bytes) (s : State) : endQueueDestroy bd s =
    if queueCmds s (field bd 0 2) = [] then some (stOk, { s with queues := Tbl.del s.queues (field bd 0 2) }) else none := by
  simp only [endQueueDestroy, List.isEmpty_iff]

/-- R73, R428: the end of an UNMAP. -/
theorem endUnmap_named {bd : Bytes} {s : State} {ms : List Mapping} (h : unmapNamed s bd = some ms) : endUnmap bd s =
    if accessOut s (field bd 0 1) ms then none
    else some (stOk, removeMaps (field bd 0 1) ms (noteUnmapped (field bd 0 1) ms s)) := by
  simp only [endUnmap, h]

/-- Settles O47: the checks in the order of `serveReq`, then the ends of the deferred requests. -/
theorem requestsAreCheckedAndEnd : Obligations.RequestsAreCheckedAndEnd := by
  unfold Obligations.RequestsAreCheckedAndEnd
  refine ⟨⟨?checks, ?reserved, ?answer⟩, fun s n d hn hc => ⟨?ends, exec_msgDone_mustDefer hn, ?now⟩⟩
  case checks =>
    rintro s ch req row r hrow hcode hr hch hu hi hb hm u rfl
    have answered : ∀ {st out v}, serveReq ch req (s.given ch req) = (st, out, v) → exec row.2 s = .next (v.answered ch req st out) := by
      intro st out v h
      rw [exec_mailboxRows hrow, mailboxRow_of_code hcode, submitReq_ready hch hu hi hb hm, answerReq_of_serveReq h]
    rw [← hcode] at hr
    refine ⟨fun h => answered (serveReq_badCheck h), fun h hs => answered (serveReq_badSender h hr hs),
      fun h hs hh => answered (serveReq_badHeader h hr hs hh), fun h hs hh hl => answered (serveReq_badLength h hr hs hh hl),
      fun h hs hh hl hf => ⟨fun hz => answered (serveReq_badReserved h hr hs hh hl hf hz), fun hz hd => ?_⟩⟩
    rw [← given_mustDefer s ch req, ← given_deferred s ch req, ← hcode] at hd
    rw [← hcode, ← given_deferred s ch req]
    exact answered (serveReq_deferred h hr hs hh hl hf hz hd)
  case reserved =>
    refine fun s ch req hch hu hi => ⟨fun hb hm h hr => ?_, exec_overrun_busy req hch hu⟩
    rw [exec_mailboxReservedCode hr, submitReq_ready hch hu hi hb hm, answerReq_of_serveReq (serveReq_reservedCode h hr hch)]
    rfl
  case answer =>
    rintro u t ch st req out hch rfl
    exact answered_effect hch req out st
  case ends =>
    rintro u st out rfl
    refine ⟨?queueDestroy, ?unmap, ?refused, ?groupSet⟩
    case queueDestroy =>
      rintro hb h0 hcode rfl rfl
      have other : d.code ≠ 0x0101 := by rw [hcode]; decide
      rw [exec_msgDone_begun hn hc hb, finishDeferred_queueDestroy h0 hcode, endQueueDestroy_eq]
      refine ⟨fun hq => ?_, fun hq => ?_⟩
      · rw [if_pos hq, Option.map_some, Option.getD_some, postMsgDone_event other]
        exact congrArg _ (postEventF_queues _ _ _ _ _ _ (dropDeferred n s) _)
      · rw [if_neg hq]
        rfl
    case unmap =>
      rintro ms hb h0 hcode rfl rfl hms
      have other : d.code ≠ 0x0101 := by rw [hcode]; decide
      rw [exec_msgDone_begun hn hc hb, finishDeferred_unmap h0 hcode, endUnmap_named hms]
      refine ⟨fun ha => ?_, fun ha => ?_⟩
      · rw [ha, if_neg Bool.false_ne_true, Option.map_some, Option.getD_some, postMsgDone_event other]
        exact congrArg _ (postEventF_ctxs_cmds _ _ _ _ _ _ (dropDeferred n s) _ _)
      · rw [if_pos ha]
        rfl
    case refused =>
      rintro hb hbad hw hcode rfl rfl
      rw [exec_msgDone_begun hn hc hb, finishDeferred_bad hbad hw, Option.map_some, Option.getD_some, postMsgDone_event hcode]
      rfl
    case groupSet =>
      rintro hb h0 hcode hw rfl rfl
      have other : d.code ≠ 0x0101 := by rw [hcode]; decide
      rw [exec_msgDone_begun hn hc hb, finishDeferred_groupSet h0 hcode hw, Option.map_some, Option.getD_some, postMsgDone_event other]
      rfl
  case now =>
    intro r st out v hb hm hr hh hcode
    rw [exec_msgDone_carriesOut hn hb hm hr hh, postMsgDone_event hcode]
    rfl

end Sys2Proof.Machine
end

section
/-!
What every command and every step keeps (Laws/Keeps), and with it the range of the frame period (O4).
-/
namespace Sys2Proof.Machine

/-- R39: the two spellings of the range of a frame period agree. -/
theorem periodInRange_iff {s : State} : s.periodInRange ↔ PeriodOk s.tb := by
  simp only [State.periodInRange, PeriodOk, periodOk_iff]

/-- What no command does, by the lemma of each row. -/
theorem exec_keeps {s0 s : State} (i : Instr) (h : Keeps s0 s) : KO s0 (exec i s) :=
  match i with
  | .frameBoundary => execFrameBoundary_keeps h
  | .tbCtrlWrite _ _ => execTbCtrlWrite_keeps h
  | .tbPeriodSetWrite _ _ => execTbPeriodSetWrite_keeps h
  | .tbPeriodAtWrite _ _ => execTbPeriodAtWrite_keeps h
  | .tick _ _ => execTick_keeps h
  | .frameIn _ => execFrameIn_keeps h
  | .holdoverEntry => execHoldoverEntry_keeps h
  | .hopDelayMeasure _ => execHopDelayMeasure_keeps h
  | .registerWrite _ _ _ => execRegisterWrite_keeps h
  | .readToClear _ _ => execReadToClear_keeps h
  | .dbTail _ _ _ => execDbTail_keeps h
  | .dbCqhead _ _ _ => execDbCqhead_keeps h
  | .commandFetch _ => execCommandFetch_keeps h
  | .commandStart _ => execCommandStart_keeps h
  | .commandCompletion _ => execCommandCompletion_keeps h
  | .preemption _ => execPreemption_keeps h
  | .preemptedResume _ => execPreemptedResume_keeps h
  | .watchdogExpiry _ => execWatchdogExpiry_keeps h
  | .watchdogEscalation _ => execWatchdogEscalation_keeps h
  | .nop _ => execNop_keeps h
  | .fence _ => execFence_keeps h
  | .waitCount _ => execWaitCount_keeps h
  | .waitCountTimeout _ => execWaitCountTimeout_keeps h
  | .signal _ => execSignal_keeps h
  | .waitFrame _ => execWaitFrame_keeps h
  | .waitFrameReached _ => execWaitFrameReached_keeps h
  | .debugMark _ => execDebugMark_keeps h
  | .hintPower _ => execHintPower_keeps h
  | .hintScheduleStart _ => execHintScheduleStart_keeps h
  | .hintDisarm _ => execHintDisarm_keeps h
  | .copy _ => execCopy_keeps h
  | .copyT _ => execCopyT_keeps h
  | .gatherRows _ => execGatherRows_keeps h
  | .scatterRows _ => execScatterRows_keeps h
  | .prefetch _ => execPrefetch_keeps h
  | .prefetchCancel _ => execPrefetchCancel_keeps h
  | .feedBind _ => execFeedBind_keeps h
  | .feedSlotClose _ => execFeedSlotClose_keeps h
  | .maLoad _ => execMaLoad_keeps h
  | .maSwap _ => execMaSwap_keeps h
  | .maRun _ => execMaRun_keeps h
  | .maRunT _ => execMaRunT_keeps h
  | .maElem _ => execMaElem_keeps h
  | .tilePass _ => execTilePass_keeps h
  | .ballastPass _ _ => execBallastPass_keeps h
  | .vxLaunch _ => execVxLaunch_keeps h
  | .vxFusedBwd _ => execVxFusedBwd_keeps h
  | .sAdd _ _ => execSAdd_keeps h
  | .sSub _ _ => execSSub_keeps h
  | .sAnd _ _ => execSAnd_keeps h
  | .sOr _ _ => execSOr_keeps h
  | .sXor _ _ => execSXor_keeps h
  | .shl _ _ => execShl_keeps h
  | .shr _ _ => execShr_keeps h
  | .sra _ _ => execSra_keeps h
  | .mul _ _ => execMul_keeps h
  | .mulh _ _ => execMulh_keeps h
  | .div _ _ => execDiv_keeps h
  | .rem _ _ => execRem_keeps h
  | .slt _ _ => execSlt_keeps h
  | .sltu _ _ => execSltu_keeps h
  | .addi _ _ => execAddi_keeps h
  | .ld _ _ => execLd_keeps h
  | .st _ _ => execSt_keeps h
  | .bne _ _ => execBne_keeps h
  | .jal _ _ => execJal_keeps h
  | .fadd _ _ => execFadd_keeps h
  | .fsub _ _ => execFsub_keeps h
  | .fmul _ _ => execFmul_keeps h
  | .fdiv _ _ => execFdiv_keeps h
  | .fsqrt _ _ => execFsqrt_keeps h
  | .fmin _ _ => execFmin_keeps h
  | .fmax _ _ => execFmax_keeps h
  | .flt _ _ => execFlt_keeps h
  | .fcvtI _ _ => execFcvtI_keeps h
  | .fcvtF _ _ => execFcvtF_keeps h
  | .vexit _ _ => execVexit_keeps h
  | .vbar _ _ => execVbar_keeps h
  | .csrr _ _ => execCsrr_keeps h
  | .csrw _ _ => execCsrw_keeps h
  | .shli _ _ => execShli_keeps h
  | .blt _ _ => execBlt_keeps h
  | .ldw _ _ => execLdw_keeps h
  | .stw _ _ => execStw_keeps h
  | .vfmt _ _ => execVfmt_keeps h
  | .vstrip _ _ => execVstrip_keeps h
  | .vld _ _ => execVld_keeps h
  | .vst _ _ => execVst_keeps h
  | .vadd _ _ => execVadd_keeps h
  | .vsub _ _ => execVsub_keeps h
  | .vmul _ _ => execVmul_keeps h
  | .vmulh _ _ => execVmulh_keeps h
  | .vand _ _ => execVand_keeps h
  | .vor _ _ => execVor_keeps h
  | .vxor _ _ => execVxor_keeps h
  | .vshl _ _ => execVshl_keeps h
  | .vshr _ _ => execVshr_keeps h
  | .vsra _ _ => execVsra_keeps h
  | .vmin _ _ => execVmin_keeps h
  | .vmax _ _ => execVmax_keeps h
  | .vcmpeq _ _ => execVcmpeq_keeps h
  | .vcmplt _ _ => execVcmplt_keeps h
  | .vxma _ _ => execVxma_keeps h
  | .vdot4 _ _ => execVdot4_keeps h
  | .vfadd _ _ => execVfadd_keeps h
  | .vfsub _ _ => execVfsub_keeps h
  | .vfmul _ _ => execVfmul_keeps h
  | .vfdiv _ _ => execVfdiv_keeps h
  | .vfma _ _ => execVfma_keeps h
  | .vfnms _ _ => execVfnms_keeps h
  | .vfmin _ _ => execVfmin_keeps h
  | .vfmax _ _ => execVfmax_keeps h
  | .vfcmplt _ _ => execVfcmplt_keeps h
  | .vfcmpeq _ _ => execVfcmpeq_keeps h
  | .vfxmul _ _ => execVfxmul_keeps h
  | .vfxma _ _ => execVfxma_keeps h
  | .vfdot _ _ => execVfdot_keeps h
  | .vfun _ _ => execVfun_keeps h
  | .vfcvt _ _ => execVfcvt_keeps h
  | .vffold _ _ => execVffold_keeps h
  | .vmlog _ _ => execVmlog_keeps h
  | .vmcount _ _ => execVmcount_keeps h
  | .vmlow _ _ => execVmlow_keeps h
  | .vsel _ _ => execVsel_keeps h
  | .vcopy _ _ => execVcopy_keeps h
  | .vins _ _ => execVins_keeps h
  | .vext _ _ => execVext_keeps h
  | .velup _ _ => execVelup_keeps h
  | .veldn _ _ => execVeldn_keeps h
  | .vperm _ _ => execVperm_keeps h
  | .vpack _ _ => execVpack_keeps h
  | .vindex _ _ => execVindex_keeps h
  | .visum _ _ => execVisum_keeps h
  | .vsplat _ _ => execVsplat_keeps h
  | .vsrd _ _ => execVsrd_keeps h
  | .vswr _ _ => execVswr_keeps h
  | .updRun _ => execUpdRun_keeps h
  | .updRows _ => execUpdRows_keeps h
  | .slvPattern _ => execSlvPattern_keeps h
  | .slvValues _ => execSlvValues_keeps h
  | .slvFactor _ => execSlvFactor_keeps h
  | .slvSolve _ => execSlvSolve_keeps h
  | .solverSystemStart _ => execSolverSystemStart_keeps h
  | .slvStatus _ => execSlvStatus_keeps h
  | .redTree _ => execRedTree_keeps h
  | .redLowrank _ => execRedLowrank_keeps h
  | .redScale _ => execRedScale_keeps h
  | .xchgTokens _ => execXchgTokens_keeps h
  | .bcast _ => execBcast_keeps h
  | .allgatherLayer _ => execAllgatherLayer_keeps h
  | .layoutEpoch _ => execLayoutEpoch_keeps h
  | .collUp _ _ => execCollUp_keeps h
  | .collDown _ _ => execCollDown_keeps h
  | .retryReq _ _ => execRetryReq_keeps h
  | .retryUp _ _ => execRetryUp_keeps h
  | .maxUp _ _ => execMaxUp_keeps h
  | .maxDown _ _ => execMaxDown_keeps h
  | .dataUp _ _ => execDataUp_keeps h
  | .dataDown _ _ => execDataDown_keeps h
  | .collToken _ _ => execCollToken_keeps h
  | .collTokenRet _ _ => execCollTokenRet_keeps h
  | .nodeDeadline _ => execNodeDeadline_keeps h
  | .retryDeadline _ => execRetryDeadline_keeps h
  | .deliveryDeadline _ => execDeliveryDeadline_keeps h
  | .exchangeDeadline _ => execExchangeDeadline_keeps h
  | .pktWrite _ _ => execPktWrite_keeps h
  | .readReq _ _ => execReadReq_keeps h
  | .readResp _ _ => execReadResp_keeps h
  | .pktAck _ _ => execPktAck_keeps h
  | .pktNack _ _ => execPktNack_keeps h
  | .ctrAdd _ _ => execCtrAdd_keeps h
  | .ctrAddResend _ => execCtrAddResend_keeps h
  | .pktFeed _ _ => execPktFeed_keeps h
  | .feedDb _ _ _ => execFeedDb_keeps h
  | .pktProbe _ _ => execPktProbe_keeps h
  | .pktProbeReply _ _ => execPktProbeReply_keeps h
  | .packetForward _ _ => execPacketForward_keeps h
  | .linkReplay _ _ _ => execLinkReplay_keeps h
  | .laneRetune _ _ _ => execLaneRetune_keeps h
  | .laneRetuneDone _ _ => execLaneRetuneDone_keeps h
  | .linkDown _ => execLinkDown_keeps h
  | .linkUp _ => execLinkUp_keeps h
  | .hello _ _ => execHello_keeps h
  | .mgmtJoin _ _ => execMgmtJoin_keeps h
  | .joinAck _ _ => execJoinAck_keeps h
  | .heartbeat _ _ => execHeartbeat_keeps h
  | .heartbeatSend => execHeartbeatSend_keeps h
  | .moduleLost _ => execModuleLost_keeps h
  | .leaveMessage _ _ => execLeaveMessage_keeps h
  | .beacon _ _ => execBeacon_keeps h
  | .beaconSend => execBeaconSend_keeps h
  | .resetNotice _ _ => execResetNotice_keeps h
  | .rankReset _ _ => execRankReset_keeps h
  | .rankLost _ _ => execRankLost_keeps h
  | .timeDegraded _ _ => execTimeDegraded_keeps h
  | .tickLostReport _ _ => execTickLostReport_keeps h
  | .holdoverTimeout _ => execHoldoverTimeout_keeps h
  | .routeSet _ _ => execRouteSet_keeps h
  | .groupInstall _ _ => execGroupInstall_keeps h
  | .groupStage _ _ => execGroupStage_keeps h
  | .groupRemove _ _ => execGroupRemove_keeps h
  | .periodArm _ _ => execPeriodArm_keeps h
  | .mgmtAck _ _ => execMgmtAck_keeps h
  | .mgmtResend _ => execMgmtResend_keeps h
  | .identify _ _ => execIdentify_keeps h
  | .statusQuery _ _ => execStatusQuery_keeps h
  | .telemetryRead _ _ => execTelemetryRead_keeps h
  | .logRead _ _ => execLogRead_keeps h
  | .micaSlices _ _ => execMicaSlices_keeps h
  | .bar2Set _ _ => execBar2Set_keeps h
  | .ctxCreate _ _ => execCtxCreate_keeps h
  | .ctxDestroy _ _ => execCtxDestroy_keeps h
  | .ctxDrained _ => execCtxDrained_keeps h
  | .ctxNumberRelease _ => execCtxNumberRelease_keeps h
  | .ctxQuery _ _ => execCtxQuery_keeps h
  | .counterGrant _ _ => execCounterGrant_keeps h
  | .queueCreate _ _ => execQueueCreate_keeps h
  | .queueDestroy _ _ => execQueueDestroy_keeps h
  | .tileGrant _ _ => execTileGrant_keeps h
  | .mapPages _ _ => execMapPages_keeps h
  | .unmap _ _ => execUnmap_keeps h
  | .memQuery _ _ => execMemQuery_keeps h
  | .channelMapout _ _ => execChannelMapout_keeps h
  | .mapoutComplete _ _ => execMapoutComplete_keeps h
  | .stageqCreate _ _ => execStageqCreate_keeps h
  | .stageqQuery _ _ => execStageqQuery_keeps h
  | .stageqDestroy _ _ => execStageqDestroy_keeps h
  | .groupSet _ _ => execGroupSet_keeps h
  | .groupQuery _ _ => execGroupQuery_keeps h
  | .roleSet _ _ => execRoleSet_keeps h
  | .leave _ _ => execLeave_keeps h
  | .powerCapSet _ _ => execPowerCapSet_keeps h
  | .oppointSet _ _ => execOppointSet_keeps h
  | .wakeSet _ _ => execWakeSet_keeps h
  | .fwQuery _ _ => execFwQuery_keeps h
  | .fwStage _ _ => execFwStage_keeps h
  | .fwActivate _ _ => execFwActivate_keeps h
  | .handover => execHandover_keeps h
  | .fwActivated => execFwActivated_keeps h
  | .fwCommit _ _ => execFwCommit_keeps h
  | .recalibrate _ _ => execRecalibrate_keeps h
  | .mailboxReservedCode _ _ => execMailboxReservedCode_keeps h
  | .msgDone _ => execMsgDone_keeps h
  | .setEndpointId _ => execSetEndpointId_keeps h
  | .getEndpointId _ => execGetEndpointId_keeps h
  | .getMctpVersionSupport _ => execGetMctpVersionSupport_keeps h
  | .getMessageTypeSupport _ => execGetMessageTypeSupport_keeps h
  | .getVendorDefinedMessageSupport _ => execGetVendorDefinedMessageSupport_keeps h
  | .bar2Access _ _ _ _ _ => execBar2Access_keeps h
  | .flr _ => execFlr_keeps h
  | .vfDisable _ => execVfDisable_keeps h
  | .perst => execPerst_keeps h
  | .auxSupplyValid _ => execAuxSupplyValid_keeps h
  | .auxSupplyRemoval => execAuxSupplyRemoval_keeps h
  | .startUp _ _ _ => execStartUp_keeps h
  | .startUpMailbox => execStartUpMailbox_keeps h
  | .startUpFullOperation => execStartUpFullOperation_keeps h
  | .supplyRemoval => execSupplyRemoval_keeps h
  | .criticalTemp _ _ => execCriticalTemp_keeps h
  | .thermalSample _ => execThermalSample_keeps h
  | .telemetrySample _ => execTelemetrySample_keeps h
  | .limiterTick _ => execLimiterTick_keeps h
  | .capUnmet _ => execCapUnmet_keeps h
  | .channelRetrain _ _ _ _ => execChannelRetrain_keeps h
  | .enterIdle => execEnterIdle_keeps h
  | .enterDoze => execEnterDoze_keeps h
  | .enterSleep => execEnterSleep_keeps h
  | .rtcAlarm => execRtcAlarm_keeps h
  | .frameWake => execFrameWake_keeps h
  | .exitToActive => execExitToActive_keeps h
  | .unitError _ _ => execUnitError_keeps h
  | .resetFence => execResetFence_keeps h
  | .resetDump => execResetDump_keeps h
  | .resetComputeDomain => execResetComputeDomain_keeps h
  | .resetResume => execResetResume_keeps h
  | .handoverEnd => execHandoverEnd_keeps h
  | .trialReversion => execTrialReversion_keeps h
  | .thermtripRelease => execThermtripRelease_keeps h
  | .refreshRateChange _ _ => execRefreshRateChange_keeps h
  | .overrun _ req => execOverrun_keeps (_req := req) h
  | .perstDeassertion => execPerstDeassertion_keeps h

/-- What no step does: a step runs the front command on the state with the rest of the queue, or lets one ph pass. -/
theorem step_keeps {s t : State} (h : step s = .next t) : Keeps { s with pending := s.pending.tail } t := by
  unfold step at h
  split at h
  · next empty =>
    have same : { s with pending := s.pending.tail } = s := by rw [empty, List.tail_nil, ← empty]
    cases h
    rw [same]
    exact onePh_keeps (keeps_refl s)
  · next i rest front =>
    rw [front]
    exact exec_keeps i (keeps_refl { s with pending := rest }) t h

/-- Every step keeps the bounds of the frame period. -/
theorem step_keeps_periodOk {s t : State} (h : step s = .next t) : PeriodOk s.tb → PeriodOk t.tb := by
  obtain ⟨-, -, -, -, period⟩ := step_keeps h
  exact period

/-- R39: a written period outside the range sets PERIOD_ERR and nothing else. -/
theorem exec_tbPeriodSetWrite_outside {s : State} {fn : Nat} {v : W64} (hw : pfWrites s fn = true)
    (hv : periodOk (v.extractLsb' 0 41) = false) :
    exec (.tbPeriodSetWrite fn v) s = .next { s with tb := { s.tb with periodErr := true } } := by
  simp only [exec, execTbPeriodSetWrite, hw, hv, if_true, Bool.false_eq_true, if_false]

/-- Settles O4: the range is one of the facts that every step keeps; a write outside it is refused by R39's test. -/
theorem framePeriodStaysInRange : Obligations.FramePeriodStaysInRange := by
  unfold Obligations.FramePeriodStaysInRange
  refine ⟨fun s t hs ht => periodInRange_iff.mpr (step_keeps_periodOk ht (periodInRange_iff.mp hs)), fun s v hw hv => ?_⟩
  have outside : periodOk (v.extractLsb' 0 41) = false := by
    rw [← Bool.not_eq_true, periodOk_iff]
    omega
  exact exec_tbPeriodSetWrite_outside hw outside

end Sys2Proof.Machine
end

section
/-!
The commands that the command processor ends itself (O16): when a time may be acted on, and the ends of NOP, FENCE, WAIT_FRAME and
DEBUG_MARK.
-/
namespace Sys2Proof.Machine

/-- R33: a reached time may be acted on when no time that the same forward step skipped before it is still to be acted on. -/
theorem mayAct_of_first {s : State} {n : Nat} (hn : n ≤ s.ftw.toNat)
    (h : s.tb.skipFrom.toNat < n → n ≤ s.tb.skipTo.toNat → ∀ u ∈ dueTimes s, s.tb.skipFrom.toNat < u → n ≤ u) : mayAct s n = true := by
  simp only [mayAct, State.reachedN, hn, decide_true, Bool.true_and, Bool.not_eq_true', Bool.and_eq_false_imp, Bool.and_eq_true,
    decide_eq_true_eq, List.any_eq_false, not_and, not_lt]
  exact fun ⟨hf, ht⟩ => h hf ht

/-- R24: a time that is not reached is not acted on. -/
theorem mayAct_early {s : State} {n : Nat} (h : s.ftw.toNat < n) : mayAct s n = false := by
  simp [mayAct, State.reachedN, Nat.not_le.mpr h]

/-- R67: the end of a command changes the commands and, the model's own, the count of free values. -/
theorem finishCmd_frame {s : State} {k : Nat} {c : Cmd} (r : Option W64) (d : Option Nat) (h : findCmd s k = some c) :
    finishCmd k r d s = { s with cmds := (finishCmd k r d s).cmds, free := (finishCmd k r d s).free } := by
  obtain ⟨frame, -⟩ := finishCmd_spec r d h
  rw [frame]

theorem finishCmd_othersSame {s : State} {k : Nat} {c : Cmd} (r : Option W64) (d : Option Nat) (h : findCmd s k = some c) :
    s.othersSame (finishCmd k r d s) k := (finishCmd_spec r d h).2.1

theorem working_find {s : State} {k op ext : Nat} {used : List (Nat × Nat)} {c : Cmd} (h : s.working k op ext used c) :
    findCmd s k = some c := readyCmd_find h.1

/-- A row that comes to the end of its command without a RESULT touches nothing else. -/
theorem ends_of_finishCmd {s : State} {k : Nat} {c : Cmd} {o : Host.Outcome State Fault Refusal} (h : findCmd s k = some c)
    (row : o = .next (finishCmd k none none s)) :
    ∃ t, o = .next t ∧ t.ended k (warnStatus c.warns) ∧ s.othersSame t k ∧ t = { s with cmds := t.cmds, free := t.free } :=
  ⟨_, row, finishCmd_ended none none h, finishCmd_othersSame none none h, finishCmd_frame none none h⟩

section
variable {s : State} {k : Nat} {c : Cmd}

/-- R66: a FENCE at work. -/
theorem execFence_working (h : s.working k 0x01 0 [(16, 1)] c) (hs : body c 16 1 ≤ 2) :
    execFence k s = .next (if fenceDone s c then finishCmd k none none s else s) :=
  congrArg Host.Outcome.next (runOp_working h (decide_eq_true hs))

/-- R24, R33, R66: a WAIT_FRAME at work. -/
theorem waitFrameStep_working (h : s.working k 0x04 0 [(24, 8)] c) :
    waitFrameStep k s = if mayAct s (body c 24 8) then finishCmd k none none s else s := runOp_working h rfl

end

/-- Settles O16: each row's condition, then the end of its command. -/
theorem controlCommandsComplete : Obligations.ControlCommandsComplete := by
  unfold Obligations.ControlCommandsComplete
  refine fun s k c => ⟨fun h => ?nop, fun h hs => ⟨fun hd => ?fence, fun hd => ?fenceWaits⟩,
    fun h => ⟨fun n => mayAct_of_first, fun hm => ?reached, fun he => ?early⟩, fun h => ?mark⟩
  case nop => exact ends_of_finishCmd (working_find h) (congrArg Host.Outcome.next (runOp_working h rfl))
  case fence =>
    refine ends_of_finishCmd (working_find h) ?_
    rw [exec, execFence_working h hs, if_pos hd]
  case fenceWaits => rw [exec, execFence_working h hs, hd, if_neg Bool.false_ne_true]
  case reached =>
    have step : waitFrameStep k s = finishCmd k none none s := by rw [waitFrameStep_working h, if_pos hm]
    exact ⟨ends_of_finishCmd (working_find h) (congrArg _ step), ends_of_finishCmd (working_find h) (congrArg _ step)⟩
  case early =>
    have step : waitFrameStep k s = s := by rw [waitFrameStep_working h, mayAct_early he, if_neg Bool.false_ne_true]
    exact ⟨congrArg _ step, congrArg _ step⟩
  case mark =>
    have found := working_find h
    exact ⟨_, congrArg Host.Outcome.next (runOp_working h rfl), finishCmd_endedWith _ none found, finishCmd_othersSame _ none found,
      finishCmd_frame _ none found⟩

end Sys2Proof.Machine
end

section
/-!
Hints and ballast (O18): how a hint is armed, started and disarmed, and the credit that a ballast pass takes.
-/
namespace Sys2Proof.Machine

theorem modAt_eq_modify {α : Type} (l : List α) (i : Nat) (f : α → α) : modAt l i f = l.modify i f := by
  induction l generalizing i with
  | nil => simp [modAt]
  | cons a l ih => cases i <;> simp [modAt, ih]

/-- The state with other hints. -/
def withHints (hs : List Hint) (s : State) : State := { s with pow := { s.pow with hints := hs } }

/-- R368: a HINT_POWER at work whose LEVEL is legal arms its hints and ends with their mask. -/
theorem execHintPower_working {s : State} {k : Nat} {c : Cmd} (h : s.working k 0x05 0 [(16, 4), (24, 8)] c) (lo : 1 ≤ body c 16 1)
    (hi : body c 16 1 ≤ 64) : execHintPower k s =
      .next (finishCmd k (some (BitVec.ofNat 64 ((hintArms s c).foldl (fun m b => m + 2 ^ b) 0))) none
        (withHints (s.pow.hints ++ (hintArms s c).map (armHint s c)) s)) :=
  congrArg Host.Outcome.next (runOp_working h (by simp [lo, hi]))

section
variable {s : State} {h : Nat} {x : Hint} (hx : s.pow.hints[h]? = some x)
include hx

/-- R367: a hint without a value whose TARGET is near takes the value 1. -/
theorem execHintScheduleStart_due (hv : x.value = none) (hu : untilU s x.target ≤ 64 * tickU) :
    execHintScheduleStart h s =
      .next (withHints (s.pow.hints.modify h fun x => { x with value := some 1 }) s) := by
  simp only [execHintScheduleStart, withHints, hx, hv, hu, and_self, if_true, modAt_eq_modify]

/-- R26, R33, R367: a hint whose hold has passed is removed, in its turn. -/
theorem execHintDisarm_due (hr : s.reached x.target = true) (hh : x.holdPh ≤ x.heldPh)
    (hm : mayAct s (x.target.toNat + x.holdPh) = true) :
    execHintDisarm h s = .next (withHints (s.pow.hints.eraseIdx h) s) := by
  simp only [execHintDisarm, withHints, hx, hr, hh, hm, and_self, if_true, List.eraseIdx_eq_take_drop_succ]

theorem execHintDisarm_early (hr : s.reached x.target = false) : execHintDisarm h s = .next s := by
  simp only [execHintDisarm, hx, hr, Bool.false_eq_true, false_and, if_false]

end

/-- R125: the cluster whose credit is taken. -/
theorem getCluster_takeCredit (b c n : Nat) (s : State) : getCluster (takeCredit b c n s) b c =
    { getCluster s b c with credit := creditNow s b c - 64 * n, creditU := s.tb.nowU } := Tbl.get_put_self

/-- Settles O18: the arming with the command's end, the two events of a hint, and the credit of a ballast pass. -/
theorem hintsArmRunAndDisarm : Obligations.HintsArmRunAndDisarm := by
  unfold Obligations.HintsArmRunAndDisarm
  refine ⟨fun s k c h lo hi => ?arm, fun s h x hx => ⟨fun hv hu => ?start, execHintDisarm_due hx, execHintDisarm_early hx⟩,
    fun s b c hs hi hr hc => ?ballast⟩
  case arm =>
    have found : findCmd (withHints (s.pow.hints ++ (hintArms s c).map (armHint s c)) s) k = some c := working_find (s := s) h
    refine ⟨_, execHintPower_working h lo hi, ?_, finishCmd_endedWith _ none found, finishCmd_othersSame _ none found, ?_⟩
    all_goals
      rw [finishCmd_frame _ none found]
      rfl
  case start =>
    refine ⟨_, execHintScheduleStart_due hx hv hu, ?_, fun j hj => ?_, rfl⟩
    · simp [withHints, hx]
    · simp [withHints, Ne.symm hj]
  case ballast =>
    have row : execBallastPass b c s = .next (takeCredit b c 77 s) := congrArg Host.Outcome.next (if_pos ⟨hs, hi, hr, hc⟩)
    exact ⟨_, row, by rw [getCluster_takeCredit], by rw [getCluster_takeCredit], rfl⟩

end Sys2Proof.Machine
end

section
/-!
Management messages that set routes, groups and periods (O46): how a message that is taken for the first time is acted on and
acknowledged, and what each of the five bodies does.
-/
namespace Sys2Proof.Machine

/-! ### Taking a message -/

/-- R308: a packet that is taken counts its port on and changes nothing else. -/
theorem taken_ports (port : Nat) (p : Packet) (s : State) :
    ∃ ps, s.taken port p = { s with fab := { s.fab with ports := ps } } := by
  unfold State.taken takeLink
  dsimp only
  repeat' split
  all_goals exact ⟨_, rfl⟩

/-- R352: a message that is taken for the first time is acted on and acknowledged. -/
theorem mgmtArrive_manages {s v : State} {port code st : Nat} {p : Packet} {src : BitVec 12} {bd : Bytes}
    {f : BitVec 12 → Bytes → State → Nat × State} (h : s.manages port code p src bd) (hf : f src bd (s.taken port p) = (st, v)) :
    mgmtArrive code port p f s = v.acknowledged code p st := by
  obtain ⟨htake, hcode, hlen, hcrc, rfl, rfl, hlayout, hnew⟩ := h
  obtain ⟨ps, hu⟩ := taken_ports port p s
  have fresh : (s.taken port p).fab.seen.find? (fun e => e.1.1 == dstAddr p.src && e.1.2 == BitVec.ofNat 32 (field p.payload 4 4))
      = none := by
    rw [hu, List.find?_eq_none]
    intro x hx
    simpa [Prod.ext_iff] using hnew x hx
  rw [mgmtArrive, if_neg (not_not_intro hcode), arrive_takes htake, takeMgmt]
  dsimp only
  rw [if_neg (not_or.mpr ⟨not_not_intro hlen, not_not_intro hcrc⟩), fresh]
  simp only [hlayout, Bool.not_true, Bool.false_eq_true, if_false, hf]
  rfl

/-- An acknowledgement leaves by the fabric. -/
theorem acknowledged_fab (u : State) (code : Nat) (p : Packet) (st : Nat) : FabOnly u (u.acknowledged code p st) := by
  unfold State.acknowledged ackMgmt
  dsimp only
  split
  · exact FabOnly.trans (b := { u with fab := _ }) ⟨_, rfl⟩ (mgmtSend_fab _ _ _ _)
  · exact ⟨_, rfl⟩

/-! ### Routes (R318) -/

section
variable {src : BitVec 12} {bd : Bytes} {s : State}

theorem takeRoutes_inRange (hn : field bd 0 1 ≤ 64) (he : field bd 1 1 + field bd 0 1 ≤ 64) (hf : field bd 1 1 ≤ 63)
    (hm : field bd 2 1 ≤ 1) : takeRoutes src bd s = (stOk, setRoutes (putRoutes (field bd 1 1) (routesOf bd 8 (field bd 0 1))
      (if field bd 2 1 = 1 then [] else s.fab.routes)) s) := if_neg (by omega)

theorem takeRoutes_badMode (hm : 1 < field bd 2 1) : takeRoutes src bd s = (stBadArgument, s) :=
  if_pos (.inr (.inr (.inr hm)))

/-! ### Groups (R250) -/

/-- A key above every other goes last. -/
theorem Tbl.ins_last {α : Type} {t : Tbl α} {k : Nat} {a : α} (h : ∀ e ∈ t, e.1 < k) : Tbl.ins t k a = t ++ [(k, a)] := by
  induction t with
  | nil => rfl
  | cons e t ih =>
    obtain ⟨j, b⟩ := e
    have head : j < k := h (j, b) List.mem_cons_self
    have rest := ih fun e he => h e (List.mem_cons_of_mem _ he)
    rw [Tbl.ins, if_neg (by omega), if_neg (by omega), rest, List.cons_append]

/-- Entries stored in rising order stand in that order. -/
theorem foldl_ins_range {α : Type} (f : Nat → α) (n : Nat) :
    (List.range n).foldl (fun t i => Tbl.ins t i (f i)) [] = (List.range n).map fun i => (i, f i) := by
  induction n with
  | zero => rfl
  | succ n ih =>
    rw [List.range_succ, List.foldl_append, ih, List.map_append]
    exact Tbl.ins_last (by simp)

/-- R353: the entries of a message that carries a table from its first entry on. -/
theorem storeEntries_whole (h : field bd 12 4 = 0) :
    storeEntries bd [] = (List.range (field bd 16 2)).map fun i => (i, BitVec.ofNat 32 (field bd (24 + 4 * i) 4)) := by
  unfold storeEntries
  simp only [h, Nat.zero_add]
  exact foldl_ins_range (fun i => BitVec.ofNat 32 (field bd (24 + 4 * i) 4)) _

/-- R250, R353: a new group whose message carries its whole table is installed. -/
theorem takeInstall_whole (hok : groupFieldsOk s bd = true) (hnew : Tbl.find? s.groups (field bd 0 2) = none)
    (hroom : s.groups.length < 256) (hfirst : field bd 12 4 = 0) (hall : field bd 16 2 = field bd 8 4) :
    takeInstall src bd s = (stOk, { s with
      groups := Tbl.ins s.groups (field bd 0 2) {
        ctx := field bd 3 1, qz := field bd 2 1, r := field bd 8 4, epoch := BitVec.ofNat 32 (field bd 4 4), installed := true
        table := (List.range (field bd 8 4)).map fun i => BitVec.ofNat 32 (field bd (24 + 4 * i) 4) } }) := by
  simp only [takeInstall, hok, hnew, Nat.not_le.mpr hroom, storeEntries_whole hfirst, hall, Bool.not_true, Bool.false_eq_true,
    decide_false, if_false, List.length_map, List.length_range, if_true, List.map_map, Function.comp_def]

theorem takeInstall_badFields (h : groupFieldsOk s bd = false) : takeInstall src bd s = (stBadArgument, s) := by
  simp only [takeInstall, h, Bool.not_false, if_true]

/-- R250, R353: a table is staged for an installed group of the context. -/
theorem takeStage_own {g : Group} (hok : groupFieldsOk s bd = true) (hg : findGroup s (field bd 0 2) = some g)
    (hc : g.ctx = field bd 3 1) (hs : g.staged = none) :
    takeStage src bd s = (stOk, modGroup (field bd 0 2)
      (fun g => { g with staged := some (BitVec.ofNat 32 (field bd 4 4), field bd 8 4, storeEntries bd []) }) s) := by
  simp only [takeStage, hok, hg, hc, hs, ne_eq, not_true_eq_false, Bool.not_true, Bool.false_eq_true, if_false]

theorem takeStage_foreign {g : Group} (hg : findGroup s (field bd 0 2) = some g) (hc : g.ctx ≠ field bd 3 1) :
    takeStage src bd s = (stNotPermitted, s) := by
  simp only [takeStage, hg, hc, ne_eq, not_false_eq_true, if_true]

theorem takeStage_missing (hg : findGroup s (field bd 0 2) = none) : takeStage src bd s = (stBadArgument, s) := by
  simp only [takeStage, hg]

theorem takeRemove_own {g : Group} (hg : Tbl.find? s.groups (field bd 0 2) = some g) (hc : g.ctx = field bd 3 1) :
    takeRemove src bd s = (stOk, dropGroup (field bd 0 2) s) := by
  simp only [takeRemove, hg, hc, ne_eq, not_true_eq_false, if_false]

theorem takeRemove_foreign {g : Group} (hg : Tbl.find? s.groups (field bd 0 2) = some g) (hc : g.ctx ≠ field bd 3 1) :
    takeRemove src bd s = (stNotPermitted, s) := by
  simp only [takeRemove, hg, hc, ne_eq, not_false_eq_true, if_true]

theorem takeRemove_missing (hg : Tbl.find? s.groups (field bd 0 2) = none) : takeRemove src bd s = (stBadArgument, s) := by
  simp only [takeRemove, hg]

end

/-- A table whose entry at one key is changed, read at a key. -/
theorem Tbl.find_map_key {α : Type} (t : Tbl α) (k : Nat) (f : α → α) (j : Nat) :
    Tbl.find? (t.map fun x => if x.1 = k then (x.1, f x.2) else x) j = if j = k then (Tbl.find? t j).map f else Tbl.find? t j := by
  induction t with
  | nil => simp [Tbl.find?]
  | cons e t ih =>
    obtain ⟨i, a⟩ := e
    by_cases hi : i = k <;> by_cases hj : i = j <;> simp_all [Tbl.find?]

theorem findGroup_modGroup_self {s : State} {n : Nat} {f : Group → Group} (hf : ∀ g, (f g).installed = g.installed) :
    findGroup (modGroup n f s) n = (findGroup s n).map f := by
  simp only [findGroup, modGroup, Tbl.find_map_key, if_true]
  cases Tbl.find? s.groups n with
  | none => rfl
  | some g =>
    simp only [Option.map_some, hf]
    split <;> rfl

theorem findGroup_modGroup_ne {s : State} {n m : Nat} {f : Group → Group} (h : m ≠ n) :
    findGroup (modGroup n f s) m = findGroup s m := by
  simp only [findGroup, modGroup, Tbl.find_map_key, if_neg h]

theorem FabOnly.findGroup_eq {a b : State} (h : FabOnly a b) (n : Nat) : findGroup b n = findGroup a n := by
  obtain ⟨f, rfl⟩ := h
  rfl

/-! ### Periods (R39, R40) -/

/-- R39, R40, R326: what PERIOD_ARM does with its body. -/
def takePeriod (_src : BitVec 12) (bd : Bytes) (s : State) : Nat × State :=
  let per := BitVec.ofNat 41 (field bd 0 8)
  if !periodOk per then (stBadArgument, s)
  else (stOk, armPeriod true (BitVec.ofNat 48 (field bd 8 8)) { s with tb := { s.tb with periodSet := per } })

theorem exec_periodArm (port : Nat) (p : Packet) (s : State) :
    exec (.periodArm port p) s = .next (mgmtArrive 0x10 port p takePeriod s) := rfl

section
variable {src : BitVec 12} {bd : Bytes} {s : State} {per : BitVec 41} (hper : per = BitVec.ofNat 41 (field bd 0 8))
include hper

theorem takePeriod_inRange (h : 40000000 ≤ per.toNat ∧ per.toNat ≤ 2000000000000) : takePeriod src bd s =
    (stOk, { s with tb := { s.tb with periodSet := per, arm := true, atFrame := BitVec.ofNat 48 (field bd 8 8) } }) := by
  have ok : periodOk (BitVec.ofNat 41 (field bd 0 8)) = true := hper ▸ periodOk_iff.mpr h
  simp only [takePeriod, ok, Bool.not_true, Bool.false_eq_true, if_false, armPeriod, hper]

theorem takePeriod_outside (h : ¬(40000000 ≤ per.toNat ∧ per.toNat ≤ 2000000000000)) : takePeriod src bd s = (stBadArgument, s) := by
  have bad : periodOk (BitVec.ofNat 41 (field bd 0 8)) = false := hper ▸ Bool.eq_false_iff.mpr (periodOk_iff.not.mpr h)
  simp only [takePeriod, bad, Bool.not_false, if_true]

end

/-- Settles O46: each body by what its taker does, on the state with the packet taken. -/
theorem routesGroupsAndPeriodsAreSet : Obligations.RoutesGroupsAndPeriodsAreSet := by
  unfold Obligations.RoutesGroupsAndPeriodsAreSet
  intro s port p src bd u hu
  have row : ∀ {code st : Nat} {v : State} {f : BitVec 12 → Bytes → State → Nat × State}, s.manages port code p src bd →
      f src bd u = (st, v) → (Host.Outcome.next (mgmtArrive code port p f s) : Host.Outcome State Fault Refusal) =
        .next (v.acknowledged code p st) := by
    intro code st v f h hf
    rw [mgmtArrive_manages h (hu ▸ hf)]
  obtain ⟨ps, taken⟩ := taken_ports port p s
  rw [taken] at hu
  subst hu
  refine ⟨fun h => ⟨fun hn he hf hm => row h (takeRoutes_inRange hn he hf hm), fun hm => row h (takeRoutes_badMode hm)⟩,
    fun h => ⟨fun hok hnew hroom hfirst hall => row h (takeInstall_whole hok hnew hroom hfirst hall),
      fun hbad => row h (takeInstall_badFields hbad)⟩,
    fun h => ⟨fun g hok hg hc hs => ?stage, fun g hg hc => row h (takeStage_foreign hg hc), fun hg => row h (takeStage_missing hg)⟩,
    fun h => ⟨fun g hg hc => row h (takeRemove_own hg hc), fun g hg hc => row h (takeRemove_foreign hg hc),
      fun hg => row h (takeRemove_missing hg)⟩,
    fun h per hper => ⟨fun lo hi => row (f := takePeriod) h (takePeriod_inRange hper ⟨lo, hi⟩),
      fun out => row (f := takePeriod) h (takePeriod_outside hper (by omega))⟩⟩
  case stage =>
    refine ⟨_, row h (takeStage_own hok hg hc hs), ?staged, fun n hn => ?others, ?frame⟩
    case staged =>
      rw [(acknowledged_fab _ _ _ _).findGroup_eq, findGroup_modGroup_self (by intro _; rfl)]
      exact congrArg _ hg
    case others =>
      rw [(acknowledged_fab _ _ _ _).findGroup_eq, findGroup_modGroup_ne hn]
      rfl
    case frame =>
      generalize hv : modGroup _ _ _ = v
      obtain ⟨f, ack⟩ := acknowledged_fab v 0x0E p stOk
      rw [ack, ← hv]
      rfl

end Sys2Proof.Machine
end

section
/-!
The frame boundary and the missing tick (O6): what passes until the boundary, what takes effect at it, and the entry into HOLDOVER.
-/
namespace Sys2Proof.Machine

/-! ### What takes effect at a boundary -/

/-- R301: the bindings that take effect at a boundary change feeds and commands alone. -/
def FeedsOnly (s t : State) : Prop := ∃ fs cs n, t = { s with feeds := fs, cmds := cs, free := n }

theorem FeedsOnly.refl (s : State) : FeedsOnly s s := ⟨_, _, _, rfl⟩

theorem FeedsOnly.trans {a b c : State} (h : FeedsOnly a b) (k : FeedsOnly b c) : FeedsOnly a c := by
  obtain ⟨fs, cs, n, rfl⟩ := h
  obtain ⟨fs', cs', n', rfl⟩ := k
  exact ⟨fs', cs', n', rfl⟩

theorem finishCmd_feeds (k : Nat) (r : Option W64) (d : Option Nat) (s : State) : FeedsOnly s (finishCmd k r d s) := by
  unfold finishCmd
  split
  · exact .refl s
  · exact ⟨_, _, _, rfl⟩

theorem progress_feeds (k : Nat) (s : State) : FeedsOnly s (progress k s) := by
  unfold progress
  split
  · exact .refl s
  · exact ⟨_, _, _, rfl⟩

theorem modFeed_feeds (f : Nat) (g : Feed → Feed) (s : State) : FeedsOnly s (modFeed f g s) := ⟨_, _, _, rfl⟩

theorem foldl_feeds {α : Type} {f : State → α → State} (h : ∀ s a, FeedsOnly s (f s a)) (l : List α) (s : State) :
    FeedsOnly s (l.foldl f s) := foldl_rel FeedsOnly.refl (fun _ _ _ => FeedsOnly.trans) h l s

theorem bindFeed_feeds (f : Nat) (s : State) (k : Nat) : FeedsOnly s (bindFeed f s k) := by
  unfold bindFeed
  split
  · exact .refl s
  · split
    · exact (modFeed_feeds f _ s).trans ((progress_feeds k _).trans (finishCmd_feeds k none none _))
    · exact .refl s

theorem bindFeeds_feeds (s : State) : FeedsOnly s (bindFeeds s) := by
  unfold bindFeeds
  refine foldl_feeds (fun s e => ?_) _ s
  exact (modFeed_feeds e.1 _ s).trans (foldl_feeds (bindFeed_feeds e.1) _ _)

theorem switchMicrocode_frame (s : State) : ∃ a cs, switchMicrocode s = { s with activating := a, cmds := cs } := by
  unfold switchMicrocode
  split
  · split <;> exact ⟨_, _, rfl⟩
  · exact ⟨_, _, rfl⟩

/-- R28, R420: FRAME_OUT at a boundary. -/
def raisedOut (s : State) : Supply :=
  if s.tb.frameOutEn ∧ s.sup.in40 then { s.sup with frameOut := .high, frameOutU := s.tb.nowU } else s.sup

theorem riseOut_eq (s : State) : riseOut s = { s with sup := raisedOut s } := by
  unfold riseOut raisedOut
  split <;> rfl

/-- R23, R33: the time base at phase 0 of frame f. -/
def startedTb (f : BitVec 48) (s : State) : TimeBase :=
  noteSkip s.ftw { s.tb with frame := f, phase := 0, trimU := if s.tb.lastTickFrame = f then s.tb.trimU else 0 }

/-- R29, R40: the time base after the boundary that starts frame f. -/
def boundaryTb (f : BitVec 48) (s : State) : TimeBase := switchSource (changePeriod f (startedTb f s))

theorem startedTb_frame (f : BitVec 48) (s : State) : ∃ x y z, startedTb f s =
    { s.tb with frame := f, phase := 0, trimU := z, skipFrom := x, skipTo := y } := by
  unfold startedTb noteSkip
  dsimp only
  split <;> exact ⟨_, _, _, rfl⟩

/-- R40: an armed change whose frame is reached. -/
theorem changePeriod_due {f : BitVec 48} {t : TimeBase} (ha : t.arm = true) (hf : t.atFrame ≤ f) :
    changePeriod f t = { t with period := t.periodSet, arm := false } := if_pos ⟨ha, hf⟩

theorem changePeriod_notDue {f : BitVec 48} {t : TimeBase} (h : t.arm = false ∨ f < t.atFrame) : changePeriod f t = t := by
  refine if_neg fun ⟨ha, hf⟩ => ?_
  rcases h with h | h
  · simp [ha] at h
  · exact absurd hf (BitVec.not_le.mpr h)

/-- R40: a period change concerns the period and ARM alone. -/
theorem changePeriod_frame (f : BitVec 48) (t : TimeBase) : ∃ p a, changePeriod f t = { t with period := p, arm := a } := by
  unfold changePeriod
  split <;> exact ⟨_, _, rfl⟩

/-- R29: the source in force is the written one; frame, phase, period and FRAME_OUT's enable stay. -/
theorem switchSource_spec (t : TimeBase) : (switchSource t).source = t.sourceField ∧ (switchSource t).frame = t.frame ∧
    (switchSource t).phase = t.phase ∧ (switchSource t).period = t.period ∧ (switchSource t).arm = t.arm ∧
    (switchSource t).frameOutEn = t.frameOutEn := by
  unfold switchSource
  split
  · next h => exact ⟨h.symm, rfl, rfl, rfl, rfl, rfl⟩
  · exact ⟨rfl, rfl, rfl, rfl, rfl, rfl⟩

theorem boundaryTb_spec (f : BitVec 48) (s : State) : (boundaryTb f s).source = s.tb.sourceField ∧ (boundaryTb f s).frame = f ∧
    (boundaryTb f s).phase = 0 ∧ (boundaryTb f s).frameOutEn = s.tb.frameOutEn := by
  obtain ⟨x, y, z, started⟩ := startedTb_frame f s
  obtain ⟨p, a, changed⟩ := changePeriod_frame f (startedTb f s)
  obtain ⟨hs, hf, hp, -, -, he⟩ := switchSource_spec (changePeriod f (startedTb f s))
  rw [boundaryTb, hs, hf, hp, he, changed, started]
  exact ⟨rfl, rfl, rfl, rfl⟩

/-- R40: the period and ARM after a boundary. -/
theorem boundaryTb_due {f : BitVec 48} {s : State} (ha : s.tb.arm = true) (hf : s.tb.atFrame ≤ f) :
    (boundaryTb f s).period = s.tb.periodSet ∧ (boundaryTb f s).arm = false := by
  obtain ⟨x, y, z, started⟩ := startedTb_frame f s
  obtain ⟨-, -, -, hp, harm, -⟩ := switchSource_spec (changePeriod f (startedTb f s))
  rw [boundaryTb, hp, harm, started, changePeriod_due (by exact ha) (by exact hf)]
  exact ⟨rfl, rfl⟩

theorem boundaryTb_notDue {f : BitVec 48} {s : State} (h : s.tb.arm = false ∨ f < s.tb.atFrame) :
    (boundaryTb f s).period = s.tb.period ∧ (boundaryTb f s).arm = s.tb.arm := by
  obtain ⟨x, y, z, started⟩ := startedTb_frame f s
  obtain ⟨-, -, -, hp, harm, -⟩ := switchSource_spec (changePeriod f (startedTb f s))
  rw [boundaryTb, hp, harm, started, changePeriod_notDue (by exact h)]
  exact ⟨rfl, rfl⟩

/-- R23, R26: frame f begins, before what takes effect at its start. -/
def startFrame (f : BitVec 48) (s : State) : State := { s with
  tb := boundaryTb f s, pow := { s.pow with hints := holdHints s.ftw.toNat (f.toNat * 65536) s.pow.hints } }

theorem boundaryTo_eq (f : BitVec 48) (s : State) :
    boundaryTo f s = sendTicks (riseOut (switchMicrocode (bindFeeds (startFrame f s)))) := rfl

/-- Everything that a boundary changes. -/
theorem boundaryTo_frame (f : BitVec 48) (s : State) : ∃ p fs cs n a fab, boundaryTo f s = { s with
    tb := boundaryTb f s, pow := p, feeds := fs, cmds := cs, free := n, activating := a, fab := fab
    sup := raisedOut { s with tb := boundaryTb f s } } := by
  obtain ⟨fs, cs, n, bound⟩ := bindFeeds_feeds (startFrame f s)
  obtain ⟨a, cs', switched⟩ := switchMicrocode_frame (bindFeeds (startFrame f s))
  obtain ⟨fab, sent⟩ := sendTicks_fab (riseOut (switchMicrocode (bindFeeds (startFrame f s))))
  refine ⟨(startFrame f s).pow, fs, cs', n, a, fab, ?_⟩
  rw [boundaryTo_eq, sent, riseOut_eq, switched, bound]
  rfl

/-- R30: the frames that ticks of a higher number started, but for the present one. -/
def dropJump (s : State) : State := { s with tb := { s.tb with jumps := s.tb.jumps.filter fun j => decide (j.1 ≠ s.tb.frame) } }

theorem boundary_eq (s : State) : boundary s = boundaryTo (nextFrame s.tb) (dropJump s) := rfl

/-! ### The rest of the frame -/

/-- What the passing of time changes, the phase apart. -/
def TimeOnly (s t : State) : Prop := ∃ now slow out cs es xs ns st p, t = { s with
  tb := { s.tb with nowU := now, slowU := slow }, sup := { s.sup with frameOut := out }
  cmds := cs, ends := es, ctxs := xs, nodes := ns, stalls := st, pow := p }

theorem passTime_time (n : Nat) (s : State) : TimeOnly s (passTime n s) := ⟨_, _, _, _, _, _, _, _, _, rfl⟩

theorem TimeOnly.trans {a b c : State} (h : TimeOnly a b) (k : TimeOnly b c) : TimeOnly a c := by
  obtain ⟨now, slow, out, cs, es, xs, ns, st, p, rfl⟩ := h
  obtain ⟨now', slow', out', cs', es', xs', ns', st', p', rfl⟩ := k
  exact ⟨now', slow', out', cs', es', xs', ns', st', p', rfl⟩

theorem TimeOnly.tbRuns_eq {s t : State} (h : TimeOnly s t) : tbRuns t = tbRuns s := by
  obtain ⟨now, slow, out, cs, es, xs, ns, st, p, rfl⟩ := h
  rfl

/-- The last ph of the frame. -/
def toLastPh (s : State) : State := { s with tb := { s.tb with phase := 0xFFFF } }

/-- R23: the rest of a frame takes the phase to its last ph. -/
theorem elapse_rest (s : State) : elapse (0xFFFF - s.tb.phase.toNat) s = toLastPh (passTime (0xFFFF - s.tb.phase.toNat) s) := by
  have last : s.tb.phase + BitVec.ofNat 16 (0xFFFF - s.tb.phase.toNat) = 0xFFFF := by bv_omega
  obtain ⟨now, slow, out, cs, es, xs, ns, st, p, rest⟩ := passTime_time (0xFFFF - s.tb.phase.toNat) s
  rw [elapse, toLastPh, rest]
  dsimp only
  rw [last]

theorem onePh_last {s : State} (h : tbRuns s = true) (hp : s.tb.phase = 0xFFFF) : onePh s = boundary (passTime 1 s) := by
  rw [onePh, if_pos h, if_pos hp]

/-- R23: a running time base reaches the last ph of its frame, and a boundary follows. -/
theorem toBoundary_runs {s : State} (h : tbRuns s = true) : ∃ v, toBoundary s = boundary v ∧ TimeOnly (toLastPh s) v := by
  have rest : TimeOnly (toLastPh s) (toLastPh (passTime (0xFFFF - s.tb.phase.toNat) s)) := ⟨_, _, _, _, _, _, _, _, _, rfl⟩
  refine ⟨_, ?_, rest.trans (passTime_time 1 _)⟩
  rw [toBoundary, if_pos h, elapse_rest, onePh_last (rest.tbRuns_eq.trans h) rfl]

/-! ### Holdover -/

/-- The time base at the entry into HOLDOVER. -/
def heldOver (s : State) : TimeBase := { s.tb with
  st := .holdover, tickLost := true, holdovers := satAdd s.tb.holdovers 1, inSlew := 0, holdU := s.tb.nowU, holdFtw := s.ftw }

/-- R38, R408: HOLDOVER with its log entry. -/
def holdoverLogged (s : State) : State := logEntry 0x0005 0 (leBytes 8 s.ftw.toNat) { s with tb := heldOver s }

/-- R37, R38, R401: no tick was accepted for the start of the present frame. -/
theorem execHoldoverEntry_due {s : State} (h : tbRuns s = true) (hl : s.tb.st = .locked) (hp : 0x0400 ≤ s.tb.phase)
    (hm : s.tb.lastTickFrame < s.tb.frame) :
    ∃ fab fns msix, execHoldoverEntry s = .next { holdoverLogged s with fab := fab, fns := fns, msix := msix } := by
  have expects : expectsTick s.tb = true := by simp only [expectsTick, hl]
  have row : execHoldoverEntry s = .next (reportTickLost 0 (postAll 0x8013 0
      (leBytes 1 0xFF ++ leBytes 3 0 ++ leBytes 2 s.id.addr.toNat ++ leBytes 2 0 ++ leBytes 8 s.ftw.toNat) (holdoverLogged s))) :=
    congrArg Host.Outcome.next (if_pos ⟨h, expects, hp, hm⟩)
  obtain ⟨fns, msix, posted⟩ := postAll_host 0x8013 0
    (leBytes 1 0xFF ++ leBytes 3 0 ++ leBytes 2 s.id.addr.toNat ++ leBytes 2 0 ++ leBytes 8 s.ftw.toNat) (holdoverLogged s)
  obtain ⟨fab, sent⟩ := reportTickLost_fab 0 { holdoverLogged s with fns := fns, msix := msix }
  rw [posted, sent] at row
  exact ⟨fab, fns, msix, row⟩

/-- Settles O6: the rest of the frame passes, then what a boundary does; and the entry into HOLDOVER. -/
theorem framesBeginAndTicksGoMissing : Obligations.FramesBeginAndTicksGoMissing := by
  unfold Obligations.FramesBeginAndTicksGoMissing
  refine ⟨fun s h hin => ?boundary, fun s h hl hp hm => ?holdover⟩
  case boundary =>
    obtain ⟨v, last, now, slow, out, cs, es, xs, ns, st, p, rfl⟩ := toBoundary_runs h
    rw [boundary_eq] at last
    obtain ⟨p', fs, cs', n, a, fab, next⟩ := boundaryTo_frame _ (dropJump _)
    have row : exec .frameBoundary s = .next _ := congrArg Host.Outcome.next (last.trans next)
    obtain ⟨source, frame, phase, enabled⟩ := boundaryTb_spec _ (dropJump _)
    exact ⟨_, row, phase, frame, fun ha hf => boundaryTb_due ha (frame ▸ hf), fun hn => boundaryTb_notDue (frame ▸ hn), source,
      fun he => congrArg Supply.frameOut (if_pos ⟨enabled.trans he, hin⟩), rfl, rfl, rfl, rfl, rfl⟩
  case holdover =>
    obtain ⟨fab, fns, msix, row⟩ := execHoldoverEntry_due h hl hp hm
    exact ⟨_, row, rfl, rfl, rfl, rfl, rfl, rfl, rfl, rfl⟩

end Sys2Proof.Machine
end

section
/-!
Ticks in LOCKED (O8): the tick error against the boundary that started the frame, an accepted tick, a rejected one, and the arrival of
FRAME_IN edges and TICK packets.
-/
namespace Sys2Proof.Machine

/-! ### The tick error (R31) -/

section
variable {t : TimeBase} {corr : Nat}

theorem withinPh_iff {e : Int} {n : Nat} : withinPh t e n = true ↔ e.natAbs ≤ n * t.period.toNat := decide_eq_true_iff

/-- A tick in the first half of a frame is compared with the boundary that started it. -/
theorem tickError_past (h : 2 * sinceBoundary t corr < frameU t) : tickError t corr = (sinceBoundary t corr, false) :=
  if_neg (by omega)

/-- An edge has no correction: its error is the time since the boundary. -/
theorem sinceBoundary_edge : sinceBoundary t 0 = ((t.phase.toNat * t.period.toNat : Nat) : Int) := by
  simp [sinceBoundary]

/-- A tick whose correction does not reach back past the boundary. -/
theorem sinceBoundary_late (h : corr * 65536 ≤ t.phase.toNat * t.period.toNat) :
    sinceBoundary t corr = ((t.phase.toNat * t.period.toNat - corr * 65536 : Nat) : Int) := (Int.ofNat_sub h).symm

/-- R31: an error within 0x0400 ph lies in the first half of the frame. -/
theorem tickError_near {x : Nat} (hs : sinceBoundary t corr = x) (h : x ≤ 0x0400 * t.period.toNat) (hp : 0 < t.period.toNat) :
    tickError t corr = ((x : Int), false) := by
  rw [tickError_past, hs]
  rw [hs, frameU]
  omega

/-- R31: an edge more than 0x0400 ph from the boundaries before and after it is outside the window of both. -/
theorem tickError_far (lo : 0x0400 < t.phase.toNat) (hi : t.phase.toNat < 0xFC00) (hp : 0 < t.period.toNat) :
    withinPh t (tickError t 0).1 0x400 = false := by
  have early : 0x0400 * t.period.toNat < t.phase.toNat * t.period.toNat := Nat.mul_lt_mul_of_pos_right lo hp
  have late : t.phase.toNat * t.period.toNat < 0xFC00 * t.period.toNat := Nat.mul_lt_mul_of_pos_right hi hp
  rw [← Bool.not_eq_true, withinPh_iff, tickError, sinceBoundary_edge, frameU]
  split <;> dsimp only <;> omega

end

/-! ### Accepted and rejected ticks (R29, R31, R42) -/

/-- R29, R42: what an accepted tick notes in LOCKED, whatever it does to the phase. -/
def lockedTb (e : Int) (delayNs : Nat) (s : State) : TimeBase := { s.tb with
  accepted := s.tb.accepted + 1, lastErrPs := BitVec.ofInt 32 (e / 65536)
  hopDelayNs := if s.tb.source = 2 then BitVec.ofNat 16 delayNs else 0, hasTick := true, rejTimes := []
  inSlew := if withinPh s.tb e 0x10 then min 2 (s.tb.inSlew + 1) else 0, lastTickFrame := s.tb.frame }

/-- R31: an error within 0x0010 ph is trimmed over the frame, a larger one is removed at half rate. -/
def disciplinedTb (e : Int) (delayNs : Nat) (s : State) : TimeBase :=
  if withinPh s.tb e 0x10 then { lockedTb e delayNs s with trimU := e } else { lockedTb e delayNs s with slowU := e.toNat }

/-- R31: a tick accepted in LOCKED at or after the boundary. -/
theorem acceptTick_locked {s : State} {e : Int} {delayNs : Nat} (hl : s.tb.st = .locked) (he : 0 ≤ e) :
    acceptTick e false delayNs s = noteJoined { s with tb := disciplinedTb e delayNs s } := by
  have state : acceptState (withinPh s.tb e 0x10) (countAccepted e delayNs s).tb =
      { (countAccepted e delayNs s).tb with inSlew := if withinPh s.tb e 0x10 then min 2 (s.tb.inSlew + 1) else 0 } := by
    simp [acceptState, countAccepted, hl]
  have start : acceptTick e false delayNs s =
    noteJoined (discipline e false { countAccepted e delayNs s with
      tb := acceptState (withinPh s.tb e 0x10) (countAccepted e delayNs s).tb }) := rfl
  rw [start, state]
  refine congrArg noteJoined ?_
  by_cases h : withinPh s.tb e 0x10 = true
  · have trimmed : disciplinedTb e delayNs s = { lockedTb e delayNs s with trimU := e } := if_pos h
    rw [trimmed]
    exact if_pos h
  · have slowed : disciplinedTb e delayNs s = { lockedTb e delayNs s with slowU := e.toNat } := if_neg h
    have late : 0 < e := by
      rw [withinPh_iff] at h
      omega
    rw [slowed]
    exact (if_neg h).trans (if_pos late)

/-- R31: the first rejected tick is counted, and its time kept. -/
theorem rejectTick_first {s : State} (h : s.tb.rejTimes = []) (at' : Nat) : rejectTick at' s =
    { s with tb := { s.tb with rejected := satAdd s.tb.rejected 1, rejTimes := [at'], inSlew := 0 } } := by
  simp [rejectTick, h, someAgree, equalIntervals]

/-- R329: a module that no manager has confirmed does not become JOINED. -/
theorem noteJoined_unconfirmed {s : State} (h : s.fab.confirmed = false) : noteJoined s = s := by
  simp [noteJoined, h]

theorem noteJoined_fab (s : State) : FabOnly s (noteJoined s) := by
  unfold noteJoined
  split
  · exact ⟨_, rfl⟩
  · exact .refl s

/-! ### Edges and ticks -/

/-- R27, R419: an edge that is long enough is judged. -/
theorem exec_frameIn_long {s : State} {high : Nat} (h : tbRuns s = true) (hs : s.tb.source = 1) (hh : 20 ≤ high) :
    exec (.frameIn high) s = .next (judgeTick 0 none 0 s) := by
  have short : ¬high < 10 := by omega
  have unsure : ¬high < 20 := by omega
  simp [exec, execFrameIn, h, hs, short, unsure]

theorem exec_frameIn_short {s : State} {high : Nat} (hh : high < 10) : exec (.frameIn high) s = .next s := by
  simp [exec, execFrameIn, hh]

section
variable {s : State} {corr delayNs : Nat} (hq : s.tb.needAcq = false)
include hq

/-- R31: an edge within the window is accepted. -/
theorem judgeTick_edge {e : Int} {ahead : Bool} (he : tickError s.tb corr = (e, ahead)) (hw : withinPh s.tb e 0x400 = true) :
    judgeTick corr none delayNs s = acceptTick e ahead delayNs s := by
  simp [judgeTick, hq, he, hw]

/-- R30, R31: a tick of the local frame within the window is accepted, unless a re-base is due. -/
theorem judgeTick_frame {e : Int} (he : tickError s.tb corr = (e, false)) (hw : withinPh s.tb e 0x400 = true)
    (hb : s.tb.backward = false ∨ hostCtxExists s = true) :
    judgeTick corr (some s.tb.frame) delayNs s = acceptTick e false delayNs s := by
  have stays : reBases s.tb.frame s.tb.frame s = false := by
    rcases hb with hb | hb <;> simp [reBases, hb]
  simp [judgeTick, hq, he, hw, predicted, stays]

/-- R31: a tick outside the window is rejected. -/
theorem judgeTick_outside {n : Option (BitVec 48)} (hw : withinPh s.tb (tickError s.tb corr).1 0x400 = false) :
    judgeTick corr n delayNs s = rejectTick (s.tb.nowU - corr * 65536) s := by
  simp [judgeTick, hq, hw]

end

/-- R31, R42: what an accepted tick of error x past the boundary leaves in LOCKED. -/
theorem disciplinedTb_spec (x delayNs : Nat) (s : State) :
    (disciplinedTb x delayNs s).accepted = s.tb.accepted + 1 ∧ (disciplinedTb x delayNs s).rejected = s.tb.rejected ∧
    (disciplinedTb x delayNs s).frame = s.tb.frame ∧ (disciplinedTb x delayNs s).phase = s.tb.phase ∧
    (disciplinedTb x delayNs s).lastTickFrame = s.tb.frame ∧ (disciplinedTb x delayNs s).st = s.tb.st ∧
    (disciplinedTb x delayNs s).hopDelayNs = (if s.tb.source = 2 then BitVec.ofNat 16 delayNs else 0) ∧
    (x ≤ 0x10 * s.tb.period.toNat → (disciplinedTb x delayNs s).trimU = (x : Int)) ∧
    (0x10 * s.tb.period.toNat < x → (disciplinedTb x delayNs s).slowU = x) := by
  have near : withinPh s.tb (x : Int) 0x10 = true ↔ x ≤ 0x10 * s.tb.period.toNat := withinPh_iff
  unfold disciplinedTb
  split
  · next h => exact ⟨rfl, rfl, rfl, rfl, rfl, rfl, rfl, fun _ => rfl, fun far => absurd (near.mp h) (Nat.not_le.mpr far)⟩
  · next h => exact ⟨rfl, rfl, rfl, rfl, rfl, rfl, rfl, fun hx => absurd (near.mpr hx) h, fun _ => rfl⟩

/-- R31, R42: a tick of the local frame, of error x past the boundary and within the window, in LOCKED. -/
theorem judgeTick_locked {s : State} {corr x delayNs : Nat} (hl : s.tb.st = .locked) (hq : s.tb.needAcq = false)
    (hb : s.tb.backward = false ∨ hostCtxExists s = true) (hs : sinceBoundary s.tb corr = x) (hx : x ≤ 0x0400 * s.tb.period.toNat)
    (hp : 0 < s.tb.period.toNat) : ∃ tb fab, judgeTick corr (some s.tb.frame) delayNs s = { s with tb := tb, fab := fab } ∧
      tb.accepted = s.tb.accepted + 1 ∧ tb.rejected = s.tb.rejected ∧ tb.frame = s.tb.frame ∧ tb.phase = s.tb.phase ∧
      tb.st = .locked ∧ tb.hopDelayNs = if s.tb.source = 2 then BitVec.ofNat 16 delayNs else 0 := by
  have judged := judgeTick_frame (delayNs := delayNs) hq (tickError_near hs hx hp) (withinPh_iff.mpr hx) hb
  rw [acceptTick_locked hl (Int.natCast_nonneg x)] at judged
  obtain ⟨fab, joined⟩ := noteJoined_fab { s with tb := disciplinedTb x delayNs s }
  obtain ⟨accepted, rejected, frame, phase, -, st, hop, -, -⟩ := disciplinedTb_spec x delayNs s
  exact ⟨_, fab, judged.trans joined, accepted, rejected, frame, phase, st.trans hl, hop⟩

/-- R308: taking a packet leaves the delay of every port. -/
theorem takenPort_delay (port : Nat) (p : Packet) (s : State) (q : Nat) :
    (getPort (s.taken port p) q).delayPs = (getPort s q).delayPs := by
  unfold State.taken takeLink
  dsimp only
  split
  · rfl
  · split
    · rfl
    · have delay : ∀ f : Port → Port, (∀ x, (f x).delayPs = x.delayPs) →
          (getPort (modPort port f s) q).delayPs = (getPort s q).delayPs := by
        intro f hf
        by_cases h : q = port
        · rw [h, getPort_modPort_self, hf]
        · rw [getPort_modPort_ne h]
      split
      · exact delay _ fun _ => rfl
      · split
        · rfl
        · exact delay _ fun _ => rfl

/-- R324, R325: a TICK that is taken. -/
theorem exec_tick_takes {s : State} {port : Nat} {p : Packet} (h : s.takes port ptTick p) (hr : tbRuns s = true) :
    exec (.tick port p) s = .next (
      if s.fab.confirmed = false ∨ s.tb.tickParent ≠ some (dstAddr p.src) then
        { s.taken port p with tb := { (s.taken port p).tb with rejected := satAdd s.tb.rejected 1 } }
      else if s.tb.source ≠ 2 then s.taken port p
      else judgeTick (field p.payload 8 8) (some (BitVec.ofNat 48 (field p.payload 0 8 / 65536))) (hopNs s port) (s.taken port p)) := by
  obtain ⟨ps, taken⟩ := taken_ports port p s
  have runs : tbRuns (s.taken port p) = true := by rw [taken]; exact hr
  have hop : hopNs (s.taken port p) port = hopNs s port := by rw [hopNs, takenPort_delay, hopNs]
  refine congrArg Host.Outcome.next ?_
  rw [arrive_takes h]
  simp only [runs, hop, Bool.not_true, Bool.false_eq_true, if_false]
  rw [taken]

/-- Settles O8: the edges by their error, the ticks by their sender, the source in force and their error. -/
theorem ticksAreJudged : Obligations.TicksAreJudged := by
  unfold Obligations.TicksAreJudged
  refine ⟨fun s high h hs hl hq hp => ⟨exec_frameIn_short, fun hh hw hc => ?accepted, fun hh lo hi hr => ?rejected⟩,
    fun s port p hk hr => ⟨fun hc => ?stranger, fun hc hm hs => ?otherSource, fun hc hm hs hl hq hf hp hb hlo hhi => ?tick⟩⟩
  case accepted =>
    have near : s.tb.phase.toNat * s.tb.period.toNat ≤ 0x0400 * s.tb.period.toNat := Nat.mul_le_mul_right _ hw
    have row := exec_frameIn_long h hs hh
    rw [judgeTick_edge hq (tickError_near sinceBoundary_edge near hp) (withinPh_iff.mpr near),
      acceptTick_locked hl (Int.natCast_nonneg _), noteJoined_unconfirmed (by exact hc)] at row
    obtain ⟨accepted, -, frame, phase, last, st, -, trim, slow⟩ := disciplinedTb_spec _ 0 s
    exact ⟨_, row, accepted, frame, phase, last, st.trans hl, fun near => trim (Nat.mul_le_mul_right _ near),
      fun far => slow (Nat.mul_lt_mul_of_pos_right far hp), rfl⟩
  case rejected =>
    have row := exec_frameIn_long h hs hh
    rw [judgeTick_outside hq (tickError_far lo hi hp), rejectTick_first hr] at row
    exact ⟨_, row, rfl, rfl, hl, rfl⟩
  case stranger => rw [exec_tick_takes hk hr, if_pos hc]
  case otherSource => rw [exec_tick_takes hk hr, if_neg (by simp [hc, hm]), if_pos hs]
  case tick =>
    have row := exec_tick_takes hk hr
    rw [if_neg (by simp [hc, hm]), if_neg (not_not_intro hs), hf] at row
    obtain ⟨ps, taken⟩ := taken_ports port p s
    rw [taken] at row
    obtain ⟨tb, fab, judged, accepted, rejected, frame, phase, st, hop⟩ := judgeTick_locked (s := { s with
      fab := { s.fab with ports := ps } }) (delayNs := hopNs s port) hl hq hb (sinceBoundary_late hlo) hhi hp
    refine ⟨_, row.trans (congrArg _ judged), accepted, rejected, congrArg₂ (· ++ ·) frame phase, st, ?_, rfl, rfl⟩
    exact hop.trans (if_pos hs)

end Sys2Proof.Machine
end

section
/-!
Supplies and start-up (O56): what each supply keeps, the start of the boot ROM's slot, the mailbox at 900 ms, full operation, and the
critical temperature.
-/
namespace Sys2Proof.Machine

/-! ### The supplies (R377, R407, R416, R417) -/

section
variable {s : State}

theorem execAuxSupplyValid_again (ha : s.sup.aux = true) (straps : BitVec 3) : execAuxSupplyValid straps s = .next s := if_pos ha

theorem execAuxSupplyValid_late (ha : s.sup.aux = false) (hv : s.sup.v40 = true) (straps : BitVec 3) :
    execAuxSupplyValid straps s = .fault .undefinedSupply := (if_neg (by simp [ha])).trans (if_pos hv)

theorem execAuxSupplyRemoval_absent (ha : s.sup.aux = false) : execAuxSupplyRemoval s = .next s := if_pos (by simp [ha])

theorem execAuxSupplyRemoval_early (ha : s.sup.aux = true) (hv : s.sup.v40 = true) :
    execAuxSupplyRemoval s = .fault .undefinedSupply := (if_neg (by simp [ha])).trans (if_pos hv)

theorem execSupplyRemoval_absent (hv : s.sup.v40 = false) : execSupplyRemoval s = .next s :=
  congrArg Host.Outcome.next (if_neg (by simp [hv]))

/-- R417: the end of the 40 V input. -/
theorem execSupplyRemoval_present (hv : s.sup.v40 = true) : execSupplyRemoval s = .next { keptDark s with
    sup := { (keptDark s).sup with v40 := false, offU := some s.tb.nowU } } := congrArg Host.Outcome.next (if_pos hv)

/-! ### Start-up to BOOTING (R340, R341, R354, R357) -/

/-- R340, R421: the module with both supplies, before its image starts. -/
def poweredUp (calOk : Bool) (s : State) : State := { keptDark s with
  id := startIl (applyOuts s.id)
  sup := { (keptDark s).sup with
    in40 := true, v40 := true, offU := none, wakeLow := false, tripLow := false, critOff := false, frameOut := .low
    bothU := s.tb.nowU, slowCal := !calOk, in40AtAux := decide (s.tb.nowU = 0) } }

/-- R284, R302, R304: what start-up reckons of the memory leaves the choice of a slot. -/
theorem poweredUp_slots (calOk : Bool) (s : State) : (poweredUp calOk s).id.activeB = s.id.activeB ∧
    (poweredUp calOk s).id.trialNext = s.id.trialNext := by
  simp only [poweredUp, startIl, applyOuts, and_self]

theorem execStartUp_again (hv : s.sup.v40 = true) (a b c : Bool) : execStartUp a b c s = .next s := if_pos hv

theorem execStartUp_undefined (hv : s.sup.v40 = false) (h : s.sup.aux = false ∨ offLongEnough s = false) (a b c : Bool) :
    execStartUp a b c s = .fault .undefinedSupply := (if_neg (by simp [hv])).trans (if_pos (by simpa using h))

theorem execStartUp_due (hv : s.sup.v40 = false) (ha : s.sup.aux = true) (ho : offLongEnough s = true) (a b c : Bool) :
    execStartUp a b c s = .next (bootSlot a b (poweredUp c s)) := (if_neg (by simp [hv])).trans (if_neg (by simp [ha, ho]))

end

/-- R354: the boot ROM's choice of a slot changes the slots and the log. -/
theorem bootSlot_others (a b : Bool) (s : State) : (bootSlot a b s).sup = s.sup ∧ (bootSlot a b s).mb = s.mb ∧
    (bootSlot a b s).mem = s.mem ∧ (bootSlot a b s).cmds = s.cmds ∧ (bootSlot a b s).tb = s.tb ∧ (bootSlot a b s).pow = s.pow := by
  unfold bootSlot
  extract_lets good mark first trial s1 s2 s3
  split
  · exact ⟨rfl, rfl, rfl, rfl, rfl, rfl⟩
  · split <;> exact ⟨rfl, rfl, rfl, rfl, rfl, rfl⟩

/-- R341, R357: with both images good the slot of the next start is active, and nothing is logged. -/
theorem bootSlot_good (s : State) : bootSlot true true s = { s with id := { s.id with
    activeB := if s.id.trialNext then !s.id.activeB else s.id.activeB, trial := s.id.trial || s.id.trialNext, trialNext := false } } := by
  simp [bootSlot]

/-- R341: the active slot A fails verification and slot B starts, with one entry. -/
theorem bootSlot_fallback {s : State} (hn : s.id.trialNext = false) (ha : s.id.activeB = false) :
    (bootSlot false true s).id.activeB = true ∧ (bootSlot false true s).id.slotA.st = .invalid ∧
    (bootSlot false true s).log.next = s.log.next + 1 := by
  simp [bootSlot, hn, ha, logImage, logEntry]

/-! ### The RTC's alarm (R381, R421) -/

section
variable {s : State} {time : Nat} (ht : s.pow.rtcAlarm = some time)
include ht

theorem execRtcAlarm_early (h : s.rtcUs < time) : execRtcAlarm s = .next s := by
  simp [execRtcAlarm, ht, Nat.not_le.mpr h]

theorem execRtcAlarm_dark (ha : s.sup.aux = true) (h : time ≤ s.rtcUs) (hi : s.sup.in40 = false) (hv : s.sup.v40 = false) :
    execRtcAlarm s = .next { s with pow := { s.pow with rtcAlarm := none }, sup := { s.sup with wakeLow := true } } := by
  simp [execRtcAlarm, ht, ha, h, hi, hv]

theorem execRtcAlarm_wakes (ha : s.sup.aux = true) (h : time ≤ s.rtcUs) (hi : s.sup.in40 = true) :
    execRtcAlarm s = .next (wakeUp { s with pow := { s.pow with rtcAlarm := none } }) := by
  simp [execRtcAlarm, ht, ha, h, hi]

end

/-! ### The mailbox at 900 ms (R329, R340, R341) -/

theorem getPort_setLink_self (p : Nat) (st : PortState) (f : Port → Port) (s : State) :
    getPort (setLink p st f s) p = { f (getPort s p) with st := st } := getPort_modPort_self (s := s) (f := fun q => { f q with st := st })

theorem getPort_setLink_ne {p q : Nat} (h : q ≠ p) (st : PortState) (f : Port → Port) (s : State) :
    getPort (setLink p st f s) q = getPort s q := getPort_modPort_ne (s := s) (f := fun q => { f q with st := st }) h

/-- Links that take a state one after the other: each of them has it, the others are as they were, and each wrote one entry. -/
theorem foldl_setLink (st : PortState) (l : List Nat) (s : State) :
    (∀ p ∈ l, (getPort (l.foldl (fun s p => setLink p st id s) s) p).st = st) ∧
    (∀ p, p ∉ l → getPort (l.foldl (fun s p => setLink p st id s) s) p = getPort s p) ∧
    (l.foldl (fun s p => setLink p st id s) s).log.next = s.log.next + l.length ∧
    ∃ fab log, l.foldl (fun s p => setLink p st id s) s = { s with fab := fab, log := log } := by
  induction l generalizing s with
  | nil => exact ⟨by simp, fun _ _ => rfl, rfl, _, _, rfl⟩
  | cons q l ih =>
    obtain ⟨all, others, entries, fab, log, frame⟩ := ih (setLink q st id s)
    rw [List.foldl_cons]
    refine ⟨fun p hp => ?_, fun p hp => ?_, ?_, fab, log, frame⟩
    · by_cases h : p ∈ l
      · exact all p h
      · obtain rfl : p = q := by simpa [h] using hp
        rw [others p h, getPort_setLink_self]
    · rw [others p (List.not_mem_of_not_mem_cons hp), getPort_setLink_ne (List.ne_of_not_mem_cons hp)]
    · rw [entries, List.length_cons, Nat.add_comm l.length, ← Nat.add_assoc]
      rfl

section
variable {s : State}

theorem execStartUpMailbox_early (h : s.since s.sup.bothU (900 * msU) = false) : execStartUpMailbox s = .next s :=
  congrArg Host.Outcome.next (if_neg (by simp [h]))

variable (hb : s.mb = .booting) (hi : s.sup.in40 = true) (h : s.since s.sup.bothU (900 * msU) = true)
include hb hi h

theorem execStartUpMailbox_noImage (hv : activeValid s = false) : execStartUpMailbox s = .next { s with mb := .failed } :=
  congrArg Host.Outcome.next ((if_pos ⟨hb, hi, h⟩).trans (if_pos (by simp [hv])))

/-- R340: calibration begins, the start is logged and the torus links train. -/
theorem execStartUpMailbox_starts (hv : activeValid s = true) : execStartUpMailbox s = .next ((torusPorts s.id).foldl
    (fun s p => setLink p .training id s)
    (logEntry 0x0001 0 (leBytes 4 (fwVersion s).toNat ++ leBytes 1 (b2n s.sup.in40AtAux)) { s with mb := .calibrating })) :=
  congrArg Host.Outcome.next ((if_pos ⟨hb, hi, h⟩).trans (if_neg (by simp [hv])))

end

/-! ### Full operation (R340, R341, R404) -/

/-- Puts of one value at a list of keys: each key of the list reads as that value. -/
theorem Tbl.get_foldl_put {α : Type} [DecidableEq α] {d a : α} {k : Nat} (l : List Nat) (t : Tbl α)
    (h : k ∈ l ∨ Tbl.get d t k = a) : Tbl.get d (l.foldl (fun t i => Tbl.put d t i a) t) k = a := by
  induction l generalizing t with
  | nil => simpa using h
  | cons i l ih =>
    refine ih _ ?_
    by_cases hk : k = i
    · exact .inr (hk ▸ Tbl.get_put_self)
    · rw [Tbl.get_put_ne hk]
      simpa [hk] using h

/-- R302: the channels that flash names as out. -/
def outChannels (i : Ident) : List Nat := (List.range 8).flatMap fun k => (i.outChans.getD k []).map fun c => k * 32 + c

theorem mem_outChannels {i : Ident} {k c : Nat} (hk : k < 8) (hc : c ∈ i.outChans.getD k []) : k * 32 + c ∈ outChannels i :=
  List.mem_flatMap.mpr ⟨k, List.mem_range.mpr hk, List.mem_map.mpr ⟨c, hc, rfl⟩⟩

section
variable {s : State} {due : Nat} (hd : due = if s.sup.slowCal then 8 * secU else 1500 * msU)
include hd

theorem execStartUpFullOperation_early (h : s.since s.sup.bothU due = false) : execStartUpFullOperation s = .next s :=
  congrArg Host.Outcome.next (if_neg (by rw [← hd, h]; simp))

theorem execStartUpFullOperation_due (hb : s.mb = .calibrating) (h : s.since s.sup.bothU due = true) :
    execStartUpFullOperation s = .next { s with
      mb := .ready, mem := memWrite s.mem (dumpBase s.id + 8) 0xFF, tb := { nowU := s.tb.nowU }
      pow := { s.pow with chans := (outChannels s.id).foldl (fun t i => Tbl.put .normal t i .out) s.pow.chans } } :=
  congrArg Host.Outcome.next (if_pos ⟨hb, hd ▸ h⟩)

end

/-! ### Critical temperature (R375, R422) -/

theorem execCriticalTemp_below {s : State} {die : Nat} {temp : BitVec 16} (h : temp.toInt < criticalAt die) :
    execCriticalTemp die temp s = .next s := congrArg Host.Outcome.next (if_neg (by omega))

theorem execCriticalTemp_reached {s : State} {die : Nat} {temp : BitVec 16} (hi : s.sup.in40 = true) (hd : die < 20)
    (h : criticalAt die ≤ temp.toInt) : execCriticalTemp die temp s = .next { keptDark (logEntry 0x0008 0
        (leBytes 1 die ++ [0] ++ leBytes 2 temp.toNat) s) with
      sup := { (keptDark s).sup with critOff := true, tripLow := true } } := congrArg Host.Outcome.next (if_pos ⟨hi, hd, h⟩)

section
variable {s : State} {t0 : Nat} (ho : s.sup.offU = some t0)
include ho

theorem execThermtripRelease_due (hc : s.sup.critOff = true) (hv : s.sup.v40 = false) (h : s.since t0 secU = true) :
    execThermtripRelease s = .next { s with sup := { s.sup with critOff := false, tripLow := false } } := by
  simp [execThermtripRelease, ho, hc, hv, h]

theorem execThermtripRelease_early (h : s.since t0 secU = false) : execThermtripRelease s = .next s := by
  simp [execThermtripRelease, ho, h]

end

/-- Settles O56: the supplies, the start, the alarm, the two instants of start-up, and the critical temperature in turn. -/
theorem suppliesAndStartUp : Obligations.SuppliesAndStartUp := by
  unfold Obligations.SuppliesAndStartUp
  refine ⟨fun s => ⟨fun straps => ⟨fun ha => execAuxSupplyValid_again ha straps, fun ha hv => execAuxSupplyValid_late ha hv straps,
      fun ha hv => ?auxValid⟩, execAuxSupplyRemoval_absent, execAuxSupplyRemoval_early, fun ha hv => ?auxRemoved,
      execSupplyRemoval_absent, fun hv => ?removed,
      fun a b c => ⟨fun hv => execStartUp_again hv a b c, fun hv h => execStartUp_undefined hv h a b c, fun hv ha ho => ?startUp⟩,
      fun time ht ha => ⟨execRtcAlarm_early ht, execRtcAlarm_dark ht ha, execRtcAlarm_wakes ht ha⟩⟩,
    fun s hb hi => ⟨execStartUpMailbox_early, execStartUpMailbox_noImage hb hi, fun h hv => ?mailbox⟩,
    fun s hb due hd => ⟨execStartUpFullOperation_early hd, fun h => ?fullOperation⟩,
    fun s die temp hi hd => ⟨execCriticalTemp_below, fun h => ?critical⟩,
    fun s t0 ho hc hv => ⟨execThermtripRelease_due ho hc hv, execThermtripRelease_early ho⟩⟩
  case auxValid =>
    exact ⟨_, (if_neg (by simp [ha])).trans (if_neg (by simp [hv])), rfl, rfl, Nat.zero_div _, rfl, rfl, rfl, rfl, rfl, rfl⟩
  case auxRemoved => exact ⟨_, (if_neg (by simp [ha])).trans (if_neg (by simp [hv])), rfl, rfl, rfl, rfl, rfl⟩
  case removed => exact ⟨_, execSupplyRemoval_present hv, rfl, rfl, rfl, rfl, rfl, fun _ => rfl, rfl, rfl, rfl, rfl, rfl, rfl, rfl, rfl⟩
  case startUp =>
    obtain ⟨sup, mb, mem, cmds, tb, pow⟩ := bootSlot_others a b (poweredUp c s)
    obtain ⟨active, next⟩ := poweredUp_slots c s
    refine ⟨_, execStartUp_due hv ha ho a b c, congrArg Supply.v40 sup, congrArg Supply.in40 sup, congrArg Supply.bothU sup,
      congrArg Supply.wakeLow sup, congrArg Supply.tripLow sup, congrArg Supply.slowCal sup, mb, mem, cmds,
      congrArg (fun t => t.nowU / usU) tb, (congrArg Power.rtcAlarm pow :), ?_, ?_⟩
    · rintro rfl rfl
      rw [bootSlot_good, active, next]
      exact ⟨rfl, rfl⟩
    · rintro hn - hact rfl rfl
      exact bootSlot_fallback (next.trans hn) (active.trans hact)
  case mailbox =>
    obtain ⟨all, others, entries, fab, log, frame⟩ := foldl_setLink .training (torusPorts s.id)
      (logEntry 0x0001 0 (leBytes 4 (fwVersion s).toNat ++ leBytes 1 (b2n s.sup.in40AtAux)) { s with mb := .calibrating })
    refine ⟨_, execStartUpMailbox_starts hb hi h hv, ?_, all, others, entries, ?_⟩
    all_goals
      rw [frame]
      rfl
  case fullOperation =>
    have zero : (0 : BitVec 48) ++ (0 : BitVec 16) = (0 : W64) := by decide
    have newest : memRead (memWrite s.mem (dumpBase s.id + 8) 0xFF) (dumpBase s.id + 8) = 0xFF := memRead_memWrite_self
    have others : ∀ x, x ≠ dumpBase s.id + 8 → memRead (memWrite s.mem (dumpBase s.id + 8) 0xFF) x = memRead s.mem x :=
      fun x hx => memRead_memWrite_ne hx
    exact ⟨_, execStartUpFullOperation_due hd hb h, rfl, zero, rfl, newest, others,
      fun k ch hk _ hm => Tbl.get_foldl_put _ _ (.inl (mem_outChannels hk hm)), rfl⟩
  case critical => exact ⟨_, execCriticalTemp_reached hi hd h, rfl, rfl, rfl, rfl, rfl, rfl, rfl⟩

end Sys2Proof.Machine
end

section
/-!
The integrity word's check (O15).
-/
namespace Sys2Proof.Machine

/-- A byte appended is one more byte fed to the register. -/
theorem crc16_append (bs : Bytes) (x : Byte) : crc16 (bs ++ [x]) = crc16Byte (crc16 bs) x := List.foldl_concat ..

/-- Settles O15: a byte is fed bit by bit, the bit shifted out being the register's highest. -/
theorem integrityWordIsXmodem : Obligations.IntegrityWordIsXmodem := by
  unfold Obligations.IntegrityWordIsXmodem
  refine ⟨rfl, fun bs x => ?_, by decide +kernel⟩
  rw [crc16_append]
  unfold crc16Byte
  simp only [BitVec.msb_eq_getLsbD_last]

end Sys2Proof.Machine
end

section
/-!
How the work of a unit is put together: what each of its steps answers on a unit whose state is known.
-/
namespace Sys2Proof.Machine

section
variable {α β : Type} {x : EngM α} {f : α → EngM β} {e e' : Eng}

/-- Work goes on from where its first part ended. -/
theorem bind_ok {a : α} (h : x e = .ok a e') : (x >>= f) e = f a e' := by
  simp only [Bind.bind, EStateM.bind, h]

/-- Work stops where its first part stops. -/
theorem bind_error {r : EngStop} (h : x e = .error r e') : (x >>= f) e = .error r e' := by
  simp only [Bind.bind, EStateM.bind, h]

theorem get_bind {k : Eng → EngM β} : ((get : EngM Eng) >>= k) e = k e e := rfl

theorem getS_bind {k : State → EngM β} : (getS >>= k) e = k e.s e := rfl

theorem modS_bind {g : State → State} {k : Unit → EngM β} : (modS g >>= k) e = k () { e with s := g e.s } := rfl

theorem addWarn_bind {w : BitVec 16} {k : Unit → EngM β} : (addWarn w >>= k) e = k () { e with warns := e.warns ||| w } := rfl

/-- R59: a counter that the unit's context owns. -/
theorem needCtr_owned {n : Nat} (h : ctrOwned e.s e.ctx n = true) : needCtr n e = .ok () e := by
  unfold needCtr
  rw [get_bind, if_pos h]
  rfl

/-- R59: a counter of another context is a fault. -/
theorem needCtr_foreign {n : Nat} (h : ctrOwned e.s e.ctx n = false) : needCtr n e = .error (.fault stTranslation (ctrInfo n)) e := by
  unfold needCtr
  rw [get_bind, h, if_neg Bool.false_ne_true]
  rfl

end

end Sys2Proof.Machine
end

section
/-!
Commands of the list: what a change of every command does to each, and what the end of a command, a fault, a progress event and an
update of a counter do.
-/
namespace Sys2Proof.Machine

/-- A change of every command that keeps their numbers is found in each. -/
theorem findCmd_map {s t : State} {w : Cmd → Cmd} (h : t.cmds = s.cmds.map w) (hw : ∀ c, (w c).k = c.k) (j : Nat) :
    findCmd t j = (findCmd s j).map w := by
  have same : ((fun c : Cmd => c.k == j) ∘ w) = fun c => c.k == j := by
    funext c
    simp [hw]
  unfold findCmd
  rw [h, List.find?_map, same]

theorem Releases.keeps_k {w : Cmd → Cmd} (h : Releases w) (c : Cmd) : (w c).k = c.k := by
  obtain ⟨b, r, e⟩ := h c
  rw [e]

theorem findCmd_congr {s t : State} (h : t.cmds = s.cmds) (j : Nat) : findCmd t j = findCmd s j := by
  unfold findCmd
  rw [h]

theorem FabOnly.find {s t : State} (h : FabOnly s t) (j : Nat) : findCmd t j = findCmd s j := by
  obtain ⟨f, rfl⟩ := h
  rfl

/-! ### Progress (R388) -/

/-- A progress event restarts counts of the watchdog and does nothing else. -/
theorem progress_frame (k : Nat) (s : State) : progress k s = { s with cmds := (progress k s).cmds } := by
  unfold progress
  split <;> rfl


theorem findCmd_progress {s : State} {k : Nat} {c : Cmd} (h : findCmd s k = some c) (j : Nat) :
    findCmd (progress k s) j = (findCmd s j).map fun d => if d.k = k ∨ sameWatch s c d = true then { d with wdog := 0 } else d := by
  refine findCmd_map (by simp only [progress, h]) (fun d => ?_) j
  split <;> rfl

/-! ### Faults (R67, R386) -/

/-- The command that a fault leaves: ended, with a RESULT that its rule states or a free one. -/
def Cmd.faulted (s : State) (c : Cmd) (status : Nat) (info : FaultInfo) : Cmd :=
  { c with
    st := .done, preempted := false, status := BitVec.ofNat 16 status, result := endResult c.k s,
    detail := info.element.setWidth 32, fault := { info with ftw := s.ftw } }

@[simp] theorem Cmd.faulted_ctx (s : State) (c : Cmd) (status : Nat) (info : FaultInfo) : (c.faulted s status info).ctx = c.ctx := rfl
@[simp] theorem Cmd.faulted_q (s : State) (c : Cmd) (status : Nat) (info : FaultInfo) : (c.faulted s status info).q = c.q := rfl
@[simp] theorem Cmd.faulted_st (s : State) (c : Cmd) (status : Nat) (info : FaultInfo) : (c.faulted s status info).st = .done := rfl
@[simp] theorem Cmd.faulted_credit (s : State) (c : Cmd) (status : Nat) (info : FaultInfo) :
    (c.faulted s status info).credit = c.credit := rfl

/-- A fault ends the command, abandons its requests, and changes nothing else. -/
theorem faultCmd_frame (k status : Nat) (info : FaultInfo) (s : State) : faultCmd k status info s =
    { s with cmds := (faultCmd k status info s).cmds, fab := (faultCmd k status info s).fab, free := s.free + 1 } := by
  obtain ⟨f, hf⟩ := dropReqs_fab k { s with free := s.free + 1 }
  unfold faultCmd endCmd
  rw [hf]
  rfl

@[simp] theorem faultCmd_mem (k st : Nat) (info : FaultInfo) (s : State) : (faultCmd k st info s).mem = s.mem := by
  rw [faultCmd_frame]
@[simp] theorem faultCmd_ctxs (k st : Nat) (info : FaultInfo) (s : State) : (faultCmd k st info s).ctxs = s.ctxs := by
  rw [faultCmd_frame]
@[simp] theorem faultCmd_counters (k st : Nat) (info : FaultInfo) (s : State) : (faultCmd k st info s).counters = s.counters := by
  rw [faultCmd_frame]
@[simp] theorem faultCmd_queues (k st : Nat) (info : FaultInfo) (s : State) : (faultCmd k st info s).queues = s.queues := by
  rw [faultCmd_frame]
@[simp] theorem faultCmd_nextK (k st : Nat) (info : FaultInfo) (s : State) : (faultCmd k st info s).nextK = s.nextK := by
  rw [faultCmd_frame]
@[simp] theorem faultCmd_nextStart (k st : Nat) (info : FaultInfo) (s : State) : (faultCmd k st info s).nextStart = s.nextStart := by
  rw [faultCmd_frame]
@[simp] theorem faultCmd_rst (k st : Nat) (info : FaultInfo) (s : State) : (faultCmd k st info s).rst = s.rst := by
  rw [faultCmd_frame]

theorem findCmd_faultCmd {s : State} {k : Nat} {c : Cmd} (h : findCmd s k = some c) (status : Nat) (info : FaultInfo) :
    findCmd (faultCmd k status info s) k = some (c.faulted s status info) := by
  obtain ⟨f, hf⟩ := dropReqs_fab k { s with free := s.free + 1 }
  unfold faultCmd
  rw [findCmd_modCmd_self (by intro c; rfl), findCmd_endCmd_self, hf]
  change ((findCmd s k).map _).map _ = _
  rw [h, ← findCmd_k h]
  rfl

theorem faultCmd_ended {s : State} {k : Nat} {c : Cmd} (h : findCmd s k = some c) (status : Nat) (info : FaultInfo) :
    (faultCmd k status info s).ended k status := ⟨_, findCmd_faultCmd h status info, rfl, rfl⟩

/-! ### Updates of counters (R60) -/

/-- An update of counters changes of a command only whether its wait is released. -/
theorem CtrOnly.find {s t : State} (h : CtrOnly s t) : ∃ w, Releases w ∧ ∀ j, findCmd t j = (findCmd s j).map w := by
  obtain ⟨c, e, f, w, hw, rfl⟩ := h
  exact ⟨w, hw, findCmd_map rfl hw.keeps_k⟩

theorem CtrOnly.othersReleased {s t : State} (h : CtrOnly s t) (k : Nat) : s.othersReleased t k := by
  obtain ⟨w, hw, hf⟩ := h.find
  intro j _
  rw [hf, Option.map_map]
  congr 1
  funext d
  obtain ⟨b, r, e⟩ := hw d
  simp [e]

/-- R60: an addition, at most to the largest value. -/
theorem ctrGet_ctrAdd_self (s : State) (ctx n v : Nat) :
    ctrGet (ctrAdd ctx n v s).2 n = BitVec.ofNat 64 (min ((ctrGet s n).toNat + v) (2 ^ 64 - 1)) := by
  rw [ctrGet, ctrAdd_counters]
  exact Tbl.get_put_self

theorem ctrGet_ctrAdd_ne {s : State} {ctx n v m : Nat} (h : m ≠ n) : ctrGet (ctrAdd ctx n v s).2 m = ctrGet s m := by
  rw [ctrGet, ctrAdd_counters]
  exact Tbl.get_put_ne h

/-- R60: a set gives the larger of the old and the written value. -/
theorem ctrGet_ctrSet_self (s : State) (ctx n v : Nat) :
    ctrGet (ctrSet ctx n v s) n = BitVec.ofNat 64 (max (ctrGet s n).toNat v) := by
  unfold ctrSet
  dsimp only
  split
  · rw [max_eq_left (by omega), BitVec.ofNat_toNat, BitVec.setWidth_eq]
  · rw [max_eq_right (by omega), ctrGet, forwardAll_counters]
    exact ctrGet_ctrPut_self

theorem ctrGet_ctrSet_ne {s : State} {ctx n v m : Nat} (h : m ≠ n) : ctrGet (ctrSet ctx n v s) m = ctrGet s m := by
  unfold ctrSet
  dsimp only
  split
  · rfl
  · rw [ctrGet, forwardAll_counters]
    exact ctrGet_ctrPut_ne h

/-! ### What an engine has done -/

@[simp] theorem finishCmd_mem (k : Nat) (r : Option W64) (d : Option Nat) (s : State) : (finishCmd k r d s).mem = s.mem := by
  unfold finishCmd
  split <;> rfl
@[simp] theorem finishCmd_counters (k : Nat) (r : Option W64) (d : Option Nat) (s : State) : (finishCmd k r d s).counters = s.counters := by
  unfold finishCmd
  split <;> rfl
@[simp] theorem finishCmd_queues (k : Nat) (r : Option W64) (d : Option Nat) (s : State) : (finishCmd k r d s).queues = s.queues := by
  unfold finishCmd
  split <;> rfl

@[simp] theorem dropUsed_mem (owner : Nat) (used : List Nat) (s : State) : (dropUsed owner used s).mem = s.mem := rfl
@[simp] theorem dropUsed_counters (owner : Nat) (used : List Nat) (s : State) : (dropUsed owner used s).counters = s.counters := rfl
@[simp] theorem dropUsed_queues (owner : Nat) (used : List Nat) (s : State) : (dropUsed owner used s).queues = s.queues := rfl

@[simp] theorem noteTouched_mem (k : Nat) (ps : List Nat) (s : State) : (noteTouched k ps s).mem = s.mem := rfl
@[simp] theorem noteTouched_counters (k : Nat) (ps : List Nat) (s : State) : (noteTouched k ps s).counters = s.counters := rfl
@[simp] theorem noteTouched_queues (k : Nat) (ps : List Nat) (s : State) : (noteTouched k ps s).queues = s.queues := rfl

/-- Two changes one after the other leave the commands beside k but for released waits. -/
theorem othersReleased_of_same {s t u : State} {k : Nat} (h : s.othersReleased t k) (g : t.othersSame u k) : s.othersReleased u k := by
  intro j hj
  rw [g j hj, h j hj]

/-- R88: sticky bits change nothing but a context's flags. -/
theorem findCmd_orSticky (ctx : Nat) (b : W64) (s : State) (j : Nat) : findCmd (orSticky ctx b s) j = findCmd s j := rfl

/-- The unit at which a command's work begins. -/
def engOf (c : Cmd) (once : Bool) (s : State) : Eng :=
  { s := s, ctx := c.ctx, owner := 2 * c.k, once := once, reads := { seen := c.prog.seen, kept := c.prog.kept } }

/-- A unit without remote writes is put down as it is, but for the remote bytes that it used and its sticky bits. -/
theorem engCommit_of_wr_nil {e : Eng} (h : e.wr = []) (k : Option Nat) :
    engCommit k e = orSticky e.ctx e.sticky (dropUsed e.owner e.used e.s) := by
  unfold engCommit
  rw [h]
  rfl

/-- R67, R72, R386: work that stops with a fault, not one of a page that an UNMAP removed, ends its command with that fault. -/
theorem runPart_fault {s : State} {c : Cmd} {once : Bool} {work : EngM (Option (Option W64 × Option Nat))} {st : Nat} {info : FaultInfo}
    {e : Eng} (h : work (engOf c once s) = .error (.fault st info) e) (ht : e.trap = none) (hu : unmapFault c st info = false)
    (hg : e.group = false) : runPart c once work s = faultCmd c.k st info (engCommit (some c.k) e) := by
  unfold engOf at h
  unfold runPart
  simp only [h, ht, hu, hg, Bool.false_eq_true, if_false]

end Sys2Proof.Machine
end

section
/-!
WAIT_COUNT and SIGNAL (O17): the end of a released wait, its TIMEOUT, and the update of a counter that a SIGNAL makes.
-/
namespace Sys2Proof.Machine

/-! ### WAIT_COUNT (R60, R66) -/

section
variable {s : State} {k : Nat} {c : Cmd}

/-- R66: a WAIT_COUNT at work. -/
theorem exec_waitCount (h : s.working k 0x02 0 waitCountBody c) : exec (.waitCount k) s = .next (
    if ctrOwned s c.ctx (body c 16 2) = false then ctrFault c (body c 16 2) s
    else if countReached s c = true then finishCmd k (some (releaseValue s c)) none (progress k s) else s) := by
  simp only [exec, execWaitCount, runOp_working h, Bool.not_eq_true']

/-- R66: the TIMEOUT of a WAIT_COUNT at work. -/
theorem exec_waitCountTimeout (h : s.working k 0x02 0 waitCountBody c) : exec (.waitCountTimeout k) s = .next (
    if ctrOwned s c.ctx (body c 16 2) = false then ctrFault c (body c 16 2) s
    else if body c 32 8 ≠ 0 ∧ mayAct s (body c 32 8) = true ∧ countReached s c = false then
      finishCmd k none none (modCmd k (fun d => { d with warns := d.warns ||| 0x2 }) s)
    else s) := by
  simp only [exec, execWaitCountTimeout, runOp_working h, Bool.not_eq_true']

/-- R60: the end of a released wait: RESULT is the counter's value at its release, and the context's other waits count anew. -/
theorem waitCount_ends (h : findCmd s k = some c) (v : W64) :
    (finishCmd k (some v) none (progress k s)).endedWith k (warnStatus c.warns) v ∧
    finishCmd k (some v) none (progress k s) = { s with
      cmds := (finishCmd k (some v) none (progress k s)).cmds, free := (finishCmd k (some v) none (progress k s)).free } := by
  have found : findCmd (progress k s) k = some { c with wdog := 0 } := by
    rw [findCmd_progress h, h]
    simp only [Option.map_some, findCmd_k h, true_or, if_true]
  refine ⟨finishCmd_endedWith (c := { c with wdog := 0 }) v none found, ?_⟩
  rw [finishCmd_frame (some v) none found, progress_frame]

/-- R66, R89: a row that comes to the end of its command with a warning noted. -/
theorem ends_of_warning {o : Host.Outcome State Fault Refusal} (h : findCmd s k = some c) (w : BitVec 16)
    (row : o = .next (finishCmd k none none (modCmd k (fun d => { d with warns := d.warns ||| w }) s))) :
    ∃ t, o = .next t ∧ t.ended k (warnStatus (c.warns ||| w)) ∧ s.othersSame t k ∧ t = { s with cmds := t.cmds, free := t.free } := by
  have found : findCmd (modCmd k (fun d => { d with warns := d.warns ||| w }) s) k = some { c with warns := c.warns ||| w } := by
    rw [findCmd_modCmd_self (by intro c; rfl), h]
    rfl
  obtain ⟨t, e, ended, same, frame⟩ := ends_of_finishCmd found row
  refine ⟨t, e, ended, fun j hj => ?_, frame⟩
  rw [same j hj, findCmd_modCmd_ne (by intro c; rfl) hj]

/-- R59: a command at work on a counter of another context ends with a fault of translation. -/
theorem ctrFault_ends (h : findCmd s k = some c) (n : Nat) :
    (ctrFault c n s).ended k 0x0020 ∧ (ctrFault c n s).mem = s.mem ∧ (ctrFault c n s).counters = s.counters := by
  have fault : ctrFault c n s = faultCmd k stTranslation (ctrInfo n) s := by rw [ctrFault, findCmd_k h]
  rw [fault]
  exact ⟨faultCmd_ended h _ _, by simp, by simp⟩

theorem countReached_of_released {v : W64} (h : c.released = some v) : countReached s c = true := by simp [countReached, h]

theorem countReached_iff (h : c.released = none) : countReached s c = true ↔ body c 24 8 ≤ (ctrGet s (body c 16 2)).toNat := by
  simp [countReached, h]

end

/-! ### SIGNAL (R58, R60, R66) -/

/-- R66: a SIGNAL at work with legal flags. -/
theorem exec_signal {s : State} {k : Nat} {c : Cmd} (h : s.working k 0x03 0 [(16, 3), (24, 8), (32, 8)] c) (hf : body c 18 1 < 4)
    (ha : bitOf (body c 18 1) 1 = true → body c 32 8 % 8 = 0) :
    exec (.signal k) s = .next (if earlierDone s c then runEng c false (signalWork c) s else s) := by
  have legal : (decide (body c 18 1 < 4) && (!bitOf (body c 18 1) 1 || body c 32 8 % 8 == 0)) = true := by
    cases hb : bitOf (body c 18 1) 1 with
    | false => simp [hf]
    | true => simp [hf, ha hb]
  exact congrArg Host.Outcome.next (runOp_working h legal)

/-- R60: the machine after the update of a SIGNAL, and the warning that it gives. -/
def signalled (c : Cmd) (s : State) : State × BitVec 16 :=
  if body c 18 1 = 1 then (ctrSet c.ctx (body c 16 2) (body c 24 8) s, 0)
  else ((ctrAdd c.ctx (body c 16 2) (body c 24 8) s).2,
    if 2 ^ 64 ≤ (ctrGet s (body c 16 2)).toNat + body c 24 8 then 0x4 else 0)

/-- R66: the work of a SIGNAL without a report is its update. -/
theorem signalWork_update {s : State} {c : Cmd} (hf : body c 18 1 < 2) (ho : ctrOwned s c.ctx (body c 16 2) = true) :
    signalWork c (engOf c false s) = .ok (some (ctrGet (signalled c s).1 (body c 16 2)), none)
      { engOf c false s with s := (signalled c s).1, warns := (signalled c s).2 } := by
  have noReport : bitOf (body c 18 1) 1 = false := by
    unfold bitOf
    rw [Nat.div_eq_of_lt (by omega)]
    rfl
  have owned : ctrOwned (engOf c false s).s (engOf c false s).ctx (body c 16 2) = true := ho
  have set : bitOf (body c 18 1) 0 = decide (body c 18 1 = 1) := by
    unfold bitOf
    rw [Nat.pow_zero, Nat.div_one, Nat.mod_eq_of_lt hf]
    rfl
  unfold signalWork signalled
  rw [bind_ok (needCtr_owned owned), getS_bind, set, noReport]
  by_cases h1 : body c 18 1 = 1
  · rw [if_pos h1, if_pos (decide_eq_true h1), modS_bind]
    rfl
  · rw [if_neg h1, if_neg (by simp [h1]), modS_bind]
    by_cases h2 : 2 ^ 64 ≤ (ctrGet s (body c 16 2)).toNat + body c 24 8
    · have saturates : (ctrAdd c.ctx (body c 16 2) (body c 24 8) (engOf c false s).s).1 = true := decide_eq_true h2
      have warns : (engOf c false s).warns ||| 0x4 = 0x4 := BitVec.zero_or
      rw [if_pos h2, if_pos saturates, addWarn_bind, warns]
      rfl
    · have fits : ¬(ctrAdd c.ctx (body c 16 2) (body c 24 8) (engOf c false s).s).1 = true := ne_true_of_eq_false (decide_eq_false h2)
      rw [if_neg h2, if_neg fits]
      rfl

/-- R60: what the update of a SIGNAL can change. -/
theorem signalled_ctr (c : Cmd) (s : State) : CtrOnly s (signalled c s).1 := by
  unfold signalled
  split
  · exact ctrSet_ctr _ _ _ _
  · exact ctrAdd_ctr _ _ _ _

/-- R60: the new value: the larger of the old and the written one, or the sum, at most the largest value. -/
def signalValue (c : Cmd) (s : State) : Nat :=
  if body c 18 1 = 1 then max (ctrGet s (body c 16 2)).toNat (body c 24 8)
  else min ((ctrGet s (body c 16 2)).toNat + body c 24 8) (2 ^ 64 - 1)

theorem ctrGet_signalled_self (c : Cmd) (s : State) : ctrGet (signalled c s).1 (body c 16 2) = BitVec.ofNat 64 (signalValue c s) := by
  unfold signalled signalValue
  split
  · exact ctrGet_ctrSet_self _ _ _ _
  · exact ctrGet_ctrAdd_self _ _ _ _

theorem ctrGet_signalled_ne {c : Cmd} {n : Nat} (h : n ≠ body c 16 2) (s : State) : ctrGet (signalled c s).1 n = ctrGet s n := by
  unfold signalled
  split
  · exact ctrGet_ctrSet_ne h
  · exact ctrGet_ctrAdd_ne h

/-- R60, R89: an addition that saturates gives the warning SATURATED. -/
theorem signalled_warns {c : Cmd} (hf : body c 18 1 < 2) (s : State) : c.warns ||| (signalled c s).2 =
    if body c 18 1 = 0 ∧ 2 ^ 64 ≤ (ctrGet s (body c 16 2)).toNat + body c 24 8 then c.warns ||| 0x4 else c.warns := by
  unfold signalled
  by_cases h1 : body c 18 1 = 1
  · rw [if_pos h1, if_neg (by omega)]
    exact BitVec.or_zero
  · have h0 : body c 18 1 = 0 := by omega
    rw [if_neg h1]
    by_cases h2 : 2 ^ 64 ≤ (ctrGet s (body c 16 2)).toNat + body c 24 8
    · rw [if_pos h2, if_pos ⟨h0, h2⟩]
    · rw [if_neg h2, if_neg (fun h => h2 h.2)]
      exact BitVec.or_zero

/-- R67: the command after work that accessed no memory: its warnings are noted, and its RESULT is what the work answers. -/
theorem runEng_result {s t : State} {c d : Cmd} {work : EngM (Option W64 × Option Nat)} {r : W64} {w : BitVec 16}
    (h : work (engOf c false s) = .ok (some r, none) { engOf c false s with s := t, warns := w }) (hd : findCmd t c.k = some d) :
    ∃ u, runEng c false work s = u ∧ u.endedWith c.k (warnStatus (d.warns ||| w)) r ∧ t.othersSame u c.k ∧
      u.mem = t.mem ∧ u.counters = t.counters ∧ u.queues = t.queues := by
  have committed : engCommit (some c.k) { engOf c false s with s := t, warns := w } = orSticky c.ctx 0 (dropUsed (2 * c.k) [] t) :=
    engCommit_of_wr_nil rfl _
  have run : runEng c false work s = finishCmd c.k (some r) none (modCmd c.k (fun x => { x with warns := x.warns ||| w })
      (noteTouched c.k [] (orSticky c.ctx 0 (dropUsed (2 * c.k) [] t)))) := by
    unfold runEng runPart
    unfold engOf at h committed
    rw [bind_ok h]
    simp only [pure, EStateM.pure, keepReads, committed, Bool.false_and, Bool.false_eq_true, if_false]
  have found : findCmd (modCmd c.k (fun x => { x with warns := x.warns ||| w })
      (noteTouched c.k [] (orSticky c.ctx 0 (dropUsed (2 * c.k) [] t)))) c.k = some { d with warns := d.warns ||| w } := by
    rw [findCmd_modCmd_self (by intro c; rfl), noteTouched, findCmd_modCmd_self (by intro c; rfl), findCmd_orSticky,
      (dropUsed_fab _ _ _).find, hd]
    rfl
  refine ⟨_, run, finishCmd_endedWith (c := { d with warns := d.warns ||| w }) r none found, fun j hj => ?_, ?_⟩
  · rw [finishCmd_othersSame _ _ found j hj, findCmd_modCmd_ne (by intro c; rfl) hj, noteTouched, findCmd_modCmd_ne (by intro c; rfl) hj]
    rfl
  · simp

/-- R58, R60: a SIGNAL without a report ends with its update. -/
theorem runEng_signal {s : State} {c : Cmd} (h : findCmd s c.k = some c) (hf : body c 18 1 < 2)
    (ho : ctrOwned s c.ctx (body c 16 2) = true) {t : State} (ht : t = runEng c false (signalWork c) s) :
    t.endedWith c.k (warnStatus (c.warns ||| (signalled c s).2)) (BitVec.ofNat 64 (signalValue c s)) ∧ s.othersReleased t c.k ∧
    t.mem = s.mem ∧ (∀ n, ctrGet t n = ctrGet (signalled c s).1 n) ∧ t.queues = s.queues := by
  obtain ⟨w, hw, hfind⟩ := (signalled_ctr c s).find
  obtain ⟨b, r, hc⟩ := hw c
  have found : findCmd (signalled c s).1 c.k = some { c with waitMet := b, released := r } := by rw [hfind, h, Option.map_some, hc]
  obtain ⟨u, hu, ended, same, mem, ctr, queues⟩ := runEng_result (signalWork_update hf ho) found
  obtain ⟨_, _, _, _, _, frame⟩ := signalled_ctr c s
  rw [ctrGet_signalled_self] at ended
  rw [ht, hu]
  exact ⟨ended, othersReleased_of_same ((signalled_ctr c s).othersReleased _) same, by rw [mem, frame], fun n => by rw [ctrGet, ctr, ctrGet], by rw [queues, frame]⟩

/-- R59: a SIGNAL on a counter of another context is a fault of translation. -/
theorem runEng_signal_foreign {s : State} {c : Cmd} (h : findCmd s c.k = some c) (ho : ctrOwned s c.ctx (body c 16 2) = false)
    {t : State} (ht : t = runEng c false (signalWork c) s) :
    t.ended c.k 0x0020 ∧ t.mem = s.mem ∧ t.counters = s.counters := by
  have stops : (do let r ← signalWork c; pure (some r) : EngM (Option (Option W64 × Option Nat))) (engOf c false s) =
      .error (.fault stTranslation (ctrInfo (body c 16 2))) (engOf c false s) :=
    bind_error (bind_error (needCtr_foreign ho))
  have fault := runPart_fault stops rfl (by simp [unmapFault, ctrInfo]) rfl
  rw [engCommit_of_wr_nil rfl] at fault
  rw [ht, runEng, fault]
  have found : findCmd (orSticky c.ctx 0 (dropUsed (2 * c.k) [] s)) c.k = some c := h
  exact ⟨faultCmd_ended found _ _, by simp [engOf], by simp [engOf]⟩

/-- Settles O17: the rows of WAIT_COUNT by what the counter and the time have reached, and SIGNAL by its work. -/
theorem countersWaitAndSignal : Obligations.CountersWaitAndSignal := by
  unfold Obligations.CountersWaitAndSignal
  refine ⟨fun s k c h => ⟨fun ho => ⟨fun hv hr => ?reached, fun v hr => ?released, fun hv hr => ?waits, fun hn hm hv hr => ?timeout,
    fun he => ?early⟩, fun ho => ⟨?foreign, ?foreignTimeout⟩⟩,
    fun s k c h hf ha => ⟨fun hd => ?held, fun hd _ o hw => ?report, fun hd hb ho => ?update, fun hd ho => ?foreignSignal⟩⟩
  case reached =>
    rw [exec_waitCount h, ho, if_neg Bool.true_eq_false.mp, if_pos ((countReached_iff hr).mpr hv)]
    have value : releaseValue s c = ctrGet s (body c 16 2) := by simp [releaseValue, hr]
    rw [value]
    exact ⟨_, rfl, waitCount_ends (working_find h) _⟩
  case released =>
    rw [exec_waitCount h, ho, if_neg Bool.true_eq_false.mp, if_pos (countReached_of_released hr)]
    have value : releaseValue s c = v := by simp [releaseValue, hr]
    rw [value]
    exact ⟨_, rfl, waitCount_ends (working_find h) _⟩
  case waits =>
    have below : ¬countReached s c = true := mt (countReached_iff hr).mp (by omega)
    rw [exec_waitCount h, ho, if_neg Bool.true_eq_false.mp, if_neg below]
  case timeout =>
    have below : countReached s c = false := by
      rw [Bool.eq_false_iff]
      exact mt (countReached_iff hr).mp (by omega)
    refine ends_of_warning (working_find h) 0x2 ?_
    rw [exec_waitCountTimeout h, ho, if_neg Bool.true_eq_false.mp, if_pos ⟨hn, hm, below⟩]
  case early =>
    rw [exec_waitCountTimeout h, ho, if_neg Bool.true_eq_false.mp, if_neg]
    rintro ⟨hn, hm, -⟩
    rcases he with he | he
    · exact hn he
    · rw [mayAct_early he] at hm
      cases hm
  case foreign => exact ⟨_, by rw [exec_waitCount h, if_pos ho], ctrFault_ends (working_find h) _⟩
  case foreignTimeout => exact ⟨_, by rw [exec_waitCountTimeout h, if_pos ho], ctrFault_ends (working_find h) _⟩
  case held => rw [exec_signal h hf ha, hd, if_neg Bool.false_ne_true]
  case report => exact ⟨_, by rw [exec_signal h hf ha, if_pos hd], runEng_doesWork hw⟩
  case update =>
    have found := working_find h
    obtain rfl := findCmd_k found
    obtain ⟨ended, released, mem, ctr, queues⟩ := runEng_signal found hb ho rfl
    rw [signalled_warns hb] at ended
    refine ⟨_, signalValue c s, by rw [exec_signal h hf ha, if_pos hd], rfl, ?_, fun n hn => ?_, ended, released, mem, queues⟩
    · rw [ctr, ctrGet_signalled_self]
    · rw [ctr, ctrGet_signalled_ne hn]
  case foreignSignal =>
    have found := working_find h
    obtain rfl := findCmd_k found
    exact ⟨_, by rw [exec_signal h hf ha, if_pos hd], runEng_signal_foreign found ho rfl⟩

end Sys2Proof.Machine
end

section
/-!
Pre-emption (O13): a level 3 command that is stopped with its cores saved, and brought back with them.
-/
namespace Sys2Proof.Machine

/-! ### Writes of a list of entries -/

/-- A table into which the entries of a list are written, in order. -/
def Tbl.insAll {α β : Type} (key : β → Nat) (val : β → α) (l : List β) (t : Tbl α) : Tbl α :=
  l.foldl (fun t x => Tbl.ins t (key x) (val x)) t

section
variable {α β : Type} {key : β → Nat} {val : β → α}

/-- A key of none of the entries is found as before. -/
theorem Tbl.find_insAll_ne {l : List β} {j : Nat} (h : ∀ x ∈ l, key x ≠ j) (t : Tbl α) :
    Tbl.find? (Tbl.insAll key val l t) j = Tbl.find? t j := by
  induction l generalizing t with
  | nil => rfl
  | cons x l ih =>
    have hl : ∀ y ∈ l, key y ≠ j := fun y hy => h y (List.mem_cons_of_mem _ hy)
    exact (ih hl _).trans (Tbl.find_ins_ne (h x List.mem_cons_self).symm)

/-- The value that all entries of a key have is found there. -/
theorem Tbl.find_insAll_only {l : List β} {j : Nat} {a : α} (h : ∃ x ∈ l, key x = j) (only : ∀ x ∈ l, key x = j → val x = a)
    (t : Tbl α) : Tbl.find? (Tbl.insAll key val l t) j = some a := by
  induction l generalizing t with
  | nil =>
    obtain ⟨x, hx, -⟩ := h
    cases hx
  | cons y l ih =>
    by_cases later : ∃ x ∈ l, key x = j
    · exact ih later (fun x hx => only x (List.mem_cons_of_mem _ hx)) _
    · have last : key y = j := by
        obtain ⟨x, hx, hk⟩ := h
        rcases List.mem_cons.mp hx with rfl | hx
        · exact hk
        · exact absurd ⟨x, hx, hk⟩ later
      have noLater : ∀ x ∈ l, key x ≠ j := fun x hx hk => later ⟨x, hx, hk⟩
      rw [← only y List.mem_cons_self last]
      subst last
      exact (Tbl.find_insAll_ne noLater (Tbl.ins t (key y) (val y))).trans Tbl.find_ins_self

end

/-! ### Pre-emption (R64, R159) -/

section
variable {s : State} {k : Nat} {c : Cmd}

/-- R64: a pre-emption, when a ready command of a higher level wants an engine of a level 3 command at work. -/
theorem exec_preemption (h : findCmd s k = some c) (st : c.st = .started) (running : c.preempted = false) (level : effPrio s c = 3)
    (may : preemptible c = true) (reset : inReset s = false) (want : wanted s c = true) :
    exec (.preemption k) s = .next (saveCores k (modCmd k (fun d => { d with preempted := true }) s)) := by
  simp only [exec, execPreemption, h]
  rw [if_pos ⟨st, running, level, may, reset, want⟩]

/-- R64: a resumption, when no command runs on the engines of a pre-empted one and none of a higher level wants them. -/
theorem exec_preemptedResume (h : findCmd s k = some c) (st : c.st = .started) (stopped : c.preempted = true)
    (reset : inReset s = false) (free : wanted s c = false)
    (idle : ∀ d ∈ s.cmds, d.st = .started → d.k ≠ k → d.preempted = false → shares (cmdUnits s c) (cmdUnits s d) = false) :
    exec (.preemptedResume k) s = .next (restoreCores k (modCmd k (fun d => { d with preempted := false }) s)) := by
  have busy : (s.cmds.any fun d => decide (d.st = .started) && decide (d.k ≠ k) && !d.preempted
      && shares (cmdUnits s c) (cmdUnits s d)) = false := by
    rw [List.any_eq_false]
    intro d hd
    simp only [Bool.and_eq_true, decide_eq_true_eq, Bool.not_eq_true', not_and, Bool.not_eq_true, and_imp]
    exact idle d hd
  simp only [exec, execPreemptedResume, h, busy]
  rw [if_pos ⟨st, stopped, reset, trivial, free⟩]

/-- R159: the cores that come back are written over those that stand at their places. -/
theorem restoreCores_cores (k : Nat) (s : State) : (restoreCores k s).cores =
    Tbl.insAll (fun c => c.1.2) (fun c => c.2) (s.saved.filter fun c => decide (c.1.1 = k)) s.cores := rfl

end

/-- Settles O13: the command's mark is all that changes of the list, and the cores move between their two lists. -/
theorem preemptionKeepsTheCommandAndItsCores : Obligations.PreemptionKeepsTheCommandAndItsCores := by
  unfold Obligations.PreemptionKeepsTheCommandAndItsCores
  intro s k c h st reset
  have marked (b : Bool) : findCmd (modCmd k (fun d => { d with preempted := b }) s) k = some { c with preempted := b } := by
    rw [findCmd_modCmd_self (by intro c; rfl), h]
    rfl
  have others (b : Bool) : s.othersSame (modCmd k (fun d => { d with preempted := b }) s) k :=
    fun j hj => findCmd_modCmd_ne (by intro c; rfl) hj
  refine ⟨fun running level may want => ?stop, fun stopped free idle => ?resume⟩
  case stop =>
    refine ⟨_, exec_preemption h st running level may reset want, marked true, others true, fun x => ?_, fun x hx hk => ?_,
      fun x hx => List.mem_append_left _ hx, rfl⟩
    · simp [saveCores]
    · exact List.mem_append_right _ (List.mem_map.mpr ⟨x, List.mem_filter.mpr ⟨hx, decide_eq_true hk⟩, rfl⟩)
  case resume =>
    refine ⟨_, exec_preemptedResume h st stopped reset free idle, marked false, others false, fun x hx hk only => ?_, fun j hj => ?_,
      fun x => ?_, rfl⟩
    · rw [restoreCores_cores]
      refine Tbl.find_insAll_only ⟨x, List.mem_filter.mpr ⟨hx, decide_eq_true hk⟩, rfl⟩ (fun y hy hkey => ?_) _
      obtain ⟨hy, hyk⟩ := List.mem_filter.mp hy
      rw [only y hy (Prod.ext ((of_decide_eq_true hyk).trans hk.symm) hkey)]
    · rw [restoreCores_cores]
      refine Tbl.find_insAll_ne (fun x hx hkey => ?_) _
      obtain ⟨hx, hxk⟩ := List.mem_filter.mp hx
      exact hj x hx (Prod.ext (of_decide_eq_true hxk) hkey)
    · simp [restoreCores]

end Sys2Proof.Machine
end

section
/-!
What a context fault, a command's completion and an end by fault do, beside the images and records that they write.
-/
namespace Sys2Proof.Machine

/-! ### Context faults (R389, R390) -/

/-- Nothing but commands, cores, memory, fabric, functions, interrupts, error log and the count of free values has changed. -/
def FaultOnly (s t : State) : Prop :=
  t = { s with cmds := t.cmds, cores := t.cores, saved := t.saved, mem := t.mem, fab := t.fab, fns := t.fns, msix := t.msix,
               log := t.log, free := t.free }

theorem FaultOnly.refl (s : State) : FaultOnly s s := rfl

theorem FaultOnly.trans {a b c : State} (h : FaultOnly a b) (k : FaultOnly b c) : FaultOnly a c := by
  unfold FaultOnly at *
  rw [k, h]

theorem FaultOnly.ctxs_eq {s t : State} (h : FaultOnly s t) : t.ctxs = s.ctxs := by rw [h]
theorem FaultOnly.counters_eq {s t : State} (h : FaultOnly s t) : t.counters = s.counters := by rw [h]
theorem FaultOnly.nextK_eq {s t : State} (h : FaultOnly s t) : t.nextK = s.nextK := by rw [h]

theorem FaultOnly.of_host {s t : State} (h : HostOnly s t) : FaultOnly s t := by
  obtain ⟨g, m, rfl⟩ := h
  rfl

theorem foldl_faultOnly {α : Type} {f : State → α → State} (h : ∀ s x, FaultOnly s (f s x)) (l : List α) (s : State) :
    FaultOnly s (l.foldl f s) := foldl_rel FaultOnly.refl (fun _ _ _ => FaultOnly.trans) h l s

/-- R4, R67: an end from outside ends the command, abandons its requests, and changes nothing else. -/
theorem abortCmd_frame (k status : Nat) (s : State) : abortCmd k status s =
    { s with cmds := (abortCmd k status s).cmds, fab := (abortCmd k status s).fab, free := s.free + 1 } := by
  obtain ⟨f, hf⟩ := dropReqs_fab k { s with free := s.free + 1 }
  unfold abortCmd endCmd
  rw [hf]
  rfl

theorem abortCmd_othersSame (s : State) (k status : Nat) : s.othersSame (abortCmd k status s) k := by
  intro j hj
  unfold abortCmd
  dsimp only
  rw [findCmd_endCmd_ne hj, (dropReqs_fab k _).find]
  rfl

theorem abortCmd_fault (k status : Nat) (s : State) : FaultOnly s (abortCmd k status s) := by
  unfold FaultOnly
  rw [abortCmd_frame]

theorem writeRecord_fault (r : FaultRec) (s : State) : FaultOnly s (writeRecord r s).2 := rfl

theorem writeCtxImage_fault (c no : Nat) (rec : Bytes) (cores : List (Nat × Core)) (s : State) :
    FaultOnly s (writeCtxImage c no rec cores s) := by
  unfold writeCtxImage
  split <;> rfl

theorem writeCtxImage_cmds (c no : Nat) (rec : Bytes) (cores : List (Nat × Core)) (s : State) :
    (writeCtxImage c no rec cores s).cmds = s.cmds := by
  unfold writeCtxImage
  split <;> rfl

theorem freeCores_fault (k : Nat) (s : State) : FaultOnly s (freeCores k s) := rfl

theorem logEntry_fault (code status : Nat) (arg : Bytes) (s : State) : FaultOnly s (logEntry code status arg s) := rfl

theorem HostOnly.cmds_eq {s t : State} (h : HostOnly s t) : t.cmds = s.cmds := by
  obtain ⟨g, m, rfl⟩ := h
  rfl

/-- A context in ERROR. -/
def Ctx.failed (x : Ctx) : Ctx := { x with st := .error }

/-- R389: the fault of an ACTIVE context: it enters ERROR. -/
theorem contextFault_active {s : State} {ctx : Nat} (h : (getCtx s ctx).st = .active) (r : FaultRec) (k : Option Nat) :
    FaultOnly (modCtx ctx Ctx.failed s) (contextFault ctx r k s) := by
  unfold contextFault
  extract_lets x cores s1 ks s2 no w s3 s4 s5
  rw [if_pos h]
  have image : FaultOnly w.2 s3 := writeCtxImage_fault ctx no w.1 cores w.2
  have cut : FaultOnly s3 s4 := foldl_faultOnly (fun s j => freeCores_fault j s) ks s3
  have all : FaultOnly s1 s5 :=
    (foldl_faultOnly (fun s j => abortCmd_fault j stFenced s) ks s1).trans <| (writeRecord_fault r s2).trans <| image.trans <|
      cut.trans (logEntry_fault _ _ _ s4)
  split
  · exact all
  · exact all.trans (.of_host (postEvent_host _ _ _ _ _))

/-- R389: a fault in a context that is not ACTIVE is recorded and changes nothing else. -/
theorem contextFault_inactive {s : State} {ctx : Nat} (h : (getCtx s ctx).st ≠ .active) (r : FaultRec) (k : Option Nat) :
    FaultOnly s (contextFault ctx r k s) := by
  unfold contextFault
  rw [if_neg h]
  exact (writeRecord_fault r s).trans (logEntry_fault _ _ _ _)

/-- R389: the commands that a context fault stops do not include the faulting one. -/
theorem contextFault_find (ctx : Nat) (r : FaultRec) (k : Nat) (s : State) :
    findCmd (contextFault ctx r (some k) s) k = findCmd s k := by
  unfold contextFault
  extract_lets x cores s1 ks s2 no w s3 s4 s5 w'
  have others : ∀ j ∈ ks, k ≠ j := by
    intro j hj hk
    obtain ⟨c, hc, rfl⟩ := List.mem_map.mp hj
    simp [hk] at hc
  have stopped : ∀ (l : List Nat) (s : State), (∀ j ∈ l, k ≠ j) → findCmd (l.foldl (fun s j => abortCmd j stFenced s) s) k = findCmd s k := by
    intro l
    induction l with
    | nil => exact fun _ _ => rfl
    | cons j l ih =>
      intro s h
      rw [List.foldl_cons, ih _ fun i hi => h i (List.mem_cons_of_mem _ hi), abortCmd_othersSame s j stFenced k (h j List.mem_cons_self)]
  have written : s3.cmds = s2.cmds := writeCtxImage_cmds ctx no w.1 _ w.2
  have kept : s5.cmds = s2.cmds := written ▸ foldl_rel (R := fun a b => b.cmds = a.cmds) (fun _ => rfl) (fun _ _ _ h g => g.trans h)
    (fun s j => freeCores_cmds j s) ks s3
  have found : findCmd s5 k = findCmd s k := (findCmd_congr kept k).trans (stopped ks s1 others)
  split
  · split
    · exact found
    · exact (findCmd_congr (postEvent_host _ _ _ _ _).cmds_eq k).trans found
  · rfl

theorem getCtx_congr {s t : State} (h : t.ctxs = s.ctxs) (c : Nat) : getCtx t c = getCtx s c := by
  unfold getCtx
  rw [h]

/-- R389: after a fault of an ACTIVE context it is in ERROR. -/
theorem contextFault_st_active {s : State} {ctx : Nat} (h : (getCtx s ctx).st = .active) (r : FaultRec) (k : Option Nat) :
    (getCtx (contextFault ctx r k s) ctx).st = .error := by
  rw [getCtx_congr (contextFault_active h r k).ctxs_eq, getCtx_modCtx_self]
  rfl

/-- R389: a fault in a context that is not ACTIVE leaves it in its state. -/
theorem contextFault_st_inactive {s : State} {ctx : Nat} (h : (getCtx s ctx).st ≠ .active) (r : FaultRec) (k : Option Nat) :
    (getCtx (contextFault ctx r k s) ctx).st = (getCtx s ctx).st := by
  rw [getCtx_congr (contextFault_inactive h r k).ctxs_eq]

/-- A context fault leaves counters and fetch numbers alone. -/
theorem contextFault_counters (ctx : Nat) (r : FaultRec) (k : Option Nat) (s : State) :
    (contextFault ctx r k s).counters = s.counters := by
  by_cases h : (getCtx s ctx).st = .active
  · exact (contextFault_active h r k).counters_eq
  · exact (contextFault_inactive h r k).counters_eq

theorem contextFault_nextK (ctx : Nat) (r : FaultRec) (k : Option Nat) (s : State) : (contextFault ctx r k s).nextK = s.nextK := by
  by_cases h : (getCtx s ctx).st = .active
  · exact (contextFault_active h r k).nextK_eq
  · exact (contextFault_inactive h r k).nextK_eq

/-! ### Completion (R58, R67, R68) -/

/-- R310: remote writes that no command waits for reach the fabric alone. -/
theorem sendWrites_none_fab (ctx : Nat) (ws : List (Mapping × Nat × Bytes)) (s : State) : FabOnly s (sendWrites ctx none ws s) := by
  induction ws generalizing s with
  | nil => exact .refl s
  | cons w ws ih => exact (foldl_fab (fun s p => request_fab _ _ _ _ _ _ _ _ _ _ _ _ s) _ s).trans (ih _)

/-- What an access of firmware leaves: memory as the access left it, and contexts, commands, queues and counters as they were. -/
theorem engCommit_none (e : Eng) : ∃ f, engCommit none e = orSticky e.ctx e.sticky { e.s with fab := f } := by
  obtain ⟨f, hf⟩ := sendWrites_none_fab e.ctx e.wr (dropUsed e.owner e.used e.s)
  exact ⟨f, by rw [engCommit, hf]; rfl⟩

/-- R88: sticky bits leave a context's state, and all else of it, alone. -/
theorem getCtx_orSticky (ctx c : Nat) (b : W64) (s : State) : getCtx (orSticky ctx b s) c =
    { getCtx s c with sticky := if c = ctx then (getCtx s c).sticky ||| b else (getCtx s c).sticky } := by
  by_cases h : c = ctx
  · rw [if_pos h, h]
    exact getCtx_modCtx_self
  · rw [if_neg h]
    exact getCtx_modCtx_ne h

/-- R68: the record of a command that its context may write, with the queue's next record. -/
theorem putRecord_ok {s : State} {c : Cmd} {x : Queue} {status : Nat} {result : W64} {detail : BitVec 32} {e : Eng}
    (hq : findQueue s c.q = some x)
    (hw : writeV (x.cqVa + x.cqTail.toNat % 2 ^ x.cqN * 32) (recordBytes s c x status result detail)
      { s := s, ctx := c.ctx, owner := 2 * c.k } = .ok () e) :
    ∃ f g m, putRecord c status result detail s =
      { modQueue c.q (fun x => { x with cqTail := x.cqTail + 1 }) (orSticky c.ctx 0 { e.s with fab := f }) with fns := g, msix := m } := by
  obtain ⟨hs, he⟩ := writeV_only hw
  obtain ⟨f, hf⟩ := engCommit_none e
  have ctx : e.ctx = c.ctx := by rw [he]
  have sticky : e.sticky = 0 := by rw [he]
  unfold putRecord
  simp only [hq, hw, hf, ctx, sticky]
  split
  · obtain ⟨g, m, h⟩ := raiseMsix_host (getCtx (modQueue c.q (fun x => { x with cqTail := x.cqTail + 1 })
      (orSticky c.ctx 0 { e.s with fab := f })) c.ctx).owner x.vector
      (modQueue c.q (fun x => { x with cqTail := x.cqTail + 1 }) (orSticky c.ctx 0 { e.s with fab := f }))
    exact ⟨f, g, m, h⟩
  · exact ⟨f, _, _, rfl⟩

/-- R68: a record, written or not, of a command whose context is not ACTIVE leaves its state and the counters alone. -/
theorem putRecord_inactive {s : State} {c : Cmd} (h : (getCtx s c.ctx).st ≠ .active) (status : Nat) (result : W64) (detail : BitVec 32) :
    (getCtx (putRecord c status result detail s) c.ctx).st = (getCtx s c.ctx).st ∧
    (putRecord c status result detail s).counters = s.counters ∧ (putRecord c status result detail s).nextK = s.nextK := by
  cases hq : findQueue s c.q with
  | none => simp [putRecord, hq]
  | some x =>
    cases hw : writeV (x.cqVa + x.cqTail.toNat % 2 ^ x.cqN * 32) (recordBytes s c x status result detail)
        { s := s, ctx := c.ctx, owner := 2 * c.k } with
    | error r e =>
      have fault : putRecord c status result detail s =
          contextFault c.ctx (cmdFaultRec s c stTranslation (transInfo (x.cqVa + x.cqTail.toNat % 2 ^ x.cqN * 32))) (some c.k) s := by
        unfold putRecord
        simp only [hq, hw]
      rw [fault]
      exact ⟨contextFault_st_inactive h _ _, contextFault_counters _ _ _ _, contextFault_nextK _ _ _ _⟩
    | ok u e =>
      obtain ⟨hs, -⟩ := writeV_only hw
      obtain ⟨f, g, m, put⟩ := putRecord_ok hq hw
      have same : getCtx (putRecord c status result detail s) c.ctx = getCtx (orSticky c.ctx 0 { e.s with fab := f }) c.ctx := by
        rw [put]
        exact getCtx_congr (modQueue_ctxs _ _ _) _
      rw [same, getCtx_orSticky, put]
      refine ⟨?_, ?_, ?_⟩
      · change (getCtx e.s c.ctx).st = _
        rw [getCtx_congr (s := s) (by rw [hs])]
      · change (modQueue _ _ _).counters = _
        simp
        rw [hs]
      · change (modQueue _ _ _).nextK = _
        simp
        rw [hs]

/-- R69: a fault is no success. -/
theorem isGood_of_isFault {st : Nat} (h : isFault st = true) : isGood st = false := by
  unfold isFault at h
  unfold isGood
  simp only [Bool.or_eq_true, Bool.and_eq_true, decide_eq_true_eq, beq_iff_eq] at h
  simp only [decide_eq_false_iff_not]
  omega

/-- R58, R60: a header signal without SIG_EN does nothing. -/
theorem headerSignal_off {c : Cmd} (h : cmdSigEn c = false) (s : State) : headerSignal c s = (c.status.toNat, c.fault, s) := by
  simp [headerSignal, h]

/-- R58, R60: the header signal of a command that ends with a fault keeps its status. -/
theorem headerSignal_fault {c : Cmd} (h : isFault c.status.toNat = true) (s : State) :
    (headerSignal c s).1 = c.status.toNat ∧ CtrOnly s (headerSignal c s).2.2 := by
  unfold headerSignal
  simp only [isGood_of_isFault h, h, Bool.and_false, Bool.false_eq_true, if_false, if_true]
  split
  · split
    · exact ⟨rfl, ctrAdd_ctr _ _ _ _⟩
    · exact ⟨rfl, .refl s⟩
  · exact ⟨rfl, .refl s⟩

theorem CtrOnly.ctxs_eq {s t : State} (h : CtrOnly s t) : t.ctxs = s.ctxs := by
  obtain ⟨_, _, _, _, _, rfl⟩ := h
  rfl

theorem CtrOnly.mem_eq {s t : State} (h : CtrOnly s t) : t.mem = s.mem := by
  obtain ⟨_, _, _, _, _, rfl⟩ := h
  rfl

theorem CtrOnly.queues_eq {s t : State} (h : CtrOnly s t) : t.queues = s.queues := by
  obtain ⟨_, _, _, _, _, rfl⟩ := h
  rfl

theorem CtrOnly.nextK_eq {s t : State} (h : CtrOnly s t) : t.nextK = s.nextK := by
  obtain ⟨_, _, _, _, _, rfl⟩ := h
  rfl

/-- A command taken off the list is not found. -/
theorem findCmd_removeCmd_self (k : Nat) (s : State) : findCmd (removeCmd k s) k = none := by
  simp [findCmd, removeCmd]

theorem findCmd_removeCmd_ne {k j : Nat} (h : j ≠ k) (s : State) : findCmd (removeCmd k s) j = findCmd s j := by
  unfold findCmd removeCmd
  rw [List.find?_filter]
  congr 1
  funext c
  by_cases hc : c.k = j
  · simp [hc, h]
  · simp [hc]

/-- R68, R389: a command of an ACTIVE context that completes with a fault not yet raised: it is off the list, its context is in ERROR, and
without a header signal no counter has changed. -/
theorem completeCmd_fault {s : State} {c : Cmd} (hf : isFault c.status.toNat = true) (hr : c.raised = false)
    (ha : (getCtx s c.ctx).st = .active) :
    (getCtx (completeCmd c s) c.ctx).st = .error ∧ findCmd (completeCmd c s) c.k = none ∧ (completeCmd c s).nextK = s.nextK ∧
    (cmdSigEn c = false → (completeCmd c s).counters = s.counters) := by
  obtain ⟨keep, ctr⟩ := headerSignal_fault hf s
  have bad : c.status.toNat ≠ stOk := by
    intro h
    rw [h] at hf
    cases hf
  have active : (getCtx (headerSignal c s).2.2 c.ctx).st = .active := by rw [getCtx_congr ctr.ctxs_eq, ha]
  unfold completeCmd
  extract_lets sg st s1 changed detail s2 s3
  have st_eq : st = c.status.toNat := keep
  have raise : s2 = contextFault c.ctx (endRec s1 c st changed sg.2.1) (some c.k) s1 := by simp [s2, st_eq, hf, hr]
  have inError : (getCtx s2 c.ctx).st = .error := raise ▸ contextFault_st_active active _ _
  obtain ⟨stays, counters, nextK⟩ := putRecord_inactive (c := c) (s := s2) (by simp [inError]) st c.result detail
  have record : s3 = putRecord c st c.result detail s2 := by simp [s3, st_eq, bad]
  refine ⟨?_, ?_, ?_, fun hs => ?_⟩
  · change (getCtx s3 c.ctx).st = _
    rw [record, stays, inError]
  · exact findCmd_removeCmd_self c.k s3
  · change s3.nextK = _
    rw [record, nextK, raise, contextFault_nextK]
    exact ctr.nextK_eq
  · change s3.counters = _
    rw [record, counters, raise, contextFault_counters]
    exact congrArg State.counters (congrArg (·.2.2) (headerSignal_off hs s))

/-! ### An end by fault (R56, R57, R68) -/

/-- The completion slots that a queue's commands leave depend on their queue and their credits alone. -/
theorem hasRoom_congr {s t : State} {w : Cmd → Cmd} (hq : findQueue t = findQueue s) (hc : t.cmds = s.cmds.map w)
    (hw : ∀ c, (w c).q = c.q ∧ (w c).credit = c.credit) (q : Nat) : hasRoom t q = hasRoom s q := by
  have same : creditsHeld t q = creditsHeld s q := by
    have queue : ((fun c : Cmd => c.q == q) ∘ w) = fun c => c.q == q := by
      funext c
      simp [hw]
    have credit : ((fun c : Cmd => c.credit) ∘ w) = fun c => c.credit := by
      funext c
      simp [hw]
    unfold creditsHeld queueCmds
    rw [hc, List.filter_map, queue, List.filter_map, credit, List.length_map]
  unfold hasRoom
  rw [hq, same]

/-- A fault changes of the list the command that it ends, and of it neither queue nor credit. -/
theorem faultCmd_cmds (k status : Nat) (info : FaultInfo) (s : State) :
    ∃ w, (faultCmd k status info s).cmds = s.cmds.map w ∧ ∀ c, (w c).q = c.q ∧ (w c).credit = c.credit := by
  obtain ⟨f, hf⟩ := dropReqs_fab k { s with free := s.free + 1 }
  unfold faultCmd endCmd
  rw [hf]
  refine ⟨_, List.map_map, fun c => ?_⟩
  by_cases h : c.k = k <;> simp [h]

/-- R57, R68: a command of an ACTIVE context ends by a fault: the context is in ERROR; with a completion slot the command completes at
once; without one it stands ended, its fault raised. -/
theorem endFaulted_active {s : State} {k st : Nat} {c : Cmd} (h : findCmd s k = some c) (hf : isFault st = true) (hs : st < 65536)
    (hr : c.raised = false) (ha : (getCtx s c.ctx).st = .active) (hres : inReset s = false) (info : FaultInfo) :
    (getCtx (endFaulted k st info s) c.ctx).st = .error ∧ (endFaulted k st info s).nextK = s.nextK ∧
    ((c.credit || hasRoom s c.q) = true → findCmd (endFaulted k st info s) k = none) ∧
    ((c.credit || hasRoom s c.q) = false →
      findCmd (endFaulted k st info s) k = some { c.faulted s st info with raised := true }) ∧
    (cmdSigEn c = false → (endFaulted k st info s).counters = s.counters) := by
  have found := findCmd_faultCmd h st info
  obtain ⟨w, hw, hkeep⟩ := faultCmd_cmds k st info s
  have room : hasRoom (faultCmd k st info s) c.q = hasRoom s c.q :=
    hasRoom_congr (by funext q; simp [findQueue]) hw hkeep c.q
  have status : (c.faulted s st info).status.toNat = st := Nat.mod_eq_of_lt hs
  have reset : inReset (faultCmd k st info s) = false := by simpa [inReset] using hres
  have active : (getCtx (faultCmd k st info s) c.ctx).st = .active := by
    rw [getCtx_congr (faultCmd_ctxs k st info s), ha]
  have may : mayComplete (faultCmd k st info s) (c.faulted s st info) = (c.credit || hasRoom s c.q) := by
    simp [mayComplete, status, isGood_of_isFault hf, reset, room]
  have ck : (c.faulted s st info).k = k := findCmd_k found
  unfold endFaulted
  simp only [found, may, Cmd.faulted_ctx]
  by_cases slot : (c.credit || hasRoom s c.q) = true
  · rw [if_pos slot]
    obtain ⟨err, gone, nextK, counters⟩ := completeCmd_fault (c := c.faulted s st info) (s := faultCmd k st info s)
      (by rw [status]; exact hf) hr active
    rw [Cmd.faulted_ctx] at err
    refine ⟨err, nextK.trans (faultCmd_nextK _ _ _ _), fun _ => ck ▸ gone, fun hn => absurd slot (by simp [hn]), fun hsig => ?_⟩
    rw [counters hsig, faultCmd_counters]
  · have raised : (getCtx (modCmd k (fun d => { d with raised := true }) (faultCmd k st info s)) c.ctx).st = .active := by
      rw [getCtx_congr (modCmd_ctxs _ _ _), active]
    rw [if_neg slot]
    refine ⟨contextFault_st_active raised _ _, ?_, fun hy => absurd hy slot, fun _ => ?_, fun _ => ?_⟩
    · rw [contextFault_nextK]
      simp
    · rw [contextFault_find, findCmd_modCmd_self (by intro c; rfl), found]
      rfl
    · rw [contextFault_counters]
      simp

end Sys2Proof.Machine
end

section
/-!
Completion (O12): a command that ends with OK leaves the list, with its header signal and, where it asks for one, its record.
-/
namespace Sys2Proof.Machine

section
variable {s : State} {k : Nat} {c : Cmd}

theorem exec_commandCompletion (h : findCmd s k = some c) (hm : mayComplete s c = true) :
    exec (.commandCompletion k) s = .next (completeCmd c s) := by
  simp only [exec, execCommandCompletion, h, hm, if_true]

/-- R68: an OK without COMPL writes no record. -/
theorem completeCmd_quiet {f : FaultInfo} {t : State} (hc : cmdCompl c = false)
    (hg : headerSignal c s = (0, f, t)) : completeCmd c s = freeCores c.k (removeCmd c.k t) := by
  unfold completeCmd
  simp [hg, hc, isFault, stOk]

/-- R68: an OK with COMPL writes its record. -/
theorem completeCmd_record (hs : c.status = 0) (hc : cmdCompl c = true) (hg : cmdSigEn c = false) :
    completeCmd c s = freeCores c.k (removeCmd c.k (putRecord c 0 c.result c.detail s)) := by
  unfold completeCmd
  simp [headerSignal_off hg, hs, hc, isFault]

/-- R58, R60: the header signal of a command that ends with OK adds SIG_INC to a counter that it owns. -/
theorem headerSignal_add (hs : c.status = 0) (hg : cmdSigEn c = true) (ho : ctrOwned s c.ctx (cmdSigCtr c) = true)
    (hfit : (ctrGet s (cmdSigCtr c)).toNat + cmdSigInc c < 2 ^ 64) :
    headerSignal c s = (0, c.fault, (ctrAdd c.ctx (cmdSigCtr c) (cmdSigInc c) s).2) := by
  have fits : (ctrAdd c.ctx (cmdSigCtr c) (cmdSigInc c) s).1 = false := decide_eq_false (by omega)
  unfold headerSignal
  simp [hg, hs, ho, isGood, stIntegrity, fits]

end

theorem freeCores_removeCmd_gone (k : Nat) (s : State) : findCmd (freeCores k (removeCmd k s)) k = none := findCmd_removeCmd_self k s

theorem freeCores_removeCmd_others (k : Nat) (s : State) : s.othersSame (freeCores k (removeCmd k s)) k :=
  fun _ hj => findCmd_removeCmd_ne hj s

theorem leBytes_length (n x : Nat) : (leBytes n x).length = n := by
  induction n generalizing x with
  | zero => rfl
  | succ n ih => rw [leBytes, List.length_cons, ih]

/-- R67: a completion record has 32 bytes. -/
theorem recordBytes_length (s : State) (c : Cmd) (x : Queue) (status : Nat) (result : W64) (detail : BitVec 32) :
    (recordBytes s c x status result detail).length = 32 := by
  simp [recordBytes, leBytes_length]

/-- R68: what a record that is written leaves. -/
theorem putRecord_spec {s : State} {c : Cmd} {x : Queue} {status : Nat} {result : W64} {detail : BitVec 32} {e : Eng}
    (hq : findQueue s c.q = some x)
    (hw : writeV (x.cqVa + x.cqTail.toNat % 2 ^ x.cqN * 32) (recordBytes s c x status result detail)
      { s := s, ctx := c.ctx, owner := 2 * c.k } = .ok () e) {t : State} (ht : t = putRecord c status result detail s) :
    t.mem = e.s.mem ∧ findQueue t c.q = some { x with cqTail := x.cqTail + 1 } ∧ (∀ p, p ≠ c.q → findQueue t p = findQueue s p) ∧
    t.cmds = s.cmds ∧ t.counters = s.counters := by
  obtain ⟨hs, -⟩ := writeV_only hw
  obtain ⟨f, g, m, put⟩ := putRecord_ok hq hw
  have queues (q : Nat) : findQueue t q =
      findQueue (modQueue c.q (fun x => { x with cqTail := x.cqTail + 1 }) (orSticky c.ctx 0 { e.s with fab := f })) q := by
    rw [ht, put]
    rfl
  have before (q : Nat) : findQueue (orSticky c.ctx 0 { e.s with fab := f }) q = findQueue s q := by
    change Tbl.find? e.s.queues q = _
    rw [hs]
    rfl
  refine ⟨?_, ?_, fun p hp => ?_, ?_, ?_⟩
  · rw [ht, put]
    simp
  · rw [queues, findQueue_modQueue_self, before, hq]
    rfl
  · rw [queues, findQueue_modQueue_ne hp, before]
  · rw [ht, put]
    simp
    rw [hs]
  · rw [ht, put]
    simp
    rw [hs]

/-- Settles O12: completion without a record, its header signal, and completion with a record. -/
theorem completionsWriteRecordAndSignal : Obligations.CompletionsWriteRecordAndSignal := by
  unfold Obligations.CompletionsWriteRecordAndSignal
  refine ⟨fun s k c h hm hs hc => ⟨fun hg => ?plain, fun hg ho hfit => ?signal⟩, fun s k c x e h hm hs hc hg hq hw => ?record⟩
  case plain =>
    obtain rfl := findCmd_k h
    refine ⟨_, exec_commandCompletion h hm, ?_⟩
    rw [completeCmd_quiet hc (by rw [headerSignal_off hg, hs]; rfl)]
    exact ⟨freeCores_removeCmd_gone _ s, freeCores_removeCmd_others _ s, rfl, rfl, rfl, rfl⟩
  case signal =>
    obtain rfl := findCmd_k h
    refine ⟨_, exec_commandCompletion h hm, ?_⟩
    rw [completeCmd_quiet hc (headerSignal_add hs hg ho hfit)]
    have ctr := ctrAdd_ctr c.ctx (cmdSigCtr c) (cmdSigInc c) s
    refine ⟨freeCores_removeCmd_gone _ _, othersReleased_of_same (ctr.othersReleased _) (freeCores_removeCmd_others _ _), ?_, ?_, ?_,
      fun n hn => ctrGet_ctrAdd_ne hn⟩
    · simp [ctr.mem_eq]
    · simp [ctr.queues_eq]
    · change (ctrGet (ctrAdd _ _ _ s).2 _).toNat = _
      rw [ctrGet_ctrAdd_self, BitVec.toNat_ofNat]
      omega
  case record =>
    obtain rfl := findCmd_k h
    obtain ⟨mem, tail, others, cmds, counters⟩ := putRecord_spec hq hw rfl
    refine ⟨recordBytes_length _ _ _ _ _ _, _, exec_commandCompletion h hm, ?_⟩
    rw [completeCmd_record hs hc hg]
    exact ⟨mem, tail, others, freeCores_removeCmd_gone _ _,
      fun j hj => (freeCores_removeCmd_others _ _ j hj).trans (findCmd_congr cmds j), counters⟩

end Sys2Proof.Machine
end

section
/-!
COMMAND_START (O11): what the start of a command notes, a start whose result is unpredictable, and a header wait on a counter of another
context.
-/
namespace Sys2Proof.Machine

/-! ### An unpredictable result (R4) -/

/-- From s to t no command has started, and command k, if it had begun, has still begun. -/
def StillBegun (k : Nat) (s t : State) : Prop :=
  t.nextStart = s.nextStart ∧ ∀ c, findCmd s k = some c → c.begun = true → ∃ d, findCmd t k = some d ∧ d.begun = true

section
variable {k : Nat}

theorem StillBegun.refl (s : State) : StillBegun k s s := ⟨rfl, fun c h b => ⟨c, h, b⟩⟩

theorem StillBegun.trans {s t u : State} (h : StillBegun k s t) (g : StillBegun k t u) : StillBegun k s u := by
  refine ⟨g.1.trans h.1, fun c hc hb => ?_⟩
  obtain ⟨d, hd, hdb⟩ := h.2 c hc hb
  exact g.2 d hd hdb

/-- A change that touches neither the commands nor the count of starts. -/
theorem StillBegun.of_cmds {s t : State} (hn : t.nextStart = s.nextStart) (hc : t.cmds = s.cmds) : StillBegun k s t :=
  ⟨hn, fun c h b => ⟨c, (findCmd_congr hc k).trans h, b⟩⟩

theorem FabOnly.stillBegun {s t : State} (h : FabOnly s t) : StillBegun k s t := by
  obtain ⟨f, rfl⟩ := h
  exact .of_cmds rfl rfl

theorem MemOnly.stillBegun {s t : State} (h : MemOnly s t) : StillBegun k s t := by
  refine .of_cmds ?_ ?_ <;> rw [h]

theorem CtrOnly.stillBegun {s t : State} (h : CtrOnly s t) : StillBegun k s t := by
  obtain ⟨w, hw, hf⟩ := h.find
  refine ⟨?_, fun c hc hb => ⟨w c, by rw [hf, hc]; rfl, ?_⟩⟩
  · obtain ⟨_, _, _, _, _, rfl⟩ := h
    rfl
  · obtain ⟨b, r, e⟩ := hw c
    rw [e]
    exact hb

theorem foldl_stillBegun {α : Type} {f : State → α → State} (h : ∀ s a, StillBegun k s (f s a)) (l : List α) (s : State) :
    StillBegun k s (l.foldl f s) := foldl_rel StillBegun.refl (fun _ _ _ => StillBegun.trans) h l s

/-- Nothing but the commands and the fabric has changed. -/
def SendOnly (s t : State) : Prop := ∃ f cs, t = { s with fab := f, cmds := cs }

theorem SendOnly.refl (s : State) : SendOnly s s := ⟨_, _, rfl⟩

theorem SendOnly.trans {a b c : State} (h : SendOnly a b) (g : SendOnly b c) : SendOnly a c := by
  obtain ⟨f, cs, rfl⟩ := h
  obtain ⟨f', cs', rfl⟩ := g
  exact ⟨f', cs', rfl⟩

theorem FabOnly.sends {s t : State} (h : FabOnly s t) : SendOnly s t := by
  obtain ⟨f, rfl⟩ := h
  exact ⟨f, s.cmds, rfl⟩

/-- R310: remote writes reach the fabric and the command that waits for them. -/
theorem sendWrites_sends (ctx : Nat) (k : Option Nat) (ws : List (Mapping × Nat × Bytes)) (s : State) :
    SendOnly s (sendWrites ctx k ws s) := by
  induction ws generalizing s with
  | nil => exact .refl s
  | cons w ws ih =>
    refine SendOnly.trans (foldl_rel SendOnly.refl (fun _ _ _ => SendOnly.trans) (fun s p => ?_) _ s) (ih _)
    have sent := (request_fab ptWrite ctx k w.1.dst w.1.rctx (mapTarget w.1 w.2.1 + p.1) p.2 (w.2.1 + p.1) 0 ((w.2.2.drop p.1).take p.2)
      false 0 s).sends
    cases k with
    | none => exact sent
    | some k => exact sent.trans ⟨_, _, rfl⟩

theorem sendWrites_stillBegun (ctx : Nat) (ws : List (Mapping × Nat × Bytes)) (s : State) :
    StillBegun k s (sendWrites ctx (some k) ws s) := by
  refine ⟨?_, fun c hc hb => ?_⟩
  · obtain ⟨f, cs, e⟩ := sendWrites_sends ctx (some k) ws s
    rw [e]
  · obtain ⟨f, cs, w, -, found⟩ := sendWrites_spec ctx k ws s c hc
    exact ⟨_, found, hb⟩

theorem ctxPoke_memOnly (ctx va : Nat) (b : Byte) (s : State) : MemOnly s (ctxPoke ctx va b s) := by
  unfold ctxPoke
  split
  · split
    · exact .refl s
    · exact store_memOnly _ _ s
  · exact .refl s

theorem havocMem_memOnly (ctx : Nat) (s : State) : MemOnly s (havocMem ctx s) :=
  MemOnly.trans (b := { s with free := s.free + 1 }) rfl
    (foldl_memOnly (fun s (w : Nat × Byte) => ctxPoke_memOnly ctx w.1 w.2 s) _ _)

theorem havocCtrs_stillBegun (ctx : Nat) (s : State) : StillBegun k s (havocCtrs ctx s) :=
  StillBegun.trans (t := { s with free := s.free + 1 }) (.of_cmds rfl rfl)
    (foldl_stillBegun (fun _ _ => (ctrSet_ctr _ _ _ _).stillBegun) _ _)

theorem havocFeed_stillBegun (ctx : Nat) (s : State) : StillBegun k s (havocFeed ctx s) := by
  unfold havocFeed
  extract_lets f n x s1 y
  split <;> exact .of_cmds rfl rfl

theorem havocHint_stillBegun (s : State) : StillBegun k s (havocHint s) := by
  unfold havocHint
  extract_lets f s1 h
  split <;> exact .of_cmds rfl rfl

theorem havocColl_stillBegun (c : Cmd) (s : State) : StillBegun k s (havocColl c s) := by
  unfold havocColl
  extract_lets f s1
  have h1 : StillBegun k s s1 := .of_cmds rfl rfl
  split
  · exact h1
  · split
    · exact h1
    · exact h1.trans (foldl_stillBegun (fun s _ => (sendPacket_fab _ s).stillBegun) _ s1)

theorem havocRemote_stillBegun (ctx : Nat) (s : State) : StillBegun k s (havocRemote ctx k s) := by
  refine StillBegun.trans (t := { s with free := s.free + 1 }) (.of_cmds rfl rfl) (foldl_stillBegun (fun s w => ?_) _ _)
  split
  · split
    · exact sendWrites_stillBegun ctx _ s
    · exact .refl s
  · exact .refl s

/-- R4: a command with an unpredictable result has ended; nothing has started by it. -/
theorem unpredictable_done {s : State} {c : Cmd} (h : findCmd s c.k = some c) (hb : c.begun = true) :
    ∃ d, findCmd (unpredictable c s) c.k = some d ∧ d.begun = true ∧ d.st = .done ∧ (unpredictable c s).nextStart = s.nextStart := by
  unfold unpredictable
  extract_lets f sts st any s1 s2 s3 s4 s5 s6
  have h1 : StillBegun c.k s s1 := (havocMem_memOnly c.ctx s).stillBegun.trans (dropReqs_fab c.k _).stillBegun
  have h2 : StillBegun c.k s1 s2 :=
    StillBegun.trans (t := havocCores c.ctx (havocTiles c.ctx (havocBanks c.ctx s1))) (.of_cmds rfl rfl) (havocCtrs_stillBegun _ _)
  have h3 : StillBegun c.k s2 s3 := ite_of (fun _ => havocFeed_stillBegun _ _) (fun _ => .refl _)
  have h4 : StillBegun c.k s3 s4 := ite_of (fun _ => havocHint_stillBegun _) (fun _ => .refl _)
  have h5 : StillBegun c.k s4 s5 := ite_of (fun _ => havocColl_stillBegun _ _) (fun _ => .refl _)
  have h6 : StillBegun c.k s5 s6 :=
    StillBegun.trans (t := orSticky c.ctx (Config.freeW64 f 4 &&& 0xF01F) s5) (.of_cmds rfl rfl) (havocRemote_stillBegun _ _)
  obtain ⟨starts, still⟩ := h1.trans <| h2.trans <| h3.trans <| h4.trans <| h5.trans h6
  obtain ⟨d, hd, hdb⟩ := still c h hb
  split
  · exact ⟨_, findCmd_faultCmd hd _ _, hdb, rfl, (faultCmd_nextStart _ _ _ _).trans starts⟩
  · refine ⟨_, findCmd_endCmd_self.trans (congrArg _ hd), hdb, rfl, starts⟩

end

/-! ### A start (R57, R68, R388) -/

/-- The command that has started. -/
def Cmd.started (s : State) (c : Cmd) : Cmd :=
  { c with st := .started, begun := true, credit := true, startFtw := s.ftw, startGen := (getCtx s c.ctx).prefGen,
           startNo := s.nextStart, wdog := 0, oldUcode := false }

/-- R105, R109: the banks that a load marks are all that its mark changes. -/
theorem markLoading_frame (c : Cmd) (s : State) : markLoading c s = { s with banks := (markLoading c s).banks } := by
  unfold markLoading
  dsimp only
  split <;> rfl

/-- R388: the end of a header wait restarts counts of the watchdog and does nothing else. -/
theorem headerWaitEnds_frame (c : Cmd) (s : State) : headerWaitEnds c s = { s with cmds := (headerWaitEnds c s).cmds } := by
  unfold headerWaitEnds
  split
  · exact progress_frame _ _
  · rfl

theorem findCmd_headerWaitEnds {s : State} {c : Cmd} (h : findCmd s c.k = some c) (j : Nat) :
    findCmd (headerWaitEnds c s) j = (findCmd s j).map fun d =>
      if cmdWaitEn c = true ∧ c.replay = false ∧ (d.k = c.k ∨ sameWatch s c d = true) then { d with wdog := 0 } else d := by
  unfold headerWaitEnds
  by_cases hw : cmdWaitEn c = true ∧ c.replay = false
  · rw [if_pos hw, findCmd_progress h]
    simp only [hw.1, hw.2, true_and]
  · rw [if_neg hw]
    have : (fun d : Cmd => if cmdWaitEn c = true ∧ c.replay = false ∧ (d.k = c.k ∨ sameWatch s c d = true) then { d with wdog := 0 } else d) = id := by
      funext d
      exact if_neg fun h => hw ⟨h.1, h.2.1⟩
    rw [this, Option.map_id]
    rfl

/-- R57, R68: what the start of a command notes of it, of the others nothing; its engines and banks are all else that it touches. -/
theorem startCmd_spec {s : State} {c : Cmd} (h : findCmd s c.k = some c) {s' : State} (hs : s' = headerWaitEnds c s) :
    findCmd (startCmd c s') c.k = some (c.started s) ∧ s'.othersSame (startCmd c s') c.k ∧
    startCmd c s' = { s with
      cmds := (startCmd c s').cmds, banks := (startCmd c s').banks, served := (startCmd c s').served, pow := (startCmd c s').pow,
      nextStart := s.nextStart + 1 } := by
  have frame : s' = { s with cmds := s'.cmds } := hs ▸ headerWaitEnds_frame c s
  have found : ∃ d, findCmd s' c.k = some d ∧ d = { c with wdog := d.wdog } := by
    rw [hs, findCmd_headerWaitEnds h, h]
    refine ⟨_, rfl, ?_⟩
    dsimp only
    split <;> rfl
  obtain ⟨d, hd, hdc⟩ := found
  unfold startCmd
  extract_lets s1 p s2
  have noted : findCmd s2 c.k = some (c.started s) := by
    refine (findCmd_modCmd_self (by intro c; rfl)).trans ?_
    rw [hd, hdc, frame]
    rfl
  have others : s'.othersSame s2 c.k := fun j hj => findCmd_modCmd_ne (by intro c; rfl) hj
  rw [noted]
  dsimp only
  rw [markLoading_frame]
  have changed : s2 = { s with cmds := s2.cmds, served := s2.served, pow := s2.pow, nextStart := s.nextStart + 1 } := by
    unfold s2 s1 modCmd
    rw [frame]
  exact ⟨noted, others, by rw [changed]⟩

section
variable {s : State} {k : Nat} {c : Cmd}

/-- R57: a ready command that its engines accept starts. -/
theorem exec_commandStart_ready (h : findCmd s k = some c)
    (hw : (cmdWaitEn c && !c.replay && !ctrOwned s c.ctx (cmdWaitCtr c)) = false) (hr : ready s c = true) (ha : accepts s c = true) :
    exec (.commandStart k) s = .next (openStart c (startCmd c (headerWaitEnds c s))) := by
  have waits (b : Bool) : (b && cmdWaitEn c && !c.replay && !ctrOwned s c.ctx (cmdWaitCtr c)) = false := by
    cases b with
    | false => simp
    | true => simpa using hw
  simp only [exec, execCommandStart, h, waits, hr, ha, Bool.false_eq_true, if_false, Bool.and_true, if_true]

/-- R59: a queue's head that waits on a counter of another context ends by that fault. -/
theorem exec_commandStart_foreign (h : findCmd s k = some c) (hh : (headCmd s c.q).map (·.k) = some k)
    (ha : (getCtx s c.ctx).st = .active) (hres : inReset s = false) (hi : c.intact = true) (hq : heldByWait s c.q = false)
    (hw : cmdWaitEn c = true) (hp : c.replay = false) (ho : ctrOwned s c.ctx (cmdWaitCtr c) = false) :
    exec (.commandStart k) s = .next (endFaulted k stTranslation (ctrInfo (cmdWaitCtr c)) s) := by
  simp [exec, execCommandStart, h, hh, ha, hres, hi, hq, hw, hp, ho]

end

/-- Settles O11: a start by what it notes of each command, a wait on a foreign counter by the rule of ends by fault. -/
theorem commandsStartOrFault : Obligations.CommandsStartOrFault := by
  unfold Obligations.CommandsStartOrFault
  refine ⟨fun s k c h hw hr ha => ⟨fun ho hc => ?starts, fun ho => ?unpredictable⟩,
    fun s k c h hh ha hres hi hq hw hp hraised ho => ?foreign⟩
  case starts =>
    obtain rfl := findCmd_k h
    obtain ⟨self, others, frame⟩ := startCmd_spec h rfl
    have opened : openStart c (startCmd c (headerWaitEnds c s)) = startCmd c (headerWaitEnds c s) := if_neg (by simp [ho, hc])
    refine ⟨_, by rw [exec_commandStart_ready h hw hr ha, opened], self, fun j hj => ?_, ?_⟩
    · rw [others j hj, findCmd_headerWaitEnds h]
      cases hd : findCmd s j with
      | none => rfl
      | some d => simp [findCmd_k hd, hj]
    · rw [frame]
      exact ⟨rfl, rfl, rfl, rfl, rfl⟩
  case unpredictable =>
    obtain rfl := findCmd_k h
    obtain ⟨self, -, frame⟩ := startCmd_spec h rfl
    obtain ⟨d, hd, hb, hst, starts⟩ := unpredictable_done (c := c.started s) self rfl
    refine ⟨_, d, exec_commandStart_ready h hw hr ha, ?_⟩
    have opened : openStart c (startCmd c (headerWaitEnds c s)) = unpredictable (c.started s) (startCmd c (headerWaitEnds c s)) := by
      simp only [openStart, if_pos ho, self]
    rw [opened]
    exact ⟨hd, hb, hst, by rw [starts, frame]⟩
  case foreign =>
    obtain ⟨err, -, gone, stands, counters⟩ :=
      endFaulted_active h (st := stTranslation) rfl (by decide) hraised ha hres (ctrInfo (cmdWaitCtr c))
    exact ⟨_, exec_commandStart_foreign h hh ha hres hi hq hw hp ho, err, gone, fun hn => ⟨_, stands hn, rfl, rfl, rfl⟩, counters⟩

end Sys2Proof.Machine
end

section
/-!
Doorbells and fetch (O10): the tail and the record head that a function writes, and the command that a queue takes from its ring.
-/
namespace Sys2Proof.Machine

/-! ### Doorbells (R48, R50) -/

section
variable {s : State} {fn q : Nat}

theorem wakeUp_frame (s : State) : wakeUp s = { s with pow := (wakeUp s).pow } := by
  unfold wakeUp
  split <;> rfl

theorem modQueue_frame (q : Nat) (f : Queue → Queue) (s : State) : modQueue q f s = { s with queues := (modQueue q f s).queues } := by
  unfold modQueue
  split <;> rfl

theorem findQueue_wakeUp (s : State) (q : Nat) : findQueue (wakeUp s) q = findQueue s q := by
  rw [wakeUp_frame]
  rfl

theorem exec_dbTail (hu : hostUp s = true) (ho : ownsQueue s fn q = true) (v : W64) : exec (.dbTail fn q v) s = .next (
    wakeUp (modQueue q (fun x => if tailOk x (v.setWidth 32) then
      { x with tail := v.setWidth 32, rung := x.rung ++ ringBlocks s x (v.setWidth 32 - x.tail).toNat } else x) s)) := by
  simp only [exec, execDbTail, hu, ho, Bool.and_true, if_true]

theorem exec_dbCqhead (hu : hostUp s = true) (ho : ownsQueue s fn q = true) (v : W64) :
    exec (.dbCqhead fn q v) s = .next (modQueue q (fun x => { x with cqHead := v.setWidth 32 }) s) := by
  simp only [exec, execDbCqhead, hu, ho, Bool.and_true, if_true]

/-- R50: writes of a function that does not own the queue. -/
theorem doorbells_ignored (ho : ownsQueue s fn q = false) (v : W64) :
    exec (.dbTail fn q v) s = .next s ∧ exec (.dbCqhead fn q v) s = .next s := by
  simp [exec, execDbTail, execDbCqhead, ho]

/-- R48: a tail that is accepted. -/
theorem tailOk_iff (x : Queue) (t : BitVec 32) : tailOk x t = true ↔ t - x.tail ≠ 0 ∧ (t - x.head : BitVec 32).toNat ≤ 2 ^ x.ringN := by
  simp [tailOk]

end

/-! ### Fetch (R47, R56) -/

theorem readBlocks_only (x : Queue) (n : Nat) (c : BitVec 32) : EO (readBlocks x n c) := by
  induction n generalizing c with
  | zero => exact eo_pure
  | succ n ih => exact eo_bind (readPages_only _ _ _) fun _ => eo_bind (ih _) fun _ => eo_pure

theorem fetchBlocks_only (x : Queue) : EO (fetchBlocks x) := by
  refine eo_bind (readPages_only _ _ _) fun h => ?_
  dsimp only
  split
  · exact eo_pure
  · exact eo_bind (readBlocks_only _ _ _) fun _ => eo_pure

/-- The command that a fetch adds (R46, R48). -/
def fetchedCmd (s : State) (q : Nat) (x : Queue) (bs : Bytes) : Cmd := {
  k := s.nextK, q := q, ctx := x.ctx, basalt := x.basalt, blocks := bs
  intact := decide (integrity bs = BitVec.ofNat 16 (field bs 14 2))
  changed := x.rung.any fun r => decide ((r.1 - x.head).toNat < bs.length / 64) && decide (slotBytes s x r.1 ≠ some r.2) }

/-- The queue after a fetch of n blocks. -/
def Queue.fetched (x : Queue) (n : Nat) : Queue :=
  { x with head := x.head + BitVec.ofNat 32 n, rung := x.rung.filter fun r => !decide ((r.1 - x.head).toNat < n) }

/-- The machine with a fetched command on its list. -/
def fetchedState (s : State) (q : Nat) (x : Queue) (bs : Bytes) : State :=
  modQueue q (fun y => { y with
      head := y.head + BitVec.ofNat 32 (bs.length / 64),
      rung := y.rung.filter fun r => !decide ((r.1 - x.head).toNat < bs.length / 64) })
    { s with cmds := s.cmds ++ [fetchedCmd s q x bs], nextK := s.nextK + 1 }

section
variable {s : State} {q : Nat} {x : Queue} {bs : Bytes}

/-- R56: a fetched command joins the list; a wrong integrity word ends it. -/
theorem addCmd_eq : addCmd q x bs s =
    if integrity bs = BitVec.ofNat 16 (field bs 14 2) then fetchedState s q x bs
    else endFaulted s.nextK stIntegrity { aux := BitVec.ofNat 64 (field bs 14 2 * 65536 + (integrity bs).toNat) }
      (fetchedState s q x bs) := by
  unfold addCmd
  dsimp only
  rfl

@[simp] theorem fetchedState_cmds : (fetchedState s q x bs).cmds = s.cmds ++ [fetchedCmd s q x bs] := by simp [fetchedState]
@[simp] theorem fetchedState_nextK : (fetchedState s q x bs).nextK = s.nextK + 1 := by simp [fetchedState]
@[simp] theorem fetchedState_mem : (fetchedState s q x bs).mem = s.mem := by simp [fetchedState]
@[simp] theorem fetchedState_counters : (fetchedState s q x bs).counters = s.counters := by simp [fetchedState]
@[simp] theorem fetchedState_ctxs : (fetchedState s q x bs).ctxs = s.ctxs := by simp [fetchedState]
@[simp] theorem fetchedState_rst : (fetchedState s q x bs).rst = s.rst := by simp [fetchedState]

theorem findQueue_fetchedState (h : findQueue s q = some x) :
    findQueue (fetchedState s q x bs) q = some (x.fetched (bs.length / 64)) := by
  unfold fetchedState
  rw [findQueue_modQueue_self]
  change (findQueue s q).map _ = _
  rw [h]
  rfl

/-- The fetched command is found under its number. -/
theorem findCmd_fetchedState (h : ∀ d ∈ s.cmds, d.k < s.nextK) :
    findCmd (fetchedState s q x bs) s.nextK = some (fetchedCmd s q x bs) := by
  have fresh : s.cmds.find? (fun d => d.k == s.nextK) = none := by
    rw [List.find?_eq_none]
    intro d hd
    have := h d hd
    simp only [beq_iff_eq]
    omega
  rw [findCmd, fetchedState_cmds, List.find?_append, fresh]
  simp [fetchedCmd]

/-- R68: a fetched command holds no credit. -/
theorem hasRoom_fetchedState (h : findQueue s q = some x) : hasRoom (fetchedState s q x bs) q = hasRoom s q := by
  have credits : creditsHeld (fetchedState s q x bs) q = creditsHeld s q := by
    simp [creditsHeld, queueCmds, fetchedCmd]
  unfold hasRoom
  rw [findQueue_fetchedState h, h, credits]
  rfl

/-- R46, R71: accesses that change no mapping and no memory leave what a ring slot holds. -/
theorem slotBytes_congr {t : State} (hm : t.mem = s.mem) (hi : t.id = s.id) (hc : (getCtx t x.ctx).maps = (getCtx s x.ctx).maps)
    (c : BitVec 32) : slotBytes t x c = slotBytes s x c := by
  have peeked (a n : Nat) : rawPeek t a n = rawPeek s a n := by simp [rawPeek, hm, hi]
  have mapped (va : Nat) : translate t x.ctx va false = translate s x.ctx va false := by simp [translate, findMap, hc]
  simp only [slotBytes, peeked, mapped]

/-- The machine after a fetch whose reads changed nothing: remote bytes have been used up. -/
def fetchAccessed (s : State) (q : Nat) (x : Queue) (used : List Nat) : State := orSticky x.ctx 0 (dropUsed (2 * q + 1) used s)

/-- What a fetch without effects beside its reads leaves: the machine as it was, but for remote bytes. -/
theorem fetch_commit {r : Option Bytes} {e : Eng} (h : fetchBlocks x { s := s, ctx := x.ctx, owner := 2 * q + 1 } = .ok r e)
    (hs : e.s = s) (hw : e.wr = []) : engCommit none e = fetchAccessed s q x e.used := by
  obtain ⟨-, only⟩ := fetchBlocks_only x _ _ _ h
  have ctx : e.ctx = x.ctx := by rw [only]
  have owner : e.owner = 2 * q + 1 := by rw [only]
  have sticky : e.sticky = 0 := by rw [only]
  rw [engCommit_of_wr_nil hw, hs, ctx, owner, sticky]
  rfl

/-- R56: a fetch whose blocks are all available. -/
theorem exec_commandFetch (hq : findQueue s q = some x) (hm : mayFetch s q x = true) {e : Eng}
    (h : fetchBlocks x { s := s, ctx := x.ctx, owner := 2 * q + 1 } = .ok (some bs) e) (hs : e.s = s) (hw : e.wr = []) :
    exec (.commandFetch q) s = .next (addCmd q x bs (fetchAccessed s q x e.used)) := by
  simp only [exec, execCommandFetch, hq, hm, if_true, h, fetch_commit h hs hw]

theorem getCtx_fetchAccessed (used : List Nat) : (getCtx (fetchAccessed s q x used) x.ctx).maps = (getCtx s x.ctx).maps ∧
    (getCtx (fetchAccessed s q x used) x.ctx).st = (getCtx s x.ctx).st := by
  rw [fetchAccessed, getCtx_orSticky]
  exact ⟨rfl, rfl⟩

/-- The command that is fetched is the same whatever remote bytes the fetch has used up. -/
theorem fetchedCmd_accessed (used : List Nat) : fetchedCmd (fetchAccessed s q x used) q x bs = fetchedCmd s q x bs := by
  have slots (c : BitVec 32) : slotBytes (fetchAccessed s q x used) x c = slotBytes s x c :=
    slotBytes_congr (s := s) (t := fetchAccessed s q x used) rfl rfl (getCtx_fetchAccessed used).1 c
  simp only [fetchedCmd, slots]
  rfl

/-- R49: a queue that may fetch belongs to an ACTIVE context, outside a compute reset. -/
theorem mayFetch_active (h : mayFetch s q x = true) : (getCtx s x.ctx).st = .active ∧ inReset s = false := by
  simp only [mayFetch, fetchStopped, Bool.and_eq_true, Bool.not_eq_true', Bool.or_eq_false_iff, decide_eq_true_eq] at h
  tauto

end

/-- Settles O10: the doorbells by the queue that they change, a fetch by the command that it adds. -/
theorem doorbellsAndFetch : Obligations.DoorbellsAndFetch := by
  unfold Obligations.DoorbellsAndFetch
  refine ⟨fun s fn q v x hu hq => ⟨fun ho => ⟨?tail, ?head⟩, fun ho => doorbells_ignored ho v⟩,
    fun s q x e hq hm => ⟨fun bs h hi hs hw hused => ?whole, fun bs h hi hs hw hused hk => ?spoilt, fun h => ?missing⟩⟩
  case tail =>
    refine ⟨_, exec_dbTail hu ho v, ?_, fun p hp => ?_, ?_⟩
    · rw [findQueue_wakeUp, findQueue_modQueue_self, hq, Option.map_some]
      simp only [tailOk_iff]
    · rw [findQueue_wakeUp, findQueue_modQueue_ne hp]
    · rw [wakeUp_frame, modQueue_frame]
  case head =>
    refine ⟨_, exec_dbCqhead hu ho v, ?_, fun p hp => findQueue_modQueue_ne hp, modQueue_frame _ _ _⟩
    rw [findQueue_modQueue_self, hq]
    rfl
  case whole =>
    have sound : fetchedCmd s q x bs = { fetchedCmd s q x bs with intact := true } := by simp [fetchedCmd, hi]
    have tail := findQueue_fetchedState (s := fetchAccessed s q x e.used) (bs := bs) hq
    refine ⟨_, (exec_commandFetch hq hm h hs hw).trans (by rw [addCmd_eq, if_pos hi]), ?_, ?_, ?_, ?_, ?_⟩
    · rw [fetchedState_cmds, fetchedCmd_accessed, sound]
      rfl
    · exact fetchedState_nextK
    · rw [tail]
      rfl
    · exact fetchedState_mem
    · exact fetchedState_counters
  case spoilt =>
    obtain ⟨active, reset⟩ := mayFetch_active hm
    have fresh : ∀ d ∈ (fetchAccessed s q x e.used).cmds, d.k < (fetchAccessed s q x e.used).nextK := hk
    have found := findCmd_fetchedState (q := q) (x := x) (bs := bs) fresh
    have room : hasRoom (fetchedState (fetchAccessed s q x e.used) q x bs) q = hasRoom s q :=
      (hasRoom_fetchedState (s := fetchAccessed s q x e.used) hq).trans rfl
    have ctx : (getCtx (fetchedState (fetchAccessed s q x e.used) q x bs) x.ctx).st = .active := by
      rw [getCtx_congr fetchedState_ctxs, (getCtx_fetchAccessed e.used).2, active]
    have outside : inReset (fetchedState (fetchAccessed s q x e.used) q x bs) = false := by
      rw [inReset, fetchedState_rst]
      exact reset
    obtain ⟨err, nextK, gone, stands, -⟩ := endFaulted_active found (st := stIntegrity) rfl (by decide) rfl ctx outside
      { aux := BitVec.ofNat 64 (field bs 14 2 * 65536 + (integrity bs).toNat) }
    refine ⟨_, (exec_commandFetch hq hm h hs hw).trans (by rw [addCmd_eq, if_neg hi]), ?_, err, fun d hd => ?_, fun hr => ?_⟩
    · rw [nextK, fetchedState_nextK]
      rfl
    · cases hr : hasRoom s q with
      | true => cases (gone (room.trans hr)).symm.trans hd
      | false =>
        cases (stands (room.trans hr)).symm.trans hd
        exact ⟨rfl, rfl, rfl⟩
    · exact gone (room.trans hr)
  case missing =>
    simp only [exec, execCommandFetch, hq, hm, if_true, h]

end Sys2Proof.Machine
end

section
/-!
SUPPORT. Mailbox rows: what a row comes to when its handler answers or defers, and what a handler reads of the state with the request in
its channel's buffer.
-/
namespace Sys2Proof.Machine

section Rows
variable {s : State} {ch code : Nat} {req bd : Bytes} {r : MsgRow} {i : Instr}

/-- The row of a request that its handler answers (R344). -/
theorem exec_of_now (hx : exec i s = .next (mailboxRow code ch req s)) (hr : msgRow code = some r) (h : s.serves ch code req bd)
    {st : Nat} {out : Bytes} {t : State} (hh : r.handler ch (field req 4 4) bd (s.given ch req) = .now st out t) :
    exec i s = .next (t.answered ch req st out) := by
  rw [hx, mailboxRow_serves hr h, hh]

/-- The row of a request that its handler defers (R345). -/
theorem exec_of_later (hx : exec i s = .next (mailboxRow code ch req s)) (hr : msgRow code = some r) (h : s.serves ch code req bd)
    {ws : List (BitVec 32)} {bad : Nat} {t : State} (hh : r.handler ch (field req 4 4) bd (s.given ch req) = .later ws bad t) :
    exec i s = .next (t.deferredAs ch req ws bad) := by
  rw [hx, mailboxRow_serves hr h, hh]

end Rows

section Given
variable (s : State) (ch : Nat) (req : Bytes)

/-- A request written with GO changes the function's buffer and the pending wake alone. -/
theorem given_eq : ∃ (F : Tbl Fn) (w : Bool), s.given ch req = { s with fns := F, pow := { s.pow with wake := w } } := by
  unfold State.given wakeUp modFn
  split
  · exact ⟨_, s.pow.wake, rfl⟩
  · exact ⟨_, true, rfl⟩

/-- A function that reads neither the functions' buffers nor the pending wake answers as before the request. -/
theorem given_reads {α : Type} {f : State → α} (hf : ∀ F w, f { s with fns := F, pow := { s.pow with wake := w } } = f s) :
    f (s.given ch req) = f s := by
  obtain ⟨F, w, h⟩ := given_eq s ch req
  rw [h, hf]

end Given

end Sys2Proof.Machine
end

section
/-!
O48. The queries: each answer is read from the state as it was before the request.
-/
namespace Sys2Proof.Machine

section Answers
variable {s : State} {ch : Nat} {req bd : Bytes}

/-! ### What a handler sees of the state with the request in its buffer -/

variable (s ch req) in
theorem given_findEnd (e : Nat) : findEnd (s.given ch req) e = findEnd s e :=
  given_reads s ch req (f := (findEnd · e)) fun _ _ => rfl

variable (s ch req) in
theorem given_findGroup (g : Nat) : findGroup (s.given ch req) g = findGroup s g :=
  given_reads s ch req (f := (findGroup · g)) fun _ _ => rfl

variable (s ch req) in
theorem given_readMem (a n : Nat) : readMem (s.given ch req) a n = readMem s a n :=
  given_reads s ch req (f := (readMem · a n)) fun _ _ => rfl

variable (s ch req) in
theorem given_dumpUnits (a n : Nat) : dumpUnits (s.given ch req) a n = dumpUnits s a n := by
  unfold dumpUnits
  simp only [given_readMem]
  rw [given_frame]

/-! ### Module queries -/

theorem doIdentify_given (tag : Nat) : doIdentify ch tag bd (s.given ch req) = .now 0 (identifyBody s) (s.given ch req) := by
  unfold doIdentify
  rw [given_reads s ch req (f := identifyBody) fun _ _ => rfl]
  rfl

/-- What STATUS_QUERY reports (R348). -/
def statusBody (s : State) : Bytes :=
  leBytes 1 (mbCode s.mb) ++ leBytes 1 s.pow.oppoint ++ leBytes 2 (min s.pow.boardCap s.pow.hostCap) ++ leBytes 4 s.log.resets
    ++ leBytes 2 (ctxCount s .active) ++ leBytes 2 (ctxCount s .error)

theorem doStatusQuery_eq (tag : Nat) (h : s.sup.in40 = true) :
    doStatusQuery ch tag bd s = .now (if s.pow.tripHold then 0x0041 else 0) (statusBody s) s := by
  unfold doStatusQuery stateByte statusBody capW
  rw [if_pos h]
  rfl

theorem doStatusQuery_given (tag : Nat) (h : s.sup.in40 = true) : doStatusQuery ch tag bd (s.given ch req) =
    .now (if s.pow.tripHold then 0x0041 else 0) (statusBody s) (s.given ch req) := by
  rw [doStatusQuery_eq tag (by rw [given_reads s ch req (f := fun s => s.sup.in40) fun _ _ => rfl, h]),
    given_reads s ch req (f := statusBody) fun _ _ => rfl, given_reads s ch req (f := fun s => s.pow.tripHold) fun _ _ => rfl]

/-- The sections of TELEMETRY_READ (R359). -/
def telemSection (n : Nat) (s : State) : Bytes :=
  if n = 0 then telemModule s else if n = 1 then telemDies s else if n = 2 then telemStalls s else telemChans s

theorem doTelemetryRead_section (tag : Nat) (h : field bd 0 1 ≤ 3) :
    doTelemetryRead ch tag bd s = .now 0 (telemSection (field bd 0 1) s) s := by
  unfold doTelemetryRead
  generalize field bd 0 1 = n at h ⊢
  match n, h with
  | 0, _ => rfl
  | 1, _ => rfl
  | 2, _ => rfl
  | 3, _ => rfl

theorem doTelemetryRead_beyond (tag : Nat) (h : 3 < field bd 0 1) : doTelemetryRead ch tag bd s = .now 0x0052 [] s := by
  unfold doTelemetryRead
  generalize field bd 0 1 = n at h ⊢
  match n, h with
  | n + 4, _ => rfl

/-- The units that LOG_READ reports, from the log or from the dump area (R404, R409). -/
def logUnits (first n : Nat) (s : State) : List Bytes :=
  if bitOf first 31 then dumpUnits s (bits first 30 0) n
  else logEntries s (max first (s.log.next - 2048)) (min (first + n) s.log.next)

variable (s ch req) in
theorem given_logUnits (first n : Nat) : logUnits first n (s.given ch req) = logUnits first n s := by
  unfold logUnits logEntries
  rw [given_dumpUnits, given_reads s ch req (f := fun s => s.log) fun _ _ => rfl]

theorem doLogRead_units (tag : Nat) (h0 : 1 ≤ field bd 4 2) (h1 : field bd 4 2 ≤ 47) : doLogRead ch tag bd s =
    .now 0 (leBytes 4 s.log.next ++ leBytes 2 (logUnits (field bd 0 4) (field bd 4 2) s).length ++ leBytes 2 0
      ++ (logUnits (field bd 0 4) (field bd 4 2) s).flatten) s := by
  unfold doLogRead
  dsimp only
  rw [if_neg (by omega)]
  rfl

theorem doLogRead_refused (tag : Nat) (h : field bd 4 2 = 0 ∨ 47 < field bd 4 2) : doLogRead ch tag bd s = .now 0x0052 [] s := by
  unfold doLogRead
  dsimp only
  rw [if_pos h]
  rfl

/-! ### Queries of a context, an end and a group -/

/-- What CTX_QUERY reports of a context (R44, R88). -/
def ctxBody (c : Nat) (s : State) : Bytes :=
  leBytes 1 (ctxCode (getCtx s c).st) ++ leBytes 1 (s.queues.filter fun q => q.2.ctx == c).length ++ leBytes 6 0
    ++ leBytes 8 (getCtx s c).sticky.toNat ++ leBytes 8 (mappedBytes (getCtx s c))

theorem doCtxQuery_owned (tag : Nat) (h : ownsCtx s ch (field bd 0 1) = true) (h1 : field bd 1 1 ≤ 1) : doCtxQuery ch tag bd s =
    .now 0 (ctxBody (field bd 0 1) s)
      (if field bd 1 1 = 1 then modCtx (field bd 0 1) (fun x => { x with sticky := 0 }) s else s) := by
  unfold doCtxQuery
  dsimp only
  rw [h, if_neg (by simp), if_neg (by omega)]
  rfl

theorem doCtxQuery_foreign (tag : Nat) (h : ownsCtx s ch (field bd 0 1) = false) : doCtxQuery ch tag bd s = .now 0x0050 [] s := by
  unfold doCtxQuery
  dsimp only
  rw [h, if_pos (by simp)]
  rfl

/-- What MEM_QUERY reports of a context (R303). -/
def shrinkBody (c first : Nat) (s : State) : Bytes := (((getCtx s c).shrink.drop first).take 380).flatMap fun v => leBytes 8 v

theorem doMemQuery_owned (tag : Nat) (h : ownsCtx s ch (field bd 0 1) = true) :
    doMemQuery ch tag bd s = .now 0 (shrinkBody (field bd 0 1) (field bd 4 4) s) s := by
  unfold doMemQuery
  dsimp only
  rw [h, if_neg (by simp)]
  rfl

theorem doMemQuery_foreign (tag : Nat) (h : ownsCtx s ch (field bd 0 1) = false) : doMemQuery ch tag bd s = .now 0x0050 [] s := by
  unfold doMemQuery
  dsimp only
  rw [h, if_pos (by simp)]
  rfl

theorem endRefused_owned {x : StageEnd} {e : Nat} (h : findEnd s e = some x) (ho : ownsCtx s ch x.ctx = true) :
    endRefused s ch e = none := by
  unfold endRefused
  simp [h, ho]

theorem endRefused_foreign {x : StageEnd} {e : Nat} (h : findEnd s e = some x) (ho : ownsCtx s ch x.ctx = false) :
    endRefused s ch e = some 0x0050 := by
  unfold endRefused
  simp [h, ho, stNotPermitted]

theorem endRefused_missing {e : Nat} (h : findEnd s e = none) : endRefused s ch e = some 0x0052 := by
  unfold endRefused
  simp [h, stBadArgument]

/-- What STAGEQ_QUERY reports of an end (R178). -/
def endBody (x : StageEnd) : Bytes := leBytes 1 (b2n x.lost) ++ leBytes 7 0 ++ leBytes 8 x.waitPh.toNat

theorem doStageqQuery_owned {x : StageEnd} (tag : Nat) (h : findEnd s (field bd 0 2) = some x) (ho : ownsCtx s ch x.ctx = true)
    (h1 : field bd 2 1 ≤ 1) : doStageqQuery ch tag bd s = .now 0 (endBody x)
      (if field bd 2 1 = 1 then { s with ends := Tbl.ins s.ends (field bd 0 2) { x with waitPh := 0 } } else s) := by
  unfold doStageqQuery modEnd
  simp only [endRefused_owned h ho, h]
  rw [if_neg (by omega)]
  rfl

theorem doStageqQuery_refused {st : Nat} (tag : Nat) (h : endRefused s ch (field bd 0 2) = some st) :
    doStageqQuery ch tag bd s = .now st [] s := by
  unfold doStageqQuery
  simp only [h]
  rfl

/-- What GROUP_QUERY reports of a group (R250). -/
def groupBody (g : Group) : Bytes :=
  leBytes 4 g.epoch.toNat ++ leBytes 4 g.r ++ leBytes 4 g.late.toNat ++ leBytes 4 g.stale.toNat
    ++ leBytes 4 g.hdrErr.toNat ++ leBytes 4 g.missing.toNat

theorem doGroupQuery_owned {g : Group} (tag : Nat) (h : findGroup s (field bd 0 2) = some g) (ho : ownsCtx s ch g.ctx = true)
    (h1 : field bd 2 1 ≤ 1) : doGroupQuery ch tag bd s = .now 0 (groupBody g)
      (if field bd 2 1 = 1 then modGroup (field bd 0 2) (fun g => { g with late := 0, stale := 0, hdrErr := 0, missing := 0 }) s
        else s) := by
  unfold doGroupQuery
  simp only [h, ho]
  rw [if_neg (by simp), if_neg (by omega)]
  rfl

theorem doGroupQuery_foreign {g : Group} (tag : Nat) (h : findGroup s (field bd 0 2) = some g) (ho : ownsCtx s ch g.ctx = false) :
    doGroupQuery ch tag bd s = .now 0x0050 [] s := by
  unfold doGroupQuery
  simp only [h, ho]
  rfl

theorem doGroupQuery_missing (tag : Nat) (h : findGroup s (field bd 0 2) = none) : doGroupQuery ch tag bd s = .now 0x0052 [] s := by
  unfold doGroupQuery
  simp only [h]
  rfl

/-- What FW_QUERY reports of the firmware slots (R348). -/
def slotsBody (s : State) : Bytes :=
  leBytes 4 s.id.slotA.version.toNat ++ leBytes 4 (slotCode s false) ++ leBytes 4 s.id.slotB.version.toNat
    ++ leBytes 4 (slotCode s true)

/-! ### The rows -/

theorem exec_telemetryRead (h : s.serves ch 0x0003 req bd) :
    (field bd 0 1 ≤ 3 → exec (.telemetryRead ch req) s = .next ((s.given ch req).answered ch req 0 (telemSection (field bd 0 1) s))) ∧
    (3 < field bd 0 1 → exec (.telemetryRead ch req) s = .next ((s.given ch req).answered ch req 0x0052 [])) := by
  refine ⟨fun hn => ?_, fun hn => exec_of_now rfl rfl h (doTelemetryRead_beyond (ch := ch) (bd := bd) (field req 4 4) hn)⟩
  rw [← given_reads s ch req (f := telemSection (field bd 0 1)) fun _ _ => rfl]
  exact exec_of_now rfl rfl h (doTelemetryRead_section (ch := ch) (bd := bd) (field req 4 4) hn)

theorem exec_logRead (h : s.serves ch 0x0004 req bd) :
    (1 ≤ field bd 4 2 → field bd 4 2 ≤ 47 → exec (.logRead ch req) s = .next ((s.given ch req).answered ch req 0
      (leBytes 4 s.log.next ++ leBytes 2 (logUnits (field bd 0 4) (field bd 4 2) s).length ++ leBytes 2 0
        ++ (logUnits (field bd 0 4) (field bd 4 2) s).flatten))) ∧
    (field bd 4 2 = 0 ∨ 47 < field bd 4 2 → exec (.logRead ch req) s = .next ((s.given ch req).answered ch req 0x0052 [])) := by
  refine ⟨fun h0 h1 => ?_, fun hn => exec_of_now rfl rfl h (doLogRead_refused (ch := ch) (bd := bd) (field req 4 4) hn)⟩
  rw [← given_logUnits s ch req,
    ← given_reads s ch req (f := fun s => s.log.next) fun _ _ => rfl]
  exact exec_of_now rfl rfl h (doLogRead_units (ch := ch) (bd := bd) (field req 4 4) h0 h1)

theorem exec_ctxQuery (h : s.serves ch 0x0102 req bd) :
    (ownsCtx s ch (field bd 0 1) = true → field bd 1 1 ≤ 1 → exec (.ctxQuery ch req) s = .next
      ((if field bd 1 1 = 1 then modCtx (field bd 0 1) (fun x => { x with sticky := 0 }) (s.given ch req) else s.given ch req).answered
        ch req 0 (ctxBody (field bd 0 1) s))) ∧
    (ownsCtx s ch (field bd 0 1) = false → exec (.ctxQuery ch req) s = .next ((s.given ch req).answered ch req 0x0050 [])) := by
  rw [← given_reads s ch req (f := ctxBody (field bd 0 1)) fun _ _ => rfl, ← given_ownsCtx s ch req]
  exact ⟨fun ho h1 => exec_of_now rfl rfl h (doCtxQuery_owned (ch := ch) (bd := bd) (field req 4 4) ho h1), fun ho => exec_of_now rfl rfl h (doCtxQuery_foreign (ch := ch) (bd := bd) (field req 4 4) ho)⟩

theorem exec_memQuery (h : s.serves ch 0x0202 req bd) :
    (ownsCtx s ch (field bd 0 1) = true → exec (.memQuery ch req) s =
      .next ((s.given ch req).answered ch req 0 (shrinkBody (field bd 0 1) (field bd 4 4) s))) ∧
    (ownsCtx s ch (field bd 0 1) = false → exec (.memQuery ch req) s = .next ((s.given ch req).answered ch req 0x0050 [])) := by
  rw [← given_reads s ch req (f := shrinkBody (field bd 0 1) (field bd 4 4)) fun _ _ => rfl, ← given_ownsCtx s ch req]
  exact ⟨fun ho => exec_of_now rfl rfl h (doMemQuery_owned (ch := ch) (bd := bd) (field req 4 4) ho), fun ho => exec_of_now rfl rfl h (doMemQuery_foreign (ch := ch) (bd := bd) (field req 4 4) ho)⟩

theorem exec_stageqQuery (h : s.serves ch 0x0301 req bd) :
    (∀ x, findEnd s (field bd 0 2) = some x → ownsCtx s ch x.ctx = true → field bd 2 1 ≤ 1 → exec (.stageqQuery ch req) s = .next
      ((if field bd 2 1 = 1 then { s.given ch req with ends := Tbl.ins s.ends (field bd 0 2) { x with waitPh := 0 } }
        else s.given ch req).answered ch req 0 (endBody x))) ∧
    (∀ x, findEnd s (field bd 0 2) = some x → ownsCtx s ch x.ctx = false →
      exec (.stageqQuery ch req) s = .next ((s.given ch req).answered ch req 0x0050 [])) ∧
    (findEnd s (field bd 0 2) = none → exec (.stageqQuery ch req) s = .next ((s.given ch req).answered ch req 0x0052 [])) := by
  rw [← given_findEnd s ch req, ← given_reads s ch req (f := fun s => s.ends) fun _ _ => rfl]
  refine ⟨fun x he ho h1 => ?_, fun x he ho => ?_, fun he => ?_⟩
  · exact exec_of_now rfl rfl h (doStageqQuery_owned (ch := ch) (bd := bd) (field req 4 4) he (by rwa [given_ownsCtx]) h1)
  · exact exec_of_now rfl rfl h (doStageqQuery_refused (ch := ch) (bd := bd) (field req 4 4) (endRefused_foreign he (by rwa [given_ownsCtx])))
  · exact exec_of_now rfl rfl h (doStageqQuery_refused (ch := ch) (bd := bd) (field req 4 4) (endRefused_missing he))

theorem exec_groupQuery (h : s.serves ch 0x0311 req bd) :
    (∀ g, findGroup s (field bd 0 2) = some g → ownsCtx s ch g.ctx = true → field bd 2 1 ≤ 1 → exec (.groupQuery ch req) s = .next
      ((if field bd 2 1 = 1 then
          modGroup (field bd 0 2) (fun g => { g with late := 0, stale := 0, hdrErr := 0, missing := 0 }) (s.given ch req)
        else s.given ch req).answered ch req 0 (groupBody g))) ∧
    (∀ g, findGroup s (field bd 0 2) = some g → ownsCtx s ch g.ctx = false →
      exec (.groupQuery ch req) s = .next ((s.given ch req).answered ch req 0x0050 [])) ∧
    (findGroup s (field bd 0 2) = none → exec (.groupQuery ch req) s = .next ((s.given ch req).answered ch req 0x0052 [])) := by
  rw [← given_findGroup s ch req]
  refine ⟨fun g hg ho h1 => ?_, fun g hg ho => ?_, fun hg => ?_⟩
  · exact exec_of_now rfl rfl h (doGroupQuery_owned (ch := ch) (bd := bd) (field req 4 4) hg (by rwa [given_ownsCtx]) h1)
  · exact exec_of_now rfl rfl h (doGroupQuery_foreign (ch := ch) (bd := bd) (field req 4 4) hg (by rwa [given_ownsCtx]))
  · exact exec_of_now rfl rfl h (doGroupQuery_missing (ch := ch) (bd := bd) (field req 4 4) hg)

theorem exec_fwQuery (h : s.serves ch 0x0500 req bd) :
    exec (.fwQuery ch req) s = .next ((s.given ch req).answered ch req 0 (slotsBody s)) := by
  rw [← given_reads s ch req (f := slotsBody) fun _ _ => rfl]
  exact exec_of_now rfl rfl h rfl

end Answers

/-- Settles O48: row by row, the handler's answer on the state with the request in its buffer is read from fields that the request
left as they were. -/
theorem queriesReportAndChangeNothingElse : Obligations.QueriesReportAndChangeNothingElse := by
  unfold Obligations.QueriesReportAndChangeNothingElse
  rintro s _ ch req bd rfl
  refine ⟨fun h => exec_of_now rfl rfl h (doIdentify_given (bd := bd) (field req 4 4)), fun h => ?_, exec_telemetryRead, ?_, ?_, ?_, ?_, ?_, exec_fwQuery⟩
  · obtain ⟨-, -, -, hin, -⟩ := id h
    exact exec_of_now rfl rfl h (doStatusQuery_given (ch := ch) (bd := bd) (field req 4 4) hin)
  · rintro h _ _ rfl rfl
    obtain ⟨hu, hr⟩ := exec_logRead h
    refine ⟨?_, hr⟩
    rintro _ h0 h1 rfl
    exact hu h0 h1
  · rintro h _ rfl
    exact exec_ctxQuery h
  · rintro h _ rfl
    exact exec_memQuery h
  · rintro h _ rfl
    exact exec_stageqQuery h
  · rintro h _ rfl
    exact exec_groupQuery h

end Sys2Proof.Machine
end

section
/-!
O51. The life of a context: its making, the grant of counter blocks, the beginning and the end of its drain, and the release of its
number.
-/
namespace Sys2Proof.Machine

/-! ### Counter blocks (R59) -/

/-- A filter on keys leaves the entries of its keys and no others. -/
theorem Tbl.find_filter_key {α : Type} (p : Nat → Bool) (t : Tbl α) (k : Nat) :
    Tbl.find? (List.filter (fun e => p e.1) t) k = if p k then Tbl.find? t k else none := by
  induction t with
  | nil => exact (ite_self _).symm
  | cons e t ih =>
    obtain ⟨j, a⟩ := e
    rw [List.filter_cons]
    by_cases hj : j = k
    · subst hj
      cases hp : p j
      · simpa [hp] using ih
      · simp [Tbl.find?]
    · cases hp : p j
      · simpa [Tbl.find?, hj] using ih
      · simpa [Tbl.find?, hj] using ih

section Grant
variable (c b n : Nat) (s : State)

/-- One block's grant. -/
theorem grantBlocks_succ : grantBlocks c b (n + 1) s =
    { grantBlocks c b n s with
      ctrOwner := Tbl.put 0 (grantBlocks c b n s).ctrOwner (b + n) (c + 1)
      counters := (grantBlocks c b n s).counters.filter fun e => decide (e.1 / 64 ≠ b + n) } := by
  unfold grantBlocks
  rw [List.range_succ, List.foldl_append]
  rfl

theorem grantBlocks_frame : grantBlocks c b n s =
    { s with ctrOwner := (grantBlocks c b n s).ctrOwner, counters := (grantBlocks c b n s).counters } := by
  induction n with
  | zero => rfl
  | succ n ih =>
    rw [grantBlocks_succ, ih]

theorem grantBlocks_ctxs : (grantBlocks c b n s).ctxs = s.ctxs := by rw [grantBlocks_frame]

/-- The blocks granted are the context's, and no others are. -/
theorem grantBlocks_ctrOwner (j : Nat) : Tbl.get 0 (grantBlocks c b n s).ctrOwner j =
    if b ≤ j ∧ j < b + n then c + 1 else Tbl.get 0 s.ctrOwner j := by
  induction n with
  | zero => rw [if_neg (by omega)]; rfl
  | succ n ih =>
    rw [grantBlocks_succ]
    by_cases hj : j = b + n
    · subst hj
      rw [Tbl.get_put_self, if_pos (by omega)]
    · rw [Tbl.get_put_ne hj, ih]
      exact if_congr (by omega) rfl rfl

/-- The counters of the blocks granted are zero, and the others are as they were. -/
theorem grantBlocks_ctrGet (k : Nat) : ctrGet (grantBlocks c b n s) k =
    if b ≤ k / 64 ∧ k / 64 < b + n then 0 else ctrGet s k := by
  induction n with
  | zero => rw [if_neg (by omega)]; rfl
  | succ n ih =>
    rw [grantBlocks_succ]
    unfold ctrGet Tbl.get at ih ⊢
    dsimp only
    rw [Tbl.find_filter_key (fun j => decide (j / 64 ≠ b + n))]
    by_cases hk : k / 64 = b + n
    · rw [if_neg (by simp [hk]), if_pos (by omega)]
      rfl
    · rw [if_pos (by simp [hk]), ih]
      exact if_congr (by omega) rfl rfl

theorem grantBlocks_granted {k : Nat} (h0 : b * 64 ≤ k) (h1 : k < (b + n) * 64) :
    ctrOwned (grantBlocks c b n s) c k = true ∧ ctrGet (grantBlocks c b n s) k = 0 := by
  unfold ctrOwned
  rw [grantBlocks_ctrOwner, grantBlocks_ctrGet, if_pos (by omega), if_pos (by omega)]
  exact ⟨beq_self_eq_true _, rfl⟩

theorem grantBlocks_others {k : Nat} (h : k < b * 64 ∨ (b + n) * 64 ≤ k) :
    ctrGet (grantBlocks c b n s) k = ctrGet s k ∧ ∀ x, ctrOwned (grantBlocks c b n s) x k = ctrOwned s x k := by
  unfold ctrOwned
  rw [grantBlocks_ctrOwner, grantBlocks_ctrGet, if_neg (by omega), if_neg (by omega)]
  exact ⟨rfl, fun _ => rfl⟩

end Grant

/-- A free choice of a list that is not empty is one of it. -/
theorem pick_mem (s : State) (n d : Nat) {l : List Nat} (h : l ≠ []) : pick s n d l ∈ l := by
  have hl : 0 < l.length := List.length_pos_of_ne_nil h
  have hi : Config.freeNat s.free n % max 1 l.length < l.length := by
    rw [Nat.max_eq_right hl]
    exact Nat.mod_lt _ hl
  unfold pick
  rw [List.getD_eq_getElem?_getD, List.getElem?_eq_getElem hi]
  exact List.getElem_mem hi

/-! ### CTX_CREATE and COUNTER_GRANT -/

/-- A context as it is made (R87, R348). -/
def Ctx.made (owner mode w : Nat) : Ctx :=
  { st := .active, owner := owner, arithMode := BitVec.ofNat 32 mode, wdogPh := if w = 0 then 0x20000 else w }

/-- The state with a context made and its blocks granted. -/
def withNewCtx (c b n : Nat) (x : Ctx) (s : State) : State := grantBlocks c b n (modCtx c (fun _ => x) { s with free := s.free + 1 })

section Handlers
variable {s : State} {ch : Nat} {req bd : Bytes}

theorem doCtxCreate_made (tag : Nat) (h1 : bits (field bd 4 4) 31 8 = 0) (h2 : bits (field bd 4 4) 5 3 = 0) (hc : freeCtxs s ≠ [])
    (hw : field bd 0 1 ≠ 0 → field bd 0 1 ∈ freeCtxs s) (hn : field bd 2 2 ≠ 0 → freeRuns s (field bd 2 2) ≠ []) :
    ∃ c b, c ∈ freeCtxs s ∧ (field bd 0 1 ≠ 0 → c = field bd 0 1) ∧ (field bd 2 2 ≠ 0 → b ∈ freeRuns s (field bd 2 2)) ∧
      doCtxCreate ch tag bd s = .now 0 (leBytes 1 c ++ [0] ++ leBytes 2 (b * 64) ++ leBytes 2 (field bd 2 2))
        (withNewCtx c b (field bd 2 2) (Ctx.made ch (field bd 4 4) (field bd 8 4)) s) := by
  refine ⟨if field bd 0 1 = 0 then pick s 0 0 (freeCtxs s) else field bd 0 1,
    if field bd 2 2 = 0 then 0 else pick s 1 0 (freeRuns s (field bd 2 2)), ?_, fun h => if_neg h, fun h => ?_, ?_⟩
  · split
    · exact pick_mem s 0 0 hc
    · rename_i h
      exact hw h
  · rw [if_neg h]
    exact pick_mem s 1 0 (hn h)
  · have none_lacks : ¬ ((freeCtxs s).isEmpty = true ∨ (field bd 0 1 ≠ 0 ∧ (freeCtxs s).contains (field bd 0 1) = false) ∨
        (field bd 2 2 ≠ 0 ∧ (freeRuns s (field bd 2 2)).isEmpty = true)) := by
      simp only [List.isEmpty_iff, List.contains_eq_mem, decide_eq_false_iff_not]
      rintro (h | ⟨h, hm⟩ | ⟨h, hr⟩)
      · exact hc h
      · exact hm (hw h)
      · exact hn h hr
    unfold doCtxCreate
    dsimp only
    rw [if_neg (by simp [h1, h2]), if_neg none_lacks]
    rfl

theorem doCtxCreate_refused (tag : Nat) (h1 : bits (field bd 4 4) 31 8 = 0) (h2 : bits (field bd 4 4) 5 3 = 0)
    (h : freeCtxs s = [] ∨ (field bd 0 1 ≠ 0 ∧ field bd 0 1 ∉ freeCtxs s) ∨ (field bd 2 2 ≠ 0 ∧ freeRuns s (field bd 2 2) = [])) :
    doCtxCreate ch tag bd s = .now 0x0051 [] s := by
  unfold doCtxCreate
  dsimp only
  rw [if_neg (by simp [h1, h2]), if_pos]
  · rfl
  · simpa only [List.isEmpty_iff, List.contains_eq_mem, decide_eq_false_iff_not] using h

theorem needActive_none {c : Nat} (ho : ownsCtx s ch c = true) (ha : (getCtx s c).st = .active) : needActive s ch c = none := by
  unfold needActive
  rw [if_neg (by simp [ha]), if_neg (by simp [ho])]

theorem doCounterGrant_granted (tag : Nat) (ho : ownsCtx s ch (field bd 0 1) = true) (ha : (getCtx s (field bd 0 1)).st = .active)
    (hr : freeRuns s (field bd 2 2) ≠ []) : ∃ b, b ∈ freeRuns s (field bd 2 2) ∧ doCounterGrant ch tag bd s =
      .now 0 (leBytes 2 (b * 64)) (grantBlocks (field bd 0 1) b (field bd 2 2) { s with free := s.free + 1 }) := by
  refine ⟨_, pick_mem s 0 0 hr, ?_⟩
  unfold doCounterGrant
  dsimp only
  rw [needActive_none ho ha]
  dsimp only
  rw [if_neg (by simpa using hr)]
  rfl

theorem doCounterGrant_refused (tag : Nat) (ho : ownsCtx s ch (field bd 0 1) = true) (ha : (getCtx s (field bd 0 1)).st = .active)
    (hr : freeRuns s (field bd 2 2) = []) : doCounterGrant ch tag bd s = .now 0x0051 [] s := by
  unfold doCounterGrant
  dsimp only
  rw [needActive_none ho ha]
  dsimp only
  rw [if_pos (by simpa using hr)]
  rfl

variable (s ch req) in
theorem given_freeCtxs : freeCtxs (s.given ch req) = freeCtxs s := given_reads s ch req (f := freeCtxs) fun _ _ => rfl

variable (s ch req) in
theorem given_freeRuns (n : Nat) : freeRuns (s.given ch req) n = freeRuns s n :=
  given_reads s ch req (f := (freeRuns · n)) fun _ _ => rfl

variable (s ch req) in
theorem given_ctrGet (k : Nat) : ctrGet (s.given ch req) k = ctrGet s k := given_reads s ch req (f := (ctrGet · k)) fun _ _ => rfl

variable (s ch req) in
theorem given_ctrOwned (x k : Nat) : ctrOwned (s.given ch req) x k = ctrOwned s x k :=
  given_reads s ch req (f := (ctrOwned · x k)) fun _ _ => rfl

theorem withNewCtx_frame (c b n : Nat) (x : Ctx) (s : State) : withNewCtx c b n x s =
    { s with ctxs := (withNewCtx c b n x s).ctxs, ctrOwner := (withNewCtx c b n x s).ctrOwner,
             counters := (withNewCtx c b n x s).counters, free := (withNewCtx c b n x s).free } := by
  unfold withNewCtx
  rw [grantBlocks_frame]
  rfl

theorem getCtx_withNewCtx (c b n : Nat) (x : Ctx) (s : State) (d : Nat) :
    getCtx (withNewCtx c b n x s) d = if d = c then x else getCtx s d := by
  unfold withNewCtx
  rw [getCtx_congr (grantBlocks_ctxs c b n _)]
  split
  · rename_i h
    subst h
    exact getCtx_modCtx_self
  · rename_i h
    exact getCtx_modCtx_ne h

/-- R87, R348: CTX_CREATE makes a free context with free blocks, or answers NO_RESOURCE. -/
theorem exec_ctxCreate (h : s.serves ch 0x0100 req bd) (h1 : bits (field bd 4 4) 31 8 = 0) (h2 : bits (field bd 4 4) 5 3 = 0) :
    (freeCtxs s ≠ [] → (field bd 0 1 ≠ 0 → field bd 0 1 ∈ freeCtxs s) → (field bd 2 2 ≠ 0 → freeRuns s (field bd 2 2) ≠ []) →
      ∃ c b, c ∈ freeCtxs s ∧ (field bd 0 1 ≠ 0 → c = field bd 0 1) ∧ (field bd 2 2 ≠ 0 → b ∈ freeRuns s (field bd 2 2)) ∧
        exec (.ctxCreate ch req) s =
          .next ((withNewCtx c b (field bd 2 2) (Ctx.made ch (field bd 4 4) (field bd 8 4)) (s.given ch req)).answered ch req 0
            (leBytes 1 c ++ [0] ++ leBytes 2 (b * 64) ++ leBytes 2 (field bd 2 2)))) ∧
    (freeCtxs s = [] ∨ (field bd 0 1 ≠ 0 ∧ field bd 0 1 ∉ freeCtxs s) ∨ (field bd 2 2 ≠ 0 ∧ freeRuns s (field bd 2 2) = []) →
      exec (.ctxCreate ch req) s = .next ((s.given ch req).answered ch req 0x0051 [])) := by
  rw [← given_freeCtxs s ch req, ← given_freeRuns s ch req]
  refine ⟨fun hc hw hn => ?_, fun hr => exec_of_now rfl rfl h (doCtxCreate_refused (field req 4 4) h1 h2 hr)⟩
  obtain ⟨c, b, hmem, hwant, hrun, he⟩ := doCtxCreate_made (ch := ch) (field req 4 4) h1 h2 hc hw hn
  exact ⟨c, b, hmem, hwant, hrun, exec_of_now rfl rfl h he⟩

/-- R59: COUNTER_GRANT grants a run of free blocks, or answers NO_RESOURCE. -/
theorem exec_counterGrant (h : s.serves ch 0x0103 req bd) (ho : ownsCtx s ch (field bd 0 1) = true)
    (ha : (getCtx s (field bd 0 1)).st = .active) :
    (freeRuns s (field bd 2 2) ≠ [] → ∃ b, b ∈ freeRuns s (field bd 2 2) ∧ exec (.counterGrant ch req) s =
      .next ((grantBlocks (field bd 0 1) b (field bd 2 2) { s.given ch req with free := (s.given ch req).free + 1 }).answered ch req 0
        (leBytes 2 (b * 64)))) ∧
    (freeRuns s (field bd 2 2) = [] → exec (.counterGrant ch req) s = .next ((s.given ch req).answered ch req 0x0051 [])) := by
  rw [← given_freeRuns s ch req]
  rw [← given_ownsCtx s ch req] at ho
  rw [← given_getCtx s ch req] at ha
  refine ⟨fun hr => ?_, fun hr => exec_of_now rfl rfl h (doCounterGrant_refused (field req 4 4) ho ha hr)⟩
  obtain ⟨b, hb, he⟩ := doCounterGrant_granted (field req 4 4) ho ha hr
  exact ⟨b, hb, exec_of_now rfl rfl h he⟩

/-! ### CTX_DESTROY (R402) -/

theorem doCtxDestroy_begun (tag : Nat) (ho : ownsCtx s ch (field bd 0 1) = true) (hd : (getCtx s (field bd 0 1)).st ≠ .draining) :
    doCtxDestroy ch tag bd s = .later [] 0 (beginDrain (field bd 0 1) (BitVec.ofNat 32 tag) false s) := by
  unfold doCtxDestroy
  dsimp only
  rw [if_neg (by simp [ho]), if_neg hd]

theorem doCtxDestroy_foreign (tag : Nat) (ho : ownsCtx s ch (field bd 0 1) = false) : doCtxDestroy ch tag bd s = .now 0x0050 [] s := by
  unfold doCtxDestroy
  dsimp only
  rw [if_pos (by simp [ho])]
  rfl

end Handlers

/-- R67: a command ended from outside has ended with the status given. -/
theorem abortCmd_ended {s : State} {k : Nat} {d : Cmd} (h : findCmd s k = some d) (status : Nat) :
    (abortCmd k status s).ended k status := by
  have found : findCmd (dropReqs k { s with free := s.free + 1 }) k = some d  := by
    rw [(dropReqs_fab k _).find]
    exact h
  refine ⟨_, (findCmd_modCmd_self (by intro c; rfl)).trans (congrArg _ found), rfl, rfl⟩

theorem stopDraining_ended {s : State} {j k : Nat} (h : s.ended k 0x0010) : (stopDraining j s).ended k 0x0010 := by
  obtain ⟨d, hd, hst⟩ := h
  by_cases hj : k = j
  · subst hj
    exact abortCmd_ended (s := freeCores k s) hd _
  · exact ⟨d, (abortCmd_othersSame (freeCores j s) j _ k hj).trans hd, hst⟩

/-- R402: of commands stopped in turn, each one that the list holds has ended. -/
theorem foldl_stopDraining_ended {l : List Nat} {s : State} {k : Nat} {d : Cmd} (hk : k ∈ l) (h : findCmd s k = some d) :
    (l.foldl (fun s j => stopDraining j s) s).ended k 0x0010 := by
  induction l generalizing s d with
  | nil => exact absurd hk List.not_mem_nil
  | cons j l ih =>
    by_cases hj : k = j
    · subst hj
      exact foldl_of (P := fun t : State => t.ended k 0x0010) (b := stopDraining k s) (fun _ _ ht => stopDraining_ended ht)
        (abortCmd_ended (s := freeCores k s) h _)
    · exact ih ((List.mem_cons.mp hk).resolve_left hj) ((abortCmd_othersSame (freeCores j s) j _ k hj).trans h)

/-- Only commands, their cores and requests, and the count of free values have changed. -/
def StopOnly (s t : State) : Prop :=
  t = { s with cmds := t.cmds, cores := t.cores, saved := t.saved, fab := t.fab, free := t.free }

theorem StopOnly.refl (s : State) : StopOnly s s := rfl

theorem StopOnly.trans {a b c : State} (h : StopOnly a b) (k : StopOnly b c) : StopOnly a c := by
  unfold StopOnly at *
  rw [k, h]

theorem stopDraining_only (k : Nat) (s : State) : StopOnly s (stopDraining k s) := by
  unfold StopOnly stopDraining
  rw [abortCmd_frame]
  rfl

/-- R402 step 1: a context that drains: its state, and the end of its started commands. -/
theorem beginDrain_spec (c : Nat) (tag : BitVec 32) (quiet : Bool) (s : State) :
    (getCtx (beginDrain c tag quiet s) c).st = .draining ∧ (∀ x, x ≠ c → getCtx (beginDrain c tag quiet s) x = getCtx s x) ∧
    (∀ k d, findCmd s k = some d → d.ctx = c → d.st = .started → (beginDrain c tag quiet s).ended k 0x0010) ∧
    (beginDrain c tag quiet s).mem = s.mem ∧ (beginDrain c tag quiet s).counters = s.counters ∧
    (beginDrain c tag quiet s).queues = s.queues := by
  unfold beginDrain
  extract_lets s1 ks
  have stops : StopOnly s1 (ks.foldl (fun s k => stopDraining k s) s1) :=
    foldl_rel StopOnly.refl (fun _ _ _ => StopOnly.trans) (fun s k => stopDraining_only k s) ks s1
  have ctxs : ∀ x, getCtx (ks.foldl (fun s k => stopDraining k s) s1) x = getCtx s1 x := getCtx_congr (by rw [stops])
  refine ⟨?_, fun x hx => (ctxs x).trans (getCtx_modCtx_ne hx), fun k d hd hc hst => ?_, ?_, ?_, ?_⟩
  · rw [ctxs c, getCtx_modCtx_self]
  · refine foldl_stopDraining_ended (List.mem_map.mpr ⟨d, List.mem_filter.mpr ⟨List.mem_of_find?_eq_some hd, ?_⟩, ?_⟩) (s := s1) hd
    · simp [hc, hst]
    · simpa using List.find?_some hd
  · rw [stops]; rfl
  · rw [stops]; rfl
  · rw [stops]; rfl

/-! ### CTX_DRAINED and CTX_NUMBER_RELEASE (R402, R403) -/

/-- A packet that is sent changes no outstanding request. -/
theorem sendOn_reqs (port : Nat) (p : Packet) (s : State) : (sendOn port p s).fab.reqs = s.fab.reqs := by
  unfold sendOn
  dsimp only
  split <;> rfl

theorem routeOut_reqs (p : Packet) (dl : Option Nat) (s : State) : (routeOut p dl s).fab.reqs = s.fab.reqs := by
  unfold routeOut
  extract_lets target
  split
  · rfl
  · split
    · split
      · rfl
      · exact sendOn_reqs _ _ _
      · exact sendOn_reqs _ _ _
      · rfl
    · exact sendOn_reqs _ _ _

theorem injectNow_reqs (p : Packet) (s : State) : (injectNow p s).fab.reqs = s.fab.reqs := by
  unfold injectNow
  dsimp only
  split
  · exact routeOut_reqs _ _ _
  · split <;> exact routeOut_reqs _ _ _

/-- R317: the release of held packets keeps the requests, but that they are not held any more. -/
theorem releaseHolds_reqs {s : State} {r : OutReq} (h : r ∈ (releaseHolds s).fab.reqs) : ∃ q ∈ s.fab.reqs, r.ctx = q.ctx := by
  unfold releaseHolds at h
  extract_lets free go s1 at h
  have kept : ∀ s : State, (go.foldl (fun s h => (h.2.filter fun p => !abandoned s p).foldl (fun s p => injectNow p s) s) s).fab.reqs =
      s.fab.reqs :=
    foldl_rel (R := fun s t : State => t.fab.reqs = s.fab.reqs) (fun _ => rfl) (fun _ _ _ h g => g.trans h)
      (fun s h => foldl_rel (R := fun s t : State => t.fab.reqs = s.fab.reqs) (fun _ => rfl) (fun _ _ _ h g => g.trans h)
        (fun s p => injectNow_reqs p s) _ s) go
  rw [kept] at h
  obtain ⟨q, hq, rfl⟩ := List.mem_map.mp h
  refine ⟨q, hq, ?_⟩
  split <;> rfl

/-- Dropping groups changes the groups, their nodes and their waits alone. -/
theorem dropGroups_frame (gs : List Nat) (s : State) : gs.foldl (fun s g => dropGroup g s) s =
    { s with groups := (gs.foldl (fun s g => dropGroup g s) s).groups, nodes := (gs.foldl (fun s g => dropGroup g s) s).nodes,
             insts := (gs.foldl (fun s g => dropGroup g s) s).insts } :=
  foldl_rel (R := fun s t : State => t = { s with groups := t.groups, nodes := t.nodes, insts := t.insts }) (fun _ => rfl)
    (fun a b c h g => by rw [g, h]) (fun _ _ => rfl) gs s

/-- Of a drained context nothing is left but the time at which its number became free; the other contexts, memory and counters are as
they were. -/
structure Cleared (c : Nat) (s t : State) : Prop where
  own : getCtx t c = { freedU := some s.tb.nowU }
  others : ∀ x, x ≠ c → getCtx t x = getCtx s x
  queues : ∀ q ∈ t.queues, q.2.ctx ≠ c
  cmds : ∀ d ∈ t.cmds, d.ctx ≠ c
  ends : ∀ e ∈ t.ends, e.2.ctx ≠ c
  reqs : ∀ r ∈ t.fab.reqs, r.ctx ≠ c
  mem : t.mem = s.mem
  counters : t.counters = s.counters

theorem Cleared.releaseHolds {c : Nat} {s t : State} (h : Cleared c s t) : Cleared c s (releaseHolds t) := by
  have reqs : ∀ r ∈ (Machine.releaseHolds t).fab.reqs, r.ctx ≠ c := by
    intro r hr
    obtain ⟨q, hq, he⟩ := releaseHolds_reqs hr
    exact he ▸ h.reqs q hq
  obtain ⟨f, hf⟩ := releaseHolds_fab t
  rw [hf] at reqs ⊢
  exact ⟨h.own, h.others, h.queues, h.cmds, h.ends, reqs, h.mem, h.counters⟩

theorem Cleared.host {c : Nat} {s t u : State} (h : Cleared c s t) (g : HostOnly t u) : Cleared c s u := by
  obtain ⟨fns, msix, rfl⟩ := g
  exact ⟨h.own, h.others, h.queues, h.cmds, h.ends, h.reqs, h.mem, h.counters⟩

theorem getCtx_of_put_self {s t : State} {c : Nat} {v : Ctx} (h : t.ctxs = Tbl.put {} s.ctxs c v) : getCtx t c = v := by
  unfold getCtx
  rw [h, Tbl.get_put_self]

theorem getCtx_of_put_ne {s t : State} {c x : Nat} {v : Ctx} (h : t.ctxs = Tbl.put {} s.ctxs c v) (hx : x ≠ c) :
    getCtx t x = getCtx s x := by
  unfold getCtx
  rw [h, Tbl.get_put_ne hx]

/-- R402 steps 4 to 6: everything that the context held goes. -/
theorem clearCtx_cleared (c : Nat) (s : State) : Cleared c s (clearCtx c s) := by
  unfold clearCtx
  extract_lets gs s1
  have before : s1 = { s with groups := s1.groups, nodes := s1.nodes, insts := s1.insts, banks := s1.banks, held := s1.held } := by
    unfold s1 releaseMem freeBanks
    rw [dropGroups_frame]
  have ctxs : s1.ctxs = s.ctxs := by rw [before]
  have now : s1.tb = s.tb := by rw [before]
  refine Cleared.releaseHolds ⟨?_, fun x hx => ?_, ?_, ?_, ?_, ?_, ?_, ?_⟩
  · rw [← now]
    exact getCtx_of_put_self (s := s1) rfl
  · rw [← getCtx_congr ctxs x]
    exact getCtx_of_put_ne (s := s1) (v := { freedU := some s1.tb.nowU }) rfl hx
  · intro q hq
    simpa using (List.mem_filter.mp hq).2
  · intro d hd
    simpa using (List.mem_filter.mp hd).2
  · intro e he
    simpa using (List.mem_filter.mp he).2
  · intro r hr
    simpa using (List.mem_filter.mp hr).2
  · show s1.mem = s.mem
    rw [before]
  · show s1.counters = s.counters
    rw [before]

theorem postMsgDone_host (d : Deferred) (status : Nat) (result : Bytes) (s : State) : HostOnly s (postMsgDone d status result s) := by
  unfold postMsgDone
  split
  · exact HostOnly.refl s
  · exact postEventF_host _ _ _ _ _ _ _

/-- R402: CTX_DRAINED clears the context and posts its events. -/
theorem execCtxDrained_ready {s : State} {c : Nat} (h : drainReady s c = true) : ∃ t, execCtxDrained c s = .next t ∧ Cleared c s t := by
  refine ⟨_, rfl, ?_⟩
  rw [if_pos h]
  extract_lets x s1 mine ds s2
  obtain ⟨own, others, queues, cmds, ends, reqs, mem, counters⟩ := clearCtx_cleared c s
  have cleared : Cleared c s s2 := ⟨own, others, queues, cmds, ends, reqs, mem, counters⟩
  split
  · exact cleared
  · exact cleared.host ((postEvent_host _ _ _ _ _).trans
      (foldl_rel HostOnly.refl (fun _ _ _ => HostOnly.trans) (fun s d => postMsgDone_host d _ _ s) ds _))

theorem execCtxDrained_early {s : State} {c : Nat} (h : drainReady s c = false) : execCtxDrained c s = .next s := by
  unfold execCtxDrained
  rw [if_neg (by simp [h])]

/-- R403: the number of a drained context is free for CTX_CREATE 100 ms after. -/
theorem execCtxNumberRelease_of {s : State} {c t0 : Nat} (h : (getCtx s c).freedU = some t0) : execCtxNumberRelease c s =
    .next (if s.since t0 (100 * msU) then modCtx c (fun x => { x with freedU := none }) s else s) := by
  unfold execCtxNumberRelease
  rw [h]

/-- Settles O51: CTX_CREATE and COUNTER_GRANT through what a grant of blocks gives and leaves; CTX_DESTROY through the stops of its
started commands; CTX_DRAINED through what the clearing leaves of a context. -/
theorem contextsAreMadeAndDestroyed : Obligations.ContextsAreMadeAndDestroyed := by
  unfold Obligations.ContextsAreMadeAndDestroyed
  refine ⟨?_, fun s c => ⟨fun h => ?_, execCtxDrained_early, fun t0 h0 => ?_⟩⟩
  · rintro s _ ch req bd rfl
    refine ⟨?_, ?_, ?_⟩
    · rintro h _ _ _ _ rfl rfl rfl rfl h1 h2
      obtain ⟨make, refuse⟩ := exec_ctxCreate h h1 h2
      refine ⟨fun hc hw hn => ?_, refuse⟩
      obtain ⟨c, b, hmem, hwant, hrun, he⟩ := make hc hw hn
      refine ⟨_, c, b, he, hmem, hwant, hrun, ?_, fun x hx => ?_, fun k => grantBlocks_granted _ _ _ _, fun k hk => ?_,
        withNewCtx_frame _ _ _ _ _⟩
      · rw [getCtx_withNewCtx, if_pos rfl]
        rfl
      · rw [getCtx_withNewCtx, if_neg hx, given_getCtx]
      · rw [← given_ctrGet s ch req]
        simp only [← given_ctrOwned s ch req]
        exact grantBlocks_others _ _ _ _ hk
    · rintro h _ _ rfl rfl ho ha
      obtain ⟨grant, refuse⟩ := exec_counterGrant h ho ha
      refine ⟨fun hr => ?_, refuse⟩
      obtain ⟨b, hb, he⟩ := grant hr
      refine ⟨_, b, he, hb, fun k => grantBlocks_granted _ _ _ _, fun k hk => ?_, ?_⟩
      · rw [← given_ctrGet s ch req]
        simp only [← given_ctrOwned s ch req]
        exact grantBlocks_others _ _ _ _ hk
      · rw [grantBlocks_frame]
    · rintro h _ rfl
      refine ⟨fun ho hd => ?_, fun ho => ?_⟩
      · have he := doCtxDestroy_begun (s := s.given ch req) (field req 4 4) ((given_ownsCtx s ch req _ _).trans ho)
          (by rwa [given_getCtx])
        obtain ⟨drains, others, stopped, mem, counters, queues⟩ :=
          beginDrain_spec (field bd 0 1) (BitVec.ofNat 32 (field req 4 4)) false (s.given ch req)
        refine ⟨_, exec_of_later rfl rfl h he, drains, fun x hx => (others x hx).trans (given_getCtx s ch req x), ?_, ?_, ?_, ?_⟩
        · exact fun k d hd => stopped k d ((given_reads s ch req (f := (findCmd · k)) fun _ _ => rfl).trans hd)
        · exact mem.trans (given_reads s ch req (f := fun s => s.mem) fun _ _ => rfl)
        · exact counters.trans (given_reads s ch req (f := fun s => s.counters) fun _ _ => rfl)
        · exact queues.trans (given_reads s ch req (f := fun s => s.queues) fun _ _ => rfl)
      · exact exec_of_now rfl rfl h (doCtxDestroy_foreign (field req 4 4) ((given_ownsCtx s ch req _ _).trans ho))
  · obtain ⟨t, he, own, others, queues, cmds, ends, reqs, mem, counters⟩ := execCtxDrained_ready h
    exact ⟨t, he, own, others, queues, cmds, ends, reqs, mem, counters⟩
  · have he := execCtxNumberRelease_of h0
    refine ⟨fun h => ⟨_, he.trans (by rw [if_pos h]), ?_, fun x => getCtx_modCtx_ne, rfl⟩, fun h => ?_⟩
    · rw [getCtx_modCtx_self]
    · exact he.trans (by rw [if_neg (by simp [h])])

end Sys2Proof.Machine
end

section
/-!
O52. Queues, tile grants, mappings and stage-queue ends, made and taken away by messages.
-/
namespace Sys2Proof.Machine

section Handlers
variable {s : State} {ch : Nat} {req bd : Bytes}

/-! ### QUEUE_CREATE and QUEUE_DESTROY (R46, R348) -/

/-- A queue as QUEUE_CREATE makes it. -/
def Queue.made (bd : Bytes) : Queue :=
  { ctx := field bd 0 1, basalt := field bd 1 1, ringVa := field bd 8 8, ringN := field bd 2 1, cqVa := field bd 16 8,
    cqN := field bd 3 1, floor := field bd 4 1, vector := field bd 6 2 }

variable (s ch req) in
theorem given_queues : (s.given ch req).queues = s.queues := given_reads s ch req (f := fun s => s.queues) fun _ _ => rfl

variable (s ch req) in
theorem given_findQueue (q : Nat) : findQueue (s.given ch req) q = findQueue s q :=
  given_reads s ch req (f := (findQueue · q)) fun _ _ => rfl

theorem doQueueCreate_made (tag : Nat) (ho : ownsCtx s ch (field bd 0 1) = true) (ha : (getCtx s (field bd 0 1)).st = .active)
    (hq : queueOk bd = true) (hn : (s.queues.filter fun q => q.2.ctx == field bd 0 1).length < 16)
    (hf : ∃ q, q < 1024 ∧ findQueue s q = none) : ∃ q, q < 1024 ∧ findQueue s q = none ∧ doQueueCreate ch tag bd s =
      .now 0 (leBytes 2 q) { s with queues := Tbl.ins s.queues q (Queue.made bd), free := s.free + 1 } := by
  have free : ∀ q, q ∈ (List.range 1024).filter (fun q => (findQueue s q).isNone) ↔ q < 1024 ∧ findQueue s q = none := by
    simp
  obtain ⟨q0, hq0⟩ := hf
  have some_free : (List.range 1024).filter (fun q => (findQueue s q).isNone) ≠ [] := List.ne_nil_of_mem ((free q0).mpr hq0)
  obtain ⟨hlt, hnone⟩ := (free _).mp (pick_mem s 0 0 some_free)
  refine ⟨_, hlt, hnone, ?_⟩
  unfold doQueueCreate
  dsimp only
  rw [needActive_none ho ha]
  dsimp only
  rw [if_neg (by simp [hq]), if_neg (by simpa only [List.isEmpty_iff, some_free, false_or, Nat.not_le] using hn)]
  rfl

theorem doQueueCreate_full (tag : Nat) (ho : ownsCtx s ch (field bd 0 1) = true) (ha : (getCtx s (field bd 0 1)).st = .active)
    (hq : queueOk bd = true) (hn : 16 ≤ (s.queues.filter fun q => q.2.ctx == field bd 0 1).length) :
    doQueueCreate ch tag bd s = .now 0x0051 [] s := by
  unfold doQueueCreate
  dsimp only
  rw [needActive_none ho ha]
  dsimp only
  rw [if_neg (by simp [hq]), if_pos (.inr hn)]
  rfl

theorem doQueueDestroy_owned {x : Queue} (tag : Nat) (h : findQueue s (field bd 0 2) = some x) (ho : ownsCtx s ch x.ctx = true) :
    doQueueDestroy ch tag bd s =
      .later [] 0 (dropUnstarted (field bd 0 2) { s with queues := Tbl.ins s.queues (field bd 0 2) { x with closing := true } }) := by
  unfold doQueueDestroy modQueue
  simp only [h, ho]
  rfl

theorem doQueueDestroy_missing (tag : Nat) (h : findQueue s (field bd 0 2) = none) : doQueueDestroy ch tag bd s = .now 0x0052 [] s := by
  unfold doQueueDestroy
  simp only [h]
  rfl

/-- R348: of the commands, the ones of the queue that have not started are discarded. -/
theorem mem_dropUnstarted (q : Nat) (s : State) (d : Cmd) :
    d ∈ (dropUnstarted q s).cmds ↔ d ∈ s.cmds ∧ ¬(d.q = q ∧ d.st = .fetched) := by
  simp only [dropUnstarted, List.mem_filter, Bool.not_eq_true', Bool.and_eq_false_iff, beq_eq_false_iff_ne, decide_eq_false_iff_not,
    not_and_or]

theorem exec_queueCreate (h : s.serves ch 0x0104 req bd) (ho : ownsCtx s ch (field bd 0 1) = true)
    (ha : (getCtx s (field bd 0 1)).st = .active) (hq : queueOk bd = true) :
    ((s.queues.filter fun q => q.2.ctx == field bd 0 1).length < 16 → (∃ q, q < 1024 ∧ findQueue s q = none) →
      ∃ q, q < 1024 ∧ findQueue s q = none ∧ exec (.queueCreate ch req) s =
        .next (({ s.given ch req with queues := Tbl.ins s.queues q (Queue.made bd), free := (s.given ch req).free + 1 } : State).answered
          ch req 0 (leBytes 2 q))) ∧
    (16 ≤ (s.queues.filter fun q => q.2.ctx == field bd 0 1).length →
      exec (.queueCreate ch req) s = .next ((s.given ch req).answered ch req 0x0051 [])) := by
  rw [← given_ownsCtx s ch req] at ho
  rw [← given_getCtx s ch req] at ha
  simp only [← given_queues s ch req, ← given_findQueue s ch req]
  refine ⟨fun hn hf => ?_, fun hn => exec_of_now rfl rfl h (doQueueCreate_full (field req 4 4) ho ha hq hn)⟩
  obtain ⟨q, hlt, hnone, he⟩ := doQueueCreate_made (field req 4 4) ho ha hq hn hf
  exact ⟨q, hlt, hnone, exec_of_now rfl rfl h he⟩

theorem exec_queueDestroy (h : s.serves ch 0x0105 req bd) :
    (∀ x, findQueue s (field bd 0 2) = some x → ownsCtx s ch x.ctx = true → exec (.queueDestroy ch req) s =
      .next ((dropUnstarted (field bd 0 2)
        { s.given ch req with queues := Tbl.ins s.queues (field bd 0 2) { x with closing := true } }).deferredAs ch req [] 0)) ∧
    (findQueue s (field bd 0 2) = none → exec (.queueDestroy ch req) s = .next ((s.given ch req).answered ch req 0x0052 [])) := by
  simp only [← given_queues s ch req, ← given_findQueue s ch req, ← given_ownsCtx s ch req]
  exact ⟨fun x hx ho => exec_of_later rfl rfl h (doQueueDestroy_owned (field req 4 4) hx ho),
    fun hx => exec_of_now rfl rfl h (doQueueDestroy_missing (ch := ch) (field req 4 4) hx)⟩

/-! ### MAP and UNMAP (R71-R73, R350, R428) -/

/-- The context of a MAP with the mappings of the message. -/
def withMaps (bd : Bytes) (s : State) : State :=
  modCtx (field bd 0 1) (fun x => { x with maps := x.maps ++ (List.range (field bd 4 4)).map (mapOf bd) }) s

/-- The memory that the local mappings of a MAP name is held by the function. -/
def holdMaps (ch : Nat) (bd : Bytes) (s : State) : State :=
  if bitOf (field bd 1 1) 2 then s
  else (((List.range (field bd 4 4)).map (mapOf bd)).flatMap fun m => pagePieces s.id m.target (pageSize m)).foldl
    (fun s p => holdMem ch (field bd 0 1) (bits (field bd 2 1) 1 0) (bits (field bd 2 1) 7 4) p s) s

theorem holdMaps_frame (ch : Nat) (bd : Bytes) (s : State) : holdMaps ch bd s = { s with held := (holdMaps ch bd s).held } := by
  unfold holdMaps
  split
  · rfl
  · exact foldl_rel (R := fun s t : State => t = { s with held := t.held }) (fun _ => rfl) (fun a b c h g => by rw [g, h])
      (fun _ _ => rfl) _ s

theorem holdMaps_ctxs (ch : Nat) (bd : Bytes) (s : State) : (holdMaps ch bd s).ctxs = s.ctxs := by rw [holdMaps_frame]

theorem doMap_maps (tag : Nat) (ho : ownsCtx s ch (field bd 0 1) = true) (ha : (getCtx s (field bd 0 1)).st = .active)
    (hr : mapRefused s ch bd = none) : doMap ch tag bd s = .now 0 [] (clearSlabs (holdMaps ch bd (withMaps bd s))) := by
  unfold doMap
  dsimp only
  rw [needActive_none ho ha]
  dsimp only
  rw [hr]
  rfl

theorem doMap_refused {st : Nat} (tag : Nat) (ho : ownsCtx s ch (field bd 0 1) = true) (ha : (getCtx s (field bd 0 1)).st = .active)
    (hr : mapRefused s ch bd = some st) : doMap ch tag bd s = .now st [] s := by
  unfold doMap
  dsimp only
  rw [needActive_none ho ha]
  dsimp only
  rw [hr]
  rfl

theorem clearSlabs_idle (h : ∀ k, k < 8 → mapoutRuns s k = false) : clearSlabs s = s := by
  unfold clearSlabs
  rw [List.filter_eq_nil_iff.mpr fun k hk => by simp [h k (List.mem_range.mp hk)]]
  rfl

variable (s ch req) in
theorem given_pageRefused (fn a size : Nat) : pageRefused (s.given ch req) fn a size = pageRefused s fn a size := by
  unfold pageRefused
  rw [given_frame]

variable (s ch req) in
theorem given_mapRefused (bd : Bytes) : mapRefused (s.given ch req) ch bd = mapRefused s ch bd := by
  unfold mapRefused
  simp only [given_pageRefused, given_getCtx]

variable (s ch req) in
theorem given_mapoutRuns (k : Nat) : mapoutRuns (s.given ch req) k = mapoutRuns s k :=
  given_reads s ch req (f := (mapoutRuns · k)) fun _ _ => rfl

theorem exec_mapPages (h : s.serves ch 0x0200 req bd) (ho : ownsCtx s ch (field bd 0 1) = true)
    (ha : (getCtx s (field bd 0 1)).st = .active) :
    (mapRefused s ch bd = none → exec (.mapPages ch req) s =
      .next ((clearSlabs (holdMaps ch bd (withMaps bd (s.given ch req)))).answered ch req 0 [])) ∧
    (∀ st, mapRefused s ch bd = some st → exec (.mapPages ch req) s = .next ((s.given ch req).answered ch req st [])) := by
  rw [← given_ownsCtx s ch req] at ho
  rw [← given_getCtx s ch req] at ha
  simp only [← given_mapRefused s ch req]
  exact ⟨fun hr => exec_of_now rfl rfl h (doMap_maps (field req 4 4) ho ha hr),
    fun st hr => exec_of_now rfl rfl h (doMap_refused (field req 4 4) ho ha hr)⟩

theorem doUnmap_named (tag : Nat) (ho : ownsCtx s ch (field bd 0 1) = true) (hn : (unmapNamed s bd).isSome = true) :
    doUnmap ch tag bd s = .later [] 0 s := by
  obtain ⟨ms, hms⟩ := Option.isSome_iff_exists.mp hn
  unfold doUnmap
  simp [ho, hms]

theorem doUnmap_unnamed (tag : Nat) (ho : ownsCtx s ch (field bd 0 1) = true) (hn : unmapNamed s bd = none) :
    doUnmap ch tag bd s = .now 0x0052 [] s := by
  unfold doUnmap
  simp [ho, hn, refuseMsg, stBadArgument]

theorem exec_unmap (h : s.serves ch 0x0201 req bd) (ho : ownsCtx s ch (field bd 0 1) = true) :
    ((unmapNamed s bd).isSome = true → exec (.unmap ch req) s = .next ((s.given ch req).deferredAs ch req [] 0)) ∧
    (unmapNamed s bd = none → exec (.unmap ch req) s = .next ((s.given ch req).answered ch req 0x0052 [])) := by
  rw [← given_ownsCtx s ch req] at ho
  rw [← given_unmapNamed s ch req]
  exact ⟨fun hn => exec_of_later rfl rfl h (doUnmap_named (field req 4 4) ho hn),
    fun hn => exec_of_now rfl rfl h (doUnmap_unnamed (field req 4 4) ho hn)⟩

/-! ### STAGEQ_CREATE and STAGEQ_DESTROY (R175, R348) -/

/-- An end as STAGEQ_CREATE makes it. -/
def StageEnd.made (bd : Bytes) : StageEnd :=
  { consumer := field bd 0 1 == 1, ctx := field bd 1 1, ownCtr := field bd 4 2, sendCtr := field bd 6 2,
    peer := BitVec.ofNat 12 (field bd 8 2), peerEnd := field bd 10 2, slots := field bd 12 2, slotBytes := field bd 16 4,
    slotVa := field bd 24 8 }

/-- The state with an end made and its own counter at its first value (R175). -/
def withEnd (e : Nat) (x : StageEnd) (s : State) : State :=
  ctrPut x.ownCtr (if x.consumer then 0 else BitVec.ofNat 64 x.slots) { s with ends := Tbl.ins s.ends e x }

theorem doStageqCreate_made (tag : Nat) (ho : ownsCtx s ch (field bd 1 1) = true) (ha : (getCtx s (field bd 1 1)).st = .active)
    (hs : stageOk s bd = true) (he : findEnd s (field bd 2 2) = none) :
    doStageqCreate ch tag bd s = .now 0 [] (withEnd (field bd 2 2) (StageEnd.made bd) s) := by
  unfold doStageqCreate
  dsimp only
  rw [needActive_none ho ha]
  dsimp only
  rw [if_neg (by simp [hs]), if_neg (by simp [he])]
  rfl

theorem doStageqCreate_taken (tag : Nat) (ho : ownsCtx s ch (field bd 1 1) = true) (ha : (getCtx s (field bd 1 1)).st = .active)
    (hs : stageOk s bd = true) (he : (findEnd s (field bd 2 2)).isSome = true) :
    doStageqCreate ch tag bd s = .now 0x0051 [] s := by
  unfold doStageqCreate
  dsimp only
  rw [needActive_none ho ha]
  dsimp only
  rw [if_neg (by simp [hs]), if_pos he]
  rfl

theorem doStageqDestroy_owned {x : StageEnd} (tag : Nat) (h : findEnd s (field bd 0 2) = some x) (ho : ownsCtx s ch x.ctx = true) :
    doStageqDestroy ch tag bd s = .now 0 [] { s with ends := Tbl.del s.ends (field bd 0 2) } := by
  unfold doStageqDestroy
  dsimp only
  rw [endRefused_owned h ho]
  rfl

theorem doStageqDestroy_missing (tag : Nat) (h : findEnd s (field bd 0 2) = none) : doStageqDestroy ch tag bd s = .now 0x0052 [] s := by
  unfold doStageqDestroy
  dsimp only
  rw [endRefused_missing h]
  rfl

variable (s ch req) in
theorem given_stageOk (bd : Bytes) : stageOk (s.given ch req) bd = stageOk s bd := by
  unfold stageOk
  simp only [given_ctrOwned]

variable (s ch req) in
theorem given_ends : (s.given ch req).ends = s.ends := given_reads s ch req (f := fun s => s.ends) fun _ _ => rfl

theorem exec_stageqCreate (h : s.serves ch 0x0300 req bd) (ho : ownsCtx s ch (field bd 1 1) = true)
    (ha : (getCtx s (field bd 1 1)).st = .active) (hs : stageOk s bd = true) :
    (findEnd s (field bd 2 2) = none → exec (.stageqCreate ch req) s =
      .next ((withEnd (field bd 2 2) (StageEnd.made bd) (s.given ch req)).answered ch req 0 [])) ∧
    ((findEnd s (field bd 2 2)).isSome = true →
      exec (.stageqCreate ch req) s = .next ((s.given ch req).answered ch req 0x0051 [])) := by
  rw [← given_ownsCtx s ch req] at ho
  rw [← given_getCtx s ch req] at ha
  rw [← given_stageOk s ch req] at hs
  rw [← given_findEnd s ch req]
  exact ⟨fun he => exec_of_now rfl rfl h (doStageqCreate_made (field req 4 4) ho ha hs he),
    fun he => exec_of_now rfl rfl h (doStageqCreate_taken (field req 4 4) ho ha hs he)⟩

theorem exec_stageqDestroy (h : s.serves ch 0x0302 req bd) :
    (∀ x, findEnd s (field bd 0 2) = some x → ownsCtx s ch x.ctx = true → exec (.stageqDestroy ch req) s =
      .next (({ s.given ch req with ends := Tbl.del s.ends (field bd 0 2) } : State).answered ch req 0 [])) ∧
    (findEnd s (field bd 0 2) = none → exec (.stageqDestroy ch req) s = .next ((s.given ch req).answered ch req 0x0052 [])) := by
  simp only [← given_ends s ch req, ← given_findEnd s ch req, ← given_ownsCtx s ch req]
  exact ⟨fun x hx ho => exec_of_now rfl rfl h (doStageqDestroy_owned (field req 4 4) hx ho),
    fun hx => exec_of_now rfl rfl h (doStageqDestroy_missing (ch := ch) (field req 4 4) hx)⟩

end Handlers

/-! ### TILE_GRANT (R104, R105) -/

/-- What every step of a fold keeps, and some step brings about, holds of its end. -/
theorem foldl_reaches {α β : Type} {P : β → Prop} {f : β → α → β} {l : List α} {x : α} (hx : x ∈ l) (hit : ∀ b, P (f b x))
    (keep : ∀ b a, P b → P (f b a)) (b : β) : P (l.foldl f b) := by
  induction l generalizing b with
  | nil => exact absurd hx List.not_mem_nil
  | cons a l ih =>
    rcases List.mem_cons.mp hx with rfl | hx
    · exact foldl_of (b := f b x) keep (hit b)
    · exact ih hx (f b a)

theorem Tbl.find_del_none {α : Type} {t : Tbl α} {n : Nat} (h : Tbl.find? t n = none) (k : Nat) : Tbl.find? (Tbl.del t k) n = none := by
  by_cases hk : n = k
  · subst hk
    exact Tbl.find_del_self
  · rw [Tbl.find_del_ne hk, h]

/-- Nothing but the grants, and the streams and banks of their clusters, has changed. -/
def GrantOnly (s t : State) : Prop :=
  t = { s with clusters := t.clusters, streams := t.streams, activeBank := t.activeBank, banks := t.banks }

theorem GrantOnly.trans {a b c : State} (h : GrantOnly a b) (k : GrantOnly b c) : GrantOnly a c := by
  unfold GrantOnly at *
  rw [k, h]

section Grants
variable (b i : Nat) (new : Cluster) (s : State)

/-- The grant in force of a cluster after a grant is asked for (R104). -/
def grantedOver (old new : Cluster) : Cluster := if sameGrant old new then old else new

theorem grantCluster_frame : GrantOnly s (grantCluster b i new s) := by
  unfold GrantOnly grantCluster
  dsimp only
  split <;> rfl

theorem getCluster_grantCluster_self :
    getCluster (grantCluster b i new s) b i = grantedOver (getCluster s b i) new := by
  unfold grantCluster grantedOver
  dsimp only
  split
  · rfl
  · exact Tbl.get_put_self

theorem getCluster_grantCluster_ne {a j : Nat} (hi : i < 16) (hj : j < 16) (h : ¬(a = b ∧ j = i)) :
    getCluster (grantCluster b i new s) a j = getCluster s a j := by
  unfold grantCluster
  dsimp only
  split
  · rfl
  · exact Tbl.get_put_ne (by omega)

/-- R105: a bank that was FREE stays so. -/
theorem banks_grantCluster_none {n : Nat} (h : Tbl.find? s.banks n = none) : Tbl.find? (grantCluster b i new s).banks n = none := by
  unfold grantCluster
  dsimp only
  split
  · exact h
  · exact foldl_of (P := fun t => Tbl.find? t n = none)
      (fun t x ht => foldl_of (P := fun t => Tbl.find? t n = none) (fun t k ht => Tbl.find_del_none ht _) ht) h

/-- R105: a bank that a context loses is FREE. -/
theorem banks_grantCluster_lost {k tile : Nat} (hk : k < 2) (ht : tile < 32)
    (h : bankOwner (getCluster s b i) k ≠ bankOwner new k) :
    Tbl.find? (grantCluster b i new s).banks ((b * 512 + i * 32 + tile) * 2 + k) = none := by
  have differs : ¬ sameGrant (getCluster s b i) new = true := by
    unfold sameGrant
    have : k = 0 ∨ k = 1 := by omega
    rcases this with rfl | rfl <;> simp [h]
  unfold grantCluster
  dsimp only
  rw [if_neg differs]
  refine foldl_reaches (P := fun t => Tbl.find? t _ = none) (x := tile + i * 32) ?_ (fun t => ?_)
    (fun t x ht => foldl_of (P := fun t => Tbl.find? t _ = none) (fun t k ht => Tbl.find_del_none ht _) ht) _
  · exact List.mem_map.mpr ⟨tile, List.mem_range.mpr ht, rfl⟩
  · refine foldl_reaches (P := fun t => Tbl.find? t _ = none) (x := k) ?_ (fun t => ?_) (fun t k ht => Tbl.find_del_none ht _) _
    · simpa using ⟨by omega, h⟩
    · rw [show b * 512 + i * 32 + tile = b * 512 + (tile + i * 32) by omega]
      exact Tbl.find_del_self

end Grants

/-- What a TILE_GRANT for the clusters l of Basalt b has done (R104, R105). -/
structure GrantDone (bd : Bytes) (b : Nat) (l : List Nat) (s t : State) : Prop where
  named : ∀ i ∈ l, getCluster t b i = grantedOver (getCluster s b i) (grantOf bd (getCluster s b i))
  others : ∀ a j, j < 16 → ¬(a = b ∧ j ∈ l) → getCluster t a j = getCluster s a j
  lost : ∀ i ∈ l, ∀ k tile, k < 2 → tile < 32 → bankOwner (getCluster s b i) k ≠ bankOwner (grantOf bd (getCluster s b i)) k →
    Tbl.find? t.banks ((b * 512 + i * 32 + tile) * 2 + k) = none
  free : ∀ n, Tbl.find? s.banks n = none → Tbl.find? t.banks n = none
  frame : GrantOnly s t

theorem foldl_grantCluster_done (bd : Bytes) (b : Nat) {l : List Nat} (hl : ∀ i ∈ l, i < 16) (hd : l.Nodup) (s : State) :
    GrantDone bd b l s (l.foldl (fun s i => grantCluster b i (grantOf bd (getCluster s b i)) s) s) := by
  induction l generalizing s with
  | nil => exact ⟨fun _ h => absurd h List.not_mem_nil, fun _ _ _ _ => rfl, fun _ h => absurd h List.not_mem_nil, fun _ h => h, rfl⟩
  | cons i l ih =>
    obtain ⟨hi, hl⟩ := List.forall_mem_cons.mp hl
    obtain ⟨hnot, hd⟩ := List.nodup_cons.mp hd
    have first : ∀ a j, j < 16 → ¬(a = b ∧ j = i) →
        getCluster (grantCluster b i (grantOf bd (getCluster s b i)) s) a j = getCluster s a j :=
      fun a j hj h => getCluster_grantCluster_ne b i _ s hi hj h
    have later : ∀ j ∈ l, getCluster (grantCluster b i (grantOf bd (getCluster s b i)) s) b j = getCluster s b j :=
      fun j hj => first b j (hl j hj) fun h => hnot (h.2 ▸ hj)
    obtain ⟨named, others, lost, free, frame⟩ := ih hl hd (grantCluster b i (grantOf bd (getCluster s b i)) s)
    refine ⟨?_, ?_, ?_, ?_, ?_⟩
    · refine List.forall_mem_cons.mpr ⟨?_, fun j hj => ?_⟩
      · exact (others b i hi fun h => hnot h.2).trans (getCluster_grantCluster_self b i _ s)
      · exact (named j hj).trans (by rw [later j hj])
    · intro a j hj h
      simp only [List.mem_cons, not_and, not_or] at h
      exact (others a j hj fun g => (h g.1).2 g.2).trans (first a j hj fun g => (h g.1).1 g.2)
    · refine List.forall_mem_cons.mpr ⟨fun k tile hk ht hne => ?_, fun j hj k tile hk ht hne => ?_⟩
      · exact free _ (banks_grantCluster_lost b i _ s hk ht hne)
      · exact lost j hj k tile hk ht (by rwa [later j hj])
    · exact fun n hn => free n (banks_grantCluster_none b i _ s hn)
    · exact GrantOnly.trans (grantCluster_frame b i _ s) frame

/-- R104: a TILE_GRANT gives each cluster that it names, and no other, what it asks for. -/
theorem applyGrant_done (bd : Bytes) (s : State) : GrantDone bd (field bd 0 1) (grantClusters bd) s (applyGrant bd s) :=
  foldl_grantCluster_done bd _ (fun _ hi => List.mem_range.mp (List.mem_filter.mp hi).1) (List.nodup_range.filter _) s

section TileGrant
variable {s : State} {ch : Nat} {req bd : Bytes}

theorem doTileGrant_free (tag : Nat) (ho : grantOk bd s = true) (hf : grantFree bd s = true) :
    doTileGrant ch tag bd s = .now 0 [] (applyGrant bd s) := by
  unfold doTileGrant
  simp [ho, hf, stOk]

theorem doTileGrant_busy (tag : Nat) (ho : grantOk bd s = true) (hf : grantFree bd s = false) :
    doTileGrant ch tag bd s = .later [] 0 s := by
  unfold doTileGrant
  simp [ho, hf]

theorem doTileGrant_refused (tag : Nat) (ho : grantOk bd s = false) : doTileGrant ch tag bd s = .now 0x0052 [] s := by
  unfold doTileGrant
  simp [ho, refuseMsg, stBadArgument]

variable (s ch req) in
theorem given_getCluster (a j : Nat) : getCluster (s.given ch req) a j = getCluster s a j :=
  given_reads s ch req (f := (getCluster · a j)) fun _ _ => rfl

variable (s ch req) in
theorem given_grantOk (bd : Bytes) : grantOk bd (s.given ch req) = grantOk bd s := by
  unfold grantOk
  simp only [given_getCtx]

variable (s ch req) in
theorem given_grantFree (bd : Bytes) : grantFree bd (s.given ch req) = grantFree bd s :=
  given_reads s ch req (f := grantFree bd) fun _ _ => rfl

theorem exec_tileGrant (h : s.serves ch 0x0106 req bd) :
    (grantOk bd s = true → grantFree bd s = true →
      exec (.tileGrant ch req) s = .next ((applyGrant bd (s.given ch req)).answered ch req 0 [])) ∧
    (grantOk bd s = true → grantFree bd s = false → exec (.tileGrant ch req) s = .next ((s.given ch req).deferredAs ch req [] 0)) ∧
    (grantOk bd s = false → exec (.tileGrant ch req) s = .next ((s.given ch req).answered ch req 0x0052 [])) := by
  rw [← given_grantOk s ch req, ← given_grantFree s ch req]
  exact ⟨fun ho hf => exec_of_now rfl rfl h (doTileGrant_free (ch := ch) (field req 4 4) ho hf),
    fun ho hf => exec_of_later rfl rfl h (doTileGrant_busy (ch := ch) (field req 4 4) ho hf),
    fun ho => exec_of_now rfl rfl h (doTileGrant_refused (ch := ch) (field req 4 4) ho)⟩

end TileGrant

/-- Settles O52: each row through its handler's answer, TILE_GRANT by induction over the clusters that it names. -/
theorem queuesTilesMappingsAndStageQueues : Obligations.QueuesTilesMappingsAndStageQueues := by
  unfold Obligations.QueuesTilesMappingsAndStageQueues
  refine ⟨?_, ?_⟩
  · rintro s _ ch req bd rfl
    refine ⟨?_, ?_, ?_⟩
    · rintro h _ rfl ho ha hq
      obtain ⟨make, full⟩ := exec_queueCreate h ho ha hq
      refine ⟨fun hn hf => ?_, full⟩
      obtain ⟨q, hlt, hnone, he⟩ := make hn hf
      exact ⟨_, q, he, hlt, hnone, Tbl.find_ins_self, fun p hp => Tbl.find_ins_ne hp, rfl⟩
    · rintro h _ rfl
      obtain ⟨destroy, missing⟩ := exec_queueDestroy h
      refine ⟨fun x hx ho => ?_, missing⟩
      refine ⟨_, destroy x hx ho, Tbl.find_ins_self, fun p hp => Tbl.find_ins_ne hp, fun d => ?_, rfl⟩
      rw [mem_dropUnstarted, given_reads s ch req (f := fun s => s.cmds) fun _ _ => rfl]
    · rintro h _ rfl
      obtain ⟨apply, busy, refused⟩ := exec_tileGrant h
      refine ⟨fun ho hf => ?_, busy, refused⟩
      obtain ⟨named, others, lost, -, frame⟩ := applyGrant_done bd (s.given ch req)
      simp only [given_getCluster] at named others lost
      exact ⟨_, apply ho hf, named, others, lost, frame⟩
  · rintro s _ ch req bd rfl
    refine ⟨?_, exec_unmap, ?_, ?_⟩
    · rintro h _ rfl ho ha
      obtain ⟨maps, refused⟩ := exec_mapPages h ho ha
      refine ⟨fun hr => ⟨_, maps hr, fun idle => ?_, ?_, fun x hx => ?_, fun remote => ?_, ?_⟩, refused⟩
      · refine clearSlabs_idle fun k hk => ?_
        rw [holdMaps_frame]
        exact (given_mapoutRuns s ch req k).trans (idle k hk)
      · rw [getCtx_congr (holdMaps_ctxs _ _ _), withMaps, getCtx_modCtx_self, given_getCtx]
      · rw [getCtx_congr (holdMaps_ctxs _ _ _), withMaps, getCtx_modCtx_ne hx, given_getCtx]
      · unfold holdMaps
        rw [if_pos remote]
        exact given_reads s ch req (f := fun s => s.held) fun _ _ => rfl
      · rw [holdMaps_frame]
        rfl
    · rintro h _ _ _ rfl rfl ho ha hs rfl
      obtain ⟨make, taken⟩ := exec_stageqCreate h ho ha hs
      refine ⟨fun he => ⟨_, make he, Tbl.find_ins_self, fun f hf => ?_, ctrGet_ctrPut_self, fun n hn => ?_, rfl⟩, taken⟩
      · exact (Tbl.find_ins_ne hf).trans (given_findEnd s ch req f)
      · exact (ctrGet_ctrPut_ne hn).trans (given_ctrGet s ch req n)
    · rintro h _ rfl
      exact exec_stageqDestroy h

end Sys2Proof.Machine
end

section
/-!
O28 fails. A store takes the bytes of one page through the mapping that holds the first of them (`writePages`), while the statement names
the device address of each byte by its own translation. Where two mappings of a context overlap, the two differ: the store below writes a
byte that no translation of its addresses names. MAP adds no overlapping mapping (R71, `vaTaken`), but the statement is about every state
and has no hypothesis that keeps the mappings of a context disjoint.
-/
namespace Sys2Proof.Machine.Overlap

/-- ST of s1 at the address in s2. -/
def storeWord : Nat := 4 * 2 ^ 26 + 1 * 2 ^ 21 + 2 * 2 ^ 16

/-- The core that executes it: s1 all ones, s2 four bytes below the page at 0x210000. -/
def core : Core :=
  { k := some 7, running := true, pc := 0x100000, s := [0, 0xFFFFFFFFFFFFFFFF, 0x20FFFC] ++ List.replicate 29 0 }

/-- Its launch. -/
def launch : Cmd := { k := 7, ctx := 1, st := .started }

/-- The pages of its context: the code's, a 64 KiB page at 0x210000, and a 2 MiB page at 0x200000 that holds the same addresses. -/
def pages (write : Bool) : List Mapping :=
  [{ va := 0x100000, writable := true, target := 0x10020000000 },
   { va := 0x210000, writable := write, target := 0x10030000000 },
   { va := 0x200000, big := true, writable := true, target := 0x10040000000 }]

/-- The machine about to execute the store. -/
def before : State :=
  { ctxs := [(1, { st := .active, owner := 1, maps := pages true })], cmds := [launch], cores := [(0, core)],
    mem := memWriteN [] 0x10020000000 (leBytes 4 storeWord) }

/-- The fetch of the word. -/
def fetched : EStateM.Result EngStop Eng (Option Nat) :=
  fetchWord 0 core.pc { s := { before with free := before.free + 1 }, ctx := 1, owner := 14 }

/-- The machine after the fetch. -/
def after : State :=
  match fetched with
  | .ok _ e => dropUsed e.owner e.used e.s
  | .error _ _ => before

/-- The store's work on memory. -/
def stored : EStateM.Result EngStop Eng Unit :=
  coreWrite (before.vx 0 0 storeWord launch) 0x20FFFC (leBytes 8 0xFFFFFFFFFFFFFFFF) { s := after, ctx := 1, owner := 14 }

/-- The byte that the 2 MiB page has at 0x210000, the fifth of the store. -/
def fifth : Nat := 0x10040010000

/-- Work that went well with a property of its answer and of its unit at the end. -/
def wentWell {α : Type} (x : EStateM.Result EngStop Eng α) (p : α → Eng → Bool) : Bool :=
  match x with
  | .ok a e => p a e
  | .error _ _ => false

theorem ok_of_wentWell {α : Type} {x : EStateM.Result EngStop Eng α} {p : α → Eng → Bool} (h : wentWell x p = true) :
    ∃ a e, x = .ok a e ∧ p a e = true := by
  cases x with
  | ok a e => exact ⟨a, e, rfl, h⟩
  | error r e => exact absurd h Bool.false_ne_true

/-- The core fetches the store. -/
theorem fetches : before.fetches after 0 0 0x400 storeWord launch := by
  have cmd : coreCmd before 0 = some launch := by decide +kernel
  have word : wentWell fetched (fun w _ => w == some storeWord) = true := by decide +kernel
  obtain ⟨w, e, he, hw⟩ := ok_of_wentWell word
  obtain rfl : w = some storeWord := by simpa using hw
  refine ⟨cmd, by decide, by decide, e, he, ?_⟩
  unfold after
  rw [he]

/-- No translation of an address of the store names the fifth byte's place in the 2 MiB page. -/
theorem fifth_unnamed : ∀ i < 8, ∀ m, translate after 1 (0x20FFFC + i) true = some m → fifth ≠ canon after.id (mapTarget m (0x20FFFC + i)) := by
  have all : (List.range 8).all (fun i => (translate after 1 (0x20FFFC + i) true).all fun m =>
      decide (fifth ≠ canon after.id (mapTarget m (0x20FFFC + i)))) = true := by decide +kernel
  intro i hi m hm
  simpa [hm] using List.all_eq_true.mp all i (List.mem_range.mpr hi)

/-- The store writes that byte all the same. -/
theorem fifth_written : ∃ e, stored = .ok () e ∧ memRead e.s.mem fifth ≠ memRead after.mem fifth := by
  have written : wentWell stored (fun _ e => decide (memRead e.s.mem fifth ≠ memRead after.mem fifth)) = true := by decide +kernel
  obtain ⟨_, e, he, hw⟩ := ok_of_wentWell written
  exact ⟨e, he, by simpa using hw⟩

/-- The core after the fetch. -/
theorem core_found : ∃ r, Tbl.find? after.cores (0 * 64 + 0) = some r ∧ r.getS 1 = 0xFFFFFFFFFFFFFFFF ∧
    0x20FFFC = (r.getS (wA storeWord) + BitVec.ofInt 64 (wImm storeWord)).toNat := by
  have found : (Tbl.find? after.cores 0).any (fun r => decide (r.getS 1 = 0xFFFFFFFFFFFFFFFF ∧
      0x20FFFC = (r.getS (wA storeWord) + BitVec.ofInt 64 (wImm storeWord)).toNat)) = true := by decide +kernel
  obtain ⟨r, hr, hp⟩ := (Option.any_eq_true _ _).mp found
  exact ⟨r, hr, of_decide_eq_true hp⟩

end Sys2Proof.Machine.Overlap

namespace Sys2Proof.Machine
open Overlap

/-- Refutes O28: a ST of eight bytes that end in a page which two mappings of the context hold writes the last four through the mapping of
the first, at device addresses that the statement says keep their bytes. -/
theorem not_scalarMemoryAndSystemInstructions : ¬ Obligations.ScalarMemoryAndSystemInstructions := by
  unfold Obligations.ScalarMemoryAndSystemInstructions
  rintro ⟨memory, -⟩
  obtain ⟨r, hr, hval, hva⟩ := core_found
  obtain ⟨-, stores⟩ := memory before after 0 0 storeWord launch r 0x20FFFC hr hva
  obtain ⟨e, he, differs⟩ := fifth_written
  have value : leBytes 8 (r.getS (wD storeWord)).toNat = leBytes 8 0xFFFFFFFFFFFFFFFF := by
    rw [show wD storeWord = 1 by decide, hval]
    rfl
  obtain ⟨t, r', -, -, -, -, mem, -, kept⟩ := stores (.st 0 0, 0x400, 8) e List.mem_cons_self fetches (by rw [value]; exact he)
  refine differs ?_
  rw [← mem]
  exact kept fifth fun i m hi hm _ => fifth_unnamed i hi m hm

end Sys2Proof.Machine
end

section
/-!
O19 fails, as O28 does: a COPY moves 4 KiB at a time (`cpUnit`), and each transfer translates its own first address, while the statement
takes the whole row through the mapping that holds its first byte. Where two mappings of the context overlap, a later transfer meets
another page, here one that it may not write.
-/
namespace Sys2Proof.Machine.Overlap

/-- COPY of one row of 4097 bytes from 0x100000 to 0x20F000, whose last byte lies in the 64 KiB page as well. -/
def copy : Cmd :=
  { launch with blocks := [0x10] ++ List.replicate 19 0 ++ leBytes 4 1 ++ leBytes 4 4097 ++ List.replicate 4 0 ++ leBytes 8 0x100000
      ++ leBytes 8 0x20F000 ++ List.replicate 16 0 }

/-- The machine with that COPY at work, the 64 KiB page not writable. -/
def copying : State := { ctxs := [(1, { st := .active, owner := 1, maps := pages false })], cmds := [copy] }

/-- The mapping that holds the source. -/
def source : Mapping := { va := 0x100000, writable := true, target := 0x10020000000 }

/-- The mapping that holds the destination's first byte, and all of the destination. -/
def destination : Mapping := { va := 0x200000, big := true, writable := true, target := 0x10040000000 }

theorem copy_row : cpConvert copy = false ∧ body copy 20 4 = 1 ∧ body copy 24 4 = 4097 ∧ body copy 32 8 = 0x100000 ∧
    body copy 40 8 = 0x20F000 := by decide +kernel

theorem copy_works : copying.working 7 0x10 0 cpUsed copy ∧ cpLegal copy = true := by decide +kernel

theorem copy_pages : translate copying copy.ctx 0x100000 false = some source ∧ translate copying copy.ctx 0x20F000 true = some destination ∧
    overlap (extentsOf copying copy.ctx (cpRuns copy).1) (extentsOf copying copy.ctx (cpRuns copy).2) = false := by decide +kernel

/-- The COPY ends with TRANSLATION_FAULT. -/
theorem copy_faults {t : State} (h : exec (.copy 7) copying = .next t) : (findCmd t 7).map (·.status) = some 0x0020 := by
  have faults : (match exec (.copy 7) copying with
      | .next t => decide ((findCmd t 7).map (·.status) = some 0x0020)
      | _ => false) = true := by decide +kernel
  rw [h] at faults
  exact of_decide_eq_true faults

end Sys2Proof.Machine.Overlap

namespace Sys2Proof.Machine
open Overlap

/-- Refutes O19: a COPY of 4097 bytes to a 2 MiB page that is writable as a whole ends with TRANSLATION_FAULT, at a 64 KiB mapping that
holds its last address and may not be written. -/
theorem not_moversMoveTheirBytes : ¬ Obligations.MoversMoveTheirBytes := by
  unfold Obligations.MoversMoveTheirBytes
  rintro ⟨plain, -⟩
  obtain ⟨convert, rows, n, src, dst⟩ := copy_row
  obtain ⟨works, legal⟩ := copy_works
  obtain ⟨sourcePage, destinationPage, apart⟩ := copy_pages
  have alone : copying.alone 7 := by
    refine ⟨rfl, fun d hd _ => ?_⟩
    obtain rfl := List.mem_singleton.mp hd
    rfl
  have healthy : ∀ x, Tbl.get .normal copying.pow.chans x ≠ .degraded := fun _ => ChanState.noConfusion
  have copied := plain copying 7 copy source destination works legal alone convert rows
  simp only [n, src, dst] at copied
  obtain ⟨t, he, ⟨d, found, -, ok, -⟩, -⟩ :=
    copied (by decide) rfl healthy rfl rfl sourcePage rfl (by decide) destinationPage rfl (by decide) apart
  have fault := copy_faults he
  rw [found, Option.map_some, ok] at fault
  exact absurd fault (by decide)

end Sys2Proof.Machine
end

section
/-!
Work of the vector cores that notes events which do not trap: the rules by which it is put together, and what an instruction row with
such work comes to. They extend the rules of `Turns`, whose work notes no event.
-/
namespace Sys2Proof.Machine

/-- Work of a core that turns r into r' and sets the ARITH_STICKY bits b, under a mode word of its context: without a trap, a stop or a
remote access, and with nothing else changed but the core table's entry and the warnings. -/
def Notes (mode : BitVec 32) (key : Nat) (act : EngM Unit) (r r' : Core) (b : W64) : Prop :=
  ∀ e : Eng, e.trap = none → (getCtx e.s e.ctx).arithMode = mode → Tbl.find? e.s.cores key = some r →
    ∃ cs ws, act e = .ok () { e with s := { e.s with cores := cs }, sticky := e.sticky ||| b, warns := ws } ∧
      Tbl.find? cs key = some r' ∧ ∀ j, j ≠ key → Tbl.find? cs j = Tbl.find? e.s.cores j

/-- The same, whatever sticky bits it sets. -/
def Runs (mode : BitVec 32) (key : Nat) (act : EngM Unit) (r r' : Core) : Prop := ∃ b, Notes mode key act r r' b

/-- Work without events. -/
theorem Turns.notes {key : Nat} {act : EngM Unit} {r r' : Core} (h : Turns key act r r') (mode : BitVec 32) :
    Notes mode key act r r' 0 := by
  intro e ht _ hr
  obtain ⟨cs, ha, hf⟩ := h e ht hr
  exact ⟨cs, e.warns, by simp [ha], hf⟩

theorem Turns.runs {key : Nat} {act : EngM Unit} {r r' : Core} (h : Turns key act r r') (mode : BitVec 32) : Runs mode key act r r' :=
  ⟨0, h.notes mode⟩

section
variable {mode : BitVec 32} {key : Nat} {act act' : EngM Unit} {r r' r'' : Core} {b b' : W64}

theorem Notes.runs (h : Notes mode key act r r' b) : Runs mode key act r r' := ⟨b, h⟩

theorem Notes.bind (h : Notes mode key act r r' b) (h' : Notes mode key act' r' r'' b') :
    Notes mode key (act >>= fun _ => act') r r'' (b ||| b') := by
  intro e ht hm hr
  obtain ⟨cs, ws, ha, hf, ho⟩ := h e ht hm hr
  obtain ⟨cs', ws', ha', hf', ho'⟩ :=
    h' { e with s := { e.s with cores := cs }, sticky := e.sticky ||| b, warns := ws } ht hm hf
  refine ⟨cs', ws', ?_, hf', fun j hj => (ho' j hj).trans (ho j hj)⟩
  simp only [Bind.bind, EStateM.bind, ha, ha', BitVec.or_assoc]

theorem Runs.bind (h : Runs mode key act r r') (h' : Runs mode key act' r' r'') : Runs mode key (act >>= fun _ => act') r r'' := by
  obtain ⟨b, h⟩ := h
  obtain ⟨b', h'⟩ := h'
  exact ⟨b ||| b', h.bind h'⟩

/-- Work may begin by reading the core. -/
theorem notes_myCore {x : Vx} {f : Core → EngM Unit} (h : Notes mode x.key (f r) r r' b) :
    Notes mode x.key (myCore x >>= f) r r' b := by
  intro e ht hm hr
  obtain ⟨cs, ws, ha, hf⟩ := h e ht hm hr
  refine ⟨cs, ws, ?_, hf⟩
  rw [← getCore_find hr] at ha
  exact ha

theorem runs_myCore {x : Vx} {f : Core → EngM Unit} (h : Runs mode x.key (f r) r r') : Runs mode x.key (myCore x >>= f) r r' :=
  h.imp fun _ h => notes_myCore h

/-- Work may begin by reading the mode word. -/
theorem notes_getMode {f : BitVec 32 → EngM Unit} (h : Notes mode key (f mode) r r' b) : Notes mode key (getMode >>= f) r r' b := by
  intro e ht hm hr
  obtain ⟨cs, ws, ha, hf⟩ := h e ht hm hr
  refine ⟨cs, ws, ?_, hf⟩
  rw [← hm] at ha
  exact ha

theorem runs_getMode {f : BitVec 32 → EngM Unit} (h : Runs mode key (f mode) r r') : Runs mode key (getMode >>= f) r r' :=
  h.imp fun _ h => notes_getMode h

/-- R88, R98: an event that does not trap sets its sticky bits. -/
theorem notes_coreEv {x : Vx} {i role : Nat} {ev : Ev} (h : evTrap mode 0 i role x.lane ev = none) :
    Notes mode x.key (coreEv x i role ev) r r (evSticky mode ev) := by
  intro e ht hm hr
  refine ⟨e.s.cores, e.warns ||| evWarn ev, ?_, hr, fun _ _ => rfl⟩
  change EStateM.Result.ok () { e with sticky := _, warns := _, trap := _ } = _
  simp only [hm, h, ht, firstTrap]

/-- R147: an event that does not trap, then a write. -/
theorem notes_event {x : Vx} {i role : Nat} {ev : Ev} (h : evTrap mode 0 i role x.lane ev = none) (hw : Turns x.key act r r') :
    Notes mode x.key (coreEv x i role ev >>= fun _ => act) r r' (evSticky mode ev) :=
  (BitVec.or_zero (x := evSticky mode ev)) ▸ (notes_coreEv h).bind (hw.notes mode)

/-- A scalar instruction whose events do not trap. -/
theorem notes_scalarDo {x : Vx} {work : Core → EngM Unit} (h : Notes mode x.key (work r) r r' b) :
    Notes mode x.key (scalarDo x work) r { r' with pc := r'.pc + 4 } b := by
  have done := (turns_stopTrap x.key 0 r').bind (turns_setCore x (fun c => { c with pc := c.pc + 4 }) r')
  exact (BitVec.or_zero (x := b)) ▸ notes_myCore (h.bind (done.notes mode))

end

/-- What the commit of a core's work without remote writes leaves of the contexts: the sticky bits (R88). -/
theorem coreCommit_ctxs {e : Eng} (h : e.wr = []) (x : Vx) : (coreCommit x e).ctxs = (orSticky e.ctx e.sticky e.s).ctxs := by
  unfold coreCommit
  rw [engCommit_of_wr_nil h]
  dsimp only
  rw [apply_ite State.ctxs, modCore_ctxs, ite_self]
  rfl

theorem runCore_eq_coreCommit {x : Vx} {ctx : Nat} {work : EngM Unit} {u : State} {e : Eng}
    (h : work { s := u, ctx := ctx, owner := 2 * x.k } = .ok () e) : runCore x ctx work u = coreCommit x e := by
  unfold runCore
  rw [h]

/-- An instruction row whose work turns the core that fetched it into r' and sets the sticky bits b of its context. -/
theorem coreNow_of_notes {s u : State} {b c code w : Nat} {d : Cmd} {r r' : Core} {work : Vx → EngM Unit} {bits : W64}
    (h : s.fetches u b c code w d) (hr : Tbl.find? u.cores (b * 64 + c) = some r)
    (hw : Notes (getCtx u d.ctx).arithMode (b * 64 + c) (work (s.vx b c w d)) r r' bits) :
    u.coreNow (coreRow b c code work s) b c r' ∧
      (getCtx (coreRow b c code work s) d.ctx).sticky = (getCtx u d.ctx).sticky ||| bits := by
  obtain ⟨cs, ws, ha, hf, ho⟩ := hw { s := u, ctx := d.ctx, owner := 2 * d.k } rfl rfl hr
  rw [coreRow_fetches h]
  refine ⟨runCore_ok (x := s.vx b c w d) ha rfl hf rfl rfl rfl ho, ?_⟩
  rw [runCore_eq_coreCommit (x := s.vx b c w d) ha, getCtx_congr (coreCommit_ctxs rfl _), getCtx_orSticky, if_pos rfl]
  exact congrArg ((getCtx u d.ctx).sticky ||| ·) BitVec.zero_or

end Sys2Proof.Machine
end

section
/-!
The scalar floating-point instructions (O27).
-/
namespace Sys2Proof.Machine

/-- R144: an FP64 result fills the register. -/
theorem floatReg_of_fp64 {w : Nat} (h : wFunc w < 32) (op : Nat) (regs : List Nat) (code : Nat) :
    floatReg (sfpFmt w) op regs code = BitVec.ofNat 64 code := by
  rw [sfpFmt, if_pos h]
  rfl

/-- R144, log entry 21: an FP32 result fills the low half of the register. -/
theorem floatReg_low_of_fp32 {w : Nat} (h : 32 ≤ wFunc w) (op : Nat) (regs : List Nat) (code : Nat) :
    (floatReg (sfpFmt w) op regs code).setWidth 32 = BitVec.ofNat 32 code := by
  rw [sfpFmt, if_neg (Nat.not_lt.mpr h)]
  exact BitVec.setWidth_append_eq_right

section
variable {s u : State} {b c code w : Nat} {d : Cmd} {r : Core} {ev : Ev}

/-- R144, R147: a scalar instruction that notes an event and writes one value to sd. -/
theorem coreNow_scalarEvent {work : Vx → Core → EngM Unit} {v : W64} (h : s.fetches u b c code w d)
    (hr : Tbl.find? u.cores (b * 64 + c) = some r)
    (hw : Notes (getCtx u d.ctx).arithMode (b * 64 + c) (work (s.vx b c w d) r) r (Core.setS (wD w) v r)
      (evSticky (getCtx u d.ctx).arithMode ev)) :
    u.coreNow (coreRow b c code (fun x => scalarDo x (work x)) s) b c { Core.setS (wD w) v r with pc := r.pc + 4 } ∧
      (getCtx (coreRow b c code (fun x => scalarDo x (work x)) s) d.ctx).sticky =
        (getCtx u d.ctx).sticky ||| evSticky (getCtx u d.ctx).arithMode ev := by
  rw [← setS_pc (wD w) v r]
  exact coreNow_of_notes h hr (notes_scalarDo (x := s.vx b c w d) hw)

/-- R144, log entry 21: after u the core r steps on with the result in sd, FP64 or FP32 by the word, and its context's sticky bits gain
those of the event. -/
def GivesFloat (u : State) (b c w : Nat) (d : Cmd) (r : Core) (res : Nat × Ev) (o : Host.Outcome State Fault Refusal) : Prop :=
  ∃ t v, o = .next t ∧ u.coreNow t b c { Core.setS (wD w) v r with pc := r.pc + 4 } ∧
    (wFunc w < 32 → v = BitVec.ofNat 64 res.1) ∧ (32 ≤ wFunc w → v.setWidth 32 = BitVec.ofNat 32 res.1) ∧
    (getCtx t d.ctx).sticky = (getCtx u d.ctx).sticky ||| evSticky (getCtx u d.ctx).arithMode res.2

/-- A scalar instruction that notes an event and writes a floating-point result. -/
theorem floatResult_gives {work : Vx → Core → EngM Unit} {op : Nat} {regs : List Nat} {res : Nat × Ev} (h : s.fetches u b c code w d)
    (hr : Tbl.find? u.cores (b * 64 + c) = some r)
    (hw : Notes (getCtx u d.ctx).arithMode (b * 64 + c) (work (s.vx b c w d) r) r
      (Core.setS (wD w) (floatReg (sfpFmt w) op regs res.1) r) (evSticky (getCtx u d.ctx).arithMode res.2)) :
    GivesFloat u b c w d r res (.next (coreRow b c code (fun x => scalarDo x (work x)) s)) := by
  obtain ⟨now, sticky⟩ := coreNow_scalarEvent h hr hw
  exact ⟨_, _, rfl, now, fun h => floatReg_of_fp64 h _ _ _, fun h => floatReg_low_of_fp32 h _ _ _, sticky⟩

/-- R144: the rows of one format. -/
theorem sfpRow_gives {f : Nat} {op : Fmt → RM → Nat → Nat → Nat × Ev} (h : s.fetches u b c (0x700 + f) w d)
    (hr : Tbl.find? u.cores (b * 64 + c) = some r) {res : Nat × Ev}
    (hres : res = op (sfpFmt w) (modeRm (getCtx u d.ctx).arithMode)
      ((r.getS (wA w)).toNat % 2 ^ (sfpFmt w).w) ((r.getS (wB w)).toNat % 2 ^ (sfpFmt w).w))
    (ht : ∀ role, evTrap (getCtx u d.ctx).arithMode 0 0 role ((b * 64 + c) % 64) res.2 = none) :
    GivesFloat u b c w d r res (.next (sfpRow b c f op s)) := by
  subst hres
  exact floatResult_gives h hr (notes_getMode (notes_event (x := s.vx b c w d) (ht _) (turns_putS _)))

end

/-- Settles O27: each row notes the event of its operation, which does not trap, and writes one register. -/
theorem scalarFloatInstructions : Obligations.ScalarFloatInstructions := by
  unfold Obligations.ScalarFloatInstructions
  refine fun s u b c w d r hr => ⟨fun o ho hf res hres ht => ?rounded, fun o ho hf ht => ?words⟩
  case rounded =>
    simp only [List.mem_cons, List.not_mem_nil, or_false] at ho
    rcases ho with rfl | rfl | rfl | rfl | rfl | rfl | rfl | rfl
    · -- FADD
      exact sfpRow_gives hf hr hres ht
    · -- FSUB
      exact sfpRow_gives hf hr hres ht
    · -- FMUL
      exact sfpRow_gives hf hr hres ht
    · -- FDIV
      exact sfpRow_gives hf hr hres ht
    · -- FSQRT
      exact sfpRow_gives hf hr hres ht
    · -- FMIN
      exact sfpRow_gives hf hr hres ht
    · -- FMAX
      exact sfpRow_gives hf hr hres ht
    · -- FCVT.F
      subst hres
      exact floatResult_gives hf hr (notes_getMode (notes_event (x := s.vx b c w d) (ht _) (turns_putS _)))
  case words =>
    simp only [List.mem_cons, List.not_mem_nil, or_false] at ho
    rcases ho with rfl | rfl
    · -- FLT
      exact ⟨_, rfl, coreNow_scalarEvent hf hr (notes_event (x := s.vx b c w d) (ht _) (turns_putS _))⟩
    · -- FCVT.I
      exact ⟨_, rfl, coreNow_scalarEvent hf hr (notes_getMode (notes_event (x := s.vx b c w d) (ht _) (turns_putS _)))⟩

end Sys2Proof.Machine
end

section
/-!
The vector instructions under a mode that traps nothing: element-resumable work and whole work that note events, then the floating-point
rows of one format (O31).
-/
namespace Sys2Proof.Machine

/-- R95, R96, R98: a mode without a trap bit that is not strict. -/
def Quiet (mode : BitVec 32) : Prop := mode.extractLsb' 0 3 = 0

theorem Quiet.bit {mode : BitVec 32} (h : Quiet mode) {n : Nat} (hn : n < 3) : mode.getLsbD n = false := by
  have bit := congrArg (BitVec.getLsbD · n) h
  simpa [hn] using bit

/-- R98: under such a mode no event traps. -/
theorem Quiet.evTrap {mode : BitVec 32} (h : Quiet mode) (group elem role lane : Nat) (ev : Ev) :
    evTrap mode group elem role lane ev = none := by
  have nan : mode.getLsbD 0 = false := h.bit (by decide)
  have range : mode.getLsbD 1 = false := h.bit (by decide)
  have strict : mode.getLsbD 2 = false := h.bit (by decide)
  simp only [Machine.evTrap, nan, range, strict, Bool.or_self, Bool.false_and, Bool.false_eq_true, if_false]

section
variable {mode : BitVec 32} {key : Nat} {act : EngM Unit} {r r' : Core} {x : Vx}

/-- Work may begin by reading the unit. -/
theorem notes_get {f : Eng → EngM Unit} {b : W64} (h : ∀ e, Notes mode key (f e) r r' b) : Notes mode key (get >>= f) r r' b :=
  fun e => h e e

/-- The trap rule of a destination adds nothing to work that does not trap (R158). -/
theorem runs_destWork (h : Runs mode key act r r') (x : Vx) (d : Dest) : Runs mode key (destWork x d act) r r' := by
  obtain ⟨b, h⟩ := h
  refine ⟨b, fun e ht hm hr => ?_⟩
  obtain ⟨cs, ws, ha, hf⟩ := h e ht hm hr
  refine ⟨cs, ws, ?_, hf⟩
  simp only [destWork, ha, ht, Option.isSome_none, Bool.false_eq_true, if_false]

/-- Work on each of a list of items, in order. -/
theorem runs_forM {α : Type} {act : α → EngM Unit} {g : Core → α → Core} (h : ∀ a r, Runs mode key (act a) r (g r a)) (l : List α)
    (r : Core) : Runs mode key (l.forM act) r (l.foldl g r) := by
  induction l generalizing r with
  | nil => exact (turns_pure key r).runs mode
  | cons a l ih => exact (h a r).bind (ih (g r a))

/-- R147: an event, then the write of the result. -/
theorem runs_event {i role : Nat} {ev : Ev} (hq : Quiet mode) (hw : Turns x.key act r r') :
    Runs mode x.key (coreEv x i role ev >>= fun _ => act) r r' :=
  (notes_event (hq.evTrap ..) hw).runs

/-- R157: the elements are written in ascending order, whatever VRESUME says meanwhile, unless the core is interrupted. -/
theorem runs_elemLoop {f : Nat → EngM Unit} {g : Core → Nat → Core} {fmt : BitVec 8} (hg : ElemStep g)
    (hf : ∀ i y, y.fmt = fmt → Runs mode x.key (f i) y (g y i)) (is : List Nat) :
    ∀ (n : Nat) (y : Core), is.length ≤ n → y.fmt = fmt →
      ∃ v, Runs mode x.key (elemLoop x f n is) y { is.foldl g y with vresume := v } := by
  induction is with
  | nil =>
    intro n y _ _
    refine ⟨y.vresume, ?_⟩
    cases n <;> exact (turns_pure x.key y).runs mode
  | cons i is ih =>
    intro n y hn hy
    obtain ⟨n, rfl⟩ : ∃ m, n = m + 1 := Nat.exists_eq_add_one.mpr (Nat.lt_of_lt_of_le (Nat.succ_pos _) hn)
    obtain ⟨b, element⟩ := hf i { y with vresume := BitVec.ofNat 12 i } hy
    rw [hg.vresume] at element
    obtain ⟨v, b', rest⟩ := ih n { g y i with vresume := BitVec.ofNat 12 i } (Nat.le_of_succ_le_succ hn) ((hg.fmt y i).trans hy)
    rw [hg.foldl_vresume] at rest
    exact ⟨v, ((turns_setCore x _ y).runs mode).bind
      (notes_get fun e => element.bind (((turns_stopTrap x.key e.sticky _).notes mode).bind rest)).runs⟩

/-- R140, R141, R157: an element-resumable instruction on legal registers that is not interrupted. -/
theorem runs_vecElems {legal : Core → Bool} {f : Nat → EngM Unit} {g : Core → Nat → Core} (hg : ElemStep g)
    (hf : ∀ i y, y.fmt = r.fmt → Runs mode x.key (f i) y (g y i)) (hv : r.invalid = false) (hl : legal r = true)
    (hx : x.limit = 4096) :
    Runs mode x.key (vecElems x legal f) r { (activeElems x r).foldl g r with vresume := 0, pc := r.pc + 4 } := by
  refine runs_myCore ?_
  simp only [hv, hl, Bool.not_true, Bool.or_false, Bool.false_eq_true, if_false]
  obtain ⟨v, loop⟩ := runs_elemLoop hg hf (activeElems x r) x.limit r (hx ▸ length_activeElems_le x r) rfl
  have done := turns_setCore x (fun c => { c with vresume := 0, pc := c.pc + 4 }) { (activeElems x r).foldl g r with vresume := v }
  rw [hg.foldl_pc] at done
  exact loop.bind (done.runs mode)

end

/-- VTYPE.FMT alone gives the element format. -/
theorem efmt_of_fmt {y r : Core} (h : y.fmt = r.fmt) : y.efmt = r.efmt := by rw [Core.efmt, h, Core.efmt]

theorem coreFloat_of_fmt {y r : Core} (h : y.fmt = r.fmt) : coreFloat y = coreFloat r := by rw [coreFloat, efmt_of_fmt h, coreFloat]

section
variable {s u : State} {b c w : Nat} {d : Cmd} {r : Core}

/-- An element-resumable row that notes events, whose element work is a write `g` of one element. -/
theorem coreNow_vecRuns {code : Nat} {legal : Vx → Core → Bool} {f : Vx → Nat → EngM Unit} {g : Core → Nat → Core}
    (h : s.fetches u b c code w d) (hr : Tbl.find? u.cores (b * 64 + c) = some r) (hv : r.invalid = false)
    (hl : legal (s.vx b c w d) r = true) (hx : elemLimit s d = 4096) (hg : ElemStep g)
    (hf : ∀ i y, y.fmt = r.fmt → Runs (getCtx u d.ctx).arithMode (b * 64 + c) (f (s.vx b c w d) i) y (g y i)) :
    u.coreNow (coreRow b c code (fun x => vecElems x (legal x) (f x)) s) b c
      { (activeElems { w := w } r).foldl g r with vresume := 0, pc := r.pc + 4 } := by
  obtain ⟨bits, work⟩ := runs_vecElems (x := s.vx b c w d) hg hf hv hl hx
  exact (coreNow_of_notes (work := fun x => vecElems x (legal x) (f x)) h hr work).1

/-- R146: the arithmetic rows of one format. -/
theorem coreNow_vfpRow {op : Nat} {acc : Bool} {op3 : Fmt → RM → Nat → Nat → Nat → Nat × Ev} {f : Fmt}
    (h : s.fetches u b c (0x2400 + op) w d) (hr : Tbl.find? u.cores (b * 64 + c) = some r) (hv : r.invalid = false)
    (hf : coreFloat r = some f) (hl : vfpLegal w r = true) (hx : elemLimit s d = 4096) (hq : Quiet (getCtx u d.ctx).arithMode) :
    u.coreNow (vfpRow b c op acc op3 s) b c { (activeElems { w := w } r).foldl (fun y i =>
      Core.setE (wD w) r.ew i (op3 f (modeRm (getCtx u d.ctx).arithMode) (y.getE (wA w) r.ew i) (y.op1 w r.ew i)
        (y.getE (wD w) r.ew i)).1 y) r with vresume := 0, pc := r.pc + 4 } := by
  refine coreNow_vecRuns h hr hv hl hx (elemStep_setE (pos := id) fun _ _ _ => rfl) fun i y hy => ?_
  obtain rfl : (coreFloat y).getD fp64 = f := by rw [coreFloat_of_fmt hy, hf, Option.getD_some]
  rw [← ew_of_fmt hy]
  exact runs_myCore (x := s.vx b c w d) (runs_getMode (runs_event hq (turns_putE _)))

/-- R146: the comparisons. -/
theorem coreNow_vfcmpRow {op : Nat} {rel : Fmt → Nat → Nat → Bool × Ev} {f : Fmt} (h : s.fetches u b c (0x2400 + op) w d)
    (hr : Tbl.find? u.cores (b * 64 + c) = some r) (hv : r.invalid = false) (hf : coreFloat r = some f)
    (hl : ((coreFloat r).isSome && maskField (wD w) && groupOk (wA w) r.span && r.op1Ok w) = true) (hx : elemLimit s d = 4096)
    (hq : Quiet (getCtx u d.ctx).arithMode) :
    u.coreNow (vfcmpRow b c op rel s) b c { (activeElems { w := w } r).foldl (fun y i =>
      Core.setM (wD w) i (rel f (y.getE (wA w) r.ew i) (y.op1 w r.ew i)).1 y) r with vresume := 0, pc := r.pc + 4 } := by
  refine coreNow_vecRuns h hr hv hl hx (elemStep_setM fun _ _ _ => rfl) fun i y hy => ?_
  obtain rfl : (coreFloat y).getD fp64 = f := by rw [coreFloat_of_fmt hy, hf, Option.getD_some]
  rw [← ew_of_fmt hy]
  exact runs_myCore (x := s.vx b c w d) (runs_event hq (turns_putM _))

end

/-- Settles O31: one rule for the arithmetic rows, one for the comparisons. -/
theorem vectorFloatInstructions : Obligations.VectorFloatInstructions := by
  unfold Obligations.VectorFloatInstructions
  intro s u b c w d r f o ho hw hr hv hf hl hx hq
  rcases List.mem_append.mp ho with ho | ho
  · obtain ⟨p, hp, rfl⟩ := List.mem_map.mp ho
    have row : ∃ acc, exec p.1 s = .next (vfpRow b c p.2.1 acc p.2.2 s) := by
      simp only [List.mem_cons, List.not_mem_nil, or_false] at hp
      rcases hp with rfl | rfl | rfl | rfl | rfl | rfl | rfl | rfl <;> exact ⟨_, rfl⟩
    obtain ⟨acc, he⟩ := row
    exact ⟨_, he, coreNow_vfpRow hw hr hv hf hl hx hq⟩
  · simp only [List.map_cons, List.map_nil, List.mem_cons, List.not_mem_nil, or_false] at ho
    rcases ho with rfl | rfl
    · -- VFCMPLT
      exact ⟨_, rfl, coreNow_vfcmpRow hw hr hv hf hl hx hq⟩
    · -- VFCMPEQ
      exact ⟨_, rfl, coreNow_vfcmpRow hw hr hv hf hl hx hq⟩

end Sys2Proof.Machine
end

section
/-!
The widening, unary, converting and reducing instructions of the vector cores (O32).
-/
namespace Sys2Proof.Machine

section
variable {mode : BitVec 32} {r r' : Core} {x : Vx}

/-- R150: the overflow of a BF16 product is a range event, which traps under a trap bit alone. -/
theorem runs_productEv (hq : Quiet mode) (x : Vx) (e i role : Nat) (ev : Ev) (r : Core) :
    Runs mode x.key (productEv x e i role ev) r r := by
  refine runs_getMode ((notes_coreEv (hq.evTrap ..)).runs.bind ?_)
  rw [if_neg fun h => Bool.false_ne_true ((hq.bit (by decide)).symm.trans h.2.2)]
  exact (turns_pure x.key r).runs mode

/-- R88, R150: the flags of a BF16 product are sticky bits alone. -/
theorem runs_forceFlags (mode : BitVec 32) (key e : Nat) (ev : Ev) (r : Core) : Runs mode key (forceFlags e ev) r r := by
  unfold forceFlags
  split
  · exact ⟨_, fun e _ _ hr => ⟨e.s.cores, e.warns, rfl, hr, fun _ _ => rfl⟩⟩
  · exact (turns_pure key r).runs mode

/-- R157: the end of an instruction that was at VRESUME 0. -/
theorem turns_vecDone (x : Vx) (h : r.vresume = 0) : Turns x.key (vecDone x) r { r with pc := r.pc + 4 } := by
  have same : ({ r with vresume := 0, pc := r.pc + 4 } : Core) = { r with pc := r.pc + 4 } := by rw [← h]
  exact same ▸ turns_setCore x (fun c => { c with vresume := 0, pc := c.pc + 4 }) r

/-- R140, R141, R157: an instruction that is not element-resumable, on legal registers: at VL 0 it writes nothing. -/
theorem runs_vecWhole {legal : Core → Bool} {dest : Core → Dest} {work : Core → EngM Unit} (hw : Runs mode x.key (work r) r r')
    (hv : r.invalid = false) (hl : legal r = true) (h0 : r.vresume = 0) (hvr : r'.vresume = r.vresume) (hpc : r'.pc = r.pc) :
    Runs mode x.key (vecWhole x legal dest (pure ()) work) r { (if r.len = 0 then r else r') with pc := r.pc + 4 } := by
  refine runs_myCore ?_
  simp only [hv, hl, h0, Bool.not_true, Bool.or_false, bne_self_eq_false, Bool.false_eq_true, if_false]
  refine (runs_destWork ((turns_pure x.key r).runs mode) x (dest r)).bind ?_
  by_cases hn : r.len = 0
  · simp only [hn, ne_eq, not_true_eq_false, if_false, if_true]
    exact (turns_vecDone x h0).runs mode
  · simp only [hn, ne_eq, not_false_eq_true, if_false, if_true]
    rw [← hpc]
    exact (runs_destWork hw x (dest r)).bind (((turns_stopTrap x.key 0 r').bind (turns_vecDone x (hvr.trans h0))).runs mode)

end

/-- R146: VFUN's selectors up to 5 are operations. -/
theorem unaryF_isSome {sel : Nat} (h : sel ≤ 5) (f : Fmt) (rm : RM) (a : Nat) : (unaryF sel f rm a).isSome = true := by
  interval_cases sel <;> rfl

section
variable {s u : State} {b c w : Nat} {d : Cmd} {r : Core}

/-- VFXMUL (R150). -/
theorem vfxmul_gives {f : Fmt} (h : s.fetches u b c 0x240A w d) (hr : Tbl.find? u.cores (b * 64 + c) = some r)
    (hv : r.invalid = false) (hf : widenFloat r.efmt = some f) (hl : widenFpLegal w r = true) (hx : elemLimit s d = 4096)
    (hq : Quiet (getCtx u d.ctx).arithMode) :
    ∃ t, exec (.vfxmul b c) s = .next t ∧ u.coreNow t b c { (activeElems { w := w } r).foldl (fun y i =>
      Core.setE (wD w) (2 * r.ew) i (fMul f (modeRm (getCtx u d.ctx).arithMode) (efmtValue r.efmt (y.getE (wA w) r.ew i))
        (efmtValue r.efmt (y.op1 w r.ew i))).1 y) r with vresume := 0, pc := r.pc + 4 } := by
  refine ⟨_, rfl, coreNow_vecRuns h hr hv hl hx (elemStep_setE (pos := id) fun _ _ _ => rfl) fun i y hy => ?_⟩
  obtain rfl : (widenFloat y.efmt).getD fp64 = f := by rw [efmt_of_fmt hy, hf, Option.getD_some]
  rw [← ew_of_fmt hy, ← efmt_of_fmt hy]
  refine runs_myCore (x := s.vx b c w d) (runs_getMode ((runs_productEv hq ..).bind ((runs_forceFlags ..).bind ?_)))
  exact (turns_putE _).runs _

/-- VFXMA (R150). -/
theorem vfxma_gives {f : Fmt} (h : s.fetches u b c 0x240B w d) (hr : Tbl.find? u.cores (b * 64 + c) = some r)
    (hv : r.invalid = false) (hf : widenFloat r.efmt = some f) (hl : widenFpLegal w r = true) (hx : elemLimit s d = 4096)
    (hq : Quiet (getCtx u d.ctx).arithMode) :
    ∃ t, exec (.vfxma b c) s = .next t ∧ u.coreNow t b c { (activeElems { w := w } r).foldl (fun y i =>
      Core.setE (wD w) (2 * r.ew) i (fFma f (modeRm (getCtx u d.ctx).arithMode) (efmtValue r.efmt (y.getE (wA w) r.ew i))
        (efmtValue r.efmt (y.op1 w r.ew i)) (decodeF f (y.getE (wD w) (2 * r.ew) i))).1 y) r with
          vresume := 0, pc := r.pc + 4 } := by
  refine ⟨_, rfl, coreNow_vecRuns h hr hv hl hx (elemStep_setE (pos := id) fun _ _ _ => rfl) fun i y hy => ?_⟩
  obtain rfl : (widenFloat y.efmt).getD fp64 = f := by rw [efmt_of_fmt hy, hf, Option.getD_some]
  rw [← ew_of_fmt hy, ← efmt_of_fmt hy]
  exact runs_myCore (x := s.vx b c w d) (runs_getMode (runs_event hq (turns_putE _)))

/-- VFUN (R146). -/
theorem vfun_gives {f : Fmt} (h : s.fetches u b c 0x240D w d) (hr : Tbl.find? u.cores (b * 64 + c) = some r)
    (hv : r.invalid = false) (hf : coreFloat r = some f)
    (hl : ((coreFloat r).isSome && groupOk (wD w) r.span && groupOk (wA w) r.span && decide (wB w ≤ 5)) = true)
    (hx : elemLimit s d = 4096) (hq : Quiet (getCtx u d.ctx).arithMode) :
    ∃ t, exec (.vfun b c) s = .next t ∧ u.coreNow t b c { (activeElems { w := w } r).foldl (fun y i =>
      Core.setE (wD w) r.ew i
        ((unaryF (wB w) f (modeRm (getCtx u d.ctx).arithMode) (y.getE (wA w) r.ew i)).getD (0, {})).1 y) r with
          vresume := 0, pc := r.pc + 4 } := by
  refine ⟨_, rfl, coreNow_vecRuns h hr hv hl hx (elemStep_setE (pos := id) fun _ _ _ => rfl) fun i y hy => ?_⟩
  obtain rfl : (coreFloat y).getD fp64 = f := by rw [coreFloat_of_fmt hy, hf, Option.getD_some]
  have sel : wB w ≤ 5 := of_decide_eq_true (Bool.and_eq_true_iff.mp hl).2
  obtain ⟨res, hres⟩ := Option.isSome_iff_exists.mp
    (unaryF_isSome sel ((coreFloat y).getD fp64) (modeRm (getCtx u d.ctx).arithMode) (y.getE (wA w) y.ew i))
  rw [← ew_of_fmt hy, hres]
  refine runs_myCore (x := s.vx b c w d) (runs_getMode ?_)
  simp only [vx_w, hres]
  exact runs_event hq (turns_putE _)

/-- VFCVT (R146). -/
theorem vfcvt_gives (h : s.fetches u b c 0x240E w d) (hr : Tbl.find? u.cores (b * 64 + c) = some r)
    (hv : r.invalid = false) (hl : cvtLegal w r = true) (hx : elemLimit s d = 4096) (hq : Quiet (getCtx u d.ctx).arithMode) :
    ∃ t, exec (.vfcvt b c) s = .next t ∧ u.coreNow t b c { (activeElems { w := w } r).foldl (fun y i =>
      Core.setE (wD w) (efmtBits (wB w)) i (efmtConv (wB w) (modeRm (getCtx u d.ctx).arithMode)
        (efmtValue r.efmt (y.getE (wA w) r.ew i))).1 y) r with vresume := 0, pc := r.pc + 4 } := by
  refine ⟨_, rfl, coreNow_vecRuns h hr hv hl hx (elemStep_setE (pos := id) fun _ _ _ => rfl) fun i y hy => ?_⟩
  rw [← ew_of_fmt hy, ← efmt_of_fmt hy]
  exact runs_myCore (x := s.vx b c w d) (runs_getMode (runs_event hq (turns_putE _)))

/-- A row that is not element-resumable and notes events, on legal registers. -/
theorem coreNow_vecWholeRuns {code : Nat} {legal : Vx → Core → Bool} {dest : Vx → Core → Dest} {work : Vx → Core → EngM Unit}
    {r' : Core} (h : s.fetches u b c code w d) (hr : Tbl.find? u.cores (b * 64 + c) = some r) (hv : r.invalid = false)
    (h0 : r.vresume = 0) (hl : legal (s.vx b c w d) r = true)
    (hw : Runs (getCtx u d.ctx).arithMode (b * 64 + c) (work (s.vx b c w d) r) r r') (hvr : r'.vresume = r.vresume)
    (hpc : r'.pc = r.pc) :
    u.coreNow (coreRow b c code (fun x => vecWhole x (legal x) (dest x) (pure ()) (work x)) s) b c
      { (if r.len = 0 then r else r') with pc := r.pc + 4 } := by
  obtain ⟨bits, whole⟩ := runs_vecWhole (x := s.vx b c w d) (dest := dest (s.vx b c w d)) hw hv hl h0 hvr hpc
  exact (coreNow_of_notes (work := fun x => vecWhole x (legal x) (dest x) (pure ()) (work x)) h hr whole).1

/-- Such a row whose work writes the 32-bit elements of vd, each of a value of the core before. -/
theorem coreNow_vecDots {code n : Nat} {legal : Vx → Core → Bool} {dest : Vx → Core → Dest} {work : Vx → Core → EngM Unit}
    {val : Nat → Nat} (h : s.fetches u b c code w d) (hr : Tbl.find? u.cores (b * 64 + c) = some r)
    (hv : r.invalid = false) (h0 : r.vresume = 0) (hl : legal (s.vx b c w d) r = true)
    (hw : Runs (getCtx u d.ctx).arithMode (b * 64 + c) (work (s.vx b c w d) r) r
      ((List.range n).foldl (fun y j => Core.setE (wD w) 32 j (val j) y) r)) :
    u.coreNow (coreRow b c code (fun x => vecWhole x (legal x) (dest x) (pure ()) (work x)) s) b c
      { (if r.len = 0 then r else (List.range n).foldl (fun y j => Core.setE (wD w) 32 j (val j) y) r) with pc := r.pc + 4 } := by
  have step : ElemStep fun y j => Core.setE (wD w) 32 j (val j) y := elemStep_setE (pos := id) fun _ _ _ => rfl
  exact coreNow_vecWholeRuns h hr hv h0 hl hw (step.foldl_keeps_vresume _ r) (step.foldl_pc _ r)

/-- VDOT4 (R151). -/
theorem vdot4_gives (h : s.fetches u b c 0x230F w d) (hr : Tbl.find? u.cores (b * 64 + c) = some r) (hv : r.invalid = false)
    (h0 : r.vresume = 0) (hl : (decide (r.efmt = 0) && vintLegal w r) = true) :
    ∃ t, exec (.vdot4 b c) s = .next t ∧ u.coreNow t b c { (if r.len = 0 then r else
      (List.range (ceilDiv r.len 4)).foldl (fun y j => Core.setE (wD w) 32 j (wrapInt 32
        (((dotTerms r w 4 j).map fun i => signed 8 (r.getE (wA w) 8 i) * signed 8 (r.getE (wB w) 8 i)).foldl (· + ·)
          (signed 32 (r.getE (wD w) 32 j)))) y) r) with pc := r.pc + 4 } :=
  ⟨_, rfl, coreNow_vecDots h hr hv h0 hl ((turns_forM (fun _ _ => turns_putE (s.vx b c w d)) _ r).runs _)⟩

/-- The source pairs of VFDOT at destination element j (R151). -/
def dotPairs (r : Core) (w j : Nat) : List (FV × FV) :=
  (dotTerms r w (32 / r.ew) j).map fun i => (efmtValue r.efmt (r.getE (wA w) r.ew i), efmtValue r.efmt (r.getE (wB w) r.ew i))

theorem length_dotPairs (r : Core) (w j : Nat) : (dotPairs r w j).length = (dotTerms r w (32 / r.ew) j).length := List.length_map _

/-- VFDOT (R151). -/
theorem vfdot_gives (h : s.fetches u b c 0x240C w d) (hr : Tbl.find? u.cores (b * 64 + c) = some r) (hv : r.invalid = false)
    (h0 : r.vresume = 0)
    (hl : (decide (6 ≤ r.efmt) && groupOk (wD w) r.span && groupOk (wA w) r.span && groupOk (wB w) r.span) = true)
    (hq : Quiet (getCtx u d.ctx).arithMode) :
    ∃ t, exec (.vfdot b c) s = .next t ∧ u.coreNow t b c { (if r.len = 0 then r else
      (List.range (ceilDiv r.len (32 / r.ew))).foldl (fun y j => Core.setE (wD w) 32 j
        (dotResult (modeRm (getCtx u d.ctx).arithMode) (decide ((dotTerms r w (32 / r.ew) j).length < 32 / r.ew)) (dotPairs r w j)
          (decodeF fp32 (r.getE (wD w) 32 j))).1 y) r) with pc := r.pc + 4 } := by
  simp only [← length_dotPairs]
  refine ⟨_, rfl, coreNow_vecDots h hr hv h0 hl (runs_getMode ?_)⟩
  exact runs_forM (fun _ _ => runs_event (x := s.vx b c w d) hq (turns_putE _)) _ r

/-- VFFOLD (R152): element 0 of vd by the form of the word. -/
theorem vffold_gives {f : Fmt} {act : List Nat} {rm : RM} (h : s.fetches u b c 0x240F w d)
    (hr : Tbl.find? u.cores (b * 64 + c) = some r) (hv : r.invalid = false) (h0 : r.vresume = 0) (hf : coreFloat r = some f)
    (hl : ((coreFloat r).isSome && groupOk (wD w) r.span && groupOk (wA w) r.span) = true) (hq : Quiet (getCtx u d.ctx).arithMode)
    (hact : act = ((List.range r.len).filter fun i => r.active w i).map (fun i => r.getE (wA w) r.ew i))
    (hrm : rm = modeRm (getCtx u d.ctx).arithMode) :
    ∃ t x, exec (.vffold b c) s = .next t ∧
      u.coreNow t b c { (if r.len = 0 then r else Core.setE (wD w) r.ew 0 x r) with pc := r.pc + 4 } ∧
      (wForm w = 0 → x = (orderedSum f rm act (r.getE (wD w) r.ew 0) {}).1) ∧
      (wForm w = 1 → x = (fAdd f rm (decodeF f (r.getE (wD w) r.ew 0)) (decodeF f (treeTotal f rm ((List.range r.len).map fun i =>
        if r.active w i then r.getE (wA w) r.ew i else 0)).1)).1) ∧
      (wForm w = 2 → x = (foldMax f act (r.getE (wD w) r.ew 0) {}).1) := by
  obtain rfl : (coreFloat r).getD fp64 = f := by rw [hf, Option.getD_some]
  subst hact hrm
  refine ⟨_, _, rfl, coreNow_vecWholeRuns h hr hv h0 hl (runs_getMode (runs_event (x := s.vx b c w d) hq (turns_putE _))) rfl rfl,
    fun ordered => ?_, fun tree => ?_, fun maximum => ?_⟩
  · simp only [vx_w, ordered]
  · simp only [vx_w, tree]
    rfl
  · simp only [vx_w, maximum]

end

/-- Settles O32: each element-resumable row by its element's write, each other row by the writes of its work, which at VL 0 are none. -/
theorem wideningAndReducingInstructions : Obligations.WideningAndReducingInstructions := by
  unfold Obligations.WideningAndReducingInstructions
  refine ⟨?elements, ?reducing⟩
  case elements =>
    rintro s u b c w d r f _ o rfl ho hw hr hv hl hx hq
    rcases ho with ⟨ho, hf⟩ | ⟨rfl, hf⟩ | rfl
    · simp only [List.mem_cons, List.not_mem_nil, or_false] at ho
      rcases ho with rfl | rfl
      · exact vfxmul_gives hw hr hv hf hl hx hq
      · exact vfxma_gives hw hr hv hf hl hx hq
    · exact vfun_gives hw hr hv hf hl hx hq
    · exact vfcvt_gives hw hr hv hl hx hq
  case reducing =>
    intro s u b c w d r hr hv h0 hq
    refine ⟨fun hn o ho hw hl => ?empty, fun hw hn he hl => ?vdot4, fun hw hn he hd ha hb => ?vfdot,
      fun f act rm hf hact hrm hw hn hd ha => ?vffold⟩
    case empty =>
      simp only [List.mem_cons, List.not_mem_nil, or_false] at ho
      rcases ho with rfl | rfl | rfl
      · -- VDOT4
        simpa only [if_pos hn] using vdot4_gives hw hr hv h0 hl
      · -- VFDOT
        simpa only [if_pos hn] using vfdot_gives hw hr hv h0 hl hq
      · -- VFFOLD
        obtain ⟨f, hf⟩ := Option.isSome_iff_exists.mp (Bool.and_eq_true_iff.mp (Bool.and_eq_true_iff.mp hl).1).1
        obtain ⟨t, _, he, now, -⟩ := vffold_gives hw hr hv h0 hf hl hq rfl rfl
        rw [if_pos hn] at now
        exact ⟨t, he, now⟩
    case vdot4 =>
      have row := vdot4_gives hw hr hv h0 (by rw [decide_eq_true he, hl]; rfl)
      simpa only [if_neg hn] using row
    case vfdot =>
      have row := vfdot_gives hw hr hv h0 (by rw [decide_eq_true he, hd, ha, hb]; rfl) hq
      simp only [if_neg hn] at row
      exact row
    case vffold =>
      have row := vffold_gives hw hr hv h0 hf (by rw [Option.mem_def.mp hf, hd, ha]; rfl) hq hact hrm
      simpa only [if_neg hn] using row

end Sys2Proof.Machine
end

section
/-!
Steps of work of an engine: what a noted progress event changes, the work of a command that runs alone, the machine after work that ran
through, and the faults of matrix-array commands at their tiles.
-/
namespace Sys2Proof.Machine

/-! ### Progress (R388) -/

/-- Noting the progress of a step changes nothing but the list of commands. -/
theorem progressSince_frame (k : Nat) (s s' : State) : progressSince k s s' = { s' with cmds := (progressSince k s s').cmds } := by
  unfold progressSince
  split
  · rfl
  · rw [progress_frame]

/-- Noting the progress of a step changes of a command only its count. -/
theorem findCmd_progressSince {s s' : State} {j : Nat} {d : Cmd} (h : findCmd s' j = some d) (k : Nat) :
    ∃ n, findCmd (progressSince k s s') j = some { d with wdog := n } := by
  unfold progressSince
  split
  · exact ⟨d.wdog, h⟩
  · cases hk : findCmd s' k with
    | none =>
      refine ⟨d.wdog, ?_⟩
      simp only [progress, hk]
      exact h
    | some c =>
      rw [findCmd_progress hk, h, Option.map_some]
      split
      · exact ⟨0, rfl⟩
      · exact ⟨d.wdog, rfl⟩

/-- R67, R89: a command whose step of work runs through has ended with what its work answers. -/
theorem runWatched_endedWork {s : State} {c : Cmd} {once : Bool} {work : EngM (Option (Option W64 × Option Nat))}
    {o : (Option W64 × Option Nat) × Eng} (h : s.doesPart c once work = some o) : (runWatched c once work s).endedWork c o := by
  obtain ⟨⟨d, hd, hst, hstatus, hr, hx⟩, hm, hc, hl⟩ := runPart_doesPart h
  obtain ⟨n, hn⟩ := findCmd_progressSince (s := s) hd c.k
  unfold runWatched
  refine ⟨⟨_, hn, hst, hstatus, hr, hx⟩, ?_⟩
  rw [progressSince_frame]
  exact ⟨hm, hc, hl⟩

/-! ### A command alone (R205, R206) -/

/-- R206: a command that runs alone does all of its work in one step. -/
theorem workBudget_alone {s : State} {k : Nat} (h : s.alone k) (n : Nat) : workBudget s k n = n := by
  obtain ⟨noReset, only⟩ := h
  have single : sharesTime s k = false := by
    simp only [sharesTime, noReset, ne_eq, not_true_eq_false, decide_false, Bool.false_or, List.any_eq_false, Bool.and_eq_true,
      decide_eq_true_eq, not_and, not_not]
    exact only
  rw [workBudget, single, if_neg Bool.false_ne_true]

/-! ### Faults at a tile (R106) -/

/-- R106: all of a run of tiles may be used. -/
theorem find_tile_none {p : Nat → Bool} {f n : Nat} (h : ∀ i, i < n → p (i + f) = true) :
    ((List.range n).map (· + f)).find? (fun i => !p i) = none := by
  rw [List.find?_eq_none]
  intro t ht
  obtain ⟨i, hi, rfl⟩ := List.mem_map.mp ht
  simp [h i (List.mem_range.mp hi)]

/-- R106: the first tile of a run that may not be used. -/
theorem find_tile_first {p : Nat → Bool} {f n i : Nat} (hi : i < n) (bad : p (i + f) = false) (before : ∀ j, j < i → p (j + f) = true) :
    ((List.range n).map (· + f)).find? (fun i => !p i) = some (i + f) := by
  rw [List.find?_map, Option.map_eq_some_iff]
  refine ⟨i, List.find?_range_eq_some.mpr ⟨?_, List.mem_range.mpr hi, fun j hj => ?_⟩, rfl⟩
  · simp [bad]
  · simp [before j hj]

/-- R106, R386: a row that ends its command at a tile that it may not use. -/
theorem ends_of_tileFault {s : State} {k : Nat} {c : Cmd} {o : Host.Outcome State Fault Refusal} {i : Nat} (h : findCmd s k = some c)
    (row : o = .next (faultCmd c.k stTranslation (tileInfo i) s)) :
    ∃ t d, o = .next t ∧ findCmd t k = some d ∧ d.st = .done ∧ d.status = 0x0020 ∧ d.fault.addr = BitVec.ofNat 64 i ∧
      t = { s with cmds := t.cmds, fab := t.fab, free := t.free } := by
  rw [findCmd_k h] at row
  refine ⟨_, _, row, findCmd_faultCmd h stTranslation (tileInfo i), rfl, rfl, rfl, ?_⟩
  rw [faultCmd_frame]

end Sys2Proof.Machine
end

section
/-!
MA_LOAD and MA_SWAP (O23): the grant of their tiles, the load of a command that runs alone, and the exchange of the banks.
-/
namespace Sys2Proof.Machine

section
variable {s : State} {k : Nat} {c : Cmd}

/-! ### MA_LOAD (R106, R109, R130) -/

/-- R109: an MA_LOAD at work whose tiles its context holds. -/
theorem exec_maLoad_granted (h : s.working k 0x20 0 [(16, 3), (20, 8), (32, 24)] c) (legal : ldLegal c = true)
    (held : ∀ i, i < (maTiles s c).2 → grantedTile s c.ctx c.basalt (i + (maTiles s c).1) = true) : exec (.maLoad k) s = .next (
      if loadFree s c then runWatched c true (ldWork c (workBudget s k (ldTiles c))) (markLoading c { s with free := s.free + 1 })
      else s) := by
  refine congrArg Host.Outcome.next ((runOp_working h legal).trans ?_)
  dsimp only
  rw [find_tile_none held]

/-- R106: an MA_LOAD at work faults at its first tile that its context does not hold. -/
theorem exec_maLoad_refused (h : s.working k 0x20 0 [(16, 3), (20, 8), (32, 24)] c) (legal : ldLegal c = true) {i : Nat}
    (hi : i < (maTiles s c).2) (bad : grantedTile s c.ctx c.basalt (i + (maTiles s c).1) = false)
    (before : ∀ j, j < i → grantedTile s c.ctx c.basalt (j + (maTiles s c).1) = true) :
    exec (.maLoad k) s = .next (faultCmd c.k stTranslation (tileInfo (i + (maTiles s c).1)) s) := by
  refine congrArg Host.Outcome.next ((runOp_working h legal).trans ?_)
  dsimp only
  rw [find_tile_first hi bad before]

/-! ### MA_SWAP (R106, R111, R131) -/

/-- R131: the ranges of an MA_SWAP's body. -/
theorem swap_legal (lo : 1 ≤ body c 18 2) (hi : body c 16 2 + body c 18 2 ≤ 512) :
    (decide (1 ≤ body c 18 2) && decide (body c 18 2 ≤ 512) && decide (body c 16 2 + body c 18 2 ≤ 512)) = true := by
  have h : body c 18 2 ≤ 512 := by omega
  simp [lo, h, hi]

/-- R111: the tiles named by an MA_SWAP with their banks exchanged. -/
def swapTiles (c : Cmd) (s : State) : State :=
  ((List.range (body c 18 2)).map (· + body c 16 2)).foldl (fun s t => swapTile c.basalt t s) s

/-- R111: an MA_SWAP at work whose tiles its context holds. -/
theorem exec_maSwap_granted (h : s.working k 0x21 0 [(16, 4)] c) (lo : 1 ≤ body c 18 2) (hi : body c 16 2 + body c 18 2 ≤ 512)
    (held : ∀ i, i < body c 18 2 → grantedTile s c.ctx c.basalt (i + body c 16 2) = true) :
    exec (.maSwap k) s = .next (if swapFree s c then finishCmd k (some 0) none (swapTiles c s) else s) := by
  refine congrArg Host.Outcome.next ((runOp_working h (swap_legal lo hi)).trans ?_)
  dsimp only
  rw [find_tile_none held]
  rfl

/-- R106: an MA_SWAP at work faults at its first tile that its context does not hold. -/
theorem exec_maSwap_refused (h : s.working k 0x21 0 [(16, 4)] c) (lo : 1 ≤ body c 18 2) (hi : body c 16 2 + body c 18 2 ≤ 512)
    {i : Nat} (hn : i < body c 18 2) (bad : grantedTile s c.ctx c.basalt (i + body c 16 2) = false)
    (before : ∀ j, j < i → grantedTile s c.ctx c.basalt (j + body c 16 2) = true) :
    exec (.maSwap k) s = .next (faultCmd c.k stTranslation (tileInfo (i + body c 16 2)) s) := by
  refine congrArg Host.Outcome.next ((runOp_working h (swap_legal lo hi)).trans ?_)
  dsimp only
  rw [find_tile_first hn bad before]

end

/-- Nothing but the choice of active banks has changed. -/
def BanksSwapped (s t : State) : Prop := t = { s with activeBank := t.activeBank }

theorem BanksSwapped.trans {a b c : State} (h : BanksSwapped a b) (g : BanksSwapped b c) : BanksSwapped a c := by
  unfold BanksSwapped at *
  rw [g, h]

theorem swapTile_swaps (b t : Nat) (s : State) : BanksSwapped s (swapTile b t s) := by
  unfold swapTile
  split <;> rfl

theorem foldl_swapTile_swaps (b : Nat) (ts : List Nat) (s : State) : BanksSwapped s (ts.foldl (fun s t => swapTile b t s) s) :=
  foldl_rel (R := BanksSwapped) (fun _ => rfl) (fun _ _ _ => BanksSwapped.trans) (fun s t => swapTile_swaps b t s) ts s

theorem BanksSwapped.getCluster_eq {s t : State} (h : BanksSwapped s t) (b i : Nat) : getCluster t b i = getCluster s b i := by
  unfold getCluster
  rw [h]

/-- R111: a swapped tile of an EXCLUSIVE cluster has its other bank active. -/
theorem activeBank_swapTile_self {b t : Nat} {s : State} (h : (getCluster s b (t / 32)).mode = .exclusive) :
    Tbl.get 0 (swapTile b t s).activeBank (b * 512 + t) = 1 - Tbl.get 0 s.activeBank (b * 512 + t) := by
  unfold swapTile
  rw [h]
  exact Tbl.get_put_self

/-- R111: the swap of a tile concerns that tile alone, and only in an EXCLUSIVE cluster. -/
theorem activeBank_swapTile_ne {b t n : Nat} {s : State} (h : (getCluster s b (t / 32)).mode = .exclusive → n ≠ b * 512 + t) :
    Tbl.get 0 (swapTile b t s).activeBank n = Tbl.get 0 s.activeBank n := by
  unfold swapTile
  split
  · rename_i exclusive
    exact Tbl.get_put_ne (h exclusive)
  · rfl
  · rfl

/-- R111: tiles swapped one after the other leave the active bank of every other tile. -/
theorem activeBank_foldl_swapTile_ne {b n : Nat} {ts : List Nat} {s : State}
    (h : ∀ t ∈ ts, (getCluster s b (t / 32)).mode = .exclusive → n ≠ b * 512 + t) :
    Tbl.get 0 (ts.foldl (fun s t => swapTile b t s) s).activeBank n = Tbl.get 0 s.activeBank n := by
  induction ts generalizing s with
  | nil => rfl
  | cons t ts ih =>
    have rest : ∀ u ∈ ts, (getCluster (swapTile b t s) b (u / 32)).mode = .exclusive → n ≠ b * 512 + u := by
      intro u hu
      rw [(swapTile_swaps b t s).getCluster_eq]
      exact h u (List.mem_cons_of_mem _ hu)
    exact (ih rest).trans (activeBank_swapTile_ne (h t List.mem_cons_self))

/-- R111: of different tiles swapped one after the other each one of an EXCLUSIVE cluster has its other bank active. -/
theorem activeBank_foldl_swapTile_mem {b t : Nat} {ts : List Nat} {s : State} (distinct : ts.Nodup) (ht : t ∈ ts)
    (h : (getCluster s b (t / 32)).mode = .exclusive) :
    Tbl.get 0 (ts.foldl (fun s t => swapTile b t s) s).activeBank (b * 512 + t) = 1 - Tbl.get 0 s.activeBank (b * 512 + t) := by
  induction ts generalizing s with
  | nil => cases ht
  | cons u ts ih =>
    obtain ⟨hu, distinct⟩ := List.nodup_cons.mp distinct
    rw [List.foldl_cons]
    by_cases first : t = u
    · subst first
      rw [activeBank_foldl_swapTile_ne fun v hv _ heq => hu ((Nat.add_left_cancel heq : t = v) ▸ hv), activeBank_swapTile_self h]
    · rw [ih distinct ((List.mem_cons.mp ht).resolve_left first) (by rw [(swapTile_swaps b u s).getCluster_eq, h]),
        activeBank_swapTile_ne fun _ heq => first (Nat.add_left_cancel heq)]

/-- Settles O23: the rows of load and swap by the grant of their tiles; the swap's banks by induction over its tiles. -/
theorem loadsAndSwapsOfTiles : Obligations.LoadsAndSwapsOfTiles := by
  unfold Obligations.LoadsAndSwapsOfTiles
  refine fun s k c => ⟨fun h legal => ⟨fun held => ⟨fun busy => ?loadWaits, fun free alone o does => ?load⟩,
      fun i hi bad before => ?loadFault⟩,
    fun h lo hi => ⟨fun held => ⟨fun free => ?swap, fun busy => ?swapWaits⟩, fun i hn bad before => ?swapFault⟩⟩
  case loadWaits => rw [exec_maLoad_granted h legal held, busy, if_neg Bool.false_ne_true]
  case load =>
    rw [exec_maLoad_granted h legal held, if_pos free, workBudget_alone alone]
    exact ⟨_, rfl, runWatched_endedWork does⟩
  case loadFault =>
    obtain ⟨t, d, row, found, st, status, addr, frame⟩ := ends_of_tileFault (working_find h) (exec_maLoad_refused h legal hi bad before)
    exact ⟨t, d, row, found, st, status, addr, by rw [frame], by rw [frame]⟩
  case swapWaits => rw [exec_maSwap_granted h lo hi held, busy, if_neg Bool.false_ne_true]
  case swapFault =>
    obtain ⟨t, d, row, found, st, status, addr, frame⟩ :=
      ends_of_tileFault (working_find h) (exec_maSwap_refused h lo hi hn bad before)
    exact ⟨t, d, row, found, st, status, addr, by rw [frame], by rw [frame]⟩
  case swap =>
    have swaps : BanksSwapped s (swapTiles c s) := foldl_swapTile_swaps _ _ s
    have found : findCmd (swapTiles c s) k = some c := (findCmd_congr (by rw [swaps]) k).trans (working_find h)
    have banks : (finishCmd k (some 0) none (swapTiles c s)).activeBank = (swapTiles c s).activeBank := by
      rw [finishCmd_frame _ none found]
    have distinct : ((List.range (body c 18 2)).map (· + body c 16 2)).Nodup :=
      List.Nodup.map (fun _ _ => Nat.add_right_cancel) List.nodup_range
    refine ⟨_, by rw [exec_maSwap_granted h lo hi held, if_pos free], finishCmd_endedWith 0 none found, fun i hi exclusive => ?_,
      fun n other => ?_, ?_⟩
    · rw [banks]
      exact activeBank_foldl_swapTile_mem distinct (List.mem_map.mpr ⟨i, List.mem_range.mpr hi, rfl⟩) exclusive
    · rw [banks]
      refine activeBank_foldl_swapTile_ne fun t ht exclusive => ?_
      obtain ⟨i, hi, rfl⟩ := List.mem_map.mp ht
      exact other i (List.mem_range.mp hi) exclusive
    · rw [finishCmd_frame _ none found, swaps]

end Sys2Proof.Machine
end

section
/-!
A compute reset (O59): how a trigger begins one, and its Fence, Dump and Reset stages.
-/
namespace Sys2Proof.Machine

/-! ### Detection (R384, R392, R395) -/

/-- Nothing but the clusters' credit and the power manager's state has changed. -/
def CreditOnly (s t : State) : Prop := t = { s with clusters := t.clusters, pow := t.pow }

theorem CreditOnly.refl (s : State) : CreditOnly s s := rfl

theorem CreditOnly.trans {a b c : State} (h : CreditOnly a b) (g : CreditOnly b c) : CreditOnly a c := by
  unfold CreditOnly at *
  rw [g, h]

theorem foldl_creditOnly {α : Type} {f : State → α → State} (h : ∀ s x, CreditOnly s (f s x)) (l : List α) (s : State) :
    CreditOnly s (l.foldl f s) := foldl_rel CreditOnly.refl (fun _ _ _ => CreditOnly.trans) h l s

/-- R125: credit that is taken. -/
theorem takeCredit_creditOnly (b c n : Nat) (s : State) : CreditOnly s (takeCredit b c n s) := rfl

/-- R365: issue fractions that are set settle the credit earned so far. -/
theorem setF_creditOnly (fs : List Nat) (s : State) : CreditOnly s (setF fs s) := by
  unfold setF
  extract_lets settled
  have h : CreditOnly s settled := foldl_creditOnly (fun s b => foldl_creditOnly (fun s c => takeCredit_creditOnly b c 0 s) _ s) _ s
  exact h.trans rfl

/-- Nothing but contexts, the reset in progress, and what its report changes is different. -/
def ResetOnly (s t : State) : Prop :=
  t = { s with mem := t.mem, mb := t.mb, ctxs := t.ctxs, rst := t.rst, log := t.log, fab := t.fab, fns := t.fns, msix := t.msix,
               clusters := t.clusters, pow := t.pow }

theorem ResetOnly.trans {a b c : State} (h : ResetOnly a b) (g : ResetOnly b c) : ResetOnly a c := by
  unfold ResetOnly at *
  rw [g, h]

/-- R392: the report of the Detect stage: STATE, the event and the issue fractions. -/
theorem announceReset_spec (s : State) : ResetOnly s (announceReset s) ∧ (announceReset s).mb = .computeReset ∧
    (announceReset s).pow.f = List.replicate 8 0 ∧ (announceReset s).rst = s.rst ∧ (announceReset s).ctxs = s.ctxs ∧
    (announceReset s).log.resets = s.log.resets := by
  unfold announceReset
  extract_lets addr u
  have noticed : FabOnly (logResetStart s.rst.cause s.rst.ctx addr s) u := resetNotice_fab 0 s.rst.cause _
  have started : ResetOnly s u ∧ u.rst = s.rst ∧ u.ctxs = s.ctxs ∧ u.log.resets = s.log.resets := by
    obtain ⟨f, hf⟩ := noticed
    rw [hf]
    exact ⟨rfl, rfl, rfl, rfl⟩
  obtain ⟨only, rst, ctxs, resets⟩ := started
  have posted := (postAll_host 0x8031 0 [1] { u with mb := .computeReset }).frame
  generalize postAll 0x8031 0 [1] { u with mb := .computeReset } = v at posted
  have held := setF_creditOnly (List.replicate 8 0) v
  have told : ResetOnly s (setF (List.replicate 8 0) v) := by
    refine (only.trans ?_).trans (b := v) ?_
    · unfold ResetOnly
      rw [posted]
    · unfold ResetOnly
      rw [held]
  refine ⟨told, ?_, rfl, ?_, ?_, ?_⟩
  · rw [held, posted]
  · rw [held, posted]
    exact rst
  · rw [held, posted]
    exact ctxs
  · rw [held, posted]
    exact resets

/-- R389: a context that is not ACTIVE is not named. -/
theorem nameCtx_inactive {s : State} {ctx : Nat} (h : (getCtx s ctx).st ≠ .active) (no : Nat) (rec : Bytes) :
    nameCtx ctx no rec s = s := if_neg h

/-- R389: an ACTIVE context that the trigger of a reset names enters ERROR. -/
theorem nameCtx_detected {s : State} {ctx : Nat} (h : (getCtx s ctx).st = .active) (stage : s.rst.stage = .detected) (no : Nat)
    (rec : Bytes) : nameCtx ctx no rec s =
      modCtx ctx Ctx.failed { s with rst := { s.rst with named := s.rst.named ++ [(ctx, rec)] } } := by
  unfold nameCtx
  rw [if_pos h]
  dsimp only [modCtx_rst]
  rw [stage]
  rfl

/-- R389, R392: the Detect stage of a trigger for a context or for none (0xFF), before its report. -/
def nameTrigger (ctx no : Nat) (rec : Bytes) (s : State) : State := if ctx = 0xFF then s else nameCtx ctx no rec s

theorem nameTrigger_spec {s : State} (stage : s.rst.stage = .detected) (ctx no : Nat) (rec : Bytes) :
    ResetOnly s (nameTrigger ctx no rec s) ∧ (nameTrigger ctx no rec s).mb = s.mb ∧
    (∃ l, (nameTrigger ctx no rec s).rst = { s.rst with named := l }) ∧ (nameTrigger ctx no rec s).log = s.log ∧
    (ctx ≠ 0xFF → (getCtx s ctx).st = .active → (getCtx (nameTrigger ctx no rec s) ctx).st = .error) := by
  unfold nameTrigger
  split
  · rename_i nobody
    exact ⟨rfl, rfl, ⟨_, rfl⟩, rfl, fun named => absurd nobody named⟩
  · by_cases active : (getCtx s ctx).st = .active
    · rw [nameCtx_detected active stage]
      refine ⟨rfl, rfl, ⟨_, rfl⟩, rfl, fun _ _ => ?_⟩
      rw [getCtx_modCtx_self]
      rfl
    · rw [nameCtx_inactive active]
      exact ⟨rfl, rfl, ⟨_, rfl⟩, rfl, fun _ h => absurd h active⟩

/-- R384, R385: the trigger of a compute reset noted and counted. -/
def noteTrigger (cause : Nat) (r : FaultRec) (s : State) : Bytes × State :=
  let r := { r with status := causeStatus cause, cause := cause, info := { r.info with ftw := s.ftw } }
  let w := writeRecord r { s with log := { s.log with resets := s.log.resets + 1 } }
  (w.1, { w.2 with
    mem := memWriteN w.2.mem (dumpBase w.2.id + 4) (leBytes 4 w.2.log.resets)
    rst := { stage := .detected, cause := cause, record := w.1, ctx := r.ctx, detectFtw := s.ftw, detectU := s.tb.nowU,
             held := decide (s.mb = .handover) } })

/-- R384, R392, R395: a trigger outside a reset and a handover begins a compute reset. -/
theorem startReset_idle {s : State} (idle : s.rst.stage = .none) (ready : s.mb ≠ .handover) (cause : Nat) (r : FaultRec) :
    startReset cause r s =
      announceReset (nameTrigger r.ctx s.log.recordNo (noteTrigger cause r s).1 (noteTrigger cause r s).2) := by
  have mb := (nameTrigger_spec (s := (noteTrigger cause r s).2) rfl r.ctx s.log.recordNo (noteTrigger cause r s).1).2.1
  have row : startReset cause r s =
      (let u := nameTrigger r.ctx s.log.recordNo (noteTrigger cause r s).1 (noteTrigger cause r s).2
       if u.mb = .handover then u else announceReset u) := by
    unfold startReset
    simp only [idle]
    rfl
  rw [row]
  exact if_neg (mb ▸ ready)

/-- R384, R392, R395: what the trigger of a compute reset leaves. -/
theorem startReset_begins {s : State} (idle : s.rst.stage = .none) (ready : s.mb ≠ .handover) (cause : Nat) (r : FaultRec) {t : State}
    (ht : t = startReset cause r s) : ResetOnly s t ∧ t.mb = .computeReset ∧ t.rst.stage = .detected ∧ t.rst.cause = cause ∧
      t.rst.ctx = r.ctx ∧ t.log.resets = s.log.resets + 1 ∧ t.pow.f = List.replicate 8 0 ∧
      (r.ctx ≠ 0xFF → (getCtx s r.ctx).st = .active → (getCtx t r.ctx).st = .error) := by
  rw [ht, startReset_idle idle ready]
  obtain ⟨only, -, ⟨l, rst⟩, log, failed⟩ :=
    nameTrigger_spec (s := (noteTrigger cause r s).2) rfl r.ctx s.log.recordNo (noteTrigger cause r s).1
  generalize nameTrigger r.ctx s.log.recordNo (noteTrigger cause r s).1 (noteTrigger cause r s).2 = u at only rst log failed
  obtain ⟨announced, mb, f, rst', ctxs, resets⟩ := announceReset_spec u
  have noted : ResetOnly s (noteTrigger cause r s).2 := rfl
  refine ⟨(noted.trans only).trans announced, mb, ?_, ?_, ?_, ?_, f, fun named active => ?_⟩
  · rw [rst', rst]; rfl
  · rw [rst', rst]; rfl
  · rw [rst', rst]; rfl
  · rw [resets, log]; rfl
  · rw [getCtx_congr ctxs]
    exact failed named active

/-- R384: a parity error in a unit of the compute domain of a module that runs. -/
theorem execUnitError_runs {s : State} {die : BitVec 8} (runs : tbRuns s = true)
    (unit : (0x10 ≤ die.toNat ∧ die.toNat < 0x18) ∨ (0x20 ≤ die.toNat ∧ die.toNat < 0x28)) (k : Option Nat) :
    execUnitError die k s = .next (match k with
      | none => startReset 2 { unit := die.toNat } s
      | some k =>
        match findCmd s k with
        | some c => if c.st = .started ∧ cmdUnit s c = die.toNat then startReset 2 (cmdFaultRec s c stUnitError {}) s else s
        | none => s) := by
  have domain : resetUnit die.toNat = true := by simpa [resetUnit] using unit
  have modelled : ¬(!tbRuns s || !resetUnit die.toNat) = true := by
    rw [runs, domain]
    decide
  exact congrArg Host.Outcome.next (if_neg modelled)

/-! ### Fence (R204, R393, R394) -/

/-- R393: the rows of the stages do nothing out of their order. -/
theorem execResetFence_other {s : State} (h : s.rst.stage ≠ .detected ∨ s.mb ≠ .computeReset) : execResetFence s = .next s := by
  unfold execResetFence
  rw [if_pos h]

/-- R204, R393: what the Fence stage leaves. -/
theorem execResetFence_fences {s : State} (stage : s.rst.stage = .detected) (mb : s.mb = .computeReset) :
    ∃ t, execResetFence s = .next t ∧ t.rst = { s.rst with stage := .fenced, fenceFtw := s.ftw, fenceU := s.tb.nowU } ∧
      t.fab.rdata = [] ∧ (∀ r ∈ t.fab.reqs, r.ptype ≠ 6 → r.dropped = true ∨
        (r.k = none ∧ ∃ q ∈ s.fab.reqs, q.txn = r.txn ∧ groupWrite s q = true)) ∧ t.cmds = s.cmds.map fenceCmd ∧
      t = { s with rst := t.rst, cmds := t.cmds, cores := t.cores, fab := t.fab } := by
  unfold execResetFence
  rw [if_neg (by simp [stage, mb])]
  refine ⟨_, rfl, rfl, rfl, fun r hr other => ?_, rfl, rfl⟩
  obtain ⟨q, hq, rfl⟩ := List.mem_map.mp hr
  have sent : q ∈ s.fab.reqs := (List.mem_filter.mp hq).1
  by_cases add : q.ptype = 6
  · rw [if_pos add] at other
    exact absurd add other
  · rw [if_neg add]
    cases group : groupWrite s q
    · exact .inl rfl
    · exact .inr ⟨rfl, q, sent, rfl, group⟩

/-! ### Dump (R404, R405) -/

theorem execResetDump_other {s : State} (h : s.rst.stage ≠ .fenced) : execResetDump s = .next s := by
  unfold execResetDump
  rw [if_pos h]

/-- Bytes that two memories agree on read alike. -/
theorem memReadN_congr {m m' : List Host.Cell} {a n : Nat} (h : ∀ c, a ≤ c → c < a + n → memRead m c = memRead m' c) :
    memReadN m a n = memReadN m' a n := by
  induction n generalizing a with
  | zero => rfl
  | succ n ih => rw [memReadN, memReadN, h a (by omega) (by omega), ih fun c lo hi => h c (by omega) (by omega)]

/-- The first of the bytes last written read as they were written. -/
theorem memReadN_memWriteN_append {m : List Host.Cell} {a : Nat} {bs cs : Bytes} :
    memReadN (memWriteN m a (bs ++ cs)) a bs.length = bs := by
  induction bs generalizing m a with
  | nil => rfl
  | cons b bs ih =>
    show memRead (memWriteN (memWrite m a b) (a + 1) (bs ++ cs)) a ::
      memReadN (memWriteN (memWrite m a b) (a + 1) (bs ++ cs)) (a + 1) bs.length = _
    rw [memRead_memWriteN_out (by omega), memRead_memWrite_self, ih]

/-- Bytes below a cleared range stay. -/
theorem memRead_memClear_below {m : List Host.Cell} {a n c : Nat} (h : c < a) : memRead (memClear m a n) c = memRead m c := by
  unfold memRead memClear Tbl.get
  rw [Tbl.find_filter_key (fun k => decide (k < a) || decide (a + n ≤ k)) m c, if_pos (by simp [h])]

/-- Pieces written from an address on leave every byte below them. -/
theorem memRead_pieces_below {base c : Nat} {ps : List (Nat × Bytes)} (h : ∀ p ∈ ps, c < base + p.1) (m : List Host.Cell) :
    memRead (ps.foldl (fun m p => memWriteN m (base + p.1) p.2) m) c = memRead m c := by
  induction ps generalizing m with
  | nil => rfl
  | cons p ps ih =>
    rw [List.foldl_cons, ih fun q hq => h q (List.mem_cons_of_mem _ hq), memRead_memWriteN_out (.inl (h p List.mem_cons_self))]

/-- R405: an image leaves every byte below it. -/
theorem memRead_putImage_below {base size c : Nat} (h : c < base) (ps : List (Nat × Bytes)) (m : List Host.Cell) :
    memRead (putImage base size ps m) c = memRead m c := by
  unfold putImage
  rw [memRead_pieces_below fun p _ => by omega, memRead_memClear_below h]

/-- R405: an image begins with its header, which its other pieces lie behind. -/
theorem memReadN_putImage_head {base size : Nat} {bs cs : Bytes} {ps : List (Nat × Bytes)} (h : ∀ p ∈ ps, bs.length ≤ p.1)
    (m : List Host.Cell) : memReadN (putImage base size ((0, bs ++ cs) :: ps) m) base bs.length = bs := by
  unfold putImage
  rw [List.foldl_cons, memReadN_congr (m' := memWriteN (memClear m base size) base (bs ++ cs)) fun c _ hi => ?_]
  · exact memReadN_memWriteN_append
  · exact memRead_pieces_below (fun p hp => by have := h p hp; omega) _

/-- R405: the first 8 bytes of a module image. -/
def imgStart (s : State) : Bytes := leBytes 1 s.rst.cause ++ leBytes 1 s.rst.ctx ++ leBytes 2 0 ++ leBytes 4 s.log.resets

theorem imgStart_length (s : State) : (imgStart s).length = 8 := by
  simp [imgStart, leBytes_length]

/-- R405: the rest of the header of a module image. -/
def imgHeaderRest (s : State) : Bytes :=
  leBytes 8 s.rst.detectFtw.toNat ++ leBytes 8 s.rst.fenceFtw.toNat ++ leBytes 8 s.rst.dumpFtw.toNat ++ leBytes 32 0
    ++ padTo 64 s.rst.record

theorem imgHeader_eq (s : State) : imgHeader s = imgStart s ++ imgHeaderRest s := by
  simp only [imgHeader, imgStart, imgHeaderRest, List.append_assoc]

/-- R405: the pieces of a queue lie in its section. -/
theorem imgQueue_from (s : State) (q : Nat) (x : Queue) (off : Nat) : ∀ p ∈ imgQueue s q x off, off ≤ p.1 := by
  unfold imgQueue
  extract_lets w regs cs idx
  intro p hp
  rcases List.mem_cons.mp hp with rfl | hp
  · exact Nat.le_refl _
  · obtain ⟨ic, -, hp⟩ := List.mem_flatMap.mp hp
    simp only [List.mem_cons, List.not_mem_nil, or_false] at hp
    rcases hp with rfl | rfl
    · show off ≤ off + 512 + 64 * ic.1
      omega
    · show off ≤ off + 4096 + 512 * ic.1
      omega

/-- R406: the pieces of a core lie in its section. -/
theorem imgCore_from (c : Core) (off : Nat) : ∀ p ∈ imgCore c off, off ≤ p.1 := by
  intro p hp
  unfold imgCore at hp
  simp only [List.mem_cons, List.not_mem_nil, or_false] at hp
  rcases hp with rfl | rfl | rfl | rfl | rfl | rfl | rfl | rfl
  all_goals
    dsimp only
    omega

/-- The free bytes of a region lie in it. -/
theorem freeRegion_from (s : State) (n off size : Nat) : ∀ p ∈ freeRegion s n off size, off ≤ p.1 := by
  intro p hp
  obtain ⟨b, -, rfl⟩ := List.mem_map.mp hp
  exact Nat.le_add_right off b.1

/-- R405: behind its header a module image holds pieces from 0x10000 on. -/
theorem moduleImage_pieces (s : State) : ∃ ps, moduleImage s = (0, imgStart s ++ imgHeaderRest s) :: ps ∧ ∀ p ∈ ps, 8 ≤ p.1 := by
  refine ⟨_, by rw [moduleImage, imgHeader_eq]; rfl, fun p hp => ?_⟩
  simp only [List.append_eq, List.mem_append] at hp
  rcases hp with (((((hp | hp) | hp) | hp) | hp) | hp) | hp
  · obtain rfl := List.mem_singleton.mp hp
    show 8 ≤ 0x10000
    omega
  · obtain ⟨e, -, rfl⟩ := List.mem_map.mp hp
    show 8 ≤ 0x100000 + 8 * e.1
    omega
  · obtain ⟨q, -, hp⟩ := List.mem_flatMap.mp hp
    have := imgQueue_from _ _ _ _ p hp
    omega
  · obtain ⟨c, -, hp⟩ := List.mem_flatMap.mp hp
    have := imgCore_from _ _ p hp
    omega
  all_goals
    have := freeRegion_from _ _ _ _ p hp
    omega

/-- R404, R405: what the Dump stage writes when the reset named no context; d is the dump area, b whether image B is written. -/
theorem execResetDump_dumps {s : State} {d img : Nat} {b : Bool} (stage : s.rst.stage = .fenced) (named : s.rst.named = [])
    (hd : d = dumpBase s.id) (hb : b = (memRead s.mem (d + 8) == 0)) (hi : img = d + (if b then 0x8200000 else 0x200000)) :
    ∃ t, execResetDump s = .next t ∧ t.rst.stage = .dumped ∧ t.rst.dumpFtw = s.ftw ∧ memRead t.mem (d + 8) = (if b then 1 else 0) ∧
      memReadN t.mem (d + (if b then 24 else 16)) 8 = leBytes 8 (2 ^ 63 + s.log.resets) ∧ memReadN t.mem img 8 = imgStart s ∧
      (∀ a, a < d → memRead t.mem a = memRead s.mem a) ∧ t = { s with rst := t.rst, mem := t.mem, free := t.free } := by
  unfold execResetDump
  rw [if_neg (not_not.mpr stage)]
  extract_lets d' b' r s1 slot m1 m2 m3 s2
  obtain rfl : d' = d := hd.symm
  obtain rfl : b' = b := hb.symm
  have unnamed : s2.rst.named = [] := named
  rw [unnamed, List.foldl_nil]
  have slotLow : d' + 16 ≤ slot ∧ slot ≤ d' + 24 := by
    unfold slot
    cases b' <;> simp
  have imgHigh : d' + 32 ≤ img := by
    rw [hi]
    cases b' <;> simp
  have newest (a : Nat) (h : a ≠ d' + 8) : memRead s2.mem a = memRead m3 a := memRead_memWrite_ne h
  have complete (a : Nat) (h : a < slot ∨ slot + 8 ≤ a) : memRead m3 a = memRead m2 a :=
    memRead_memWriteN_out (by rwa [leBytes_length])
  have cleared (a : Nat) (h : a < slot) : memRead m1 a = memRead s.mem a := memRead_memWriteN_out (.inl h)
  refine ⟨s2, rfl, rfl, rfl, memRead_memWrite_self, ?_, ?_, fun a ha => ?_, rfl⟩
  · have written : memReadN m3 slot (leBytes 8 (2 ^ 63 + s.log.resets)).length = leBytes 8 (2 ^ 63 + s.log.resets) := memReadN_memWriteN
    rw [leBytes_length] at written
    exact (memReadN_congr fun a lo _ => newest a (by omega)).trans written
  · obtain ⟨ps, image, behind⟩ := moduleImage_pieces s1
    have written : memReadN m2 img (imgStart s1).length = imgStart s1 := by
      unfold m2
      rw [image, hi]
      exact memReadN_putImage_head (by rwa [imgStart_length]) m1
    rw [imgStart_length] at written
    exact (memReadN_congr fun a lo _ => (newest a (by omega)).trans (complete a (by omega))).trans written
  · rw [newest a (by omega), complete a (by omega), memRead_putImage_below (by rw [← hi]; omega), cleared a (by omega)]

/-! ### Reset (R127, R295, R391, R396) -/

theorem execResetComputeDomain_other {s : State} (h : s.rst.stage ≠ .dumped) : execResetComputeDomain s = .next s := by
  unfold execResetComputeDomain
  rw [if_pos h]

/-- R127, R391, R396: what the Reset stage leaves. -/
theorem execResetComputeDomain_resets {s : State} (stage : s.rst.stage = .dumped) : ∃ t, execResetComputeDomain s = .next t ∧
    t.rst = { s.rst with stage := .reset, resetU := s.tb.nowU } ∧ t.cores = [] ∧ t.saved = [] ∧ t.streams = [] ∧
    t.banks = resetBanks (markLoads s) ∧ t.pref = s.pref.filter (fun l => !l.mica) ∧ t.pow.hints = [] ∧
    (∀ k c, findCmd s k = some c → findCmd t k = some { c with prog := { next := c.prog.next }, preempted := false, oldUcode := false }) ∧
    t = { s with rst := t.rst, cores := t.cores, saved := t.saved, streams := t.streams, banks := t.banks, pref := t.pref, pow := t.pow,
                 cmds := t.cmds } := by
  unfold execResetComputeDomain
  rw [if_neg (not_not.mpr stage)]
  refine ⟨_, rfl, rfl, rfl, rfl, rfl, rfl, rfl, rfl, fun k c found => ?_, rfl⟩
  refine (findCmd_map (s := s) rfl ?_ k).trans (by rw [found, Option.map_some])
  exact fun _ => rfl

end Sys2Proof.Machine
end

section
/-!
The Resume stage of a compute reset (O59): the outcome of each command that had started, and what is reported.
-/
namespace Sys2Proof.Machine

/-! ### The outcome of a command (R397-R399) -/

/-- Nothing but commands, the fabric, memory with its cached lines, and the count of free values has changed. -/
def ReplayOnly (s t : State) : Prop :=
  t = { s with cmds := t.cmds, fab := t.fab, mem := t.mem, lines := t.lines, pref := t.pref, free := t.free }

theorem ReplayOnly.refl (s : State) : ReplayOnly s s := rfl

theorem ReplayOnly.trans {a b c : State} (h : ReplayOnly a b) (g : ReplayOnly b c) : ReplayOnly a c := by
  unfold ReplayOnly at *
  rw [g, h]

theorem MemOnly.replays {s t : State} (h : MemOnly s t) : ReplayOnly s t := by
  unfold MemOnly at h
  unfold ReplayOnly
  rw [h]

theorem MemOnly.find {s t : State} (h : MemOnly s t) (j : Nat) : findCmd t j = findCmd s j := by
  refine findCmd_congr ?_ j
  rw [h]

/-- R397: a command that waits again for its engine. -/
def Cmd.replayed (c : Cmd) : Cmd := { c with st := .fetched, begun := false, replay := true, wdog := 0, prog := { replay := true } }

/-- R397, R403: the status with which a command ends at Resume. -/
def resumeStatus (s : State) (c : Cmd) : Nat := if (getCtx s c.ctx).st = .draining then 0x0010 else 0x0011

section
variable {s : State} {k : Nat} {c : Cmd}

/-- R397: a command that had not started is left alone. -/
theorem resumeCmd_idle (h : ∀ c, findCmd s k = some c → c.st ≠ .started) : resumeCmd s k = s := by
  unfold resumeCmd
  split
  · rfl
  · rename_i c found
    rw [if_pos (h c found)]

/-- R397, R398: a command that is replayed. -/
theorem resumeCmd_replays (found : findCmd s k = some c) (replayed : replays s c = true) : resumeCmd s k =
    if replayUnsafe c then havocMem c.ctx (modCmd k Cmd.replayed s) else modCmd k Cmd.replayed s := by
  have started : c.st = .started := by
    simp only [replays, Bool.and_eq_true, decide_eq_true_eq] at replayed
    exact replayed.1.1.1
  unfold resumeCmd
  simp only [found, started, replayed, if_true, ne_eq, not_true_eq_false, if_false]
  rfl

/-- R397, R399: a command that is not replayed ends. -/
theorem resumeCmd_ends (found : findCmd s k = some c) (started : c.st = .started) (other : replays s c = false) :
    resumeCmd s k = abortCmd k (resumeStatus s c) (havocMem c.ctx s) := by
  unfold resumeCmd
  simp only [found, started, other, ne_eq, not_true_eq_false, if_false, Bool.false_eq_true]
  rfl

theorem findCmd_resumeCmd_replays (found : findCmd s k = some c) (replayed : replays s c = true) :
    findCmd (resumeCmd s k) k = some c.replayed := by
  have waits : findCmd (modCmd k Cmd.replayed s) k = some c.replayed := by
    rw [findCmd_modCmd_self (by intro c; rfl), found]
    rfl
  rw [resumeCmd_replays found replayed]
  split
  · rw [(havocMem_memOnly _ _).find, waits]
  · exact waits

theorem resumeCmd_ended (found : findCmd s k = some c) (started : c.st = .started) (other : replays s c = false) :
    (resumeCmd s k).ended k (resumeStatus s c) := by
  rw [resumeCmd_ends found started other]
  exact abortCmd_ended (((havocMem_memOnly _ _).find k).trans found) _

/-- R397: every other command is as it was. -/
theorem resumeCmd_othersSame (s : State) (k : Nat) : s.othersSame (resumeCmd s k) k := by
  intro j hj
  unfold resumeCmd
  split
  · rfl
  · dsimp only
    split
    · rfl
    · split
      · split
        · rw [(havocMem_memOnly _ _).find, findCmd_modCmd_ne (by intro c; rfl) hj]
        · exact findCmd_modCmd_ne (by intro c; rfl) hj
      · rw [abortCmd_othersSame _ _ _ j hj, (havocMem_memOnly _ _).find]

theorem abortCmd_replayOnly (k status : Nat) (s : State) : ReplayOnly s (abortCmd k status s) := by
  unfold ReplayOnly
  rw [abortCmd_frame]

theorem resumeCmd_replayOnly (s : State) (k : Nat) : ReplayOnly s (resumeCmd s k) := by
  unfold resumeCmd
  split
  · rfl
  · dsimp only
    split
    · rfl
    · split
      · split
        · exact ReplayOnly.trans (b := modCmd k _ s) rfl (havocMem_memOnly _ _).replays
        · rfl
      · exact (havocMem_memOnly _ _).replays.trans (abortCmd_replayOnly _ _ _)

end

/-! ### The outcomes of all (R397) -/

/-- R397: whether a command is replayed is a matter of the command and its context. -/
theorem replays_congr {s t : State} (h : t.ctxs = s.ctxs) (c : Cmd) : replays t c = replays s c := by
  unfold replays
  rw [getCtx_congr h]

theorem resumeStatus_congr {s t : State} (h : t.ctxs = s.ctxs) (c : Cmd) : resumeStatus t c = resumeStatus s c := by
  unfold resumeStatus
  rw [getCtx_congr h]

/-- R397: the outcomes of a list of commands, in turn. -/
def resumeAll (ks : List Nat) (s : State) : State := ks.foldl resumeCmd s

theorem resumeAll_replayOnly (ks : List Nat) (s : State) : ReplayOnly s (resumeAll ks s) :=
  foldl_rel ReplayOnly.refl (fun _ _ _ => ReplayOnly.trans) resumeCmd_replayOnly ks s

/-- R397: a command that had not started is found as it was. -/
theorem findCmd_resumeAll_idle {s : State} {k : Nat} {c : Cmd} (found : findCmd s k = some c) (idle : c.st ≠ .started) (ks : List Nat) :
    findCmd (resumeAll ks s) k = some c := by
  refine foldl_of (P := fun u => findCmd u k = some c) (fun u j hu => ?_) found
  by_cases hj : k = j
  · subst hj
    rw [resumeCmd_idle (fun d hd => by rwa [Option.some.inj (hd.symm.trans hu)])]
    exact hu
  · exact (resumeCmd_othersSame u j k hj).trans hu

/-- R397: a command of the list that had started is found as its outcome leaves it. -/
theorem findCmd_resumeAll_started {s : State} {k : Nat} {c : Cmd} {P : Cmd → Prop} {ks : List Nat} (hk : k ∈ ks)
    (found : findCmd s k = some c)
    (outcome : ∀ u : State, u.ctxs = s.ctxs → findCmd u k = some c → ∃ d, findCmd (resumeCmd u k) k = some d ∧ d.st ≠ .started ∧ P d) :
    ∃ d, findCmd (resumeAll ks s) k = some d ∧ P d := by
  suffices ∀ (u : State), u.ctxs = s.ctxs → findCmd u k = some c → ∃ d, findCmd (resumeAll ks u) k = some d ∧ P d from this s rfl found
  induction ks with
  | nil => cases hk
  | cons j ks ih =>
    intro u ctxs hu
    by_cases hj : k = j
    · subst hj
      obtain ⟨d, hd, idle, hp⟩ := outcome u ctxs hu
      exact ⟨d, findCmd_resumeAll_idle hd idle ks, hp⟩
    · refine ih ((List.mem_cons.mp hk).resolve_left hj) (resumeCmd u j) ?_ ((resumeCmd_othersSame u j k hj).trans hu)
      rw [resumeCmd_replayOnly u j]
      exact ctxs

/-- R398: from s to u memory and contexts stay, and every command that is still started is one whose replay is safe. -/
def SafelyResumed (s u : State) : Prop := u.mem = s.mem ∧ u.ctxs = s.ctxs ∧
  ∀ k c, findCmd u k = some c → c.st = .started → replays s c = true ∧ replayUnsafe c = false

theorem SafelyResumed.next {s u : State} (h : SafelyResumed s u) (j : Nat) : SafelyResumed s (resumeCmd u j) := by
  obtain ⟨mem, ctxs, all⟩ := h
  by_cases started : ∃ c, findCmd u j = some c ∧ c.st = .started
  · obtain ⟨c, found, st⟩ := started
    obtain ⟨again, harmless⟩ := all j c found st
    have now : replays u c = true := (replays_congr ctxs c).trans again
    have row : resumeCmd u j = modCmd j Cmd.replayed u := by
      rw [resumeCmd_replays found now, harmless, if_neg Bool.false_ne_true]
    refine ⟨by rw [row]; exact mem, by rw [row]; exact ctxs, fun k d hd hst => ?_⟩
    by_cases hk : k = j
    · subst hk
      rw [findCmd_resumeCmd_replays found now] at hd
      cases hd
      cases hst
    · exact all k d ((resumeCmd_othersSame u j k hk).symm.trans hd) hst
  · rw [resumeCmd_idle fun c found st => started ⟨c, found, st⟩]
    exact ⟨mem, ctxs, all⟩

/-- R397, R398: when every started command is replayed safely, memory stays. -/
theorem resumeAll_mem {s : State} (safe : ∀ k c, findCmd s k = some c → c.st = .started → replays s c = true ∧ replayUnsafe c = false)
    (ks : List Nat) : (resumeAll ks s).mem = s.mem :=
  (foldl_of (P := SafelyResumed s) (fun _ j h => h.next j) ⟨rfl, rfl, safe⟩ : SafelyResumed s (resumeAll ks s)).1

/-! ### The row (R389, R392, R394, R408) -/

/-- Nothing but stage-queue ends and the fabric has changed. -/
def EndsOnly (s t : State) : Prop := ∃ e f, t = { s with ends := e, fab := f }

theorem EndsOnly.refl (s : State) : EndsOnly s s := ⟨_, _, rfl⟩

theorem EndsOnly.trans {a b c : State} (h : EndsOnly a b) (g : EndsOnly b c) : EndsOnly a c := by
  obtain ⟨e, f, rfl⟩ := h
  obtain ⟨e', f', rfl⟩ := g
  exact ⟨e', f', rfl⟩

theorem FabOnly.ends {s t : State} (h : FabOnly s t) : EndsOnly s t := by
  obtain ⟨f, rfl⟩ := h
  exact ⟨_, f, rfl⟩

theorem modEnd_ends (e : Nat) (f : StageEnd → StageEnd) (s : State) : EndsOnly s (modEnd e f s) := by
  unfold modEnd
  split
  · exact .refl s
  · exact ⟨_, _, rfl⟩

theorem sendHead_ends (e : Nat) (s : State) : EndsOnly s (sendHead e s) := by
  unfold sendHead
  split
  · exact .refl s
  · split
    · exact .refl s
    · split
      · exact .refl s
      · exact (request_fab _ _ _ _ _ _ _ _ _ _ _ _ s).ends.trans (modEnd_ends _ _ _)

/-- R394: the adds of an end that are sent at Resume. -/
theorem resendHeld_ends (s : State) (e : Nat) : EndsOnly s (resendHeld s e) := by
  unfold resendHeld
  split
  · exact .refl s
  · split
    · exact .refl s
    · split
      · exact .refl s
      · exact sendHead_ends e s

/-- R301: without feeds no slot is held. -/
theorem releaseSlots_none {s : State} (h : s.feeds = []) : releaseSlots s = s := by
  unfold releaseSlots
  rw [h, List.foldl_nil]

theorem postNamed_host (s : State) (n : Nat × Bytes) : HostOnly s (postNamed s n) := by
  unfold postNamed
  split
  · exact .refl s
  · exact postEvent_host _ _ _ _ s

/-- R392: the machine that is READY again, its commands still as the reset left them. -/
def State.readied (s : State) : State := { s with rst := {}, mb := .ready, pow := { s.pow with idleU := none } }

/-- The commands that had started. -/
def startedKeys (s : State) : List Nat := (s.cmds.filter fun c => decide (c.st = .started)).map (·.k)

theorem mem_startedKeys {s : State} {k : Nat} {c : Cmd} (found : findCmd s k = some c) (started : c.st = .started) :
    k ∈ startedKeys s :=
  List.mem_map.mpr ⟨c, List.mem_filter.mpr ⟨List.mem_of_find?_eq_some found, decide_eq_true started⟩, findCmd_k found⟩

/-- R389, R394, R408: one log entry has been written; stage-queue ends, the fabric and the functions' events may have changed. -/
def EndReported (s t : State) : Prop := ∃ e f g m l, t = { s with ends := e, fab := f, fns := g, msix := m, log := l } ∧
  l.next = s.log.next + 1

/-- R392, R397: Resume: STATE, the outcomes of commands, the adds of ends, events and one log entry. -/
theorem execResetResume_resumes {s : State} (stage : s.rst.stage = .reset) (cool : s.pow.tripHold = false) (unfed : s.feeds = []) :
    ∃ t, execResetResume s = .next t ∧ EndReported (resumeAll (startedKeys s) s.readied) t := by
  unfold execResetResume
  rw [if_neg (by simp [stage, cool])]
  extract_lets r started again p s1 s2 s3 s4 s5
  refine ⟨_, rfl, ?_⟩
  have outcomes : ReplayOnly s.readied s1 := resumeAll_replayOnly (startedKeys s) s.readied
  show EndReported s1 _
  have resent : EndsOnly s1 ((s1.ends.map (·.1)).foldl resendHeld s1) :=
    foldl_rel EndsOnly.refl (fun _ _ _ => EndsOnly.trans) resendHeld_ends _ s1
  have released : EndsOnly s1 s2 := by
    unfold s2
    obtain ⟨e, f, h⟩ := resent
    rw [h, releaseSlots_none]
    · exact ⟨e, f, rfl⟩
    · rw [outcomes]
      exact unfed
  have noticed : EndsOnly s1 s3 := released.trans (resetNotice_fab 1 r.cause s2).ends
  obtain ⟨e, f, noticed⟩ := noticed
  obtain ⟨g, m, posted⟩ := (postAll_host 0x8031 0 [0] s4).trans (foldl_host postNamed_host r.named s5)
  refine ⟨e, f, g, m, s4.log, ?_, ?_⟩
  · rw [posted]
    unfold s4
    rw [noticed]
    rfl
  · unfold s4
    rw [noticed]
    rfl

theorem execResetResume_other {s : State} (h : s.rst.stage ≠ .reset ∨ s.pow.tripHold = true) : execResetResume s = .next s := by
  unfold execResetResume
  rw [if_pos h]

/-- Settles O59: the row of each stage, and for Resume the outcome of each command, by induction over the started ones. -/
theorem computeResetRunsItsStages : Obligations.ComputeResetRunsItsStages := by
  unfold Obligations.ComputeResetRunsItsStages
  refine fun s => ⟨fun die runs unit idle ready => ⟨?error, fun k c found => ⟨fun started own => ?commandError, fun other => ?noError⟩⟩,
    execResetFence_fences, execResetFence_other, fun d b img stage named hd hb hi => execResetDump_dumps stage named hd hb hi,
    execResetDump_other, execResetComputeDomain_resets, execResetComputeDomain_other, fun stage cool unfed => ?resume, execResetResume_other⟩
  case error =>
    obtain ⟨only, mb, detected, cause, ctx, resets, f, -⟩ := startReset_begins idle ready 2 { unit := die.toNat } rfl
    exact ⟨_, execUnitError_runs runs unit .none, mb, detected, cause, ctx, resets, by rw [only], by rw [only], by rw [only], f⟩
  case commandError =>
    have row : execUnitError die (some k) s = .next (startReset 2 (cmdFaultRec s c stUnitError {}) s) := by
      rw [execUnitError_runs runs unit]
      simp only [found]
      rw [if_pos ⟨started, own⟩]
    obtain ⟨-, mb, detected, cause, ctx, -, -, failed⟩ := startReset_begins idle ready 2 (cmdFaultRec s c stUnitError {}) rfl
    exact ⟨_, row, mb, detected, cause, ctx, fun active some => failed some active⟩
  case noError =>
    show execUnitError die (some k) s = _
    rw [execUnitError_runs runs unit]
    simp only [found]
    rw [if_neg (by tauto)]
  case resume =>
    obtain ⟨t, row, e, f, g, m, l, rfl, next⟩ := execResetResume_resumes stage cool unfed
    have outcomes := resumeAll_replayOnly (startedKeys s) s.readied
    refine ⟨_, row, ?_, ?_, next.trans ?_, fun k c found => ⟨fun idle => ?_, fun started replayed => ?_, fun started other => ?_⟩, fun safe => ?_,
      ?_, ?_, ?_⟩
    · rw [outcomes]; rfl
    · rw [outcomes]; rfl
    · rw [outcomes]; rfl
    · exact findCmd_resumeAll_idle (s := s.readied) found idle _
    · obtain ⟨d, hd, rfl⟩ := findCmd_resumeAll_started (s := s.readied) (P := fun d => d = c.replayed) (mem_startedKeys found started)
        found fun u ctxs hu => ⟨_, findCmd_resumeCmd_replays hu ((replays_congr ctxs c).trans replayed), nofun, rfl⟩
      exact hd
    · obtain ⟨d, hd, done, status⟩ := findCmd_resumeAll_started (s := s.readied)
        (P := fun d => d.st = .done ∧ d.status = BitVec.ofNat 16 (resumeStatus s c)) (mem_startedKeys found started) found
        fun u ctxs hu => by
          obtain ⟨d, hd, done, status⟩ := resumeCmd_ended hu started ((replays_congr ctxs c).trans other)
          rw [resumeStatus_congr (s := s) ctxs] at status
          exact ⟨d, hd, by simp [done], done, status⟩
      exact ⟨d, hd, done, status⟩
    · exact resumeAll_mem (s := s.readied) (fun k c found started => safe c (List.mem_of_find?_eq_some found) started) _
    · rw [outcomes]; rfl
    · rw [outcomes]; rfl
    · rw [outcomes]; rfl

end Sys2Proof.Machine
end

section
/-!
What the work of a run of the matrix arrays does to the machine beside its output (O24): its stream queues, its issue credit, and
what its vectors leave alone.
-/
namespace Sys2Proof.Machine

/-! ### Work that goes through -/

/-- Every result of work that goes through lies in a relation to the machine before it. -/
def Leads {α : Type} (R : State → State → Prop) (x : EngM α) : Prop := ∀ e a f, x e = .ok a f → R e.s f.s

/-- Work that goes through has gone through its first part. -/
theorem ok_of_bind {α β : Type} {x : EngM α} {g : α → EngM β} {e f : Eng} {b : β} (h : (x >>= g) e = .ok b f) :
    ∃ a u, x e = .ok a u ∧ g a u = .ok b f := by
  cases hx : x e with
  | ok a u => exact ⟨a, u, rfl, (bind_ok hx).symm.trans h⟩
  | error r u => rw [bind_error hx] at h; cases h

/-- Nothing but memory with its cached lines, the count of free values, commands and stream queues has changed. -/
def RunOnly (s t : State) : Prop :=
  t = { s with mem := t.mem, lines := t.lines, pref := t.pref, free := t.free, cmds := t.cmds, streams := t.streams }

theorem RunOnly.refl (s : State) : RunOnly s s := rfl

theorem RunOnly.trans {a b c : State} (h : RunOnly a b) (g : RunOnly b c) : RunOnly a c := by
  unfold RunOnly at *
  rw [g, h]

theorem RunOnly.clusters_eq {s t : State} (h : RunOnly s t) : t.clusters = s.clusters := by rw [h]

theorem MemOnly.runs {s t : State} (h : MemOnly s t) : RunOnly s t := by
  unfold MemOnly at h
  unfold RunOnly
  rw [h]

section
variable {α β : Type} {x : EngM α} {g : α → EngM β}

theorem leads_pure {a : α} : Leads RunOnly (pure a : EngM α) := by
  intro e b f h
  cases h
  exact .refl _

theorem leads_bind (hx : Leads RunOnly x) (hg : ∀ a, Leads RunOnly (g a)) : Leads RunOnly (x >>= g) := by
  intro e b f h
  obtain ⟨a, u, hu, hf⟩ := ok_of_bind h
  exact (hx e a u hu).trans (hg a u b f hf)

theorem leads_ite {p : Prop} [Decidable p] {y : EngM α} (hx : Leads RunOnly x) (hy : Leads RunOnly y) :
    Leads RunOnly (if p then x else y) := by
  split
  · exact hx
  · exact hy

theorem leads_getS : Leads RunOnly getS := by
  intro e s f h
  cases h
  exact .refl _

theorem leads_getMode : Leads RunOnly getMode := by
  intro e s f h
  cases h
  exact .refl _

theorem leads_modS {f : State → State} (h : ∀ s, RunOnly s (f s)) : Leads RunOnly (modS f) := by
  intro e a u k
  cases k
  exact h e.s

theorem leads_forM {l : List β} {f : β → EngM Unit} (h : ∀ b, Leads RunOnly (f b)) : Leads RunOnly (l.forM f) := by
  induction l with
  | nil => exact leads_pure
  | cons b l ih => exact leads_bind (h b) fun _ => ih

theorem leads_of_only (h : EO x) : Leads RunOnly x := fun e a f hf => (h e a f hf).1.runs

end

theorem leads_readV (va n : Nat) : Leads RunOnly (readV va n) := leads_of_only fun _ _ _ => readV_only

theorem leads_writeV (va : Nat) (bs : Bytes) : Leads RunOnly (writeV va bs) := leads_of_only fun _ _ _ => writeV_only

theorem leads_noteEv (group elem role lane : Nat) (ev : Ev) : Leads RunOnly (noteEv group elem role lane ev) := by
  intro e a f h
  cases h
  exact .refl _

theorem leads_noteEvsAt (group first role : Nat) (lane : Nat → Nat) (evs : List Ev) :
    Leads RunOnly (noteEvsAt group first role lane evs) := leads_forM fun _ => leads_noteEv _ _ _ _ _

/-! ### Stream queues (R122, R123) -/

/-- Bytes have moved between a command and its stream queues: of the command only its buffers have changed. -/
def StreamStep (k : Nat) (s t : State) : Prop := (∃ cs q, t = { s with cmds := cs, streams := q }) ∧
  ∀ d, findCmd s k = some d → ∃ p, findCmd t k = some { d with prog := p } ∧ p.next = d.prog.next ∧ p.segment = d.prog.segment

theorem StreamStep.refl (k : Nat) (s : State) : StreamStep k s s := ⟨⟨_, _, rfl⟩, fun d h => ⟨d.prog, h, rfl, rfl⟩⟩

theorem StreamStep.runs {k : Nat} {s t : State} (h : StreamStep k s t) : RunOnly s t := by
  obtain ⟨⟨cs, q, rfl⟩, -⟩ := h
  rfl

/-- A change of a queue and of the buffers of the command. -/
theorem streamStep_of_buffers {k : Nat} {s t : State} {f : Progress → Progress} (q : Tbl Bytes)
    (ht : t = modProg k f { s with streams := q }) (hf : ∀ p, (f p).next = p.next ∧ (f p).segment = p.segment) : StreamStep k s t := by
  subst ht
  refine ⟨⟨_, q, rfl⟩, fun d h => ⟨f d.prog, ?_, hf d.prog⟩⟩
  refine (findCmd_modCmd_self (by intro c; rfl)).trans ?_
  exact (congrArg (Option.map _) h : _)

/-- Work that always goes through and only moves bytes between command k and its stream queues. -/
def Streams {α : Type} (k : Nat) (x : EngM α) : Prop := ∀ e, ∃ a t, x e = .ok a { e with s := t } ∧ StreamStep k e.s t

theorem Streams.leads {α : Type} {k : Nat} {x : EngM α} (h : Streams k x) : Leads RunOnly x := by
  intro e a f hf
  obtain ⟨b, t, ht, step⟩ := h e
  rw [ht] at hf
  cases hf
  exact step.runs

theorem flushTo_streams (c : Cmd) (pair dir : Nat) : Streams c.k (flushTo c pair dir) := by
  intro e
  unfold flushTo
  rw [getS_bind]
  cases findCmd e.s c.k with
  | none => exact ⟨_, e.s, rfl, .refl _ _⟩
  | some d =>
    dsimp only
    split
    · exact ⟨_, e.s, rfl, .refl _ _⟩
    · exact ⟨_, _, rfl, streamStep_of_buffers _ rfl fun _ => ⟨rfl, rfl⟩⟩

theorem flushOut_streams (c : Cmd) : Streams c.k (flushOut c) := flushTo_streams c _ _

theorem outputReady_streams (c : Cmd) : Streams c.k (outputReady c) := by
  intro e
  unfold outputReady
  by_cases hy : runYstream c = true
  · obtain ⟨went, t, flushed, step⟩ := flushOut_streams c e
    rw [if_pos hy, bind_ok flushed, getS_bind]
    exact ⟨_, t, rfl, step⟩
  · rw [if_neg hy]
    exact ⟨true, e.s, rfl, .refl _ _⟩

/-- R122: a vector that comes from a stream. -/
theorem readInput_streams {c : Cmd} (hx : runXstream c = true) (kind : RunKind) (b : Bank) (m : Nat) :
    Streams c.k (readInput kind c b m) := by
  intro e
  unfold readInput
  dsimp only
  rw [if_pos hx]
  exact ⟨_, _, rfl, streamStep_of_buffers _ rfl fun _ => ⟨rfl, rfl⟩⟩

/-- R132: a vector that comes from memory. -/
theorem readInput_only {c : Cmd} (hx : ¬runXstream c = true) (kind : RunKind) (b : Bank) (m : Nat) : EO (readInput kind c b m) := by
  unfold readInput
  extract_lets f n need
  rw [if_neg hx]
  refine eo_bind (fun _ _ _ => readV_only) fun bs => ?_
  split
  · exact eo_bind (fun _ _ _ => readV_only) fun _ => eo_pure
  · exact eo_bind eo_pure fun _ => eo_pure

theorem leads_readInput (kind : RunKind) (c : Cmd) (b : Bank) (m : Nat) : Leads RunOnly (readInput kind c b m) := by
  by_cases hx : runXstream c = true
  · exact (readInput_streams hx kind b m).leads
  · exact leads_of_only (readInput_only hx kind b m)

/-! ### Vectors (R116-R121) -/

theorem leads_modProg (k : Nat) (f : Progress → Progress) : Leads RunOnly (modS (modProg k f)) := leads_modS fun _ => rfl

theorem leads_initialAcc (c : Cmd) (lane : Nat → Nat) (f : Fmt) (rm : RM) (m n : Nat) : Leads RunOnly (initialAcc c lane f rm m n) := by
  unfold initialAcc
  refine leads_ite ?_ leads_pure
  refine leads_bind (leads_readV _ _) fun bs => ?_
  split
  · exact leads_bind (leads_readV _ _) fun _ => leads_bind (leads_noteEvsAt _ _ _ _ _) fun _ => leads_pure
  · exact leads_bind leads_pure fun _ => leads_bind (leads_noteEvsAt _ _ _ _ _) fun _ => leads_pure

theorem leads_noteAccs (m first : Nat) (as : List Acc) : Leads RunOnly (noteAccs m first as) :=
  leads_forM fun _ => leads_forM fun _ => leads_noteEv _ _ _ _ _

theorem leads_noteStream (m first : Nat) (tile : Nat → Nat) (xs : List (Int × List (Bool × Nat × Bool) × Option Ev × Ev)) :
    Leads RunOnly (noteStream m first tile xs) := leads_forM fun _ => leads_bind (leads_noteEv _ _ _ _ _) fun _ => leads_noteEv _ _ _ _ _

theorem leads_writeOutput (c : Cmd) (lane : Nat → Nat) (src : Nat) (rm : RM) (m row : Nat) (vals : List FV) :
    Leads RunOnly (writeOutput c lane src rm m row vals) := by
  unfold writeOutput
  refine leads_bind (leads_noteEvsAt _ _ _ _ _) fun _ => leads_ite ?_ ?_
  · exact leads_bind (leads_modProg _ _) fun _ => leads_bind (flushOut_streams c).leads fun _ => leads_pure
  · exact leads_bind (leads_writeV _ _) fun _ => leads_writeV _ _

theorem leads_strictCol (c : Cmd) (b : Bank) (n : Nat) : Leads RunOnly (strictCol c b n) := by
  unfold strictCol
  split
  · refine leads_bind (leads_bind (leads_readV _ _) fun _ => ?_) fun _ => leads_pure
    split
    · exact leads_bind (leads_readV _ _) fun _ => leads_pure
    · exact leads_bind leads_pure fun _ => leads_pure
  · exact leads_bind leads_getS fun _ => leads_pure

theorem leads_strictCols (c : Cmd) (b : Bank) (n : Nat) : Leads RunOnly (strictCols c b n) := by
  induction n with
  | zero => exact leads_pure
  | succ n ih => exact leads_bind ih fun _ => leads_bind (leads_strictCol c b n) fun _ => leads_pure

theorem leads_noteCuts (kind : RunKind) (c : Cmd) (b : Bank) (m : Nat) (lane : Nat → Nat) (x : List MaElem) :
    Leads RunOnly (noteCuts kind c b m lane x) := leads_forM fun _ => leads_ite (leads_noteEv _ _ _ _ _) leads_pure

theorem leads_strictVector (kind : RunKind) (c : Cmd) (b : Bank) (m : Nat) (xs : List MaElem) :
    Leads RunOnly (strictVector kind c b m xs) := by
  unfold strictVector
  refine leads_bind leads_getMode fun _ => leads_bind leads_getS fun _ => leads_bind (leads_noteCuts _ _ _ _ _ _) fun _ =>
    leads_bind (leads_strictCols _ _ _) fun _ => ?_
  have note (m : Nat) (lane : Nat → Nat) (rs : List (FV × List (Nat × Ev))) : Leads RunOnly
      (((List.range rs.length).zip rs).forM fun r => r.2.2.forM fun e => noteEv m (m * rs.length + r.1) e.1 (lane r.1) e.2) :=
    leads_forM fun _ => leads_forM fun _ => leads_noteEv _ _ _ _ _
  cases kind with
  | elementwise => exact leads_bind (leads_noteEvsAt _ _ _ _ _) fun _ => leads_writeOutput _ _ _ _ _ _ _
  | forward =>
    exact leads_bind (leads_initialAcc _ _ _ _ _ _) fun _ => leads_bind (note _ _ _) fun _ => leads_writeOutput _ _ _ _ _ _ _
  | transposed =>
    exact leads_bind (leads_initialAcc _ _ _ _ _ _) fun _ => leads_bind (note _ _ _) fun _ => leads_writeOutput _ _ _ _ _ _ _

theorem leads_forwardVector (c : Cmd) (b : Bank) (m : Nat) (xs : List MaElem) : Leads RunOnly (forwardVector c b m xs) :=
  leads_bind leads_getS fun _ => leads_bind (leads_noteStream _ _ _ _) fun _ => leads_bind (leads_initialAcc _ _ _ _ _ _) fun _ =>
    leads_bind (leads_noteAccs _ _ _) fun _ => leads_writeOutput _ _ _ _ _ _ _

theorem leads_transposedVector (c : Cmd) (b : Bank) (m : Nat) (xs : List MaElem) : Leads RunOnly (transposedVector c b m xs) :=
  leads_bind leads_getS fun _ => leads_bind (leads_noteStream _ _ _ _) fun _ => leads_bind (leads_initialAcc _ _ _ _ _ _) fun _ =>
    leads_bind (leads_noteAccs _ _ _) fun _ => leads_writeOutput _ _ _ _ _ _ _

theorem leads_elemVector (c : Cmd) (b : Bank) (m : Nat) (xs : List MaElem) : Leads RunOnly (elemVector c b m xs) :=
  leads_bind leads_getS fun _ => leads_bind (leads_forM fun _ => leads_forM fun _ => leads_noteEv _ _ _ _ _) fun _ =>
    leads_writeOutput _ _ _ _ _ _ _

/-- R116, R117, R121: a vector's products and its output leave everything but memory, caches and stream queues. -/
theorem leads_vectorOut (kind : RunKind) (c : Cmd) (b : Bank) (m : Nat) (xs : List MaElem) : Leads RunOnly (vectorOut kind c b m xs) := by
  unfold vectorOut
  refine leads_bind leads_getS fun s => ?_
  split
  · exact leads_bind (leads_strictVector _ _ _ _ _) fun _ => leads_modProg _ _
  · cases kind with
    | forward => exact leads_bind (leads_forwardVector _ _ _ _) fun _ => leads_modProg _ _
    | transposed => exact leads_bind (leads_transposedVector _ _ _ _) fun _ => leads_modProg _ _
    | elementwise => exact leads_bind (leads_elemVector _ _ _ _) fun _ => leads_modProg _ _

end Sys2Proof.Machine
end

section
/-!
The issue credit of a run, and its vectors one after another (O24): which vectors issue, and a run that must wait.
-/
namespace Sys2Proof.Machine

/-! ### Issue credit (R125) -/

/-- The least of a number and the values of a list. -/
theorem foldl_min_le {l : List Nat} {g : Nat → Nat} (n : Nat) : l.foldl (fun m i => min m (g i)) n ≤ n ∧
    ∀ i ∈ l, l.foldl (fun m i => min m (g i)) n ≤ g i := by
  induction l generalizing n with
  | nil => simp
  | cons j l ih =>
    obtain ⟨below, each⟩ := ih (min n (g j))
    refine ⟨below.trans (min_le_left _ _), fun i hi => ?_⟩
    rcases List.mem_cons.mp hi with rfl | hi
    · exact below.trans (min_le_right _ _)
    · exact each i hi

/-- R125: a Basalt at f = 0, or a cluster of the run with less credit than one pass takes. -/
def Starved (s : State) (c : Cmd) : Prop :=
  s.pow.f.getD c.basalt 0 = 0 ∨ ∃ i ∈ runClusters s c, creditNow s c.basalt i < 64 * passCycles c

/-- R125: no pass issues at f = 0, nor while a cluster has less credit than a pass takes. -/
theorem passesNow_starved {s : State} {c : Cmd} (h : Starved s c) (n : Nat) : passesNow s c n = 0 := by
  unfold passesNow
  rcases h with h | ⟨i, hi, low⟩
  · rw [if_pos h]
  · split
    · rfl
    · have least := (foldl_min_le (g := fun i => creditNow s c.basalt i / (64 * max 1 (passCycles c))) n).2 i hi
      have few : creditNow s c.basalt i / (64 * max 1 (passCycles c)) = 0 := Nat.div_eq_of_lt (by omega)
      omega

/-- R125: a pass issues only when every cluster of the run has the credit that it takes. -/
theorem passesNow_credit {s : State} {c : Cmd} {n : Nat} (h : 0 < passesNow s c n) : ∀ i ∈ runClusters s c,
    64 * passCycles c ≤ creditNow s c.basalt i := by
  intro i hi
  by_contra low
  rw [passesNow_starved (.inr ⟨i, hi, by omega⟩)] at h
  exact absurd h (lt_irrefl 0)

theorem passesNow_le (s : State) (c : Cmd) (n : Nat) : passesNow s c n ≤ n := by
  unfold passesNow
  split
  · exact Nat.zero_le n
  · exact (foldl_min_le n).1

theorem runClusters_nodup (s : State) (c : Cmd) : (runClusters s c).Nodup := List.nodup_range.filter _

/-- R125: credit that is taken of one cluster leaves the others. -/
theorem getCluster_takeCredit_ne {b i j n : Nat} (h : j ≠ i) (s : State) : getCluster (takeCredit b i n s) b j = getCluster s b j :=
  Tbl.get_put_ne (by omega)

/-- R125: n array cycles of credit taken of each cluster of a list. -/
def takeCredits (b n : Nat) (l : List Nat) (s : State) : State := l.foldl (fun s i => takeCredit b i n s) s

theorem takeCredits_clusters (b n : Nat) (l : List Nat) (s : State) :
    takeCredits b n l s = { s with clusters := (takeCredits b n l s).clusters } :=
  foldl_rel (R := fun s t => t = { s with clusters := t.clusters }) (fun _ => rfl) (fun _ _ _ h g => by rw [g, h]) (fun _ _ => rfl) l s

theorem getCluster_takeCredits_ne {b n j : Nat} {l : List Nat} (h : j ∉ l) (s : State) :
    getCluster (takeCredits b n l s) b j = getCluster s b j := by
  induction l generalizing s with
  | nil => rfl
  | cons i l ih =>
    rw [List.mem_cons, not_or] at h
    exact (ih h.2 _).trans (getCluster_takeCredit_ne h.1 s)

/-- R125: each of different clusters pays from its own credit. -/
theorem getCluster_takeCredits_mem {b n j : Nat} {l : List Nat} (distinct : l.Nodup) (h : j ∈ l) (s : State) :
    getCluster (takeCredits b n l s) b j =
      { getCluster s b j with credit := creditNow s b j - 64 * n, creditU := s.tb.nowU } := by
  induction l generalizing s with
  | nil => cases h
  | cons i l ih =>
    obtain ⟨hi, distinct⟩ := List.nodup_cons.mp distinct
    show getCluster (takeCredits b n l (takeCredit b i n s)) b j = _
    by_cases first : j = i
    · subst first
      rw [getCluster_takeCredits_ne hi, getCluster_takeCredit]
    · have same : getCluster (takeCredit b i n s) b j = getCluster s b j := getCluster_takeCredit_ne first s
      rw [ih distinct ((List.mem_cons.mp h).resolve_left first), creditNow, same]
      rfl

/-! ### One vector (R113, R122, R123, R125) -/

/-- Command k has gone on at no vector: nothing of it but its engine state has changed, and its next vector is the same. -/
def SameNext (k : Nat) (s t : State) : Prop :=
  ∀ d, findCmd s k = some d → ∃ p, findCmd t k = some { d with prog := p } ∧ p.next = d.prog.next

theorem SameNext.refl (k : Nat) (s : State) : SameNext k s s := fun d h => ⟨d.prog, h, rfl⟩

theorem SameNext.trans {k : Nat} {a b c : State} (h : SameNext k a b) (g : SameNext k b c) : SameNext k a c := by
  intro d hd
  obtain ⟨p, hp, next⟩ := h d hd
  obtain ⟨q, hq, next'⟩ := g _ hp
  exact ⟨q, hq, next'.trans next⟩

theorem StreamStep.sameNext {k : Nat} {s t : State} (h : StreamStep k s t) : SameNext k s t := by
  intro d hd
  obtain ⟨p, hp, next, -⟩ := h.2 d hd
  exact ⟨p, hp, next⟩

theorem MemOnly.sameNext {k : Nat} {s t : State} (h : MemOnly s t) : SameNext k s t :=
  fun d hd => ⟨d.prog, (findCmd_congr (by rw [h]) k).trans hd, rfl⟩

theorem readInput_sameNext {kind : RunKind} {c : Cmd} {b : Bank} {m : Nat} {e f : Eng} {x : Option (Bytes × Bytes)}
    (h : readInput kind c b m e = .ok x f) : SameNext c.k e.s f.s := by
  by_cases hx : runXstream c = true
  · obtain ⟨a, t, row, step⟩ := readInput_streams hx kind b m e
    rw [row] at h
    cases h
    exact step.sameNext
  · exact (readInput_only hx kind b m e x f h).1.sameNext

/-- R121, R125: the machine after n passes of the vector at hand have issued. -/
def issued (c : Cmd) (seg n : Nat) (s : State) : State :=
  modProg c.k (fun p => { p with segment := seg }) (takeCredits c.basalt (n * passCycles c) (runClusters s c) s)

theorem issued_sameNext (c : Cmd) (seg n : Nat) (s : State) : SameNext c.k s (issued c seg n s) := by
  intro d hd
  refine ⟨{ d.prog with segment := seg }, (findCmd_modCmd_self (by intro c; rfl)).trans ?_, rfl⟩
  rw [findCmd_congr (s := s) (by rw [takeCredits_clusters]), hd]
  rfl

/-- R113: what is left of a vector once its passes have issued. -/
def finishVector (kind : RunKind) (c : Cmd) (b : Bank) (m : Nat) : EngM Bool := do
  let x ← readInput kind c b m
  match x with
  | none => pure false
  | some x =>
    vectorOut kind c b m (maRun (runXfmt c) x.1 x.2 (runIn kind c b))
    pure true

/-- R113, R122, R123, R125: a vector waits for room in its OUT stream, for its input, or for issue credit; else it is done. -/
theorem runVector_eq {kind : RunKind} {c d : Cmd} {b : Bank} {m : Nat} {e : Eng} (found : findCmd e.s c.k = some d)
    (fresh : d.prog.segment = 0) : ∃ room t, StreamStep c.k e.s t ∧ runVector kind c b m e =
      (if room = false then pure false
       else if inputReady kind c b t = false then do
         let _ ← readInput kind c b m
         pure false
       else do
         modS (issued c (passesNow t c (vectorPasses t kind c)) (passesNow t c (vectorPasses t kind c)))
         if passesNow t c (vectorPasses t kind c) < vectorPasses t kind c then pure false else finishVector kind c b m)
      { e with s := t } := by
  obtain ⟨room, t, ready, step⟩ := outputReady_streams c e
  obtain ⟨p, hp, -, seg⟩ := step.2 d found
  refine ⟨room, t, step, ?_⟩
  have zero : p.segment = 0 := seg.trans fresh
  unfold runVector
  rw [bind_ok ready, getS_bind]
  cases room with
  | false => rfl
  | true =>
    cases inputReady kind c b t with
    | false => rfl
    | true =>
      simp only [Bool.not_true, Bool.false_eq_true, if_false, hp, zero, Nat.sub_zero, Nat.zero_add, modS_bind]
      rfl

theorem leads_finishVector (kind : RunKind) (c : Cmd) (b : Bank) (m : Nat) : Leads RunOnly (finishVector kind c b m) := by
  refine leads_bind (leads_readInput _ _ _ _) fun x => ?_
  cases x with
  | none => exact leads_pure
  | some x => exact leads_bind (leads_vectorOut _ _ _ _ _) fun _ => leads_pure

/-- R122: a vector that is not done after its passes has not had its input. -/
theorem finishVector_false {kind : RunKind} {c : Cmd} {b : Bank} {m : Nat} {e f : Eng} (h : finishVector kind c b m e = .ok false f) :
    SameNext c.k e.s f.s := by
  obtain ⟨x, u, read, rest⟩ := ok_of_bind h
  cases x with
  | none =>
    cases rest
    exact readInput_sameNext read
  | some x =>
    obtain ⟨_, _, -, last⟩ := ok_of_bind rest
    cases last

/-- R122: a vector that is not at hand comes from a stream. -/
theorem xstream_of_not_ready {kind : RunKind} {c : Cmd} {b : Bank} {s : State} (h : inputReady kind c b s = false) :
    runXstream c = true := by
  unfold inputReady at h
  simp only [Bool.or_eq_false_iff, Bool.not_eq_false'] at h
  exact h.1

section
variable {kind : RunKind} {c d : Cmd} {b : Bank} {m : Nat} {e f : Eng}

/-- R113, R122, R125: a vector that is not done leaves the run at it. -/
theorem runVector_false (found : findCmd e.s c.k = some d) (fresh : d.prog.segment = 0) (h : runVector kind c b m e = .ok false f) :
    SameNext c.k e.s f.s := by
  obtain ⟨room, t, step, row⟩ := runVector_eq (kind := kind) (b := b) (m := m) found fresh
  rw [row] at h
  refine step.sameNext.trans ?_
  split at h
  · cases h
    exact .refl _ _
  · split at h
    · obtain ⟨x, u, read, rest⟩ := ok_of_bind h
      cases rest
      exact readInput_sameNext read
    · rw [modS_bind] at h
      have after := issued_sameNext c (passesNow t c (vectorPasses t kind c)) (passesNow t c (vectorPasses t kind c)) t
      split at h
      · cases h
        exact after
      · exact after.trans (finishVector_false h)

/-- R125: a vector of one pass that is done has taken the pass's credit of every cluster of the run. -/
theorem runVector_credit (found : findCmd e.s c.k = some d) (fresh : d.prog.segment = 0) (single : vectorPasses e.s kind c = 1)
    (h : runVector kind c b m e = .ok true f) : ∀ i ∈ runClusters e.s c, 64 * passCycles c ≤ creditNow e.s c.basalt i ∧
      getCluster f.s c.basalt i = { getCluster e.s c.basalt i with
        credit := creditNow e.s c.basalt i - 64 * passCycles c, creditU := e.s.tb.nowU } := by
  obtain ⟨room, t, ⟨⟨cs, q, frame⟩, -⟩, row⟩ := runVector_eq (kind := kind) (b := b) (m := m) found fresh
  have passes : vectorPasses t kind c = 1 := by
    rw [frame]
    exact single
  rw [row, passes] at h
  split at h
  · cases h
  · split at h
    · obtain ⟨_, _, -, rest⟩ := ok_of_bind h
      cases rest
    · rw [modS_bind] at h
      split at h
      · cases h
      · have atMost := passesNow_le t c 1
        have one : passesNow t c 1 = 1 := by omega
        have enough := passesNow_credit (n := 1) (one.symm ▸ Nat.one_pos)
        rw [one] at h
        have finished := (leads_finishVector kind c b m _ _ _ h).clusters_eq
        have paid : ∀ i ∈ runClusters t c, getCluster f.s c.basalt i = { getCluster t c.basalt i with
            credit := creditNow t c.basalt i - 64 * passCycles c, creditU := t.tb.nowU } := by
          intro i hi
          rw [← getCluster_takeCredits_mem (runClusters_nodup t c) hi t, ← Nat.one_mul (passCycles c)]
          unfold getCluster
          rw [finished]
          rfl
        subst frame
        exact fun i hi => ⟨enough i hi, paid i hi⟩

/-- Command k waits at its vector: bytes may have moved between it and its streams, and credit has been reckoned. -/
def RunWaits (k : Nat) (s t : State) : Prop :=
  (∃ cs q cl, t = { s with cmds := cs, streams := q, clusters := cl }) ∧ SameNext k s t

theorem StreamStep.waits {k : Nat} {s t : State} (h : StreamStep k s t) : RunWaits k s t := by
  obtain ⟨cs, q, frame⟩ := h.1
  exact ⟨⟨cs, q, s.clusters, frame⟩, h.sameNext⟩

theorem RunWaits.trans {k : Nat} {s t u : State} (h : RunWaits k s t) (g : RunWaits k t u) : RunWaits k s u := by
  obtain ⟨⟨cs, q, cl, rfl⟩, next⟩ := h
  obtain ⟨⟨cs', q', cl', rfl⟩, next'⟩ := g
  exact ⟨⟨cs', q', cl', rfl⟩, next.trans next'⟩

theorem issued_waits (c : Cmd) (seg n : Nat) (s : State) : RunWaits c.k s (issued c seg n s) := by
  refine ⟨⟨(issued c seg n s).cmds, s.streams, (issued c seg n s).clusters, ?_⟩, issued_sameNext c seg n s⟩
  unfold issued
  rw [takeCredits_clusters]
  rfl

/-- R125: a vector whose passes have no issue credit waits. -/
theorem runVector_starved (found : findCmd e.s c.k = some d) (fresh : d.prog.segment = 0) (passes : 0 < vectorPasses e.s kind c)
    (starved : Starved e.s c) : ∃ t, runVector kind c b m e = .ok false { e with s := t } ∧ RunWaits c.k e.s t := by
  obtain ⟨room, t, step, row⟩ := runVector_eq (kind := kind) (b := b) (m := m) found fresh
  have waits := step.waits
  rw [row]
  split
  · exact ⟨t, rfl, waits⟩
  · split
    · rename_i missing
      obtain ⟨x, u, read, reads⟩ := readInput_streams (xstream_of_not_ready missing) kind b m { e with s := t }
      rw [bind_ok read]
      exact ⟨u, rfl, waits.trans reads.waits⟩
    · have noPasses : ∀ n, passesNow t c n = 0 := by
        obtain ⟨⟨cs, q, rfl⟩, -⟩ := step
        exact passesNow_starved (s := { e.s with cmds := cs, streams := q }) starved
      have anyPasses : 0 < vectorPasses t kind c := by
        obtain ⟨⟨cs, q, rfl⟩, -⟩ := step
        exact passes
      rw [modS_bind, noPasses, if_pos anyPasses]
      exact ⟨_, rfl, waits.trans (issued_waits c 0 0 t)⟩

end

/-! ### The run (R134) -/

/-- R123: the buffered output of a run goes to its OUT stream, if it has one. -/
def flushRest (c : Cmd) : EngM Bool := if runYstream c then flushOut c else pure true

theorem flushRest_streams (c : Cmd) : Streams c.k (flushRest c) := by
  unfold flushRest
  split
  · exact flushOut_streams c
  · exact fun e => ⟨true, e.s, rfl, .refl _ _⟩

/-- R134: whether a run has ended, after vectors of it. -/
def runEnd (kind : RunKind) (c : Cmd) : EngM (Option (Option W64 × Option Nat)) := do
  let out ← flushRest c
  let s ← getS
  let next := match findCmd s c.k with
    | some d => d.prog.next
    | none => 0
  let unit := match kind with
    | .forward => 1
    | .transposed => 1
    | .elementwise => 512
  pure (if body c 24 4 ≤ next ∧ out = true then some (some (BitVec.ofNat 64 (unit * body c 24 4)), none) else none)

theorem runWork_eq (kind : RunKind) (c : Cmd) (b : Bank) (n : Nat) : runWork kind c b n =
    (do
      runVectors kind c b c.prog.next (min n (body c 24 4 - c.prog.next))
      runEnd kind c) := by
  unfold runWork runEnd flushRest
  cases runYstream c <;> rfl

/-- R113: the first of the vectors that a run does. -/
theorem runVectors_first {e : Eng} (h : e.trap = none) (kind : RunKind) (c : Cmd) (b : Bank) (m n : Nat) :
    runVectors kind c b m (n + 1) e =
      (do
        let go ← runVector kind c b m
        if go then runVectors kind c b (m + 1) n else pure ()) e := by
  rw [runVectors, get_bind, h]

theorem runEnd_streams (kind : RunKind) (c : Cmd) : Streams c.k (runEnd kind c) := by
  intro e
  obtain ⟨out, t, flushed, step⟩ := flushRest_streams c e
  unfold runEnd
  rw [bind_ok flushed, getS_bind]
  exact ⟨_, t, rfl, step⟩

/-- R134: a run does not end before its last vector. -/
theorem runEnd_before {e : Eng} {c d : Cmd} (found : findCmd e.s c.k = some d) (more : d.prog.next < body c 24 4) (kind : RunKind) :
    ∃ t, runEnd kind c e = .ok none { e with s := t } ∧ StreamStep c.k e.s t := by
  obtain ⟨out, t, flushed, step⟩ := flushRest_streams c e
  obtain ⟨p, hp, next, -⟩ := step.2 d found
  unfold runEnd
  rw [bind_ok flushed, getS_bind]
  refine ⟨t, ?_, step⟩
  dsimp only
  rw [hp, if_neg (by dsimp only; omega)]
  rfl

section
variable {s : State} {kind : RunKind} {c : Cmd} {b : Bank} (found : findCmd s c.k = some c) (fresh : c.prog.segment = 0)
  (more : c.prog.next < body c 24 4)
include found fresh more

/-- R125: a run without issue credit stays at its vector. -/
theorem runWork_starved {n : Nat} (hn : 0 < n) (passes : 0 < vectorPasses s kind c) (starved : Starved s c) :
    ∃ t, runWork kind c b n (engOf c false s) = .ok none { engOf c false s with s := t } ∧ RunWaits c.k s t := by
  obtain ⟨j, hj⟩ : ∃ j, min n (body c 24 4 - c.prog.next) = j + 1 := Nat.exists_eq_add_one.mpr (by omega)
  obtain ⟨t, waits, step⟩ := runVector_starved (kind := kind) (b := b) (m := c.prog.next) (e := engOf c false s) found fresh passes starved
  obtain ⟨p, hp, next⟩ := step.2 c found
  obtain ⟨u, ends, last⟩ := runEnd_before (e := { engOf c false s with s := t }) hp (next ▸ more) kind
  refine ⟨u, ?_, step.trans last.waits⟩
  rw [runWork_eq, hj, ← ends]
  refine bind_ok (a := ()) (e' := { engOf c false s with s := t }) ?_
  rw [runVectors_first rfl, bind_ok waits]
  rfl

/-- R113, R125: one pass that ends a run has taken its credit of every cluster of the run. -/
theorem runWork_single_credit (single : vectorPasses s kind c = 1) {r : Option W64 × Option Nat} {f : Eng}
    (h : runWork kind c b 1 (engOf c false s) = .ok (some r) f) : ∀ i ∈ runClusters s c,
      64 * passCycles c ≤ creditNow s c.basalt i ∧ getCluster f.s c.basalt i = { getCluster s c.basalt i with
        credit := creditNow s c.basalt i - 64 * passCycles c, creditU := s.tb.nowU } := by
  have one : min 1 (body c 24 4 - c.prog.next) = 0 + 1 := by omega
  rw [runWork_eq, one] at h
  obtain ⟨_, u, vectors, ends⟩ := ok_of_bind h
  rw [runVectors_first rfl] at vectors
  obtain ⟨go, w, vector, rest⟩ := ok_of_bind vectors
  cases go with
  | false =>
    cases rest
    obtain ⟨p, hp, next⟩ := runVector_false (e := engOf c false s) found fresh vector c found
    obtain ⟨t, unfinished, -⟩ := runEnd_before hp (next ▸ more) kind
    rw [unfinished] at ends
    cases ends
  | true =>
    cases rest
    have kept := ((runEnd_streams kind c).leads _ _ _ ends).clusters_eq
    intro i hi
    obtain ⟨enough, paid⟩ := runVector_credit (e := engOf c false s) found fresh single vector i hi
    refine ⟨enough, Eq.trans ?_ paid⟩
    unfold getCluster
    rw [kept]

end

/-! ### From the work to the machine -/

section
variable {s : State} {c : Cmd} {once : Bool} {work : EngM (Option (Option W64 × Option Nat))}

/-- The work of a command that runs through. -/
theorem doesPart_ok {o : (Option W64 × Option Nat) × Eng} (h : s.doesPart c once work = some o) :
    work (engOf c once s) = .ok (some o.1) o.2 ∧ o.2.trap = none := by
  unfold State.doesPart at h
  split at h
  · rename_i r e row
    split at h
    · rename_i quiet
      cases r with
      | none => cases h
      | some r =>
        cases h
        exact ⟨row, Option.isNone_iff_eq_none.mp quiet.1⟩
    · cases h
  · cases h

theorem finishCmd_clusters (k : Nat) (r : Option W64) (d : Option Nat) (s : State) : (finishCmd k r d s).clusters = s.clusters := by
  unfold finishCmd
  split <;> rfl

theorem engCommit_clusters (k : Option Nat) (e : Eng) : (engCommit k e).clusters = e.s.clusters := by
  obtain ⟨f, cs, sent⟩ := sendWrites_sends e.ctx k e.wr (dropUsed e.owner e.used e.s)
  unfold engCommit
  rw [sent]
  rfl

theorem keepReads_clusters (k : Nat) (e : Eng) (s : State) : (keepReads k e s).clusters = s.clusters := by
  unfold keepReads
  split <;> rfl

/-- The clusters are as the work of a command left them. -/
theorem runWatched_clusters {r : Option (Option W64 × Option Nat)} {e : Eng} (row : work (engOf c once s) = .ok r e)
    (quiet : e.trap = none) : (runWatched c once work s).clusters = e.s.clusters := by
  have part : (runPart c once work s).clusters = e.s.clusters := by
    unfold engOf at row
    unfold runPart
    simp only [row, quiet]
    cases r with
    | none => exact (keepReads_clusters _ _ _).trans (engCommit_clusters _ _)
    | some r => exact (finishCmd_clusters _ _ _ _).trans ((keepReads_clusters _ _ _).trans (engCommit_clusters _ _))
  unfold runWatched
  rw [progressSince_frame]
  exact part

/-- R125: a run that waits has not ended; memory and banks are as they were. -/
theorem runWatched_waits {t : State} (found : findCmd s c.k = some c)
    (row : work (engOf c false s) = .ok none { engOf c false s with s := t }) (waits : RunWaits c.k s t) :
    (∃ d, findCmd (runWatched c false work s) c.k = some d ∧ d.st = c.st ∧ d.prog.next = c.prog.next) ∧
      (runWatched c false work s).mem = s.mem ∧ (runWatched c false work s).banks = s.banks := by
  have part : runPart c false work s = modCmd c.k (fun d => { d with warns := d.warns ||| 0 })
      (noteTouched c.k [] (orSticky c.ctx 0 (dropUsed (2 * c.k) [] t))) := by
    unfold engOf at row
    unfold runPart
    simp only [row]
    rfl
  obtain ⟨⟨cs, q, cl, frame⟩, next⟩ := waits
  obtain ⟨p, hp, hnext⟩ := next c found
  have noted : findCmd (runPart c false work s) c.k =
      some { c with prog := p, touched := addPages c.touched [], warns := c.warns ||| 0 } := by
    rw [part, findCmd_modCmd_self (by intro c; rfl), noteTouched, findCmd_modCmd_self (by intro c; rfl), findCmd_orSticky,
      (dropUsed_fab _ _ _).find, hp]
    rfl
  obtain ⟨n, hn⟩ := findCmd_progressSince (s := s) noted c.k
  refine ⟨⟨_, hn, rfl, hnext⟩, ?_⟩
  unfold runWatched
  rw [progressSince_frame, part, frame]
  exact ⟨rfl, rfl⟩

end

/-! ### The rows of a run (R101, R113) -/

/-- The instructions that do a run, with its kind and its opcode. -/
abbrev runRows (k : Nat) : List (Instr × RunKind × Nat) :=
  [(.maRun k, .forward, 0x22), (.maRunT k, .transposed, 0x23), (.maElem k, .elementwise, 0x24)]

/-- A command that an instruction works at has its opcode, and has started. -/
theorem readyCmd_op {s : State} {k op : Nat} {c : Cmd} (h : readyCmd s k op = some c) : cmdOp c = op ∧ c.st = .started := by
  unfold readyCmd at h
  split at h
  · cases h
  · split at h
    · rename_i ready
      cases h
      exact ⟨ready.2.1, ready.1⟩
    · cases h

/-- R51, R53: a well-formed command at work whose extension depends on its body does what its row says. -/
theorem runOpE_working {s : State} {k op : Nat} {ext : Cmd → Nat} {used : List (Nat × Nat)} {c : Cmd} {legal : Cmd → Bool}
    {f : Cmd → State → State} (h : s.working k op (ext c) used c) (hl : legal c = true) : runOpE k op ext used legal f s = f c s := by
  obtain ⟨ready, head, clean, unmapped⟩ := h
  simp [runOpE, ready, head, clean, unmapped, hl]

section
variable {s : State} {k : Nat} {c : Cmd} {o : Instr × RunKind × Nat} (row : o ∈ runRows k)
  (h : s.working k o.2.2 (runExt c) (runUsed o.2.1) c) (legal : runLegal o.2.1 c = true)
include row h legal

/-- R113: a run at work does all its vectors that issue. -/
theorem exec_run : exec o.1 s = .next (runStart o.2.1 (body c 24 4) c s) := by
  simp only [runRows, List.mem_cons, List.not_mem_nil, or_false] at row
  rcases row with rfl | rfl | rfl
  all_goals exact congrArg Host.Outcome.next (runOpE_working (ext := runExt) h legal)

/-- R113: a pass of a run on the tiles does one vector. -/
theorem exec_tilePass (onTiles : o.2.2 ≠ 0x24) (plain : strictRun s c = false) :
    exec (.tilePass k) s = .next (runStart o.2.1 1 c s) := by
  have onePass_eq : onePass o.2.1 k o.2.2 s = runStart o.2.1 1 c s := by
    refine (runOpE_working (ext := runExt) h legal).trans ?_
    rw [plain, if_neg Bool.false_ne_true]
  have op := (readyCmd_op h.1).1
  rw [exec, execTilePass, working_find h, ← onePass_eq]
  simp only [runRows, List.mem_cons, List.not_mem_nil, or_false] at row
  rcases row with rfl | rfl | rfl
  · simp only [op, if_true]
  · simp only [op, if_true]
    rfl
  · exact absurd rfl onTiles

end

section
variable {s : State} {kind : RunKind} {n : Nat} {c : Cmd} {b : Bank}

/-- R106: a run on tiles that pass their checks, whose streams its context owns. -/
theorem runStart_good (good : checkTiles s c = .good b)
    (input : runXstream c = true → ownsPair s c.ctx c.basalt (runXpair c) = true)
    (output : runYstream c = true → ownsPair s c.ctx c.basalt (runYpair c) = true) :
    runStart kind n c s = runWatched c false (runWork kind c b n) s := by
  have owned {stream pair : Bool} (h : stream = true → pair = true) : ¬(stream && !pair) = true := by
    cases stream
    · exact Bool.false_ne_true
    · simp [h rfl]
  unfold runStart
  rw [good]
  dsimp only
  rw [if_neg (owned input), if_neg (owned output)]

theorem runStart_fault {i : Nat} (h : checkTiles s c = .fault i) : runStart kind n c s = faultCmd c.k stTranslation (tileInfo i) s := by
  rw [runStart, h]

theorem runStart_lost (h : checkTiles s c = .lost) : runStart kind n c s = abortCmd c.k stResetAborted s := by
  rw [runStart, h]

/-- R120: a run that is not STRICT goes in passes. -/
theorem vectorPasses_pos (plain : strictRun s c = false) (kind : RunKind) : 0 < vectorPasses s kind c := by
  unfold vectorPasses
  rw [plain, if_neg Bool.false_ne_true]
  cases kind <;> decide

/-- R113: a vector on the tiles goes in one pass. -/
theorem vectorPasses_tiles (plain : strictRun s c = false) (onTiles : kind ≠ .elementwise) : vectorPasses s kind c = 1 := by
  unfold vectorPasses
  rw [plain, if_neg Bool.false_ne_true]
  cases kind with
  | forward => rfl
  | transposed => rfl
  | elementwise => exact absurd rfl onTiles

end

/-- R113: a run whose opcode is not MA_ELEM's works on the tiles. -/
theorem kind_ne_of_op_ne {k : Nat} {o : Instr × RunKind × Nat} (row : o ∈ runRows k) (onTiles : o.2.2 ≠ 0x24) : o.2.1 ≠ .elementwise := by
  simp only [runRows, List.mem_cons, List.not_mem_nil, or_false] at row
  rcases row with rfl | rfl | rfl
  · exact RunKind.noConfusion
  · exact RunKind.noConfusion
  · exact absurd rfl onTiles

/-- R113, R125: a run that ends with one pass has paid the pass's credit from every cluster. -/
theorem runWatched_paid {s : State} {kind : RunKind} {c : Cmd} {b : Bank} {r : (Option W64 × Option Nat) × Eng}
    (found : findCmd s c.k = some c) (fresh : c.prog.segment = 0) (more : c.prog.next < body c 24 4)
    (single : vectorPasses s kind c = 1) (does : s.doesPart c false (runWork kind c b 1) = some r) : ∀ i ∈ runClusters s c,
      64 * passCycles c ≤ creditNow s c.basalt i ∧ getCluster (runWatched c false (runWork kind c b 1) s) c.basalt i =
        { getCluster s c.basalt i with credit := creditNow s c.basalt i - 64 * passCycles c, creditU := s.tb.nowU } := by
  obtain ⟨work, quiet⟩ := doesPart_ok does
  intro i hi
  obtain ⟨enough, paid⟩ := runWork_single_credit found fresh more single work i hi
  refine ⟨enough, Eq.trans ?_ paid⟩
  unfold getCluster
  rw [runWatched_clusters work quiet]

/-- Settles O24: the rows by the checks of their tiles; what a run that ends has paid, and a run without credit, by its first vector. -/
theorem matrixRunsEndWithTheirVectors : Obligations.MatrixRunsEndWithTheirVectors := by
  unfold Obligations.MatrixRunsEndWithTheirVectors
  refine fun s k c o row h legal => ⟨fun i bad => ?fault, fun lost => ?lost, fun b good input output =>
    ⟨fun r does => ?ends, fun onTiles plain r does => ?pass, fun plain fresh more starved j hj => ?waits⟩⟩
  all_goals have foundK := working_find h
  all_goals have found : findCmd s c.k = some c := by rw [findCmd_k foundK, foundK]
  case fault =>
    obtain ⟨t, d, step, hd, st, status, addr, frame⟩ := ends_of_tileFault foundK ((exec_run row h legal).trans (congrArg _ (runStart_fault bad)))
    exact ⟨t, d, step, hd, st, status, addr, by rw [frame], by rw [frame]⟩
  case lost =>
    refine ⟨_, exec_run row h legal, ?_⟩
    rw [runStart_lost lost, findCmd_k foundK]
    exact ⟨abortCmd_ended foundK _, by rw [abortCmd_frame], by rw [abortCmd_frame]⟩
  case ends =>
    refine ⟨_, exec_run row h legal, ?_⟩
    rw [runStart_good good input output]
    exact runWatched_endedWork does
  case pass =>
    refine ⟨_, exec_tilePass row h legal onTiles plain, ?_⟩
    rw [runStart_good good input output]
    refine ⟨runWatched_endedWork does, fun more fresh i hi => ?_⟩
    obtain ⟨enough, paid⟩ := runWatched_paid found fresh more (vectorPasses_tiles plain (kind_ne_of_op_ne row onTiles)) does i hi
    rw [paid]
    exact ⟨enough, rfl, rfl⟩
  case waits =>
    obtain ⟨n, hn, step⟩ : ∃ n, 0 < n ∧ exec j s = .next (runStart o.2.1 n c s) := by
      rcases hj with rfl | ⟨onTiles, rfl⟩
      · exact ⟨_, by omega, exec_run row h legal⟩
      · exact ⟨1, Nat.one_pos, exec_tilePass row h legal onTiles plain⟩
    obtain ⟨t, work, waits⟩ := runWork_starved (b := b) found fresh more hn (vectorPasses_pos plain o.2.1) starved
    obtain ⟨⟨d, hd, st, next⟩, mem, banks⟩ := runWatched_waits found work waits
    rw [runStart_good good input output] at step
    exact ⟨_, d, step, findCmd_k foundK ▸ hd, st.trans (readyCmd_op h.1).2, next, mem, banks⟩

end Sys2Proof.Machine
end

section
/-!
VX_LAUNCH and VX_FUSED_BWD (O25): the cores of a mask by their ranks, the core that a launch starts, and the end of a command whose rows
last.
-/
namespace Sys2Proof.Machine

/-! ### The cores of a mask (R161) -/

theorem nodup_maskCores (m : Nat) : (maskCores m).Nodup := List.nodup_range.filter _

/-- The cores of a mask, each after its rank. -/
def rankedCores (m : Nat) : List (Nat × Nat) := (List.range (maskCores m).length).zip (maskCores m)

theorem mem_rankedCores {m i j : Nat} : (i, j) ∈ rankedCores m ↔ (maskCores m)[i]? = some j := by
  simp only [rankedCores, List.mem_iff_getElem?, List.getElem?_zip_eq_some]
  constructor
  · rintro ⟨n, rank, core⟩
    obtain ⟨-, rfl⟩ := List.getElem?_eq_some_iff.mp rank
    rwa [List.getElem_range]
  · intro core
    exact ⟨i, List.getElem?_range (List.getElem?_eq_some_iff.mp core).1, core⟩

/-- R161: a core has one rank. -/
theorem rank_unique {m i i' j : Nat} (h : (maskCores m)[i]? = some j) (h' : (maskCores m)[i']? = some j) : i' = i :=
  (List.getElem?_inj (List.getElem?_eq_some_iff.mp h').1 (nodup_maskCores m)).mp (h'.trans h.symm)

/-! ### The launch (R161) -/

/-- R161: the scalar registers at launch. -/
theorem getS_freshCore (c : Cmd) (fmt : BitVec 8) (i n : Nat) : (freshCore c fmt i n).getS 1 = BitVec.ofNat 64 (body c 24 8) ∧
    (freshCore c fmt i n).getS 2 = BitVec.ofNat 64 i ∧ (freshCore c fmt i n).getS 3 = BitVec.ofNat 64 n ∧
    ∀ j, j = 0 ∨ 3 < j → (freshCore c fmt i n).getS j = 0 := by
  refine ⟨rfl, rfl, rfl, fun j hj => ?_⟩
  rcases hj with rfl | hj
  · rfl
  · have unset : ∀ {v : W64} {l : List W64} {k : Nat}, k ≤ 3 → (l.set k v).getD j 0 = l.getD j 0 := by
      intro v l k hk
      rw [List.getD_eq_getElem?_getD, List.getElem?_set_ne (by omega), ← List.getD_eq_getElem?_getD]
    have zero : (List.replicate 32 (0 : W64)).getD j 0 = 0 :=
      (List.getD_eq_getElem?_getD ..).trans (List.getElem?_getD_replicate_default_eq ..)
    rw [Core.getS, if_neg (by omega)]
    exact (unset (by omega)).trans ((unset (by omega)).trans ((unset (by omega)).trans zero))

/-- R161: VTYPE.FMT of the core of a rank; its value is free (log entry 23). -/
def launchFmt (c : Cmd) (i : Nat) : BitVec 8 :=
  (Config.operandValue 0x30 [i, (maskCores (body c 32 8)).length, body c 16 8, body c 24 8]).setWidth 8

/-- R161: the core of a rank as its launch starts it. -/
def launchedCore (c : Cmd) (i : Nat) : Core := freshCore c (launchFmt c i) i (maskCores (body c 32 8)).length

theorem launchCmd_cores (c : Cmd) (s : State) : (launchCmd c s).cores =
    Tbl.insAll (fun p => c.basalt * 64 + p.2) (fun p => launchedCore c p.1) (rankedCores (body c 32 8)) s.cores := rfl

/-- R161: every core of the mask is started with its rank. -/
theorem find_launchCmd {c : Cmd} {s : State} {i j : Nat} (h : (maskCores (body c 32 8))[i]? = some j) :
    Tbl.find? (launchCmd c s).cores (c.basalt * 64 + j) = some (launchedCore c i) := by
  rw [launchCmd_cores]
  refine Tbl.find_insAll_only ⟨(i, j), mem_rankedCores.mpr h, rfl⟩ (fun p hp same => ?_) s.cores
  obtain ⟨i', j'⟩ := p
  obtain rfl : j' = j := by simpa using same
  rw [rank_unique h (mem_rankedCores.mp hp)]

/-- R161: no other core is touched. -/
theorem find_launchCmd_ne {c : Cmd} {s : State} {n : Nat} (h : ∀ j ∈ maskCores (body c 32 8), n ≠ c.basalt * 64 + j) :
    Tbl.find? (launchCmd c s).cores n = Tbl.find? s.cores n := by
  rw [launchCmd_cores]
  refine Tbl.find_insAll_ne (fun p hp => (h p.2 ?_).symm) s.cores
  exact List.mem_of_getElem? (mem_rankedCores.mp hp)

/-- R161: a legal VX_LAUNCH that has not started its cores starts them. -/
theorem exec_vxLaunch {s : State} {k : Nat} {c : Cmd} (h : s.working k 0x30 0 [(16, 24)] c) (aligned : body c 16 8 % 4 = 0)
    (mask : body c 32 8 ≠ 0) (fresh : c.prog.next = 0) : exec (.vxLaunch k) s = .next (launchCmd c s) := by
  refine (congrArg Host.Outcome.next (runOp_working h ?_)).trans ?_
  · simp [aligned, mask]
  · rw [if_pos fresh]

/-! ### The fused backward pass (R163, R164) -/

/-- R388: a progress event of a command that has ended leaves its end as it is. -/
theorem endedWork_progress {t : State} {c : Cmd} {o : (Option W64 × Option Nat) × Eng} (h : t.endedWork c o) :
    (progress c.k t).endedWork c o := by
  obtain ⟨⟨d, hd, hst, hstatus, hr, hx⟩, hm, hc, hl⟩ := h
  have found : findCmd (progress c.k t) c.k = some { d with wdog := 0 } := by
    rw [findCmd_progress hd, hd, Option.map_some, if_pos (.inl (findCmd_k hd))]
  refine ⟨⟨_, found, hst, hstatus, hr, hx⟩, ?_⟩
  rw [progress_frame]
  exact ⟨hm, hc, hl⟩

/-- R164: a stream that the command names, and that its context owns, is no fault. -/
theorem owned_of_named {named owned : Bool} (h : named = true → owned = true) : (named && !owned) = false := by
  cases named with
  | false => rfl
  | true => simp [h rfl]

/-- R163, R164: a legal VX_FUSED_BWD alone, whose streams its context owns, ends with what its rows answer. -/
theorem vxFusedBwd_ends {s : State} {k : Nat} {c : Cmd} {o : (Option W64 × Option Nat) × Eng}
    (h : s.working k 0x31 1 [(16, 5), (24, 76), (104, 8)] c) (legal : fbLegal c = true)
    (input : fbDyStream c = true → fbPair s c (fbOut c) = true) (output : fbDxStream c = true → fbPair s c (fbIn c) = true)
    (alone : s.alone k) (does : ({ s with free := s.free + 1 } : State).doesPart c false (fbWork c (fbRows c)) = some o) :
    ∃ t, exec (.vxFusedBwd k) s = .next t ∧ t.endedWork c o := by
  have ended := runPart_doesPart does
  refine ⟨_, congrArg Host.Outcome.next (runOp_working h legal), ?_⟩
  simp only [owned_of_named input, owned_of_named output, Bool.false_eq_true, if_false, workBudget_alone alone]
  split
  · exact ended
  · rw [← findCmd_k (working_find h)]
    exact endedWork_progress ended

/-- Settles O25: the cores of the mask by their ranks, every other core by the keys that a launch writes; the pass by its work. -/
theorem launchesStartTheirCores : Obligations.LaunchesStartTheirCores := by
  unfold Obligations.LaunchesStartTheirCores
  refine fun s k c => ⟨fun h aligned mask fresh => ⟨_, exec_vxLaunch h aligned mask fresh, fun i j hj => ?core,
    fun n hn => find_launchCmd_ne hn, fun j hj => ?others, rfl⟩, fun o h legal input output alone does =>
      vxFusedBwd_ends h legal input output alone does⟩
  case core =>
    obtain ⟨arg, rank, count, zero⟩ := getS_freshCore c (launchFmt c i) i (maskCores (body c 32 8)).length
    refine ⟨_, find_launchCmd hj, ?_, rfl, rfl, arg, rank, rfl, count, rfl, zero, rfl, rfl, rfl, rfl⟩
    exact congrArg some (findCmd_k (working_find h))
  case others =>
    rw [← findCmd_k (working_find h)] at hj
    exact findCmd_modCmd_ne (by intro c; rfl) hj

end Sys2Proof.Machine
end

section
/-!
Elements of vector registers and bits of mask registers (O29): what a write of one changes.
-/
namespace Sys2Proof.Machine

/-! ### Elements of a register group (R137) -/

/-- A bit of an element. -/
theorem testBit_getE (r : Core) (q ew i k : Nat) : (r.getE q ew i).testBit k =
    (decide (k < ew) && (r.v.getD (q + i * ew / 2048) 0).getLsbD (i * ew % 2048 + k)) := by
  rw [Core.getE, Nat.testBit_mod_two_pow, Nat.testBit_div_two_pow, BitVec.testBit_toNat, Nat.add_comm k]

/-- A register in which the `ew` bits from `sh` on are replaced by those of a value. -/
def withField (old : BitVec 2048) (sh ew x : Nat) : BitVec 2048 :=
  (old &&& ~~~BitVec.ofNat 2048 ((2 ^ ew - 1) * 2 ^ sh)) ||| BitVec.ofNat 2048 (x % 2 ^ ew * 2 ^ sh)

theorem setE_eq (q ew i x : Nat) (r : Core) : Core.setE q ew i x r = { r with
    v := r.v.set (q + i * ew / 2048) (withField (r.v.getD (q + i * ew / 2048) 0) (i * ew % 2048) ew x) } := rfl

theorem getLsbD_withField (old : BitVec 2048) (sh ew x : Nat) {k : Nat} (hk : k < 2048) : (withField old sh ew x).getLsbD k =
    if sh ≤ k ∧ k < sh + ew then x.testBit (k - sh) else old.getLsbD k := by
  simp only [withField, BitVec.getLsbD_or, BitVec.getLsbD_and, BitVec.getLsbD_not, BitVec.getLsbD_ofNat, Nat.testBit_mul_two_pow,
    Nat.testBit_two_pow_sub_one, Nat.testBit_mod_two_pow, hk, decide_true, Bool.true_and]
  by_cases low : sh ≤ k
  · by_cases high : k < sh + ew
    · simp [low, high, show k - sh < ew by omega]
    · simp [low, high, show ¬k - sh < ew by omega]
  · simp [low]

section
variable {r : Core} {q ew i x : Nat}

/-- R139: an element lies within one register. -/
theorem elem_within (width : ew = 8 ∨ ew = 16 ∨ ew = 32 ∨ ew = 64) : i * ew % 2048 + ew ≤ 2048 := by
  rcases width with rfl | rfl | rfl | rfl <;> omega

/-- R137: an element written reads back. -/
theorem getE_setE_self (regs : r.v.length = 32) (width : ew = 8 ∨ ew = 16 ∨ ew = 32 ∨ ew = 64) (within : q + i * ew / 2048 < 32) :
    (Core.setE q ew i x r).getE q ew i = x % 2 ^ ew := by
  have inside := elem_within (i := i) width
  refine Nat.eq_of_testBit_eq fun k => ?_
  rw [testBit_getE, Nat.testBit_mod_two_pow, setE_eq, List.getD_eq_getElem?_getD, List.getElem?_set_self (by omega), Option.getD_some]
  by_cases hk : k < ew
  · rw [getLsbD_withField _ _ _ _ (by omega), if_pos (by omega), Nat.add_sub_cancel_left]
  · simp [hk]

/-- R137: writing an element leaves every element of that width elsewhere as it is. -/
theorem getE_setE_ne {p j : Nat} (width : ew = 8 ∨ ew = 16 ∨ ew = 32 ∨ ew = 64) (within : q + i * ew / 2048 < 32)
    (regs : r.v.length = 32) (ne : p * 2048 + j * ew ≠ q * 2048 + i * ew) : (Core.setE q ew i x r).getE p ew j = r.getE p ew j := by
  have inside := elem_within (i := j) width
  refine Nat.eq_of_testBit_eq fun k => ?_
  rw [testBit_getE, testBit_getE, setE_eq]
  by_cases hk : k < ew
  · by_cases same : p + j * ew / 2048 = q + i * ew / 2048
    · have apart : ¬(i * ew % 2048 ≤ j * ew % 2048 + k ∧ j * ew % 2048 + k < i * ew % 2048 + ew) := by
        rcases width with rfl | rfl | rfl | rfl <;> omega
      rw [same, List.getD_eq_getElem?_getD, List.getElem?_set_self (by omega), Option.getD_some,
        getLsbD_withField _ _ _ _ (by omega), if_neg apart]
    · rw [List.getD_eq_getElem?_getD, List.getElem?_set_ne (Ne.symm same), ← List.getD_eq_getElem?_getD]
  · simp [hk]

end

/-! ### Bits of a mask register (R137) -/

section
variable {r : Core} {n k : Nat}

/-- A register in which bit k is replaced. -/
def withBit (old : BitVec 2048) (k : Nat) (b : Bool) : BitVec 2048 :=
  if b then old ||| BitVec.ofNat 2048 (2 ^ k) else old &&& ~~~BitVec.ofNat 2048 (2 ^ k)

theorem setM_eq (n k : Nat) (b : Bool) (r : Core) : Core.setM n k b r = { r with m := r.m.set n (withBit (r.m.getD n 0) k b) } := rfl

theorem getLsbD_withBit (old : BitVec 2048) (k : Nat) (b : Bool) {j : Nat} (hj : j < 2048) :
    (withBit old k b).getLsbD j = if k = j then b else old.getLsbD j := by
  have one : (BitVec.ofNat 2048 (2 ^ k)).getLsbD j = decide (k = j) := by
    rw [BitVec.getLsbD_ofNat, Nat.testBit_two_pow, decide_eq_true hj, Bool.true_and]
  cases b with
  | true =>
    rw [withBit, if_pos rfl, BitVec.getLsbD_or, one]
    split <;> simp [*]
  | false =>
    rw [withBit, if_neg Bool.false_ne_true, BitVec.getLsbD_and, BitVec.getLsbD_not, one, decide_eq_true hj]
    split <;> simp [*]

/-- R137: a mask bit written reads back. -/
theorem getM_setM_self (regs : r.m.length = 8) (hn : n < 8) (hk : k < 2048) (b : Bool) : (Core.setM n k b r).getM n k = b := by
  rw [setM_eq, Core.getM, List.getD_eq_getElem?_getD, List.getElem?_set_self (by omega), Option.getD_some, getLsbD_withBit _ _ _ hk,
    if_pos rfl]

/-- R137: writing a mask bit leaves every other one as it is. -/
theorem getM_setM_ne {n' k' : Nat} (regs : r.m.length = 8) (hn : n < 8) (ne : (n', k') ≠ (n, k)) (b : Bool) :
    (Core.setM n k b r).getM n' k' = r.getM n' k' := by
  unfold Core.getM
  rw [setM_eq]
  by_cases same : n' = n
  · subst same
    have other : k ≠ k' := fun h => ne (by rw [h])
    rw [List.getD_eq_getElem?_getD, List.getElem?_set_self (by omega), Option.getD_some]
    by_cases hk : k' < 2048
    · rw [getLsbD_withBit _ _ _ hk, if_neg other]
    · rw [BitVec.getLsbD_of_ge _ _ (Nat.le_of_not_lt hk), BitVec.getLsbD_of_ge _ _ (Nat.le_of_not_lt hk)]
  · rw [List.getD_eq_getElem?_getD, List.getElem?_set_ne (Ne.symm same), ← List.getD_eq_getElem?_getD]

end

end Sys2Proof.Machine
end

section
/-!
What the accesses of a vector core leave alone (O29): its fetch, its loads and its stores keep the commands and the core's pc, and an
instruction that goes through ends with VRESUME 0 at the next pc.
-/
namespace Sys2Proof.Machine

/-! ### Work that keeps the pc

The rules by which such work is put together are those of `Leads RunOnly`, for a relation that lets a core change. -/

/-- The commands are as they were, and so is the core's pc. -/
def PcKept (key : Nat) (s t : State) : Prop :=
  t.cmds = s.cmds ∧ ∀ r, Tbl.find? s.cores key = some r → ∃ r', Tbl.find? t.cores key = some r' ∧ r'.pc = r.pc

/-- Work that goes through keeps the commands and the core's pc. -/
abbrev KeepsPc {α : Type} (key : Nat) (act : EngM α) : Prop := Leads (PcKept key) act

section
variable {key : Nat}

theorem PcKept.of_cores {s t : State} (hm : t.cmds = s.cmds) (hc : t.cores = s.cores) : PcKept key s t :=
  ⟨hm, fun r hr => ⟨r, hc ▸ hr, rfl⟩⟩

theorem PcKept.trans {s t u : State} (h : PcKept key s t) (g : PcKept key t u) : PcKept key s u := by
  refine ⟨g.1.trans h.1, fun r hr => ?_⟩
  obtain ⟨r', hr', hpc⟩ := h.2 r hr
  obtain ⟨r'', hr'', hpc'⟩ := g.2 r' hr'
  exact ⟨r'', hr'', hpc'.trans hpc⟩

theorem find_modCore {f : Core → Core} {s : State} {r : Core} (h : Tbl.find? s.cores key = some r) :
    Tbl.find? (modCore key f s).cores key = some (f r) := by
  rw [modCore_find h]
  exact withCore_find

theorem pcKept_modCore {f : Core → Core} (h : ∀ c, (f c).pc = c.pc) (s : State) : PcKept key s (modCore key f s) :=
  ⟨modCore_cmds .., fun r hr => ⟨f r, find_modCore hr, h r⟩⟩

section
variable {α β : Type} {act : EngM α} {g : α → EngM β}

theorem keepsPc_pure {a : α} : KeepsPc key (pure a : EngM α) := by
  intro e b f h
  cases h
  exact .of_cores rfl rfl

theorem keepsPc_throw {r : EngStop} : KeepsPc key (throw r : EngM α) := fun _ _ _ h => nomatch h

theorem keepsPc_get : KeepsPc key (get : EngM Eng) := by
  intro e b f h
  cases h
  exact .of_cores rfl rfl

theorem keepsPc_bind (hx : KeepsPc key act) (hg : ∀ a, KeepsPc key (g a)) : KeepsPc key (act >>= g) := by
  intro e b f h
  obtain ⟨a, u, hu, hf⟩ := ok_of_bind h
  exact (hx e a u hu).trans (hg a u b f hf)

theorem keepsPc_ite {p : Prop} [Decidable p] {act' : EngM α} (h : KeepsPc key act) (h' : KeepsPc key act') :
    KeepsPc key (if p then act else act') := by
  split
  · exact h
  · exact h'

theorem keepsPc_forM {l : List β} {f : β → EngM Unit} (h : ∀ b, KeepsPc key (f b)) : KeepsPc key (l.forM f) := by
  induction l with
  | nil => exact keepsPc_pure
  | cons b l ih => exact keepsPc_bind (h b) fun _ => ih

/-- Reads and writes through the page mappings touch neither the commands nor a core. -/
theorem keepsPc_of_only (h : EO act) : KeepsPc key act := by
  intro e a f hf
  have only := (h e a f hf).1
  unfold MemOnly at only
  refine .of_cores ?_ ?_ <;> rw [only]

end

theorem keepsPc_modS {f : State → State} (h : ∀ s, PcKept key s (f s)) : KeepsPc key (modS f) := by
  intro e a u k
  cases k
  exact h e.s

theorem keepsPc_freeChoice (n : Nat) : KeepsPc key (freeChoice n) := by
  intro e a f h
  cases h
  exact .of_cores rfl rfl

theorem keepsPc_unlessTrapped {act : EngM Unit} (h : KeepsPc key act) : KeepsPc key (unlessTrapped act) :=
  keepsPc_bind keepsPc_get fun e => by
    cases e.trap with
    | none => exact h
    | some t => exact keepsPc_pure

theorem keepsPc_readV (va n : Nat) : KeepsPc key (readV va n) := keepsPc_of_only fun _ _ _ => readV_only

theorem keepsPc_writeV (va : Nat) (bs : Bytes) : KeepsPc key (writeV va bs) := keepsPc_of_only fun _ _ _ => writeV_only

/-- Counting the free values on. -/
theorem keepsPc_nextFree : KeepsPc key (modS fun s => { s with free := s.free + 1 }) := keepsPc_modS fun _ => .of_cores rfl rfl

/-! ### The fetch (R135, R143) -/

theorem keepsPc_fillCode (ln : Nat) : KeepsPc key (fillCode key ln) :=
  keepsPc_bind (keepsPc_readV _ _) fun _ => keepsPc_bind (keepsPc_bind keepsPc_get fun _ => keepsPc_pure) fun _ =>
    keepsPc_bind (keepsPc_modS (pcKept_modCore fun _ => rfl)) fun _ => keepsPc_bind keepsPc_nextFree fun _ => keepsPc_pure

theorem keepsPc_codeLine (va : Nat) : KeepsPc key (codeLine key va) := by
  refine keepsPc_bind keepsPc_get fun e => ?_
  split
  · exact keepsPc_throw
  · split
    · exact keepsPc_fillCode _
    · exact keepsPc_bind (keepsPc_freeChoice _) fun _ => keepsPc_ite (keepsPc_fillCode _) keepsPc_pure

theorem keepsPc_fetchWord (pc : W64) : KeepsPc key (fetchWord key pc) :=
  keepsPc_ite keepsPc_pure (keepsPc_bind (keepsPc_codeLine _) fun _ => keepsPc_pure)

end

/-- The launch of a core that may execute is a command at work. -/
theorem coreCmd_find {s : State} {key : Nat} {d : Cmd} (h : coreCmd s key = some d) : findCmd s d.k = some d := by
  unfold coreCmd at h
  split at h
  · cases h
  · split at h
    · cases h
    · split at h
      · cases h
      next found =>
        split at h
        · cases h
          rwa [findCmd_k found]
        · cases h

/-- R143: the launch of the core that fetches is found after the fetch. -/
theorem fetches_findCmd {s u : State} {b c code w : Nat} {d : Cmd} (h : s.fetches u b c code w d) : findCmd u d.k = some d := by
  obtain ⟨launch, -, -, e, fetched, rfl⟩ := h
  have kept : e.s.cmds = s.cmds := (keepsPc_fetchWord _ _ _ _ fetched).1
  exact (findCmd_congr kept d.k).trans (coreCmd_find launch)

/-! ### Loads and stores (R154, R155) -/

section
variable {x : Vx}

theorem keepsPc_myCore : KeepsPc x.key (myCore x) := keepsPc_bind (keepsPc_bind keepsPc_get fun _ => keepsPc_pure) fun _ => keepsPc_pure

theorem keepsPc_setCore {f : Core → Core} (h : ∀ c, (f c).pc = c.pc) : KeepsPc x.key (setCore x f) := keepsPc_modS (pcKept_modCore h)

theorem keepsPc_putE (n ew i v : Nat) : KeepsPc x.key (putE x n ew i v) := keepsPc_unlessTrapped (keepsPc_setCore fun _ => rfl)

theorem keepsPc_putM (n i : Nat) (b : Bool) : KeepsPc x.key (putM x n i b) := keepsPc_unlessTrapped (keepsPc_setCore fun _ => rfl)

theorem keepsPc_fillCache (ln : Nat) : KeepsPc x.key (fillCache x ln) :=
  keepsPc_bind (keepsPc_readV _ _) fun _ => keepsPc_bind (keepsPc_bind keepsPc_get fun _ => keepsPc_pure) fun _ =>
    keepsPc_bind (keepsPc_setCore fun _ => rfl) fun _ => keepsPc_bind keepsPc_nextFree fun _ => keepsPc_pure

theorem keepsPc_cacheLine (ln : Nat) : KeepsPc x.key (cacheLine x ln) := by
  refine keepsPc_bind keepsPc_get fun e => ?_
  split
  · exact keepsPc_throw
  · refine keepsPc_ite keepsPc_throw ?_
    split
    · exact keepsPc_fillCache _
    · exact keepsPc_bind (keepsPc_freeChoice _) fun _ => keepsPc_ite (keepsPc_fillCache _) keepsPc_pure

theorem keepsPc_coreReadN (fuel va n : Nat) : KeepsPc x.key (coreReadN x fuel va n) := by
  induction fuel generalizing va n with
  | zero => exact keepsPc_pure
  | succ fuel ih =>
    refine keepsPc_ite keepsPc_pure (keepsPc_bind keepsPc_get fun e => ?_)
    split
    · exact keepsPc_throw
    · exact keepsPc_bind (keepsPc_cacheLine _) fun _ => keepsPc_bind (ih _ _) fun _ => keepsPc_pure

theorem keepsPc_loadFields (r : Core) (i n : Nat) : KeepsPc x.key (loadFields x r i n) := by
  induction n with
  | zero => exact keepsPc_pure
  | succ n ih => exact keepsPc_bind ih fun _ => keepsPc_bind (keepsPc_coreReadN _ _ _) fun _ => keepsPc_pure

theorem keepsPc_needWrite (key va n : Nat) : KeepsPc key (needWrite va n) :=
  keepsPc_bind keepsPc_get fun _ => keepsPc_ite keepsPc_throw (keepsPc_ite keepsPc_throw keepsPc_pure)

theorem keepsPc_needMaskByte (key va n : Nat) (write : Bool) : KeepsPc key (needMaskByte va n write) :=
  keepsPc_bind keepsPc_get fun _ => keepsPc_ite keepsPc_throw keepsPc_pure

theorem keepsPc_coreWrite (va : Nat) (bs : Bytes) : KeepsPc x.key (coreWrite x va bs) :=
  keepsPc_bind (keepsPc_needWrite _ _ _) fun _ => keepsPc_bind (keepsPc_writeV _ _) fun _ =>
    keepsPc_bind keepsPc_get fun _ => keepsPc_setCore fun _ => rfl

end

/-! ### Instructions that go through (R157) -/

/-- Work of an instruction that, where it goes through, ends with VRESUME 0 at the next pc. -/
def Finishes (key : Nat) (act : EngM Unit) : Prop := ∀ e f r, e.trap = none → Tbl.find? e.s.cores key = some r → act e = .ok () f →
  ∃ y, Tbl.find? f.s.cores key = some y ∧ y.vresume = 0 ∧ y.pc = r.pc + 4

theorem stopTrap_ok {before : W64} {e f : Eng} (h : stopTrap before e = .ok () f) : f = e ∧ e.trap = none := by
  cases trap : e.trap with
  | none =>
    rw [stopTrap_none trap] at h
    cases h
    exact ⟨rfl, rfl⟩
  | some t =>
    simp only [stopTrap, get_bind, trap] at h
    cases h

section
variable {x : Vx}

theorem keepsPc_stopTrap (key : Nat) (before : W64) : KeepsPc key (stopTrap before) := by
  intro e _ f h
  rw [(stopTrap_ok h).1]
  exact .of_cores rfl rfl

/-- Work that keeps the pc, then the end of a vector instruction. -/
theorem finishes_vecDone {act : EngM Unit} (h : KeepsPc x.key act) : Finishes x.key (act >>= fun _ => vecDone x) := by
  intro e f r _ hr done
  obtain ⟨_, u, worked, last⟩ := ok_of_bind done
  obtain ⟨y, hy, pc⟩ := (h e _ u worked).2 r hr
  cases last
  exact ⟨_, find_modCore hy, rfl, congrArg (· + 4) pc⟩

theorem keepsPc_elemLoop {f : Nat → EngM Unit} (h : ∀ i, KeepsPc x.key (f i)) (n : Nat) (is : List Nat) :
    KeepsPc x.key (elemLoop x f n is) := by
  induction is generalizing n with
  | nil => cases n <;> exact keepsPc_pure
  | cons i is ih =>
    have mark := keepsPc_setCore (x := x) (f := fun c => { c with vresume := BitVec.ofNat 12 i }) fun _ => rfl
    cases n with
    | zero => exact keepsPc_bind mark fun _ => keepsPc_throw
    | succ n => exact keepsPc_bind mark fun _ => keepsPc_bind keepsPc_get fun _ => keepsPc_bind (h i) fun _ =>
        keepsPc_bind (keepsPc_stopTrap _ _) fun _ => ih n

/-- Work that may begin by reading the core. -/
theorem finishes_myCore {act : Core → EngM Unit} (h : ∀ c, Finishes x.key (act c)) : Finishes x.key (myCore x >>= act) :=
  fun e f r trap hr done => h (getCore e.s x.key) e f r trap hr done

/-- Work that goes through where a condition holds not. -/
theorem finishes_unless {p : Prop} [Decidable p] {stop : EngStop} {g act : EngM Unit} (h : Finishes x.key act) :
    Finishes x.key (if p then (throw stop : EngM Unit) >>= fun _ => g else act) := by
  split
  · exact fun _ _ _ _ _ done => nomatch done
  · exact h

/-- R157: an element-resumable instruction. -/
theorem finishes_vecElems {legal : Core → Bool} {f : Nat → EngM Unit} (h : ∀ i, KeepsPc x.key (f i)) :
    Finishes x.key (vecElems x legal f) :=
  finishes_myCore fun c => finishes_unless (finishes_vecDone (keepsPc_elemLoop h x.limit (activeElems x c)))

/-- Without a trap the rule of R158 adds nothing to work. -/
theorem destWork_ok {d : Dest} {work : EngM Unit} {e f : Eng} (h : work e = .ok () f) (trap : f.trap = none) :
    destWork x d work e = .ok () f := by
  simp only [destWork, h, trap, Option.isSome_none, Bool.false_eq_true, if_false]

/-- R158: work that no trap stops leaves what it would leave without that rule. -/
theorem ok_of_destWork {d : Dest} {work : EngM Unit} {before : W64} {e f : Eng}
    (h : (destWork x d work >>= fun _ => stopTrap before) e = .ok () f) : work e = .ok () f := by
  obtain ⟨_, u, worked, stop⟩ := ok_of_bind h
  obtain ⟨rfl, trap⟩ := stopTrap_ok stop
  simp only [destWork] at worked
  split at worked
  next g worked' =>
    split at worked
    next trapped =>
      cases worked
      rw [Option.isSome_iff_ne_none] at trapped
      exact absurd trap trapped
    · cases worked
      exact worked'
  · cases worked
  · cases worked

/-- R157: an instruction that is not element-resumable. -/
theorem finishes_vecWhole {legal : Core → Bool} {dest : Core → Dest} {work : Core → EngM Unit} (h : ∀ r, KeepsPc x.key (work r)) :
    Finishes x.key (vecWhole x legal dest (pure ()) work) := by
  refine finishes_myCore fun c => finishes_unless fun e f r trap hr done => ?_
  replace done := (bind_ok (destWork_ok (x := x) (d := dest c) (f := e) rfl trap)).symm.trans done
  by_cases live : c.len ≠ 0
  · have worked : KeepsPc x.key (destWork x (dest c) (work c) >>= fun _ => stopTrap 0) :=
      fun e a f done => h c e () f (ok_of_destWork done)
    have all := finishes_vecDone worked
    rw [bind_assoc] at all
    exact all e f r trap hr ((congrFun (if_pos live) e).symm.trans done)
  · have all := finishes_vecDone (x := x) (keepsPc_pure (a := ()))
    exact all e f r trap hr ((congrFun (if_neg live) e).symm.trans done)

/-! ### VLD and VST (R153, R154, R157) -/

theorem finishes_vldWork : Finishes x.key (vldWork x) := by
  unfold vldWork
  split
  · exact finishes_vecWhole fun r => keepsPc_forM fun y => keepsPc_bind (keepsPc_needMaskByte _ _ _ _) fun _ =>
      keepsPc_bind (keepsPc_coreReadN _ _ _) fun _ => keepsPc_forM fun _ => keepsPc_putM _ _ _
  · exact finishes_vecElems fun i => keepsPc_bind keepsPc_myCore fun r => keepsPc_bind (keepsPc_loadFields _ _ _) fun _ =>
      keepsPc_forM fun _ => keepsPc_putE _ _ _ _

theorem finishes_vstWork : Finishes x.key (vstWork x) := by
  unfold vstWork
  split
  · exact finishes_vecWhole fun r => keepsPc_forM fun y => keepsPc_bind (keepsPc_needMaskByte _ _ _ _) fun _ => keepsPc_coreWrite _ _
  · exact finishes_vecElems fun i => keepsPc_bind keepsPc_myCore fun r =>
      keepsPc_bind (keepsPc_forM fun _ => keepsPc_needWrite _ _ _) fun _ => keepsPc_forM fun _ => keepsPc_coreWrite _ _

end

/-! ### The machine after the instruction (R155) -/

/-- The commit of a unit's work reaches the fabric, the commands and the sticky bits alone. -/
theorem engCommit_frame (k : Option Nat) (e : Eng) : engCommit k e = { e.s with
    fab := (engCommit k e).fab, cmds := (engCommit k e).cmds, ctxs := (engCommit k e).ctxs } := by
  obtain ⟨f, cs, sent⟩ := sendWrites_sends e.ctx k e.wr (dropUsed e.owner e.used e.s)
  unfold engCommit
  rw [sent]
  rfl

/-- R155: beside that, the commit of a core's work notes the unanswered writes in the core and the warnings in its launch. -/
theorem coreCommit_eq (x : Vx) (e : Eng) : ∃ (ws : List (BitVec 32)) (g : Cmd → Cmd), (∀ c, (g c).k = c.k) ∧ coreCommit x e =
    if ws.isEmpty then modCmd x.k g (engCommit (some x.k) e)
    else modCore x.key (fun c => { c with waits := c.waits ++ ws }) (modCmd x.k g (engCommit (some x.k) e)) := by
  refine ⟨_, _, ?_, rfl⟩
  exact fun _ => rfl

section
variable (x : Vx) (e : Eng)

theorem coreCommit_mem : (coreCommit x e).mem = e.s.mem := by
  obtain ⟨ws, g, -, eq⟩ := coreCommit_eq x e
  rw [eq, engCommit_frame]
  split
  · rfl
  · exact modCore_mem ..

theorem coreCommit_streams : (coreCommit x e).streams = e.s.streams := by
  obtain ⟨ws, g, -, eq⟩ := coreCommit_eq x e
  rw [eq, engCommit_frame]
  split
  · rfl
  · exact modCore_streams ..

variable {x e}

/-- R155: the core is as the work left it, but for its unanswered writes. -/
theorem find_coreCommit {r : Core} (h : Tbl.find? e.s.cores x.key = some r) :
    ∃ r', Tbl.find? (coreCommit x e).cores x.key = some r' ∧ r' = { r with waits := r'.waits } := by
  obtain ⟨ws, g, -, eq⟩ := coreCommit_eq x e
  rw [eq, engCommit_frame]
  split
  · exact ⟨r, h, rfl⟩
  · exact ⟨_, find_modCore h, rfl⟩

end

/-- A memory row whose accesses all succeed. -/
theorem memoryRow_gives {s u : State} {b c code w : Nat} {d : Cmd} {r r' : Core} {e : Eng} {work : Vx → EngM Unit}
    (h : s.fetches u b c code w d) (hr : Tbl.find? u.cores (b * 64 + c) = some r)
    (worked : work (s.vx b c w d) { s := u, ctx := d.ctx, owner := 2 * d.k } = .ok () e)
    (hr' : Tbl.find? e.s.cores (b * 64 + c) = some r') (finishes : Finishes (b * 64 + c) (work (s.vx b c w d))) :
    ∃ t r'', (.next (coreRow b c code work s) : Host.Outcome State Fault Refusal) = .next t ∧ t.mem = e.s.mem ∧
      Tbl.find? t.cores (b * 64 + c) = some r'' ∧ r'' = { r' with waits := r''.waits } ∧ r'.vresume = 0 ∧ r'.pc = r.pc + 4 := by
  obtain ⟨y, hy, resume, pc⟩ := finishes _ e r rfl hr worked
  obtain rfl : y = r' := Option.some.inj (hy.symm.trans hr')
  obtain ⟨r'', hr'', same⟩ := find_coreCommit (x := s.vx b c w d) hr'
  rw [coreRow_fetches h, runCore_eq_coreCommit (x := s.vx b c w d) worked]
  exact ⟨_, r'', rfl, coreCommit_mem _ e, hr'', same, resume, pc⟩

end Sys2Proof.Machine
end

section
/-!
VSRD and VSWR (O29): the check of the pair, the wait for elements or for room, and the elements that move between a group and a stream
queue.
-/
namespace Sys2Proof.Machine

/-! ### The work of the rows (R149, R156) -/

/-- A row on a tile stream: legal registers, a pair of its own, and its work. -/
def pairRow (b c code : Nat) (dest : Vx → Core → Dest) (work : Vx → Core → EngM Unit) (s : State) : State :=
  coreRow b c code (fun x => vecWhole x (fun r => groupOk (wD x.w) r.span && decide (wB x.w < 16)) (dest x) (needPair x (wB x.w))
    (work x)) s

/-- R156: VL elements of the OUT queue go to the group; with fewer the instruction waits. -/
def vsrdWork (x : Vx) (r : Core) : EngM Unit := do
  let e ← get
  let n := r.len * r.ew / 8
  let q := takeStream (streamKey e.s e.ctx (x.key / 64) (wB x.w) 0) n e.s
  if q.1.length < n then throw .wait
  modS fun _ => q.2
  (List.range r.len).forM fun i => putE x (wD x.w) r.ew i (bitField q.1 (i * r.ew) r.ew)

/-- R156: VL elements of the group go to the IN queue; without room the instruction waits. -/
def vswrWork (x : Vx) (r : Core) : EngM Unit := do
  let e ← get
  let key := streamKey e.s e.ctx (x.key / 64) (wB x.w) 1
  let n := r.len * r.ew / 8
  if streamCap e.s (x.key / 64) (wB x.w) < (Tbl.get [] e.s.streams key).length + n then throw .wait
  modS (pushStream key ((List.range r.len).flatMap fun i => leBytes (r.ew / 8) (r.getE (wD x.w) r.ew i)))

/-- R156: element i of those that a VSRD takes from the front of a queue. -/
def streamElem (s : State) (key : Nat) (r : Core) (i : Nat) : Nat :=
  bitField ((Tbl.get [] s.streams key).take (r.len * r.ew / 8)) (i * r.ew) r.ew

/-- R156: the bytes of VL elements of the group that a VSWR names. -/
def elemBytes (w : Nat) (r : Core) : Bytes := (List.range r.len).flatMap fun i => leBytes (r.ew / 8) (r.getE (wD w) r.ew i)

/-- R156: a queue from which a VSRD has taken its elements. -/
def takenFrom (s : State) (key : Nat) (r : Core) : Tbl Bytes :=
  Tbl.put [] s.streams key ((Tbl.get [] s.streams key).drop (r.len * r.ew / 8))

theorem exec_vsrd (b c : Nat) (s : State) :
    exec (.vsrd b c) s = .next (pairRow b c 0x2600 (fun x r => { v := (wD x.w, r.span) }) vsrdWork s) := rfl

theorem exec_vswr (b c : Nat) (s : State) : exec (.vswr b c) s = .next (pairRow b c 0x2601 (fun _ _ => {}) vswrWork s) := rfl

section
variable {x : Vx} {r : Core} {e : Eng}

theorem vsrdWork_waits (few : (Tbl.get [] e.s.streams (streamKey e.s e.ctx (x.key / 64) (wB x.w) 0)).length < r.len * r.ew / 8) :
    vsrdWork x r e = .error .wait e := by
  refine (congrFun (if_pos ?_) e :)
  rw [takeStream, List.length_take]
  omega

theorem vsrdWork_enough {key : Nat} (hk : key = streamKey e.s e.ctx (x.key / 64) (wB x.w) 0)
    (enough : r.len * r.ew / 8 ≤ (Tbl.get [] e.s.streams key).length) :
    vsrdWork x r e = (List.range r.len).forM (fun i => putE x (wD x.w) r.ew i (streamElem e.s key r i))
      { e with s := { e.s with streams := takenFrom e.s key r } } := by
  subst hk
  refine (congrFun (if_neg ?_) e :)
  rw [takeStream, List.length_take]
  omega

theorem vswrWork_waits (full : streamCap e.s (x.key / 64) (wB x.w) <
    (Tbl.get [] e.s.streams (streamKey e.s e.ctx (x.key / 64) (wB x.w) 1)).length + r.len * r.ew / 8) :
    vswrWork x r e = .error .wait e := (congrFun (if_pos full) e :)

theorem vswrWork_room {key : Nat} (hk : key = streamKey e.s e.ctx (x.key / 64) (wB x.w) 1)
    (room : (Tbl.get [] e.s.streams key).length + r.len * r.ew / 8 ≤ streamCap e.s (x.key / 64) (wB x.w)) :
    vswrWork x r e = .ok () { e with s := pushStream key (elemBytes x.w r) e.s } := by
  subst hk
  exact (congrFun (if_neg (Nat.not_lt.mpr room)) e :)

end

/-! ### Instructions that are not element-resumable (R140, R157, R158) -/

section
variable {x : Vx} {r : Core} {e : Eng} {legal : Core → Bool} {dest : Core → Dest} {need : EngM Unit} {work : Core → EngM Unit}

/-- R140: on legal registers, what the instruction needs, then its work unless VL is 0, then its end. -/
theorem vecWhole_legal (hr : Tbl.find? e.s.cores x.key = some r) (hv : r.invalid = false) (hl : legal r = true) (h0 : r.vresume = 0) :
    vecWhole x legal dest need work e = (destWork x (dest r) need >>= fun _ =>
      if r.len ≠ 0 then destWork x (dest r) (work r) >>= fun _ => stopTrap 0 >>= fun _ => vecDone x else vecDone x) e := by
  have legal' : ¬(r.invalid || !legal r || r.vresume != 0) = true := by simp [hv, hl, h0]
  unfold vecWhole
  refine Eq.trans (b := _) (bind_ok (a := r) (e' := e) ?_) (congrFun (if_neg legal') e)
  rw [← getCore_find hr]
  rfl

variable (hr : Tbl.find? e.s.cores x.key = some r) (hv : r.invalid = false) (hl : legal r = true) (h0 : r.vresume = 0)
include hr hv hl h0

/-- R158: what the instruction needs and does not have ends it. -/
theorem vecWhole_fault {st : Nat} {info : FaultInfo} (lacks : need e = .error (.fault st info) e) :
    vecWhole x legal dest need work e = .error (.fault st info) { e with s := freeDest x (dest r) e.ctx e.s } := by
  rw [vecWhole_legal hr hv hl h0]
  refine bind_error ?_
  simp only [destWork, lacks]

variable (trap : e.trap = none) (has : need e = .ok () e)
include trap has

/-- R141: with VL = 0 the instruction only steps the pc. -/
theorem vecWhole_empty (empty : r.len = 0) : vecWhole x legal dest need work e = vecDone x e := by
  rw [vecWhole_legal hr hv hl h0, bind_ok (destWork_ok has trap), if_neg (not_not.mpr empty)]

/-- R149: an instruction that waits leaves everything as it is. -/
theorem vecWhole_waits (live : r.len ≠ 0) (waits : work r e = .error .wait e) : vecWhole x legal dest need work e = .error .wait e := by
  rw [vecWhole_legal hr hv hl h0, bind_ok (destWork_ok has trap), if_pos live]
  refine bind_error ?_
  simp only [destWork, waits]

/-- R157: an instruction whose work goes through ends at the next pc. -/
theorem vecWhole_works {f : Eng} (live : r.len ≠ 0) (works : work r e = .ok () f) (quiet : f.trap = none) :
    vecWhole x legal dest need work e = vecDone x f := by
  rw [vecWhole_legal hr hv hl h0, bind_ok (destWork_ok has trap), if_pos live, bind_ok (destWork_ok works quiet),
    bind_ok (stopTrap_none quiet 0)]

end

/-! ### The pair (R156) -/

theorem needPair_own {x : Vx} {p : Nat} {e : Eng} (own : p = x.lane / 4) (owned : ownsPair e.s e.ctx (x.key / 64) p = true) :
    needPair x p e = .ok () e := by
  unfold needPair
  rw [get_bind, if_neg (by simp [← own, owned])]
  rfl

theorem needPair_other {x : Vx} {p : Nat} {e : Eng} (h : p ≠ x.lane / 4 ∨ ownsPair e.s e.ctx (x.key / 64) p = false) :
    needPair x p e = .error (.fault stTranslation { pairInfo p with element := 0 }) e := by
  unfold needPair
  rw [get_bind, if_pos (by simpa using h)]
  rfl

/-! ### The machine after the row -/

/-- The unit of a core's launch at the start of its work. -/
abbrev rowEng (s : State) (d : Cmd) : Eng := { s := s, ctx := d.ctx, owner := 2 * d.k }

section
variable {s u : State} {b c code w : Nat} {d : Cmd} {r : Core} {work : Vx → EngM Unit}

/-- A row that comes to the end of its instruction on a machine whose memory, counters, log and other cores are those of the fetch. -/
theorem coreNow_of_vecDone {t : State} (h : s.fetches u b c code w d)
    (works : work (s.vx b c w d) (rowEng u d) = vecDone (s.vx b c w d) (rowEng t d)) (hr : Tbl.find? t.cores (b * 64 + c) = some r)
    (h0 : r.vresume = 0) (others : ∀ j, j ≠ b * 64 + c → Tbl.find? t.cores j = Tbl.find? u.cores j)
    (same : t.mem = u.mem ∧ t.counters = u.counters ∧ t.log = u.log) :
    u.coreNow (coreRow b c code work s) b c { r with pc := r.pc + 4 } ∧ (coreRow b c code work s).streams = t.streams := by
  obtain ⟨cs, done, found, rest⟩ := turns_vecDone (s.vx b c w d) h0 (rowEng t d) rfl hr
  rw [done] at works
  obtain ⟨mem, counters, log⟩ := same
  rw [coreRow_fetches h]
  refine ⟨runCore_ok (x := s.vx b c w d) works rfl found mem counters log fun j hj => (rest j hj).trans (others j hj), ?_⟩
  rw [runCore_eq_coreCommit (x := s.vx b c w d) works]
  exact coreCommit_streams ..

theorem runCore_wait {x : Vx} {ctx : Nat} {act : EngM Unit} {e : Eng}
    (h : act { s := u, ctx := ctx, owner := 2 * x.k } = .error .wait e) : runCore x ctx act u = coreCommit x e := by
  unfold runCore
  rw [h]

/-- R149: a row that waits. -/
theorem coreNow_of_wait (h : s.fetches u b c code w d) (waits : work (s.vx b c w d) (rowEng u d) = .error .wait (rowEng u d))
    (hr : Tbl.find? u.cores (b * 64 + c) = some r) :
    u.coreNow (coreRow b c code work s) b c r ∧ (coreRow b c code work s).streams = u.streams := by
  have idle : runCore (s.vx b c w d) d.ctx (pure ()) u = coreCommit (s.vx b c w d) (rowEng u d) := runCore_eq_coreCommit rfl
  rw [coreRow_fetches h, runCore_wait waits]
  refine ⟨?_, coreCommit_streams ..⟩
  rw [← idle]
  exact runCore_ok (x := s.vx b c w d) (e := rowEng u d) rfl rfl hr rfl rfl rfl fun _ _ => rfl

/-- The commit of a core's work finds its launch again. -/
theorem findCmd_coreCommit {x : Vx} {e : Eng} (h : findCmd e.s x.k = some d) : ∃ d', findCmd (coreCommit x e) x.k = some d' := by
  obtain ⟨f, cs, ws, -, sent⟩ := sendWrites_spec e.ctx x.k e.wr (dropUsed e.owner e.used e.s) d h
  have committed : findCmd (engCommit (some x.k) e) x.k = some { d with waits := ws } := sent
  obtain ⟨ws', g, hg, eq⟩ := coreCommit_eq x e
  have noted : findCmd (modCmd x.k g (engCommit (some x.k) e)) x.k = some (g { d with waits := ws }) := by
    rw [findCmd_modCmd_self hg, committed, Option.map_some]
  rw [eq]
  split
  · exact ⟨_, noted⟩
  · exact ⟨_, (findCmd_congr (modCore_cmds ..) _).trans noted⟩

/-- R4, R158: a destination without areas of memory is left free in its registers alone. -/
theorem freeDest_registers {x : Vx} {dest : Dest} (registers : dest.mem = []) (ctx : Nat) (s : State) :
    (freeDest x dest ctx s).cmds = s.cmds ∧ (freeDest x dest ctx s).streams = s.streams := by
  have noAreas (s : State) : havocAreas ctx (some x.k) [] s = { s with free := s.free + 1 } := by simp [havocAreas, inAreas]
  unfold freeDest
  rw [registers, noAreas]
  exact ⟨modCore_cmds .., modCore_streams ..⟩

/-- R72, R158: an access that R156 refuses ends the launch. -/
theorem runCore_pairFault {x : Vx} {ctx p : Nat} {act : EngM Unit} {e : Eng} (found : findCmd e.s x.k = some d)
    (stops : act { s := u, ctx := ctx, owner := 2 * x.k } = .error (.fault stTranslation { pairInfo p with element := 0 }) e) :
    ∃ y, findCmd (runCore x ctx act u) x.k = some y ∧ y.st = .done ∧ y.status = 0x0020 ∧ y.fault.addr = BitVec.ofNat 64 p ∧
      (runCore x ctx act u).streams = e.s.streams := by
  have mapped : ((findCmd u x.k).any fun d => unmapFault d stTranslation { pairInfo p with element := 0 }) = false := by
    cases findCmd u x.k with
    | none => rfl
    | some d => simp [unmapFault, pairInfo]
  have faulted : runCore x ctx act u =
      faultCmd x.k stTranslation (coreInfo (coreCommit x e) x { pairInfo p with element := 0 }) (coreCommit x e) := by
    unfold runCore
    simp only [stops, mapped, Bool.false_eq_true, if_false, if_true]
  obtain ⟨d', found'⟩ := findCmd_coreCommit found
  rw [faulted]
  refine ⟨_, findCmd_faultCmd found' _ _, rfl, rfl, rfl, ?_⟩
  rw [faultCmd_frame]
  exact coreCommit_streams ..

end

/-! ### The rows (R149, R156) -/

theorem vx_basalt (s : State) (b w : Nat) (d : Cmd) {c : Nat} (hc : c < 64) : (s.vx b c w d).key / 64 = b := by
  change (b * 64 + c) / 64 = b
  omega

theorem vx_lane (s : State) (b w : Nat) (d : Cmd) {c : Nat} (hc : c < 64) : (s.vx b c w d).lane = c := by
  change (b * 64 + c) % 64 = c
  omega

/-- R156: a pair of the core's own, which its context holds. -/
theorem needPair_row {s u : State} {b c w : Nat} {d : Cmd} (hc : c < 64) (own : wB w = c / 4) (owned : ownsPair u d.ctx b (wB w) = true) :
    needPair (s.vx b c w d) (wB w) (rowEng u d) = .ok () (rowEng u d) := by
  refine needPair_own ?_ ?_
  · rw [vx_lane s b w d hc, own]
  · rw [vx_basalt s b w d hc]
    exact owned

section
variable {s u : State} {b c code w : Nat} {d : Cmd} {r : Core} {dest : Vx → Core → Dest} {work : Vx → Core → EngM Unit}
variable (h : s.fetches u b c code w d) (hr : Tbl.find? u.cores (b * 64 + c) = some r) (hv : r.invalid = false) (h0 : r.vresume = 0)
  (group : groupOk (wD w) r.span = true) (pair : wB w < 16) (hc : c < 64)
include h hr hv h0 group pair hc

/-- R156: a pair that is not the core's own, or not its context's. -/
theorem pairRow_fault (registers : (dest (s.vx b c w d) r).mem = []) (other : wB w ≠ c / 4 ∨ ownsPair u d.ctx b (wB w) = false) :
    ∃ y, findCmd (pairRow b c code dest work s) d.k = some y ∧ y.st = .done ∧ y.status = 0x0020 ∧
      y.fault.addr = BitVec.ofNat 64 (wB w) ∧ (pairRow b c code dest work s).streams = u.streams := by
  have other' : wB w ≠ (s.vx b c w d).lane / 4 ∨ ownsPair u d.ctx ((s.vx b c w d).key / 64) (wB w) = false := by
    rw [vx_lane s b w d hc, vx_basalt s b w d hc]
    exact other
  have lacks := needPair_other (e := rowEng u d) other'
  have stops := vecWhole_fault (x := s.vx b c w d) (e := rowEng u d) (dest := dest (s.vx b c w d)) (work := work (s.vx b c w d))
    (legal := fun r => groupOk (wD w) r.span && decide (wB w < 16)) hr hv (by simp [group, pair]) h0 lacks
  obtain ⟨cmds, streams⟩ := freeDest_registers (x := s.vx b c w d) registers d.ctx u
  obtain ⟨y, found, st, status, addr, rest⟩ := runCore_pairFault (x := s.vx b c w d)
    ((findCmd_congr cmds d.k).trans (fetches_findCmd h)) stops
  rw [pairRow, coreRow_fetches h]
  exact ⟨y, found, st, status, addr, rest.trans streams⟩

variable (own : wB w = c / 4) (owned : ownsPair u d.ctx b (wB w) = true)
include own owned

/-- R141: with VL = 0 the row only steps the pc. -/
theorem pairRow_empty (empty : r.len = 0) : u.coreNow (pairRow b c code dest work s) b c { r with pc := r.pc + 4 } ∧
    (pairRow b c code dest work s).streams = u.streams :=
  coreNow_of_vecDone (t := u) h (vecWhole_empty (x := s.vx b c w d) hr hv (by simp [group, pair]) h0 rfl
    (needPair_row hc own owned) empty) hr h0 (fun _ _ => rfl) ⟨rfl, rfl, rfl⟩

/-- R149: a row whose work waits. -/
theorem pairRow_waits (live : r.len ≠ 0) (waits : work (s.vx b c w d) r (rowEng u d) = .error .wait (rowEng u d)) :
    u.coreNow (pairRow b c code dest work s) b c r ∧ (pairRow b c code dest work s).streams = u.streams :=
  coreNow_of_wait h (vecWhole_waits (x := s.vx b c w d) hr hv (by simp [group, pair]) h0 rfl
    (needPair_row hc own owned) live waits) hr

/-- R156: a row whose work goes through. -/
theorem pairRow_works {t : State} {r' : Core} (live : r.len ≠ 0) (works : work (s.vx b c w d) r (rowEng u d) = .ok () (rowEng t d))
    (hr' : Tbl.find? t.cores (b * 64 + c) = some r') (h0' : r'.vresume = 0)
    (others : ∀ j, j ≠ b * 64 + c → Tbl.find? t.cores j = Tbl.find? u.cores j)
    (same : t.mem = u.mem ∧ t.counters = u.counters ∧ t.log = u.log) :
    u.coreNow (pairRow b c code dest work s) b c { r' with pc := r'.pc + 4 } ∧ (pairRow b c code dest work s).streams = t.streams :=
  coreNow_of_vecDone h (vecWhole_works (x := s.vx b c w d) hr hv (by simp [group, pair]) h0 rfl
    (needPair_row hc own owned) live works rfl) hr' h0' others same

end

/-! ### The elements that move (R156) -/

section
variable {s u : State} {b c w : Nat} {d : Cmd} {r : Core} {key : Nat}
variable (hr : Tbl.find? u.cores (b * 64 + c) = some r) (hv : r.invalid = false) (h0 : r.vresume = 0)
  (group : groupOk (wD w) r.span = true) (pair : wB w < 16) (hc : c < 64) (own : wB w = c / 4)
  (owned : ownsPair u d.ctx b (wB w) = true) (live : r.len ≠ 0)
include hr hv h0 group pair hc own owned live

/-- VSRD with VL elements in the queue. -/
theorem vsrd_enough (h : s.fetches u b c 0x2600 w d) (hk : key = streamKey u d.ctx b (wB w) 0)
    (enough : r.len * r.ew / 8 ≤ (Tbl.get [] u.streams key).length) : ∃ t, exec (.vsrd b c) s = .next t ∧
      u.coreNow t b c { (List.range r.len).foldl (fun y i => Core.setE (wD w) r.ew i (streamElem u key r i) y) r with pc := r.pc + 4 } ∧
      t.streams = takenFrom u key r := by
  have place : key = streamKey u d.ctx ((s.vx b c w d).key / 64) (wB w) 0 := by rw [vx_basalt s b w d hc, hk]
  have steps : ElemStep fun y i => Core.setE (wD w) r.ew i (streamElem u key r i) y := elemStep_setE (pos := id) fun _ _ _ => rfl
  have fills := turns_forM (fun i y => turns_putE (s.vx b c w d) (n := wD w) (ew := r.ew) (i := i) (v := streamElem u key r i) (r := y))
    (List.range r.len) r
  obtain ⟨cs, filled, found, others⟩ := fills (rowEng { u with streams := takenFrom u key r } d) rfl hr
  obtain ⟨now, streams⟩ := pairRow_works (dest := fun x r => { v := (wD x.w, r.span) }) h hr hv h0 group pair hc own owned live
    ((vsrdWork_enough (x := s.vx b c w d) (e := rowEng u d) place enough).trans filled) found
    ((steps.foldl_keeps_vresume _ r).trans h0) others ⟨rfl, rfl, rfl⟩
  rw [steps.foldl_pc] at now
  exact ⟨_, exec_vsrd b c s, now, streams⟩

/-- VSWR with room in the queue. -/
theorem vswr_room (h : s.fetches u b c 0x2601 w d) (hk : key = streamKey u d.ctx b (wB w) 1)
    (room : (Tbl.get [] u.streams key).length + r.len * r.ew / 8 ≤ streamCap u b (wB w)) : ∃ t, exec (.vswr b c) s = .next t ∧
      u.coreNow t b c { r with pc := r.pc + 4 } ∧ t.streams = (pushStream key (elemBytes w r) u).streams := by
  have basalt := vx_basalt s b w d hc
  have place : key = streamKey u d.ctx ((s.vx b c w d).key / 64) (wB w) 1 := by rw [basalt, hk]
  obtain ⟨now, streams⟩ := pairRow_works (dest := fun _ _ => {}) (t := pushStream key (elemBytes w r) u) h hr hv h0 group pair hc own
    owned live (vswrWork_room (x := s.vx b c w d) (e := rowEng u d) place (by rw [basalt]; exact room)) hr h0 (fun _ _ => rfl) ⟨rfl, rfl, rfl⟩
  exact ⟨_, exec_vswr b c s, now, streams⟩

/-- VSRD with fewer. -/
theorem vsrd_waits (h : s.fetches u b c 0x2600 w d) (hk : key = streamKey u d.ctx b (wB w) 0)
    (few : (Tbl.get [] u.streams key).length < r.len * r.ew / 8) :
    ∃ t, exec (.vsrd b c) s = .next t ∧ u.coreNow t b c r ∧ t.streams = u.streams := by
  refine ⟨_, exec_vsrd b c s, pairRow_waits h hr hv h0 group pair hc own owned live (vsrdWork_waits ?_)⟩
  rw [vx_basalt s b w d hc]
  exact hk ▸ few

/-- VSWR without room. -/
theorem vswr_waits (h : s.fetches u b c 0x2601 w d) (hk : key = streamKey u d.ctx b (wB w) 1)
    (full : streamCap u b (wB w) < (Tbl.get [] u.streams key).length + r.len * r.ew / 8) :
    ∃ t, exec (.vswr b c) s = .next t ∧ u.coreNow t b c r ∧ t.streams = u.streams := by
  refine ⟨_, exec_vswr b c s, pairRow_waits h hr hv h0 group pair hc own owned live (vswrWork_waits ?_)⟩
  rw [vx_basalt s b w d hc]
  exact hk ▸ full

end

/-- R122: a queue from which elements were taken, and the others. -/
theorem get_takenFrom (s : State) (key : Nat) (r : Core) :
    Tbl.get [] (takenFrom s key r) key = (Tbl.get [] s.streams key).drop (r.len * r.ew / 8) ∧
    ∀ n, n ≠ key → Tbl.get [] (takenFrom s key r) n = Tbl.get [] s.streams n :=
  ⟨Tbl.get_put_self, fun _ hn => Tbl.get_put_ne hn⟩

/-- R122: a queue to which bytes were appended, and the others. -/
theorem get_pushStream (key : Nat) (bs : Bytes) (s : State) :
    Tbl.get [] (pushStream key bs s).streams key = Tbl.get [] s.streams key ++ bs ∧
    ∀ n, n ≠ key → Tbl.get [] (pushStream key bs s).streams n = Tbl.get [] s.streams n :=
  ⟨Tbl.get_put_self, fun _ hn => Tbl.get_put_ne hn⟩

/-- Settles O29: elements and mask bits by what their writes change, VLD and VST by what their accesses leave, VSRD and VSWR by the pair
and by what their queue holds. -/
theorem vectorElementsAndMemory : Obligations.VectorElementsAndMemory := by
  unfold Obligations.VectorElementsAndMemory
  refine ⟨fun r q ew i x regs masks width within => ⟨getE_setE_self regs width within, fun p j ne => getE_setE_ne width within regs ne,
    rfl, fun n k bit hn hk => ?mask⟩, fun s u b c w d r hr => ⟨fun o e r' row h worked hr' => ?memory,
    fun o row h hv h0 group pair hc => ⟨fun other => ?fault, fun own owned key hk => ⟨fun empty => ?empty, fun live => ?read,
    fun live => ?write⟩⟩⟩⟩
  case mask => exact ⟨getM_setM_self masks hn hk bit, fun n' k' ne => getM_setM_ne masks hn ne bit, rfl⟩
  all_goals simp only [List.mem_cons, List.not_mem_nil, or_false] at row
  case memory =>
    rcases row with rfl | rfl
    · -- VLD
      exact memoryRow_gives h hr worked hr' (finishes_vldWork (x := s.vx b c w d))
    · -- VST
      exact memoryRow_gives h hr worked hr' (finishes_vstWork (x := s.vx b c w d))
  case fault =>
    rcases row with rfl | rfl
    · exact ⟨_, exec_vsrd b c s, pairRow_fault h hr hv h0 group pair hc rfl other⟩
    · exact ⟨_, exec_vswr b c s, pairRow_fault h hr hv h0 group pair hc rfl other⟩
  case empty =>
    rcases row with rfl | rfl
    · exact ⟨_, exec_vsrd b c s, pairRow_empty h hr hv h0 group pair hc own owned empty⟩
    · exact ⟨_, exec_vswr b c s, pairRow_empty h hr hv h0 group pair hc own owned empty⟩
  case read =>
    intro reads
    rcases row with rfl | rfl
    · refine ⟨fun enough => ?_, fun few => vsrd_waits hr hv h0 group pair hc own owned live h hk few⟩
      obtain ⟨t, step, now, streams⟩ := vsrd_enough hr hv h0 group pair hc own owned live h hk enough
      exact ⟨t, step, now, streams ▸ get_takenFrom u key r⟩
    · exact absurd reads Nat.one_ne_zero
  case write =>
    intro writes
    rcases row with rfl | rfl
    · exact absurd writes Nat.zero_ne_one
    · refine ⟨fun room => ?_, fun full => vswr_waits hr hv h0 group pair hc own owned live h hk full⟩
      obtain ⟨t, step, now, streams⟩ := vswr_room hr hv h0 group pair hc own owned live h hk room
      exact ⟨t, step, now, streams ▸ get_pushStream key (elemBytes w r) u⟩

end Sys2Proof.Machine
end

section
/-!
PREFETCH with CANCEL (O20): what raising a prefetch generation does to the contexts and to the prefetched lines, and why a line of
another generation is never found.
-/
namespace Sys2Proof.Machine

@[simp] theorem finishCmd_pref (k : Nat) (r : Option W64) (d : Option Nat) (s : State) : (finishCmd k r d s).pref = s.pref := by
  unfold finishCmd
  split <;> rfl
@[simp] theorem finishCmd_ctxs (k : Nat) (r : Option W64) (d : Option Nat) (s : State) : (finishCmd k r d s).ctxs = s.ctxs := by
  unfold finishCmd
  split <;> rfl

/-! ### Raising the generation -/

@[simp] theorem cancelPrefetch_mem (ctx : Nat) (s : State) : (cancelPrefetch ctx s).mem = s.mem := rfl
@[simp] theorem cancelPrefetch_counters (ctx : Nat) (s : State) : (cancelPrefetch ctx s).counters = s.counters := rfl

/-- R188: the generation wraps, being 16 bits wide. -/
theorem prefGen_cancelPrefetch (ctx : Nat) (s : State) :
    (getCtx (cancelPrefetch ctx s) ctx).prefGen = (getCtx s ctx).prefGen + 1 :=
  congrArg Ctx.prefGen getCtx_modCtx_self

theorem getCtx_cancelPrefetch_ne {ctx x : Nat} (s : State) (h : x ≠ ctx) : getCtx (cancelPrefetch ctx s) x = getCtx s x :=
  getCtx_modCtx_ne h

theorem mem_cancelPrefetch_pref {ctx : Nat} {s : State} {l : PrefLine} :
    l ∈ (cancelPrefetch ctx s).pref ↔ l ∈ s.pref ∧ ¬(l.ctx = ctx ∧ l.gen = (getCtx s ctx).prefGen + 1) := by
  simp only [cancelPrefetch, modCtx_pref, List.mem_filter, Bool.not_eq_true', Bool.and_eq_false_iff, beq_eq_false_iff_ne, not_and_or, ne_eq]

/-- R187, R188: a line that arrives with another tag than the context's generation misses. -/
theorem remoteByte_append_of_gen_ne {s : State} {ctx : Nat} {l : PrefLine} (h : l.gen ≠ (getCtx s ctx).prefGen) (o va : Nat)
    (m : Mapping) : remoteByte { s := { s with pref := s.pref ++ [l] }, ctx := ctx, owner := o } m va =
      remoteByte { s := s, ctx := ctx, owner := o } m va := by
  have same : getCtx { s with pref := s.pref ++ [l] } ctx = getCtx s ctx := rfl
  have misses : (l.gen == (getCtx s ctx).prefGen) = false := beq_false_of_ne h
  simp only [remoteByte, same, List.find?_append, List.find?_singleton, misses, Bool.and_false, Bool.false_and, Bool.false_eq_true,
    if_false, Option.or_none]

/-- R188, R300: a PREFETCH_CANCEL at work. -/
theorem execPrefetchCancel_working {s : State} {k : Nat} {c : Cmd} (h : s.working k 0x14 0 [(16, 1)] c) (flags : body c 16 1 = 2) :
    execPrefetchCancel k s = .next (finishCmd k (some 0) (some 0) (cancelPrefetch c.ctx s)) := by
  have cancel : pfCancel c = true := by
    rw [pfCancel, flags]
    rfl
  rw [execPrefetchCancel, h.1]
  dsimp only
  rw [if_pos cancel, ← findCmd_k (working_find h)]
  exact congrArg Host.Outcome.next (runOp_working (findCmd_k (working_find h) ▸ h) (beq_iff_eq.mpr flags))

/-- Settles O20: the lines by the filter of the cancel, a late line by its tag, which the raised generation differs from. -/
theorem prefetchCancelRaisesTheGeneration : Obligations.PrefetchCancelRaisesTheGeneration := by
  unfold Obligations.PrefetchCancelRaisesTheGeneration
  intro s k c h flags
  have found : findCmd (cancelPrefetch c.ctx s) k = some c := working_find (s := s) h
  have ctxs (x : Nat) : getCtx (finishCmd k (some 0) (some 0) (cancelPrefetch c.ctx s)) x = getCtx (cancelPrefetch c.ctx s) x :=
    getCtx_congr (finishCmd_ctxs ..) x
  have raised := (congrArg Ctx.prefGen (ctxs c.ctx)).trans (prefGen_cancelPrefetch c.ctx s)
  refine ⟨_, execPrefetchCancel_working h flags, finishCmd_ended _ _ found, raised, fun l held => ?lines,
    fun l o va m _ old => remoteByte_append_of_gen_ne ?late o va m, fun x other => (ctxs x).trans (getCtx_cancelPrefetch_ne s other),
    by simp, by simp⟩
  case lines =>
    rw [finishCmd_pref] at held
    rw [raised]
    exact (mem_cancelPrefetch_pref.mp held).2
  case late =>
    rw [raised, old]
    exact left_ne_add.mpr (by decide)

end Sys2Proof.Machine
end

section
/-!
Repeated work, and UPD_RUN and UPD_ROWS (O33): a unit of work of an update command, the units of one that runs alone, and its end with
its last unit.
-/
namespace Sys2Proof.Machine

/-! ### Repeated work -/

theorem repeatWork_add (f : State → State) (m n : Nat) (s : State) :
    repeatWork f (m + n) s = repeatWork f n (repeatWork f m s) := by
  induction m generalizing s with
  | zero => rw [Nat.zero_add, repeatWork]
  | succ m ih => rw [Nat.succ_add, repeatWork, repeatWork, ih]

theorem repeatWork_of_fixed {f : State → State} {s : State} (fixed : f s = s) (n : Nat) : repeatWork f n s = s := by
  induction n with
  | zero => rfl
  | succ n ih => rw [repeatWork, fixed, ih]

/-- Once a step of work leaves nothing for the next one to do, further repetitions change nothing. -/
theorem repeatWork_of_last {f : State → State} {s : State} {j n : Nat} (within : j < n)
    (last : f (f (repeatWork f j s)) = f (repeatWork f j s)) : repeatWork f n s = f (repeatWork f j s) := by
  obtain ⟨m, rfl⟩ := Nat.exists_eq_add_of_lt within
  calc repeatWork f (j + m + 1) s
      = repeatWork f (m + 1) (repeatWork f j s) := by rw [Nat.add_assoc, repeatWork_add]
    _ = repeatWork f m (f (repeatWork f j s)) := repeatWork.eq_2 ..
    _ = f (repeatWork f j s) := repeatWork_of_fixed last m

/-! ### Units of work of an update command (R205) -/

section
variable {s : State} {k : Nat} {c : Cmd} {work : Cmd → EngM (Option (Option W64 × Option Nat))}

/-- R205: a unit of a command at work that has not read its slot yet, or whose operands are its own. -/
theorem upUnit_started (h : findCmd s k = some c) (started : c.st = .started)
    (clear : c.prog.slot.isEmpty = true ∨ upClashes s c = []) : upUnit work k s = runWatched c false (work c) s := by
  have free : (!c.prog.slot.isEmpty && !(upClashes s c).isEmpty) = false := by
    rcases clear with unread | own
    · rw [unread, Bool.not_true, Bool.false_and]
    · rw [own, List.isEmpty_nil, Bool.not_true, Bool.and_false]
  simp only [upUnit, h, started, ne_eq, not_true_eq_false, if_false, free, Bool.false_eq_true]

/-- A command that has ended has no units of work left. -/
theorem upUnit_ended (h : findCmd s k = some c) (ended : c.st = .done) : upUnit work k s = s := by
  simp only [upUnit, h, ended, ne_eq, reduceCtorEq, not_false_eq_true, if_true]

/-- R210: when the next unit of a command is its last, that unit ends the command, and no later unit changes anything. -/
theorem upUnit_last {o : (Option W64 × Option Nat) × Eng} (h : findCmd s k = some c) (started : c.st = .started)
    (clear : c.prog.slot.isEmpty = true ∨ upClashes s c = []) (last : s.doesPart c false (work c) = some o) :
    (upUnit work k s).endedWork c o ∧ upUnit work k (upUnit work k s) = upUnit work k s := by
  have ends : (upUnit work k s).endedWork c o := by
    rw [upUnit_started h started clear]
    exact runWatched_endedWork last
  obtain ⟨d, found, done, -⟩ := ends.1
  rw [findCmd_k h] at found
  exact ⟨ends, upUnit_ended found done⟩

/-! ### The rows of UPD_RUN and UPD_ROWS (R204, R206) -/

/-- R204, R206: a command at work that runs alone does all the units that it has left. -/
theorem upAll_alone {op ext : Nat} {used : List (Nat × Nat)} (h : s.working k op ext used c) (legal : upLegal c = true)
    (alone : s.alone k) : runOp k op ext used upLegal (upAll work) s =
      repeatWork (upUnit work k) (upLeft c) { s with free := s.free + 1 } := by
  obtain rfl : c.k = k := findCmd_k (readyCmd_find h.1)
  rw [runOp_working h legal, upAll, workBudget_alone alone]

end

/-- Settles O33: each row repeats its units, the last of which ends the command, so that the repetitions after it change nothing. -/
theorem updatesEndWithTheirLastUnit : Obligations.UpdatesEndWithTheirLastUnit := by
  unfold Obligations.UpdatesEndWithTheirLastUnit
  rintro s _ k j c c' o i hi h legal alone within rfl found started clear last
  obtain ⟨ends, settled⟩ := upUnit_last found started clear last
  have row : exec i.1 s = .next (upUnit i.2.2.2 k (repeatWork (upUnit i.2.2.2 k) j { s with free := s.free + 1 })) := by
    rw [← repeatWork_of_last within settled]
    simp only [List.mem_cons, List.not_mem_nil, or_false] at hi
    rcases hi with rfl | rfl <;> exact congrArg Host.Outcome.next (upAll_alone h legal alone)
  exact ⟨_, row, ends⟩

end Sys2Proof.Machine
end

section
/-!
The commands of the Solver Engine (O34): a block or a step of systems, those of a command that runs alone, its end with the last one,
and the start of a system, which counts the command on by one system and leaves it at work.
-/
namespace Sys2Proof.Machine

/-! ### Steps of a solver command (R243) -/

section
variable {s : State} {k : Nat} {c : Cmd} {work : Cmd → EngM (Option (Option W64 × Option Nat))}

/-- R242, R243: a step of a command at work whose areas no other command at work shares. -/
theorem slvUnit_started (h : findCmd s k = some c) (started : c.st = .started) (clear : slvClashes s c = []) :
    slvUnit work k s = runWatched c false (work c) s := by
  simp only [slvUnit, h, started, clear, ne_eq, not_true_eq_false, List.isEmpty_nil, Bool.not_true, Bool.false_eq_true, if_false]

/-- A command that has ended has no steps left. -/
theorem slvUnit_ended (h : findCmd s k = some c) (ended : c.st = .done) : slvUnit work k s = s := by
  simp only [slvUnit, h, ended, ne_eq, reduceCtorEq, not_false_eq_true, if_true]

/-- R241: when the next step of a command is its last, that step ends the command, and no later step changes anything. -/
theorem slvUnit_last {o : (Option W64 × Option Nat) × Eng} (h : findCmd s k = some c) (started : c.st = .started)
    (clear : slvClashes s c = []) (last : s.doesPart c false (work c) = some o) :
    (slvUnit work k s).endedWork c o ∧ slvUnit work k (slvUnit work k s) = slvUnit work k s := by
  have ends : (slvUnit work k s).endedWork c o := by
    rw [slvUnit_started h started clear]
    exact runWatched_endedWork last
  obtain ⟨d, found, done, -⟩ := ends.1
  rw [findCmd_k h] at found
  exact ⟨ends, slvUnit_ended found done⟩

/-- R243: a command at work that runs alone does all the steps that it has left. -/
theorem slvRun_alone {op ext : Nat} {used : List (Nat × Nat)} {legal : Cmd → Bool} {left : Cmd → Nat} (h : s.working k op ext used c)
    (ok : legal c = true) (alone : s.alone k) : runOp k op ext used legal (slvRun left work) s =
      repeatWork (slvUnit work k) (left c) { s with free := s.free + 1 } := by
  obtain rfl : c.k = k := findCmd_k (working_find h)
  rw [runOp_working h ok, slvRun, workBudget_alone alone]

end

/-! ### Work that leaves the count of systems taken (R212)

The rules by which such work is put together are those of `Leads RunOnly`, for the relation `SameNext`. -/

/-- Work that goes through leaves command k as it was, but for engine state other than the number of its next system. -/
abbrev KeepsNext {α : Type} (k : Nat) (act : EngM α) : Prop := Leads (SameNext k) act

section
variable {k : Nat}

theorem findCmd_modProg {s : State} {d : Cmd} (h : findCmd s k = some d) (f : Progress → Progress) :
    findCmd (modProg k f s) k = some { d with prog := f d.prog } := by
  rw [modProg, findCmd_modCmd_self (by intro c; rfl), h, Option.map_some]

theorem cmdProg_of_find {s : State} {c d : Cmd} (h : findCmd s c.k = some d) : cmdProg s c = d.prog := by
  rw [cmdProg, h]

section
variable {α β : Type} {act : EngM α} {g : α → EngM β}

theorem keepsNext_pure {a : α} : KeepsNext k (pure a : EngM α) := by
  intro e b f h
  cases h
  exact .refl _ _

theorem keepsNext_throw {r : EngStop} : KeepsNext k (throw r : EngM α) := fun _ _ _ h => nomatch h

theorem keepsNext_get : KeepsNext k (get : EngM Eng) := by
  intro e b f h
  cases h
  exact .refl _ _

theorem keepsNext_bind (hx : KeepsNext k act) (hg : ∀ a, KeepsNext k (g a)) : KeepsNext k (act >>= g) := by
  intro e b f h
  obtain ⟨a, u, hu, hf⟩ := ok_of_bind h
  exact (hx e a u hu).trans (hg a u b f hf)

theorem keepsNext_ite {p : Prop} [Decidable p] {act' : EngM α} (h : KeepsNext k act) (h' : KeepsNext k act') :
    KeepsNext k (if p then act else act') := by
  split
  · exact h
  · exact h'

/-- Work that goes through where a condition holds not. -/
theorem keepsNext_unless {p : Prop} [Decidable p] {stop : EngStop} {h : β → EngM α} (hx : KeepsNext k act) :
    KeepsNext k (if p then (throw stop : EngM β) >>= h else act) := by
  split
  · exact fun _ _ _ done => nomatch done
  · exact hx

/-- Work that goes on from a value that other work gives where a condition holds. -/
theorem keepsNext_when {p : Prop} [Decidable p] {first : EngM β} {rest : β → EngM α} (b : β) (hx : KeepsNext k first)
    (hr : ∀ b, KeepsNext k (rest b)) : KeepsNext k (if p then first >>= rest else rest b) :=
  keepsNext_ite (keepsNext_bind hx hr) (hr b)

/-- Reads and writes through the page mappings do not touch the commands. -/
theorem keepsNext_of_only (h : EO act) : KeepsNext k act := fun e a f hf => (h e a f hf).1.sameNext

end

theorem keepsNext_getS : KeepsNext k getS := keepsNext_bind keepsNext_get fun _ => keepsNext_pure

theorem keepsNext_readV (va n : Nat) : KeepsNext k (readV va n) := keepsNext_of_only fun _ _ _ => readV_only

theorem keepsNext_writeV (va : Nat) (bs : Bytes) : KeepsNext k (writeV va bs) := keepsNext_of_only fun _ _ _ => writeV_only

theorem keepsNext_freeBelow (n : Nat) : KeepsNext k (freeBelow n) :=
  keepsNext_of_only (eo_get fun _ => eo_set ⟨rfl, rfl⟩ eo_pure)

theorem keepsNext_freeWord : KeepsNext k freeWord := keepsNext_of_only (eo_get fun _ => eo_set ⟨rfl, rfl⟩ eo_pure)

theorem keepsNext_addWarn (w : BitVec 16) : KeepsNext k (addWarn w) := by
  intro e a f h
  cases h
  exact .refl _ _

/-! ### The start of a system (R212, R233, R235, R243) -/

theorem keepsNext_readWords (code va n : Nat) : KeepsNext k (readWords code va n) :=
  keepsNext_bind (keepsNext_readV _ _) fun _ => keepsNext_pure

theorem keepsNext_readSys (list idx : Nat) : KeepsNext k (readSys list idx) :=
  keepsNext_bind (keepsNext_readV _ _) fun _ => keepsNext_unless keepsNext_pure

theorem keepsNext_readPattern (va : Nat) : KeepsNext k (readPattern va) :=
  keepsNext_bind (keepsNext_readV _ _) fun _ => keepsNext_unless
    (keepsNext_bind (keepsNext_readV _ _) fun _ => keepsNext_ite keepsNext_pure keepsNext_throw)

theorem keepsNext_pickOf {α : Type} (d : α) (l : List α) : KeepsNext k (pickOf d l) := by
  unfold pickOf
  split
  · exact keepsNext_pure
  · exact keepsNext_bind (keepsNext_freeBelow _) fun _ => keepsNext_pure

end

section
variable {c : Cmd}

theorem keepsNext_slProg : KeepsNext c.k (slProg c) := keepsNext_bind keepsNext_getS fun _ => keepsNext_pure

theorem slProg_eq {e : Eng} {d : Cmd} (h : findCmd e.s c.k = some d) : slProg c e = .ok d.prog e := by
  show EStateM.Result.ok (cmdProg e.s c) e = _
  rw [cmdProg_of_find h]

theorem keepsNext_keepSl {f : Progress → Progress} (h : ∀ p, (f p).next = p.next) : KeepsNext c.k (keepSl c f) := by
  intro e a u done
  cases done
  exact fun d found => ⟨f d.prog, findCmd_modProg found f, h d.prog⟩

theorem keepsNext_chooseX0 (d : SysD) (p : Pat) : KeepsNext c.k (chooseX0 c d p) :=
  keepsNext_bind (keepsNext_readV _ _) fun _ => keepsNext_bind keepsNext_slProg fun _ => keepsNext_ite keepsNext_pure
    (keepsNext_ite (keepsNext_bind (keepsNext_readWords _ _ _) fun _ => keepsNext_pure)
      (keepsNext_bind (keepsNext_addWarn _) fun _ => keepsNext_pure))

theorem keepsNext_stopFtw (late : Bool) : KeepsNext c.k (stopFtw c late) :=
  keepsNext_bind keepsNext_getS fun _ => keepsNext_ite (keepsNext_bind keepsNext_freeWord fun _ => keepsNext_pure) keepsNext_pure

theorem keepsNext_writeStatus (d : SysD) (it why flags freg : Nat) (st : SolSt) (late : Bool) (resid : Option Nat) :
    KeepsNext c.k (writeStatus c d it why flags freg st late resid) := by
  refine keepsNext_bind (keepsNext_stopFtw late) fun ftw => ?_
  have rest : ∀ bs, KeepsNext c.k (do
      if why = whyDeadline then addWarn 0x2
      if why = whyConverged then keepSl c fun p => { p with good := p.good + 1 }
      writeV d.stat bs) := fun bs =>
    keepsNext_when () (keepsNext_addWarn _) fun _ => keepsNext_when () (keepsNext_keepSl fun _ => rfl) fun _ => keepsNext_writeV _ bs
  cases resid with
  | some r => exact rest _
  | none => exact keepsNext_bind keepsNext_freeWord fun _ => rest _

theorem keepsNext_writeXf (d : SysD) (p : Pat) (x : List Int) : KeepsNext c.k (writeXf c d p x) :=
  keepsNext_ite (keepsNext_writeV _ _) keepsNext_pure

theorem keepsNext_factMissing (d : SysD) (p : Pat) : KeepsNext c.k (factMissing c d p) :=
  keepsNext_ite keepsNext_pure (keepsNext_bind (keepsNext_readV _ _) fun _ => keepsNext_pure)

theorem keepsNext_pastDeadline : KeepsNext c.k (pastDeadline c) :=
  keepsNext_bind keepsNext_getS fun _ => keepsNext_bind keepsNext_slProg fun _ => keepsNext_pure

theorem keepsNext_takeLane (r : LaneSys) : KeepsNext c.k (takeLane c r) :=
  keepsNext_bind keepsNext_slProg fun _ => keepsNext_bind (keepsNext_pickOf _ _) fun _ => keepsNext_keepSl fun _ => rfl

theorem keepsNext_doneBefore (idx : Nat) : KeepsNext c.k (doneBefore c idx) :=
  keepsNext_bind keepsNext_slProg fun _ => keepsNext_ite keepsNext_pure
    (keepsNext_bind (keepsNext_readSys _ _) fun _ => keepsNext_bind (keepsNext_readV _ _) fun _ => keepsNext_pure)

theorem keepsNext_notStarted (idx : Nat) : KeepsNext c.k (notStarted c idx) :=
  keepsNext_bind (keepsNext_readSys _ _) fun _ => keepsNext_unless <| keepsNext_bind (keepsNext_readPattern _) fun _ =>
    keepsNext_bind (keepsNext_chooseX0 _ _) fun _ => keepsNext_bind (keepsNext_freeBelow _) fun _ =>
      keepsNext_bind keepsNext_freeWord fun _ => keepsNext_bind (keepsNext_writeXf _ _ _) fun _ => keepsNext_writeStatus _ _ _ _ _ _ _ _

theorem keepsNext_startLane (idx : Nat) : KeepsNext c.k (startLane c idx) :=
  keepsNext_bind (keepsNext_readSys _ _) fun _ => keepsNext_unless <| keepsNext_bind (keepsNext_readPattern _) fun _ =>
    keepsNext_bind (keepsNext_chooseX0 _ _) fun _ => keepsNext_bind (keepsNext_factMissing _ _) fun _ =>
      keepsNext_when 1 (keepsNext_freeBelow _) fun _ => keepsNext_ite (keepsNext_writeStatus _ _ _ _ _ _ _ _) <|
        keepsNext_ite (keepsNext_bind keepsNext_freeWord fun _ => keepsNext_writeStatus _ _ _ _ _ _ _ _) (keepsNext_takeLane _)

/-- R212, R233, R243: whether the next system of a list starts, stops at once or is skipped, it changes nothing of its command but the
lanes and the counts. -/
theorem keepsNext_startSystem (idx : Nat) : KeepsNext c.k (startSystem c idx) := by
  refine keepsNext_ite (keepsNext_takeLane _) (keepsNext_bind (keepsNext_doneBefore idx) fun old => ?_)
  cases old with
  | some why => exact keepsNext_when () (keepsNext_addWarn _) fun _ => keepsNext_ite (keepsNext_keepSl fun _ => rfl) keepsNext_pure
  | none =>
    exact keepsNext_bind keepsNext_pastDeadline fun _ => keepsNext_ite (keepsNext_notStarted idx) (keepsNext_startLane idx)

/-- R212: while systems are left, the command has not met a PIVOT_FAULT and a lane is free, a step takes the next system. -/
theorem sysWork_takes {e f : Eng} {d : Cmd} {r : Option (Option W64 × Option Nat)} (found : findCmd e.s c.k = some d)
    (more : d.prog.next < slCount c) (sound : d.prog.doom = false) (free : freeLanes d.prog ≠ []) (row : sysWork c e = .ok r f) :
    ∃ p, findCmd f.s c.k = some { d with prog := p } ∧ p.next = d.prog.next + 1 := by
  have takes : (decide (d.prog.next < slCount c) && !d.prog.doom && !(freeLanes d.prog).isEmpty) = true := by
    simp [more, sound, free]
  unfold sysWork at row
  rw [getS_bind, bind_ok (slProg_eq found)] at row
  dsimp only at row
  rw [if_pos takes] at row
  split at row
  · cases row
  · obtain ⟨_, u, counted, row⟩ := ok_of_bind row
    cases counted
    obtain ⟨_, v, started, row⟩ := ok_of_bind row
    have ends : SameNext c.k v.s f.s := keepsNext_bind keepsNext_slProg (fun _ => keepsNext_ite keepsNext_pure
      (keepsNext_ite keepsNext_throw keepsNext_pure)) v r f row
    exact ((keepsNext_startSystem _ _ _ _ started).trans ends) _ (findCmd_modProg found _)

end

/-! ### From the work to the machine -/

theorem keepReads_sameNext (k : Nat) (e : Eng) (s : State) : SameNext k s (keepReads k e s) := by
  unfold keepReads
  split
  · exact fun d found => ⟨_, findCmd_modProg found _, rfl⟩
  · exact .refl k s

@[simp] theorem keepReads_mem (k : Nat) (e : Eng) (s : State) : (keepReads k e s).mem = s.mem := by
  unfold keepReads
  split <;> rfl

/-- Work that goes through and does not end its command leaves it at work, with the number of its next system, and memory as they are
after that work. -/
theorem runWatched_goesOn {s : State} {c d : Cmd} {once : Bool} {work : EngM (Option (Option W64 × Option Nat))} {e : Eng}
    (row : work (engOf c once s) = .ok none e) (quiet : e.trap = none) (found : findCmd e.s c.k = some d) :
    (∃ x, findCmd (runWatched c once work s) c.k = some x ∧ x.st = d.st ∧ x.prog.next = d.prog.next) ∧
      (runWatched c once work s).mem = e.s.mem := by
  have part : runPart c once work s = modCmd c.k (fun d => { d with warns := d.warns ||| e.warns })
      (keepReads c.k e (noteTouched c.k e.pages (engCommit (some c.k) e))) := by
    unfold engOf at row
    unfold runPart
    simp only [row, quiet]
  obtain ⟨_, _, w, -, sent⟩ := sendWrites_spec e.ctx c.k e.wr (dropUsed e.owner e.used e.s) d found
  have noted : findCmd (noteTouched c.k e.pages (engCommit (some c.k) e)) c.k =
      some { d with waits := w, touched := addPages d.touched e.pages } := by
    rw [noteTouched, findCmd_modCmd_self (by intro c; rfl), engCommit, findCmd_orSticky, sent]
    rfl
  obtain ⟨p, kept, next⟩ := keepReads_sameNext c.k e _ _ noted
  have warned : findCmd (runPart c once work s) c.k =
      some { d with waits := w, touched := addPages d.touched e.pages, prog := p, warns := d.warns ||| e.warns } := by
    rw [part, findCmd_modCmd_self (by intro c; rfl), kept]
    rfl
  obtain ⟨n, hn⟩ := findCmd_progressSince (s := s) warned c.k
  refine ⟨⟨_, hn, rfl, next⟩, ?_⟩
  calc (runWatched c once work s).mem
      = (runPart c once work s).mem := by rw [runWatched, progressSince_frame]
    _ = (noteTouched c.k e.pages (engCommit (some c.k) e)).mem := by rw [part, modCmd_mem, keepReads_mem]
    _ = e.s.mem := by rw [noteTouched_mem, engCommit_frame]

/-! ### The rows of the solver's commands (R212, R243, R249) -/

/-- Settles O34: each row repeats its steps, the last of which ends the command; the start of a system is one such step. -/
theorem solverCommandsEndWithTheirSystems : Obligations.SolverCommandsEndWithTheirSystems := by
  unfold Obligations.SolverCommandsEndWithTheirSystems
  refine fun s k c o => ⟨?rows, fun h legal clear => ?start⟩
  case rows =>
    rintro i j _ c' hi h legal alone within rfl found started clear last
    obtain ⟨ends, settled⟩ := slvUnit_last found started clear last
    refine ⟨_, ?_, ends⟩
    rw [← repeatWork_of_last within settled]
    simp only [List.mem_cons, List.not_mem_nil, or_false] at hi
    rcases hi with rfl | rfl | rfl | rfl | rfl <;> exact congrArg Host.Outcome.next (slvRun_alone h legal alone)
  case start =>
    obtain rfl : c.k = k := findCmd_k (working_find h)
    have found := working_find h
    have started : c.st = .started := (readyCmd_op h.1).2
    have row : exec (.solverSystemStart c.k) s = .next (slvUnit sysWork c.k s) := congrArg Host.Outcome.next (runOp_working h legal)
    refine ⟨fun last => ⟨_, row, (slvUnit_last found started clear last).1⟩, fun e more sound free worked quiet => ?_⟩
    obtain ⟨p, taken, next⟩ := sysWork_takes found more sound free worked
    obtain ⟨⟨d, after, st, next'⟩, mem⟩ := runWatched_goesOn (once := false) worked quiet taken
    rw [← slvUnit_started (work := sysWork) found started clear] at after mem
    exact ⟨_, d, row, after, st.trans started, next'.trans next, mem⟩

end Sys2Proof.Machine
end

section
/-!
The commands of the Collective Engine (O35): a start that leaves its end to deliveries, the steps of a RED_LOWRANK, and LAYOUT_EPOCH.
-/
namespace Sys2Proof.Machine

/-! ### Work that goes through and does not end its command (R251) -/

theorem keepReads_frame (k : Nat) (e : Eng) (s : State) : keepReads k e s = { s with cmds := (keepReads k e s).cmds } := by
  unfold keepReads
  split <;> rfl

/-- Such work is put down, and the command keeps its warnings. -/
theorem runPart_goesOn {s : State} {c : Cmd} {once : Bool} {work : EngM (Option (Option W64 × Option Nat))} {e : Eng}
    (row : work (engOf c once s) = .ok none e) (quiet : e.trap = none) : runPart c once work s =
      modCmd c.k (fun d => { d with warns := d.warns ||| e.warns })
        (keepReads c.k e (noteTouched c.k e.pages (engCommit (some c.k) e))) := by
  unfold engOf at row
  unfold runPart
  simp only [row, quiet]

/-- Beside the machine as such work left it, only the fabric, the commands and the sticky bits have changed. -/
theorem runWatched_goesOn_frame {s : State} {c : Cmd} {once : Bool} {work : EngM (Option (Option W64 × Option Nat))} {e : Eng}
    (row : work (engOf c once s) = .ok none e) (quiet : e.trap = none) : runWatched c once work s = { e.s with
      fab := (runWatched c once work s).fab, cmds := (runWatched c once work s).cmds, ctxs := (runWatched c once work s).ctxs } := by
  rw [runWatched, progressSince_frame, runPart_goesOn row quiet, keepReads_frame, engCommit_frame]
  rfl

/-! ### RED_LOWRANK (R270, R272) -/

/-- R270: the next step of a RED_LOWRANK can be taken: the single reduction that has not been sent, or a step on tiles that the context
holds, under way or due and free for it. -/
def lrReady (s : State) (c : Cmd) : Prop :=
  (lrSmall c = true ∧ c.prog.coll.sent = false) ∨
  (lrSmall c = false ∧ (∀ t, t < lrTiles c → grantedTile s c.ctx c.basalt (t + lrTile c) = true) ∧
    (lrRunning c = true ∨ (lrDue c = true ∧ lrFree s c = true)))

section
variable {s : State} {k : Nat} {c : Cmd}

/-- R251, R270: a step that can be taken is a part of the command's work. -/
theorem lrStep_ready {gr : Group × Nat} (found : findCmd s k = some c) (started : c.st = .started) (rank : ownRank s c = some gr)
    (ready : lrReady s c) : lrStep k s = runWatched c false (lrNext c gr.1) s := by
  rcases ready with ⟨small, unsent⟩ | ⟨large, granted, go⟩
  · simp only [lrStep, found, started, rank, small, unsent, ne_eq, not_true_eq_false, if_false, if_true, Bool.not_false]
  · have clear : ((List.range (lrTiles c)).map (· + lrTile c)).find? (fun t => !grantedTile s c.ctx c.basalt t) = none := by
      simpa using granted
    have goes : (lrRunning c || (lrDue c && lrFree s c)) = true := by simpa using go
    simp only [lrStep, found, started, rank, large, clear, goes, ne_eq, not_true_eq_false, Bool.false_eq_true, if_false, if_true]

/-- A command that has ended has no steps left. -/
theorem lrStep_ended (found : findCmd s k = some c) (ended : c.st = .done) : lrStep k s = s := by
  simp only [lrStep, found, ended, ne_eq, reduceCtorEq, not_false_eq_true, if_true]

/-- R270: when the next step of a command is its last, that step ends the command, and no later step changes anything. -/
theorem lrStep_last {gr : Group × Nat} {o : (Option W64 × Option Nat) × Eng} (found : findCmd s k = some c) (started : c.st = .started)
    (rank : ownRank s c = some gr) (ready : lrReady s c) (last : s.doesPart c false (lrNext c gr.1) = some o) :
    (lrStep k s).endedWork c o ∧ lrStep k (lrStep k s) = lrStep k s := by
  have ends : (lrStep k s).endedWork c o := by
    rw [lrStep_ready found started rank ready]
    exact runWatched_endedWork last
  obtain ⟨d, after, done, -⟩ := ends.1
  rw [findCmd_k found] at after
  exact ⟨ends, lrStep_ended after done⟩

/-- R270: the row of a legal RED_LOWRANK at work. -/
theorem exec_redLowrank (h : s.working k 0x61 1 [(16, 7), (24, 6), (32, 92)] c) (legal : lrLegal c = true) :
    exec (.redLowrank k) s = .next (repeatWork (lrStep k) 5 s) := by
  obtain rfl : c.k = k := findCmd_k (working_find h)
  exact congrArg Host.Outcome.next (runOp_working h legal)

/-! ### LAYOUT_EPOCH (R267, R282) -/

theorem exec_layoutEpoch (h : s.working k 0x70 0 [(16, 2), (20, 4)] c) :
    exec (.layoutEpoch k) s = .next (if collsDone s c then leWork c s else s) := congrArg Host.Outcome.next (runOp_working h rfl)

/-- The end of a command touches no group. -/
theorem findGroup_finishCmd (k : Nat) (r : Option W64) (d : Option Nat) (s : State) (m : Nat) :
    findGroup (finishCmd k r d s) m = findGroup s m := by
  unfold finishCmd
  split <;> rfl

/-- R251: without a rank of its own in the one group that it names, the command ends with a fault. -/
theorem leWork_noRank (one : body c 16 2 ≠ 0xFFFF) (noRank : ownRank s c = none) :
    leWork c s = faultCmd c.k stTranslation (groupInfo (body c 16 2)) s := by
  simp only [leWork, one, if_false, noRank]

/-- R267: with a rank there, the group takes the epoch and the command ends with the previous one. -/
theorem leWork_rank {gr : Group × Nat} {g : Group} (one : body c 16 2 ≠ 0xFFFF) (rank : ownRank s c = some gr)
    (found : findGroup s (body c 16 2) = some g) : leWork c s = finishCmd c.k (some (g.epoch.setWidth 64)) none
      (modGroup (body c 16 2) (setEpoch c (BitVec.ofNat 32 (body c 20 4))) s) := by
  simp only [leWork, one, if_false, rank, found, List.foldl_cons, List.foldl_nil]

section
variable (c) (epoch : BitVec 32) (g : Group)

/-- R267: a group with the written epoch, and the tag count of the issuing Basalt begun again. -/
def withEpoch : Group := { g with epoch := epoch, tags := Tbl.put 0 g.tags c.basalt 0 }

/-- R250, R267: the staged table of the new epoch comes into force once it is whole. -/
theorem setEpoch_whole {st : BitVec 32 × Nat × List (Nat × BitVec 32)} (staged : g.staged = some st) (same : st.1 = epoch)
    (whole : st.2.2.length = st.2.1) : setEpoch c epoch g =
      { withEpoch c epoch g with r := st.2.1, table := (List.range st.2.1).map fun i => Tbl.get 0 st.2.2 i, staged := none } := by
  simp only [setEpoch, withEpoch, staged, same, whole, and_self, if_true]

/-- R267: without a staged table, nothing else changes. -/
theorem setEpoch_unstaged (none : g.staged = none) : setEpoch c epoch g = withEpoch c epoch g := by
  simp only [setEpoch, withEpoch, none]

/-- R267: in every case the group has the epoch and its tags begin again, and beside the tree in force nothing else changes. -/
theorem setEpoch_eq : ∃ r table staged, setEpoch c epoch g = { withEpoch c epoch g with r := r, table := table, staged := staged } := by
  unfold setEpoch
  dsimp only
  repeat' split
  all_goals exact ⟨_, _, _, rfl⟩

theorem setEpoch_epoch : (setEpoch c epoch g).epoch = epoch := by
  obtain ⟨r, table, staged, eq⟩ := setEpoch_eq c epoch g
  rw [eq]
  rfl

theorem setEpoch_tag : Tbl.get 0 (setEpoch c epoch g).tags c.basalt = 0 := by
  obtain ⟨r, table, staged, eq⟩ := setEpoch_eq c epoch g
  rw [eq]
  change Tbl.get 0 (Tbl.put 0 g.tags c.basalt 0) c.basalt = 0
  exact Tbl.get_put_self

theorem setEpoch_installed : (setEpoch c epoch g).installed = g.installed := by
  obtain ⟨r, table, staged, eq⟩ := setEpoch_eq c epoch g
  rw [eq]
  rfl

end

end

/-- Settles O35: each start by its work, RED_LOWRANK by its last step, after which the repetitions change nothing, LAYOUT_EPOCH by what
becomes of its group. -/
theorem collectiveCommandsAndEpochs : Obligations.CollectiveCommandsAndEpochs := by
  unfold Obligations.CollectiveCommandsAndEpochs
  refine ⟨fun s k c => ⟨fun i hi h legal => ?starts, ?lowrank⟩, fun s k c h one => ⟨fun waits => ?waits, fun g n go rank known => ?epoch,
    fun go noRank => ?noRank⟩⟩
  case starts =>
    have row : exec i.1 s = .next (collOnce i.2.2.2.2.2 c s) := by
      simp only [List.mem_cons, List.not_mem_nil, or_false] at hi
      rcases hi with rfl | rfl | rfl | rfl | rfl <;> exact congrArg Host.Outcome.next (runOp_working h legal)
    have begins (fresh : c.prog.coll.sent = false) : exec i.1 s = .next (runWatched c false (i.2.2.2.2.2 c) s) := by
      rw [row, collOnce, fresh, if_neg Bool.false_ne_true]
    refine ⟨fun sent => by rw [row, collOnce, if_pos sent], fun o fresh ends => ⟨_, begins fresh, runWatched_endedWork ends⟩,
      fun e fresh goes quiet => ⟨_, begins fresh, ?_⟩⟩
    rw [runWatched_goesOn_frame (once := false) goes quiet]
    exact ⟨rfl, rfl, rfl⟩
  case lowrank =>
    rintro j _ c' gr o h legal within rfl found started rank ready last
    obtain ⟨ends, settled⟩ := lrStep_last found started rank ready last
    exact ⟨_, by rw [exec_redLowrank h legal, repeatWork_of_last within settled], ends⟩
  case waits => rw [exec_layoutEpoch h, waits, if_neg Bool.false_ne_true]
  case epoch =>
    obtain rfl : c.k = k := findCmd_k (working_find h)
    have found : findCmd (modGroup (body c 16 2) (setEpoch c (BitVec.ofNat 32 (body c 20 4))) s) c.k = some c := working_find (s := s) h
    refine ⟨_, setEpoch c (BitVec.ofNat 32 (body c 20 4)) g, by rw [exec_layoutEpoch h, if_pos go, leWork_rank one rank known],
      finishCmd_endedWith _ none found, ?_, setEpoch_epoch .., setEpoch_tag .., fun st staged same whole => ?_,
      fun unstaged => ?_, fun m other => (findGroup_finishCmd ..).trans (findGroup_modGroup_ne other), finishCmd_othersSame _ none found,
      by simp, by simp⟩
    · rw [findGroup_finishCmd, findGroup_modGroup_self (setEpoch_installed c _), known, Option.map_some]
    · rw [setEpoch_whole c _ g staged same whole]
      exact ⟨rfl, rfl⟩
    · rw [setEpoch_unstaged c _ g unstaged]
      exact ⟨rfl, rfl⟩
  case noRank =>
    obtain rfl : c.k = k := findCmd_k (working_find h)
    refine ⟨_, by rw [exec_layoutEpoch h, if_pos go, leWork_noRank one noRank], faultCmd_ended (working_find h) stTranslation _, ?_,
      by simp⟩
    rw [faultCmd_frame]

end Sys2Proof.Machine
end

section
/-!
Collective messages (O36, O37): what the arrival of a message at a node and at a rank comes to, then the rows by their message.
-/
namespace Sys2Proof.Machine

/-! ### Arrival at a node (R254, R256, R267) -/

section
variable {s : State} {port kind level pos : Nat} {p : Packet} {g : Group} {h : CollHdr} {f : Group → CollHdr → State → State}

theorem meets_hdr (meets : s.meets port kind p g h) : collHdrOf p.payload = h := by
  obtain ⟨-, -, hdr, -⟩ := meets
  exact hdr

/-- R256, R267: a message for a known group, in its epoch, acts on the state with the packet taken. -/
theorem collArrive_meets (meets : s.meets port kind p g h) : collArrive port kind p f s = f g h (s.taken port p) := by
  obtain ⟨takes, -, rfl, rfl, check, known, epoch⟩ := meets
  have still := ((taken_fab port p s).findGroup_eq _).trans known
  unfold collArrive
  dsimp only
  rw [if_neg (by simp), arrive_takes takes]
  simp only [check, still, epoch, Bool.not_true, Bool.false_eq_true, ne_eq, not_true_eq_false, if_false]

/-- R254, R267: such a message at a node hosted here waits while no room is left for its tag, or acts in the tree that its tag was opened
in. -/
theorem nodeArrive_meets (meets : s.meets port kind p g h) : nodeArrive port kind level pos p f s =
    if hostsNode s g level pos && noInstance s g h level pos then parkColl port p s
    else if hostsNode s g level pos then settleInst h level pos
      (f (treeOf (openInst g h level pos (s.taken port p)) g h level pos) h (openInst g h level pos (s.taken port p)))
    else s.taken port p := by
  have arrives := collArrive_meets meets (f := fun g h s => if hostsNode s g level pos then
    settleInst h level pos (f (treeOf (openInst g h level pos s) g h level pos) h (openInst g h level pos s)) else s)
  obtain ⟨-, -, rfl, -, check, known, epoch⟩ := meets
  obtain ⟨fab, taken⟩ := taken_fab port p s
  have hosts : hostsNode (s.taken port p) g level pos = hostsNode s g level pos := by
    rw [taken]
    rfl
  unfold nodeArrive
  simp only [check, known, epoch, decide_true, Bool.true_and, arrives, hosts]

/-- The row of a message to a node, by whether the node is hosted here and room is left for its tag. -/
theorem exec_nodeArrive {i : Instr} (row : exec i s = .next (nodeArrive port kind level pos p f s)) (meets : s.meets port kind p g h)
    {u : State} (opened : openInst g h level pos (s.taken port p) = u) :
    (hostsNode s g level pos = false → exec i s = .next (s.taken port p)) ∧
    (hostsNode s g level pos = true → noInstance s g h level pos = true → exec i s = .next (parkColl port p s)) ∧
    (hostsNode s g level pos = true → noInstance s g h level pos = false →
      exec i s = .next (settleInst h level pos (f (treeOf u g h level pos) h u))) := by
  subst opened
  rw [row, nodeArrive_meets meets]
  refine ⟨fun away => ?_, fun here full => ?_, fun here room => ?_⟩
  · simp only [away, Bool.false_and, Bool.false_eq_true, if_false]
  · simp only [here, full, Bool.and_self, if_true]
  · simp only [here, room, Bool.and_false, Bool.false_eq_true, if_false, if_true]

/-- R256, R268: a message of a group that is not known here is refused. -/
theorem nodeArrive_unknown (takes : s.takes port ptColl p) (ofKind : (collHdrOf p.payload).kind = kind)
    (check : collCheckOk p.payload = true) (unknown : findGroup s (collHdrOf p.payload).group = none) :
    nodeArrive port kind level pos p f s = nack p stCtxGone (s.taken port p) := by
  subst ofKind
  have still := ((taken_fab port p s).findGroup_eq _).trans unknown
  unfold nodeArrive
  simp only [unknown, Bool.and_false, Bool.false_eq_true, if_false]
  unfold collArrive
  dsimp only
  rw [if_neg (by simp), arrive_takes takes]
  simp only [check, still, Bool.not_true, Bool.false_eq_true, ne_eq, not_true_eq_false, if_false]

end

section
variable {s : State} {port kind : Nat} {p : Packet} {g : Group} {i : Instr} {u : State}

/-- The row of an upward message of blocks. -/
theorem exec_upArrive {f : Group → CollHdr → Nat → Nat → Nat → Nat → WireBlock → State → State}
    (row : exec i s = .next (upArrive port kind p f s)) {h : CollHdr} (meets : s.meets port kind p g h)
    (opened : openInst g h (h.level + 1) (p.txn.toNat / 2) (s.taken port p) = u) :
    (hostsNode s g (h.level + 1) (p.txn.toNat / 2) = false → exec i s = .next (s.taken port p)) ∧
    (hostsNode s g (h.level + 1) (p.txn.toNat / 2) = true → noInstance s g h (h.level + 1) (p.txn.toNat / 2) = true →
      exec i s = .next (parkColl port p s)) ∧
    (hostsNode s g (h.level + 1) (p.txn.toNat / 2) = true → noInstance s g h (h.level + 1) (p.txn.toNat / 2) = false →
      exec i s = .next (settleInst h (h.level + 1) (p.txn.toNat / 2)
        ((blocksOf h p).foldl (fun s b => f (treeOf u g h (h.level + 1) (p.txn.toNat / 2)) h (h.level + 1) (p.txn.toNat / 2)
            (p.txn.toNat % 2) b.1 b.2 s)
          (if kind = 4 then u else openBlocks h kind (h.level + 1) (p.txn.toNat / 2) (h.first + (blocksOf h p).length) u)))) := by
  obtain rfl := meets_hdr meets
  unfold upArrive at row
  exact exec_nodeArrive row meets opened

theorem upArrive_unknown (takes : s.takes port ptColl p) (ofKind : (collHdrOf p.payload).kind = kind)
    (check : collCheckOk p.payload = true) (unknown : findGroup s (collHdrOf p.payload).group = none)
    (f : Group → CollHdr → Nat → Nat → Nat → Nat → WireBlock → State → State) :
    upArrive port kind p f s = nack p stCtxGone (s.taken port p) := by
  unfold upArrive
  exact nodeArrive_unknown takes ofKind check unknown

end

/-- Settles O36: each row is an arrival at a node, of the place that its packet names. -/
theorem collectiveMessagesReachTheirNodes : Obligations.CollectiveMessagesReachTheirNodes := by
  unfold Obligations.CollectiveMessagesReachTheirNodes
  refine ⟨?up, ?down, ?data, ?unknown⟩
  case up =>
    rintro s u port p g g' h i hi meets opened rfl
    simp only [List.mem_cons, List.not_mem_nil, or_false] at hi
    rcases hi with rfl | rfl | rfl
    · exact exec_upArrive (f := nodeUp) rfl meets opened
    · exact exec_upArrive (f := nodeUp) rfl meets opened
    · exact exec_upArrive (f := nodeRetryUp) rfl meets opened
  case down =>
    rintro s u port p g g' h i hi meets above opened rfl
    obtain rfl := meets_hdr meets
    have inner : ¬(collHdrOf p.payload).level - 1 = 0 := by omega
    simp only [List.mem_cons, List.not_mem_nil, or_false] at hi
    rcases hi with rfl | rfl | rfl | rfl
    · have row : exec (.collDown port p) s = .next (downArrive port 2 p s) := rfl
      simp only [downArrive, inner, if_false] at row
      exact exec_nodeArrive row meets opened
    · have row : exec (.maxDown port p) s = .next (downArrive port 6 p s) := rfl
      simp only [downArrive, inner, if_false] at row
      exact exec_nodeArrive row meets opened
    · have row : exec (.retryReq port p) s = execRetryReq port p s := rfl
      simp only [execRetryReq, inner, if_false] at row
      exact exec_nodeArrive row meets opened
    · have row : exec (.dataDown port p) s = execDataDown port p s := rfl
      simp only [execDataDown, inner, if_false] at row
      exact exec_nodeArrive row meets opened
  case data =>
    rintro s u port p g h meets opened
    obtain rfl := meets_hdr meets
    have row : exec (.dataUp port p) s = execDataUp port p s := rfl
    unfold execDataUp at row
    exact exec_nodeArrive row meets opened
  case unknown =>
    rintro s port p _ i hi takes - rfl ofKind check unknown
    simp only [List.mem_cons, List.not_mem_nil, or_false] at hi
    rcases hi with rfl | rfl | rfl | rfl
    · exact congrArg Host.Outcome.next (upArrive_unknown takes ofKind check unknown nodeUp)
    · exact congrArg Host.Outcome.next (upArrive_unknown takes ofKind check unknown nodeRetryUp)
    · exact congrArg Host.Outcome.next (upArrive_unknown takes ofKind check unknown nodeUp)
    · have row : exec (.dataUp port p) s = execDataUp port p s := rfl
      unfold execDataUp at row
      exact row.trans (congrArg Host.Outcome.next (nodeArrive_unknown takes ofKind check unknown))

/-! ### Arrival at a rank (R257, R265, R274) -/

/-- R257, R265: a message that finds its command at work, no remote byte missing, is a step of that command. -/
theorem rankArrive_cmd {s : State} {port kind rank : Nat} {p : Packet} {g : Group} {h : CollHdr} {c : Cmd}
    {late : CollHdr → State → State} {work : Cmd → Group → CollHdr → EngM (Option (Option W64 × Option Nat))}
    (meets : s.meets port kind p g h) (finds : rankAt s h rank = .cmd c)
    (ready : ∀ va n e, work c g h { s := s, ctx := c.ctx, owner := 2 * c.k } ≠ .error (.remote va n) e) :
    rankArrive port kind rank p late work s = runWatched c false (work c g h) (s.taken port p) := by
  have arrives := collArrive_meets meets (f := fun g h s => runWatched c false (work c g h) s)
  obtain ⟨-, -, rfl, rfl, check, known, -⟩ := meets
  unfold rankArrive
  -- By `ready` the work asks for no remote byte, so the message is not put aside.
  simp only [check, BEq.rfl, Bool.and_self, if_true, finds, known]
  exact arrives

/-- Settles O37: a message is a step of its command; the deadlines run the command's end. -/
theorem deliveriesEndCollectives : Obligations.DeliveriesEndCollectives := by
  unfold Obligations.DeliveriesEndCollectives
  refine ⟨?messages, ?delivery, ?exchange⟩
  case messages =>
    rintro s port p g h c o i hi meets low finds ready ends
    have row : exec i.1 s = .next (runWatched c false (i.2.2.2 c g h) (s.taken port p)) := by
      obtain rfl := meets_hdr meets
      have leaf (kind : i.2.1 < 9) : (collHdrOf p.payload).level - 1 = 0 := by have := low kind; omega
      simp only [List.mem_cons, List.not_mem_nil, or_false] at hi
      rcases hi with rfl | rfl | rfl | rfl | rfl | rfl
      -- DOWN, MAX_DOWN, RETRY_REQ and DATA_DOWN name a rank at level 1; TOKEN and TOKEN_RET always do.
      iterate 4 exact congrArg Host.Outcome.next ((if_pos (leaf (by simp))).trans (rankArrive_cmd meets finds ready))
      all_goals exact congrArg Host.Outcome.next (rankArrive_cmd meets finds ready)
    exact ⟨_, row, runWatched_endedWork ends⟩
  case delivery =>
    intro s k c g found started sent outside known coll notExchange notEpoch
    have row : exec (.deliveryDeadline k) s = .next (if donePast s c g = true then runPart c false (lateWork c g) s else s) := by
      simp only [exec, execDeliveryDeadline, found, known, started, coll, notExchange, notEpoch, sent, outside, ne_eq, not_false_eq_true,
        true_and]
    exact ⟨fun o past ends => ⟨_, row.trans (congrArg _ (if_pos past)), runPart_doesPart ends⟩,
      fun early => row.trans (congrArg _ (if_neg (Bool.eq_false_iff.mp early)))⟩
  case exchange =>
    intro s k c found started op sent outside
    have row : exec (.exchangeDeadline k) s = .next (if xcPast s c = true then runPart c false (xcLate c) s else s) := by
      simp only [exec, execExchangeDeadline, found, started, op, sent, outside, true_and]
    exact ⟨fun o past ends => ⟨_, row.trans (congrArg _ (if_pos past)), runPart_doesPart ends⟩,
      fun early => row.trans (congrArg _ (if_neg (Bool.eq_false_iff.mp early)))⟩

end Sys2Proof.Machine
end

section
/-!
The nodes of the reduction tree at their deadlines (O38): when a node sends with the children that have arrived, when the root delivers
its first-pass block, and how two blocks combine.
-/
namespace Sys2Proof.Machine

/-! ### NODE_DEADLINE and RETRY_DEADLINE (R261, R263) -/

section
variable {s : State} {i : Nat} {n : Node} {g : Group}

/-- R261: a node of a known group sends when it is open, has not sent and its deadline has passed. -/
theorem execNodeDeadline_of (hn : s.nodes[i]? = some n) (hg : findGroup s n.group = some g) : execNodeDeadline i s =
    .next (if n.sent.isNone && !n.closed && pastPh s n.deadline (n.level * n.levelPh) then
      settleInst (nodeHdr n n.kind) n.level n.pos (nodeSend (treeOf s g (nodeHdr n n.kind) n.level n.pos) n s) else s) := by
  simp only [execNodeDeadline, hn, hg]

/-- R263: an open root in retry delivers at D_R the block that it sent. -/
theorem execRetryDeadline_sent {w : WireBlock} (hn : s.nodes[i]? = some n) (hg : findGroup s n.group = some g) (hw : n.sent = some w)
    {g' : Group} (tree : treeOf s g (nodeHdr n n.kind) n.level n.pos = g') : execRetryDeadline i s =
    .next (if n.inRetry && !n.closed && n.level == treeLevels g'.r && retryPast s n then
      settleInst (nodeHdr n n.kind) n.level n.pos (rootDeliver g' n w s) else s) := by
  simp only [execRetryDeadline, hn, hg, hw, tree]

theorem execRetryDeadline_unsent (hn : s.nodes[i]? = some n) (hw : n.sent = none) : execRetryDeadline i s = .next s := by
  simp only [execRetryDeadline, hn, hw]
  cases findGroup s n.group <;> rfl

/-- R263: outside a retry, once closed, or before D_R, a node is left alone. -/
theorem execRetryDeadline_idle (hn : s.nodes[i]? = some n) (hg : findGroup s n.group = some g)
    (idle : n.inRetry = false ∨ n.closed = true ∨ retryPast s n = false) : execRetryDeadline i s = .next s := by
  cases hw : n.sent with
  | none => exact execRetryDeadline_unsent hn hw
  | some w =>
    rw [execRetryDeadline_sent hn hg hw rfl, if_neg]
    rcases idle with out | closed | early
    · simp [out]
    · simp [closed]
    · simp [early]

end

/-! ### Combining two blocks (R259) -/

/-- R259: of two MAXE, the larger. -/
theorem maxExpByte_eq (a b : BitVec 8) : maxExpByte a b = if b.toInt ≤ a.toInt then a else b := by
  simp only [maxExpByte, ← not_le, ite_not]

/-- Half of a whole number, ties to even. -/
def halfEven (t : Int) : Int := if t % 2 = 0 then t / 2 else if t / 2 % 2 = 0 then t / 2 else t / 2 + 1

theorem two_mul_halfEven (t : Int) : 2 * halfEven t - t ∈ [-1, 0, 1] := by
  simp only [halfEven, List.mem_cons, List.not_mem_nil, or_false]
  split
  · omega
  · split <;> omega

theorem halfEven_even {t : Int} (odd : t % 2 ≠ 0) : halfEven t % 2 = 0 := by
  rw [halfEven, if_neg odd]
  split <;> omega

/-- An element that is not the mark 0x80 lies between -127 and 127. -/
theorem neg_127_le_of_ne_mark {x : BitVec 8} (h : x ≠ 0x80) : -127 ≤ x.toInt := by
  have low := x.le_toInt
  have mark : x.toInt ≠ -128 := fun same => h (BitVec.eq_of_toInt_eq same)
  omega

/-- R259: two elements, neither of them the mark, combine to half their sum, ties to even. -/
theorem combineElem_toInt {x y : BitVec 8} (hx : x ≠ 0x80) (hy : y ≠ 0x80) :
    (combineElem x y).toInt = halfEven (x.toInt + y.toInt) := by
  have lowX := neg_127_le_of_ne_mark hx
  have lowY := neg_127_le_of_ne_mark hy
  have highX := x.toInt_lt
  have highY := y.toInt_lt
  have half := two_mul_halfEven (x.toInt + y.toInt)
  simp only [List.mem_cons, List.not_mem_nil, or_false] at half
  rw [combineElem, if_neg (not_or.mpr ⟨hx, hy⟩)]
  exact BitVec.toInt_ofInt_eq_self (by decide) (by simp; omega) (by simp; omega)

/-- Settles O38: the two deadlines by their conditions, a combined element as half of the sum, ties to even. -/
theorem nodesSendAtTheirDeadlines : Obligations.NodesSendAtTheirDeadlines := by
  unfold Obligations.NodesSendAtTheirDeadlines
  refine ⟨?deadlines, fun a b => ?blocks, fun x y => ⟨fun nan => if_pos nan, fun hx hy => ?elements⟩⟩
  case deadlines =>
    rintro s i n g _ hn hg rfl
    refine ⟨fun fresh opened past => ?_, fun idle => ?_, fun w sent retry opened top past => ?_, execRetryDeadline_idle hn hg⟩
    · rw [exec, execNodeDeadline_of hn hg, if_pos (by simp [fresh, opened, past])]
    · rw [exec, execNodeDeadline_of hn hg, if_neg]
      rcases idle with sent | closed | early
      · simp [Option.isSome_iff_ne_none.mp sent]
      · simp [closed]
      · simp [early]
    · rw [exec, execRetryDeadline_sent hn hg sent rfl, if_pos (by simp [retry, opened, top.symm, past])]
  case blocks => rw [combineBlock, maxExpByte_eq]
  case elements =>
    rw [combineElem_toInt hx hy]
    exact ⟨two_mul_halfEven _, halfEven_even⟩

end Sys2Proof.Machine
end

section
/-!
Packets that this module sends (R316-R318), and the management messages that a request waits for (R352): what they leave of the fabric.
-/
namespace Sys2Proof.Machine

/-! ### What sending a packet changes -/

/-- Nothing but the ports, the packets that leave and those that are held has changed. -/
def PacketOnly (s t : State) : Prop :=
  ∃ ports outbox holds, t = { s with fab := { s.fab with ports := ports, outbox := outbox, holds := holds } }

theorem modPort_packet (p : Nat) (f : Port → Port) (s : State) : PacketOnly s (modPort p f s) := ⟨_, _, _, rfl⟩

theorem sendSelf_packet (p : Packet) (s : State) : PacketOnly s (sendSelf p s) := ⟨_, _, _, rfl⟩

theorem sendOn_packet (port : Nat) (p : Packet) (s : State) : PacketOnly s (sendOn port p s) := by
  unfold sendOn
  dsimp only
  split
  · exact ⟨_, _, _, rfl⟩
  · exact modPort_packet _ _ _

/-- R316, R321: a packet toward its target comes back to the module, leaves on a port, or is counted as unroutable. -/
theorem routeOut_packet (p : Packet) (dl : Option Nat) (s : State) : PacketOnly s (routeOut p dl s) := by
  unfold routeOut
  dsimp only
  generalize (if packetWpActive p = true then BitVec.extractLsb' 0 12 p.wp else dstAddr p.dst) = target
  split
  · exact modPort_packet _ _ _
  · split
    · split
      · exact sendSelf_packet _ _
      · exact sendOn_packet _ _ _
      · exact sendOn_packet _ _ _
      · exact modPort_packet _ _ _
    · exact sendOn_packet _ _ _

theorem injectNow_packet (p : Packet) (s : State) : PacketOnly s (injectNow p s) := by
  unfold injectNow
  dsimp only
  split
  · exact routeOut_packet _ _ _
  · split <;> exact routeOut_packet _ _ _

theorem sendPacket_packet (p : Packet) (s : State) : PacketOnly s (sendPacket p s) := by
  unfold sendPacket
  dsimp only
  split
  · exact ⟨_, _, _, rfl⟩
  · exact injectNow_packet _ _

/-! ### Messages that a request waits for (R345, R352) -/

/-- The messages sent from x to y: of the machine only the fabric has changed, the known tables stand, and the numbers to wait for and the
messages without an acknowledgement have only grown. -/
structure Sends (x y : List (BitVec 32) × State) : Prop where
  fabric : FabOnly x.2 y.2
  known : y.2.fab.known = x.2.fab.known
  numbers : ∀ w ∈ x.1, w ∈ y.1
  unacked : ∀ m ∈ x.2.fab.unacked, m ∈ y.2.fab.unacked

/-- A message of a code to a module is without its acknowledgement, and its number is one to wait for. -/
def Awaits (code : Nat) (dst : BitVec 12) (x : List (BitVec 32) × State) : Prop :=
  ∃ m ∈ x.2.fab.unacked, m.dst = dst ∧ m.mseq ∈ x.1 ∧ field m.payload 0 2 = code

theorem Sends.refl (x : List (BitVec 32) × State) : Sends x x := ⟨.refl _, rfl, fun _ h => h, fun _ h => h⟩

theorem Sends.trans {x y z : List (BitVec 32) × State} (h : Sends x y) (g : Sends y z) : Sends x z :=
  ⟨h.fabric.trans g.fabric, g.known.trans h.known, fun w hw => g.numbers w (h.numbers w hw), fun m hm => g.unacked m (h.unacked m hm)⟩

theorem Awaits.sends {code : Nat} {dst : BitVec 12} {x y : List (BitVec 32) × State} (h : Awaits code dst x) (g : Sends x y) :
    Awaits code dst y := by
  obtain ⟨m, hm, hd, hw, hc⟩ := h
  exact ⟨m, g.unacked m hm, hd, g.numbers _ hw, hc⟩

theorem foldl_sends {α : Type} {f : List (BitVec 32) × State → α → List (BitVec 32) × State} (h : ∀ x a, Sends x (f x a)) (l : List α)
    (x : List (BitVec 32) × State) : Sends x (l.foldl f x) := foldl_of (P := Sends x) (fun y a g => g.trans (h y a)) (.refl x)

/-- R352: the first two bytes of a message are its code. -/
theorem field_mgmtPayload_code {code : Nat} (h : code < 65536) (mseq : Nat) (body : Bytes) :
    field (mgmtPayload code mseq body) 0 2 = code := by
  show (BitVec.ofNat 8 code).toNat + 256 * ((BitVec.ofNat 8 (code / 256)).toNat + 256 * 0) = code
  simp only [BitVec.toNat_ofNat]
  omega

section
variable {code : Nat} (dst : BitVec 12) (bd : Bytes) (x : List (BitVec 32) × State)

/-- R352: a message of a code that is acknowledged joins those that wait for it, and the known tables stand. -/
theorem mgmtSend_fabric (acked : mgmtAcked code = true) (s : State) : ∃ m, m.dst = dst ∧ m.mseq = s.fab.mseq ∧
    m.payload = mgmtPayload code s.fab.mseq.toNat bd ∧ (mgmtSend dst code bd s).fab.unacked = s.fab.unacked ++ [m] ∧
    (mgmtSend dst code bd s).fab.known = s.fab.known := by
  unfold mgmtSend
  dsimp only
  rw [acked, if_pos rfl]
  obtain ⟨ports, outbox, holds, sent⟩ := sendPacket_packet (mkPacket
    { s with fab := { s.fab with mseq := s.fab.mseq + 1, unacked := s.fab.unacked ++ [_] } } ptMgmt (dst.setWidth 16) 0 0 0 0 _) _
  rw [sent]
  exact ⟨_, rfl, rfl, rfl, rfl, rfl⟩

theorem sendWaited_sends (acked : mgmtAcked code = true) : Sends x (sendWaited dst code bd x) := by
  obtain ⟨m, -, -, -, unacked, known⟩ := mgmtSend_fabric dst bd acked x.2
  refine ⟨mgmtSend_fab _ _ _ _, known, fun w hw => List.mem_append_left _ hw, fun n hn => ?_⟩
  exact unacked ▸ List.mem_append_left _ hn

theorem sendWaited_awaits (acked : mgmtAcked code = true) (small : code < 65536) : Awaits code dst (sendWaited dst code bd x) := by
  obtain ⟨m, hd, hn, hp, unacked, -⟩ := mgmtSend_fabric dst bd acked x.2
  refine ⟨m, unacked ▸ List.mem_append_right _ List.mem_cons_self, hd, hn ▸ List.mem_append_right _ List.mem_cons_self, ?_⟩
  rw [hp, field_mgmtPayload_code small]

end

/-! ### A table to its members (R353) -/

section
variable {code : Nat} (gn qz epoch r : Nat) (t : List (BitVec 32)) (m : BitVec 12 × Nat) (x : List (BitVec 32) × State)

theorem sendTable_sends (acked : mgmtAcked code = true) : Sends x (sendTable code gn qz epoch r t m x) :=
  foldl_sends (fun y _ => sendWaited_sends _ _ y acked) _ x

/-- R353: a table of at least one entry goes to a member in one message or more. -/
theorem sendTable_awaits {r : Nat} (acked : mgmtAcked code = true) (small : code < 65536) (some_entry : 1 ≤ r) :
    Awaits code m.1 (sendTable code gn qz epoch r t m x) := by
  have first : 0 ∈ (List.range (ceilDiv r 1000)).map (· * 1000) := by
    refine List.mem_map.mpr ⟨0, List.mem_range.mpr ?_, rfl⟩
    unfold ceilDiv
    omega
  exact foldl_reaches first (fun y => sendWaited_awaits _ _ y acked small) (fun y _ h => h.sends (sendWaited_sends _ _ y acked)) x

end

/-- A fold over members that tells each of them something. -/
theorem foldl_awaits {α : Type} {code : Nat} {f : List (BitVec 32) × State → α → List (BitVec 32) × State} {dst : α → BitVec 12}
    {l : List α} {a : α} (ha : a ∈ l) (h : ∀ x a, Sends x (f x a)) (g : ∀ x a, Awaits code (dst a) (f x a)) (x : List (BitVec 32) × State) :
    Awaits code (dst a) (l.foldl f x) :=
  foldl_reaches ha (fun y => g y a) (fun y b hy => hy.sends (h y b)) x

end Sys2Proof.Machine
end

section
/-!
O53. A channel's map-out (R302-R305), from the request to the channel that is OUT, and the tables of GROUP_SET (R250, R353).
-/
namespace Sys2Proof.Machine

/-! ### GROUP_SET (R250, R348, R353) -/

section
variable {s : State} {ch : Nat} {req bd : Bytes} {tbl : List (BitVec 32)}

/-- The fabric with other known tables. -/
def withKnown (known : List (Nat × List (BitVec 32))) (s : State) : State := { s with fab := { s.fab with known := known } }

/-- R353: the table of a GROUP_SET is known; INSTALL replaces one known before. -/
def tableNoted (bd : Bytes) (tbl : List (BitVec 32)) (s : State) : State :=
  withKnown ((if field bd 2 1 = 1 then s.fab.known else s.fab.known.filter fun k => k.1 != field bd 0 2) ++ [(field bd 0 2, tbl)]) s

/-- The code of the messages that bring a table: GROUP_STAGE or GROUP_INSTALL. -/
def tableCode (bd : Bytes) : Nat := if field bd 2 1 = 1 then 0x0E else 0x0D

/-- The table of a GROUP_SET goes to every member module. -/
def tellTable (bd : Bytes) (tbl : List (BitVec 32)) (s : State) : List (BitVec 32) × State :=
  (tableMembers tbl).foldl (fun x m =>
    sendTable (tableCode bd) (field bd 0 2) (field bd 3 1) (field bd 8 4) (field bd 12 4) tbl m x) ([], s)

/-- The removal of a group goes to every member module. -/
def tellRemoval (bd : Bytes) (tbl : List (BitVec 32)) (s : State) : List (BitVec 32) × State :=
  (tableMembers tbl).foldl (fun x m => sendWaited m.1 0x0F (leBytes 2 (field bd 0 2) ++ [0] ++ leBytes 1 m.2 ++ leBytes 4 0) x) ([], s)

theorem tableCode_acked (bd : Bytes) : mgmtAcked (tableCode bd) = true := by
  unfold tableCode
  split <;> rfl

theorem tableCode_small (bd : Bytes) : tableCode bd < 65536 := by
  unfold tableCode
  split <;> decide

theorem tellTable_sends (bd : Bytes) (tbl : List (BitVec 32)) (s : State) : Sends ([], s) (tellTable bd tbl s) :=
  foldl_sends (fun x m => sendTable_sends _ _ _ _ _ m x (tableCode_acked bd)) _ _

theorem tellTable_awaits {m : BitVec 12 × Nat} (hm : m ∈ tableMembers tbl) (entries : 1 ≤ field bd 12 4) (s : State) :
    Awaits (tableCode bd) m.1 (tellTable bd tbl s) :=
  foldl_awaits (dst := Prod.fst) hm (fun x m => sendTable_sends _ _ _ _ _ m x (tableCode_acked bd))
    (fun x m => sendTable_awaits _ _ _ _ m x (tableCode_acked bd) (tableCode_small bd) entries) _

theorem tellRemoval_sends (bd : Bytes) (tbl : List (BitVec 32)) (s : State) : Sends ([], s) (tellRemoval bd tbl s) :=
  foldl_sends (fun x _ => sendWaited_sends _ _ x rfl) _ _

theorem tellRemoval_awaits {m : BitVec 12 × Nat} (hm : m ∈ tableMembers tbl) (bd : Bytes) (s : State) :
    Awaits 0x0F m.1 (tellRemoval bd tbl s) :=
  foldl_awaits (dst := Prod.fst) hm (fun x _ => sendWaited_sends _ _ x rfl) (fun x _ => sendWaited_awaits _ _ x rfl (by decide)) _

/-- A module of one of the tables is a member of all of them together. -/
theorem exists_member_flatten {ts : List (List (BitVec 32))} (ht : tbl ∈ ts) {m : BitVec 12 × Nat} (hm : m ∈ tableMembers tbl) :
    ∃ n ∈ tableMembers ts.flatten, n.1 = m.1 := by
  simp only [tableMembers, List.mem_map, List.mem_eraseDups] at hm ⊢
  obtain ⟨_, ⟨e, he, rfl⟩, rfl⟩ := hm
  exact ⟨_, ⟨_, ⟨e, List.mem_flatten.mpr ⟨tbl, ht, he⟩, rfl⟩, rfl⟩, rfl⟩

/-- R250, R353: INSTALL and STAGE of a table that nothing refuses. -/
theorem doGroupSet_table (tag : Nat) (ho : ownsCtx s ch (field bd 4 1) = true) (ha : (getCtx s (field bd 4 1)).st = .active)
    (mode : field bd 2 1 ≤ 1) (lo : 1 ≤ field bd 0 2) (hi : field bd 0 2 ≤ 0xFFFE) (qz : field bd 3 1 ≤ 1) (entries : 1 ≤ field bd 12 4)
    (most : field bd 12 4 ≤ 32768) (table : readTable s bd = some tbl) (new : Tbl.find? s.groups (field bd 0 2) = none)
    (room : s.groups.length < 256) (clean : ∀ e ∈ tbl, bits e.toNat 31 23 = 0) :
    doGroupSet ch tag bd s = .later (tellTable bd tbl (tableNoted bd tbl s)).1 0 (tellTable bd tbl (tableNoted bd tbl s)).2 := by
  have set : doGroupSet ch tag bd s = setGroup ch bd s := by
    obtain mode | mode : field bd 2 1 = 0 ∨ field bd 2 1 = 1 := by omega
    all_goals simp only [doGroupSet, mode]
  have sound : (tbl.any fun e => bits e.toNat 31 23 != 0) = false := by simpa using clean
  rw [set]
  unfold setGroup
  dsimp only
  rw [needActive_none ho ha]
  dsimp only
  rw [if_neg (by omega), table]
  simp only [new, sound, Bool.false_eq_true, if_false, Nat.not_le.mpr room, decide_false, Bool.and_false, Bool.false_and, beq_iff_eq]
  rfl

/-- R327: REMOVE of a known group that is not hosted here. -/
theorem doGroupSet_removal (tag : Nat) (ho : ownsCtx s ch (field bd 4 1) = true) (mode : field bd 2 1 = 2)
    (known : (field bd 0 2, tbl) ∈ s.fab.known) (away : Tbl.find? s.groups (field bd 0 2) = none) :
    ∃ ts : List (List (BitVec 32)), tbl ∈ ts ∧ doGroupSet ch tag bd s =
      .later (tellRemoval bd ts.flatten (withKnown (s.fab.known.filter fun k => k.1 != field bd 0 2) s)).1 0
        (tellRemoval bd ts.flatten (withKnown (s.fab.known.filter fun k => k.1 != field bd 0 2) s)).2 := by
  have mem : tbl ∈ (s.fab.known.filter fun k => k.1 == field bd 0 2).map (·.2) ++ [] := by
    rw [List.append_nil]
    exact List.mem_map.mpr ⟨_, List.mem_filter.mpr ⟨known, beq_self_eq_true _⟩, rfl⟩
  refine ⟨_, mem, ?_⟩
  simp only [doGroupSet, mode, removeGroup, away, ho, Bool.not_true, Bool.or_self, Bool.false_eq_true, if_false, List.isEmpty_iff,
    List.ne_nil_of_mem mem]
  rfl

theorem doGroupSet_reserved (tag : Nat) (mode : 2 < field bd 2 1) : doGroupSet ch tag bd s = .now 0x0052 [] s := by
  obtain ⟨n, mode⟩ := Nat.exists_eq_add_of_lt mode
  rw [show 2 + n + 1 = n + 3 by omega] at mode
  simp only [doGroupSet, mode]
  rfl

variable (s ch req) in
theorem given_readTable (bd : Bytes) : readTable (s.given ch req) bd = readTable s bd :=
  given_reads s ch req (f := (readTable · bd)) fun _ _ => rfl

variable (s ch req) in
theorem given_groups : (s.given ch req).groups = s.groups := given_reads s ch req (f := fun s => s.groups) fun _ _ => rfl

variable (s ch req) in
theorem given_fab : (s.given ch req).fab = s.fab := given_reads s ch req (f := fun s => s.fab) fun _ _ => rfl

end

/-! ### CHANNEL_MAPOUT (R303, R304) -/

section
variable {s : State} {ch : Nat} {req bd : Bytes}

/-- R303: a stack without a mapping in its slab has nothing to move or to name. -/
theorem clearSlab_clear {k : Nat} (big : slabPages s k true = []) (small : slabPages s k false = [])
    (none : ∀ x, (getCtx s x).maps.filter (inSlab s.id k) = []) : clearSlab k s = s := by
  have still : shrinkCtxs k s = s := by
    refine foldl_of (P := (· = s)) (fun t c same => ?_) rfl
    subst same
    simp only [none, List.map_nil, List.all_nil, if_true]
  unfold clearSlab
  rw [big]
  show shrinkCtxs k (movePages k 0x10000 (slabPages s k false) s) = s
  rw [small]
  exact still

/-- R303, R304: a refused map-out is noted for the next start-up, with a log entry. -/
def noteRefused (k c : Nat) (s : State) : State :=
  logEntry 0x000A 0x0051 (leBytes 1 k ++ leBytes 1 c ++ leBytes 1 3)
    { s with id := { s.id with outNext := if s.id.outNext.contains (k, c) then s.id.outNext else s.id.outNext ++ [(k, c)] } }

theorem mem_noteRefused (k c : Nat) (s : State) : (k, c) ∈ (noteRefused k c s).id.outNext := by
  show (k, c) ∈ if s.id.outNext.contains (k, c) then s.id.outNext else s.id.outNext ++ [(k, c)]
  split
  · next h => exact List.contains_iff_mem.mp h
  · exact List.mem_append_right _ List.mem_cons_self

/-- R303, R408: the state that a channel takes. -/
theorem chans_setChan (k c : Nat) (st : ChanState) (s : State) : Tbl.get .normal (setChan k c st s).pow.chans (k * 32 + c) = st :=
  Tbl.get_put_self

theorem doChannelMapout_out (tag : Nat) (out : Tbl.get .normal s.pow.chans (field bd 0 1 * 32 + field bd 1 1) = .out) :
    doChannelMapout ch tag bd s = .now 0x0052 [] s := by
  unfold doChannelMapout
  dsimp only
  rw [if_pos (.inr (.inr out))]
  rfl

section
variable {k c : Nat} (hk : k = field bd 0 1) (hc : c = field bd 1 1) (hi : k ≤ 7) (hi' : c ≤ 31)
  (normal : Tbl.get .normal s.pow.chans (k * 32 + c) = .normal)
include hk hc hi hi' normal

theorem doChannelMapout_normal (tag : Nat) : doChannelMapout ch tag bd s =
    .later [] (if (beginMapout k c s).1 then 0x0051 else 0) (beginMapout k c s).2 := by
  subst hk hc
  unfold doChannelMapout
  dsimp only
  rw [if_neg (by rw [normal]; simp; omega)]
  rfl

/-- R303: a live map-out that has no page to move. -/
theorem doChannelMapout_live (tag : Nat) (good : mapoutBad s k = false) (big : slabPages s k true = [])
    (small : slabPages s k false = []) (none : ∀ x, (getCtx s x).maps.filter (inSlab s.id k) = []) :
    doChannelMapout ch tag bd s = .later [] 0 (setChan k c .degraded s) := by
  have begun : beginMapout k c s = (false, setChan k c .degraded s) := by
    have clear : clearSlab k (setChan k c .degraded s) = setChan k c .degraded s := clearSlab_clear big small none
    simp only [beginMapout, good, normal, reduceCtorEq, Bool.false_eq_true, if_false, clear]
  rw [doChannelMapout_normal hk hc hi hi' normal, begun]
  rfl

/-- R304: a second live map-out of the stack is refused. -/
theorem doChannelMapout_second (tag : Nat) (bad : mapoutBad s k = true) :
    doChannelMapout ch tag bd s = .later [] 0x0051 (noteRefused k c (setChan k c .degraded s)) := by
  have begun : beginMapout k c s = (true, noteRefused k c (setChan k c .degraded s)) := by
    simp only [beginMapout, bad, normal, reduceCtorEq, if_false, if_true]
    rfl
  rw [doChannelMapout_normal hk hc hi hi' normal, begun]
  rfl

end

variable (s ch req) in
theorem given_chan (n : Nat) : Tbl.get .normal (s.given ch req).pow.chans n = Tbl.get .normal s.pow.chans n :=
  given_reads s ch req (f := fun s => Tbl.get .normal s.pow.chans n) fun _ _ => rfl

variable (s ch req) in
theorem given_mapoutBad (k : Nat) : mapoutBad (s.given ch req) k = mapoutBad s k :=
  given_reads s ch req (f := (mapoutBad · k)) fun _ _ => rfl

variable (s ch req) in
theorem given_slabPages (k : Nat) (big : Bool) : slabPages (s.given ch req) k big = slabPages s k big :=
  given_reads s ch req (f := (slabPages · k big)) fun _ _ => rfl

end

/-! ### A page that moves (R303, R305) -/

section
variable {s : State}

theorem memReadN_eq_map (m : List Host.Cell) (a n : Nat) : memReadN m a n = (List.range n).map fun i => memRead m (a + i) := by
  induction n generalizing a with
  | zero => rfl
  | succ n ih =>
    rw [memReadN, ih, List.range_succ_eq_map, List.map_cons, List.map_map]
    simp only [Function.comp_def, Nat.succ_eq_add_one, Nat.add_assoc, Nat.add_comm 1, Nat.add_zero]

/-- A byte reads as it was last written with its neighbours. -/
theorem memRead_memWriteN_at (m : List Host.Cell) (a : Nat) {bs : Bytes} {i : Nat} (h : i < bs.length) :
    memRead (memWriteN m a bs) (a + i) = bs[i] := by
  have read := memReadN_memWriteN (m := m) (a := a) (bs := bs)
  rw [memReadN_eq_map] at read
  simpa [h] using congrArg (·[i]?) read

/-- R305: on a channel in use without errors a byte reads as it is stored. -/
theorem seenByte_sound {a : Nat} (h : mayErr s a = false) (b : Byte) : seenByte s a b = b := by
  simp only [seenByte, h, Bool.false_and, Bool.false_eq_true, if_false]

theorem Tbl.find_mem {α : Type} {t : Tbl α} {k : Nat} {a : α} (h : Tbl.find? t k = some a) : (k, a) ∈ t := by
  induction t with
  | nil => cases h
  | cons e t ih =>
    obtain ⟨j, b⟩ := e
    unfold Tbl.find? at h
    split at h
    · next same =>
      cases h
      exact same ▸ List.mem_cons_self
    · exact List.mem_cons_of_mem _ (ih h)

/-- R305: without a DEGRADED channel no byte may read changed. -/
theorem mayErr_of_none_degraded (h : (s.pow.chans.any fun x => x.2 == .degraded) = false) (a : Nat) : mayErr s a = false := by
  unfold mayErr
  split
  · next k c _ =>
    refine decide_eq_false fun degraded => ?_
    cases found : Tbl.find? s.pow.chans (k * 32 + c) with
    | none => simp [Tbl.get, found] at degraded
    | some st =>
      obtain rfl : st = .degraded := by simpa [Tbl.get, found] using degraded
      exact List.any_eq_false.mp h _ (Tbl.find_mem found) rfl
  · rfl

/-- R305: a read gives each byte as its channel shows it. -/
theorem readMem_eq_map (s : State) (a n : Nat) :
    readMem s a n = (List.range n).map fun i => seenByte s (a + i) (memRead s.mem (a + i)) := by
  unfold readMem
  rw [memReadN_eq_map]
  split
  · rw [List.mapIdx_eq_ofFn]
    refine List.ext_getElem (by simp) fun i h h' => by simp
  · next sound =>
    refine List.map_congr_left fun i _ => (seenByte_sound (mayErr_of_none_degraded (Bool.eq_false_iff.mpr sound) _) _).symm

theorem postMoved_host (ctx va : Nat) (s : State) : HostOnly s (postMoved ctx va s) := postEvent_host _ _ _ _ _

/-- R303, R351: the events of a move leave memory as the copy left it. -/
theorem movePage_mem (old size new : Nat) (s : State) :
    (movePage old size new s).mem = memWriteN (memClear s.mem new size) new (readMem s old size) := by
  unfold movePage
  extract_lets bs inside hit lineIn moved s1
  obtain ⟨fns, msix, events⟩ := foldl_host (fun s (h : Nat × Nat) => postMoved_host h.1 h.2 s) hit s1
  rw [events]

end

/-! ### MAPOUT_COMPLETE (R302, R303, R351) -/

theorem memRead_memClear_out {m : List Host.Cell} {a n c : Nat} (h : c < a ∨ a + n ≤ c) : memRead (memClear m a n) c = memRead m c := by
  unfold memRead memClear Tbl.get
  rw [Tbl.find_filter_key (fun k => decide (k < a) || decide (a + n ≤ k)) m c, if_pos (by simpa using h)]

section
variable {stack chan : Nat} {s : State}

/-- R303, R305: copying granules can change only bytes of the stack below its slab that a DEGRADED channel may hold. -/
theorem memRead_copyErrors {slab a : Nat} (out : a < stackBase stack ∨ slab ≤ a ∨ mayErr s a = false) :
    memRead (copyErrors stack slab s).mem a = memRead s.mem a := by
  refine foldl_of (P := fun m => memRead m a = memRead s.mem a) (fun m w same => ?_) rfl
  split
  · next changes =>
    simp only [Bool.and_eq_true, decide_eq_true_eq] at changes
    obtain ⟨⟨errs, lo⟩, hi⟩ := changes
    refine (memRead_memWrite_ne ?_).trans same
    rintro rfl
    rcases out with below | above | sound
    · omega
    · omega
    · simp [sound] at errs
  · exact same

/-- R345: a deferred CHANNEL_MAPOUT of a channel whose live map-out was begun. -/
def isMapout (stack chan : Nat) (d : Deferred) : Bool :=
  d.code == 0x0203 && d.begun && d.bad == 0 && field d.req 0 1 == stack && field d.req 1 1 == chan

theorem isMapout_iff {d : Deferred} : isMapout stack chan d = true ↔
    d.code = 0x0203 ∧ d.begun = true ∧ d.bad = 0 ∧ field d.req 0 1 = stack ∧ field d.req 1 1 = chan := by
  simp only [isMapout, Bool.and_eq_true, beq_iff_eq, and_assoc]

/-- R302, R303: the machine with a channel OUT, the map-out's requests taken off the list, before its events. -/
def mapoutDone (stack chan : Nat) (s : State) : State :=
  let slab := stackBase stack + slabStart s.id stack
  let size := stackC0 s.id / 32
  let t := copyErrors stack slab s
  let u := setChan stack chan .out { t with
    id := { t.id with outChans := modAt t.id.outChans stack fun l => l ++ [chan] }
    mem := memClear t.mem slab size
    lines := t.lines.filter fun l => decide (l.1 * 128 + 128 ≤ slab) || decide (slab + size ≤ l.1 * 128)
    pow := { t.pow with
      liveOut := t.pow.liveOut ||| BitVec.ofNat 8 (2 ^ stack), ownOut := t.pow.ownOut.filter fun o => o != (stack, chan) } }
  { u with deferred := u.deferred.filter fun d => !isMapout stack chan d }

theorem execMapoutComplete_waits (waits : (s.ctxs.any fun c => c.2.maps.any (inSlab s.id stack)) = true) :
    execMapoutComplete stack chan s = .next s := by
  unfold execMapoutComplete
  dsimp only
  rw [if_neg (by simp [waits])]

/-- R303, R351: with no page left in the slab, the map-out is done and its events are posted. -/
theorem execMapoutComplete_done (known : stack < 8)
    (due : (∃ d ∈ s.deferred, isMapout stack chan d = true) ∨ (stack, chan) ∈ s.pow.ownOut)
    (clear : (s.ctxs.any fun c => c.2.maps.any (inSlab s.id stack)) = false) :
    ∃ t, execMapoutComplete stack chan s = .next t ∧ HostOnly (mapoutDone stack chan s) t := by
  have mine : (s.deferred.any (isMapout stack chan) || s.pow.ownOut.contains (stack, chan)) = true := by simpa using due
  refine ⟨_, congrArg Host.Outcome.next (if_pos ?_), ?_⟩
  · change ((s.deferred.any (isMapout stack chan) || s.pow.ownOut.contains (stack, chan))
      && !(s.ctxs.any fun c => c.2.maps.any (inSlab s.id stack)) && decide (stack < 8)) = true
    rw [mine, clear, decide_eq_true known]
    rfl
  · exact HostOnly.trans (postAll_host _ _ _ _) (foldl_host (fun s d => postMsgDone_host d _ _ s) _ _)

end

theorem getLsbD_or_twoPow {stack : Nat} (h : stack < 8) (x : BitVec 8) : (x ||| BitVec.ofNat 8 (2 ^ stack)).getLsbD stack = true := by
  rw [BitVec.getLsbD_or, BitVec.getLsbD_ofNat, Nat.testBit_two_pow_self, decide_eq_true h, Bool.and_self, Bool.or_true]

/-- Settles O53: the two requests by their handlers' answers, a moved page by what the copy writes, MAPOUT_COMPLETE by the machine before
its events. -/
theorem channelsLeaveAndGroupsAreSent : Obligations.ChannelsLeaveAndGroupsAreSent := by
  unfold Obligations.ChannelsLeaveAndGroupsAreSent
  refine ⟨?requests, fun s old size new i within => ?page, fun s stack chan known due => ?complete⟩
  case requests =>
    rintro s _ ch req bd rfl
    refine ⟨fun h k c hk hc hi hi' => ⟨fun out => ?out, fun normal => ⟨fun good big small none => ?live, fun bad => ?second⟩⟩,
      fun h gn tbl hgn ho ha => ⟨fun mode lo hi qz entries most table new room clean => ?table, fun mode known away => ?removal,
        fun mode => exec_of_now rfl rfl h (doGroupSet_reserved (field req 4 4) mode)⟩⟩
    case out =>
      subst hk hc
      exact exec_of_now rfl rfl h (doChannelMapout_out (ch := ch) (field req 4 4) ((given_chan s ch req _).trans out))
    case live =>
      refine exec_of_later rfl rfl h (doChannelMapout_live (ch := ch) hk hc hi hi' ((given_chan s ch req _).trans normal) (field req 4 4)
        ((given_mapoutBad s ch req k).trans good) ((given_slabPages s ch req k _).trans big) ((given_slabPages s ch req k _).trans small)
        fun x => ?_)
      rw [given_getCtx, given_frame]
      exact none x
    case second =>
      refine ⟨_, exec_of_later rfl rfl h (doChannelMapout_second (ch := ch) hk hc hi hi' ((given_chan s ch req _).trans normal)
        (field req 4 4) ((given_mapoutBad s ch req k).trans bad)), mem_noteRefused k c _, ?_, ?_, ?_, ?_⟩
      · exact chans_setChan k c .degraded (s.given ch req)
      · exact given_reads s ch req (f := fun s => s.log.next + 2) fun _ _ => rfl
      · exact given_reads s ch req (f := fun s => s.mem) fun _ _ => rfl
      · exact given_reads s ch req (f := fun s => s.ctxs) fun _ _ => rfl
    case table =>
      subst hgn
      have answer := doGroupSet_table (field req 4 4) ((given_ownsCtx s ch req _ _).trans ho)
        (by rwa [given_getCtx]) mode lo hi qz entries most ((given_readTable s ch req bd).trans table) (by rwa [given_groups])
        (by rwa [given_groups]) clean
      have sends := tellTable_sends bd tbl (tableNoted bd tbl (s.given ch req))
      obtain ⟨f, fabric⟩ := sends.fabric
      refine ⟨_, _, exec_of_later rfl rfl h answer, ?_, ?_, fun m hm => tellTable_awaits hm entries _⟩
      · rw [sends.known]
        exact List.mem_append_right _ List.mem_cons_self
      · rw [fabric]
        rfl
    case removal =>
      subst hgn
      obtain ⟨ts, mem, answer⟩ := doGroupSet_removal (field req 4 4) ((given_ownsCtx s ch req _ _).trans ho) mode
        (by rwa [given_fab]) (by rwa [given_groups])
      have sends := tellRemoval_sends bd ts.flatten
        (withKnown ((s.given ch req).fab.known.filter fun k => k.1 != field bd 0 2) (s.given ch req))
      obtain ⟨f, fabric⟩ := sends.fabric
      refine ⟨_, _, exec_of_later rfl rfl h answer, fun k hk => ?_, ?_, fun m hm => ?_⟩
      · rw [sends.known] at hk
        simpa using (List.mem_filter.mp hk).2
      · rw [fabric]
        rfl
      · obtain ⟨n, hn, same⟩ := exists_member_flatten mem hm
        rw [← same]
        exact tellRemoval_awaits hn bd _
  case page =>
    have moved : memRead (movePage old size new s).mem (new + i) = seenByte s (old + i) (memRead s.mem (old + i)) := by
      rw [movePage_mem, memRead_memWriteN_at _ _ (by simpa [readMem_eq_map] using within)]
      simp [readMem_eq_map]
    exact ⟨moved, fun sound => moved.trans (seenByte_sound sound _)⟩
  case complete =>
    refine ⟨execMapoutComplete_waits, fun clear => ?_⟩
    simp only [← isMapout_iff] at due ⊢
    obtain ⟨t, row, g, m, rfl⟩ := execMapoutComplete_done known due clear
    refine ⟨_, row, chans_setChan stack chan .out _, rfl, getLsbD_or_twoPow known _, fun d hd => ?_, fun still => ?_, fun a out => ?_,
      rfl, rfl, rfl⟩
    · simpa using (List.mem_filter.mp hd).2
    · simpa using (List.mem_filter.mp still).2
    · refine (memRead_memClear_out (out.imp_left And.left)).trans (memRead_copyErrors ?_)
      rcases out with ⟨-, below | sound⟩ | above
      · exact .inl below
      · exact .inr (.inr sound)
      · exact .inr (.inl (by omega))

end Sys2Proof.Machine
end

section
/-!
Device memory's canonical form (O3): every command keeps it, by the lemma of its row, and so does the passing of one ph.
-/
namespace Sys2Proof.Machine

/-- Every step keeps device memory in its canonical form. -/
theorem step_keeps_memOk {s t : State} (h : step s = .next t) : s.memOk → t.memOk := by
  obtain ⟨-, -, -, memory, -⟩ := step_keeps h
  exact memory

/-- Settles O3: the canonical form is one of the facts that every step keeps. -/
theorem stepKeepsMemoryCanonical : Obligations.StepKeepsMemoryCanonical := by
  unfold Obligations.StepKeepsMemoryCanonical
  exact fun _ _ canonical next => step_keeps_memOk next canonical

end Sys2Proof.Machine
end

section
/-!
FEED_BIND (O21): noted on its feed when it is accepted, in force and complete at the next frame boundary.
-/
namespace Sys2Proof.Machine

/-! ### Feeds -/

theorem getFeed_modFeed_self {s : State} {f : Nat} {g : Feed → Feed} : getFeed (modFeed f g s) f = g (getFeed s f) := Tbl.get_put_self

theorem getFeed_modFeed_ne {s : State} {f j : Nat} {g : Feed → Feed} (h : j ≠ f) : getFeed (modFeed f g s) j = getFeed s j :=
  Tbl.get_put_ne h

theorem getFeed_congr {s t : State} (h : t.feeds = s.feeds) (f : Nat) : getFeed t f = getFeed s f := by rw [getFeed, h, getFeed]

/-! ### Acceptance (R301) -/

section
variable {s : State} {k : Nat} {c : Cmd} (h : s.working k 0x15 0 [(16, 1), (18, 14), (32, 16)] c) (legal : feedLegal c = true)
include h legal

theorem exec_feedBind_owned (owned : fbSlots c = 0 ∨ ctrOwned s c.ctx (body c 30 2) = true) : exec (.feedBind k) s = .next
    (modFeed (fbFeed c) (fun x => if x.bindCmds.contains k then x else { x with bindCmds := x.bindCmds ++ [k] }) s) := by
  refine congrArg Host.Outcome.next ((runOp_working h legal).trans (if_neg fun ⟨slots, foreign⟩ => ?_))
  rcases owned with unbinds | owned
  · exact slots unbinds
  · exact absurd (foreign.symm.trans owned) Bool.false_ne_true

theorem exec_feedBind_foreign (slots : fbSlots c ≠ 0) (foreign : ctrOwned s c.ctx (body c 30 2) = false) :
    exec (.feedBind k) s = .next (faultCmd k stTranslation (ctrInfo (body c 30 2)) s) :=
  congrArg Host.Outcome.next ((runOp_working h legal).trans (if_pos ⟨slots, foreign⟩))

end

/-! ### The frame boundary -/

/-- R387: the passing of time changes of a command its watchdog alone. -/
theorem findCmd_passTime {s : State} {k : Nat} {c : Cmd} (h : findCmd s k = some c) (n : Nat) :
    ∃ w, findCmd (passTime n s) k = some { c with wdog := w } := by
  rw [findCmd_map (s := s) (t := passTime n s) rfl (fun d => by split <;> rfl) k, h, Option.map_some]
  split <;> exact ⟨_, rfl⟩

/-- The state in which the next frame starts. -/
def atNextFrame (s : State) : State :=
  let v := passTime 1 (toLastPh (passTime (0xFFFF - s.tb.phase.toNat) s))
  startFrame (nextFrame v.tb) (dropJump v)

theorem atNextFrame_feeds (s : State) : (atNextFrame s).feeds = s.feeds := rfl
theorem atNextFrame_mem (s : State) : (atNextFrame s).mem = s.mem := rfl

theorem findCmd_atNextFrame {s : State} {k : Nat} {c : Cmd} (h : findCmd s k = some c) :
    ∃ w, findCmd (atNextFrame s) k = some { c with wdog := w } := by
  obtain ⟨w, rest⟩ := findCmd_passTime h (0xFFFF - s.tb.phase.toNat)
  exact findCmd_passTime (s := toLastPh (passTime (0xFFFF - s.tb.phase.toNat) s)) rest 1

/-- R23: what takes effect at the next boundary of a running time base, after the feeds' bindings. -/
theorem exec_frameBoundary_runs {s : State} (h : tbRuns s = true) :
    exec .frameBoundary s = .next (sendTicks (riseOut (switchMicrocode (bindFeeds (atNextFrame s))))) := by
  have last : onePh (toLastPh (passTime (0xFFFF - s.tb.phase.toNat) s)) =
      boundary (passTime 1 (toLastPh (passTime (0xFFFF - s.tb.phase.toNat) s))) := onePh_last h rfl
  simp only [exec, execFrameBoundary, toBoundary, if_pos h, elapse_rest, last, boundary_eq, boundaryTo_eq, atNextFrame]

/-- Command k has ended also after changes that keep its state and STATUS. -/
theorem ended_map {s t : State} {k st : Nat} {w : Cmd → Cmd} (h : s.ended k st) (cmds : t.cmds = s.cmds.map w)
    (same : ∀ c, (w c).k = c.k ∧ (w c).st = c.st ∧ (w c).status = c.status) : t.ended k st := by
  obtain ⟨d, found, done, status⟩ := h
  refine ⟨w d, by rw [findCmd_map cmds (fun c => (same c).1), found]; rfl, (same d).2.1.trans done, (same d).2.2.trans status⟩

theorem ended_congr {s t : State} {k st : Nat} (h : s.ended k st) (cmds : t.cmds = s.cmds) : t.ended k st :=
  ended_map (w := id) h (by rw [cmds, List.map_id]) fun _ => ⟨rfl, rfl, rfl⟩

/-- R356: a switch of the microcode marks commands. -/
theorem switchMicrocode_ended {s : State} {k st : Nat} (h : s.ended k st) : (switchMicrocode s).ended k st := by
  unfold switchMicrocode
  split
  · split
    · exact ended_map h rfl fun c => by split <;> exact ⟨rfl, rfl, rfl⟩
    · exact h
  · exact h

/-- Nothing after the feeds' bindings at a boundary changes feeds, memory, the frame or what has ended. -/
theorem afterBindings_spec (s : State) : ∃ t, sendTicks (riseOut (switchMicrocode s)) = t ∧ t.feeds = s.feeds ∧ t.mem = s.mem ∧
    t.tb = s.tb ∧ ∀ k st, s.ended k st → t.ended k st := by
  obtain ⟨a, cs, switched⟩ := switchMicrocode_frame s
  obtain ⟨fab, sent⟩ := sendTicks_fab (riseOut (switchMicrocode s))
  have ended : ∀ k st, s.ended k st → (switchMicrocode s).ended k st := fun _ _ => switchMicrocode_ended
  rw [riseOut_eq] at sent
  rw [riseOut_eq, sent]
  refine ⟨_, rfl, ?_, ?_, ?_, fun k st h => ended_congr (ended k st h) rfl⟩
  all_goals rw [switched]

/-- R301: at a boundary where one binding waits, it is put in force and its command ends. -/
theorem bindFeeds_one {s : State} {f k : Nat} {x : Feed} {c : Cmd} (only : s.feeds.filter (fun e => !e.2.bindCmds.isEmpty) = [(f, x)])
    (waits : x.bindCmds = [k]) (found : findCmd s k = some c) (started : c.st = .started) :
    bindFeeds s = finishCmd k none none (progress k (modFeed f (feedOf c s.tb.frame.toNat) (modFeed f (fun x => { x with bindCmds := [] }) s))) := by
  have still : findCmd (modFeed f (fun x => { x with bindCmds := [] }) s) k = some c := found
  simp only [bindFeeds, only, List.foldl_cons, List.foldl_nil, waits, bindFeed, still, if_pos started]
  rfl

theorem findCmd_progress_warns {s : State} {k : Nat} {c : Cmd} (h : findCmd s k = some c) :
    ∃ d, findCmd (progress k s) k = some d ∧ d.warns = c.warns := by
  rw [findCmd_progress h, h, Option.map_some]
  exact ⟨_, rfl, by split <;> rfl⟩

/-- R301: what a single binding that waits leaves. -/
theorem bindFeeds_one_spec {s : State} {f k : Nat} {x : Feed} {c : Cmd} (only : s.feeds.filter (fun e => !e.2.bindCmds.isEmpty) = [(f, x)])
    (feed : getFeed s f = x) (waits : x.bindCmds = [k]) (found : findCmd s k = some c) (started : c.st = .started) :
    (bindFeeds s).ended k (warnStatus c.warns) ∧ getFeed (bindFeeds s) f = feedOf c s.tb.frame.toNat x ∧
    (∀ g, g ≠ f → getFeed (bindFeeds s) g = getFeed s g) ∧ (bindFeeds s).mem = s.mem ∧ (bindFeeds s).tb = s.tb := by
  rw [bindFeeds_one only waits found started]
  generalize bound : modFeed f (feedOf c s.tb.frame.toNat) (modFeed f (fun x => { x with bindCmds := [] }) s) = u
  have still : findCmd u k = some c := by rw [← bound]; exact found
  obtain ⟨d, goes, warns⟩ := findCmd_progress_warns still
  rw [← warns]
  refine ⟨finishCmd_ended none none goes, ?_, fun g hg => ?_, ?_, ?_⟩
  all_goals rw [finishCmd_frame none none goes, progress_frame, ← bound]
  · exact getFeed_modFeed_self.trans (by rw [getFeed_modFeed_self, feed]; rfl)
  · exact (getFeed_modFeed_ne hg).trans (getFeed_modFeed_ne hg)
  · rfl
  · rfl

/-- Settles O21: the noting of an accepted binding and its refusal, then the boundary at which the one that waits takes effect. -/
theorem feedsBindAtTheFrameBoundary : Obligations.FeedsBindAtTheFrameBoundary := by
  unfold Obligations.FeedsBindAtTheFrameBoundary
  refine ⟨fun s k c h legal => ⟨fun owned => ?accepted, fun slots foreign => ?foreign⟩,
    fun s f k x c runs _ only feed waits found started => ?boundary⟩
  case accepted =>
    refine ⟨_, exec_feedBind_owned h legal owned, fun noted => ?_, fun fresh => ?_, fun f hf => getFeed_modFeed_ne hf, rfl⟩
    · rw [getFeed_modFeed_self, if_pos (List.contains_iff_mem.mpr noted)]
    · rw [getFeed_modFeed_self, if_neg fun h => fresh (List.contains_iff_mem.mp h)]
  case foreign =>
    refine ⟨_, exec_feedBind_foreign h legal slots foreign, faultCmd_ended (working_find h) _ _, ?_, faultCmd_mem .., faultCmd_counters ..⟩
    rw [faultCmd_frame]
  case boundary =>
    obtain ⟨w, still⟩ := findCmd_atNextFrame found
    obtain ⟨ended, bound, others, mem, tb⟩ := bindFeeds_one_spec (s := atNextFrame s) only feed waits still started
    obtain ⟨t, next, feeds, mem', tb', ends⟩ := afterBindings_spec (bindFeeds (atNextFrame s))
    refine ⟨t, (exec_frameBoundary_runs runs).trans (congrArg _ next), ends _ _ ended, ?_, fun g hg => ?_, mem'.trans mem⟩
    · rw [getFeed_congr feeds, bound, tb', tb]
      rfl
    · exact (getFeed_congr feeds g).trans (others g hg)

end Sys2Proof.Machine
end

section
/-!
Feed slots (O22): what a FEED packet and FEED_DB put into a slot, and how a slot closes at its deadline.
-/
namespace Sys2Proof.Machine

/-- A write of a unit that begins at a state leaves feeds, counters and other tables as they are. -/
theorem committed_write {s : State} {ctx va : Nat} {bs : Bytes} {e : Eng}
    (h : writeV va bs { s := s, ctx := ctx, owner := 0 } = .ok () e) : (engCommit none e).mem = e.s.mem ∧
    (engCommit none e).feeds = s.feeds ∧ (engCommit none e).counters = s.counters := by
  obtain ⟨f, put⟩ := engCommit_none e
  obtain ⟨only, -⟩ := writeV_only h
  rw [put]
  exact ⟨rfl, by rw [orSticky_feeds, only], by rw [orSticky_counters, only]⟩

theorem taken_feeds (port : Nat) (p : Packet) (s : State) : (s.taken port p).feeds = s.feeds := by
  obtain ⟨f, taken⟩ := taken_fab port p s
  rw [taken]

theorem feedFrame_taken (port : Nat) (p : Packet) (s : State) (low : Nat) : feedFrame (s.taken port p) low = feedFrame s low := by
  obtain ⟨f, taken⟩ := taken_fab port p s
  rw [taken]
  rfl

theorem reachedN_taken (port : Nat) (p : Packet) (s : State) (n : Nat) : (s.taken port p).reachedN n = s.reachedN n := by
  obtain ⟨f, taken⟩ := taken_fab port p s
  rw [taken]
  rfl

/-! ### FEED (R323) -/

/-- R323: the module's tests of a FEED packet for frame n of feed x. -/
def feedFits (s : State) (port : Nat) (p : Packet) (x : Feed) (n : Nat) : Bool :=
  x.bound && decide (6 ≤ port) && x.source + 5 == port && !s.reachedN (feedDeadline x n)
    && decide (bits p.addr.toNat 25 0 + p.payload.length ≤ x.slotBytes) && bits p.addr.toNat 25 0 % 64 == 0 && p.payload.length % 64 == 0

section
variable {s : State} {port : Nat} {p : Packet} {x : Feed} (takes : s.takes port ptFeed p) (feed : getFeed s p.dstCtx.toNat = x)
include takes feed

theorem exec_pktFeed : exec (.pktFeed port p) s = .next (match feedFrame s (p.addr.toNat / 2 ^ 32) with
    | none => dropFeed p.dstCtx.toNat (s.taken port p)
    | some n => if feedFits s port p x n then takeFeed p.dstCtx.toNat n (bits p.addr.toNat 25 0) p (s.taken port p)
      else dropFeed p.dstCtx.toNat (s.taken port p)) := by
  refine congrArg Host.Outcome.next ((arrive_takes takes).trans ?_)
  simp only [getFeed_congr (taken_feeds port p s), feed, feedFrame_taken, reachedN_taken, feedFits]
  rfl

theorem exec_pktFeed_fits {n : Nat} (frame : feedFrame s (p.addr.toNat / 2 ^ 32) = some n) (fits : feedFits s port p x n = true) :
    exec (.pktFeed port p) s = .next (takeFeed p.dstCtx.toNat n (bits p.addr.toNat 25 0) p (s.taken port p)) := by
  rw [exec_pktFeed takes feed, frame]
  exact congrArg Host.Outcome.next (if_pos fits)

theorem exec_pktFeed_drops (unfit : ∀ n, feedFrame s (p.addr.toNat / 2 ^ 32) = some n → feedFits s port p x n = false) :
    exec (.pktFeed port p) s = .next (dropFeed p.dstCtx.toNat (s.taken port p)) := by
  rw [exec_pktFeed takes feed]
  cases frame : feedFrame s (p.addr.toNat / 2 ^ 32) with
  | none => rfl
  | some n => exact congrArg Host.Outcome.next (if_neg (by rw [unfit n frame]; exact Bool.false_ne_true))

end

/-- R323: an accepted packet's bytes are in its slot and counted. -/
theorem takeFeed_written {s : State} {f n off : Nat} {p : Packet} {x : Feed} {e : Eng} (feed : getFeed s f = x)
    (written : writeV (x.ringVa + n % max 1 x.slots * x.slotBytes + off) p.payload { s := s, ctx := x.ctx, owner := 0 } = .ok () e) :
    (takeFeed f n off p s).mem = e.s.mem ∧ getFeed (takeFeed f n off p s) f =
      { x with recv := Tbl.put 0 x.recv n (Tbl.get 0 x.recv n + p.payload.length) } := by
  obtain ⟨mem, feeds, -⟩ := committed_write written
  have row : takeFeed f n off p s =
      modFeed f (fun y => { y with recv := Tbl.put 0 y.recv n (Tbl.get 0 y.recv n + p.payload.length) }) (engCommit none e) := by
    simp only [takeFeed, feed, written]
  rw [row]
  exact ⟨mem, by rw [getFeed_modFeed_self, getFeed_congr feeds, feed]⟩

/-! ### FEED_DB (R322) -/

section
variable {s : State} {fn f : Nat} {v : W64} {x : Feed} (up : s.sup.perst = false) (range : f ≤ 255) (feed : getFeed s f = x)
  (bound : x.bound = true)
include up range feed bound

theorem exec_feedDb : exec (.feedDb fn f v) s = .next (if x.source ≠ 0 ∨ (getCtx s x.ctx).owner ≠ fn then dropFeed f s
    else match feedFrame s (v.extractLsb' 32 32).toNat with
      | none => dropFeed f s
      | some n => if s.reachedN (feedDeadline x n) then dropFeed f s
        else modFeed f (fun y => { y with recv := Tbl.put 0 y.recv n (v.setWidth 32).toNat }) s) := by
  subst feed
  exact congrArg Host.Outcome.next (if_neg (by simp [up, bound, range]))

theorem exec_feedDb_sets {n : Nat} (host : x.source = 0) (owner : (getCtx s x.ctx).owner = fn)
    (frame : feedFrame s (v.extractLsb' 32 32).toNat = some n) (early : s.reachedN (feedDeadline x n) = false) :
    exec (.feedDb fn f v) s = .next (modFeed f (fun y => { y with recv := Tbl.put 0 y.recv n (v.setWidth 32).toNat }) s) := by
  rw [exec_feedDb up range feed bound, if_neg (by simp [host, owner]), frame]
  exact congrArg Host.Outcome.next (if_neg (by simp [early]))

theorem exec_feedDb_drops (unfit : x.source ≠ 0 ∨ (getCtx s x.ctx).owner ≠ fn ∨ feedFrame s (v.extractLsb' 32 32).toNat = none ∨
    ∃ n, feedFrame s (v.extractLsb' 32 32).toNat = some n ∧ s.reachedN (feedDeadline x n) = true) :
    exec (.feedDb fn f v) s = .next (dropFeed f s) := by
  rw [exec_feedDb up range feed bound]
  refine congrArg Host.Outcome.next ?_
  rcases unfit with edge | foreign | none | ⟨n, frame, late⟩
  · exact if_pos (.inl edge)
  · exact if_pos (.inr foreign)
  · rw [none]
    exact ite_self _
  · rw [frame]
    exact (congrArg _ (if_pos late)).trans (ite_self _)

end

/-! ### The close of a slot (R301, R394) -/

/-- R301: the feed when its next slot has closed. -/
def slotClosed (x : Feed) (y : Feed) : Feed := { y with nextClose := x.nextClose + 1, recv := Tbl.del y.recv x.nextClose }

section
variable {s : State} {f : Nat} {x : Feed} (feed : getFeed s f = x) (bound : x.bound = true)
include feed bound

theorem exec_feedSlotClose : exec (.feedSlotClose f) s = .next (if mayAct s (feedDeadline x x.nextClose) then
    if inReset s then modFeed f (fun y => { y with held := y.held ++ [(x.nextClose, Tbl.get 0 x.recv x.nextClose)] }) (modFeed f (slotClosed x) s)
    else closeSlot f x.nextClose (Tbl.get 0 x.recv x.nextClose) (modFeed f (slotClosed x) s) else s) := by
  simp only [exec, execFeedSlotClose, feed, bound, Bool.true_and]
  rfl

theorem exec_feedSlotClose_early (early : mayAct s (feedDeadline x x.nextClose) = false) : exec (.feedSlotClose f) s = .next s := by
  rw [exec_feedSlotClose feed bound, early]
  rfl

theorem exec_feedSlotClose_held (due : mayAct s (feedDeadline x x.nextClose) = true) (reset : inReset s = true) :
    exec (.feedSlotClose f) s = .next (modFeed f (fun y => { y with held := y.held ++ [(x.nextClose, Tbl.get 0 x.recv x.nextClose)] })
      (modFeed f (slotClosed x) s)) := by
  rw [exec_feedSlotClose feed bound, due, reset]
  rfl

theorem exec_feedSlotClose_closes (due : mayAct s (feedDeadline x x.nextClose) = true) (running : inReset s = false) :
    exec (.feedSlotClose f) s = .next (closeSlot f x.nextClose (Tbl.get 0 x.recv x.nextClose) (modFeed f (slotClosed x) s)) := by
  rw [exec_feedSlotClose feed bound, due, running]
  rfl

end

/-- R301: the status record of a slot. -/
def slotRecord (x : Feed) (n bytes : Nat) : Bytes :=
  leBytes 8 n ++ leBytes 4 bytes ++ leBytes 1 (if bytes = x.slotBytes then 1 else 2) ++ leBytes 3 0

/-- R301: the write of the status record of a slot. -/
def slotWrite (x : Feed) (n bytes : Nat) (s : State) : EStateM.Result EngStop Eng Unit :=
  writeV (x.statusVa + n % max 1 x.slots * 16) (slotRecord x n bytes) { s := s, ctx := x.ctx, owner := 0 }

/-- R301: the module after the status record of a slot, or after its fault. -/
def recordSlot (x : Feed) (n bytes : Nat) (s : State) : State :=
  match slotWrite x n bytes s with
  | .ok _ e => engCommit none e
  | .error _ _ =>
    let info := transInfo (x.statusVa + n % max 1 x.slots * 16)
    contextFault x.ctx { status := stTranslation, unit := 0x31, ctx := x.ctx, info := { info with ftw := s.ftw } } none s

theorem closeSlot_eq {s : State} {f : Nat} {x : Feed} (feed : getFeed s f = x) (n bytes : Nat) :
    closeSlot f n bytes s = (ctrAdd x.ctx x.counter 1 (recordSlot x n bytes s)).2 := by
  subst feed
  rfl

theorem contextFault_feeds (ctx : Nat) (r : FaultRec) (k : Option Nat) (s : State) : (contextFault ctx r k s).feeds = s.feeds := by
  by_cases h : (getCtx s ctx).st = .active
  · rw [contextFault_active h r k, modCtx_feeds]
  · rw [contextFault_inactive h r k]

/-- R301: the status record, written or not, leaves feeds and counters alone. -/
theorem recordSlot_frame (x : Feed) (n bytes : Nat) (s : State) :
    (recordSlot x n bytes s).feeds = s.feeds ∧ (recordSlot x n bytes s).counters = s.counters := by
  unfold recordSlot
  split
  · next e written =>
    obtain ⟨-, feeds, counters⟩ := committed_write written
    exact ⟨feeds, counters⟩
  · exact ⟨contextFault_feeds _ _ _ _, contextFault_counters _ _ _ _⟩

theorem recordSlot_written {x : Feed} {n bytes : Nat} {s : State} {e : Eng} (h : slotWrite x n bytes s = .ok () e) :
    (recordSlot x n bytes s).mem = e.s.mem := by
  simp only [recordSlot, h]
  exact (committed_write h).1

theorem recordSlot_fails {x : Feed} {n bytes : Nat} {s : State} {r : EngStop} {e : Eng} (h : slotWrite x n bytes s = .error r e)
    (active : (getCtx s x.ctx).st = .active) : (getCtx (recordSlot x n bytes s) x.ctx).st = .error := by
  simp only [recordSlot, h]
  exact contextFault_st_active active _ _

/-- A counter's update leaves feeds, memory and contexts alone. -/
theorem ctrAdd_frame (ctx n v : Nat) (s : State) : (ctrAdd ctx n v s).2.feeds = s.feeds ∧ (ctrAdd ctx n v s).2.mem = s.mem ∧
    (ctrAdd ctx n v s).2.ctxs = s.ctxs := by
  obtain ⟨c, e, f, w, -, added⟩ := ctrAdd_ctr ctx n v s
  rw [added]
  exact ⟨rfl, rfl, rfl⟩

theorem ctrGet_congr {s t : State} (h : t.counters = s.counters) (n : Nat) : ctrGet t n = ctrGet s n := by rw [ctrGet, h, ctrGet]

/-- Settles O22: a FEED packet that fits and one that does not, FEED_DB, and the three ways in which a slot's deadline is met. -/
theorem feedSlotsFillAndClose : Obligations.FeedSlotsFillAndClose := by
  unfold Obligations.FeedSlotsFillAndClose
  refine ⟨⟨fun s port p x takes feed => ⟨?fits, ?drops⟩, fun s fn f v x up range feed bound =>
      ⟨fun n => exec_feedDb_sets up range feed bound, exec_feedDb_drops up range feed bound⟩⟩,
    fun s f x feed bound => ⟨exec_feedSlotClose_early feed bound, fun due reset => ?held, fun due running => ?closes⟩⟩
  case fits =>
    intro n e frame bound source edge early within aligned whole written
    have fits : feedFits s port p x n = true := by simp [feedFits, bound, source, edge, early, within, aligned, whole]
    obtain ⟨mem, put⟩ := takeFeed_written ((getFeed_congr (taken_feeds port p s) _).trans feed) written
    exact ⟨_, exec_pktFeed_fits takes feed frame fits, mem, by rw [put]; exact Tbl.get_put_self, by rw [put]⟩
  case drops =>
    refine fun unfit => exec_pktFeed_drops takes feed fun n frame => ?_
    rcases unfit with no | free | source | port | ⟨m, other, late⟩ | long | skew | odd
    · rw [no] at frame
      cases frame
    · simp [feedFits, free]
    · simp [feedFits, source]
    · simp [feedFits, port]
    · cases frame.symm.trans other
      simp [feedFits, late]
    · simp [feedFits, long]
    · simp [feedFits, skew]
    · simp [feedFits, odd]
  case held =>
    refine ⟨_, exec_feedSlotClose_held feed bound due reset, ?_, ?_, rfl⟩
    all_goals
      rw [getFeed_modFeed_self, getFeed_modFeed_self, feed]
      rfl
  case closes =>
    have closed : getFeed (modFeed f (slotClosed x) s) f = slotClosed x x := by rw [getFeed_modFeed_self, feed]
    obtain ⟨feeds, mem, ctxs⟩ := ctrAdd_frame x.ctx x.counter 1
      (recordSlot (slotClosed x x) x.nextClose (Tbl.get 0 x.recv x.nextClose) (modFeed f (slotClosed x) s))
    obtain ⟨feeds', counters⟩ := recordSlot_frame (slotClosed x x) x.nextClose (Tbl.get 0 x.recv x.nextClose) (modFeed f (slotClosed x) s)
    refine ⟨_, (exec_feedSlotClose_closes feed bound due running).trans (congrArg _ (closeSlot_eq closed _ _)), ?_, ?_, fun n hn => ?_, ?_⟩
    · exact congrArg Feed.nextClose ((getFeed_congr (feeds.trans feeds') f).trans closed)
    · refine (congrArg BitVec.toNat (ctrGet_ctrAdd_self _ _ _ _)).trans ?_
      rw [ctrGet_congr counters]
      change (BitVec.ofNat 64 (min ((ctrGet s x.counter).toNat + 1) (2 ^ 64 - 1))).toNat = _
      rw [BitVec.toNat_ofNat]
      exact Nat.mod_eq_of_lt (by omega)
    · exact (ctrGet_ctrAdd_ne hn).trans (ctrGet_congr counters n)
    · rintro u rfl
      refine ⟨fun e written => mem.trans (recordSlot_written written), fun r e fails active => ?_⟩
      exact (congrArg Ctx.st (getCtx_congr ctxs x.ctx)).trans (recordSlot_fails (x := slotClosed x x) fails active)

end Sys2Proof.Machine
end

section
/-!
Messages that set the module (O49): Mica slices, BAR2, roles, LEAVE, the power cap, the operating point and the wake alarms.
-/
namespace Sys2Proof.Machine

/-! ### MICA_SLICES (R293) -/

/-- An image changes nothing outside its area when its pieces lie in it. -/
theorem memRead_putImage_out {base size a : Nat} {ps : List (Nat × Bytes)} (out : a < base ∨ base + size ≤ a)
    (within : ∀ p ∈ ps, p.1 + p.2.length ≤ size) (m : List Host.Cell) : memRead (putImage base size ps m) a = memRead m a := by
  unfold putImage
  refine List.foldlRecOn ps _ (motive := fun n => memRead n a = memRead m a) (memRead_memClear_out out) fun n same p hp => ?_
  have fits := within p hp
  exact (memRead_memWriteN_out (by omega)).trans same

/-- The bytes of a free region lie in it. -/
theorem freeRegion_within {s : State} {n size : Nat} {p : Nat × Bytes} (h : p ∈ freeRegion s n 0 size) : p.1 + p.2.length ≤ size := by
  obtain ⟨b, hb, rfl⟩ := List.mem_map.mp h
  have small : b.1 < size := of_decide_eq_true (List.mem_filter.mp hb).2
  simp only [List.length_cons, List.length_nil]
  omega

theorem sliceBase_succ (k : Nat) : sliceBase (k + 1) = sliceBase k + 0x1000000 := by
  unfold sliceBase
  omega

/-- The address lies outside a slice. -/
def OutsideSlice (k a : Nat) : Prop := a < sliceBase k ∨ sliceBase (k + 1) ≤ a

/-- Nothing but memory, the cached lines and the count of free values has changed, and of memory only what lies in some slices. -/
def SlicesOnly (ks : List Nat) (s t : State) : Prop :=
  t = { s with mem := t.mem, pref := t.pref, free := t.free } ∧
  ∀ a, (∀ k ∈ ks, OutsideSlice k a) → memRead t.mem a = memRead s.mem a

theorem SlicesOnly.trans {ks ls : List Nat} {s t u : State} (h : SlicesOnly ks s t) (g : SlicesOnly ls t u) : SlicesOnly (ks ++ ls) s u := by
  obtain ⟨only, same⟩ := h
  obtain ⟨only', same'⟩ := g
  refine ⟨by rw [only', only], fun a out => ?_⟩
  rw [same' a fun k hk => out k (List.mem_append_right _ hk), same a fun k hk => out k (List.mem_append_left _ hk)]

theorem foldl_slicesOnly {f : State → Nat → State} (h : ∀ s k, SlicesOnly [k] s (f s k)) (ks : List Nat) (s : State) :
    SlicesOnly ks s (ks.foldl f s) := by
  induction ks generalizing s with
  | nil => exact ⟨rfl, fun _ _ => rfl⟩
  | cons k ks ih => exact (h s k).trans (ih _)

/-- R293: a slice that becomes scratchpad. -/
theorem toScratch_slice (s : State) (k : Nat) : SlicesOnly [k] s (toScratch k s) := by
  refine ⟨rfl, fun a out => memRead_putImage_out ?_ (fun p => freeRegion_within) s.mem⟩
  rw [← sliceBase_succ]
  exact out k List.mem_cons_self

/-- R293: a slice that becomes cache. -/
theorem clearSlice_slice (s : State) (k : Nat) : SlicesOnly [k] s { s with mem := memClear s.mem (sliceBase k) 0x1000000 } := by
  refine ⟨rfl, fun a out => memRead_memClear_out ?_⟩
  rw [← sliceBase_succ]
  exact out k List.mem_cons_self

section
variable {s : State} {bd : Bytes} {mask : BitVec 32} (hm : mask = BitVec.ofNat 32 (field bd 0 4))
include hm

theorem doMicaSlices_reserved (ch tag : Nat) (top : mask.getLsbD 31 = true) : doMicaSlices ch tag bd s = .now 0x0052 [] s := by
  subst hm
  exact if_pos top

theorem doMicaSlices_mapped (ch tag : Nat) (top : mask.getLsbD 31 = false) {k : Nat} (hk : k < 31) (set : mask.getLsbD k = true)
    (scratch : s.micaCache.getLsbD k = false) (mapped : sliceMapped s k = true) : doMicaSlices ch tag bd s = .now 0x0051 [] s := by
  subst hm
  refine (if_neg (by rw [top]; exact Bool.false_ne_true)).trans (if_pos (List.any_eq_true.mpr ⟨k, List.mem_range.mpr hk, ?_⟩))
  rw [set, scratch, mapped]
  rfl

/-- R293: a mask that is taken: only slices whose mode changes have changed. -/
theorem doMicaSlices_taken (ch tag : Nat) (top : mask.getLsbD 31 = false)
    (unmapped : ∀ k, k < 31 → mask.getLsbD k = true → s.micaCache.getLsbD k = false → sliceMapped s k = false) :
    ∃ t : State, doMicaSlices ch tag bd s = .now 0 [] t ∧ t.micaCache = mask ∧
      t = { s with micaCache := t.micaCache, mem := t.mem, pref := t.pref, free := t.free } ∧
      ∀ a, (∀ k, k < 31 → mask.getLsbD k = s.micaCache.getLsbD k ∨ OutsideSlice k a) → memRead t.mem a = memRead s.mem a := by
  have free : ((List.range 31).any fun k => mask.getLsbD k && !s.micaCache.getLsbD k && sliceMapped s k) = false := by
    simpa [and_assoc] using unmapped
  obtain ⟨only, same⟩ := (foldl_slicesOnly toScratch_slice
    ((List.range 31).filter fun k => !mask.getLsbD k && s.micaCache.getLsbD k) s).trans (foldl_slicesOnly clearSlice_slice
    ((List.range 31).filter fun k => mask.getLsbD k && !s.micaCache.getLsbD k) _)
  subst hm
  refine ⟨_, (if_neg (by rw [top]; exact Bool.false_ne_true)).trans (if_neg (by rw [free]; exact Bool.false_ne_true)), rfl, ?_,
    fun a out => same a fun k hk => ?_⟩
  · dsimp only
    rw [only]
  · simp only [List.mem_append, List.mem_filter, List.mem_range, Bool.and_eq_true, Bool.not_eq_true'] at hk
    rcases hk with ⟨hk, off, on⟩ | ⟨hk, on, off⟩
    all_goals exact (out k hk).resolve_left (by rw [on, off]; decide)

end

/-! ### BAR2_SET, ROLE_SET and LEAVE (R327, R330, R332, R339) -/

section
variable {s : State} {bd : Bytes}

theorem doBar2Set_pf (ch tag : Nat) (pf : ch = 0) (none : field bd 0 1 = 0) (aligned : field bd 8 8 % 2 ^ (getFn s 0).bar2Log = 0)
    (within : field bd 8 8 < 8 * ilBytes s.id) :
    doBar2Set ch tag bd s = .now 0 [] (modFn 0 (fun f => { f with bar2Off := field bd 8 8 }) s) :=
  (if_pos pf).trans (if_neg (by rw [none, aligned]; omega))

theorem doBar2Set_vf (ch tag : Nat) (vf : ch ≠ 0) (owns : ownsCtx s ch (field bd 0 1) = true) (within : field bd 8 8 < 2 ^ 48) :
    doBar2Set ch tag bd s =
      .now 0 [] (modFn ch (fun f => { f with bar2Ctx := some (field bd 0 1), bar2Base := field bd 8 8 }) s) :=
  (if_neg vf).trans ((if_neg (by rw [owns]; decide)).trans (if_neg (by omega)))

theorem doBar2Set_foreign (ch tag : Nat) (vf : ch ≠ 0) (foreign : ownsCtx s ch (field bd 0 1) = false) :
    doBar2Set ch tag bd s = .now 0x0050 [] s := (if_neg vf).trans (if_pos (by rw [foreign]; rfl))

theorem doRoleSet_worker (ch tag : Nat) (role : field bd 0 1 = 0) :
    doRoleSet ch tag bd s = .now 0 [] { s with id := { s.id with role := .worker } } := by
  simp [doRoleSet, role, roleOf, stOk]

theorem doRoleSet_systemManager (ch tag : Nat) (role : field bd 0 1 = 2) (place : managerPlace s.id = true) :
    doRoleSet ch tag bd s = .now 0 [] { s with
      id := { s.id with role := .systemManager }
      fab := { s.fab with manager := s.id.addr, beaconU := s.tb.nowU - 100 * msU } } := by
  simp [doRoleSet, role, place, roleOf, stOk]

theorem doRoleSet_refused (ch tag : Nat) (bad : 2 < field bd 0 1 ∨ (field bd 0 1 ≠ 0 ∧ managerPlace s.id = false)) :
    doRoleSet ch tag bd s = .now 0x0052 [] s := by
  by_cases range : 2 < field bd 0 1
  · exact if_pos range
  · exact (if_neg range).trans (if_pos (bad.resolve_left range))

theorem doLeave_member (ch tag : Nat) (member : s.fab.confirmed = true) : ∃ t : State, doLeave ch tag bd s = .now 0 [] t ∧
    t.fab.confirmed = false ∧ t.fab.joined = false ∧ (∃ x ∈ t.fab.unacked, x.dst = joinedTo s ∧ field x.payload 0 2 = 0x05) ∧
    t = { s with fab := t.fab } := by
  obtain ⟨m, dst, -, payload, unacked, -⟩ := mgmtSend_fabric (code := 0x05) (joinedTo s) [] rfl s
  obtain ⟨fab, sent⟩ := mgmtSend_fab (joinedTo s) 0x05 [] s
  refine ⟨_, if_neg (by rw [member]; decide), rfl, rfl, ⟨m, ?_, dst, ?_⟩, ?_⟩
  · exact unacked ▸ List.mem_append_right _ List.mem_cons_self
  · rw [payload, field_mgmtPayload_code (by decide)]
  · rw [sent]

theorem doLeave_stranger (ch tag : Nat) (stranger : s.fab.confirmed = false) : doLeave ch tag bd s = .now 0x0052 [] s :=
  if_pos (by rw [stranger]; rfl)

/-! ### Power (R361, R370, R371, R381) -/

theorem doPowerCapSet_inRange (ch tag : Nat) (lo : 1200 ≤ field bd 0 2) (hi : field bd 0 2 ≤ 3500) (host : ch < 32)
    (cool : s.pow.tripHold = false) : doPowerCapSet ch tag bd s =
      .now (if min s.pow.boardCap (field bd 0 2) < floorW s.pow.oppoint then 0x0040 else 0) []
        { s with pow := { s.pow with hostCap := field bd 0 2 } } := by
  have channel : ch ≠ 32 := by omega
  refine (if_neg (by omega)).trans ?_
  simp only [if_neg channel, cool, Bool.false_eq_true, if_false]
  rfl

theorem doPowerCapSet_outside (ch tag : Nat) (out : field bd 0 2 < 1200 ∨ 3500 < field bd 0 2) :
    doPowerCapSet ch tag bd s = .now 0x0052 [] s := if_pos out

theorem doOppointSet_taken (ch tag : Nat) (level : field bd 0 1 ≤ 2) (none : hostCtxExists s = false) :
    doOppointSet ch tag bd s = .now 0 [] { s with pow := { s.pow with oppoint := field bd 0 1 } } :=
  if_neg (by rw [none]; simp [level])

theorem doOppointSet_refused (ch tag : Nat) (bad : 2 < field bd 0 1 ∨ hostCtxExists s = true) :
    doOppointSet ch tag bd s = .now 0x0052 [] s := if_pos bad

theorem doWakeSet_rtc (ch tag : Nat) (alarm : field bd 0 1 = 0) (time : field bd 8 8 ≠ 0) : doWakeSet ch tag bd s =
    if field bd 8 8 ≤ s.rtcUs then .now 0 [] (wakeUp { s with pow := { s.pow with rtcAlarm := none } })
    else .now 0 [] { s with pow := { s.pow with rtcAlarm := some (field bd 8 8) } } := by
  simp only [doWakeSet, alarm, if_neg time]
  rfl

theorem doWakeSet_frameCancel (ch tag : Nat) (alarm : field bd 0 1 = 1) (time : field bd 8 8 = 0) :
    doWakeSet ch tag bd s = .now 0 [] { s with pow := { s.pow with frameAlarm := none } } := by
  simp only [doWakeSet, alarm, if_pos time]
  rfl

theorem doWakeSet_frame (ch tag : Nat) (alarm : field bd 0 1 = 1) (early : s.reachedN (field bd 8 8) = false) (time : field bd 8 8 ≠ 0) :
    doWakeSet ch tag bd s = .now 0 [] { s with pow := { s.pow with frameAlarm := some (BitVec.ofNat 64 (field bd 8 8)) } } := by
  simp only [doWakeSet, alarm, if_neg time, early, Bool.false_eq_true, if_false]
  rfl

theorem doWakeSet_reserved (ch tag : Nat) (alarm : 1 < field bd 0 1) : doWakeSet ch tag bd s = .now 0x0052 [] s := by
  obtain ⟨n, alarm⟩ := Nat.exists_eq_add_of_lt alarm
  rw [show 1 + n + 1 = n + 2 by omega] at alarm
  simp only [doWakeSet, alarm]
  rfl

end

/-! ### What the handlers read of the state with the request in its buffer -/

section
variable (s : State) (ch : Nat) (req : Bytes)

theorem given_micaCache : (s.given ch req).micaCache = s.micaCache := given_reads s ch req (f := fun s => s.micaCache) fun _ _ => rfl
theorem given_mem : (s.given ch req).mem = s.mem := given_reads s ch req (f := fun s => s.mem) fun _ _ => rfl
theorem given_id : (s.given ch req).id = s.id := given_reads s ch req (f := fun s => s.id) fun _ _ => rfl
theorem given_tb : (s.given ch req).tb = s.tb := given_reads s ch req (f := fun s => s.tb) fun _ _ => rfl
theorem given_joinedTo : joinedTo (s.given ch req) = joinedTo s := given_reads s ch req (f := joinedTo) fun _ _ => rfl
theorem given_sliceMapped (k : Nat) : sliceMapped (s.given ch req) k = sliceMapped s k :=
  given_reads s ch req (f := (sliceMapped · k)) fun _ _ => rfl
theorem given_hostCtxExists : hostCtxExists (s.given ch req) = hostCtxExists s := given_reads s ch req (f := hostCtxExists) fun _ _ => rfl
theorem given_rtcUs : (s.given ch req).rtcUs = s.rtcUs := given_reads s ch req (f := State.rtcUs) fun _ _ => rfl
theorem given_reachedN (n : Nat) : (s.given ch req).reachedN n = s.reachedN n :=
  given_reads s ch req (f := (State.reachedN · n)) fun _ _ => rfl
theorem given_tripHold : (s.given ch req).pow.tripHold = s.pow.tripHold := given_reads s ch req (f := fun s => s.pow.tripHold) fun _ _ => rfl
theorem given_boardCap : (s.given ch req).pow.boardCap = s.pow.boardCap := given_reads s ch req (f := fun s => s.pow.boardCap) fun _ _ => rfl
theorem given_oppoint : (s.given ch req).pow.oppoint = s.pow.oppoint := given_reads s ch req (f := fun s => s.pow.oppoint) fun _ _ => rfl

/-- A request in its buffer leaves a function's BAR2 alone. -/
theorem given_bar2Log (f : Nat) : (getFn (s.given ch req) f).bar2Log = (getFn s f).bar2Log := by
  have woken : getFn (s.given ch req) f = getFn (modFn ch (fun f => { f with reqBuf := padTo 3072 req }) s) f := by
    unfold State.given wakeUp
    split <;> rfl
  rw [woken]
  by_cases same : f = ch
  · rw [same, getFn_modFn_self]
  · exact congrArg Fn.bar2Log (Tbl.get_put_ne same)

end

/-- Settles O49: each message's handler, on the state with the request in its buffer. -/
theorem moduleMessagesSetTheModule : Obligations.ModuleMessagesSetTheModule := by
  unfold Obligations.ModuleMessagesSetTheModule
  rintro s _ ch req bd rfl
  refine ⟨fun h mask hm => ⟨fun top => ?_, fun k hk top set scratch mapped => ?_, fun top unmapped => ?slices⟩,
    fun h => ⟨fun pf none aligned within => ?_, fun vf owns within => ?_, fun vf foreign => ?_⟩,
    fun h => ⟨fun role => ?worker, fun role place => ?manager, fun bad => ?_⟩,
    fun h => ⟨fun member => ?leave, fun stranger => ?_⟩, fun h => ⟨fun lo hi cool => ?cap, fun out => ?_⟩,
    fun h => ⟨fun level none => ?_, fun bad => ?_⟩,
    fun h time ht => ⟨fun alarm set early => ?rtc, fun alarm set due => ?fires, fun alarm cancel => ?_, fun alarm early set => ?_,
      fun alarm => ?_⟩⟩
  case slices =>
    obtain ⟨t, answer, taken, only, same⟩ := doMicaSlices_taken (s := s.given ch req) hm ch (field req 4 4) top
      fun k hk set scratch => (given_sliceMapped s ch req k).trans (unmapped k hk set (by rwa [given_micaCache] at scratch))
    refine ⟨t, exec_of_now rfl rfl h answer, taken, only, fun a out => ?_⟩
    rw [same a fun k hk => by rw [given_micaCache]; exact out k hk, given_mem]
  case worker =>
    refine (exec_of_now rfl rfl h (doRoleSet_worker ch (field req 4 4) role)).trans ?_
    rw [given_id]
  case manager =>
    refine (exec_of_now rfl rfl h (doRoleSet_systemManager ch (field req 4 4) role (by rwa [given_id]))).trans ?_
    rw [given_id, given_fab, given_tb]
  case leave =>
    obtain ⟨t, answer, confirmed, joined, ⟨x, hx, dst, code⟩, only⟩ := doLeave_member (bd := bd) (s := s.given ch req)
      ch (field req 4 4) (by rwa [given_fab])
    exact ⟨t, exec_of_now rfl rfl h answer, confirmed, joined, ⟨x, hx, dst.trans (given_joinedTo s ch req), code⟩, only⟩
  case cap =>
    obtain ⟨-, host, -⟩ := id h
    refine (exec_of_now rfl rfl h (doPowerCapSet_inRange ch (field req 4 4) lo hi host (by rwa [given_tripHold]))).trans ?_
    rw [given_boardCap, given_oppoint]
  case rtc =>
    subst ht
    exact exec_of_now rfl rfl h ((doWakeSet_rtc ch (field req 4 4) alarm set).trans (if_neg (by rw [given_rtcUs]; omega)))
  case fires =>
    subst ht
    exact exec_of_now rfl rfl h ((doWakeSet_rtc ch (field req 4 4) alarm set).trans (if_pos (by rwa [given_rtcUs])))
  all_goals refine exec_of_now rfl rfl h ?_
  · exact doMicaSlices_reserved hm ch (field req 4 4) top
  · exact doMicaSlices_mapped hm ch (field req 4 4) top hk set (by rwa [given_micaCache]) (by rwa [given_sliceMapped])
  · exact doBar2Set_pf ch (field req 4 4) pf none (by rwa [given_bar2Log]) (by rwa [given_id])
  · exact doBar2Set_vf ch (field req 4 4) vf (by rwa [given_ownsCtx]) within
  · exact doBar2Set_foreign ch (field req 4 4) vf (by rwa [given_ownsCtx])
  · exact doRoleSet_refused ch (field req 4 4) (by rwa [given_id])
  · exact doLeave_stranger (bd := bd) ch (field req 4 4) (by rwa [given_fab])
  · exact doPowerCapSet_outside ch (field req 4 4) out
  · exact doOppointSet_taken ch (field req 4 4) level (by rwa [given_hostCtxExists])
  · exact doOppointSet_refused ch (field req 4 4) (by rwa [given_hostCtxExists])
  · exact doWakeSet_frameCancel ch (field req 4 4) alarm (ht ▸ cancel)
  · subst ht
    exact doWakeSet_frame ch (field req 4 4) alarm (by rwa [given_reachedN]) set
  · exact doWakeSet_reserved ch (field req 4 4) alarm

end Sys2Proof.Machine
end

section
/-!
Thermal and power limits (O57): a thermal sample and the trip, telemetry and calibration, the limiter's tick and CAP_UNMET.
-/
namespace Sys2Proof.Machine

/-! ### Issue fractions and the power manager's state -/

/-- The state with another power manager's state. -/
def withPow (p : Power) (s : State) : State := { s with pow := p }

/-- The power manager's state is the same. -/
def SamePow (s t : State) : Prop := t.pow = s.pow

theorem foldl_samePow {α : Type} {f : State → α → State} (h : ∀ s x, SamePow s (f s x)) (l : List α) (s : State) :
    SamePow s (l.foldl f s) := foldl_rel (R := SamePow) (fun _ => rfl) (fun _ _ _ first rest => Eq.trans rest first) h l s

theorem takeCredit_samePow (b c n : Nat) (s : State) : SamePow s (takeCredit b c n s) := rfl

theorem setF_pow (fs : List Nat) (s : State) : (setF fs s).pow = { s.pow with f := fs } := by
  unfold setF
  extract_lets settled
  have same : SamePow s settled := foldl_samePow (fun s b => foldl_samePow (fun s c => takeCredit_samePow b c 0 s) _ s) _ s
  exact congrArg (fun p : Power => { p with f := fs }) same

/-- R365: issue fractions that are set change the fractions and the clusters' credit. -/
theorem setF_eq (fs : List Nat) (s : State) :
    setF fs s = { s with clusters := (setF fs s).clusters, pow := { s.pow with f := fs } } := by
  rw [← setF_pow]
  exact setF_creditOnly fs s

/-- R347: an event does not read the power manager's state. -/
theorem postEvent_withPow (p : Power) (fn code status : Nat) (bd : Bytes) (s : State) :
    postEvent fn code status bd (withPow p s) = withPow p (postEvent fn code status bd s) := by
  unfold postEvent postEventF raiseMsix
  dsimp only [withPow, modFn, getFn, message, State.ftw]
  split
  · rfl
  · split
    · split <;> rfl
    · rfl

theorem postAll_withPow (p : Power) (code status : Nat) (bd : Bytes) (s : State) :
    postAll code status bd (withPow p s) = withPow p (postAll code status bd s) :=
  List.foldl_hom (withPow p) fun s fn => postEvent_withPow p fn code status bd s

theorem thermalEvent_withPow (p : Power) (die kind : Nat) (t : Int) (s : State) :
    thermalEvent die kind t (withPow p s) = withPow p (thermalEvent die kind t s) := postAll_withPow p _ _ _ (logEntry _ _ _ s)

/-- R376: a THERMAL event reaches the error log, the functions' rings and the interrupts; the count of resets stands. -/
theorem thermalEvent_frame (die kind : Nat) (t : Int) (s : State) : ∃ l g m, thermalEvent die kind t s =
    { s with log := l, fns := g, msix := m } ∧ l.resets = s.log.resets := by
  obtain ⟨g, m, posted⟩ := postAll_host 0x8020 stThermal (leBytes 1 die ++ leBytes 1 kind ++ leBytes 2 (wrapInt 16 t))
    (logEntry 0x0007 stThermal (leBytes 1 die ++ leBytes 1 kind ++ leBytes 2 (wrapInt 16 t)) s)
  exact ⟨_, g, m, posted, rfl⟩

/-! ### One die of a sample (R374, R375) -/

section
variable (temps : List Int) (die : Nat)

/-- R374: a die that enters or leaves throttle. -/
def crossDie (s : State) : State :=
  if s.pow.throttled.getD die false = decide (throttleAt die ≤ temps.getD die 250) then s
  else thermalEvent die (if decide (throttleAt die ≤ temps.getD die 250) then 0 else 1) (temps.getD die 250)
    { s with pow := { s.pow with throttled := modAt s.pow.throttled die fun _ => decide (throttleAt die ≤ temps.getD die 250) } }

/-- R375: a die that trips, before the compute reset that follows. -/
def holdDie (s : State) : State :=
  thermalEvent die 2 (temps.getD die 250) (setF (List.replicate 8 0) { s with pow := { s.pow with tripHold := true } })

/-- R375: the die is at its trip temperature. -/
def Trips : Prop := tripAt die ≤ temps.getD die 250

theorem sampleDie_trips {s : State} (trips : Trips temps die) (free : (crossDie temps die s).pow.tripHold = false) :
    sampleDie temps s die = startReset 3 {} (holdDie temps die (crossDie temps die s)) := if_pos ⟨trips, free⟩

theorem sampleDie_crosses {s : State} (stays : ¬ Trips temps die ∨ (crossDie temps die s).pow.tripHold = true) :
    sampleDie temps s die = crossDie temps die s := by
  refine if_neg fun ⟨trips, free⟩ => ?_
  rcases stays with cool | held
  · exact cool trips
  · exact absurd (free.symm.trans held) Bool.false_ne_true

/-- R376: a crossing changes which dies throttle, the error log, and what an event changes. -/
theorem crossDie_frame (s : State) : ∃ th l g m, crossDie temps die s =
    { s with pow := { s.pow with throttled := th }, log := l, fns := g, msix := m } ∧ l.resets = s.log.resets := by
  unfold crossDie
  split
  · exact ⟨s.pow.throttled, s.log, s.fns, s.msix, rfl, rfl⟩
  · obtain ⟨l, g, m, event, resets⟩ := thermalEvent_frame die (if decide (throttleAt die ≤ temps.getD die 250) then 0 else 1)
      (temps.getD die 250)
      { s with pow := { s.pow with throttled := modAt s.pow.throttled die fun _ => decide (throttleAt die ≤ temps.getD die 250) } }
    exact ⟨_, l, g, m, event, resets⟩

/-- R375: what a trip holds before its reset. -/
theorem holdDie_frame (s : State) : ∃ cl l g m, holdDie temps die s =
    { s with clusters := cl, pow := { s.pow with tripHold := true, f := List.replicate 8 0 }, log := l, fns := g, msix := m } ∧
    l.resets = s.log.resets := by
  unfold holdDie
  rw [setF_eq]
  obtain ⟨l, g, m, event, resets⟩ := thermalEvent_frame die 2 (temps.getD die 250)
    { s with
      clusters := (setF (List.replicate 8 0) { s with pow := { s.pow with tripHold := true } }).clusters
      pow := { s.pow with tripHold := true, f := List.replicate 8 0 } }
  exact ⟨_, l, g, m, event, resets⟩

end

/-- Of the power manager's state at most issue fractions, the dies that throttle and the hold of a trip differ. -/
def TripsOnly (s t : State) : Prop := ∃ f th hold, t.pow = { s.pow with f := f, throttled := th, tripHold := hold }

theorem TripsOnly.of_pow {s t : State} (h : t.pow = s.pow) : TripsOnly s t := ⟨_, _, _, h⟩
theorem TripsOnly.of_f {s t : State} {f : List Nat} (h : t.pow = { s.pow with f := f }) : TripsOnly s t := ⟨_, _, _, h⟩

theorem TripsOnly.trans {a b c : State} (h : TripsOnly a b) (g : TripsOnly b c) : TripsOnly a c := by
  obtain ⟨f, th, hold, h⟩ := h
  obtain ⟨f', th', hold', g⟩ := g
  exact ⟨f', th', hold', by rw [g, h]⟩

theorem writeCtxImage_pow (ctx no : Nat) (rec : Bytes) (s : State) : (writeCtxImage ctx no rec [] s).pow = s.pow := by
  rw [writeCtxImage_fault ctx no rec [] s]

theorem nameCtx_pow (ctx no : Nat) (rec : Bytes) (s : State) : (nameCtx ctx no rec s).pow = s.pow := by
  unfold nameCtx
  extract_lets rst named
  have same : named.pow = s.pow := rfl
  split
  · split
    · exact (writeCtxImage_pow ctx no rec named).trans same
    · exact (writeCtxImage_pow ctx no rec named).trans same
    all_goals exact same
  · rfl

theorem nameTrigger_pow (ctx no : Nat) (rec : Bytes) (s : State) : (nameTrigger ctx no rec s).pow = s.pow := by
  unfold nameTrigger
  split
  · rfl
  · exact nameCtx_pow ctx no rec s

theorem announceReset_pow (s : State) : (announceReset s).pow = { s.pow with f := List.replicate 8 0 } := by
  unfold announceReset
  extract_lets addr u
  obtain ⟨fab, noticed⟩ : FabOnly (logResetStart s.rst.cause s.rst.ctx addr s) u := resetNotice_fab 0 s.rst.cause _
  obtain ⟨g, m, posted⟩ := postAll_host 0x8031 0 [1] { u with mb := .computeReset }
  rw [setF_pow, posted, noticed]
  rfl

/-- R392: a trigger that begins a compute reset outside a handover sets the issue fractions to 0. -/
theorem startReset_pow {s : State} (idle : s.rst.stage = .none) (ready : s.mb ≠ .handover) (cause : Nat) (r : FaultRec) :
    (startReset cause r s).pow = { s.pow with f := List.replicate 8 0 } := by
  rw [startReset_idle idle ready, announceReset_pow, nameTrigger_pow]
  rfl

/-- R356: a reset that waits for a handover leaves the power manager's state as it is. -/
theorem startReset_waits_pow {s : State} (idle : s.rst.stage = .none) (waits : s.mb = .handover) (cause : Nat) (r : FaultRec) :
    (startReset cause r s).pow = s.pow := by
  have row : startReset cause r s =
      (let u := nameTrigger r.ctx s.log.recordNo (noteTrigger cause r s).1 (noteTrigger cause r s).2
       if u.mb = .handover then u else announceReset u) := by
    unfold startReset
    simp only [idle]
    rfl
  have mb := (nameTrigger_spec (s := (noteTrigger cause r s).2) rfl r.ctx s.log.recordNo (noteTrigger cause r s).1).2.1
  rw [row, if_pos (mb.trans waits), nameTrigger_pow]
  rfl

/-- R384: a trigger that joins a reset leaves the power manager's state as it is. -/
theorem startReset_joins_pow {s : State} (runs : s.rst.stage ≠ .none) (cause : Nat) (r : FaultRec) :
    (startReset cause r s).pow = s.pow := by
  unfold startReset
  split
  · next idle => exact absurd idle runs
  all_goals exact nameTrigger_pow r.ctx s.log.recordNo _ _

/-- R392: of the power manager's state a trigger of a compute reset changes the issue fractions alone. -/
theorem startReset_trips (cause : Nat) (r : FaultRec) (s : State) : TripsOnly s (startReset cause r s) := by
  by_cases idle : s.rst.stage = .none
  · by_cases waits : s.mb = .handover
    · exact .of_pow (startReset_waits_pow idle waits cause r)
    · exact .of_f (startReset_pow idle waits cause r)
  · exact .of_pow (startReset_joins_pow idle cause r)

theorem sampleDie_tripsOnly (temps : List Int) (s : State) (die : Nat) : TripsOnly s (sampleDie temps s die) := by
  obtain ⟨th, l, g, m, crossed, -⟩ := crossDie_frame temps die s
  have cross : TripsOnly s (crossDie temps die s) := ⟨s.pow.f, th, s.pow.tripHold, by rw [crossed]⟩
  by_cases trips : Trips temps die ∧ (crossDie temps die s).pow.tripHold = false
  · obtain ⟨cl, l, g, m, held, -⟩ := holdDie_frame temps die (crossDie temps die s)
    have hold : TripsOnly (crossDie temps die s) (holdDie temps die (crossDie temps die s)) := ⟨_, _, true, by rw [held]⟩
    rw [sampleDie_trips temps die trips.1 trips.2]
    exact (cross.trans hold).trans (startReset_trips 3 {} _)
  · rw [sampleDie_crosses temps die (by rwa [not_and_or, Bool.not_eq_false] at trips)]
    exact cross

/-! ### A sample (R373-R376, R382) -/

/-- The state with a sample's temperatures and the issue limits that follow from them. -/
def sampled (temps : List Int) (s : State) : State :=
  { s with pow := { s.pow with temps := temps, fth := (List.range 8).map fun b => fthNext temps b (s.pow.fth.getD b 64) } }

/-- The state with every die of a sample judged. -/
def judged (temps : List Int) (s : State) : State := (List.range 20).foldl (sampleDie temps) (sampled temps s)

/-- The state after a sample's judgement: the hold of a trip ends when every die is cool (R375). -/
def released (temps : List Int) (s : State) : State :=
  { s with pow := { s.pow with tripHold := s.pow.tripHold && !allCool temps } }

theorem released_withPow (temps : List Int) (p : Power) (s : State) :
    released temps (withPow p s) = { s with pow := (released temps (withPow p s)).pow } := rfl

theorem exec_thermalSample (given : List Int) (s : State) : exec (.thermalSample given) s =
    .next (released (sampledTemps s given) (judged (sampledTemps s given) s)) := rfl

theorem judged_tripsOnly (temps : List Int) (s : State) : TripsOnly (sampled temps s) (judged temps s) :=
  foldl_rel (R := TripsOnly) (fun _ => .of_pow rfl) (fun _ _ _ => TripsOnly.trans) (sampleDie_tripsOnly temps) _ _

theorem judged_temps (temps : List Int) (s : State) : (judged temps s).pow.temps = temps := by
  obtain ⟨f, th, hold, pow⟩ := judged_tripsOnly temps s
  rw [pow]
  rfl

theorem judged_fth (temps : List Int) (s : State) :
    (judged temps s).pow.fth = (List.range 8).map fun b => fthNext temps b (s.pow.fth.getD b 64) := by
  obtain ⟨f, th, hold, pow⟩ := judged_tripsOnly temps s
  rw [pow]
  rfl

theorem getD_map_range {α : Type} {n i : Nat} (h : i < n) (f : Nat → α) (d : α) : ((List.range n).map f).getD i d = f i := by
  simp [List.getD_eq_getElem?_getD, h]

theorem dieGated_iff {s : State} {d : Nat} :
    dieGated s d = true ↔ (s.pow.pst = .doze ∨ s.pow.pst = .sleep) ∧ (d < 16 ∨ d = 18) := by
  simp [dieGated]

/-- R382: the temperature of a die in a sample. -/
theorem sampledTemps_getD (s : State) (given : List Int) {d : Nat} (h : d < 20) : (sampledTemps s given).getD d 250 =
    if (s.pow.pst = .doze ∨ s.pow.pst = .sleep) ∧ (d < 16 ∨ d = 18) then s.pow.temps.getD d 250
    else given.getD d (s.pow.temps.getD d 250) := by
  rw [sampledTemps, getD_map_range h]
  simp only [dieGated_iff]

/-- R374: a die that is cool and was is left alone. -/
theorem sampleDie_cool {temps : List Int} {die : Nat} {s : State} (cool : temps.getD die 250 < throttleAt die)
    (was : s.pow.throttled.getD die false = false) : sampleDie temps s die = s := by
  have now : decide (throttleAt die ≤ temps.getD die 250) = false := by simpa using cool
  have calm : ¬ Trips temps die := by
    unfold Trips tripAt
    omega
  rw [sampleDie_crosses temps die (.inl calm)]
  exact if_pos (was.trans now.symm)

theorem foldl_sampleDie_cool {temps : List Int} {s : State} {l : List Nat}
    (cool : ∀ d ∈ l, temps.getD d 250 < throttleAt d ∧ s.pow.throttled.getD d false = false) : l.foldl (sampleDie temps) s = s := by
  induction l with
  | nil => rfl
  | cons d l ih =>
    obtain ⟨low, was⟩ := cool d List.mem_cons_self
    rw [List.foldl_cons, sampleDie_cool low was]
    exact ih fun d hd => cool d (List.mem_cons_of_mem _ hd)

theorem getD_replicate_false (n d : Nat) : (List.replicate n false).getD d false = false :=
  (List.getD_eq_getElem?_getD ..).trans (List.getElem?_getD_replicate_default_eq ..)

/-- R374: a sample that no die crosses throttle in. -/
theorem judged_cool {temps : List Int} {s : State} (cool : ∀ d, d < 20 → temps.getD d 250 < throttleAt d)
    (was : s.pow.throttled = List.replicate 20 false) : judged temps s = sampled temps s := by
  refine foldl_sampleDie_cool fun d hd => ⟨cool d (List.mem_range.mp hd), ?_⟩
  change s.pow.throttled.getD d false = false
  rw [was, getD_replicate_false]

/-- R374, R376: a die that enters throttle below its trip temperature. -/
theorem sampleDie_enters {temps : List Int} {die : Nat} {s : State} (hot : throttleAt die ≤ temps.getD die 250)
    (below : temps.getD die 250 < tripAt die) (was : s.pow.throttled.getD die false = false) : sampleDie temps s die =
      thermalEvent die 0 (temps.getD die 250) { s with pow := { s.pow with throttled := modAt s.pow.throttled die fun _ => true } } := by
  rw [sampleDie_crosses temps die (.inl (Int.not_le.mpr below))]
  unfold crossDie
  simp only [was, decide_eq_true hot, if_true, Bool.false_eq_true, if_false]

/-- R374: of the dies of a list only one enters throttle. -/
theorem foldl_sampleDie_one {temps : List Int} {die : Nat} {s : State} {l : List Nat} (hd : die ∈ l) (once : l.Nodup)
    (hot : throttleAt die ≤ temps.getD die 250) (below : temps.getD die 250 < tripAt die)
    (was : s.pow.throttled = List.replicate 20 false) (cool : ∀ d ∈ l, d ≠ die → temps.getD d 250 < throttleAt d) :
    l.foldl (sampleDie temps) s = sampleDie temps s die := by
  obtain ⟨before, after, rfl⟩ := List.append_of_mem hd
  obtain ⟨-, tail, apart⟩ := List.nodup_append'.mp once
  have none : ∀ d, s.pow.throttled.getD d false = false := fun d => by rw [was, getD_replicate_false]
  have first : before.foldl (sampleDie temps) s = s := foldl_sampleDie_cool fun d hd =>
    ⟨cool d (List.mem_append_left _ hd) fun same => apart hd (same ▸ List.mem_cons_self), none d⟩
  rw [List.foldl_append, List.foldl_cons, first, sampleDie_enters hot below (none die)]
  refine foldl_sampleDie_cool fun d hd => ?_
  have other : d ≠ die := fun same => (List.nodup_cons.mp tail).1 (same ▸ hd)
  refine ⟨cool d (List.mem_append_right _ (List.mem_cons_of_mem _ hd)) other, ?_⟩
  obtain ⟨_, _, _, event, -⟩ := thermalEvent_frame die 0 (temps.getD die 250)
    { s with pow := { s.pow with throttled := modAt s.pow.throttled die fun _ => true } }
  rw [event]
  dsimp only
  rw [modAt_eq_modify, List.getD_eq_getElem?_getD, List.getElem?_modify_ne _ _ (Ne.symm other), ← List.getD_eq_getElem?_getD, none]

/-- R374, R376: a sample in which one die alone enters throttle, below its trip temperature. -/
theorem judged_enters {temps : List Int} {die : Nat} {s : State} (hd : die < 20) (hot : throttleAt die ≤ temps.getD die 250)
    (below : temps.getD die 250 < tripAt die) (was : s.pow.throttled = List.replicate 20 false)
    (cool : ∀ d, d < 20 → d ≠ die → temps.getD d 250 < throttleAt d) : judged temps s =
      withPow { (sampled temps s).pow with throttled := modAt s.pow.throttled die fun _ => true }
        (thermalEvent die 0 (temps.getD die 250) s) := by
  replace was : (sampled temps s).pow.throttled = List.replicate 20 false := was
  have none : (sampled temps s).pow.throttled.getD die false = false := by rw [was, getD_replicate_false]
  have event := thermalEvent_withPow { (sampled temps s).pow with throttled := modAt s.pow.throttled die fun _ => true } die 0
    (temps.getD die 250) s
  rw [← event, judged, foldl_sampleDie_one (List.mem_range.mpr hd) List.nodup_range hot below was
    fun d hd => cool d (List.mem_range.mp hd), sampleDie_enters hot below none]
  rfl

/-! ### A trip (R375, R384, R392) -/

/-- No die holds the domain and no reset runs. -/
def Untripped (n : Nat) (s : State) : Prop :=
  s.pow.tripHold = false ∧ s.rst.stage = .none ∧ s.mb ≠ .handover ∧ s.log.resets = n

/-- A die holds the domain, and its compute reset has been detected. -/
def Tripped (n : Nat) (s : State) : Prop :=
  s.pow.tripHold = true ∧ s.pow.f = List.replicate 8 0 ∧ s.mb = .computeReset ∧ s.rst.stage = .detected ∧ s.rst.cause = 3 ∧
    s.log.resets = n + 1

section
variable {temps : List Int} {n : Nat} {s : State}

/-- R375: once the domain is held no later die of the sample trips it again. -/
theorem sampleDie_tripped (h : Tripped n s) (die : Nat) : Tripped n (sampleDie temps s die) := by
  obtain ⟨hold, f, mb, stage, cause, resets⟩ := h
  obtain ⟨th, l, g, m, crossed, same⟩ := crossDie_frame temps die s
  rw [sampleDie_crosses temps die (.inr (by rw [crossed]; exact hold)), crossed]
  exact ⟨hold, f, mb, stage, cause, same.trans resets⟩

theorem sampleDie_untripped (h : Untripped n s) {die : Nat} (calm : ¬ Trips temps die) : Untripped n (sampleDie temps s die) := by
  obtain ⟨hold, stage, mb, resets⟩ := h
  obtain ⟨th, l, g, m, crossed, same⟩ := crossDie_frame temps die s
  rw [sampleDie_crosses temps die (.inl calm), crossed]
  exact ⟨hold, stage, mb, same.trans resets⟩

/-- R375: the first die at trip holds the domain and starts the reset. -/
theorem sampleDie_begins (h : Untripped n s) {die : Nat} (trips : Trips temps die) : Tripped n (sampleDie temps s die) := by
  obtain ⟨hold, stage, mb, resets⟩ := h
  obtain ⟨th, l, g, m, crossed, same⟩ := crossDie_frame temps die s
  obtain ⟨cl, l', g', m', held, same'⟩ := holdDie_frame temps die (crossDie temps die s)
  rw [sampleDie_trips temps die trips (by rw [crossed]; exact hold)]
  have holds : (holdDie temps die (crossDie temps die s)).pow.tripHold = true := by rw [held]
  have idle : (holdDie temps die (crossDie temps die s)).rst.stage = .none := by rw [held, crossed]; exact stage
  have ready : (holdDie temps die (crossDie temps die s)).mb ≠ .handover := by rw [held, crossed]; exact mb
  have count : (holdDie temps die (crossDie temps die s)).log.resets = n := by
    have crossings : (crossDie temps die s).log.resets = n := by rw [crossed]; exact same.trans resets
    rw [held]
    exact same'.trans crossings
  generalize holdDie temps die (crossDie temps die s) = u at holds idle ready count
  obtain ⟨-, mb', stage', cause, -, resets', f, -⟩ := startReset_begins idle ready 3 {} rfl
  refine ⟨?_, f, mb', stage', cause, resets'.trans (congrArg (· + 1) count)⟩
  rw [startReset_pow idle ready]
  exact holds

theorem foldl_sampleDie_trips {die : Nat} (trips : Trips temps die) {l : List Nat} (h : Untripped n s) (hd : die ∈ l) :
    Tripped n (l.foldl (sampleDie temps) s) := by
  induction l generalizing s with
  | nil => exact absurd hd List.not_mem_nil
  | cons d l ih =>
    rw [List.foldl_cons]
    by_cases now : Trips temps d
    · exact foldl_of (P := Tripped n) (fun _ d k => sampleDie_tripped k d) (sampleDie_begins h now)
    · refine ih (sampleDie_untripped h now) ((List.mem_cons.mp hd).resolve_left ?_)
      rintro rfl
      exact now trips

end

/-- R375: a die that is hot keeps the hold. -/
theorem allCool_hot {temps : List Int} {die : Nat} (h : die < 20) (hot : tripAt die ≤ temps.getD die 250) : allCool temps = false := by
  refine Bool.eq_false_iff.mpr fun cool => ?_
  have low := of_decide_eq_true (List.all_eq_true.mp cool die (List.mem_range.mpr h))
  unfold tripAt at hot
  omega

/-- R375: a sample in which a die is at its trip temperature. -/
theorem judged_trips {temps : List Int} {s : State} {die : Nat} (hd : die < 20) (hot : tripAt die ≤ temps.getD die 250)
    (free : s.pow.tripHold = false) (idle : s.rst.stage = .none) (ready : s.mb ≠ .handover) :
    Tripped s.log.resets (judged temps s) :=
  foldl_sampleDie_trips (s := sampled temps s) hot ⟨free, idle, ready, rfl⟩ (List.mem_range.mpr hd)

/-- R375: the hold of a trip stands while a die is hot. -/
theorem Tripped.released {temps : List Int} {n : Nat} {s : State} (hot : allCool temps = false) (h : Tripped n s) :
    Tripped n (released temps s) := by
  obtain ⟨hold, rest⟩ := h
  refine ⟨?_, rest⟩
  change (s.pow.tripHold && !allCool temps) = true
  rw [hold, hot]
  rfl

theorem released_cool {temps : List Int} (cool : allCool temps = true) (s : State) : (released temps s).pow.tripHold = false := by
  change (s.pow.tripHold && !allCool temps) = false
  rw [cool]
  exact Bool.and_false _

theorem allCool_of {temps : List Int} (h : ∀ d, d < 20 → temps.getD d 250 ≤ throttleAt d - 100) : allCool temps = true :=
  List.all_eq_true.mpr fun d hd => decide_eq_true (h d (List.mem_range.mp hd))

/-! ### Calibration (R303, R358) -/

theorem Tbl.get_ins_self {α : Type} {d a : α} {t : Tbl α} {k : Nat} : Tbl.get d (Tbl.ins t k a) k = a := by
  rw [Tbl.get, Tbl.find_ins_self]
  rfl

/-- R358: what the retraining of a channel in service changes. -/
theorem retrainChan_spec {s : State} {k c : Nat} (x : Int) (good : Bool) (service : Tbl.get .normal s.pow.chans (k * 32 + c) ≠ .out)
    {t : State} (ht : t = retrainChan k c x good s) :
    Tbl.get 250 t.pow.trainedAt (k * 32 + c) = x ∧ Tbl.get 0 t.pow.trainedU (k * 32 + c) = s.tb.nowU ∧
    Tbl.get .normal t.pow.chans (k * 32 + c) = (if good then Tbl.get .normal s.pow.chans (k * 32 + c) else .degraded) ∧
    t = { s with pow := t.pow, id := t.id, log := t.log } := by
  subst ht
  unfold retrainChan
  cases good with
  | true =>
    simp only [if_true]
    split <;> exact ⟨Tbl.get_ins_self, Tbl.get_ins_self, rfl, rfl⟩
  | false =>
    simp only [Bool.false_eq_true, if_false]
    split
    · exact ⟨Tbl.get_ins_self, Tbl.get_ins_self, chans_setChan k c .degraded _, rfl⟩
    · next degraded => exact ⟨Tbl.get_ins_self, Tbl.get_ins_self, degraded, rfl⟩
    · next out => exact absurd out service

/-! ### The limiter (R365-R367) -/

/-- R365: the issue fraction that a tick sets on a Basalt. -/
def tickF (s : State) (m : PowerMeasure) (b : Nat) : Nat :=
  if s.rst.stage ≠ .none ∨ s.pow.pst ≠ .active ∨ s.pow.tripHold = true then 0
  else min (min (fmaxOf s.pow.oppoint) (fcapOf s m b)) (min (s.pow.fth.getD b 0) (frampOf s m b))

theorem issueOff_iff {s : State} : issueOff s = true ↔ s.rst.stage ≠ .none ∨ s.pow.pst ≠ .active ∨ s.pow.tripHold = true := by
  simp [issueOff, or_assoc]

/-- R365, R366, R367: what a tick leaves. -/
theorem exec_limiterTick (m : PowerMeasure) (s : State) : ∃ t, exec (.limiterTick m) s = .next t ∧
    t.pow.fcap = (List.range 8).map (fcapOf s (sampledPower s m)) ∧ t.pow.framp = (List.range 8).map (frampOf s m) ∧
    t.pow.f = (List.range 8).map (tickF s (sampledPower s m)) ∧
    t.pow.hints = s.pow.hints.map (fun h => { h with value := h.value.map fun v => min h.level (v + 1) }) ∧
    t = { s with pow := t.pow, clusters := t.clusters, free := t.free } := by
  refine ⟨_, rfl, rfl, rfl, ?_, ?_, ?_⟩
  · rw [setF_eq]
    refine List.map_congr_left fun b hb => ?_
    rw [getD_map_range (List.mem_range.mp hb), getD_map_range (List.mem_range.mp hb)]
    simp only [issueOff_iff]
    rfl
  · rw [setF_eq]
  · rw [setF_eq]

/-- R382: outside DOZE and SLEEP every die's power counts. -/
theorem sampledPower_getD {s : State} (m : PowerMeasure) (doze : s.pow.pst ≠ .doze) (sleep : s.pow.pst ≠ .sleep) {d : Nat} (h : d < 20) :
    (sampledPower s m).pDie.getD d 0 = m.pDie.getD d 0 := by
  have awake : ¬ dieGated s d = true := fun gated => (dieGated_iff.mp gated).1.elim doze sleep
  exact (getD_map_range h (fun d => if dieGated s d then 0 else m.pDie.getD d 0) 0).trans (if_neg awake)

/-! ### CAP_UNMET (R372) -/

section
variable {s : State} {w : Nat}

theorem exec_capUnmet_raises (bad : capBad s w = true) (new : s.pow.capUnmet = false) : exec (.capUnmet w) s =
    .next (postAll 0x8021 0x0040 (capBody s w 0)
      (logEntry 0x0006 0x0040 (capBody s w 0) { s with pow := { s.pow with capClearU := none, capUnmet := true } })) := by
  simp only [exec, execCapUnmet, bad, new, if_true, Bool.false_eq_true, if_false]
  rfl

theorem exec_capUnmet_goesOn (bad : capBad s w = true) (raised : s.pow.capUnmet = true) :
    exec (.capUnmet w) s = .next { s with pow := { s.pow with capClearU := none } } := by
  simp only [exec, execCapUnmet, bad, raised, if_true]

theorem exec_capUnmet_absent (good : capBad s w = false) (raised : s.pow.capUnmet = true) (first : s.pow.capClearU = none) :
    exec (.capUnmet w) s = .next { s with pow := { s.pow with capClearU := some s.tb.nowU } } := by
  simp only [exec, execCapUnmet, good, raised, first, if_true, Bool.false_eq_true, if_false]

theorem exec_capUnmet_since {t0 : Nat} (good : capBad s w = false) (raised : s.pow.capUnmet = true) (since : s.pow.capClearU = some t0) :
    exec (.capUnmet w) s = .next (if s.since t0 secU then
      postAll 0x8021 0x0040 (capBody s w 1) { s with pow := { s.pow with capUnmet := false, capClearU := none } } else s) := by
  simp only [exec, execCapUnmet, good, raised, since, if_true, Bool.false_eq_true, if_false]
  rfl

theorem exec_capUnmet_met (good : capBad s w = false) (clear : s.pow.capUnmet = false) : exec (.capUnmet w) s = .next s := by
  simp only [exec, execCapUnmet, good, clear, Bool.false_eq_true, if_false]

end

/-- Settles O57: the clauses of a sample by what its dies do, then telemetry, calibration, the limiter's tick and CAP_UNMET. -/
theorem thermalAndPowerLimits : Obligations.ThermalAndPowerLimits := by
  unfold Obligations.ThermalAndPowerLimits
  refine ⟨⟨fun s given temps ht => ⟨_, exec_thermalSample given s, ?temps, ?fth, ?calm, ?enters, ?trips, ?cool⟩, fun s m => ?telemetry,
    fun s k x => rfl, fun s k c x good hk hc runs service => ⟨fun due => ?retrains, fun early => ?rests⟩⟩,
    fun s m => ?tick, ?capUnmet, fun s w more => ?above⟩
  case temps =>
    intro d hd
    subst ht
    exact ⟨congrArg (List.getD · d 250) (judged_temps (sampledTemps s given) s), sampledTemps_getD s given hd⟩
  case fth =>
    intro b hb
    subst ht
    exact (congrArg (List.getD · b 64) (judged_fth (sampledTemps s given) s)).trans (getD_map_range hb _ _)
  case calm =>
    intro cool was
    subst ht
    rw [judged_cool cool was]
    exact ⟨rfl, rfl, rfl⟩
  case enters =>
    intro die hd hot below was cool
    subst ht
    rw [judged_enters hd hot below was cool]
    exact ⟨rfl, _, _, rfl, rfl, released_withPow _ _ _⟩
  case trips =>
    intro die hd hot free idle ready
    subst ht
    exact (judged_trips hd hot free idle ready).released (allCool_hot hd hot)
  case cool =>
    intro low
    subst ht
    exact released_cool (allCool_of low) _
  case telemetry =>
    refine congrArg Host.Outcome.next ?_
    simp only [sampledWatts, dieGated_iff]
  case retrains =>
    obtain ⟨temp, time, state, frame⟩ := retrainChan_spec x good service rfl
    exact ⟨_, congrArg Host.Outcome.next (if_pos ⟨hk, hc, runs, service, due⟩), temp, time, state, frame⟩
  case rests =>
    refine congrArg Host.Outcome.next (if_neg fun ⟨_, _, _, _, due⟩ => ?_)
    exact absurd (early.symm.trans due) Bool.false_ne_true
  case tick =>
    obtain ⟨t, next, fcap, framp, f, hints, frame⟩ := exec_limiterTick m s
    refine ⟨t, next, fun b hb => ?_, hints, frame⟩
    rw [fcap, framp, f]
    simp only [getD_map_range hb]
    exact ⟨trivial, fun doze sleep d hd => sampledPower_getD m doze sleep hd, rfl, rfl⟩
  case capUnmet =>
    rintro s w _ rfl
    refine ⟨exec_capUnmet_raises, exec_capUnmet_goesOn, exec_capUnmet_absent, fun t0 good raised since => ⟨fun passed => ?_, fun short => ?_⟩,
      exec_capUnmet_met⟩
    · exact (exec_capUnmet_since good raised since).trans (congrArg Host.Outcome.next (if_pos passed))
    · exact (exec_capUnmet_since good raised since).trans (congrArg Host.Outcome.next (if_neg (by simp [short])))
  case above =>
    have exceeds : decide (capW s * 101 < w * 100) = true := decide_eq_true more
    rw [capBad, exceeds, Bool.true_or]

end Sys2Proof.Machine
end

section
/-!
One step (O1), and the MCTP control messages that the endpoint answers (O54).
-/
namespace Sys2Proof.Machine

/-- Settles O1. -/
theorem stepRunsFrontCommand : Obligations.StepRunsFrontCommand := by
  unfold Obligations.StepRunsFrontCommand
  intro s c rest h
  simp only [step, h]

/-- R360: the endpoint's message of data d, in answer to a request. -/
def sayMctp (msg d : Bytes) (s : State) : State :=
  { s with mctp := { s.mctp with out := s.mctp.out ++ [[0] ++ leBytes 1 (field msg 1 1 % 32) ++ leBytes 1 (field msg 2 1) ++ d] } }

section
variable {s : State} {msg : Bytes}

theorem mctpAnswer_powered (aux : s.sup.aux = true) (d : Bytes) : mctpAnswer msg d s = sayMctp msg d s := if_pos aux

theorem mctpAnswer_dark (aux : s.sup.aux = false) (d : Bytes) : mctpAnswer msg d s = s := if_neg (by simp [aux])

theorem exec_setEndpointId_usable (aux : s.sup.aux = true) (is : mctpIs 1 2 msg = true) (op : field msg 3 1 % 4 ≤ 1)
    (null : field msg 4 1 ≠ 0) (all : field msg 4 1 ≠ 255) : exec (.setEndpointId msg) s =
      .next (sayMctp msg ([0, 0] ++ leBytes 1 (field msg 4 1) ++ [0]) { s with mctp := { s.mctp with eid := BitVec.ofNat 8 (field msg 4 1) } }) := by
  have usable : ¬(1 < field msg 3 1 % 4 ∨ field msg 4 1 = 0 ∨ field msg 4 1 = 255) := by omega
  simp only [exec, execSetEndpointId, is, Bool.not_true, Bool.false_eq_true, if_false, if_neg usable, aux, if_true]
  exact congrArg Host.Outcome.next (if_pos aux)

theorem exec_setEndpointId_reserved (aux : s.sup.aux = true) (is : mctpIs 1 2 msg = true)
    (bad : 1 < field msg 3 1 % 4 ∨ field msg 4 1 = 0 ∨ field msg 4 1 = 255) : exec (.setEndpointId msg) s = .next (sayMctp msg [2] s) := by
  simp only [exec, execSetEndpointId, is, Bool.not_true, Bool.false_eq_true, if_false, if_pos bad, mctpAnswer_powered aux]

theorem exec_getEndpointId (aux : s.sup.aux = true) (is : mctpIs 2 0 msg = true) :
    exec (.getEndpointId msg) s = .next (sayMctp msg ([0] ++ [s.mctp.eid] ++ [0, 0]) s) := by
  simp only [exec, execGetEndpointId, is, Bool.not_true, Bool.false_eq_true, if_false, mctpAnswer_powered aux]

theorem exec_getMctpVersionSupport_known (aux : s.sup.aux = true) (is : mctpIs 4 1 msg = true)
    (known : field msg 3 1 = 0xFF ∨ field msg 3 1 = 0x00 ∨ field msg 3 1 = 0x7E) : exec (.getMctpVersionSupport msg) s =
      .next (sayMctp msg ([0] ++ leBytes 1 ((Config.mctpVersions (field msg 3 1)).length / 4) ++ Config.mctpVersions (field msg 3 1)) s) := by
  simp only [exec, execGetMctpVersionSupport, is, Bool.not_true, Bool.false_eq_true, if_false, if_pos known, mctpAnswer_powered aux]

theorem exec_getMctpVersionSupport_other (aux : s.sup.aux = true) (is : mctpIs 4 1 msg = true)
    (other : ¬(field msg 3 1 = 0xFF ∨ field msg 3 1 = 0x00 ∨ field msg 3 1 = 0x7E)) :
    exec (.getMctpVersionSupport msg) s = .next (sayMctp msg [0x80] s) := by
  simp only [exec, execGetMctpVersionSupport, is, Bool.not_true, Bool.false_eq_true, if_false, if_neg other, mctpAnswer_powered aux]

theorem exec_getMessageTypeSupport (aux : s.sup.aux = true) (is : mctpIs 5 0 msg = true) :
    exec (.getMessageTypeSupport msg) s = .next (sayMctp msg [0, 1, 0x7E] s) := by
  simp only [exec, execGetMessageTypeSupport, is, Bool.not_true, Bool.false_eq_true, if_false, mctpAnswer_powered aux]

theorem exec_getVendorDefinedMessageSupport (aux : s.sup.aux = true) (is : mctpIs 6 1 msg = true) :
    exec (.getVendorDefinedMessageSupport msg) s = .next (sayMctp msg (if field msg 3 1 ≠ 0 then [2] else
      [0, 0xFF, 0] ++ (leBytes 2 Config.vendorId.toNat).reverse ++ (leBytes 2 Config.mctpVendorVersion.toNat).reverse) s) := by
  simp only [exec, execGetVendorDefinedMessageSupport, is, Bool.not_true, Bool.false_eq_true, if_false, mctpAnswer_powered aux]
  split <;> rfl

/-- R360: without the auxiliary supply the endpoint does nothing. -/
theorem exec_mctp_dark (aux : s.sup.aux = false) {i : Instr} (h : i ∈ [Instr.setEndpointId msg, .getEndpointId msg, .getMctpVersionSupport msg,
    .getMessageTypeSupport msg, .getVendorDefinedMessageSupport msg]) : exec i s = .next s := by
  simp only [List.mem_cons, List.not_mem_nil, or_false] at h
  rcases h with rfl | rfl | rfl | rfl | rfl
  · simp only [exec, execSetEndpointId, aux, Bool.false_eq_true, if_false, mctpAnswer_dark aux, ite_self]
  · simp only [exec, execGetEndpointId, mctpAnswer_dark aux, ite_self]
  · simp only [exec, execGetMctpVersionSupport, mctpAnswer_dark aux, ite_self]
  · simp only [exec, execGetMessageTypeSupport, mctpAnswer_dark aux, ite_self]
  · simp only [exec, execGetVendorDefinedMessageSupport, mctpAnswer_dark aux, ite_self]

end

/-- Settles O54: each control message by its row's equation. -/
theorem endpointAnswersMctpControl : Obligations.EndpointAnswersMctpControl := by
  unfold Obligations.EndpointAnswersMctpControl
  intro s msg say
  refine ⟨?powered, fun aux i hi => exec_mctp_dark aux hi⟩
  case powered =>
    rintro aux rfl
    refine ⟨fun is => ⟨fun op null all => ?set, fun bad => exec_setEndpointId_reserved aux is bad⟩,
      fun is => exec_getEndpointId aux is, ?versions, fun is => exec_getMessageTypeSupport aux is, fun is => ⟨fun zero => ?vendor, fun more => ?noSet⟩⟩
    case set => exact ⟨_, exec_setEndpointId_usable aux is op null all, rfl, rfl, rfl, rfl⟩
    case versions =>
      rintro is ty rfl
      refine ⟨fun known => exec_getMctpVersionSupport_known aux is known, fun h1 h2 h3 => exec_getMctpVersionSupport_other aux is ?_⟩
      simp only [h1, h2, h3, or_self, not_false_eq_true]
    case vendor => rw [exec_getVendorDefinedMessageSupport aux is, if_neg (not_not_intro zero)]; rfl
    case noSet => rw [exec_getVendorDefinedMessageSupport aux is, if_pos more]; rfl

end Sys2Proof.Machine
end

section
/-!
The progress watchdog (O14): the end of an expired command, and the compute reset that its escalation begins.
-/
namespace Sys2Proof.Machine

theorem not_inReset_of_expired {s : State} {c : Cmd} (h : expired s c = true) : inReset s = false := by
  simp only [expired, watched, Bool.and_eq_true, Bool.not_eq_true'] at h
  exact h.1.1.1.1

theorem exec_watchdogExpiry {s : State} {k : Nat} {c : Cmd} (h : findCmd s k = some c) : exec (.watchdogExpiry k) s =
    .next (if expired s c = true then endFaulted k stHang { aux := BitVec.ofNat 64 c.wdog } s else s) := by
  simp only [exec, execWatchdogExpiry, h]

theorem exec_watchdogEscalation {s : State} {k : Nat} {c : Cmd} (h : findCmd s k = some c) : exec (.watchdogEscalation k) s =
    .next (if expired s c = true then startReset 1 (cmdFaultRec s c stHang { aux := BitVec.ofNat 64 c.wdog }) s else s) := by
  simp only [exec, execWatchdogEscalation, h]

/-- R57, R68: a command whose end by fault may complete at once does so as COMMAND_COMPLETION would; another waits, its fault raised. -/
theorem endFaulted_slot {s : State} {k st : Nat} {c : Cmd} (h : findCmd s k = some c) (hf : isFault st = true) (hs : st < 65536)
    (hres : inReset s = false) (info : FaultInfo) :
    ((c.credit || hasRoom s c.q) = true → mayComplete (faultCmd k st info s) (c.faulted s st info) = true ∧
      endFaulted k st info s = completeCmd (c.faulted s st info) (faultCmd k st info s)) ∧
    ((c.credit || hasRoom s c.q) = false → findCmd (endFaulted k st info s) k = some { c.faulted s st info with raised := true } ∧
      (endFaulted k st info s).counters = s.counters) := by
  have found := findCmd_faultCmd h st info
  obtain ⟨w, hw, hkeep⟩ := faultCmd_cmds k st info s
  have room : hasRoom (faultCmd k st info s) c.q = hasRoom s c.q :=
    hasRoom_congr (by funext q; simp [findQueue]) hw hkeep c.q
  have status : (c.faulted s st info).status.toNat = st := Nat.mod_eq_of_lt hs
  have reset : inReset (faultCmd k st info s) = false := by simpa [inReset] using hres
  have may : mayComplete (faultCmd k st info s) (c.faulted s st info) = (c.credit || hasRoom s c.q) := by
    simp [mayComplete, status, isGood_of_isFault hf, reset, room]
  unfold endFaulted
  simp only [found, may]
  refine ⟨fun slot => ⟨slot, if_pos slot⟩, fun full => ?_⟩
  rw [full, if_neg Bool.false_ne_true, contextFault_find, contextFault_counters, findCmd_modCmd_self (by intro c; rfl), found]
  exact ⟨rfl, by simp⟩

theorem findCmd_completeCmd_self (c : Cmd) (s : State) : findCmd (completeCmd c s) c.k = none := findCmd_removeCmd_self c.k _

theorem faultCmd_othersSame (k st : Nat) (info : FaultInfo) (s : State) : s.othersSame (faultCmd k st info s) k := by
  intro j hj
  unfold faultCmd
  dsimp only
  rw [findCmd_modCmd_ne (by intro c; rfl) hj, findCmd_endCmd_ne hj, (dropReqs_fab k _).find]
  rfl

/-- Settles O14: the expiry by the end of the command, the escalation by the start of the reset. -/
theorem expiredCommandsEndWithHang : Obligations.ExpiredCommandsEndWithHang := by
  unfold Obligations.ExpiredCommandsEndWithHang
  intro s k c found fresh
  refine ⟨fun due => ⟨_, (exec_watchdogExpiry found).trans (by rw [if_pos due]), fun active => ?error, fun slot => ?completes, fun full => ?waits⟩,
    fun due idle ready => ⟨_, (exec_watchdogEscalation found).trans (by rw [if_pos due]), ?escalates⟩, fun early => ?early⟩
  case error => exact (endFaulted_active found rfl (by decide) fresh active (not_inReset_of_expired due) _).1
  case completes =>
    obtain ⟨may, atOnce⟩ := (endFaulted_slot found (st := stHang) rfl (by decide) (not_inReset_of_expired due) { aux := BitVec.ofNat 64 c.wdog }).1 slot
    have ended := findCmd_faultCmd found stHang { aux := BitVec.ofNat 64 c.wdog }
    have hk : c.k = k := findCmd_k found
    refine ⟨?_, faultCmd k stHang { aux := BitVec.ofNat 64 c.wdog } s, _, ended, rfl, rfl, rfl, ?_, faultCmd_othersSame _ _ _ _, ?_⟩
    · rw [atOnce, ← hk]
      exact findCmd_completeCmd_self (c.faulted s stHang _) _
    · rw [faultCmd_frame]
    · rw [exec_commandCompletion ended may, atOnce]
  case waits =>
    obtain ⟨stays, counters⟩ :=
      (endFaulted_slot found (st := stHang) rfl (by decide) (not_inReset_of_expired due) { aux := BitVec.ofNat 64 c.wdog }).2 full
    exact ⟨_, stays, rfl, rfl, rfl, counters⟩
  case escalates =>
    obtain ⟨only, mb, stage, cause, ctx, resets, -, -⟩ :=
      startReset_begins idle ready 1 (cmdFaultRec s c stHang { aux := BitVec.ofNat 64 c.wdog }) rfl
    exact ⟨mb, stage, cause, ctx, resets, by rw [only], by rw [only]⟩
  case early =>
    rw [exec_watchdogExpiry found, exec_watchdogEscalation found, early]
    exact ⟨rfl, rfl⟩

end Sys2Proof.Machine
end

section
/-!
Requests from other modules (O39): what WRITE, READ_REQ and CTR_ADD do with a context that shares its pages, and how they are refused.
-/
namespace Sys2Proof.Machine

/-! ### Accesses without an effect on the caches -/

theorem touchStacks_awake {s : State} (h : s.pow.pst ≠ .sleep) : touchStacks s = s := if_neg h

/-- R291, R294: a write to memory that no cache counts or keeps. -/
theorem store_uncached {s : State} {a : Nat} {bs : Bytes} (hd : anyDiscard s = false) (hp : s.pref = []) :
    store a bs s = { s with mem := pokeRuns (canonRuns s.id (bs.length / 4096 + 2) a bs.length) bs s.mem } := by
  unfold store
  simp only [hd, hp, List.isEmpty_nil, Bool.false_eq_true, if_false, if_true]

theorem countReads_undiscarded {s : State} (hd : anyDiscard s = false) (b : Bool) (l : ReadLog) (a n : Nat) :
    countReads b l a n s = (s, l) := by
  unfold countReads
  rw [hd, if_neg Bool.false_ne_true]

theorem persistRead_none {s : State} (h : ∀ x ∈ s.held, x.hint ≠ 2) (own : Option Nat) (c a n : Nat) : persistRead own c a n s = s := by
  have no : (s.held.any fun x => x.hint == 2) = false := by simpa [List.any_eq_false] using h
  unfold persistRead
  rw [no, if_neg Bool.false_ne_true]

/-! ### WRITE and READ_REQ (R310, R311) -/

section
variable {s : State} {p : Packet} {m : Mapping} {va n : Nat} {ctx : Nat}

/-- R310: the target of an access that one page of the context allows. -/
theorem remoteTargets_one {write : Bool} (found : findMap s ctx va = some m) (loc : m.remote = false)
    (may : (if write then m.access != 2 || !m.writable else m.access == 0) = false) (some' : n ≠ 0) (fits : va + n ≤ m.va + pageSize m) :
    remoteTargets s ctx write 3 va n = some [(mapTarget m va, n)] := by
  have run : pageRun m va n = n := by unfold pageRun; omega
  simp [remoteTargets, found, loc, may, some', run]

theorem takeWrite_stores (ctx : refuseCtx s p.dstCtx.toNat = none) (awake : s.pow.pst ≠ .sleep) (hd : anyDiscard s = false) (hp : s.pref = [])
    (found : findMap s p.dstCtx.toNat p.addr.toNat = some m) (loc : m.remote = false) (rw' : m.access = 2) (writable : m.writable = true)
    (fits : p.addr.toNat + p.payload.length ≤ m.va + pageSize m) : takeWrite p s = respond p ptAck [] { s with
      mem := pokeRuns (canonRuns s.id (p.payload.length / 4096 + 2) (mapTarget m p.addr.toNat) p.payload.length) p.payload s.mem } := by
  unfold takeWrite
  rw [ctx]
  dsimp only
  by_cases empty : p.payload = []
  · rw [empty]
    simp [remoteTargets, storeRuns, touchStacks_awake awake, canonRuns, pokeRuns]
  · have bytes : p.payload.length ≠ 0 := fun h => empty (List.length_eq_zero_iff.mp h)
    rw [remoteTargets_one found loc (by simp [rw', writable]) bytes fits, touchStacks_awake awake]
    simp only [storeRuns, List.take_length]
    rw [store_uncached hd hp]

theorem takeRead_reads (ctx : refuseCtx s p.dstCtx.toNat = none) (awake : s.pow.pst ≠ .sleep) (hd : anyDiscard s = false)
    (hp : ∀ h ∈ s.held, h.hint ≠ 2) (found : findMap s p.dstCtx.toNat p.addr.toNat = some m) (loc : m.remote = false) (shared : m.access ≠ 0)
    (lo : 1 ≤ field p.payload 0 4) (hi : field p.payload 0 4 ≤ 4096) (fits : p.addr.toNat + field p.payload 0 4 ≤ m.va + pageSize m) :
    takeRead p s = respond p ptReadResp (peek s (mapTarget m p.addr.toNat) (field p.payload 0 4)) s := by
  have legal : ¬(field p.payload 0 4 = 0 ∨ 4096 < field p.payload 0 4) := by omega
  unfold takeRead
  simp only [ctx, if_neg legal]
  rw [remoteTargets_one found loc (by simpa using shared) (by omega) fits, touchStacks_awake awake]
  dsimp only
  split
  · simp
  · simp [readRuns, countReads_undiscarded hd, persistRead_none hp]

/-- R311, R393: a request that comes between fence and resume. -/
theorem refuseCtx_fenced (reset : inReset s = true) (c : Nat) : refuseCtx s c = some stFenced := by
  unfold refuseCtx
  rw [reset, if_pos rfl]

theorem refuse_fenced : refuse p stFenced s = nack p 0x0012 s := by
  unfold refuse
  dsimp only
  rw [if_neg (show ¬stFenced = stTranslation by decide), if_neg (show ¬stFenced = stCtxGone by decide), ite_self]
  rfl

theorem takeWrite_fenced (reset : inReset s = true) : takeWrite p s = nack p 0x0012 s := by
  simp only [takeWrite, refuseCtx_fenced reset, refuse_fenced]

theorem takeRead_fenced (reset : inReset s = true) : takeRead p s = nack p 0x0012 s := by
  simp only [takeRead, refuseCtx_fenced reset, refuse_fenced]

/-- R310, R311: a WRITE where no page of the context is shared for writing. -/
theorem takeWrite_unshared (ctx : refuseCtx s p.dstCtx.toNat = none) (write : p.ptype.toNat = ptWrite) (bytes : p.payload ≠ [])
    (none' : ∀ m, findMap s p.dstCtx.toNat p.addr.toNat = some m → m.remote = true ∨ m.access ≠ 2 ∨ m.writable = false) : takeWrite p s =
      nack p 0x0020 (modCtx p.dstCtx.toNat (fun c => { c with remoteRefused := c.remoteRefused + 1 }) s) := by
  have targets : remoteTargets s p.dstCtx.toNat true 3 p.addr.toNat p.payload.length = none := by
    have some' : p.payload.length ≠ 0 := fun h => bytes (List.length_eq_zero_iff.mp h)
    cases found : findMap s p.dstCtx.toNat p.addr.toNat with
    | none => simp [remoteTargets, some', found]
    | some m =>
      have no : (m.remote || (m.access != 2 || !m.writable)) = true := by simpa using none' m found
      simp [remoteTargets, some', found, no]
  have notRead : ¬(p.ptype.toNat = ptReadReq ∧ packetPf p = true) := fun h => absurd (write.symm.trans h.1) (by decide)
  unfold takeWrite
  simp only [ctx, targets]
  unfold refuse
  dsimp only
  rw [if_neg notRead, if_pos rfl]
  rfl

end

/-! ### CTR_ADD (R176, R380) -/

theorem sendAdd_fab (x : StageEnd) (v : W64) (s : State) : FabOnly s (sendAdd x v s).2 := request_fab _ _ _ _ _ _ _ _ _ _ _ _ s

/-- R176: a counter's report to its peers keeps the commands. -/
theorem forwardAll_cmds (ctx n : Nat) (v : W64) (s : State) : (forwardAll ctx n v s).cmds = s.cmds := by
  have forwardAdd_cmds : ∀ (s : State) (x : Nat × StageEnd), (forwardAdd x.1 v s).cmds = s.cmds := by
    intro s x
    unfold forwardAdd
    split
    · rfl
    · split
      · rfl
      · split
        · obtain ⟨f, sent⟩ := sendAdd_fab ‹StageEnd› v s
          rw [modEnd_cmds, sent]
        · rw [modEnd_cmds]
  unfold forwardAll
  dsimp only
  split
  · rfl
  · exact foldl_rel (R := fun a b => b.cmds = a.cmds) (fun _ => rfl) (fun _ _ _ h k => k.trans h) forwardAdd_cmds _ _

/-- R60: an addition to a counter releases the waits that the counter's new value satisfies. -/
theorem ctrAdd_cmds (ctx n v : Nat) (s : State) : (ctrAdd ctx n v s).2.cmds =
    s.cmds.map (releaseWaiter s n (ctrGet s n) (ctrGet (ctrAdd ctx n v s).2 n)) := by
  rw [ctrGet_ctrAdd_self]
  exact forwardAll_cmds _ _ _ _

theorem applyAdd_adds {s : State} {p : Packet} (ctx : refuseCtx s p.dstCtx.toNat = none)
    (own : ctrOwned s p.dstCtx.toNat (field p.payload 0 2) = true) :
    applyAdd p s = respond p ptAck [] (ctrAdd p.dstCtx.toNat (field p.payload 0 2) (field p.payload 8 8) s).2 := by
  simp only [applyAdd, ctx, own, if_true]

section
variable {s : State} {port : Nat} {p : Packet}

theorem exec_ctrAdd_active (take : s.takes port ptCtrAdd p) (active : s.pow.pst = .active) :
    exec (.ctrAdd port p) s = .next (wakeUp (applyAdd p (s.taken port p))) := by
  obtain ⟨f, taken⟩ := taken_fab port p s
  have awake : ¬(({ s with fab := f } : State).pow.pst = .doze ∨ ({ s with fab := f } : State).pow.pst = .sleep) := by simp [active]
  refine congrArg Host.Outcome.next ((arrive_takes take).trans ?_)
  rw [taken, if_neg awake]

theorem exec_ctrAdd_asleep (take : s.takes port ptCtrAdd p) (asleep : s.pow.pst = .doze ∨ s.pow.pst = .sleep) :
    exec (.ctrAdd port p) s = .next { s.taken port p with pow := { s.pow with heldAdds := s.pow.heldAdds ++ [p], wake := true } } := by
  obtain ⟨f, taken⟩ := taken_fab port p s
  have still : s.pow.pst ≠ .active := by rcases asleep with h | h <;> simp [h]
  refine congrArg Host.Outcome.next ((arrive_takes take).trans ?_)
  rw [taken, if_pos asleep, wakeUp, if_neg still]

end

/-- Settles O39: writes, reads and adds of a context that shares its pages; a fence; a write where nothing is shared. -/
theorem packetRequestsAreServed : Obligations.PacketRequestsAreServed := by
  unfold Obligations.PacketRequestsAreServed
  refine ⟨fun s port p m take ctx awake hd hp found loc rw' writable fits => ?write,
    fun s port p m take ctx awake hd hp found loc shared lo hi fits => ?read,
    fun s port p take ctx => ⟨fun active own => ?adds, exec_ctrAdd_asleep take⟩,
    fun s port p reset => ⟨fun take => ?fencedWrite, fun take => ?fencedRead⟩,
    fun s port p ctx none' take bytes => ?unshared⟩
  all_goals obtain ⟨f, taken⟩ := taken_fab port p s
  case write =>
    refine congrArg Host.Outcome.next ((arrive_takes take).trans ?_)
    rw [taken]
    exact takeWrite_stores (s := { s with fab := f }) ctx awake hd hp found loc rw' writable fits
  case read =>
    refine congrArg Host.Outcome.next ((arrive_takes take).trans ?_)
    rw [taken]
    exact takeRead_reads (s := { s with fab := f }) ctx awake hd hp found loc shared lo hi fits
  case adds =>
    have applied := applyAdd_adds (s := { s with fab := f }) (p := p) ctx own
    obtain ⟨g, answered⟩ := respond_fab p ptAck [] (ctrAdd p.dstCtx.toNat (field p.payload 0 2) (field p.payload 8 8) { s with fab := f }).2
    obtain ⟨c, e, h, w, -, frame⟩ := ctrAdd_ctr p.dstCtx.toNat (field p.payload 0 2) (field p.payload 8 8) { s with fab := f }
    have value := ctrGet_ctrAdd_self { s with fab := f } p.dstCtx.toNat (field p.payload 0 2) (field p.payload 8 8)
    have cmds := ctrAdd_cmds p.dstCtx.toNat (field p.payload 0 2) (field p.payload 8 8) { s with fab := f }
    have others := fun n (h : n ≠ field p.payload 0 2) =>
      ctrGet_ctrAdd_ne (s := { s with fab := f }) (ctx := p.dstCtx.toNat) (v := field p.payload 8 8) h
    generalize (ctrAdd p.dstCtx.toNat (field p.payload 0 2) (field p.payload 8 8) { s with fab := f }).2 = u at *
    have pst : u.pow.pst = .active := by rw [frame]; exact active
    refine ⟨{ u with fab := g }, ?_, ?_, others, cmds, ?_⟩
    · rw [exec_ctrAdd_active take active, taken, applied, answered, wakeUp, if_pos pst]
    · change (ctrGet u _).toNat = _
      rw [value, BitVec.toNat_ofNat]
      exact Nat.mod_eq_of_lt (by omega)
    · rw [frame]
  case fencedWrite =>
    refine congrArg Host.Outcome.next ((arrive_takes take).trans ?_)
    rw [taken]
    exact takeWrite_fenced (s := { s with fab := f }) reset
  case fencedRead =>
    refine congrArg Host.Outcome.next ((arrive_takes take).trans ?_)
    rw [taken]
    exact takeRead_fenced (s := { s with fab := f }) reset
  case unshared =>
    refine congrArg Host.Outcome.next ((arrive_takes take).trans ?_)
    rw [taken]
    exact takeWrite_unshared (s := { s with fab := f }) ctx take.1 bytes none'

end Sys2Proof.Machine
end

section
/-!
Responses (O40): the request that a response answers leaves the list, and what a READ_RESP, an ACK and a NACK then do.
-/
namespace Sys2Proof.Machine

/-! ### Requests answered (R317) -/

theorem PacketOnly.refl (s : State) : PacketOnly s s := ⟨s.fab.ports, s.fab.outbox, s.fab.holds, rfl⟩

theorem PacketOnly.trans {a b c : State} (h : PacketOnly a b) (k : PacketOnly b c) : PacketOnly a c := by
  obtain ⟨_, _, _, rfl⟩ := h
  obtain ⟨_, _, _, rfl⟩ := k
  exact ⟨_, _, _, rfl⟩

theorem foldl_packet {α : Type} {f : State → α → State} (h : ∀ s x, PacketOnly s (f s x)) (l : List α) (s : State) :
    PacketOnly s (l.foldl f s) := foldl_rel PacketOnly.refl (fun _ _ _ => PacketOnly.trans) h l s

/-- R317: the release of held packets changes of the requests only whether they are held. -/
theorem releaseHolds_spec (s : State) : ∃ reqs ports outbox holds, reqs.map (·.txn) = s.fab.reqs.map (·.txn) ∧
    releaseHolds s = { s with fab := { s.fab with reqs := reqs, ports := ports, outbox := outbox, holds := holds } } := by
  unfold releaseHolds
  extract_lets free go src s1
  obtain ⟨ports, outbox, holds, sent⟩ : PacketOnly s1 (go.foldl (fun s h =>
      (h.2.filter fun p => !abandoned s p).foldl (fun s p => injectNow p s) s) s1) :=
    foldl_packet (fun s h => foldl_packet (fun s p => injectNow_packet p s) _ s) go s1
  rw [sent]
  refine ⟨_, _, _, _, ?_, rfl⟩
  rw [List.map_map]
  refine List.map_congr_left fun r _ => ?_
  change (if _ then _ else _ : OutReq).txn = _
  split <;> rfl

theorem dropReq_spec (txn : BitVec 32) (s : State) : ∃ reqs ports outbox holds,
    reqs.map (·.txn) = (s.fab.reqs.filter fun q => q.txn != txn).map (·.txn) ∧
    dropReq txn s = { s with fab := { s.fab with reqs := reqs, ports := ports, outbox := outbox, holds := holds } } :=
  releaseHolds_spec { s with fab := { s.fab with reqs := s.fab.reqs.filter fun r => r.txn != txn } }

theorem dropReq_fab (txn : BitVec 32) (s : State) : FabOnly s (dropReq txn s) := by
  obtain ⟨_, _, _, _, -, h⟩ := dropReq_spec txn s
  exact ⟨_, h⟩

section
variable {s : State} {p : Packet} {r : OutReq} {f : OutReq → State → State}

theorem onResponse_unknown (h : findReq s p = none) : onResponse p f s = dropResponse s := by
  simp only [onResponse, h]

theorem onResponse_active (h : findReq s p = some r) (waits : r.dropped = false) (active : (getCtx s r.ctx).st = .active) :
    onResponse p f s = f r (dropReq r.txn s) := by
  obtain ⟨g, dropped⟩ := dropReq_fab r.txn s
  have still : (getCtx (dropReq r.txn s) r.ctx).st = .active := by rw [dropped]; exact active
  simp only [onResponse, h, waits, Bool.false_eq_true, if_false, still, if_true]

/-- R176, log entry 12: the end that sent an add sees the response in every state of its context. -/
theorem onResponse_add (h : findReq s p = some r) (waits : r.dropped = false) (add : r.ptype = 6) :
    ∃ u, FabOnly s u ∧ onResponse p f s = f r u := by
  by_cases active : (getCtx s r.ctx).st = .active
  · exact ⟨_, dropReq_fab _ _, onResponse_active h waits active⟩
  · obtain ⟨g, dropped⟩ := dropReq_fab r.txn s
    have still : (getCtx (dropReq r.txn s) r.ctx).st ≠ .active := by rw [dropped]; exact active
    refine ⟨dropResponse (dropReq r.txn s), (dropReq_fab _ _).trans ⟨_, rfl⟩, ?_⟩
    simp only [onResponse, h, waits, Bool.false_eq_true, if_false, still, add, if_true]

end

/-! ### Stage-queue ends (R176) -/

section
variable {s : State} {e : Nat} {x : StageEnd}

theorem modEnd_found (h : findEnd s e = some x) (f : StageEnd → StageEnd) : modEnd e f s = { s with ends := Tbl.ins s.ends e (f x) } := by
  simp only [modEnd, h]

theorem findEnd_modEnd_self (h : findEnd s e = some x) (f : StageEnd → StageEnd) : findEnd (modEnd e f s) e = some (f x) := by
  rw [modEnd_found h]
  exact Tbl.find_ins_self

theorem FabOnly.findEnd_eq {s t : State} (h : FabOnly s t) (e : Nat) : findEnd t e = findEnd s e := by
  obtain ⟨f, rfl⟩ := h
  rfl

/-- R176: the only add of an end is settled. -/
theorem popAdd_last {a : BitVec 32 × W64} (h : findEnd s e = some x) (only : x.unacked = [a]) :
    popAdd e s = { s with ends := Tbl.ins s.ends e { x with unacked := [], fencedU := none } } := by
  unfold popAdd sendHead
  rw [findEnd_modEnd_self h, modEnd_found h]
  simp only [only, List.drop_succ_cons, List.drop_zero]

/-- R176: the oldest add of an end goes out under a new transaction number. -/
theorem sendHead_sends {a : BitVec 32 × W64} {l : List (BitVec 32 × W64)} (h : findEnd s e = some x) (adds : x.unacked = a :: l)
    (live : x.lost = false) (calm : inReset s = false) : ∃ u, FabOnly s u ∧ sendHead e s =
      modEnd e (fun x => { x with unacked := ((sendAdd x a.2 s).1, a.2) :: l, fencedU := none }) u := by
  refine ⟨_, sendAdd_fab x a.2 s, ?_⟩
  simp only [sendHead, h, adds, live, calm, Bool.or_self, Bool.false_eq_true, if_false]
  rfl

end

section
variable {s : State} {e t0 : Nat} {x : StageEnd}

theorem exec_ctrAddResend (h : findEnd s e = some x) (fenced : x.fencedU = some t0) :
    exec (.ctrAddResend e) s = .next (if s.since t0 msU then sendHead e s else s) := by
  simp only [exec, execCtrAddResend, h, fenced]

end

/-! ### What the responses do -/

section
variable {s : State} {p : Packet} {r : OutReq}

theorem takeResp_read (read : r.ptype = 2) (demand : r.pf = false) : takeResp p r s =
    { s with fab := { s.fab with rdata := s.fab.rdata ++
        ((List.range (min r.len p.payload.length)).zip p.payload).map fun b => (r.owner, r.va + b.1, b.2) } } := by
  simp only [takeResp, read, demand, ne_eq, not_true_eq_false, Bool.false_eq_true, if_false]

theorem takeAck_write (write : r.ptype = 1) : takeAck r s = { s with
    cmds := s.cmds.map (fun c => { c with waits := c.waits.filter (· != r.txn) }),
    cores := s.cores.map fun c => (c.1, { c.2 with waits := c.2.waits.filter (· != r.txn) }) } := by
  have notAdd : ¬r.ptype = 6 := by simp [write]
  simp only [takeAck, if_neg notAdd]

theorem takeAck_add {e : Nat × StageEnd} (add : r.ptype = 6) (h : endOfTxn s r.txn = some e) : takeAck r s = popAdd e.1 s := by
  simp only [takeAck, add, if_true, h]

theorem takeNack_fenced {e : Nat × StageEnd} (add : r.ptype = 6) (h : endOfTxn s r.txn = some e) (st : field p.payload 0 2 = 0x0012) :
    takeNack p r s = modEnd e.1 (fun x => { x with fencedU := some s.tb.nowU }) s := by
  simp only [takeNack, add, if_true, h]
  exact if_pos st

theorem takeNack_translation {k : Nat} (access : r.ptype = 1 ∨ r.ptype = 2) (demand : r.pf = false) (owner : r.k = some k)
    (st : field p.payload 0 2 = 0x0020) : takeNack p r s = faultCmd k stTranslation (remoteInfo r) (freeCores k s) := by
  have notAdd : ¬r.ptype = 6 := by rcases access with h | h <;> simp [h]
  simp only [takeNack, if_neg notAdd, owner, demand, Bool.false_eq_true, if_false]
  exact if_pos st

end

/-- R311: a refused access ends its command, whose cores it lets go. -/
theorem faultCmd_freeCores_spec {s u : State} {k : Nat} {c : Cmd} (h : findCmd s k = some c) (hu : FabOnly s u) (st : Nat) (info : FaultInfo)
    {t : State} (ht : t = faultCmd k st info (freeCores k u)) : t.ended k st ∧ s.othersSame t k ∧ (∀ x ∈ t.cores, x.2.k ≠ some k) ∧
    t.mem = s.mem ∧ t.counters = s.counters := by
  have found : findCmd (freeCores k u) k = some c := (hu.find k).trans h
  obtain ⟨f, rfl⟩ := hu
  subst ht
  refine ⟨faultCmd_ended found st info, fun j hj => faultCmd_othersSame k st info _ j hj, ?_, by simp, by simp⟩
  rw [faultCmd_frame]
  intro x hx
  simpa using (List.mem_filter.mp hx).2

/-- Settles O40: responses that answer nothing; those that answer a request, by its kind; the resending of a fenced add. -/
theorem responsesSettleTheirRequests : Obligations.ResponsesSettleTheirRequests := by
  unfold Obligations.ResponsesSettleTheirRequests
  refine ⟨fun s port p => ⟨fun take none' => ?_, fun take none' => ?_, fun take none' => ?_⟩, fun s port p r found waits => ?answers,
    fun s e t0 x a l found fenced adds live calm => ⟨fun early => ?early, fun due => ?resends⟩⟩
  iterate 3
    refine congrArg Host.Outcome.next ((arrive_takes take).trans (onResponse_unknown ?_))
    obtain ⟨ps, taken⟩ := taken_ports port p s
    rw [taken]
    exact none'
  case early => rw [exec_ctrAddResend found fenced, early, if_neg Bool.false_ne_true]
  case resends =>
    obtain ⟨u, hu, sent⟩ := sendHead_sends found adds live calm
    have known : findEnd u e = some x := (hu.findEnd_eq e).trans found
    refine ⟨_, _, (exec_ctrAddResend found fenced).trans (by rw [due, if_pos rfl, sent]), findEnd_modEnd_self known _, ?_⟩
    obtain ⟨f, rfl⟩ := hu
    rw [modEnd_found known]
  case answers =>
    obtain ⟨ps, taken⟩ := taken_ports port p s
    generalize hu : ({ s with fab := { s.fab with ports := ps } } : State) = u at taken
    have found' : findReq u p = some r := by rw [← hu]; exact found
    have ctx : getCtx u r.ctx = getCtx s r.ctx := by rw [← hu]; rfl
    refine ⟨fun take active read demand => ?read, fun take active write => ?write, fun k c take active access demand owner cmd st => ?nack,
      fun e x v take add ofTxn isEnd only => ?ack, fun e x take add ofTxn isEnd st => ?fenced⟩
    case read =>
      obtain ⟨reqs, ports, outbox, holds, txns, dropped⟩ := dropReq_spec r.txn u
      refine ⟨takeResp p r (dropReq r.txn u), congrArg Host.Outcome.next ((arrive_takes take).trans ?_), ?_⟩
      · rw [taken, onResponse_active found' waits (ctx ▸ active)]
      · rw [takeResp_read read demand, dropped]
        subst hu
        exact ⟨rfl, txns, rfl⟩
    case write =>
      obtain ⟨reqs, ports, outbox, holds, txns, dropped⟩ := dropReq_spec r.txn u
      refine ⟨takeAck r (dropReq r.txn u), congrArg Host.Outcome.next ((arrive_takes take).trans ?_), ?_⟩
      · rw [taken, onResponse_active found' waits (ctx ▸ active)]
      · rw [takeAck_write write, dropped]
        subst hu
        exact ⟨txns, rfl, rfl, rfl⟩
    case nack =>
      have fab : FabOnly s (dropReq r.txn u) := FabOnly.trans ⟨_, hu.symm⟩ (dropReq_fab _ _)
      refine ⟨takeNack p r (dropReq r.txn u), congrArg Host.Outcome.next ((arrive_takes take).trans ?_),
        faultCmd_freeCores_spec cmd fab stTranslation (remoteInfo r) (takeNack_translation access demand owner st)⟩
      rw [taken, onResponse_active found' waits (ctx ▸ active)]
    case ack =>
      obtain ⟨v, fab, acted⟩ := onResponse_add (f := takeAck) found' waits add
      have fab : FabOnly s v := FabOnly.trans ⟨_, hu.symm⟩ fab
      have known : findEnd v e = some x := (fab.findEnd_eq e).trans isEnd
      obtain ⟨f, rfl⟩ := fab
      refine ⟨popAdd e { s with fab := f }, congrArg Host.Outcome.next ((arrive_takes take).trans ?_), ?_⟩
      · rw [taken, acted, takeAck_add (s := { s with fab := f }) add ofTxn]
      · rw [popAdd_last known only]
        exact ⟨Tbl.find_ins_self, rfl⟩
    case fenced =>
      obtain ⟨v, fab, acted⟩ := onResponse_add (f := takeNack p) found' waits add
      have fab : FabOnly s v := FabOnly.trans ⟨_, hu.symm⟩ fab
      have known : findEnd v e = some x := (fab.findEnd_eq e).trans isEnd
      obtain ⟨f, rfl⟩ := fab
      refine ⟨modEnd e (fun x => { x with fencedU := some s.tb.nowU }) { s with fab := f },
        congrArg Host.Outcome.next ((arrive_takes take).trans ?_), findEnd_modEnd_self known _, ?_⟩
      · rw [taken, acted, takeNack_fenced (s := { s with fab := f }) add ofTxn st]
      · rw [modEnd_found known]

end Sys2Proof.Machine
end

section
/-!
Forwarding (O41): the port that a packet leaves on, the flags that it leaves with, and the packets that a router drops.
-/
namespace Sys2Proof.Machine

/-! ### A packet on its port (R308, R314) -/

/-- R308, R314: a packet that leaves on a port in service, under the port's next link sequence number. -/
theorem sendOn_up {s : State} {port : Nat} (up : portUp (getPort s port) = true) (p : Packet) : ∃ ports, sendOn port p s =
    { s with fab := { s.fab with
        ports := ports, outbox := s.fab.outbox ++ [(port, sealPacket { p with lseq := (getPort s port).txSeq })] } } := by
  unfold sendOn
  dsimp only
  rw [if_pos up]
  exact ⟨_, rfl⟩

/-- R314: the check does not cover itself. -/
theorem packetCrc_sealPacket (p : Packet) : packetCrc (sealPacket p) = packetCrc p := rfl

/-! ### Flags (R312, R316) -/

/-- R316: the flags of a packet in dateline class 1 or 0. -/
def classFlags (c : Bool) (f : BitVec 8) : BitVec 8 := if c then f ||| 0x20 else f &&& 0xDF

theorem classFlags_dl (c : Bool) (f : BitVec 8) : (classFlags c f).getLsbD 5 = c := by
  cases c <;> simp [classFlags]

theorem classFlags_wpActive (c : Bool) (f : BitVec 8) : (classFlags c f).getLsbD 4 = f.getLsbD 4 := by
  cases c <;> simp [classFlags]

/-- R318: the flags of a packet whose waypoint leg has ended. -/
theorem waypointDone_flags (f : BitVec 8) : (f &&& 0xCF).getLsbD 4 = false := by simp

/-! ### Routes (R316) -/

/-- R316: the present target of a packet. -/
def targetOf (p : Packet) : BitVec 12 := if packetWpActive p then p.wp.extractLsb' 0 12 else dstAddr p.dst

/-- R316: the class in which a packet leaves: that of the hop from the port of its arrival, or class 0 for one injected here. -/
def leavingClass (s : State) (dl : Option Nat) (out : Nat) (p : Packet) : Bool :=
  match dl with
  | none => false
  | some a => if a < 6 then forwardDl s.id a out (packetDl p) else false

theorem routeOut_port {s : State} {p : Packet} {out : Nat} (dl : Option Nat) (inside : inTorus s.id (targetOf p) = true)
    (route : routePort s.id s.id.addr (targetOf p) = some out) :
    routeOut p dl s = sendOn out { p with flags := classFlags (leavingClass s dl out p) p.flags } s := by
  unfold targetOf at inside route
  unfold routeOut
  simp only [inside, route, Bool.not_true, Bool.false_eq_true, if_false]
  rfl

/-! ### The row -/

section
variable {s : State} {port : Nat} {p : Packet}

/-- R313, R314, R316: a packet in order on a torus port, for elsewhere, of a type that routers forward. -/
theorem exec_packetForward_known (in40 : s.sup.in40 = true) (len : lengthOk p = true) (torus : port < 6) (order : (takeLink port p s).1 = true)
    (lo : 1 ≤ p.ptype.toNat) (hi : p.ptype.toNat ≤ 12) (notProbe : p.ptype.toNat ≠ ptProbe) (notReply : p.ptype.toNat ≠ ptProbeReply)
    (elsewhere : packetWpActive p = true ∨ dstAddr p.dst ≠ s.id.addr) :
    exec (.packetForward port p) s = .next (forward port p (s.taken port p)) := by
  have notMine : (dstAddr p.dst == s.id.addr && dstEdge p.dst == 0 && !packetWpActive p) = false := by
    rcases elsewhere with h | h <;> simp [h]
  have known : (decide (1 ≤ p.ptype.toNat) && decide (p.ptype.toNat ≤ 12)) = true := by simp [lo, hi]
  have modelled : ¬(s.sup.in40 = false ∨ lengthOk p = false ∨ 8 ≤ port ∨ (true && false) = true) := by
    simp [in40, len]; omega
  refine congrArg Host.Outcome.next ?_
  dsimp only
  rw [known, notMine, if_neg modelled, order]
  have passes : ¬(!true || decide (6 ≤ port) || p.ptype.toNat == ptProbe || p.ptype.toNat == ptProbeReply) = true := by
    simp [notProbe, notReply]; omega
  rw [if_neg (by simp), if_neg passes]
  rfl

theorem exec_packetForward_reserved (in40 : s.sup.in40 = true) (len : lengthOk p = true) (torus : port < 6)
    (order : (takeLink port p s).1 = true) (reserved : p.ptype.toNat = 0 ∨ 12 < p.ptype.toNat) :
    exec (.packetForward port p) s = .next (countUnroutable port (s.taken port p)) := by
  have unknown : (decide (1 ≤ p.ptype.toNat) && decide (p.ptype.toNat ≤ 12)) = false := by
    simp only [Bool.and_eq_false_iff, decide_eq_false_iff_not]
    omega
  have modelled (mine : Bool) : ¬(s.sup.in40 = false ∨ lengthOk p = false ∨ 8 ≤ port ∨ (false && mine) = true) := by
    simp [in40, len]; omega
  refine congrArg Host.Outcome.next ?_
  dsimp only
  rw [unknown, if_neg (modelled _), order, if_neg (by simp)]
  rfl

theorem correctTick_other (h : p.ptype.toNat ≠ ptTick) (out : Nat) : correctTick out p s = (p, s) := if_neg h

/-- R316: a packet that passes leaves toward its target with HOPS one higher, in the class of the hop. -/
theorem forward_passes {out : Nat} (notTick : p.ptype.toNat ≠ ptTick) (away : targetOf p ≠ s.id.addr) (inside : inTorus s.id (targetOf p) = true)
    (route : routePort s.id s.id.addr (targetOf p) = some out) : forward port p s =
      sendOn out { p with hops := p.hops + 1, flags := classFlags (leavingClass s (some port) out p) p.flags } s := by
  have notHere : ¬(packetWpActive { p with hops := p.hops + 1 } && p.wp.extractLsb' 0 12 == s.id.addr) = true := by
    intro h
    simp only [Bool.and_eq_true, beq_iff_eq] at h
    exact away ((if_pos h.1).trans h.2)
  unfold forward
  dsimp only
  rw [if_neg notHere, correctTick_other (p := { p with hops := p.hops + 1 }) notTick]
  exact routeOut_port (p := { p with hops := p.hops + 1 }) (some port) inside route

/-- R318: at its waypoint a packet goes on toward its destination, after those that wait for re-injection. -/
theorem forward_waypoint {out : Nat} (notTick : p.ptype.toNat ≠ ptTick) (wp : packetWpActive p = true)
    (here : p.wp.extractLsb' 0 12 = s.id.addr) (none' : s.fab.reinject = []) (inside : inTorus s.id (dstAddr p.dst) = true)
    (route : routePort s.id s.id.addr (dstAddr p.dst) = some out) : forward port p s =
      sendOn out { p with hops := p.hops + 1, flags := classFlags false (p.flags &&& 0xCF) } s := by
  have atWaypoint : (packetWpActive { p with hops := p.hops + 1 } && p.wp.extractLsb' 0 12 == s.id.addr) = true := by
    simp only [Bool.and_eq_true, beq_iff_eq]
    exact ⟨wp, here⟩
  have onward : targetOf { p with hops := p.hops + 1, flags := p.flags &&& 0xCF } = dstAddr p.dst :=
    if_neg (Bool.eq_false_iff.mp (waypointDone_flags p.flags))
  unfold forward drainReinject
  dsimp only
  rw [if_pos atWaypoint, none']
  simp only [List.nil_append, List.foldl_cons, List.foldl_nil]
  rw [correctTick_other (p := { p with hops := p.hops + 1, flags := p.flags &&& 0xCF }) notTick, ← none']
  exact routeOut_port none (onward ▸ inside) (onward ▸ route)

end

/-- Settles O41: a packet that passes, one at its waypoint, one of a reserved type. -/
theorem routersForwardPackets : Obligations.RoutersForwardPackets := by
  unfold Obligations.RoutersForwardPackets
  intro s port p in40 len torus order
  refine ⟨?passes, ?waypoint, exec_packetForward_reserved in40 len torus order⟩
  all_goals obtain ⟨ps, taken⟩ := taken_ports port p s
  case passes =>
    rintro target out lo hi notTick notProbe notReply rfl away inside route up
    have elsewhere : packetWpActive p = true ∨ dstAddr p.dst ≠ s.id.addr := by
      cases wp : packetWpActive p with
      | true => exact .inl rfl
      | false => exact .inr (by simpa [wp] using away)
    obtain ⟨ports, sent⟩ := sendOn_up up
      { p with hops := p.hops + 1, flags := classFlags (leavingClass (s.taken port p) (some port) out p) p.flags }
    have forwarded := forward_passes (s := s.taken port p) (port := port) notTick (by rw [taken]; exact away)
      (by rw [taken]; exact inside) (by rw [taken]; exact route)
    have row := (exec_packetForward_known in40 len torus order lo hi notProbe notReply elsewhere).trans
      (congrArg Host.Outcome.next (forwarded.trans sent))
    have dl : leavingClass (s.taken port p) (some port) out p = forwardDl s.id port out (packetDl p) := by
      rw [taken]
      exact if_pos torus
    rw [dl, taken] at row
    exact ⟨_, _, row, rfl, rfl, rfl, rfl, rfl, rfl, (packetCrc_sealPacket _).symm, classFlags_dl _ _, classFlags_wpActive _ _, rfl⟩
  case waypoint =>
    intro out lo hi notTick notProbe notReply wp here away none' inside route up
    obtain ⟨ports, sent⟩ := sendOn_up up { p with hops := p.hops + 1, flags := classFlags false (p.flags &&& 0xCF) }
    have forwarded := forward_waypoint (s := s.taken port p) (port := port) notTick wp (by rw [taken]; exact here)
      (by rw [taken]; exact none') (by rw [taken]; exact inside)
      (by rw [taken]; exact route)
    have row := (exec_packetForward_known in40 len torus order lo hi notProbe notReply (.inl wp)).trans
      (congrArg Host.Outcome.next (forwarded.trans sent))
    rw [taken] at row
    exact ⟨_, _, row, rfl, rfl, rfl, rfl, (classFlags_wpActive _ _).trans (waypointDone_flags p.flags), classFlags_dl _ _, none', rfl⟩

end Sys2Proof.Machine
end

section
/-!
What the sending of packets and of management messages leaves: the state of every link, and the messages that wait for their
acknowledgement (R308, R352).
-/
namespace Sys2Proof.Machine

/-! ### Links under packets that are sent -/

/-- A packet sent moves of a port only what it counts and what it has to replay. -/
def SamePort (q r : Port) : Prop :=
  ∃ seq txq drop lost, r = { q with txSeq := seq, txq := txq, downDrop := drop, unroutable := lost }

/-- No link has changed its state, its lanes or its neighbour. -/
def LinksKept (s t : State) : Prop := ∀ j, SamePort (getPort s j) (getPort t j)

theorem LinksKept.refl (s : State) : LinksKept s s := fun _ => ⟨_, _, _, _, rfl⟩

theorem LinksKept.trans {a b c : State} (h : LinksKept a b) (k : LinksKept b c) : LinksKept a c := by
  intro j
  obtain ⟨_, _, _, _, hj⟩ := h j
  obtain ⟨_, _, _, _, kj⟩ := k j
  exact ⟨_, _, _, _, by rw [kj, hj]⟩

section
variable {s t : State} (h : LinksKept s t) (j : Nat)
include h

theorem LinksKept.st : (getPort t j).st = (getPort s j).st := by obtain ⟨_, _, _, _, e⟩ := h j; rw [e]
theorem LinksKept.lanes : (getPort t j).lanes = (getPort s j).lanes := by obtain ⟨_, _, _, _, e⟩ := h j; rw [e]
theorem LinksKept.probeU : (getPort t j).probeU = (getPort s j).probeU := by obtain ⟨_, _, _, _, e⟩ := h j; rw [e]
theorem LinksKept.rxSeq : (getPort t j).rxSeq = (getPort s j).rxSeq := by obtain ⟨_, _, _, _, e⟩ := h j; rw [e]
theorem LinksKept.neighbour : (getPort t j).neighbour = (getPort s j).neighbour := by obtain ⟨_, _, _, _, e⟩ := h j; rw [e]

end

theorem modPort_links {p : Nat} {f : Port → Port} (h : ∀ q, SamePort q (f q)) (s : State) : LinksKept s (modPort p f s) := by
  intro j
  by_cases hj : j = p
  · rw [hj, getPort_modPort_self]
    exact h _
  · rw [getPort_modPort_ne hj]
    exact ⟨_, _, _, _, rfl⟩

theorem sendOn_links (port : Nat) (p : Packet) (s : State) : LinksKept s (sendOn port p s) := by
  unfold sendOn
  dsimp only
  split
  · exact modPort_links (p := port) (fun _ => ⟨_, _, _, _, rfl⟩) s
  · exact modPort_links (fun _ => ⟨_, _, _, _, rfl⟩) s

/-- A packet that leaves on a port moves no other. -/
theorem sendOn_others {port j : Nat} (h : j ≠ port) (p : Packet) (s : State) : getPort (sendOn port p s) j = getPort s j := by
  unfold sendOn
  dsimp only
  split
  · exact getPort_modPort_ne (p := port) (s := s) (f := fun q => { q with txSeq := q.txSeq + 1, txq := replayBuffer (q.txq ++ [_]) }) h
  · exact getPort_modPort_ne h

theorem countUnroutable_links (port : Nat) (s : State) : LinksKept s (countUnroutable port s) :=
  modPort_links (fun _ => ⟨_, _, _, _, rfl⟩) s

theorem routeOut_links (p : Packet) (dl : Option Nat) (s : State) : LinksKept s (routeOut p dl s) := by
  unfold routeOut
  dsimp only
  generalize (if packetWpActive p = true then BitVec.extractLsb' 0 12 p.wp else dstAddr p.dst) = target
  split
  · exact countUnroutable_links _ _
  · split
    · split
      · exact .refl s
      · exact sendOn_links _ _ _
      · exact sendOn_links _ _ _
      · exact countUnroutable_links _ _
    · exact sendOn_links _ _ _

theorem sendPacket_links (p : Packet) (s : State) : LinksKept s (sendPacket p s) := by
  unfold sendPacket injectNow
  dsimp only
  split
  · exact .refl s
  · split
    · exact routeOut_links _ _ _
    · split <;> exact routeOut_links _ _ _

/-! ### Management messages -/

/-- Packets and management messages have been sent: the links stand, and every message without its acknowledgement still waits. -/
structure MessagesOnly (s t : State) : Prop where
  frame : ∃ ports outbox holds mseq unacked free, t = { s with
    fab := { s.fab with ports := ports, outbox := outbox, holds := holds, mseq := mseq, unacked := unacked }, free := free }
  links : LinksKept s t
  waiting : ∀ m ∈ s.fab.unacked, m ∈ t.fab.unacked

theorem MessagesOnly.refl (s : State) : MessagesOnly s s := ⟨⟨_, _, _, _, _, _, rfl⟩, .refl s, fun _ h => h⟩

theorem MessagesOnly.trans {a b c : State} (h : MessagesOnly a b) (k : MessagesOnly b c) : MessagesOnly a c := by
  refine ⟨?_, h.links.trans k.links, fun m hm => k.waiting m (h.waiting m hm)⟩
  obtain ⟨_, _, _, _, _, _, rfl⟩ := h.frame
  obtain ⟨_, _, _, _, _, _, rfl⟩ := k.frame
  exact ⟨_, _, _, _, _, _, rfl⟩

theorem foldl_messages {α : Type} {f : State → α → State} (h : ∀ s x, MessagesOnly s (f s x)) (l : List α) (s : State) :
    MessagesOnly s (l.foldl f s) := foldl_rel MessagesOnly.refl (fun _ _ _ => MessagesOnly.trans) h l s

theorem sendPacket_messages (p : Packet) (s : State) : MessagesOnly s (sendPacket p s) := by
  have links := sendPacket_links p s
  obtain ⟨_, _, _, sent⟩ := sendPacket_packet p s
  rw [sent] at links ⊢
  exact ⟨⟨_, _, _, _, _, _, rfl⟩, links, fun _ h => h⟩

theorem sendOn_messages (port : Nat) (p : Packet) (s : State) : MessagesOnly s (sendOn port p s) := by
  have links := sendOn_links port p s
  obtain ⟨_, _, _, sent⟩ := sendOn_packet port p s
  rw [sent] at links ⊢
  exact ⟨⟨_, _, _, _, _, _, rfl⟩, links, fun _ h => h⟩

/-- R352: the message that a module sends, before its packet leaves. -/
def queueMgmt (dst : BitVec 12) (code : Nat) (body : Bytes) (s : State) : State :=
  { s with fab := { s.fab with mseq := s.fab.mseq + 1, unacked := if mgmtAcked code then s.fab.unacked ++
    [{ mseq := s.fab.mseq, dst := dst, payload := mgmtPayload code s.fab.mseq.toNat body, tries := 0, sentU := s.tb.nowU }] else s.fab.unacked } }

theorem mgmtSend_queue (dst : BitVec 12) (code : Nat) (body : Bytes) (s : State) : ∃ p, mgmtSend dst code body s =
    sendPacket p (queueMgmt dst code body s) := ⟨_, rfl⟩

theorem queueMgmt_messages (dst : BitVec 12) (code : Nat) (body : Bytes) (s : State) : MessagesOnly s (queueMgmt dst code body s) := by
  refine ⟨⟨_, _, _, _, _, _, rfl⟩, .refl s, fun m hm => ?_⟩
  unfold queueMgmt
  dsimp only
  split
  · exact List.mem_append_left _ hm
  · exact hm

theorem mgmtSend_messages (dst : BitVec 12) (code : Nat) (body : Bytes) (s : State) : MessagesOnly s (mgmtSend dst code body s) := by
  obtain ⟨p, sent⟩ := mgmtSend_queue dst code body s
  exact sent ▸ (queueMgmt_messages dst code body s).trans (sendPacket_messages p _)

theorem mgmtSendOn_messages (port code : Nat) (body : Bytes) (s : State) : MessagesOnly s (mgmtSendOn port code body s) :=
  MessagesOnly.trans (b := { s with fab := { s.fab with mseq := s.fab.mseq + 1 } })
    ⟨⟨_, _, _, _, _, _, rfl⟩, .refl s, fun _ h => h⟩ (sendOn_messages _ _ _)

/-! ### A manager's ROUTE_SETs (R319, log entry 31) -/

theorem sendCovers_messages (s : State) : MessagesOnly s (sendCovers s) := by
  unfold sendCovers
  dsimp only
  split
  · exact .refl s
  all_goals
    exact MessagesOnly.trans (b := { s with free := s.free + 1 }) ⟨⟨_, _, _, _, _, _, rfl⟩, .refl s, fun _ h => h⟩
      (foldl_messages (fun s r => mgmtSend_messages _ _ _ s) _ _)

theorem sendUncovers_messages (s : State) : MessagesOnly s (sendUncovers s) := by
  unfold sendUncovers
  dsimp only
  split
  · exact .refl s
  all_goals
    exact MessagesOnly.trans (b := { s with free := s.free + 1 }) ⟨⟨_, _, _, _, _, _, rfl⟩, .refl s, fun _ h => h⟩
      (foldl_messages (fun s r => mgmtSend_messages _ _ _ s) _ _)

theorem sendCovers_worker {s : State} (h : s.id.role = .worker) : sendCovers s = s := by simp only [sendCovers, h]

theorem sendUncovers_worker {s : State} (h : s.id.role = .worker) : sendUncovers s = s := by simp only [sendUncovers, h]

end Sys2Proof.Machine
end

section
/-!
Links (O42): a port that comes up, goes down or retunes a lane, and the probe that measures its delay (R35, R307, R308, R319).
-/
namespace Sys2Proof.Machine

/-! ### Probes (R35) -/

theorem portUp_congr {q r : Port} (h : r.st = q.st) : portUp r = portUp q := by unfold portUp; rw [h]

section
variable (port : Nat) (s : State)

theorem probeLink_skips {port : Nat} {s : State} (h : 6 ≤ port ∨ portUp (getPort s port) = false) : probeLink port s = s := if_pos h

/-- R35: on a torus link in service a PROBE leaves under the next sequence number, and the time is noted. -/
theorem probeLink_probes {port : Nat} {s : State} (torus : port < 6) (up : portUp (getPort s port) = true) : ∃ a,
    a.ptype.toNat = ptProbe ∧ a.lseq = (getPort s port).txSeq ∧ (probeLink port s).fab.outbox = s.fab.outbox ++ [(port, a)] := by
  have noted : getPort (modPort port (fun q => { q with probeU := some s.tb.nowU }) s) port =
      { getPort s port with probeU := some s.tb.nowU } := getPort_modPort_self
  have still : portUp (getPort (modPort port (fun q => { q with probeU := some s.tb.nowU }) s) port) = true := by
    rw [noted]
    exact up
  unfold probeLink
  rw [if_neg (by simp [up]; omega)]
  dsimp only
  generalize packet : mkPacket _ ptProbe _ _ _ _ _ _ = a
  obtain ⟨ports, sent⟩ := sendOn_up still a
  refine ⟨_, ?_, ?_, congrArg (·.fab.outbox) sent⟩
  · rw [← packet]; rfl
  · have seq := congrArg Port.txSeq noted
    exact seq

theorem probeLink_fab : FabOnly s (probeLink port s) := by
  unfold probeLink
  split
  · exact .refl s
  · exact (modPort_fab _ _ s).trans (sendOn_fab _ _ _)

theorem probeLink_others {port : Nat} {j : Nat} (h : j ≠ port) : getPort (probeLink port s) j = getPort s j := by
  unfold probeLink
  split
  · rfl
  · exact (sendOn_others h _ _).trans (getPort_modPort_ne h)

/-- R35: a probe moves of its own port nothing but what a packet moves, and the time noted. -/
theorem probeLink_port : ∃ u, SamePort { getPort s port with probeU := u } (getPort (probeLink port s) port) := by
  unfold probeLink
  split
  · exact ⟨_, _, _, _, _, rfl⟩
  · refine ⟨some s.tb.nowU, ?_⟩
    have kept := sendOn_links port (mkPacket (modPort port (fun q => { q with probeU := some s.tb.nowU }) s) ptProbe
      ((neighbourAt s.id s.id.addr port).setWidth 16) 0 0 0 0 []) (modPort port (fun q => { q with probeU := some s.tb.nowU }) s) port
    rw [getPort_modPort_self] at kept
    exact kept

theorem probeLink_notes {port : Nat} {s : State} (torus : port < 6) (up : portUp (getPort s port) = true) :
    (getPort (probeLink port s) port).probeU = some s.tb.nowU := by
  unfold probeLink
  rw [if_neg (by simp [up]; omega)]
  exact ((sendOn_links _ _ _).probeU port).trans (congrArg Port.probeU getPort_modPort_self)

end

/-! ### The states of a link (R307, R319) -/

/-- R408: of the machine only the fabric, the log and the supply of free values have changed, and the log has one entry more. -/
def LinkLogged (s t : State) : Prop := (∃ fab log free, t = { s with fab := fab, log := log, free := free }) ∧ t.log.next = s.log.next + 1

theorem LinkLogged.frame {s t : State} (h : LinkLogged s t) : t = { s with fab := t.fab, log := t.log, free := t.free } := by
  obtain ⟨⟨_, _, _, rfl⟩, -⟩ := h
  rfl

theorem setLink_logged (port : Nat) (st : PortState) (f : Port → Port) (s : State) : LinkLogged s (setLink port st f s) := ⟨⟨_, _, _, rfl⟩, rfl⟩

theorem takeDown_logged (port : Nat) (s : State) : LinkLogged s (takeDown port s) := ⟨⟨_, _, _, rfl⟩, rfl⟩

theorem LinkLogged.messages {a b c : State} (h : LinkLogged a b) (k : MessagesOnly b c) : LinkLogged a c := by
  obtain ⟨⟨_, _, _, rfl⟩, next⟩ := h
  obtain ⟨_, _, _, _, _, _, rfl⟩ := k.frame
  exact ⟨⟨_, _, _, rfl⟩, next⟩

theorem LinkLogged.fabric {a b c : State} (h : LinkLogged a b) (k : FabOnly b c) : LinkLogged a c := by
  obtain ⟨⟨_, _, _, rfl⟩, next⟩ := h
  obtain ⟨_, rfl⟩ := k
  exact ⟨⟨_, _, _, rfl⟩, next⟩

/-- R319: a port that is DOWN has no lane and nothing to replay. -/
def downPort (n : Nat) (q : Port) : Port :=
  { q with st := .down, downDrop := satAdd q.downDrop n, lanes := 0, tuning := none, txq := [], replayFrom := none, probeU := none }

/-- R319: of the packets that a port held, a free number is lost. -/
theorem takeDown_port (port : Nat) (s : State) : ∃ n, n ≤ (getPort s port).txq.length ∧
    getPort (takeDown port s) port = downPort n (getPort s port) := by
  refine ⟨Config.freeNat s.free 0 % ((getPort s port).txq.length + 1), Nat.le_of_lt_succ (Nat.mod_lt _ (Nat.succ_pos _)), ?_⟩
  unfold takeDown
  dsimp only
  rw [getPort_setLink_self]
  unfold countDown
  rw [getPort_modPort_self]
  rfl

theorem takeDown_others {port j : Nat} (h : j ≠ port) (s : State) : getPort (takeDown port s) j = getPort s j :=
  (getPort_setLink_ne h _ _ _).trans (getPort_modPort_ne (s := { s with free := s.free + 1 }) h)

/-! ### A link that takes a state and is probed (R35, R307) -/

/-- A port takes a state, and a probe is sent on it. -/
def retuneLink (port : Nat) (st : PortState) (f : Port → Port) (s : State) : State := probeLink port (setLink port st f s)

section
variable (port : Nat) (st : PortState) (f : Port → Port) (s : State)

theorem retuneLink_port : ∃ u, SamePort { f (getPort s port) with st := st, probeU := u } (getPort (retuneLink port st f s) port) := by
  have probed := probeLink_port port (setLink port st f s)
  rw [getPort_setLink_self] at probed
  exact probed

theorem retuneLink_others {port j : Nat} (h : j ≠ port) : getPort (retuneLink port st f s) j = getPort s j :=
  (probeLink_others _ h).trans (getPort_setLink_ne h _ _ _)

theorem retuneLink_logged : LinkLogged s (retuneLink port st f s) := (setLink_logged port st f s).fabric (probeLink_fab _ _)

theorem retuneLink_frame : retuneLink port st f s =
    { s with fab := (retuneLink port st f s).fab, log := (retuneLink port st f s).log } := by
  unfold retuneLink
  obtain ⟨fab, probed⟩ := probeLink_fab port (setLink port st f s)
  rw [probed]
  rfl

end

/-! ### A link that comes up (R307, R329) -/

/-- R307: a port that has trained starts at sequence number 0. -/
def trainedPort (q : Port) : Port :=
  { q with lanes := 16 - q.disabled.length, txSeq := 0, rxSeq := 0, replayFrom := none, txq := [], neighbour := none }

/-- R307: the state of a port that has trained. -/
def trainedState (q : Port) : PortState := if q.disabled.length = 0 then .up else .degraded

theorem portUp_trained (q r : Port) : portUp { q with st := trainedState r } = true := by
  unfold trainedState
  split <;> rfl

/-- The port of a link that has come up. -/
def trainLink (port : Nat) (s : State) : State := setLink port (trainedState (getPort s port)) trainedPort s

theorem getPort_trainLink (port : Nat) (s : State) : getPort (trainLink port s) port =
    { trainedPort (getPort s port) with st := trainedState (getPort s port) } := getPort_setLink_self _ _ _ _

theorem exec_linkUp_trained {port : Nat} {s : State} (lt : port < 8) (in40 : s.sup.in40 = true) (out : portUp (getPort s port) = false)
    (lanes : (getPort s port).disabled.length ≤ 4) : exec (.linkUp port) s = .next
      (if port < 6 then sendUncovers (sendHello port (probeLink port (trainLink port s))) else trainLink port s) :=
  congrArg Host.Outcome.next (if_pos ⟨lt, in40, out, lanes⟩)

/-- R329: HELLO leaves on a link in service. -/
theorem sendHello_sends {port : Nat} {s : State} (up : portUp (getPort s port) = true) : ∃ b, b.ptype.toNat = ptMgmt ∧
    field b.payload 0 2 = 0x01 ∧ (sendHello port s).fab.outbox = s.fab.outbox ++ [(port, b)] := by
  unfold sendHello mgmtSendOn
  dsimp only
  generalize packet : mkPacket _ ptMgmt _ _ _ _ _ _ = b
  obtain ⟨ports, sent⟩ := sendOn_up (s := { s with fab := { s.fab with mseq := s.fab.mseq + 1 } }) up b
  refine ⟨_, ?_, ?_, congrArg (·.fab.outbox) sent⟩
  · rw [← packet]; rfl
  · rw [← packet]
    exact field_mgmtPayload_code (by omega) _ _

/-! ### The rows -/

theorem exec_linkDown_up {port : Nat} {s : State} (lt : port < 8) (in40 : s.sup.in40 = true) (up : (getPort s port).st ≠ .down) :
    exec (.linkDown port) s = .next (sendCovers (takeDown port s)) := congrArg Host.Outcome.next (if_pos ⟨lt, in40, up⟩)

/-- R319: what a row leaves of a port that it took DOWN, whatever a manager then sends. -/
theorem sendCovers_down (port : Nat) (s : State) : (getPort (sendCovers (takeDown port s)) port).st = .down ∧
    LinkLogged s (sendCovers (takeDown port s)) := by
  obtain ⟨n, -, down⟩ := takeDown_port port s
  have sent := sendCovers_messages (takeDown port s)
  exact ⟨by rw [sent.links.st, down]; rfl, (takeDown_logged port s).messages sent⟩

section
variable {s : State} {port lane l : Nat}

theorem exec_laneRetune {e : Nat} (lt : port < 8) (hl : lane < 16) (he : 100000 < e)
    (inService : (getPort s port).st = .up ∨ (getPort s port).st = .degraded) (free : (getPort s port).tuning = none)
    (enabled : (getPort s port).disabled.contains lane = false) : exec (.laneRetune port lane e) s = .next (retuneLink port .retuning
      (fun q => { q with tuning := some lane, lanes := q.lanes - 1, retunes := satAdd q.retunes 1 }) s) :=
  congrArg Host.Outcome.next (if_pos ⟨lt, hl, he, inService, free, enabled⟩)

theorem exec_laneRetuneDone (lt : port < 8) (retuning : (getPort s port).st = .retuning) (lane : (getPort s port).tuning = some l)
    (good : Bool) : exec (.laneRetuneDone port good) s = .next (if good then
      retuneLink port (if (getPort s port).disabled.isEmpty then .up else .degraded) (fun q => { q with tuning := none, lanes := q.lanes + 1 }) s
    else if (getPort s port).lanes < 12 then
      sendCovers (takeDown port (modPort port (fun q => { q with disabled := l :: q.disabled, tuning := none }) s))
    else retuneLink port .degraded id (modPort port (fun q => { q with disabled := l :: q.disabled, tuning := none }) s)) := by
  refine congrArg Host.Outcome.next ?_
  dsimp only
  rw [lane]
  exact if_pos ⟨lt, retuning⟩

end

/-- R308, R313: a packet on a torus link that is in order reaches its row. -/
theorem linkArrive_takes {s : State} {port ptype : Nat} {p : Packet} (f : State → State) (in40 : s.sup.in40 = true)
    (len : lengthOk p = true) (torus : port < 6) (order : (takeLink port p s).1 = true) (type : p.ptype.toNat = ptype) :
    linkArrive port ptype p f s = f (s.taken port p) := by
  have modelled : ¬(p.ptype.toNat ≠ ptype ∨ s.sup.in40 = false ∨ lengthOk p = false ∨ 8 ≤ port) := by
    simp [type, in40, len]; omega
  unfold linkArrive
  dsimp only
  rw [if_neg modelled, order, if_neg (by simp), if_neg (by omega)]
  rfl

end Sys2Proof.Machine
end

section
/-!
The link rows (O42), from what each of them does to its port.
-/
namespace Sys2Proof.Machine

/-- R308: a packet in order on a port counts it on to the next, and the port is in service. -/
theorem takeLink_inOrder {s : State} {port : Nat} {p : Packet} (link : port ≠ 8) (order : (takeLink port p s).1 = true) :
    portUp (getPort s port) = true ∧ s.taken port p = modPort port (fun q => { q with rxSeq := q.rxSeq + 1, replayFrom := none }) s := by
  unfold State.taken
  unfold takeLink at order ⊢
  rw [if_neg link] at order ⊢
  dsimp only at order ⊢
  split at order
  next h => simp at order
  next h =>
    rw [if_neg h]
    split at order
    next => simp at order
    next h' =>
      rw [if_neg h']
      split at order
      next => simp at order
      next h'' =>
        rw [if_neg h'']
        simp only [Bool.or_eq_true, not_or, Bool.not_eq_true', Bool.not_eq_false] at h
        exact ⟨h.1, rfl⟩

section
variable {s : State} {port : Nat}

/-- R307, R329: what LINK_UP gives a port that has trained. -/
theorem linkUp_settles (lt : port < 8) (in40 : s.sup.in40 = true) (out : portUp (getPort s port) = false)
    (lanes : (getPort s port).disabled.length ≤ 4) : ∃ t, exec (.linkUp port) s = .next t ∧
      (getPort t port).st = (if (getPort s port).disabled = [] then .up else .degraded) ∧
      (getPort t port).lanes = 16 - (getPort s port).disabled.length ∧
      (getPort t port).rxSeq = 0 ∧ (6 ≤ port → (getPort t port).txSeq = 0 ∧ t.fab.outbox = s.fab.outbox) ∧
      (s.id.role = .worker ∨ 6 ≤ port → ∀ j, j ≠ port → getPort t j = getPort s j) ∧
      (port < 6 → s.id.role = .worker → ∃ a b, t.fab.outbox = s.fab.outbox ++ [(port, a), (port, b)] ∧ a.ptype.toNat = ptProbe ∧
        a.lseq = 0 ∧ b.ptype.toNat = ptMgmt ∧ field b.payload 0 2 = 0x01) ∧
      t.log.next = s.log.next + 1 ∧ t = { s with fab := t.fab, log := t.log, free := t.free } := by
  have row := exec_linkUp_trained lt in40 out lanes
  have trained := getPort_trainLink port s
  have logged : LinkLogged s (trainLink port s) := setLink_logged _ _ _ _
  have others (j : Nat) (hj : j ≠ port) : getPort (trainLink port s) j = getPort s j := getPort_setLink_ne hj _ _ _
  have code : trainedState (getPort s port) = if (getPort s port).disabled = [] then .up else .degraded := by
    simp only [trainedState, List.length_eq_zero_iff]
  by_cases torus : port < 6
  case neg =>
    rw [if_neg torus] at row
    refine ⟨_, row, ?_, ?_, ?_, fun _ => ⟨?_, rfl⟩, fun _ => others, fun h => absurd h torus, logged.2, logged.frame⟩
    all_goals rw [trained]
    · exact code
    all_goals rfl
  case pos =>
    rw [if_pos torus] at row
    have up : portUp (getPort (trainLink port s) port) = true := trained ▸ portUp_trained (trainedPort (getPort s port)) _
    obtain ⟨u, probed⟩ := probeLink_port port (trainLink port s)
    have st : (getPort (probeLink port (trainLink port s)) port).st = trainedState (getPort s port) := by
      obtain ⟨_, _, _, _, same⟩ := probed
      rw [same, trained]
    have still : portUp (getPort (probeLink port (trainLink port s)) port) = true :=
      (portUp_congr (st.trans (congrArg Port.st trained).symm)).trans up
    have hello : MessagesOnly (probeLink port (trainLink port s)) (sendHello port (probeLink port (trainLink port s))) :=
      mgmtSendOn_messages _ _ _ _
    have sent := hello.trans (sendUncovers_messages _)
    have quiet (worker : s.id.role = .worker) : sendUncovers (sendHello port (probeLink port (trainLink port s))) =
        sendHello port (probeLink port (trainLink port s)) :=
      sendUncovers_worker ((congrArg (·.id.role) ((logged.fabric (probeLink_fab port _)).messages hello).frame).trans worker)
    have frame := (logged.fabric (probeLink_fab _ _)).messages sent
    refine ⟨_, row, ?_, ?_, ?_, fun h => absurd torus (by omega), fun h j hj => ?_, fun _ worker => ?_, frame.2, frame.frame⟩
    · rw [sent.links.st, st, code]
    · obtain ⟨_, _, _, _, same⟩ := probed
      rw [sent.links.lanes, same, trained]
      rfl
    · obtain ⟨_, _, _, _, same⟩ := probed
      rw [sent.links.rxSeq, same, trained]
      rfl
    · rw [quiet (h.resolve_right (by omega))]
      exact (sendOn_others hj _ _).trans ((probeLink_others _ hj).trans (others j hj))
    · obtain ⟨a, probe, seq, first⟩ := probeLink_probes torus up
      obtain ⟨b, mgmt, hello, second⟩ := sendHello_sends still
      refine ⟨a, b, ?_, probe, by rw [seq, trained]; rfl, mgmt, hello⟩
      rw [quiet worker, second, first, List.append_assoc]
      rfl

/-- R307, R319: what LINK_DOWN leaves of a port, and in a worker of its lanes and its packets. -/
theorem linkDown_settles (lt : port < 8) (in40 : s.sup.in40 = true) (up : (getPort s port).st ≠ .down) :
    ∃ t, exec (.linkDown port) s = .next t ∧ (getPort t port).st = .down ∧
      t.log.next = s.log.next + 1 ∧ t = { s with fab := t.fab, log := t.log, free := t.free } ∧
      (s.id.role = .worker → (getPort t port).lanes = 0 ∧ (getPort t port).txq = [] ∧ (∀ j, j ≠ port → getPort t j = getPort s j) ∧
        ∃ n, n ≤ (getPort s port).txq.length ∧ (getPort t port).downDrop = satAdd (getPort s port).downDrop n) := by
  obtain ⟨st, logged⟩ := sendCovers_down port s
  refine ⟨_, exec_linkDown_up lt in40 up, st, logged.2, logged.frame, fun worker => ?_⟩
  obtain ⟨n, most, down⟩ := takeDown_port port s
  rw [sendCovers_worker (s := takeDown port s) worker, down]
  exact ⟨rfl, rfl, fun j hj => takeDown_others hj s, n, most, rfl⟩

/-- R307: what LANE_RETUNE_DONE leaves of a port whose lane came back or was lost. -/
theorem laneRetuneDone_settles {l : Nat} (lt : port < 8) (retuning : (getPort s port).st = .retuning) (lane : (getPort s port).tuning = some l) :
    (∃ t, exec (.laneRetuneDone port true) s = .next t ∧
        (getPort t port).st = (if (getPort s port).disabled.isEmpty then .up else .degraded) ∧
        (getPort t port).lanes = (getPort s port).lanes + 1 ∧ (getPort t port).tuning = none ∧ (∀ j, j ≠ port → getPort t j = getPort s j) ∧
        t.log.next = s.log.next + 1 ∧ t = { s with fab := t.fab, log := t.log }) ∧
      (12 ≤ (getPort s port).lanes → ∃ t, exec (.laneRetuneDone port false) s = .next t ∧ (getPort t port).st = .degraded ∧
        (getPort t port).lanes = (getPort s port).lanes ∧ (getPort t port).disabled = l :: (getPort s port).disabled ∧
        (∀ j, j ≠ port → getPort t j = getPort s j) ∧ t.log.next = s.log.next + 1 ∧ t = { s with fab := t.fab, log := t.log }) ∧
      ((getPort s port).lanes < 12 → ∃ t, exec (.laneRetuneDone port false) s = .next t ∧ (getPort t port).st = .down ∧
        t.log.next = s.log.next + 1 ∧ t = { s with fab := t.fab, log := t.log, free := t.free }) := by
  have row := exec_laneRetuneDone lt retuning lane
  refine ⟨?back, fun most => ?lost, fun few => ?down⟩
  case back =>
    obtain ⟨u, _, _, _, _, same⟩ := retuneLink_port port (if (getPort s port).disabled.isEmpty then .up else .degraded)
      (fun q => { q with tuning := none, lanes := q.lanes + 1 }) s
    refine ⟨_, row true, ?_, ?_, ?_, fun j hj => retuneLink_others _ _ _ hj, (retuneLink_logged port _ _ s).2, retuneLink_frame port _ _ s⟩
    all_goals rw [if_pos rfl, same]
  case lost =>
    have lose : getPort (modPort port (fun q => { q with disabled := l :: q.disabled, tuning := none }) s) port =
        { getPort s port with disabled := l :: (getPort s port).disabled, tuning := none } := getPort_modPort_self
    obtain ⟨u, _, _, _, _, same⟩ := retuneLink_port port .degraded id
      (modPort port (fun q => { q with disabled := l :: q.disabled, tuning := none }) s)
    have done := row false
    rw [if_neg (by simp), if_neg (by omega)] at done
    refine ⟨_, done, ?_, ?_, ?_, fun j hj => (retuneLink_others _ _ _ hj).trans (getPort_modPort_ne hj),
      (retuneLink_logged port _ _ _).2, retuneLink_frame port _ _ _⟩
    · rw [same]
    all_goals
      rw [same, id_eq, lose]
  case down =>
    have done := row false
    rw [if_neg (by simp), if_pos few] at done
    obtain ⟨st, logged⟩ := sendCovers_down port (modPort port (fun q => { q with disabled := l :: q.disabled, tuning := none }) s)
    exact ⟨_, done, st, logged.2, logged.frame⟩

end

/-- R35: the answer to a PROBE. -/
def probeReply (s : State) (p : Packet) : Packet := { mkPacket s ptProbeReply p.src 0 0 p.txn.toNat 0 [] with dst := p.src }

/-- Settles O42: the rows of a port's state, and those of its probe. -/
theorem linksAndTheirDelay : Obligations.LinksAndTheirDelay := by
  unfold Obligations.LinksAndTheirDelay
  refine ⟨?links, fun s port => ⟨fun torus up => ?measure, fun h => congrArg Host.Outcome.next (probeLink_skips h)⟩,
    fun s port p in40 len torus order => ⟨fun type => ?probe, fun type => ?reply⟩⟩
  case links =>
    rintro s port q lt rfl
    refine ⟨fun lseq h up => ⟨fun seq => congrArg Host.Outcome.next (if_pos ⟨lt, up, seq⟩),
        fun seq => congrArg Host.Outcome.next (if_neg (by simp [seq]))⟩,
      linkUp_settles lt, fun h => congrArg Host.Outcome.next (if_neg ?_), linkDown_settles lt,
      fun down => congrArg Host.Outcome.next (if_neg (by simp [down])), fun lane e hl he inService free enabled => ?retune,
      fun lane e he => congrArg Host.Outcome.next (if_neg (by omega)), fun l retuning lane => laneRetuneDone_settles lt retuning lane⟩
    · rintro ⟨-, -, out, lanes⟩
      rcases h with up | many
      · simp [up] at out
      · omega
    case retune =>
      obtain ⟨u, _, _, _, _, same⟩ := retuneLink_port port .retuning
        (fun q => { q with tuning := some lane, lanes := q.lanes - 1, retunes := satAdd q.retunes 1 }) s
      refine ⟨_, exec_laneRetune lt hl he inService free enabled, ?_, ?_, ?_, ?_, fun j hj => retuneLink_others _ _ _ hj,
        (retuneLink_logged port _ _ s).2, retuneLink_frame port _ _ s⟩
      all_goals rw [same]
  case measure =>
    obtain ⟨a, probe, -, sent⟩ := probeLink_probes torus up
    obtain ⟨fab, frame⟩ := probeLink_fab port s
    exact ⟨probeLink port s, a, rfl, sent, probe, probeLink_notes torus up, fun j hj => probeLink_others s hj, by rw [frame]⟩
  case probe =>
    obtain ⟨up, taken⟩ := takeLink_inOrder (by omega) order
    have still : portUp (getPort (s.taken port p) port) = true := by rw [taken, getPort_modPort_self]; exact up
    have row : exec (.pktProbe port p) s = .next (sendOn port (probeReply (s.taken port p) p) (s.taken port p)) :=
      congrArg Host.Outcome.next (linkArrive_takes (fun s => sendOn port (probeReply s p) s) in40 len torus order type)
    obtain ⟨ports, sent⟩ := sendOn_up still (probeReply (s.taken port p) p)
    rw [sent, taken] at row
    exact ⟨_, _, row, rfl, rfl, rfl, by simp [sealPacket, probeReply, mkPacket], rfl⟩
  case reply =>
    obtain ⟨up, taken⟩ := takeLink_inOrder (by omega) order
    have probed : (getPort (s.taken port p) port).probeU = (getPort s port).probeU := by rw [taken, getPort_modPort_self]
    have row (f : State → State) := linkArrive_takes f in40 len torus order type
    refine ⟨fun t0 out => congrArg Host.Outcome.next ((row _).trans ?_), fun none' => congrArg Host.Outcome.next ((row _).trans ?_)⟩
    · have clock : (s.taken port p).tb.nowU = s.tb.nowU := by rw [taken]; rfl
      simp only [probed, out, clock]
    · simp only [probed, none']

end Sys2Proof.Machine
end

section
/-!
Management messages that tell other modules of a member (R330, R331, R352, R353): what sending them keeps, and whom they reach.
-/
namespace Sys2Proof.Machine

/-! ### What messages keep -/

section
variable {s t : State} (h : MessagesOnly s t)
include h

theorem MessagesOnly.findMember_eq (a : BitVec 12) : findMember t a = findMember s a := by
  obtain ⟨_, _, _, _, _, _, rfl⟩ := h.frame
  rfl

theorem MessagesOnly.holdersOf_eq (a : BitVec 12) : holdersOf t a = holdersOf s a := by
  obtain ⟨_, _, _, _, _, _, rfl⟩ := h.frame
  rfl

end

/-- Of the machine only the fabric and the supply of free values have changed. -/
def FabFree (s t : State) : Prop := ∃ fab free, t = { s with fab := fab, free := free }

theorem FabFree.frame {s t : State} (h : FabFree s t) : t = { s with fab := t.fab, free := t.free } := by
  obtain ⟨_, _, rfl⟩ := h
  rfl

theorem FabFree.trans {a b c : State} (h : FabFree a b) (k : FabFree b c) : FabFree a c := by
  obtain ⟨_, _, rfl⟩ := h
  obtain ⟨_, _, rfl⟩ := k
  exact ⟨_, _, rfl⟩

theorem FabOnly.fabFree {s t : State} (h : FabOnly s t) : FabFree s t := by
  obtain ⟨_, rfl⟩ := h
  exact ⟨_, _, rfl⟩

theorem MessagesOnly.fabFree {s t : State} (h : MessagesOnly s t) : FabFree s t := by
  obtain ⟨_, _, _, _, _, _, rfl⟩ := h.frame
  exact ⟨_, _, rfl⟩

theorem FabOnly.frame {s t : State} (h : FabOnly s t) : t = { s with fab := t.fab } := by
  obtain ⟨_, rfl⟩ := h
  rfl

/-! ### Messages that reach a module -/

/-- A message of a code to a module waits for its acknowledgement. -/
def Told (code : Nat) (a : BitVec 12) (s : State) : Prop := ∃ x ∈ s.fab.unacked, x.dst = a ∧ field x.payload 0 2 = code

theorem Told.messages {code : Nat} {a : BitVec 12} {s t : State} (h : Told code a s) (k : MessagesOnly s t) : Told code a t := by
  obtain ⟨x, hx, rest⟩ := h
  exact ⟨x, k.waiting x hx, rest⟩

theorem mgmtSend_told {code : Nat} (acked : mgmtAcked code = true) (small : code < 65536) (a : BitVec 12) (bd : Bytes) (s : State) :
    Told code a (mgmtSend a code bd s) := by
  obtain ⟨m, dst, -, payload, unacked, -⟩ := mgmtSend_fabric a bd acked s
  exact ⟨m, unacked ▸ List.mem_append_right _ List.mem_cons_self, dst, payload ▸ field_mgmtPayload_code small _ _⟩

section
variable (code kind : Nat) (a : BitVec 12) (s : State)

theorem notifyHolders_fab : FabOnly s (notifyHolders code kind a s) := foldl_fab (fun _ _ => mgmtSend_fab _ _ _ _) _ s

theorem notifyHolders_messages : MessagesOnly s (notifyHolders code kind a s) := foldl_messages (fun _ _ => mgmtSend_messages _ _ _ _) _ s

/-- R331: a notice reaches every module known to hold a group with a rank there. -/
theorem notifyHolders_told {code : Nat} (acked : mgmtAcked code = true) (small : code < 65536) {m : BitVec 12} (h : m ∈ holdersOf s a) :
    Told code m (notifyHolders code kind a s) :=
  foldl_reaches h (fun u => mgmtSend_told acked small m _ u) (fun _ _ told => told.messages (mgmtSend_messages _ _ _ _)) s

end

/-- R352: an acknowledgement notes the message as seen, and what it sends is a message. -/
theorem acknowledged_messages (u : State) (code : Nat) (p : Packet) (st : Nat) : ∃ seen,
    MessagesOnly { u with fab := { u.fab with seen := seen } } (u.acknowledged code p st) := by
  refine ⟨((dstAddr p.src, BitVec.ofNat 32 (field p.payload 4 4)), st) :: u.fab.seen, ?_⟩
  unfold State.acknowledged ackMgmt
  dsimp only
  split
  · exact mgmtSend_messages _ _ _ _
  · exact .refl _

section
variable (u : State) (code : Nat) (p : Packet) (st : Nat)

theorem findMember_acknowledged (a : BitVec 12) : findMember (u.acknowledged code p st) a = findMember u a := by
  obtain ⟨_, sent⟩ := acknowledged_messages u code p st
  exact sent.findMember_eq a

theorem Told.acknowledged {u : State} {c : Nat} {a : BitVec 12} (h : Told c a u) : Told c a (u.acknowledged code p st) := by
  obtain ⟨seen, sent⟩ := acknowledged_messages u code p st
  exact Told.messages (s := { u with fab := { u.fab with seen := seen } }) h sent

end

/-! ### Members (R330) -/

section
variable {a : BitVec 12} {f : Member → Member}

theorem findMember_modMember_self (addr : ∀ m, (f m).addr = m.addr) (s : State) :
    findMember (modMember a f s) a = (findMember s a).map f := by
  unfold findMember modMember
  dsimp only
  rw [List.find?_map]
  have same : ((fun m : Member => m.addr == a) ∘ fun m => if (m.addr == a) = true then f m else m) = fun m => m.addr == a := by
    funext m
    rw [Function.comp]
    split <;> simp [addr]
  rw [same]
  refine Option.map_congr fun m hm => ?_
  rw [if_pos (List.find?_some hm)]

theorem findMember_modMember_ne (addr : ∀ m, (f m).addr = m.addr) {x : BitVec 12} (h : x ≠ a) (s : State) :
    findMember (modMember a f s) x = findMember s x := by
  unfold findMember modMember
  dsimp only
  rw [List.find?_map]
  have same : ((fun m : Member => m.addr == x) ∘ fun m => if (m.addr == a) = true then f m else m) = fun m => m.addr == x := by
    funext m
    rw [Function.comp]
    split <;> simp [addr]
  rw [same]
  refine Eq.trans (Option.map_congr (g := id) fun m hm => ?_) Option.map_id_apply
  have hit := List.find?_some hm
  have at' : m.addr = x := beq_iff_eq.mp hit
  rw [if_neg (by simpa [at'] using h), id_eq]

theorem modMember_fab (a : BitVec 12) (f : Member → Member) (s : State) : FabOnly s (modMember a f s) := ⟨_, rfl⟩

end

/-- R330: a member that is lost. -/
def markLost (m : Member) : Member := { m with lost := true, holdU := none }

/-- R330: a member is lost, and every module known to hold a group with it is told. -/
theorem loseMember_spec {s : State} {a : BitVec 12} {m : Member} (known : findMember s a = some m) :
    findMember (loseMember a s) a = some { m with lost := true, holdU := none } ∧
    (∀ x, x ≠ a → findMember (loseMember a s) x = findMember s x) ∧ (∀ h ∈ holdersOf s a, Told 0x09 h (loseMember a s)) ∧
    FabFree s (loseMember a s) := by
  have covers := sendCovers_messages (modMember a markLost s)
  have sent : MessagesOnly (modMember a markLost s) (loseMember a s) := covers.trans (notifyHolders_messages 0x09 0 a _)
  refine ⟨?_, fun x hx => ?_, fun h hh => notifyHolders_told 0 a _ rfl (by omega) ?_, (modMember_fab a _ s).fabFree.trans sent.fabFree⟩
  · rw [sent.findMember_eq, findMember_modMember_self (f := markLost) fun _ => rfl, known]
    rfl
  · rw [sent.findMember_eq, findMember_modMember_ne (f := markLost) (fun _ => rfl) hx]
  · exact (covers.holdersOf_eq a).symm ▸ hh

end Sys2Proof.Machine
end

section
/-!
Members (O43): HELLO, JOIN and its answer, heartbeats, and members that are lost or leave (R328-R330).
-/
namespace Sys2Proof.Machine

/-! ### HELLO (R329) -/

/-- R329: a module without an address takes the sender's, stepped along the link. -/
def adoptAddr (bd : Bytes) (a : BitVec 12) (i : Ident) : Ident :=
  { i with
    dx := BitVec.ofNat 4 (field bd 2 1), dy := BitVec.ofNat 4 (field bd 3 1), dz := BitVec.ofNat 4 (field bd 4 1), hasAddr := true
    addr := neighbourAt { i with
      dx := BitVec.ofNat 4 (field bd 2 1), dy := BitVec.ofNat 4 (field bd 3 1), dz := BitVec.ofNat 4 (field bd 4 1) } a (field bd 5 1) }

/-- R329: a module that hears of its neighbour at a port. -/
def meetNeighbour (port : Nat) (bd : Bytes) (a : BitVec 12) (s : State) : State :=
  { modPort port (fun q => { q with neighbour := some a }) s with id := if s.id.hasAddr then s.id else adoptAddr bd a s.id }

theorem getPort_meetNeighbour (port : Nat) (bd : Bytes) (a : BitVec 12) (s : State) :
    (getPort (meetNeighbour port bd a s) port).neighbour = some a :=
  congrArg Port.neighbour (getPort_modPort_self (s := s) (p := port) (f := fun q => { q with neighbour := some a }))

theorem meetNeighbour_known {port : Nat} {bd : Bytes} {a : BitVec 12} {s : State} (h : s.id.hasAddr = true) :
    (meetNeighbour port bd a s).id = s.id := if_pos h

theorem meetNeighbour_new {port : Nat} {bd : Bytes} {a : BitVec 12} {s : State} (h : s.id.hasAddr = false) :
    (meetNeighbour port bd a s).id = adoptAddr bd a s.id := if_neg (by simp [h])

theorem sendJoin_fab (m : BitVec 12) (s : State) : FabOnly s (sendJoin m s) := by
  unfold sendJoin
  split
  · exact .refl s
  · exact mgmtSend_fab _ _ _ _

theorem sendJoin_messages (m : BitVec 12) (s : State) : MessagesOnly s (sendJoin m s) := by
  unfold sendJoin
  split
  · exact .refl s
  · exact mgmtSend_messages _ _ _ _

/-- R329: the answer to a HELLO, and the JOIN to the manager that it names. -/
def answerHello (port : Nat) (answers : Bool) (pod sys : Option (BitVec 12)) (s : State) : State :=
  let t := if s.id.hasAddr && answers then sendHello port s else s
  if t.fab.confirmed || !t.id.hasAddr then t
  else
    match joinTarget t pod sys with
    | some m => sendJoin m t
    | none => t

theorem answerHello_sends (port : Nat) (answers : Bool) (pod sys : Option (BitVec 12)) (s : State) :
    FabOnly s (answerHello port answers pod sys s) ∧ LinksKept s (answerHello port answers pod sys s) := by
  have hello : ∃ t, (if (s.id.hasAddr && answers) = true then sendHello port s else s) = t ∧ FabOnly s t ∧ LinksKept s t := by
    refine ⟨_, rfl, ?_⟩
    split
    · exact ⟨mgmtSendOn_fab _ _ _ s, (mgmtSendOn_messages _ _ _ s).links⟩
    · exact ⟨.refl s, .refl s⟩
  obtain ⟨t, said, fab, links⟩ := hello
  unfold answerHello
  rw [said]
  dsimp only
  split
  · exact ⟨fab, links⟩
  · split
    · exact ⟨fab.trans (sendJoin_fab _ t), links.trans (sendJoin_messages _ t).links⟩
    · exact ⟨fab, links⟩

theorem takeHello_meets {port : Nat} {bd : Bytes} {a : BitVec 12} (s : State) (h : addrOf (field bd 0 2) = some a) :
    takeHello port bd s = answerHello port ((getPort s port).neighbour.isNone || (some a).isNone) (addrOf (field bd 6 2))
      (addrOf (field bd 8 2)) (meetNeighbour port bd a s) := by
  have met : (if s.id.hasAddr = true then modPort port (fun q => { q with neighbour := some a }) s
      else { modPort port (fun q => { q with neighbour := some a }) s with id := adoptAddr bd a s.id }) = meetNeighbour port bd a s := by
    unfold meetNeighbour
    split <;> rfl
  rw [← met]
  unfold takeHello
  rw [h]
  rfl

theorem exec_hello {s : State} {port : Nat} {p : Packet} {bd : Bytes} (in40 : s.sup.in40 = true) (len : lengthOk p = true) (torus : port < 6)
    (order : (takeLink port p s).1 = true) (type : p.ptype.toNat = ptMgmt) (code : field p.payload 0 2 = 0x01)
    (whole : p.payload.length = 28) (body : field p.payload 2 2 = 16)
    (crc : field p.payload 24 4 = (crc32c (p.payload.take 24)).toNat) (bytes : (p.payload.drop 8).take 16 = bd) :
    exec (.hello port p) s = .next (takeHello port bd (s.taken port p)) := by
  refine congrArg Host.Outcome.next ((if_neg (not_not_intro code)).trans ((linkArrive_takes _ in40 len torus order type).trans ?_))
  have layout : mgmtLengthOk 0x01 ((p.payload.drop 8).take 16) = true := by
    simp [mgmtLengthOk, whole]
  dsimp only
  rw [body, bytes] at *
  exact if_neg (by simp [whole, crc, layout])

/-! ### JOIN and its answer (R329) -/

theorem takeJoin_worker {s : State} (h : s.id.role = .worker) (src : BitVec 12) (bd : Bytes) : takeJoin src bd s = (stNotPermitted, s) := by
  simp only [takeJoin, h]

theorem takeJoin_manager {s u : State} {a : BitVec 12} {res : Nat} {bd : Bytes} (h : s.id.role ≠ .worker) (src : BitVec 12)
    (addr : addrOf (field bd 34 2) = some a) (result : joinResult s a (bd.take 16) (field bd 32 1) = res)
    (members : u = if res = 0 then { s with fab := { s.fab with members := s.fab.members.filter (fun x => x.addr != a) ++
      [{ addr := a, seenU := s.tb.nowU, role := BitVec.ofNat 8 (field bd 32 1), serial := bd.take 16 }] } } else s) :
    takeJoin src bd s = (stOk, if res = 0 then sendUncovers (mgmtSend src 0x03 (joinAckBody u a res (field bd 32 1)) { u with free := u.free + 1 })
      else mgmtSend src 0x03 (joinAckBody u a res (field bd 32 1)) { u with free := u.free + 1 }) := by
  subst members
  unfold takeJoin
  rw [addr]
  dsimp only [Option.getD_some]
  rw [result]
  split
  next worker => exact absurd worker h
  all_goals rfl

/-- R329: the result of a join depends on the module's place and on the members alone. -/
theorem joinResult_taken (s : State) (port : Nat) (p : Packet) (a : BitVec 12) (serial : Bytes) (role : Nat) :
    joinResult (s.taken port p) a serial role = joinResult s a serial role := by
  obtain ⟨ps, taken⟩ := taken_ports port p s
  rw [taken]
  rfl

/-- R329: the module that an accepted join makes. -/
def acceptedJoin (bd : Bytes) (a m y : BitVec 12) (s : State) : State :=
  let r := setRoutes (putRoutes 0 (routesOf bd 16 (field bd 12 1)) s.fab.routes) s
  noteJoined { r with
    id := { s.id with
      addr := a, hasAddr := true
      dx := BitVec.ofNat 4 (field bd 2 1), dy := BitVec.ofNat 4 (field bd 3 1), dz := BitVec.ofNat 4 (field bd 4 1) }
    fab := { r.fab with manager := m, sysManager := y, confirmed := true }
    tb := { s.tb with tickParent := addrOf (field bd 6 2), sourceField := 2 } }

/-- R329: an accepted join sets the address, the sizes, the managers and the tick parent, and a LOCKED module is JOINED. -/
theorem acceptedJoin_spec (bd : Bytes) (a m y : BitVec 12) (s : State) : ∃ fab, acceptedJoin bd a m y s = { s with
      id := { s.id with
        addr := a, hasAddr := true
        dx := BitVec.ofNat 4 (field bd 2 1), dy := BitVec.ofNat 4 (field bd 3 1), dz := BitVec.ofNat 4 (field bd 4 1) }
      fab := fab, tb := { s.tb with tickParent := addrOf (field bd 6 2), sourceField := 2 } } ∧
    fab.manager = m ∧ fab.sysManager = y ∧ fab.confirmed = true ∧ (s.tb.st = .locked → s.tb.backward = false → fab.joined = true) := by
  obtain ⟨routes, set⟩ := setRoutes_fab (putRoutes 0 (routesOf bd 16 (field bd 12 1)) s.fab.routes) s
  unfold acceptedJoin noteJoined
  dsimp only
  rw [set]
  split
  · exact ⟨_, rfl, rfl, rfl, rfl, fun _ _ => rfl⟩
  next out => exact ⟨_, rfl, rfl, rfl, rfl, fun locked forward => absurd ⟨rfl, locked, forward⟩ out⟩

/-- R352: an acknowledgement leaves what the module knows of its managers. -/
theorem acknowledged_managers (u : State) (code : Nat) (p : Packet) (st : Nat) : ∃ fab, u.acknowledged code p st = { u with fab := fab } ∧
    fab.manager = u.fab.manager ∧ fab.sysManager = u.fab.sysManager ∧ fab.confirmed = u.fab.confirmed ∧ fab.joined = u.fab.joined := by
  have fabric := (acknowledged_fab u code p st).frame
  obtain ⟨seen, sent⟩ := acknowledged_messages u code p st
  obtain ⟨_, _, _, _, _, _, frame⟩ := sent.frame
  refine ⟨_, fabric, ?_⟩
  rw [frame]
  exact ⟨rfl, rfl, rfl, rfl⟩

section
variable {s : State} {bd : Bytes} {a m y : BitVec 12} (src : BitVec 12)

theorem takeJoinAck_accepted (routes : field bd 12 1 ≤ 64) (result : field bd 5 1 = 0) (ha : addrOf (field bd 0 2) = some a)
    (hm : addrOf (field bd 8 2) = some m) (hy : addrOf (field bd 10 2) = some y) : takeJoinAck src bd s = (stOk, acceptedJoin bd a m y s) := by
  unfold takeJoinAck
  dsimp only
  rw [if_neg (by omega), if_neg (not_not_intro result), ha, hm, hy]
  rfl

theorem takeJoinAck_refused (routes : field bd 12 1 ≤ 64) (result : field bd 5 1 = 1 ∨ field bd 5 1 = 2) :
    takeJoinAck src bd s = (stOk, s) := by
  unfold takeJoinAck
  dsimp only
  rw [if_neg (by omega), if_pos (by omega)]

end

/-! ### Heartbeats (R330) -/

/-- R330: a member whose heartbeat arrives. -/
def renewed (bd : Bytes) (now : Nat) (m : Member) : Member :=
  if m.lost then m
  else if field bd 1 1 = 3 then { m with seenU := now, holdU := some (m.holdU.getD now) }
  else { m with seenU := now, holdU := none, degraded := false }

theorem renewed_addr (bd : Bytes) (now : Nat) (m : Member) : (renewed bd now m).addr = m.addr := by
  unfold renewed
  repeat' split
  all_goals rfl

theorem exec_leaveMessage {s : State} {port : Nat} {p : Packet} {a : BitVec 12} {bd : Bytes} {m : Member} (h : s.manages port 0x05 p a bd)
    (known : findMember s a = some m) (manager : s.id.role ≠ .worker) (here : m.lost = false) :
    exec (.leaveMessage port p) s = .next ((loseMember a (s.taken port p)).acknowledged 0x05 p stOk) := by
  refine congrArg Host.Outcome.next (mgmtArrive_manages h ?_)
  obtain ⟨ps, taken⟩ := taken_ports port p s
  have known' : findMember (s.taken port p) a = some m := by rw [taken]; exact known
  have manager' : (s.taken port p).id.role ≠ .worker := by rw [taken]; exact manager
  simp only [known', here, manager', ne_eq, not_false_eq_true, and_self, if_true]

end Sys2Proof.Machine
end

section
/-!
O43, from the rows of the messages between a member and its manager.
-/
namespace Sys2Proof.Machine

/-- Settles O43: HELLO, JOIN, JOIN_ACK, the heartbeats, and members that are lost. -/
theorem membersJoinAndAreLost : Obligations.MembersJoinAndAreLost := by
  unfold Obligations.MembersJoinAndAreLost
  refine ⟨fun s port p bd a in40 len torus order type code whole body crc bytes from' => ?hello,
    fun s port p src bd h => ⟨fun worker => ?refused, fun a res manager addr result => ?join⟩,
    fun s port p src bd h routes => ⟨fun a m y result ha hm hy => ?accepted, fun result => ?denied⟩,
    fun s => ⟨fun joined in40 busy due => congrArg Host.Outcome.next (if_pos ⟨joined, in40, busy, due⟩), fun early =>
      congrArg Host.Outcome.next (if_neg ?early)⟩,
    fun s port p src bd m h known here => ?heartbeat,
    fun s a m known manager here => ⟨fun early => ?quiet, fun silent => ?lost, fun port p bd h => ?leave⟩⟩
  case hello =>
    obtain ⟨ps, taken⟩ := taken_ports port p s
    have row := exec_hello in40 len torus order type code whole body crc bytes
    rw [takeHello_meets _ from'] at row
    obtain ⟨⟨fab, frame⟩, links⟩ := answerHello_sends port ((getPort (s.taken port p) port).neighbour.isNone || (some a).isNone)
      (addrOf (field bd 6 2)) (addrOf (field bd 8 2)) (meetNeighbour port bd a (s.taken port p))
    have neighbour := (links.neighbour port).trans (getPort_meetNeighbour port bd a _)
    have frame' : FabOnly (meetNeighbour port bd a (s.taken port p)) _ := ⟨fab, frame⟩
    rw [frame] at row neighbour
    refine ⟨_, row, neighbour, ?_, fun has => ?_, fun has => ?_⟩
    · rw [taken]
      rfl
    · rw [taken]
      exact meetNeighbour_known (port := port) has
    · rw [taken]
      have id := meetNeighbour_new (port := port) (bd := bd) (a := a) (s := { s with fab := { s.fab with ports := ps } }) has
      dsimp only
      rw [id]
      exact ⟨rfl, BitVec.toNat_ofNat _ _, BitVec.toNat_ofNat _ _, BitVec.toNat_ofNat _ _, rfl⟩
  case refused =>
    obtain ⟨ps, taken⟩ := taken_ports port p s
    exact congrArg Host.Outcome.next (mgmtArrive_manages h (takeJoin_worker (by rw [taken]; exact worker) src bd))
  case join =>
    obtain ⟨ps, taken⟩ := taken_ports port p s
    refine ⟨_, rfl, congrArg Host.Outcome.next (mgmtArrive_manages h (takeJoin_manager (by rw [taken]; exact manager) src addr
      ((joinResult_taken s port p a _ _).trans result) ?_))⟩
    rw [taken]
  case accepted =>
    obtain ⟨ps, taken⟩ := taken_ports port p s
    have row : exec (.joinAck port p) s = .next ((acceptedJoin bd a m y (s.taken port p)).acknowledged 0x03 p stOk) :=
      congrArg Host.Outcome.next (mgmtArrive_manages h (takeJoinAck_accepted src routes result ha hm hy))
    obtain ⟨fab, made, manager, system, confirmed, joined⟩ := acceptedJoin_spec bd a m y (s.taken port p)
    obtain ⟨fab', sent, manager', system', confirmed', joined'⟩ := acknowledged_managers (acceptedJoin bd a m y (s.taken port p)) 0x03 p stOk
    rw [made] at manager' system' confirmed' joined'
    rw [sent, made, taken] at row
    rw [taken] at joined
    exact ⟨_, row, rfl, manager'.trans manager, system'.trans system, confirmed'.trans confirmed, rfl,
      fun locked forward => joined'.trans (joined locked forward), rfl⟩
  case denied => exact congrArg Host.Outcome.next (mgmtArrive_manages h (takeJoinAck_refused src routes result))
  case early =>
    rintro ⟨joined, -, busy, due⟩
    rcases early with h | h | h
    · exact busy h
    · simp [h] at joined
    · simp [h] at due
  case heartbeat =>
    obtain ⟨ps, taken⟩ := taken_ports port p s
    have row : exec (.heartbeat port p) s = .next ((modMember src (renewed bd (s.taken port p).tb.nowU) (s.taken port p)).acknowledged 0x04 p stOk) :=
      congrArg Host.Outcome.next (mgmtArrive_manages h rfl)
    have now : (s.taken port p).tb.nowU = s.tb.nowU := by rw [taken]
    have same (x : BitVec 12) : findMember (s.taken port p) x = findMember s x := by rw [taken]; rfl
    refine ⟨_, row, ?_, fun x hx => ?_, ?_⟩
    · exact ((taken_fab port p s).trans ((modMember_fab _ _ _).trans (acknowledged_fab _ _ _ _))).frame
    · rw [findMember_acknowledged, findMember_modMember_ne (renewed_addr bd _) hx, same]
    · rw [findMember_acknowledged, findMember_modMember_self (renewed_addr bd _), same, known, now]
      exact congrArg some (if_neg (by simp [here]))
  case quiet =>
    refine congrArg Host.Outcome.next ?_
    simp only [known, early, Bool.false_eq_true, and_false, if_false]
  case lost =>
    have row : exec (.moduleLost a) s = .next (loseMember a s) := by
      refine congrArg Host.Outcome.next ?_
      simp only [known, manager, here, silent, ne_eq, not_false_eq_true, and_self, if_true]
    obtain ⟨self, others, told, free⟩ := loseMember_spec known
    exact ⟨_, row, self, others, told, free.frame⟩
  case leave =>
    obtain ⟨ps, taken⟩ := taken_ports port p s
    have known' : findMember (s.taken port p) a = some m := by rw [taken]; exact known
    obtain ⟨self, others, told, free⟩ := loseMember_spec known'
    refine ⟨_, exec_leaveMessage h known manager here, (findMember_acknowledged _ _ _ _ _).trans self,
      fun x hx => (findMember_acknowledged _ _ _ _ _).trans ((others x hx).trans (by rw [taken]; rfl)), fun x hx => ?_, ?_⟩
    · exact (told x (by rw [taken]; exact hx)).acknowledged _ _ _
    · exact ((taken_fab port p s).fabFree.trans (free.trans (acknowledged_fab _ _ _ _).fabFree)).frame

end Sys2Proof.Machine
end

section
/-!
Beacons and acknowledgements (O44, R327, R332, R352).
-/
namespace Sys2Proof.Machine

/-! ### Messages without an acknowledgement (R352) -/

/-- R352: a message of a code that is not acknowledged takes the next number, and no message waits for it. -/
theorem mgmtSend_unacked {code : Nat} (acked : mgmtAcked code = false) (dst : BitVec 12) (bd : Bytes) (s : State) :
    ∃ ports outbox holds, mgmtSend dst code bd s =
      { s with fab := { s.fab with ports := ports, outbox := outbox, holds := holds, mseq := s.fab.mseq + 1 } } := by
  obtain ⟨p, sent⟩ := mgmtSend_queue dst code bd s
  obtain ⟨ports, outbox, holds, frame⟩ := sendPacket_packet p (queueMgmt dst code bd s)
  refine ⟨ports, outbox, holds, sent.trans (frame.trans ?_)⟩
  simp only [queueMgmt, acked, Bool.false_eq_true, if_false]

/-- R332: a beacon to each address of a list. -/
theorem foldl_beacons (bd : Bytes) (l : List (BitVec 12)) (s : State) : ∃ ports outbox holds,
    l.foldl (fun s a => mgmtSend a 0x06 bd s) s = { s with fab := { s.fab with
      ports := ports, outbox := outbox, holds := holds, mseq := s.fab.mseq + BitVec.ofNat 32 l.length } } := by
  induction l generalizing s with
  | nil => exact ⟨s.fab.ports, s.fab.outbox, s.fab.holds, by simp⟩
  | cons a l ih =>
    obtain ⟨_, _, _, first⟩ := mgmtSend_unacked (code := 0x06) rfl a bd s
    obtain ⟨ports, outbox, holds, rest⟩ := ih (mgmtSend a 0x06 bd s)
    refine ⟨ports, outbox, holds, rest.trans ?_⟩
    have count : s.fab.mseq + 1 + BitVec.ofNat 32 l.length = s.fab.mseq + BitVec.ofNat 32 (a :: l).length := by
      rw [List.length_cons, BitVec.ofNat_add]
      ac_rfl
    rw [first, ← count]

/-! ### Beacons (R332) -/

/-- R329: a module that asks to join a manager has a JOIN to it that waits. -/
theorem sendJoin_told (m : BitVec 12) (s : State) : Told 0x02 m (sendJoin m s) := by
  unfold sendJoin
  split
  next waits =>
    obtain ⟨x, hx, is⟩ := List.any_eq_true.mp waits
    rw [Bool.and_eq_true, beq_iff_eq, beq_iff_eq] at is
    exact ⟨x, hx, is⟩
  next => exact mgmtSend_told rfl (by omega) _ _ _

/-- R332: a module that heeds a manager's beacon. -/
def heed (m : BitVec 12) (s : State) : State := sendJoin m { s with fab := { s.fab with beaconFrom := some m } }

theorem heed_spec (m : BitVec 12) (s : State) : FabOnly s (heed m s) ∧ (heed m s).fab.beaconFrom = some m ∧ Told 0x02 m (heed m s) := by
  refine ⟨FabOnly.trans (b := { s with fab := { s.fab with beaconFrom := some m } }) ⟨_, rfl⟩ (sendJoin_fab m _), ?_, sendJoin_told m _⟩
  unfold heed
  obtain ⟨_, _, _, _, _, _, sent⟩ := (sendJoin_messages m { s with fab := { s.fab with beaconFrom := some m } }).frame
  rw [sent]

section
variable {s : State} {bd : Bytes} {m : BitVec 12} (src : BitVec 12)

theorem takeBeacon_worker (addr : addrOf (field bd 0 2) = some m) (pod : podOf s.id m = podOf s.id s.id.addr) (other : m ≠ s.id.addr)
    (manager : field bd 2 1 ≠ 0) (worker : s.id.role = .worker) : takeBeacon src bd s = (stOk, heed m s) := by
  simp only [takeBeacon, addr, pod, other, manager, worker, ne_eq, not_true_eq_false, or_self, if_false]
  rfl

/-- R327: a manager that hears of one with a lower address. -/
def yieldTo (m : BitVec 12) (s : State) : State := logEntry 0x000C 0 (leBytes 2 m.toNat) { s with id := { s.id with role := .worker } }

theorem takeBeacon_higher (addr : addrOf (field bd 0 2) = some m) (pod : podOf s.id m = podOf s.id s.id.addr) (other : m ≠ s.id.addr)
    (manager : field bd 2 1 ≠ 0) (role : s.id.role ≠ .worker) (lower : m < s.id.addr) :
    takeBeacon src bd s = (stOk, heed m (yieldTo m s)) := by
  unfold takeBeacon
  rw [addr]
  dsimp only
  rw [if_neg (by simp [pod, other, manager])]
  cases r : s.id.role with
  | worker => exact absurd r role
  | podManager => simp only [lower, if_true]; rfl
  | systemManager => simp only [lower, if_true]; rfl

theorem takeBeacon_lower (addr : addrOf (field bd 0 2) = some m) (pod : podOf s.id m = podOf s.id s.id.addr) (other : m ≠ s.id.addr)
    (manager : field bd 2 1 ≠ 0) (role : s.id.role ≠ .worker) (higher : s.id.addr < m) : takeBeacon src bd s = (stOk, s) := by
  have stays : ¬m < s.id.addr := by bv_omega
  unfold takeBeacon
  rw [addr]
  dsimp only
  rw [if_neg (by simp [pod, other, manager])]
  cases r : s.id.role with
  | worker => exact absurd r role
  | podManager => simp only [stays, if_false, r]
  | systemManager => simp only [stays, if_false, r]

end

/-! ### Acknowledgements and resends (R352) -/

theorem takeMgmtAck_idle {s : State} (h : s.deferred = []) (src : BitVec 12) (bd : Bytes) : takeMgmtAck src bd s = (stOk, { s with
    fab := { s.fab with unacked := s.fab.unacked.filter fun u => !(u.mseq == BitVec.ofNat 32 (field bd 0 4) && u.dst == src) } }) := by
  unfold takeMgmtAck
  dsimp only
  split
  · rw [h]
    rfl
  next absent =>
    have all : s.fab.unacked.filter (fun u => !(u.mseq == BitVec.ofNat 32 (field bd 0 4) && u.dst == src)) = s.fab.unacked := by
      refine List.filter_eq_self.mpr fun u hu => ?_
      simp only [List.any_eq_true, not_exists, not_and, Bool.not_eq_true] at absent
      rw [absent u hu]
      rfl
    rw [all]

/-- R352: a message tried once more. -/
def retried (now : Nat) (u : MgmtOut) : MgmtOut := { u with tries := u.tries + 1, sentU := now }

/-- R352: the message of a number is tried once more. -/
def retry (n : BitVec 32) (s : State) : State :=
  { s with fab := { s.fab with unacked := s.fab.unacked.map fun v => if v.mseq == n then retried s.tb.nowU v else v } }

theorem find_retry (n : BitVec 32) (s : State) : (retry n s).fab.unacked.find? (fun v => v.mseq == n) =
    (s.fab.unacked.find? fun v => v.mseq == n).map (retried s.tb.nowU) := by
  unfold retry
  dsimp only
  rw [List.find?_map]
  have same : ((fun v : MgmtOut => v.mseq == n) ∘ fun v => if (v.mseq == n) = true then retried s.tb.nowU v else v) =
      fun v => v.mseq == n := by
    funext v
    rw [Function.comp]
    split <;> rfl
  rw [same]
  refine Option.map_congr fun v hv => ?_
  have hit := List.find?_some hv
  exact if_pos hit

/-! ### A packet for the module itself (R316) -/

theorem dimHop_self {i : Ident} {a : BitVec 12} {d : Nat} (h : coord a d < dimSize i d) : dimHop i a a d = none := by
  unfold dimHop
  dsimp only
  rw [Nat.mod_eq_of_lt h, Nat.add_sub_cancel_left, Nat.mod_self]
  rfl

theorem routePort_self {i : Ident} {a : BitVec 12} (h : inTorus i a = true) : routePort i a a = none := by
  simp only [inTorus, List.all_cons, List.all_nil, Bool.and_true, Bool.and_eq_true, decide_eq_true_eq] at h
  obtain ⟨x, y, z⟩ := h
  simp only [routePort, dimHop_self x, dimHop_self y, dimHop_self z]

theorem dstAddr_setWidth (a : BitVec 12) : dstAddr (a.setWidth 16) = a := by
  refine BitVec.eq_of_toNat_eq ?_
  rw [dstAddr, BitVec.extractLsb'_toNat, BitVec.toNat_setWidth]
  have := a.isLt
  simp only [Nat.shiftRight_zero]
  omega

theorem dstEdge_setWidth (a : BitVec 12) : dstEdge (a.setWidth 16) = 0 := by
  unfold dstEdge bits
  rw [BitVec.toNat_setWidth]
  have := a.isLt
  omega

/-- R316: a packet to the module itself, whose destination no change of route holds, arrives on port 8. -/
theorem sendPacket_self {s : State} {p : Packet} (free : isHeld s (dstAddr p.dst) = false) (here : dstAddr p.dst = s.id.addr)
    (edge : dstEdge p.dst = 0) (inside : inTorus s.id (dstAddr p.dst) = true) :
    sendPacket p s = sendSelf { p with flags := p.flags &&& 0xEF, wp := 0 } s := by
  have direct : packetWpActive { p with flags := p.flags &&& 0xEF, wp := 0 } = false := by simp [packetWpActive]
  have target : routePort s.id s.id.addr (dstAddr p.dst) = none := by rw [here] at inside ⊢; exact routePort_self inside
  unfold sendPacket injectNow
  dsimp only
  rw [free, if_neg (by simp), if_pos (by simp [here])]
  unfold routeOut
  dsimp only
  simp only [direct, inside, Bool.not_true, Bool.false_eq_true, if_false, target, edge]

end Sys2Proof.Machine
end

section
/-!
O44, from the rows of beacons, acknowledgements and resends.
-/
namespace Sys2Proof.Machine

/-- Settles O44: beacons sent and heard, messages acknowledged, and messages sent again or given up. -/
theorem managersAnnounceAndMessagesAreAcknowledged : Obligations.ManagersAnnounceAndMessagesAreAcknowledged := by
  unfold Obligations.ManagersAnnounceAndMessagesAreAcknowledged
  refine ⟨fun s => ⟨fun role in40 due => ?send, fun early => congrArg Host.Outcome.next (if_neg ?early)⟩,
    fun s port p src m bd h addr pod other manager => ⟨fun worker => ?worker, fun role lower => ?higher, fun role higher => ?lower⟩,
    fun s port p src bd h idle => ?ack, fun s n u found => ⟨fun early => ?wait, fun due few => ?again, fun due many => ?giveUp⟩⟩
  case send =>
    obtain ⟨ports, outbox, holds, sent⟩ := foldl_beacons (addrField (some s.id.addr) ++ leBytes 1 (roleCode s.id.role) ++ leBytes 5 0)
      (podMembers s.id) { s with fab := { s.fab with beaconU := s.tb.nowU } }
    exact ⟨_, congrArg Host.Outcome.next ((if_pos ⟨role, in40, due⟩).trans sent), rfl, rfl, rfl, rfl⟩
  case early =>
    rintro ⟨role, -, due⟩
    rcases early with h | h
    · exact role h
    · simp [h] at due
  case worker =>
    obtain ⟨ps, taken⟩ := taken_ports port p s
    have row : exec (.beacon port p) s = .next ((heed m (s.taken port p)).acknowledged 0x06 p stOk) :=
      congrArg Host.Outcome.next (mgmtArrive_manages h (takeBeacon_worker src addr (by rw [taken]; exact pod) (by rw [taken]; exact other)
        manager (by rw [taken]; exact worker)))
    obtain ⟨fab, heeds, told⟩ := heed_spec m (s.taken port p)
    exact ⟨_, row, heeds, told, ((taken_fab port p s).trans (fab.trans (acknowledged_fab _ _ _ _))).frame⟩
  case higher =>
    obtain ⟨ps, taken⟩ := taken_ports port p s
    have row : exec (.beacon port p) s = .next ((heed m (yieldTo m (s.taken port p))).acknowledged 0x06 p stOk) :=
      congrArg Host.Outcome.next (mgmtArrive_manages h (takeBeacon_higher src addr (by rw [taken]; exact pod) (by rw [taken]; exact other)
        manager (by rw [taken]; exact role) (by rw [taken]; exact lower)))
    obtain ⟨fab, heeds, told⟩ := heed_spec m (yieldTo m (s.taken port p))
    obtain ⟨g, frame⟩ := fab.trans (acknowledged_fab (heed m (yieldTo m (s.taken port p))) 0x06 p stOk)
    have beaconFrom : ((heed m (yieldTo m (s.taken port p))).acknowledged 0x06 p stOk).fab.beaconFrom = some m := heeds
    have asked := told.acknowledged 0x06 p stOk
    rw [frame, taken] at row
    rw [frame] at beaconFrom asked
    exact ⟨_, row, rfl, beaconFrom, asked, rfl, rfl⟩
  case lower =>
    obtain ⟨ps, taken⟩ := taken_ports port p s
    exact congrArg Host.Outcome.next (mgmtArrive_manages h (takeBeacon_lower (s := s.taken port p) src addr (by rw [taken]; exact pod)
      (by rw [taken]; exact other) manager (by rw [taken]; exact role) (by rw [taken]; exact higher)))
  case ack =>
    obtain ⟨ps, taken⟩ := taken_ports port p s
    have row : exec (.mgmtAck port p) s = .next _ :=
      congrArg Host.Outcome.next (mgmtArrive_manages h (takeMgmtAck_idle (s := s.taken port p) (by rw [taken]; exact idle) src bd))
    rw [taken] at row
    exact ⟨_, row, rfl, rfl⟩
  case wait =>
    refine congrArg Host.Outcome.next ?_
    simp only [found, early, Bool.not_false, if_true]
  case again =>
    have row : exec (.mgmtResend n) s =
        .next (sendPacket (mkPacket (retry n s) ptMgmt (u.dst.setWidth 16) 0 0 0 0 u.payload) (retry n s)) := by
      refine congrArg Host.Outcome.next ?_
      simp only [found, due, Bool.not_true, Bool.false_eq_true, if_false, few, if_true]
      rfl
    obtain ⟨ports, outbox, holds, sent⟩ :=
      sendPacket_packet (mkPacket (retry n s) ptMgmt (u.dst.setWidth 16) 0 0 0 0 u.payload) (retry n s)
    have waits := (find_retry n s).trans (congrArg _ found)
    refine ⟨_, row, ?_, fun free here inside => ?_, ?_⟩
    · rw [sent]
      exact waits
    · have addr := dstAddr_setWidth u.dst
      rw [sendPacket_self (s := retry n s) (p := mkPacket (retry n s) ptMgmt (u.dst.setWidth 16) 0 0 0 0 u.payload)
        ((congrArg _ addr).trans free) (addr.trans here) (dstEdge_setWidth _) ((congrArg _ addr).trans inside)]
      exact ⟨_, rfl, rfl⟩
    · rw [sent]
      rfl
  case giveUp =>
    refine congrArg Host.Outcome.next ?_
    simp only [found, due, Bool.not_true, Bool.false_eq_true, if_false, not_lt.mpr many]

end Sys2Proof.Machine
end

section
/-!
Notices (O45): who hears of a reset, of a lost module and of a module in HOLDOVER (R326, R331, R353, R401, R179).
-/
namespace Sys2Proof.Machine

/-! ### The events of a notice (R401) -/

/-- An event says nothing of the fabric and of the stage-queue ends, and leaves them. -/
theorem postEvent_fab_ends (fab : Fabric) (ends : Tbl StageEnd) (fn code status : Nat) (bd : Bytes) (s : State) :
    postEvent fn code status bd { s with fab := fab, ends := ends } = { postEvent fn code status bd s with fab := fab, ends := ends } := by
  unfold postEvent postEventF raiseMsix
  dsimp only [modFn, getFn, message, State.ftw]
  split
  · rfl
  · split
    · split <;> rfl
    · rfl

theorem postAffected_host (code kind : Nat) (a : BitVec 12) (s : State) : HostOnly s (postAffected code kind a s) := by
  unfold postAffected
  refine foldl_host (fun s c => ?_) _ s
  split
  · exact postEvent_host _ _ _ _ s
  · exact .refl s

section
variable {code kind : Nat} {a : BitVec 12} {s : State}

theorem postAffected_none (h : s.groups.filter (fun g => g.2.installed && g.2.table.any fun e => rankModule e == a) = []) :
    postAffected code kind a s = s := by
  unfold postAffected
  dsimp only
  rw [h]
  rfl

theorem postAffected_one {g : Nat × Group}
    (h : s.groups.filter (fun g => g.2.installed && g.2.table.any fun e => rankModule e == a) = [g]) :
    postAffected code kind a s = postRank code kind a g.2.ctx g.1 s := by
  unfold postAffected
  dsimp only
  rw [h]
  simp [List.eraseDups_cons]

end

/-- R353, R401, R179: the notice of a code: its event, the greatest KIND that it may have, and the ends that it loses. -/
def takeNotice (code maxKind : Nat) (src : BitVec 12) (bd : Bytes) (s : State) : Nat × State :=
  let r := takeRank (0x8008 + code) maxKind src bd s
  (r.1, if code = 0x09 ∧ r.1 = stOk then losePeer (BitVec.ofNat 12 (field bd 0 2)) r.2 else r.2)

theorem exec_notice {s : State} {port code kind : Nat} {p : Packet} {src : BitVec 12} {bd : Bytes} {i : Instr}
    (h : (i, code, kind) ∈ [(Instr.rankReset port p, 0x08, 1), (.rankLost port p, 0x09, 0), (.timeDegraded port p, 0x0A, 0)])
    (m : s.manages port code p src bd) {st : Nat} {v : State} (took : takeNotice code kind src bd (s.taken port p) = (st, v)) :
    exec i s = .next (v.acknowledged code p st) := by
  simp only [List.mem_cons, Prod.mk.injEq, List.not_mem_nil, or_false] at h
  rcases h with ⟨rfl, rfl, rfl⟩ | ⟨rfl, rfl, rfl⟩ | ⟨rfl, rfl, rfl⟩
  · exact congrArg Host.Outcome.next (mgmtArrive_manages m took)
  · refine congrArg Host.Outcome.next (mgmtArrive_manages m (took ▸ ?_))
    unfold takeNotice
    simp only [true_and]
  · exact congrArg Host.Outcome.next (mgmtArrive_manages m took)

/-- R401, R179: what a notice about a module does. -/
def noticed (code kind : Nat) (a : BitVec 12) (s : State) : State :=
  if code = 0x09 then losePeer a (postAffected (0x8008 + code) kind a s) else postAffected (0x8008 + code) kind a s

theorem takeNotice_about {code kind : Nat} {bd : Bytes} {a : BitVec 12} {s : State} (src : BitVec 12) (addr : addrOf (field bd 0 2) = some a)
    (most : field bd 2 1 ≤ kind) : takeNotice code kind src bd s = (stOk, noticed code (field bd 2 1) a s) := by
  have same : BitVec.ofNat 12 (field bd 0 2) = a := by
    unfold addrOf at addr
    split at addr
    · cases addr
    · exact Option.some.inj addr
  unfold takeNotice takeRank noticed
  rw [addr, same]
  dsimp only
  rw [if_neg (by omega)]
  simp only [and_true]

/-- Of the events, a notice leaves what the event of its group is; of the ends, those of the lost peer change. -/
theorem noticed_ends (code kind : Nat) (a : BitVec 12) (s : State) : (noticed code kind a s).ends = if code = 0x09 then s.ends.map (fun e =>
      if e.2.peer == a then (e.1, { e.2 with lost := true, unacked := [], fencedU := none }) else e) else s.ends := by
  obtain ⟨fns, msix, posted⟩ := postAffected_host (0x8008 + code) kind a s
  unfold noticed losePeer
  rw [posted]
  split <;> rfl

/-- A notice whose events make the state u of s leaves of the machine u, but for the ends. -/
theorem noticed_of {code kind : Nat} {a : BitVec 12} {s u : State} (h : postAffected (0x8008 + code) kind a s = u) :
    ∃ ends, noticed code kind a s = { u with ends := ends } := by
  unfold noticed losePeer
  rw [h]
  split
  · exact ⟨_, rfl⟩
  · exact ⟨u.ends, rfl⟩

end Sys2Proof.Machine
end

section
/-!
O45, from the notices and the reports of a member in HOLDOVER.
-/
namespace Sys2Proof.Machine

/-- R326: a member in HOLDOVER from a time on. -/
def holding (now : Nat) (m : Member) : Member := { m with holdU := some (m.holdU.getD now) }

/-- R326: a member whose HOLDOVER has lasted. -/
def markDegraded (m : Member) : Member := { m with degraded := true }

section
variable {s : State} {src : BitVec 12} {bd : Bytes}

theorem exec_resetNotice {port : Nat} {p : Packet} (h : s.manages port 0x07 p src bd) (kind : field bd 0 1 ≤ 1) :
    exec (.resetNotice port p) s = .next ((if s.id.role ≠ .worker then notifyHolders 0x08 (field bd 0 1) src (s.taken port p)
      else s.taken port p).acknowledged 0x07 p stOk) := by
  refine congrArg Host.Outcome.next (mgmtArrive_manages h ?_)
  obtain ⟨ps, taken⟩ := taken_ports port p s
  rw [if_neg (by omega), taken]

theorem exec_tickLostReport {port : Nat} {p : Packet} (h : s.manages port 0x0B p src bd) (kind : field bd 8 1 ≤ 1) :
    exec (.tickLostReport port p) s = .next ((if s.id.role = .worker ∨ field bd 8 1 = 1 then s.taken port p
      else sendCovers (modMember src (holding s.tb.nowU) (s.taken port p))).acknowledged 0x0B p stOk) := by
  refine congrArg Host.Outcome.next (mgmtArrive_manages h ?_)
  obtain ⟨ps, taken⟩ := taken_ports port p s
  rw [if_neg (by omega), taken]
  dsimp only
  by_cases worker : s.id.role = .worker
  · rw [if_pos worker, if_pos (.inl worker)]
  · rw [if_neg worker]
    by_cases lost : field bd 8 1 = 1
    · rw [if_pos lost, if_pos (.inr lost)]
    · rw [if_neg lost, if_neg (not_or.mpr ⟨worker, lost⟩)]
      rfl

end

/-- Settles O45: the notices, the reports of lost ticks, and the end of HOLDOVER. -/
theorem noticesReachTheirContexts : Obligations.NoticesReachTheirContexts := by
  unfold Obligations.NoticesReachTheirContexts
  refine ⟨fun s port p src bd h kind => ?reset, fun s port code kind p src a bd i row h addr most => ?notice,
    fun s port p src bd m h => ⟨fun worker kind => ?workerReport, fun manager kind known => ?report⟩,
    fun s a m t0 known since manager here => ⟨fun early => ?early, fun new due => ?timeout⟩⟩
  case reset =>
    have same : holdersOf (s.taken port p) src = holdersOf s src := by
      obtain ⟨ps, taken⟩ := taken_ports port p s
      rw [taken]
      rfl
    refine ⟨_, exec_resetNotice h kind, ?_, fun manager x hx => ?_⟩
    · refine FabOnly.frame ((taken_fab port p s).trans (FabOnly.trans ?_ (acknowledged_fab _ _ _ _)))
      split
      · exact notifyHolders_fab _ _ _ _
      · exact .refl _
    · rw [if_pos manager]
      exact (notifyHolders_told _ _ _ rfl (by omega) (same ▸ hx)).acknowledged _ _ _
  case notice =>
    obtain ⟨ps, taken⟩ := taken_ports port p s
    have step := exec_notice row h (takeNotice_about src addr most)
    obtain ⟨g, sent⟩ := acknowledged_fab (noticed code (field bd 2 1) a (s.taken port p)) code p stOk
    rw [sent] at step
    refine ⟨?_, _, step, ?_⟩
    · rintro gs rfl
      refine ⟨fun none' => ?_, fun e one => ?_⟩
      · obtain ⟨ends, told⟩ := noticed_of (code := code) (kind := field bd 2 1) (a := a) (s := s.taken port p)
          (postAffected_none (by rw [taken]; exact none'))
        rw [told, taken] at step
        exact ⟨_, step, rfl⟩
      · obtain ⟨ends, told⟩ := noticed_of (code := code) (kind := field bd 2 1) (a := a) (s := s.taken port p)
          (postAffected_one (g := e) (by rw [taken]; exact one))
        refine ⟨_, _, step, ?_, rfl⟩
        rw [told, taken]
        exact congrArg (fun u : State => { u with fab := g, ends := ends })
          (postEvent_fab_ends { s.fab with ports := ps } s.ends (getCtx s e.2.ctx).owner (0x8008 + code) 0 _ s)
    · rw [noticed_ends, taken]
  case workerReport =>
    have step := exec_tickLostReport h kind
    rw [if_pos (.inl worker)] at step
    exact step
  case report =>
    have step := exec_tickLostReport h (kind.trans_le (by omega))
    rw [if_neg (not_or.mpr ⟨manager, by omega⟩)] at step
    have covers := sendCovers_messages (modMember src (holding s.tb.nowU) (s.taken port p))
    refine ⟨_, step, ?_, ?_⟩
    · obtain ⟨ps, taken⟩ := taken_ports port p s
      have known' : findMember (s.taken port p) src = some m := by rw [taken]; exact known
      rw [findMember_acknowledged, covers.findMember_eq, findMember_modMember_self (f := holding s.tb.nowU) fun _ => rfl, known']
      rfl
    · exact ((taken_fab port p s).fabFree.trans ((modMember_fab _ _ _).fabFree.trans
        (covers.fabFree.trans (acknowledged_fab _ _ _ _).fabFree))).frame
  case early =>
    refine congrArg Host.Outcome.next ?_
    simp only [known, since]
    refine if_neg ?_
    rintro ⟨-, -, new, due⟩
    rcases early with h | h
    · simp [h] at new
    · simp [h] at due
  case timeout =>
    have row : exec (.holdoverTimeout a) s = .next (notifyHolders 0x0A 0 a (modMember a markDegraded s)) := by
      refine congrArg Host.Outcome.next ?_
      simp only [known, since]
      exact if_pos ⟨manager, here, new, due⟩
    have sent := notifyHolders_messages 0x0A 0 a (modMember a markDegraded s)
    refine ⟨_, row, ?_, fun x hx => notifyHolders_told 0 a _ rfl (by omega) hx, ?_⟩
    · rw [sent.findMember_eq, findMember_modMember_self (f := markDegraded) fun _ => rfl, known]
      rfl
    · exact ((modMember_fab a markDegraded s).trans (notifyHolders_fab _ _ _ _)).frame

end Sys2Proof.Machine
end

section
/-!
Firmware slots and the live update (O50, R354-R358).
-/
namespace Sys2Proof.Machine

/-! ### The messages of the firmware slots (R355-R357) -/

section
variable {s : State} {bd : Bytes} (ch tag : Nat)

theorem doFwStage_taken (owns : ownsCtx s ch (field bd 0 1) = true) (steady : s.id.trial = false) :
    doFwStage ch tag bd s = .later [] 0 (setOther { otherSlot s with st := .invalid } s) := if_neg (by simp [owns, steady])

theorem doFwStage_refused (h : ownsCtx s ch (field bd 0 1) = false ∨ s.id.trial = true) : doFwStage ch tag bd s = .now 0x0050 [] s :=
  if_pos (by simpa using h)

theorem doFwActivate_live (frame : field bd 8 8 < 2 ^ 48) (valid : (otherSlot s).st = .valid) (mode : field bd 0 1 = 0) :
    doFwActivate ch tag bd s = .later [] 0 s := (if_neg (by simp [valid]; omega)).trans (if_pos mode)

theorem doFwActivate_restart (frame : field bd 8 8 < 2 ^ 48) (valid : (otherSlot s).st = .valid) (mode : field bd 0 1 = 1) :
    doFwActivate ch tag bd s = .now 0 [] { s with id := { s.id with trialNext := true } } :=
  (if_neg (by simp [valid]; omega)).trans (if_neg (by omega))

theorem doFwActivate_refused (h : 1 < field bd 0 1 ∨ (otherSlot s).st ≠ .valid) : doFwActivate ch tag bd s = .now 0x0052 [] s :=
  if_pos (h.imp_right .inr)

theorem doFwCommit_trial (h : s.id.trial = true) :
    doFwCommit ch tag bd s = .now 0 [] { s with id := { s.id with trial := false } } := if_pos h

theorem doFwCommit_steady (h : s.id.trial = false) : doFwCommit ch tag bd s = .now 0x0052 [] s := if_neg (by simp [h])

end

/-! ### The handover (R356) -/

/-- R344, R356: a channel that latched nothing stays as it was. -/
theorem answerLatched_idle {s : State} {ch : Nat} (orphans : (getFn s ch).orphans = []) (latched : (getFn s ch).latched = none)
    (busy : (getFn s ch).busy = false) : ∃ fns, answerLatched s ch = { s with fns := fns } ∧ ∀ f, getFn (answerLatched s ch) f = getFn s f := by
  have cleared : answerLatched s ch = modFn ch (fun f => { f with orphans := [], latched := none, busy := false }) s := by
    unfold answerLatched
    dsimp only
    rw [orphans, latched]
    rfl
  refine ⟨_, cleared, fun f => ?_⟩
  rw [cleared]
  by_cases same : f = ch
  · rw [same, getFn_modFn_self]
    generalize getFn s ch = x at orphans latched busy ⊢
    cases x
    simp_all
  · exact Tbl.get_put_ne same

/-- R344, R356: channels that latched nothing, one after the other. -/
theorem foldl_answerLatched_idle (l : List Nat) {s : State}
    (idle : ∀ f, (getFn s f).orphans = [] ∧ (getFn s f).latched = none ∧ (getFn s f).busy = false) :
    ∃ fns, l.foldl answerLatched s = { s with fns := fns } ∧ ∀ f, getFn (l.foldl answerLatched s) f = getFn s f := by
  induction l generalizing s with
  | nil => exact ⟨s.fns, rfl, fun _ => rfl⟩
  | cons ch l ih =>
    obtain ⟨orphans, latched, busy⟩ := idle ch
    obtain ⟨_, first, same⟩ := answerLatched_idle orphans latched busy
    obtain ⟨fns, rest, others⟩ := ih (s := answerLatched s ch) fun f => by rw [same]; exact idle f
    refine ⟨fns, ?_, fun f => (others f).trans (same f)⟩
    rw [List.foldl_cons, rest, first]

/-- R356: the frame at which the engines switch. -/
theorem switchTime_eq (s : State) (n : Nat) : switchTime s n = if n = 0 ∨ n * 65536 ≤ s.ftw.toNat then (s.tb.frame + 1) ++ (0 : BitVec 16)
    else BitVec.ofNat 64 (n * 65536) := by
  simp only [switchTime, State.reachedN, decide_eq_true_eq]

/-- R356: the module after a handover whose update names its frame. -/
def switchDue (d : Deferred) (s : State) : State :=
  { s with mb := .ready, activating := some (d.ch, d.tag, switchTime s (field d.req 8 8), false) }

/-- R356: the handover ends with the switch scheduled, and nothing latched is to be answered. -/
theorem exec_handoverEnd {s : State} {d : Deferred} (during : s.mb = .handover) (calm : s.rst.stage = .none) (held : s.mctp.held = [])
    (idle : ∀ f, (getFn s f).orphans = [] ∧ (getFn s f).latched = none ∧ (getFn s f).busy = false) (live : liveUpdate s = some d) :
    ∃ fns, exec .handoverEnd s = .next { switchDue d s with fns := fns } ∧ ∀ f, getFn { switchDue d s with fns := fns } f = getFn s f := by
  have schedule : scheduleSwitch { s with mb := .ready } = switchDue d s := by
    have live' : liveUpdate { s with mb := .ready } = some d := live
    unfold scheduleSwitch
    rw [live']
    rfl
  have whole : { switchDue d s with mctp := { (switchDue d s).mctp with held := [] } } = switchDue d s := by
    rw [← held]
    rfl
  obtain ⟨fns, answered, same⟩ := foldl_answerLatched_idle (List.range 32) (s := switchDue d s) idle
  refine ⟨fns, congrArg Host.Outcome.next ((if_neg (not_not_intro during)).trans ?_), fun f => ?_⟩
  · dsimp only
    rw [schedule, whole, answered]
    have none' : (switchDue d s).mctp.held = [] := held
    rw [none']
    exact if_neg (by simp [switchDue, calm])
  · rw [answered] at same
    exact same f

/-! ### The switch and the trial (R356, R357) -/

theorem liveUpdate_filter {s : State} (h : liveUpdate s = none) :
    s.deferred.filter (fun e => !(e.code == 0x0502 && e.begun)) = s.deferred := by
  refine List.filter_eq_self.mpr fun e he => ?_
  have out := List.find?_eq_none.mp h e he
  rw [Bool.not_eq_true] at out
  exact congrArg not out

/-- R356: the module once its engines have switched. -/
def switched (s : State) : State :=
  { s with activating := none, id := { s.id with activeB := !s.id.activeB, trial := true, trialNext := false } }

/-- R356, R351: the update that asked for the switch is answered. -/
def answerUpdate (s : State) : State :=
  match liveUpdate s with
  | some d => postMsgDone d stOk [] { s with deferred := s.deferred.filter fun e => !(e.code == 0x0502 && e.begun) }
  | none => s

theorem answerUpdate_spec (s : State) : ∃ fns msix, answerUpdate s =
    { s with deferred := s.deferred.filter (fun e => !(e.code == 0x0502 && e.begun)), fns := fns, msix := msix } := by
  unfold answerUpdate
  cases live : liveUpdate s with
  | some d => exact postMsgDone_host d stOk [] { s with deferred := s.deferred.filter fun e => !(e.code == 0x0502 && e.begun) }
  | none =>
    rw [liveUpdate_filter live]
    exact ⟨s.fns, s.msix, rfl⟩

/-- R356: the engines have switched, and the update that asked for it is answered. -/
theorem exec_fwActivated {s : State} {a : Nat × BitVec 32 × W64 × Bool} (h : s.activating = some a) (done : a.2.2.2 = true)
    (fresh : (s.cmds.any fun c => c.oldUcode) = false) : ∃ fns msix, exec .fwActivated s = .next { switched s with
      deferred := s.deferred.filter (fun e => !(e.code == 0x0502 && e.begun)), fns := fns, msix := msix } := by
  have row : exec .fwActivated s = .next (answerUpdate (postAll 0x8030 0 (activatedBody (switched s)) (switched s))) := by
    refine congrArg Host.Outcome.next ?_
    rw [h]
    dsimp only
    rw [if_neg (by simp [done, fresh])]
    unfold switched
    dsimp only
    generalize postAll _ _ _ _ = u
    rfl
  obtain ⟨_, _, posted⟩ := postAll_host 0x8030 0 (activatedBody (switched s)) (switched s)
  obtain ⟨fns, msix, answered⟩ := answerUpdate_spec (postAll 0x8030 0 (activatedBody (switched s)) (switched s))
  rw [answered, posted] at row
  exact ⟨fns, msix, row⟩

/-- Settles O50: the messages of the slots, the handover and its end, the switch, and the trial that is reverted. -/
theorem firmwareSlotsFollowTheirMessages : Obligations.FirmwareSlotsFollowTheirMessages := by
  unfold Obligations.FirmwareSlotsFollowTheirMessages
  refine ⟨?messages, fun s => ⟨fun live idle ready calm => congrArg Host.Outcome.next (if_pos ⟨live, idle, ready, calm⟩),
    fun h => congrArg Host.Outcome.next (if_neg ?_), fun d during calm held idle live => ?handover,
    fun h => congrArg Host.Outcome.next (if_pos h), fun a h done fresh => ?switch, fun a h early => ?early,
    fun in40 booting trial due => ⟨_, congrArg Host.Outcome.next (if_pos ⟨in40, booting, trial, due⟩), rfl, rfl, rfl, rfl⟩,
    fun h => congrArg Host.Outcome.next (if_neg ?_)⟩⟩
  case messages =>
    rintro s _ ch req bd rfl
    have slot : otherSlot (s.given ch req) = otherSlot s := given_reads s ch req (f := otherSlot) fun _ _ => rfl
    have id := given_id s ch req
    refine ⟨fun h => ⟨fun owns steady => ?stage, fun bad => exec_of_now rfl rfl h (doFwStage_refused ch (field req 4 4) (by rwa [given_ownsCtx, id]))⟩,
      fun h => ⟨fun frame valid => ⟨fun mode => ?live, fun mode => ?restart⟩,
        fun bad => exec_of_now rfl rfl h (doFwActivate_refused ch (field req 4 4) (by rwa [slot]))⟩,
      fun h => ⟨fun trial => ?commit, fun steady => exec_of_now rfl rfl h (doFwCommit_steady (bd := bd) ch (field req 4 4) (by rwa [id]))⟩,
      fun h => exec_of_later rfl rfl h rfl⟩
    case stage =>
      rw [← slot]
      exact exec_of_later rfl rfl h (doFwStage_taken ch (field req 4 4) (by rwa [given_ownsCtx]) (by rwa [id]))
    case live => exact exec_of_later rfl rfl h (doFwActivate_live ch (field req 4 4) frame (by rwa [slot]) mode)
    case restart =>
      rw [← id]
      exact exec_of_now rfl rfl h (doFwActivate_restart ch (field req 4 4) frame (by rwa [slot]) mode)
    case commit =>
      rw [← id]
      exact exec_of_now rfl rfl h (doFwCommit_trial (bd := bd) ch (field req 4 4) (by rwa [id]))
  case handover =>
    obtain ⟨fns, row, same⟩ := exec_handoverEnd during calm held idle live
    exact ⟨_, row, rfl, congrArg (fun w => some (d.ch, d.tag, w, false)) (switchTime_eq s _), same, rfl⟩
  case switch =>
    obtain ⟨fns, msix, row⟩ := exec_fwActivated h done fresh
    exact ⟨_, row, rfl, rfl, rfl, rfl⟩
  case early =>
    refine congrArg Host.Outcome.next ?_
    rw [h]
    exact if_pos early
  · rintro ⟨live, -, ready, calm⟩
    rcases h with h | h | h
    · simp [h] at live
    · exact h ready
    · exact h calm
  · rintro ⟨-, booting, trial, due⟩
    rcases h with h | h | h
    · exact h booting
    · simp [h] at trial
    · simp [h] at due

end Sys2Proof.Machine
end

section
/-!
Host access and resets of functions (O55, R336, R337, R339, R423).
-/
namespace Sys2Proof.Machine

/-! ### BAR2 (R339) -/

/-- A write to runs of memory leaves every byte outside them. -/
theorem memRead_pokeRuns_out {runs : List (Nat × Nat)} {bs : Bytes} {m : List Host.Cell} {x : Nat}
    (out : ∀ r ∈ runs, x < r.1 ∨ r.1 + r.2 ≤ x) : memRead (pokeRuns runs bs m) x = memRead m x := by
  induction runs generalizing bs m with
  | nil => rfl
  | cons r runs ih =>
    have here := out r List.mem_cons_self
    have short : (bs.take r.2).length ≤ r.2 := List.length_take_le _ _
    exact (ih fun q hq => out q (List.mem_cons_of_mem _ hq)).trans (memRead_memWriteN_out (by omega))

section
variable {s : State} {fn off len : Nat} {data : Bytes} {write : Bool}

theorem exec_bar2Access_refused (h : hostUp s = false ∨ 2 ^ (getFn s fn).bar2Log < off + len) :
    exec (.bar2Access fn write off len data) s = .next s := by
  refine congrArg Host.Outcome.next (if_neg ?_)
  rintro ⟨up, -, -, within, -⟩
  rcases h with h | h
  · simp [h] at up
  · omega

theorem exec_bar2Access_served (up : hostUp s = true) (in40 : s.sup.in40 = true) (lt : fn < 32) (within : off + len ≤ 2 ^ (getFn s fn).bar2Log)
    (whole : write = true → data.length = len) : exec (.bar2Access fn write off len data) s = .next
      (if fnDrains s fn then bar2None fn write len s else if fn = 0 then bar2Pf write off len data s else bar2Vf fn write off len data s) :=
  congrArg Host.Outcome.next (if_pos ⟨up, in40, lt, within, whole⟩)

theorem bar2Pf_reads {a : Nat} (at' : a = (getFn s 0).bar2Off + off) (window : a + len ≤ 8 * ilBytes s.id) (awake : s.pow.pst ≠ .sleep)
    (hd : anyDiscard s = false) (hp : ∀ h ∈ s.held, h.hint ≠ 2) :
    bar2Pf false off len data s = { s with bus := s.bus ++ [peek s a len] } := by
  have all : min len (8 * ilBytes s.id - a) = len := by omega
  unfold bar2Pf
  dsimp only
  rw [← at', all, if_neg (Nat.lt_irrefl len), if_neg (by simp), touchStacks_awake awake, countReads_undiscarded hd, persistRead_none hp,
    Nat.sub_self, List.replicate_zero, List.append_nil]
  rfl

theorem bar2Pf_writes {a : Nat} (at' : a = (getFn s 0).bar2Off + off) (window : a + len ≤ 8 * ilBytes s.id) (awake : s.pow.pst ≠ .sleep)
    (hd : anyDiscard s = false) (hp : s.pref = []) (whole : data.length = len) :
    bar2Pf true off len data s = { s with mem := pokeRuns (canonRuns s.id (len / 4096 + 2) a len) data s.mem } := by
  have all : min len (8 * ilBytes s.id - a) = len := by omega
  unfold bar2Pf
  dsimp only
  rw [← at', all, if_neg (Nat.lt_irrefl len), if_pos rfl, touchStacks_awake awake, List.take_of_length_le (by omega), store_uncached hd hp, whole]

theorem bar2Vf_none (h : bar2CtxOf s fn = none) : bar2Vf fn write off len data s = bar2None fn write len s := by
  unfold bar2Vf
  dsimp only
  rw [h]

theorem bar2Vf_reads {c : Nat} {bs : Bytes} {e : Eng} (h : bar2CtxOf s fn = some c) (awake : s.pow.pst ≠ .sleep)
    (reads : readV ((getFn s fn).bar2Base + off) len { s := s, ctx := c, owner := 2 * (4096 + fn) + 1 } = .ok bs e) :
    bar2Vf fn false off len data s = { engCommit none e with bus := (engCommit none e).bus ++ [bs] } := by
  unfold bar2Vf
  dsimp only
  rw [h, touchStacks_awake awake]
  dsimp only
  rw [if_neg (by simp), reads]
  rfl

theorem bar2Vf_writes {c : Nat} {e : Eng} (h : bar2CtxOf s fn = some c) (awake : s.pow.pst ≠ .sleep)
    (writes : writeV ((getFn s fn).bar2Base + off) data { s := s, ctx := c, owner := 2 * (4096 + fn) + 1 } = .ok () e) :
    bar2Vf fn true off len data s = engCommit none e := by
  unfold bar2Vf
  dsimp only
  rw [h, touchStacks_awake awake]
  dsimp only
  rw [if_pos rfl, writes]

end

/-! ### Contexts that drain (R336, R402) -/

/-- Contexts have at most begun to drain; of the rest only their commands, with cores and requests, and functions have changed. -/
structure DrainsOnly (s t : State) : Prop where
  frame : t = { s with
    ctxs := t.ctxs, fns := t.fns, cmds := t.cmds, cores := t.cores, saved := t.saved, fab := t.fab, free := t.free }
  owner : ∀ c, (getCtx t c).owner = (getCtx s c).owner
  st : ∀ c, (getCtx t c).st = (getCtx s c).st ∨ (getCtx t c).st = .draining

theorem DrainsOnly.refl (s : State) : DrainsOnly s s := ⟨rfl, fun _ => rfl, fun _ => .inl rfl⟩

theorem DrainsOnly.trans {a b c : State} (h : DrainsOnly a b) (k : DrainsOnly b c) : DrainsOnly a c := by
  refine ⟨?_, fun x => (k.owner x).trans (h.owner x), fun x => ?_⟩
  · rw [k.frame, h.frame]
  · rcases k.st x with same | drains
    · exact (h.st x).imp same.trans same.trans
    · exact .inr drains

theorem DrainsOnly.draining {s t : State} {c : Nat} (h : DrainsOnly s t) (d : (getCtx s c).st = .draining) : (getCtx t c).st = .draining :=
  (h.st c).elim (·.trans d) id

theorem StopOnly.drains {s t : State} (h : StopOnly s t) : DrainsOnly s t := by
  have ctxs (c : Nat) : getCtx t c = getCtx s c := by rw [h]; rfl
  refine ⟨?_, fun c => congrArg Ctx.owner (ctxs c), fun c => .inl (congrArg Ctx.st (ctxs c))⟩
  rw [h]

theorem modCtx_drains {c : Nat} {f : Ctx → Ctx} {s : State} (owner : (f (getCtx s c)).owner = (getCtx s c).owner)
    (st : (f (getCtx s c)).st = .draining) : DrainsOnly s (modCtx c f s) := by
  refine ⟨rfl, fun x => ?_, fun x => ?_⟩
  all_goals by_cases same : x = c
  · rw [same, getCtx_modCtx_self, owner]
  · rw [getCtx_modCtx_ne same]
  · rw [same, getCtx_modCtx_self]
    exact .inr st
  · rw [getCtx_modCtx_ne same]
    exact .inl rfl

theorem beginDrain_drains (c : Nat) (tag : BitVec 32) (quiet : Bool) (s : State) :
    DrainsOnly s (beginDrain c tag quiet s) ∧ (beginDrain c tag quiet s).fns = s.fns := by
  unfold beginDrain
  extract_lets s1 ks
  have stops : StopOnly s1 (ks.foldl (fun s k => stopDraining k s) s1) :=
    foldl_rel StopOnly.refl (fun _ _ _ => StopOnly.trans) (fun s k => stopDraining_only k s) ks s1
  have first : DrainsOnly s s1 := modCtx_drains rfl rfl
  refine ⟨first.trans stops.drains, ?_⟩
  rw [stops]
  rfl

/-- R336: one context of a function that is reset. -/
def drainOne (s : State) (c : Nat) : State :=
  if (getCtx s c).st = .draining then modCtx c (fun x => { x with quiet := true }) s else beginDrain c 0 true s

theorem drainOne_drains (s : State) (c : Nat) : DrainsOnly s (drainOne s c) ∧ (drainOne s c).fns = s.fns := by
  unfold drainOne
  split
  next d => exact ⟨modCtx_drains rfl d, rfl⟩
  next => exact beginDrain_drains _ _ _ _

theorem drainOne_draining (s : State) (c : Nat) : (getCtx (drainOne s c) c).st = .draining := by
  unfold drainOne
  split
  next d => rw [getCtx_modCtx_self]; exact d
  next =>
    obtain ⟨d, -⟩ := beginDrain_spec c 0 true s
    exact d

theorem foldl_drainOne (l : List Nat) (s : State) : DrainsOnly s (l.foldl drainOne s) ∧ (l.foldl drainOne s).fns = s.fns :=
  foldl_rel (R := fun s t => DrainsOnly s t ∧ t.fns = s.fns) (fun s => ⟨.refl s, rfl⟩)
    (fun _ _ _ h k => ⟨h.1.trans k.1, k.2.trans h.2⟩) drainOne_drains l s

theorem drainFn_drains (fn : Nat) (s : State) : DrainsOnly s (drainFn fn s) ∧ (drainFn fn s).fns = s.fns := foldl_drainOne _ s

/-- R336: every ACTIVE or ERROR context of the function drains. -/
theorem drainFn_draining {fn c : Nat} {s : State} (host : c ≠ 0) (owner : (getCtx s c).owner = fn)
    (st : (getCtx s c).st = .active ∨ (getCtx s c).st = .error) : (getCtx (drainFn fn s) c).st = .draining := by
  have entry : (c, getCtx s c) ∈ s.ctxs := by
    cases found : Tbl.find? s.ctxs c with
    | some x =>
      have value : getCtx s c = x := by simp [getCtx, Tbl.get, found]
      exact value ▸ Tbl.find_mem found
    | none =>
      have value : getCtx s c = {} := by simp [getCtx, Tbl.get, found]
      simp [value] at st
  have named : c ∈ (s.ctxs.filter fun c => decide (c.1 ≠ 0) && c.2.owner == fn && decide (c.2.st ≠ .free)).map (·.1) := by
    refine List.mem_map.mpr ⟨_, List.mem_filter.mpr ⟨entry, ?_⟩, rfl⟩
    rcases st with st | st <;> simp [host, owner, st]
  exact foldl_reaches (P := fun t : State => (getCtx t c).st = .draining) named (fun t => drainOne_draining t c)
    (fun t x d => (drainOne_drains t x).1.draining d) s

/-! ### Resets of functions (R336) -/

theorem resetFn_drains (fn : Nat) (s : State) : DrainsOnly s (resetFn fn s) := by
  obtain ⟨drains, -⟩ := drainFn_drains fn s
  refine drains.trans ⟨?_, fun _ => rfl, fun _ => .inl rfl⟩
  rfl

/-- R336: the supply values of a function, a latched request kept without a response. -/
def suppliedFn (fn : Nat) (f : Fn) : Fn := { freshFn fn with orphans := f.orphans ++ f.latched.toList }

theorem getFn_resetFn_self (fn : Nat) (s : State) : getFn (resetFn fn s) fn = suppliedFn fn (getFn s fn) := by
  obtain ⟨-, fns⟩ := drainFn_drains fn s
  have same : getFn (drainFn fn s) fn = getFn s fn := by unfold getFn; rw [fns]
  rw [← same]
  exact getFn_modFn_self

theorem getFn_resetFn_ne {fn f : Nat} (h : f ≠ fn) (s : State) : getFn (resetFn fn s) f = getFn s f := by
  obtain ⟨-, fns⟩ := drainFn_drains fn s
  have same : getFn (drainFn fn s) f = getFn s f := by unfold getFn; rw [fns]
  exact (Tbl.get_put_ne h).trans same

theorem resetFn_draining {fn c : Nat} {s : State} (host : c ≠ 0) (owner : (getCtx s c).owner = fn)
    (st : (getCtx s c).st = .active ∨ (getCtx s c).st = .error) : (getCtx (resetFn fn s) c).st = .draining :=
  drainFn_draining host owner st

/-- R336: functions that are reset one after the other. -/
def resetFns (fs : List Nat) (s : State) : State := fs.foldl (fun s f => resetFn f s) s

theorem resetFns_drains (fs : List Nat) (s : State) : DrainsOnly s (resetFns fs s) :=
  foldl_rel DrainsOnly.refl (fun _ _ _ => DrainsOnly.trans) (fun s f => resetFn_drains f s) fs s

theorem getFn_resetFns_out {fs : List Nat} {f : Nat} (h : f ∉ fs) (s : State) : getFn (resetFns fs s) f = getFn s f := by
  induction fs generalizing s with
  | nil => rfl
  | cons g fs ih =>
    rw [List.mem_cons, not_or] at h
    exact (ih h.2 (resetFn g s)).trans (getFn_resetFn_ne h.1 s)

theorem getFn_resetFns_in {fs : List Nat} {f : Nat} (once : fs.Nodup) (h : f ∈ fs) (s : State) :
    getFn (resetFns fs s) f = suppliedFn f (getFn s f) := by
  induction fs generalizing s with
  | nil => exact absurd h List.not_mem_nil
  | cons g fs ih =>
    obtain ⟨out, once⟩ := List.nodup_cons.mp once
    rcases List.mem_cons.mp h with rfl | later
    · exact (getFn_resetFns_out out (resetFn f s)).trans (getFn_resetFn_self f s)
    · have other : f ≠ g := fun same => out (same ▸ later)
      exact (ih once later (resetFn g s)).trans (congrArg _ (getFn_resetFn_ne other s))

theorem resetFns_draining {fs : List Nat} {c : Nat} {s : State} (host : c ≠ 0) (owner : (getCtx s c).owner ∈ fs)
    (st : (getCtx s c).st = .active ∨ (getCtx s c).st = .error) : (getCtx (resetFns fs s) c).st = .draining := by
  induction fs generalizing s with
  | nil => exact absurd owner List.not_mem_nil
  | cons g fs ih =>
    have drains := resetFn_drains g s
    rcases drains.st c with same | d
    · rcases List.mem_cons.mp owner with now | later
      · exact (resetFns_drains fs (resetFn g s)).draining (resetFn_draining host now st)
      · exact ih (s := resetFn g s) (by rw [drains.owner]; exact later) (by rw [same]; exact st)
    · exact (resetFns_drains fs (resetFn g s)).draining d

theorem exec_reset {s : State} {fn : Nat} {i : Instr} {fs : List Nat} (host : s.sup.perst = false) (in40 : s.sup.in40 = true) (lt : fn < 32)
    (h : (i, fs) ∈ [(Instr.flr fn, if fn = 0 then List.range 32 else [fn]),
      (.vfDisable fn, if fn = 0 then (List.range 31).map (· + 1) else [fn])]) : exec i s = .next (resetFns fs s) ∧ fs.Nodup := by
  have serves : ¬(32 ≤ fn ∨ s.sup.perst = true ∨ s.sup.in40 = false) := by simp [host, in40]; omega
  simp only [List.mem_cons, Prod.mk.injEq, List.not_mem_nil, or_false] at h
  by_cases pf : fn = 0
  · simp only [if_pos pf] at h
    rcases h with ⟨rfl, rfl⟩ | ⟨rfl, rfl⟩
    · exact ⟨congrArg Host.Outcome.next ((if_neg serves).trans (if_pos pf)), List.nodup_range⟩
    · exact ⟨congrArg Host.Outcome.next ((if_neg serves).trans (if_pos pf)), List.nodup_range.map fun _ _ => Nat.succ.inj⟩
  · simp only [if_neg pf] at h
    rcases h with ⟨rfl, rfl⟩ | ⟨rfl, rfl⟩
    all_goals exact ⟨congrArg Host.Outcome.next ((if_neg serves).trans (if_neg pf)), List.nodup_singleton _⟩

/-! ### PERST# (R337, R423) -/

/-- R423: a table whose every entry takes a value of its own key, read at a key. -/
theorem Tbl.find_map_keyed {α : Type} (t : Tbl α) (f : Nat → α → α) (k : Nat) :
    Tbl.find? (t.map fun e => (e.1, f e.1 e.2)) k = (Tbl.find? t k).map (f k) := by
  induction t with
  | nil => rfl
  | cons e t ih =>
    obtain ⟨i, a⟩ := e
    rw [List.map_cons]
    unfold Tbl.find?
    dsimp only
    split
    next same => rw [same]; rfl
    next => exact ih

/-- R423: a function whose BAR2 has its supply size. -/
def resizedFn (k : Nat) (f : Fn) : Fn := { f with bar2Log := (freshFn k).bar2Log }

/-- R423: the module without its host. -/
def withoutHost (s : State) : State :=
  { s with sup := { s.sup with perst := true }, fns := s.fns.map fun f => (f.1, resizedFn f.1 f.2) }

theorem getFn_withoutHost (s : State) (f : Nat) : getFn (withoutHost s) f = ((Tbl.find? s.fns f).map (resizedFn f)).getD {} :=
  congrArg (fun x : Option Fn => x.getD {}) (Tbl.find_map_keyed s.fns resizedFn f)

theorem getFn_withoutHost_known {s : State} {f : Nat} (h : (Tbl.find? s.fns f).isSome = true) :
    getFn (withoutHost s) f = resizedFn f (getFn s f) := by
  obtain ⟨x, found⟩ := Option.isSome_iff_exists.mp h
  have value : getFn s f = x := by simp [getFn, Tbl.get, found]
  rw [getFn_withoutHost, found, value]
  rfl

theorem getFn_withoutHost_vf {s : State} {f : Nat} (vf : f ≠ 0) : getFn (withoutHost s) f = { getFn s f with bar2Log := 32 } := by
  have size : (freshFn f).bar2Log = 32 := by simp [freshFn, vf]
  cases found : Tbl.find? s.fns f with
  | some x =>
    rw [getFn_withoutHost_known (by simp [found])]
    exact congrArg (fun n => { getFn s f with bar2Log := n }) size
  | none =>
    have value : getFn s f = {} := by simp [getFn, Tbl.get, found]
    rw [getFn_withoutHost, found, value]
    rfl

/-- R337: a function keeps its vectors that are masked. -/
def maskedOnly (f : Fn) : Fn := { f with msixPend := f.msixPend.filter fun v => msixMasked f v }

theorem getFn_flushMsix_self (s : State) (fn : Nat) : getFn (flushMsix s fn) fn = maskedOnly (getFn s fn) := getFn_modFn_self

theorem getFn_flushMsix_ne {s : State} {fn f : Nat} (h : f ≠ fn) : getFn (flushMsix s fn) f = getFn s f := Tbl.get_put_ne h

/-- Of the machine only functions and the messages sent have changed, and those sent before stand. -/
def MsixOnly (s t : State) : Prop := (∃ fns msix, t = { s with fns := fns, msix := msix }) ∧ ∀ m ∈ s.msix, m ∈ t.msix

theorem flushMsix_only (s : State) (fn : Nat) : MsixOnly s (flushMsix s fn) := ⟨⟨_, _, rfl⟩, fun _ h => List.mem_append_left _ h⟩

theorem foldl_flushMsix_only (fs : List Nat) (s : State) : MsixOnly s (fs.foldl flushMsix s) := by
  refine foldl_rel (R := MsixOnly) (fun s => ⟨⟨_, _, rfl⟩, fun _ h => h⟩) (fun a b c h k => ⟨?_, fun m hm => k.2 m (h.2 m hm)⟩) flushMsix_only fs s
  obtain ⟨⟨_, _, rfl⟩, -⟩ := h
  obtain ⟨⟨_, _, rfl⟩, -⟩ := k
  exact ⟨_, _, rfl⟩

theorem getFn_foldl_flushMsix_out {fs : List Nat} {f : Nat} (h : f ∉ fs) (s : State) : getFn (fs.foldl flushMsix s) f = getFn s f := by
  induction fs generalizing s with
  | nil => rfl
  | cons g fs ih =>
    rw [List.mem_cons, not_or] at h
    exact (ih h.2 (flushMsix s g)).trans (getFn_flushMsix_ne h.1)

/-- R337: each function of a list has sent its messages that are not masked. -/
theorem foldl_flushMsix_sent {fs : List Nat} {f : Nat} (once : fs.Nodup) (h : f ∈ fs) (s : State) :
    getFn (fs.foldl flushMsix s) f = maskedOnly (getFn s f) ∧
    ∀ v ∈ (getFn s f).msixPend, msixMasked (getFn s f) v = false → (f, v) ∈ (fs.foldl flushMsix s).msix := by
  induction fs generalizing s with
  | nil => exact absurd h List.not_mem_nil
  | cons g fs ih =>
    obtain ⟨out, once⟩ := List.nodup_cons.mp once
    rcases List.mem_cons.mp h with rfl | later
    · refine ⟨(getFn_foldl_flushMsix_out out _).trans (getFn_flushMsix_self s f), fun v hv clear => ?_⟩
      refine (foldl_flushMsix_only fs (flushMsix s f)).2 _ (List.mem_append_right _ (List.mem_map.mpr ⟨v, ?_, rfl⟩))
      exact List.mem_filter.mpr ⟨hv, by rw [clear]; rfl⟩
    · have other : f ≠ g := fun same => out (same ▸ later)
      have rest := ih once later (flushMsix s g)
      rw [getFn_flushMsix_ne other] at rest
      exact rest

end Sys2Proof.Machine
end

section
/-!
O55, from BAR2, the resets of functions and PERST#.
-/
namespace Sys2Proof.Machine

/-- Settles O55: accesses through BAR2, the resets of functions, and PERST# with its end. -/
theorem hostAccessAndFunctionResets : Obligations.HostAccessAndFunctionResets := by
  unfold Obligations.HostAccessAndFunctionResets
  refine ⟨fun s fn off len data => ⟨fun h w => exec_bar2Access_refused h, fun up in40 within hd held awake hp => ⟨?pf, ?unmapped, ?vf⟩⟩,
    fun s fn i fs host in40 lt h => ?reset, fun s fn gone => ⟨?flr, ?vfDisable⟩,
    fun s => ⟨?perst, fun gone => ?back, fun host => congrArg Host.Outcome.next (if_neg (by simp [host]))⟩⟩
  case pf =>
    rintro a runs rfl undrained at' window rfl
    refine ⟨?_, fun whole => ?_⟩
    · rw [exec_bar2Access_served up in40 (by omega) within (by simp), if_neg (by simp [undrained]), if_pos rfl,
        bar2Pf_reads at' window awake hd held]
    · have row : exec (.bar2Access 0 true off len data) s = .next _ := (exec_bar2Access_served up in40 (by omega) within fun _ => whole).trans
        (congrArg Host.Outcome.next ((if_neg (by simp [undrained])).trans ((if_pos rfl).trans (bar2Pf_writes at' window awake hd hp whole))))
      exact ⟨_, row, rfl, fun x out => memRead_pokeRuns_out out, rfl⟩
  case unmapped =>
    intro lt h
    have none' (w : Bool) : (if fnDrains s fn then bar2None fn w len s else if fn = 0 then bar2Pf w off len data s
        else bar2Vf fn w off len data s) = bar2None fn w len s := by
      rcases h with drains | ⟨vf, none'⟩
      · exact if_pos drains
      · split
        · rfl
        · exact (if_neg (by omega)).trans (bar2Vf_none none')
    refine ⟨?_, fun whole => ?_⟩
    · rw [exec_bar2Access_served up in40 lt within (by simp), none']
      rfl
    · rw [exec_bar2Access_served up in40 lt within fun _ => whole, none']
      rfl
  case vf =>
    intro c e bs vf lt undrained view
    refine ⟨fun reads => ?_, fun whole writes => ?_⟩
    · rw [exec_bar2Access_served up in40 lt within (by simp), if_neg (by simp [undrained]), if_neg (by omega), bar2Vf_reads view awake reads]
    · rw [exec_bar2Access_served up in40 lt within fun _ => whole, if_neg (by simp [undrained]), if_neg (by omega),
        bar2Vf_writes view awake writes]
  case reset =>
    obtain ⟨row, once⟩ := exec_reset host in40 lt h
    have drains := resetFns_drains fs s
    refine ⟨_, row, fun f hf => getFn_resetFns_in once hf s, fun f hf => getFn_resetFns_out hf s,
      fun c host owner st => resetFns_draining host owner st, ?_⟩
    rw [drains.frame]
    exact ⟨rfl, rfl, rfl, rfl⟩
  case flr => exact congrArg Host.Outcome.next (if_pos (.inr (.inl gone)))
  case vfDisable => exact congrArg Host.Outcome.next (if_pos (.inr (.inl gone)))
  case perst =>
    exact ⟨withoutHost s, rfl, rfl, rfl, fun f vf => getFn_withoutHost_vf vf, fun known => getFn_withoutHost_known known⟩
  case back =>
    have row : exec .perstDeassertion s = .next ((List.range 32).foldl flushMsix { s with sup := { s.sup with perst := false } }) :=
      congrArg Host.Outcome.next (if_pos gone)
    obtain ⟨⟨fns, msix, frame⟩, -⟩ := foldl_flushMsix_only (List.range 32) { s with sup := { s.sup with perst := false } }
    refine ⟨_, row, ?_, fun f lt => ?_, ?_⟩
    · rw [frame]
    · obtain ⟨masked, sent⟩ := foldl_flushMsix_sent List.nodup_range (List.mem_range.mpr lt) { s with sup := { s.sup with perst := false } }
      exact ⟨congrArg Fn.msixPend masked, sent⟩
    · rw [frame]

end Sys2Proof.Machine
end
